-- ==== Sys2Proof/Word.lean ====
section
/-! DEFINITION. Words, bytes and the table type that holds sparse numbered storage. -/

namespace Sys2Proof

/-- A 32-bit word (DW) of a command packet, a record, a message or a register. -/
abbrev Word := BitVec 32

/-- A byte. -/
abbrev Byte := BitVec 8

/-- Sparse storage by number: keys strictly rising and no entry equal to the table's default, so that
equal contents are equal lists (log entry 2). The default is given to the reading operation. -/
abbrev Tab (α : Type) := List (Nat × α)

end Sys2Proof
end

