-- ==== Sys2Proof/Shapes.lean ====
section
/-! DEFINITION. The small types that the commands' operands and the state share: the enumerations of
the spec's code tables and the structures that cross the hub's boundary. -/

namespace Sys2Proof

/-- Operating modes (Table 3.4, R55). -/
inductive Mode where
  | dormant | sentry | survey | field | holdover | safe
  deriving DecidableEq, Repr

/-- Supplies with a monitor: the run rails (R43), then VDD_LV and VDD_USB (R44). -/
inductive Rail where
  | vcore | vsram | vphy | vphyh | vddioA | vddioB | vddioC | vddLv | vddUsb
  deriving DecidableEq, Repr

/-- Link states (Table 6.4, R180). -/
inductive LinkSt where
  | down | survey | up | retrain
  deriving DecidableEq, Repr

/-- Depth of a direction (R131). -/
inductive Doze where
  | awake | light | deep
  deriving DecidableEq, Repr

/-- Steps of a training attempt (R124). -/
inductive TrainPhase where
  | idle | pll | comma | ts1 | ts2 | linkLayer
  deriving DecidableEq, Repr

/-- Tunnel transactions of the root (R208 to R214, R219, R222). -/
inductive TunOpKind where
  | open | close | suspend | reopen | modify
  deriving DecidableEq, Repr

/-- Time states (Table 9.1, R262). -/
inductive TimeSt where
  | unset | acquiring | locked | free | holdover
  deriving DecidableEq, Repr

/-- Engine states (Table 10.1, R298). -/
inductive EngSt where
  | idle | armed | prepared | running | waiting | paused
  deriving DecidableEq, Repr

/-- A command packet with the facts the transport keeps about it (R367, R375, R376): the submitting hub
and slice, whether a slice of this hub submitted it (`here`) or a COMMAND message brought it, SYS, the
submission queue, the tag it holds, DW0 to DW15, and its indirect input. -/
structure Cmd where
  hub : Nat := 0
  slice : Nat := 0
  here : Bool := true
  sys : Bool := false
  sq : Nat := 0
  htag : Nat := 0
  dw : List Word := []
  data : List Byte := []
  outOk : Bool := true
  deriving DecidableEq, Repr

/-- The initial value used where a command field is unwritten. -/
def Cmd.init : Cmd := {}

/-- A host token on the UFP (R446, R447): address, endpoint, transfer type (0 control, 1 isochronous, 2 bulk,
3 interrupt), the pipe's maximum packet, the port a split token names, and whether the core was late. -/
structure UsbTok where
  addr : Nat := 0
  ep : Nat := 0
  typ : Nat := 0
  maxPkt : Nat := 0
  split : Option Nat := none
  /-- the complete-split of a split transaction, which else is the start-split (14 R453) -/
  complete : Bool := false
  late : Bool := false
  deriving DecidableEq, Repr

/-- A sideband frame (Table 17.3): TYPE, LINK, DF, the reserved bits of byte 1, MSGID, ACKID and payload; `sound` says of a
received frame that the line brought it with no code violation, a matching CRC and the length LEN gives (R517). -/
structure SbFrame where
  typ : Nat := 0
  link : Nat := 0
  df : Bool := false
  msgid : Nat := 0
  ackid : Nat := 0
  payload : List Byte := []
  rsv : Nat := 0
  sound : Bool := true
  deriving DecidableEq, Repr

/-- A tunnel packet: the header fields of Table 6.1 and the payload. -/
structure TxPkt where
  /-- LSEQ (06 R148) -/
  lseq : BitVec 12 := 0
  /-- TUNNEL (06 R148) -/
  tunnel : Nat := 0
  /-- TUNCLASS (06 R148) -/
  tclass : Nat := 0
  /-- TC (06 R148) -/
  tc : Nat := 0
  /-- GEN (06 R148) -/
  gen : BitVec 8 := 0
  /-- SEALED (06 R148) -/
  sealed : Bool := false
  /-- URGENT (06 R148) -/
  urgent : Bool := false
  /-- FIRST (06 R148) -/
  first : Bool := true
  /-- LAST (06 R148) -/
  last : Bool := true
  /-- HOPS (06 R148) -/
  hops : Nat := 0
  /-- SEALCNT (06 R148) -/
  sealCnt : Word := 0
  /-- SRCHUB (06 R148) -/
  srcHub : Nat := 0
  /-- KPHASE (06 R148) -/
  kphase : Bool := false
  /-- payload bytes (06 R147) -/
  payload : List Byte := []
  /-- in the replay buffer of a link: the key it was sealed under, which its bytes keep (06 R156) -/
  key : List Byte := []
  deriving DecidableEq, Repr

/-- The initial value used where a packet is unwritten. -/
def TxPkt.init : TxPkt := {}

/-- The special symbols of Table 5.2. -/
inductive KCode where
  /-- K28.5: comma, idle, first symbol of the ordered sets -/
  | com
  /-- K28.0: clock compensation -/
  | skp
  /-- K27.7: start of a tunnel packet -/
  | stp
  /-- K28.2: start of a link control packet -/
  | slc
  /-- K29.7: end of a good packet -/
  | fin
  /-- K30.7: end of a packet that the transmitter abandons -/
  | ebd
  /-- K28.1: time marker -/
  | tmk
  /-- K28.3: doze -/
  | doz
  deriving DecidableEq, Repr

/-- A symbol of a lane: a special symbol or a data byte (R104, R106). -/
inductive Sym where
  | k (c : KCode)
  | d (b : Byte)
  deriving DecidableEq, Repr

/-- What the lanes in use of a link have brought: per logical lane the running disparity before the first symbol time (bit
set: positive), and per symbol time a ten-bit code group on each lane, first bit sent highest (R104, R105). -/
structure Wave where
  /-- running disparity of each lane (05 R104) -/
  rd : BitVec 4 := 0
  /-- code groups by symbol time and lane (05 R105) -/
  groups : List (List (BitVec 10)) := []
  deriving DecidableEq, Repr

/-- What the LVDS pairs of a head carry over the active part of a line: per pixel period the seven slots of each data pair, slot 6
first, on link A and on link B (R402, R403). -/
structure LinePins where
  /-- link A (13 R402) -/
  a : List (List (List Bool)) := []
  /-- link B (13 R402) -/
  b : List (List (List Bool)) := []
  deriving DecidableEq, Repr

/-- A check that fires (R580): the domain, the CHECK code and what the hub sees with it. -/
structure Hit where
  /-- domain code (19 R584) -/
  dom : Nat := 0
  /-- CHECK (19 R580) -/
  check : Nat := 0
  /-- LOCATION (19 R600) -/
  loc : Word := 0
  /-- SECDED syndrome (19 R600) -/
  detail : Nat := 0
  /-- what the bad word holds, by array: TID (plus 4096 in a replay buffer), command tag (plus 512 for a received command by its
  place), leg, USB port, MAC + 4 x direction + 8 x place, CAN controller + 2 x place, request place, key slot, slice + 64 x (1 +
  place of a held record); for a head, lines not composed; for a link, the TID plus 4096 of a packet hit on the way to the lanes
  (06 R155, 19 R585) -/
  unit : Nat := 0
  /-- the word is in use; for a link, a packet in flight was hit (19 R582, R584) -/
  inUse : Bool := false
  /-- no sound copy is left: of a two-copy array, or the reference copy of a table (19 R583, R585) -/
  noCopy : Bool := false
  /-- the bad data has passed the balls (19 R596) -/
  gone : Bool := false
  deriving DecidableEq, Repr

end Sys2Proof
end

