-- ==== Sys2Proof/Syntax.lean ====
section
/-! DEFINITION. The commands of the block: one constructor per row of the opcode table. -/

namespace Sys2Proof

/-- The commands, events and messages that act on the hub, one constructor per row of the table. A host command carries its packet
(`c : Cmd`); an event carries what the outside world supplies with it (log entry 11). -/
inductive Instr where
  /-- VAUX falls below its POR threshold and the whole hub resets, including retained state, and then rests in Sentry. (R49) -/
  | powerOnReset
  /-- RESET_N is held low for at least 10 µs and the whole hub resets, including retained state. (R50) -/
  | resetNAssert
  /-- RESET_N rises; the hub samples the straps and enters Sentry. (R29) `pins`: ACT[13:0]; levels of WAKE_N and TEST_EN. -/
  | resetNRelease (pins : BitVec 14) (wakeN testEn : Bool)
  /-- 100 µs after VDDIO_C first becomes valid with RESET_N high, the straps are sampled late. (R30) As RESET_N_RELEASE has them. -/
  | strapSampleDeferred (pins : BitVec 14) (wakeN testEn : Bool)
  /-- 20 µs after the sampling instant, ACT[31:0] are driven low or left high impedance according to SAFELVL. (R31) -/
  | actSafelvlDrive
  /-- A supply monitor has seen its rail above threshold for 100 µs, so the rail becomes valid and blocks on it become present. (R43) -/
  | railValid (r : Rail)
  /-- A rail has been below threshold for 2 µs; a run-rail loss sends the hub to Sentry within 5 µs with a core reset. (R48) -/
  | railInvalid (r : Rail)
  /-- WAKE_N has been low for 10 µs, or sideband activity has lasted 20 µs, and the hub leaves Dormant for Sentry. (R61) `byPin`: WAKE_N, otherwise sideband activity. -/
  | wakeReason (byPin : Bool)
  /-- The dormancy conditions have held for the dormancy delay and the hub enters Dormant. (R62) `wakeN`: level of WAKE_N. -/
  | dormancyDelayExpiry (wakeN : Bool)
  /-- With all run rails valid and a run request pending or the Safe latch set, the hub releases the core, starts the pace loop and begins image load and training. (R57) `failed`: a checker fails its self-test. -/
  | surveyEntry (failed : Bool)
  /-- PE_PERSTn_N rises; this is a run request and starts PCIe training under the PCIe timing rules. (R63) -/
  | perstRelease (port : Nat)
  /-- PE_PERSTn_N falls and resets that host port's PCIe logic and every slice bound to it. (R49) -/
  | hostPortReset (port : Nat)
  /-- 1.0 s after PE_PERSTn_N rises without an applied image, the port stops answering with Retry Status and uses built-in identifiers. (R66) -/
  | pcieRetryStatusEnd (port : Nat)
  /-- Image streaming and verification complete and the image is applied: overrides, safe levels and the retained policy copy. (R573) `badA`, `badB`: reading that slot failed beyond recovery (Table 19.2). -/
  | imageApply (badA badB : Bool)
  /-- Once the Field conditions are met, the hub enters Field, starts the startup traverse, the HEALTH interval and its heads, and requests the rate move. (R70) -/
  | fieldEntry
  /-- A non-root hub in Survey has had no upstream carrier for 10 s with WAKE_N high, and returns to Sentry. (R57) `wakeN`: level of WAKE_N. -/
  | surveyCarrierTimeout (wakeN : Bool)
  /-- The DELAY of a DEV_MODE request ends and the requested transition to Sentry or Safe is made. (R394) -/
  | devModeDelayExpiry
  /-- Every 1 µs the pace monitor counts the ring cycles and reports the pace index. (R83) cycles completed by the four replica rings, whether one has a stall or an illegal code, and the die temperature. -/
  | paceSample (rings : List Nat) (fault : Bool) (tj : BitVec 8)
  /-- 10 µs after the ring fault clears, the monitor becomes valid and VID returns to its previous code. (R84) -/
  | paceMonitorRevalid
  /-- The monitor has stayed invalid for 1 ms and a fabric-domain fault is reported. (R84) -/
  | paceMonitorTimeout
  /-- At the end of each 100 µs interval, the pace loop takes P_min and applies the shortfall, release, shedding and VID steps. (R92) -/
  | paceIntervalEnd
  /-- Command setting the VID floor, ceiling, margin and loop mode. (R101) -/
  | paceSet (c : Cmd)
  /-- Command returning the pace state. (R102) -/
  | paceQuery (c : Cmd)
  /-- The SKP counter reaches its limit and a SKP ordered set is sent at the next boundary. (R107) -/
  | skpSend (link : Nat)
  /-- The lane PLL locks and COM is sent on every lane of the agreed width. (R124) -/
  | pllLock (link : Nat)
  /-- 10 µs after the comma pattern starts, lanes without symbol lock narrow the link width. (R114) -/
  | widthFallback (link : Nat)
  /-- 8 identical TS1 on every lane in use set deskew and lane order, and TS2 starts. (R124) what the TS1 carry: rate, class, width, the skew in symbol times, and the lane number on each lane in use. -/
  | ts1Align (link skew : Nat) (sets : List (List Sym))
  /-- After 8 TS2 received and 16 sent, the link is handed to the link layer. (R124) -/
  | ts2Handoff (link : Nat) (sets : List (List Sym))
  /-- A training attempt misses its 10 µs, 200 µs or 2 ms limit and fails, and a new agreement starts. (R125) -/
  | trainingTimeout (link : Nat)
  /-- After three failures at Survey rate, the 100 ms wait ends and training restarts from the full proposal. (R126) -/
  | trainingRoundWaitEnd (link : Nat)
  /-- Replay buffers empty, or 100 µs pass, and the lanes of an announced retrain leave UP to retrain. (R127) -/
  | retrainQuiesced (link : Nat)
  /-- A lane in use has been below squelch for 40 ns or lost lock, and the link enters loss of signal. (R128) -/
  | losStart (link : Nat)
  /-- Every lane in use decodes 16 clean symbol times and the loss of signal ends. (R129) `ns`: length of the loss. -/
  | losEnd (link ns : Nat)
  /-- A loss of signal reaches 4 µs and the epoch ends. (R176) -/
  | losEpochTimeout (link : Nat)
  /-- The link has been in RETRAIN for 10 ms without becoming UP, and the epoch ends. (R176) -/
  | retrainTimeout (link : Nat)
  /-- An idle direction reaches its light timeout and enters light doze with a DOZ ordered set. (R132) -/
  | dozeLightTimeout (link : Nat)
  /-- An idle direction reaches its deep timeout and moves to deep doze. (R132) -/
  | dozeDeepTimeout (link : Nat)
  /-- A received DOZ ordered set puts the receive direction into the named doze depth. (R131) -/
  | dozReceive (link : Nat) (d : Doze)
  /-- A dozing direction starts to wake ahead of a counted opening or because a packet is due. (R133) -/
  | dozeWakeStart (link : Nat)
  /-- The wake latency ends after a SKP ordered set and the direction is awake. (R134) -/
  | dozeWakeComplete (link : Nat)
  /-- The receiver has not regained lock within twice the wake latency and reports a loss of signal. (R134) -/
  | wakeLockTimeout (link : Nat)
  /-- A compliance pattern's DURATION ends and the link trains as newly attached. (R145) the checker's errors per lane and bits per lane in units of 2^20. -/
  | patternDurationEnd (link : Nat) (got : List (List Bool))
  /-- Command setting a link's rate limit, optionally retraining at once. (R140) -/
  | linkRate (c : Cmd)
  /-- Command setting the doze policy of a transmit direction. (R142) -/
  | linkSleep (c : Cmd)
  /-- Command waking a transmit direction. (R143) -/
  | linkWake (c : Cmd)
  /-- Command starting an announced retrain of a link. (R144) -/
  | linkRetrain (c : Cmd)
  /-- Command starting or ending a compliance pattern on a link. (R145) -/
  | linkPattern (c : Cmd) (got : List (List Bool))
  /-- Command replacing or restoring one entry of the working equalisation table. (R146) -/
  | linkEqOverride (c : Cmd)
  /-- Command returning the state and partner of a link. (R185) -/
  | linkQuery (c : Cmd)
  /-- Command returning, and optionally clearing, one group of link counters. (R186) -/
  | linkCounters (c : Cmd)
  /-- A tunnel packet arrives whole and is checked, sequenced and accepted, discarded or NAKed. (R158) `fault`: 0 none, 1 LCRC mismatch, 2 malformed, 3 ended with EBD, 4 the seal's tag fails. -/
  | tunnelPacketReceive (link : Nat) (w : Wave)
  /-- A local source endpoint offers a packet, which the hop looks up and queues. (R205) -/
  | localPacketOffer (tid : Nat) (urgent first last : Bool) (payload : List Byte)
  /-- An ACK purges acknowledged packets from the replay buffer. (R160) -/
  | ackReceive (link : Nat) (w : Wave)
  /-- A NAK purges acknowledged packets and triggers a replay. (R162) -/
  | nakReceive (link : Nat) (w : Wave)
  /-- The replay timer expires and a replay, or at the limit an announced retrain, is started. (R162) -/
  | replayTimerExpiry (link : Nat)
  /-- An ACK is sent no later than 1 µs after an accepted packet. (R159) -/
  | ackSend (link : Nat)
  /-- A required NAK is sent no later than 1 µs after its cause. (R159) -/
  | nakSend (link : Nat)
  /-- An FC_UPDATE raises the credit limits of four traffic classes. (R167) -/
  | fcUpdateReceive (link : Nat) (w : Wave)
  /-- INIT_FC sets initial credit limits and, with IDENT, brings the link UP. (R174) -/
  | initFcReceive (link : Nat) (w : Wave)
  /-- The partner's IDENT is checked and the epoch continues or a new epoch starts. (R173) the fields of Table 6.2. -/
  | identReceive (link : Nat) (w : Wave)
  /-- Every 2 µs, until the partner's IDENT arrives, IDENT is sent again. (R173) -/
  | identRepeat (link : Nat)
  /-- 2 µs after credits are first freed with no update sent, an FC_UPDATE is sent. (R168) -/
  | fcUpdateTimer (link : Nat)
  /-- Every 100 µs while awake, an FC_UPDATE refresh is sent. (R168) -/
  | fcRefresh (link : Nat)
  /-- A class with a packet ready has waited 100 µs for credit and FC_STALL counts. (R169) -/
  | fcStall (link tc : Nat)
  /-- A HELLO is forwarded toward the root with its route extended, or at the root is numbered or refused. (R188) `ws` are W0 to W7. -/
  | hello (link : Nat) (ws : List Word)
  /-- Every 100 ms an unnumbered hub sends HELLO again. (R191) -/
  | helloRepeat
  /-- An ASSIGN is forwarded by route, or taken by its subject, which answers NUMBERED. (R193) -/
  | assign (ws : List Word)
  /-- A NUMBERED message teaches the CTRL route for a hub number. (R195) -/
  | numbered (link : Nat) (ws : List Word)
  /-- The root acts on a reported link change by suspending, reopening or closing tunnels and reserving or freeing numbers. (R198) -/
  | linkchg (link : Nat) (ws : List Word)
  /-- A hop writes a Gazetteer entry from a TUN_PROG, checks local facts, and answers TUN_ACK. (R189) -/
  | tunProg (ws : List Word)
  /-- A hop applies a new state to its entry, and passes link-local ones on. (R212) `link` of a link-local one. -/
  | tunSet (link : Option Nat) (ws : List Word)
  /-- The root takes a hop's acknowledgement and advances the open, close or change of a tunnel. (R209) -/
  | tunAck (ws : List Word)
  /-- Initial enumeration ends after 200 ms without a new HELLO or 5 s, and hubs are numbered in preorder. (R192) -/
  | initialEnumerationEnd
  /-- The 2 s grace of a downstream link ends and LINKCHG EVENT 2 is sent. (R197) -/
  | reattachGraceExpiry (link : Nat)
  /-- 2.010 s after an epoch ends, the acting root closes its hops of crossing tunnels. (R199) -/
  | actingRootClose
  /-- A hop has not acknowledged 10 ms after an open step began and the open fails with TIMEOUT. (R209) -/
  | tunnelOpenStepTimeout
  /-- A CLOSING hop's queues empty, it moves to CLOSED and acknowledges. (R210) -/
  | hopCloseDrained (tid : Nat)
  /-- 10 ms after receiving CLOSING, a hop discards the remainder and moves to CLOSED. (R210) -/
  | hopCloseTimeout (tid : Nat)
  /-- A hop's close acknowledgement has not arrived 10 ms after TUN_SET CLOSING, so the root counts it closed. (R210) -/
  | closeAckTimeout (hub tid : Nat)
  /-- Command answering pending HELLOs or renumbering the tree. (R219) -/
  | treeEnumerate (c : Cmd)
  /-- Command returning the record of a hub number or unit. (R220) -/
  | treeQuery (c : Cmd)
  /-- Command making a hub reset, core kind or Safe kind. (R219) `failed`: a checker fails the self-test at Survey entry. -/
  | treeResetHub (c : Cmd) (failed : Bool)
  /-- Command evicting or readmitting a hub's subtree. (R219) -/
  | treeEvict (c : Cmd)
  /-- Command opening a tunnel across its path. (R221) -/
  | tunOpen (c : Cmd)
  /-- Command closing a tunnel in path order. (R222) -/
  | tunClose (c : Cmd)
  /-- Command adding or removing exits or changing TC or LOSSY of an OPEN tunnel. (R214) -/
  | tunModify (c : Cmd)
  /-- Command returning a Gazetteer entry, a tunnel record or the hub counters. (R223) -/
  | tunQuery (c : Cmd)
  /-- Command suspending an OPEN tunnel with CAUSE command. (R222) -/
  | tunSuspend (c : Cmd)
  /-- Command reopening a tunnel suspended by command. (R222) -/
  | tunResume (c : Cmd)
  /-- At a packet boundary the link scheduler chooses and sends the next tunnel packet. (R229) -/
  | schedulerPick (link : Nat)
  /-- A LOSSY packet exceeds the AGE limit in an egress queue and is discarded. (R231) -/
  | lossyAgeExpiry (link : Nat)
  /-- The operating gate list reaches the next entry and the gates change. (R234) -/
  | gateEntryBoundary (link : Nat)
  /-- At the switch instant a loaded slot becomes the operating gate list. (R236) -/
  | gateSwitch (link : Nat)
  /-- A graticule window opens on a link and its tunnel is served first. (R239) -/
  | windowOpen (link tid : Nat)
  /-- A graticule window closes on a link. (R239) -/
  | windowClose (link tid : Nat)
  /-- At the datum second boundary after admission, a window takes effect at every hop. (R240) -/
  | windowEffect (tid : Nat)
  /-- At the end of each credit interval the scheduler recomputes loans and allotments. (R247) -/
  | creditIntervalEnd (link : Nat)
  /-- Command setting class, urgency, admission and link scheduling parameters. (R252) -/
  | schedClassSet (c : Cmd)
  /-- Command loading a gate list slot. (R253) -/
  | schedGateLoad (c : Cmd)
  /-- Command scheduling or cancelling a gate list switch. (R254) -/
  | schedGateCommit (c : Cmd)
  /-- Command setting or removing a graticule window on a tunnel. (R255) -/
  | schedWindowSet (c : Cmd)
  /-- Command setting or removing a floor and ceiling bound on a tunnel. (R256) -/
  | schedBounds (c : Cmd)
  /-- Command returning class, bound, link or window scheduling state. (R257) -/
  | schedQuery (c : Cmd)
  /-- A qualifying PPS_IN edge is accepted or ignored and, with source PPS_IN, gives a servo measurement. (R268) `since`: 250 ps units from the edge to now. -/
  | ppsEdge (rising : Bool) (since : Nat)
  /-- 1.5 s pass without an accepted PPS edge and the time source is lost. (R270) -/
  | ppsLost
  /-- At its scheduled instant the parent starts a time exchange. (R271) `cross`: 250 ps units from that instant to the TMK at the balls. -/
  | timeExchangeStart (link cross : Nat)
  /-- A received TMK is timestamped; the child replies with a TMK, the parent sends TIMEX. (R272) `reply`: 250 ps units from the receipt to the child's reply; `since`: from the receipt to now. -/
  | tmkReceive (link reply since : Nat)
  /-- The child computes offset and delay and passes a valid exchange to the servo. (R274) the fields of Table 9.2. -/
  | timexReceive (link : Nat) (w : Wave)
  /-- A TMK or TIMEX misses its 50 µs or 100 µs limit and the exchange is invalid. (R275) -/
  | exchangeInvalidTimeout (link : Nat)
  /-- At the datum second boundary, a pending step sets datum time and raises TIME_STEP. (R264) -/
  | timeStepApply
  /-- At NS 500,000,000 of each second a time root sends a TIME message. (R279) -/
  | timeMessageSend
  /-- A received TIME message orders a step or a seconds correction at its boundary. (R280) `ws` are W0 to W7. -/
  | timeMessage (ws : List Word)
  /-- A qualifying TRIG_IN edge is stamped, reported if armed, or counted as lost. (R284) `src`: TRIG_IN number; `since`: 250 ps units from the edge to now. -/
  | trigEdge (src : Nat) (rising : Bool) (since : Nat)
  /-- A scheduled PPS_OUT or TIME_OUT edge is placed on datum time. (R283) `pin`: 0 PPS_OUT, 1 TIME_OUT. -/
  | timeOutEdge (pin : Nat)
  /-- Command returning datum time, state or servo figures. (R288) -/
  | timeQuery (c : Cmd)
  /-- Command ordering datum time and UTC fields. (R289) -/
  | timeSet (c : Cmd)
  /-- Command adjusting frequency or phase under source FREE. (R290) -/
  | timeAdjust (c : Cmd)
  /-- Command choosing the root time source and PPS polarity and delay. (R291) -/
  | timeSource (c : Cmd)
  /-- Command arming or disarming timestamp reporting on an input. (R292) -/
  | timeStampArm (c : Cmd)
  /-- Command configuring PPS_OUT or TIME_OUT. (R293) -/
  | timeOutCfg (c : Cmd)
  /-- At T − LEAD an armed engine becomes RUNNING at ENTRY. (R303) -/
  | engineLaunch (eng : Nat)
  /-- An END leg returns the engine to IDLE and reports DONE. (R314) -/
  | legEnd (eng : Nat)
  /-- A WAIT_UNTIL leg sets the due instant and waits. (R304) -/
  | legWaitUntil (eng : Nat)
  /-- At W − LEAD a waiting engine resumes running. (R304) -/
  | waitUntilRelease (eng : Nat)
  /-- A WAIT_FOR leg waits for a flag, pin or TRIG_IN condition. (R305) -/
  | legWaitFor (eng : Nat)
  /-- The condition of a WAIT_FOR is met, C is set and the engine goes on. (R305) -/
  | waitForMet (eng : Nat)
  /-- A WAIT_FOR times out, C is cleared and the engine goes on. (R305) -/
  | waitForTimeout (eng : Nat)
  /-- A SET_PIN leg hands a pin-level effect to the time base. (R307) -/
  | legSetPin (eng : Nat)
  /-- A PULSE_PIN leg hands a pulse to the time base. (R307) -/
  | legPulsePin (eng : Nat)
  /-- A PWM_PIN leg starts or changes a PWM output. (R308) -/
  | legPwmPin (eng : Nat)
  /-- A WRITE_REG leg writes a local register or posts a remote write. (R309) -/
  | legWriteReg (eng : Nat)
  /-- A READ_CHECK leg reads a register and sets C. (R309) -/
  | legReadCheck (eng : Nat)
  /-- A remote read has no reply within 100 µs and exception REMOTE is raised. (R309) -/
  | remoteReadTimeout (eng : Nat)
  /-- A SEND_CAN leg queues a frame record for its instant. (R314) -/
  | legSendCan (eng : Nat)
  /-- A SEND_MSG leg sends a TRAV message or a host event. (R310) -/
  | legSendMsg (eng : Nat)
  /-- A DISP_COMMIT leg commits staged head changes at its instant. (R314) -/
  | legDispCommit (eng : Nat)
  /-- A GATE_SWITCH leg switches a link's gate list at its instant. (R314) -/
  | legGateSwitch (eng : Nat)
  /-- A MARK leg reports TRAV_EVENT MARK unless quiet. (R314) -/
  | legMark (eng : Nat)
  /-- A LOOP leg counts and branches. (R312) -/
  | legLoop (eng : Nat)
  /-- A BRANCH leg goes to its target when its condition holds. (R312) -/
  | legBranch (eng : Nat)
  /-- A START_ENGINE leg launches another engine of the same slice. (R313) -/
  | legStartEngine (eng : Nat)
  /-- A CONFIRM_IMAGE leg confirms the running image from the HEALTH traverse. (R314) -/
  | legConfirmImage (eng : Nat)
  /-- The time base island applies a handed-over effect at its instant. (R301) -/
  | effectInstant
  /-- A PWM output starts a new period at its active level. (R307) -/
  | pwmPeriodStart (pin : Nat)
  /-- A remote register write from an engine is performed or refused. (R309) `ws` are W0 to W3. -/
  | regWrite (ws : List Word)
  /-- A remote register read from an engine is answered with REG_REPLY. (R309) `ws` are W0 to W3. -/
  | regRead (ws : List Word)
  /-- A register reply completes a remote READ_CHECK. (R309) `ws` are W0 to W3. -/
  | regReply (ws : List Word)
  /-- A TRAV message sets an exit engine's flag or reaches an exit slice. (R311) `src` is SRCHUB of its packets. -/
  | travMessage (tid src : Nat) (bytes : List Byte)
  /-- A hub checks named engines and answers READY or a refusal. (R322) `ws` are W0 to W7. -/
  | prepare (ws : List Word)
  /-- The root takes a hub's answer and commits or aborts the launch. (R322) `ws` are W0 to W7. -/
  | ready (ws : List Word)
  /-- A hub arms its prepared engines for T. (R322) `ws` are W0 to W7. -/
  | commit (ws : List Word)
  /-- A hub returns its prepared engines to IDLE. (R323) `ws` are W0 to W7. -/
  | abort (ws : List Word)
  /-- The root records a hub's launch. (R324) `ws` are W0 to W7. -/
  | launched (ws : List Word)
  /-- At T − 50 µs without every READY, the root aborts the launch. (R323) `id`: LAUNCHID. -/
  | launchReadyDeadline (id : BitVec 8)
  /-- At T − 20 µs without COMMIT, a hub returns its engines to IDLE. (R324) `id`: LAUNCHID. -/
  | preparedTimeout (id : BitVec 8)
  /-- At T + 1 ms with LAUNCHED missing, the root reports PARTIAL. (R324) `id`: LAUNCHID. -/
  | launchPartialTimeout (id : BitVec 8)
  /-- A qualifying edge on an INPUT ACT pin is stamped or feeds conditions. (R327) `since`: 250 ps units from the edge to now. -/
  | actInputEdge (pin : Nat) (rising : Bool) (since : Nat)
  /-- Command writing legs and optionally an engine's ENTRY. (R332) -/
  | travLoad (c : Cmd)
  /-- Command launching, tree-launching or resuming engines. (R330) -/
  | travArm (c : Cmd)
  /-- Command stopping engines or aborting a tree launch. (R331) -/
  | travAbort (c : Cmd)
  /-- Command returning an engine's state. (R334) -/
  | travQuery (c : Cmd)
  /-- Command returning legs from leg memory. (R333) -/
  | travReadLegs (c : Cmd)
  /-- Command setting the mode of ACT pins. (R335) -/
  | travActCfg (c : Cmd)
  /-- The hub fetches a command for a slice when quota, tag and record slot allow. (R346) The 16 DWs read, none where the read failed. -/
  | commandFetch (dws : Option (List Word))
  /-- A held event record is written once room appears in the event queue. (R356) `ok` false: the write of an event record failed. -/
  | heldRecordWrite (slice : Nat) (ok : Bool)
  /-- The coalescing TIME passes and the slice's MSI-X vector is sent. (R357) -/
  | interruptTimer (slice : Nat)
  /-- A submission queue doorbell write sets the tail for fetch. (R352) -/
  | slSqTailWrite (port slice queue value : Nat)
  /-- An event queue head write returns slots and restarts interrupt counts. (R355) -/
  | slEvqHeadWrite (port slice value : Nat)
  /-- A write to a submission queue size register enables or disables the queue. (R614) -/
  | slSqSizeWrite (port slice queue value : Nat)
  /-- A write to the event queue size register enables or disables it. (R614) -/
  | slEvqSizeWrite (port slice value : Nat)
  /-- A write of interrupt control; clearing MASK with a condition met sends the interrupt at once. (R357) -/
  | slIntCtrlWrite (port slice value : Nat)
  /-- A ring doorbell returns exit slots or submits source slots. (R475) `slots`: what the hub's reads of the source slots from its index to `value` return, slot header first. -/
  | slRingDbWrite (port slice ring value : Nat) (slots : List (List Byte))
  /-- A read of an RC counter returns and clears it. (R9) `tag` of the host's request. -/
  | rcRegisterRead (port offset tag : Nat)
  /-- A W1C write clears error summary bits and ERR_N follows. (R597) -/
  | mgErrsumWrite (port value : Nat)
  /-- A read of MG_TIME_NS latches the time snapshot. (R617) `tag` of the host's request. -/
  | mgTimeNsRead (port tag : Nat)
  /-- A write to the MSI-X table; unmasking sends a pending message. (R619) -/
  | msixTableWrite (port offset : Nat) (bytes : List Byte)
  /-- A write to any other register sets its RW fields. (R9) -/
  | registerWrite (port offset value : Nat)
  /-- A host port link goes down or to D3hot, or returns, holding or resuming its slices. (R340) the port's link, power state, PASID enable, MSI-X function mask and Device Control sizes. -/
  | hostPortPowerState (port : Nat) (up d0 memEn pasidEn funcMask : Bool) (mps mrrs : Nat)
  /-- A revoked resource has drained, or DRAIN has expired, and the holder's tunnels there close. (R349) the grant that was revoked. -/
  | revokeDrainEnd (kind index hub slice : Nat)
  /-- A freeze completes when pending commands finish or DRAIN expires. (R360) -/
  | freezeDrainEnd (slice : Nat)
  /-- 60 s after SLICE_SAVE, the cookie becomes void and the slice returns to FROZEN. (R362) -/
  | cookieExpiry (slice : Nat)
  /-- A hub fails to acknowledge a slice move within 100 ms and the root undoes it. (R363) -/
  | sliceMoveTimeout
  /-- Command binding a FREE slice to a port and PASID. (R344) -/
  | sliceCreate (c : Cmd)
  /-- Command revoking all of a slice's grants and freeing it. (R359) `far`: on a hub that is not the root, the status with which another hub fails its revokes, 0 for none. -/
  | sliceDestroy (c : Cmd) (far : Nat)
  /-- Command resetting a slice. (R358) -/
  | sliceReset (c : Cmd)
  /-- Command granting a resource to a slice. (R348) -/
  | sliceGrant (c : Cmd)
  /-- Command revoking a grant and draining the resource. (R349) -/
  | sliceRevoke (c : Cmd)
  /-- Command freezing a slice. (R360) -/
  | sliceFreeze (c : Cmd)
  /-- Command writing a slice state blob. (R362) -/
  | sliceSave (c : Cmd)
  /-- Command rebinding a frozen slice or moving one from a blob. (R361) `far`: on a hub that is not the root, what the root makes of the move: 0 taken, 1 the source does not hold the cookie, 2 no answer yet, 3 a hub is lost; `recs`: the held records (DW0 to DW7) of a source on another hub. -/
  | sliceRestore (c : Cmd) (far : Nat) (recs : List (List Word))
  /-- Command making a frozen or saved slice ACTIVE. (R364) -/
  | sliceThaw (c : Cmd)
  /-- Command creating submission queue 1 to 7. (R351) -/
  | queueCreate (c : Cmd)
  /-- Command destroying a submission queue. (R353) -/
  | queueDestroy (c : Cmd)
  /-- Command replacing the event queue. (R351) -/
  | evqSet (c : Cmd)
  /-- A target receives a remote command, discards it if stale, or holds it for execution. (R376) -/
  | commandMessage (ws : List Word)
  /-- A DATA message delivers indirect input or output of a remote command. (R376) -/
  | dataMessage (ws : List Word) (data : List Byte)
  /-- The submitting hub's reads of indirect input complete and COMMAND and DATA are sent. (R376) -/
  | indirectInputReadDone (htag : Nat) (ok : Bool) (bytes : List Byte)
  /-- The submitting hub notes that the target holds the command. (R377) -/
  | receivedMessage (ws : List Word)
  /-- Every 100 ms while it holds a command, the target sends RECEIVED again. (R376) -/
  | receivedRepeat (hub htag : Nat) (sys : Bool)
  /-- The submitting hub writes output and the completion record, or discards a stale one. (R378) `outOk`: the output was written to host memory. -/
  | completionMessage (ws : List Word) (outOk : Bool)
  /-- An event from another hub is written to the receiving slice. (R389) -/
  | eventMessage (ws : List Word)
  /-- The 50 ms or 250 ms limit passes and the submitting hub completes the command with TIMEOUT or LINK_LOST. (R377) -/
  | remoteCommandTimeout (hub htag : Nat)
  /-- A timed command reaches its launch instant and executes. (R380) `hub`: the hub a received command came from. -/
  | timedCommandDue (hub : Option Nat) (htag : Nat)
  /-- Command returning device identity and capabilities. (R393) -/
  | devInfo (c : Cmd)
  /-- Command requesting Sentry or Safe after a delay. (R394) -/
  | devMode (c : Cmd)
  /-- Command returning sampled and effective straps and safe levels. (R395) -/
  | devStraps (c : Cmd)
  /-- A head starts a frame, applying frame-bound commits, undercoat switches and CRC evaluation. (R401) `head` 0 or 1. -/
  | frameStart (head : Nat)
  /-- A head starts a line, applying line-bound commits, detecting underrun and capturing undercoat. (R410) `pins` is what the pairs carry at the balls, none when it is what the head drives. -/
  | lineStart (head line : Nat) (pins : Option LinePins)
  /-- A head accepts or rejects a FRAME message. (R409) `ws` are W0 to W7. -/
  | frameMessage (tid : Nat) (ws : List Word)
  /-- A head buffers or discards a row message. (R409) -/
  | rowMessage (tid : Nat) (bytes : List Byte) (more : Bool)
  /-- At F − 8 × LT the source sends the FRAME message. (R407) `k` is the frame. -/
  | sourceFrameSend (tid k : Nat)
  /-- At its line instant the source fetches and sends a row, marked URGENT if late. (R407) -/
  | sourceRowSend (tid : Nat)
  /-- A host memory read of a row completes, or fails and abandons the frame. (R408) -/
  | rowFetchDone (tid : Nat) (ok : Bool) (bytes : List Byte)
  /-- T_ON or T_BL elapses in panel power-up or power-down sequencing. (R404) -/
  | panelSequenceTimer (head : Nat)
  /-- Command staging head timing and power. (R427) -/
  | dispTiming (c : Cmd)
  /-- Command staging source plane parameters. (R428) -/
  | dispPlane (c : Cmd)
  /-- Command staging overlays, background or CLUT entries. (R429) -/
  | dispOverlay (c : Cmd)
  /-- Command committing staged head or source changes. (R430) -/
  | dispCommit (c : Cmd)
  /-- Command setting undercoat capture or a plane descriptor. (R431) -/
  | dispUndercoat (c : Cmd)
  /-- Command setting a pin readback CRC region. (R432) -/
  | dispCrcRegion (c : Cmd)
  /-- Command returning head, region or source state. (R433) -/
  | dispQuery (c : Cmd)
  /-- The hub takes a host SETUP, buffers and forwards it for a virtual port, or repeats it. (R447) -/
  | usbSetupToken (t : UsbTok) (bytes : List Byte)
  /-- The hub answers a host OUT from local state. (R447) -/
  | usbOutToken (t : UsbTok) (pid : Nat) (bytes : List Byte)
  /-- The hub answers a host PING from local state. (R447) -/
  | usbPingToken (t : UsbTok)
  /-- The hub answers a host IN from prefetched data, or NAK. (R447) `acked`: the host acknowledges what it gets. -/
  | usbInToken (t : UsbTok) (acked : Bool)
  /-- The hub executes a hub-class request from the host on a port. (R438) -/
  | usbHubRequest (bmType bRequest wValue wIndex wLength : Nat)
  /-- A bus reset on the UFP powers off every port and abandons proxied work. (R457) -/
  | usbBusReset
  /-- USB_UP_VBUS becomes valid or invalid and the UFP attaches or detaches. (R436) -/
  | vbusChange (valid : Bool)
  /-- A received SOF is stamped and a SOFREP sent. (R454) -/
  | usbSof (mframe : Nat)
  /-- The far hub starts a remote microframe and adjusts its length. (R455) -/
  | microframeStart (port : Nat)
  /-- USB_OC_N has stayed low 8 ms and the port is powered off with overcurrent set. (R441) -/
  | overcurrentFilter (port : Nat)
  /-- Attach has been seen 100 ms and connection is reported. (R440) -/
  | connectDebounce (port speed : Nat)
  /-- The 15 ms port reset ends. (R440) -/
  | portResetEnd (port speed : Nat)
  /-- The 20 ms resume ends and the port is enabled. (R458) -/
  | resumeEnd (port : Nat)
  /-- The UFP has been idle 3 ms and the hub suspends. (R440) -/
  | suspendIdle
  /-- A device remote wake is signalled upstream or absorbed. (R458) -/
  | deviceRemoteWake (port : Nat)
  /-- A transaction on the far DFP bus ends and its result is forwarded or retried. (R448) `res`: 0 done, 1 STALL, 2 NAK, 3 no response or a bad CRC, 4 done with a packet shorter than the pipe's largest. -/
  | farBusTransaction (port addr ep : Nat) (dirIn : Bool) (res : Nat) (pid : Nat) (data : List Byte)
  /-- The far hub takes a SETUP message and runs it on its bus. (R448) -/
  | usbSetupMessage (tid : Nat) (bytes : List Byte)
  /-- The far hub takes OUT data for its device. (R448) -/
  | outdata (tid : Nat) (bytes : List Byte)
  /-- The far hub takes IN credit and polls the device. (R450) -/
  | inreq (tid : Nat) (bytes : List Byte)
  /-- The near hub buffers prefetched IN data. (R450) -/
  | indata (tid : Nat) (bytes : List Byte)
  /-- The near hub takes a handshake result, halting the pipe on STALL. (R452) -/
  | result (tid : Nat) (bytes : List Byte)
  /-- A PORT message carries a port order or state change between the ends. (R444) `src` is SRCHUB of its packets. -/
  | portMessage (tid src : Nat) (bytes : List Byte)
  /-- The far hub takes a host SOF report for microframe tracking. (R454) -/
  | sofrep (tid : Nat) (bytes : List Byte)
  /-- OFFTIME of a CYCLE policy ends and power reverts to HOST. (R463) -/
  | powerCycleEnd (port : Nat)
  /-- Command mapping or unmapping a virtual port. (R461) -/
  | usbPortMap (c : Cmd)
  /-- Command returning hub or port state. (R462) -/
  | usbQuery (c : Cmd)
  /-- Command setting a port's power policy. (R463) -/
  | usbPortPower (c : Cmd)
  /-- Command returning USB counters. (R464) -/
  | usbCounters (c : Cmd)
  /-- A received Ethernet frame is checked, stamped and sent on its mapped tunnel. (R470) `since`: ns from the start-frame delimiter at the balls to now; `bytes` with the FCS. -/
  | macFrameReceive (mac since : Nat) (fcsOk : Bool) (bytes : List Byte)
  /-- A MAC's link changes state and NETCAN_ALERT LINK is raised. (R467) `speed` as NET_QUERY codes it. -/
  | macLinkChange (mac : Nat) (up : Bool) (speed : Nat) (ability : BitVec 16)
  /-- ETH_INT_N low for 1 µs raises PHY_INT. (R469) -/
  | phyInterrupt
  /-- A frame is transmitted and, if requested, its stamp reported. (R473) -/
  | macFrameTransmit (mac : Nat)
  /-- A NET message at an exit is checked and queued to a MAC or ring. (R472) -/
  | netMessage (tid : Nat) (bytes : List Byte)
  /-- A received CAN frame is stamped, filtered and sent on its tunnel. (R478) `since`: ns from the sample point of the start-of-frame bit to now; `w0`, `w1` carry IDE, RTR, ID, FDF, BRS and ESI as Table 15.3 places them. -/
  | canFrameReceive (ctrl since : Nat) (w0 w1 : Word) (data : List Byte)
  /-- 250 ms after an uncontested claim, the address counts as claimed. (R482) -/
  | addressClaimSettle (ctrl : Nat)
  /-- At bus idle the controller offers the frame that would win arbitration. (R481) -/
  | canBusIdle (ctrl : Nat)
  /-- A controller enters bus-off and queued frames are dropped. (R477) -/
  | canBusOff (ctrl : Nat)
  /-- After 128 occurrences of 11 recessive bits the controller recovers. (R477) -/
  | canBusOffRecovery (ctrl : Nat)
  /-- A CAN message at an exit is checked and queued. (R479) -/
  | canMessage (tid : Nat) (bytes : List Byte)
  /-- Command configuring a MAC, an MDIO access or a host ring. (R466) -/
  | netPortCfg (c : Cmd)
  /-- Command setting a VLAN map entry. (R470) -/
  | netVlanMap (c : Cmd)
  /-- Command returning MAC state. (R483) -/
  | netQuery (c : Cmd)
  /-- Command returning MAC counters. (R483) -/
  | netCounters (c : Cmd)
  /-- Command configuring a CAN controller. (R476) -/
  | canCfg (c : Cmd)
  /-- Command setting a CAN filter entry. (R478) -/
  | canFilter (c : Cmd)
  /-- Command setting the NAME and address claim. (R482) -/
  | canName (c : Cmd)
  /-- Command returning controller state or counters. (R483) -/
  | canQuery (c : Cmd)
  /-- Command sending a CAN frame at an instant. (R480) -/
  | canSend (c : Cmd)
  /-- A host write to BAR2 is sent as WRITE_P or WRITE_A, or discarded. (R492) `addr`: byte offset in BAR2; `fbe`, `lbe`: byte enables of the first and last DW. -/
  | bar2MemoryWrite (port addr fbe lbe : Nat) (data : List Byte)
  /-- A host read to BAR2 is sent as READ, or completed with UR or CA. (R490) -/
  | bar2MemoryRead (port hostTag addr len fbe lbe : Nat)
  /-- A host AtomicOp to BAR2 is sent as ATOMIC, or completed with UR or CA. (R490) `atype` and `asize` as Table 16.2 codes them; `data`: the operand, for CAS the compare value first. -/
  | bar2Atomicop (port hostTag addr atype asize : Nat) (data : List Byte)
  /-- A host MRdLk to BAR2 is answered UR. (R490) -/
  | bar2LockedRead (port hostTag addr : Nat)
  /-- The far hub takes a READ, or answers RETRY toward the root. (R498) -/
  | winRead (tid : Nat) (bytes : List Byte)
  /-- The far hub performs a posted write. (R493) -/
  | winWriteP (tid : Nat) (bytes : List Byte)
  /-- The far hub performs an acknowledged write. (R493) -/
  | winWriteA (tid : Nat) (bytes : List Byte)
  /-- The far hub performs an atomic under its semaphore. (R503) -/
  | winAtomic (tid : Nat) (bytes : List Byte)
  /-- All pieces of a far request complete and the response is sent. (R494) `index` of the request in the store; `result` as Table 16.3; `data` read. -/
  | farAccessDone (index result : Nat) (data : List Byte)
  /-- The near hub completes a host read from READ_DATA. (R500) -/
  | winReadData (tid : Nat) (bytes : List Byte)
  /-- The near hub takes an acknowledged write's result. (R493) -/
  | winWriteDone (tid : Nat) (bytes : List Byte)
  /-- The near hub completes a host atomic. (R503) -/
  | winAtomicData (tid : Nat) (bytes : List Byte)
  /-- The near hub schedules a re-issue after back-off. (R499) -/
  | winRetry (tid : Nat) (bytes : List Byte)
  /-- The back-off ends and the request is re-issued. (R499) -/
  | retryBackoffExpiry (win rseq : Nat)
  /-- A request has no response within TIMEOUT and completes with CA. (R500) -/
  | winRequestTimeout (win rseq : Nat)
  /-- A MEM request held 1 s at the far hub is discarded. (R496) -/
  | farHoldTimeout (index : Nat)
  /-- A semaphore lease expires and it becomes FREE. (R502) -/
  | semaphoreLeaseExpiry (sem : Nat)
  /-- Command opening a window or far record. (R506) -/
  | winOpen (c : Cmd)
  /-- Command draining and closing a window or far record. (R507) -/
  | winClose (c : Cmd)
  /-- Command setting a window sub-range. (R507) -/
  | winRange (c : Cmd)
  /-- Command acquiring, releasing, querying or breaking a semaphore. (R507) -/
  | winSem (c : Cmd)
  /-- Command returning window, counter, semaphore or hub state. (R507) -/
  | winQuery (c : Cmd)
  /-- After a received frame or silence, an end sends its next sideband frame. (R518) -/
  | sidebandTurn (port : Nat)
  /-- A valid IDLE frame is received and acknowledgements noted. (R517) -/
  | idleFrame (port : Nat) (f : SbFrame)
  /-- A sideband IDENT gives the far end's identity and roles. (R522) -/
  | sidebandIdent (port : Nat) (f : SbFrame)
  /-- A RATE frame completes sideband agreement for an attempt. (R522) -/
  | sidebandRate (port : Nat) (f : SbFrame)
  /-- A WAKE frame is a run request at an upstream-facing end in Sentry. (R642) -/
  | sidebandWake (port : Nat) (f : SbFrame)
  /-- A sink receives the source's offers. (R513) -/
  | srcCaps (port : Nat) (f : SbFrame)
  /-- A source receives a power request and accepts or rejects it. (R522) -/
  | requestFrame (port : Nat) (f : SbFrame)
  /-- An ACCEPT starts a transition or swap. (R523) -/
  | acceptFrame (port : Nat) (f : SbFrame)
  /-- A REJECT returns the port to ATTACHING. (R523) -/
  | rejectFrame (port : Nat) (f : SbFrame)
  /-- A PS_RDY lets the sink close or completes a swap. (R525) -/
  | psRdy (port : Nat) (f : SbFrame)
  /-- A swap request is accepted, rejected or resolved as a collision. (R539) -/
  | swapReq (port : Nat) (f : SbFrame)
  /-- After a random 4 to 12 ms the losing end may retry its swap. (R539) -/
  | swapRetry (port : Nat)
  /-- A fast-swap arm or disarm frame is taken. (R538) -/
  | fsArm (port : Nat) (f : SbFrame)
  /-- A GOODBYE opens the path with the action its reason gives. (R533) -/
  | goodbye (port : Nat) (f : SbFrame)
  /-- 50 µs of listening pass without a valid frame and carrier is lost. (R519) `link` of a split port, 0 or 1. -/
  | carrierLoss (port link : Nat)
  /-- Carrier has held 50 ms with IDENT exchanged and the port attaches. (R519) `link` of a split port, 0 or 1. -/
  | attachDebounce (port link : Nat)
  /-- A frame is unacknowledged 2 ms after first sending and its exchange fails. (R520) -/
  | sidebandExchangeTimeout (port link : Nat)
  /-- A REQUEST, ACCEPT or REJECT misses its 10 ms limit. (R522) -/
  | negotiationTimeout (port : Nat)
  /-- The source re-sends SRC_CAPS after 100 ms. (R523) -/
  | srcCapsResend (port : Nat)
  /-- Every microsecond the path sets its current limit from the latest samples. (R528) the latest ADC codes of PVH, PVC, PIS and KEEP_SNS, and PFLT_N. -/
  | foldbackUpdate (port vhub vcab imeas vkeep : Nat) (pfltLow : Bool)
  /-- A comparator finds the current at ISC or the cable above OV and the path opens. (R530) `ov`: the OV comparator, otherwise ISC. -/
  | comparatorTrip (port : Nat) (ov : Bool)
  /-- Paired comparators disagree for 10 µs and a domain fault is reported. (R511) -/
  | comparatorDisagree (port : Nat)
  /-- The path has been out of current limit 1 ms and the fault timer clears. (R529) -/
  | currentLimitEnd (port : Nat)
  /-- The fault timer expires and the path opens with FAULT_TIMER. (R529) -/
  | faultTimerExpiry (port : Nat)
  /-- A closed sink sees the cable above OV or below UV for 100 µs. (R530) `ov`: above OV, otherwise below UV. -/
  | uvOvFilter (port : Nat) (ov : Bool)
  /-- The supply side has held the window for the insertion delay and the path may close. (R525) -/
  | insertionDelay (port : Nat)
  /-- Both sides have held ±10 % for 10 ms and PG_x rises. (R527) -/
  | qualificationDone (port : Nat)
  /-- The cable has been below 0.8 V for 10 ms; discharge ends and DETACHED may follow. (R526) -/
  | dischargeDone (port : Nat)
  /-- Voltage across an open path for 20 ms latches FET_SHORT. (R532) -/
  | fetShort (port : Nat)
  /-- The retry timer ends and the port returns to ATTACHING. (R531) `keep`: the retry of KEEP (R537). -/
  | retryTimerExpiry (port : Nat) (keep : Bool)
  /-- KEEP sense falls below 1 V during a KEEP swap and PS_RDY is sent. (R537) -/
  | keepOffDone (port : Nat)
  /-- KEEP out of range for 10 ms turns off with KEEP_FAULT. (R537) -/
  | keepSenseFault (port : Nat)
  /-- The cable falls below FSPCT and the armed source opens. (R538) -/
  | fastSwapCrossing (port : Nat)
  /-- 20 to 50 µs after the crossing, the armed sink closes. (R538) -/
  | fastSwapClose (port : Nat)
  /-- A transition breaks its 100 ms limit and fails. (R535) -/
  | transitionTimeout (port : Nat)
  /-- A PMBus transaction completes or fails. (R534) `op`: PMBus command code; `value` written or read. -/
  | pmbusDone (port op value : Nat) (ok : Bool)
  /-- PMB_ALERT_N low 10 µs makes the hub read STATUS_WORD. (R534) -/
  | pmbAlert
  /-- Each millisecond VOUT_COMMAND moves by 1 V. (R534) -/
  | voutSlewStep (port : Nat)
  /-- Every 100 ms converter output is read. (R544) -/
  | converterPoll
  /-- Command returning power path state. (R544) -/
  | pwrQuery (c : Cmd)
  /-- Command requesting, offering or ending a contract. (R545) -/
  | pwrContract (c : Cmd)
  /-- Command swapping a resource or arming fast swap. (R546) -/
  | pwrSwap (c : Cmd)
  /-- Command changing power policy settings. (R547) -/
  | pwrLimits (c : Cmd)
  /-- Command clearing a latched fault. (R548) -/
  | pwrResetFault (c : Cmd)
  /-- Command returning power log entries. (R549) -/
  | pwrLog (c : Cmd)
  /-- Each skim interval every key slot is re-masked. (R555) -/
  | skimPass
  /-- 60 s after Field entry unconfirmed, engine 31 stops and HEALTH_TIMEOUT is reported. (R574) -/
  | healthTimeout
  /-- Command generating a key in a slot. (R554) -/
  | keyGenerate (c : Cmd)
  /-- Command importing a key. (R554) -/
  | keyImport (c : Cmd)
  /-- Command exporting a key wrapped or as a blob. (R557) -/
  | keyExportWrapped (c : Cmd)
  /-- Command loading a blob into a slot. (R558) -/
  | keyLoad (c : Cmd)
  /-- Command destroying a slot's key. (R560) `bad`: slot and pass (1 to 3) of each read-back that fails. -/
  | keyDestroy (c : Cmd) (bad : List (Nat × Nat))
  /-- Command writing an attestation statement or identity data. (R559) -/
  | keyAttest (c : Cmd)
  /-- Command deriving a key. (R556) -/
  | keyDerive (c : Cmd)
  /-- Command performing a crypto operation. (R556) -/
  | keyCrypt (c : Cmd)
  /-- Command beginning, finishing or forgetting link pairing. (R563) -/
  | keyPairLink (c : Cmd)
  /-- Command writing image data into a slot. (R575) -/
  | imgStage (c : Cmd)
  /-- Command making a verified slot active. (R575) -/
  | imgCommit (c : Cmd)
  /-- Command returning image and boot state. (R578) -/
  | imgQuery (c : Cmd)
  /-- Command confirming the running image. (R574) -/
  | imgConfirm (c : Cmd)
  /-- Command making the other slot active. (R575) -/
  | imgRevert (c : Cmd)
  /-- A check fires and the error is classed, recovered, escalated or made fatal. (R580) -/
  | checkDetect (h : Hit)
  /-- A pipeline stage has not acknowledged for 10 µs and a stall is detected. (R581) -/
  | handshakeStall (dom : Nat) (loc : Word)
  /-- A domain finishes replaying and releases its inputs. (R587) `us`: from detection to release. -/
  | domainRecoveryEnd (dom us : Nat)
  /-- A recovery exceeds its time bound and becomes domain-fatal. (R587) -/
  | recoveryBoundExceeded (dom : Nat)
  /-- 10 ms after a recovery ends its escalation window closes. (R591) -/
  | recoveryWindowEnd (dom : Nat)
  /-- The patrol scrub reads and corrects the next array word. (R582) `res`: 0 sound, 1 corrected, 2 uncorrectable and not in use, 3 uncorrectable in use; `last`: the last word of its array; the rest as CHECK_DETECT has them. -/
  | patrolScrub (res detail unit : Nat) (noCopy last : Bool)
  /-- An injection delay ends and the fault is planted. (R603) As CHECK_DETECT has them. -/
  | injectDelayExpiry (unit : Nat) (inUse noCopy : Bool)
  /-- Command returning error counts. (R602) -/
  | diagErrors (c : Cmd)
  /-- Command scheduling an injected fault. (R603) -/
  | diagInject (c : Cmd)
  /-- Command running a scrub pass. (R604) -/
  | diagScrub (c : Cmd)
  /-- Command testing every checker. (R605) `failed`: the checkers that failed, in the bits of its completion. -/
  | diagSelftest (c : Cmd) (failed : Nat)
  /-- Command clearing error summary bits and counts. (R606) -/
  | diagClear (c : Cmd)
  /-- A lane receives three COM at one alignment without a code violation and gains symbol lock, setting its polarity and letting the end send TS1. (R110) -/
  | symbolLock (link lane : Nat) (groups : List (BitVec 10))
  /-- The receiving end of a dozing direction sees the exit from idle and the SKP ordered set that ends the wake, leaves DOZE-RX and resumes its held replay timer. (R135) -/
  | wakeEndSkpReceive (link : Nat)
  /-- A device is detached from a DFP, so the port reports disconnection, raises its generation, clears its address-table entries and, as a far end, sends PORT DISCONNECT. (R446) -/
  | deviceDisconnect (port : Nat)
  /-- USB_OC_N returns high after an overcurrent, allowing power to return and, at a far hub, sending PORT OC_CLEARED. (R441) -/
  | usbOcNRelease (port : Nat)
  /-- The UFP sees resume signalling while the hub is suspended and begins a host resume on every suspended port, absorbing device wakes from then on. (R458) -/
  | globalResume
  /-- A frame the controller offered finishes on the bus, or loses arbitration, so a CAN_SEND completes with its start-of-frame instant or the frame waits for the next idle. (R481) `since`: ns from the start of frame to now; `won` false: arbitration lost. -/
  | canFrameSent (ctrl since : Nat) (won : Bool)
  /-- A controller's error counters cross into error-passive and it raises NETCAN_ALERT ERR_PASSIVE. (R477) the error counters reached. -/
  | canErrorPassive (ctrl txErr rxErr : Nat)
  /-- A WIN_SEM ACQUIRE not granted within WAIT leaves the waiter queue and completes with BUSY. (R507) `hub`, `htag`: the waiting WIN_SEM. -/
  | semaphoreWaitExpiry (sem hub htag : Nat)
  /-- During a KEEP swap the new source's KEEP_x_SNS reaches 10.8 to 13.2 V and it sends PS_RDY for KEEP. (R537) -/
  | keepInRange (port : Nat)
  /-- A Clause 22 or 45 MDIO access at 2.5 MHz ends and NET_PORT_CFG FORM 1 completes, with read data when reading. (R469) `data`: what a read returned. -/
  | mdioAccessDone (data : Nat)
  /-- After a health-test failure the entropy source passes its start-up tests again and commands needing randomness stop completing with BUSY. (R553) -/
  | entropyStartupPass
  deriving DecidableEq, Repr

end Sys2Proof
end

