-- ==== Sys2Proof/Decode.lean ====
section
/-! DEFINITION. The command that a word of the opcode table spells. The table gives none of its 375 rows any bits (every row's
list of fields is empty), so no word spells a command; the packets' bits are read where each command's meaning uses them (R367). -/

namespace Sys2Proof

/-- No row of the table has bits, so no word of any length spells a command. -/
def decodeTableWord (_nbits _w : Nat) : Option Instr := none

end Sys2Proof
end

