-- ==== Sys2Proof/Config.lean ====
section
/-! DEFINITION. What an implementation fixes and what the spec leaves open: opaque constants with no
body, so that nothing in Lean can prove a value of one (log entries 4, 9, 10, 21). -/

namespace Sys2Proof

/-- A free value of `w` bits, applied to the draw counter of the state: TRNG draws (R173, R321, R518,
R539, R553, R555) and values the spec leaves open. -/
opaque Config.freeValue : (w : Nat) → Nat → BitVec w

/-- The device root's derived keys and every cryptographic function the key store computes (R551, R556,
R562 to R564, R568, R569) as uninterpreted functions of a label and its inputs: `n` bytes of output. -/
opaque Config.crypto : (fn : Nat) → (inputs : List (List Byte)) → (n : Nat) → List Byte

/-- The outcome of a cryptographic check (a signature, a tag) as an uninterpreted function of its inputs. -/
opaque Config.cryptoOk : (fn : Nat) → (inputs : List (List Byte)) → Bool

/-- Payload rate, in 10 kbit/s, of a link of another hub: the root computes windows with it and no message
brings it (R239; log entry 33). -/
opaque Config.farRate : (hub link draw : Nat) → Nat

/-- Whether a hub is an ancestor of this one beyond its parent and the root, which no message tells it (R219;
log entry 36). -/
opaque Config.isAncestor : (hub draw : Nat) → Bool

/-- Whether a branch or leaf has a host (HOST[1:0] other than 00b), by its unit ID: the root sends TREE_CHANGE to hubs with a
host and no message tells it (R11, R220; log entry 35). -/
opaque Config.hasHost : (unit : BitVec 64) → Bool

/-- The other end of a tunnel of a USB pair as a hub other than the root has it, by tunnel and generation: a hub in [4:0] and a
port in [8:5] (R442; log entry 24). -/
opaque Config.usbFar : (tid : Nat) → (gen : BitVec 8) → Nat

/-- Bytes of buffer a proxied USB pipe has for OUT data (R447 gives no size). -/
opaque Config.usbPipeRoom : Nat

end Sys2Proof
end

