-- ==== Sys2Proof/Machine/Bits.lean ====
section
/-! DEFINITION. Bit fields, little-endian bytes and saturating counts (R2 to R5), and
the fields of a command packet (R367, R368). -/

namespace Sys2Proof.Machine

/-- Bits `hi` down to `lo` of a number. -/
def bits (n hi lo : Nat) : Nat := (n >>> lo) % 2 ^ (hi + 1 - lo)

/-- Bit `k` of a number. -/
def bit (n k : Nat) : Bool := n.testBit k

/-- 1 for true, 0 for false. -/
def b2n (b : Bool) : Nat := if b then 1 else 0

/-- A word from a number, modulo 2^32. -/
def word (n : Nat) : Word := BitVec.ofNat 32 n

/-- A field value placed at bit `lo`. -/
def fld (lo v : Nat) : Nat := v <<< lo

/-- The sum of placed fields as a word. -/
def pack (fs : List Nat) : Word := word (fs.foldl (· ||| ·) 0)

/-- `n` bits read as a two's complement number. -/
def signed (w n : Nat) : Int := if n < 2 ^ (w - 1) then (n : Int) else (n : Int) - 2 ^ w

/-- A number as `w` bits of two's complement. -/
def unsigned (w : Nat) (i : Int) : Nat := (i % 2 ^ w).toNat

/-- A count that saturates at `2 ^ w - 1`. -/
def satAdd (w n k : Nat) : Nat := min (n + k) (2 ^ w - 1)

/-- Little-endian bytes of a number (R4). -/
def leBytes : Nat → Nat → List Byte
  | 0, _ => []
  | k + 1, n => BitVec.ofNat 8 n :: leBytes k (n / 256)

/-- A number from little-endian bytes (R4). -/
def fromLe : List Byte → Nat
  | [] => 0
  | b :: bs => b.toNat + 256 * fromLe bs

/-- Words from little-endian bytes, `k` of them. -/
def wordsOf : Nat → List Byte → List Word
  | 0, _ => []
  | k + 1, bs => word (fromLe (bs.take 4)) :: wordsOf k (bs.drop 4)

/-- The bytes of a list of words. -/
def bytesOf (ws : List Word) : List Byte := ws.flatMap fun w => leBytes 4 w.toNat

/-- The `i`-th word of a list, zero beyond its end. -/
def nthW (ws : List Word) (i : Nat) : Nat := ((ws[i]?).getD 0).toNat

/-- A list with its `i`-th element replaced. -/
def setAt {α : Type} (l : List α) (i : Nat) (v : α) : List α := l.set i v

/-- Sum of a list of numbers. -/
def sumN (l : List Nat) : Nat := l.foldl (· + ·) 0

/-- Division rounded up. -/
def ceilDiv (a b : Nat) : Nat := if b = 0 then 0 else (a + b - 1) / b

/-- One byte through the CRC-32 register (reflected 04C11DB7h, R153). -/
def crcByte (crc : Nat) (b : Byte) : Nat :=
  let step (c : Nat) : Nat := if c % 2 = 1 then (c / 2) ^^^ 0xEDB88320 else c / 2
  step (step (step (step (step (step (step (step (crc ^^^ b.toNat))))))))

/-- CRC-32 of R153. -/
def crc32 (bs : List Byte) : Word := word ((bs.foldl crcByte 0xFFFFFFFF) ^^^ 0xFFFFFFFF)

/-- One byte through the CRC-16 register of R517 (polynomial 1021h, most significant bit first). -/
def crc16Byte (crc : Nat) (b : Byte) : Nat :=
  let step (c : Nat) : Nat := if c ≥ 0x8000 then ((c * 2) ^^^ 0x1021) % 0x10000 else c * 2
  step (step (step (step (step (step (step (step (crc ^^^ (b.toNat * 256)))))))))

/-- CRC-16 of the sideband frame (R517). -/
def crc16 (bs : List Byte) : Nat := bs.foldl crc16Byte 0xFFFF

end Sys2Proof.Machine
end

