-- ==== Sys2Proof/Machine/Operands.lean ====
section
/-! DEFINITION. The operand forms of a command packet: header fields (Table 12.1), parameter fields, and
the layout check of R370 check 2. -/

namespace Sys2Proof

open Machine

/-- LEN, DW0[21:16]. -/
def Cmd.len (c : Cmd) : Nat := bits (nthW c.dw 0) 21 16

/-- DW `i` as the hub reads it: zero from LEN on (R368). -/
def Cmd.w (c : Cmd) (i : Nat) : Nat := if i < c.len ∨ i < 2 then nthW c.dw i else 0

/-- Bits `hi` to `lo` of DW `i`. -/
def Cmd.f (c : Cmd) (i hi lo : Nat) : Nat := bits (c.w i) hi lo

/-- Bit `k` of DW `i`. -/
def Cmd.b (c : Cmd) (i k : Nat) : Bool := bit (c.w i) k

/-- GROUP and FUNCTION. -/
def Cmd.opcode (c : Cmd) : Nat := c.f 0 15 0

/-- Flags of Table 12.1. -/
def Cmd.lateFail (c : Cmd) : Bool := c.b 0 26
def Cmd.indirect (c : Cmd) : Bool := c.b 0 25
def Cmd.noEvent (c : Cmd) : Bool := c.b 0 24
def Cmd.fence (c : Cmd) : Bool := c.b 0 23
def Cmd.timed (c : Cmd) : Bool := c.b 0 22
def Cmd.toSelf (c : Cmd) : Bool := c.b 1 29
def Cmd.target (c : Cmd) : Nat := c.f 1 28 24
def Cmd.sgen (c : Cmd) : Nat := c.f 1 23 16
def Cmd.tag (c : Cmd) : Nat := c.f 1 15 0

/-- A 64-bit value whose low half is DW `i`. -/
def Cmd.w64 (c : Cmd) (i : Nat) : Nat := c.w i + 2 ^ 32 * c.w (i + 1)

/-- The layout of an opcode's parameters: whether an indirect form exists, the bits each of DW4 to DW15
may set, and the reserved encodings the packet itself shows (R6, R370 check 2, R371). -/
structure Layout where
  ind : Bool := false
  masks : List (Nat × Nat) := []
  enc : Bool := true
  /-- IOVA and bytes of the indirect input, 0 bytes for none (R384) -/
  inAddr : Nat := 0
  inLen : Nat := 0
  /-- IOVA of the indirect output (R376, R384) -/
  outAddr : Nat := 0
  deriving DecidableEq, Repr

/-- The bits DW `i` may set. -/
def Layout.mask (l : Layout) (i : Nat) : Nat := Tab.read 0 l.masks i

/-- Check 2 of R370 (R260, R367, R368, R371), with the alignment and size of indirect data (R384). -/
def Cmd.layoutOk (c : Cmd) (l : Layout) : Bool :=
  decide (4 ≤ c.len ∧ c.len ≤ 16) && decide (c.f 0 31 27 = 0) && decide (c.f 1 31 30 = 0)
    && (if c.timed then decide (c.w 2 < 1000000000) else decide (c.w 2 = 0 ∧ c.w 3 = 0)) && (c.timed || !c.lateFail)
    && (l.ind || !c.indirect)
    && (List.range 12).all (fun k => decide (c.w (k + 4) &&& (2 ^ 32 - 1 - l.mask (k + 4)) = 0))
    && l.enc
    && (!c.indirect || decide (l.inAddr % 8 = 0 ∧ l.inLen ≤ 32768 ∧ l.outAddr % 8 = 0))

/-- A mask of bits `hi` to `lo`. -/
def mk (hi lo : Nat) : Nat := (2 ^ (hi + 1 - lo) - 1) <<< lo

/-- Every bit of a DW. -/
def mkAll : Nat := 2 ^ 32 - 1

end Sys2Proof
end

