-- ==== Sys2Proof/Machine/Symbols.lean ====
section
/-! DEFINITION. What the lanes carry: 8b/10b code, ordered sets, the placing of packets on lanes, packet bytes with their LCRC,
link control packets, training ordered sets and compliance patterns (R104 to R109, R123, R137, R147 to R155; log entry 51). -/

namespace Sys2Proof

open Sys2Proof.Machine

/-! ### 8b/10b (R104) -/

/-- The byte of a special symbol (Table 5.2). -/
def KCode.byte : KCode → Nat
  | .com => 0xBC
  | .skp => 0x1C
  | .stp => 0xFB
  | .slc => 0x5C
  | .fin => 0xFD
  | .ebd => 0xFE
  | .tmk => 0x3C
  | .doz => 0x7C

def allK : List KCode := [.com, .skp, .stp, .slc, .fin, .ebd, .tmk, .doz]

/-- 5b/6b groups under negative disparity, by the low five bits. -/
def six : List Nat :=
  [ 0b100111, 0b011101, 0b101101, 0b110001, 0b110101, 0b101001, 0b011001, 0b111000,
    0b111001, 0b100101, 0b010101, 0b110100, 0b001101, 0b101100, 0b011100, 0b010111,
    0b011011, 0b100011, 0b010011, 0b110010, 0b001011, 0b101010, 0b011010, 0b111010,
    0b110011, 0b100110, 0b010110, 0b110110, 0b001110, 0b101110, 0b011110, 0b101011 ]

/-- 3b/4b groups under negative disparity, by the high three bits. -/
def four : List Nat := [0b1011, 0b1001, 0b0101, 0b1100, 0b1101, 0b1010, 0b0110, 0b1110]

/-- Ten-bit groups of the special symbols under negative disparity. -/
def KCode.group : KCode → Nat
  | .com => 0b0011111010
  | .skp => 0b0011110100
  | .stp => 0b1101101000
  | .slc => 0b0011110101
  | .fin => 0b1011101000
  | .ebd => 0b0111101000
  | .tmk => 0b0011111001
  | .doz => 0b0011110011

/-- Ones among the low `n` bits. -/
def ones (n v : Nat) : Nat := sumN ((List.range n).map fun i => b2n (bit v i))

/-- The running disparity after a sub-block of `n` bits (`true`: positive). -/
def rdStep (n v : Nat) (rd : Bool) : Bool :=
  let k := 2 * ones n v
  if n < k ∨ (n = 6 ∧ v = 0b000111) ∨ (n = 4 ∧ v = 0b0011) then true
  else if k < n ∨ (n = 6 ∧ v = 0b111000) ∨ (n = 4 ∧ v = 0b1100) then false
  else rd

/-- The running disparity after a ten-bit group, valid or not. -/
def rdAfter (v : Nat) (rd : Bool) : Bool := rdStep 4 (v % 16) (rdStep 6 (v / 16) rd)

/-- The group of a data byte under a running disparity. -/
def dataGroup (rd : Bool) (b : Nat) : Nat :=
  let x := b % 32
  let y := b / 32
  let a := (six[x]?).getD 0
  let a := if rd ∧ (ones 6 a ≠ 3 ∨ x = 7) then 63 - a else a
  let mid := rdStep 6 a rd
  let alt := y = 7 ∧ (if mid then x = 11 ∨ x = 13 ∨ x = 14 else x = 17 ∨ x = 18 ∨ x = 20)
  let c := if alt then 0b0111 else (four[y]?).getD 0
  let c := if mid ∧ (ones 4 c ≠ 2 ∨ y = 3) then 15 - c else c
  16 * a + c

/-- The group of a symbol under a running disparity. -/
def Sym.group (rd : Bool) : Sym → Nat
  | .k c => if rd then 1023 - c.group else c.group
  | .d b => dataGroup rd b.toNat

/-- A received group: its symbol, none for a code violation, and the running disparity after it (R104). -/
def decode10 (rd : Bool) (v : BitVec 10) : Option Sym × Bool :=
  let n := v.toNat
  let k := (allK.find? fun c => decide ((Sym.k c).group rd = n)).map Sym.k
  let d := ((List.range 256).find? fun b => decide (dataGroup rd b = n)).map fun b => Sym.d (BitVec.ofNat 8 b)
  (k.orElse fun _ => d, rdAfter n rd)

/-- Symbols of one lane encoded one after another (R104). -/
def encodeLane : Bool → List Sym → List (BitVec 10)
  | _, [] => []
  | rd, x :: r => let g := x.group rd; BitVec.ofNat 10 g :: encodeLane (rdAfter g rd) r

/-- The symbols of one lane's groups, none for a code violation (R104). -/
def decodeLane : Bool → List (BitVec 10) → List (Option Sym)
  | _, [] => []
  | rd, g :: r => (decode10 rd g).1 :: decodeLane (decode10 rd g).2 r

/-- A lane's symbols as received, none for a code violation. -/
abbrev Row := List (Option Sym)

/-- The symbol times of a wave decoded. -/
def decodeRows : List Bool → List (List (BitVec 10)) → List Row
  | _, [] => []
  | rds, r :: rs =>
    let ds := List.zipWith decode10 rds r
    ds.map Prod.fst :: decodeRows (ds.map Prod.snd) rs

def Wave.rows (w : Wave) : List Row := decodeRows ((List.range 4).map fun i => bit w.rd.toNat i) w.groups

/-- Code violations of logical lane `i`, symbol time by symbol time. -/
def laneViols (rows : List Row) (i : Nat) : List Bool := rows.map fun r => decide (r[i]? = some none)

/-- Four code violations within 16 symbol times (R110). -/
def lockLost : List Bool → Bool
  | [] => false
  | b :: r => decide (4 ≤ ((b :: r).take 16).countP id) || lockLost r

/-- Three COM at one alignment with no code violation between them, from a running disparity (R110). -/
def threeComs (rd : Bool) (gs : List (BitVec 10)) : Bool :=
  let count (n : Nat) (x : Option Sym) : Nat :=
    if 3 ≤ n then n
    else match x with
      | none => 0
      | some (.k .com) => n + 1
      | some _ => n
  decide (3 ≤ (decodeLane rd gs).foldl count 0)

/-- A lane that receives the comma pattern: whether it locks, and whether it receives the complement. A lane starts with
negative running disparity, so the pattern starts with the negative form of COM (R104, R110, R112). -/
def commaLock (gs : List (BitVec 10)) : Bool × Bool :=
  let inv := decide ((gs.head?.map fun g => (decode10 false (~~~g)).1) = some (some (.k .com)))
  (threeComs false (if inv then gs.map fun g => ~~~g else gs), inv)

/-! ### Ordered sets and the placing of packets (R105 to R109) -/

/-- Symbols in lane positions, lane 0 first, COM on the lanes left over (R105). -/
def stripeN (w : Nat) : Nat → List Sym → List (List Sym)
  | 0, _ => []
  | n + 1, ss => if ss = [] then [] else
      let r := ss.take w
      (r ++ List.replicate (w - r.length) (Sym.k .com)) :: stripeN w n (ss.drop w)

def stripe (w : Nat) (ss : List Sym) : List (List Sym) := stripeN w ss.length ss

/-- A packet between its start symbol and its end symbol (R105, R147, R151). -/
def framed (start : KCode) (bs : List Byte) (stop : KCode) : List Sym := .k start :: (bs.map Sym.d ++ [.k stop])

/-- An ordered set takes the same symbol times on every lane (R106). -/
def setRows (w : Nat) (ss : List Sym) : List (List Sym) := ss.map (List.replicate w)

/-- The SKP and DOZ ordered sets and the time marker (Table 5.2). -/
def skpSet : List Sym := [.k .com, .k .skp, .k .skp, .k .skp]
def dozSet (deep : Bool) : List Sym := [.k .com, .k .doz, .k .doz, .d (if deep then 2 else 1)]

def Row.all (r : Row) (c : KCode) : Bool := decide (r ≠ []) && List.all r fun x => decide (x = some (Sym.k c))

/-- The elastic buffers add or delete one SKP of a SKP ordered set, in the same symbol time on every lane (R109). -/
def elastic (w : Nat) (add : Bool) : List Row :=
  let skp : Row := List.replicate w (some (.k .skp))
  List.replicate w (some (.k .com)) :: List.replicate (if add then 4 else 2) skp

/-- SKP ordered sets, of COM and two to four SKP, taken out of symbol times without TMK (R108, R109). -/
def stripSkp : Nat → List Row → List Row
  | 0, _ => []
  | _ + 1, [] => []
  | n + 1, r :: rs =>
    let k := (rs.takeWhile fun x => x.all .skp).length
    if r.all .com ∧ 2 ≤ k ∧ k ≤ 4 then stripSkp n (rs.drop k) else r :: stripSkp n rs

/-- TMK symbol times, which may stand inside a SKP ordered set too, and then SKP ordered sets taken out of what the lanes bring
(R107, R108). -/
def stripSets (rows : List Row) : List Row := stripSkp (rows.length + 1) (rows.filter fun r => !r.all .tmk)

/-- A packet as the lanes bring it: its start symbol, what stands between it and its end symbol, the end symbol (none: cut),
and the code violations outside it. -/
structure RxFrame where
  start : Option KCode := none
  body : List (Option Sym) := []
  stop : Option KCode := none
  outside : Nat := 0
  deriving DecidableEq, Repr

/-- A start symbol stands in lane 0 (R105). -/
def rowStart (r : Row) : Option KCode :=
  match r.head? with
  | some (some (.k .stp)) => some .stp
  | some (some (.k .slc)) => some .slc
  | _ => none

def isStop (x : Option Sym) : Bool := decide (x = some (.k .fin) ∨ x = some (.k .ebd))

/-- The first packet of a wave (R105, R108). -/
def rxFrame (rows : List Row) : RxFrame :=
  let rows := stripSets rows
  let lost (r : List (Option Sym)) : Nat := r.countP fun x => decide (x = none)
  let pre := rows.takeWhile fun r => decide (rowStart r = none)
  match rows.drop pre.length with
  | [] => { outside := lost pre.flatten }
  | r :: rs =>
    let ss := (r.drop 1) ++ rs.flatten
    let body := ss.takeWhile fun x => !isStop x
    let rest := ss.drop body.length
    { start := rowStart r, body := body, outside := lost pre.flatten + lost (rest.drop 1)
      stop := match rest.head? with
        | some (some (.k c)) => some c
        | _ => none }

/-- The bytes of a packet, none where a code violation or a special symbol stands among them (R154). -/
def bodyBytes : List (Option Sym) → Option (List Byte)
  | [] => some []
  | some (.d b) :: r => (bodyBytes r).map (b :: ·)
  | _ :: _ => none

/-! ### Tunnel packets (R147 to R153) -/

/-- A word most significant byte first (R147). -/
def beBytes (w : Word) : List Byte := (leBytes 4 w.toNat).reverse
def fromBe (bs : List Byte) : Nat := fromLe bs.reverse

/-- H0 to H3 (Table 6.1); `len` is the payload's length. -/
def TxPkt.headWords (p : TxPkt) (len : Nat) : List Word :=
  [ pack [fld 20 p.lseq.toNat, fld 8 p.tunnel, fld 5 p.tclass, fld 2 p.tc],
    pack [fld 24 p.gen.toNat, fld 12 len, fld 11 (b2n p.sealed), fld 10 (b2n p.urgent), fld 9 (b2n p.first), fld 8 (b2n p.last),
      fld 4 p.hops],
    if p.sealed then p.sealCnt else 0,
    pack [fld 27 p.srcHub, fld 16 (b2n (p.sealed && p.kphase))] ]

def TxPkt.header (p : TxPkt) : List Byte := (p.headWords p.payload.length).flatMap beBytes

/-- LCRC, sent as the IEEE 802.3 frame check sequence is: least significant byte first (R153). -/
def lcrc (bs : List Byte) : List Byte := leBytes 4 (crc32 bs).toNat

/-- HMAC-SHA-256 of the KDF in counter mode, AES-GCM sealing and opening, as uninterpreted functions by number (log entry 10). -/
def cfKdf : Nat := 2
def cfGcmSeal : Nat := 9
def cfGcmOpen : Nat := 10

/-- The bytes of a label. -/
def ascii (t : String) : List Byte := t.toList.map fun c => BitVec.ofNat 8 c.toNat

/-- A key derived from a key with a label and a context (R551, R563, R564, R568). -/
def kdf (key : List Byte) (label : String) (context : List Byte) (n : Nat) : List Byte :=
  Config.crypto cfKdf [[2], key, ascii label ++ [0] ++ context] n

/-- What GCM takes: the key's type, the key, the length of the AAD, and IV, AAD and data one after another. -/
def gcmIns (key iv aad data : List Byte) : List (List Byte) := [[1], key, leBytes 4 aad.length, iv ++ aad ++ data]

/-- The 96-bit IV: a zero word, DIRN and SEALCNT (R171). -/
def sealIv (dirn : Nat) (cnt : Word) : List Byte := [(0 : Word), word dirn, cnt].flatMap beBytes

/-- The key of a direction and phase from the link's key material: the pair key and the context of R564 up to its nonces. -/
def phaseKey (mat : List (List Byte)) (dirn phase : Nat) : List Byte :=
  kdf (mat.headD []) "HZ SEAL" (mat.tail.flatten ++ leBytes 4 phase ++ [BitVec.ofNat 8 dirn]) 32

/-- The bytes between STP and END: header, payload (encrypted in place where the packet is sealed), tag and LCRC
(R147, R153, R171). -/
def TxPkt.bytes (p : TxPkt) (key : List Byte) (dirn : Nat) : List Byte :=
  let h := p.header
  let iv := sealIv dirn p.sealCnt
  let body := if p.sealed then Config.crypto cfGcmSeal (gcmIns key iv h p.payload) (p.payload.length + 16) else p.payload
  h ++ body ++ lcrc (h ++ body)

/-- What a receiver makes of a wave that should hold a tunnel packet (R154, R155). -/
inductive RxPkt where
  /-- no start symbol -/
  | nothing
  /-- ended by EBD -/
  | abandoned
  /-- LCRC mismatch -/
  | crc
  /-- any other fault -/
  | malformed
  /-- good: the packet, with its payload as sent, and the tag -/
  | good (p : TxPkt) (tag : List Byte)
  deriving DecidableEq, Repr

/-- The fields of a header (Table 6.1). -/
def headOf (bs : List Byte) : TxPkt :=
  let h (i : Nat) : Nat := fromBe ((bs.drop (4 * i)).take 4)
  { lseq := BitVec.ofNat 12 (bits (h 0) 31 20), tunnel := bits (h 0) 19 8, tclass := bits (h 0) 7 5, tc := bits (h 0) 4 2
    gen := BitVec.ofNat 8 (bits (h 1) 31 24), sealed := bit (h 1) 11, urgent := bit (h 1) 10, first := bit (h 1) 9, last := bit (h 1) 8
    hops := bits (h 1) 7 4, sealCnt := word (h 2), srcHub := bits (h 3) 31 27, kphase := bit (h 3) 16 }

/-- The reserved fields of a header are zero, SEALCNT and KPHASE among them where SEALED is 0 (Table 6.1). -/
def headReserved (bs : List Byte) : Bool :=
  let h (i : Nat) : Nat := fromBe ((bs.drop (4 * i)).take 4)
  decide (bits (h 0) 1 0 = 0 ∧ bits (h 1) 3 0 = 0 ∧ bits (h 3) 26 17 = 0 ∧ bits (h 3) 15 0 = 0)

/-- A received tunnel packet (R147, R148, R154, R155). -/
def rxPkt (f : RxFrame) : RxPkt :=
  if f.start ≠ some .stp then .nothing
  else if f.stop = some .ebd then .abandoned
  else match f.stop, bodyBytes f.body with
  | some .fin, some bs =>
    let n := bs.length
    let len := bits (fromBe ((bs.drop 4).take 4)) 23 12
    let p := headOf bs
    if n < 20 then .malformed
    else if bs.drop (n - 4) ≠ lcrc (bs.take (n - 4)) then .crc
    else if 2048 < len ∨ n ≠ 20 + len + (if p.sealed then 16 else 0) ∨ !headReserved bs ∨ p.tunnel = 0 then .malformed
    else .good { p with payload := (bs.drop 16).take len } ((bs.drop (16 + len)).take (if p.sealed then 16 else 0))
  | _, _ => .malformed

/-! ### Link control packets (R151) -/

/-- The bytes of an LCP between SLC and END. -/
def lcpBytes (ws : List Word) : List Byte := let bs := ws.flatMap beBytes; bs ++ lcrc bs

/-- What a receiver makes of a wave that should hold an LCP: its words, or whether it counts as an LCRC mismatch (R154). -/
inductive RxLcp where
  | nothing
  | crc
  | malformed
  | good (ws : List Word)
  deriving DecidableEq, Repr

def lcpTypes : List Nat := [1, 2, 3, 4, 5, 7]

def rxLcp (f : RxFrame) : RxLcp :=
  if f.start ≠ some .slc then .nothing
  else match f.stop, bodyBytes f.body with
  | some .fin, some bs =>
    if bs.length ≠ 20 then .malformed
    else if bs.drop 16 ≠ lcrc (bs.take 16) then .crc
    else if !lcpTypes.contains (bs.headD 0).toNat then .malformed
    else .good ((List.range 4).map fun i => word (fromBe ((bs.drop (4 * i)).take 4)))
  | _, _ => .malformed

/-! ### Training ordered sets (R123) -/

/-- The fields of a training ordered set but the lane number. -/
structure Ts where
  /-- TS2 (otherwise TS1) -/
  second : Bool := false
  linkNo : Nat := 0
  rate : Nat := 0
  width : Nat := 0
  cls : Nat := 0
  /-- from the upstream-facing end -/
  upf : Bool := false
  deriving DecidableEq, Repr

/-- The 16 symbols of a training ordered set on a lane (Table 5.5). -/
def Ts.set (t : Ts) (lane : Nat) : List Sym :=
  [.k .com, .d (BitVec.ofNat 8 lane), .d (BitVec.ofNat 8 t.linkNo), .d (BitVec.ofNat 8 t.rate), .d (BitVec.ofNat 8 t.width),
    .d (BitVec.ofNat 8 t.cls), .d (BitVec.ofNat 8 (b2n t.upf))] ++ List.replicate 9 (.d (if t.second then 0x45 else 0x4A))

/-- The symbol times of a training ordered set on `w` lanes. -/
def Ts.rows (t : Ts) (w : Nat) : List (List Sym) :=
  (List.range 16).map fun i => (List.range w).map fun l => ((t.set l)[i]?).getD (.k .com)

/-- A training ordered set read from a lane: its fields and lane number, none where it is none. -/
def tsOf (ss : List Sym) : Option (Ts × Nat) :=
  let v (i : Nat) : Nat := match ss[i]? with
    | some (.d b) => b.toNat
    | _ => 256
  let t : Ts := { second := decide (v 7 = 0x45), linkNo := v 2, rate := v 3, width := v 4, cls := v 5, upf := bit (v 6) 0 }
  if ss = t.set (v 1) ∧ v 1 < 4 then some (t, v 1) else none

/-- The sets of the lanes in use, lane by lane: equal but for their lane numbers. -/
def tsLanes (sets : List (List Sym)) : Option (Ts × List Nat) :=
  match sets.mapM tsOf with
  | some ((t, n) :: r) => if r.all (fun x => decide (x.1 = t)) then some (t, n :: r.map Prod.snd) else none
  | _ => none

/-! ### Compliance patterns (R137) -/

/-- Bits of a pseudo-random sequence x^a + x^b + 1, from a register of ones. -/
def prbs (a b : Nat) : Nat → List Bool → List Bool
  | 0, _ => []
  | n + 1, reg =>
    let x := xor ((reg[a - 1]?).getD false) ((reg[b - 1]?).getD false)
    x :: prbs a b n (x :: reg.take (a - 1))

/-- The first `n` bits of a pattern on a lane, in the order sent; K28.5 from negative running disparity (R137). -/
def patternBits (pat n : Nat) : List Bool :=
  if pat = 1 then prbs 7 6 n (List.replicate 7 true)
  else if pat = 2 then prbs 15 14 n (List.replicate 15 true)
  else if pat = 3 then prbs 31 28 n (List.replicate 31 true)
  else if pat = 4 then (List.range n).map fun i => decide (i % 2 = 0)
  else if pat = 5 then (List.range n).map fun i => decide (i % 10 < 5)
  else if pat = 6 then
    ((encodeLane false (List.replicate (n / 10 + 1) (.k .com))).flatMap fun g => (List.range 10).map fun i => g.getMsbD i).take n
  else []

/-- Bit errors of a lane that should bring a pattern (R137). -/
def patternErrs (pat : Nat) (got : List Bool) : Nat :=
  (List.zip (patternBits pat got.length) got).countP fun p => decide (p.1 ≠ p.2)

end Sys2Proof
end

