-- ==== Sys2Proof/Machine/State.lean ====
section
/-! DEFINITION. The state of the hub as plain data: every register, table, queue, mode, latch and pin the spec gives it, with reset values. -/

namespace Sys2Proof.Machine

/-- A pulse-width setting of an ACT pin (R308): period and high time in 250 ps units, active level,
the engine that set it and the instant of the next period start. -/
structure PwmCfg where
  period : Nat := 0
  high : Nat := 0
  inverted : Bool := false
  eng : Nat := 0
  nextAt : Nat := 0
  deriving DecidableEq, Repr

/-- What a WAITING engine waits for (R304, R305, R309). -/
inductive EngWait where
  /-- not waiting -/
  | none
  /-- WAIT_UNTIL with due instant `w` (250 ps) -/
  | untilAt (w : Nat)
  /-- WAIT_FOR with its leg's fields: condition kind, index and the instant of its timeout, 0 for none -/
  | cond (kind idx : Nat) (timeoutAt : Nat)
  /-- a remote READ_CHECK with its RSEQ and the leg -/
  | reg (rseq : Nat) (leg : Nat)
  deriving DecidableEq, Repr

/-- What happens at an effect's instant (R301, R307, R314). -/
inductive EffKind where
  /-- levels of ACT pins: a mask and the levels -/
  | pins (mask levels : Nat)
  /-- a pulse: its pin, level and width (250 ps); `begun` once the leading edge has been driven -/
  | pulse (pin : Nat) (level : Bool) (width : Nat) (begun : Bool)
  /-- start or change of a PWM output -/
  | pwm (pin : Nat) (cfg : PwmCfg)
  /-- a CAN frame handed to a controller: the words and data of its record -/
  | can (ctrl : Nat) (w0 w1 : Word) (data : List Byte)
  /-- a head's DISP_COMMIT -/
  | disp (head : Nat)
  /-- a gate switch -/
  | gate (link slot : Nat)
  deriving DecidableEq, Repr

/-- Where a command of a local slice stands between fetch and completion (R346, R376, R380, R383). -/
inductive PendStage where
  | fence | timed | input | sent | ready | exec
  deriving DecidableEq, Repr

/-- A piece of an image written by IMG_STAGE (R575). -/
structure StagePiece where
  offset : Nat
  bytes : List Byte
  deriving DecidableEq, Repr

/-- A record of an image's plaintext body (R571). -/
structure ImgRec where
  tag : Nat
  value : List Byte
  deriving DecidableEq, Repr

/-- An event record before its phase and slice generation are known (Table 12.5). -/
structure Rec where
  typ : Nat := 0
  status : Nat := 0
  srcHub : Nat := 0
  srcIndex : Nat := 0
  tag : Nat := 0
  ns : Nat := 0
  sec : Nat := 0
  ws : List Word := []
  deriving DecidableEq, Repr

/-- The retained policy: the auxiliary island's copy of the applied image (R52). -/
structure Policy where
  /-- per-pin safe level of ACT[n] of the image (03 R52, 02 R38; log 1) -/
  safeLevels : BitVec 32 := 0
  /-- bit n: ACT[n] is high impedance in its safe state (03 R52, 12 R395; log 1) -/
  safeHiz : BitVec 32 := 0
  /-- the image carried per-pin safe levels (record 0102h) (03 R52; log 1) -/
  hasSafe : Bool := false
  /-- Safe power policy: hold (otherwise open) (03 R77) -/
  safeHold : Bool := false
  /-- dormancy delay in ms (03 R62) -/
  dormancyMs : Nat := 1000
  deriving DecidableEq, Repr

/-- `Policy` at reset. -/
def Policy.init : Policy := {}

/-- A DEV_MODE request waiting for its DELAY (R394). -/
structure DevReq where
  /-- the requested mode is Safe (otherwise Sentry) (12 R394; log 1) -/
  toSafe : Bool := false
  /-- DELAY in ms (12 R394; log 1) -/
  delayMs : Nat := 0
  /-- TAG of the command (12 R387) -/
  tag : Nat := 0
  deriving DecidableEq, Repr

/-- `DevReq` at reset. -/
def DevReq.init : DevReq := {}

/-- Straps, mode and the other retained state of the auxiliary island (R52, R55). -/
structure Ret where
  /-- RESET_N is low, or TEST_EN has held the hub in reset: straps not sampled yet (03 R49) -/
  inReset : Bool := true
  /-- level of TEST_EN (02 R27; log 1) -/
  testEn : Bool := false
  /-- operating mode (Table 3.4) (03 R55) -/
  mode : Mode := .sentry
  /-- ACT[13:0] as sampled (02 R29; log 1) -/
  straps : BitVec 14 := 0
  /-- the straps have been sampled since the last RESET_N fall or power-on reset (02 R29) -/
  strapsValid : Bool := false
  /-- RESET_N rose with VDDIO_C invalid: sampling waits for VDDIO_C (02 R30) -/
  strapDefer : Bool := false
  /-- 20 us after the sampling instant have passed: ACT pins follow SAFELVL (02 R31) -/
  actDriven : Bool := false
  /-- the rails that are valid, without repeats (03 R43) -/
  rails : List Rail := []
  /-- the Safe latch (03 R80) -/
  safeLatch : Bool := false
  /-- cause of the last core reset (Table 3.3) (03 R53) -/
  resetCause : Nat := 0
  /-- a run request is pending (03 R63) -/
  runReq : Bool := false
  /-- level of WAKE_N (pulled up) (02 R25) -/
  wakeN : Bool := true
  /-- the retained policy, none before an image was applied (03 R52) -/
  policy : Option Policy := none
  /-- the DEV_MODE request in its DELAY (12 R394) -/
  devReq : Option DevReq := none
  /-- port * 2 + link on which this run request's WAKE has been sent (17 R642) -/
  wakeSent : List Nat := []
  /-- level of PE_PERST0_N (high = released) (11 R337; log 1) -/
  perst0 : Bool := false
  /-- level of PE_PERST1_N (11 R337; log 1) -/
  perst1 : Bool := false
  /-- rails of optional blocks that became valid in Safe: their blocks stay absent (03 R44) -/
  lateRails : List Rail := []
  /-- a tree reset of the core kind or a run-rail loss has reset the core and no image has been applied since: the action
  pins follow the retained safe levels (03 R54) -/
  actRetained : Bool := false
  /-- uptime tick + 1 at which the hub last entered Safe, 0 for never (03 R59) -/
  safeAt : Nat := 0
  /-- uptime (400 MHz ticks) from which XSPI_RESET_N's 10 us count, none while it is held low (03 R54, 21 R637) -/
  xspiAt : Option Nat := none
  deriving DecidableEq, Repr

/-- `Ret` at reset. -/
def Ret.init : Ret := {}

/-- One image slot of the flash (R566), with what verification of it would find. -/
structure FlashSlot where
  /-- step 1: MAGIC, FORMAT, HDRSIZE, PART, BODYLEN and reserved fields are good (18 R570; log 8) -/
  hdrOk : Bool := false
  /-- UNIT of the header (18 R567; log 8) -/
  unit : BitVec 64 := 0
  /-- step 3: the signature verifies under the key in the block (18 R569; log 8) -/
  sigOk : Bool := false
  /-- SHA-384 hash of the signer key (18 R569; log 8) -/
  signer : Nat := 0
  /-- step 5: WCEK unwraps and TAG verifies (18 R570; log 8) -/
  bodyOk : Bool := false
  /-- step 6: the sections parse (18 R571; log 8) -/
  sectOk : Bool := false
  /-- IMGVER (18 R567; log 8) -/
  imgVer : Word := 0
  /-- MINSVN (18 R567; log 8) -/
  minSvn : Nat := 0
  /-- DATAVER (18 R567; log 8) -/
  dataVer : Nat := 1
  /-- pieces written by IMG_STAGE since the slot was erased (18 R575; log 8) -/
  staged : List StagePiece := []
  /-- the slot has passed verification by a FINAL stage (18 R575; log 8) -/
  verified : Bool := false
  /-- the records of the plaintext body, in order (18 R571; log 8) -/
  records : List ImgRec := []
  deriving DecidableEq, Repr

/-- `FlashSlot` at reset. -/
def FlashSlot.init : FlashSlot := {}

/-- A PAIR record (R563, R576). -/
structure PairRec where
  /-- local link (18 R576; log 1) -/
  link : Nat := 0
  /-- local port (18 R576; log 1) -/
  port : Nat := 0
  /-- partner unit ID (18 R576; log 1) -/
  unit : BitVec 64 := 0
  /-- pair key (held encrypted under the blob key) (18 R563; log 1) -/
  key : List Byte := []
  deriving DecidableEq, Repr

/-- `PairRec` at reset. -/
def PairRec.init : PairRec := {}

/-- One data-area copy, and what its records say (R576). -/
structure DataArea where
  /-- the copy holds a valid header (18 R576; log 8) -/
  valid : Bool := false
  /-- record version 1 to 3 (18 R576; log 8) -/
  version : Nat := 1
  /-- GEN (18 R576; log 8) -/
  gen : Nat := 0
  /-- BOOT.ACTIVE: 0 A, 1 B, 255 none (18 R573; log 8) -/
  active : Nat := 255
  /-- BOOT.CONFIRMED of slot A (18 R573; log 8) -/
  confA : Bool := false
  /-- BOOT.CONFIRMED of slot B (18 R573; log 8) -/
  confB : Bool := false
  /-- BOOT.UNCONF (18 R573; log 8) -/
  unconf : Nat := 0
  /-- PAIR records (18 R576; log 8) -/
  pairs : List PairRec := []
  /-- BLOB records by slot (18 R576; log 8) -/
  blobs : Tab (List Byte) := []
  /-- SEQ of the latest record (versions 2 and 3) (18 R576; log 8) -/
  seq : Nat := 0
  /-- the copy's bytes as written: the area header and the records (18 R576; log 8) -/
  bytes : List Byte := []
  deriving DecidableEq, Repr

/-- `DataArea` at reset. -/
def DataArea.init : DataArea := {}

/-- Fused and flash state: no reset of this hub clears it. -/
structure Nv where
  /-- unit ID fused at manufacture (01 R20; log 8) -/
  unitId : BitVec 64 := 0
  /-- anti-rollback counter, 64 OTP steps (18 R574; log 8) -/
  counter : Nat := 0
  /-- ROOTHASH OTP field, none while blank (18 R569; log 8) -/
  rootHash : Option Nat := none
  /-- image slot A, 000000h to 1FFFFFh of the flash (18 R566; log 8) -/
  slotA : FlashSlot := FlashSlot.init
  /-- image slot B, 200000h to 3FFFFFh (18 R566; log 8) -/
  slotB : FlashSlot := FlashSlot.init
  /-- data-area copy 0, 400000h to 43FFFFh (18 R566, R576; log 8) -/
  area0 : DataArea := DataArea.init
  /-- data-area copy 1, 440000h to 47FFFFh (18 R566, R576; log 8) -/
  area1 : DataArea := DataArea.init
  deriving DecidableEq, Repr

/-- `Nv` at reset. -/
def Nv.init : Nv := {}

/-- A decoded entry of the equalisation table (Table 5.3). -/
structure EqEntry where
  /-- VALID (05 R117) -/
  valid : Bool := false
  /-- DFE tap 1 (05 R117) -/
  dfe1 : BitVec 8 := 0
  /-- DFE tap 2 (05 R117) -/
  dfe2 : BitVec 8 := 0
  /-- DFE tap 3 (05 R117) -/
  dfe3 : BitVec 8 := 0
  /-- CTLE peaking code (05 R117) -/
  ctle : Nat := 0
  /-- PRE (05 R117) -/
  pre : Nat := 0
  /-- MAIN (05 R117) -/
  main : Nat := 0
  /-- POST (05 R117) -/
  post : Nat := 0
  deriving DecidableEq, Repr

/-- `EqEntry` at reset. -/
def EqEntry.init : EqEntry := {}

/-- Settings the applied image's BOARD section gives the core (Chapter 18, Table 18.9). -/
structure Board where
  /-- an image has been applied since the core reset (03 R69) -/
  applied : Bool := false
  /-- no image is read, built-in defaults run (BOOT 10b) (18 R578) -/
  builtin : Bool := false
  /-- neither slot yielded a verified image (03 R68) -/
  noImage : Bool := false
  /-- straps the image selects to override: 0 LANEMAX 1 PSRC 2 FS_EN 3 USB_UP 4 HEADS (18 R571) -/
  ovSel : BitVec 5 := 0
  /-- override values: [1:0] LANEMAX [2] PSRC [3] FS_EN [4] USB_UP [6:5] HEADS (18 R571) -/
  ovVal : BitVec 7 := 0
  /-- the image replaced SAFELVL with per-pin levels (12 R395) -/
  safeImg : Bool := false
  /-- safe level of each ACT pin (12 R395) -/
  safeLevels : BitVec 32 := 0
  /-- bit n: ACT[n] high impedance in its safe state (12 R395) -/
  safeHiz : BitVec 32 := 0
  /-- port B is split into two links (01 R15) -/
  splitB : Bool := false
  /-- port C is split into two links (01 R15) -/
  splitC : Bool := false
  /-- bits 0..2: ports A, B, C absent (18 R571) -/
  absentPorts : BitVec 3 := 0
  /-- declared harness class per link, 0 by default (05 R115) -/
  classes : Tab Nat := []
  /-- the image carried the equalisation table record (05 R119) -/
  eqRecord : Bool := false
  /-- the image's equalisation table (05 R116) -/
  eqImage : Tab EqEntry := []
  /-- entries overridden by LINK_EQ_OVERRIDE (05 R146) -/
  eqOver : Tab EqEntry := []
  /-- indexes that are overridden (05 R146) -/
  eqOverKeys : List Nat := []
  /-- replay timer period per port in us, 8 by default (06 R161) -/
  replayUs : Tab Nat := []
  /-- receive-buffer division of the image, credits per class plus 1; none: Table 6.3 (06 R166) -/
  rxAlloc : Tab Nat := []
  /-- k of the exchange PERIOD per port, 8 (1 ms) by default (09 R271) -/
  exchK : Tab Nat := []
  /-- ASYM per port, 250 ps units (09 R273) -/
  asym : Tab Int := []
  /-- PCIe Vendor ID (11 R338) -/
  vendorId : BitVec 16 := 0x1F7E
  /-- PCIe Device ID (11 R338) -/
  deviceId : BitVec 16 := 0x4812
  /-- subsystem vendor ID (11 R338) -/
  subVendor : BitVec 16 := 0x1F7E
  /-- subsystem ID (11 R338) -/
  subId : BitVec 16 := 0
  /-- BAR2 size as log2 of bytes (11 R338) -/
  bar2log : Nat := 28
  /-- MACs E3..E0 fitted (18 R571; log 20) -/
  macFit : BitVec 4 := 15
  /-- CAN controllers fitted (18 R571; log 20) -/
  canFit : BitVec 2 := 3
  /-- IMGVER of the applied image (12 R393) -/
  imgVer : Word := 0
  /-- MINSVN of the applied image (12 R393) -/
  imgSvn : Nat := 0
  /-- DATAVER of the applied image (18 R577) -/
  imgDataVer : Nat := 0
  /-- entry leg of the startup traverse (18 R571) -/
  startEntry : Option Nat := none
  /-- entry leg of the HEALTH traverse (18 R571) -/
  healthEntry : Option Nat := none
  /-- TUNNEL records waiting for Field entry, in order (18 R572) -/
  tunnelRecs : List ImgRec := []
  deriving DecidableEq, Repr

/-- `Board` at reset. -/
def Board.init : Board := {}

/-- Settings of the pace loop (R101). -/
structure PaceCfg where
  /-- VID floor code (04 R101) -/
  floor : Nat := 0
  /-- VID ceiling code (04 R101) -/
  ceiling : Nat := 30
  /-- margin M (04 R101) -/
  margin : Nat := 26
  /-- mode HOLD (otherwise AUTO) (04 R101) -/
  hold : Bool := false
  deriving DecidableEq, Repr

/-- `PaceCfg` at reset. -/
def PaceCfg.init : PaceCfg := {}

/-- What PACE_QUERY reports (Table 4.7). -/
structure PaceShown where
  /-- MODE HOLD (04 R102) -/
  hold : Bool := false
  /-- TARGET (04 R102; log 1) -/
  target : Nat := 0
  /-- PMIN (04 R102; log 1) -/
  pmin : Nat := 0
  /-- PACE (04 R102; log 1) -/
  sample : Nat := 0
  /-- FLOOR (04 R102) -/
  floor : Nat := 0
  /-- CODE (04 R102) -/
  code : Nat := 18
  /-- DFLOOR (04 R102; log 1) -/
  dfloor : Nat := 0
  /-- DEMAND (04 R102; log 1) -/
  demand : Nat := 0
  /-- TJ_HIGH (04 R102) -/
  tjHigh : Bool := false
  /-- MON_INVALID (04 R102) -/
  monInvalid : Bool := false
  /-- SHORTFALL (04 R102) -/
  shortfall : Bool := false
  /-- AT_CEILING (04 R102) -/
  atCeiling : Bool := false
  /-- TJ (04 R102; log 1) -/
  tj : BitVec 8 := 0
  /-- SHED (04 R102) -/
  shed : Nat := 0
  /-- MARGIN (04 R102) -/
  margin : Nat := 26
  /-- CEILING (04 R102) -/
  ceiling : Nat := 30
  /-- SHORTFALLS (04 R102) -/
  shortfalls : Nat := 0
  deriving DecidableEq, Repr

/-- `PaceShown` at reset. -/
def PaceShown.init : PaceShown := {}

/-- The pace loop (Chapter 4). -/
structure Pace where
  /-- settings in force (04 R101) -/
  cfg : PaceCfg := PaceCfg.init
  /-- PACE_SET waiting for the interval end (04 R93) -/
  pendCfg : Option PaceCfg := none
  /-- code presented when HOLD took effect (04 R94) -/
  holdCode : Nat := 18
  /-- code presented on VID[4:0] (04 R87) -/
  code : Nat := 18
  /-- code presented before code 31 (04 R84) -/
  prevCode : Nat := 18
  /-- the pace monitor is invalid (04 R84) -/
  monInvalid : Bool := false
  /-- a replica ring has a stall or an illegal code now (04 R84) -/
  ringFault : Bool := false
  /-- latest pace sample P (04 R83; log 1) -/
  sample : Nat := 0
  /-- lowest sample of the running interval (04 R92) -/
  curMin : Nat := 1023
  /-- the running interval has held a sample (04 R92) -/
  curSome : Bool := false
  /-- P_min of the latest interval (04 R92; log 1) -/
  pmin : Nat := 0
  /-- P_min of the last intervals, newest first, at most 10 (04 R92) -/
  hist : List Nat := []
  /-- consecutive intervals with P_min of D_F or more during a shortfall (04 R98) -/
  okRun : Nat := 0
  /-- shed level S (04 R96) -/
  shed : Nat := 0
  /-- PACE_SHORTFALL holds (04 R98) -/
  shortfall : Bool := false
  /-- PACE_SHORTFALL starts, saturating (04 R102) -/
  shortfalls : Nat := 0
  /-- demand index D of the latest interval (04 R90; log 1) -/
  demand : Nat := 0
  /-- floor demand index D_F (04 R90; log 1) -/
  dfloor : Nat := 0
  /-- pace target T (04 R91; log 1) -/
  target : Nat := 0
  /-- Tj above 125 C (04 R102) -/
  tjHigh : Bool := false
  /-- die temperature (04 R102; log 1) -/
  tj : BitVec 8 := 0
  /-- PACE_QUERY values of the end of the latest interval; before the first, the reset values of Table 4.7 (04 R102; log 1) -/
  shown : PaceShown := PaceShown.init
  deriving DecidableEq, Repr

/-- `Pace` at reset. -/
def Pace.init : Pace := {}

/-- A compliance pattern on a link (R137, R145). -/
structure Pattern where
  /-- pattern running, 0 none (05 R145) -/
  pat : Nat := 0
  /-- lanes driven and checked (05 R145) -/
  lanes : BitVec 4 := 0
  /-- rate code (05 R145) -/
  rate : Nat := 0
  /-- class (05 R145) -/
  cls : Nat := 0
  /-- receive checker on (05 R145) -/
  check : Bool := false
  /-- DURATION in ms, 0 until PATTERN 0 (05 R145) -/
  durationMs : Nat := 0
  /-- bit errors per lane of the last pattern, saturating (05 R145) -/
  errs : Tab Nat := []
  /-- bits checked per lane in units of 2^20 (05 R145) -/
  bits : Nat := 0
  deriving DecidableEq, Repr

/-- `Pattern` at reset. -/
def Pattern.init : Pattern := {}

/-- A packet waiting in an egress queue. -/
structure QPkt where
  /-- the packet (08 R229; log 1) -/
  pkt : TxPkt := TxPkt.init
  /-- class it is queued in (URGTC for urgent display packets) (08 R227; log 1) -/
  cls : Nat := 0
  /-- datum instant (250 ps) at which it was queued (08 R231; log 1) -/
  since : Nat := 0
  /-- the tunnel is LOSSY (08 R231; log 1) -/
  lossy : Bool := false
  /-- link it arrived on, its number among the packets accepted there, and its class: the receive buffer it holds; none from a local
  source (08 R231) -/
  rx : Option (Nat × Nat × Nat) := none
  deriving DecidableEq, Repr

/-- `QPkt` at reset. -/
def QPkt.init : QPkt := {}

/-- The re-attach grace of a downstream link (R197). -/
structure Grace where
  /-- unit ID of the partner of the ended epoch (07 R197; log 1) -/
  unit : BitVec 64 := 0
  /-- its CFGGEN (07 R197; log 1) -/
  cfgGen : BitVec 8 := 0
  /-- the 2 s have not passed (07 R197) -/
  running : Bool := true
  /-- EVENT the IDENT of the next epoch decides, 0 before it: 1 back within the grace, 3 otherwise (07 R197) -/
  judged : Nat := 0
  deriving DecidableEq, Repr

/-- `Grace` at reset. -/
def Grace.init : Grace := {}

/-- A gate-list slot (R234). -/
structure GateSlot where
  /-- the slot holds a list (08 R234) -/
  loaded : Bool := false
  /-- BASE, ns (08 R234; log 1) -/
  base : Nat := 0
  /-- CYCLE, ns (08 R234; log 1) -/
  cycle : Nat := 0
  /-- entries of Table 8.2 (08 R234) -/
  entries : List Word := []
  deriving DecidableEq, Repr

/-- `GateSlot` at reset. -/
def GateSlot.init : GateSlot := {}

/-- A graticule window on one link (R238, R239). -/
structure Window where
  /-- tunnel (08 R240; log 1) -/
  tid : Nat := 0
  /-- T, ns (08 R238; log 1) -/
  period : Nat := 0
  /-- offset, ns (08 R238; log 1) -/
  offset : Nat := 0
  /-- Q, bytes (08 R238; log 1) -/
  q : Nat := 0
  /-- LMAX, bytes (08 R238; log 1) -/
  lmax : Nat := 0
  /-- o(i) - o(0), ns (08 R255; log 1) -/
  hopOpen : Nat := 0
  /-- c(i) - o(i), ns (08 R255; log 1) -/
  hopLen : Nat := 0
  /-- the window is open now (08 R239) -/
  isOpen : Bool := false
  /-- bytes sent in this occurrence (08 R229) -/
  sent : Nat := 0
  /-- MISSES, modulo 2^32 (08 R257) -/
  misses : Nat := 0
  /-- MISSES at the last WINDOW_MISSED (08 R249) -/
  missRep : Nat := 0
  /-- the window has taken effect (08 R240) -/
  effect : Bool := false
  /-- its tunnel is SUSPENDED (08 R240) -/
  suspended : Bool := false
  /-- instant at which its latest occurrence opened plus 1, 0 for none, in the schedulers' time unit (08 R238) -/
  occ : Nat := 0
  /-- datum ns at which this hop acknowledged it (08 R240) -/
  ackAt : Nat := 0
  deriving DecidableEq, Repr

/-- `Window` at reset. -/
def Window.init : Window := {}

/-- The egress scheduler of one link (Chapter 8). -/
structure LinkSched where
  /-- URGTC (08 R252) -/
  urgTc : Nat := 6
  /-- ADMIT, percent (08 R252) -/
  admitPct : Nat := 90
  /-- AGE, us, 0 none (08 R252) -/
  ageUs : Nat := 1000
  /-- OVH, bytes (08 R252) -/
  ovh : Nat := 6
  /-- CI, us (08 R252) -/
  ciUs : Nat := 10
  /-- absolute configured idle slope + 1 per class (10 kbit/s); absent: the share of Table 8.1 (08 R225) -/
  cfgIdle : Tab Nat := []
  /-- HICREDIT per class plus 1, 1/256 byte; absent: 4096 bytes (08 R252) -/
  hiCredit : Tab Nat := []
  /-- minus LOCREDIT per class plus 1, 1/256 byte; absent: 4096 bytes (08 R252) -/
  loCredit : Tab Nat := []
  /-- credit per class, in fill units: 31250 * 2^32 of them make 1/256 byte (08 R232) -/
  credit : Tab Int := []
  /-- instant at which the class's credit was last brought up to date, in tenths of 2^-32 ns (08 R232) -/
  creditAt : Tab Nat := []
  /-- gate-list slots (08 R234) -/
  gates : Tab GateSlot := []
  /-- operating slot, 4 for none (08 R257) -/
  opSlot : Nat := 4
  /-- slot of a pending switch, 7 for none (08 R257) -/
  pendSlot : Nat := 7
  /-- switch instant of the pending switch, ns (08 R254; log 1) -/
  pendAt : Nat := 0
  /-- entry of the operating list in force since the credits were last brought up to date (08 R234) -/
  gateIdx : Nat := 0
  /-- windows crossing the link (08 R240) -/
  windows : List Window := []
  /-- egress queue, arrival order (08 R229) -/
  queue : List QPkt := []
  /-- round-robin pointer (last tunnel served) per class and tier (08 R229) -/
  rr : Tab Nat := []
  /-- the link is over-committed (08 R245) -/
  overCommit : Bool := false
  /-- datum second + 1 of the last alert per reason (08 R249) -/
  lastAlert : Tab Nat := []
  deriving DecidableEq, Repr

/-- `LinkSched` at reset. -/
def LinkSched.init : LinkSched := {}

/-- Lanes, training, doze and patterns of a link (Chapter 5). -/
structure Lane where
  /-- depth of the transmit direction (05 R131) -/
  txDoze : Doze := .awake
  /-- depth of the receive direction (05 R131) -/
  rxDoze : Doze := .awake
  /-- the transmit direction is waking (05 R134) -/
  txWaking : Bool := false
  /-- the receive direction is waking (05 R134) -/
  rxWaking : Bool := false
  /-- DEPTH of the doze policy (05 R142) -/
  depth : Nat := 2
  /-- LIGHT_TO, us (05 R142) -/
  lightTo : Nat := 10
  /-- DEEP_TO, us (05 R142) -/
  deepTo : Nat := 1000
  /-- GUARD, us (05 R142) -/
  guard : Nat := 2
  /-- LINK_WAKE commands waiting for the direction to be awake (05 R143) -/
  wakeCmd : List Cmd := []
  /-- datum second + 1 of the last DOZE_HELD event (05 R133) -/
  dozeHeldSec : Nat := 0
  /-- per port lane, oldest first: code violations of the latest symbol times, while one stands among them (05 R110) -/
  viols : Tab (List Bool) := []
  /-- limit set by LINK_RATE, none: the effective LANEMAX (05 R140) -/
  rateLim : Option Nat := none
  /-- rate-fallback limit, none when clear (05 R126) -/
  fallback : Option Nat := none
  /-- unit ID of the far end whose failed attempts set that limit (05 R126; log 1) -/
  fallUnit : BitVec 64 := 0
  /-- consecutive failed attempts at one rate (05 R126) -/
  fails : Nat := 0
  /-- that rate (05 R126) -/
  failRate : Nat := 3
  /-- the 100 ms wait after three failures at Survey rate (05 R126) -/
  roundWait : Bool := false
  /-- far end's rate proposal of this attempt (05 R121) -/
  farProp : Option Nat := none
  /-- far end's width of this attempt (05 R121; log 1) -/
  farWidth : Nat := 0
  /-- ATTEMPT number (17 R521; log 1) -/
  attempt : Nat := 0
  /-- this end has sent its RATE for the attempt (17 R522) -/
  propSent : Bool := false
  /-- rate proposed in it (05 R121) -/
  ownProp : Nat := 3
  /-- rate code being trained or trained (05 R103) -/
  rate : Nat := 3
  /-- lanes in use, 0 when DOWN (06 R183) -/
  width : Nat := 0
  /-- width agreed over the sideband (05 R121; log 1) -/
  agreedWidth : Nat := 0
  /-- combined cable class (05 R115; log 1) -/
  cls : Nat := 0
  /-- far end's declared class (05 R115; log 1) -/
  farCls : Nat := 0
  /-- step of the training attempt (05 R124) -/
  phase : TrainPhase := .idle
  /-- entry in force on the lanes (05 R120; log 1) -/
  eq : EqEntry := EqEntry.init
  /-- lanes with symbol lock (05 R110) -/
  locked : BitVec 4 := 0
  /-- lanes whose receive polarity is inverted (05 R112) -/
  polInv : BitVec 4 := 0
  /-- receive lane order reversed (05 R113) -/
  reversed : Bool := false
  /-- port A trained on lanes 3:2 (05 R113) -/
  upperPair : Bool := false
  /-- a move to the agreed rate is requested (05 R122) -/
  rateMove : Bool := false
  /-- the link is in loss of signal (05 R129) -/
  los : Bool := false
  /-- an announced retrain has stopped new packets (05 R127) -/
  quiesce : Bool := false
  /-- CAUSE the announced retrain will report (06 R183; log 1) -/
  retrainCause : Nat := 0
  /-- LINK_RATE and LINK_RETRAIN waiting for the link's retrain (05 R140) -/
  linkCmd : List Cmd := []
  /-- compliance pattern and its results (05 R137) -/
  pattern : Pattern := Pattern.init
  /-- the far end is upstream-facing (sideband DF clear) (01 R14; log 1) -/
  sbUpf : Bool := false
  deriving DecidableEq, Repr

/-- `Lane` at reset. -/
def Lane.init : Lane := {}

/-- One hitch link: lanes, training, link layer, counters (Chapters 5 and 6). -/
structure Link where
  /-- link state (Table 6.4) (06 R180) -/
  st : LinkSt := .down
  /-- lanes and training (05 R103) -/
  lane : Lane := Lane.init
  /-- an epoch is held on the link (06 R174) -/
  epochHeld : Bool := false
  /-- epoch number (06 R173; log 9) -/
  epoch : BitVec 8 := 0
  /-- link generation (06 R175; log 9) -/
  gen : BitVec 8 := 0
  /-- an IDENT has been received since the core reset (06 R185) -/
  pKnown : Bool := false
  /-- partner unit ID (06 R185) -/
  pUnit : BitVec 64 := 0
  /-- partner CFGGEN (06 R185) -/
  pCfgGen : BitVec 8 := 0
  /-- partner is upstream-facing (06 R185) -/
  pUpf : Bool := false
  /-- partner hub number (06 R185) -/
  pHub : Option Nat := none
  /-- unit ID of the far end's sideband IDENT (06 R173) -/
  sbUnit : Option (BitVec 64) := none
  /-- NONCE sent in this epoch's IDENT (06 R151; log 9) -/
  nonceTx : Word := 0
  /-- NONCE received (06 R151; log 1) -/
  nonceRx : Word := 0
  /-- the partner's IDENT of this training has been received (06 R173) -/
  identRx : Bool := false
  /-- IDENT repetition is running (06 R173) -/
  identTx : Bool := false
  /-- CONT sent in this training (06 R174) -/
  contTx : Bool := false
  /-- a domain-fatal error of the link makes it refuse continuation at its next training (19 R585) -/
  refuse : Bool := false
  /-- INIT_FC or FC_UPDATE of TC0-TC3 received in this training (06 R174) -/
  fcLoRx : Bool := false
  /-- INIT_FC or FC_UPDATE of TC4-TC7 received in this training (06 R174) -/
  fcHiRx : Bool := false
  /-- this training starts a new epoch (06 R174) -/
  newEpoch : Bool := false
  /-- LSEQ of the next new packet (06 R156) -/
  txSeq : BitVec 12 := 0
  /-- expected number E (06 R158) -/
  rxSeq : BitVec 12 := 0
  /-- packets accepted, which number the receive buffers they hold: the model's own (06 R166, R231) -/
  rxNo : Nat := 0
  /-- a NAK is pending (06 R158) -/
  nakPending : Bool := false
  /-- a NAK has to be sent (06 R159) -/
  nakDue : Bool := false
  /-- an ACK has to be sent (06 R159) -/
  ackDue : Bool := false
  /-- unacknowledged packets, oldest first (06 R157) -/
  replay : List TxPkt := []
  /-- REPLAY_NUM (06 R162) -/
  replayNum : Nat := 0
  /-- a replay is under way (06 R162) -/
  replaying : Bool := false
  /-- next packet of the replay buffer to be sent in the replay under way (06 R162) -/
  replayIdx : Nat := 0
  /-- SEQ that started the replay under way (06 R163; log 1) -/
  replayFrom : BitVec 12 := 0
  /-- the replay timer runs (06 R161) -/
  timerRun : Bool := false
  /-- uptime tick at which it expires; while it is held, the ticks it has left (05 R135, 06 R161) -/
  timerEnd : Nat := 0
  /-- credit limit CL received per class (06 R167) -/
  cl : Tab Nat := []
  /-- credits consumed CC per class (06 R167) -/
  cc : Tab Nat := []
  /-- credit limit this end advertises per class (06 R167) -/
  clLocal : Tab Nat := []
  /-- credit limit last advertised per class (06 R168) -/
  clAdv : Tab Nat := []
  /-- receive-buffer credits in use per class (06 R166) -/
  rxUsed : Tab Nat := []
  /-- seal keys of the current epoch: the pair key and the context of their derivation, none without a key (06 R170, 18 R564) -/
  sealKey : Option (List (List Byte)) := none
  /-- next SEALCNT to send (06 R171) -/
  sealTx : Word := 0
  /-- SEALCNT FFFFFFFFh was used: the next packet toggles the phase (06 R171) -/
  sealWrapped : Bool := false
  /-- transmit key phase count p (06 R171) -/
  kphaseTx : Nat := 0
  /-- receive key phase count (06 R171) -/
  kphaseRx : Nat := 0
  /-- tag failures of this epoch (06 R172) -/
  sealFails : Nat := 0
  /-- LINK_COUNTERS: key group * 8 + index (06 R186) -/
  counters : Tab Nat := []
  /-- DENIED has been reported and not re-armed (06 R182) -/
  deniedRep : Bool := false
  /-- LIMIT has been reported and not re-armed (06 R182) -/
  limitRep : Bool := false
  /-- re-attach grace of this downstream link (07 R197) -/
  grace : Option Grace := none
  /-- the link leads to an evicted hub (07 R219) -/
  evicted : Bool := false
  /-- ephemeral pairing key of BEGIN (18 R562) -/
  ephem : Option (List Byte) := none
  /-- child: k of the PERIOD last received (09 R271) -/
  xK : Nat := 8
  /-- parent: SEQ of the next TIMEX; child: SEQ expected (09 R273; log 1) -/
  xSeq : BitVec 8 := 0
  /-- parent: t1 of the exchange under way, 250 ps (09 R272; log 1) -/
  xT1 : Nat := 0
  /-- parent: the child's TMK is awaited (09 R272) -/
  xWait : Bool := false
  /-- parent: scheduled instant of the last exchange started, 2^-32 ns (09 R271; log 39) -/
  xLast : Nat := 0
  /-- child: a SEQ has been heard since the new epoch (09 R275) -/
  xSync : Bool := false
  /-- egress scheduler (08 R225) -/
  sched : LinkSched := LinkSched.init
  /-- the replay timer is held while the receive direction dozes (05 R135) -/
  timerHeld : Bool := false
  deriving DecidableEq, Repr

/-- `Link` at reset. -/
def Link.init : Link := {}

/-- A Gazetteer entry (Table 7.4). -/
structure Gaz where
  /-- GEN (07 R203) -/
  gen : BitVec 8 := 0
  /-- 0 CLOSED 1 OPENING 2 OPEN 3 SUSPENDED 4 CLOSING (07 R203) -/
  state : Nat := 0
  /-- CLASS (07 R203) -/
  cls : Nat := 0
  /-- TC (07 R203) -/
  tc : Nat := 0
  /-- SEALED (07 R203) -/
  sealed : Bool := false
  /-- LOSSY (07 R203) -/
  lossy : Bool := false
  /-- MCAST (07 R203) -/
  mcast : Bool := false
  /-- INGRESS: link code, 7 local source (07 R203) -/
  ingress : Nat := 0
  /-- EGRESS links (07 R203) -/
  egress : BitVec 5 := 0
  /-- LOCAL (07 R203) -/
  loc : Bool := false
  /-- CAUSE (07 R203) -/
  cause : Nat := 0
  /-- DUPLEX (07 R203) -/
  duplex : Bool := false
  /-- TID (07 R203) -/
  tid : Nat := 0
  /-- OWNERHUB (07 R203) -/
  ownerHub : Nat := 0
  /-- OWNERSLICE (07 R203) -/
  ownerSlice : Nat := 0
  /-- SRCEP (07 R203) -/
  srcEp : Nat := 0
  /-- DSTEP (07 R203) -/
  dstEp : Nat := 0
  /-- BOUND (07 R203) -/
  bound : Nat := 0
  /-- DROPS, saturating (07 R203) -/
  drops : Nat := 0
  /-- PKTS, modulo 65536 (07 R203) -/
  pkts : Nat := 0
  deriving DecidableEq, Repr

/-- `Gaz` at reset. -/
def Gaz.init : Gaz := {}

/-- The root's record of a hub number (R220). -/
structure HubRec where
  /-- RECSTATE (07 R220) -/
  state : Nat := 0
  /-- unit ID (07 R220) -/
  unit : BitVec 64 := 0
  /-- last CFGGEN seen (07 R220) -/
  cfgGen : BitVec 8 := 0
  /-- ROLE strap (07 R220) -/
  role : Nat := 0
  /-- ROUTE (07 R220) -/
  route : Nat := 0
  /-- DEPTH (07 R220) -/
  depth : Nat := 0
  /-- link of the parent (07 R220) -/
  link : Nat := 0
  /-- parent hub number (07 R220) -/
  parent : Nat := 0
  /-- payload rate of its link to its parent as LINK_STATE last told the root, in 10 kbit/s, 0 for none (08 R241; log 33) -/
  upRate : Nat := 0
  deriving DecidableEq, Repr

/-- `HubRec` at reset. -/
def HubRec.init : HubRec := {}

/-- A HELLO the root has heard and not answered (R192). -/
structure HelloRec where
  /-- sender unit ID (07 R187; log 1) -/
  unit : BitVec 64 := 0
  /-- ROUTE (07 R187; log 1) -/
  route : Nat := 0
  /-- COUNT (07 R187; log 1) -/
  count : Nat := 0
  /-- ROLE strap (07 R187; log 1) -/
  role : Nat := 0
  /-- CFGGEN (07 R187; log 1) -/
  cfgGen : BitVec 8 := 0
  deriving DecidableEq, Repr

/-- `HelloRec` at reset. -/
def HelloRec.init : HelloRec := {}

/-- The root's record of a tunnel (Table 7.8), with its path and exits. -/
structure TunRec where
  /-- STATE (07 R223) -/
  state : Nat := 0
  /-- CLASS (07 R223) -/
  cls : Nat := 0
  /-- TC (07 R223) -/
  tc : Nat := 0
  /-- SEALED (07 R223) -/
  sealed : Bool := false
  /-- LOSSY (07 R223) -/
  lossy : Bool := false
  /-- DUPLEX (07 R223) -/
  duplex : Bool := false
  /-- GEN (07 R223) -/
  gen : BitVec 8 := 0
  /-- OWNERHUB (07 R223) -/
  ownerHub : Nat := 0
  /-- OWNERSLICE (07 R223) -/
  ownerSlice : Nat := 0
  /-- SRCHUB (07 R223) -/
  srcHub : Nat := 0
  /-- SRCEP (07 R223) -/
  srcEp : Nat := 0
  /-- CAUSE (07 R223) -/
  cause : Nat := 0
  /-- hubs that hold a hop with their distance from the source, in path order (07 R223) -/
  path : List (Nat × Nat) := []
  /-- exits: hub and endpoint code (07 R223) -/
  exits : List (Nat × Nat) := []
  /-- graticule window of the tunnel (entry-hop figures) (08 R255) -/
  win : Option Window := none
  /-- bound: best-effort, floor, ceiling (10 kbit/s) (08 R256) -/
  bound : Option (Bool × Nat × Nat) := none
  /-- the source hub's entry as its last TUN_ACK gave it (07 R224) -/
  srcEntry : Option Gaz := none
  deriving DecidableEq, Repr

/-- `TunRec` at reset. -/
def TunRec.init : TunRec := {}

/-- A tunnel transaction of the root (R208 to R214). -/
structure TunOp where
  /-- what the transaction does (07 R208; log 1) -/
  kind : TunOpKind := .open
  /-- tunnel ID (even ID of a duplex pair) (07 R208; log 1) -/
  tid : Nat := 0
  /-- the IDs it acts on (07 R209; log 1) -/
  ids : List Nat := []
  /-- steps still to be taken: per message the hub, the ID and 0 TUN_PROG OPENING, 1 TUN_PROG OPEN, 2 TUN_SET OPEN, 3 TUN_SET SUSPENDED, 4 TUN_SET CLOSING (07 R209) -/
  steps : List (List (Nat × Nat × Nat)) := []
  /-- (hub, ID) whose TUN_ACK is awaited (07 R209) -/
  waiting : List (Nat × Nat) := []
  /-- (hub, status) refused in this step (07 R221) -/
  fails : List (Nat × Nat) := []
  /-- status the command will complete with (07 R209) -/
  status : Nat := 0
  /-- the command being executed, none for the root's own work (07 R208) -/
  cmd : Option Cmd := none
  /-- TAG of its messages (07 R187) -/
  tag : Nat := 0
  /-- status of the TUNNEL_STATE that ends the root's own work (07 R224) -/
  event : Option Nat := none
  /-- record to go back to when an added exit is refused (07 R214) -/
  old : Option TunRec := none
  /-- hub and slice of the command whose execution closes the tunnel (07 R224) -/
  asker : Option (Nat × Nat) := none
  /-- TAG of the command that causes it, 0 none (12 R387) -/
  cause : Nat := 0
  deriving DecidableEq, Repr

/-- `TunOp` at reset. -/
def TunOp.init : TunOp := {}

/-- Tree state: numbers, CTRL routes, Gazetteer, and the root's tables (Chapter 7). -/
structure Tree where
  /-- hub number held by a non-root hub (07 R193) -/
  hub : Option Nat := none
  /-- configuration generation (07 R190; log 9) -/
  cfgGen : BitVec 8 := 0
  /-- unit ID of the root that last numbered this hub (07 R187) -/
  rootUnit : BitVec 64 := 0
  /-- the Gazetteer (07 R203) -/
  gaz : Tab Gaz := []
  /-- unit ID of each hub number learnt downstream (07 R191) -/
  numUnits : Tab (BitVec 64) := []
  /-- hub numbers whose CTRL entry the end of an epoch has closed and that have not been learnt again (07 R195) -/
  lostRoutes : List Nat := []
  /-- NOTOPEN counter (07 R223) -/
  notOpen : Nat := 0
  /-- WRONGIN counter (07 R223) -/
  wrongIn : Nat := 0
  /-- STALEGEN counter (07 R223) -/
  staleGen : Nat := 0
  /-- FRAGERR counter (07 R223) -/
  fragErr : Nat := 0
  /-- partial tunnel message per tunnel at a local exit (07 R207) -/
  partials : Tab (List Byte) := []
  /-- tunnels with a message in progress at a local exit (07 R207) -/
  inMsg : List Nat := []
  /-- packets that wait at a local exit for room in a transmit buffer or for a request entry, in arrival order (15 R472, 16 R498) -/
  exitQ : List QPkt := []
  /-- root: record of each hub number (07 R220) -/
  hubs : Tab HubRec := []
  /-- root: HELLOs not answered yet (07 R192) -/
  pendHello : List HelloRec := []
  /-- root: HELLOs refused since the tree last changed (07 R193) -/
  refused : List HelloRec := []
  /-- root: refusals that a change of the tree has ended, until the unit is heard again (01 R20) -/
  lapsed : List HelloRec := []
  /-- root: initial enumeration (or a renumbering) runs (07 R192) -/
  enumRun : Bool := false
  /-- root: initial enumeration has ended (07 R194) -/
  enumDone : Bool := false
  /-- root: TREE_ENUMERATE with RENUMBER in progress (07 R219) -/
  renumCmd : Option Cmd := none
  /-- root: number each unit last held under this root (07 R194) -/
  lastNums : List (BitVec 64 × Nat) := []
  /-- root: tunnel records (07 R208) -/
  tuns : Tab TunRec := []
  /-- root: the tunnel transaction under way (07 R208) -/
  tunOp : Option TunOp := none
  /-- root: transactions waiting, arrival order (07 R208) -/
  tunQ : List TunOp := []
  /-- TAG + 1 of the TUN_SET CLOSING a CLOSING hop has still to acknowledge (07 R210) -/
  closing : Tab Nat := []
  /-- root: TAG of the next TUN_PROG or TUN_SET (07 R187) -/
  ackTag : Nat := 0
  /-- root: evicted hub numbers (heads of evicted subtrees) (07 R219) -/
  evictedHubs : List Nat := []
  /-- egress links that a TUN_PROG has added to an OPEN hop: tunnel * 8 + link, with the uptime plus 1 (08 R241, R245; log 53) -/
  fresh : Tab Nat := []
  /-- role last reported: counts as a branch (01 R12) -/
  wasBranch : Bool := false
  deriving DecidableEq, Repr

/-- `Tree` at reset. -/
def Tree.init : Tree := {}

/-- A bound record (R242). -/
structure Bound where
  /-- tunnel (08 R242) -/
  tid : Nat := 0
  /-- best-effort (otherwise standard) (08 R242) -/
  be : Bool := false
  /-- F, 10 kbit/s (08 R242) -/
  floor : Nat := 0
  /-- C, 10 kbit/s (08 R242) -/
  ceil : Nat := 0
  deriving DecidableEq, Repr

/-- `Bound` at reset. -/
def Bound.init : Bound := {}

/-- A bound's state on one egress link (R246, R247). -/
structure BoundLink where
  /-- floor bucket, in fill units: 31250 * 2^32 of them make 1/256 byte (08 R246) -/
  floorB : Int := 0
  /-- borrow bucket, in the same units (08 R246) -/
  borrowB : Int := 0
  /-- loan L, 10 kbit/s (08 R247) -/
  loan : Nat := 0
  /-- bytes sent in the running credit interval (08 R247) -/
  sent : Nat := 0
  /-- lender in the last interval (08 R257) -/
  lender : Bool := false
  /-- borrower in the last interval (08 R257) -/
  borrower : Bool := false
  /-- idle floor it put in the pool in the last interval, 10 kbit/s (08 R248) -/
  lent : Nat := 0
  deriving DecidableEq, Repr

/-- `BoundLink` at reset. -/
def BoundLink.init : BoundLink := {}

/-- The window or bound programming the root is carrying out (R251, R255, R256). -/
structure WinOp where
  /-- window (otherwise bound) (08 R251; log 1) -/
  isWin : Bool := false
  /-- tunnel (08 R251; log 1) -/
  tid : Nat := 0
  /-- HTAG of its hop forms (12 R375) -/
  tag : Nat := 0
  /-- hub of each hop form that has not completed (08 R251) -/
  waiting : List Nat := []
  /-- hubs whose RECEIVED has arrived (12 R377; log 1) -/
  got : List Nat := []
  /-- hop forms refused: hub, status, completion DW5 (08 R251) -/
  fails : List (Nat × Nat × Word) := []
  /-- the hops are being set back after a refusal (08 R251) -/
  undo : Bool := false
  /-- the command, none for the root's own work (08 R251) -/
  cmd : Option Cmd := none
  /-- window being set, none when removed (08 R255) -/
  winRec : Option Window := none
  /-- bound being set, none when removed (08 R256) -/
  bnd : Option (Bool × Nat × Nat) := none
  /-- c(last) - o(0), ns (08 R255) -/
  span : Nat := 0
  /-- hops with a window (08 R255) -/
  nhops : Nat := 0
  deriving DecidableEq, Repr

/-- `WinOp` at reset. -/
def WinOp.init : WinOp := {}

/-- What a hop form found at its hop (R251). -/
structure Back where
  /-- of a window, otherwise of a bound (08 R251; log 33) -/
  isWin : Bool := false
  /-- tunnel (08 R251; log 33) -/
  tid : Nat := 0
  /-- link of a window, 0 for a bound (08 R251; log 33) -/
  link : Nat := 0
  /-- HTAG of the form (12 R375; log 33) -/
  tag : Nat := 0
  /-- free-running 2.5 ns count at which it came (08 R251; log 33) -/
  since : Nat := 0
  /-- the tunnel's windows on the link, in effect and waiting (08 R251; log 33) -/
  wins : List Window := []
  /-- the tunnel's bound (08 R251; log 33) -/
  bound : Option Bound := none
  deriving DecidableEq, Repr

/-- `Back` at reset. -/
def Back.init : Back := {}

/-- Hub-wide scheduling state (Chapter 8). -/
structure Sched where
  /-- bound records 01h to FFh (08 R242) -/
  bounds : Tab Bound := []
  /-- per link and record: key link * 256 + record (08 R246) -/
  blink : Tab BoundLink := []
  /-- root: window or bound transaction (08 R251) -/
  winOp : Option WinOp := none
  /-- root: SCHED_WINDOW_SET and SCHED_BOUNDS waiting, and tunnels whose window (true) or bound is reapplied (R241, R242) (08 R251) -/
  winQ : List (Option Cmd × Nat × Bool) := []
  /-- what the hop forms of the latest transaction found here (08 R251; log 33) -/
  back : List Back := []
  deriving DecidableEq, Repr

/-- `Sched` at reset. -/
def Sched.init : Sched := {}

/-- A pending step of datum time (R264). -/
structure Step where
  /-- boundary, old SECONDS at which the step applies (09 R264; log 1) -/
  atSec : Nat := 0
  /-- datum time after the step, 2^-32 ns (09 R264; log 1) -/
  newT : Nat := 0
  /-- only SECONDS changes (09 R280; log 1) -/
  secOnly : Bool := false
  /-- ordered by TIME_SET: the state becomes FREE under source FREE (09 R289; log 1) -/
  byTime : Bool := false
  deriving DecidableEq, Repr

/-- `Step` at reset. -/
def Step.init : Step := {}

/-- A timestamp input (TRIG_IN, PPS_IN or an ACT pin) (R284, R292). -/
structure StampIn where
  /-- 00b disarmed 01b rising 10b falling 11b both (09 R292) -/
  edge : Nat := 0
  /-- ONCE (09 R292) -/
  once : Bool := false
  /-- slice that armed the input (09 R292; log 1) -/
  slice : Nat := 0
  /-- hub of that slice (09 R292; log 1) -/
  hub : Nat := 0
  /-- accepted edges since arming (09 R295) -/
  seq : Nat := 0
  /-- lost-edge count, saturating (09 R284) -/
  lost : Nat := 0
  /-- instant of the last accepted edge, 250 ps (09 R284) -/
  lastAt : Option Nat := none
  deriving DecidableEq, Repr

/-- `StampIn` at reset. -/
def StampIn.init : StampIn := {}

/-- PPS_OUT or TIME_OUT (R293). -/
structure TimeOut where
  /-- MODE (09 R293) -/
  mode : Nat := 0
  /-- INVERT (09 R293) -/
  invert : Bool := false
  /-- LEVEL (09 R293) -/
  level : Bool := false
  /-- PERIOD, ns (09 R293; log 1) -/
  period : Nat := 1000000000
  /-- OFFSET, ns (09 R293) -/
  offset : Nat := 0
  /-- WIDTH, ns (09 R293; log 1) -/
  width : Nat := 0
  /-- INSTANT, ns (09 R293; log 1) -/
  instant : Nat := 0
  /-- the output is at its active level (09 R283) -/
  active : Bool := false
  /-- configured since the core reset (low until then) (09 R283) -/
  configured : Bool := false
  /-- next scheduled leading edge, or the instant of mode 3, ns; none when nothing is left to launch (09 R265; log 39) -/
  next : Option Nat := none
  /-- scheduled trailing edge of the pulse under way, ns (09 R283) -/
  fallAt : Option Nat := none
  /-- instant the settings took effect, 250 ps: an edge due before goes out then (09 R293; log 39) -/
  from250 : Nat := 0
  deriving DecidableEq, Repr

/-- `TimeOut` at reset. -/
def TimeOut.init : TimeOut := {}

/-- Datum time and its servo (Chapter 9). -/
structure Time where
  /-- datum time in units of 2^-32 ns (09 R258) -/
  datum : Nat := 0
  /-- FREQ, 2^-8 ppb (09 R261) -/
  freq : Int := 0
  /-- integral of the servo, 2^-8 ppb (09 R263) -/
  integ : Int := 0
  /-- phase still to be slewed, 2^-32 ns (09 R290) -/
  slewLeft : Int := 0
  /-- valid measurements since ACQUIRING (09 R263) -/
  n : Nat := 0
  /-- time state (Table 9.1) (09 R262) -/
  st : TimeSt := .unset
  /-- root source PPS_IN (otherwise FREE) (09 R266) -/
  pps : Bool := false
  /-- the falling edge is the PPS edge (09 R291) -/
  falling : Bool := false
  /-- PPSDELAY, 250 ps (09 R291) -/
  ppsDelay : Int := 0
  /-- pending step (09 R264) -/
  step : Option Step := none
  /-- STEPCNT (09 R264) -/
  stepCnt : BitVec 4 := 0
  /-- UTCVALID (09 R278) -/
  utcValid : Bool := false
  /-- UTCOFF (09 R278) -/
  utcOff : BitVec 16 := 0
  /-- LEAP59 (09 R278) -/
  leap59 : Bool := false
  /-- LEAP61 (09 R278) -/
  leap61 : Bool := false
  /-- UTCVALID, LEAP59, LEAP61 and UTCOFF that apply from the next TIME message (09 R289) -/
  utcPend : Option (Bool × Bool × Bool × Nat) := none
  /-- hub number of the time root followed (09 R288; log 1) -/
  timeRoot : Nat := 0
  /-- time root's state (09 R280) -/
  rootSt : Nat := 0
  /-- time root's SOURCE (09 R278) -/
  rootSource : Nat := 0
  /-- SEQ of the next TIME message (09 R278) -/
  msgSeq : BitVec 8 := 0
  /-- SECONDS of a TIME message received since the new epoch (09 R276) -/
  gotMsg : Option Nat := none
  /-- first valid exchange held for a TIME message: twice theta, and the seconds to add modulo 65536 (09 R276) -/
  held : Option (Int × Nat) := none
  /-- last theta, 250 ps (09 R288) -/
  lastTheta : Int := 0
  /-- last 16 valid delays, newest first, twice the delay in 250 ps (09 R275) -/
  delays : List Int := []
  /-- PPS_EXTRA, saturating (09 R268) -/
  ppsExtra : Nat := 0
  /-- EXCH_REJECT, saturating (09 R275) -/
  exchReject : Nat := 0
  /-- instant of the last accepted PPS edge, 250 ps (09 R268) -/
  lastPps : Option Nat := none
  /-- datum second the counts below belong to (09 R268) -/
  ppsSec : Nat := 0
  /-- qualifying edges inside the window in this second (09 R268) -/
  ppsSecIn : Nat := 0
  /-- qualifying edges outside the window in this second (09 R268) -/
  ppsSecOut : Nat := 0
  /-- edges counted in PPS_EXTRA in this second (09 R269) -/
  ppsSecExtra : Nat := 0
  /-- seconds whose qualifying edges all lay outside the window (09 R268) -/
  ppsOutSecs : Nat := 0
  /-- PPS_IN is ignored (09 R269) -/
  ppsNoisy : Bool := false
  /-- consecutive clean seconds while ignored (09 R269) -/
  ppsClean : Nat := 0
  /-- consecutive measurements inside the lock limit (09 R276) -/
  lockRun : Nat := 0
  /-- consecutive measurements outside the unlock limit (09 R276) -/
  unlockRun : Nat := 0
  /-- consecutive invalid exchanges (09 R277) -/
  invalRun : Nat := 0
  /-- integ while LOCKED, newest first: the instant from which it stood, 2^-32 ns, and its value (09 R281) -/
  learned : List (Nat × Int) := []
  /-- learned correction kept since the state was last LOCKED (09 R281) -/
  kept : Option Int := none
  /-- instant of the last step, new time, 250 ps (09 R265, R284; log 39) -/
  stepTo : Nat := 0
  /-- size of the last step, new minus old, 250 ps (09 R284) -/
  stepBy : Int := 0
  /-- instant from which the source is PPS_IN, 250 ps: the 1.5 s run from it until an edge is accepted (09 R270) -/
  ppsFrom : Nat := 0
  /-- second in which this hub last sent its message at NS 500,000,000 (09 R279) -/
  msgSec : Option Nat := none
  /-- child: t2 of the exchange under way, 250 ps (09 R272; log 1) -/
  t2 : Nat := 0
  /-- child: t3 of the exchange under way, 250 ps (09 R272; log 1) -/
  t3 : Nat := 0
  /-- child: an exchange is under way (09 R275) -/
  xOpen : Bool := false
  /-- child: a loss of signal, retrain or step fell in the exchange under way (09 R275) -/
  xBad : Bool := false
  /-- LOCKED when HOLDOVER began (09 R268) -/
  wasLocked : Bool := false
  /-- time recovery has been applied since Holdover began (03 R74) -/
  recovered : Bool := false
  /-- first valid measurement after HOLDOVER not seen yet (09 R281) -/
  slewing : Bool := false
  /-- timestamp inputs 0-3 TRIG_IN, 4 PPS_IN (09 R292) -/
  stamps : Tab StampIn := []
  /-- PPS_OUT (09 R283) -/
  ppsOut : TimeOut := TimeOut.init
  /-- TIME_OUT (09 R283) -/
  timeOut : TimeOut := TimeOut.init
  deriving DecidableEq, Repr

/-- `Time` at reset. -/
def Time.init : Time := {}

/-- A traverse engine (R297). -/
structure Engine where
  /-- state (Table 10.1) (10 R298) -/
  st : EngSt := .idle
  /-- PC (10 R297) -/
  pc : Nat := 0
  /-- ENTRY (10 R297) -/
  entry : Nat := 0x7FFF
  /-- an ENTRY is set (10 R297) -/
  hasEntry : Bool := false
  /-- REF, 250 ps (10 R297) -/
  ref : Nat := 0
  /-- D, 250 ps (10 R297) -/
  d : Nat := 0
  /-- condition bit C (10 R297) -/
  c : Bool := false
  /-- FLAGS (10 R297) -/
  flags : BitVec 8 := 0
  /-- MSG (10 R297) -/
  msg : Word := 0
  /-- EVT, 250 ps (10 R297) -/
  evt : Nat := 0
  /-- loop counters (10 R297) -/
  ctrs : Tab Nat := []
  /-- active bits of the loop counters (10 R297) -/
  ctrAct : BitVec 4 := 0
  /-- engine generation (10 R297) -/
  gen : BitVec 8 := 0
  /-- LEAD, us (10 R297) -/
  lead : Nat := 5
  /-- LATEPOL (10 R297) -/
  latePol : Nat := 0
  /-- STEPPAUSE (10 R297) -/
  stepPause : Bool := false
  /-- EXCSAFE (10 R297) -/
  excSafe : Bool := false
  /-- hub of the slice the engine runs for (10 R299) -/
  ownerHub : Nat := 0
  /-- slice the engine runs for (10 R299) -/
  ownerSlice : Nat := 0
  /-- late legs since launch, saturating (10 R334) -/
  lateCnt : Nat := 0
  /-- late legs since the last report (10 R306) -/
  lateRep : Nat := 0
  /-- uptime tick + 1 of the last LATE report, 0 for none (10 R306) -/
  lateAt : Nat := 0
  /-- last exception code (10 R334) -/
  lastExc : Nat := 0
  /-- launch instant T of an ARMED or PREPARED engine, 250 ps (10 R303) -/
  launchAt : Nat := 0
  /-- launch the engine is prepared or armed for (10 R322) -/
  launchId : Option (BitVec 8) := none
  /-- state left on entry to PAUSED (10 R318) -/
  paused : EngSt := .idle
  /-- steps since the pause, 250 ps (10 R318) -/
  stepBy : Int := 0
  /-- consecutive legs without a wait (10 R316) -/
  runLegs : Nat := 0
  /-- what a WAITING engine waits for (10 R304) -/
  wait : EngWait := .none
  /-- RSEQ of its next remote register access (12 R375) -/
  rseq : BitVec 8 := 0
  /-- the engine runs the HEALTH traverse of this boot (10 R314) -/
  health : Bool := false
  deriving DecidableEq, Repr

/-- `Engine` at reset. -/
def Engine.init : Engine := {}

/-- An effect handed to the time base island (R301). -/
structure Effect where
  /-- engine (10 R301; log 1) -/
  eng : Nat := 0
  /-- effect instant E, 250 ps (10 R301; log 1) -/
  due : Nat := 0
  /-- what happens at E (10 R307; log 1) -/
  kind : EffKind := .pins 0 0
  deriving DecidableEq, Repr

/-- `Effect` at reset. -/
def Effect.init : Effect := {}

/-- An ACT pin (R326). -/
structure Act where
  /-- mode (Table 10.5) (10 R326) -/
  mode : Nat := 0
  /-- open drain (10 R326) -/
  od : Bool := false
  /-- level driven (OUTPUT or TIMED) (10 R326) -/
  level : Bool := false
  /-- owner engine (10 R335) -/
  eng : Nat := 0
  /-- level seen at the ball (10 R326; log 1) -/
  input : Bool := false
  /-- stamp setting (10 R327) -/
  stamp : StampIn := StampIn.init
  /-- running PWM output (10 R308) -/
  pwm : Option PwmCfg := none
  /-- duty and polarity waiting for the next period start (10 R308) -/
  pwmNext : Option PwmCfg := none
  /-- a stop with EXCSAFE or SAFEPINS holds the pin at its safe level (10 R316) -/
  safe : Bool := false
  deriving DecidableEq, Repr

/-- `Act` at reset. -/
def Act.init : Act := {}

/-- A tree-wide launch a hub has prepared (R322). -/
structure PrepRec where
  /-- LAUNCHID (10 R325; log 1) -/
  id : BitVec 8 := 0
  /-- engines (10 R325; log 1) -/
  mask : BitVec 32 := 0
  /-- T, 250 ps (10 R325; log 1) -/
  due : Nat := 0
  /-- hub of the requesting slice (10 R325; log 1) -/
  rhub : Nat := 0
  /-- requesting slice (10 R325; log 1) -/
  rslice : Nat := 0
  /-- launch settings as W5 (10 R325; log 1) -/
  w5 : Word := 0
  /-- COMMIT received (10 R322) -/
  committed : Bool := false
  /-- an engine of it has launched: LAUNCHED goes at T (10 R322) -/
  launched : Bool := false
  deriving DecidableEq, Repr

/-- `PrepRec` at reset. -/
def PrepRec.init : PrepRec := {}

/-- A tree-wide launch the root runs (R321). -/
structure Launch where
  /-- LAUNCHID (10 R321; log 1) -/
  id : BitVec 8 := 0
  /-- named hubs (10 R321; log 1) -/
  hubs : List Nat := []
  /-- engine mask per hub (10 R321; log 1) -/
  masks : Tab (BitVec 32) := []
  /-- T, 250 ps (10 R321; log 1) -/
  due : Nat := 0
  /-- launch settings as W5 (10 R325; log 1) -/
  w5 : Word := 0
  /-- hubs that have answered READY with 00h (10 R322) -/
  ready : List Nat := []
  /-- hubs that refused, with status (10 R323) -/
  refused : List (Nat × Nat) := []
  /-- hubs whose LAUNCHED has come (10 R324) -/
  launched : List Nat := []
  /-- COMMIT has been sent (10 R322) -/
  committed : Bool := false
  /-- the TRAV_ARM (10 R321; log 1) -/
  cmd : Cmd := Cmd.init
  deriving DecidableEq, Repr

/-- `Launch` at reset. -/
def Launch.init : Launch := {}

/-- Traverse engines and action pins (Chapter 10). -/
structure Trav where
  /-- engines (10 R296) -/
  eng : Tab Engine := []
  /-- leg memory by leg index (10 R296; log 1) -/
  legs : Tab (BitVec 64) := []
  /-- legs marked bad by an uncorrectable word (19 R585) -/
  badLegs : List Nat := []
  /-- effects waiting for their instants, in hand-over order (10 R302) -/
  effects : List Effect := []
  /-- ACT pins (10 R326) -/
  act : Tab Act := []
  /-- root: launches in progress (10 R321) -/
  launches : List Launch := []
  /-- root: next LAUNCHID, none before the first launch since the core reset, which draws one (10 R321; log 9) -/
  nextId : Option (BitVec 8) := none
  /-- launches this hub is prepared or armed for (10 R322) -/
  prep : List PrepRec := []
  deriving DecidableEq, Repr

/-- `Trav` at reset. -/
def Trav.init : Trav := {}

/-- An event queue (R351, R355). -/
structure EvQ where
  /-- base IOVA (20 R613) -/
  base : Nat := 0
  /-- ENTRIES (20 R613) -/
  size : Nat := 0
  /-- ENABLE (20 R613) -/
  enable : Bool := false
  /-- ERR (20 R613) -/
  err : Nat := 0
  /-- TAIL (20 R613) -/
  tail : Nat := 0
  /-- HEAD (20 R613) -/
  head : Nat := 0
  /-- PHASE (20 R613) -/
  phase : Bool := true
  deriving DecidableEq, Repr

/-- `EvQ` at reset. -/
def EvQ.init : EvQ := {}

/-- A submission queue (R351). -/
structure SubQ where
  /-- base IOVA (20 R613) -/
  base : Nat := 0
  /-- ENTRIES (20 R613) -/
  size : Nat := 0
  /-- PRIO (20 R613) -/
  prio : Nat := 0
  /-- ENABLE (20 R613) -/
  enable : Bool := false
  /-- ERR (20 R613) -/
  err : Nat := 0
  /-- HEAD (20 R613) -/
  head : Nat := 0
  /-- tail from doorbells (20 R613) -/
  tail : Nat := 0
  deriving DecidableEq, Repr

/-- `SubQ` at reset. -/
def SubQ.init : SubQ := {}

/-- A host ring (R474). -/
structure Ring where
  /-- enabled (15 R474) -/
  enable : Bool := false
  /-- exit ring (otherwise source ring) (15 R483; log 1) -/
  exitDir : Bool := false
  /-- tunnel (15 R483; log 1) -/
  tid : Nat := 0
  /-- ENTRIES (15 R474; log 1) -/
  entries : Nat := 0
  /-- BUFSZ (15 R474; log 1) -/
  bufsz : Nat := 0
  /-- base (15 R474; log 1) -/
  base : Nat := 0
  /-- index of the doorbell (15 R475) -/
  head : Nat := 0
  /-- index the hub uses next (15 R475) -/
  tail : Nat := 0
  /-- PHASE of the next slot (15 R475) -/
  phase : Bool := true
  /-- host software has emptied the ring (15 R475) -/
  emptied : Bool := true
  /-- slots posted while the slice could not send, oldest first (11 R360, 15 R475) -/
  posted : List (List Byte) := []
  deriving DecidableEq, Repr

/-- `Ring` at reset. -/
def Ring.init : Ring := {}

/-- A slice (R342). -/
structure Slice where
  /-- 0 FREE 1 ACTIVE 2 FROZEN 3 SAVED (11 R342) -/
  state : Nat := 0
  /-- generation (11 R342) -/
  gen : BitVec 8 := 0
  /-- host port (11 R342) -/
  port : Nat := 0
  /-- PASID, none: bound without a PASID (11 R342) -/
  pasid : Option Nat := some 0
  /-- the slice has a binding (11 R342) -/
  bound : Bool := false
  /-- tag quota (11 R346) -/
  quota : Nat := 32
  /-- submission queues (11 R350) -/
  sqs : Tab SubQ := []
  /-- event queue (11 R350) -/
  evq : EvQ := EvQ.init
  /-- SL_INT_CTRL.MASK (20 R613) -/
  mask : Bool := true
  /-- SL_INT_CTRL.TIME (20 R613) -/
  intTime : Nat := 0
  /-- SL_INT_CTRL.COUNT (20 R613) -/
  intCount : Nat := 1
  /-- SL_INT_CTRL.VECTOR (20 R613) -/
  vector : Nat := 0
  /-- records written since the last interrupt (11 R357) -/
  unsig : Nat := 0
  /-- datum ns of the first record not yet signalled (11 R357) -/
  firstAt : Option Nat := none
  /-- held records, oldest first (11 R356) -/
  held : List Rec := []
  /-- SL_EVQ_LOST (11 R350) -/
  lost : Nat := 0
  /-- SL_STALE_DISCARD (11 R350) -/
  stale : Nat := 0
  /-- cookie valid while SAVED (11 R362) -/
  cookie : Option Nat := none
  /-- host rings (15 R474) -/
  rings : Tab Ring := []
  /-- SLICE_FREEZE waiting for its drain (11 R360) -/
  freezeCmd : Option Cmd := none
  /-- SLICE_DESTROY waiting for revokes (11 R359) -/
  destroyCmd : Option Cmd := none
  /-- hubs whose revokes are awaited (11 R359) -/
  destroyHubs : List Nat := []
  /-- HTAG of what its SLICE_DESTROY sends to other hubs (12 R375) -/
  destroyTag : Option Nat := none
  /-- hubs whose RECEIVED has arrived (12 R377) -/
  destroyGot : List Nat := []
  /-- status that its SLICE_DESTROY ends with where another hub failed it, 0 for OK (11 R359) -/
  destroySt : Nat := 0
  /-- queue served last among equals, by PRIO (11 R354) -/
  lastSq : Tab Nat := []
  deriving DecidableEq, Repr

/-- `Slice` at reset. -/
def Slice.init : Slice := {}

/-- A grant (R348). -/
structure Grant where
  /-- KIND (11 R347; log 1) -/
  kind : Nat := 0
  /-- INDEX (11 R347; log 1) -/
  index : Nat := 0
  /-- holder's hub (11 R348; log 1) -/
  hub : Nat := 0
  /-- holder's slice (11 R348; log 1) -/
  slice : Nat := 0
  /-- a revoke drains the resource (11 R349) -/
  revoking : Bool := false
  deriving DecidableEq, Repr

/-- `Grant` at reset. -/
def Grant.init : Grant := {}

/-- A revoke in its drain (R349). -/
structure Revoke where
  /-- the grant (11 R349; log 1) -/
  grant : Grant := Grant.init
  /-- SAFEPINS (11 R366; log 1) -/
  safePins : Bool := false
  /-- the SLICE_REVOKE, none for a SLICE_DESTROY (11 R349; log 1) -/
  cmd : Option Cmd := none
  deriving DecidableEq, Repr

/-- `Revoke` at reset. -/
def Revoke.init : Revoke := {}

/-- A command of a local slice between fetch and completion (R346). -/
structure Pend where
  /-- the command (11 R346; log 1) -/
  cmd : Cmd := Cmd.init
  /-- fetch order (12 R383) -/
  order : Nat := 0
  /-- waiting for the fence, its instant, its input or the target, ready to execute, or executing (12 R382; log 1) -/
  stage : PendStage := .ready
  /-- a RECEIVED has arrived (12 R377) -/
  received : Bool := false
  /-- a slice reset has made its completion stale (11 R358) -/
  stale : Bool := false
  /-- launch instant, ns (12 R380; log 1) -/
  launch : Nat := 0
  /-- IOVA of its indirect input (12 R384; log 1) -/
  inAddr : Nat := 0
  /-- bytes of its indirect input, 0 for none (12 R384; log 1) -/
  inLen : Nat := 0
  /-- IOVA of its indirect output (12 R384; log 1) -/
  outAddr : Nat := 0
  /-- T of a timed command, ns, 0 for an untimed one (12 R380) -/
  instant : Nat := 0
  /-- a write of its output has failed (12 R384) -/
  outBad : Bool := false
  deriving DecidableEq, Repr

/-- `Pend` at reset. -/
def Pend.init : Pend := {}

/-- A command received from another hub (R376). -/
structure RecvCmd where
  /-- the command (12 R376; log 1) -/
  cmd : Cmd := Cmd.init
  /-- DATALEN still to arrive (12 R376; log 1) -/
  need : Nat := 0
  /-- input data received so far (12 R376; log 1) -/
  data : List Byte := []
  /-- instant it waits for, ns, 0 none (12 R380; log 1) -/
  launch : Nat := 0
  /-- all of it has arrived; the target holds it (12 R376; log 1) -/
  hold : Bool := false
  /-- it executes (12 R376; log 1) -/
  exec : Bool := false
  /-- bytes of output DATA sent so far (12 R375; log 1) -/
  outLen : Nat := 0
  /-- order in which the hub took it (12 R380) -/
  order : Nat := 0
  /-- T of a timed command, ns, 0 for an untimed one (12 R380) -/
  instant : Nat := 0
  deriving DecidableEq, Repr

/-- `RecvCmd` at reset. -/
def RecvCmd.init : RecvCmd := {}

/-- An MSI-X table entry (R619). -/
structure MsixEnt where
  /-- message address (20 R619) -/
  addr : Nat := 0
  /-- message data (20 R619) -/
  data : Word := 0
  /-- mask bit (20 R619) -/
  masked : Bool := true
  deriving DecidableEq, Repr

/-- `MsixEnt` at reset. -/
def MsixEnt.init : MsixEnt := {}

/-- A host port (R337). -/
structure HPort where
  /-- the port's link is up (11 R340) -/
  up : Bool := false
  /-- the function is in D0 (otherwise D3hot) (11 R340) -/
  d0 : Bool := true
  /-- Memory Space Enable (20 R607; log 27) -/
  memEn : Bool := false
  /-- configuration requests are answered with Retry Status (03 R66) -/
  retry : Bool := true
  /-- PASID enabled in the PASID capability (11 R341) -/
  pasidEn : Bool := false
  /-- MSI-X function mask (11 R357) -/
  funcMask : Bool := false
  /-- Max_Payload_Size, bytes (11 R338; log 27) -/
  mps : Nat := 128
  /-- Max_Read_Request_Size, bytes (11 R338; log 27) -/
  mrrs : Nat := 512
  /-- MSI-X table (20 R619) -/
  msix : Tab MsixEnt := []
  /-- pending bits set (20 R619) -/
  pba : List Nat := []
  /-- time snapshot: datum time, 2^-32 ns (20 R617) -/
  snapT : Nat := 0
  /-- time snapshot: TIME_QUERY DW7 (20 R617) -/
  snapW7 : Word := 0
  /-- MG_TIME_NS has been read since the core reset (20 R617) -/
  snapOk : Bool := false
  /-- UNMAPPED counter (16 R507) -/
  unmapped : Nat := 0
  deriving DecidableEq, Repr

/-- `HPort` at reset. -/
def HPort.init : HPort := {}

/-- Commit record of a WIN_SEM (R504). -/
structure SemCmd where
  /-- hub (16 R504; log 1) -/
  hub : Nat := 0
  /-- slice (16 R504; log 1) -/
  slice : Nat := 0
  /-- OPID (16 R504; log 1) -/
  opid : Nat := 0
  /-- recorded status (16 R504; log 1) -/
  status : Nat := 0
  /-- recorded completion words (16 R504; log 1) -/
  words : List Word := []
  /-- instant it was kept, ns (16 R504; log 1) -/
  since : Nat := 0
  deriving DecidableEq, Repr

/-- `SemCmd` at reset. -/
def SemCmd.init : SemCmd := {}

/-- A slice move under way: its commit record is the entry itself, and the move is taken when no acknowledgement is awaited (R363). -/
structure MoveOp where
  /-- the SLICE_RESTORE (11 R363) -/
  cmd : Cmd := Cmd.init
  /-- hub the slice leaves (11 R363) -/
  fromHub : Nat := 0
  /-- slice it was there (11 R363) -/
  fromSlice : Nat := 0
  /-- HTAG of the rewrites (12 R375) -/
  tag : Nat := 0
  /-- hubs whose acknowledgement is awaited (11 R363) -/
  waiting : List Nat := []
  /-- hubs whose RECEIVED has arrived (12 R377) -/
  got : List Nat := []
  /-- hubs that have made their rewrites (11 R363) -/
  did : List Nat := []
  /-- the move has been taken or undone, and the hubs are told so (11 R363) -/
  decided : Bool := false
  deriving DecidableEq, Repr

/-- Host ports, slices, command transport and the register file (Chapters 11, 12, 20). -/
structure HostIf where
  /-- host port 0 (11 R337) -/
  port0 : HPort := HPort.init
  /-- host port 1 (11 R337) -/
  port1 : HPort := HPort.init
  /-- snapshot serving R610 accesses: datum time (20 R617) -/
  intSnapT : Nat := 0
  /-- snapshot serving R610 accesses: TIME_QUERY DW7 (20 R617) -/
  intSnapW7 : Word := 0
  /-- that snapshot has been taken (20 R617) -/
  intSnapOk : Bool := false
  /-- slices (11 R342) -/
  slices : Tab Slice := []
  /-- grant table (11 R348) -/
  grants : List Grant := []
  /-- revokes in their drain (11 R349) -/
  revokes : List Revoke := []
  /-- commands of local slices in flight, each holding a tag (11 R346) -/
  pend : List Pend := []
  /-- commands received from other hubs (12 R376) -/
  recv : List RecvCmd := []
  /-- fetch order of the next command (12 R383) -/
  order : Nat := 0
  /-- slice served last (11 R354) -/
  lastSlice : Nat := 63
  /-- MG_SCRATCH (20 R616) -/
  scratch : Word := 0
  /-- TAG of the command whose execution is under way, 0 outside of one (12 R387) -/
  cause : Nat := 0
  /-- slice move from a blob in progress (11 R363) -/
  moveOp : Option MoveOp := none
  /-- restores from blobs that wait for their turn: command, what the other hubs answer, records (11 R365) -/
  moveQ : List (Cmd × Nat × List (List Word)) := []
  /-- SYS commands by which slices of the root are destroyed, with the slice, until their revokes here have ended (11 R359) -/
  farDestroys : List (Cmd × Nat) := []
  deriving DecidableEq, Repr

/-- `HostIf` at reset. -/
def HostIf.init : HostIf := {}

/-- Head timing parameters (Table 13.6). -/
structure HeadTiming where
  /-- RATE, Hz (13 R427) -/
  rate : Nat := 60
  /-- VS active high (13 R427) -/
  vspol : Bool := false
  /-- HS active high (13 R427) -/
  hspol : Bool := false
  /-- JEIDA mapping (13 R427) -/
  jeida : Bool := false
  /-- 18-bit mapping (13 R427) -/
  bpp18 : Bool := false
  /-- dual link (13 R427) -/
  dual : Bool := false
  /-- head on (13 R427) -/
  enable : Bool := false
  /-- HTOTAL, pixels (13 R427; log 1) -/
  htotal : Nat := 0
  /-- HACTIVE, pixels (13 R427; log 1) -/
  hactive : Nat := 0
  /-- VTOTAL, lines (13 R427; log 1) -/
  vtotal : Nat := 0
  /-- VACTIVE, lines (13 R427; log 1) -/
  vactive : Nat := 0
  /-- HSYNC, pixels (13 R427; log 1) -/
  hsync : Nat := 0
  /-- HFP, pixels (13 R427; log 1) -/
  hfp : Nat := 0
  /-- VSYNC, lines (13 R427; log 1) -/
  vsync : Nat := 0
  /-- VFP, lines (13 R427; log 1) -/
  vfp : Nat := 0
  /-- FRAMEBASE, ns (13 R427) -/
  frameBase : Nat := 0
  /-- T_BL, ms (13 R427) -/
  tBl : Nat := 200
  /-- T_ON, ms (13 R427) -/
  tOn : Nat := 20
  /-- BLDUTY, parts per thousand (13 R427) -/
  blDuty : Nat := 1000
  /-- BLFREQ, Hz (13 R427) -/
  blFreq : Nat := 200
  deriving DecidableEq, Repr

/-- `HeadTiming` at reset. -/
def HeadTiming.init : HeadTiming := {}

/-- Undercoat settings of a head (R431 FORM 0). -/
structure UcCfg where
  /-- UCPLANE (head D1: 1) (13 R412) -/
  plane : Nat := 0
  /-- capture on (on by default only with HEADS 11b) (13 R412) -/
  capture : Bool := false
  /-- staged FORCE: 0 unchanged, 1 hold, 2 release (13 R431) -/
  force : Nat := 0
  /-- UNDERRUNMAX (13 R414) -/
  underrunMax : Nat := 4
  /-- RETURNFRAMES (13 R415) -/
  returnFrames : Nat := 60
  deriving DecidableEq, Repr

/-- `UcCfg` at reset. -/
def UcCfg.init : UcCfg := {}

/-- An overlay (R429). -/
structure Overlay where
  /-- ENABLE (13 R429) -/
  enable : Bool := false
  /-- X (13 R429; log 1) -/
  x : Nat := 0
  /-- Y (13 R429; log 1) -/
  y : Nat := 0
  /-- W (13 R429; log 1) -/
  w : Nat := 0
  /-- H (13 R429; log 1) -/
  h : Nat := 0
  /-- COLOUR (13 R429; log 1) -/
  colour : Nat := 0
  /-- ALPHA (13 R429; log 1) -/
  alpha : Nat := 0
  deriving DecidableEq, Repr

/-- `Overlay` at reset. -/
def Overlay.init : Overlay := {}

/-- Line-bound settings of a head (R429). -/
structure LineCfg where
  /-- overlays 0 to 3 (13 R429) -/
  overlays : Tab Overlay := []
  /-- background colour (13 R429) -/
  bg : Nat := 0
  /-- CLUT (13 R429; log 1) -/
  clut : Tab Nat := []
  deriving DecidableEq, Repr

/-- `LineCfg` at reset. -/
def LineCfg.init : LineCfg := {}

/-- A CRC region and its results (R432, Table 13.8). -/
structure Region where
  /-- ENABLE (13 R432) -/
  enable : Bool := false
  /-- HOSTEXP (13 R432; log 1) -/
  hostExp : Bool := false
  /-- POLICY (13 R432; log 1) -/
  policy : Nat := 0
  /-- N (13 R425) -/
  n : Nat := 2
  /-- X (13 R432; log 1) -/
  x : Nat := 0
  /-- Y (13 R432; log 1) -/
  y : Nat := 0
  /-- W (13 R432; log 1) -/
  w : Nat := 0
  /-- H (13 R432; log 1) -/
  h : Nat := 0
  /-- EXPECTED (13 R432; log 1) -/
  expected : Word := 0
  /-- consecutive mismatching frames (13 R425) -/
  run : Nat := 0
  /-- PINCRC (13 R433) -/
  pinCrc : Word := 0
  /-- EXPECT (13 R433) -/
  expect : Word := 0
  /-- MISMATCHES, saturating (13 R433) -/
  mismatches : Nat := 0
  /-- CRCFRAME (13 R433) -/
  crcFrame : Nat := 0
  /-- uptime tick + 1 of the last CRC_MISMATCH (13 R425) -/
  lastRep : Nat := 0
  /-- bytes of the region at the serialiser input in this frame, newest first (13 R424) -/
  accInt : List Byte := []
  /-- bytes of the region recovered from the pins in this frame, newest first (13 R423) -/
  accPin : List Byte := []
  deriving DecidableEq, Repr

/-- `Region` at reset. -/
def Region.init : Region := {}

/-- An accepted FRAME message (R409). -/
structure FrameRec where
  /-- the head's frame it belongs to, by the count of the frames it has begun (13 R409; log 42) -/
  k : Nat := 0
  /-- start of that frame, ns rounded down (13 R409) -/
  start : Nat := 0
  /-- FORMAT (13 R406; log 1) -/
  fmt : Nat := 0
  /-- WIDTH (13 R406; log 1) -/
  width : Nat := 0
  /-- HEIGHT (13 R406; log 1) -/
  height : Nat := 0
  /-- XOFF (13 R406; log 1) -/
  xoff : Nat := 0
  /-- YOFF (13 R406; log 1) -/
  yoff : Nat := 0
  /-- row messages received so far (13 R406; log 1) -/
  rows : Nat := 0
  /-- bytes received so far of the row message under way (13 R406, R410) -/
  got : List Byte := []
  deriving DecidableEq, Repr

/-- `FrameRec` at reset. -/
def FrameRec.init : FrameRec := {}

/-- A DISP_COMMIT that waits for its changes to apply (R421, R430). -/
structure DCmd where
  /-- the command (13 R430; log 1) -/
  cmd : Cmd := Cmd.init
  /-- it came late (13 R419) -/
  late : Bool := false
  /-- a later commit replaced it (13 R421) -/
  replaced : Bool := false
  deriving DecidableEq, Repr

/-- `DCmd` at reset. -/
def DCmd.init : DCmd := {}

/-- A pending frame-bound commit (R421). -/
structure FCommit where
  /-- timing snapshot (13 R418; log 1) -/
  timing : HeadTiming := HeadTiming.init
  /-- undercoat snapshot (13 R418; log 1) -/
  uc : UcCfg := UcCfg.init
  /-- DISP_COMMITs that complete with it, newest first (13 R421) -/
  cmds : List DCmd := []
  /-- it applies one frame later than the next (13 R419) -/
  skip : Bool := false
  deriving DecidableEq, Repr

/-- `FCommit` at reset. -/
def FCommit.init : FCommit := {}

/-- A pending line-bound commit (R420). -/
structure LCommit where
  /-- snapshot (13 R418; log 1) -/
  cfg : LineCfg := LineCfg.init
  /-- line, FFFh for any (13 R420; log 1) -/
  line : Nat := 0xFFF
  /-- instant it was taken, ns (13 R420; log 1) -/
  since : Nat := 0
  /-- DISP_COMMITs that complete with it, newest first (13 R421) -/
  cmds : List DCmd := []
  deriving DecidableEq, Repr

/-- `LCommit` at reset. -/
def LCommit.init : LCommit := {}

/-- A display head (Chapter 13). -/
structure Head where
  /-- state (Table 13.1) (13 R397) -/
  st : Nat := 0
  /-- a timing is in force (13 R416) -/
  hasTiming : Bool := false
  /-- timing in force (13 R427) -/
  timing : HeadTiming := HeadTiming.init
  /-- staged timing (13 R418) -/
  staged : HeadTiming := HeadTiming.init
  /-- undercoat settings in force (13 R412) -/
  uc : UcCfg := UcCfg.init
  /-- staged undercoat settings (13 R418) -/
  stagedUc : UcCfg := UcCfg.init
  /-- line-bound settings in force (13 R429) -/
  line : LineCfg := LineCfg.init
  /-- staged line-bound settings (13 R418) -/
  stagedLine : LineCfg := LineCfg.init
  /-- pending frame-bound commit (13 R421) -/
  fpend : Option FCommit := none
  /-- pending line-bound commit (13 R421) -/
  lpend : Option LCommit := none
  /-- FORCE holds (13 R414) -/
  forced : Bool := false
  /-- CRC regions (13 R432) -/
  regions : Tab Region := []
  /-- region changes waiting: (region, settings, earliest frame start in ns) (13 R418) -/
  regNext : List (Nat × Region × Nat) := []
  /-- number of the frame under way (13 R399; log 1) -/
  k : Nat := 0
  /-- frames the head has begun (13 R409; log 42) -/
  begun : Nat := 0
  /-- end of the line that was in progress at a step of datum time, ns of the new time (13 R401) -/
  lineEnd : Nat := 0
  /-- line under way (13 R401; log 1) -/
  lineNo : Nat := 0
  /-- first line of the frame that has not started (13 R401) -/
  nextLine : Nat := 0
  /-- FRAME message in force for the frame under way (13 R409) -/
  acc : Option FrameRec := none
  /-- FRAME message accepted for the next frame (13 R409) -/
  accNext : Option FrameRec := none
  /-- received rows: (frame by its count, line, bytes), arrival order (13 R409) -/
  rows : List (Nat × Nat × List Byte) := []
  /-- source loss in this frame (13 R410) -/
  loss : Bool := false
  /-- the latest FRAME message was accepted: row messages belong to it (13 R409) -/
  inForce : Bool := false
  /-- datum time stepped in this frame (13 R401) -/
  stepFrame : Bool := false
  /-- underrun lines of the frame under way (13 R410) -/
  curUnder : Nat := 0
  /-- underrun lines in the last frame (13 R433) -/
  under : Nat := 0
  /-- clean frames counted toward return (13 R415) -/
  clean : Nat := 0
  /-- turned on from OFF: one clean frame returns it (13 R415) -/
  firstReturn : Bool := false
  /-- cause of an UNDERCOAT entry due at the next frame start, 0 none (13 R414) -/
  toUc : Nat := 0
  /-- FRAMECNT (13 R433) -/
  frameCnt : Nat := 0
  /-- UNDERRUNS, saturating (13 R433) -/
  underruns : Nat := 0
  /-- LATECOMMITS, saturating (13 R433) -/
  lateCommits : Nat := 0
  /-- SWITCHES, saturating (13 R433) -/
  switches : Nat := 0
  /-- PANEL_ENn (13 R404) -/
  panelEn : Bool := false
  /-- LVDS output runs (13 R404) -/
  lvds : Bool := false
  /-- BL_PWMn runs (13 R404) -/
  bl : Bool := false
  /-- uptime tick + 1 at which the panel sequence entered its phase (13 R404) -/
  seqAt : Nat := 0
  /-- panel sequence: 0 none; on: 1 T_ON, 2 LVDS due, 3 T_BL, 4 backlight due; off: 5 T_BL, 6 T_ON (13 R404) -/
  seq : Nat := 0
  /-- capture has set the plane descriptor (13 R413) -/
  capturing : Bool := false
  /-- pixels of the line under way as serialised (13 R411) -/
  shown : List Nat := []
  /-- underrun lines since the last UNDERRUN alert (13 R434) -/
  prevUnder : Nat := 0
  /-- most underrun lines in one frame since the last UNDERRUN alert (13 R434) -/
  maxUnder : Nat := 0
  /-- uptime tick + 1 of the last UNDERRUN alert (13 R434) -/
  underRep : Nat := 0
  /-- frames rejected since the last FRAME_REJECT alert (13 R434) -/
  rejects : Nat := 0
  /-- uptime tick + 1 of the last FRAME_REJECT alert (13 R434) -/
  rejRep : Nat := 0
  deriving DecidableEq, Repr

/-- `Head` at reset. -/
def Head.init : Head := {}

/-- Source plane parameters (Table 13.7). -/
structure SrcCfg where
  /-- FORMAT (13 R428) -/
  fmt : Nat := 0
  /-- WM, lines (13 R428) -/
  wm : Nat := 3
  /-- ONESHOT (13 R428) -/
  oneshot : Bool := false
  /-- ENABLE (13 R428) -/
  enable : Bool := false
  /-- HEIGHT (13 R428; log 1) -/
  height : Nat := 0
  /-- WIDTH (13 R428; log 1) -/
  width : Nat := 0
  /-- YOFF (13 R428) -/
  yoff : Nat := 0
  /-- XOFF (13 R428) -/
  xoff : Nat := 0
  /-- STRIDE (13 R428; log 1) -/
  stride : Nat := 0
  /-- BASE (13 R428; log 1) -/
  base : Nat := 0
  /-- FRAMEBASE of the head, ns (13 R428) -/
  frameBase : Nat := 0
  /-- RATE of the head (13 R428) -/
  rate : Nat := 60
  /-- VTOTAL of the head (13 R428; log 1) -/
  vtotal : Nat := 0
  deriving DecidableEq, Repr

/-- `SrcCfg` at reset. -/
def SrcCfg.init : SrcCfg := {}

/-- A pixel source (R405 to R408, R422). -/
structure Source where
  /-- parameters in force (13 R428) -/
  cfg : SrcCfg := SrcCfg.init
  /-- staged parameters (13 R418) -/
  staged : SrcCfg := SrcCfg.init
  /-- pending source commit (13 R422) -/
  pend : Option SrcCfg := none
  /-- DISP_COMMITs that complete with it, newest first (13 R421) -/
  cmds : List Cmd := []
  /-- next FRAMESEQ (13 R406) -/
  frameSeq : Nat := 0
  /-- a frame's rows are being sent (13 R407) -/
  sending : Bool := false
  /-- frame being sent (13 R407; log 1) -/
  k : Nat := 0
  /-- next row (13 R407; log 1) -/
  row : Nat := 0
  /-- the frame under way was abandoned (13 R408) -/
  abandoned : Bool := false
  /-- a host read for the next row is under way (13 R407) -/
  fetching : Bool := false
  /-- uptime tick + 1 of the last FRAME message (13 R407) -/
  sentAt : Nat := 0
  /-- the tunnel's generation at the last FRAME message (13 R408) -/
  gen : BitVec 8 := 0
  /-- a ONESHOT frame has been sent since the last commit (13 R407) -/
  oneDone : Bool := false
  /-- URGENTROWS, saturating (13 R433) -/
  urgentRows : Nat := 0
  /-- READERRS, saturating (13 R433) -/
  readErrs : Nat := 0
  deriving DecidableEq, Repr

/-- `Source` at reset. -/
def Source.init : Source := {}

/-- An undercoat plane (R412). -/
structure Plane where
  /-- descriptor WIDTH (13 R412) -/
  width : Nat := 0
  /-- descriptor HEIGHT (13 R412) -/
  height : Nat := 0
  /-- RGB888 pixels by index row x WIDTH + column, black by default (13 R412) -/
  px : Tab Nat := []
  /-- ONESHOT frame being written (13 R417) -/
  load : Option FrameRec := none
  deriving DecidableEq, Repr

/-- `Plane` at reset. -/
def Plane.init : Plane := {}

/-- Display heads, sources and undercoat (Chapter 13). -/
structure Disp where
  /-- head D0 (13 R396) -/
  d0 : Head := Head.init
  /-- head D1 (13 R396) -/
  d1 : Head := { Head.init with uc := { UcCfg.init with plane := 1 }, stagedUc := { UcCfg.init with plane := 1 } }
  /-- sources by tunnel (13 R405) -/
  src : Tab Source := []
  /-- undercoat planes (13 R412) -/
  planes : Tab Plane := []
  /-- SAFEPLANE (13 R412) -/
  safePlane : Nat := 3
  /-- banner height, lines (13 R416) -/
  bh : Nat := 48
  /-- banner colour (13 R416) -/
  banner : Nat := 0xFF0000
  /-- timing the image gives per head (13 R416) -/
  imgTiming : Tab HeadTiming := []
  deriving DecidableEq, Repr

/-- `Disp` at reset. -/
def Disp.init : Disp := {}

/-- A remote port's mapping, on either end (R442). -/
structure UsbMap where
  /-- hub of the other end (14 R442) -/
  hub : Nat := 0
  /-- virtual port, or DFP, at the other end (14 R442) -/
  port : Nat := 0
  /-- even ID of the main tunnel pair (14 R442) -/
  main : Nat := 0
  /-- even ID of the periodic tunnel pair, 0 none (14 R442) -/
  per : Nat := 0
  deriving DecidableEq, Repr

/-- `UsbMap` at reset. -/
def UsbMap.init : UsbMap := {}

/-- A pipe of the proxy, near or far half (R447 to R452). -/
structure Pipe where
  /-- TYPE (14 R459; log 1) -/
  typ : Nat := 0
  /-- FSLS (14 R459; log 1) -/
  fsls : Bool := false
  /-- next PSEQ sent (14 R449) -/
  txSeq : Nat := 0
  /-- PSEQ expected (14 R449) -/
  rxSeq : Nat := 0
  /-- bursts outstanding in the pipe's direction (14 R449) -/
  outst : Nat := 0
  /-- buffered packets (PID, data), oldest first (14 R447) -/
  buf : List (Nat × List Byte) := []
  /-- data toggle kept at this end (14 R451) -/
  toggle : Bool := false
  /-- the pipe is halted (14 R452) -/
  halted : Bool := false
  /-- an IN was answered NAK for lack of data; far end: the device answered NAK in this microframe or frame (14 R448, R450) -/
  naked : Bool := false
  /-- instant of the last IN grant, ns (14 R450; log 1) -/
  grantAt : Nat := 0
  /-- IN credit left (far end) (14 R450) -/
  credit : Nat := 0
  /-- consecutive errors (far end) (14 R448) -/
  errs : Nat := 0
  /-- far end: the pipe has had a transaction in this microframe, or frame of a full- or low-speed device (14 R448) -/
  tried : Bool := false
  /-- far end: code of a RESULT that waits for the next message, its IN data having gone first (14 R448, R449) -/
  owed : Option Nat := none
  /-- RESULT ERR: no answer to the host's next transaction (14 R448) -/
  noAns : Bool := false
  /-- the device's status stage has succeeded and awaits the host's (14 R447) -/
  status : Option Nat := none
  /-- SETUP bytes of the control transfer in progress (14 R447) -/
  setup : List Byte := []
  /-- messages awaiting their answers, oldest first: far end, packets left of each; near end, 0 SETUP, 1 OUT burst, 2 IN request, 3 status stage, 4 of a superseded transfer (14 R449) -/
  bursts : List Nat := []
  /-- far end: MFRAME of each message that awaits its answer (14 R453, R454) -/
  mfs : List Nat := []
  deriving DecidableEq, Repr

/-- `Pipe` at reset. -/
def Pipe.init : Pipe := {}

/-- A port 1 to 12 of the USB hub (R438). -/
structure UPort where
  /-- state (Table 14.2); 7 for a virtual port without a mapping (14 R438) -/
  st : Nat := 0
  /-- port generation (14 R444; log 1) -/
  gen : BitVec 8 := 0
  /-- wPortStatus (14 R462) -/
  status : BitVec 16 := 0
  /-- wPortChange (14 R462) -/
  change : BitVec 16 := 0
  /-- SPEED: 0 FS, 1 LS, 2 HS (14 R459; log 1) -/
  speed : Nat := 0
  /-- WAKESRC (14 R462) -/
  wakeSrc : Nat := 0
  /-- power policy (14 R463) -/
  policy : Nat := 0
  /-- OFFTIME, ms (14 R463) -/
  offMs : Nat := 500
  /-- uptime tick + 1 at which a power cycle began (14 R463) -/
  offAt : Nat := 0
  /-- uptime tick + 1 at which the reset or resume that is driven began (14 R440) -/
  busAt : Nat := 0
  /-- remote mapping of a virtual port (14 R442) -/
  mapped : Option UsbMap := none
  /-- remote port this DFP serves (14 R439) -/
  far : Option UsbMap := none
  /-- USB_PWREN of the DFP (14 R441) -/
  pwren : Bool := false
  /-- USB_OC_N has been low 8 ms and has not gone high since (14 R441) -/
  ocLow : Bool := false
  /-- power was taken off by an overcurrent and no request has brought it back (14 R441) -/
  ocOff : Bool := false
  /-- a host resume is under way (14 R458) -/
  hostRes : Bool := false
  /-- the host's last port power request; at a far end the near hub's last order (14 R463) -/
  hostPwr : Bool := false
  /-- pipes: key (address * 16 + endpoint) * 2 + direction (14 R447) -/
  pipes : Tab Pipe := []
  /-- microframes locked (14 R456) -/
  locked : Bool := false
  /-- ADJ (14 R455) -/
  adj : Int := 0
  /-- e of the last evaluation, ns/12; none before the first (14 R455) -/
  ePrev : Option Int := none
  /-- consecutive evaluations inside 100 ns (14 R456) -/
  lockRun : Nat := 0
  /-- consecutive evaluations outside 1 us (14 R456) -/
  unlockRun : Nat := 0
  /-- latest microframe whose H is known (14 R454; log 1) -/
  hostMf : Nat := 0
  /-- its H, ns; none before the first SOFREP since the port was enabled (14 R454, R456) -/
  hostH : Option Nat := none
  /-- acquisition is due (14 R456) -/
  acq : Bool := false
  /-- remote microframe under way (14 R454; log 1) -/
  mf : Nat := 0
  /-- starts R(n) of the latest remote microframes (number, ns/12), newest first (14 R455) -/
  starts : List (Nat × Nat) := []
  /-- counters of Table 14.9 (14 R464) -/
  counters : Tab Nat := []
  deriving DecidableEq, Repr

/-- `UPort` at reset. -/
def UPort.init : UPort := {}

/-- The USB hub (Chapter 14). -/
structure Usb where
  /-- DFPs 4 to 1 fitted (14 R435) -/
  fitted : BitVec 4 := 15
  /-- DFPs removable (14 R437) -/
  removable : BitVec 4 := 15
  /-- VPORTS (14 R437) -/
  vports : Nat := 8
  /-- idVendor (14 R437) -/
  vid : BitVec 16 := 0x2F4D
  /-- idProduct (14 R437) -/
  pid : BitVec 16 := 0x4812
  /-- string descriptors of the image (14 R437) -/
  strings : List Byte := []
  /-- USB_UP_VBUS is valid (14 R436; log 1) -/
  vbus : Bool := false
  /-- uptime up to which a domain-fatal error keeps the UFP detached (19 R584) -/
  detachEnd : Option Nat := none
  /-- the UFP is attached (14 R436) -/
  attached : Bool := false
  /-- attached at high speed (14 R462) -/
  hs : Bool := false
  /-- hub suspended (14 R462) -/
  suspended : Bool := false
  /-- hub configured (14 R462) -/
  configured : Bool := false
  /-- device address (14 R462) -/
  address : Nat := 0
  /-- remote wakeup enabled by the host (14 R437) -/
  rwEnable : Bool := false
  /-- ports (14 R435) -/
  ports : Tab UPort := []
  /-- address table: port, 0 for none (14 R446) -/
  addrMap : Tab Nat := []
  /-- (address, port) of a SET_ADDRESS whose status stage is awaited (14 R446) -/
  pendAddr : Option (Nat × Nat) := none
  /-- port address 0 maps to (14 R446) -/
  addr0 : Nat := 0
  /-- microframe number of the last SOF (14 R454) -/
  mframe : Nat := 0
  /-- a SOF has come since the UFP's last reset, suspend or attachment (14 R464; log 55) -/
  sofSeen : Bool := false
  /-- hub counters of Table 14.9 (14 R464) -/
  counters : Tab Nat := []
  deriving DecidableEq, Repr

/-- `Usb` at reset. -/
def Usb.init : Usb := {}

/-- A VLAN map entry (R470). -/
structure VlanEnt where
  /-- ENABLE (15 R470) -/
  enable : Bool := false
  /-- MATCH (15 R470; log 1) -/
  mtch : Nat := 0
  /-- GROUP (15 R470; log 1) -/
  group : Nat := 0
  /-- STRIP (15 R470; log 1) -/
  strip : Bool := false
  /-- VID (15 R470; log 1) -/
  vid : Nat := 0
  /-- TID (15 R470; log 1) -/
  tid : Nat := 0
  deriving DecidableEq, Repr

/-- `VlanEnt` at reset. -/
def VlanEnt.init : VlanEnt := {}

/-- An Ethernet frame in a MAC's transmit buffer (R472). -/
structure TxFrame where
  /-- frame without FCS (15 R472; log 1) -/
  bytes : List Byte := []
  /-- transmit stamp requested (15 R473; log 1) -/
  stamp : Bool := false
  /-- COOKIE (15 R473; log 1) -/
  cookie : Nat := 0
  /-- tunnel (15 R473; log 1) -/
  tid : Nat := 0
  deriving DecidableEq, Repr

/-- `TxFrame` at reset. -/
def TxFrame.init : TxFrame := {}

/-- An Ethernet MAC (Chapter 15). -/
structure Mac where
  /-- MODE (15 R466) -/
  mode : Nat := 0
  /-- AN (15 R466) -/
  an : Bool := false
  /-- MTU (15 R468) -/
  mtu : Nat := 1518
  /-- INLAT, ns (15 R473) -/
  inLat : Nat := 0
  /-- EGLAT, ns (15 R473) -/
  egLat : Nat := 0
  /-- link up (15 R467) -/
  link : Bool := false
  /-- SPEED (15 R483; log 1) -/
  speed : Nat := 0
  /-- partner ability word (15 R483; log 1) -/
  partner : BitVec 16 := 0
  /-- VLAN map (15 R470) -/
  vlan : Tab VlanEnt := []
  /-- transmit buffer, leaving order (15 R472) -/
  txq : List TxFrame := []
  /-- counters: key group * 8 + index (15 R483) -/
  counters : Tab Nat := []
  deriving DecidableEq, Repr

/-- `Mac` at reset. -/
def Mac.init : Mac := {}

/-- A CAN filter entry (R478). -/
structure CanFilter where
  /-- ENABLE (15 R478) -/
  enable : Bool := false
  /-- IDE (15 R478; log 1) -/
  ide : Bool := false
  /-- FDSEL (15 R478; log 1) -/
  fdsel : Nat := 0
  /-- ACTION 1: send on TID (15 R478; log 1) -/
  action : Bool := false
  /-- FID (15 R478; log 1) -/
  fid : BitVec 29 := 0
  /-- MASK (15 R478; log 1) -/
  mask : BitVec 29 := 0
  /-- TID (15 R478; log 1) -/
  tid : Nat := 0
  deriving DecidableEq, Repr

/-- `CanFilter` at reset. -/
def CanFilter.init : CanFilter := {}

/-- A CAN frame (Table 15.3). -/
structure CanFrame where
  /-- W0 (15 R479; log 1) -/
  w0 : Word := 0
  /-- W1 (15 R479; log 1) -/
  w1 : Word := 0
  /-- data bytes (15 R479; log 1) -/
  data : List Byte := []
  deriving DecidableEq, Repr

/-- `CanFrame` at reset. -/
def CanFrame.init : CanFrame := {}

/-- A queued CAN frame (R481). -/
structure CanQ where
  /-- the frame (15 R481; log 1) -/
  frame : CanFrame := CanFrame.init
  /-- arrival (tunnel queue) or instant (timed queue), 250 ps (15 R481; log 1) -/
  due : Nat := 0
  /-- CAN_SEND that queued it (15 R483; log 1) -/
  cmd : Option Cmd := none
  /-- hub and slice whose engine or command queued it (11 R348) -/
  owner : Option (Nat × Nat) := none
  /-- tunnel it came from (15 R481; log 1) -/
  tid : Nat := 0
  /-- discarded while on the bus: it is not offered again (11 R347) -/
  dropped : Bool := false
  deriving DecidableEq, Repr

/-- `CanQ` at reset. -/
def CanQ.init : CanQ := {}

/-- A CAN controller (Chapter 15). -/
structure Can where
  /-- MODE (15 R476) -/
  mode : Nat := 0
  /-- AUTOREC (15 R477) -/
  autoRec : Bool := true
  /-- nominal phase as CAN_CFG DW5 (15 R476; log 1) -/
  nom : Word := 0
  /-- data phase as CAN_CFG DW6 (15 R476; log 1) -/
  dat : Word := 0
  /-- AGE, ms (15 R481) -/
  age : Nat := 100
  /-- filters (15 R478) -/
  filters : Tab CanFilter := []
  /-- tunnel queue, arrival order (15 R481) -/
  tunQ : List CanQ := []
  /-- timed queue, arrival order (15 R481) -/
  timedQ : List CanQ := []
  /-- pending address-claim frame (15 R481) -/
  claimQ : Option CanFrame := none
  /-- frame on the bus: 0 claim, 1 timed, 2 tunnel (15 R481) -/
  offered : Option (Nat × CanQ) := none
  /-- bus-off (15 R477) -/
  busOff : Bool := false
  /-- recovers as with AUTOREC whatever AUTOREC holds, after a CAN_CFG in bus-off or a domain-fatal error (15 R477, 19 R584) -/
  forceRec : Bool := false
  /-- error passive (15 R477) -/
  passive : Bool := false
  /-- TEC (15 R483) -/
  txErr : Nat := 0
  /-- REC (15 R483) -/
  rxErr : Nat := 0
  /-- frames discarded at the source per tunnel since its previous message (15 R479) -/
  lost : Tab Nat := []
  /-- counters of CAN_QUERY FORM 1 (15 R483) -/
  counters : Tab Nat := []
  /-- claim enabled (15 R482) -/
  nameEn : Bool := false
  /-- NAME (15 R482; log 1) -/
  name : BitVec 64 := 0
  /-- PREF (15 R482; log 1) -/
  pref : Nat := 0
  /-- address claimed or being claimed, FEh none (15 R482) -/
  addr : Nat := 0xFE
  /-- uptime tick + 1 at which the claim was last sent (15 R482) -/
  claimAt : Nat := 0
  /-- the address counts as claimed (15 R482) -/
  claimed : Bool := false
  /-- addresses claimed since bus-on, each with a NAME that claimed it (15 R482) -/
  others : List (Nat × BitVec 64) := []
  deriving DecidableEq, Repr

/-- `Can` at reset. -/
def Can.init : Can := {}

/-- MACs, MDIO and CAN controllers (Chapter 15). -/
structure Net where
  /-- MACs E0 to E3 (15 R466) -/
  macs : Tab Mac := []
  /-- NET_PORT_CFG FORM 1 accesses, the first on the bus (15 R469) -/
  mdio : List Cmd := []
  /-- uptime tick + 1 of the last PHY_INT (15 R469) -/
  phyIntAt : Nat := 0
  /-- controllers C0 and C1 (15 R476) -/
  cans : Tab Can := []
  deriving DecidableEq, Repr

/-- `Net` at reset. -/
def Net.init : Net := {}

/-- A sub-range (R492). -/
structure WinRange where
  /-- ENABLE (16 R507) -/
  enable : Bool := false
  /-- ACKED (16 R507; log 1) -/
  ack : Bool := false
  /-- OFFSET, 4 KiB units (16 R507; log 1) -/
  offset : Nat := 0
  /-- size (16 R507; log 1) -/
  sizeLog : Nat := 12
  deriving DecidableEq, Repr

/-- `WinRange` at reset. -/
def WinRange.init : WinRange := {}

/-- A near-side request that holds a tag (R491). -/
structure WinReq where
  /-- OP: 0 READ, 2 WRITE_A, 3 ATOMIC (16 R497; log 1) -/
  kind : Nat := 0
  /-- RSEQ (16 R497; log 1) -/
  rseq : BitVec 16 := 0
  /-- OFFSET (16 R497; log 1) -/
  offset : Nat := 0
  /-- LEN (16 R497; log 1) -/
  len : Nat := 0
  /-- tag of the host's PCIe request (16 R490; log 1) -/
  hostTag : Nat := 0
  /-- message header words, for re-issue (16 R499; log 1) -/
  words : List Word := []
  /-- data bytes, for re-issue (16 R499; log 1) -/
  data : List Byte := []
  /-- uptime tick + 1 of the first sending (16 R500; log 1) -/
  sentAt : Nat := 0
  /-- RETRYs received (16 R499) -/
  retries : Nat := 0
  /-- uptime tick at which the back-off under way ends (16 R499) -/
  backoff : Option Nat := none
  /-- completes with CA: an earlier ACKED write failed (16 R493) -/
  fail : Bool := false
  /-- sending order (16 R493; log 1) -/
  order : Nat := 0
  deriving DecidableEq, Repr

/-- `WinReq` at reset. -/
def WinReq.init : WinReq := {}

/-- A window or far record (R485 to R488). -/
structure Win where
  /-- 0 CLOSED 1 OPEN 2 SUSPENDED 3 DRAINING (16 R488) -/
  st : Nat := 0
  /-- far record (16 R507) -/
  far : Bool := false
  /-- TARGET REG (otherwise MEM) (16 R486) -/
  reg : Bool := false
  /-- even tunnel ID (16 R507; log 1) -/
  tid : Nat := 0
  /-- generation (16 R488; log 1) -/
  gen : BitVec 8 := 0
  /-- owning slice, or slice of the far record (16 R485; log 1) -/
  owner : Nat := 0
  /-- hub of the owning slice (16 R505; log 1) -/
  ownerHub : Nat := 0
  /-- size (16 R487; log 1) -/
  sizeLog : Nat := 12
  /-- APOFF, 4 KiB units (16 R487; log 1) -/
  apoff : Nat := 0
  /-- DEFACK (16 R506) -/
  defAck : Bool := false
  /-- OUTSTANDING (16 R491) -/
  outMax : Nat := 32
  /-- TIMEOUT, ms (16 R500) -/
  toMs : Nat := 50
  /-- sub-ranges (16 R492) -/
  ranges : Tab WinRange := []
  /-- BASE (16 R486; log 1) -/
  base : Nat := 0
  /-- SEM of a MEM far record, none: NOSEM (16 R503; log 1) -/
  sem : Option Nat := none
  /-- RSEQ of the next request (16 R497) -/
  rseq : BitVec 16 := 0
  /-- outstanding requests, sending order (16 R491) -/
  reqs : List WinReq := []
  /-- WIN_CLOSE waiting for the drain (16 R507) -/
  draining : Option Cmd := none
  /-- uptime tick + 1 at which it began to drain (16 R507) -/
  drainAt : Nat := 0
  /-- counters of WIN_QUERY FORM 1 (16 R507) -/
  counters : Tab Nat := []
  /-- per reason, uptime tick + 1 of the last WIN_ERROR (16 R508) -/
  rep : Tab Nat := []
  /-- per reason, count since the last WIN_ERROR (16 R508) -/
  since : Tab Nat := []
  /-- per reason, offset + 1 of the first access since the last WIN_ERROR (16 R508) -/
  first : Tab Nat := []
  /-- far: commit records (RSEQ, original value, RESULT) of this generation (16 R504) -/
  atomics : List (Nat × List Byte × Nat) := []
  deriving DecidableEq, Repr

/-- `Win` at reset. -/
def Win.init : Win := {}

/-- A request in the far hub's store (R498). -/
structure FarReq where
  /-- far record (16 R498; log 1) -/
  win : Nat := 0
  /-- OP (16 R497; log 1) -/
  op : Nat := 0
  /-- WGEN (16 R497; log 1) -/
  wgen : BitVec 8 := 0
  /-- RSEQ (16 R497; log 1) -/
  rseq : BitVec 16 := 0
  /-- OFFSET (16 R497; log 1) -/
  offset : Nat := 0
  /-- LEN (16 R497; log 1) -/
  len : Nat := 0
  /-- W2 (16 R497; log 1) -/
  w2 : Word := 0
  /-- data (16 R497; log 1) -/
  data : List Byte := []
  /-- presented to the target (16 R495) -/
  started : Bool := false
  /-- waits for its semaphore (16 R503) -/
  semWait : Bool := false
  /-- its tunnel has left OPEN: its result is discarded (16 R501) -/
  dead : Bool := false
  /-- uptime tick + 1 of its arrival (16 R496) -/
  since : Nat := 0
  /-- generation under which its ATOMIC holds the semaphore (16 R503) -/
  semGen : BitVec 8 := 0
  deriving DecidableEq, Repr

/-- `FarReq` at reset. -/
def FarReq.init : FarReq := {}

/-- A bridge semaphore (R502). -/
structure Sem where
  /-- HELD (16 R502) -/
  held : Bool := false
  /-- held by the bridge of this hub (16 R502) -/
  bridge : Bool := false
  /-- holder's hub (16 R502; log 1) -/
  hub : Nat := 0
  /-- holder's slice (16 R502; log 1) -/
  slice : Nat := 0
  /-- generation (16 R502; log 1) -/
  gen : BitVec 8 := 0
  /-- lease of the holder, ms (16 R502; log 1) -/
  leaseMs : Nat := 0
  /-- uptime tick + 1 of the acquisition (16 R502) -/
  takenAt : Nat := 0
  /-- waiting ACQUIREs, none for the bridge, with their leases in ms and the uptime tick + 1 of their arrival (16 R502) -/
  waiters : List (Option Cmd × Nat × Nat) := []
  deriving DecidableEq, Repr

/-- `Sem` at reset. -/
def Sem.init : Sem := {}

/-- Remote windows of a hub (Chapter 16). -/
structure WinSys where
  /-- windows and far records by index (16 R485) -/
  wins : Tab Win := []
  /-- request store, arrival order (16 R498) -/
  store : List FarReq := []
  /-- bridge semaphores (16 R502) -/
  sems : Tab Sem := []
  /-- commit records of WIN_SEM (16 R504) -/
  semRecs : List SemCmd := []
  /-- sending order of the next request (16 R493) -/
  order : Nat := 0
  /-- uptime tick + 1 of the last UNMAPPED report (16 R508) -/
  unmapRep : Nat := 0
  /-- unmapped accesses since the last report (16 R508) -/
  unmapSince : Nat := 0
  /-- offset of the first of them (16 R508) -/
  unmapFirst : Nat := 0
  deriving DecidableEq, Repr

/-- `WinSys` at reset. -/
def WinSys.init : WinSys := {}

/-- An internal key slot (R554). -/
structure KeySlot where
  /-- the slot holds a key (18 R554) -/
  full : Bool := false
  /-- TYPE (18 R554; log 1) -/
  typ : Nat := 0
  /-- attribute (18 R554; log 1) -/
  attr : Nat := 0
  /-- KEYID (18 R554; log 1) -/
  keyid : Word := 0
  /-- EXPORTABLE (18 R554; log 1) -/
  exportable : Bool := false
  /-- ORIGIN: 0 generated 1 imported 2 derived (18 R554; log 1) -/
  origin : Nat := 0
  /-- first share (18 R555; log 1) -/
  share0 : List Byte := []
  /-- second share (18 R555; log 1) -/
  share1 : List Byte := []
  /-- a read-back of KEY_DESTROY failed (18 R560) -/
  broken : Bool := false
  deriving DecidableEq, Repr

/-- `KeySlot` at reset. -/
def KeySlot.init : KeySlot := {}

/-- The key store (Chapter 18). -/
structure Keys where
  /-- internal slots (18 R554) -/
  slots : Tab KeySlot := []
  /-- the entropy source has passed its tests (18 R553) -/
  entropyOk : Bool := true
  /-- skim interval, us (18 R555) -/
  skimUs : Nat := 1000
  /-- uptime + 1 at the last skim pass, 0 for none (18 R555) -/
  skimAt : Nat := 0
  deriving DecidableEq, Repr

/-- `Keys` at reset. -/
def Keys.init : Keys := {}

/-- The running image (R573 to R577). -/
structure Img where
  /-- RUNNING: 0 A 1 B 2 none 3 built-in defaults (18 R578) -/
  running : Nat := 2
  /-- the 60 s HEALTH interval runs (18 R574) -/
  health : Bool := false
  /-- uptime tick of Field entry (18 R574; log 1) -/
  healthStart : Nat := 0
  /-- a data-area copy is kept (18 R577) -/
  kept : Bool := false
  /-- the copy in use is copy 1 (18 R576) -/
  inUse1 : Bool := false
  deriving DecidableEq, Repr

/-- `Img` at reset. -/
def Img.init : Img := {}

/-- Source offers (R512). -/
structure Offers where
  /-- 12 V offer, 100 mA, 0 none (17 R547; log 1) -/
  i12 : Nat := 0
  /-- 24 V offer (17 R547; log 1) -/
  i24 : Nat := 0
  /-- 48 V offer (17 R547; log 1) -/
  i48 : Nat := 0
  deriving DecidableEq, Repr

/-- `Offers` at reset. -/
def Offers.init : Offers := {}

/-- Port policy of the retained POWER section (R512). -/
structure PwrPol where
  /-- a retained policy holds this port (17 R515; log 1) -/
  given : Bool := false
  /-- P_LIM, W (17 R512) -/
  pLim : Nat := 60
  /-- VDSMIN, 100 mV (17 R512) -/
  vdsMin : Nat := 5
  /-- IMARGIN, % (17 R512) -/
  iMargin : Nat := 10
  /-- fault timer, ms (17 R512) -/
  faultMs : Nat := 50
  /-- retry timer, 10 ms (17 R512) -/
  retry10 : Nat := 100
  /-- insertion delay, ms (17 R512) -/
  insMs : Nat := 100
  /-- FSPCT, % (17 R512) -/
  fsPct : Nat := 80
  /-- PORTMAX, 100 mA (17 R512; log 1) -/
  portMax : Nat := 0
  /-- offers (17 R512; log 1) -/
  offers : Offers := Offers.init
  /-- SINKMAX, 100 mA, 0 no sinking (17 R512; log 1) -/
  sinkMax : Nat := 0
  /-- BLK (17 R512; log 1) -/
  blk : Bool := false
  /-- PMBus address, 0 none (17 R512; log 1) -/
  pmbus : Nat := 0
  /-- PEC (17 R534; log 1) -/
  pec : Bool := false
  /-- VOUT_COMMAND exponent (17 R512; log 1) -/
  vexp : Int := 0
  /-- idle OPERATION byte (17 R512) -/
  idleOp : Nat := 0
  /-- KEEP policy: 0 OFF 1 CARRIER 2 ALWAYS (17 R514; log 1) -/
  keepPol : Nat := 0
  /-- LINKNO (17 R512; log 1) -/
  linkNo : Nat := 0
  /-- ISCALE, 1/256 mA per step (17 R510; log 1) -/
  iScale : Nat := 0
  /-- IDAC, 1/256 mA per code (17 R510; log 1) -/
  iDac : Nat := 0
  /-- narrowed (UV, OV) per VCODE, 10 mV (17 R516) -/
  windows : Tab (Nat × Nat) := []
  deriving DecidableEq, Repr

/-- `PwrPol` at reset. -/
def PwrPol.init : PwrPol := {}

/-- The far end's IDENT (Table 17.4). -/
structure FarIdent where
  /-- unit ID (17 R521; log 1) -/
  unit : BitVec 64 := 0
  /-- image version (17 R521; log 1) -/
  imgVer : Word := 0
  /-- ROLE strap (17 R521; log 1) -/
  role : Nat := 0
  /-- PSRC (17 R521; log 1) -/
  psrc : Bool := false
  /-- FS_EN (17 R521; log 1) -/
  fsEn : Bool := false
  /-- BLK (17 R521; log 1) -/
  blk : Bool := false
  /-- CORE (17 R521; log 1) -/
  core : Bool := false
  /-- KEEPSRC (17 R521; log 1) -/
  keepSrc : Bool := false
  /-- harness class (17 R521; log 1) -/
  cls : Nat := 0
  /-- the far end is upstream-facing (DF of the frame clear) (01 R14, 17 R518; log 1) -/
  upf : Bool := false
  deriving DecidableEq, Repr

/-- `FarIdent` at reset. -/
def FarIdent.init : FarIdent := {}

/-- One end of a sideband conversation (R518 to R522). -/
structure SbLink where
  /-- carrier is held (17 R519) -/
  carrier : Bool := false
  /-- last MSGID sent (17 R520) -/
  msgid : Nat := 0
  /-- MSGID of the last non-IDLE frame accepted (17 R520) -/
  ackid : Nat := 0
  /-- outstanding non-IDLE frame (17 R520) -/
  outst : Option SbFrame := none
  /-- frames waiting to be sent (17 R520) -/
  queue : List SbFrame := []
  /-- this end's IDENT has been acknowledged (17 R519) -/
  identTx : Bool := false
  /-- the far end's IDENT (17 R521) -/
  ident : Option FarIdent := none
  /-- the port (link) is attached (17 R519) -/
  attached : Bool := false
  deriving DecidableEq, Repr

/-- `SbLink` at reset. -/
def SbLink.init : SbLink := {}

/-- A power log entry (R549). -/
structure PwrLogEnt where
  /-- W0 (17 R549) -/
  w0 : Word := 0
  /-- W1 (17 R549) -/
  w1 : Word := 0
  /-- W2 (17 R549) -/
  w2 : Word := 0
  /-- W3 (17 R549) -/
  w3 : Word := 0
  deriving DecidableEq, Repr

/-- `PwrLogEnt` at reset. -/
def PwrLogEnt.init : PwrLogEnt := {}

/-- A hitch port's power path (Chapter 17). -/
structure PwrPort where
  /-- policy in force (17 R512; log 1) -/
  pol : PwrPol := PwrPol.init
  /-- policy waiting for the next transition (17 R547) -/
  pendPol : Option PwrPol := none
  /-- state (Table 17.5) (17 R523) -/
  st : Nat := 0
  /-- 0 none 1 source 2 sink (17 R544) -/
  role : Nat := 0
  /-- role for KEEP (17 R544) -/
  keepRole : Nat := 0
  /-- sideband conversation, link 0 (17 R518) -/
  sb0 : SbLink := SbLink.init
  /-- sideband conversation, link 1 of a split port (17 R518) -/
  sb1 : SbLink := SbLink.init
  /-- split port: the next frame names link 1 (17 R518) -/
  turn1 : Bool := false
  /-- TYPE of the exchange awaiting an answer, 0 none (17 R522) -/
  lastType : Nat := 0
  /-- MSGID of that exchange (17 R521) -/
  lastMsg : Nat := 0
  /-- the 100 ms before SRC_CAPS is sent again run (17 R523) -/
  resend : Bool := false
  /-- the transition changes a contract (otherwise establishes one) (17 R535) -/
  changing : Bool := false
  /-- the sink's hub side has held the 48 V window for the insertion delay (17 R538) -/
  fsHub : Bool := false
  /-- path closed (PGATE_x and PBLK_x high) (17 R509) -/
  closed : Bool := false
  /-- KEEP_x_EN (17 R514) -/
  keepEn : Bool := false
  /-- KEEP latched (17 R537) -/
  keepLatch : Bool := false
  /-- KEEP retries made (17 R537) -/
  keepRetries : Nat := 0
  /-- KEEP waits for its retry timer (17 R537) -/
  keepFault : Bool := false
  /-- PILIM_x code (17 R528; log 1) -/
  pilim : Nat := 0
  /-- ilim in force, mA (17 R528) -/
  ilim : Nat := 0
  /-- PFLT_x_N is low (17 R509; log 1) -/
  pfltLow : Bool := false
  /-- contract VCODE, 0 none (17 R544) -/
  vcode : Nat := 0
  /-- contract current, 100 mA (17 R544) -/
  icon : Nat := 0
  /-- VCODE of the last contract, 0 none (17 R532) -/
  lastV : Nat := 0
  /-- latest PVH_x sample (17 R511; log 1) -/
  vhub : Nat := 0
  /-- latest PVC_x sample (17 R511; log 1) -/
  vcab : Nat := 0
  /-- latest PIS_x sample (17 R511; log 1) -/
  imeas : Nat := 0
  /-- latest KEEP_x_SNS sample (17 R510; log 1) -/
  vkeep : Nat := 0
  /-- in current limit (17 R529) -/
  inLimit : Bool := false
  /-- the fault timer runs (17 R529) -/
  faultRun : Bool := false
  /-- uptime + 1 at which it started, 0 where it does not run (17 R529) -/
  faultAt : Nat := 0
  /-- uptime + 1 since which the supply side, at a closed sink the hub side, has been in its window, 0 for not now (17 R525, R538) -/
  insAt : Nat := 0
  /-- uptime + 1 at which the retry timer started, 0 for never (17 R531) -/
  retryAt : Nat := 0
  /-- uptime + 1 at which the retry timer of KEEP started, 0 for never (17 R537) -/
  keepAt : Nat := 0
  /-- retry count (17 R531) -/
  retries : Nat := 0
  /-- uptime (400 MHz ticks) at the loss of presence (17 R531) -/
  lostAt : Option Nat := none
  /-- CONTRACT has been reported for this contract (17 R550) -/
  conRep : Bool := false
  /-- resource of a swap lost to a collision, until its retry (17 R539) -/
  swapLost : Option Nat := none
  /-- cause of the last fault (17 R544) -/
  cause : Nat := 0
  /-- insertion condition met (17 R525) -/
  insOk : Bool := false
  /-- cable side seen below 0.8 V since attach or opening (17 R525) -/
  safeLow : Bool := false
  /-- PS_RDY received for the contract (17 R525) -/
  psRdy : Bool := false
  /-- qualification has completed (17 R527) -/
  qualified : Bool := false
  /-- offers of the last SRC_CAPS received (VCODE, IMAX) (17 R521) -/
  caps : List (Nat × Nat) := []
  /-- FSOK of the far end (17 R521) -/
  capsFsOk : Bool := false
  /-- VCODE being negotiated (17 R523) -/
  reqV : Nat := 0
  /-- current being negotiated, 100 mA (17 R523) -/
  reqI : Nat := 0
  /-- GOODBYE reason 1: no REQUEST until presence is lost (17 R533) -/
  noReq : Bool := false
  /-- offers of the last SRC_CAPS sent (17 R521) -/
  ownCaps : List (Nat × Nat) := []
  /-- FS_ARM sent with ARM and acknowledged (17 R538) -/
  armTx : Bool := false
  /-- FS_ARM received with ARM (17 R538) -/
  armRx : Bool := false
  /-- fast swap armed (17 R538) -/
  armed : Bool := false
  /-- resource of the SWAP_REQ sent and unanswered (17 R536) -/
  swapRes : Option Nat := none
  /-- resource of the swap under way (17 R536) -/
  swapIn : Option Nat := none
  /-- this end is the new source of the swap under way (17 R536) -/
  swapNew : Bool := false
  /-- the swap under way is a fast swap (17 R538) -/
  fast : Bool := false
  /-- uptime (400 MHz ticks) at the fast-swap crossing (17 R538; log 1) -/
  crossAt : Nat := 0
  /-- the path has opened and the cable is being discharged (17 R526) -/
  discharge : Bool := false
  /-- presence lost in this state, DETACHED waits for the discharge (17 R541) -/
  lostSt : Option Nat := none
  /-- converter output commanded, mV (17 R534; log 1) -/
  convV : Nat := 0
  /-- converter output wanted, mV (17 R534; log 1) -/
  convTgt : Nat := 0
  /-- OPERATION byte last written (17 R526; log 1) -/
  convOp : Nat := 0
  /-- READ_VOUT, 10 mV (17 R544) -/
  convVout : Nat := 0
  /-- READ_IOUT, 10 mA (17 R544; log 1) -/
  convIout : Nat := 0
  /-- failed tries of the PMBus transaction under way (17 R534) -/
  pmbTries : Nat := 0
  /-- PWR_CONTRACT or PWR_SWAP waiting for its end (17 R545) -/
  cmd : Option Cmd := none
  /-- PWR_SWAP waiting (17 R546) -/
  swapCmd : Option Cmd := none
  deriving DecidableEq, Repr

/-- `PwrPort` at reset. -/
def PwrPort.init : PwrPort := {}

/-- Hitch power (Chapter 17): retained state (R52). -/
structure Pwr where
  /-- ports A, B, C (17 R509) -/
  ports : Tab PwrPort := []
  /-- power log, newest first (17 R549) -/
  log : List PwrLogEnt := []
  /-- uptime + 1 at the last PMB_ALERT reading, 0 for none (17 R534) -/
  alertAt : Nat := 0
  deriving DecidableEq, Repr

/-- `Pwr` at reset. -/
def Pwr.init : Pwr := {}

/-- Error bookkeeping of a containment domain (R602). -/
structure DomErr where
  /-- CORRECTED, saturating (19 R602) -/
  corrected : Nat := 0
  /-- RECOVERED, saturating (19 R602) -/
  recovered : Nat := 0
  /-- DOMFATALS, saturating (19 R602) -/
  fatals : Nat := 0
  /-- ESCALATIONS, saturating (19 R602) -/
  escal : Nat := 0
  /-- last CHECK (19 R602) -/
  lastCheck : Nat := 0
  /-- the domain is recovering (19 R587) -/
  recovering : Bool := false
  /-- CHECK of the recovery under way (19 R587; log 1) -/
  recCheck : Nat := 0
  /-- ORIGIN of the recovery under way (19 R600; log 1) -/
  recOrigin : Nat := 0
  /-- the recovery under way is an escalation (19 R600; log 1) -/
  recEsc : Bool := false
  /-- the recovery under way was injected (19 R600; log 1) -/
  recInj : Bool := false
  /-- LOCATION of the recovery under way (19 R600; log 1) -/
  recLoc : Word := 0
  /-- DETAIL of the recovery under way (19 R600; log 1) -/
  recDetail : Nat := 0
  /-- bad data of the recovery under way had left the hub (19 R596; log 1) -/
  recGone : Bool := false
  /-- what the array word of the recovery under way holds (19 R585; log 1) -/
  recUnit : Nat := 0
  /-- uptime + 1 at which the recovery under way began (19 R592; log 1) -/
  recAt : Nat := 0
  /-- the recovery window has started (19 R591) -/
  window : Bool := false
  /-- uptime + 1 at its start (19 R591) -/
  windowAt : Nat := 0
  /-- per check, uptime + 1 of the last correctable report (19 R600) -/
  ceAt : Tab Nat := []
  /-- per check, correctable errors since the last report (19 R600) -/
  ceCnt : Tab Nat := []
  deriving DecidableEq, Repr

/-- `DomErr` at reset. -/
def DomErr.init : DomErr := {}

/-- A pending injection (R603). -/
structure Inject where
  /-- DOMAIN (19 R603; log 1) -/
  dom : Nat := 0
  /-- CHECK (19 R603; log 1) -/
  check : Nat := 0
  /-- LOCATION (19 R603; log 1) -/
  loc : Word := 0
  /-- domain and delay (us) of the second fault (19 R603; log 1) -/
  second : Option (Nat × Nat) := none
  /-- DELAY, us (19 R603; log 1) -/
  delay : Nat := 0
  /-- uptime at which the delay started (19 R603; log 1) -/
  since : Nat := 0
  deriving DecidableEq, Repr

/-- `Inject` at reset. -/
def Inject.init : Inject := {}

/-- Fault containment (Chapter 19). -/
structure Err where
  /-- DEVFATAL (retained) (19 R597) -/
  devFatal : Bool := false
  /-- DOMFATAL (retained) (19 R597) -/
  domFatal : Bool := false
  /-- EVQFAIL (retained) (19 R597) -/
  evqFail : Bool := false
  /-- ESCAPED (retained) (19 R597) -/
  escaped : Bool := false
  /-- ESCALATED (retained) (19 R597) -/
  escalated : Bool := false
  /-- LASTDOM (retained) (19 R597) -/
  lastDom : Nat := 0
  /-- LASTCHECK (retained) (19 R597) -/
  lastCheck : Nat := 0
  /-- FATALS, saturating (retained) (19 R597) -/
  fatals : Nat := 0
  /-- per domain code (19 R602) -/
  doms : Tab DomErr := []
  /-- PATROLS, saturating (19 R602) -/
  patrols : Nat := 0
  /-- array the patrol reads next (19 R582) -/
  patrolArr : Nat := 0x80
  /-- word the patrol reads next (19 R582) -/
  patrolWord : Nat := 0
  /-- pass under way: (array code or FFh, words read, corrected, uncorrectable) (19 R604) -/
  scrub : Option (Nat × Nat × Nat × Nat) := none
  /-- array the pass under way reads next (19 R604; log 1) -/
  scrubArr : Nat := 0x80
  /-- word the pass under way reads next (19 R604; log 1) -/
  scrubWord : Nat := 0
  /-- DIAG_SCRUB with WAIT (19 R604) -/
  scrubCmd : Option Cmd := none
  /-- uptime at which the pass started (19 R604; log 1) -/
  scrubStart : Nat := 0
  /-- pending injection (19 R603) -/
  inject : Option Inject := none
  deriving DecidableEq, Repr

/-- `Err` at reset. -/
def Err.init : Err := {}

/-- Ordered sets, LCPs and time symbols a link's lanes send (Chapters 5, 6 and 9). -/
inductive LaneSym where
  /-- SKP ordered set (R107) -/
  | skp
  /-- COM on the lanes of a width (R124) -/
  | com (width : Nat)
  /-- TS1 or TS2 ordered sets (R123, R124) -/
  | ts (t : Ts)
  /-- DOZ ordered set with its depth (R131) -/
  | doz (d : Doze)
  /-- a compliance pattern, with the first bits it sends on each of the lanes (R137) -/
  | pattern (pat : Nat) (lanes : BitVec 4) (first : List Bool)
  /-- ACK with SEQ (R159) -/
  | ack (seq : BitVec 12)
  /-- NAK with SEQ (R159) -/
  | nak (seq : BitVec 12)
  /-- INIT_FC or FC_UPDATE of TC0 to TC3 or TC4 to TC7 with its limits (R167, R174) -/
  | fc (init hi : Bool) (limits : List Nat)
  /-- IDENT (R151, R173) -/
  | ident (unit : BitVec 64) (cfgGen : BitVec 8) (upf : Bool) (hub : Option Nat) (epoch : BitVec 8) (cont : Bool) (nonce : Word)
  /-- TMK of a time exchange (R272) -/
  | tmk
  /-- TIMEX with PCODE, SECLO, t1, t4, ASYM, STEPPEND, HOLD and LOCK (R273) -/
  | timex (seq : BitVec 8) (pcode secLo t1 t4 : Nat) (asym : Int) (stepPend hold lock : Bool)
  deriving DecidableEq, Repr

/-- What the hub hands to the outside world, oldest last in `State.out` (log entry 3). -/
inductive Out where
  /-- an event record written to a slice's event queue (R355) -/
  | record (slice port : Nat) (pasid : Option Nat) (addr : Nat) (dws : List Word)
  /-- an MSI-X message (R357) -/
  | msix (port vector : Nat) (addr : Nat) (data : Word)
  /-- a memory write on a host port (R341) -/
  | hostWrite (port : Nat) (pasid : Option Nat) (addr : Nat) (bytes : List Byte)
  /-- a memory read on a host port (R341, R407) -/
  | hostRead (port : Nat) (pasid : Option Nat) (addr len : Nat) (urgent : Bool)
  /-- a PCIe completion: 0 SC, 1 UR, 2 CA (R490, R500) -/
  | cpl (port hostTag status : Nat) (data : List Byte)
  /-- a CTRL message toward a hub, with its KIND, words and data (R374) -/
  | ctrl (hub kind : Nat) (ws : List Word) (data : List Byte)
  /-- a tree message on a link (R187, R188) -/
  | tree (link kind : Nat) (ws : List Word)
  /-- an ordered set, LCP or time symbol on a link, with its symbols by symbol time and lane (R105, R106, R151) -/
  | sym (link : Nat) (x : LaneSym) (rows : List (List Sym))
  /-- a tunnel packet on a link, with its symbols by symbol time and lane; ended by EBD where it is abandoned (R105, R147, R155) -/
  | packet (link : Nat) (p : TxPkt) (abandoned : Bool) (rows : List (List Sym))
  /-- a tunnel message offered by a local source (R205, R207) -/
  | tunnel (tid : Nat) (urgent : Bool) (bytes : List Byte)
  /-- a tunnel message delivered to a local exit's unit (R207) -/
  | deliver (tid : Nat) (bytes : List Byte)
  /-- a sideband frame, and the levels of the line half a cell at a time (R517) -/
  | sideband (port link : Nat) (f : SbFrame) (line : List Bool)
  /-- a PMBus transaction: address, command code, value (R534) -/
  | pmbus (port addr op value : Nat)
  /-- a USB answer to the host: 0 none, 1 ACK, 2 NAK, 3 NYET, 4 STALL, 5 DATA0, 6 DATA1, 7 DATA2,
  8 MDATA (R447) -/
  | usbHost (addr ep : Nat) (answer : Nat) (data : List Byte)
  /-- a USB bus action on a DFP: 0 reset, 1 resume, 2 suspend, 3 disable, 4 SOF, 5 transaction, 6 repeat (R448) -/
  | usbBus (port what : Nat) (data : List Byte)
  /-- an Ethernet frame with its FCS (R472) -/
  | mac (mac : Nat) (bytes : List Byte)
  /-- a CAN frame offered on the bus (R481) -/
  | can (ctrl : Nat) (w0 w1 : Word) (data : List Byte)
  /-- an MDIO access (R469) -/
  | mdio (cl45 write : Bool) (phy dev reg data : Nat)
  /-- an edge of a pin output by number: 0 to 31 ACT, 32 PPS_OUT, 33 TIME_OUT (R283, R307) -/
  | edge (pin : Nat) (level : Bool) (at250ps : Nat)
  /-- a PWM period of an ACT pin: its active level from an instant for a width, unless stopped sooner (R307) -/
  | pwm (pin : Nat) (level : Bool) (at250ps high : Nat)
  deriving DecidableEq, Repr

/-- Reasons a step can stop with a fault. None: every command of the table has an effect, and no access
of the spec's address spaces stops the hub, so no meaning raises one (safe). -/
inductive Fault where
  /-- Raised by nothing: kept so that the type has a member (safe). -/
  | none
  deriving DecidableEq, Repr

/-- Reasons a command can be refused. -/
inductive Refusal where
  /-- Raised by the dispatcher alone, for a command without a meaning (safe: the machine stops). -/
  | notModelled (mnemonic : String)
  deriving DecidableEq, Repr

/-- The whole hub. Retained and flash state (`nv`, `ret`, `pwr`, the latch bits of `err`) stands beside the
core's (R51, R52). -/
structure State where
  /-- commands waiting, first in first out (the model's own) -/
  pending : List Instr := []
  /-- fused and flash contents -/
  nv : Nv := Nv.init
  /-- straps, mode and retained state -/
  ret : Ret := Ret.init
  /-- power paths: retained state -/
  pwr : Pwr := Pwr.init
  /-- settings of the applied image -/
  board : Board := Board.init
  /-- pace loop -/
  pace : Pace := Pace.init
  /-- hitch links by code: 0 A, 1 B0, 2 B1, 3 C0, 4 C1 (R138) -/
  links : Tab Link := []
  /-- tree state and Gazetteer -/
  tree : Tree := Tree.init
  /-- hub-wide scheduling -/
  sched : Sched := Sched.init
  /-- datum time -/
  time : Time := Time.init
  /-- traverse engines and action pins -/
  trav : Trav := Trav.init
  /-- host ports, slices, command transport -/
  host : HostIf := HostIf.init
  /-- display heads -/
  disp : Disp := Disp.init
  /-- USB hub -/
  usb : Usb := Usb.init
  /-- MACs and CAN controllers -/
  net : Net := Net.init
  /-- remote windows -/
  win : WinSys := WinSys.init
  /-- key store -/
  keys : Keys := Keys.init
  /-- running image -/
  img : Img := Img.init
  /-- fault containment -/
  err : Err := Err.init
  /-- what the hub has handed out, newest first (the model's own, log entry 3) -/
  out : List Out := []
  /-- free values drawn so far (the model's own, log entry 4) -/
  free : Nat := 0
  /-- 400 MHz ticks since the last power-on reset (R549) -/
  uptime : Nat := 0
  deriving DecidableEq, Repr

/-- The machine right after reset: RESET_N low, nothing sampled, every register at its reset value
(R25, R49, R52; log entries 1, 8, 9, 20). -/
def State.reset : State := {}

end Sys2Proof.Machine
end

