-- ==== Sys2Proof/Machine/Ops.lean ====
section
/-! DEFINITION. Shared operations over the state: effective straps and presence, datum time, free values,
the outbox, slices and their records, events, grants, and the common execution of a host command. -/

namespace Sys2Proof.Machine

/-! ### Modes, straps, ports and links -/

/-- The core runs in Survey, Field, Holdover and Safe (R55). -/
def State.coreOn (s : State) : Bool :=
  match s.ret.mode with
  | .dormant => false
  | .sentry => false
  | .survey => true
  | .field => true
  | .holdover => true
  | .safe => true

/-- Mode codes (Table 3.4). -/
def modeCode : Mode → Nat
  | .dormant => 0
  | .sentry => 1
  | .survey => 2
  | .field => 3
  | .holdover => 4
  | .safe => 5

/-- The hub runs its tunnels and units: Field or Holdover. -/
def State.working (s : State) : Bool := decide (s.ret.mode = .field ∨ s.ret.mode = .holdover)

/-- A strap field as sampled (Table 2.5). -/
def State.strap (s : State) (hi lo : Nat) : Nat := bits s.ret.straps.toNat hi lo

/-- ROLE[1:0]. -/
def State.role (s : State) : Nat := s.strap 1 0

def State.isRoot (s : State) : Bool := decide (s.role = 0)

/-- BOOT[1:0]. -/
def State.boot (s : State) : Nat := s.strap 5 4

/-- Effective HOST (R35). -/
def State.hostEff (s : State) : Nat :=
  if s.strap 3 2 = 3 ∨ s.role = 3 then 0 else s.strap 3 2

/-- An overridable strap: the image's value where the image overrides it (R38). -/
def State.ovStrap (s : State) (sel hi lo ohi olo : Nat) : Nat :=
  if bit s.board.ovSel.toNat sel then bits s.board.ovVal.toNat ohi olo else s.strap hi lo

/-- Effective LANEMAX, PSRC, FS_EN, USB_UP and HEADS (R38). -/
def State.laneMax (s : State) : Nat := s.ovStrap 0 7 6 1 0
def State.psrc (s : State) : Bool := decide (s.ovStrap 1 8 8 2 2 = 1)
def State.fsEn (s : State) : Bool := decide (s.ovStrap 2 9 9 3 3 = 1)
def State.usbUp (s : State) : Bool := decide (s.ovStrap 3 13 13 4 4 = 1)
def State.heads (s : State) : Nat := s.ovStrap 4 11 10 6 5
def State.safeLvl (s : State) : Bool := decide (s.strap 12 12 = 1)

/-- Every strap as the hub acts on it, in the bit order of ACT[13:0] (R33, R395). DESIGN CHOICE: bit 12 shows SAFELVL as
strapped while the image has replaced it (log entry 49). -/
def State.strapsEff (s : State) : Nat :=
  s.role + fld 2 s.hostEff + fld 4 s.boot + fld 6 s.laneMax + fld 8 (b2n s.psrc) + fld 9 (b2n s.fsEn)
    + fld 10 s.heads + fld 12 (b2n s.safeLvl) + fld 13 (b2n s.usbUp)

def State.railValid (s : State) (r : Rail) : Bool := s.ret.rails.contains r

/-- The block of an optional rail is present: the rail is valid, and became so in another mode than Safe (R44). -/
def State.blockOn (s : State) (r : Rail) : Bool := s.railValid r && !s.ret.lateRails.contains r

/-- The run rails (R43). -/
def runRails : List Rail := [.vcore, .vsram, .vphy, .vphyh, .vddioA, .vddioB, .vddioC]

def State.runRailsValid (s : State) : Bool := runRails.all s.railValid

/-- A PCIe port is in use (R36). -/
def State.pcieUsed (s : State) : Bool := decide (s.hostEff ≠ 0)

/-- Host port `p` is in use (R337). -/
def State.hostPortUsed (s : State) (p : Nat) : Bool :=
  decide ((p = 0 ∧ s.hostEff ≠ 0) ∨ (p = 1 ∧ s.hostEff = 2))

/-- Port of a link (Table 1.2). -/
def linkPort (l : Nat) : Nat := if l = 0 then 0 else if l ≤ 2 then 1 else 2

/-- Port `p` is enabled: not absent, and not B or C of a leaf (R13). -/
def State.portEnabled (s : State) (p : Nat) : Bool :=
  decide (p < 3) && !bit s.board.absentPorts.toNat p && (decide (p = 0) || decide (s.role ≠ 2))

/-- Port `p` is split (R15). -/
def State.portSplit (s : State) (p : Nat) : Bool :=
  (decide (p = 1) && s.board.splitB) || (decide (p = 2) && s.board.splitC)

/-- The link exists (R16). -/
def State.linkPresent (s : State) (l : Nat) : Bool :=
  decide (l < 5) && s.portEnabled (linkPort l)
    && ((decide (l ≠ 2) && decide (l ≠ 4)) || s.portSplit (linkPort l))

/-- Port A faces upstream on every hub but the root (Table 1.1). -/
def State.upPort (s : State) (p : Nat) : Bool := decide (p = 0) && !s.isRoot

/-- The upstream link. -/
def State.upLink (s : State) (l : Nat) : Bool := decide (l = 0) && !s.isRoot

def State.link (s : State) (l : Nat) : Link := s.links.read Link.init l

def State.setLink (s : State) (l : Nat) (k : Link) : State :=
  { s with links := s.links.write Link.init l k }

def State.modLink (s : State) (l : Nat) (f : Link → Link) : State := s.setLink l (f (s.link l))

/-- The first port lane of a link: B1 and C1 hold lanes 3:2 (Table 1.2). -/
def linkBase (l : Nat) : Nat := if l = 2 ∨ l = 4 then 2 else 0

/-- Lanes of a link (R16). -/
def State.linkLanes (s : State) (l : Nat) : Nat := if s.portSplit (linkPort l) then 2 else 4

/-- The port lanes of a link as a mask (Table 1.2). -/
def State.laneMask (s : State) (l : Nat) : Nat := (2 ^ s.linkLanes l - 1) * 2 ^ linkBase l

/-- Links present and, of those, downstream (R10). -/
def State.linksPresent (s : State) : List Nat := (List.range 5).filter s.linkPresent
def State.downLinks (s : State) : List Nat := s.linksPresent.filter fun l => !s.upLink l

/-- The link is UP, dozing included (R180). -/
def State.linkUp (s : State) (l : Nat) : Bool := decide ((s.link l).st = .up)

/-- Own hub number: the root is 0 (R19); SRCHUB of a hub without one is 0 (DESIGN CHOICE; log entry 47). -/
def State.hubNum (s : State) : Option Nat := if s.isRoot then some 0 else s.tree.hub
def State.hubNo (s : State) : Nat := s.hubNum.getD 0

/-- The number that stands for this hub among owners, holders and receivers: 32, which no hub has, while it has none (R19, R373). -/
def State.selfNo (s : State) : Nat := s.hubNum.getD 32

/-- The head is present: HEADS gives it and VDD_LV is valid (R396). -/
def State.headPresent (s : State) (i : Nat) : Bool :=
  s.blockOn .vddLv && ((decide (i = 0) && decide (s.heads ≠ 0)) || (decide (i = 1) && decide (2 ≤ s.heads)))

/-! ### Datum time -/

/-- Units of 2^-32 ns per ns and per 250 ps. -/
def unitNs : Nat := 2 ^ 32
def unit250 : Nat := 2 ^ 30

/-- ADD at frequency correction FREQ, in units of 2^-32 ns, rounded down (R261). -/
def addend (freq : Int) : Int := 10737418240 + freq * 41943040 / 1000000000

/-- The part of a slew made in one tick: at most 50 ppm of 2.5 ns, in units of 2^-32 ns (R290). -/
def slewPart (left : Int) : Int := max (-536870) (min 536870 left)

/-- What one tick adds to datum time now, in units of 2^-32 ns: an instant since which less has passed was reached at this tick
(R261, R290). -/
def State.tickLen (s : State) : Nat := (addend s.time.freq + slewPart s.time.slewLeft).toNat

/-- Datum time in ns, in 250 ps, its SECONDS and its NS (R258). -/
def State.nowNs (s : State) : Nat := s.time.datum / unitNs
def State.now250 (s : State) : Nat := s.time.datum / unit250
def State.nowUs (s : State) : Nat := s.nowNs / 1000
def State.nowMs (s : State) : Nat := s.nowNs / 1000000

/-- A number of 400 MHz ticks have passed since an instant, given as its uptime plus 1, 0 for never. -/
def State.passed (s : State) (last ticks : Nat) : Bool := decide (last = 0 ∨ last + ticks ≤ s.uptime + 1)

/-- One of these domains recovers and holds its inputs (R587). -/
def State.recovers (s : State) (ds : List Nat) : Bool := ds.any fun d => (s.err.doms.read DomErr.init d).recovering

/-- The Gazetteer entry of a tunnel waits to be reprogrammed: the hop holds the tunnel's packets (Table 19.3). -/
def State.hopHeld (s : State) (t : Nat) : Bool :=
  let x := s.err.doms.read DomErr.init 0x80
  x.recovering && decide (x.recCheck = 5 ∧ x.recOrigin = 0x80 ∧ x.recUnit = t)

/-- A condition has held, or a timer run, for a number of 400 MHz ticks, since an instant given as its uptime plus 1, 0 for not
now. -/
def State.heldFor (s : State) (since ticks : Nat) : Bool := decide (since ≠ 0 ∧ since + ticks ≤ s.uptime + 1)
def State.nowSec (s : State) : Nat := s.nowNs / 1000000000

/-- The instant `since` (250 ps) ago, in the time in force at it: an edge at the instant of a step has the new time (R284,
R286). -/
def State.ago (s : State) (since : Nat) : Nat :=
  let at' : Int := (s.now250 : Int) - since
  (if at' < s.time.stepTo then at' - s.time.stepBy else at').toNat

/-- A timed instant of `due` (250 ps) as it is served: one that a step skipped is reached at the step instant (R265). -/
def State.served (s : State) (due : Nat) : Nat := max due s.time.stepTo

/-- The compact form of an instant in ns: NS then SECONDS[31:0] (R259). -/
def compactNs (t : Nat) : Word := word (t % 1000000000)
def compactSec (t : Nat) : Word := word (t / 1000000000)
def compactOf (t : Nat) : Nat := t % 1000000000 + 2 ^ 32 * (t / 1000000000 % 2 ^ 32)

/-- The instant a compact value names, nearest to `now` (ns), the later of two equally near (R259). -/
def resolveCompact (now ns secLo : Nat) : Nat :=
  let era := 2 ^ 32 * 1000000000
  let v := secLo * 1000000000 + ns
  let base := (now / era) * era + v
  let dist (a : Nat) : Nat := (a - now) + (now - a)
  let later := if dist (base + era) ≤ dist base then base + era else base
  if era ≤ base ∧ dist (base - era) < dist later then base - era else later

/-! ### Free values -/

/-- The next free value of `w` bits, and the state that has drawn it. -/
def State.freeVal (s : State) (w : Nat) : BitVec w := Config.freeValue w s.free
def State.drew (s : State) : State := { s with free := s.free + 1 }

/-! ### Outbox -/

def State.emit (s : State) (o : Out) : State := { s with out := o :: s.out }
def State.emits (s : State) (os : List Out) : State := { s with out := os.reverse ++ s.out }

/-! ### Slices, records and interrupts -/

def State.slice (s : State) (k : Nat) : Slice := s.host.slices.read Slice.init k

def State.setSlice (s : State) (k : Nat) (x : Slice) : State :=
  { s with host := { s.host with slices := s.host.slices.write Slice.init k x } }

def State.modSlice (s : State) (k : Nat) (f : Slice → Slice) : State := s.setSlice k (f (s.slice k))

def State.hport (s : State) (p : Nat) : HPort := if p = 0 then s.host.port0 else s.host.port1

def State.setHport (s : State) (p : Nat) (h : HPort) : State :=
  if p = 0 then { s with host := { s.host with port0 := h } } else { s with host := { s.host with port1 := h } }

/-- Commands fetched and not completed (PENDING). -/
def State.pendingOf (s : State) (k : Nat) : Nat := (s.host.pend.filter fun p => decide (p.cmd.slice = k)).length

/-- The host port of the slice lets the hub issue requests for it (R340, R341). -/
def State.portReady (s : State) (x : Slice) : Bool :=
  let h := s.hport x.port
  x.bound && h.up && h.d0 && (x.pasid.isNone || h.pasidEn)

/-- Records may be written for the slice now (R340, R355, R360). -/
def State.canWrite (s : State) (k : Nat) : Bool :=
  let x := s.slice k
  decide (x.state = 1) && s.portReady x && x.evq.enable

/-- Free slots of the event queue: the slot after the tail must not be the head (R355). -/
def EvQ.room (q : EvQ) : Nat :=
  if q.enable ∧ q.size ≠ 0 then q.size - 1 - (q.tail + q.size - q.head) % q.size else 0

/-- The slice record words DW4 to DW7 (Table 11.3). -/
def State.sliceWords (s : State) (k : Nat) : List Word :=
  let x := s.slice k
  [ pack [fld 30 x.state, fld 29 (b2n x.pasid.isNone), fld 28 x.port, fld 8 (x.pasid.getD 0), x.gen.toNat],
    pack [fld 16 (sumN (x.sqs.map fun p => if p.2.enable then 2 ^ p.1 else 0)), fld 15 (b2n x.evq.enable), fld 9 k, x.quota],
    pack [fld 16 (s.pendingOf k), x.held.length],
    word x.lost ]

/-- Vectors of a host port's MSI-X table (R338, R619). -/
def State.vectors (s : State) : Nat := if s.hostEff = 2 then 256 else 512

/-- The interrupt conditions of R357 at this instant: COUNT records, or TIME since the first. -/
def State.intDue (s : State) (k : Nat) : Bool :=
  let x := s.slice k
  decide (0 < x.unsig) &&
    (decide (x.intCount ≤ x.unsig) ||
      (match x.firstAt with
        | some t => decide (t + 1000 * x.intTime ≤ s.nowNs)
        | none => false))

/-- The interrupt of a slice: pending bit where the vector or the function is masked, else the message and
both counts restart (R357). -/
def State.sendInt (s : State) (k : Nat) : State :=
  let x := s.slice k
  let h := s.hport x.port
  if x.mask ∨ s.vectors ≤ x.vector ∨ !x.bound then s
  else
    let e := h.msix.read {} x.vector
    if e.masked ∨ h.funcMask then
      s.setHport x.port { h with pba := if h.pba.contains x.vector then h.pba else x.vector :: h.pba }
    else (s.emit (.msix x.port x.vector e.addr e.data)).setSlice k { x with unsig := 0, firstAt := none }

/-- DW0 to DW7 of a record in the queue (R387). -/
def Rec.dws (r : Rec) (phase : Bool) (gen : Nat) : List Word :=
  [ pack [fld 31 (b2n phase), fld 16 r.srcHub, fld 8 r.status, r.typ],
    pack [fld 24 r.srcIndex, fld 16 gen, r.tag], word r.ns, word r.sec,
    (r.ws[0]?).getD 0, (r.ws[1]?).getD 0, (r.ws[2]?).getD 0, (r.ws[3]?).getD 0 ]

/-- One record written at the tail; the phase inverts when the tail wraps (R355). -/
def State.writeRec (s : State) (k : Nat) (r : Rec) : State :=
  let x := s.slice k
  let q := x.evq
  let nt := if q.tail + 1 ≥ q.size then 0 else q.tail + 1
  let s := s.emit (.record k x.port x.pasid (q.base + 32 * q.tail) (r.dws q.phase x.gen.toNat))
  let s := s.setSlice k { x with
    evq := { q with tail := nt, phase := if nt = 0 then !q.phase else q.phase }
    unsig := x.unsig + 1
    firstAt := some (x.firstAt.getD s.nowNs) }
  if s.intDue k then s.sendInt k else s

/-- A record for a slice of this hub (R355, R356): written while the queue has room and nothing is held,
else held; a record that is not a completion is dropped and counted where only reserved slots remain. -/
def State.postRec (s : State) (k : Nat) (completion : Bool) (r : Rec) : State :=
  let x := s.slice k
  if x.state = 0 then s
  else
    let room := if s.canWrite k then x.evq.room else 0
    if !completion ∧ room + (64 - x.held.length) ≤ s.pendingOf k then
      s.setSlice k { x with lost := satAdd 32 x.lost 1 }
    else if 0 < room ∧ x.held = [] then s.writeRec k r
    else s.setSlice k { x with held := x.held ++ [r] }

/-- Held records written in order while there is room (R356, R364). -/
def State.flushHeld (s : State) (k : Nat) : Nat → State
  | 0 => s
  | n + 1 =>
    match (s.slice k).held with
    | [] => s
    | r :: rest =>
      if s.canWrite k ∧ 0 < (s.slice k).evq.room then
        ((s.modSlice k fun x => { x with held := rest }).writeRec k r).flushHeld k n
      else s

/-! ### Messages and events -/

/-- W0 of a CTRL message: KIND, SLICE and SRCHUB (Table 12.3). -/
def State.ctrlW0 (s : State) (kind slice : Nat) : Word := pack [fld 24 kind, fld 16 slice, fld 11 s.hubNo]

/-- An event record built now on this hub, with the TAG of the command that causes it (R387, R388). -/
def State.mkRec (s : State) (typ status idx : Nat) (ws : List Word) : Rec :=
  { typ := typ, status := status, srcHub := s.hubNo, srcIndex := idx, tag := s.host.cause, ns := s.nowNs % 1000000000,
    sec := s.nowSec, ws := ws }

/-- An event for a slice of any hub: written here, or sent in an EVENT message (R389). The core reports
nothing while it is off (R56). -/
def State.report (s : State) (h k typ status idx : Nat) (ws : List Word) : State :=
  let r := s.mkRec typ status idx ws
  if !s.coreOn then s
  else if h = s.selfNo then s.postRec k false r
  else s.emit (.ctrl h 0x12 ([s.ctrlW0 0x12 k, 0, 0, 0] ++ r.dws false 0) [])

/-- The hub of the management slice (R373). -/
def State.mgmtHub (s : State) : Nat := if s.pcieUsed then s.selfNo else 0

/-- An event for the management slice. -/
def State.reportMgmt (s : State) (typ status idx : Nat) (ws : List Word) : State :=
  s.report s.mgmtHub 0 typ status idx ws

/-- An event for the management slice and slice 0 of the root, once where they are one. -/
def State.reportBoth (s : State) (typ status idx : Nat) (ws : List Word) : State :=
  let s' := s.reportMgmt typ status idx ws
  if s.mgmtHub = 0 then s' else s'.report 0 0 typ status idx ws

/-- The holder of a one-holder grant. -/
def State.holder (s : State) (kind idx : Nat) : Option (Nat × Nat) :=
  (s.host.grants.find? fun g => decide (g.kind = kind ∧ g.index = idx)).map fun g => (g.hub, g.slice)

/-- An event for the management slice and for the holder of a resource (R434, R465, R484, R579). -/
def State.reportHolder (s : State) (kind idx typ status src : Nat) (ws : List Word) : State :=
  let s' := s.reportMgmt typ status src ws
  match s.holder kind idx with
  | some (h, k) => if h = s.mgmtHub ∧ k = 0 then s' else s'.report h k typ status src ws
  | none => s'

/-- CTRL message to a hub. -/
def State.sendCtrl (s : State) (h kind slice : Nat) (ws : List Word) : State :=
  s.emit (.ctrl h kind (s.ctrlW0 kind slice :: ws) [])

/-! ### Status codes (Table 12.4) -/

def stOk : Nat := 0x00
def stBadOpcode : Nat := 0x02
def stBadParam : Nat := 0x03
def stNoResource : Nat := 0x04
def stNotGranted : Nat := 0x05
def stStaleGen : Nat := 0x06
def stBusy : Nat := 0x07
def stWrongMode : Nat := 0x08
def stTimeout : Nat := 0x09
def stLinkLost : Nat := 0x0A
def stTargetError : Nat := 0x0B
def stCollided : Nat := 0x0C
def stAuthFail : Nat := 0x0D
def stIntegrity : Nat := 0x0E
def stAborted : Nat := 0x0F
def stNotPresent : Nat := 0x10
def stLimit : Nat := 0x11
def stDenied : Nat := 0x12

/-! ### Authority -/

/-- The command has the authority of slice 0 of this hub: from it, from slice 0 of the root where no PCIe
port is in use (R373), or a SYS command of the root's control plane (R375). -/
def State.authZ (s : State) (c : Cmd) : Bool :=
  (c.sys && decide (c.hub = 0)) ||
    (!c.sys && ((c.here && decide (c.slice = 0)) || (!s.pcieUsed && decide (c.hub = 0) && decide (c.slice = 0) && !c.here)))

/-- Hub of the submitting slice. -/
def State.cmdHub (s : State) (c : Cmd) : Nat := if c.here then s.selfNo else c.hub

/-- A grant of the resource held by a slice, not being revoked (R348, R349). -/
def State.holds (s : State) (h k kind idx : Nat) : Bool :=
  s.host.grants.any fun g => decide (g.kind = kind ∧ g.index = idx ∧ g.hub = h ∧ g.slice = k) && !g.revoking

/-- The command may use the resource (R348). -/
def State.mayUse (s : State) (c : Cmd) (kind idx : Nat) : Bool :=
  s.authZ c || s.holds (s.cmdHub c) c.slice kind idx

/-! ### Completion of commands -/

/-- The entry of a command among those in flight. -/
def State.pendOf (s : State) (c : Cmd) : Option Pend :=
  if c.here then s.host.pend.find? fun p => decide (p.cmd.htag = c.htag) else none

/-- The command's tag and slot released (R346, R356, R379). -/
def State.dropPend (s : State) (c : Cmd) : State :=
  if c.here then
    { s with host := { s.host with pend := s.host.pend.filter fun p => decide (p.cmd.htag ≠ c.htag) } }
  else { s with host := { s.host with
    recv := s.host.recv.filter fun r => decide (¬ (r.cmd.htag = c.htag ∧ r.cmd.hub = c.hub ∧ r.cmd.sys = c.sys)) } }

/-- The completion record of a command (R390). -/
def State.complRec (s : State) (c : Cmd) (st : Nat) (ws : List Word) : Rec :=
  { s.mkRec 1 st c.sq ws with tag := c.tag }

/-- Pieces of at most `n` bytes. -/
def chunks (n : Nat) : Nat → List Byte → List (List Byte)
  | 0, _ => []
  | k + 1, bs => if bs.length ≤ n ∨ n = 0 then [bs] else bs.take n :: chunks n k (bs.drop n)

/-- DATA messages of at most 2032 bytes in order of OFFSET (Table 12.3, R376). -/
def State.sendData (s : State) (h slice htag off : Nat) : List (List Byte) → State
  | [] => s
  | c :: r =>
    (s.emit (.ctrl h 0x13 [s.ctrlW0 0x13 slice, word htag, word off, word c.length] c)).sendData h slice htag (off + c.length) r

/-- COMMAND, followed by the DATA of its input (R375, R376). -/
def State.sendCommand (s : State) (c : Cmd) (data : List Byte) : State :=
  let dw := (List.range 16).map fun i =>
    if i = 1 then word (nthW c.dw 1 ||| 2 ^ 29) else if i < c.len then word (nthW c.dw i) else 0
  let ws := [ pack [fld 24 0x10, fld 23 (b2n c.sys), fld 16 c.slice, fld 11 s.hubNo], pack [fld 16 c.sgen, c.htag],
    compactNs s.nowNs, compactSec s.nowNs, word data.length, 0 ] ++ dw
  let s := s.emit (.ctrl c.target 0x10 ws [])
  if data = [] then s else s.sendData c.target c.slice c.htag 0 (chunks 2032 (data.length / 2032 + 1) data)

/-- An entry replaced by its tag. -/
def State.setPend (s : State) (p : Pend) : State :=
  { s with host := { s.host with pend := s.host.pend.map fun q => if q.cmd.htag = p.cmd.htag then p else q } }

/-- The command executes on this hub (R372). -/
def State.isLocal (s : State) (c : Cmd) : Bool := c.toSelf || decide (s.hubNum = some c.target)

/-- A fetched command that no fence holds goes on: a remote one reads its input and is sent; a local one waits for
its instant, then reads its input, then starts (R376, R380, R382, R383, R384). -/
def State.startPend (s : State) (p : Pend) : State :=
  let x := s.slice p.cmd.slice
  let readIn (s : State) : State := s.emit (.hostRead x.port x.pasid p.inAddr p.inLen false)
  if s.isLocal p.cmd then
    if s.nowNs < p.launch then s.setPend { p with stage := .timed }
    else if p.inLen ≠ 0 then readIn (s.setPend { p with stage := .input })
    else s.setPend { p with stage := .ready }
  else if p.inLen ≠ 0 then readIn (s.setPend { p with stage := .input })
  else (s.setPend { p with stage := .sent }).sendCommand p.cmd []

/-- A fence holds an entry (R383): it carries FENCE and an earlier command of its slice has not completed, or an
earlier fenced command of its own queue has not. -/
def State.fenced (s : State) (p : Pend) : Bool :=
  s.host.pend.any fun q => decide (q.cmd.slice = p.cmd.slice ∧ q.order < p.order) && !q.cmd.sys &&
    (p.cmd.fence || (q.cmd.fence && decide (q.cmd.sq = p.cmd.sq)))

/-- A COMMAND waits until those of its queue that were fetched earlier for the same hub have been sent, so that they start
there in queue order (R376, R382). -/
def State.behind (s : State) (p : Pend) : Bool :=
  !s.isLocal p.cmd && s.host.pend.any fun q =>
    decide (q.cmd.slice = p.cmd.slice ∧ q.cmd.sq = p.cmd.sq ∧ q.order < p.order ∧ q.cmd.target = p.cmd.target) &&
      !s.isLocal q.cmd && decide (q.stage = .fence ∨ q.stage = .input)

/-- Non-posted requests that a host port may have outstanding (Table 11.1). -/
def maxNonPosted : Nat := 256

/-- Reads that the hub has outstanding on a host port for indirect input (R338). -/
def State.readsOut (s : State) (port : Nat) : Nat :=
  (s.host.pend.filter fun p => decide (p.stage = .input ∧ (s.slice p.cmd.slice).port = port)).length

/-- A fetched command does not go on yet: a fence holds it, its queue's order, or the limit of 256 non-posted requests of its host
port (R338, R382, R383). -/
def State.heldBack (s : State) (p : Pend) : Bool :=
  s.fenced p || s.behind p || (decide (p.inLen ≠ 0) && decide (maxNonPosted ≤ s.readsOut (s.slice p.cmd.slice).port))

/-- Entries that were held back go on, in fetch order (R382, R383). -/
def State.kick (s : State) : State :=
  s.host.pend.foldl (fun s p => if p.stage = .fence ∧ !s.heldBack p then s.startPend p else s) s

/-- IMG_EVENT to the management slice and slice 0 of the root (R579). -/
def State.imgEvent (s : State) (reason status slot value : Nat) : State :=
  let ver := if s.img.running < 2 then s.board.imgVer else 0
  s.reportBoth 0x0E status 0 [pack [reason, fld 8 slot, fld 9 s.nv.counter], ver, word value, 0]

/-- The command is a record of the applied image, carried out with the authority of slice 0 (R572; log entry 40): its
HTAG is 65536 and the record's tag. -/
def ofImage (c : Cmd) : Bool := c.here && c.sys

/-- A command completes: its record is written, unless NO_EVENT applies, or its COMPLETION is sent; a
completion made stale by a slice reset is discarded and counted (R358, R371, R376, R390). A TUNNEL record of the image
that completes with another status than OK is reported as IMG_EVENT RECORD_FAIL (R572). -/
def State.complete (s : State) (c : Cmd) (st : Nat) (ws : List Word) : State :=
  if ofImage c then
    (if st = stOk ∨ c.htag % 65536 / 256 ≠ 3 then s else s.imgEvent 0x0A st (s.img.running % 2) (c.htag % 65536))
  else
  let p := (s.pendOf c).getD Pend.init
  let stale := p.stale
  let r := if p.outBad then s.complRec c stTargetError (if c.opcode ≤ 0x0B then ws else []) else s.complRec c st ws
  if !c.here then
    let n := match s.host.recv.find? fun r => decide (r.cmd.htag = c.htag ∧ r.cmd.hub = c.hub ∧ r.cmd.sys = c.sys) with
      | some r => r.outLen
      | none => 0
    (s.dropPend c).emit (.ctrl c.hub 0x11
      ([s.ctrlW0 0x11 c.slice, pack [fld 16 c.sgen, c.htag], word n, 0] ++ r.dws false c.sgen) [])
  else
    let s := s.dropPend c
    let s := if stale then s.modSlice c.slice fun x => { x with stale := satAdd 32 x.stale 1 }
      else if st = stOk ∧ c.noEvent then s
      else s.postRec c.slice true r
    s.kick

/-- The command, where there is one, completes with a status and no words. -/
def State.completeOpt (s : State) (c : Option Cmd) (st : Nat) : State :=
  match c with
  | some c => s.complete c st []
  | none => s

/-- Indirect output of a command: a host memory write here, whose failure (`outOk` false) the completion reports, or DATA messages
before the COMPLETION (R341, R376, R384). -/
def State.output (s : State) (c : Cmd) (iova : Nat) (bs : List Byte) : State :=
  if bs = [] then s
  else if c.here then
    let x := s.slice c.slice
    let bad (p : Pend) : Pend := if p.cmd.htag = c.htag then { p with outBad := true } else p
    let s := s.emit (.hostWrite x.port x.pasid iova bs)
    if c.outOk then s else { s with host := { s.host with pend := s.host.pend.map bad } }
  else
    let mark (r : RecvCmd) : RecvCmd :=
      if r.cmd.htag = c.htag ∧ r.cmd.hub = c.hub ∧ r.cmd.sys = c.sys then { r with outLen := bs.length } else r
    let s := { s with host := { s.host with recv := s.host.recv.map mark } }
    s.sendData c.hub c.slice c.htag 0 (chunks 2032 (bs.length / 2032 + 1) bs)

/-- The tags that the root's control plane holds (R375). -/
def State.sysTags (s : State) : List Nat :=
  s.sched.winOp.toList.map (·.tag) ++ s.host.moveOp.toList.map (·.tag) ++ s.host.slices.filterMap fun p => p.2.destroyTag

/-- The tags in use on the hub: by its commands from fetch to completion, by received commands while they execute, by
window requests that await a response, and by the root's control plane (R346, R379, R491). -/
def State.tagsUsed (s : State) : Nat :=
  s.host.pend.length + (s.host.recv.filter fun r => r.exec).length + sumN (s.win.wins.map fun p => p.2.reqs.length) +
    s.sysTags.length

/-- One of two timed commands comes before the other: by T, and by the order in which the hub took them (R265, R380). -/
def instantLt (a b : Nat × Nat) : Bool := decide (a.1 ≠ 0 ∧ (a.1 < b.1 ∨ (a.1 = b.1 ∧ a.2 < b.2)))

/-- A timed command that the hub has taken and not begun comes before an instant and order (R265, R380). -/
def State.timedBefore (s : State) (b : Nat × Nat) : Bool :=
  (s.host.pend.any fun q => instantLt (q.instant, q.order) b && s.isLocal q.cmd && decide (q.stage ≠ .exec)) ||
    s.host.recv.any fun q => instantLt (q.instant, q.order) b && !q.exec

/-- A command of this hub begins after those of its queue that were fetched before it, and in the order of the instants
(R354, R380, R382). -/
def State.outOfTurn (s : State) (p : Pend) : Bool :=
  (decide (p.instant ≠ 0) && s.timedBefore (p.instant, p.order)) ||
    s.host.pend.any fun q => decide (q.cmd.slice = p.cmd.slice ∧ q.cmd.sq = p.cmd.sq ∧ q.order < p.order ∧ q.instant = 0) &&
      !q.cmd.sys && s.isLocal q.cmd && decide (q.stage = .input ∨ q.stage = .ready)

/-- A received command begins after those of its sender's slice that came before it: the message does not name the queue (R382). -/
def State.recvOutOfTurn (s : State) (r : RecvCmd) : Bool :=
  (decide (r.instant ≠ 0) && s.timedBefore (r.instant, r.order)) ||
    s.host.recv.any fun q => decide (q.cmd.hub = r.cmd.hub ∧ q.cmd.slice = r.cmd.slice ∧ q.cmd.sys = r.cmd.sys ∧ q.order < r.order ∧
      q.instant = 0) && !q.exec

/-- The command has been fetched or received and has not started: it waits for a fence, its instant, its input or
its target or its turn; a received one also for a free tag (R376, R379, R380, R382, R383). -/
def State.waiting (s : State) (c : Cmd) : Bool :=
  if c.here then
    match s.pendOf c with
    | some p => decide (p.stage ≠ .ready) || s.fenced p || s.outOfTurn p
    | none => false
  else s.host.recv.any fun r => decide (r.cmd.htag = c.htag ∧ r.cmd.hub = c.hub ∧ r.cmd.sys = c.sys) &&
    (!r.hold || r.exec || decide (r.launch ≠ 0) || decide (512 ≤ s.tagsUsed) || s.recvOutOfTurn r)

/-- A change of state that a command causes: the events it reports carry the command's TAG (R387). -/
def State.causedBy (s : State) (tag : Nat) (f : State → State) : State :=
  let t := f { s with host := { s.host with cause := tag } }
  { t with host := { t.host with cause := s.host.cause } }

/-- The execution of a command has ended: what follows is not of its causing (R387). -/
def State.ended (s : State) : State := { s with host := { s.host with cause := 0 } }

/-- The command begins to execute, so that it does so once, and what it reports carries its TAG (R358, R376, R387). -/
def State.begins (s : State) (c : Cmd) : State :=
  let s := { s with host := { s.host with cause := c.tag } }
  let mine (r : RecvCmd) : Bool := decide (r.cmd.htag = c.htag ∧ r.cmd.hub = c.hub ∧ r.cmd.sys = c.sys)
  if c.here then
    { s with host := { s.host with
      pend := s.host.pend.map fun p => if p.cmd.htag = c.htag then { p with stage := .exec } else p } }
  else { s with host := { s.host with recv := s.host.recv.map fun r => if mine r then { r with exec := true } else r } }

/-- The words of SLICE_GRANT and SLICE_REVOKE (R366). -/
def grantWords (forced : Bool) (closed hub slice : Nat) : List Word := [word (b2n forced), word closed, pack [fld 5 slice, hub], 0]

/-- The words that a SLICE_ or QUEUE_ command completes with at its target whatever its status: the slice record, or the holder;
none for another command (R345, R366, R386). -/
def State.ownWords (s : State) (c : Cmd) : List Word :=
  if c.opcode = 0x0003 ∨ c.opcode = 0x0004 then grantWords false 0 (c.f 4 28 24) (c.f 4 17 12)
  else if c.opcode ≤ 0x000B then (s.dropPend c).sliceWords (c.f 4 5 0)
  else []

/-- The common execution of a host command at its target (R370): the row's opcode, check 2, check 3 for a
local slice that has not passed it at the fetch, check 5 (`safe`: allowed in Safe, R79), the SYS command of another hub than the
root, then the owning chapter's part. -/
def State.runCmd (s : State) (c : Cmd) (op : Nat) (lay : Layout) (safe : Bool) (body : State → State) : State :=
  if !s.coreOn ∨ c.opcode ≠ op ∨ s.waiting c then s
  else if !c.layoutOk lay then s.complete c stBadParam []
  else if c.here ∧ !c.sys ∧ s.pendOf c = none ∧ c.sgen ≠ (s.slice c.slice).gen.toNat then s.complete c stStaleGen (s.sliceWords c.slice)
  else if s.ret.mode = .safe ∧ !safe then s.complete c stWrongMode (s.ownWords c)
  else if c.sys ∧ c.hub ≠ 0 then s.complete c stDenied (s.ownWords c)
  else (body (s.begins c)).ended

/-- GEN and ANYGEN of R217: the named unit's generation matches. -/
def genOk (any : Bool) (gen : Nat) (unit : BitVec 8) : Bool := any || decide (gen = unit.toNat)

/-- A 64-bit IOVA aligned to 8 bytes (R384). -/
def alignedTo (a k : Nat) : Bool := decide (a % k = 0)

/-- Two counters to a word, the lower-numbered in the low half (R186). -/
def counterWords (t : Tab Nat) (base : Nat) : List Word :=
  (List.range 4).map fun i => pack [fld 16 (t.read 0 (base + 2 * i + 1)), t.read 0 (base + 2 * i)]

/-- A compact field of a command: its instant, none where NS is out of range (R259, R260). -/
def State.compactField (s : State) (c : Cmd) (i : Nat) : Option Nat :=
  if 1000000000 ≤ c.w i then none else some (resolveCompact s.nowNs (c.w i) (c.w (i + 1)))

end Sys2Proof.Machine
end

