-- ==== Sys2Proof/Machine/Flags.lean ====
section
/-! DEFINITION. Status words and pins computed from the state: MG_ERRSUM and ERR_N, SAFE_N and the safe
levels, VID, and the words that DEV_INFO, DEV_STRAPS, PACE_QUERY and TIME_QUERY share with the register
file (R620); ERROR_REPORT. -/

namespace Sys2Proof.Machine

/-- ERR_N is driven low (R598). -/
def Err.errN (e : Err) : Bool := e.devFatal || e.domFatal || e.evqFail || e.escaped

/-- A domain is recovering. -/
def Err.anyRecovering (e : Err) : Bool := e.doms.any fun d => d.2.recovering

/-- MG_ERRSUM (Table 19.4). -/
def Err.sum (e : Err) : Word :=
  pack [ fld 31 (b2n e.errN), fld 30 (b2n e.devFatal), fld 29 (b2n e.domFatal), fld 28 (b2n e.evqFail),
    fld 27 (b2n e.escaped), fld 26 (b2n e.escalated), fld 25 (b2n e.anyRecovering), fld 24 (b2n e.inject.isSome),
    fld 16 e.lastDom, fld 8 e.lastCheck, e.fatals ]

/-- A W1C write of bits [30:26] (R597, R606). -/
def Err.clear (e : Err) (v : Nat) : Err :=
  { e with
    devFatal := e.devFatal && !bit v 30
    domFatal := e.domFatal && !bit v 29
    evqFail := e.evqFail && !bit v 28
    escaped := e.escaped && !bit v 27
    escalated := e.escalated && !bit v 26 }

/-- SAFE_N is low: Safe, and Sentry with the latch kept (Table 3.6, R76, R80). -/
def State.safeNLow (s : State) : Bool :=
  decide (s.ret.mode = .safe) || (decide (s.ret.mode = .sentry) && s.ret.safeLatch)

/-- DEV_STRAPS DW6 and DW7: the safe level and the high-impedance bit of each ACT pin, the image's or under
SAFELVL (R31, R395). -/
def State.safeWords (s : State) : List Word :=
  if s.board.safeImg then [s.board.safeLevels, s.board.safeHiz]
  else if s.safeLvl then [0, word (2 ^ 32 - 1)] else [0, 0]

/-- The retained policy holds the action pins: while the core is off, and after a tree reset of the core kind or a run-rail
loss until an image applies (R54, Table 3.6). -/
def State.pinsRetained (s : State) : Bool := !s.coreOn || s.ret.actRetained

/-- The safe level of ACT[n] as the hub drives it now, none for high impedance: the retained policy's where it holds the
pins, the image's otherwise, and R31 without either (R54, Table 3.6). -/
def State.safePin (s : State) (n : Nat) : Option Bool :=
  if !s.ret.actDriven then none
  else
    let (lv, hz) := match s.pinsRetained, s.ret.policy with
      | true, some p => if p.hasSafe then (p.safeLevels, p.safeHiz) else (s.safeWords.headD 0, (s.safeWords.drop 1).headD 0)
      | _, _ => (s.safeWords.headD 0, (s.safeWords.drop 1).headD 0)
    if bit hz.toNat n then none else some (bit lv.toNat n)

/-- VID[4:0]: the pace loop's code in the core modes, code 18 otherwise (R46, Table 3.6). -/
def State.vid (s : State) : Nat := if s.coreOn then s.pace.code else 18

/-- PPS_OUT and TIME_OUT follow their settings in Field, Holdover and Safe, and are low elsewhere (Table 3.6). -/
def State.timeOutsOn (s : State) : Bool := s.working || decide (s.ret.mode = .safe)

/-- Settings of PPS_OUT (0) and TIME_OUT. -/
def State.timeOutOf (s : State) (pin : Nat) : TimeOut := if pin = 0 then s.time.ppsOut else s.time.timeOut

/-- The next scheduled edge of an output, and the output after it (R283, R293): a pulse under way ends before another starts. -/
def TimeOut.edge (x : TimeOut) : Option (Nat × TimeOut) :=
  match x.fallAt, x.next with
  | some f, _ => some (f, { x with active := false, fallAt := none })
  | none, none => none
  | none, some n => some (n,
    match x.mode with
    | 1 => { x with active := true, fallAt := some (n + x.width), next := some (n + x.period) }
    | 2 => { x with active := true, fallAt := some (n + x.width), next := none }
    | _ => { x with active := x.level, next := none })

/-- The instant at which an engine that is armed, or waits for one, goes on (250 ps), its LEAD before (R303, R304). -/
def Engine.dueAt (x : Engine) : Option Nat :=
  match x.st, x.wait with
  | .armed, _ => some (x.launchAt - 4000 * x.lead)
  | .waiting, .untilAt w => some (w - 4000 * x.lead)
  | _, _ => none

/-- The timed instants still to be served (250 ps): output edges, effects handed over, launches and waits of engines, timed commands
taken, and switches of gate lists (R265). -/
def State.dues (s : State) : List Nat :=
  ([0, 1].filterMap fun pin => (s.timeOutOf pin).edge.map fun e => 4 * e.1)
    ++ (if s.working then s.trav.effects.map (·.due) ++ s.trav.eng.filterMap fun e => e.2.dueAt else [])
    ++ (s.host.pend.filter fun p => decide (p.stage = .timed)).map (fun p => 4 * p.launch)
    ++ (s.host.recv.filter fun r => decide (r.launch ≠ 0)).map (fun r => 4 * r.launch)
    ++ (s.links.filter fun k => decide (k.2.sched.pendSlot ≠ 7)).map (fun k => 4 * k.2.sched.pendAt)

/-- None of them is due before an instant (250 ps): what a step skips is served in the order of the original instants (R265). -/
def State.noneBefore (s : State) (due : Nat) : Bool := s.dues.all fun d => decide (due ≤ d)

/-- Level of PPS_OUT (0) or TIME_OUT (R283, Table 3.6). -/
def State.timePin (s : State) (pin : Nat) : Bool :=
  let x := s.timeOutOf pin
  s.timeOutsOn && x.configured && (x.active != x.invert)

/-- The edges of PPS_OUT and TIME_OUT when the hub goes from one mode to another (R54, R283, Table 3.6): `s` before, `t`
after. -/
def State.timePinEdges (s t : State) : State :=
  [0, 1].foldl (fun t pin => if s.timePin pin = t.timePin pin then t else t.emit (.edge (32 + pin) (t.timePin pin) t.now250)) t

/-- PPS_OUT and TIME_OUT take their reset level, low, as the core is reset or turned off (R54, Table 3.6). -/
def State.outputsLow (s : State) : State :=
  [0, 1].foldl (fun t pin => if s.timePin pin then t.emit (.edge (32 + pin) false t.now250) else t) s

/-- The hub counts as a branch (R12): strapped so, or strapped 11b with a downstream link UP. -/
def State.isBranch (s : State) : Bool :=
  decide (s.role = 1) || (decide (s.role = 3) && s.downLinks.any s.linkUp)

/-- DEV_INFO FORM 0 (Table 12.8). -/
def State.devInfo0 (s : State) : List Word :=
  [ pack [fld 24 0x21, fld 16 s.tree.cfgGen.toNat, 0x4812], word s.nv.unitId.toNat, word (s.nv.unitId.toNat / 2 ^ 32),
    pack [ fld 24 s.ret.resetCause, fld 13 (modeCode s.ret.mode), fld 11 s.role, fld 10 (b2n s.isBranch), fld 8 s.hostEff,
      fld 5 (b2n s.hubNum.isSome), s.hubNo ] ]

/-- DEV_INFO FORM 1 (Table 12.8). -/
def State.devInfo1 (s : State) : List Word :=
  [ pack [ fld 12 (sumN (s.linksPresent.map fun l => 2 ^ l)), fld 11 (b2n (s.hostPortUsed 1)), fld 10 (b2n (s.hostPortUsed 0)),
      fld 9 (b2n (decide (s.boot ≠ 2))), fld 7 s.board.canFit.toNat, fld 3 s.board.macFit.toNat,
      fld 2 (b2n (s.blockOn .vddUsb)), fld 1 (b2n (s.headPresent 1)), b2n (s.headPresent 0) ],
    word s.board.bar2log, s.board.imgVer, word s.board.imgSvn ]

/-- DEV_STRAPS (R395). -/
def State.devStraps (s : State) : List Word :=
  [ word s.ret.straps.toNat, pack [fld 16 (b2n s.board.safeImg), s.strapsEff] ] ++ s.safeWords

/-- MG_STRAPS (Table 20.5). -/
def State.mgStraps (s : State) : Word :=
  pack [fld 31 (b2n s.board.safeImg), fld 16 s.strapsEff, s.ret.straps.toNat]

/-- MG_PACE (Table 20.5). -/
def Pace.word (p : Pace) : Word :=
  pack [fld 22 p.sample, fld 12 p.pmin, fld 7 p.code, fld 2 p.shed, fld 1 (b2n p.shortfall), b2n p.monInvalid]

/-- Codes of Table 9.1. -/
def timeStCode : TimeSt → Nat
  | .unset => 0
  | .acquiring => 1
  | .locked => 2
  | .free => 3
  | .holdover => 4

/-- The hub is a time root: the root, or a hub in Holdover (R278). -/
def State.isTimeRoot (s : State) : Bool := s.isRoot || decide (s.ret.mode = .holdover)

/-- SOURCE of Table 9.3. -/
def State.timeSource (s : State) : Nat :=
  if s.ret.mode = .holdover ∧ !s.isRoot then 2 else if s.isRoot then b2n s.time.pps else s.time.rootSource

/-- TIME_QUERY FORM 0 DW7 (Table 9.5). -/
def State.timeW7 (s : State) : Word :=
  pack [ fld 29 (timeStCode s.time.st), fld 26 s.timeSource, fld 21 (if s.isTimeRoot then s.hubNo else s.time.timeRoot),
    fld 17 s.time.stepCnt.toNat, fld 16 (b2n s.time.utcValid), s.time.utcOff.toNat ]

/-- TIME_QUERY FORM 0 DW4 to DW6 of a datum instant (R258, Table 9.5). -/
def timeWords (t : Nat) : List Word :=
  let ns := t / unitNs
  let sec := ns / 1000000000
  [ word (ns % 1000000000), word sec, pack [fld 16 (t / 2 ^ 16 % 2 ^ 16), sec / 2 ^ 32 % 2 ^ 16] ]

/-- An ERROR_REPORT (R600, Table 19.5). -/
structure ErrRep where
  dom : Nat
  check : Nat
  status : Nat := 0x0E
  cls : Nat := 0
  origin : Nat
  count : Nat := 1
  guarantee : Bool := false
  injected : Bool := false
  escaped : Bool := false
  escalated : Bool := false
  loc : Word := 0
  recovery : Nat := 0
  detail : Nat := 0
  deriving DecidableEq, Repr

/-- The words of Table 19.5. -/
def ErrRep.words (r : ErrRep) : List Word :=
  [ pack [ fld 24 (min r.count 255), fld 16 r.origin, fld 13 (b2n r.guarantee), fld 12 (b2n r.injected),
      fld 11 (b2n r.escaped), fld 10 (b2n r.escalated), fld 8 r.cls, r.check ],
    r.loc, word (min r.recovery (2 ^ 32 - 1)), word (r.detail % 256) ]

/-- An ERROR_REPORT to the management slice and slice 0 of the root (R600). -/
def State.errReport (s : State) (r : ErrRep) : State := s.reportBoth 0x0F r.status r.dom r.words

/-- A queue error (R353, R355, R599, R600): queue 8 stands for the event queue. It goes also to the slice, and for
a failed record write of the management slice's own queue to nobody. -/
def State.queueErr (s : State) (k q code : Nat) : State :=
  let st := if code = 2 ∨ code = 5 then stTargetError else stBadParam
  let r : ErrRep := { dom := 0x40 + k, check := if code = 5 then 0x0E else 0x0D, status := st, origin := 0x40 + k,
                      loc := word q, detail := code }
  let mgmt := decide (s.mgmtHub = s.selfNo ∧ k = 0)
  if code = 5 then (if mgmt then s else s.reportMgmt 0x0F r.status r.dom r.words)
  else
    let s := s.errReport r
    if mgmt ∨ (s.isRoot ∧ k = 0) then s else s.report s.selfNo k 0x0F r.status r.dom r.words

end Sys2Proof.Machine
end

