-- ==== Sys2Proof/Machine/SchedOps.lean ====
section
/-! DEFINITION. Arithmetic of the egress schedulers: rates, idle slopes, bounds, gate lists, windows,
admission, the demand of the pace loop, and the credits and buckets brought up to date (R225 to R247, R90,
R97; log entry 30). Rates are in units of 10 kbit/s. -/

namespace Sys2Proof.Machine

/-! ### Rates -/

/-- Payload rate of a lane by rate code (Table 5.1). -/
def laneRate (code : Nat) : Nat :=
  if code = 0 then 1000000 else if code = 1 then 500000 else if code = 2 then 250000 else 100000

/-- rate(l) (R228). -/
def Link.payRate (k : Link) : Nat := k.lane.width * laneRate k.lane.rate

/-- Default shares of Table 8.1, percent. -/
def defShare (tc : Nat) : Nat :=
  if tc = 6 then 5 else if tc = 5 then 10 else if tc = 4 then 5 else if tc = 3 then 10
  else if tc = 2 then 1 else if tc = 1 then 10 else 0

/-- cfgidle(tc) (R225). -/
def Link.cfgIdle (k : Link) (tc : Nat) : Nat :=
  match k.sched.cfgIdle.read 0 tc with
  | n + 1 => n
  | 0 => defShare tc * k.payRate / 100

/-- Sum of the configured idle slopes of TC1 to TC6. -/
def Link.cfgSum (k : Link) : Nat := sumN ((List.range 6).map fun i => k.cfgIdle (i + 1))

/-- Rate of a window, exact, in 1/1250 of 10 kbit/s: Q x 8 / T with T a divisor of 10^9 ns (R238, R240). -/
def Window.rateFine (w : Window) : Nat := w.q * (1000000000 / w.period)

/-- The windows that count on a link: one per tunnel, a replacement from its admission on (R240, R243, R255). -/
def Link.winCount (k : Link) : List Window :=
  k.sched.windows.filter fun w => !w.effect || !(k.sched.windows.any fun v => decide (v.tid = w.tid) && !v.effect)

/-- Sum of the window rates in 1/1250 of 10 kbit/s. -/
def Link.winSum (k : Link) : Nat := sumN (k.winCount.map Window.rateFine)

/-- Time unit of the schedulers: tenths of 2^-32 ns, of which a ns and a tenth of a ns are whole numbers (R228). -/
def fineNs : Nat := 10 * 2 ^ 32
def fineTenth : Nat := 2 ^ 32
def State.nowFine (s : State) : Nat := 10 * s.time.datum

/-- Counted length, and packet time in tenths of a ns: exact at every rate of Table 5.1 and width (R228). -/
def pktCounted (p : TxPkt) (ovh : Nat) : Nat := 16 + p.payload.length + (if p.sealed then 16 else 0) + 4 + ovh
def Link.ptime (k : Link) (counted : Nat) : Nat := ceilDiv (counted * 8000000) k.payRate

/-! ### Bounds -/

/-- The bounds in force on a link: record number and bound, those whose tunnel this hop sends on it (R242). -/
def State.boundsOn (s : State) (l : Nat) : List (Nat × Bound) :=
  s.sched.bounds.filter fun b =>
    let g := s.tree.gaz.read Gaz.init b.2.tid
    decide (g.state ≠ 0) && g.egress.toNat.testBit l

/-- The class a bound's tunnel travels in here. -/
def State.boundTc (s : State) (b : Bound) : Nat := (s.tree.gaz.read Gaz.init b.tid).tc

/-- Factors k_be and k_std in eighths at a shed level (Table 4.4). -/
def kBe (lvl : Nat) : Nat := 8 - lvl
def kStd (lvl : Nat) : Nat := if lvl ≤ 8 then 8 else 16 - lvl

/-- The ceiling in effect C' (R97). -/
def Bound.ceilEff (b : Bound) (lvl : Nat) : Nat := b.floor + (if b.be then kBe lvl else kStd lvl) * (b.ceil - b.floor) / 8

def State.floorSum (s : State) (l : Nat) : Nat := sumN ((s.boundsOn l).map fun b => b.2.floor)

/-- Floor of a class on a link (R242). -/
def State.classFloor (s : State) (l tc : Nat) : Nat :=
  sumN (((s.boundsOn l).filter fun b => decide (s.boundTc b.2 = tc)).map fun b => b.2.floor)

def State.lnk (s : State) (l : Nat) : Link := s.links.read Link.init l

/-- X of R245, exact, in 1/125000 of 10 kbit/s. -/
def State.xFine (s : State) (l : Nat) : Int :=
  let k := s.lnk l
  1250 * ((k.sched.admitPct : Int) * k.payRate - 2 * k.payRate) - 100 * k.winSum

/-- The sum of floors and configured idle slopes. -/
def State.commitSum (s : State) (l : Nat) : Nat := s.floorSum l + (s.lnk l).cfgSum

/-- The link is over-committed (R245). -/
def State.over (s : State) (l : Nat) : Bool := decide (s.xFine l < 125000 * (s.commitSum l : Int)) && decide (s.commitSum l ≠ 0)

/-- A floor or idle slope in effect (R245). -/
def State.scaled (s : State) (l v : Nat) : Nat :=
  if s.over l then v * (s.xFine l).toNat / (125000 * s.commitSum l) else v

/-- max(0, h) of R247, exact, in 1/125000 of 10 kbit/s, and in 10 kbit/s rounded down. -/
def State.headFine (s : State) (l : Nat) : Nat := (s.xFine l - 125000 * (s.commitSum l : Int)).toNat
def State.headroom (s : State) (l : Nat) : Nat := s.headFine l / 125000

def State.blink (s : State) (l b : Nat) : BoundLink := s.sched.blink.read BoundLink.init (256 * l + b)

def State.setBlink (s : State) (l b : Nat) (x : BoundLink) : State :=
  { s with sched := { s.sched with blink := s.sched.blink.write BoundLink.init (256 * l + b) x } }

/-- Allotment a_b (R247). -/
def State.allot (s : State) (l : Nat) (b : Nat × Bound) : Nat := s.scaled l b.2.floor + (s.blink l b.1).loan

/-- idle(tc) in effect (R232). -/
def State.idleEff (s : State) (l tc : Nat) : Nat :=
  let k := s.lnk l
  min k.payRate (s.scaled l (k.cfgIdle tc)
    + sumN (((s.boundsOn l).filter fun b => decide (s.boundTc b.2 = tc)).map (s.allot l)))

/-! ### Gate lists -/

/-- Mask and duration of a gate list entry (Table 8.2). -/
def entMask (w : Word) : Nat := bits w.toNat 31 24
def entDur (w : Word) : Nat := bits w.toNat 23 0

/-- CYCLE and BASE in ns. -/
def gateCycle (es : List Word) : Nat := sumN (es.map entDur)

/-- Time for which a gate stays open from the start of a list of entries, ns, and whether it closed within them. -/
def openRun (tc : Nat) : List Word → Nat × Bool
  | [] => (0, false)
  | e :: r => if bit (entMask e) tc then let (t, c) := openRun tc r; (entDur e + t, c) else (0, true)

/-- Index and remaining time of the entry in force at a position. -/
def entryAt : List Word → Nat → Nat → Nat × Nat
  | [], i, _ => (i, 0)
  | e :: r, i, pos => if pos < entDur e * fineNs then (i, entDur e * fineNs - pos) else entryAt r (i + 1) (pos - entDur e * fineNs)

/-- Position in the cycle at a datum instant, in the schedulers' time (R234, R236). -/
def GateSlot.pos (g : GateSlot) (now : Nat) : Nat :=
  let c := g.cycle * fineNs
  let b := g.base * fineNs
  if c = 0 then 0 else if b ≤ now then (now - b) % c else (c - (b - now) % c) % c

/-- Gate `tc` of a slot is open at an instant. -/
def GateSlot.isOpen (g : GateSlot) (tc now : Nat) : Bool :=
  let (i, _) := entryAt g.entries 0 (g.pos now)
  bit (entMask ((g.entries[i]?).getD 0)) tc

/-- Gate `tc` is open in every entry. -/
def GateSlot.always (g : GateSlot) (tc : Nat) : Bool := g.entries.all fun e => bit (entMask e) tc

/-- Time for which gate `tc` stays open from an instant, the wrap into the next cycle counted, and since it opened, where some
entry closes it (R235). -/
def GateSlot.openFor (g : GateSlot) (tc now : Nat) : Nat :=
  let (i, rest) := entryAt g.entries 0 (g.pos now)
  if bit (entMask ((g.entries[i]?).getD 0)) tc then rest + fineNs * (openRun tc (g.entries.drop (i + 1) ++ g.entries.take i)).1 else 0

def GateSlot.openSince (g : GateSlot) (tc now : Nat) : Nat :=
  let (i, rest) := entryAt g.entries 0 (g.pos now)
  entDur ((g.entries[i]?).getD 0) * fineNs - rest + fineNs * (openRun tc (g.entries.drop (i + 1) ++ g.entries.take i).reverse).1

/-- Lengths of the open intervals of gate `tc`, those that wrap joined (R243). -/
def openIntervals (tc : Nat) (es : List Word) : List Nat :=
  let step (acc : List Nat × Nat) (e : Word) : List Nat × Nat :=
    if bit (entMask e) tc then (acc.1, acc.2 + entDur e)
    else (if acc.2 = 0 then acc.1 else acc.1 ++ [acc.2], 0)
  -- the list is started behind its first closed entry, so that an interval that wraps counts as one
  let i := (es.findIdx? fun e => !bit (entMask e) tc).getD 0
  let (l, r) := (es.drop i ++ es.take i).foldl step ([], 0)
  if r = 0 then l else l ++ [r]

/-- The operating slot, none without a list (R234). -/
def LinkSched.opGate (x : LinkSched) : Option GateSlot :=
  if x.opSlot < 4 then some (x.gates.read GateSlot.init x.opSlot) else none

/-- Gate `tc` of the link is open now (R234). -/
def LinkSched.gateOpen (x : LinkSched) (tc now : Nat) : Bool :=
  match x.opGate with
  | some g => g.isOpen tc now
  | none => true

/-- Gate `tc` was open in the entry in force since the credits were last brought up to date. -/
def LinkSched.gateWas (x : LinkSched) (tc : Nat) : Bool :=
  match x.opGate with
  | some g => bit (entMask ((g.entries[x.gateIdx]?).getD 0)) tc
  | none => true

/-- A packet of `tc` fits its gate (R235): open throughout, a committed switch inside the interval counted. A packet longer than
the longest open interval is exempt, and is sent at the start of one: at the first tick in it. `ptime` in tenths of a ns. -/
def LinkSched.gateFits (x : LinkSched) (tc now ptime tick : Nat) : Bool :=
  let len := ptime * fineTenth
  let fits (g : Option GateSlot) (t n : Nat) : Bool := match g with
    | some g => g.always tc || decide (n ≤ g.openFor tc t)
    | none => true
  let exempt (g : GateSlot) : Bool := !g.always tc && decide ((openIntervals tc g.entries).foldl max 0 * fineNs < len)
  let at' := x.pendAt * fineNs
  let new : Option GateSlot := if x.pendSlot < 4 then some (x.gates.read GateSlot.init x.pendSlot) else none
  match x.opGate.filter exempt with
  | some g => decide (g.openSince tc now < 10 * tick)
  | none =>
    if x.pendSlot ≠ 7 ∧ now ≤ at' ∧ at' < now + len then fits x.opGate now (at' - now) && fits new at' (now + len - at')
    else fits x.opGate now len

/-! ### Windows -/

/-- Time since the latest opening instant of a window on its link, in the schedulers' time (R238, R239). -/
def Window.past (w : Window) (now : Nat) : Nat :=
  let p := w.period * fineNs
  if p = 0 then 0 else (now % p + p - (w.offset + w.hopOpen) * fineNs % p) % p

/-- Time to the next opening, 0 when it opens now. -/
def Window.toOpen (w : Window) (now : Nat) : Nat := if w.past now = 0 then 0 else w.period * fineNs - w.past now

/-- Time to its close while it is open (R239). -/
def Window.toClose (w : Window) (now : Nat) : Nat := w.hopLen * fineNs - w.past now

/-- The instant lies in an occurrence, from its opening to its close. -/
def Window.inside (w : Window) (now : Nat) : Bool := decide (w.period ≠ 0) && decide (w.past now < w.hopLen * fineNs)

/-- The occurrence of the instant, by when it opened. -/
def Window.occAt (w : Window) (now : Nat) : Nat := now - w.past now + 1

/-- The window is open, in the occurrence of the instant (R229, R239). -/
def Window.live (w : Window) (now : Nat) : Bool :=
  w.isOpen && w.effect && !w.suspended && w.inside now && decide (w.occ = w.occAt now)

/-- Two windows of a link overlap in some occurrence of one second (R240): their phases, taken modulo the greatest
common divisor of the periods, meet. -/
def Window.clash (a b : Window) : Bool :=
  let d := Nat.gcd a.period b.period
  if d = 0 then false
  else
    let pa := (a.offset + a.hopOpen) % d
    let pb := (b.offset + b.hopOpen) % d
    decide ((pb + d - pa) % d < a.hopLen ∨ (pa + d - pb) % d < b.hopLen)

/-! ### Admission -/

/-- Flits per second of a rate (R244). -/
def flits (rate : Nat) : Nat := ceilDiv (rate * 10000 * 17) 4096

/-- Fabric port of an endpoint (Table 1.3). -/
def epFabric (ep : Nat) : Nat :=
  let b := ep / 256
  if b = 1 then 0 else if b = 2 then 1 else if b = 3 then 8 + ep % 256 else if b = 4 then 15 else if b = 5 then 10
  else if b = 6 then 7 else if b = 7 then 11 else if b = 8 then 13 else if b = 9 then 12 else 14

/-- Fabric port of an entry's ingress. -/
def Gaz.inFabric (g : Gaz) : Nat := if g.ingress = 7 then epFabric g.srcEp else 2 + g.ingress

/-- Halves of an entry's load that enter at a fabric port: a host port of four lanes spreads over two ports (R21). DESIGN CHOICE:
evenly (log entry 53). -/
def State.halves (s : State) (t p : Nat) : Nat :=
  let g := s.tree.gaz.read Gaz.init t
  if g.state = 0 then 0
  else if g.ingress = 7 ∧ g.srcEp / 256 = 1 ∧ s.hostEff = 1 then (if p ≤ 1 then 1 else 0)
  else if g.inFabric = p then 2 else 0

/-- Link total test of Table 8.3, and its left side. -/
def State.reserved (s : State) (l : Nat) : Nat :=
  let k := s.lnk l
  ceilDiv (1250 * (2 * k.payRate) + 100 * k.winSum) 125000 + s.commitSum l

def State.testTotal (s : State) (l : Nat) : Bool :=
  decide (125000 * (s.commitSum l : Int) ≤ s.xFine l)

/-- Usable time of gate `tc` in a list, times the rate (R243). -/
def usable (tc rate : Nat) (es : List Word) : Nat :=
  sumN ((openIntervals tc es).map fun i => i * rate - 2147 * 800000)

/-- The loaded lists of a link. -/
def LinkSched.loaded (x : LinkSched) : List GateSlot := (x.gates.filter fun g => g.2.loaded).map Prod.snd

/-- Class test of Table 8.3 for one class. -/
def State.testClass (s : State) (l tc : Nat) : Bool :=
  let k := s.lnk l
  let need := s.classFloor l tc + k.cfgIdle tc
  decide (100 * need ≤ k.sched.admitPct * k.payRate)
    && k.sched.loaded.all fun g => decide (100 * need * g.cycle ≤ k.sched.admitPct * usable tc k.payRate g.entries)

/-- worst u(tc) x 255, rounded down (Table 8.9). -/
def State.usable255 (s : State) (l tc : Nat) : Nat :=
  let k := s.lnk l
  k.sched.loaded.foldl (fun a g =>
    min a (if g.cycle * k.payRate = 0 then 0 else 255 * usable tc k.payRate g.entries / (g.cycle * k.payRate))) 255

/-- Flits per second of a window (R244). -/
def Window.flits (w : Window) : Nat := ceilDiv (w.q * 8 * (1000000000 / w.period) * 17) 4096

/-- Floors and window rates at a fabric port, outward of a link's port or inward of an ingress (R244). -/
def State.fabricOut (s : State) (l : Nat) : Nat :=
  sumN ((s.boundsOn l).map fun b => flits b.2.floor) + sumN ((s.lnk l).winCount.map Window.flits)

/-- The same inward. A bound counts once per record; a window counts once per egress link of its record, so the window of a
multicast tunnel that leaves over two links counts twice (DESIGN CHOICE; R90 and R244 do not say how often; log entry 53). -/
def State.fabricIn (s : State) (p : Nat) : Nat :=
  sumN (s.sched.bounds.map fun b => ceilDiv (s.halves b.2.tid p * flits b.2.floor) 2)
    + sumN ((List.range 5).flatMap fun l => (s.lnk l).winCount.map fun w => ceilDiv (s.halves w.tid p * w.flits) 2)

def fabricCap : Nat := 160000000

/-- The fabric test of Table 8.3 at every port. -/
def State.testFabric (s : State) : Bool :=
  ((List.range 5).all fun l => decide (s.fabricOut l ≤ fabricCap)) && (List.range 16).all fun p => decide (s.fabricIn p ≤ fabricCap)

/-- The records test of Table 8.3. -/
def State.testRecords (s : State) (l : Nat) : Bool :=
  decide (s.sched.bounds.length ≤ 255 ∧ (s.lnk l).winCount.length ≤ 32)

/-- The first test of Table 8.3 that a link fails: 0 link total, 1 class, 2 fabric, 3 records (R256). -/
def State.admitFail (s : State) (l : Nat) : Option Nat :=
  if !s.testTotal l then some 0
  else if !((List.range 6).all fun i => s.testClass l (i + 1)) then some 1
  else if !s.testFabric then some 2
  else if !s.testRecords l then some 3
  else none

/-! ### Demand of the pace loop -/

/-- F_p, H_std,p and H_be,p outward of a link's fabric port (R90, R244). -/
def State.demandOut (s : State) (l : Nat) : Nat × Nat × Nat :=
  let k := s.lnk l
  let own := sumN ((List.range 6).map fun i => flits (k.cfgIdle (i + 1))) + flits (ceilDiv (2 * k.payRate) 100)
  let h (be : Bool) : Nat :=
    sumN (((s.boundsOn l).filter fun b => decide (b.2.be = be)).map fun b => flits b.2.ceil - flits b.2.floor)
  (s.fabricOut l + own, h false, h true + flits (s.headroom l))

/-- The same inward of a fabric port. -/
def State.demandIn (s : State) (p : Nat) : Nat × Nat × Nat :=
  let h (be : Bool) : Nat :=
    sumN ((s.sched.bounds.filter fun b => decide (b.2.be = be)).map fun b =>
      ceilDiv (s.halves b.2.tid p * (flits b.2.ceil - flits b.2.floor)) 2)
  (s.fabricIn p, h false, h true)

/-- A_p in eighths of a flit/s at a shed level (R90). -/
def admitted (lvl : Nat) (d : Nat × Nat × Nat) : Nat := 8 * d.1 + kStd lvl * d.2.1 + kBe lvl * d.2.2

/-- Every fabric port and direction with its demand. -/
def State.demands (s : State) : List (Nat × Nat × Nat × Nat) :=
  ((List.range 5).map fun l => (2 + l, s.demandOut l)) ++ (List.range 16).map fun p => (p, s.demandIn p)

/-- Demand index at a shed level (R90). -/
def State.demandAt (s : State) (lvl : Nat) : Nat :=
  min 1023 (ceilDiv (512 * (s.demands.map fun d => admitted lvl d.2).foldl max 0) (8 * fabricCap))

/-- Floor demand index (R90). -/
def State.demandFloor (s : State) : Nat :=
  min 1023 (ceilDiv (512 * (s.demands.map fun d => d.2.1).foldl max 0) fabricCap)

/-- The fabric port with the highest A_p (R99). DESIGN CHOICE: of several, the first, outward link ports before inward ports; 0 when
every A_p is 0 (log entry 53). -/
def State.busiest (s : State) (lvl : Nat) : Nat :=
  (s.demands.foldl (fun (a : Nat × Nat) d => if a.2 < admitted lvl d.2 then (d.1, admitted lvl d.2) else a) (0, 0)).1

/-! ### Credits and buckets -/

/-- HICREDIT and LOCREDIT of a class, 1/256 byte (R232, R252). -/
def LinkSched.hi (x : LinkSched) (tc : Nat) : Int := ((x.hiCredit.read 0x100001 tc : Nat) : Int) - 1
def LinkSched.lo (x : LinkSched) (tc : Nat) : Int := 1 - ((x.loCredit.read 0x100001 tc : Nat) : Int)

/-- Fill units in 1/256 byte: 10 kbit/s brings one in each tenth of 2^-32 ns, so nothing is lost between two updates (R232, R246).
A rise is truncated to the grid where it ends: where the class begins to send or its gate closes (log entry 30). -/
def grain : Nat := 31250 * 2 ^ 32

/-- One class's credit brought up to date, in fill units (R232). -/
def State.creditFine (s : State) (l tc now : Nat) : Int :=
  let x := (s.lnk l).sched
  let c := x.credit.read 0 tc
  let at' := x.creditAt.read 0 tc
  if now ≤ at' ∨ !x.gateWas tc then c
  else
    let up := c + s.idleEff l tc * (now - at')
    if x.queue.any fun q => decide (q.cls = tc) then min (x.hi tc * grain) up
    else if 0 < c then 0 else min 0 up

/-- The credit of a class on its 1/256-byte grid, truncated (R232). -/
def State.creditNow (s : State) (l tc now : Nat) : Int := s.creditFine l tc now / grain

/-- Every credit and bucket of a link brought up to date, buckets up to max(2147, F x ci / 8) and L x ci / 8 bytes (R232, R246): before anything that changes what they run on. -/
def State.schedAdvance (s : State) (l : Nat) : State :=
  let now := s.nowFine
  let k := s.lnk l
  let x := k.sched
  let credits := (List.range 6).foldl (fun t i => t.write 0 (i + 1) (s.creditFine l (i + 1) now)) x.credit
  let ats := (List.range 6).foldl (fun t i => t.write 0 (i + 1) (max now (t.read 0 (i + 1)))) x.creditAt
  let dt := now - x.creditAt.read 0 8
  let upd (s : State) (b : Nat × Bound) : State :=
    let y := s.blink l b.1
    let f := s.scaled l b.2.floor
    let top (r : Nat) : Nat := r * x.ciUs * 8 * (grain / 25)
    s.setBlink l b.1 { y with
      floorB := min (max (2147 * 256 * grain) (top f)) (y.floorB + f * dt)
      borrowB := min (top y.loan) (y.borrowB + y.loan * dt) }
  let s := (s.boundsOn l).foldl upd s
  -- while the shed level is above 0, TC0 is policed to k_be(S) x H (R244): bucket 0 of the link
  let police := kBe s.pace.shed * s.headroom l / 8
  let y0 := s.blink l 0
  let top0 : Int := max (2147 * 256 * grain) (police * x.ciUs * 8 * (grain / 25))
  let s := if s.pace.shed = 0 then s.setBlink l 0 BoundLink.init
    else s.setBlink l 0 { y0 with borrowB := min top0 (y0.borrowB + police * dt) }
  { s with links := s.links.write Link.init l { k with sched := { x with
    credit := credits, creditAt := ats.write 0 8 now } } }

end Sys2Proof.Machine
end

