-- ==== Sys2Proof/Machine/TunnelOps.lean ====
section
/-! DEFINITION. The Gazetteer and the forwarding of tunnel packets at this hub (R203 to R207): shared by
every unit that sends or receives on a tunnel. -/

namespace Sys2Proof.Machine

/-- Tunnel classes (Table 6.1). -/
def clsCtrl : Nat := 0
def clsTime : Nat := 1
def clsTrav : Nat := 2
def clsDisp : Nat := 3
def clsUsb : Nat := 4
def clsNet : Nat := 5
def clsCan : Nat := 6
def clsWin : Nat := 7

/-- Gazetteer states (Table 7.4). -/
def gClosed : Nat := 0
def gOpening : Nat := 1
def gOpen : Nat := 2
def gSuspended : Nat := 3
def gClosing : Nat := 4

def State.gaz (s : State) (t : Nat) : Gaz := s.tree.gaz.read Gaz.init t

def State.setGaz (s : State) (t : Nat) (g : Gaz) : State :=
  { s with tree := { s.tree with gaz := s.tree.gaz.write Gaz.init t g } }

def State.modGaz (s : State) (t : Nat) (f : Gaz → Gaz) : State := s.setGaz t (f (s.gaz t))

/-- The links of an EGRESS field. -/
def egressLinks (e : BitVec 5) : List Nat := (List.range 5).filter fun l => e.toNat.testBit l

/-- A mask of one link. -/
def linkBit (l : Nat) : BitVec 5 := BitVec.ofNat 5 (2 ^ l)

/-- The CTRL entry of hub `n`, as hardware sets it (R195, R196): this hub's own delivers locally, a learnt one is in
the table, one closed by the end of an epoch is CLOSED until it is learnt again, any other routes upstream while an epoch is held
there, and is CLOSED otherwise and on the root. -/
def State.ctrlEntry (s : State) (n : Nat) : Gaz :=
  let g := s.gaz (n + 1)
  let base : Gaz := { g with tid := n + 1, cls := 0, tc := 7, gen := 0, ingress := 0 }
  if s.hubNum = some n then { base with state := gOpen, loc := true, egress := 0 }
  else if g.egress ≠ 0 then { base with state := gOpen, loc := false }
  else if s.isRoot ∨ !(s.link 0).epochHeld ∨ s.tree.lostRoutes.contains n then { base with state := gClosed, loc := false }
  else { base with state := gOpen, loc := false, egress := linkBit 0 }

/-- The TIME entry (R196). A hub in Holdover that acquires time again takes messages from its upstream link (R276;
log entry 39). -/
def State.timeEntry (s : State) : Gaz :=
  let ups := sumN ((s.downLinks.filter s.linkUp).map fun l => 2 ^ l)
  { s.gaz 33 with
    tid := 33, cls := 1, tc := 7, gen := 0, state := gOpen, loc := true, egress := BitVec.ofNat 5 ups
    ingress := if s.isRoot ∨ (s.ret.mode = .holdover ∧ !(s.linkUp 0 ∧ s.time.st = .acquiring)) then 7 else 0 }

/-- The entry a hop forwards by (R195, R196, R203). -/
def State.entry (s : State) (t : Nat) : Gaz :=
  if 1 ≤ t ∧ t ≤ 32 then s.ctrlEntry (t - 1) else if t = 33 then s.timeEntry else s.gaz t

/-- The tunnel is OPEN at this hop. -/
def State.tunOpen (s : State) (t : Nat) : Bool := decide ((s.entry t).state = gOpen)

/-- The 128 bits of an entry, bits [31:0] first (Table 7.4). -/
def Gaz.words (g : Gaz) : List Word :=
  [ pack [fld 16 g.drops, g.pkts],
    pack [fld 20 g.srcEp, fld 8 g.dstEp, g.bound],
    pack [fld 20 g.tid, fld 15 g.ownerHub, fld 9 g.ownerSlice],
    pack [fld 24 g.gen.toNat, fld 21 g.state, fld 18 g.cls, fld 15 g.tc, fld 14 (b2n g.sealed),
      fld 13 (b2n g.lossy), fld 12 (b2n g.mcast), fld 9 g.ingress, fld 4 g.egress.toNat, fld 3 (b2n g.loc),
      fld 1 g.cause, b2n g.duplex] ]

/-- Elements once each, in order. -/
def once (l : List Nat) : List Nat := l.foldl (fun acc x => if acc.contains x then acc else acc ++ [x]) []

def State.tun (s : State) (t : Nat) : TunRec := s.tree.tuns.read TunRec.init t

/-- The tunnel record of Table 7.8, as the root holds it. -/
def State.tunWords (s : State) (t : Nat) : List Word :=
  let r := s.tun t
  [ pack [fld 20 t, fld 17 r.state, fld 14 r.cls, fld 11 r.tc, fld 10 (b2n r.sealed), fld 9 (b2n r.lossy), fld 8 (b2n r.duplex),
      r.gen.toNat],
    pack [fld 26 r.ownerSlice, fld 21 r.ownerHub, fld 16 r.srcHub, fld 14 r.cause, r.srcEp],
    word (sumN ((once (r.path.map Prod.fst)).map fun n => 2 ^ n)), word (sumN ((once (r.exits.map Prod.fst)).map fun n => 2 ^ n)) ]

/-- The tunnel record as a hop can give it: on the root the record itself; elsewhere what the hop's entry holds, with the hub
itself as the source where the entry takes packets from here. DESIGN CHOICE: what no entry holds, the source hub of another
hop, PATH and EXITHUBS, is a free value (R217, R223; log entry 35). -/
def State.hopRecord (s : State) (t : Nat) : List Word × State :=
  if s.isRoot then (s.tunWords t, s)
  else
    let g := s.gaz t
    let s1 := s.drew
    let s2 := s1.drew
    let src := if g.ingress = 7 then s.hubNo else (s.freeVal 5).toNat
    ([ pack [fld 20 t, fld 17 g.state, fld 14 g.cls, fld 11 g.tc, fld 10 (b2n g.sealed), fld 9 (b2n g.lossy), fld 8 (b2n g.duplex),
        g.gen.toNat],
      pack [fld 26 g.ownerSlice, fld 21 g.ownerHub, fld 16 src, fld 14 g.cause, g.srcEp], s1.freeVal 32, s2.freeVal 32 ], s2.drew)

/-- An entry from its 128 bits. -/
def Gaz.ofWords (ws : List Word) : Gaz :=
  let w0 := nthW ws 0; let w1 := nthW ws 1; let w2 := nthW ws 2; let w3 := nthW ws 3
  { gen := BitVec.ofNat 8 (bits w3 31 24), state := bits w3 23 21, cls := bits w3 20 18, tc := bits w3 17 15,
    sealed := bit w3 14, lossy := bit w3 13, mcast := bit w3 12, ingress := bits w3 11 9,
    egress := BitVec.ofNat 5 (bits w3 8 4), loc := bit w3 3, cause := bits w3 2 1, duplex := bit w3 0,
    tid := bits w2 31 20, ownerHub := bits w2 19 15, ownerSlice := bits w2 14 9,
    srcEp := bits w1 31 20, dstEp := bits w1 19 8, bound := bits w1 7 0,
    drops := bits w0 31 16, pkts := bits w0 15 0 }

/-- BLOCK and INDEX of an endpoint code (R201). -/
def epBlock (ep : Nat) : Nat := ep / 256
def epIndex (ep : Nat) : Nat := ep % 256

/-- The slice of a host-port endpoint, none for another endpoint. -/
def epSlice (ep : Nat) : Option Nat := if epBlock ep = 1 ∨ epBlock ep = 2 then some (epIndex ep) else none

/-- Packets of a tunnel dropped at this hop (R203). -/
def State.countDrop (s : State) (t n : Nat) : State :=
  if (s.entry t).state = gClosed then s else s.modGaz t fun g => { g with drops := satAdd 16 g.drops n }

/-- A packet put in the egress queue of a link. An urgent display packet goes in class URGTC, and those of its
tunnel already queued move there in their order (R227). `rx`: the receive buffer it holds (R231). -/
def State.enqueue (s : State) (l : Nat) (p : TxPkt) (lossy : Bool) (rx : Option (Nat × Nat × Nat)) : State :=
  (s.schedAdvance l).modLink l fun k =>
    let urg := decide (p.urgent ∧ p.tclass = clsDisp)
    let u := k.sched.urgTc
    let old := if urg then k.sched.queue.map fun q => if q.pkt.tunnel = p.tunnel then { q with cls := u } else q
      else k.sched.queue
    { k with sched := { k.sched with
        queue := old ++ [{ pkt := p, cls := if urg then u else p.tc, since := s.now250, lossy := lossy, rx := rx }] } }

/-- One packet at a local exit: fragments are gathered into the tunnel message, and each discard counts in
FRAGERR (R207). A host-port exit of a slice that is not ACTIVE discards it (R360). -/
def State.deliverPkt (s : State) (t : Nat) (first last : Bool) (payload : List Byte) : State :=
  let g := s.gaz t
  let frozen := match epSlice g.dstEp with
    | some k => decide ((s.slice k).state ≠ 1)
    | none => false
  let busy := s.tree.inMsg.contains t
  let tr := s.tree
  if frozen then s.countDrop t 1
  else if !first ∧ !busy then { s with tree := { tr with fragErr := satAdd 32 tr.fragErr 1 } }
  else
    let old := if first then [] else tr.partials.read [] t
    let msg := old ++ payload
    let err := if first ∧ busy then satAdd 32 tr.fragErr 1 else tr.fragErr
    if last then
      { s with tree := { tr with fragErr := err, inMsg := tr.inMsg.filter (· ≠ t), partials := tr.partials.write [] t [] },
               out := .deliver t msg :: s.out }
    else
      { s with tree := { tr with fragErr := err, partials := tr.partials.write [] t msg,
                                 inMsg := if busy then tr.inMsg else t :: tr.inMsg } }

/-- The packet carries a tree message (R187): KIND 01h to 07h on a CTRL tunnel. -/
def treePkt (p : TxPkt) : Bool :=
  decide (1 ≤ p.tunnel ∧ p.tunnel ≤ 32) && decide (1 ≤ fromLe (p.payload.take 4) / 2 ^ 24 ∧ fromLe (p.payload.take 4) / 2 ^ 24 ≤ 7)

/-! ### The transmit buffers of MACs -/

def State.mac (s : State) (m : Nat) : Mac := s.net.macs.read Mac.init m

def State.setMac (s : State) (m : Nat) (x : Mac) : State :=
  { s with net := { s.net with macs := s.net.macs.write Mac.init m x } }

def State.modMac (s : State) (m : Nat) (f : Mac → Mac) : State := s.setMac m (f (s.mac m))

/-- Bytes of the frame that the NET message (or its first part) makes at a MAC exit, FCS included (R472). -/
def netFrameLen (msg : List Byte) : Nat :=
  max 60 (msg.length - 16 + if bit (fromLe (msg.take 4)) 15 then 4 else 0) + 4

/-- The transmit buffer of a MAC has room for the frame of a message (R472). -/
def Mac.room (x : Mac) (msg : List Byte) : Bool :=
  decide (sumN (x.txq.map fun q => q.bytes.length + 4) + netFrameLen msg ≤ 32768)

/-- What an exit holds of a tunnel's message once a packet has come. -/
def State.msgWith (s : State) (p : TxPkt) : List Byte :=
  (if p.first then [] else s.tree.partials.read [] p.tunnel) ++ p.payload

/-- What the packets of a local exit may have to wait for: its MAC's transmit buffer, or the request store that all far records
share (R472, R498). -/
def exitUnit (ep : Nat) : Nat := if epBlock ep = 9 then 9 else ep

def State.unitOf (s : State) (p : TxPkt) : Nat := exitUnit (s.gaz p.tunnel).dstEp

/-- A WIN request that the far hub refuses and that needs no entry: a READ or ATOMIC travelling toward the root while fewer than 64
entries are free (R498). -/
def State.winRefused (s : State) (p : TxPkt) : Bool :=
  let g := s.gaz p.tunnel
  let op := fromLe (p.payload.take 4) / 2 ^ 28
  p.first && decide (op = 0 ∨ op = 3) && decide (g.ingress ≠ 7) && !s.upLink g.ingress && decide (256 < s.win.store.length + 64)

/-- The exit takes the packet now (R472, R498). -/
def State.exitRoom (s : State) (p : TxPkt) : Bool :=
  let g := s.gaz p.tunnel
  if g.cls = clsNet ∧ epBlock g.dstEp = 6 then g.lossy || (s.mac (epIndex g.dstEp)).room (s.msgWith p)
  else if g.cls = clsWin ∧ epBlock g.dstEp = 9 ∧ p.tunnel % 2 = 0 then
    !p.first || s.winRefused p || decide (s.win.store.length < 256)
  else true

/-- The packet waits at its exit: behind others that wait for the same unit, or for room of its own. -/
def State.exitWaits (s : State) (p : TxPkt) : Bool :=
  let g := s.gaz p.tunnel
  let first := (s.tree.exitQ.any fun q => decide (q.pkt.tunnel = p.tunnel)) ||
    (p.first && !g.lossy && s.tree.exitQ.any fun q => decide (s.unitOf q.pkt = s.unitOf p))
  if g.cls = clsWin ∧ s.winRefused p then false else first || !s.exitRoom p

/-- A packet at its local exit, or waiting there with the receive buffer it holds (R207, R231, R472, R498). -/
def State.atExit (s : State) (p : TxPkt) (rx : Option (Nat × Nat × Nat)) : State :=
  if s.exitWaits p then
    { s with tree := { s.tree with exitQ := s.tree.exitQ ++ [{ pkt := p, since := s.now250, rx := rx }] } }
  else s.deliverPkt p.tunnel p.first p.last p.payload

/-- A copy that waits here still holds a receive buffer (R231, R472, R498). -/
def State.holdsRx (s : State) (r : Nat × Nat × Nat) : Bool :=
  let has (qs : List QPkt) : Bool := qs.any fun q => decide (q.rx = some r)
  ((List.range 5).any fun l => has (s.link l).sched.queue) || has s.tree.exitQ

/-- Copies of an accepted packet: one on each EGRESS link, sealed as the entry says, and, with LOCAL, one at the exit (R170,
R205, R206). CTRL and
TIME forward only on links that are UP (R196); an evicted link takes tree messages alone (R219). -/
def State.fanOut (s : State) (t : Nat) (p : TxPkt) (rx : Option (Nat × Nat × Nat)) : State :=
  let g := s.entry t
  let s := s.modGaz t fun g => { g with pkts := (g.pkts + 1) % 65536 }
  let ls := (egressLinks g.egress).filter fun l =>
    (decide (33 < t) || s.linkUp l) && (!(s.link l).evicted || treePkt p)
  let s := ls.foldl (fun s l => s.enqueue l { p with tc := g.tc, sealed := g.sealed } g.lossy rx) s
  if g.loc then s.atExit p rx else s

/-- The entry is sound (R204). -/
def Gaz.sound (g : Gaz) (t : Nat) : Bool := decide (g.tid = t)

/-- A packet offered by a local source (R205). A CTRL tunnel takes packets of every source (R196). -/
def State.offerPkt (s : State) (t : Nat) (urgent first last : Bool) (payload : List Byte) : State :=
  let g := s.entry t
  if g.state ≠ gOpen ∨ !g.sound t then
    { s with tree := { s.tree with notOpen := satAdd 32 s.tree.notOpen 1 } }.countDrop t 1
  else if g.ingress ≠ 7 ∧ 32 < t then
    { s with tree := { s.tree with wrongIn := satAdd 32 s.tree.wrongIn 1 } }.countDrop t 1
  else
    s.fanOut t { tunnel := t, tclass := g.cls, tc := g.tc, gen := g.gen, sealed := g.sealed, urgent := urgent,
                 first := first, last := last, hops := 0, srcHub := s.hubNo, payload := payload } none

/-- Pieces offered in order with FIRST and LAST set (R207). -/
def State.offerAll (s : State) (t : Nat) (urgent first : Bool) : List (List Byte) → State
  | [] => s
  | [c] => s.offerPkt t urgent first true c
  | c :: rest => (s.offerPkt t urgent first false c).offerAll t urgent false rest

/-- A tunnel message offered by a local source in packets of at most 2048 bytes (R207). -/
def State.sendTunnel (s : State) (t : Nat) (urgent : Bool) (bs : List Byte) : State :=
  s.offerAll t urgent true (chunks 2048 (bs.length / 2048 + 1) bs)

/-- The row split of R406: the fewest packets, earlier ones one byte longer where it does not divide evenly. -/
def rowChunks (bs : List Byte) : List (List Byte) :=
  let n := ceilDiv bs.length 2048
  let q := bs.length / (if n = 0 then 1 else n)
  let r := bs.length % (if n = 0 then 1 else n)
  (List.range n).map fun i => (bs.drop (i * q + min i r)).take (q + if i < r then 1 else 0)

/-- The first OPEN or other live entry whose local exit is an endpoint. -/
def State.exitTid (s : State) (ep : Nat) : Nat :=
  match s.tree.gaz.find? fun p => decide (p.2.state ≠ gClosed) && p.2.loc && decide (p.2.dstEp = ep) with
  | some p => p.1
  | none => 0

/-- The command owns the tunnel of the entry (R426, R483, R505). -/
def State.ownsTun (s : State) (c : Cmd) (t : Nat) : Bool :=
  let g := s.gaz t
  decide (g.state ≠ gClosed) && decide (g.ownerHub = s.cmdHub c) && decide (g.ownerSlice = c.slice)

end Sys2Proof.Machine
end

