-- ==== Sys2Proof/Machine/Display.lean ====
section
/-! DEFINITION. Display heads, pixel sources, undercoat and pin readback (Chapter 13). -/

namespace Sys2Proof.Machine

/-- Head states (Table 13.1). -/
def hdOff : Nat := 0
def hdLive : Nat := 1
def hdUndercoat : Nat := 2
def hdSafety : Nat := 3

def State.head (s : State) (i : Nat) : Head := if i = 0 then s.disp.d0 else s.disp.d1

def State.setHead (s : State) (i : Nat) (h : Head) : State :=
  if i = 0 then { s with disp := { s.disp with d0 := h } } else { s with disp := { s.disp with d1 := h } }

def State.modHead (s : State) (i : Nat) (f : Head → Head) : State := s.setHead i (f (s.head i))

def State.plane (s : State) (i : Nat) : Plane := s.disp.planes.read Plane.init i

def State.setPlane (s : State) (i : Nat) (p : Plane) : State :=
  { s with disp := { s.disp with planes := s.disp.planes.write Plane.init i p } }

def State.source (s : State) (t : Nat) : Source := s.disp.src.read Source.init t

def State.setSource (s : State) (t : Nat) (x : Source) : State :=
  { s with disp := { s.disp with src := s.disp.src.write Source.init t x } }

/-- The frame starts of a timing repeat in every datum second: FRAMEBASE counts within its second, and frames are numbered
from there (R399; log entry 42). -/
def HeadTiming.base (t : HeadTiming) : Nat := t.frameBase % 1000000000

/-- The instant frame `k` starts, in ns rounded down (R399). -/
def HeadTiming.frameNs (t : HeadTiming) (k : Nat) : Nat := t.base + k * 1000000000 / t.rate

/-- The frame under way at an instant in whole ns: the last whose start, rounded down, has come. -/
def HeadTiming.frameAt (t : HeadTiming) (now : Nat) : Nat := ceilDiv ((now + 1 - t.base) * t.rate) 1000000000 - 1

/-- The first frame whose start lies at or after an instant. -/
def HeadTiming.firstAt (t : HeadTiming) (ns : Nat) : Nat := ceilDiv ((ns - t.base) * t.rate) 1000000000

/-- An instant `n` lines from the start of frame `k`, `n` possibly negative, in ns. -/
def linesFrom (base rate vtotal k : Nat) (n : Int) : Int :=
  (base : Int) + ((k : Int) * vtotal + n) * 1000000000 / ((rate : Int) * vtotal)

/-- The instant line `l` of frame `k` starts, in ns rounded down (R399, R401). -/
def HeadTiming.lineNs (t : HeadTiming) (k l : Nat) : Int := linesFrom t.base t.rate t.vtotal k l

/-- The line under way in frame `k` at an instant in whole ns. -/
def HeadTiming.lineAt (t : HeadTiming) (k now : Nat) : Nat :=
  ceilDiv ((now + 1 - t.frameNs k) * (t.rate * t.vtotal)) 1000000000 - 1

/-- The limits of R400 and of Table 13.6. -/
def HeadTiming.ok (t : HeadTiming) : Bool :=
  let clock := t.htotal * t.vtotal * t.rate
  decide (64 ≤ t.hactive ∧ t.hactive ≤ 1920 ∧ 64 ≤ t.vactive ∧ t.vactive ≤ 1200)
    && decide (t.htotal ≤ 4095 ∧ t.vtotal ≤ 4095)
    && decide (1 ≤ t.hfp ∧ 1 ≤ t.hsync ∧ 1 ≤ t.vfp ∧ 1 ≤ t.vsync)
    && decide (t.hactive + t.hfp + t.hsync + 1 ≤ t.htotal ∧ t.vactive + t.vfp + t.vsync + 1 ≤ t.vtotal)
    && decide (24 ≤ t.rate ∧ t.rate ≤ 75)
    && decide (t.tBl ≤ 1000 ∧ t.tOn ≤ 1000 ∧ t.blDuty ≤ 1000 ∧ 100 ≤ t.blFreq ∧ t.blFreq ≤ 50000)
    && (if t.dual then
          decide (40000000 ≤ clock ∧ clock ≤ 165000000)
            && decide (t.hactive % 2 = 0 ∧ t.htotal % 2 = 0 ∧ t.hfp % 2 = 0 ∧ t.hsync % 2 = 0)
        else decide (20000000 ≤ clock ∧ clock ≤ 85000000))

/-- BL_PWM is in the active part of its period: periods of 1 / BLFREQ from each datum second on, BLDUTY thousandths of each high
(R404). DESIGN CHOICE: the second is where the periods start; the rule places the edges on datum time and names no phase (log
entry 42). -/
def HeadTiming.blHigh (t : HeadTiming) (now : Nat) : Bool :=
  decide (1000 * (now % 1000000000 * t.blFreq % 1000000000) < t.blDuty * 1000000000)

/-- The built-in timing of R416. -/
def builtinTiming : HeadTiming :=
  { rate := 60, htotal := 1344, hactive := 1024, vtotal := 806, vactive := 768, hsync := 136, hfp := 24,
    vsync := 6, vfp := 3, tOn := 20, tBl := 200 }

/-- Bytes of a pixel (Table 13.4). -/
def fmtBytes (f : Nat) : Nat := if f = 0 then 3 else if f = 1 then 4 else if f = 2 then 2 else 1

/-- 24-bit colour of a pixel's bytes (Table 13.4, R411 step 1). -/
def pixel24 (clut : Tab Nat) (f : Nat) (bs : List Byte) : Nat :=
  if f = 0 ∨ f = 1 then fromLe (bs.take 3)
  else if f = 2 then
    let v := fromLe (bs.take 2)
    let b := bits v 4 0; let g := bits v 10 5; let r := bits v 15 11
    fld 16 (r * 8 + r / 4) + fld 8 (g * 4 + g / 16) + (b * 8 + b / 4)
  else clut.read 0 (fromLe (bs.take 1))

/-- One colour blended (R411 step 3). -/
def blend8 (a c u : Nat) : Nat := (a * c + (255 - a) * u + 127) / 255

/-- A pixel under an overlay. -/
def blend24 (a c u : Nat) : Nat :=
  fld 16 (blend8 a (bits c 23 16) (bits u 23 16)) + fld 8 (blend8 a (bits c 15 8) (bits u 15 8))
    + blend8 a (bits c 7 0) (bits u 7 0)

/-- Overlays 0 to 3 over a pixel, in that order (R411). -/
def overlaid (ovs : Tab Overlay) (x y p : Nat) : Nat :=
  (List.range 4).foldl (fun u i =>
    let o := ovs.read Overlay.init i
    if o.enable ∧ o.x ≤ x ∧ x < o.x + o.w ∧ o.y ≤ y ∧ y < o.y + o.h then blend24 o.alpha o.colour u else u) p

/-- Bits 1 and 0 of each colour dropped in 18-bit mapping (R411 step 4). -/
def to18 (on : Bool) (p : Nat) : Nat := if on then p &&& 0xFCFCFC else p

/-- A row received for a line of a frame. -/
def Head.rowFor (h : Head) (l : Nat) : Option (List Byte) :=
  (h.rows.find? fun r => decide (r.1 = h.begun ∧ r.2.1 = l)).map fun r => r.2.2

/-- Line `l` lies within the plane's rows of the frame under way. -/
def Head.inRows (h : Head) (l : Nat) : Bool :=
  match h.acc with
  | some a => !h.loss && decide (a.yoff ≤ l ∧ l < a.yoff + a.height)
  | none => false

/-- Bytes of a row message of the frame (R406). -/
def FrameRec.rowBytes (f : FrameRec) : Nat := f.width * fmtBytes f.fmt

/-- The line underruns: within the plane's rows, and the head does not hold every pixel of its row (R410). -/
def Head.underrunAt (h : Head) (l : Nat) : Bool :=
  h.inRows l &&
    (match h.acc, h.rowFor l with
      | some a, some bs => decide (bs.length < a.rowBytes)
      | _, _ => true)

/-- Pixel `x` of line `l` after steps 1 and 2 of R411: background from the first pixel that the head does not hold (R410). -/
def Head.planePixel (h : Head) (l x : Nat) : Nat :=
  match h.acc, h.rowFor l with
  | some a, some bs =>
    if h.inRows l ∧ a.xoff ≤ x ∧ x < a.xoff + a.width ∧ (x - a.xoff + 1) * fmtBytes a.fmt ≤ bs.length then
      pixel24 h.line.clut a.fmt (bs.drop ((x - a.xoff) * fmtBytes a.fmt))
    else h.line.bg
  | _, _ => h.line.bg

/-- A plane's pixel, `bg` beyond its descriptor (R414). -/
def Plane.pixel (p : Plane) (bg x l : Nat) : Nat :=
  if x < p.width ∧ l < p.height then p.px.read 0 (l * p.width + x) else bg

/-- The timing a head runs: its own, else the image's, else the built-in one (R416). -/
def State.headTiming (s : State) (i : Nat) : HeadTiming :=
  let h := s.head i
  if h.hasTiming then h.timing
  else match s.disp.imgTiming.find? fun p => decide (p.1 = i) with
    | some p => p.2
    | none => builtinTiming

/-- The end of the line in progress, in ns rounded down (R401). -/
def State.lineEndNs (s : State) (i : Nat) : Nat :=
  let t := s.headTiming i
  let k := (s.head i).k
  (t.lineNs k (t.lineAt k s.nowNs + 1)).toNat

/-- Line `l` as the head composes it (R411, R414, R416); a safety page is loaded where the plane has a size (R78). -/
def State.composeLine (s : State) (i l : Nat) : List Nat :=
  let h := s.head i
  let t := s.headTiming i
  let uc := s.plane h.uc.plane
  let sp := s.plane s.disp.safePlane
  (List.range t.hactive).map fun x =>
    to18 t.bpp18 <|
      if h.st = hdSafety then
        if l < s.disp.bh then s.disp.banner
        else sp.pixel (if sp.width = 0 ∨ sp.height = 0 then 0 else h.line.bg) x l
      else if h.st = hdUndercoat then overlaid h.line.overlays x l (uc.pixel h.line.bg x l)
      else overlaid h.line.overlays x l (h.planePixel l x)

/-! ### The pairs of the output (R402, R403, R423) -/

/-- The seven slots of a clock pair, slot 6 first: 1100011b (R402). -/
def lvdsClock : List Bool := [true, true, false, false, false, true, true]

/-- The seven slots of data pair 0 to 3, slot 6 first, for a pixel of colour `p` with HS, VS and DE; none for high impedance
(R402, R403, Table 13.2). The 18-bit mapping sends bits 7 to 2 on pairs 0 to 2 as JEIDA does. -/
def lvdsData (jeida bpp18 : Bool) (p : Nat) (hs vs de : Bool) (pair : Nat) : Option (List Bool) :=
  let o := if jeida || bpp18 then 2 else 0
  let e := if jeida then 0 else 6
  let r (i : Nat) : Bool := bit p (16 + i)
  let g (i : Nat) : Bool := bit p (8 + i)
  let b (i : Nat) : Bool := bit p i
  match pair with
  | 0 => some [g o, r (o + 5), r (o + 4), r (o + 3), r (o + 2), r (o + 1), r o]
  | 1 => some [b (o + 1), b o, g (o + 5), g (o + 4), g (o + 3), g (o + 2), g (o + 1)]
  | 2 => some [de, vs, hs, b (o + 5), b (o + 4), b (o + 3), b (o + 2)]
  | 3 => if bpp18 then none else some [false, b (e + 1), b e, g (e + 1), g e, r (e + 1), r e]
  | _ => none

/-- The pixel of the line that period `n` of a link carries: a dual-link head sends the even pixels on link A and the odd ones
on link B (R402). -/
def HeadTiming.linkPixel (t : HeadTiming) (linkB : Bool) (n : Nat) : Nat := if t.dual then 2 * n + b2n linkB else n

/-- The colour that the slots of data pairs 0 to 3 carry, slot 6 first: the mapping of `lvdsData` read back (R403, R423). -/
def lvdsColour (jeida bpp18 : Bool) (pairs : List (List Bool)) : Nat :=
  let o := if jeida || bpp18 then 2 else 0
  let e := if jeida then 0 else 6
  let q (p i : Nat) : Nat := b2n ((pairs.getD p []).getD i false)
  let up (from' : Nat) (l : List Nat) : Nat := sumN (l.zipIdx.map fun x => x.1 * 2 ^ (from' + x.2))
  let low (a b : Nat) : Nat := if bpp18 then 0 else up e [q 3 a, q 3 b]
  fld 16 (up o [q 0 6, q 0 5, q 0 4, q 0 3, q 0 2, q 0 1] + low 6 5)
    + fld 8 (up o [q 0 0, q 1 6, q 1 5, q 1 4, q 1 3, q 1 2] + low 4 3)
    + (up o [q 1 1, q 1 0, q 2 6, q 2 5, q 2 4, q 2 3] + low 2 1)

/-- The pixels of a line that a head recovers from its pins by the mapping in force: data pairs of each pixel period of link A and
of link B, from the first active pixel on (R402, R423). -/
def HeadTiming.recovered (t : HeadTiming) (a b : List (List (List Bool))) : List Nat :=
  (List.range t.hactive).map fun x => lvdsColour t.jeida t.bpp18 <|
    if !t.dual then a.getD x [] else if x % 2 = 0 then a.getD (x / 2) [] else b.getD (x / 2) []

/-- Bytes B, G, R of pixels (R423). -/
def bgrBytes (ps : List Nat) : List Byte := ps.flatMap fun p => leBytes 3 p

/-- The region lies inside the active area (R423). -/
def Region.inside (r : Region) (t : HeadTiming) : Bool :=
  decide (r.x + r.w ≤ t.hactive ∧ r.y + r.h ≤ t.vactive)

/-- DISP_ALERT of a head that names a tunnel (R434). -/
def State.dispAlertOf (s : State) (i tid reason status cause region v1 v2 : Nat) : State :=
  s.reportHolder 5 i 8 status i
    [pack [fld 16 tid, fld 12 cause, fld 8 region, reason], word v1, word v2, word (s.head i).frameCnt]

/-- DISP_ALERT of a head, with the tunnel whose exit it is (R434). -/
def State.dispAlert (s : State) (i reason status cause region v1 v2 : Nat) : State :=
  s.dispAlertOf i (s.exitTid (0x300 + i)) reason status cause region v1 v2

/-- DISP_ALERT of a source, to the tunnel's owner, with the FRAMESEQ of the frame under way (R434). -/
def State.srcAlert (s : State) (t reason status cause v1 : Nat) : State :=
  s.report (s.gaz t).ownerHub (s.gaz t).ownerSlice 8 status 2
    [pack [fld 16 t, fld 12 cause, reason], word v1, 0, word (((s.source t).frameSeq + 65535) % 65536)]

/-- Capture starts on a LIVE head, with the descriptor of its plane set, and ends with LIVE or when capture is off (R413). -/
def State.startCapture (s : State) (i : Nat) : State :=
  let h := s.head i
  let on := decide (h.st = hdLive) && h.uc.capture
  if on ∧ !h.capturing then
    let t := s.headTiming i
    let p := s.plane h.uc.plane
    (s.setPlane h.uc.plane { p with width := t.hactive, height := t.vactive }).modHead i
      fun h => { h with capturing := true }
  else if !on then s.modHead i fun h => { h with capturing := false }
  else s

/-- Entry to UNDERCOAT (R414). -/
def State.toUndercoat (s : State) (i cause : Nat) : State :=
  let s := s.modHead i fun h =>
    { h with st := hdUndercoat, clean := 0, toUc := 0, switches := satAdd 16 h.switches 1 }
  s.dispAlert i 2 stOk cause 0 (s.head i).uc.plane 0

/-- The panel sequence of a head turned off, at an uptime (R404). -/
def Head.turnOff (h : Head) (up : Nat) : Head := { h with bl := false, seq := 5, seqAt := up + 1 }

/-- A head that turned itself off stays off until a commit of other timing (R425): the timing it ran no longer has it on,
wherever it is held. -/
def Head.panelOff (h : Head) (up : Nat) : Head :=
  let no (t : HeadTiming) : HeadTiming := if t = h.timing then { t with enable := false } else t
  { h.turnOff up with timing := no h.timing, staged := no h.staged, fpend := h.fpend.map fun f => { f with timing := no f.timing } }

/-- A plane the head captures into, now or by a change staged or pending (R413). -/
def Head.captures (h : Head) (p : Nat) : Bool :=
  let on (u : UcCfg) : Bool := u.capture && decide (u.plane = p)
  on h.uc || on h.stagedUc || (match h.fpend with
    | some f => on f.uc
    | none => false)

/-- The commands that still wait for their other kind keep what this kind has marked on them (R421, R430). -/
def carried (done others : List DCmd) : List DCmd :=
  others.map fun o => match done.find? fun d => decide (d.cmd = o.cmd) with
    | some d => { o with late := o.late || d.late, replaced := o.replaced || d.replaced }
    | none => o

/-- The DISP_COMMITs of a commit complete unless their other kind is still pending, the oldest first (R421, R430). -/
def State.finishCommits (s : State) (i : Nat) (others : List DCmd) : List DCmd → State
  | [] => s
  | c :: rest =>
    let s := (s.finishCommits i others rest)
    if others.any fun o => decide (o.cmd = c.cmd) then s
    else s.complete c.cmd stOk [word (s.head i).frameCnt, pack [b2n c.late, fld 1 (b2n c.replaced)]]

/-- The commands of a commit that another of its kind replaces (R421). -/
def replacedCmds (l : List DCmd) : List DCmd := l.map fun d => { d with replaced := true }

/-- A head that leaves OFF runs from here, within the frame and line of its timing: its first lines are those of the next
frame (R401; log entry 42). -/
def Head.running (h : Head) (t : HeadTiming) (now : Nat) : Head :=
  let k := t.frameAt now
  { h with k := k, lineNo := t.lineAt k now, nextLine := t.vtotal, stepFrame := false }

/-- A frame-bound commit applies (R404, R412 to R415, R419, R421). -/
def State.applyF (s : State) (i : Nat) (f : FCommit) : State :=
  let h := s.head i
  let on := f.timing.enable
  let h1 := { h with timing := f.timing, hasTiming := h.hasTiming || f.timing.ok, fpend := none,
                     uc := { f.uc with force := 0 },
                     forced := if f.uc.force = 1 then true else if f.uc.force = 2 then false else h.forced,
                     clean := if f.uc.force = 2 then 0 else h.clean,
                     capturing := h.capturing && f.uc.capture && decide (f.uc.plane = h.uc.plane)
                       && decide (f.timing.hactive = h.timing.hactive ∧ f.timing.vactive = h.timing.vactive)
                     lpend := h.lpend.map fun p => { p with cmds := carried f.cmds p.cmds } }
  let turnOn := decide (h.st = hdOff) && on && s.working
  let h2 :=
    if turnOn then { (h1.running f.timing s.nowNs) with
      st := hdUndercoat, firstReturn := true, clean := 0, frameCnt := 0, panelEn := true, seq := 1, seqAt := s.uptime + 1
      switches := satAdd 16 h.switches 1 }
    else if !on ∧ h.st ≠ hdOff ∧ h.seq < 5 then h1.turnOff s.uptime
    else if on ∧ 5 ≤ h.seq then { h1 with panelEn := true, seq := 1, seqAt := s.uptime + 1 }
    else h1
  let h3 := if f.uc.force = 1 ∧ h2.st = hdLive then { h2 with toUc := 4 } else h2
  let s := s.setHead i h3
  let s := if turnOn then s.dispAlert i 2 stOk 5 0 h3.uc.plane 0 else s
  s.finishCommits i (match h3.lpend with
    | some p => p.cmds
    | none => []) f.cmds

/-- A line-bound commit applies (R420). -/
def State.applyL (s : State) (i : Nat) (p : LCommit) : State :=
  let h := s.head i
  let fp := h.fpend.map fun f => { f with cmds := carried p.cmds f.cmds }
  let s := s.setHead i { h with line := p.cfg, lpend := none, fpend := fp }
  s.finishCommits i (match fp with
    | some f => f.cmds
    | none => []) p.cmds

/-- One region evaluated at the end of a frame (R423 to R425). -/
def State.evalRegion (s : State) (i k : Nat) : State :=
  let h := s.head i
  let r := h.regions.read Region.init k
  let t := s.headTiming i
  if !r.enable then s
  else if !r.inside t then s.modHead i fun h =>
    { h with regions := h.regions.write Region.init k { r with accInt := [], accPin := [] } }
  else
    let pin := crc32 r.accPin.reverse
    let exp := if r.hostExp then r.expected else crc32 r.accInt.reverse
    let compared := !r.hostExp || decide (h.st = hdLive)
    let bad := compared && decide (pin ≠ exp)
    let run := if bad then min 15 (r.run + 1) else if compared then 0 else r.run
    let act := bad && decide (r.n ≤ run)
    let rep := act && s.passed r.lastRep 400000000
    let r' := { r with pinCrc := pin, expect := exp, crcFrame := h.frameCnt, run := run,
                       mismatches := if bad then satAdd 32 r.mismatches 1 else r.mismatches,
                       lastRep := if rep then s.uptime + 1 else r.lastRep, accInt := [], accPin := [] }
    let h1 := { h with regions := h.regions.write Region.init k r' }
    let h2 := if act ∧ r.policy = 1 ∧ h.st = hdLive then { h1 with toUc := if h1.toUc = 0 then 3 else h1.toUc } else h1
    let off := act && decide (r.policy = 2) && decide (h.st ≠ hdSafety) && decide (h.seq < 5)
    let h3 := if off then h2.panelOff s.uptime else h2
    let s := s.setHead i h3
    let s := if rep then s.dispAlert i 5 stIntegrity (b2n r.hostExp) k pin.toNat exp.toNat else s
    if off then s.dispAlert i 6 stIntegrity 0 k 0 0 else s

/-- Waiting region settings whose frame has come; the second for which a region has reported runs on (R418, R425). -/
def Head.applyRegions (h : Head) (now : Nat) : Head :=
  let due := h.regNext.filter fun p => decide (p.2.2 ≤ now)
  { h with regions := due.foldl (fun t p => t.write Region.init p.1 { p.2.1 with lastRep := (t.read Region.init p.1).lastRep }) h.regions,
           regNext := h.regNext.filter fun p => decide (now < p.2.2) }

/-- The end of the frame under way: counts, alerts and switches into and out of UNDERCOAT (R414, R415). A frame in which time
stepped counts as neither clean nor underrun; a source loss in it counts all the same (R401, R414). -/
def State.endFrame (s : State) (i : Nat) : State :=
  let h := s.head i
  let n := if h.stepFrame then 0 else h.curUnder
  let clean := !h.loss && h.acc.isSome && decide (h.curUnder = 0)
  let since := h.prevUnder + n
  let rep := decide (0 < since) && s.passed h.underRep 400000000
  let mx := max h.maxUnder n
  let h1 := { h with under := min 255 n, frameCnt := (h.frameCnt + 1) % 2 ^ 32, curUnder := 0,
                     prevUnder := if rep then 0 else since, maxUnder := if rep then 0 else mx,
                     underRep := if rep then s.uptime + 1 else h.underRep,
                     clean := if h.st ≠ hdUndercoat ∨ h.forced then 0 else if h.stepFrame then h.clean
                              else if clean then min 255 (h.clean + 1) else 0 }
  let s := if rep then s.dispAlert i 1 stOk 0 0 since mx else s
  let s := s.setHead i h1
  if h.st = hdLive then
    if h.forced then s.toUndercoat i 4
    else if h.toUc ≠ 0 then s.toUndercoat i h.toUc
    else if h.uc.underrunMax ≤ n then s.toUndercoat i 1
    else if h.loss then s.toUndercoat i 2
    else s
  else if h.st = hdUndercoat ∧ !h1.forced ∧ (if h.firstReturn then 1 else h.uc.returnFrames) ≤ h1.clean then
    (s.modHead i fun h => { h with st := hdLive, firstReturn := false, clean := 0, toUc := 0 }).dispAlert i 3 stOk 0 0 h1.clean 0
  else s

/-- The timing that the head's next frame runs and that frame's number: the first of that timing at or after the end of the
frame under way, after a step of datum time the first of the new time at or after the end of the line in progress (R401, R419). -/
def State.nextFrame (s : State) (i : Nat) : HeadTiming × Nat :=
  let h := s.head i
  let old := s.headTiming i
  let t := match h.fpend with
    | some f => if f.skip then old else f.timing
    | none => old
  (t, t.firstAt (if h.stepFrame then max (ceilDiv s.time.stepTo 4) h.lineEnd else old.frameNs (h.k + 1)))

/-- The instant the head's next frame starts, in ns rounded down. -/
def State.nextFrameNs (s : State) (i : Nat) : Nat := (s.nextFrame i).1.frameNs (s.nextFrame i).2

/-- FRAME_START: a head starts its next frame, once that frame's instant has come (R401, R404, R410, R414, R415, R418, R419,
R425). -/
def effFrameStart (i : Nat) (s : State) : State :=
  let h0 := s.head i
  if !s.headPresent i ∨ h0.st = hdOff ∨ s.nowNs < s.nextFrameNs i then s
  else
    let k := (s.nextFrame i).2
    let start := s.nextFrameNs i
    let s := (List.range 8).foldl (fun s k => s.evalRegion i k) s
    let s := s.endFrame i
    let s := s.modHead i fun h => h.applyRegions s.nowNs
    let s := match (s.head i).fpend with
      | some f => if f.skip then s.modHead i fun h => { h with fpend := some { f with skip := false } } else s.applyF i f
      | none => s
    let h := s.head i
    let acc := match h.accNext with
      | some a => if a.start = start then some a else none
      | none => none
    (s.setHead i { h with
      k := k, begun := h.begun + 1, lineNo := 0, nextLine := 0, acc := acc, accNext := none, stepFrame := false
      loss := acc.isNone || !s.tunOpen (s.exitTid (0x300 + i))
      rows := h.rows.filter fun r => decide (r.1 = h.begun + 1)
      lvds := h.lvds || decide (h.seq = 2)
      bl := h.bl || decide (h.seq = 4)
      seq := if h.seq = 2 then 3 else if h.seq = 4 then 0 else h.seq
      seqAt := if h.seq = 2 then s.uptime + 1 else h.seqAt }).startCapture i

def execFrameStart (head : Nat) (s : State) : Host.Outcome State Fault Refusal := .next (effFrameStart head s)

/-- A line captured into the undercoat plane (R413). -/
def State.captureLine (s : State) (i l : Nat) : State :=
  let h := s.head i
  let t := s.headTiming i
  let p := s.plane h.uc.plane
  if h.st = hdLive ∧ h.uc.capture ∧ h.capturing ∧ !h.loss ∧ h.acc.isSome ∧ !h.underrunAt l then
    s.setPlane h.uc.plane { p with
      px := (List.range t.hactive).foldl (fun px x => px.write 0 (l * p.width + x) (h.planePixel l x)) p.px }
  else s

/-- Line `l` of the frame under way may start: its instant has come, it has not started before, and no step of datum time has
ended the frame's lines (R401). -/
def State.lineDue (s : State) (i l : Nat) : Bool :=
  let h := s.head i
  let t := s.headTiming i
  decide (h.nextLine ≤ l ∧ l < t.vtotal) && !h.stepFrame && decide (t.lineNs h.k l ≤ (s.nowNs : Int))

/-- LINE_START: a head starts a line (R401, R410, R411, R413, R420, R423). -/
def effLineStart (i l : Nat) (pins : Option LinePins) (s : State) : State :=
  let t := s.headTiming i
  if !s.headPresent i ∨ (s.head i).st = hdOff ∨ !s.lineDue i l then s
  else
    let s := s.modHead i fun h => { h with lineNo := l, nextLine := l + 1 }
    let s := match (s.head i).lpend with
      | some p => if (p.line = 0xFFF ∨ p.line = l) ∧ p.since + 2000 ≤ s.nowNs then s.applyL i p else s
      | none => s
    if t.vactive ≤ l then s
    else
      let s := s.captureLine i l
      let h := s.head i
      let drawn := s.composeLine i l
      let seen := match pins with
        | some p => t.recovered p.a p.b
        | none => drawn
      let add (r : Region) : Region :=
        if r.enable ∧ r.y ≤ l ∧ l < r.y + r.h then
          { r with accInt := (bgrBytes ((drawn.drop r.x).take r.w)).reverse ++ r.accInt,
                   accPin := (bgrBytes ((seen.drop r.x).take r.w)).reverse ++ r.accPin }
        else r
      let u := (decide (h.st = hdLive) || decide (h.st = hdUndercoat)) && h.underrunAt l
      s.setHead i { h with
        shown := drawn
        regions := h.regions.map fun p => (p.1, add p.2)
        curUnder := h.curUnder + b2n u
        underruns := satAdd 32 h.underruns (b2n u)
        rows := h.rows.filter fun r => decide (¬ (r.1 = h.begun ∧ r.2.1 ≤ l)) }

def execLineStart (head line : Nat) (pins : Option LinePins) (s : State) : Host.Outcome State Fault Refusal :=
  .next (effLineStart head line pins s)

/-- FRAME_REJECT of a head for a FRAME message of a tunnel, at most once a second per head (R434). -/
def State.rejectFrame (s : State) (i tid cause : Nat) : State :=
  let h := s.head i
  let n := h.rejects + 1
  if !s.passed h.rejRep 400000000 then s.setHead i { h with rejects := n }
  else (s.setHead i { h with rejects := 0, rejRep := s.uptime + 1 }).dispAlertOf i tid 8 stOk cause 0 n 0

/-- A head's FRAME message discarded and reported: no row message belongs to it (R409, R434). -/
def State.rejectHead (s : State) (i tid cause : Nat) : State :=
  (s.modHead i fun h => { h with inForce := false }).rejectFrame i tid cause

/-- The fields of a FRAME message for the frame with a count and a start (Table 13.3). -/
def frameOf (k start : Nat) (ws : List Word) : FrameRec :=
  { k := k, start := start, fmt := bits (nthW ws 0) 31 28, width := bits (nthW ws 1) 11 0, height := bits (nthW ws 1) 27 16,
    xoff := bits (nthW ws 2) 11 0, yoff := bits (nthW ws 2) 27 16, rows := 0 }

/-- The head that captures into or shows a plane, for the report of a discarded plane load. -/
def State.planeHead (s : State) (p : Nat) : Nat := if s.disp.d0.uc.plane = p then 0 else 1

/-- FRAME_MESSAGE: accepted for the head's next frame, or rejected and reported (R401, R409, R417, R419). -/
def effFrameMessage (tid : Nat) (ws : List Word) (s : State) : State :=
  let ep := (s.gaz tid).dstEp
  let oneshot := bit (nthW ws 0) 16
  if epBlock ep = 4 then
    let p := s.plane (epIndex ep)
    let f := frameOf 0 0 ws
    if f.fmt ≠ 0 ∨ !oneshot then
      (s.setPlane (epIndex ep) { p with load := none }).rejectFrame (s.planeHead (epIndex ep)) tid 4
    else s.setPlane (epIndex ep) { p with width := f.width, height := f.height, load := some f }
  else
    let i := epIndex ep
    let h := s.head i
    if epBlock ep ≠ 3 ∨ !s.headPresent i ∨ h.st = hdOff then s
    else
      let t := (s.nextFrame i).1
      let start := s.nextFrameNs i
      let f := frameOf (h.begun + 1) start ws
      if nthW ws 3 ≠ (compactNs start).toNat ∨ nthW ws 4 ≠ (compactSec start).toNat ∨ oneshot then s.rejectHead i tid 1
      else if 4 ≤ f.fmt then s.rejectHead i tid 3
      else if t.hactive < f.xoff + f.width ∨ t.vactive < f.yoff + f.height then s.rejectHead i tid 2
      else s.setHead i { h with accNext := some f, inForce := true }

def execFrameMessage (tid : Nat) (ws : List Word) (s : State) : Host.Outcome State Fault Refusal :=
  .next (effFrameMessage tid ws s)

/-- The bytes of the row message under way with those that come now. -/
def FrameRec.rowSoFar (f : FrameRec) (bytes : List Byte) : List Byte := f.got ++ bytes

/-- The frame after a packet of a row message, `more` to come, or after the last of it. -/
def FrameRec.step (f : FrameRec) (bytes : List Byte) (more : Bool) : FrameRec :=
  if more then { f with got := f.rowSoFar bytes } else { f with got := [], rows := f.rows + 1 }

/-- The line buffer with what has come of the row message under way (R409, R410): nothing of one whose line has begun, whose
length is wrong or that finds the buffer full. -/
def Head.bufferRow (h : Head) (f : FrameRec) (bytes : List Byte) (more : Bool) : List (Nat × Nat × List Byte) :=
  let l := f.yoff + f.rows
  let b := f.rowSoFar bytes
  let others := h.rows.filter fun r => decide (¬ (r.1 = f.k ∧ r.2.1 = l))
  if f.height ≤ f.rows ∨ (f.k = h.begun ∧ l ≤ h.lineNo) then h.rows
  else if f.rowBytes < b.length ∨ (!more ∧ b.length ≠ f.rowBytes) ∨ 8 ≤ others.length then others
  else others ++ [(f.k, l, b)]

/-- ROW_MESSAGE: a packet of a row message, the last of it unless `more` is set, buffered by a head, written into a plane, or
discarded (R406, R409, R410, R417). -/
def effRowMessage (tid : Nat) (bytes : List Byte) (more : Bool) (s : State) : State :=
  let ep := (s.gaz tid).dstEp
  if epBlock ep = 4 then
    let p := s.plane (epIndex ep)
    match p.load with
    | none => s
    | some f =>
      let b := f.rowSoFar bytes
      if f.height ≤ f.rows then s
      else
        let px := if !more ∧ b.length = f.width * 3 then
            (List.range f.width).foldl
              (fun px x => px.write 0 (f.rows * f.width + x) (fromLe ((b.drop (3 * x)).take 3))) p.px
          else p.px
        s.setPlane (epIndex ep) { p with px := px, load := some (f.step bytes more) }
  else
    let i := epIndex ep
    let h := s.head i
    if epBlock ep ≠ 3 ∨ !s.headPresent i ∨ h.st = hdOff ∨ !h.inForce then s
    else
      match h.accNext, h.acc with
      | some f, _ => s.setHead i { h with rows := h.bufferRow f bytes more, accNext := some (f.step bytes more) }
      | none, some f => s.setHead i { h with rows := h.bufferRow f bytes more, acc := some (f.step bytes more) }
      | none, none => s

def execRowMessage (tid : Nat) (bytes : List Byte) (more : Bool) (s : State) : Host.Outcome State Fault Refusal :=
  .next (effRowMessage tid bytes more s)

/-- The commands of a source commit complete, the newest last and unmarked (R422, R430). -/
def State.finishSrc (s : State) (seq : Nat) (newest : Bool) : List Cmd → State
  | [] => s
  | c :: rest => (s.finishSrc seq false rest).complete c stOk [word seq, pack [fld 1 (b2n !newest)]]

/-- A source commit applies; its commands complete with the FRAMESEQ (R422, R430). -/
def State.applySrc (s : State) (t : Nat) : State :=
  let x := s.source t
  match x.pend with
  | none => s
  | some cfg =>
    (s.setSource t { x with cfg := cfg, pend := none, cmds := [], oneDone := false }).finishSrc x.frameSeq true x.cmds

/-- The source may send: enabled, its tunnel OPEN, its slice ACTIVE (R408). -/
def State.srcSends (s : State) (t : Nat) : Bool :=
  (s.source t).cfg.enable && s.tunOpen t &&
    (match epSlice (s.gaz t).srcEp with
      | some k => decide ((s.slice k).state = 1)
      | none => false)

/-- The instant a paced source may send row `r` of frame `k`, 7 lines ahead of it; its FRAME message goes one line earlier, as
row -1 of a plane at line 0 (R407). -/
def SrcCfg.rowNs (c : SrcCfg) (k : Nat) (r : Int) : Int := linesFrom c.frameBase c.rate c.vtotal k (r - 7)

/-- The FRAME message of frame `k` falls due under these parameters: this tick reaches its instant, once; that of a ONESHOT source
once no frame is under way (R407, R408). -/
def State.frameDue (s : State) (x : Source) (c : SrcCfg) (k : Nat) : Bool :=
  if c.oneshot then !x.sending
  else
    let off : Int := (s.time.datum : Int) - c.rowNs k (-1) * unitNs
    decide (0 ≤ off ∧ off < s.tickLen) && decide (x.sentAt ≠ s.uptime + 1)

/-- SOURCE_FRAME_SEND: the FRAME message of frame `k`, 8 lines ahead of it, under a source commit that waits for it (R406 to R408,
R422). -/
def effSourceFrameSend (tid k : Nat) (s : State) : State :=
  let x := s.source tid
  if !s.frameDue x (x.pend.getD x.cfg) k then s else
  let s := s.applySrc tid
  let x := s.source tid
  let c := x.cfg
  if !s.srcSends tid ∨ (c.oneshot ∧ x.oneDone) then s.setSource tid { x with sending := false }
  else
    let start := c.frameBase + k * 1000000000 / c.rate
    let ws : List Word :=
      [ pack [fld 28 c.fmt, fld 16 (b2n c.oneshot), x.frameSeq], pack [fld 16 c.height, c.width],
        pack [fld 16 c.yoff, c.xoff], if c.oneshot then 0 else compactNs start,
        if c.oneshot then 0 else compactSec start, 0, 0, 0 ]
    let s := s.setSource tid { x with
      frameSeq := (x.frameSeq + 1) % 65536, sending := true, row := 0, k := k, abandoned := false, fetching := false
      sentAt := s.uptime + 1, gen := (s.gaz tid).gen }
    s.sendTunnel tid false (bytesOf ws)

def execSourceFrameSend (tid k : Nat) (s : State) : Host.Outcome State Fault Refusal :=
  .next (effSourceFrameSend tid k s)

/-- The next row's packets leave URGENT from `F + (YOFF + r - WM) * LT` on (R407). -/
def State.rowUrgent (s : State) (x : Source) : Bool :=
  !x.cfg.oneshot &&
    decide (linesFrom x.cfg.frameBase x.cfg.rate x.cfg.vtotal x.k ((x.cfg.yoff : Int) + x.row - x.cfg.wm) ≤ (s.nowNs : Int))

/-- The next row may be sent: its instant has come, of a ONESHOT frame at once (R407). -/
def State.rowDue (s : State) (x : Source) : Bool :=
  x.cfg.oneshot || decide (x.cfg.rowNs x.k ((x.cfg.yoff : Int) + x.row) ≤ (s.nowNs : Int))

/-- The frame under way goes on: the source may send, and its tunnel has not been suspended since the FRAME message (R408). -/
def State.frameLives (s : State) (tid : Nat) : Bool := s.srcSends tid && decide ((s.source tid).gen = (s.gaz tid).gen)

/-- The sources of a slice stop where they are: it is FROZEN, and the frame under way does not go on (R360, R408). -/
def State.stopSources (s : State) (k : Nat) : State :=
  let stop (t : Nat) (x : Source) : Source :=
    if epSlice (s.gaz t).srcEp = some k then { x with sending := false, fetching := false } else x
  { s with disp := { s.disp with src := s.disp.src.mapAll Source.init stop } }

/-- SOURCE_ROW_SEND: from its line instant on, the source fetches the next row, once; a source that may not send ends its frame
(R407, R408). -/
def effSourceRowSend (tid : Nat) (s : State) : State :=
  let x := s.source tid
  if !x.sending ∨ x.abandoned ∨ x.fetching ∨ x.cfg.height ≤ x.row then s
  else if !s.frameLives tid then s.setSource tid { x with sending := false }
  else if !s.rowDue x then s
  else match epSlice (s.gaz tid).srcEp with
    | some k =>
      let y := s.slice k
      (s.setSource tid { x with fetching := true }).emit (.hostRead y.port y.pasid (x.cfg.base + x.row * x.cfg.stride) (x.cfg.width * fmtBytes x.cfg.fmt) (s.rowUrgent x))
    | none => s

def execSourceRowSend (tid : Nat) (s : State) : Host.Outcome State Fault Refusal := .next (effSourceRowSend tid s)

/-- ROW_FETCH_DONE: the row is sent, or its frame is abandoned and reported (R406 to R408). -/
def effRowFetchDone (tid : Nat) (ok : Bool) (bytes : List Byte) (s : State) : State :=
  let x := s.source tid
  if !x.sending ∨ x.abandoned ∨ !x.fetching ∨ x.cfg.height ≤ x.row then s
  else if !s.frameLives tid then s.setSource tid { x with sending := false, fetching := false }
  else if !ok then
    (s.setSource tid { x with
      abandoned := true, sending := false, fetching := false, readErrs := satAdd 32 x.readErrs 1
      oneDone := x.oneDone || x.cfg.oneshot }).srcAlert tid 7 stTargetError 0 x.row
  else
    let u := s.rowUrgent x
    let done := decide (x.row + 1 = x.cfg.height)
    let s := s.setSource tid { x with row := x.row + 1, urgentRows := satAdd 32 x.urgentRows (b2n u),
                                      sending := !done, fetching := false, oneDone := x.oneDone || (done && x.cfg.oneshot) }
    s.offerAll tid u true (rowChunks bytes)

def execRowFetchDone (tid : Nat) (ok : Bool) (bytes : List Byte) (s : State) : Host.Outcome State Fault Refusal :=
  .next (effRowFetchDone tid ok bytes s)

/-- The time a panel sequence waits in its present phase, in ms (R404). -/
def State.panelMs (s : State) (i : Nat) : Nat :=
  let h := s.head i
  if h.seq = 1 ∨ h.seq = 6 then (s.headTiming i).tOn else (s.headTiming i).tBl

/-- PANEL_SEQUENCE_TIMER: T_ON or T_BL elapses (R404). -/
def effPanelSequenceTimer (i : Nat) (s : State) : State :=
  let h := s.head i
  if !s.passed h.seqAt (400000 * s.panelMs i) then s
  else if h.seq = 1 then s.setHead i { h with seq := 2 }
  else if h.seq = 3 then s.setHead i { h with seq := 4 }
  else if h.seq = 5 then s.setHead i { h with lvds := false, seq := 6, seqAt := s.uptime + 1 }
  else if h.seq = 6 then s.setHead i { h with panelEn := false, seq := 0, st := hdOff, capturing := false, rows := [], acc := none, accNext := none }
  else s

def execPanelSequenceTimer (head : Nat) (s : State) : Host.Outcome State Fault Refusal :=
  .next (effPanelSequenceTimer head s)

/-! ### Commands -/

/-- A head command's authority and presence (R396, R426). -/
def State.headCmd (s : State) (c : Cmd) (body : Nat → State) : State :=
  let i := c.f 4 0 0
  if !s.mayUse c 5 i then s.complete c stNotGranted []
  else if !s.headPresent i then s.complete c stNotPresent []
  else body i

/-- The timing a DISP_TIMING packet carries (Table 13.6). -/
def timingOf (c : Cmd) (fb : Nat) : HeadTiming :=
  { rate := c.f 4 23 16, vspol := c.b 4 8, hspol := c.b 4 7, jeida := c.b 4 6, bpp18 := c.b 4 5, dual := c.b 4 4,
    enable := c.b 4 3, htotal := c.f 5 27 16, hactive := c.f 5 11 0, vtotal := c.f 6 27 16, vactive := c.f 6 11 0,
    hsync := c.f 7 25 16, hfp := c.f 7 9 0, vsync := c.f 8 15 8, vfp := c.f 8 7 0, frameBase := fb,
    tBl := c.f 11 25 16, tOn := c.f 11 9 0, blDuty := c.f 12 25 16, blFreq := c.f 12 15 0 }

def layTiming (_ : Cmd) : Layout :=
  { masks := [(4, mk 23 16 + mk 8 3 + 1), (5, mk 27 16 + mk 11 0), (6, mk 27 16 + mk 11 0), (7, mk 25 16 + mk 9 0),
              (8, mk 15 0), (9, mkAll), (10, mkAll), (11, mk 25 16 + mk 9 0), (12, mk 25 0)] }

/-- DISP_TIMING (R400, R427): stages the timing. -/
def execDispTiming (c : Cmd) (s : State) : Host.Outcome State Fault Refusal :=
  .next <| s.runCmd c 0x0800 (layTiming c) false fun s => s.headCmd c fun i =>
    match s.compactField c 9 with
    | none => s.complete c stBadParam []
    | some fb =>
      let t := timingOf c fb
      if !t.ok then s.complete c stBadParam []
      else (s.modHead i fun h => { h with staged := t }).complete c stOk []

/-- A source command's checks: authority, generation, presence and kind (R217, R426). -/
def State.srcCmd (s : State) (c : Cmd) (tid gen : Nat) (any : Bool) (body : State) : State :=
  let g := s.gaz tid
  if !(s.authZ c || s.ownsTun c tid) then s.complete c stNotGranted []
  else if !genOk any gen g.gen then
    let r := s.hopRecord tid
    r.2.complete c stStaleGen r.1
  else if g.state = gClosed then s.complete c stNotPresent []
  else if g.cls ≠ clsDisp ∨ g.ingress ≠ 7 ∨ (epSlice g.srcEp).isNone then s.complete c stBadParam []
  else body

def layPlane : Layout :=
  { masks := [(4, mk 31 23 + mk 20 0), (5, mk 27 16 + mk 11 0), (6, mk 27 16 + mk 11 0), (7, mk 23 0), (8, mkAll), (9, mkAll),
              (10, mkAll), (11, mkAll), (12, mk 23 16 + mk 11 0)] }

def layDispPlane (c : Cmd) : Layout := { layPlane with enc := decide (c.f 4 31 28 < 4) }

/-- DISP_PLANE (R428): stages the source. -/
def execDispPlane (c : Cmd) (s : State) : Host.Outcome State Fault Refusal :=
  .next <| s.runCmd c 0x0801 (layDispPlane c) false fun s =>
    let tid := c.f 4 11 0
    s.srcCmd c tid (c.f 4 19 12) (c.b 4 20) <|
      let x := s.source tid
      let p : SrcCfg :=
        { fmt := c.f 4 31 28, wm := c.f 4 27 25, oneshot := c.b 4 24, enable := c.b 4 23,
          height := c.f 5 27 16, width := c.f 5 11 0, yoff := c.f 6 27 16, xoff := c.f 6 11 0, stride := c.f 7 23 0,
          base := c.w64 8, rate := c.f 12 23 16, vtotal := c.f 12 11 0 }
      match s.compactField c 10 with
      | none => s.complete c stBadParam []
      | some fb =>
        if p.base % 64 ≠ 0 ∨ p.stride % 64 ≠ 0 ∨ p.stride < p.width * fmtBytes p.fmt ∨ p.wm = 0 ∨ p.width < 64 ∨ 1920 < p.width
            ∨ p.height < 1 ∨ 1200 < p.height ∨ p.rate < 24 ∨ 75 < p.rate ∨ p.vtotal = 0 then
          s.complete c stBadParam []
        else (s.setSource tid { x with staged := { p with frameBase := fb } }).complete c stOk []

/-- DISP_OVERLAY (R429): stages line-bound changes. -/
def layOverlay (c : Cmd) : Layout :=
  let form := c.f 4 2 1
  { masks :=
      if form = 0 then [(4, mk 6 4 + mk 2 0), (5, mk 27 16 + mk 11 0), (6, mk 27 16 + mk 11 0), (7, mkAll)]
      else if form = 1 then [(4, mk 2 0), (5, mk 23 0)]
      else (4, mk 19 8 + mk 2 0) :: (List.range 8).map fun k => (k + 5, mk 23 0)
    enc := decide (form ≠ 3) }

def execDispOverlay (c : Cmd) (s : State) : Host.Outcome State Fault Refusal :=
  .next <| s.runCmd c 0x0802 (layOverlay c) false fun s => s.headCmd c fun i =>
    let form := c.f 4 2 1
    let h := s.head i
    let st := h.stagedLine
    if form = 0 then
      let o : Overlay := { enable := c.b 4 6, x := c.f 5 11 0, y := c.f 5 27 16, w := c.f 6 11 0, h := c.f 6 27 16,
                           colour := c.f 7 23 0, alpha := c.f 7 31 24 }
      (s.setHead i { h with stagedLine := { st with overlays := st.overlays.write Overlay.init (c.f 4 5 4) o } }).complete c stOk []
    else if form = 1 then (s.setHead i { h with stagedLine := { st with bg := c.f 5 23 0 } }).complete c stOk []
    else
      let start := c.f 4 15 8
      let n := c.f 4 19 16
      if n = 0 ∨ 8 < n ∨ 256 < start + n then s.complete c stBadParam []
      else (s.setHead i { h with stagedLine := { st with
        clut := (List.range n).foldl (fun t k => t.write 0 (start + k) (c.f (5 + k) 23 0)) st.clut } }).complete c stOk []

/-- A head commit taken: a snapshot per kind, applied at once on an OFF head (R418 to R421). -/
def State.takeCommit (s : State) (i : Nat) (cmds : List Cmd) (fk lk : Bool) (ln : Nat) : State :=
  let h := s.head i
  let oldF := match h.fpend with
    | some f => f.cmds
    | none => []
  let oldL := match h.lpend with
    | some p => p.cmds
    | none => []
  let late := fk && decide (h.st ≠ hdOff) && decide (h.timing.vactive ≤ h.lineNo + 2) && h.hasTiming
  let force := if h.stagedUc.force ≠ 0 then h.stagedUc.force else match h.fpend with
    | some f => f.uc.force
    | none => 0
  let new := cmds.map fun c => { DCmd.init with cmd := c, late := late }
  let f : FCommit := { timing := h.staged, uc := { h.stagedUc with force := force }, cmds := new ++ replacedCmds oldF, skip := late }
  let p : LCommit := { cfg := h.stagedLine, line := ln, since := s.nowNs, cmds := new ++ replacedCmds oldL }
  let s := s.setHead i { h with fpend := if fk then some f else h.fpend, lpend := if lk then some p else h.lpend,
                                lateCommits := if late then satAdd 16 h.lateCommits 1 else h.lateCommits
                                stagedUc := if fk then { h.stagedUc with force := 0 } else h.stagedUc }
  if h.st = hdOff then
    let s := if lk then s.applyL i p else s
    if fk then s.applyF i f else s
  else if late then s.dispAlert i 4 stOk 0 0 (h.frameCnt + 2) 0
  else s

/-- DISP_COMMIT (R421, R422, R430). -/
def layCommit (c : Cmd) : Layout :=
  { masks := if c.b 4 3 then [(4, mk 27 16 + mk 3 0), (5, mk 20 0)] else [(4, mk 3 0), (5, mk 11 0)]
    enc := c.b 4 3 || c.b 4 2 || c.b 4 1 }

def execDispCommit (c : Cmd) (s : State) : Host.Outcome State Fault Refusal :=
  .next <| s.runCmd c 0x0803 (layCommit c) false fun s =>
    if c.b 4 3 then
      let tid := c.f 4 27 16
      s.srcCmd c tid (c.f 5 19 12) (c.b 5 20) <|
        let x := s.source tid
        let s := s.setSource tid { x with pend := some x.staged, cmds := c :: x.cmds }
        if x.sending then s else s.applySrc tid
    else s.headCmd c fun i => s.takeCommit i [c] (c.b 4 1) (c.b 4 2) (c.f 5 11 0)

/-- DISP_UNDERCOAT (R412, R413, R426, R431). -/
def layUndercoat (c : Cmd) : Layout :=
  let form := c.f 4 2 1
  { masks := if form = 0 then [(4, mk 8 4 + mk 2 0), (5, mk 15 0)] else [(4, mk 11 9 + mk 2 0), (5, mk 27 16 + mk 11 0)]
    enc := decide (form < 2) && (decide (form = 1) || decide (c.f 4 8 7 ≠ 3)) }

def execDispUndercoat (c : Cmd) (s : State) : Host.Outcome State Fault Refusal :=
  .next <| s.runCmd c 0x0804 (layUndercoat c) false fun s =>
    if c.f 4 2 1 = 1 then
      let k := c.f 4 10 9
      let w := c.f 5 11 0
      let hgt := c.f 5 27 16
      if !s.mayUse c 6 k then s.complete c stNotGranted []
      else if 8388608 < w * hgt * 3 then s.complete c stBadParam []
      else
        let p := s.plane k
        (s.setPlane k { p with width := w, height := hgt, px := if c.b 4 11 then [] else p.px }).complete c stOk []
    else s.headCmd c fun i =>
      let h := s.head i
      let other := s.head (1 - i)
      let force := if c.f 4 8 7 = 0 then h.stagedUc.force else c.f 4 8 7
      let u : UcCfg := { plane := c.f 4 5 4, capture := c.b 4 6, force := force, underrunMax := c.f 5 7 0, returnFrames := c.f 5 15 8 }
      if u.plane ≠ h.uc.plane ∧ !s.mayUse c 6 u.plane then s.complete c stNotGranted []
      else if u.underrunMax = 0 ∨ u.returnFrames = 0 then s.complete c stBadParam []
      else if u.capture ∧ other.captures u.plane then s.complete c stBusy []
      else (s.setHead i { h with stagedUc := u }).complete c stOk []

/-- DISP_CRC_REGION (R418, R425, R432): takes effect at the first frame start at least one line later. -/
def layRegion (c : Cmd) : Layout :=
  { masks := [(4, mk 11 0), (5, mk 27 16 + mk 11 0), (6, mk 27 16 + mk 11 0), (7, mkAll)], enc := decide (c.f 4 7 6 ≠ 3) }

def execDispCrcRegion (c : Cmd) (s : State) : Host.Outcome State Fault Refusal :=
  .next <| s.runCmd c 0x0805 (layRegion c) false fun s => s.headCmd c fun i =>
    let k := c.f 4 3 1
    let r : Region := { enable := c.b 4 4, hostExp := c.b 4 5, policy := c.f 4 7 6, n := c.f 4 11 8, x := c.f 5 11 0,
                        y := c.f 5 27 16, w := c.f 6 11 0, h := c.f 6 27 16, expected := word (c.w 7) }
    if r.n = 0 ∨ r.w = 0 ∨ r.h = 0 then s.complete c stBadParam []
    else
      let t := s.headTiming i
      let due := s.nowNs + ceilDiv 1000000000 (t.rate * t.vtotal)
      (s.modHead i fun h => { h with regNext := h.regNext ++ [(k, r, due)] }).complete c stOk []

/-- Table 13.8, FORM 0. -/
def State.headWords (s : State) (i : Nat) : List Word :=
  let h := s.head i
  [ pack [fld 29 h.st, fld 28 (b2n h.fpend.isSome), fld 27 (b2n h.lpend.isSome), fld 26 (b2n h.uc.capture),
      fld 25 (b2n h.forced), fld 23 h.uc.plane, fld 8 h.clean, h.under],
    word h.frameCnt, word h.underruns, pack [fld 16 h.lateCommits, h.switches] ]

/-- DISP_QUERY (R433). -/
def layDispQuery (c : Cmd) : Layout :=
  let form := c.f 4 2 1
  { masks := [(4, if form = 0 then mk 2 0 else if form = 1 then mk 6 4 + mk 2 0 else mk 27 16 + mk 2 0)]
    enc := decide (form ≠ 3) }

def execDispQuery (c : Cmd) (s : State) : Host.Outcome State Fault Refusal :=
  .next <| s.runCmd c 0x0806 (layDispQuery c) true fun s =>
    let i := c.f 4 0 0
    if c.f 4 2 1 = 2 then
      let tid := c.f 4 27 16
      let x := s.source tid
      let g := s.gaz tid
      if g.state = gClosed then s.complete c stNotPresent []
      else if g.cls ≠ clsDisp ∨ g.ingress ≠ 7 ∨ (epSlice g.srcEp).isNone then s.complete c stBadParam []
      else s.complete c stOk [pack [fld 17 (b2n x.pend.isSome), fld 16 (b2n x.cfg.enable), x.frameSeq],
        word x.urgentRows, word x.readErrs, 0]
    else if !s.headPresent i then s.complete c stNotPresent []
    else if c.f 4 2 1 = 0 then s.complete c stOk (s.headWords i)
    else
      let r := (s.head i).regions.read Region.init (c.f 4 6 4)
      s.complete c stOk [r.pinCrc, r.expect, word r.mismatches, word r.crcFrame]

end Sys2Proof.Machine
end

