-- ==== Sys2Proof/Machine/Sideband.lean ====
section
/-! DEFINITION. The sideband conversation and the shared operations of the power paths: carrier, frames,
offers, the power stage, faults and loss of presence (Chapter 17; log entry 28). -/

namespace Sys2Proof.Machine

/-! ### Units -/

/-- Power path states (Table 17.5). -/
def pDetached : Nat := 0
def pAttaching : Nat := 1
def pNegotiating : Nat := 2
def pTransition : Nat := 3
def pContract : Nat := 4
def pSwap : Nat := 5
def pFault : Nat := 6
def pLatched : Nat := 7

/-- mV of a hub-side or cable-side sample, and of a KEEP sample (R510). -/
def adcMv (code : Nat) : Nat := code * 1125 / 64
def keepMv (code : Nat) : Nat := code * 1125 / 256

/-- A sample lies above a voltage in mV, compared with no rounding (R510). -/
def adcOver (code mv : Nat) : Bool := decide (mv * 64 < code * 1125)
def keepOver (code mv : Nat) : Bool := decide (mv * 256 < code * 1125)

/-- Nominal voltage of a VCODE, mV (Table 17.2). -/
def nominalMv (v : Nat) : Nat := if v = 1 then 12000 else if v = 2 then 24000 else if v = 3 then 48000 else 0

/-- The window of a VCODE, mV: Table 17.2, or the narrower one of the image (R516). -/
def PwrPol.window (q : PwrPol) (v : Nat) : Nat × Nat :=
  let (uv, ov) := if v = 1 then (9000, 16000) else if v = 2 then (18000, 32000) else if v = 3 then (36000, 60000) else (0, 0)
  match q.windows.find? fun e => decide (e.1 = v) with
  | some (_, u, o) => (max uv (10 * u), min ov (10 * o))
  | none => (uv, ov)

/-- The current of a sample, mA (R510). -/
def PwrPort.ma (x : PwrPort) : Nat := x.imeas * x.pol.iScale / 256

/-- imax of R528, mA. -/
def PwrPort.imax (x : PwrPort) : Nat := min (x.pol.portMax * 100) (x.icon * (100 + x.pol.iMargin))

/-- Safe-low: the cable side is below 0.8 V (R525). -/
def PwrPort.cableLow (x : PwrPort) : Bool := decide (adcMv x.vcab < 800)

/-- PG_x (R527). -/
def PwrPort.pg (x : PwrPort) : Bool := x.closed && decide (x.st = pContract) && x.qualified && !x.faultRun

/-- PDIS_x (R524, R526, R541). -/
def PwrPort.pdis (x : PwrPort) : Bool :=
  !x.closed && (decide (x.st ≤ pNegotiating ∨ pFault ≤ x.st) || x.discharge)

/-! ### Ports -/

def State.port (s : State) (p : Nat) : PwrPort := s.pwr.ports.read PwrPort.init p
def State.setPort (s : State) (p : Nat) (x : PwrPort) : State :=
  { s with pwr := { s.pwr with ports := s.pwr.ports.write PwrPort.init p x } }
def State.modPort (s : State) (p : Nat) (f : PwrPort → PwrPort) : State := s.setPort p (f (s.port p))

def PwrPort.sb (x : PwrPort) (l : Nat) : SbLink := if l = 0 then x.sb0 else x.sb1
def PwrPort.setSb (x : PwrPort) (l : Nat) (b : SbLink) : PwrPort := if l = 0 then { x with sb0 := b } else { x with sb1 := b }
def PwrPort.modSb (x : PwrPort) (l : Nat) (f : SbLink → SbLink) : PwrPort := x.setSb l (f (x.sb l))

/-- The auxiliary island runs the port's sideband: powered, out of reset, not Dormant, port enabled (R60). -/
def State.sbOn (s : State) (p : Nat) : Bool :=
  !s.ret.inReset && decide (s.ret.mode ≠ .dormant) && s.portEnabled p

/-- The port carries main power and KEEP at this end: not the far end of a second link (R18). -/
def State.pwrOn (s : State) (p : Nat) : Bool := s.sbOn p && !(s.upPort p && decide ((s.port p).pol.linkNo = 1))

/-- The hub drives carrier on the port (R64). -/
def State.drives (s : State) (p : Nat) : Bool :=
  s.sbOn p &&
    (s.coreOn ||
      (if s.upPort p then (s.port p).sb0.carrier
       else s.ret.runReq || decide ((s.port p).vcode ≠ 0)))

/-- Which conversation a frame belongs to (R518). -/
def State.sbIndex (s : State) (p : Nat) (f : SbFrame) : Option Nat :=
  if s.portSplit p then (if f.link < 2 then some f.link else none)
  else if s.upPort p then (if f.link = (s.port p).pol.linkNo then some 0 else none)
  else if f.link = 0 then some 0 else none

/-- The link code of a port's conversation (Table 1.2). -/
def sbLinkCode (p l : Nat) : Nat := if p = 0 then 0 else 2 * p - 1 + l

/-! ### Frames -/

/-- The bytes of a frame: Table 17.3 and its CRC, low byte first (R517). -/
def sbBytes (f : SbFrame) : List Byte :=
  let bs := BitVec.ofNat 8 f.typ :: BitVec.ofNat 8 (fld 7 f.link + fld 6 (b2n f.df) + fld 4 f.rsv + f.payload.length)
    :: BitVec.ofNat 8 (fld 4 f.msgid + f.ackid) :: f.payload
  bs ++ leBytes 2 (crc16 bs)

/-- The line of a frame half a cell at a time: the delimiter, then Manchester code, least significant bit first; a 1 rises at
mid-cell (R517). -/
def sbLine (f : SbFrame) : List Bool :=
  [true, true, false, false] ++ (sbBytes f).flatMap fun b => (List.range 8).flatMap fun i => [!b.getLsbD i, b.getLsbD i]

/-- A frame goes out on the line of a conversation (R517). -/
def State.sbSend (s : State) (p link : Nat) (f : SbFrame) : State := s.emit (.sideband p link f (sbLine f))

/-- A frame queued for its turn. -/
def SbLink.push (b : SbLink) (typ : Nat) (payload : List Byte) : SbLink :=
  { b with queue := b.queue ++ [{ typ := typ, payload := payload }] }

def State.sbPush (s : State) (p l typ : Nat) (payload : List Byte) : State :=
  s.modPort p fun x => x.modSb l fun b => b.push typ payload

/-- The KEEP policy of the port is not OFF; none without a retained policy (R514, R515). -/
def PwrPort.keepWanted (x : PwrPort) : Bool := x.pol.given && decide (x.pol.keepPol ≠ 0)

/-- IDENT of a port's link (Table 17.4). -/
def State.sbIdent (s : State) (p l : Nat) : List Byte :=
  let x := s.port p
  leBytes 8 s.nv.unitId.toNat ++ leBytes 4 s.board.imgVer.toNat
    ++ [ BitVec.ofNat 8 (s.role + fld 2 (b2n s.psrc) + fld 3 (b2n s.fsEn) + fld 4 (b2n (x.pol.given && x.pol.blk))
           + fld 5 (b2n s.coreOn) + fld 6 (b2n x.keepWanted)),
         BitVec.ofNat 8 (s.board.classes.read 0 (sbLinkCode p l)) ]

/-- IDENT queued; one still waiting is replaced (R522). -/
def State.pushIdent (s : State) (p l : Nat) : State :=
  let pl := s.sbIdent p l
  s.modPort p fun x => x.modSb l fun b =>
    if b.carrier then { b with queue := b.queue.filter fun f => decide (f.typ ≠ 1) }.push 1 pl else b

/-- IDENT again on every conversation, after a field has changed (R522). -/
def State.pushIdents (s : State) : State :=
  [(0, 0), (1, 0), (1, 1), (2, 0), (2, 1)].foldl (fun s q => s.pushIdent q.1 q.2) s

/-! ### Events and the log -/

/-- Status of a PWR_EVENT reason (Table 17.9). -/
def pwrEventStatus (r : Nat) : Nat :=
  if r = 4 then 0x12 else if r = 5 ∨ r = 6 ∨ r = 0x0C then 0x11 else if r = 7 then 0x0E
  else if r = 9 then 0x0C else if r = 0x0B then 0x0A else if r = 0x0D then 0x0B else 0

/-- VCABLE and IMEAS in 10 mV and 10 mA (R549, Table 17.7). -/
def PwrPort.w1 (x : PwrPort) : Word := pack [fld 16 (adcMv x.vcab / 10), min (x.ma / 10) 65535]

/-- A log entry for an event at this instant (R549). -/
def State.pwrLogEnt (s : State) (p reason : Nat) : PwrLogEnt :=
  let x := s.port p
  let dt := s.coreOn && decide (s.time.st ≠ .unset)
  let us := s.uptime / 400
  { w0 := pack [fld 24 reason, fld 16 x.cause, fld 13 x.st, fld 11 p, fld 10 (b2n dt)]
    w1 := x.w1
    w2 := if dt then compactNs s.nowNs else word us
    w3 := if dt then compactSec s.nowNs else word (us / 2 ^ 32) }

/-- The retry count: a loss of presence of at least 50 ms clears it (R531). -/
def State.retries (s : State) (p : Nat) : Nat :=
  let x := s.port p
  match x.lostAt with
  | some t => if t + 20000000 ≤ s.uptime then 0 else x.retries
  | none => x.retries

/-- An event: logged, and reported while the core runs (R542, R549, R550). -/
def State.pwrEvent (s : State) (p reason value : Nat) : State :=
  let x := s.port p
  let s := { s with pwr := { s.pwr with log := (s.pwrLogEnt p reason :: s.pwr.log).take 128 } }
  s.reportMgmt 0x0C (pwrEventStatus reason) p
    [ pack [ reason, fld 8 x.cause, fld 16 x.st, fld 19 x.role, fld 21 (b2n x.keepEn), fld 22 x.vcode, fld 24 (s.retries p) ],
      x.w1, word value, 0 ]

/-! ### Commands of the ports -/

/-- The words of Table 17.7. -/
def PwrPort.words (x : PwrPort) : List Word :=
  [ pack [ fld 29 x.st, fld 27 x.role, fld 25 x.keepRole, fld 24 (b2n x.pg), fld 23 (b2n x.armed), fld 22 (b2n x.keepEn),
      fld 20 x.vcode, fld 18 x.retries, fld 17 (b2n x.faultRun), fld 16 (b2n x.keepLatch), x.icon ],
    pack [fld 16 (adcMv x.vcab / 10), adcMv x.vhub / 10],
    pack [fld 16 (min (x.ilim / 10) 65535), min (x.ma / 10) 65535],
    pack [fld 24 x.cause, fld 16 (min (keepMv x.vkeep / 100) 255), if x.role = 2 then 0 else x.convVout] ]

/-- The words of Table 17.7 of a port now. -/
def State.portWords (s : State) (p : Nat) : List Word := PwrPort.words { s.port p with retries := s.retries p }

/-- The PWR_CONTRACT waiting on the port completes (R545). -/
def State.endContract (s : State) (p st : Nat) : State :=
  match (s.port p).cmd with
  | some c => (s.modPort p fun x => { x with cmd := none }).complete c st (s.portWords p)
  | none => s

/-- The PWR_SWAP waiting on the port completes (R546). -/
def State.endSwapCmd (s : State) (p st : Nat) : State :=
  match (s.port p).swapCmd with
  | some c => (s.modPort p fun x => { x with swapCmd := none }).complete c st []
  | none => s

/-- A PWR_SWAP that waits for arming completes as something disarms the port. DESIGN CHOICE: with DENIED (R538, R546; log entry
28). -/
def State.endArm (s : State) (p : Nat) : State :=
  match (s.port p).swapCmd with
  | some c => if c.f 4 4 3 = 1 then s.endSwapCmd p stDenied else s
  | none => s

/-! ### Converter -/

/-- A PMBus transaction of the port's converter (R534). -/
def State.pmbus (s : State) (p op value : Nat) : State :=
  let q := (s.port p).pol
  if q.given ∧ q.pmbus ≠ 0 then s.emit (.pmbus p q.pmbus op value) else s

/-- OPERATION, VOUT_COMMAND, READ_VOUT, READ_IOUT and STATUS_WORD (PMBus 1.3; log entry 28). -/
def pmbOperation : Nat := 0x01
def pmbVout : Nat := 0x21
def pmbReadVout : Nat := 0x8B
def pmbReadIout : Nat := 0x8C
def pmbStatus : Nat := 0x79
def pmbOn : Nat := 0x80

/-- OPERATION written (R534). -/
def State.convOperate (s : State) (p op : Nat) : State :=
  (s.modPort p fun x => { x with convOp := op }).pmbus p pmbOperation op

/-- The converter is commanded to its idle setting (R526). -/
def State.convIdle (s : State) (p : Nat) : State :=
  (s.modPort p fun x => { x with convV := 0, convTgt := 0 }).convOperate p (s.port p).pol.idleOp

/-- The converter is turned on toward a contract voltage (R534, R535). -/
def State.convStart (s : State) (p v : Nat) : State :=
  let s := s.modPort p fun x => { x with convTgt := nominalMv v }
  if (s.port p).convOp = pmbOn then s else s.convOperate p pmbOn

/-- VOUT_COMMAND in LINEAR16 with the image's exponent (R534). -/
def voutCode (mv : Nat) (e : Int) : Nat :=
  (if 0 ≤ e then mv / (1000 * 2 ^ e.toNat) else mv * 2 ^ (-e).toNat / 1000) % 65536

/-! ### The power stage -/

/-- Fast swap is disarmed at this end (R538). -/
def PwrPort.disarm (x : PwrPort) : PwrPort := { x with armTx := false, armRx := false, armed := false }

/-- The path opens; a source then discharges the cable (R509, R525, R526). -/
def PwrPort.openPath (x : PwrPort) : PwrPort :=
  { x.disarm with
    closed := false, safeLow := x.cableLow, insOk := false, qualified := false, faultRun := false, faultAt := 0, insAt := 0, inLimit := false,
    fsHub := false, discharge := decide (x.role = 1) }

/-- The path closes; qualification starts (R509, R527). -/
def PwrPort.closePath (x : PwrPort) : PwrPort := { x with closed := true, discharge := false, qualified := false, insAt := 0 }

/-- A contract, negotiation or swap is forgotten; a changed policy that waited for its end applies (R547). -/
def PwrPort.clearContract (x : PwrPort) : PwrPort :=
  { x.disarm with
    pol := x.pendPol.getD x.pol, pendPol := none,
    vcode := 0, icon := 0, psRdy := false, qualified := false, conRep := false, reqV := 0, reqI := 0,
    swapRes := none, swapIn := none, swapNew := false, fast := false, lastType := 0, changing := false }

/-- Safe with the open power policy (R77). -/
def State.safeOpen (s : State) : Bool :=
  decide (s.ret.mode = .safe) && !(s.board.applied && (match s.ret.policy with | some q => q.safeHold | none => false))

/-- Safe with the hold power policy (R77). -/
def State.safeHolds (s : State) : Bool := decide (s.ret.mode = .safe) && !s.safeOpen

/-- The window that the supply side must hold for the contract (R516, R525). -/
def PwrPort.inWindow (x : PwrPort) (code : Nat) : Bool :=
  let (u, o) := x.pol.window x.vcode
  decide (x.vcode ≠ 0 ∧ u ≤ adcMv code) && !adcOver code o

/-- The side from which power will flow: the hub side of a source, the cable side of a sink (R525). -/
def PwrPort.supplyOk (x : PwrPort) : Bool := if x.role = 1 then x.inWindow x.vhub else x.inWindow x.vcab

/-- The path closes when insertion, safe-low and, at a sink, PS_RDY allow it (R524, R525). -/
def State.tryClose (s : State) (p : Nat) : State :=
  let x := s.port p
  if x.closed ∨ !x.insOk ∨ x.lostSt.isSome ∨ s.safeOpen then s
  else if x.role = 1 ∧ (x.st = pTransition ∨ (x.st = pSwap ∧ x.swapNew ∧ x.psRdy)) ∧ x.cableLow ∧ !x.discharge then
    s.setPort p x.closePath
  else if x.role = 2 ∧ x.st = pContract ∧ x.safeLow ∧ x.psRdy then s.setPort p x.closePath
  else s

/-- The offers in force: VCODE and IMAX, in ascending VCODE (R512, R521). -/
def PwrPol.offerList (q : PwrPol) : List (Nat × Nat) :=
  if q.given then [(1, q.offers.i12), (2, q.offers.i24), (3, q.offers.i48)].filter fun o => decide (o.2 ≠ 0) else []

/-- The policy in force for new offers: a changed one that an existing contract has not met yet counts (R547). -/
def PwrPort.polNew (x : PwrPort) : PwrPol := x.pendPol.getD x.pol

/-- FSOK at this end: FS_EN in effect and BLK declared (R521, R538). -/
def State.fsOk (s : State) (p : Nat) : Bool := s.fsEn && (s.port p).pol.given && (s.port p).pol.blk

/-- The port may sink (R512, R515). -/
def State.maySink (s : State) (p : Nat) : Bool :=
  let q := (s.port p).polNew
  if q.given then decide (q.sinkMax ≠ 0) else s.upPort p

/-- SRC_CAPS from the offers in force (R521). -/
def State.pushCaps (s : State) (p : Nat) : State :=
  let os := (s.port p).polNew.offerList
  let s := s.modPort p fun x => { x with ownCaps := os, resend := false }
  s.sbPush p 0 0x10 ((BitVec.ofNat 8 (os.length + fld 3 (b2n (s.fsOk p)) + fld 4 (b2n (s.maySink p)))) ::
    os.flatMap fun o => leBytes 2 (fld 14 o.1 + o.2))

/-- A source in ATTACHING whose insertion conditions are met sends SRC_CAPS (R523, R525; log entry 28). -/
def State.tryCaps (s : State) (p : Nat) : State :=
  let x := s.port p
  if x.st = pAttaching ∧ x.role = 1 ∧ x.lostSt = none ∧ !x.noReq ∧ !x.resend ∧ x.cableLow ∧ !x.discharge
      ∧ x.pol.offerList ≠ [] ∧ s.ret.mode ≠ .safe then
    (s.modPort p fun x => { x with st := pNegotiating }).pushCaps p
  else s

/-! ### KEEP -/

/-- KEEP should be on: the policy, the mode, this end's role and no fault (R514, R537). -/
def State.keepWant (s : State) (p : Nat) : Bool :=
  let x := s.port p
  s.pwrOn p && x.keepWanted && !s.safeOpen && !x.keepLatch && !x.keepFault && decide (x.swapIn ≠ some 1)
    && (if x.sb0.attached then decide (x.keepRole = 1) else !s.upPort p)
    && (decide (x.pol.keepPol = 2) || s.drives p)

/-- KEEP follows its policy; it turns on only below 1 V (R514). -/
def State.keepUpdate (s : State) (p : Nat) : State :=
  let x := s.port p
  let want := s.keepWant p
  if x.keepEn ∧ !want ∧ x.swapIn ≠ some 1 then s.setPort p { x with keepEn := false }
  else if !x.keepEn ∧ want ∧ !keepOver x.vkeep 1000 then s.setPort p { x with keepEn := true }
  else s

/-! ### Attach, faults and loss of presence -/

/-- A DETACHED port whose link is attached enters ATTACHING with the roles of R513 to R515. -/
def State.attachPower (s : State) (p : Nat) : State :=
  let x := s.port p
  if !s.pwrOn p ∨ x.st ≠ pDetached ∨ !x.sb0.attached then s
  else
    let src := !s.upPort p && s.psrc && decide (x.pol.offerList ≠ [])
    let far : Bool := match x.sb0.ident with | some i => i.keepSrc | none => false
    let keep := if x.keepWanted && (!s.upPort p || !far) then 1 else if far then 2 else 0
    let s := s.setPort p { x with
      st := pAttaching, role := if src then 1 else 2, keepRole := keep, safeLow := x.cableLow, insOk := false,
      noReq := false, resend := false, caps := [], ownCaps := [] }
    let unit := match x.sb0.ident with | some i => i.unit.toNat % 2 ^ 32 | none => 0
    ((s.pwrEvent p 1 unit).tryCaps p).keepUpdate p

/-- The port returns to ATTACHING with its path open (R523, R533). -/
def State.backToAttaching (s : State) (p : Nat) : State :=
  let x := s.port p
  let src := decide (x.role = 1)
  let s := s.setPort p { x.openPath.clearContract with st := pAttaching }
  if src then s.convIdle p else s

/-- A fault at this end: the path opens, GOODBYE goes, and the port enters FAULT or LATCHED (R531). -/
def State.powerFault (s : State) (p cause reason : Nat) : State :=
  let x := s.port p
  if x.st = pDetached ∨ x.st = pLatched ∨ (x.st = pFault ∧ x.retries < 3) then s.modPort p fun x => { x with cause := cause }
  else
    let latch := decide (3 ≤ x.retries)
    let s := s.setPort p { x.openPath.clearContract with
      st := if latch then pLatched else pFault, retries := min 3 (x.retries + 1), cause := cause, retryAt := s.uptime + 1,
      lastV := if x.vcode ≠ 0 then x.vcode else x.lastV }
    let s := (s.sbPush p 0 0x17 [BitVec.ofNat 8 reason]).convIdle p
    let s := if latch then s.pwrEvent p 6 0 else s.pwrEvent p 5 (x.pol.retry10 * 10)
    (s.endContract p stTimeout).endSwapCmd p stTimeout

/-- Presence is lost on a port (R541): the path opens, KEEP turns off, and DETACHED follows the discharge. -/
def State.presenceLost (s : State) (p : Nat) : State :=
  let x := s.port p
  if x.st = pLatched then s
  else
    let s :=
      if x.st = pDetached ∨ x.lostSt.isSome then s
      else
        let s := s.setPort p { x.openPath.clearContract with
          lostSt := some x.st, discharge := true, lastV := if x.vcode ≠ 0 then x.vcode else x.lastV }
        let s := if x.role = 1 ∨ x.closed then s.convIdle p else s
        let s := if x.closed then s.pwrEvent p 0x0B x.st else s
        (s.endContract p stLinkLost).endSwapCmd p stLinkLost
    s.modPort p fun x => { x with
      keepEn := x.keepEn && x.keepWanted && decide (x.pol.keepPol = 2)
      keepRole := 0, swapLost := none, resend := false, noReq := false }

/-- The carrier of a conversation is lost: the conversation starts anew (R519, R541). -/
def State.sbLost (s : State) (p l : Nat) : State :=
  let s := s.modPort p fun x => (x.setSb l SbLink.init)
  if l = 0 then (s.modPort p fun x => { x with lostAt := some s.uptime }).presenceLost p else s

/-! ### Acknowledgements and receipt -/

/-- Arming is complete: both ends have sent FS_ARM and had it acknowledged (R538). -/
def State.tryArm (s : State) (p : Nat) : State :=
  let x := s.port p
  let far : Bool := match x.sb0.ident with | some i => i.fsEn && i.blk | none => false
  if x.st = pContract ∧ x.vcode = 3 ∧ s.fsOk p ∧ far ∧ x.capsFsOk ∧ x.armTx ∧ x.armRx ∧ (x.role = 1 ∨ x.fsHub) ∧ !x.armed then
    (s.setPort p { x with armed := true }).endSwapCmd p stOk
  else s

/-- What the acknowledgement of a frame brings (R519, R520, R522, R538, R545). -/
def State.acked (s : State) (p l : Nat) (f : SbFrame) : State :=
  if f.typ = 1 then s.modPort p fun x => x.modSb l fun b => { b with identTx := true }
  else if l ≠ 0 then s
  else if f.typ = 0x10 then
    let s := s.modPort p fun x => { x with lastType := 0x10, lastMsg := f.msgid }
    match (s.port p).cmd with
    | some c => if c.f 4 3 2 = 1 then s.endContract p stOk else s
    | none => s
  else if f.typ = 0x11 ∨ f.typ = 0x15 then s.modPort p fun x => { x with lastType := f.typ, lastMsg := f.msgid }
  else if f.typ = 0x16 then
    (s.modPort p fun x => { x with armTx := decide (f.payload.headD 0 ≠ 0) }).tryArm p
  else s

/-- A valid frame of a conversation ends: carrier is held (R519). -/
def State.sbHeld (s : State) (p l : Nat) : State :=
  if ((s.port p).sb l).carrier then s
  else
    let back : Bool := match (s.port p).lostAt with | some t => decide (t + 20000000 ≤ s.uptime) | none => false
    let s := s.modPort p fun x => { x.modSb l fun b => { b with carrier := true } with
      retries := if l = 0 ∧ back then 0 else x.retries
      lostAt := if l = 0 then none else x.lostAt }
    s.pushIdent p l

/-- A valid frame is discarded without acknowledgement: it holds carrier and does no more (R517, R519, R521). -/
def State.sbDiscard (s : State) (p : Nat) (f : SbFrame) : State :=
  if !s.sbOn p ∨ !f.sound then s else match s.sbIndex p f with | some l => s.sbHeld p l | none => s

/-- A valid frame ends: carrier is held, an acknowledged frame leaves, and a frame not accepted before is
accepted (R519, R520). The second part is the conversation of a frame to act on. -/
def State.sbReceive (s : State) (p : Nat) (f : SbFrame) : State × Option Nat :=
  if !s.sbOn p then (s, none)
  else
    match s.sbIndex p f with
    | none => (s, none)
    | some l =>
      let s := s.sbHeld p l
      let b := (s.port p).sb l
      let s := match b.outst with
        | some o => if o.msgid = f.ackid then (s.modPort p fun x => x.modSb l fun b => { b with outst := none }).acked p l o else s
        | none => s
      let b := (s.port p).sb l
      if f.typ = 0 ∨ f.msgid = 0 ∨ f.msgid = b.ackid then (s, none)
      else (s.modPort p fun x => x.modSb l fun b => { b with ackid := f.msgid }, some l)

/-- A frame is valid and well formed: TYPE, MSGID, no reserved bit, and the length its type gives (R517, R521). -/
def sbOk (f : SbFrame) (typ len : Nat) : Bool :=
  f.sound && decide (f.typ = typ ∧ f.payload.length = len ∧ f.msgid < 16 ∧ f.ackid < 16 ∧ f.rsv = 0 ∧ (f.msgid = 0 ↔ typ = 0))

/-- A payload byte. -/
def sbByte (f : SbFrame) (i : Nat) : Nat := ((f.payload[i]?).getD 0).toNat

/-- A power or KEEP message: received on link 0 of a port that carries power, and acted on unless the port waits
for its discharge after a loss (R518, R541). -/
def State.pwrFrame (s : State) (p : Nat) (f : SbFrame) (good : Bool) (act : State → State) : State :=
  if !good ∨ !s.pwrOn p ∨ f.link ≠ 0 then s.sbDiscard p f
  else
    match s.sbReceive p f with
    | (s, none) => s
    | (s, some _) => if (s.port p).lostSt.isSome then s else act s

/-! ### Turns -/

/-- SIDEBAND_TURN (R518, R520, R642): the next frame of the port's next conversation. -/
def effSidebandTurn (port : Nat) (s : State) : State :=
  let x := s.port port
  if !s.drives port then s
  else
    let split := s.portSplit port
    let l := if split ∧ x.turn1 then 1 else 0
    let s := s.setPort port { x with turn1 := split && !x.turn1 }
    let link := if s.upPort port then x.pol.linkNo else l
    let b := x.sb l
    let fin (f : SbFrame) : SbFrame := { f with link := link, df := !s.upPort port, ackid := b.ackid }
    match b.outst with
    | some f => s.sbSend port link (fin f)
    | none =>
      let key := 2 * port + l
      let wake := decide (s.ret.mode = .sentry) && s.ret.runReq && !s.upPort port && b.carrier && !s.ret.wakeSent.contains key
      let b := if wake then b.push 3 [] else b
      let s := if wake then { s with ret := { s.ret with wakeSent := key :: s.ret.wakeSent } } else s
      match b.queue with
      | [] => s.sbSend port link (fin {})
      | f :: rest =>
        let m := if b.msgid = 15 then 1 else b.msgid + 1
        let f := fin { f with msgid := m }
        (s.modPort port fun x => x.setSb l { b with queue := rest, outst := some f, msgid := m }).sbSend port link f

def execSidebandTurn (port : Nat) (s : State) : Host.Outcome State Fault Refusal := .next (effSidebandTurn port s)

/-- IDLE_FRAME (R519 to R521). -/
def effIdleFrame (port : Nat) (f : SbFrame) (s : State) : State :=
  if sbOk f 0 0 then (s.sbReceive port f).1 else s.sbDiscard port f

def execIdleFrame (port : Nat) (f : SbFrame) (s : State) : Host.Outcome State Fault Refusal := .next (effIdleFrame port f s)

/-- An exchange of a port's power conversation has failed (R520, R522, R545, R546). -/
def State.exchangeFailed (s : State) (p typ : Nat) : State :=
  let x := s.port p
  if typ = 0x10 ∨ typ = 0x11 then
    let s := s.setPort p { x with
      st := if x.st = pNegotiating then pAttaching else x.st
      resend := x.resend || (decide (x.st = pNegotiating) && decide (x.role = 1))
      lastType := 0, reqV := 0, reqI := 0 }
    s.endContract p stTimeout
  else if typ = 0x15 then (s.setPort p { x with swapRes := none, lastType := 0 }).endSwapCmd p stTimeout
  else if typ = 0x16 then s.endSwapCmd p stTimeout
  else s

/-- SIDEBAND_EXCHANGE_TIMEOUT (R520): 2 ms without an acknowledgement. -/
def effSidebandExchangeTimeout (port link : Nat) (s : State) : State :=
  if !s.sbOn port ∨ 1 < link then s
  else
    match ((s.port port).sb link).outst with
    | none => s
    | some f =>
      let s := s.modPort port fun x => x.modSb link fun b => { b with outst := none }
      if link = 0 then s.exchangeFailed port f.typ else s

def execSidebandExchangeTimeout (port link : Nat) (s : State) : Host.Outcome State Fault Refusal :=
  .next (effSidebandExchangeTimeout port link s)

end Sys2Proof.Machine
end

