-- ==== Sys2Proof/Machine/LinkOps.lean ====
section
/-! DEFINITION. Shared operations of a hitch link: its state and events, equalisation entries, rate agreement
and training attempts, announced retrains, credits, acknowledgement and replay (Chapters 5 and 6;
log entries 31 and 32). -/

namespace Sys2Proof.Machine

/-! ### State and events -/

/-- State codes of Table 6.4. -/
def Link.code (k : Link) : Nat :=
  match k.st with
  | .down => 0
  | .survey => 1
  | .up => if k.lane.txDoze ≠ .awake then 3 else if k.lane.rxDoze ≠ .awake then 4 else 2
  | .retrain => 5

/-- A link counter by group and index, saturating (Table 6.9). -/
def Link.bump (k : Link) (group idx : Nat) : Link :=
  { k with counters := k.counters.mod 0 (8 * group + idx) fun n => satAdd 16 n 1 }

/-- The TAG that a LINK_STATE carries: of the command under way, or of the link command whose retrain this is (R387). -/
def State.linkTag (s : State) (l cause : Nat) : Nat :=
  if s.host.cause ≠ 0 then s.host.cause
  else
    match (s.link l).lane.linkCmd with
    | c :: _ => if cause = 0 ∨ cause = 5 then c.tag else 0
    | [] => 0

/-- LINK_STATE to the management slice and every slice granted the link (R182, R183). -/
def State.linkEvent (s : State) (l old new status : Nat) (epNew epEnd : Bool) (cause : Nat) : State :=
  let k := s.link l
  let ws := [ pack [ fld 29 new, fld 26 old, fld 25 (b2n epNew), fld 24 (b2n epEnd), fld 20 k.lane.cls, fld 16 k.lane.rate,
      fld 8 k.gen.toNat, fld 3 (if k.st = .down then 0 else k.lane.width), l ],
    pack [fld 24 k.epoch.toNat, fld 16 cause],
    if k.pKnown then word k.pUnit.toNat else 0, if k.pKnown then word (k.pUnit.toNat / 2 ^ 32) else 0 ]
  s.causedBy (s.linkTag l cause) fun s => s.host.grants.foldl (fun s g =>
    if g.kind = 0 ∧ g.index = l ∧ !(decide (g.hub = s.mgmtHub ∧ g.slice = 0)) then s.report g.hub g.slice 2 status l ws else s)
    (s.reportMgmt 2 status l ws)

/-- LINK_QUERY words (Table 6.8). -/
def State.linkWords (s : State) (l : Nat) : List Word :=
  let k := s.link l
  [ pack [ fld 29 k.code, fld 28 (b2n (decide (k.st = .up ∧ k.lane.txDoze ≠ .awake))),
      fld 27 (b2n (decide (k.st = .up ∧ k.lane.rxDoze ≠ .awake))), fld 26 (b2n k.sealKey.isSome), fld 20 k.lane.cls, fld 16 k.lane.rate,
      fld 8 k.gen.toNat, fld 3 (if k.st = .down then 0 else k.lane.width), l ],
    pack [ fld 24 k.epoch.toNat, if k.pKnown then fld 16 k.pCfgGen.toNat else 0, if k.pKnown then fld 6 (b2n k.pUpf) else 0,
      if k.pKnown then fld 5 (b2n k.pHub.isSome) + k.pHub.getD 0 else 0 ],
    if k.pKnown then word k.pUnit.toNat else 0, if k.pKnown then word (k.pUnit.toNat / 2 ^ 32) else 0 ]

/-- Words of Table 5.11. DESIGN CHOICE: RATELIM is 00b while no rate-fallback limit is in effect (log entry 52). -/
def State.rateWords (s : State) (l : Nat) : List Word :=
  let k := s.link l
  [ pack [fld 20 k.lane.cls, fld 16 k.lane.rate, fld 8 k.gen.toNat, fld 3 (if k.st = .down then 0 else k.lane.width), l],
    pack [fld 4 k.lane.polInv.toNat, fld 2 (b2n k.lane.reversed), k.lane.fallback.getD 0] ]

/-- The LINK_RATE and LINK_RETRAIN commands waiting on the link complete (R140, R141, R177). -/
def State.endLinkCmd (s : State) (l st : Nat) : State :=
  (s.link l).lane.linkCmd.foldl (fun s c => s.complete c st (s.rateWords l))
    (s.modLink l fun k => { k with lane := { k.lane with linkCmd := [] } })

/-! ### Equalisation -/

/-- Index of an entry (R116). -/
def eqIndex (port rate cls : Nat) : Nat := port * 64 + rate * 16 + cls

/-- The built-in entry of a rate (Table 5.4). -/
def eqBuiltin (rate : Nat) : EqEntry :=
  if rate = 3 then { EqEntry.init with valid := true, main := 160 }
  else if rate = 2 then { EqEntry.init with valid := true, main := 160, post := 20, ctle := 4, dfe1 := 8 }
  else EqEntry.init

/-- An entry of the working table: the override, the image's record or the built-in one (R119, R146). -/
def State.eqEntry (s : State) (i : Nat) : EqEntry :=
  if s.board.eqOverKeys.contains i then s.board.eqOver.read EqEntry.init i
  else if s.board.eqRecord then s.board.eqImage.read EqEntry.init i
  else eqBuiltin (i / 16 % 4)

/-- R118. -/
def EqEntry.usable (e : EqEntry) : Bool := e.valid && decide (e.pre + e.post < e.main ∧ e.pre + e.main + e.post ≤ 255)

/-- An entry from its 64 bits (Table 5.3). -/
def eqOfNat (n : Nat) : EqEntry :=
  { valid := bit n 63, dfe1 := BitVec.ofNat 8 (bits n 55 48), dfe2 := BitVec.ofNat 8 (bits n 47 40),
    dfe3 := BitVec.ofNat 8 (bits n 39 32), ctle := bits n 27 24, pre := bits n 23 18, main := bits n 17 10, post := bits n 9 4 }

/-- The combined class: near plus far, at most 15 (R115). -/
def State.combCls (s : State) (l : Nat) : Nat := min 15 (s.board.classes.read 0 l + (s.link l).lane.farCls)

/-- An entry of the link at a rate is usable. -/
def State.eqOk (s : State) (l rate : Nat) : Bool := (s.eqEntry (eqIndex (linkPort l) rate (s.combCls l))).usable

/-- The highest usable rate not above a limit (R121); rates fall as codes rise. -/
def State.bestRate (s : State) (l limit : Nat) : Option Nat :=
  (List.range 4).find? fun r => decide (limit ≤ r) && s.eqOk l r

/-- The limits of R121 together. -/
def State.rateLimit (s : State) (l : Nat) : Nat :=
  let x := (s.link l).lane
  max s.laneMax (max (x.rateLim.getD 0) (x.fallback.getD 0))

/-! ### Agreement and training -/

/-- The conversation of a link on its port. -/
def linkConv (l : Nat) : Nat := if l = 2 ∨ l = 4 then 1 else 0

/-- The lanes of a link that has gone DOWN (R136, R181). -/
def Link.lanesDown (k : Link) : Link :=
  { k with
    identTx := false, identRx := false, timerHeld := false
    lane := { k.lane with
      phase := .idle, txDoze := .awake, rxDoze := .awake, txWaking := false, rxWaking := false, los := false, fails := 0 } }

/-- A link that may not train: from SURVEY it goes DOWN; one that is DOWN stays so, which is reported once until re-armed
(R14, R121, R181, R182). -/
def State.noTrain (s : State) (l status cause : Nat) (rep : Link → Bool) (mark : Link → Link) : State :=
  let k := s.link l
  if k.st = .survey then
    (s.modLink l fun k => mark { (k.lanesDown) with st := .down, epochHeld := false }).linkEvent l 1 0 status false false cause
  else if k.st ≠ .down ∨ rep k then s
  else (s.modLink l mark).linkEvent l 0 0 status false false cause

/-- DENIED (R14, R182). -/
def State.noteDenied (s : State) (l : Nat) : State :=
  s.noTrain l stDenied 8 (fun k => k.deniedRep) fun k => { k with deniedRep := true }

/-- LIMIT (R121, R182). -/
def State.noteLimit (s : State) (l : Nat) : State :=
  s.noTrain l stLimit 9 (fun k => k.limitRep) fun k => { k with limitRep := true }

/-- DENIED and LIMIT may be reported again: the far end's IDENT, the equalisation table or a limit of R121 has changed, or
presence was lost (R182). -/
def Link.rearm (k : Link) : Link := { k with deniedRep := false, limitRep := false }

/-- The settings that Survey entry reads from the image are known: one has been applied, neither slot holds one, or BOOT asks
for none (R15, R37, R68; log entry 48). -/
def State.boardRead (s : State) : Bool := s.board.applied || s.board.noImage || decide (2 ≤ s.boot)

/-- RATE for the attempt under way, under a limit (R14, R15, R121, R127, R522, R642). -/
def State.sendRate (s : State) (l limit : Nat) (announce : Bool) : State :=
  let k := s.link l
  let b := (s.port (linkPort l)).sb (linkConv l)
  if !s.coreOn ∨ !s.boardRead ∨ !s.linkPresent l ∨ !b.attached ∨ k.lane.pattern.pat ≠ 0 ∨ k.lane.roundWait then s
  else if k.lane.sbUpf = s.upLink l then s.noteDenied l
  else
    match s.bestRate l (max limit (s.rateLimit l)) with
    | none => s.noteLimit l
    | some r =>
      if k.st ≠ .retrain ∧ k.st ≠ .up ∧ !s.eqOk l 3 then s.noteLimit l
      else
        let w := s.linkLanes l
        (s.modLink l fun k => { k with lane := { k.lane with propSent := true, ownProp := r } }).sbPush (linkPort l) (linkConv l) 2
          [BitVec.ofNat 8 (r + fld 2 w + fld 5 (b2n announce)), BitVec.ofNat 8 k.lane.attempt]

/-- A new attempt begins: the next ATTEMPT number, and this end's RATE (R121, R125). -/
def State.newAttempt (s : State) (l limit : Nat) (announce : Bool) : State :=
  (s.modLink l fun k => { k with lane := { k.lane with
    attempt := (k.lane.attempt + 1) % 256, farProp := none, propSent := false, phase := .idle } }).sendRate l limit announce

/-- Sideband agreement reached: the attempt starts, or this end lowers its proposal (R121, R122, R124, R181). -/
def State.agree (s : State) (l : Nat) : State :=
  let k := s.link l
  match k.lane.farProp with
  | none => s
  | some far =>
    let r := max k.lane.ownProp far
    if !k.lane.propSent ∨ k.lane.phase ≠ .idle ∨ k.st = .up ∨ k.lane.roundWait then s
    else if !s.eqOk l r then
      match s.bestRate l (max (r + 1) (s.rateLimit l)) with
      | some r' => s.newAttempt l r' (decide (k.st = .retrain))
      | none => s.noteLimit l
    else
      let rate := if k.st = .retrain then r else 3
      let cls := s.combCls l
      let w := min (s.linkLanes l) k.lane.farWidth
      let s := s.modLink l fun k => { k with
        st := if k.st = .down then .survey else k.st
        identRx := false, identTx := false, fcLoRx := false, fcHiRx := false, timerHeld := false
        lane := { k.lane with
          phase := .pll, rate := rate, cls := cls, width := w, agreedWidth := w,
          eq := s.eqEntry (eqIndex (linkPort l) rate cls), locked := 0, viols := [], polInv := 0, reversed := false, upperPair := false,
          txDoze := .awake, rxDoze := .awake, txWaking := false, rxWaking := false, los := false } }
      if k.st = .down then s.linkEvent l 0 1 stOk false false 0 else s

/-- A training attempt fails; the failures counted are those at one rate. A round at Survey rate reports TIMEOUT with SURVEY as
its state (R125, R126, R182). DESIGN CHOICE: a LINK_RATE or LINK_RETRAIN whose retrain fails so completes with TIMEOUT (log
entry 52). -/
def State.trainFail (s : State) (l : Nat) : State :=
  let k := s.link l
  let n := (if k.lane.failRate = k.lane.rate then k.lane.fails else 0) + 1
  let s := s.modLink l fun k => { (k.bump 2 5) with
    identTx := false
    lane := { k.lane with phase := .idle, fails := if n < 3 then n else 0, failRate := k.lane.rate } }
  if n < 3 then s.newAttempt l 0 (decide (k.st = .retrain))
  else if k.lane.rate = 3 then
    let s := s.modLink l fun k => { k with lane := { k.lane with roundWait := true } }
    (s.linkEvent l 1 1 stTimeout false false 0x0A).endLinkCmd l stTimeout
  else
    let s := s.modLink l fun k => { k.rearm with lane := { k.lane with fallback := some (k.lane.rate + 1), fallUnit := k.sbUnit.getD 0 } }
    (s.endLinkCmd l stTimeout).newAttempt l 0 (decide (k.st = .retrain))

/-- An announced retrain is asked for on a link that is UP (R127). DESIGN CHOICE: a command whose retrain finds no usable rate
completes with LIMIT and the link stays UP (log entry 52). -/
def State.requestRetrain (s : State) (l cause : Nat) : State :=
  let k := s.link l
  if k.st ≠ .up ∨ k.lane.quiesce then s
  else if (s.bestRate l (s.rateLimit l)).isNone then s.endLinkCmd l stLimit
  else
    (s.modLink l fun k => { k with lane := { k.lane with quiesce := true, retrainCause := cause } }).newAttempt l 0 true

/-- A command joins the retrain of its link: an announced one that has not begun is agreed again under the limits of now
(R121, R140, R144). -/
def State.joinRetrain (s : State) (l : Nat) (c : Cmd) : State :=
  let s := s.modLink l fun k => { k with lane := { k.lane with linkCmd := k.lane.linkCmd ++ [c] } }
  if (s.link l).lane.quiesce then s.newAttempt l 0 true else s.requestRetrain l 5

/-- New packets have stopped for an announced retrain: both ends have announced it (R127). -/
def Link.quiescing (k : Link) : Bool := k.lane.quiesce && k.lane.farProp.isSome

/-- The rate the two ends' proposals agree on now (R121). -/
def State.agreedRate (s : State) (l : Nat) : Nat :=
  max ((s.bestRate l (s.rateLimit l)).getD 3) ((s.link l).lane.farProp.getD 0)

/-- The move of R122 is due: the link runs at Survey rate and its agreed rate is faster. -/
def State.moveDue (s : State) (l : Nat) : Bool :=
  let k := s.link l
  decide (k.st = .up ∧ k.lane.rate = 3) && !k.lane.quiesce && decide (s.agreedRate l < 3)

/-- The hub enters Field: it asks for the move upstream, and carries out those its downstream partners have asked for
(R122). -/
def State.fieldMoves (s : State) : State :=
  let give (s : State) (l : Nat) : State :=
    let k := s.link l
    if k.st = .up ∧ k.lane.rateMove ∧ !k.lane.quiesce then
      (s.modLink l fun k => { k with lane := { k.lane with
        quiesce := true, retrainCause := 4, rateMove := false, attempt := (k.lane.attempt + 1) % 256, propSent := false
        phase := .idle } }).sendRate l 0 true
    else s
  let s := s.downLinks.foldl give s
  if !s.isRoot ∧ s.moveDue 0 then s.requestRetrain 0 4 else s

/-- The width with every lane locked after fallback (R114): the widest allowed whose lanes are all locked, 0 for none. The
link's lanes are those of its port from `base` on (Table 1.2). -/
def fallbackWidth (base agreed : Nat) (locked : BitVec 4) : Nat :=
  let m := locked.toNat / 2 ^ base
  if agreed = 4 ∧ m % 16 = 15 then 4 else if 2 ≤ agreed ∧ m % 4 = 3 then 2 else if m % 2 = 1 then 1 else 0

/-! ### Credits and the transmit side -/

/-- Credits a packet needs (R165), and its bytes in the replay buffer (R157). -/
def pktCredits (p : TxPkt) : Nat := ceilDiv (16 + p.payload.length + (if p.sealed then 16 else 0)) 64
def pktSize (p : TxPkt) : Nat := 16 + p.payload.length + (if p.sealed then 16 else 0) + 4

/-- The receive buffer division (Table 6.3, R166). -/
def defAlloc (tc : Nat) : Nat :=
  if tc = 7 then 64 else if tc = 6 then 128 else if tc = 5 then 192 else if tc = 4 then 128
  else if tc = 3 then 192 else if tc = 2 then 64 else if tc = 1 then 192 else 64

/-- DESIGN CHOICE: a division that an image brings while an epoch runs is in force for R169 at once; limits already advertised
stand, as R167 counts them from the start of the epoch (log entry 59). -/
def State.rxAlloc (s : State) (tc : Nat) : Nat := if s.board.rxAlloc = [] then defAlloc tc else s.board.rxAlloc.read 0 tc - 1

/-- R157 and R167 let a new packet be sent. -/
def Link.room (k : Link) (p : TxPkt) : Bool :=
  let n := pktCredits p
  decide (k.replay.length + 1 ≤ 2047 ∧ sumN (k.replay.map pktSize) + pktSize p ≤ 32768)
    && decide ((k.cl.read 0 p.tc + 131072 - (k.cc.read 0 p.tc + n)) % 65536 ≤ 32768)

/-- Period of the replay timer on a link, us: the image's for its port, else 8 (R161). -/
def State.replayUs (s : State) (l : Nat) : Nat := match s.board.replayUs.read 0 (linkPort l) with
  | 0 => 8
  | n => n

/-- The replay timer starts again; one that is held keeps its whole period (R135, R161). -/
def State.restartTimer (s : State) (l : Nat) (k : Link) : Link :=
  { k with timerEnd := (if k.timerHeld then 0 else s.uptime) + 400 * s.replayUs l }

/-- The replay timer has expired: 400 ticks make a us (R161). -/
def State.timerOut (s : State) (l : Nat) : Bool :=
  let k := s.link l
  k.timerRun && !k.timerHeld && decide (k.timerEnd ≤ s.uptime)

/-- Symbols of an ordered set or LCP by symbol time and lane (R105, R106, R123, R151, R273). -/
def LaneSym.rows (w : Nat) : LaneSym → List (List Sym)
  | .skp => setRows w skpSet
  | .com v => [List.replicate v (.k .com)]
  | .ts t => t.rows w
  | .doz d => setRows w (dozSet (decide (d = .deep)))
  | .pattern _ _ _ => []
  | .tmk => setRows w [.k .tmk]
  | .ack seq => lcp [pack [fld 24 1, seq.toNat], 0, 0, 0]
  | .nak seq => lcp [pack [fld 24 2, seq.toNat], 0, 0, 0]
  | .fc init hi ls => lcp [pack [fld 24 (if init then 4 else 3), b2n hi], pack [fld 16 ((ls[1]?).getD 0), (ls[0]?).getD 0],
      pack [fld 16 ((ls[3]?).getD 0), (ls[2]?).getD 0], 0]
  | .ident unit cfgGen upf hub epoch cont nonce =>
    lcp [ pack [fld 24 5, fld 16 epoch.toNat, fld 8 cfgGen.toNat, fld 7 (b2n cont), fld 6 (b2n upf), fld 5 (b2n hub.isSome), hub.getD 0],
      word unit.toNat, word (unit.toNat / 2 ^ 32), nonce ]
  | .timex seq pcode secLo t1 t4 asym stepPend hold lock =>
    lcp [ pack [fld 24 7, fld 16 seq.toNat, fld 14 (b2n stepPend), fld 13 (b2n hold), fld 12 (b2n lock), pcode],
      pack [fld 16 (unsigned 16 asym), secLo], word t1, word t4 ]
where
  /-- an LCP on the lanes -/
  lcp (ws : List Word) : List (List Sym) := stripe w (framed .slc (lcpBytes ws) .fin)

/-- A link control packet read from its words; none for words of a reserved type (Table 6.2, Table 9.2). -/
def lcpOf (ws : List Word) : Option LaneSym :=
  let w (i : Nat) : Nat := nthW ws i
  let seq := BitVec.ofNat 12 (bits (w 0) 11 0)
  let limits := [bits (w 1) 15 0, bits (w 1) 31 16, bits (w 2) 15 0, bits (w 2) 31 16]
  match bits (w 0) 31 24 with
  | 1 => some (.ack seq)
  | 2 => some (.nak seq)
  | 3 => some (.fc false (bit (w 0) 0) limits)
  | 4 => some (.fc true (bit (w 0) 0) limits)
  | 5 => some (.ident (BitVec.ofNat 64 (w 1 + 2 ^ 32 * w 2)) (BitVec.ofNat 8 (bits (w 0) 15 8)) (bit (w 0) 6)
      (if bit (w 0) 5 then some (bits (w 0) 4 0) else none) (BitVec.ofNat 8 (bits (w 0) 23 16)) (bit (w 0) 7) (word (w 3)))
  | 7 => some (.timex (BitVec.ofNat 8 (bits (w 0) 23 16)) (bits (w 0) 11 0) (bits (w 1) 15 0) (w 2) (w 3) (signed 16 (bits (w 1) 31 16))
      (bit (w 0) 14) (bit (w 0) 13) (bit (w 0) 12))
  | _ => none

/-- An ordered set, LCP or marker goes on the lanes of a link. -/
def State.sendSym (s : State) (l : Nat) (x : LaneSym) : State := s.emit (.sym l x (x.rows (s.link l).lane.width))

/-- The training ordered set of a link (Table 5.5). -/
def State.ts (s : State) (l : Nat) (second : Bool) : Ts :=
  let x := (s.link l).lane
  { second := second, linkNo := linkConv l, rate := x.rate, width := x.width, cls := x.cls, upf := s.upLink l }

/-! ### What the lanes bring -/

/-- The port lane of logical lane `i` of a link: in the upper pair, and in reversed order where it trained so (Table 1.2, R113).
The counters of group 3 are those of port lanes. DESIGN CHOICE: so the second link of a split port counts in lanes 2 and 3 (R186;
log entry 59). -/
def Lane.portLane (x : Lane) (l i : Nat) : Nat :=
  (if x.upperPair then 2 else linkBase l) + (if x.reversed then x.width - 1 - i else i)

/-- The port lanes in use of a link as a mask. -/
def Lane.lanesUsed (x : Lane) (l : Nat) : BitVec 4 := BitVec.ofNat 4 (sumN ((List.range x.width).map fun i => 2 ^ x.portLane l i))

/-- A loss of signal or a retrain falls in the exchange under way: the child finds it invalid, and a parent that waits for the
child's TMK sends no TIMEX (R275). -/
def State.spoilExchange (s : State) (l : Nat) : State :=
  if s.upLink l then { s with time := { s.time with xBad := s.time.xBad || s.time.xOpen } }
  else s.modLink l fun k => { k with xWait := false }

/-- The violations kept of a lane: those of its latest 15 symbol times, none where there is none (R110). -/
def keptViols (v : List Bool) : List Bool := let t := v.drop (v.length - 15); if t.any id then t else []

/-- Code violations counted: outside packets for the link, and per lane all of them; a lane with four within 16 symbol times
loses its lock, which is a loss of signal on a link that is UP (R104, R110, R128, R129, R186, R275). What a wave brings follows
the symbol times of the wave before it (log entry 51). -/
def State.waveViols (s : State) (l : Nat) (w : Wave) : State :=
  let rows := w.rows
  let k := s.link l
  let x := k.lane
  let out := (rxFrame rows).outside
  let at' (i : Nat) : Nat := x.portLane l i
  let col (i : Nat) : List Bool := laneViols rows i
  let seen (i : Nat) : List Bool := x.viols.read [] (at' i) ++ col i
  let lanes := List.range x.width
  let counts : Tab Nat := lanes.foldl (fun (t : Tab Nat) i =>
    t.mod 0 (8 * 3 + at' i) fun n => satAdd 16 n ((col i).countP id)) (k.counters.mod 0 7 fun n => satAdd 16 n out)
  let lost := lanes.filter fun i => lockLost (seen i)
  let m := BitVec.ofNat 4 (sumN (lost.map fun i => 2 ^ at' i))
  if (rows.all fun r => List.all r fun x => x.isSome) ∧ x.viols = [] then s
  else
    let begins := decide (lost ≠ [] ∧ k.st = .up ∧ x.rxDoze = .awake ∧ x.los = false)
    let s := if begins then s.spoilExchange l else s
    s.modLink l fun k => { k with
      counters := counts
      lane := { k.lane with
        viols := lanes.foldl (fun t i => t.write [] (at' i) (if lost.contains i then [] else keptViols (seen i))) x.viols
        locked := k.lane.locked &&& ~~~m, los := k.lane.los || begins } }

/-- A link control packet that the lanes bring: none where it is bad, discarded and counted, or where it overlaps a loss of
signal, one that its own symbols begin too (R154, R178). DESIGN CHOICE: a bad LCP whose LCRC mismatches counts in LCRC_ERR, and
not in MALFORMED also (log entry 59). -/
def State.takeLcp (s : State) (l : Nat) (w : Wave) : State × Option LaneSym :=
  let los := (s.link l).lane.los
  let s := s.waveViols l w
  if los ∨ (s.link l).lane.los then (s, none)
  else
    match rxLcp (rxFrame w.rows) with
    | .good ws => (s, lcpOf ws)
    | .crc => (s.modLink l fun k => k.bump 0 0, none)
    | .malformed => (s.modLink l fun k => k.bump 0 1, none)
    | .nothing => (s, none)

/-! ### Seals (R170, R171, R564) -/

/-- DIRN of what this end sends: 1 from the upstream-facing end. -/
def State.dirn (s : State) (l : Nat) : Nat := b2n (s.upLink l)

/-- The material of a link's seal keys: the pair key, then the context of R564 up to its nonces. -/
def State.sealMat (s : State) (l : Nat) (key : List Byte) : List (List Byte) :=
  let k := s.link l
  let own := leBytes 8 s.nv.unitId.toNat
  let far := leBytes 8 k.pUnit.toNat
  let (ud, uu, nd, nu) := if s.upLink l then (far, own, k.nonceRx, k.nonceTx) else (own, far, k.nonceTx, k.nonceRx)
  [key, ud, uu, [k.epoch], leBytes 4 nd.toNat, leBytes 4 nu.toNat]

/-- The bytes of a packet on this link (R147, R171): a packet keeps the key it was sealed under (R156). -/
def State.pktBytes (s : State) (l : Nat) (p : TxPkt) : List Byte := p.bytes p.key (s.dirn l)

/-- The key of what this end seals in a phase on a link, none without seal keys (R170, R171). -/
def State.txKey (s : State) (l phase : Nat) : List Byte :=
  match (s.link l).sealKey with
  | some m => phaseKey m (s.dirn l) phase
  | none => []

/-- A packet on the lanes (R105, R147). -/
def State.sendPkt (s : State) (l : Nat) (p : TxPkt) : State :=
  s.emit (.packet l p false (stripe (s.link l).lane.width (framed .stp (s.pktBytes l p) .fin)))

/-- A new tunnel packet goes on the lanes, numbered, sealed and kept for replay (R149, R156, R167, R170, R171). -/
def State.txNew (s : State) (l : Nat) (p : TxPkt) : State :=
  let k := s.link l
  if p.sealed ∧ k.sealKey = none then s.setLink l (k.bump 1 5)
  else
    let ph := if p.sealed ∧ k.sealWrapped then k.kphaseTx + 1 else k.kphaseTx
    let p := { p with
      lseq := k.txSeq, sealCnt := if p.sealed then k.sealTx else 0, kphase := decide (p.sealed ∧ ph % 2 = 1)
      key := if p.sealed then s.txKey l ph else [] }
    let k := if k.timerRun then k else s.restartTimer l k
    (s.setLink l { k with
      txSeq := k.txSeq + 1, replay := k.replay ++ [p], timerRun := true
      cc := k.cc.mod 0 p.tc fun n => (n + pktCredits p) % 65536
      kphaseTx := ph, sealTx := if p.sealed then k.sealTx + 1 else k.sealTx
      sealWrapped := if p.sealed then decide (k.sealTx.toNat = 2 ^ 32 - 1) else k.sealWrapped }).sendPkt l p

/-- FC_UPDATE or INIT_FC of a half with the limits of now (R151, R167, R168). -/
def State.sendFc (s : State) (l : Nat) (init hi : Bool) : State :=
  let k := s.link l
  let cs := (List.range 4).map fun i => i + if hi then 4 else 0
  let s := s.setLink l { k with clAdv := cs.foldl (fun t c => t.write 0 c (k.clLocal.read 0 c)) k.clAdv }
  s.sendSym l (.fc init hi (cs.map fun c => k.clLocal.read 0 c))

/-- Credits freed but not advertised. -/
def Link.unadv (k : Link) (tc : Nat) : Nat := (k.clLocal.read 0 tc + 65536 - k.clAdv.read 0 tc) % 65536

/-- A half has credits freed and not advertised. -/
def Link.halfDue (k : Link) (hi : Bool) : Bool := (List.range 4).any fun i => decide (k.unadv (i + if hi then 4 else 0) ≠ 0)

/-- A dozing transmit direction starts to wake (R133, R134). -/
def State.wakeTx (s : State) (l : Nat) : State :=
  let k := s.link l
  if k.st = .up ∧ k.lane.txDoze ≠ .awake ∧ !k.lane.txWaking then
    (s.modLink l fun k => { k with lane := { k.lane with txWaking := true } }).sendSym l (.com k.lane.width)
  else s

/-- The transmit direction is awake: an LCP can go (R135). -/
def Link.txAwake (k : Link) : Bool := decide (k.lane.txDoze = .awake) && !k.lane.txWaking

/-- Receive buffer freed on a link: the limit rises, and 16 credits make an update due, for which a dozing direction wakes
(R133, R167, R168). -/
def State.freeCredits (s : State) (l tc n : Nat) : State :=
  let k := s.link l
  let k := { k with
    rxUsed := k.rxUsed.mod 0 tc fun u => u - n
    clLocal := k.clLocal.mod 0 tc fun c => (c + n) % 65536 }
  let s := s.setLink l k
  if 16 ≤ k.unadv tc ∧ k.st = .up then (if k.txAwake then s.sendFc l false (decide (4 ≤ tc)) else s.wakeTx l) else s

/-- A queued copy has left the hop: its receive buffer is freed once no other copy holds it (R231). -/
def State.leftHop (s : State) (q : QPkt) : State :=
  match q.rx with
  | none => s
  | some r =>
    if s.holdsRx r then s else s.freeCredits r.1 r.2.2 (pktCredits q.pkt)

/-- Packets that wait for a unit move on as it has room, up to the end of a message, which the unit then takes (R231, R472, R498).
At most `n` packets. -/
def State.exitDrain (s : State) (unit : Nat) : Nat → State
  | 0 => s
  | n + 1 =>
    match s.tree.exitQ.find? fun q => decide (s.unitOf q.pkt = unit) with
    | none => s
    | some q =>
      if !s.exitRoom q.pkt then s
      else
        let s := { s with tree := { s.tree with exitQ := s.tree.exitQ.erase q } }
        let s := (s.deliverPkt q.pkt.tunnel q.pkt.first q.pkt.last q.pkt.payload).leftHop q
        if q.pkt.last then s else s.exitDrain unit n

/-- The packets that wait for a unit move on as far as they can. -/
def State.exitGo (s : State) (unit : Nat) : State := s.exitDrain unit s.tree.exitQ.length

/-- The packets that wait for a MAC's transmit buffer move on (R472). -/
def State.macGo (s : State) (m : Nat) : State := s.exitGo (0x600 + m)

/-- The credit rule lets a packet go (R167). -/
def Link.credit (k : Link) (p : TxPkt) : Bool :=
  decide ((k.cl.read 0 p.tc + 131072 - (k.cc.read 0 p.tc + pktCredits p)) % 65536 ≤ 32768)

/-! ### Acknowledgement and replay -/

/-- The number of the oldest unacknowledged packet, the next one's where there is none (R160). -/
def Link.oldest (k : Link) : BitVec 12 := match k.replay with
  | p :: _ => p.lseq
  | [] => k.txSeq

/-- How many packets an ACK or NAK purges, none where SEQ is out of range (R160). -/
def Link.purge (k : Link) (seq : BitVec 12) : Option Nat :=
  let d := (seq - (k.oldest - 1)).toNat
  if d ≤ (k.txSeq - k.oldest).toNat then some (k.replay.countP fun p => decide ((p.lseq - k.oldest).toNat < d)) else none

/-- Packets purged: forward progress when there are any, which restarts the timer (R160 to R163). -/
def State.purged (s : State) (l : Nat) (k : Link) (n : Nat) : Link :=
  let rest := k.replay.drop n
  let k := if n = 0 then k else s.restartTimer l k
  { k with
    replay := rest, replayNum := if n = 0 then k.replayNum else 0, replayIdx := k.replayIdx - n
    replaying := k.replaying && decide (rest ≠ []) && decide (k.replayIdx - n < rest.length)
    timerRun := decide (rest ≠ []) }

/-- A replay starts, or at the limit an announced retrain is asked for (R162). -/
def State.startReplay (s : State) (l : Nat) (from' : BitVec 12) (byNak : Bool) : State :=
  let k := s.link l
  if k.replay = [] then s
  else if k.replayNum = 4 then
    (s.setLink l { (k.bump 1 3) with replayNum := 0 }).requestRetrain l 3
  else
    s.setLink l { (s.restartTimer l (k.bump 1 (if byNak then 2 else 1))) with
      replayNum := k.replayNum + 1, replaying := true, replayIdx := 0, replayFrom := from', timerRun := true }

end Sys2Proof.Machine
end

