-- ==== Sys2Proof/Machine/Lanes.lean ====
section
/-! DEFINITION. Lanes: sideband identity and rate agreement, training, loss of signal, doze, and the LINK_
commands (Chapter 5, R184 to R186; log entries 31 and 32). -/

namespace Sys2Proof.Machine

/-! ### Sideband frames that concern the lanes -/

/-- A run request arises, in any mode: it is pending until Survey is next entered (R63). -/
def State.runRequest (s : State) : State :=
  if s.ret.runReq then s else { s with ret := { s.ret with runReq := true, wakeSent := [] } }

/-- A WAKE or RATE frame of the upstream partner: a run request at an upstream-facing end in Sentry (R63, R642). -/
def State.wakeFrame (s : State) (port : Nat) : State :=
  if s.upPort port ∧ s.ret.mode = .sentry then s.runRequest else s

/-- SIDEBAND_IDENT (R14, R115, R126, R521, R522). -/
def effSidebandIdent (port : Nat) (f : SbFrame) (s : State) : State :=
  let w (i n : Nat) : Nat := fromLe ((f.payload.drop i).take n)
  if !sbOk f 1 14 ∨ sbByte f 12 ≥ 128 ∨ sbByte f 13 ≥ 16 then s.sbDiscard port f
  else
    match s.sbReceive port f with
    | (s, none) => s
    | (s, some l) =>
      let b := sbByte f 12
      let i : FarIdent := { unit := BitVec.ofNat 64 (w 0 8), imgVer := word (w 8 4), role := b % 4, psrc := bit b 2, fsEn := bit b 3,
                            blk := bit b 4, core := bit b 5, keepSrc := bit b 6, cls := sbByte f 13, upf := !f.df }
      let same := decide (((s.port port).sb l).ident = some i)
      let s := s.modPort port fun x => x.modSb l fun y => { y with ident := some i }
      let k := sbLinkCode port l
      let s := s.modLink k fun x => { x with
        sbUnit := some i.unit, deniedRep := x.deniedRep && same, limitRep := x.limitRep && same
        lane := { x.lane with
          sbUpf := !f.df, farCls := i.cls, fallback := if x.lane.fallUnit = i.unit then x.lane.fallback else none } }
      if (s.link k).st = .down ∧ !same then s.sendRate k 0 false else s

def execSidebandIdent (port : Nat) (f : SbFrame) (s : State) : Host.Outcome State Fault Refusal := .next (effSidebandIdent port f s)

/-- The far end's RATE taken on a link of a hub in a core mode (R121, R122, R127, R522). An announced retrain is carried out,
but for the move that a downstream end at Survey rate asks an upstream end for before that is in Field or Holdover. A RATE frame
does not say what asks for the retrain: one that agrees on a faster rate is taken for the move (log entry 31). -/
def State.takeRate (s : State) (k rate width attempt : Nat) (announce : Bool) : State :=
  let x := (s.link k).lane
  let setFar (s : State) : State := s.modLink k fun y => { y with lane := { y.lane with farProp := some rate, farWidth := width } }
  let adopt (s : State) : State := s.modLink k fun y => { y with lane := { y.lane with
    attempt := attempt, farProp := some rate, farWidth := width, propSent := false, phase := .idle } }
  if (s.link k).st = .up ∧ !x.quiesce then
    if announce ∧ (s.working ∨ s.upLink k ∨ x.rate ≠ 3 ∨ max ((s.bestRate k (s.rateLimit k)).getD 3) rate = 3) then
      let cause := if x.rate = 3 then 4 else 5
      let s := s.modLink k fun y => { y with lane := { y.lane with quiesce := true, retrainCause := cause } }
      ((adopt s).sendRate k 0 true)
    else s.modLink k fun y => { y with lane := { y.lane with
      farProp := some rate, farWidth := width, rateMove := y.lane.rateMove || announce } }
  else if attempt = x.attempt then (setFar s).agree k
  else if s.upLink k ∨ attempt = (x.attempt + 1) % 256 then
    ((adopt s).sendRate k 0 (decide ((s.link k).st = .up ∨ (s.link k).st = .retrain))).agree k
  else s.sendRate k 0 (decide ((s.link k).st = .retrain))

/-- SIDEBAND_RATE (R63, R121, R124, R522). -/
def effSidebandRate (port : Nat) (f : SbFrame) (s : State) : State :=
  let b := sbByte f 0
  let w := bits b 4 2
  if !sbOk f 2 2 ∨ b ≥ 64 ∨ !(decide (w = 1 ∨ w = 2 ∨ w = 4)) then s.sbDiscard port f
  else
    match s.sbReceive port f with
    | (s, none) => s
    | (s, some l) =>
      if !s.coreOn then s.wakeFrame port
      else s.takeRate (sbLinkCode port l) (b % 4) w (sbByte f 1) (bit b 5)

def execSidebandRate (port : Nat) (f : SbFrame) (s : State) : Host.Outcome State Fault Refusal := .next (effSidebandRate port f s)

/-- SIDEBAND_WAKE (R63, R642). -/
def effSidebandWake (port : Nat) (f : SbFrame) (s : State) : State :=
  if !sbOk f 3 0 then s.sbDiscard port f
  else
    match s.sbReceive port f with
    | (s, none) => s
    | (s, some _) => s.wakeFrame port

def execSidebandWake (port : Nat) (f : SbFrame) (s : State) : Host.Outcome State Fault Refusal := .next (effSidebandWake port f s)

/-- ATTACH_DEBOUNCE (R519, R523, R642): carrier has held 50 ms with IDENT exchanged. -/
def effAttachDebounce (port link : Nat) (s : State) : State :=
  if !s.sbOn port ∨ 1 < link then s
  else
    let b := (s.port port).sb link
    if !b.carrier ∨ !b.identTx ∨ b.ident = none ∨ b.attached then s
    else
      let s := s.modPort port fun x => x.modSb link fun y => { y with attached := true }
      let s := if link = 0 then s.attachPower port else s
      s.sendRate (sbLinkCode port link) 0 false |>.agree (sbLinkCode port link)

def execAttachDebounce (port link : Nat) (s : State) : Host.Outcome State Fault Refusal := .next (effAttachDebounce port link s)

/-! ### Training -/

/-- The link is training in a step. -/
def State.inPhase (s : State) (l : Nat) (ph : TrainPhase) : Bool := s.coreOn && s.linkPresent l && decide ((s.link l).lane.phase = ph)

/-- SKP_SEND (R107): the counter's limit at the next boundary, on lanes that send. -/
def effSkpSend (link : Nat) (s : State) : State :=
  let k := s.link link
  if s.coreOn ∧ k.st ≠ .down ∧ k.lane.txDoze = .awake ∧ k.lane.phase ≠ .pll then s.sendSym link .skp else s

def execSkpSend (link : Nat) (s : State) : Host.Outcome State Fault Refusal := .next (effSkpSend link s)

/-- PLL_LOCK (R124). -/
def effPllLock (link : Nat) (s : State) : State :=
  if s.inPhase link .pll then
    (s.modLink link fun k => { k with lane := { k.lane with phase := .comma } }).sendSym link (.com (s.link link).lane.width)
  else s

def execPllLock (link : Nat) (s : State) : Host.Outcome State Fault Refusal := .next (effPllLock link s)

/-- TS1 starts on the lanes in use (R124). -/
def State.startTs1 (s : State) (l w : Nat) : State :=
  let s := s.modLink l fun k => { k with lane := { k.lane with width := w, phase := .ts1 } }
  s.sendSym l (.ts (s.ts l false))

/-- SYMBOL_LOCK (R110, R112, R124): a lane of the port, with the code groups it has received at one alignment. -/
def effSymbolLock (link lane : Nat) (groups : List (BitVec 10)) (s : State) : State :=
  let k := s.link link
  let (lock, inverted) := commaLock groups
  if !s.coreOn ∨ 4 ≤ lane ∨ k.st = .down ∨ !lock then s
  else
    let m := BitVec.ofNat 4 (2 ^ lane)
    let s := s.modLink link fun k => { k with lane := { k.lane with
      locked := k.lane.locked ||| m, viols := k.lane.viols.erase lane
      polInv := if k.lane.phase = .comma then (if inverted then k.lane.polInv ||| m else k.lane.polInv &&& ~~~m) else k.lane.polInv } }
    let k := s.link link
    if k.lane.phase = .comma ∧ fallbackWidth (linkBase link) k.lane.agreedWidth k.lane.locked = k.lane.agreedWidth then
      s.startTs1 link k.lane.agreedWidth
    else s

def execSymbolLock (link lane : Nat) (groups : List (BitVec 10)) (s : State) : Host.Outcome State Fault Refusal :=
  .next (effSymbolLock link lane groups s)

/-- WIDTH_FALLBACK (R113, R114, R125). DESIGN CHOICE: with some lanes locked but none of the fallback widths whole (lane 0 not
locked), the attempt fails here, at the 10 us point (log entry 52). -/
def effWidthFallback (link : Nat) (s : State) : State :=
  let k := s.link link
  if !s.inPhase link .comma then s
  else
    let upper := decide (linkPort link = 0 ∧ k.lane.agreedWidth = 2 ∧ k.lane.locked.toNat = 12)
    if upper then (s.modLink link fun k => { k with lane := { k.lane with upperPair := true } }).startTs1 link 2
    else
      let w := fallbackWidth (linkBase link) k.lane.agreedWidth k.lane.locked
      if w = 0 then s.trainFail link else s.startTs1 link w

def execWidthFallback (link : Nat) (s : State) : Host.Outcome State Fault Refusal := .next (effWidthFallback link s)

/-- TS1 taken on the lanes in use: its rate, class and width, the skew, and the lane numbers in lane order (R111, R113, R114,
R124, R125). -/
def State.takeTs1 (s : State) (link rate cls width skew : Nat) (lanes : List Nat) : State :=
  let k := s.link link
  if rate ≠ k.lane.rate ∨ cls ≠ k.lane.cls ∨ 64 < skew ∨ !(decide (width = 1 ∨ width = 2 ∨ width = 4)) ∨ k.lane.agreedWidth < width then
    s.trainFail link
  else
    let w := min width k.lane.width
    let base := if k.lane.upperPair then 2 else 0
    let fwd := (List.range w).map fun i => i + base
    let ns := lanes.take w
    let rev := decide (ns = fwd.reverse ∧ 1 < w)
    if ns = fwd ∨ ns = List.range w ∨ rev ∨ (ns = (List.range w).reverse ∧ 1 < w) then
      let rev := rev || (decide (ns = (List.range w).reverse) && decide (1 < w))
      let s := s.modLink link fun k => { k with lane := { k.lane with width := w, reversed := rev, phase := .ts2 } }
      s.sendSym link (.ts (s.ts link true))
    else
      let good := sumN ((List.range 4).map fun i => if ns[i]? = some i then 2 ^ (i + linkBase link) else 0)
      let v := fallbackWidth (linkBase link) k.lane.agreedWidth (k.lane.locked &&& BitVec.ofNat 4 good)
      if v = 0 then s.trainFail link else s.startTs1 link v

/-- TS1_ALIGN (R111, R113, R114, R123 to R125): eight identical TS1 on every lane in use, as one set of 16 symbols a lane, and
the skew between the earliest and the latest lane. -/
def effTs1Align (link skew : Nat) (sets : List (List Sym)) (s : State) : State :=
  match tsLanes sets with
  | some (t, lanes) =>
    if !s.inPhase link .ts1 ∨ t.second then s else s.takeTs1 link t.rate t.cls t.width skew lanes
  | none => s

def execTs1Align (link skew : Nat) (sets : List (List Sym)) (s : State) : Host.Outcome State Fault Refusal :=
  .next (effTs1Align link skew sets s)

/-- IDENT as this end sends it now (R151, R173, R174). -/
def State.sendIdent (s : State) (l : Nat) : State :=
  let k := s.link l
  let ep := if k.contTx ∨ s.upLink l ∨ k.identRx then k.epoch else k.epoch + 1
  s.sendSym l (.ident s.nv.unitId s.tree.cfgGen (s.upLink l) s.hubNum ep k.contTx k.nonceTx)

/-- The link layer takes the link and IDENT starts (R124, R151, R173). -/
def State.handToLink (s : State) (link : Nat) : State :=
    let nonce := s.freeVal 32
    let s := s.drew.modLink link fun k => { k with
      nonceTx := nonce, identTx := true, identRx := false, contTx := k.epochHeld && !k.refuse, fcLoRx := false, fcHiRx := false, newEpoch := false
      lane := { k.lane with phase := .linkLayer } }
    s.sendIdent link

/-- TS2_HANDOFF (R123 to R125): TS2 received, as one set of 16 symbols on each lane in use; another rate, class or width than
those of the attempt fails it. -/
def effTs2Handoff (link : Nat) (sets : List (List Sym)) (s : State) : State :=
  match tsLanes sets with
  | some (t, _) =>
    let x := (s.link link).lane
    if !s.inPhase link .ts2 ∨ !t.second then s
    else if t.rate ≠ x.rate ∨ t.cls ≠ x.cls ∨ t.width ≠ x.width then s.trainFail link
    else s.handToLink link
  | none => s

def execTs2Handoff (link : Nat) (sets : List (List Sym)) (s : State) : Host.Outcome State Fault Refusal :=
  .next (effTs2Handoff link sets s)

/-- TRAINING_TIMEOUT (R125, R126). -/
def effTrainingTimeout (link : Nat) (s : State) : State :=
  if s.coreOn ∧ (s.link link).lane.phase ≠ .idle then s.trainFail link else s

def execTrainingTimeout (link : Nat) (s : State) : Host.Outcome State Fault Refusal := .next (effTrainingTimeout link s)

/-- TRAINING_ROUND_WAIT_END (R126). -/
def effTrainingRoundWaitEnd (link : Nat) (s : State) : State :=
  if s.coreOn ∧ (s.link link).lane.roundWait then
    (s.modLink link fun k => { k with lane := { k.lane with roundWait := false } }).newAttempt link 0 (decide ((s.link link).st = .retrain))
  else s

def execTrainingRoundWaitEnd (link : Nat) (s : State) : Host.Outcome State Fault Refusal := .next (effTrainingRoundWaitEnd link s)

/-! ### Loss of signal -/

/-- LOS_START (R128 to R130, R275). -/
def effLosStart (link : Nat) (s : State) : State :=
  let k := s.link link
  if s.coreOn ∧ k.st = .up ∧ k.lane.rxDoze = .awake then
    (s.spoilExchange link).modLink link fun k => { k with lane := { k.lane with los := true } }
  else s

def execLosStart (link : Nat) (s : State) : Host.Outcome State Fault Refusal := .next (effLosStart link s)

/-- LOS_END (R129, R178, Table 6.9): every lane in use decodes again at its previous alignment. -/
def effLosEnd (link ns : Nat) (s : State) : State :=
  let k := s.link link
  if s.coreOn ∧ k.st = .up ∧ k.lane.los then
    s.modLink link fun k =>
      let k := k.bump 2 0
      { k with
        counters := k.counters.mod 0 (8 * 2 + 2) fun m => max m (min 65535 (ceilDiv ns 10))
        lane := { k.lane with los := false, viols := [], locked := k.lane.locked ||| k.lane.lanesUsed link } }
  else s

def execLosEnd (link ns : Nat) (s : State) : Host.Outcome State Fault Refusal := .next (effLosEnd link ns s)

/-! ### Doze -/

/-- ns to the next time exchange on a link (R271). -/
def State.toExchange (s : State) (l : Nat) : Nat :=
  let k := if s.upLink l then (s.link l).xK else (match s.board.exchK.read 0 (linkPort l) with | 0 => 8 | n => n)
  let per := k * 125000
  if per = 0 then 0 else (per / 2 + per - s.nowNs % per) % per

/-- The transition from one gate mask to the next opens a gate for a class with a floor (R133). -/
def State.opens (s : State) (l a b : Nat) : Bool :=
  (List.range 8).any fun tc => bit b tc && !bit a tc && decide (s.classFloor l tc ≠ 0)

/-- Time to the next such transition of a gate list from an instant on, in the schedulers' unit (R133). -/
def State.listOpens (s : State) (l : Nat) (g : GateSlot) (t0 : Nat) : Option Nat :=
  let (i, rest) := entryAt g.entries 0 (g.pos t0)
  let ring := g.entries.drop (i + 1) ++ g.entries.take (i + 1)
  let rec go : List Word → Nat → Nat → Option Nat
    | [], _, _ => none
    | e :: r, prev, t => if s.opens l prev (entMask e) then some t else go r (entMask e) (t + entDur e * fineNs)
  go ring (entMask ((g.entries[i]?).getD 0)) rest

/-- Time to the next gate-list transition that opens a gate for a class with a floor, under the list in operation up to a
pending switch and under the pending list from there on (R133, R236). -/
def State.toGateOpen (s : State) (l : Nat) : Option Nat :=
  let x := (s.link l).sched
  let now := s.nowFine
  let at' := x.pendAt * fineNs
  let own := match x.opGate with
    | some g => s.listOpens l g now
    | none => none
  if 4 ≤ x.pendSlot then own
  else
    let d := at' - now
    let g := x.gates.read GateSlot.init x.pendSlot
    let before := match x.opGate with
      | some o => entMask ((o.entries[(entryAt o.entries 0 (o.pos at')).1]?).getD 0)
      | none => 255
    let first := entMask ((g.entries[(entryAt g.entries 0 (g.pos at')).1]?).getD 0)
    let next := if s.opens l before first then some d else (s.listOpens l g at').map (d + ·)
    match own, next with
    | some a, b => if a < d then some a else b
    | none, b => b

/-- ns to the next counted opening of a direction (R133). -/
def State.toOpening (s : State) (l : Nat) : Nat :=
  let ws := ((s.link l).sched.windows.filter fun w => w.effect && !w.suspended).map fun w => w.toOpen s.nowFine / fineNs
  let g := match s.toGateOpen l with | some t => [t / fineNs] | none => []
  (ws ++ g).foldl min (s.toExchange l)

/-- The direction is idle: nothing to send, no LCP due, an FC_UPDATE among them, nothing unacknowledged (R132). -/
def Link.idle (k : Link) : Bool :=
  decide (k.sched.queue = [] ∧ k.replay = []) && !k.ackDue && !k.nakDue && !k.lane.quiesce && !k.halfDue false && !k.halfDue true

/-- Doze may be entered but for the openings and the timeout (R131, R132). -/
def State.mayDoze (s : State) (l depth : Nat) : Bool :=
  let k := s.link l
  s.working && decide (k.st = .up) && k.idle && decide (depth ≤ k.lane.depth) && !k.lane.txWaking

/-- DOZE_HELD, at most once a second per direction (R133, R249). -/
def State.dozeHeld (s : State) (l : Nat) : State :=
  let sec := s.nowSec + 1
  if (s.link l).lane.dozeHeldSec = sec then s
  else
    (s.modLink l fun k => { k with lane := { k.lane with dozeHeldSec := sec } }).reportMgmt 5 0 l
      [pack [fld 8 l, 1], word (min (s.toOpening l) (2 ^ 32 - 1)), 0, 0]

/-- The transmit direction enters a depth, from light doze by waking briefly (R131, R132, R134). -/
def State.dozeTo (s : State) (l : Nat) (d : Doze) : State :=
  let k := s.link l
  let s := if k.lane.txDoze = .awake then s else (s.sendSym l (.com k.lane.width)).sendSym l .skp
  (s.modLink l fun k => { k with lane := { k.lane with txDoze := d } }).sendSym l (.doz d)

/-- DOZE_LIGHT_TIMEOUT (R132, R133). -/
def effDozeLightTimeout (link : Nat) (s : State) : State :=
  let k := s.link link
  if !s.mayDoze link 1 ∨ k.lane.txDoze ≠ .awake then s
  else if s.toOpening link < 2000 + 1000 * k.lane.guard then s.dozeHeld link
  else s.dozeTo link .light

def execDozeLightTimeout (link : Nat) (s : State) : Host.Outcome State Fault Refusal := .next (effDozeLightTimeout link s)

/-- DOZE_DEEP_TIMEOUT (R132, R133). -/
def effDozeDeepTimeout (link : Nat) (s : State) : State :=
  let k := s.link link
  if !s.mayDoze link 2 ∨ k.lane.txDoze ≠ .light then s
  else if s.toOpening link < 20000 + 1000 * k.lane.guard then s.dozeHeld link
  else s.dozeTo link .deep

def execDozeDeepTimeout (link : Nat) (s : State) : Host.Outcome State Fault Refusal := .next (effDozeDeepTimeout link s)

/-- DOZ_RECEIVE (R131, R135). -/
def effDozReceive (link : Nat) (d : Doze) (s : State) : State :=
  if s.coreOn ∧ (s.link link).st = .up ∧ d ≠ .awake then
    s.modLink link fun k => { k with
      timerHeld := true, timerEnd := if k.timerHeld then k.timerEnd else k.timerEnd - s.uptime
      lane := { k.lane with rxDoze := d, rxWaking := false } }
  else s

def execDozReceive (link : Nat) (d : Doze) (s : State) : Host.Outcome State Fault Refusal := .next (effDozReceive link d s)

/-- DOZE_WAKE_START (R133, R134). -/
def effDozeWakeStart (link : Nat) (s : State) : State := if s.coreOn then s.wakeTx link else s

def execDozeWakeStart (link : Nat) (s : State) : Host.Outcome State Fault Refusal := .next (effDozeWakeStart link s)

/-- DOZE_WAKE_COMPLETE (R134, R143, R168). -/
def effDozeWakeComplete (link : Nat) (s : State) : State :=
  let k := s.link link
  if s.coreOn ∧ k.st = .up ∧ k.lane.txWaking then
    let s := s.modLink link fun k => { k with lane := { k.lane with txWaking := false, txDoze := .awake, wakeCmd := [] } }
    let s := ((s.sendSym link .skp).sendFc link false false).sendFc link false true
    k.lane.wakeCmd.foldl (fun s c => s.complete c stOk []) s
  else s

def execDozeWakeComplete (link : Nat) (s : State) : Host.Outcome State Fault Refusal := .next (effDozeWakeComplete link s)

/-- WAKE_LOCK_TIMEOUT (R134). DESIGN CHOICE: the far end's wake that does not lock ends the hold of the replay timer too, where
no SKP ordered set ends it (R135; log entry 59). -/
def effWakeLockTimeout (link : Nat) (s : State) : State :=
  let k := s.link link
  if s.coreOn ∧ k.st = .up ∧ k.lane.rxDoze ≠ .awake then
    (s.spoilExchange link).modLink link fun k => { k with
      timerHeld := false, timerEnd := if k.timerHeld then s.uptime + k.timerEnd else k.timerEnd
      lane := { k.lane with rxDoze := .awake, rxWaking := false, los := true } }
  else s

def execWakeLockTimeout (link : Nat) (s : State) : Host.Outcome State Fault Refusal := .next (effWakeLockTimeout link s)

/-- WAKE_END_SKP_RECEIVE (R134, R135). -/
def effWakeEndSkpReceive (link : Nat) (s : State) : State :=
  let k := s.link link
  if s.coreOn ∧ k.st = .up ∧ k.lane.rxDoze ≠ .awake then
    s.modLink link fun k => { k with
      timerHeld := false, timerEnd := if k.timerHeld then s.uptime + k.timerEnd else k.timerEnd
      lane := { k.lane with rxDoze := .awake, rxWaking := false } }
  else s

def execWakeEndSkpReceive (link : Nat) (s : State) : Host.Outcome State Fault Refusal := .next (effWakeEndSkpReceive link s)

/-! ### Patterns -/

/-- A pattern ends and the link trains as newly attached (R137). -/
def State.endPattern (s : State) (l : Nat) : State :=
  (s.modLink l fun k => { k with lane := { k.lane with pattern := { k.lane.pattern with pat := 0 } } }).newAttempt l 0 false

/-- What the checker of a pattern makes of the bits each port lane has received while it ran: the bit errors of each lane it
checks against the pattern, and the bits checked in units of 2^20 (R137, R145). -/
def Pattern.checked (p : Pattern) (got : List (List Bool)) : Pattern :=
  let on (i : Nat) : Bool := p.check && p.lanes.toNat.testBit i
  let lane (i : Nat) : List Bool := (got[i]?).getD []
  let n := ((List.range 4).filter on).foldl (fun m i => max m (lane i).length) 0
  { p with
    errs := (List.range 4).foldl (fun (t : Tab Nat) i => Tab.write 0 t i (if on i then min 65535 (patternErrs p.pat (lane i)) else 0)) []
    bits := min (n / 2 ^ 20) (2 ^ 32 - 1) }

/-- A running pattern's checker gives its results (R137, R145). -/
def State.patternResults (s : State) (l : Nat) (got : List (List Bool)) : State :=
  s.modLink l fun k => { k with lane := { k.lane with pattern := k.lane.pattern.checked got } }

/-- PATTERN_DURATION_END (R137, R145): the bits each port lane has received while the pattern ran. -/
def effPatternDurationEnd (link : Nat) (got : List (List Bool)) (s : State) : State :=
  let p := (s.link link).lane.pattern
  if s.coreOn ∧ p.pat ≠ 0 ∧ p.durationMs ≠ 0 then (s.patternResults link got).endPattern link else s

def execPatternDurationEnd (link : Nat) (got : List (List Bool)) (s : State) : Host.Outcome State Fault Refusal :=
  .next (effPatternDurationEnd link got s)

/-! ### Commands -/

/-- Checks 6 to 8 that the link commands share: authority, generation, presence (R138, R217). -/
def State.linkCmd (s : State) (c : Cmd) (l : Nat) (authority : Bool) (gen : Option (Bool × Nat)) (body : State → State) : State :=
  if !authority then s.complete c stNotGranted []
  else if (match gen with | some (any, g) => !genOk any g (s.link l).gen | none => false) then s.complete c stStaleGen (s.linkWords l)
  else if !s.linkPresent l then s.complete c stNotPresent []
  else body s

/-- The link carries a window or a non-zero floor (R139). -/
def State.linkReserved (s : State) (l : Nat) : Bool := decide ((s.link l).sched.windows ≠ [] ∨ s.floorSum l ≠ 0)

def layLinkRate (c : Cmd) : Layout := { masks := [(4, mk 19 7 + mk 2 0)], enc := decide (c.f 4 2 0 < 5) }

/-- LINK_RATE (R138 to R141). -/
def execLinkRate (c : Cmd) (s : State) : Host.Outcome State Fault Refusal :=
  .next <| s.runCmd c 0x0201 (layLinkRate c) false fun s =>
    let l := c.f 4 2 0
    s.linkCmd c l (s.mayUse c 0 l) (some (c.b 4 7, c.f 4 15 8)) fun s =>
      let k := s.link l
      let apply := c.b 4 18 && decide (k.st = .up)
      if c.f 4 17 16 < s.laneMax then s.complete c stLimit []
      else if apply ∧ !c.b 4 19 ∧ s.linkReserved l then s.complete c stBusy []
      else
        let s := s.modLink l fun k => { k.rearm with lane := { k.lane with rateLim := some (c.f 4 17 16), fallback := none } }
        if apply then s.joinRetrain l c
        else s.complete c stOk (s.rateWords l)

def layLinkSleep (c : Cmd) : Layout :=
  { masks := [(4, mk 27 24 + mk 21 20 + mk 15 6 + mk 2 0), (5, mk 9 0), (6, mk 19 0)],
    enc := decide (c.f 4 2 0 < 5 ∧ c.f 4 21 20 < 3) }

/-- LINK_SLEEP (R3, R132, R138, R142). -/
def execLinkSleep (c : Cmd) (s : State) : Host.Outcome State Fault Refusal :=
  .next <| s.runCmd c 0x0202 (layLinkSleep c) false fun s =>
    let l := c.f 4 2 0
    let light := c.f 5 9 0
    let deep := c.f 6 19 0
    s.linkCmd c l (s.mayUse c 0 l) (some (c.b 4 7, c.f 4 15 8)) fun s =>
      if 10 < c.f 4 27 24 ∨ light = 0 ∨ 1000 < light ∨ deep < 100 ∨ 1000000 < deep ∨ deep ≤ light then s.complete c stBadParam []
      else
        let s' := s.modLink l fun k => { k with lane := { k.lane with
          depth := c.f 4 21 20, lightTo := light, deepTo := deep, guard := c.f 4 27 24 } }
        if !c.b 4 6 then s'.complete c stOk []
        else if s'.mayDoze l 1 ∧ (s.link l).lane.txDoze = .awake ∧ 2000 + 1000 * c.f 4 27 24 ≤ s'.toOpening l then
          (s'.dozeTo l .light).complete c stOk []
        else s.complete c stBusy []

def layLinkWake (c : Cmd) : Layout := { masks := [(4, mk 16 7 + mk 2 0)], enc := decide (c.f 4 2 0 < 5) }

/-- LINK_WAKE (R138, R143). -/
def execLinkWake (c : Cmd) (s : State) : Host.Outcome State Fault Refusal :=
  .next <| s.runCmd c 0x0203 (layLinkWake c) false fun s =>
    let l := c.f 4 2 0
    s.linkCmd c l (s.mayUse c 0 l) (some (c.b 4 7, c.f 4 15 8)) fun s =>
      let k := s.link l
      if k.st ≠ .up then s.complete c stWrongMode []
      else
        let s := if c.b 4 16 then s.modLink l fun k => { k with lane := { k.lane with depth := 0 } } else s
        if k.lane.txDoze = .awake then s.complete c stOk []
        else (s.modLink l fun k => { k with lane := { k.lane with wakeCmd := k.lane.wakeCmd ++ [c] } }).wakeTx l

def layLinkRetrain (c : Cmd) : Layout := { masks := [(4, mk 19 19 + mk 17 17 + mk 15 7 + mk 2 0)], enc := decide (c.f 4 2 0 < 5) }

/-- LINK_RETRAIN (R138, R139, R141, R144). -/
def execLinkRetrain (c : Cmd) (s : State) : Host.Outcome State Fault Refusal :=
  .next <| s.runCmd c 0x0204 (layLinkRetrain c) false fun s =>
    let l := c.f 4 2 0
    s.linkCmd c l (s.mayUse c 0 l) (some (c.b 4 7, c.f 4 15 8)) fun s =>
      let k := s.link l
      if k.st ≠ .up then s.complete c stWrongMode []
      else if !c.b 4 19 ∧ s.linkReserved l then s.complete c stBusy []
      else
        (s.modLink l fun k => if c.b 4 17 ∧ k.lane.fallback ≠ none then { k.rearm with lane := { k.lane with fallback := none } }
          else k).joinRetrain l c

def layLinkEqOverride (c : Cmd) : Layout :=
  { masks := [(4, mk 23 20 + mk 17 16 + mk 9 8 + mk 1 0), (6, mkAll), (7, mkAll)],
    enc := decide (c.f 4 9 8 < 3) && (c.b 4 0 || decide (c.f 6 3 0 = 0 ∧ c.f 6 31 28 = 0 ∧ c.f 7 30 24 = 0)) }

/-- LINK_EQ_OVERRIDE (R118, R138, R139, R146, R182). DESIGN CHOICE: with APPLY it completes with OK at once, and does not wait for
the retrains, nor say of a link that finds no usable rate and stays UP (log entry 52). -/
def execLinkEqOverride (c : Cmd) (s : State) : Host.Outcome State Fault Refusal :=
  .next <| s.runCmd c 0x0207 (layLinkEqOverride c) false fun s =>
    let p := c.f 4 9 8
    let i := eqIndex p (c.f 4 17 16) (c.f 4 23 20)
    let e := eqOfNat (c.w64 6)
    let uses (l : Nat) : Bool :=
      let k := s.link l
      decide (k.st = .up ∧ linkPort l = p ∧ k.lane.rate = c.f 4 17 16 ∧ k.lane.cls = c.f 4 23 20)
    let ls := s.linksPresent.filter uses
    if !s.authZ c then s.complete c stNotGranted []
    else if !c.b 4 0 ∧ e.valid ∧ !e.usable then s.complete c stBadParam []
    else if c.b 4 1 ∧ ls.any s.linkReserved then s.complete c stBusy []
    else
      let keys := s.board.eqOverKeys.filter (· ≠ i)
      let b := if c.b 4 0 then { s.board with eqOverKeys := keys, eqOver := s.board.eqOver.erase i }
        else { s.board with eqOverKeys := i :: keys, eqOver := s.board.eqOver.write EqEntry.init i e }
      let s := (List.range 5).foldl (fun s l => s.modLink l Link.rearm) { s with board := b }
      let s := if c.b 4 1 then ls.foldl (fun s l => s.requestRetrain l 5) s else s
      s.complete c stOk []

def layLinkQuery (c : Cmd) : Layout := { masks := [(4, mk 2 0)], enc := decide (c.f 4 2 0 < 5) }

/-- LINK_QUERY (R184, R185). -/
def execLinkQuery (c : Cmd) (s : State) : Host.Outcome State Fault Refusal :=
  .next <| s.runCmd c 0x0200 (layLinkQuery c) true fun s =>
    let l := c.f 4 2 0
    if !s.linkPresent l then s.complete c stNotPresent [] else s.complete c stOk (s.linkWords l)

def layLinkCounters (c : Cmd) : Layout := { masks := [(4, mk 11 9 + mk 2 0)], enc := decide (c.f 4 2 0 < 5) }

/-- LINK_COUNTERS (R184, R186). -/
def execLinkCounters (c : Cmd) (s : State) : Host.Outcome State Fault Refusal :=
  .next <| s.runCmd c 0x0205 (layLinkCounters c) true fun s =>
    let l := c.f 4 2 0
    let g := 8 * c.f 4 11 10
    if c.b 4 9 ∧ !s.mayUse c 0 l then s.complete c stNotGranted []
    else if !s.linkPresent l then s.complete c stNotPresent []
    else
      let ws := counterWords (s.link l).counters g
      let s := if c.b 4 9 then
          s.modLink l fun k => { k with counters := (List.range 8).foldl (fun t i => t.erase (g + i)) k.counters }
        else s
      s.complete c stOk ws

end Sys2Proof.Machine
end

