-- ==== Sys2Proof/Machine/LinkLayer.lean ====
section
/-! DEFINITION. The link layer between epochs: local packets, acknowledgement, replay and credits (Chapter 6). The
receipt of packets, IDENT and the credit LCPs stands in Epoch. -/

namespace Sys2Proof.Machine

/-- LOCAL_PACKET_OFFER (R205, R207). -/
def effLocalPacketOffer (tid : Nat) (urgent first last : Bool) (payload : List Byte) (s : State) : State :=
  if s.coreOn ∧ payload.length ≤ 2048 then s.offerPkt tid urgent first last payload else s

def execLocalPacketOffer (tid : Nat) (urgent first last : Bool) (payload : List Byte) (s : State) :
    Host.Outcome State Fault Refusal :=
  .next (effLocalPacketOffer tid urgent first last payload s)

/-- The link is UP and carries the link layer. -/
def State.runs (s : State) (l : Nat) : Bool := s.coreOn && s.linkPresent l && s.linkUp l

/-- An ACK taken (R160, R161). -/
def State.takeAck (s : State) (link : Nat) (seq : BitVec 12) : State :=
  let k := s.link link
  match k.purge seq with
  | none => s.setLink link (k.bump 0 1)
  | some 0 => s
  | some n => s.setLink link (s.purged link k n)

/-- ACK_RECEIVE (R154, R160, R161, R178): another LCP on the lanes than an ACK is not this command's. -/
def effAckReceive (link : Nat) (w : Wave) (s : State) : State :=
  if !s.runs link then s
  else
    match s.takeLcp link w with
    | (s, some (.ack seq)) => s.takeAck link seq
    | (s, _) => s

def execAckReceive (link : Nat) (w : Wave) (s : State) : Host.Outcome State Fault Refusal := .next (effAckReceive link w s)

/-- A NAK taken (R160, R162, R163). -/
def State.takeNak (s : State) (link : Nat) (seq : BitVec 12) : State :=
  let k := s.link link
  match k.purge seq with
  | none => s.setLink link (k.bump 0 1)
  | some n =>
    let k' := k.bump 1 0
    if n = 0 ∧ k.replaying ∧ k.replayFrom = seq then s.setLink link k'
    else (s.setLink link (if n = 0 then k' else s.purged link k' n)).startReplay link seq true

/-- NAK_RECEIVE (R154, R160, R162, R163, R178). -/
def effNakReceive (link : Nat) (w : Wave) (s : State) : State :=
  if !s.runs link then s
  else
    match s.takeLcp link w with
    | (s, some (.nak seq)) => s.takeNak link seq
    | (s, _) => s

def execNakReceive (link : Nat) (w : Wave) (s : State) : Host.Outcome State Fault Refusal := .next (effNakReceive link w s)

/-- REPLAY_TIMER_EXPIRY (R135, R161, R162): a replay from the last number acknowledged, once the timer's period has passed. -/
def effReplayTimerExpiry (link : Nat) (s : State) : State :=
  if s.runs link ∧ s.timerOut link then s.startReplay link ((s.link link).oldest - 1) false else s

def execReplayTimerExpiry (link : Nat) (s : State) : Host.Outcome State Fault Refusal := .next (effReplayTimerExpiry link s)

/-- ACK_SEND (R159). -/
def effAckSend (link : Nat) (s : State) : State :=
  let k := s.link link
  if s.runs link ∧ k.ackDue ∧ k.txAwake then (s.setLink link { k with ackDue := false }).sendSym link (.ack (k.rxSeq - 1))
  else s

def execAckSend (link : Nat) (s : State) : Host.Outcome State Fault Refusal := .next (effAckSend link s)

/-- NAK_SEND (R158, R159, R178): none during a loss of signal. -/
def effNakSend (link : Nat) (s : State) : State :=
  let k := s.link link
  if s.runs link ∧ k.nakDue ∧ k.txAwake ∧ !k.lane.los then
    (s.setLink link { (k.bump 0 4) with nakDue := false }).sendSym link (.nak (k.rxSeq - 1))
  else s

def execNakSend (link : Nat) (s : State) : Host.Outcome State Fault Refusal := .next (effNakSend link s)

/-- IDENT_REPEAT (R173): until the partner's has come. -/
def effIdentRepeat (link : Nat) (s : State) : State :=
  let k := s.link link
  if s.coreOn ∧ k.identTx ∧ !k.identRx ∧ k.lane.phase = .linkLayer then s.sendIdent link else s

def execIdentRepeat (link : Nat) (s : State) : Host.Outcome State Fault Refusal := .next (effIdentRepeat link s)

/-- FC_UPDATE_TIMER (R133, R168): a dozing direction wakes for it. -/
def effFcUpdateTimer (link : Nat) (s : State) : State :=
  let k := s.link link
  let half (hi : Bool) (s : State) : State := if (s.link link).halfDue hi then s.sendFc link false hi else s
  if !s.runs link then s
  else if k.txAwake then half true (half false s)
  else if k.halfDue false ∨ k.halfDue true then s.wakeTx link
  else s

def execFcUpdateTimer (link : Nat) (s : State) : Host.Outcome State Fault Refusal := .next (effFcUpdateTimer link s)

/-- FC_REFRESH (R168). -/
def effFcRefresh (link : Nat) (s : State) : State :=
  if s.runs link ∧ (s.link link).txAwake then (s.sendFc link false false).sendFc link false true else s

def execFcRefresh (link : Nat) (s : State) : Host.Outcome State Fault Refusal := .next (effFcRefresh link s)

/-- FC_STALL (R169). -/
def effFcStall (link tc : Nat) (s : State) : State :=
  let k := s.link link
  if s.runs link ∧ k.sched.queue.any fun q => decide (q.cls = tc) && !k.credit q.pkt then s.setLink link (k.bump 1 6) else s

def execFcStall (link tc : Nat) (s : State) : Host.Outcome State Fault Refusal := .next (effFcStall link tc s)

end Sys2Proof.Machine
end

