-- ==== Sys2Proof/Machine/Usb.lean ====
section
/-! DEFINITION. The USB hub, remote ports and the proxy (Chapter 14). Feature selectors, request codes and
status bits are those of USB 2.0 (log entry 22). -/

namespace Sys2Proof.Machine

/-- Port states (Table 14.2). -/
def upOff : Nat := 0
def upDisc : Nat := 1
def upDisabled : Nat := 2
def upResetting : Nat := 3
def upEnabled : Nat := 4
def upSuspended : Nat := 5
def upResuming : Nat := 6

/-- Bits of wPortStatus and wPortChange (USB 2.0, log entry 22). -/
def psConn : BitVec 16 := 0x0001
def psEnable : BitVec 16 := 0x0002
def psSuspend : BitVec 16 := 0x0004
def psOver : BitVec 16 := 0x0008
def psReset : BitVec 16 := 0x0010
def psPower : BitVec 16 := 0x0100
def psLow : BitVec 16 := 0x0200
def psHigh : BitVec 16 := 0x0400

/-- Answers to the host. -/
def ansNone : Nat := 0
def ansAck : Nat := 1
def ansNak : Nat := 2
def ansNyet : Nat := 3
def ansStall : Nat := 4

/-- Data with a PID: 0 DATA0, 1 DATA1, 2 DATA2, 3 MDATA. -/
def ansData (pid : Nat) : Nat := 5 + pid

def State.uport (s : State) (p : Nat) : UPort := s.usb.ports.read UPort.init p

def State.setUport (s : State) (p : Nat) (u : UPort) : State :=
  { s with usb := { s.usb with ports := s.usb.ports.write UPort.init p u } }

def State.modUport (s : State) (p : Nat) (f : UPort → UPort) : State := s.setUport p (f (s.uport p))

/-- The USB block is present (R435). -/
def State.usbPresent (s : State) : Bool := s.blockOn .vddUsb

/-- The UFP is active (R435). -/
def State.ufpActive (s : State) : Bool := s.usbPresent && s.usbUp

/-- A port exists: a fitted DFP or a presented virtual port (R435, R437). -/
def State.usbPort (s : State) (p : Nat) : Bool :=
  decide (1 ≤ p) && (if p ≤ 4 then s.usb.fitted.toNat.testBit (p - 1) else decide (p ≤ 4 + s.usb.vports))

/-- A DFP presented by this hub (R439). -/
def State.presented (s : State) (p : Nat) : Bool :=
  s.ufpActive && s.usbPort p && decide (p ≤ 4) && (s.uport p).far.isNone

/-- Table 14.2 code of a port, 7 for a virtual port without a mapping. -/
def UPort.code (u : UPort) (p : Nat) : Nat := if 5 ≤ p ∧ u.mapped.isNone then 7 else u.st

/-- A counter of Table 14.9 raised. -/
def State.usbCount (s : State) (p i n : Nat) : State :=
  if p = 0 then { s with usb := { s.usb with counters := s.usb.counters.mod 0 i (satAdd 16 · n) } }
  else s.modUport p fun u => { u with counters := u.counters.mod 0 i (satAdd 16 · n) }

/-- USB_PORT event (R465). -/
def State.usbEvent (s : State) (p reason status value : Nat) : State :=
  let u := s.uport p
  s.reportHolder 7 p 9 status p
    [ pack [fld 22 u.speed, fld 20 u.wakeSrc, fld 16 (u.code p), fld 8 u.gen.toNat, reason],
      pack [fld 16 u.change.toNat, u.status.toNat], word value ]

/-- The port generation rises and the port's proxied work is discarded (R444, R450). -/
def State.raiseGen (s : State) (p : Nat) : State :=
  s.modUport p fun u => { u with gen := u.gen + 1, pipes := [] }

/-- The address entries of a port cleared (R446). -/
def State.clearAddrs (s : State) (p : Nat) : State :=
  { s with usb := { s.usb with addrMap := s.usb.addrMap.filter fun e => decide (e.2 ≠ p),
                               addr0 := if s.usb.addr0 = p then 0 else s.usb.addr0 } }

/-- The outgoing tunnel of a duplex pair named by its even ID. -/
def State.outTid (s : State) (even : Nat) : Nat := if (s.gaz even).ingress = 7 then even else even + 1

/-- The pair a message of a type travels on (R443). -/
def UsbMap.pair (m : UsbMap) (typ : Nat) : Nat := if (typ = 1 ∨ typ = 3) ∧ m.per ≠ 0 then m.per else m.main

/-- The bytes of a packet entry (R459). -/
def usbEntry (e : Nat × List Byte) : List Byte :=
  leBytes 4 (fld 30 e.1 + e.2.length) ++ e.2 ++ List.replicate ((4 - e.2.length % 4) % 4) 0

/-- A USB tunnel message (Table 14.5). -/
def usbMsg (op pseq addr ep : Nat) (dirIn : Bool) (typ : Nat) (fsls : Bool) (gen count code speed mframe instant : Nat)
    (es : List (Nat × List Byte)) : List Byte :=
  bytesOf [ pack [fld 28 op, fld 23 pseq, fld 16 addr, fld 12 ep, fld 11 (b2n dirIn), fld 9 typ, fld 8 (b2n fsls), gen],
            pack [fld 28 count, fld 24 code, fld 14 speed, mframe], compactNs instant, compactSec instant ]
    ++ es.flatMap usbEntry

/-- The mapping of a port at either end. -/
def UPort.remote (u : UPort) : Option UsbMap := match u.mapped with
  | some m => some m
  | none => u.far

/-- A PORT message with the port's generation (R444, Table 14.6). -/
def State.portMsg (s : State) (p code : Nat) : State :=
  let u := s.uport p
  match u.remote with
  | none => s
  | some m => s.sendTunnel (s.outTid m.main) false
      (usbMsg 5 0 0 0 false 0 false u.gen.toNat 0 code u.speed 0 s.nowNs [])

/-- The local port a tunnel of a USB pair belongs to (R442). -/
def State.usbPortOf (s : State) (tid : Nat) : Option Nat :=
  let e := tid / 2 * 2
  (s.usb.ports.find? fun q => match q.2.remote with
    | some m => decide (m.main = e ∨ (m.per = e ∧ m.per ≠ 0))
    | none => false).map Prod.fst

/-- The port a message on a tunnel reaches: none while the USB block is absent (R435). -/
def State.usbMsgPort (s : State) (tid : Nat) : Option Nat := if s.usbPresent then s.usbPortOf tid else none

/-- wPortChange with bits set, but on a DFP that serves as a far end: its own hub reports nothing of it (R439). -/
def UPort.changed (u : UPort) (b : BitVec 16) : BitVec 16 := if u.far.isSome then u.change else u.change ||| b

/-! ### Messages taken apart -/

/-- Packet entries of a message (R459). -/
def usbEntries : Nat → List Byte → List (Nat × List Byte)
  | 0, _ => []
  | n + 1, bs =>
    let d := fromLe (bs.take 4)
    let len := bits d 10 0
    (bits d 31 30, (bs.drop 4).take len) :: usbEntries n (bs.drop (4 + (len + 3) / 4 * 4))

/-- Reserved fields of the entries are zero. -/
def usbEntriesOk : Nat → List Byte → Bool
  | 0, _ => true
  | n + 1, bs =>
    let d := fromLe (bs.take 4)
    decide (bits d 29 11 = 0) && usbEntriesOk n (bs.drop (4 + (bits d 10 0 + 3) / 4 * 4))

/-- The header fields of a message. -/
structure UsbHdr where
  op : Nat
  pseq : Nat
  addr : Nat
  ep : Nat
  dirIn : Bool
  typ : Nat
  fsls : Bool
  gen : Nat
  count : Nat
  code : Nat
  speed : Nat
  mframe : Nat
  instant : Nat × Nat
  ok : Bool
  es : List (Nat × List Byte)
  deriving DecidableEq, Repr

def usbHdr (bs : List Byte) : UsbHdr :=
  let ws := wordsOf 4 bs
  let w0 := nthW ws 0
  let w1 := nthW ws 1
  let n := if bits w0 31 28 = 2 then 0 else bits w1 31 28
  { op := bits w0 31 28, pseq := bits w0 27 23, addr := bits w0 22 16, ep := bits w0 15 12, dirIn := bit w0 11,
    typ := bits w0 10 9, fsls := bit w0 8, gen := bits w0 7 0, count := bits w1 31 28, code := bits w1 27 24,
    speed := bits w1 15 14, mframe := bits w1 13 0, instant := (nthW ws 2, nthW ws 3),
    ok := decide (bits w0 31 28 < 7) && decide (bits w1 23 16 = 0) && decide (bits w1 31 28 ≤ 8) && usbEntriesOk n (bs.drop 16),
    es := usbEntries n (bs.drop 16) }

/-- Key of a pipe; a control pipe has one key for both directions. -/
def pipeKey (addr ep typ : Nat) (dirIn : Bool) : Nat :=
  (addr * 16 + ep) * 2 + (if typ = 0 then 0 else b2n dirIn)

def UPort.pipe (u : UPort) (k : Nat) : Pipe := u.pipes.read Pipe.init k

def State.setPipe (s : State) (p k : Nat) (x : Pipe) : State :=
  s.modUport p fun u => { u with pipes := u.pipes.write Pipe.init k x }

/-- A pipe message, which takes the pipe's next PSEQ (R449). -/
def State.pipeMsg (s : State) (p op addr ep : Nat) (dirIn : Bool) (x : Pipe) (count code mframe : Nat)
    (es : List (Nat × List Byte)) : State :=
  let u := s.uport p
  match u.remote with
  | none => s
  | some m => s.sendTunnel (s.outTid (m.pair x.typ)) false
      (usbMsg op x.txSeq addr ep dirIn x.typ x.fsls u.gen.toNat count code u.speed mframe s.nowNs es)

/-- A proxy error: the port is disabled, its generation rises, and it is reported and counted (R449). -/
def State.proxyError (s : State) (p : Nat) : State :=
  let s := (s.usbCount p 3 1).modUport p fun u =>
    { u with st := upDisabled, status := u.status &&& ~~~psEnable, change := u.change ||| psEnable }
  let s := s.raiseGen p
  let s := if (s.uport p).mapped.isSome then s.portMsg p 3 else s.emit (.usbBus p 3 [])
  s.usbEvent p 8 stIntegrity ((s.uport p).counters.read 0 3)

/-! ### Host transactions (R446, R447) -/

/-- The port a token goes to. -/
def State.tokPort (s : State) (t : UsbTok) : Nat :=
  match t.split with
  | some p => p
  | none => if t.addr = 0 then s.usb.addr0 else s.usb.addrMap.read 0 t.addr

/-- How a token is served: `near` at a virtual port's proxy, or repeated to a local DFP after the hub has learned from it
by `loc`. -/
def State.serve (s : State) (t : UsbTok) (raw : List Byte) (loc : Nat → State) (near : Nat → State) : State :=
  let p := s.tokPort t
  let u := s.uport p
  if !s.usb.attached ∨ s.usb.suspended ∨ p = 0 ∨ u.st ≠ upEnabled then s
  else if p ≤ 4 then (if u.far.isSome then s else (loc p).emit (.usbBus p 6 raw))
  else if u.mapped.isSome then near p else s

/-- Data of a control transfer flows to the host. -/
def Pipe.ctrlIn (x : Pipe) : Bool := match x.setup with
  | b :: _ => b.toNat.testBit 7
  | [] => false

/-- A SET_ADDRESS to address 0 behind a port, learned once its status stage completes (R446). -/
def State.learnSetup (s : State) (t : UsbTok) (p : Nat) (bytes : List Byte) : State :=
  let b (i : Nat) : Nat := ((bytes[i]?).getD 0).toNat
  if t.addr = 0 ∧ b 0 = 0 ∧ b 1 = 5 then { s with usb := { s.usb with pendAddr := some (b 2 % 128, p) } } else s

/-- USB_SETUP_TOKEN (R446, R447): acknowledged, buffered and forwarded; it supersedes any transfer on the pipe, whose late
answers are dropped. -/
def effUsbSetupToken (t : UsbTok) (bytes : List Byte) (s : State) : State :=
  let k := pipeKey t.addr t.ep 0 false
  let loc (p : Nat) : State := (s.setPipe p k { (s.uport p).pipe k with setup := bytes.take 8 }).learnSetup t p bytes
  s.serve t bytes loc fun p =>
    let x := (s.uport p).pipe k
    let x' := { x with typ := 0, fsls := t.split.isSome, halted := false, noAns := false, status := none, setup := bytes.take 8,
                       buf := [], naked := false, toggle := true, bursts := (x.bursts.map fun _ => 4) ++ [0], outst := x.outst + 1 }
    let s := s.pipeMsg p 0 t.addr t.ep false x' 1 0 0 [(0, bytes.take 8)]
    let s := (s.setPipe p k { x' with txSeq := (x.txSeq + 1) % 32 }).learnSetup t p bytes
    s.emit (.usbHost t.addr t.ep ansAck [])

def execUsbSetupToken (t : UsbTok) (bytes : List Byte) (s : State) : Host.Outcome State Fault Refusal :=
  .next (effUsbSetupToken t bytes s)

/-- Pipes of an address put back to DATA0, their buffered packets counted in PREFETCH_DROP (R451). -/
def State.resetToggles (s : State) (p addr : Nat) (only : Option Nat) : State :=
  let u := s.uport p
  let hit (k : Nat) : Bool := match only with
    | some j => decide (k = j)
    | none => decide (k / 32 = addr) && decide (k / 2 % 16 ≠ 0)
  let dropped := sumN ((u.pipes.filter fun q => hit q.1).map fun q => q.2.buf.length)
  let reset (k : Nat) (x : Pipe) : Pipe :=
    if hit k then { x with toggle := false, buf := [], halted := if only.isSome then false else x.halted } else x
  (s.setUport p { u with pipes := Tab.mapAll Pipe.init u.pipes reset }).usbCount p 4 dropped

/-- The requests whose completed status stage changes this end's records (R446, R451, R452). -/
def State.statusDone (s : State) (p addr : Nat) (setup : List Byte) (near : Bool) : State :=
  let b (i : Nat) : Nat := ((setup[i]?).getD 0).toNat
  if b 0 = 0 ∧ b 1 = 5 then
    match s.usb.pendAddr with
    | some (a, q) => if near ∧ addr = 0 then
        { s with usb := { s.usb with addrMap := s.usb.addrMap.write 0 a q, pendAddr := none } } else s
    | none => s
  else if b 0 = 0x23 ∧ b 1 = 3 ∧ b 2 = 4 then
    if near then { s with usb := { s.usb with addr0 := p } } else s
  else if (b 0 = 0 ∧ b 1 = 9) ∨ (b 0 = 1 ∧ b 1 = 11) then s.resetToggles p addr none
  else if b 0 = 2 ∧ b 1 = 1 ∧ b 2 = 0 then
    s.resetToggles p addr (some (pipeKey addr (b 4 % 16) 2 (decide (128 ≤ b 4))))
  else s

/-- Acknowledged OUT packets forwarded in a burst of at most 8, at most four bursts outstanding (R449). -/
def State.flushOut (s : State) (p addr ep mframe : Nat) (k : Nat) : State :=
  let x := (s.uport p).pipe k
  if 4 ≤ x.outst ∨ x.buf = [] then s
  else
    let es := x.buf.take 8
    (s.pipeMsg p 1 addr ep false x es.length 0 mframe es).setPipe p k
      { x with buf := x.buf.drop 8, outst := x.outst + 1, bursts := x.bursts ++ [1], txSeq := (x.txSeq + 1) % 32 }

/-- The core does not answer a transaction in time, as while the USB domain or the fabric recovers (R82, Table 19.2). -/
def State.usbLate (s : State) (t : UsbTok) : Bool := t.late || s.recovers [1, 0x0C]

/-- The host's transaction while the core is late, then on a failed or halted pipe, else the chapter's answer (R447, R448, R452). -/
def State.pipeGate (s : State) (t : UsbTok) (p k : Nat) (body : State) : State :=
  let x := (s.uport p).pipe k
  if s.usbLate t then (s.usbCount 0 3 1).emit (.usbHost t.addr t.ep ansNak [])
  else if x.noAns then (s.setPipe p k { x with noAns := false }).emit (.usbHost t.addr t.ep ansNone [])
  else if x.halted then s.emit (.usbHost t.addr t.ep ansStall [])
  else body

/-- The status stage of a control transfer answered to the host, which completes once the host has acknowledged it (R446, R447,
R451): a status IN it does not acknowledge can be repeated. -/
def State.ctrlStatus (s : State) (t : UsbTok) (p k : Nat) (acked : Bool) (ask : State) : State :=
  let x := (s.uport p).pipe k
  match x.status with
  | some _ =>
    let s := if acked then (s.setPipe p k { x with status := none, setup := [] }).statusDone p t.addr x.setup true else s
    s.emit (.usbHost t.addr t.ep (if x.ctrlIn then ansAck else ansData 1) [])
  | none => (if x.bursts.contains 3 then s else ask).emit (.usbHost t.addr t.ep ansNak [])

/-- OUT data of a transfer that is not isochronous (R447): a status stage, a repeat, no room, or data taken. -/
def State.outData (s : State) (t : UsbTok) (p k pid : Nat) (bytes : List Byte) (x : Pipe) : State :=
  if t.typ = 0 ∧ x.ctrlIn then
    s.ctrlStatus t p k true ((s.pipeMsg p 1 t.addr t.ep false x 1 0 0 [(1, [])]).setPipe p k
      { x with outst := x.outst + 1, bursts := x.bursts ++ [3], txSeq := (x.txSeq + 1) % 32 })
  else if pid % 2 ≠ b2n x.toggle then s.emit (.usbHost t.addr t.ep ansAck [])
  else
    let room := Config.usbPipeRoom - sumN (x.buf.map fun e => e.2.length)
    if room < bytes.length then s.emit (.usbHost t.addr t.ep ansNak [])
    else
      let s := s.setPipe p k { x with buf := x.buf ++ [(pid, bytes)], toggle := !x.toggle }
      let s := s.flushOut p t.addr t.ep s.usb.mframe k
      s.emit (.usbHost t.addr t.ep (if room - bytes.length < t.maxPkt then ansNyet else ansAck) [])

/-- A control transfer behind a local DFP whose status stage completes: the hub learns from it (R446). -/
def State.localStatus (s : State) (p : Nat) (t : UsbTok) (k : Nat) : State :=
  let x := (s.uport p).pipe k
  if t.typ ≠ 0 ∨ x.setup = [] then s else (s.setPipe p k { x with setup := [] }).statusDone p t.addr x.setup true

/-- A full- or low-speed periodic transaction behind a virtual port (R453). -/
def splitPeriodic (t : UsbTok) : Bool := t.split.isSome && decide (t.typ = 1 ∨ t.typ = 3)

/-- Periodic OUT data: isochronous packets are buffered and go out together as the microframe ends; those of a port that is not
LOCKED are missing. Interrupt data goes out at once (R447, R454, R456). -/
def State.periodicOut (s : State) (t : UsbTok) (p k pid : Nat) (bytes : List Byte) (x : Pipe) : State :=
  if t.typ = 1 ∧ !(s.uport p).locked then s.usbCount p 5 1
  else
    let s := s.setPipe p k { x with buf := x.buf ++ [(pid, bytes)], status := none }
    if t.typ = 1 then s else s.flushOut p t.addr t.ep s.usb.mframe k

/-- The isochronous OUT packets of the microframe that ends go out as one burst on each pipe of a port; with four bursts
outstanding they are missing (R449, R454). -/
def State.flushIso (s : State) (p : Nat) : State :=
  (s.uport p).pipes.foldl (fun s q =>
    if q.2.typ ≠ 1 ∨ q.1 % 2 = 1 ∨ q.2.buf = [] then s
    else if 4 ≤ q.2.outst then (s.setPipe p q.1 { q.2 with buf := [] }).usbCount p 5 q.2.buf.length
    else s.flushOut p (q.1 / 32) (q.1 / 2 % 16) s.usb.mframe q.1) s

/-- Periodic OUT data of a split: the start-split carries it, the complete-split has the device's answer once it is there
(R447, R453). -/
def State.outSplit (s : State) (t : UsbTok) (p k pid : Nat) (bytes : List Byte) (x : Pipe) : State :=
  if !t.complete then s.periodicOut t p k pid bytes x
  else s.pipeGate t p k <|
    match x.status with
    | some _ => (s.setPipe p k { x with status := none }).emit (.usbHost t.addr t.ep ansAck [])
    | none => s.emit (.usbHost t.addr t.ep (if x.outst = 0 then ansNak else ansNyet) [])

/-- USB_OUT_TOKEN (R446, R447, R453, R454); isochronous data is missing until the port is LOCKED (R456). -/
def effUsbOutToken (t : UsbTok) (pid : Nat) (bytes : List Byte) (s : State) : State :=
  let k := pipeKey t.addr t.ep t.typ false
  let loc (p : Nat) : State := if ((s.uport p).pipe k).ctrlIn then s.localStatus p t k else s
  s.serve t bytes loc fun p =>
    let x := { (s.uport p).pipe k with typ := t.typ, fsls := t.split.isSome }
    if splitPeriodic t then s.outSplit t p k pid bytes x
    else if t.typ = 1 then s.periodicOut t p k pid bytes x
    else s.pipeGate t p k (s.outData t p k pid bytes x)

def execUsbOutToken (t : UsbTok) (pid : Nat) (bytes : List Byte) (s : State) : Host.Outcome State Fault Refusal :=
  .next (effUsbOutToken t pid bytes s)

/-- USB_PING_TOKEN (R447). -/
def effUsbPingToken (t : UsbTok) (s : State) : State :=
  s.serve t [] (fun _ => s) fun p =>
    let k := pipeKey t.addr t.ep t.typ false
    let x := (s.uport p).pipe k
    s.pipeGate t p k <|
      let room := Config.usbPipeRoom - sumN (x.buf.map fun e => e.2.length)
      s.emit (.usbHost t.addr t.ep (if t.maxPkt ≤ room then ansAck else ansNak) [])

def execUsbPingToken (t : UsbTok) (s : State) : Host.Outcome State Fault Refusal := .next (effUsbPingToken t s)

/-- IN credit granted; the amount, 1 to 8, is a free value, and 1 for a start-split, which asks for one transaction (R450,
R453). -/
def State.grantIn (s : State) (t : UsbTok) (p k kind : Nat) : State :=
  let x := { (s.uport p).pipe k with typ := t.typ, fsls := t.split.isSome }
  if 4 ≤ x.outst then s
  else
    let n := (s.freeVal 3).toNat + 1
    let n := if splitPeriodic t then 1 else if t.typ = 3 then min n (8 - x.buf.length) else n
    let s := s.drew
    (s.pipeMsg p 2 t.addr t.ep true x n 0 s.usb.mframe []).setPipe p k
      { x with outst := x.outst + 1, bursts := x.bursts ++ [kind], txSeq := (x.txSeq + 1) % 32, grantAt := s.nowNs, naked := true }

/-- A packet tagged with its microframe has missed microframe `due`. -/
def isoLate (due : Nat) (e : Nat × List Byte) : Bool :=
  let d := (due + 16384 - e.1 / 4 % 16384) % 16384
  decide (0 < d ∧ d < 8192)

/-- Isochronous IN data: what was collected two microframes before, else an empty packet; more is asked for (R447, R454,
R456). -/
def State.inIso (s : State) (t : UsbTok) (p k : Nat) : State :=
  let u := s.uport p
  let x := u.pipe k
  let due := (s.usb.mframe + 16382) % 16384
  let buf := x.buf.dropWhile (isoLate due)
  let miss := (((if s.usbLate t then s.usbCount 0 3 1 else s).usbCount p 5 1).modUport p fun v => { v with
    pipes := v.pipes.write Pipe.init k { x with buf := buf } }).emit (.usbHost t.addr t.ep (ansData 0) [])
  let s := match buf with
    | e :: rest =>
      if u.locked ∧ e.1 / 4 = due ∧ !s.usbLate t then
        (s.setPipe p k { x with buf := rest }).emit (.usbHost t.addr t.ep (ansData (e.1 % 4)) e.2)
      else miss
    | [] => miss
  s.grantIn t p k 2

/-- A packet the host has acknowledged leaves the buffer, and credit is granted again (R450). -/
def State.inTaken (s : State) (t : UsbTok) (p k : Nat) (rest : List (Nat × List Byte)) : State :=
  let x := (s.uport p).pipe k
  let s := s.setPipe p k { x with buf := rest, toggle := !x.toggle }
  if rest.length < 8 ∧ x.outst = 0 ∧ s.nowNs ≤ x.grantAt + 1000000 then s.grantIn t p k 2 else s

/-- IN data of a transfer that is not isochronous (R447, R450). -/
def State.inData (s : State) (t : UsbTok) (p k : Nat) (acked : Bool) : State :=
  let x := (s.uport p).pipe k
  if t.typ = 0 ∧ !x.ctrlIn then s.ctrlStatus t p k acked (s.grantIn t p k 3)
  else match x.buf with
    | e :: rest =>
      let s := s.emit (.usbHost t.addr t.ep (ansData (b2n x.toggle)) e.2)
      if acked then s.inTaken t p k rest else s
    | [] =>
      let s := if x.bursts.contains 2 ∨ (t.typ = 3 ∧ 8 ≤ x.buf.length) then s else s.grantIn t p k 2
      s.emit (.usbHost t.addr t.ep ansNak [])

/-- A packet tagged with its microframe has missed frame `due`. -/
def frameLate (due : Nat) (e : Nat × List Byte) : Bool :=
  let d := (due + 2048 - e.1 / 32 % 2048) % 2048
  decide (0 < d ∧ d < 1024)

/-- Periodic IN data of a split: the start-split asks for a transaction, the complete-splits two frames later return the data of
the frame between (R447, R453). -/
def State.inSplit (s : State) (t : UsbTok) (p k : Nat) : State :=
  if !t.complete then s.grantIn t p k 2
  else s.pipeGate t p k <|
    let u := s.uport p
    let x := u.pipe k
    let due := (s.usb.mframe / 8 + 2047) % 2048
    let buf := x.buf.dropWhile (frameLate due)
    let none' := (s.setPipe p k { x with buf := buf }).emit (.usbHost t.addr t.ep (if x.outst = 0 then ansNak else ansNyet) [])
    match buf with
    | e :: rest =>
      if e.1 / 32 = due ∧ (t.typ = 3 ∨ u.locked) then
        (s.setPipe p k { x with buf := rest, toggle := !x.toggle }).emit
          (.usbHost t.addr t.ep (ansData (if t.typ = 1 then e.1 % 4 else b2n x.toggle)) e.2)
      else none'
    | [] => none'

/-- USB_IN_TOKEN (R446, R447, R450, R453, R454). -/
def effUsbInToken (t : UsbTok) (acked : Bool) (s : State) : State :=
  let k := pipeKey t.addr t.ep t.typ true
  let loc (p : Nat) : State := if acked ∧ !((s.uport p).pipe k).ctrlIn then s.localStatus p t k else s
  s.serve t [] loc fun p =>
    if splitPeriodic t then s.inSplit t p k else if t.typ = 1 then s.inIso t p k else s.pipeGate t p k (s.inData t p k acked)

def execUsbInToken (t : UsbTok) (acked : Bool) (s : State) : Host.Outcome State Fault Refusal :=
  .next (effUsbInToken t acked s)

/-! ### Power, requests and bus events -/

/-- A port's power switched; each change raises its generation (R463). USB_PWREN stays low outside Field and Holdover (R436). -/
def State.usbPower (s : State) (p : Nat) (on : Bool) : State :=
  let u := s.uport p
  let blocked := on && u.ocLow
  if blocked then s
  else
    let changed := decide (on ≠ (u.status &&& psPower != 0))
    let s := s.setUport p { u with
      st := if on then (if u.st = upOff then upDisc else u.st) else upOff
      status := if on then u.status ||| psPower else 0
      pwren := if p ≤ 4 then on && s.working else u.pwren }
    let s := if changed then s.raiseGen p else s
    if u.mapped.isSome ∧ changed then s.portMsg p (if on then 0 else 1) else s

/-- Power of a DFP that serves as a far end, for its remote port: the near hub's order, while the policy set here lets it (R439,
R463). Both ends hold the near hub's generation: it rises here only with a DISCONNECT that tells the near hub (R444). -/
def State.farPower (s : State) (p : Nat) : State :=
  let u := s.uport p
  let on := decide (u.policy = 0) && u.hostPwr && !u.ocLow && !u.ocOff && s.working
  if on then s.setUport p { u with pwren := true, st := if u.st = upOff then upDisc else u.st }
  else
    let t := s.setUport p { u with pwren := false, st := upOff, locked := false, hostRes := false }
    if upDisabled ≤ u.st then (t.portMsg p 1).raiseGen p else t

/-- Power as the policy and the host's requests have it (R463). -/
def State.usbRepower (s : State) (p : Nat) : State :=
  let u := s.uport p
  if u.far.isSome then s.farPower p else s.usbPower p (decide (u.policy = 3) || (decide (u.policy = 0) && u.hostPwr))

/-- A request has come that may bring power back after an overcurrent, if USB_OC_N has gone high (R441). -/
def State.ocDone (s : State) (p : Nat) : State := s.modUport p fun u => { u with ocOff := u.ocOff && u.ocLow }

/-- A hub-class request to a port (R438, R440, R441, R444, R458). -/
def State.portFeature (s : State) (p : Nat) (set : Bool) (feature : Nat) : State :=
  let u := s.uport p
  if set then
    if feature = 4 then
      if u.st = upOff ∨ u.st = upDisc ∨ u.code p = 7 then s
      else
        let s := ((s.modUport p fun u => { u with
          st := upResetting, status := (u.status ||| psReset) &&& ~~~(psEnable ||| psSuspend), locked := false, busAt := s.uptime + 1 }).usbCount p 1 1)
        let s := (s.raiseGen p).clearAddrs p
        if u.mapped.isSome then s.portMsg p 2 else s.emit (.usbBus p 0 [])
    else if feature = 2 then
      if u.st ≠ upEnabled then s
      else
        let s := s.modUport p fun u => { u with st := upSuspended, status := u.status ||| psSuspend }
        if u.mapped.isSome then s.portMsg p 4 else s.emit (.usbBus p 2 [])
    else if feature = 8 then
      let s := (s.modUport p fun u => { u with hostPwr := true }).ocDone p
      if u.policy = 0 then s.usbPower p true else s
    else s
  else
    if feature = 1 then
      if u.st ≠ upEnabled ∧ u.st ≠ upSuspended then s
      else
        let s := (s.modUport p fun u => { u with st := upDisabled, status := u.status &&& ~~~(psEnable ||| psSuspend) }).raiseGen p
        if u.mapped.isSome then s.portMsg p 3 else s.emit (.usbBus p 3 [])
    else if feature = 2 then
      if u.st ≠ upSuspended then s
      else
        let s := s.modUport p fun u => { u with st := upResuming, hostRes := true, wakeSrc := 1, busAt := s.uptime + 1 }
        if u.mapped.isSome then s.portMsg p 5 else s.emit (.usbBus p 1 [])
    else if feature = 8 then
      let s := s.modUport p fun u => { u with hostPwr := false }
      if u.policy = 0 then s.usbPower p false else s
    else if 16 ≤ feature ∧ feature ≤ 20 then
      s.modUport p fun u => { u with change := u.change &&& ~~~(BitVec.ofNat 16 (2 ^ (feature - 16))) }
    else s

/-- String descriptor `i` of the image's strings: a length byte and UTF-16LE each (Tables 14.1 and 18.9). -/
def usbString (bs : List Byte) (i : Nat) : Option (List Byte) :=
  let n := (bs.headD 0).toNat
  let str := if i = 1 then (bs.drop 1).take n else (bs.drop (2 + n)).take ((bs.drop (1 + n)).headD 0).toNat
  if bs = [] ∨ str = [] then none else some ([BitVec.ofNat 8 (str.length + 2), 3] ++ str)

/-- The hub's descriptors with the values of Table 14.1, in the layouts of USB 2.0 (log entry 22). -/
def State.usbDescriptor (s : State) (typ i : Nat) : Option (List Byte) :=
  let n := 4 + s.usb.vports
  match typ with
  | 1 => some ([18, 1, 0x00, 0x02, 9, 0, 1, 64] ++ leBytes 2 s.usb.vid.toNat ++ leBytes 2 s.usb.pid.toNat
      ++ [0x21, 0x00, BitVec.ofNat 8 (if (usbString s.usb.strings 1).isSome then 1 else 0),
          BitVec.ofNat 8 (if (usbString s.usb.strings 2).isSome then 2 else 0), 0, 1])
  | 2 => some ([9, 2, 25, 0, 1, 1, 0, 0xE0, 0, 9, 4, 0, 0, 1, 9, 0, 0, 0, 7, 5, 0x81, 3]
      ++ leBytes 2 (n / 8 + 1) ++ [if s.usb.hs then 12 else 255])
  | 3 => if i = 0 then (if s.usb.strings = [] then none else some [4, 3, 0x09, 0x04]) else if i ≤ 2 then usbString s.usb.strings i else none
  | 0x29 => some ([BitVec.ofNat 8 (7 + 2 * (n / 8 + 1)), 0x29, BitVec.ofNat 8 n, 0x09, 0x00, 10, 0]
      ++ leBytes (n / 8 + 1) (2 * (15 - s.usb.removable.toNat)) ++ List.replicate (n / 8 + 1) 0xFF)
  | _ => none

/-- USB_HUB_REQUEST: a request of the host to the hub or to one of its ports (R437, R438). -/
def effUsbHubRequest (bm req val idx len : Nat) (s : State) : State :=
  if !s.usb.attached then s
  else if bm = 0x23 ∧ (req = 3 ∨ req = 1) then
    let p := idx % 256
    if !s.usbPort p ∨ (p ≤ 4 ∧ (s.uport p).far.isSome) then s.emit (.usbHost s.usb.address 0 ansStall [])
    else if val = 21 then s.emit (.usbHost s.usb.address 0 (if p ≤ 4 then ansAck else ansStall) [])
    else (s.portFeature p (decide (req = 3)) val).emit (.usbHost s.usb.address 0 ansAck [])
  else if bm = 0xA3 ∧ req = 0 then
    let p := idx % 256
    let u := s.uport p
    if !s.usbPort p then s.emit (.usbHost s.usb.address 0 ansStall [])
    else
      let far := decide (p ≤ 4) && u.far.isSome
      s.emit (.usbHost s.usb.address 0 (ansData 1)
        (leBytes 2 (if far then (u.status &&& psPower).toNat else u.status.toNat) ++ leBytes 2 u.change.toNat))
  else if bm = 0 ∧ req = 5 then { s with usb := { s.usb with address := val % 128 } }.emit (.usbHost 0 0 ansAck [])
  else if bm = 0 ∧ req = 9 then
    { s with usb := { s.usb with configured := decide (val = 1) } }.emit (.usbHost s.usb.address 0 ansAck [])
  else if bm = 0 ∧ (req = 3 ∨ req = 1) ∧ val = 1 then
    { s with usb := { s.usb with rwEnable := decide (req = 3) } }.emit (.usbHost s.usb.address 0 ansAck [])
  else if (bm = 0x80 ∨ bm = 0xA0) ∧ req = 6 then
    match s.usbDescriptor (val / 256) (val % 256) with
    | some d => s.emit (.usbHost s.usb.address 0 (ansData 1) (d.take len))
    | none => s.emit (.usbHost s.usb.address 0 ansStall [])
  else if bm = 0x80 ∧ req = 0 then
    s.emit (.usbHost s.usb.address 0 (ansData 1) ([BitVec.ofNat 8 (1 + 2 * b2n s.usb.rwEnable), 0].take len))
  else if bm = 0x80 ∧ req = 8 then
    s.emit (.usbHost s.usb.address 0 (ansData 1) ([BitVec.ofNat 8 (b2n s.usb.configured)].take len))
  else if bm = 0x81 ∧ req = 10 then s.emit (.usbHost s.usb.address 0 (ansData 1) (([0] : List Byte).take len))
  else if (bm = 0x81 ∨ bm = 0x82) ∧ req = 0 then s.emit (.usbHost s.usb.address 0 (ansData 1) (([0, 0] : List Byte).take len))
  else if (bm = 0x20 ∧ (req = 3 ∨ req = 1) ∧ val ≤ 1) ∨ (bm = 0x23 ∧ (req = 8 ∨ req = 9 ∨ req = 11)) then
    s.emit (.usbHost s.usb.address 0 ansAck [])
  else if bm = 0xA0 ∧ req = 0 then s.emit (.usbHost s.usb.address 0 (ansData 1) (([0, 0, 0, 0] : List Byte).take len))
  else s.emit (.usbHost s.usb.address 0 ansStall [])

def execUsbHubRequest (bmType bRequest wValue wIndex wLength : Nat) (s : State) : Host.Outcome State Fault Refusal :=
  .next (effUsbHubRequest bmType bRequest wValue wIndex wLength s)

/-- One port at a bus reset (R457). -/
def State.busResetPort (s : State) (p : Nat) : State :=
  let u := s.uport p
  if p ≤ 4 ∧ u.far.isSome then s
  else
    let s := (s.setUport p { u with st := upOff, status := 0, change := 0, hostRes := false, locked := false, hostPwr := false,
                                    pwren := if p ≤ 4 then decide (u.policy = 3) else u.pwren }).raiseGen p
    let s := if u.mapped.isSome then s.portMsg p 1 else s
    s.usbEvent p 7 stOk 0

/-- The hub's ports: DFP 1 to 4 and the virtual ports. -/
def State.allPorts (s : State) : List Nat := ((List.range 12).map (· + 1)).filter s.usbPort

/-- A bus reset on the UFP (R457). -/
def State.busReset (s : State) : State :=
  let s := { s with usb := { s.usb with addrMap := [], addr0 := 0, pendAddr := none, address := 0, configured := false,
                                        suspended := false, rwEnable := false, sofSeen := false } }
  (s.allPorts.foldl State.busResetPort s).usbCount 0 0 1

/-- USB_BUS_RESET (R457). -/
def execUsbBusReset (s : State) : Host.Outcome State Fault Refusal :=
  .next (if s.usb.attached then { s.busReset with usb := { s.busReset.usb with hs := true } } else s)

/-- The UFP may be attached (R436). -/
def State.mayAttach (s : State) : Bool := s.ufpActive && s.usb.vbus && s.working && s.usb.detachEnd.isNone

/-- USB_PWREN of a DFP whose policy is ON, once the block may drive it; after an overcurrent it waits for a request (R436, R441,
R463). -/
def State.pwrenOn (s : State) (p : Nat) : State :=
  let u := s.uport p
  if u.policy = 3 ∧ s.usbPresent ∧ s.working ∧ !u.pwren ∧ !u.ocOff then s.usbPower p true else s

/-- The attachment and USB_PWREN follow their conditions (R436). -/
def State.usbAttach (s : State) : State :=
  let s := [1, 2, 3, 4].foldl State.pwrenOn s
  if s.mayAttach then { s with usb := { s.usb with attached := true } }
  else { s with usb := { s.usb with attached := false, hs := false, sofSeen := false } }

/-- Every DFP switched off and the UFP detached; each change of power raises the generation (R436, R463). -/
def State.usbDetachAll (s : State) : State :=
  { s with usb := { s.usb with attached := false, hs := false, configured := false, suspended := false, address := 0,
                               sofSeen := false
                               ports := Tab.mapAll UPort.init s.usb.ports fun _ u =>
                                 { u with pwren := false, st := upOff, status := 0, pipes := [], locked := false, hostRes := false
                                          gen := if u.pwren || u.status &&& psPower != 0 then u.gen + 1 else u.gen } } }

/-- VBUS_CHANGE (R436). -/
def effVbusChange (valid : Bool) (s : State) : State :=
  if valid then { s with usb := { s.usb with vbus := true } }.usbAttach
  else
    let s := if s.usb.attached then s.busReset else s
    { s with usb := { s.usb with vbus := false } }.usbAttach

def execVbusChange (valid : Bool) (s : State) : Host.Outcome State Fault Refusal := .next (effVbusChange valid s)

/-- The SOFREP of one enabled remote port (R454). -/
def State.sofRep (s : State) (u : UPort) (mframe : Nat) : State :=
  match u.mapped with
  | some m =>
    if u.st = upEnabled then
      s.sendTunnel (s.outTid (m.pair 1)) false (usbMsg 6 0 0 0 false 0 false u.gen.toNat 0 0 0 mframe s.nowNs [])
    else s
  | none => s

/-- USB_SOF: the isochronous OUT data of the microframe that ends goes out, and the SOF is stamped, with a SOFREP for each enabled remote port (R454). -/
def effUsbSof (mframe : Nat) (s : State) : State :=
  if !s.usb.attached then s
  else
    let missed := s.usb.sofSeen && decide ((s.usb.mframe + 1) % 16384 ≠ mframe)
    let s := s.usb.ports.foldl (fun s q => if q.2.mapped.isSome then s.flushIso q.1 else s) s
    let s := { s with usb := { s.usb with mframe := mframe, sofSeen := true } }
    let s := if missed then s.usbCount 0 5 1 else s
    s.usb.ports.foldl (fun s q => s.sofRep q.2 mframe) s

def execUsbSof (mframe : Nat) (s : State) : Host.Outcome State Fault Refusal := .next (effUsbSof mframe s)

/-- OVERCURRENT_FILTER: USB_OC_N low for 8 ms (R441). -/
def effOvercurrentFilter (p : Nat) (s : State) : State :=
  let u := s.uport p
  if !s.usbPresent ∨ p = 0 ∨ 4 < p ∨ !s.usbPort p ∨ u.ocLow then s
  else
    let s := (s.setUport p { u with ocLow := true, ocOff := true, pwren := false, st := upOff, status := psOver, change := u.changed psOver }).usbCount p 0 1
    let s := if u.far.isSome then s.portMsg p 3 else s
    let s := (s.raiseGen p).clearAddrs p
    if u.far.isSome then s else s.usbEvent p 3 stLimit 0

def execOvercurrentFilter (port : Nat) (s : State) : Host.Outcome State Fault Refusal := .next (effOvercurrentFilter port s)

/-- USB_OC_N_RELEASE: power may return (R441). -/
def effUsbOcNRelease (p : Nat) (s : State) : State :=
  let u := s.uport p
  if !s.usbPresent ∨ !u.ocLow then s
  else
    let s := s.setUport p { u with ocLow := false, status := u.status &&& ~~~psOver, change := u.changed psOver }
    if u.far.isSome then s.portMsg p 4 else s.usbEvent p 4 stOk 0

def execUsbOcNRelease (port : Nat) (s : State) : Host.Outcome State Fault Refusal := .next (effUsbOcNRelease port s)

/-- Speed bits of wPortStatus. -/
def speedBits (speed : Nat) : BitVec 16 := if speed = 1 then psLow else if speed = 2 then psHigh else 0

/-- CONNECT_DEBOUNCE: attach seen for 100 ms; a far end debounces once its tunnels are OPEN (R440, R444, R445). -/
def effConnectDebounce (p speed : Nat) (s : State) : State :=
  let u := s.uport p
  let away : Bool := match u.far with
    | some m => !s.tunOpen m.main || (decide (m.per ≠ 0) && !s.tunOpen m.per)
    | none => false
  if !s.usbPresent ∨ p = 0 ∨ 4 < p ∨ u.st ≠ upDisc ∨ away = true then s
  else
    let s := s.setUport p { u with st := upDisabled, speed := speed, status := u.status ||| psConn ||| speedBits speed, change := u.changed psConn }
    if u.far.isSome then (s.portMsg p 0).raiseGen p else (s.raiseGen p).usbEvent p 1 stOk 0

def execConnectDebounce (port speed : Nat) (s : State) : Host.Outcome State Fault Refusal := .next (effConnectDebounce port speed s)

/-- DEVICE_DISCONNECT (R444, R446). -/
def effDeviceDisconnect (p : Nat) (s : State) : State :=
  let u := s.uport p
  if !s.usbPresent ∨ p = 0 ∨ 4 < p ∨ u.st < upDisabled then s
  else
    let s := s.setUport p { u with st := upDisc, status := u.status &&& psPower, change := u.changed psConn, locked := false, hostRes := false }
    if u.far.isSome then (s.portMsg p 1).raiseGen p
    else ((s.raiseGen p).clearAddrs p).usbEvent p 2 stOk 0

def execDeviceDisconnect (port : Nat) (s : State) : Host.Outcome State Fault Refusal := .next (effDeviceDisconnect port s)

/-- The end of a port reset (R440, R446). -/
def State.resetDone (s : State) (p speed : Nat) : State :=
  let u := s.uport p
  let s := (s.setUport p { u with st := upEnabled, speed := speed, change := u.change ||| psReset, locked := false
                                  status := (u.status &&& ~~~(psReset ||| psSuspend ||| psLow ||| psHigh)) ||| psEnable ||| speedBits speed }).clearAddrs p
  { s with usb := { s.usb with addr0 := p } }

/-- PORT_RESET_END: the 15 ms reset ends (R440). -/
def effPortResetEnd (p speed : Nat) (s : State) : State :=
  let u := s.uport p
  if !s.usbPresent ∨ p = 0 ∨ 4 < p ∨ u.st ≠ upResetting ∨ !s.passed u.busAt 6000000 then s
  else if u.far.isSome then
    (s.setUport p { u with st := upEnabled, speed := speed, acq := true, locked := false, hostH := none }).portMsg p 2
  else s.resetDone p speed

def execPortResetEnd (port speed : Nat) (s : State) : Host.Outcome State Fault Refusal := .next (effPortResetEnd port speed s)

/-- A port back from resume (R458). -/
def State.resumed (s : State) (p : Nat) : State :=
  (s.modUport p fun u => { u with st := upEnabled, hostRes := false, status := u.status &&& ~~~psSuspend,
                                  change := u.change ||| (u.status &&& psSuspend) }).usbEvent p 5 stOk 0

/-- RESUME_END: the 20 ms resume ends (R440, R458). -/
def effResumeEnd (p : Nat) (s : State) : State :=
  let u := s.uport p
  if !s.usbPresent ∨ p = 0 ∨ 4 < p ∨ u.st ≠ upResuming ∨ !s.passed u.busAt 8000000 then s
  else if u.far.isSome then (s.setUport p { u with st := upEnabled, hostRes := false }).portMsg p 5
  else s.resumed p

def execResumeEnd (port : Nat) (s : State) : Host.Outcome State Fault Refusal := .next (effResumeEnd port s)

/-- SUSPEND_IDLE: the UFP has been idle for 3 ms and the hub suspends, its enabled ports with it; PORT_SUSPEND stays
clear for those (R440). -/
def effSuspendIdle (s : State) : State :=
  if !s.usb.attached ∨ s.usb.suspended then s
  else
    let s := { s with usb := { s.usb with suspended := true, sofSeen := false } }.usbCount 0 1 1
    s.allPorts.foldl (fun (s : State) p =>
      let u := s.uport p
      if u.st ≠ upEnabled ∨ (p ≤ 4 ∧ u.far.isSome) then s
      else
        let s := s.setUport p { u with st := upSuspended }
        if u.mapped.isSome then s.portMsg p 4 else s.emit (.usbBus p 2 [])) s

def execSuspendIdle (s : State) : Host.Outcome State Fault Refusal := .next (effSuspendIdle s)

/-- GLOBAL_RESUME: a host resume begins on every port suspended with the hub; a port the host suspended stays so, as
USB 2.0 gives (R458). -/
def effGlobalResume (s : State) : State :=
  if !s.usb.suspended then s
  else
    { s with usb := { s.usb with suspended := false } }.allPorts.foldl (fun s p =>
      if (s.uport p).st = upSuspended ∧ (s.uport p).status &&& psSuspend = 0 ∧ ((s.uport p).far.isNone ∨ 4 < p) then s.portFeature p false 2 else s)
      { s with usb := { s.usb with suspended := false } }

def execGlobalResume (s : State) : Host.Outcome State Fault Refusal := .next (effGlobalResume s)

/-- A remote wake taken by the near hub or on a local port (R458). -/
def State.remoteWake (s : State) (p : Nat) : State :=
  let u := s.uport p
  if u.hostRes then (s.setUport p { u with wakeSrc := 3 }).usbCount 0 2 1
  else if u.st ≠ upSuspended then s
  else
    let s := (s.setUport p { u with st := upResuming, wakeSrc := 2, busAt := s.uptime + 1 }).usbEvent p 6 stOk 0
    let s := if u.mapped.isSome then s.portMsg p 5 else s.emit (.usbBus p 1 [])
    if s.usb.suspended ∧ s.usb.rwEnable then s.emit (.usbBus 0 1 []) else s

/-- DEVICE_REMOTE_WAKE (R458): a far end tells the near hub, which absorbs a wake that its host resume has overtaken and reports
it so; no resume of the far end's own follows. -/
def effDeviceRemoteWake (p : Nat) (s : State) : State :=
  let u := s.uport p
  if !s.usbPresent ∨ p = 0 ∨ 4 < p then s
  else if u.far.isSome then
    if u.st = upSuspended then s.portMsg p 6
    else if u.st = upResuming then (s.setUport p { u with wakeSrc := 3 }).portMsg p 6 else s
  else s.remoteWake p

def execDeviceRemoteWake (port : Nat) (s : State) : Host.Outcome State Fault Refusal := .next (effDeviceRemoteWake port s)

/-! ### The far hub (R448 to R452) -/

/-- A periodic tunnel that ends at a DFP already a far end is that port's (R442, R443, log entry 23). -/
def State.usbAdopt (s : State) (tid : Nat) : State :=
  let g := s.gaz tid
  let d := epIndex g.dstEp
  let e := tid / 2 * 2
  if g.cls ≠ clsUsb ∨ epBlock g.dstEp ≠ 5 ∨ 4 < d then s
  else match (s.uport d).far with
    | some m => if m.main ≠ e ∧ m.per = 0 then s.modUport d fun u => { u with far := some { m with per := e } } else s
    | none => s

/-- A message at the far end: its port, its pipe, and the checks of R444, R449 and R459. -/
def State.farMsg (s : State) (tid op : Nat) (bytes : List Byte) (body : State → Nat → UsbHdr → Nat → Pipe → State) : State :=
  let h := usbHdr bytes
  let s := s.usbAdopt tid
  match s.usbMsgPort tid with
  | none => s
  | some p =>
    let u := s.uport p
    let k := pipeKey h.addr h.ep h.typ h.dirIn
    let x := u.pipe k
    if u.far.isNone ∨ (h.op ≠ op ∧ h.op < 7) then s
    else if !h.ok then s.usbCount p 3 1
    else if h.gen ≠ u.gen.toNat then s.usbCount p 2 1
    else if h.pseq ≠ x.rxSeq then s.proxyError p
    else body s p h k { x with rxSeq := (x.rxSeq + 1) % 32, typ := h.typ, fsls := h.fsls }

/-- A RESULT for the oldest message of a pipe (R449, Table 14.5). -/
def State.result (s : State) (p addr ep : Nat) (dirIn : Bool) (x : Pipe) (code : Nat) : State :=
  s.pipeMsg p 4 addr ep dirIn x 0 code 0 []

/-- Every outstanding message of a pipe answered CANCELLED. -/
def State.cancelAll (s : State) (p addr ep : Nat) (dirIn : Bool) (x : Pipe) : Nat → State
  | 0 => s
  | n + 1 => (s.result p addr ep dirIn x 3).cancelAll p addr ep dirIn { x with txSeq := (x.txSeq + 1) % 32 } n

/-- USB_SETUP_MESSAGE: the far hub takes a SETUP, which supersedes the pipe's work (R447, R448). -/
def effUsbSetupMessage (tid : Nat) (bytes : List Byte) (s : State) : State :=
  s.farMsg tid 0 bytes fun s p h k x =>
    let n := x.bursts.length
    let s := s.cancelAll p h.addr h.ep false x n
    s.setPipe p k { x with txSeq := (x.txSeq + n) % 32, bursts := [1], mfs := [h.mframe], buf := h.es.take 1, credit := 0, errs := 0, halted := false, owed := none,
                           toggle := false, setup := match h.es with
                             | e :: _ => e.2
                             | [] => [] }

def execUsbSetupMessage (tid : Nat) (bytes : List Byte) (s : State) : Host.Outcome State Fault Refusal :=
  .next (effUsbSetupMessage tid bytes s)

/-- A message for a halted pipe is CANCELLED, its OUT packets dropped and counted (R452). -/
def State.refuseHalted (s : State) (p : Nat) (h : UsbHdr) (k : Nat) (x : Pipe) (n : Nat) : State :=
  ((s.result p h.addr h.ep h.dirIn x 3).setPipe p k { x with txSeq := (x.txSeq + 1) % 32 }).usbCount p 7 n

/-- The oldest message of a far pipe answered and dropped. -/
def Pipe.answered (x : Pipe) : Pipe := { x with
  txSeq := (x.txSeq + 1) % 32, bursts := x.bursts.drop 1, mfs := x.mfs.drop 1, errs := 0 }

/-- The IN data collected on a far pipe sent as one burst (R449, R450). -/
def State.sendIn (s : State) (p addr ep k : Nat) (y : Pipe) (mf : Nat) : State :=
  (s.pipeMsg p 3 addr ep true y y.buf.length 0 mf y.buf).setPipe p k { y.answered with buf := [], credit := 0 }

/-- A pipe's oldest message answered with RESULT STALL (`code` 1), the rest of its work CANCELLED and a pipe other than control
halted, or with RESULT ERR (2) (R448, R449, R452). -/
def State.failNow (s : State) (p addr ep k : Nat) (dirIn ctrl : Bool) (x : Pipe) (code : Nat) : State :=
  let s := s.result p addr ep dirIn x code
  let y := { x.answered with owed := none, credit := 0 }
  if code = 2 then s.setPipe p k { y with buf := x.buf.drop ((x.bursts.head?).getD 0) }
  else
    let n := y.bursts.length
    ((s.cancelAll p addr ep dirIn y n).setPipe p k
      { y with txSeq := (y.txSeq + n) % 32, bursts := [], mfs := [], buf := [], halted := !ctrl }).usbCount p 7
      (if dirIn then 0 else x.buf.length - 1)

/-- A pipe fails: IN data collected before goes first, as the answer of the oldest message, and the RESULT answers the next one, now
or when it comes: one answer a message (R448, R449). -/
def State.failPipe (s : State) (p addr ep k : Nat) (dirIn ctrl : Bool) (x : Pipe) (code : Nat) : State :=
  if !dirIn ∨ x.buf = [] then s.failNow p addr ep k dirIn ctrl x code
  else
    let s := s.sendIn p addr ep k x (s.uport p).mf
    let y := (s.uport p).pipe k
    if y.bursts = [] then s.setPipe p k { y with owed := some code } else s.failNow p addr ep k dirIn ctrl y code

/-- A message has joined a far pipe's work: a RESULT that is owed answers it (R448, R449). -/
def State.joined (s : State) (p : Nat) (h : UsbHdr) (k : Nat) (y : Pipe) : State :=
  match y.owed with
  | some code => s.failNow p h.addr h.ep k h.dirIn (decide (h.typ = 0)) y code
  | none => s.setPipe p k y

/-- OUTDATA: the far hub takes OUT data for its device (R448). -/
def effOutdata (tid : Nat) (bytes : List Byte) (s : State) : State :=
  s.farMsg tid 1 bytes fun s p h k x =>
    if x.halted then s.refuseHalted p h k x h.es.length
    else s.joined p h k { x with bursts := x.bursts ++ [h.es.length], mfs := x.mfs ++ [h.mframe], buf := x.buf ++ h.es }

def execOutdata (tid : Nat) (bytes : List Byte) (s : State) : Host.Outcome State Fault Refusal := .next (effOutdata tid bytes s)

/-- INREQ: the far hub takes IN credit (R450). -/
def effInreq (tid : Nat) (bytes : List Byte) (s : State) : State :=
  s.farMsg tid 2 bytes fun s p h k x =>
    if x.halted then s.refuseHalted p h k x 0
    else s.joined p h k { x with bursts := x.bursts ++ [0], mfs := x.mfs ++ [h.mframe], credit := h.count }

def execInreq (tid : Nat) (bytes : List Byte) (s : State) : Host.Outcome State Fault Refusal := .next (effInreq tid bytes s)

/-- How far the microframe under way lies beyond the one in which the oldest message of a pipe runs: an isochronous OUT of
microframe n in n + 2, a full- or low-speed periodic transaction of frame f - 1 in frame f (counted in microframes of the frame);
none where no microframe is set (R453, R454). -/
def Pipe.slip (x : Pipe) (dirIn : Bool) (mf : Nat) : Option Nat :=
  let m := (x.mfs.head?).getD 0
  if x.fsls ∧ (x.typ = 1 ∨ x.typ = 3) then some ((mf / 8 + 4095 - m / 8) % 2048 * 8)
  else if x.typ = 1 ∧ !dirIn then some ((mf + 32766 - m) % 16384)
  else none

/-- The oldest message of a pipe may run in the microframe under way (R453, R454). -/
def Pipe.runs (x : Pipe) (dirIn : Bool) (mf : Nat) : Bool := (x.slip dirIn mf).getD 0 = 0

/-- The oldest message of a pipe has missed its microframe. -/
def Pipe.missed (x : Pipe) (dirIn : Bool) (mf : Nat) : Bool :=
  decide (x.bursts ≠ []) && (match x.slip dirIn mf with
    | some d => decide (0 < d ∧ d < 8192)
    | none => false)

/-- A message that has missed its microframe is CANCELLED, and isochronous packets of it count in ISO_MISS (R443, R453). -/
def State.missOne (s : State) (p k : Nat) : State :=
  let u := s.uport p
  let x := u.pipe k
  let dirIn := decide (k % 2 = 1)
  let n := (x.bursts.head?).getD 0
  if !x.missed dirIn u.mf then s
  else
    (((s.result p (k / 32) (k / 2 % 16) dirIn x 3).setPipe p k { x.answered with buf := x.buf.drop n, credit := 0 }).usbCount p 5
      (if x.typ = 1 then max 1 n else 0))

/-- Every message that the start of a microframe finds late (R453, R454). -/
def State.missAll (s : State) (p : Nat) : State :=
  ((s.uport p).pipes.map Prod.fst).foldl (fun s k => [0, 1, 2, 3].foldl (fun s _ => s.missOne p k) s) s

/-- A periodic pipe has a message to run in the microframe under way and has had no transaction in it (R448). -/
def Pipe.waits (x : Pipe) (dirIn : Bool) (mf : Nat) : Bool :=
  decide (x.typ = 1 ∨ x.typ = 3) && decide (x.bursts ≠ []) && !x.tried && x.runs dirIn mf

/-- A transaction has to wait: of a control or bulk pipe for the periodic pipes of the microframe, of an interrupt pipe that the
device has answered NAK for its next interval, one microframe or more later (R448; log entry 55). -/
def UPort.farHeld (u : UPort) (x : Pipe) : Bool :=
  if x.typ = 1 then false else if x.typ = 3 then x.naked else u.pipes.any fun q => q.2.waits (decide (q.1 % 2 = 1)) u.mf

/-- FAR_BUS_TRANSACTION: a transaction on the far bus ends (R448 to R454), one that its microframe allows. The far hub stops the
INs at the end of the credit and at a short or empty packet; the last packet of an isochronous microframe, DATA0, ends its
burst. -/
def effFarBusTransaction (p addr ep : Nat) (dirIn : Bool) (res pid : Nat) (data : List Byte) (s : State) : State :=
  let u := s.uport p
  let kc := pipeKey addr ep 0 false
  let ctrl := decide ((u.pipe kc).typ = 0 ∧ (u.pipe kc).bursts ≠ [])
  let k := if ctrl then kc else pipeKey addr ep 2 dirIn
  let x : Pipe := { u.pipe k with tried := true }
  if !s.usbPresent ∨ u.far.isNone ∨ x.bursts = [] ∨ !x.runs dirIn u.mf ∨ u.farHeld x then s
  else if res = 2 then s.setPipe p k { x with errs := 0, naked := true }
  else if res = 3 then
    let s := s.usbCount p 6 1
    if x.errs + 1 < 3 then s.setPipe p k { x with errs := x.errs + 1 } else s.failPipe p addr ep k dirIn ctrl x 2
  else if res = 1 then s.failPipe p addr ep k dirIn ctrl x 1
  else if dirIn then
    if ctrl ∧ !x.ctrlIn then
      ((s.result p addr ep dirIn x 0).setPipe p k x.answered).statusDone p addr x.setup false
    else if x.typ ≠ 1 ∧ pid % 2 ≠ b2n x.toggle then s.setPipe p k { x with errs := 0 }
    else
      let y : Pipe := { x with buf := x.buf ++ [(pid, data)], credit := x.credit - 1, toggle := !x.toggle, errs := 0 }
      if y.credit = 0 ∨ res = 4 ∨ data.isEmpty ∨ (x.typ = 1 ∧ pid = 0) then s.sendIn p addr ep k y u.mf
      else s.setPipe p k y
  else
    let left := (x.bursts.head?).getD 0
    let y : Pipe := { x with buf := x.buf.drop 1, toggle := !x.toggle, errs := 0 }
    if left ≤ 1 then
      let s := (s.result p addr ep dirIn y 0).setPipe p k y.answered
      if ctrl ∧ x.ctrlIn ∧ data.isEmpty ∧ x.buf.length ≤ 1 then s.statusDone p addr x.setup false else s
    else s.setPipe p k { y with bursts := (left - 1) :: x.bursts.drop 1 }

def execFarBusTransaction (port addr ep : Nat) (dirIn : Bool) (res : Nat) (pid : Nat) (data : List Byte) (s : State) :
    Host.Outcome State Fault Refusal :=
  .next (effFarBusTransaction port addr ep dirIn res pid data s)

/-- The length of a remote microframe, 60,000 + ADJ bit times of 25/12 ns, in ns/12 (R455). -/
def mfLen (adj : Int) : Int := (60000 + adj) * 25

/-- When the remote microframe after the one under way starts, in ns/12: at once where none has started (R455). -/
def State.mfNext (s : State) (p : Nat) : Nat :=
  let u := s.uport p
  match u.starts with
  | (_, r) :: _ => ((r : Int) + mfLen u.adj).toNat
  | [] => 3 * s.now250

/-- ADJ after an evaluation, with e and its last value in ns/12 (R455). -/
def adjNext (adj : Int) (ePrev : Option Int) (e : Int) : Int :=
  match ePrev with
  | none => adj
  | some e0 =>
    let tr := e - e0
    if -(100 * e) + 39936 < 1600 * tr ∧ -15 < adj then adj - 1
    else if 1600 * tr < -(100 * e) - 39936 ∧ adj < 15 then adj + 1 else adj

/-- A port evaluates R(m) against H(m), both in ns/12 (R455, R456). -/
def State.mfEval (s : State) (p r h : Nat) : State :=
  let u := s.uport p
  let e : Int := (r : Int) - h
  let lr := if -1200 ≤ e ∧ e ≤ 1200 then min 8 (u.lockRun + 1) else 0
  let ur := if e < -12000 ∨ 12000 < e then min 8 (u.unlockRun + 1) else 0
  let now := if u.locked then decide (ur < 8) else decide (lr = 8)
  let s := s.setUport p { u with
    adj := adjNext u.adj u.ePrev e, ePrev := some e, lockRun := lr, unlockRun := ur, locked := now }
  if now = u.locked then s else s.portMsg p (if now then 7 else 8)

/-- The pipes at the start of microframe `n`: a new microframe, and for full- and low-speed devices a new frame (R448, R453). -/
def UPort.newSlot (u : UPort) (n : Nat) : UPort :=
  let fresh (_ : Nat) (x : Pipe) : Pipe := if x.fsls ∧ n % 8 ≠ 0 then x else { x with tried := false, naked := false }
  { u with pipes := u.pipes.mapAll Pipe.init fresh }

/-- The SOF of the remote microframe that starts: every one at high speed, every eighth at full speed (R454, R455). -/
def State.farSof (s : State) (p : Nat) : State :=
  let u := s.uport p
  if u.speed = 2 ∨ (u.speed = 0 ∧ u.mf % 8 = 0) then s.emit (.usbBus p 4 (leBytes 2 u.mf)) else s

/-- MICROFRAME_START: a remote microframe starts once the last has run its length (R455); to acquire, its start is put at the
host's, with one step (R456). -/
def effMicroframeStart (p : Nat) (s : State) : State :=
  let u := s.uport p
  if !s.usbPresent ∨ u.far.isNone ∨ u.st ≠ upEnabled then s
  else match u.acq, u.hostH with
    | true, some h =>
      let s := if u.locked then s.portMsg p 8 else s
      let v := u.newSlot u.hostMf
      ((s.setUport p { v with
        mf := u.hostMf, starts := [(u.hostMf, 12 * h)], acq := false, adj := 0, ePrev := none,
        lockRun := 0, unlockRun := 0, locked := false }).farSof p).missAll p
    | _, _ =>
      let r := s.mfNext p
      if 3 * s.now250 < r then s
      else
        let n := (u.mf + 1) % 16384
        let starts := ((n, r) :: u.starts).take 16
        let v := u.newSlot n
        let s := ((s.setUport p { v with mf := n, starts := starts }).farSof p).missAll p
        match u.acq, u.hostH, starts.find? fun q => decide (q.1 = u.hostMf) with
        | false, some h, some (_, r) => s.mfEval p r (12 * h)
        | _, _, _ => s

def execMicroframeStart (port : Nat) (s : State) : Host.Outcome State Fault Refusal := .next (effMicroframeStart port s)

/-! ### The near hub's answers -/

/-- A message at the near end. -/
def State.nearMsg (s : State) (tid op : Nat) (bytes : List Byte) (body : Nat → UsbHdr → Nat → Pipe → State) : State :=
  let h := usbHdr bytes
  match s.usbMsgPort tid with
  | none => s
  | some p =>
    let u := s.uport p
    let k := pipeKey h.addr h.ep h.typ h.dirIn
    let x := u.pipe k
    if u.mapped.isNone ∨ (h.op ≠ op ∧ h.op < 7) then s
    else if !h.ok then s.usbCount p 3 1
    else if h.gen ≠ u.gen.toNat then s.usbCount p 2 1
    else if h.pseq ≠ x.rxSeq ∨ x.bursts = [] then s.proxyError p
    else body p h k { x with rxSeq := (x.rxSeq + 1) % 32, bursts := x.bursts.drop 1, outst := x.outst - 1 }

/-- INDATA: prefetched data buffered until the host reads it, isochronous and split periodic data with its microframe; data of a superseded
transfer is dropped (R447, R450, R454). -/
def effIndata (tid : Nat) (bytes : List Byte) (s : State) : State :=
  s.nearMsg tid 3 bytes fun p h k x =>
    let kind := (((s.uport p).pipe k).bursts.head?).getD 0
    let es := if h.typ = 1 ∨ (h.typ = 3 ∧ h.fsls) then h.es.map fun e => (h.mframe * 4 + e.1, e.2) else h.es
    s.setPipe p k (if kind = 4 then x else { x with buf := x.buf ++ es, naked := false })

def execIndata (tid : Nat) (bytes : List Byte) (s : State) : Host.Outcome State Fault Refusal := .next (effIndata tid bytes s)

/-- RESULT: a handshake result; one for a superseded transfer has no effect. Prefetched packets stay over a STALL until the halt
clears or the pipe is reset (R447, R448, R450 to R452). -/
def effResult (tid : Nat) (bytes : List Byte) (s : State) : State :=
  s.nearMsg tid 4 bytes fun p h k x =>
    let kind := (((s.uport p).pipe k).bursts.head?).getD 0
    if kind = 4 then s.setPipe p k x
    else if h.code = 1 then
      let s := s.setPipe p k { x with halted := true, buf := if h.dirIn then x.buf else [] }
      s.usbCount p 7 (if h.dirIn ∨ kind = 2 then 0 else x.buf.length)
    else if h.code = 2 then (s.setPipe p k { x with noAns := true }).usbCount 0 4 (b2n x.fsls)
    else if h.code = 0 ∧ (kind = 3 ∨ (kind = 1 ∧ x.fsls ∧ x.typ = 3)) then s.setPipe p k { x with status := some 0 }
    else
      let s := s.setPipe p k x
      if h.typ = 0 ∧ x.ctrlIn then s else s.flushOut p h.addr h.ep s.usb.mframe k

def execResult (tid : Nat) (bytes : List Byte) (s : State) : Host.Outcome State Fault Refusal := .next (effResult tid bytes s)

/-- A PORT order at the far hub (R439, R444, R456, R457, R463). -/
def State.farOrder (s : State) (p code gen : Nat) : State :=
  if 6 ≤ code then s.usbCount p 3 1 else
  let s := s.modUport p fun u => { u with gen := BitVec.ofNat 8 gen, pipes := if u.gen.toNat = gen then u.pipes else [] }
  let u := s.uport p
  if code = 0 then ((s.modUport p fun u => { u with hostPwr := true }).ocDone p).farPower p
  else if code = 1 then s.setUport p { u with hostPwr := false, pwren := false, st := upOff, pipes := [], locked := false, hostRes := false }
  else if code = 2 then
    let s := if u.locked then s.portMsg p 8 else s
    (s.setUport p { u with st := upResetting, pipes := [], locked := false, busAt := s.uptime + 1 }).emit (.usbBus p 0 [])
  else if code = 3 then (s.setUport p { u with st := upDisabled, pipes := [] }).emit (.usbBus p 3 [])
  else if code = 4 then (s.setUport p { u with st := upSuspended }).emit (.usbBus p 2 [])
  else (s.setUport p { u with st := upResuming, hostRes := true, wakeSrc := 1, busAt := s.uptime + 1 }).emit (.usbBus p 1 [])

/-- A PORT report at the near hub (R441, R444, R446, R456, R458). -/
def State.nearReport (s : State) (p code speed : Nat) : State :=
  let u := s.uport p
  if code = 0 then
    ((s.setUport p { u with st := upDisabled, speed := speed, status := u.status ||| psConn ||| speedBits speed,
                            change := u.change ||| psConn }).raiseGen p).usbEvent p 1 stOk 0
  else if code = 1 then
    (((s.setUport p { u with st := upDisc, status := u.status &&& psPower, change := u.change ||| psConn, locked := false }).raiseGen p).clearAddrs p).usbEvent p 2 stOk 0
  else if code = 2 then s.resetDone p speed
  else if code = 3 then
    (((s.setUport p { u with st := upOff, status := psOver, change := u.change ||| psOver, ocLow := true }).usbCount p 0 1 |>.raiseGen p).clearAddrs p).usbEvent p 3 stLimit 0
  else if code = 4 then
    (s.setUport p { u with ocLow := false, status := u.status &&& ~~~psOver, change := u.change ||| psOver }).usbEvent p 4 stOk 0
  else if code = 5 then s.resumed p
  else if code = 6 then s.remoteWake p
  else if code = 7 then (s.setUport p { u with locked := true }).usbEvent p 12 stOk 0
  else if code = 8 then (s.setUport p { u with locked := false }).usbEvent p 13 stOk 0
  else s.usbCount p 3 1

/-- A DFP serves no remote port: it is no far end, or one whose near hub has switched it off, as USB_PORT_MAP with UNMAP does, so
that another remote port may take it (R439, R442, R461; log entry 23). -/
def State.freeDfp (s : State) (p : Nat) : Bool :=
  let u := s.uport p
  u.far.isNone || (decide (u.st = upOff) && !u.pwren && !u.hostPwr)

/-- A DFP taken as a far end: withdrawn from its own hub's presentation (R439). -/
def State.takeFar (s : State) (p src tid : Nat) : State :=
  let u := s.uport p
  let had := u.status &&& psConn != 0
  let s := s.setUport p { u with far := some { hub := src, port := 0, main := tid / 2 * 2, per := 0 }, hostPwr := false
                                 gen := if u.pwren then u.gen + 1 else u.gen
                                 st := upOff, pwren := false, status := u.status &&& psPower,
                                 change := if had then u.change ||| psConn else u.change }
  s.clearAddrs p

/-- PORT_MESSAGE: a port order or report between the ends (R439, R444). The first order on a tunnel whose exit is a
DFP makes that DFP a far end (log entry 23). -/
def effPortMessage (tid src : Nat) (bytes : List Byte) (s : State) : State :=
  let h := usbHdr bytes
  let ep := (s.gaz tid).dstEp
  let s := if s.usbPresent ∧ (s.usbPortOf tid).isNone ∧ epBlock ep = 5 ∧ 1 ≤ epIndex ep ∧ epIndex ep ≤ 4 ∧ s.usbPort (epIndex ep)
      ∧ s.freeDfp (epIndex ep) then s.takeFar (epIndex ep) src tid else s
  match s.usbMsgPort tid with
  | none => s
  | some p =>
    let u := s.uport p
    if h.op ≠ 5 ∧ h.op < 7 then s
    else if !h.ok then s.usbCount p 3 1
    else if u.far.isSome then s.farOrder p h.code h.gen
    else if h.gen ≠ u.gen.toNat then s.usbCount p 2 1
    else (s.setUport p { u with mapped := u.mapped.map fun m => { m with hub := src } }).nearReport p h.code h.speed

def execPortMessage (tid src : Nat) (bytes : List Byte) (s : State) : Host.Outcome State Fault Refusal :=
  .next (effPortMessage tid src bytes s)

/-- The start of a host microframe lies elsewhere than the last one and the 125 us of each since then put it, by more than 1 us and
a thousandth of that time: datum time has stepped at the near hub (R456). DESIGN CHOICE: no message names the step (log entry
55). -/
def UPort.hostStepped (u : UPort) (mf at' : Nat) : Bool :=
  match u.hostH with
  | none => false
  | some h =>
    let past := (mf + 16384 - u.hostMf) % 16384 * 125000
    decide (1000 + past / 1000 < ((at' : Int) - (h + past : Nat)).natAbs)

/-- SOFREP: the host's microframe instant; after a step of datum time at the near hub the far hub acquires again (R454, R456). -/
def effSofrep (tid : Nat) (bytes : List Byte) (s : State) : State :=
  let h := usbHdr bytes
  let s := s.usbAdopt tid
  match s.usbMsgPort tid with
  | none => s
  | some p =>
    let u := s.uport p
    if u.far.isNone ∨ (h.op ≠ 6 ∧ h.op < 7) then s
    else if !h.ok then s.usbCount p 3 1
    else if h.gen ≠ u.gen.toNat then s.usbCount p 2 1
    else
      let at' := resolveCompact s.nowNs h.instant.1 h.instant.2
      s.setUport p { u with hostMf := h.mframe, hostH := some at', acq := u.acq || (decide (u.st = upEnabled) && u.hostStepped h.mframe at') }

def execSofrep (tid : Nat) (bytes : List Byte) (s : State) : Host.Outcome State Fault Refusal := .next (effSofrep tid bytes s)

/-- A far end whose main tunnel CLOSES is its own hub's again, its power as it was where the hub presents it and off otherwise; a
periodic tunnel is forgotten (R439, R445, R463; log entry 23). -/
def State.usbRelease (s : State) (tid : Nat) : State :=
  match s.usbPortOf tid with
  | none => s
  | some p =>
    let u := s.uport p
    match u.far with
    | none => s
    | some m =>
      if m.main ≠ tid / 2 * 2 then s.setUport p { u with far := some { m with per := 0 } }
      else
        let on := u.pwren && s.ufpActive
        s.setUport p { u with
          st := if on then upDisc else upOff, pwren := on, hostPwr := on, status := if on then psPower else 0
          gen := if u.pwren && !on then u.gen + 1 else u.gen, pipes := [], locked := false, far := none }

/-- A USB tunnel leaves OPEN, with the first ID of its pair that does (R444, R445). -/
def State.usbTunnelLost (s : State) (tid : Nat) : State :=
  let other := if tid % 2 = 0 then tid + 1 else tid - 1
  match if (s.gaz other).state = gOpen then s.usbPortOf tid else none with
  | none => s
  | some p =>
    let u := s.uport p
    if u.mapped.isSome then
      let s := s.setUport p { u with st := if u.st = upOff then upOff else upDisc, status := u.status &&& psPower,
                                     change := if u.status &&& psConn != 0 then u.change ||| psConn else u.change, locked := false }
      ((s.raiseGen p).clearAddrs p).usbEvent p 11 stLinkLost 0
    else
      let s := if upDisabled < u.st then s.emit (.usbBus p 3 []) else s
      s.setUport p { u with st := if u.pwren then upDisc else upOff, pipes := [], locked := false, gen := u.gen + 1 }

/-- POWER_CYCLE_END: OFFTIME ends and the port reverts to HOST (R463). -/
def effPowerCycleEnd (p : Nat) (s : State) : State :=
  let u := s.uport p
  if u.policy ≠ 2 ∨ !s.passed u.offAt (400000 * u.offMs) then s
  else if u.ocOff ∧ u.far.isNone then s.setUport p { u with policy := 0 }
  else (s.setUport p { u with policy := 0 }).usbRepower p

def execPowerCycleEnd (port : Nat) (s : State) : Host.Outcome State Fault Refusal := .next (effPowerCycleEnd port s)

/-! ### Commands -/

/-- USB_QUERY words of a port (Table 14.8). -/
def State.usbWords (s : State) (p : Nat) : List Word :=
  let u := s.uport p
  let m := u.mapped.getD UsbMap.init
  [ pack [fld 16 u.change.toNat, u.status.toNat],
    pack [fld 24 u.gen.toNat, fld 20 (u.code p), fld 18 u.speed, fld 13 m.hub, fld 10 m.port, fld 9 (b2n u.mapped.isSome),
      fld 8 (b2n u.locked), fld 6 u.wakeSrc, fld 2 u.policy],
    pack [fld 16 m.per, m.main], word (unsigned 8 u.adj) ]

/-- A tunnel pair fit for a remote port on this hub (R442, R461). -/
def State.usbPairOk (s : State) (even v : Nat) : Bool :=
  let g := s.gaz even
  decide (even % 2 = 0) && decide (g.cls = clsUsb) && g.duplex &&
    decide ((if g.ingress = 7 then g.srcEp else g.dstEp) = 0x500 + v) && !(decide (g.ingress = 7) && g.loc)

/-- The far end of a pair: from the root's tunnel record; on another hub the spec gives no source for it, so it is a free value of
the tunnel, another hub's port, since the pair does not end here (R442; log entry 24). -/
def State.farEnd (s : State) (even : Nat) : Nat × Nat :=
  let r := s.tree.tuns.read TunRec.init even
  let x := Config.usbFar even (s.gaz even).gen
  if s.isRoot then
    if (s.gaz even).ingress = 7 then ((r.exits[0]?).getD (0, 0)) else (r.srcHub, r.srcEp)
  else ((s.hubNo + 1 + x % 31) % 32, 0x500 + x / 32 % 16)

def layPortMap (c : Cmd) : Layout :=
  { masks := [(4, mk 16 8 + mk 4 0), (5, mk 11 0), (6, mk 11 0)], enc := decide (5 ≤ c.f 4 3 0 ∧ c.f 4 3 0 ≤ 12) }

/-- USB_PORT_MAP (R439, R442, R460, R461). -/
def execUsbPortMap (c : Cmd) (s : State) : Host.Outcome State Fault Refusal :=
  .next <| s.runCmd c 0x0900 (layPortMap c) false fun s =>
    let v := c.f 4 3 0
    let u := s.uport v
    let main := c.f 5 11 0
    let per := c.f 6 11 0
    let unmap := c.b 4 4
    if !s.mayUse c 7 v then s.complete c stNotGranted []
    else if !s.usbPresent ∨ !s.usbPort v then s.complete c stNotPresent []
    else if !genOk (c.b 4 16) (c.f 4 15 8) u.gen then s.complete c stStaleGen (s.usbWords v)
    else if !s.ufpActive then s.complete c stWrongMode []
    else if unmap then
      if u.mapped.isNone then s.complete c stOk (s.usbWords v)
      else
        let s := s.portMsg v 1
        let s := ((s.setUport v { u with
          mapped := none, locked := false, status := u.status &&& psPower, st := if u.status &&& psPower = 0 then upOff else upDisc
          change := u.change ||| (u.status &&& psConn) }).raiseGen v).clearAddrs v
        (s.usbEvent v 10 stOk 0).complete c stOk (s.usbWords v)
    else if !s.tunOpen main ∨ (per ≠ 0 ∧ !s.tunOpen per) then s.complete c stWrongMode []
    else if !s.usbPairOk main v ∨ (per ≠ 0 ∧ !s.usbPairOk per v) then s.complete c stBadParam []
    else if u.mapped.isSome then s.complete c stBusy []
    else
      let far := s.farEnd main
      if far.1 = s.hubNo ∨ epBlock far.2 ≠ 5 ∨ epIndex far.2 = 0 ∨ 4 < epIndex far.2 ∨ (per ≠ 0 ∧ s.farEnd per ≠ far) then s.complete c stBadParam []
      else if s.usb.ports.any fun q => decide (q.2.mapped.map (fun m => (m.hub, m.port)) = some (far.1, epIndex far.2)) then
        s.complete c stBusy []
      else
        let on := u.status &&& psPower != 0
        let s := (s.setUport v { u with mapped := some { hub := far.1, port := epIndex far.2, main := main, per := per },
                                        st := if on then upDisc else upOff }).raiseGen v
        let s := (s.portMsg v (if on then 0 else 1)).usbEvent v 9 stOk main
        s.complete c stOk (s.usbWords v)

def layUsbQuery (_ : Cmd) : Layout := { masks := [(4, mk 3 0)] }

/-- USB_QUERY (R462). -/
def execUsbQuery (c : Cmd) (s : State) : Host.Outcome State Fault Refusal :=
  .next <| s.runCmd c 0x0901 (layUsbQuery c) true fun s =>
    let p := c.f 4 3 0
    let us := s.usb
    if !s.usbPresent ∨ (p ≠ 0 ∧ !s.usbPort p) then s.complete c stNotPresent []
    else if p = 0 then
      s.complete c stOk
        [ pack [fld 12 us.vports, fld 11 (b2n us.hs), fld 10 (b2n s.ufpActive), fld 9 (b2n us.suspended),
            fld 8 (b2n us.configured), us.address],
          pack [fld 16 us.pid.toNat, us.vid.toNat], word us.fitted.toNat, 0 ]
    else s.complete c stOk (s.usbWords p)

def layUsbPortPower (c : Cmd) : Layout := { masks := [(4, mk 16 8 + mk 5 0), (5, mk 15 0)], enc := decide (1 ≤ c.f 4 3 0 ∧ c.f 4 3 0 ≤ 12) }

/-- USB_PORT_POWER (R463). -/
def execUsbPortPower (c : Cmd) (s : State) : Host.Outcome State Fault Refusal :=
  .next <| s.runCmd c 0x0902 (layUsbPortPower c) false fun s =>
    let p := c.f 4 3 0
    let pol := c.f 4 5 4
    let off := c.f 5 15 0
    let u := s.uport p
    if !s.mayUse c 7 p then s.complete c stNotGranted []
    else if !s.usbPresent ∨ !s.usbPort p then s.complete c stNotPresent []
    else if !genOk (c.b 4 16) (c.f 4 15 8) u.gen then s.complete c stStaleGen (s.usbWords p)
    else if off < 10 ∨ 10000 < off then s.complete c stBadParam []
    else if pol = 3 ∧ (4 < p ∨ s.presented p ∨ u.far.isSome) then s.complete c stDenied []
    else
      let s := s.setUport p { u with policy := pol, offMs := off, offAt := s.uptime + 1 }
      ((s.ocDone p).usbRepower p).complete c stOk []

def layUsbCounters (_ : Cmd) : Layout := { masks := [(4, mk 4 0)] }

/-- USB_COUNTERS (R464). -/
def execUsbCounters (c : Cmd) (s : State) : Host.Outcome State Fault Refusal :=
  .next <| s.runCmd c 0x0903 (layUsbCounters c) false fun s =>
    let p := c.f 4 3 0
    let clear := c.b 4 4
    if clear ∧ !s.mayUse c 7 p then s.complete c stNotGranted []
    else if !s.usbPresent ∨ (p ≠ 0 ∧ !s.usbPort p) then s.complete c stNotPresent []
    else
      let t := if p = 0 then s.usb.counters else (s.uport p).counters
      let s' := if !clear then s
        else if p = 0 then { s with usb := { s.usb with counters := [] } }
        else s.modUport p fun u => { u with counters := [] }
      s'.complete c stOk (counterWords t 0)

end Sys2Proof.Machine
end

