-- ==== Sys2Proof/Machine/NetCan.lean ====
section
/-! DEFINITION. Ethernet MACs, host rings and CAN controllers (Chapter 15). -/

namespace Sys2Proof.Machine

/-! ### MACs -/

def State.macFitted (s : State) (m : Nat) : Bool := decide (m < 4) && bit s.board.macFit.toNat m

/-- Counter numbers: key group * 8 + index (Table 15.4). -/
def mcRxFrames : Nat := 0
def mcTxFrames : Nat := 1
def mcFcsErr : Nat := 2
def mcRunt : Nat := 3
def mcOversize : Nat := 4
def mcRxDrop : Nat := 5
def mcTxDrop : Nat := 6
def mcNoMap : Nat := 7
def mcTunDown : Nat := 8
def mcCtrlDiscard : Nat := 9
def mcMalformed : Nat := 10
def mcTxStamps : Nat := 11

/-- A MAC counter raised: RX_FRAMES and TX_FRAMES modulo 65536, the others saturating (R483). -/
def State.macCount (s : State) (m i n : Nat) : State :=
  s.modMac m fun x => { x with counters := x.counters.mod 0 i fun v => if i < 2 then (v + n) % 65536 else satAdd 16 v n }

/-- NETCAN_ALERT for the management slice and the holder (R484). -/
def State.netAlert (s : State) (src kind idx reason st tid v1 v2 v3 : Nat) : State :=
  s.reportHolder kind idx 0x0A st src [pack [fld 8 tid, reason], word v1, word v2, word v3]

/-- NETCAN_ALERT for a tunnel's owner (R484). -/
def State.netAlertOwner (s : State) (src tid reason v1 v2 v3 : Nat) : State :=
  let g := s.gaz tid
  s.report g.ownerHub g.ownerSlice 0x0A stOk src [pack [fld 8 tid, reason], word v1, word v2, word v3]

/-- Quantum of a MAC's stamps in ns (R473). -/
def Mac.quantum (x : Mac) : Nat := if 2 ≤ x.speed then 1 else 8

def quantise (q t : Nat) : Nat := t / q * q

/-- The frame carries an 802.1Q tag (log entry 26). -/
def ethTagged (bytes : List Byte) : Bool := decide ((bytes.drop 12).take 2 = [0x81#8, 0x00#8])

/-- The tag control of a tagged frame. -/
def ethTci (bytes : List Byte) : Nat := ((bytes[14]?).getD 0).toNat * 256 + ((bytes[15]?).getD 0).toNat

/-- A MAC control frame (R466). -/
def ethControl (bytes : List Byte) : Bool := decide ((bytes.drop 12).take 2 = [0x88#8, 0x08#8])

/-- The destination is a group address, broadcast included. -/
def ethGroup (bytes : List Byte) : Bool := bit ((bytes[0]?).getD 0).toNat 0

/-- The map entry matches a frame on both VID and GROUP (R470). -/
def VlanEnt.hits (e : VlanEnt) (bytes : List Byte) : Bool :=
  let tagged := ethTagged bytes
  let vid := ethTci bytes % 4096
  e.enable &&
    (match e.mtch with
      | 0 => tagged && decide (vid = e.vid)
      | 1 => !tagged || decide (vid = 0)
      | _ => true) &&
    (match e.group with
      | 0 => true
      | 1 => !ethGroup bytes
      | _ => ethGroup bytes)

/-- The tunnel's source is this MAC endpoint. -/
def State.macSource (s : State) (m t : Nat) : Bool :=
  let g := s.gaz t
  decide (g.state ≠ gClosed) && decide (g.cls = clsNet) && decide (g.ingress = 7) && decide (g.srcEp = 0x600 + m)

/-- The packets of a link's queue that came from the MAC: they hold its receive buffer (R231, R468). -/
def State.macQueued (s : State) (m l : Nat) : List QPkt :=
  (s.link l).sched.queue.filter fun q => decide (q.pkt.srcHub = s.hubNo) && s.macSource m q.pkt.tunnel

/-- The packets that the receive buffer holds, with the instants at which they were queued: the copies of one packet on the
egress links of a multicast tunnel are one packet there. -/
def State.macHeld (s : State) (m : Nat) : List (TxPkt × Nat) :=
  (List.range 5).foldl (fun u l => u ++ ((s.macQueued m l).map fun q => (q.pkt, q.since)).diff u) []

/-- Bytes held in the receive buffer (R468). -/
def State.macRxUsed (s : State) (m : Nat) : Nat := sumN ((s.macHeld m).map fun p => p.1.payload.length)

/-- Packets that the receive buffer held discarded from the links' queues (R467, R586). -/
def State.macForget (s : State) (m : Nat) (gone : List (TxPkt × Nat)) : State :=
  (List.range 5).foldl (fun s l =>
    let qs := (s.macQueued m l).filter fun q => gone.contains (q.pkt, q.since)
    if qs = [] then s
    else s.modLink l fun k => { k with sched := { k.sched with queue := k.sched.queue.filter fun q => !qs.contains q } }) s

/-- The NET message of a frame without FCS (Table 15.2). -/
def netMessage (tagged stamp : Bool) (tci cookie t : Nat) (bytes : List Byte) : List Byte :=
  bytesOf [ pack [fld 16 tci, fld 15 (b2n tagged), fld 14 (b2n stamp), bytes.length],
    pack [fld 16 cookie, t / 1000000000 / 2 ^ 32 % 2 ^ 16], word (t / 1000000000), word (t % 1000000000) ] ++ bytes

/-- MAC_FRAME_RECEIVE (R466, R468, R470, R473). -/
def effMacFrameReceive (mac since : Nat) (fcsOk : Bool) (bytes : List Byte) (s : State) : State :=
  let x := s.mac mac
  let tagged := ethTagged bytes
  if !s.macFitted mac ∨ !s.working ∨ x.mode = 0 ∨ !x.link then s
  else if !fcsOk then s.macCount mac mcFcsErr 1
  else if bytes.length < 64 then s.macCount mac mcRunt 1
  else if x.mtu + (if tagged then 4 else 0) < bytes.length then s.macCount mac mcOversize 1
  else
    let s := s.macCount mac mcRxFrames 1
    if ethControl bytes then s.macCount mac mcCtrlDiscard 1
    else if 32768 < s.macRxUsed mac + bytes.length then s.macCount mac mcRxDrop 1
    else
      match (List.range 16).find? fun i => (x.vlan.read VlanEnt.init i).hits bytes with
      | none => s.macCount mac mcNoMap 1
      | some i =>
        let e := x.vlan.read VlanEnt.init i
        if !s.tunOpen e.tid then s.macCount mac mcTunDown 1
        else
          let frame := bytes.take (bytes.length - 4)
          let strip := e.strip && tagged
          let frame' := if strip then frame.take 12 ++ frame.drop 16 else frame
          let t := quantise x.quantum (s.ago (4 * (since + x.inLat)) / 4)
          s.sendTunnel e.tid false (netMessage strip true (if strip then ethTci bytes else 0) 0 t frame')

def execMacFrameReceive (mac since : Nat) (fcsOk : Bool) (bytes : List Byte) (s : State) :
    Host.Outcome State Fault Refusal := .next (effMacFrameReceive mac since fcsOk bytes s)

/-- MAC_LINK_CHANGE (R467, R484). -/
def effMacLinkChange (mac : Nat) (up : Bool) (speed : Nat) (ability : BitVec 16) (s : State) : State :=
  let x := s.mac mac
  if !s.macFitted mac ∨ !s.working ∨ x.mode = 0 ∨ x.link = up then s
  else
    let sp := if x.mode = 1 then speed % 3 else if x.mode = 2 then 2 else 3
    (s.setMac mac { x with link := up, speed := sp, partner := ability }).netAlert mac 8 mac 1 stOk 0 (b2n up + 2 * sp) 0 0

def execMacLinkChange (mac : Nat) (up : Bool) (speed : Nat) (ability : BitVec 16) (s : State) :
    Host.Outcome State Fault Refusal := .next (effMacLinkChange mac up speed ability s)

/-- The holders of the fitted MACs, each once, with the lowest MAC each holds. -/
def State.macHolders (s : State) : List (Nat × Nat × Nat) :=
  (List.range 4).foldl (fun acc m =>
    match if s.macFitted m then s.holder 8 m else none with
    | some (h, k) => if acc.any fun p => decide (p.2 = (h, k)) then acc else acc ++ [(m, h, k)]
    | none => acc) []

/-- PHY_INTERRUPT, at most once per 10 ms (R469, R484). DESIGN CHOICE: the line is shared by all PHYs, so the alert goes to the
management slice with SRCINDEX 0 and to every holder of a MAC with the lowest MAC it holds (log entry 61). -/
def effPhyInterrupt (s : State) : State :=
  if !s.coreOn ∨ !s.passed s.net.phyIntAt 4000000 then s
  else
    let s := { s with net := { s.net with phyIntAt := s.uptime + 1 } }
    let s := s.reportMgmt 0x0A stOk 0 [pack [2], 0, 0, 0]
    s.macHolders.foldl (fun s p =>
      if p.2 = (s.mgmtHub, 0) then s else s.report p.2.1 p.2.2 0x0A stOk p.1 [pack [2], 0, 0, 0]) s

def execPhyInterrupt (s : State) : Host.Outcome State Fault Refusal := .next (effPhyInterrupt s)

/-- MAC_FRAME_TRANSMIT: the oldest frame of the transmit buffer leaves, and its stamp is reported on request
(R472, R473). -/
def effMacFrameTransmit (mac : Nat) (s : State) : State :=
  let x := s.mac mac
  match x.txq with
  | [] => s
  | f :: rest =>
    if !s.macFitted mac ∨ !s.working ∨ x.mode = 0 ∨ !x.link then s
    else
      let t := quantise x.quantum (s.nowNs + x.egLat)
      let s := ((s.setMac mac { x with txq := rest }).macCount mac mcTxFrames 1).emit
        (.mac mac (f.bytes ++ leBytes 4 (crc32 f.bytes).toNat))
      let s := if f.stamp then
          (s.macCount mac mcTxStamps 1).netAlertOwner mac f.tid 3 (t % 1000000000) (t / 1000000000 % 2 ^ 32)
            (f.cookie * 65536 + t / 1000000000 / 2 ^ 32 % 65536)
        else s
      s.macGo mac

def execMacFrameTransmit (mac : Nat) (s : State) : Host.Outcome State Fault Refusal := .next (effMacFrameTransmit mac s)

/-! ### Host rings -/

def Slice.ring (x : Slice) (r : Nat) : Ring := x.rings.read Ring.init r

def State.setRing (s : State) (k r : Nat) (g : Ring) : State :=
  s.modSlice k fun x => { x with rings := x.rings.write Ring.init r g }

/-- The enabled ring of a slice for a tunnel and a direction. -/
def Slice.ringOf (x : Slice) (exitDir : Bool) (t : Nat) : Option Nat :=
  (List.range 16).find? fun r => let g := x.ring r; g.enable && decide (g.exitDir = exitDir) && decide (g.tid = t)

def Ring.next (g : Ring) (i : Nat) : Nat := if i + 1 ≥ g.entries then 0 else i + 1

/-- A message written to an exit ring, or discarded where no slot is free (R475). -/
def State.ringWrite (s : State) (t : Nat) (bytes : List Byte) : State :=
  match epSlice (s.gaz t).dstEp with
  | none => s.countDrop t 1
  | some k =>
    let x := s.slice k
    match x.ringOf true t with
    | none => s.countDrop t 1
    | some r =>
      let g := x.ring r
      if g.next g.tail = g.head ∨ x.state ≠ 1 ∨ !s.portReady x then s.countDrop t 1
      else
        let cut := bytes.take (g.bufsz - 16)
        let hdr := bytesOf [word cut.length, pack [b2n g.phase, fld 1 (b2n (decide (cut.length < bytes.length)))], 0, 0]
        let a := g.base + g.bufsz * g.tail
        let nt := g.next g.tail
        let s := (s.emit (.hostWrite x.port x.pasid (a + 16) cut)).emit (.hostWrite x.port x.pasid a hdr)
        let s := s.setRing k r { g with tail := nt, phase := if nt = 0 then !g.phase else g.phase, emptied := false }
        if g.emptied then s.netAlertOwner 0 t 4 r 0 0 else s

/-! ### NET messages -/

/-- The checks of R471 on a NET message. -/
def netOk (bytes : List Byte) : Bool :=
  let len := bits (fromLe (bytes.take 4)) 13 0
  decide (16 ≤ bytes.length) && decide (len + 16 = bytes.length) && decide (14 ≤ len)

/-- The frame a MAC exit prepares: tag inserted, padded to 60 bytes (R472). -/
def netFrame (bytes : List Byte) : List Byte :=
  let w0 := fromLe (bytes.take 4)
  let body := bytes.drop 16
  let tci := bits w0 31 16
  let tagged := if bit w0 15 then
      body.take 12 ++ [0x81#8, 0x00#8, BitVec.ofNat 8 (tci / 256), BitVec.ofNat 8 tci] ++ body.drop 12 else body
  tagged ++ List.replicate (60 - tagged.length) 0#8

/-- A NET message at a MAC exit: the frame takes its place in the transmit buffer. With no room left, one of a lossy tunnel is
discarded, and one of a lossless tunnel waits (R231, R468, R472). -/
def State.macQueue (s : State) (m tid : Nat) (lossy : Bool) (bytes : List Byte) : State :=
  let x := s.mac m
  let w0 := fromLe (bytes.take 4)
  let f := netFrame bytes
  if x.mtu + (if ethTagged f then 4 else 0) < f.length + 4 then s.macCount m mcOversize 1
  else if x.room bytes then
    s.setMac m { x with txq := x.txq ++
      [{ bytes := f, stamp := bit w0 14, cookie := bits (fromLe ((bytes.drop 4).take 4)) 31 16, tid := tid }] }
  else if lossy then s.macCount m mcTxDrop 1
  else
    let p : TxPkt := { TxPkt.init with tunnel := tid, tclass := clsNet, payload := bytes }
    { s with tree := { s.tree with exitQ := { pkt := p, since := s.now250 } :: s.tree.exitQ } }

/-- NET_MESSAGE (R471, R472, R475). -/
def effNetMessage (tid : Nat) (bytes : List Byte) (s : State) : State :=
  let g := s.gaz tid
  let m := epIndex g.dstEp
  if g.state = gClosed ∨ !g.loc ∨ g.cls ≠ clsNet ∨ !s.coreOn then s
  else if epBlock g.dstEp ≠ 6 then
    if netOk bytes then s.ringWrite tid bytes else s.countDrop tid 1
  else if !netOk bytes then (s.macCount m mcMalformed 1).macGo m
  else (s.macQueue m tid g.lossy bytes).macGo m

def execNetMessage (tid : Nat) (bytes : List Byte) (s : State) : Host.Outcome State Fault Refusal :=
  .next (effNetMessage tid bytes s)

/-! ### CAN controllers -/

def State.can (s : State) (n : Nat) : Can := s.net.cans.read Can.init n

def State.setCan (s : State) (n : Nat) (x : Can) : State :=
  { s with net := { s.net with cans := s.net.cans.write Can.init n x } }

def State.modCan (s : State) (n : Nat) (f : Can → Can) : State := s.setCan n (f (s.can n))

def State.canFitted (s : State) (n : Nat) : Bool := decide (n < 2) && bit s.board.canFit.toNat n

/-- The controller is on the bus: not OFF, not in bus-off, the hub in Field or Holdover (R476, R477). -/
def State.canOn (s : State) (n : Nat) : Bool :=
  s.canFitted n && s.working && decide ((s.can n).mode ≠ 0) && !(s.can n).busOff

/-- The controller may send (R476). -/
def State.canTx (s : State) (n : Nat) : Bool := s.canOn n && decide ((s.can n).mode ≠ 3)

/-- CAN counters of CAN_QUERY FORM 1. -/
def ccRxFrames : Nat := 0
def ccTxFrames : Nat := 1
def ccNoMap : Nat := 2
def ccTxDrop : Nat := 3
def ccMalformed : Nat := 4
def ccNoAddr : Nat := 5
def ccBusOffs : Nat := 6
def ccArbLost : Nat := 7

def State.canCount (s : State) (n i k : Nat) : State :=
  s.modCan n fun x => { x with counters := x.counters.mod 0 i fun v => if i < 2 then (v + k) % 65536 else satAdd 16 v k }

def State.canAlert (s : State) (n reason st v1 v2 v3 : Nat) : State :=
  s.netAlert (0x10 + n) 9 n reason st 0 v1 v2 v3

/-- Fields of a frame (Table 15.3). -/
def CanFrame.ide (f : CanFrame) : Bool := bit f.w0.toNat 31
def CanFrame.rtr (f : CanFrame) : Bool := bit f.w0.toNat 30
def CanFrame.id (f : CanFrame) : Nat := bits f.w0.toNat 28 0
def CanFrame.fdf (f : CanFrame) : Bool := bit f.w1.toNat 31
def CanFrame.brs (f : CanFrame) : Bool := bit f.w1.toNat 30
def CanFrame.useSa (f : CanFrame) : Bool := bit f.w1.toNat 28
def CanFrame.len (f : CanFrame) : Nat := bits f.w1.toNat 6 0

/-- LEN is one of the lengths of Table 15.3. -/
def canLen (n : Nat) : Bool := decide (n ≤ 8 ∨ n ∈ [12, 16, 20, 24, 32, 48, 64])

/-- The checks of R479 on W0 and W1. -/
def canOk (w0 w1 : Nat) : Bool :=
  let len := bits w1 6 0
  let fdf := bit w1 31
  !bit w0 29 && decide (bits w1 27 24 = 0) && decide (bits w1 15 7 = 0) && canLen len
    && (fdf || decide (len ≤ 8)) && !(bit w0 30 && fdf) && (fdf || !bit w1 30)

/-- The order in which identifiers win arbitration (ISO 11898-1, log entry 26). -/
def CanFrame.rank (f : CanFrame) : Nat :=
  let base := bits f.id 28 18
  let r := b2n f.rtr
  if f.ide then base * 2 ^ 21 + 2 ^ 20 + 2 ^ 19 + bits f.id 17 0 * 2 + r else base * 2 ^ 21 + r * 2 ^ 20

/-- The Address Claimed (or, with FEh, Cannot Claim) frame (R482). -/
def claimFrame (name : BitVec 64) (addr : Nat) : CanFrame :=
  { w0 := pack [fld 31 1, 0x18EEFF00 + addr], w1 := word 8, data := leBytes 8 name.toNat }

/-- The NAME claims an address now: Address Claimed becomes pending (R482). -/
def Can.claim (x : Can) (addr : Nat) : Can :=
  { x with addr := addr, claimed := false, claimAt := 0, claimQ := some (claimFrame x.name addr) }

/-- The claim at enable and at each bus-on (R482). -/
def State.claimStart (s : State) (n : Nat) : State :=
  let x := s.can n
  if x.nameEn ∧ s.canTx n then s.setCan n (x.claim (if x.addr = 0xFE then x.pref else x.addr)) else s

/-- The claim logic's view of a frame on the bus (R482). -/
def State.claimSees (s : State) (n : Nat) (f : CanFrame) : State :=
  let x := s.can n
  let sa := f.id % 256
  let pgn := f.id / 256 % 2 ^ 18
  if !s.canOn n ∨ !f.ide ∨ f.rtr then s
  else if pgn = 0x0EEFF ∧ f.len = 8 then
    let other := BitVec.ofNat 64 (fromLe f.data)
    if 253 < sa then s
    else
      let others := if x.others.contains (sa, other) then x.others else (sa, other) :: x.others
      if !x.nameEn ∨ !s.canTx n ∨ other = x.name ∨ sa ≠ x.addr then s.setCan n { x with others := others }
      else if x.name.toNat < other.toNat then
        s.setCan n { x with others := others, claimQ := some (claimFrame x.name x.addr) }
      else
        let taken (a : Nat) : Bool := others.any fun p => decide (p.1 = a ∧ p.2 ≠ x.name)
        let next := if bit x.name.toNat 63 then (List.range' 128 120).find? fun a => !taken a else none
        let s := s.setCan n ({ x with others := others }.claim (next.getD 0xFE))
        s.canAlert n 9 stOk sa (other.toNat % 2 ^ 32) (other.toNat / 2 ^ 32)
  else if x.nameEn ∧ s.canTx n ∧ pgn / 256 = 0x0EA ∧ (pgn % 256 = 0xFF ∨ (pgn % 256 = x.addr ∧ x.addr ≠ 0xFE)) ∧ f.data.take 3 = [0x00#8, 0xEE#8, 0x00#8] then
    s.setCan n { x with claimQ := some (claimFrame x.name x.addr) }
  else s

/-- The filter entry a received frame takes (R478). -/
def CanFilter.hits (e : CanFilter) (f : CanFrame) : Bool :=
  e.enable && decide ((f.id ^^^ e.fid.toNat) &&& e.mask.toNat = 0) && decide (f.ide = e.ide) &&
    (match e.fdsel with
      | 0 => true
      | 1 => !f.fdf
      | _ => f.fdf)

/-- REC after a reception (R477, ISO 11898-1; log entry 26): one less down to 0, and above 127 a value from 119 to 127 that the
standard leaves open. -/
def State.recDown (s : State) (n : Nat) : State :=
  let x := s.can n
  if x.rxErr = 0 then s
  else if x.rxErr < 128 then s.setCan n { x with rxErr := x.rxErr - 1 }
  else (s.setCan n { x with rxErr := 119 + (s.freeVal 8).toNat % 9, passive := decide (128 ≤ x.txErr) }).drew

/-- CAN_FRAME_RECEIVE (R476 to R479, R482). An FD frame is none of a controller in MODE 1 (log entry 61). -/
def effCanFrameReceive (ctrl since : Nat) (w0 w1 : Word) (data : List Byte) (s : State) : State :=
  let len := bits w1.toNat 6 0
  let f : CanFrame := { w0 := w0, w1 := w1, data := (data ++ List.replicate len 0).take len }
  if !s.canOn ctrl ∨ ((s.can ctrl).mode = 1 ∧ f.fdf) then s
  else
    let s := ((s.canCount ctrl ccRxFrames 1).recDown ctrl).claimSees ctrl f
    let x := s.can ctrl
    match (List.range 64).find? fun i => (x.filters.read CanFilter.init i).hits f with
    | none => s.canCount ctrl ccNoMap 1
    | some i =>
      let e := x.filters.read CanFilter.init i
      if !e.action then s
      else if !s.tunOpen e.tid then
        s.setCan ctrl { x with lost := x.lost.mod 0 e.tid (satAdd 8 · 1) }
      else
        let t := s.ago (4 * since) / 4
        let lost := x.lost.read 0 e.tid
        let hdr := [ pack [fld 31 (b2n f.ide), fld 30 (b2n f.rtr), f.id],
          pack [fld 31 (b2n f.fdf), fld 30 (b2n f.brs), fld 29 (b2n (bit w1.toNat 29)), fld 16 lost, f.len],
          compactNs t, compactSec t ]
        (s.setCan ctrl { x with lost := x.lost.write 0 e.tid 0 }).sendTunnel e.tid false (bytesOf hdr ++ f.data)

def execCanFrameReceive (ctrl since : Nat) (w0 w1 : Word) (data : List Byte) (s : State) :
    Host.Outcome State Fault Refusal := .next (effCanFrameReceive ctrl since w0 w1 data s)

/-- ADDRESS_CLAIM_SETTLE: 250 ms have passed since the claim was sent (R482). -/
def effAddressClaimSettle (ctrl : Nat) (s : State) : State :=
  let x := s.can ctrl
  if !s.canTx ctrl ∨ !x.nameEn ∨ x.claimed ∨ x.addr = 0xFE ∨ x.claimQ.isSome ∨ x.offered.map Prod.fst = some 0
      ∨ x.claimAt = 0 ∨ !s.passed x.claimAt 100000000 then s
  else (s.setCan ctrl { x with claimed := true }).canAlert ctrl 8 stOk x.addr 0 0

def execAddressClaimSettle (ctrl : Nat) (s : State) : Host.Outcome State Fault Refusal :=
  .next (effAddressClaimSettle ctrl s)

/-- Tunnel frames that are older than AGE as they reach the head of the queue discarded (R481): the frames kept, the number
dropped. -/
def canAged (now age : Nat) : List CanQ → List CanQ × Nat
  | [] => ([], 0)
  | q :: r => if q.due + age * 4000000 < now then let (k, n) := canAged now age r; (k, n + 1) else (q :: r, 0)

/-- The better of two candidates: the lower rank, the earlier at equal rank. -/
def canBetter (a : Option (Nat × CanQ)) (b : Nat × CanQ) : Option (Nat × CanQ) :=
  match a with
  | none => some b
  | some x => if b.2.frame.rank < x.2.frame.rank then some b else some x

/-- The first occurrence of a queued frame removed. -/
def canDrop (q : CanQ) : List CanQ → List CanQ
  | [] => []
  | x :: r => if x = q then r else x :: canDrop q r

/-- The CAN_SENDs of frames discarded complete with ABORTED (R483). -/
def State.abortSends (s : State) (qs : List CanQ) : State := qs.foldl (fun s q => s.completeOpt q.cmd stAborted) s

/-- The FD frames that a controller in MODE 1 cannot send go (R476). DESIGN CHOICE: they count in TX_DROP, and their CAN_SENDs
complete with ABORTED (log entry 61). -/
def State.canDropFd (s : State) (n : Nat) : State :=
  let x := s.can n
  let fd (q : CanQ) : Bool := q.frame.fdf
  let gone := (x.timedQ ++ x.tunQ).filter fd
  if x.mode ≠ 1 ∨ gone = [] then s
  else
    let s := s.setCan n { x with timedQ := x.timedQ.filter fun q => !fd q, tunQ := x.tunQ.filter fun q => !fd q }
    (s.canCount n ccTxDrop gone.length).abortSends gone

/-- CAN_BUS_IDLE: the controller offers the frame that would win arbitration (R481). -/
def effCanBusIdle (ctrl : Nat) (s : State) : State :=
  if !s.canTx ctrl ∨ (s.can ctrl).offered.isSome then s
  else
    let s := s.canDropFd ctrl
    let x := s.can ctrl
    let claim := x.claimQ.toList.map fun f => (0, { frame := f, due := s.now250, cmd := none, tid := 0 })
    let timed := (x.timedQ.filter fun q => decide (q.due ≤ s.now250)).map fun q => (1, q)
    let tun := (x.tunQ.take 1).map fun q => (2, q)
    match (claim ++ timed ++ tun).foldl canBetter none with
    | none => s
    | some (k, q) =>
      let x := { x with
        offered := some (k, q)
        claimQ := if k = 0 then none else x.claimQ
        timedQ := if k = 1 then canDrop q x.timedQ else x.timedQ
        tunQ := if k = 2 then x.tunQ.drop 1 else x.tunQ }
      (s.setCan ctrl x).emit (.can ctrl q.frame.w0 q.frame.w1 q.frame.data)

def execCanBusIdle (ctrl : Nat) (s : State) : Host.Outcome State Fault Refusal := .next (effCanBusIdle ctrl s)

/-- Frames of a kind that a queue holds: the one on the bus keeps its place. -/
def Can.held (x : Can) (kind : Nat) (queue : List CanQ) : Nat :=
  queue.length + b2n (decide (x.offered.map Prod.fst = some kind))

/-- CAN_BUS_OFF: every queued transmit frame discarded (R477). -/
def effCanBusOff (ctrl : Nat) (s : State) : State :=
  let x := s.can ctrl
  if !s.canTx ctrl then s
  else
    let off := x.offered.toList.map Prod.snd
    let all := off ++ x.claimQ.toList.map (fun f => { frame := f, due := 0, cmd := none, tid := 0 }) ++ x.timedQ ++ x.tunQ
    let s := s.setCan ctrl { x with busOff := true, offered := none, claimQ := none, timedQ := [], tunQ := [], claimed := false }
    let s := ((s.canCount ctrl ccTxDrop all.length).canCount ctrl ccBusOffs 1).abortSends all
    s.canAlert ctrl 6 stOk 0 0 0

def execCanBusOff (ctrl : Nat) (s : State) : Host.Outcome State Fault Refusal := .next (effCanBusOff ctrl s)

/-- The controller returns to the bus error active, its counts cleared, and claims again (R477, R482). -/
def State.canBusOn (s : State) (n : Nat) : State :=
  let s := s.modCan n fun x => { x with busOff := false, forceRec := false, passive := false, txErr := 0, rxErr := 0, others := [] }
  (s.claimStart n).canAlert n 7 stOk 0 0 0

/-- CAN_BUS_OFF_RECOVERY, with AUTOREC (R477). -/
def effCanBusOffRecovery (ctrl : Nat) (s : State) : State :=
  let x := s.can ctrl
  if !s.canFitted ctrl ∨ !s.working ∨ x.mode = 0 ∨ !x.busOff ∨ !(x.autoRec || x.forceRec) then s else s.canBusOn ctrl

def execCanBusOffRecovery (ctrl : Nat) (s : State) : Host.Outcome State Fault Refusal :=
  .next (effCanBusOffRecovery ctrl s)

/-- CAN_MESSAGE at an exit (R475, R479, R481). -/
def effCanMessage (tid : Nat) (bytes : List Byte) (s : State) : State :=
  let g := s.gaz tid
  let n := epIndex g.dstEp
  let w0 := fromLe (bytes.take 4)
  let w1 := fromLe ((bytes.drop 4).take 4)
  let good := decide (16 ≤ bytes.length) && canOk w0 w1 && decide (bytes.length = 16 + bits w1 6 0)
  if g.state = gClosed ∨ !g.loc ∨ g.cls ≠ clsCan ∨ !s.coreOn then s
  else if epBlock g.dstEp ≠ 7 then
    if good then s.ringWrite tid bytes else s.countDrop tid 1
  else if !good then s.canCount n ccMalformed 1
  else
    let x := s.can n
    if 32 ≤ x.held 2 x.tunQ then s.canCount n ccTxDrop 1
    else s.setCan n { x with tunQ := x.tunQ ++
      [{ frame := { w0 := word w0, w1 := word w1, data := bytes.drop 16 }, due := s.now250, cmd := none, tid := tid }] }

def execCanMessage (tid : Nat) (bytes : List Byte) (s : State) : Host.Outcome State Fault Refusal :=
  .next (effCanMessage tid bytes s)

/-- CAN_FRAME_SENT: the offered frame finishes, the next tunnel frame reaching the head, or it waits for the next idle (R481,
R482, R483). -/
def effCanFrameSent (ctrl since : Nat) (won : Bool) (s : State) : State :=
  let x := s.can ctrl
  match x.offered with
  | none => s
  | some (k, q) =>
    if !won ∧ q.dropped then ((s.setCan ctrl { x with offered := none }).canCount ctrl ccArbLost 1).abortSends [q]
    else if !won then
      (s.setCan ctrl { x with
        offered := none
        claimQ := if k = 0 then some (x.claimQ.getD q.frame) else x.claimQ
        timedQ := if k = 1 then q :: x.timedQ else x.timedQ
        tunQ := if k = 2 then q :: x.tunQ else x.tunQ }).canCount ctrl ccArbLost 1
    else
      let txErr := x.txErr - 1
      let (tunQ, aged) := if k = 2 then canAged s.now250 x.age x.tunQ else (x.tunQ, 0)
      let s := ((s.setCan ctrl { x with
        offered := none, txErr := txErr, passive := decide (128 ≤ txErr ∨ 128 ≤ x.rxErr), tunQ := tunQ
        claimAt := if k = 0 then s.uptime + 1 else x.claimAt }).canCount ctrl ccTxFrames 1).canCount ctrl ccTxDrop aged
      let s := if k = 0 then s else s.claimSees ctrl q.frame
      let t := s.ago (4 * since) / 4
      match q.cmd with
      | some c => s.complete c stOk [compactNs t, compactSec t]
      | none => s

def execCanFrameSent (ctrl since : Nat) (won : Bool) (s : State) : Host.Outcome State Fault Refusal :=
  .next (effCanFrameSent ctrl since won s)

/-- CAN_ERROR_PASSIVE (R477, R484). -/
def effCanErrorPassive (ctrl txErr rxErr : Nat) (s : State) : State :=
  let x := s.can ctrl
  if !s.canOn ctrl ∨ x.passive ∨ (txErr < 128 ∧ rxErr < 128) ∨ 255 < txErr ∨ 255 < rxErr then s
  else (s.setCan ctrl { x with passive := true, txErr := txErr, rxErr := rxErr }).canAlert ctrl 5 stOk txErr rxErr 0

def execCanErrorPassive (ctrl txErr rxErr : Nat) (s : State) : Host.Outcome State Fault Refusal :=
  .next (effCanErrorPassive ctrl txErr rxErr s)

/-- A timed frame queued, or discarded at a full queue (R480, R481): the status, none when it waits. -/
def State.canTimed (s : State) (n : Nat) (f : CanFrame) (due : Nat) (cmd : Option Cmd) (owner : Nat × Nat) : State × Option Nat :=
  let x := s.can n
  if f.useSa ∧ !x.claimed then (s.canCount n ccNoAddr 1, some stAborted)
  else if 16 ≤ x.held 1 x.timedQ then ((s.canCount n ccTxDrop 1).canAlert n 10 stNoResource 1 0 0, some stNoResource)
  else
    let w0 := if f.useSa then word (f.w0.toNat / 256 * 256 + x.addr) else f.w0
    let f := { f with w0 := w0, w1 := f.w1 &&& 0xC000007F#32 }
    (s.setCan n { x with timedQ := x.timedQ ++ [{ frame := f, due := due, cmd := cmd, owner := some owner, tid := 0 }] }, none)

/-! ### MDIO -/

/-- The first waiting MDIO access put on the bus (R469). -/
def State.mdioStart (s : State) : State :=
  match s.net.mdio with
  | [] => s
  | c :: _ => s.emit (.mdio (c.b 4 0) (c.b 4 1) (c.f 4 6 2) (c.f 4 11 7) (c.f 5 15 0) (c.f 6 15 0))

/-- MDIO_ACCESS_DONE (R469, Table 15.4). -/
def effMdioAccessDone (data : Nat) (s : State) : State :=
  match s.net.mdio with
  | [] => s
  | c :: rest =>
    let s := { s with net := { s.net with mdio := rest } }
    (s.complete c stOk (if c.b 4 1 then [] else [word (data % 65536)])).mdioStart

def execMdioAccessDone (data : Nat) (s : State) : Host.Outcome State Fault Refusal := .next (effMdioAccessDone data s)

/-! ### Commands -/

/-- A MAC restarts: the frames in its buffers are discarded and counted, and its link is down (R467). -/
def State.macRestart (s : State) (m : Nat) : State :=
  let x := s.mac m
  let held := s.macHeld m
  let s := s.macForget m held
  let s := s.setMac m { x with link := false, txq := [] }
  let s := (s.macCount m mcRxDrop (held.filter fun p => p.1.last).length).macCount m mcTxDrop x.txq.length
  let s := if x.link then s.netAlert m 8 m 1 stOk 0 (2 * x.speed) 0 0 else s
  s.macGo m

/-- FORM 0 of NET_PORT_CFG: a change of MODE or MTU restarts the MAC (R467). -/
def State.macCfg (s : State) (m mode mtu inLat egLat : Nat) (an : Bool) : State :=
  let x := s.mac m
  let s := s.setMac m { x with mode := mode, mtu := mtu, an := an, inLat := inLat, egLat := egLat }
  if x.mode = mode ∧ x.mtu = mtu then s else s.macRestart m

/-- FORM 2 of NET_PORT_CFG: a host ring (R474, R483). -/
def State.ringCfg (s : State) (c : Cmd) : State :=
  let r := c.f 4 3 0
  let en := c.b 4 4
  let exitDir := c.b 4 5
  let t := c.f 5 11 0
  let g := s.gaz t
  let x := s.slice c.slice
  let entries := c.f 6 12 0
  let bufsz := c.f 7 14 0
  let base := c.w64 8
  let ep (e : Nat) : Bool := decide (epSlice e = some c.slice) && c.here
  if !s.ownsTun c t then s.complete c stNotGranted []
  else if !genOk (c.b 5 20) (c.f 5 19 12) g.gen then (s.hopRecord t).2.complete c stStaleGen (s.hopRecord t).1
  else if !en then (s.setRing c.slice r Ring.init).complete c stOk []
  else if (x.ring r).enable then s.complete c stBusy []
  else if (g.cls ≠ clsNet ∧ g.cls ≠ clsCan) ∨ !(if exitDir then g.loc && ep g.dstEp else decide (g.ingress = 7) && ep g.srcEp)
      ∨ entries ∉ [16, 32, 64, 128, 256, 512, 1024, 2048, 4096]
      ∨ bufsz < 256 ∨ 16384 < bufsz ∨ bufsz % 64 ≠ 0 ∨ !alignedTo base 4096 then s.complete c stBadParam []
  else
    (s.setRing c.slice r { Ring.init with
      enable := true, exitDir := exitDir, tid := t, entries := entries, bufsz := bufsz, base := base }).complete c stOk []

/-- Layout of NET_PORT_CFG by FORM. -/
def layNetPort (c : Cmd) : Layout :=
  match c.f 4 31 30 with
  | 0 => { masks := [(4, mk 31 30 + mk 5 0), (5, mk 13 0), (6, mk 27 16 + mk 11 0)], enc := decide (c.f 4 4 2 ≤ 3) }
  | 1 => { masks := [(4, mk 31 30 + mk 11 0), (5, mk 15 0), (6, mk 15 0)] }
  | 2 => { masks := [(4, mk 31 30 + mk 5 0), (5, mk 20 0), (6, mk 12 0), (7, mk 14 0), (8, mkAll), (9, mkAll)] }
  | _ => { enc := false }

/-- NET_PORT_CFG (R466 to R469, R474, R483). -/
def execNetPortCfg (c : Cmd) (s : State) : Host.Outcome State Fault Refusal :=
  .next <| s.runCmd c 0x0A00 (layNetPort c) false fun s =>
    match c.f 4 31 30 with
    | 0 =>
      let m := c.f 4 1 0
      let mode := c.f 4 4 2
      let mtu := c.f 5 13 0
      if !s.mayUse c 8 m then s.complete c stNotGranted []
      else if !s.macFitted m then s.complete c stNotPresent []
      else if mtu < 1518 ∨ 9216 < mtu then s.complete c stBadParam []
      else (s.macCfg m mode mtu (c.f 6 11 0) (c.f 6 27 16) (c.b 4 5)).complete c stOk []
    | 1 =>
      if !s.authZ c then s.complete c stNotGranted []
      else
        let first := s.net.mdio = []
        let s := { s with net := { s.net with mdio := s.net.mdio ++ [c] } }
        if first then s.mdioStart else s
    | _ => s.ringCfg c

def layVlanMap (c : Cmd) : Layout := { masks := [(4, mk 27 16 + mk 13 4 + mk 1 0), (5, mk 11 0)], enc := decide (c.f 4 10 9 ≠ 3 ∧ c.f 4 12 11 ≠ 3) }

/-- NET_VLAN_MAP (R470, R483). -/
def execNetVlanMap (c : Cmd) (s : State) : Host.Outcome State Fault Refusal :=
  .next <| s.runCmd c 0x0A01 (layVlanMap c) false fun s =>
    let m := c.f 4 1 0
    let t := c.f 5 11 0
    if !s.mayUse c 8 m then s.complete c stNotGranted []
    else if !s.macFitted m then s.complete c stNotPresent []
    else if !s.macSource m t then s.complete c stBadParam []
    else
      let e : VlanEnt := { enable := c.b 4 8, mtch := c.f 4 10 9, group := c.f 4 12 11, strip := c.b 4 13,
                           vid := c.f 4 27 16, tid := t }
      (s.modMac m fun x => { x with vlan := x.vlan.write VlanEnt.init (c.f 4 7 4) e }).complete c stOk []

def layNetQuery (_ : Cmd) : Layout := { masks := [(4, mk 1 0)] }

/-- NET_QUERY (R483). -/
def execNetQuery (c : Cmd) (s : State) : Host.Outcome State Fault Refusal :=
  .next <| s.runCmd c 0x0A02 (layNetQuery c) true fun s =>
    let m := c.f 4 1 0
    let x := s.mac m
    if !s.macFitted m then s.complete c stNotPresent []
    else s.complete c stOk
      [ pack [x.mode, fld 3 (b2n x.link), fld 4 x.speed, fld 18 x.mtu], word x.partner.toNat, pack [x.inLat, fld 16 x.egLat],
        word (sumN ((List.range 16).map fun i => if (x.vlan.read VlanEnt.init i).enable then 2 ^ i else 0)) ]

def layNetCounters (c : Cmd) : Layout := { masks := [(4, mk 4 0)], enc := decide (c.f 4 3 2 < 2) }

/-- NET_COUNTERS (R483). -/
def execNetCounters (c : Cmd) (s : State) : Host.Outcome State Fault Refusal :=
  .next <| s.runCmd c 0x0A03 (layNetCounters c) false fun s =>
    let m := c.f 4 1 0
    let grp := c.f 4 3 2
    let x := s.mac m
    if c.b 4 4 ∧ !s.mayUse c 8 m then s.complete c stNotGranted []
    else if !s.macFitted m then s.complete c stNotPresent []
    else
      let s := if c.b 4 4 then s.setMac m { x with counters := x.counters.filter fun p => decide (p.1 / 8 ≠ grp) } else s
      s.complete c stOk (counterWords x.counters (8 * grp))

/-- Bit timing of a phase: BRP, TSEG1, TSEG2 and SJW as numbers (R476). -/
def timingBad (tseg1min brp tseg1 tseg2 sjw : Nat) : Bool :=
  decide (32 < brp ∨ tseg1 < tseg1min ∨ tseg2 < sjw)

def layCanCfg (_ : Cmd) : Layout := { masks := [(4, mk 3 0), (5, mk 26 0), (6, mk 24 0), (7, mk 9 0)] }

/-- Values of CAN_CFG outside their ranges, and bit rates outside theirs, in every MODE (R476). -/
def canCfgBad (c : Cmd) : Bool :=
  timingBad 2 (c.f 5 4 0 + 1) (c.f 5 12 5 + 1) (c.f 5 19 13 + 1) (c.f 5 26 20 + 1)
    || timingBad 1 (c.f 6 4 0 + 1) (c.f 6 9 5 + 1) (c.f 6 13 10 + 1) (c.f 6 17 14 + 1) || decide (1000 < c.f 7 9 0)

def canRateBad (c : Cmd) : Bool :=
  decide ((c.f 5 4 0 + 1) * (1 + (c.f 5 12 5 + 1) + (c.f 5 19 13 + 1)) < 80)
    || decide ((c.f 6 4 0 + 1) * (1 + (c.f 6 9 5 + 1) + (c.f 6 13 10 + 1)) < 16)

/-- CAN_CFG (R476, R477, R481, R483). In bus-off it starts the recovery, which takes its 128 occurrences of 11 recessive bits
(log entry 61). -/
def execCanCfg (c : Cmd) (s : State) : Host.Outcome State Fault Refusal :=
  .next <| s.runCmd c 0x0B00 (layCanCfg c) false fun s =>
    let n := c.f 4 0 0
    let mode := c.f 4 2 1
    if !s.mayUse c 9 n then s.complete c stNotGranted []
    else if !s.canFitted n then s.complete c stNotPresent []
    else if canCfgBad c then s.complete c stBadParam []
    else if canRateBad c then s.complete c stLimit []
    else
      let x := s.can n
      let gone := (match x.offered with
        | some (1, q) => [q]
        | _ => []) ++ x.timedQ
      let s := s.setCan n { x with
        mode := mode, claimed := x.claimed && decide (mode ≠ 0 ∧ mode ≠ 3), autoRec := c.b 4 3, nom := word (c.w 5), dat := word (c.w 6), age := c.f 7 9 0, timedQ := []
        tunQ := match x.offered with
          | some (2, q) => if mode = 0 ∨ mode = 3 then q :: x.tunQ else x.tunQ
          | _ => x.tunQ
        offered := match x.offered with
          | some (1, _) => none
          | o => if mode = 0 ∨ mode = 3 then none else o }
      let s := (s.canCount n ccTxDrop gone.length).abortSends gone
      let s := if x.busOff then s.modCan n fun x => { x with forceRec := decide (mode ≠ 0) } else if x.mode ≠ mode then (s.modCan n fun x => { x with others := [] }).claimStart n else s
      s.complete c stOk []

def layCanFilter (c : Cmd) : Layout := { masks := [(4, mk 11 0), (5, mk 28 0), (6, mk 28 0), (7, mk 11 0)], enc := decide (c.f 4 10 9 ≠ 3) }

/-- CAN_FILTER (R478, R483). -/
def execCanFilter (c : Cmd) (s : State) : Host.Outcome State Fault Refusal :=
  .next <| s.runCmd c 0x0B01 (layCanFilter c) false fun s =>
    let n := c.f 4 0 0
    let t := c.f 7 11 0
    let g := s.gaz t
    if !s.mayUse c 9 n then s.complete c stNotGranted []
    else if !s.canFitted n then s.complete c stNotPresent []
    else if !(decide (g.state ≠ gClosed ∧ g.cls = clsCan ∧ g.ingress = 7 ∧ g.srcEp = 0x700 + n)) then
      s.complete c stBadParam []
    else
      let e : CanFilter := { enable := c.b 4 7, ide := c.b 4 8, fdsel := c.f 4 10 9, action := c.b 4 11,
                             fid := BitVec.ofNat 29 (c.w 5), mask := BitVec.ofNat 29 (c.w 6), tid := t }
      (s.modCan n fun x => { x with filters := x.filters.write CanFilter.init (c.f 4 6 1) e }).complete c stOk []

def layCanName (_ : Cmd) : Layout := { masks := [(4, mk 15 8 + mk 1 0), (5, mkAll), (6, mkAll)] }

/-- CAN_NAME (R482, R483). -/
def execCanName (c : Cmd) (s : State) : Host.Outcome State Fault Refusal :=
  .next <| s.runCmd c 0x0B02 (layCanName c) false fun s =>
    let n := c.f 4 0 0
    let pref := c.f 4 15 8
    if !s.mayUse c 9 n then s.complete c stNotGranted []
    else if !s.canFitted n then s.complete c stNotPresent []
    else if 253 < pref then s.complete c stBadParam []
    else
      let s := s.modCan n fun x => { x with
        nameEn := c.b 4 1, name := BitVec.ofNat 64 (c.w64 5), pref := pref, addr := 0xFE, claimed := false, claimQ := none }
      let s := s.claimStart n
      let x := s.can n
      s.complete c stOk [pack [x.addr, fld 8 (b2n x.claimed)]]

def layCanQuery (c : Cmd) : Layout := { masks := [(4, mk 3 0)], enc := decide (c.f 4 2 1 < 2) }

/-- CAN_QUERY (R483). -/
def execCanQuery (c : Cmd) (s : State) : Host.Outcome State Fault Refusal :=
  .next <| s.runCmd c 0x0B03 (layCanQuery c) true fun s =>
    let n := c.f 4 0 0
    let x := s.can n
    if c.b 4 3 ∧ !s.mayUse c 9 n then s.complete c stNotGranted []
    else if !s.canFitted n then s.complete c stNotPresent []
    else
      let s := if c.b 4 3 then s.setCan n { x with counters := [] } else s
      if c.f 4 2 1 = 1 then s.complete c stOk (counterWords x.counters 0)
      else
        let st := if x.mode = 0 then 3 else if x.busOff then 2 else if x.passive then 1 else 0
        s.complete c stOk [pack [st, fld 8 (x.txErr % 256), fld 16 x.rxErr, fld 24 x.addr]]

def layCanSend (c : Cmd) : Layout :=
  { ind := true
    masks := [(4, 1), (5, mkAll), (6, mkAll), (7, mkAll), (8, mkAll), (9, mkAll), (10, mkAll)] ++
      (if c.indirect then [] else [(11, mkAll), (12, mkAll)])
    enc := canOk (c.w 7) (c.w 8), inAddr := if c.indirect then c.w64 9 else 0, inLen := if c.indirect then c.f 8 6 0 else 0 }

/-- CAN_SEND (R480, R481, R483). -/
def execCanSend (c : Cmd) (s : State) : Host.Outcome State Fault Refusal :=
  .next <| s.runCmd c 0x0B04 (layCanSend c) false fun s =>
    let n := c.f 4 0 0
    let len := c.f 8 6 0
    let data := if c.indirect then c.data.take len else (bytesOf ((List.range 4).map fun i => word (c.w (9 + i)))).take len
    if !s.mayUse c 9 n then s.complete c stNotGranted []
    else if !s.canFitted n then s.complete c stNotPresent []
    else if 16 < len ∧ !c.indirect then s.complete c stBadParam []
    else
      match s.compactField c 5 with
      | none => s.complete c stBadParam []
      | some t =>
        let due := if c.w 5 = 0 ∧ c.w 6 = 0 then s.now250 else 4 * t
        let (s, st) := s.canTimed n { w0 := word (c.w 7), w1 := word (c.w 8), data := data } due (some c) (s.cmdHub c, c.slice)
        match st with
        | some st => s.complete c st []
        | none => s

end Sys2Proof.Machine
end

