-- ==== Sys2Proof/Machine/TravOps.lean ====
section
/-! DEFINITION. Shared operations of traverse engines, ACT pins and tree-wide launches (Chapter 10; log entry 38):
engine ownership, TRAV_EVENT, pin levels and PWM outputs, stops, the pause on a time step, launch messages. -/

namespace Sys2Proof.Machine

/-! ### Engines -/

def State.engine (s : State) (e : Nat) : Engine := s.trav.eng.read Engine.init e

def State.setEngine (s : State) (e : Nat) (x : Engine) : State :=
  { s with trav := { s.trav with eng := s.trav.eng.write Engine.init e x } }

def State.modEngine (s : State) (e : Nat) (f : Engine → Engine) : State := s.setEngine e (f (s.engine e))

/-- State codes (Table 10.1). -/
def engCode : EngSt → Nat
  | .idle => 0
  | .armed => 1
  | .prepared => 2
  | .running => 3
  | .waiting => 4
  | .paused => 5

/-- The slice is slice 0 of this hub, or stands for it (R348, R373). -/
def State.isZ (s : State) (h k : Nat) : Bool :=
  decide (k = 0) && (decide (h = s.selfNo) || (!s.pcieUsed && decide (h = 0)))

/-- The slice may use a resource of this hub (R348). -/
def State.sliceMay (s : State) (h k kind idx : Nat) : Bool := s.isZ h k || s.holds h k kind idx

/-- The slice that owns an engine: the one it runs for, while idle the holder of its grant, else slice 0 (R296, R320). -/
def State.engOwner (s : State) (e : Nat) : Nat × Nat :=
  let x := s.engine e
  if x.st ≠ .idle then (x.ownerHub, x.ownerSlice)
  else (s.holder 1 e).getD (s.mgmtHub, 0)

/-- An engine leaves IDLE: its generation rises, its owner is fixed and its counts restart (R299, R334). -/
def State.wakeEngine (s : State) (e : Nat) (st : EngSt) : State :=
  let o := s.engOwner e
  s.modEngine e fun x => { x with
    st := st, gen := x.gen + 1, ownerHub := o.1, ownerSlice := o.2
    lateCnt := 0, runLegs := 0, wait := .none, launchId := none, paused := .idle }

/-- Parameters of a TRAV_EVENT beyond the engine's own (R336). -/
structure TravEv where
  event : Nat
  status : Nat := 0
  data : Word := 0
  code : Nat := 0
  launch : Nat := 0
  exc : Nat := 0
  mask : Word := 0
  deriving DecidableEq, Repr

/-- TRAV_EVENT of an engine to the slice it runs for (R336). -/
def State.travEvent (s : State) (e : Nat) (v : TravEv) : State :=
  let x := s.engine e
  s.report x.ownerHub x.ownerSlice 7 v.status e
    [ pack [fld 17 x.pc, fld 14 (engCode x.st), fld 8 e, v.event], v.data,
      pack [fld 24 v.code, fld 16 v.launch, fld 8 v.exc, x.gen.toNat], v.mask ]

/-! ### Pins -/

def State.act (s : State) (n : Nat) : Act := s.trav.act.read Act.init n

def State.setAct (s : State) (n : Nat) (a : Act) : State :=
  { s with trav := { s.trav with act := s.trav.act.write Act.init n a } }

/-- A pin driven to a level at an instant by a leg's effect: a PWM output on it stops (R307, R308). Legs drive a pin in mode TIMED
only: an effect that finds another mode does nothing (R326). -/
def State.setPin (s : State) (n : Nat) (lv : Bool) (at250 : Nat) : State :=
  let a := s.act n
  if a.mode ≠ 3 then s
  else (s.setAct n { a with level := lv, pwm := none, pwmNext := none, safe := false }).emit (.edge n lv at250)

/-- The PWM output of a pin stops at its inactive level (R308, R316, R318). -/
def State.stopPwm (s : State) (n : Nat) : State :=
  match (s.act n).pwm with
  | some p => s.setPin n p.inverted s.now250
  | none => s

/-- A pin goes to its safe level (R316). -/
def State.pinSafe (s : State) (n : Nat) : State :=
  let s := s.setAct n { s.act n with safe := true, pwm := none, pwmNext := none }
  match s.safePin n with
  | some lv => s.emit (.edge n lv s.now250)
  | none => s

/-- The level of a running PWM output now (R307, R308). -/
def PwmCfg.levelAt (p : PwmCfg) (now : Nat) : Bool :=
  if p.period = 0 then p.inverted
  else
    let past := (now + p.period - p.nextAt % p.period) % p.period
    if past < p.high then !p.inverted else p.inverted

/-- What the hub drives on an ACT pin now, none for high impedance (Tables 3.6 and 10.5). -/
def State.pinDrive (s : State) (n : Nat) : Option Bool :=
  let a := s.act n
  let drive (lv : Bool) : Option Bool := if a.od ∧ lv then none else some lv
  if !s.working then s.safePin n
  else
    match a.mode with
    | 0 => s.safePin n
    | 2 => drive a.level
    | 3 =>
      if a.safe then s.safePin n
      else match a.pwm with
        | some p => drive (p.levelAt s.now250)
        | none => drive a.level
    | _ => none

/-- Pins in mode TIMED whose owner engine is `e` (R315, R316). -/
def State.pinsOf (s : State) (e : Nat) : List Nat :=
  (List.range 32).filter fun n => let a := s.act n; decide (a.mode = 3 ∧ a.eng = e)

/-! ### Stops -/

/-- Effects an engine has handed over and that have not been taken, dropped (R316, R318). -/
def State.dropEffects (s : State) (e : Nat) : State :=
  { s with trav := { s.trav with effects := s.trav.effects.filter fun f => decide (f.eng ≠ e) } }

/-- A stop of an engine: IDLE, its effects dropped, its pins' PWM outputs stopped or its pins safe (R316). -/
def State.stopEngine (s : State) (e : Nat) (safe : Bool) : State :=
  let s := (s.dropEffects e).modEngine e fun x => { x with st := .idle, wait := .none, health := false, launchId := none }
  (s.pinsOf e).foldl (fun s n => if safe then s.pinSafe n else s.stopPwm n) s

/-- Status of an exception (Table 10.3). -/
def excStatus (code : Nat) : Nat :=
  match code with
  | 1 => stBadParam
  | 2 => stNotGranted
  | 3 => stDenied
  | 4 => stTimeout
  | 5 => stLinkLost
  | 6 => stBusy
  | 7 => stLimit
  | _ => stIntegrity

/-- An exception (R316). -/
def State.exception (s : State) (e code : Nat) : State :=
  let safe := (s.engine e).excSafe
  ((s.stopEngine e safe).modEngine e fun x => { x with lastExc := code }).travEvent e
    { event := 4, status := excStatus code, exc := code }

/-- LAUNCHID of the launch an engine is part of (Table 10.9). -/
def State.launchNo (s : State) (e : Nat) : Nat := (((s.engine e).launchId).getD 0).toNat

/-- A stop by command, revoke or abort: the generation rises once more (R299, R331). -/
def State.abortEngine (s : State) (e : Nat) (safe : Bool) : State :=
  (s.stopEngine e safe).modEngine e fun x => { x with gen := x.gen + 1 }

/-- ABORTED to the engine's owner (Table 10.9). -/
def State.abortedEvent (s : State) (e status launch : Nat) : State := s.travEvent e { event := 7, status := status, launch := launch }

/-- Every engine stops without a report: Safe, where R76 sets the pins (R78, R319). -/
def State.haltEngines (s : State) : State :=
  let s := (List.range 32).foldl (fun s e => if (s.engine e).st = .idle then s else
    (s.dropEffects e).modEngine e fun x => { x with st := .idle, wait := .none, health := false, launchId := none }) s
  { s with trav := { s.trav with prep := [] } }

/-! ### Waits -/

/-- A WAIT_FOR ends at an instant, its condition met or not (R305). -/
def State.endWait (s : State) (e at250 : Nat) (met : Bool) : State :=
  s.modEngine e fun x => { x with
    st := .running, wait := .none, c := met, evt := at250, d := at250, pc := (x.pc + 1) % 32768, runLegs := 0 }

/-- The edge as one engine's WAIT_FOR takes it (R305). -/
def State.feedOne (s : State) (kind idx at250 e : Nat) : State :=
  let x := s.engine e
  match x.wait with
  | .cond k i _ => if x.st = .waiting ∧ k = kind ∧ i = idx ∧ s.working then s.endWait e at250 true else s
  | _ => s

/-- A qualifying edge of a pin (`kind` 1 or 2) or of TRIG_IN (5 or 6) meets the engines that wait for it (R305). -/
def State.feedEdge (s : State) (kind idx at250 : Nat) : State :=
  (List.range 32).foldl (fun s e => s.feedOne kind idx at250 e) s

/-! ### Time steps -/

/-- A size in ns, signed, saturating at 32 bits. -/
def sat32 (i : Int) : Word := word (unsigned 32 (max (-(2 ^ 31)) (min (2 ^ 31 - 1) i)))

/-- An engine with STEPPAUSE pauses at a step of `by250` (250 ps); the steps that come while it is paused add up for REBASE
(R318). -/
def State.pauseAtStep (s : State) (by250 : Int) (e : Nat) : State :=
  let x := s.engine e
  if x.stepPause ∧ (x.st = .armed ∨ x.st = .running ∨ x.st = .waiting) then
    let s := (s.dropEffects e).setEngine e { x with st := .paused, paused := x.st, stepBy := by250, wait := .none }
    let s := (s.pinsOf e).foldl State.stopPwm s
    s.travEvent e { event := 6, data := sat32 (by250 / 4) }
  else if x.st = .paused then s.setEngine e { x with stepBy := x.stepBy + by250 }
  else s

/-- A running PWM output keeps its phase against the time after a step: the pin moves at most once (R308). -/
def State.pwmAtStep (s : State) (old n : Nat) : State :=
  let a := s.act n
  match a.pwm with
  | none => s
  | some p =>
    if p.period = 0 then s
    else
      let now := s.now250
      let next := now + p.period - (now + p.period - p.nextAt % p.period) % p.period
      let q : PwmCfg := { p with nextAt := next }
      let s := s.setAct n { a with pwm := some q }
      if p.levelAt old = q.levelAt now then s else s.emit (.edge n (q.levelAt now) now)

/-- A step of `by250` (250 ps) as engines and pins take it (R308, R318). The state is the one after the step, `old` the
instant before it. -/
def State.travStep (s : State) (old : Nat) (by250 : Int) : State :=
  (List.range 32).foldl (fun s n => s.pwmAtStep old n) ((List.range 32).foldl (fun s e => s.pauseAtStep by250 e) s)

/-! ### Tree-wide launches -/

/-- The words of a launch message (Table 10.4). -/
def Launch.words (x : Launch) (kind hub rhub rslice : Nat) : List Word :=
  let ns := x.due / 4
  [ pack [fld 24 kind, fld 16 x.id.toNat, hub], x.masks.read 0 hub |>.toNat |> word, compactNs ns, compactSec ns,
    pack [fld 5 rslice, rhub], x.w5, 0, 0 ]

/-- A launch message of the root to one of its hubs (R322, R325). -/
def State.sendLaunch (s : State) (x : Launch) (kind hub : Nat) : State :=
  s.emit (.ctrl hub kind (x.words kind hub (s.cmdHub x.cmd) x.cmd.slice) [])

/-- A change to the launches the root runs. -/
def State.setLaunches (s : State) (l : List Launch) : State := { s with trav := { s.trav with launches := l } }

def State.launchOf (s : State) (id : BitVec 8) : Option Launch := s.trav.launches.find? fun x => decide (x.id = id)

def State.setLaunch (s : State) (x : Launch) : State :=
  s.setLaunches (s.trav.launches.map fun y => if y.id = x.id then x else y)

def State.dropLaunch (s : State) (id : BitVec 8) : State := s.setLaunches (s.trav.launches.filter fun y => decide (y.id ≠ id))

/-- TRAV_ARM completion words (R330). -/
def Launch.result (x : Launch) : List Word :=
  let bits' (hs : List Nat) : Word := word (sumN (hs.map fun h => 2 ^ h))
  let first := match x.refused with
    | (h, st) :: _ => pack [fld 8 st, h]
    | [] => 0
  [pack [x.id.toNat], bits' x.ready, bits' (x.refused.map Prod.fst), first]

/-- The root aborts a launch: ABORT to every named hub, and the command completes with ABORTED (R323). -/
def State.abortLaunch (s : State) (x : Launch) : State :=
  let s := x.hubs.foldl (fun s h => s.sendLaunch x 0x1B h) (s.dropLaunch x.id)
  s.complete x.cmd stAborted x.result

/-- An epoch ended on the path to some hubs: the READY they gave counts as missing (R323). -/
def State.launchCut (s : State) (hubs : List Nat) : State :=
  s.setLaunches (s.trav.launches.map fun x =>
    if x.committed then x else { x with ready := x.ready.filter fun h => !hubs.contains h })

/-- The path to some hubs is UP again: PREPARE goes again to those without a READY before T - 50 us (R323). -/
def State.launchBack (s : State) (hubs : List Nat) : State :=
  s.trav.launches.foldl (fun s x =>
    if x.committed ∨ x.due < s.now250 + 200000 then s
    else (x.hubs.filter fun h => hubs.contains h && !x.ready.contains h).foldl (fun s h => s.sendLaunch x 0x18 h) s) s

/-- The words of an answer to a launch message: the sender's hub and a status (Table 10.4). -/
def State.launchReply (s : State) (kind status : Nat) (ws : List Word) : State :=
  s.emit (.ctrl 0 kind
    ([pack [fld 24 kind, fld 16 (bits (nthW ws 0) 23 16), fld 8 status, s.hubNo]] ++ (ws.drop 1).take 5 ++ [0, 0]) [])

/-- The words of a prepared launch, as its PREPARE had them (Table 10.4). -/
def PrepRec.words (p : PrepRec) : List Word :=
  [pack [fld 16 p.id.toNat], word p.mask.toNat, compactNs (p.due / 4), compactSec (p.due / 4), pack [fld 5 p.rslice, p.rhub], p.w5, 0, 0]

/-- LAUNCHED for each of some launches (R322). -/
def State.sendLaunched (s : State) (l : List PrepRec) : State := l.foldl (fun s p => s.launchReply 0x1C 0 p.words) s

/-- A hub whose engines have launched for a tree-wide launch sends LAUNCHED once its T has come (R322, R324). -/
def State.launchesDone (s : State) : State :=
  let go (p : PrepRec) : Bool := p.launched && decide (p.due ≤ s.now250)
  { s with trav := { s.trav with prep := s.trav.prep.filter fun p => !go p } }.sendLaunched (s.trav.prep.filter go)

end Sys2Proof.Machine
end

