-- ==== Sys2Proof/Machine/Regs.lean ====
section
/-! DEFINITION. The BAR0 register map (Chapter 20): reads, writes and their side effects, from a host port
(R339, R607 to R609) and under the authority of a slice (R610), with interrupts and host port states. -/

namespace Sys2Proof.Machine

/-! ### The endpoint (R338) -/

/-- What an endpoint is, as its configuration space shows it (Table 11.1). -/
structure PcieFunction where
  vendor : Nat
  device : Nat
  revision : Nat := 0x21
  classCode : Nat := 0x088000
  subVendor : Nat
  subsystem : Nat
  /-- BAR0: log2 of the bytes, non-prefetchable -/
  bar0log : Nat := 24
  /-- BAR2: log2 of the bytes, prefetchable -/
  bar2log : Nat
  maxPayload : Nat := 512
  maxRead : Nat := 4096
  tagBits : Nat := 10
  nonPosted : Nat := maxNonPosted
  pasidBits : Nat := 20
  pasidExec : Bool := false
  pasidPriv : Bool := false
  vectors : Nat
  msixTable : Nat := 0x200000
  msixPba : Nat := 0x208000
  msi : Bool := false
  intx : Bool := false
  aer : Bool := true
  ecrc : Bool := true
  aspmL0s : Bool := true
  aspmL1 : Bool := true
  l1Substates : Bool := false
  d3hot : Bool := true
  /-- default completion timeout, ms -/
  cplTimeout : Nat := 50
  atomicOps : Bool := true
  ats : Bool := false
  pri : Bool := false
  ltr : Bool := false
  resizableBar : Bool := false
  deriving DecidableEq, Repr

/-- The endpoint of a host port, none where the port is not in use (R337, R338). -/
def State.pcieFunction (s : State) (p : Nat) : Option PcieFunction :=
  if !s.hostPortUsed p then none
  else some {
    vendor := s.board.vendorId.toNat, device := s.board.deviceId.toNat, subVendor := s.board.subVendor.toNat
    subsystem := s.board.subId.toNat, bar2log := s.board.bar2log, vectors := s.vectors }

/-! ### Reads -/

/-- A time snapshot (R617). -/
structure Snap where
  t : Nat := 0
  w7 : Word := 0
  ok : Bool := false
  deriving DecidableEq, Repr

/-- MG_TIME_NS to MG_TIME_STATE from a snapshot, zero before the first read. -/
def Snap.word (p : Snap) (i : Nat) : Word :=
  if !p.ok then 0 else if i < 3 then ((timeWords p.t)[i]?).getD 0 else p.w7

/-- The submission queue registers (Table 20.3). -/
def SubQ.reg (q : SubQ) (off : Nat) : Word :=
  match off with
  | 0x00 => word q.base
  | 0x04 => word (q.base / 2 ^ 32)
  | 0x08 => pack [fld 31 (b2n q.enable), fld 28 q.prio, q.size]
  | 0x0C => word q.head
  | 0x10 => word q.err
  | _ => 0

/-- A slice page register (Tables 20.2 and 20.3). -/
def State.pageReg (s : State) (k off : Nat) : Word :=
  let x := s.slice k
  match off with
  | 0x000 => (s.sliceWords k).headD 0
  | 0x004 => pack [fld 31 (b2n x.mask), fld 21 x.intTime, fld 13 x.intCount, x.vector]
  | 0x008 => word x.lost
  | 0x00C => word x.stale
  | 0x010 => word x.evq.base
  | 0x014 => word (x.evq.base / 2 ^ 32)
  | 0x018 => pack [fld 31 (b2n x.evq.enable), fld 20 x.evq.err, x.evq.size]
  | 0x01C => pack [fld 31 (b2n x.evq.phase), x.evq.tail]
  | 0x020 => word x.evq.head
  | _ => if 0x100 ≤ off ∧ off < 0x200 then (x.sqs.read SubQ.init ((off - 0x100) / 0x20)).reg ((off - 0x100) % 0x20) else 0

/-- A management block register (Table 20.4). -/
def State.mgReg (s : State) (p : Snap) (off : Nat) : Word :=
  let d0 := s.devInfo0
  let d1 := s.devInfo1
  let nth (ws : List Word) (i : Nat) : Word := (ws[i]?).getD 0
  match off with
  | 0x00 => nth d0 0
  | 0x04 => nth d0 1
  | 0x08 => nth d0 2
  | 0x0C => nth d0 3
  | 0x10 => nth d1 0
  | 0x14 => nth d1 1
  | 0x18 => nth d1 2
  | 0x1C => nth d1 3
  | 0x20 => s.mgStraps
  | 0x24 => nth s.devStraps 2
  | 0x28 => nth s.devStraps 3
  | 0x30 => s.err.sum
  | 0x34 => s.pace.word
  | 0x40 => p.word 0
  | 0x44 => p.word 1
  | 0x48 => p.word 2
  | 0x4C => p.word 3
  | 0x50 => s.host.scratch
  | _ => 0

/-- The value of an aligned DW, before any side effect (R607, R612, R616). -/
def State.regVal (s : State) (p : Snap) (off : Nat) : Word :=
  if off % 4 ≠ 0 then 0
  else if off < 0x40000 then s.pageReg (off / 0x1000) (off % 0x1000)
  else if 0x100000 ≤ off ∧ off < 0x110000 then s.mgReg p (off - 0x100000) else 0

/-- A read of an RC register clears it (R9). -/
def State.rcClear (s : State) (off : Nat) : State :=
  if off < 0x40000 ∧ off % 0x1000 = 8 then s.modSlice (off / 0x1000) fun x => { x with lost := 0 }
  else if off < 0x40000 ∧ off % 0x1000 = 0x0C then s.modSlice (off / 0x1000) fun x => { x with stale := 0 }
  else s

/-! ### Writes -/

/-- A power of two from `lo` to `hi`, both powers of two. -/
def pow2In (lo hi n : Nat) : Bool := decide (lo ≤ n ∧ n ≤ hi ∧ 2 ^ n.log2 = n)

def State.setSq (s : State) (k q : Nat) (x : SubQ) : State :=
  s.modSlice k fun y => { y with sqs := y.sqs.write SubQ.init q x }

def State.sq (s : State) (k q : Nat) : SubQ := (s.slice k).sqs.read SubQ.init q

/-- A submission queue error: fetch stops, and it is reported (R353). -/
def State.sqErr (s : State) (k q code : Nat) : State := (s.setSq k q { s.sq k q with err := code }).queueErr k q code

/-- SL_SQq_TAIL (R352, R353). -/
def State.sqTail (s : State) (k q v : Nat) : State :=
  let x := s.sq k q
  let t := v % 4096
  if !x.enable then s
  else if x.size ≤ t then s.sqErr k q 1
  else s.setSq k q { x with tail := t }

/-- SL_SQ0_SIZE; the registers of queues 1 to 7 are read only. A write that disables the queue clears its error, and one that enables
it does not (R351, R353, R613, R614). -/
def State.sqSize (s : State) (k q v : Nat) : State :=
  let x := s.sq k q
  let en := bit v 31
  if q ≠ 0 then s
  else if x.enable then (if en then s else s.setSq k q { x with enable := false, err := 0 })
  else
    let x := { x with prio := bits v 29 28, size := bits v 12 0 }
    if !en then s.setSq k q { x with err := 0 }
    else if pow2In 16 4096 x.size then s.setSq k q { x with enable := true, head := 0, tail := 0 }
    else (s.setSq k q x).sqErr k q 3

/-- SL_EVQ_SIZE (R351, R614): as for submission queue 0, a write that disables the queue clears its error. -/
def State.evqSize (s : State) (k v : Nat) : State :=
  let q := (s.slice k).evq
  let en := bit v 31
  let set (s : State) (q : EvQ) : State := s.modSlice k fun x => { x with evq := q }
  if q.enable then (if en then s else set s { q with enable := false, err := 0 })
  else
    let q := { q with size := bits v 16 0 }
    if !en then set s { q with err := 0 }
    else if pow2In 64 65536 q.size then
      (set s { q with enable := true, tail := 0, head := 0, phase := true }).flushHeld k 64
    else (set s { q with err := 3 }).queueErr k 8 3

/-- SL_EVQ_HEAD: slots return, both interrupt counts restart and held records follow (R355 to R357). -/
def State.evqHead (s : State) (k v : Nat) : State :=
  let x := s.slice k
  let h := v % 2 ^ 17
  if !x.evq.enable then s
  else if x.evq.size ≤ h then (s.setSlice k { x with evq := { x.evq with err := 4 } }).queueErr k 8 4
  else (s.setSlice k { x with evq := { x.evq with head := h }, unsig := 0, firstAt := none }).flushHeld k 64

/-- SL_INT_CTRL: clearing MASK with a condition met sends the interrupt at once (R357, R613). -/
def State.intCtrl (s : State) (k v : Nat) : State :=
  let x := s.slice k
  let n := bits v 20 13
  let s := s.setSlice k { x with
    mask := bit v 31, intTime := bits v 30 21, intCount := if n = 0 then 1 else n, vector := bits v 8 0 }
  if x.mask ∧ !bit v 31 ∧ s.intDue k then s.sendInt k else s

/-- The slots of a source ring are checked and sent in order; one that fails counts as a drop (R475). -/
def State.sendSlots (s : State) (g : Ring) (slots : List (List Byte)) : State :=
  let can := decide ((s.gaz g.tid).cls = clsCan)
  slots.foldl (fun s b =>
    let len := fromLe (b.take 4)
    let m := (b.drop 16).take len
    let w0 := fromLe (m.take 4)
    let w1 := fromLe ((m.drop 4).take 4)
    let good := decide (m.length = len ∧ len ≤ g.bufsz - 16) &&
      (if can then decide (16 ≤ len) && canOk w0 w1 && decide (len = 16 + bits w1 6 0) else netOk m)
    if good then s.sendTunnel g.tid false m else s.countDrop g.tid 1) s

/-- The slots that source rings of a slice hold are sent once it is ACTIVE and its port is up (R340, R360, R475). -/
def State.sendPosted (s : State) (k : Nat) : State :=
  let x := s.slice k
  if x.state ≠ 1 ∨ !s.portReady x then s
  else
    (List.range 16).foldl (fun s r =>
      let g := (s.slice k).ring r
      if g.posted = [] then s
      else (s.setRing k r { g with tail := (g.tail + g.posted.length) % g.entries, posted := [] }).sendSlots g g.posted) s

/-- `n` slots of `len` bytes of host memory that no row brings: free values (R475; log entry 44). -/
def State.freeSlots (s : State) (len : Nat) : Nat → List (List Byte) × State
  | 0 => ([], s)
  | n + 1 =>
    let r := s.drew.freeSlots len n
    (leBytes len (s.freeVal (8 * len)).toNat :: r.1, r.2)

/-- SL_RINGr_DB (R475): an exit ring's slots return; a source ring's slots are fetched under the slice's PASID, checked and sent in
order, or kept while the slice is frozen or its port is down (R340, R360). `slots`: what the row brings of host memory; where it
brings less than the doorbell covers, none, the rest is free values. -/
def State.ringDb (s : State) (k r v : Nat) (slots : List (List Byte)) : State :=
  let x := s.slice k
  let g := x.ring r
  let i := v % 4096
  if !g.enable ∨ g.entries ≤ i ∨ x.state = 0 then s
  else if g.exitDir then s.setRing k r { g with head := i, emptied := decide (i = g.tail) }
  else
    let n := (i + g.entries - (g.tail + g.posted.length) % g.entries) % g.entries
    let given := slots.take n
    let (rest, s) := s.freeSlots g.bufsz (n - given.length)
    let s := if n = 0 then s else s.emit (.hostRead x.port x.pasid (g.base + g.bufsz * ((g.tail + g.posted.length) % g.entries)) (n * g.bufsz) false)
    (s.setRing k r { g with head := i, posted := g.posted ++ given ++ rest }).sendPosted k

/-- A write to a slice page (Tables 20.2 and 20.3). -/
def State.pageWrite (s : State) (k off v : Nat) : State :=
  let x := s.slice k
  let lo (b : Nat) : Nat := b / 2 ^ 32 * 2 ^ 32 + v % 2 ^ 32 / 4096 * 4096
  let hi (b : Nat) : Nat := b % 2 ^ 32 + v % 2 ^ 32 * 2 ^ 32
  match off with
  | 0x004 => s.intCtrl k v
  | 0x010 => if x.evq.enable then s else s.setSlice k { x with evq := { x.evq with base := lo x.evq.base } }
  | 0x014 => if x.evq.enable then s else s.setSlice k { x with evq := { x.evq with base := hi x.evq.base } }
  | 0x018 => s.evqSize k v
  | 0x020 => s.evqHead k v
  | 0x100 => let q := s.sq k 0; if q.enable then s else s.setSq k 0 { q with base := lo q.base }
  | 0x104 => let q := s.sq k 0; if q.enable then s else s.setSq k 0 { q with base := hi q.base }
  | 0x108 => s.sqSize k 0 v
  | _ =>
    if off % 4 ≠ 0 then s
    else if 0x800 ≤ off ∧ off < 0x820 then s.sqTail k ((off - 0x800) / 4) v
    else if 0x900 ≤ off ∧ off < 0x940 then s.ringDb k ((off - 0x900) / 4) v []
    else s

/-- MG_ERRSUM: ignored in Safe (R597, R618). -/
def State.errsumWrite (s : State) (v : Nat) : State :=
  if s.ret.mode = .safe then s else { s with err := s.err.clear v }

/-- A write to the management block with the authority of slice 0 (R609, R610, R616). -/
def State.mgWrite (s : State) (off v : Nat) : State :=
  match off with
  | 0x30 => s.errsumWrite v
  | 0x50 => { s with host := { s.host with scratch := word v } }
  | _ => s

/-! ### Access from a host port -/

/-- Memory requests of the port come to the hub (R60, R66, R340, R607). -/
def State.portHears (s : State) (p : Nat) : Bool := s.coreOn && s.hostPortUsed p && (s.hport p).up && !(s.hport p).retry

/-- The function takes memory requests: it is in D0 with Memory Space Enable set (R607). -/
def State.regReach (s : State) (p : Nat) : Bool := s.portHears p && (s.hport p).d0 && (s.hport p).memEn

/-- A read that the function does not take: Unsupported Request (R607). -/
def State.hostUr (s : State) (p tag : Nat) : State := if s.portHears p then s.emit (.cpl p tag 1 []) else s

/-- The port sees the page (R339). -/
def State.seesPage (s : State) (p k : Nat) : Bool :=
  let x := s.slice k
  decide (k < 64) && decide (x.state ≠ 0) && x.bound && decide (x.port = p)

/-- Slice 0 is bound to the port (R609). -/
def State.portOfZ (s : State) (p : Nat) : Bool := let x := s.slice 0; x.bound && decide (x.port = p)

/-- A write of a DW with all byte enables from a host port (R339, R608, R609). -/
def State.hostRegWrite (s : State) (p off v : Nat) : State :=
  if !s.regReach p then s
  else if off < 0x40000 then (if s.seesPage p (off / 0x1000) then s.pageWrite (off / 0x1000) (off % 0x1000) v else s)
  else if 0x100000 ≤ off ∧ off < 0x110000 ∧ s.portOfZ p then s.mgWrite (off - 0x100000) v
  else s

/-- The snapshot of a host port. -/
def HPort.snap (h : HPort) : Snap := { t := h.snapT, w7 := h.snapW7, ok := h.snapOk }

/-- A DW of an MSI-X table entry (R619). -/
def MsixEnt.dw (e : MsixEnt) (i : Nat) : Word :=
  match i with
  | 0 => word e.addr
  | 1 => word (e.addr / 2 ^ 32)
  | 2 => e.data
  | _ => word (b2n e.masked)

/-- A DW of a port's MSI-X table and PBA (R619, Table 20.1); what lies past its vectors reads as zero. -/
def State.msixVal (s : State) (p off : Nat) : Word :=
  let h := s.hport p
  if off % 4 ≠ 0 then 0
  else if off < 0x208000 then
    let n := (off - 0x200000) / 16
    if n < s.vectors then (h.msix.read {} n).dw (off % 16 / 4) else 0
  else
    let n := (off - 0x208000) * 8
    word (sumN ((List.range 32).map fun i => if n + i < s.vectors ∧ h.pba.contains (n + i) then 2 ^ i else 0))

/-- What a read from a host port returns (R339, R607, R619): every page of a FREE slice but SL_STATUS reads as zero. -/
def State.hostRegVal (s : State) (p off : Nat) : Word :=
  if 0x200000 ≤ off then s.msixVal p off
  else if off < 0x40000 then
    if s.seesPage p (off / 0x1000) ∨ ((s.slice (off / 0x1000)).state = 0 ∧ off % 0x1000 = 0) then
      s.regVal (s.hport p).snap off else 0
  else s.regVal (s.hport p).snap off

/-- SL_SQ_TAIL_WRITE (R352, R353). -/
def execSlSqTailWrite (port slice queue value : Nat) (s : State) : Host.Outcome State Fault Refusal :=
  .next (if 8 ≤ queue then s else s.hostRegWrite port (slice * 0x1000 + 0x800 + 4 * queue) value)

/-- SL_EVQ_HEAD_WRITE (R355, R356, R357). -/
def execSlEvqHeadWrite (port slice value : Nat) (s : State) : Host.Outcome State Fault Refusal :=
  .next (s.hostRegWrite port (slice * 0x1000 + 0x020) value)

/-- SL_SQ_SIZE_WRITE (R351, R613, R614). -/
def execSlSqSizeWrite (port slice queue value : Nat) (s : State) : Host.Outcome State Fault Refusal :=
  .next (if 8 ≤ queue then s else s.hostRegWrite port (slice * 0x1000 + 0x108 + 0x20 * queue) value)

/-- SL_EVQ_SIZE_WRITE (R351, R614). -/
def execSlEvqSizeWrite (port slice value : Nat) (s : State) : Host.Outcome State Fault Refusal :=
  .next (s.hostRegWrite port (slice * 0x1000 + 0x018) value)

/-- SL_INT_CTRL_WRITE (R357, R613). -/
def execSlIntCtrlWrite (port slice value : Nat) (s : State) : Host.Outcome State Fault Refusal :=
  .next (s.hostRegWrite port (slice * 0x1000 + 0x004) value)

/-- SL_RING_DB_WRITE (R475). -/
def effSlRingDbWrite (port slice ring value : Nat) (slots : List (List Byte)) (s : State) : State :=
  if 16 ≤ ring ∨ !s.regReach port ∨ !s.seesPage port slice then s else s.ringDb slice ring value slots

def execSlRingDbWrite (port slice ring value : Nat) (slots : List (List Byte)) (s : State) :
    Host.Outcome State Fault Refusal := .next (effSlRingDbWrite port slice ring value slots s)

/-- MG_TIME_NS_READ: the port's snapshot is latched (R617). -/
def effMgTimeNsRead (port tag : Nat) (s : State) : State :=
  if !s.regReach port then s.hostUr port tag
  else
    let s := s.setHport port { s.hport port with snapT := s.time.datum, snapW7 := s.timeW7, snapOk := true }
    s.emit (.cpl port tag 0 (leBytes 4 (s.nowNs % 1000000000)))

def execMgTimeNsRead (port tag : Nat) (s : State) : Host.Outcome State Fault Refusal := .next (effMgTimeNsRead port tag s)

/-- RC_REGISTER_READ: the completion carries the count, which is cleared (R9, R608, R611). Another register is read as it stands,
and MG_TIME_NS as its own row reads it. -/
def effRcRegisterRead (port offset tag : Nat) (s : State) : State :=
  if offset = 0x100040 then effMgTimeNsRead port tag s
  else if !s.regReach port then s.hostUr port tag
  else
    let v := s.hostRegVal port offset
    let s := s.emit (.cpl port tag 0 (leBytes 4 v.toNat))
    if s.seesPage port (offset / 0x1000) then s.rcClear offset else s

def execRcRegisterRead (port offset tag : Nat) (s : State) : Host.Outcome State Fault Refusal :=
  .next (effRcRegisterRead port offset tag s)

/-- MG_ERRSUM_WRITE (R597, R609, R618). -/
def execMgErrsumWrite (port value : Nat) (s : State) : Host.Outcome State Fault Refusal :=
  .next (s.hostRegWrite port 0x100030 value)

/-- REGISTER_WRITE (R9, R339, R607 to R609). -/
def execRegisterWrite (port offset value : Nat) (s : State) : Host.Outcome State Fault Refusal :=
  .next (if 2 ^ 24 ≤ offset then s else s.hostRegWrite port offset value)

/-! ### MSI-X -/

/-- A pending message sent once its vector and the function are unmasked; the counts of the slices it serves
restart (R357). -/
def State.msixUnmask (s : State) (p n : Nat) : State :=
  let h := s.hport p
  let e := h.msix.read {} n
  if !h.pba.contains n ∨ e.masked ∨ h.funcMask then s
  else
    let s := (s.setHport p { h with pba := h.pba.filter (· ≠ n) }).emit (.msix p n e.addr e.data)
    (List.range 64).foldl (fun s k =>
      let x := s.slice k
      if x.bound ∧ x.port = p ∧ x.vector = n ∧ x.state ≠ 0 then s.setSlice k { x with unsig := 0, firstAt := none } else s) s

/-- One DW of the MSI-X table written (R619). -/
def MsixEnt.write (e : MsixEnt) (i v : Nat) : MsixEnt :=
  match i with
  | 0 => { e with addr := e.addr / 2 ^ 32 * 2 ^ 32 + v % 2 ^ 32 / 4 * 4 }
  | 1 => { e with addr := e.addr % 2 ^ 32 + v % 2 ^ 32 * 2 ^ 32 }
  | 2 => { e with data := word v }
  | _ => { e with masked := bit v 0 }

/-- MSIX_TABLE_WRITE: accesses of 4 and 8 bytes (R619). -/
def effMsixTableWrite (port offset : Nat) (bytes : List Byte) (s : State) : State :=
  let n := (offset - 0x200000) / 16
  if !s.regReach port ∨ offset < 0x200000 ∨ s.vectors ≤ n ∨ offset % 4 ≠ 0
      ∨ !(decide (bytes.length = 4) || decide (bytes.length = 8 ∧ offset % 8 = 0)) then s
  else
    let i := offset % 16 / 4
    let h := s.hport port
    let e := h.msix.read {} n
    let e := e.write i (fromLe (bytes.take 4))
    let e := if bytes.length = 8 then e.write (i + 1) (fromLe (bytes.drop 4)) else e
    (s.setHport port { h with msix := h.msix.write {} n e }).msixUnmask port n

def execMsixTableWrite (port offset : Nat) (bytes : List Byte) (s : State) : Host.Outcome State Fault Refusal :=
  .next (effMsixTableWrite port offset bytes s)

/-- Held records of every slice a port serves, once it can be written to (R340, R364). -/
def State.flushPort (s : State) (p : Nat) : State :=
  (List.range 64).foldl (fun s k =>
    let x := s.slice k
    if x.bound ∧ x.port = p ∧ x.held ≠ [] then s.flushHeld k 64 else s) s

/-- HELD_RECORD_WRITE, or the failure of a record write (R356, R599). -/
def effHeldRecordWrite (slice : Nat) (ok : Bool) (s : State) : State :=
  if !s.coreOn ∨ 64 ≤ slice then s
  else if ok then s.flushHeld slice 64
  else if !(s.slice slice).evq.enable then s
  else
    let s := s.modSlice slice fun x => { x with evq := { x.evq with enable := false, err := 5 } }
    { s with err := { s.err with evqFail := true } }.queueErr slice 8 5

def execHeldRecordWrite (slice : Nat) (ok : Bool) (s : State) : Host.Outcome State Fault Refusal :=
  .next (effHeldRecordWrite slice ok s)

/-- INTERRUPT_TIMER (R357). -/
def effInterruptTimer (slice : Nat) (s : State) : State :=
  if s.coreOn ∧ s.intDue slice then s.sendInt slice else s

def execInterruptTimer (slice : Nat) (s : State) : Host.Outcome State Fault Refusal := .next (effInterruptTimer slice s)

/-- PE_WAKE_N is asserted for a port: in D3hot with a held event (R340). -/
def State.peWake (s : State) (p : Nat) : Bool :=
  !(s.hport p).d0 && (List.range 64).any fun k => let x := s.slice k; x.bound && decide (x.port = p) && decide (x.held ≠ [])

/-! ### Access under the authority of a slice (R610) -/

/-- The access is allowed. -/
def State.regAllowed (s : State) (h k off : Nat) (wr : Bool) : Bool :=
  decide (off % 4 = 0) &&
    (if off < 0x40000 then decide (h = s.selfNo ∧ off / 0x1000 = k) || s.isZ h k || s.holds h k 0x0B (off / 0x1000)
     else if 0x100000 ≤ off ∧ off < 0x110000 then !wr || s.isZ h k
     else false)

/-- The offset lies in the page of a FREE slice, of which only SL_STATUS reads (R339). -/
def State.freePage (s : State) (off : Nat) : Bool :=
  decide (off < 0x40000 ∧ off % 0x1000 ≠ 0) && decide ((s.slice (off / 0x1000)).state = 0)

/-- A read under the authority of a slice: the value, none where it is denied (R339, R610, R617). -/
def State.regRead (s : State) (h k off : Nat) : State × Option Word :=
  if !s.regAllowed h k off false then (s, none)
  else
    let s := if off = 0x100040 then
        { s with host := { s.host with intSnapT := s.time.datum, intSnapW7 := s.timeW7, intSnapOk := true } } else s
    let v := s.regVal { t := s.host.intSnapT, w7 := s.host.intSnapW7, ok := s.host.intSnapOk } off
    if s.freePage off then (s, some 0) else (s.rcClear off, some v)

/-- A write under the authority of a slice, none where it is denied (R339, R610). -/
def State.regWrite (s : State) (h k off v : Nat) : Option State :=
  if !s.regAllowed h k off true then none
  else if s.freePage off then some s
  else if off < 0x40000 then some (s.pageWrite (off / 0x1000) (off % 0x1000) v)
  else some (s.mgWrite (off - 0x100000) v)

end Sys2Proof.Machine
end

