-- ==== Sys2Proof/Machine/Windows.lean ====
section
/-! DEFINITION. Remote windows: near requests, far accesses, the request store, semaphores and the WIN_
commands (Chapter 16). -/

namespace Sys2Proof.Machine

/-- Window states (Table 16.5). -/
def wClosed : Nat := 0
def wOpen : Nat := 1
def wSuspended : Nat := 2
def wDraining : Nat := 3

/-- Message operations (Table 16.2). -/
def opRead : Nat := 0
def opWriteP : Nat := 1
def opWriteA : Nat := 2
def opAtomic : Nat := 3
def opReadData : Nat := 4
def opWriteDone : Nat := 5
def opAtomicData : Nat := 6
def opRetry : Nat := 7

/-- Results (Table 16.3). -/
def resOk : Nat := 0
def resUr : Nat := 1
def resCa : Nat := 2
def resDenied : Nat := 3

/-- Counters of WIN_QUERY FORM 1. -/
def wcReads : Nat := 0
def wcWritesP : Nat := 1
def wcWritesA : Nat := 2
def wcAtomics : Nat := 3
def wcRetries : Nat := 4
def wcFarErrors : Nat := 5
def wcStale : Nat := 6
def wcDiscarded : Nat := 7

/-- Reasons of WIN_ERROR (R508). -/
def weWriteFailed : Nat := 1
def wePostedFailed : Nat := 2
def weTimeout : Nat := 3
def weSuspended : Nat := 4
def weReopened : Nat := 5
def weClosed : Nat := 6
def weLease : Nat := 7
def weUnmapped : Nat := 8
def weUncertain : Nat := 9

/-- The status of a reason (R508). -/
def weStatus (r : Nat) : Nat :=
  if r = weWriteFailed ∨ r = wePostedFailed then stTargetError
  else if r = weTimeout ∨ r = weLease then stTimeout
  else if r = weReopened then stOk
  else if r = weUnmapped then stNotPresent else stLinkLost

def State.wnd (s : State) (w : Nat) : Win := s.win.wins.read Win.init w

def State.setWnd (s : State) (w : Nat) (x : Win) : State :=
  { s with win := { s.win with wins := s.win.wins.write Win.init w x } }

def State.modWnd (s : State) (w : Nat) (f : Win → Win) : State := s.setWnd w (f (s.wnd w))

def State.winCount (s : State) (w i : Nat) : State :=
  s.modWnd w fun x => { x with counters := x.counters.mod 0 i (satAdd 16 · 1) }

/-- WIN_ERROR to the owner, reasons 01h, 02h and 03h at most once per millisecond per window (R508). -/
def State.winErr (s : State) (w reason result off rseq : Nat) : State :=
  let x := s.wnd w
  let limited := decide (reason ≤ 3)
  let n := x.since.read 0 reason + 1
  let first := if x.first.read 0 reason = 0 then off else x.first.read 0 reason - 1
  if limited ∧ !s.passed (x.rep.read 0 reason) 400000 then
    s.setWnd w { x with since := x.since.write 0 reason n, first := x.first.write 0 reason (first + 1) }
  else
    let x' := { x with
      since := x.since.write 0 reason 0
      first := x.first.write 0 reason 0
      rep := if limited then x.rep.write 0 reason (s.uptime + 1) else x.rep }
    (s.setWnd w x').report x.ownerHub x.owner 0x0B (weStatus reason) w
      [ pack [fld 20 (b2n x.far), fld 16 result, fld 8 x.gen.toNat, reason], word first,
        word (if limited then n else 1), word (rseq % 65536) ]

/-! ### Messages -/

/-- A WIN message (Table 16.2). -/
def winMsg (op result : Nat) (gen : BitVec 8) (rseq : BitVec 16) (off w2 : Nat) (data : List Byte) : List Byte :=
  bytesOf [pack [fld 28 op, fld 24 result, fld 16 gen.toNat, rseq.toNat], word off, word w2, 0] ++ data

/-- The header words of a message. -/
structure WinHdr where
  op : Nat
  result : Nat
  gen : BitVec 8
  rseq : BitVec 16
  off : Nat
  w2 : Nat
  len : Nat
  data : List Byte
  ok : Bool
  deriving DecidableEq, Repr

/-- A message read; `ok` false for a reserved OP, a non-zero reserved field or a length that differs (R497). -/
def winHdr (bytes : List Byte) : WinHdr :=
  let w (i : Nat) : Nat := fromLe ((bytes.drop (4 * i)).take 4)
  let w0 := w 0
  let w2 := w 2
  let op := bits w0 31 28
  let len := bits w2 28 16
  let data := bytes.drop 16
  let carries := decide (op = opWriteP ∨ op = opWriteA ∨ op = opReadData ∨ op = opAtomic ∨ op = opAtomicData)
  { op := op, result := bits w0 27 24, gen := BitVec.ofNat 8 (bits w0 23 16), rseq := BitVec.ofNat 16 (bits w0 15 0),
    off := w 1, w2 := w2, len := len, data := data,
    ok := decide (16 ≤ bytes.length) && decide (op < 8) && decide (bits w2 31 29 = 0) && decide (bits w2 15 14 = 0)
      && decide (bits w2 9 8 = 0) && decide (w 3 = 0) && decide (len ≤ 4096)
      && (if carries then decide (data.length = len) else decide (data = [])) }

/-- Operand bytes of an ASIZE code. -/
def asizeBytes (a : Nat) : Nat := if a = 0 then 4 else if a = 1 then 8 else 16

/-- Bytes of the target that a request concerns: for an ATOMIC its operand (R487). -/
def WinHdr.span (h : WinHdr) : Nat := if h.op = opAtomic then asizeBytes (bits h.w2 13 12) else h.len

/-- The size a SIZELOG gives. DESIGN CHOICE: 32, the largest, does not fit the field's five bits, and 0 stands for it
(R487, Table 16.4; log entry 62). -/
def sizeLog (f : Nat) : Nat := if f = 0 then 32 else f

/-! ### The near hub -/

/-- A window whose aperture holds a BAR2 offset of a port, in any state but CLOSED (R487). -/
def State.winAt (s : State) (port addr : Nat) : Option Nat :=
  (s.win.wins.find? fun p => let x := p.2; decide (x.st ≠ wClosed) && !x.far && decide ((s.slice x.owner).port = port) &&
    decide (x.apoff * 4096 ≤ addr) && decide (addr < x.apoff * 4096 + 2 ^ x.sizeLog)).map Prod.fst

/-- BAR2 requests of a port reach the hub. -/
def State.bar2Reach (s : State) (p : Nat) : Bool := s.regReach p

/-- An access that no window covers (R490, R508). -/
def State.unmapped (s : State) (port addr : Nat) : State :=
  let h := s.hport port
  let s := s.setHport port { h with unmapped := satAdd 32 h.unmapped 1 }
  let w := s.win
  let first := if w.unmapSince = 0 then addr else w.unmapFirst
  if !s.passed w.unmapRep 400000 then { s with win := { w with unmapSince := w.unmapSince + 1, unmapFirst := first } }
  else
    let s := { s with win := { w with unmapSince := 0, unmapRep := s.uptime + 1 } }
    s.reportMgmt 0x0B stNotPresent 0 [pack [weUnmapped], word first, word (w.unmapSince + 1), 0]

/-- The window takes requests: OPEN with its owner ACTIVE (Table 16.1). -/
def State.winTakes (s : State) (x : Win) : Bool := decide (x.st = wOpen) && decide ((s.slice x.owner).state = 1)

/-- A request sent with a tag (R491, R497). -/
def State.winSend (s : State) (w kind off len hostTag w2 : Nat) (data : List Byte) : State :=
  let x := s.wnd w
  let op := if kind = 0 then opRead else if kind = 2 then opWriteA else opAtomic
  let req : WinReq := { kind := kind, rseq := x.rseq, offset := off, len := len, hostTag := hostTag, words := [word w2],
                        data := data, sentAt := s.uptime + 1, retries := 0, backoff := none, fail := false, order := s.win.order }
  let s := s.setWnd w { x with rseq := x.rseq + 1, reqs := x.reqs ++ [req] }
  { s with win := { s.win with order := s.win.order + 1 } }.sendTunnel x.tid false (winMsg op 0 x.gen x.rseq off w2 data)

/-- The mode of a write: ACKED or POSTED (R492). -/
def Win.acked (x : Win) (off : Nat) : Bool :=
  match (List.range 8).find? fun i => let r := x.ranges.read WinRange.init i
      r.enable && decide (r.offset * 4096 ≤ off) && decide (off < r.offset * 4096 + 2 ^ r.sizeLog) with
  | some i => (x.ranges.read WinRange.init i).ack
  | none => x.defAck

/-- A queued packet of a posted write: its first packet says so, and a later fragment counts as one. -/
def postedPkt (p : TxPkt) : Bool := !p.first || decide (fromLe (p.payload.take 4) / 2 ^ 28 = opWriteP)

/-- A WRITE_P of the window waits for TC credit on a link (R167, R491). -/
def State.postedWaits (s : State) (x : Win) : Bool :=
  (List.range 5).any fun l => (s.link l).sched.queue.any fun q =>
    decide (q.pkt.tunnel = x.tid ∧ q.pkt.srcHub = s.hubNo) && postedPkt q.pkt && !(s.link l).credit q.pkt

/-- The hub takes no BAR2 request of a port now: no tag is free, a window of the port is at its limit, or one of its posted writes
waits for credit (R491). The request waits with the host: its row leaves the state as it is. -/
def State.pressed (s : State) (port : Nat) : Bool :=
  decide (512 ≤ s.tagsUsed) || s.win.wins.any fun p => let x := p.2
    decide (x.st ≠ wClosed) && !x.far && decide ((s.slice x.owner).port = port) && (decide (x.outMax ≤ x.reqs.length) || s.postedWaits x)

/-- BAR2_MEMORY_WRITE (R490 to R493). -/
def effBar2MemoryWrite (port addr fbe lbe : Nat) (data : List Byte) (s : State) : State :=
  if !s.bar2Reach port ∨ 4096 < data.length ∨ s.pressed port then s
  else
    match s.winAt port addr with
    | none => s.unmapped port addr
    | some w =>
      let x := s.wnd w
      let off := addr - x.apoff * 4096
      let w2 := (pack [fld 16 data.length, fld 4 (lbe % 16), fbe % 16]).toNat
      if !s.winTakes x then s.winCount w wcDiscarded
      else if !x.acked off then
        (s.winCount w wcWritesP).sendTunnel x.tid false (winMsg opWriteP 0 x.gen 0 off w2 data)
      else (s.winCount w wcWritesA).winSend w 2 off data.length 0 w2 data

def execBar2MemoryWrite (port addr fbe lbe : Nat) (data : List Byte) (s : State) : Host.Outcome State Fault Refusal :=
  .next (effBar2MemoryWrite port addr fbe lbe data s)

/-- A completion to the host: 0 SC, 1 UR, 2 CA. -/
def State.hostCpl (s : State) (port hostTag st : Nat) (data : List Byte) : State := s.emit (.cpl port hostTag st data)

/-- BAR2_MEMORY_READ, a zero-length read included (R490, R491). -/
def effBar2MemoryRead (port hostTag addr len fbe lbe : Nat) (s : State) : State :=
  if !s.bar2Reach port then s.hostUr port hostTag
  else if 4096 < len ∨ s.pressed port then s
  else
    match s.winAt port addr with
    | none => (s.unmapped port addr).hostCpl port hostTag resUr []
    | some w =>
      let x := s.wnd w
      if !s.winTakes x then s.hostCpl port hostTag resCa []
      else (s.winCount w wcReads).winSend w 0 (addr - x.apoff * 4096) len hostTag
        (pack [fld 16 len, fld 4 (lbe % 16), fbe % 16]).toNat []

def execBar2MemoryRead (port hostTag addr len fbe lbe : Nat) (s : State) : Host.Outcome State Fault Refusal :=
  .next (effBar2MemoryRead port hostTag addr len fbe lbe s)

/-- The AtomicOps Table 16.1 takes. -/
def atomicOk (atype asize addr : Nat) (data : List Byte) : Bool :=
  let n := asizeBytes asize
  decide (asize < 3 ∧ addr % n = 0) &&
    (if atype = 2 then decide (data.length = 2 * n) else decide (atype < 2 ∧ asize < 2 ∧ data.length = n))

/-- BAR2_ATOMICOP (R490, R491). The near window knows its target through nothing but the far hub: a REG window
answers UR from there. -/
def effBar2Atomicop (port hostTag addr atype asize : Nat) (data : List Byte) (s : State) : State :=
  if !s.bar2Reach port then s.hostUr port hostTag
  else if s.pressed port then s
  else
    match s.winAt port addr with
    | none => (s.unmapped port addr).hostCpl port hostTag resUr []
    | some w =>
      let x := s.wnd w
      if !atomicOk atype asize addr data then s.hostCpl port hostTag resUr []
      else if !s.winTakes x then s.hostCpl port hostTag resCa []
      else (s.winCount w wcAtomics).winSend w 3 (addr - x.apoff * 4096) data.length hostTag
        (pack [fld 16 data.length, fld 12 asize, fld 10 atype]).toNat data

def execBar2Atomicop (port hostTag addr atype asize : Nat) (data : List Byte) (s : State) :
    Host.Outcome State Fault Refusal := .next (effBar2Atomicop port hostTag addr atype asize data s)

/-- BAR2_LOCKED_READ (R490). -/
def effBar2LockedRead (port hostTag addr : Nat) (s : State) : State :=
  if !s.bar2Reach port then s.hostUr port hostTag
  else if s.pressed port then s
  else
    match s.winAt port addr with
    | none => (s.unmapped port addr).hostCpl port hostTag resUr []
    | some _ => s.hostCpl port hostTag resUr []

def execBar2LockedRead (port hostTag addr : Nat) (s : State) : Host.Outcome State Fault Refusal :=
  .next (effBar2LockedRead port hostTag addr s)

/-! ### The far hub -/

/-- Far record of a tunnel with its exit here. -/
def State.farOf (s : State) (t : Nat) : Nat := epIndex (s.gaz t).dstEp

/-- A response on the odd tunnel. -/
def State.winReply (s : State) (t op result : Nat) (gen : BitVec 8) (rseq : BitVec 16) (off len : Nat) (data : List Byte) : State :=
  s.sendTunnel (t + 1) false (winMsg op result gen rseq off (fld 16 len) data)

/-- The response of a request that failed, none to a posted write (R493, Table 16.3). -/
def State.farFail (s : State) (w t op result : Nat) (gen : BitVec 8) (rseq : BitVec 16) (off : Nat) : State :=
  if op = opRead then s.winReply t opReadData result gen rseq off 0 []
  else if op = opWriteA then s.winReply t opWriteDone result gen rseq off 0 []
  else if op = opAtomic then s.winReply t opAtomicData result gen rseq off 0 []
  else if (s.wnd w).st = wClosed then s
  else (s.winCount w wcFarErrors).winErr w wePostedFailed result off 0

/-- Pieces of an access: no piece crosses 4 KiB or exceeds `max` (R494). -/
def cuts (max : Nat) : Nat → Nat → Nat → List (Nat × Nat)
  | 0, _, _ => []
  | n + 1, a, len =>
    if len = 0 then []
    else
      let p := min len (min (if max = 0 then 1 else max) (4096 - a % 4096))
      (a, p) :: cuts max n (a + p) (len - p)

/-- The bytes of a request that its byte enables let through (R497). -/
def enabledBytes (w2 off : Nat) (data : List Byte) : List (Option Byte) :=
  let n := data.length
  let whole := decide (off % 4 ≠ 0 ∨ n % 4 ≠ 0)
  data.zipIdx.map fun p =>
    let on := if p.2 < 4 then bit (bits w2 3 0) p.2 else if n ≤ p.2 + 4 then bit (bits w2 7 4) (p.2 + 4 - n) else true
    if whole ∨ on then some p.1 else none

/-- The runs of enabled bytes from an address on. -/
def enabledRuns : Nat → List (Option Byte) → List (Nat × List Byte)
  | _, [] => []
  | a, none :: r => enabledRuns (a + 1) r
  | a, some b :: r =>
    match enabledRuns (a + 1) r with
    | (a', bs) :: t => if a' = a + 1 then (a, b :: bs) :: t else (a, [b]) :: (a', bs) :: t
    | [] => [(a, [b])]

/-- A MEM write issued piece by piece (R494). -/
def State.farWrite (s : State) (k : Slice) (max a : Nat) (r : FarReq) : State :=
  let bs := enabledBytes r.w2.toNat r.offset r.data
  (cuts max 64 a r.len).foldl (fun s p =>
    (enabledRuns p.1 ((bs.drop (p.1 - a)).take p.2)).foldl (fun s q => s.emit (.hostWrite k.port k.pasid q.1 q.2)) s) s

/-- Store entries replaced. -/
def State.setStore (s : State) (st : List FarReq) : State := { s with win := { s.win with store := st } }

def State.semAt (s : State) (n : Nat) : Sem := s.win.sems.read Sem.init n

def State.setSem (s : State) (n : Nat) (x : Sem) : State :=
  { s with win := { s.win with sems := s.win.sems.write Sem.init n x } }

/-- The words of a semaphore (R507). -/
def State.semWords (s : State) (n : Nat) : List Word :=
  let x := s.semAt n
  [pack [fld 20 (b2n (x.held && x.bridge)), fld 14 (if x.bridge then 0 else x.slice), fld 9 (if x.bridge then s.hubNo else x.hub),
    fld 8 (b2n x.held), x.gen.toNat]]

/-- A semaphore acquired at an uptime: the generation rises (R502). -/
def Sem.take (x : Sem) (bridge : Bool) (hub slice lease up : Nat) : Sem :=
  { x with held := true, bridge := bridge, hub := hub, slice := slice, gen := x.gen + 1, leaseMs := lease, takenAt := up + 1 }

/-- A WIN_SEM outcome recorded and completed (R504). -/
def State.semDone (s : State) (c : Cmd) (n st : Nat) : State :=
  let ws := s.semWords n
  let r : SemCmd := { hub := s.cmdHub c, slice := c.slice, opid := c.f 5 15 0, status := st, words := ws, since := s.nowNs }
  { s with win := { s.win with semRecs := r :: s.win.semRecs.filter fun q => decide (s.nowNs ≤ q.since + 1000000000) } }.complete c st ws

/-- The semaphore an ATOMIC of a far record needs. -/
def State.farSem (s : State) (r : FarReq) : Option Nat := (s.wnd r.win).sem

/-- The start of an ATOMIC that holds its semaphore: the operand is read (R503). -/
def State.atomicRead (s : State) (i : Nat) (r : FarReq) : State :=
  let x := s.wnd r.win
  let k := s.slice x.owner
  let sg := ((x.sem.map fun n => (s.semAt n).gen)).getD 0
  (s.setStore (s.win.store.set i { r with started := true, semWait := false, semGen := sg })).emit
    (.hostRead k.port k.pasid (x.base + r.offset) (asizeBytes (bits r.w2.toNat 13 12)) false)

/-- The semaphore passes to the first of the waiters, or becomes FREE; an ATOMIC whose tunnel is gone waits no more (R501 to
R503). -/
def State.semPass (s : State) (n : Nat) : List (Option Cmd × Nat × Nat) → State
  | [] => s.setSem n { s.semAt n with held := false, bridge := false, waiters := [] }
  | (some c, lease, _) :: rest =>
    (s.setSem n ({ s.semAt n with waiters := rest }.take false (s.cmdHub c) c.slice lease s.uptime)).semDone c n stOk
  | (none, lease, _) :: rest =>
    match (s.win.store.zipIdx.find? fun q => q.1.semWait && decide (s.farSem q.1 = some n)) with
    | some (r, i) => (s.setSem n ({ s.semAt n with waiters := rest }.take true s.hubNo 0 lease s.uptime)).atomicRead i r
    | none => s.semPass n rest

/-- The holder gives the semaphore up (R502, R503). -/
def State.semNext (s : State) (n : Nat) : State := s.semPass n (s.semAt n).waiters

/-- DWs of a REG access (R494): offsets from BASE. -/
def regDws (base off len : Nat) : List Nat := (List.range (len / 4)).map fun i => base + off + 4 * i

/-- One DW of a REG write (R494, R610). -/
def State.farRegPut (s : State) (h k off v : Nat) : State := (s.regWrite h k off v).getD s

/-- One DW of a REG read appended (R494, R610). -/
def State.farRegGet (s : State) (bs : List Byte) (h k off : Nat) : State × List Byte :=
  ((s.regRead h k off).1, bs ++ leBytes 4 ((s.regRead h k off).2.getD 0).toNat)

/-- A REG request performed: every DW is checked before any is accessed (R494, R610). -/
def State.farReg (s : State) (t : Nat) (r : FarReq) : State :=
  let x := s.wnd r.win
  let g := s.gaz t
  let wr := decide (r.op ≠ opRead)
  let fbe := bits r.w2.toNat 3 0
  let lbe := bits r.w2.toNat 7 4
  let dws := regDws x.base r.offset r.len
  let enabled := decide (r.offset % 4 = 0 ∧ r.len % 4 = 0 ∧ fbe = 15 ∧ (lbe = 15 ∨ r.len = 4))
  if r.len ≠ 0 ∧ (!enabled ∨ dws.any fun a => !s.regAllowed g.ownerHub g.ownerSlice a wr) then
    s.farFail r.win t r.op resDenied r.wgen r.rseq r.offset
  else if wr then
    let s := (dws.zip (List.range dws.length)).foldl (fun s p =>
      s.farRegPut g.ownerHub g.ownerSlice p.1 (fromLe ((r.data.drop (4 * p.2)).take 4))) s
    if r.op = opWriteA then s.winReply t opWriteDone resOk r.wgen r.rseq r.offset 0 [] else s
  else
    let a := dws.foldl (fun a off => a.1.farRegGet a.2 g.ownerHub g.ownerSlice off) (s, [])
    a.1.winReply t opReadData resOk r.wgen r.rseq r.offset a.2.length a.2

/-- The far record's requests may be presented to its memory now (R340, R496). -/
def State.farReady (s : State) (x : Win) : Bool :=
  x.reg || (decide ((s.slice x.owner).state = 1) && s.portReady (s.slice x.owner))

/-- Entry `i` presented to the target (R494, R495, R503). -/
def State.presentAt (s : State) (i : Nat) : State :=
  match s.win.store[i]? with
  | none => s
  | some r =>
    let x := s.wnd r.win
    let earlier := (s.win.store.take i).any fun q => decide (q.win = r.win) && !q.started && !q.dead
    if r.started ∨ r.dead ∨ r.semWait ∨ earlier ∨ 256 ≤ i ∨ !s.farReady x then s
    else if x.reg then (s.setStore (s.win.store.eraseIdx i)).farReg x.tid r
    else
      let k := s.slice x.owner
      let h := s.hport k.port
      let a := x.base + r.offset
      let started := s.setStore (s.win.store.set i { r with started := true })
      if r.op = opAtomic then
        match x.sem with
        | none => (s.setStore (s.win.store.eraseIdx i)).farFail r.win x.tid opAtomic resUr r.wgen r.rseq r.offset
        | some n =>
          let m := s.semAt n
          if m.held then
            if 16 ≤ m.waiters.length then s
            else (s.setSem n { m with waiters := m.waiters ++ [(none, 10, s.uptime + 1)] }).setStore (s.win.store.set i { r with semWait := true })
          else (s.setSem n (m.take true s.hubNo 0 10 s.uptime)).atomicRead i r
      else if r.op = opRead then
        if r.len = 0 then started.emit (.hostRead k.port k.pasid x.base 0 false)
        else (cuts h.mrrs 64 a r.len).foldl (fun s p => s.emit (.hostRead k.port k.pasid p.1 p.2 false)) started
      else
        started.farWrite k h.mps a r

/-- Every entry that can be presented, oldest first (R495). A REG entry leaves the store, so the entry after it
moves down: the pass repeats at that index. -/
def State.presentFrom (s : State) : Nat → Nat → State
  | 0, _ => s
  | n + 1, i =>
    if s.win.store.length ≤ i then s
    else
      let s' := s.presentAt i
      s'.presentFrom n (if s'.win.store.length < s.win.store.length then i else i + 1)

/-- Requests that wait for an entry follow as entries have become free (R498). -/
def State.present (s : State) : State := (s.presentFrom (s.win.store.length + 1) 0).exitGo 9

/-- A request at the far hub (R487, R488, R495 to R498, R504). -/
def State.farRequest (s : State) (t : Nat) (h : WinHdr) : State :=
  let w := s.farOf t
  let x := s.wnd w
  let g := s.gaz t
  let toRoot := decide (g.ingress ≠ 7) && !s.upLink g.ingress
  let free := 256 - s.win.store.length
  if !h.ok then (if x.st = wClosed then s else s.winCount w wcStale)
  else if x.st = wClosed ∨ !x.far then s.farFail w t h.op resUr h.gen h.rseq h.off
  else
    let x := if x.gen = h.gen then x else { x with gen := h.gen, atomics := [] }
    let s := s.setWnd w x
    if x.st = wDraining then s.farFail w t h.op resCa h.gen h.rseq h.off
    else if 2 ^ x.sizeLog < h.off + h.span then s.farFail w t h.op resUr h.gen h.rseq h.off
    else if h.op = opAtomic ∧ (x.reg ∨ x.sem.isNone ∨ !atomicOk (bits h.w2 11 10) (bits h.w2 13 12) h.off h.data) then
      s.farFail w t h.op resUr h.gen h.rseq h.off
    else
      match if h.op = opAtomic then x.atomics.find? fun a => decide (a.1 = h.rseq.toNat) else none with
      | some (_, v, res) => s.winReply t opAtomicData res h.gen h.rseq h.off v.length v
      | none =>
        if toRoot ∧ free < 64 ∧ (h.op = opRead ∨ h.op = opAtomic) then
          s.sendTunnel (t + 1) false (winMsg opRetry 0 h.gen h.rseq h.off 0 [])
        else
          let r : FarReq := { win := w, op := h.op, wgen := h.gen, rseq := h.rseq, offset := h.off, len := h.len,
                              w2 := word h.w2, data := h.data, started := false, semWait := false, dead := false, since := s.uptime + 1 }
          (s.setStore (s.win.store ++ [r])).present

/-- The message is one of an exit here on an even WIN tunnel. -/
def State.farTun (s : State) (t : Nat) : Bool :=
  let g := s.gaz t
  s.coreOn && decide (g.state = gOpen) && decide (g.cls = clsWin) && g.loc && decide (epBlock g.dstEp = 9) && decide (t % 2 = 0)

def State.farWin (s : State) (t op : Nat) (bytes : List Byte) : State :=
  let h := winHdr bytes
  if !s.farTun t ∨ (h.ok ∧ h.op ≠ op) then s else (s.farRequest t h).exitGo 9

/-- WIN_READ (R495, R498). -/
def execWinRead (tid : Nat) (bytes : List Byte) (s : State) : Host.Outcome State Fault Refusal :=
  .next (s.farWin tid opRead bytes)

/-- WIN_WRITE_P (R493, R494). -/
def execWinWriteP (tid : Nat) (bytes : List Byte) (s : State) : Host.Outcome State Fault Refusal :=
  .next (s.farWin tid opWriteP bytes)

/-- WIN_WRITE_A (R493, R494). -/
def execWinWriteA (tid : Nat) (bytes : List Byte) (s : State) : Host.Outcome State Fault Refusal :=
  .next (s.farWin tid opWriteA bytes)

/-- WIN_ATOMIC (R503, R504). -/
def execWinAtomic (tid : Nat) (bytes : List Byte) (s : State) : Host.Outcome State Fault Refusal :=
  .next (s.farWin tid opAtomic bytes)

/-- A WIN_CLOSE completes once its unit has drained (R507). -/
def State.winDrained (s : State) (w : Nat) : State :=
  let x := s.wnd w
  let busy := if x.far then s.win.store.any fun r => decide (r.win = w) else decide (x.reqs ≠ [])
  if x.st ≠ wDraining ∨ busy then s
  else
    let s := s.setWnd w { Win.init with gen := x.gen }
    match x.draining with
    | some c => s.complete c stOk []
    | none => s

/-- The new value of an ATOMIC, none where a CAS does not compare (R503). -/
def atomicNew (atype n : Nat) (old operand : List Byte) : Option (List Byte) :=
  if atype = 0 then some (leBytes n (fromLe old + fromLe operand))
  else if atype = 1 then some (operand.take n)
  else if old.take n = operand.take n then some (operand.drop n) else none

/-- FAR_ACCESS_DONE (R493 to R495, R501, R503). -/
def effFarAccessDone (index result : Nat) (data : List Byte) (s : State) : State :=
  match s.win.store[index]? with
  | none => s
  | some r =>
    let x := s.wnd r.win
    if !r.started ∨ !s.coreOn then s
    else
      let s := s.setStore (s.win.store.eraseIdx index)
      let res := if result = 3 then resCa else min result 4
      let s :=
        if r.op = opAtomic then
          let n := asizeBytes (bits r.w2.toNat 13 12)
          let old := data.take n
          let k := s.slice x.owner
          let s := match if res = 0 then atomicNew (bits r.w2.toNat 11 10) n old r.data else none with
            | some v => s.emit (.hostWrite k.port k.pasid (x.base + r.offset) v)
            | none => s
          let s := match x.sem with
            | some m => if (s.semAt m).held ∧ (s.semAt m).bridge ∧ (s.semAt m).gen = r.semGen then s.semNext m else s
            | none => s
          let orig := if res = 0 then old else []
          let out := if res = 0 then resOk else resCa
          if r.dead then s
          else
            (s.modWnd r.win fun x => { x with atomics := (r.rseq.toNat, orig, out) :: x.atomics }).winReply x.tid opAtomicData out
              r.wgen r.rseq r.offset orig.length orig
        else if r.dead then s
        else if res ≠ 0 then s.farFail r.win x.tid r.op res r.wgen r.rseq r.offset
        else if r.op = opRead then
          s.winReply x.tid opReadData resOk r.wgen r.rseq r.offset (data.take r.len).length (data.take r.len)
        else if r.op = opWriteA then s.winReply x.tid opWriteDone resOk r.wgen r.rseq r.offset 0 []
        else s
      s.present.winDrained r.win

def execFarAccessDone (index result : Nat) (data : List Byte) (s : State) : Host.Outcome State Fault Refusal :=
  .next (effFarAccessDone index result data s)

/-- FAR_HOLD_TIMEOUT: a MEM request held 1 s is discarded (R496). -/
def effFarHoldTimeout (index : Nat) (s : State) : State :=
  match s.win.store[index]? with
  | none => s
  | some r =>
    if r.started ∨ (s.wnd r.win).reg ∨ s.farReady (s.wnd r.win) ∨ !s.coreOn ∨ !s.passed r.since 400000000 then s
    else (s.setStore (s.win.store.eraseIdx index)).present.winDrained r.win

def execFarHoldTimeout (index : Nat) (s : State) : Host.Outcome State Fault Refusal := .next (effFarHoldTimeout index s)

/-! ### Responses at the near hub -/

/-- The near window of a response tunnel (odd ID). -/
def State.nearOf (s : State) (t : Nat) : Option Nat :=
  (s.win.wins.find? fun p => decide (p.2.st ≠ wClosed) && !p.2.far && decide (p.2.tid + 1 = t)).map Prod.fst

/-- The host completion of a result (Table 16.3). -/
def resCpl (res : Nat) : Nat := if res = 0 then 0 else if res = 1 then 1 else 2

/-- A request leaves the window, its tag freed, its READ or ATOMIC completed to the host. -/
def State.finishReq (s : State) (w : Nat) (r : WinReq) (st : Nat) (data : List Byte) : State :=
  let x := s.wnd w
  let port := (s.slice x.owner).port
  let s := s.setWnd w { x with reqs := x.reqs.filter fun q => decide (q.rseq ≠ r.rseq) }
  let s := if r.kind = 2 then s
    else if r.fail then s.hostCpl port r.hostTag resCa [] else s.hostCpl port r.hostTag st data
  s.winDrained w

/-- A response taken (R488, R493, R497, R500): STALE where nothing waits for it. -/
def State.nearWin (s : State) (t op : Nat) (bytes : List Byte) (k : Nat → WinReq → WinHdr → State → State) : State :=
  let h := winHdr bytes
  match if s.coreOn then s.nearOf t else none with
  | none => s
  | some w =>
    let x := s.wnd w
    if h.ok ∧ h.op ≠ op then s
    else if !h.ok ∨ h.gen ≠ x.gen then s.winCount w wcStale
    else
      match x.reqs.find? fun r => decide (r.rseq = h.rseq) with
      | none => s.winCount w wcStale
      | some r => k w r h s

/-- WIN_READ_DATA (R500). -/
def execWinReadData (tid : Nat) (bytes : List Byte) (s : State) : Host.Outcome State Fault Refusal :=
  .next (s.nearWin tid opReadData bytes fun w r h s =>
    if r.kind ≠ 0 then s.winCount w wcStale
    else s.finishReq w r (resCpl h.result) (if h.result = 0 then h.data else []))

/-- WIN_WRITE_DONE: a failure is reported, and later READs and ATOMICs complete with CA (R493, R508). -/
def execWinWriteDone (tid : Nat) (bytes : List Byte) (s : State) : Host.Outcome State Fault Refusal :=
  .next (s.nearWin tid opWriteDone bytes fun w r h s =>
    if r.kind ≠ 2 then s.winCount w wcStale
    else if h.result = 0 then s.finishReq w r 0 []
    else
      let s := s.modWnd w fun x => { x with
        reqs := x.reqs.map fun q => if r.order < q.order ∧ q.kind ≠ 2 then { q with fail := true } else q }
      (s.winErr w weWriteFailed h.result r.offset r.rseq.toNat).finishReq w r 0 [])

/-- WIN_ATOMIC_DATA (R500, R503). -/
def execWinAtomicData (tid : Nat) (bytes : List Byte) (s : State) : Host.Outcome State Fault Refusal :=
  .next (s.nearWin tid opAtomicData bytes fun w r h s =>
    if r.kind ≠ 3 then s.winCount w wcStale
    else s.finishReq w r (resCpl h.result) (if h.result = 0 then h.data else []))

/-- B of the k-th re-issue, ns (R499). -/
def backoffB (k : Nat) : Nat := min (4000 * 2 ^ (min k 9 - 1)) 1000000

/-- WIN_RETRY: the back-off B + J, J drawn by the TRNG (R499). -/
def execWinRetry (tid : Nat) (bytes : List Byte) (s : State) : Host.Outcome State Fault Refusal :=
  .next (s.nearWin tid opRetry bytes fun w r _ s =>
    let b := backoffB (r.retries + 1)
    let j := (s.freeVal 32).toNat % (b / 4 + 1)
    let r' := { r with retries := r.retries + 1, backoff := some (s.uptime + ceilDiv (2 * (b + j)) 5) }
    (s.drew.winCount w wcRetries).modWnd w fun x => { x with reqs := x.reqs.map fun q => if q.rseq = r.rseq then r' else q })

/-- The back-off of a request is over (R499). -/
def State.backedOff (s : State) (r : WinReq) : Bool :=
  match r.backoff with
  | some t => decide (t ≤ s.uptime)
  | none => false

/-- RETRY_BACKOFF_EXPIRY: re-issued with its original RSEQ (R499). -/
def effRetryBackoffExpiry (win rseq : Nat) (s : State) : State :=
  let x := s.wnd win
  match x.reqs.find? fun r => decide (r.rseq.toNat = rseq) && s.backedOff r with
  | none => s
  | some r =>
    if x.st ≠ wOpen ∧ x.st ≠ wDraining then s
    else
      let op := if r.kind = 0 then opRead else if r.kind = 2 then opWriteA else opAtomic
      (s.setWnd win { x with reqs := x.reqs.map fun q => if q.rseq = r.rseq then { r with backoff := none } else q }).sendTunnel
        x.tid false (winMsg op 0 x.gen r.rseq r.offset (nthW r.words 0) r.data)

def execRetryBackoffExpiry (win rseq : Nat) (s : State) : Host.Outcome State Fault Refusal :=
  .next (effRetryBackoffExpiry win rseq s)

/-- The requests of a far record forgotten: what is not yet presented goes, and the results of the others are discarded
(R501, R507). -/
def State.forgetFar (s : State) (w : Nat) : State :=
  s.setStore ((s.win.store.filter fun r => decide (r.win ≠ w) || r.started).map fun r => if r.win = w then { r with dead := true } else r)

/-- A far record that has drained for TIMEOUT closes (R507). -/
def State.farDrainEnd (s : State) (w : Nat) : State :=
  let x := s.wnd w
  ((s.forgetFar w).setWnd w { Win.init with gen := x.gen }).completeOpt x.draining stOk |>.exitGo 9

/-- WIN_REQUEST_TIMEOUT: TIMEOUT has passed since a request was first sent (R500, R508), or since a far record began to drain
(R507). DESIGN CHOICE: a far record's TIMEOUT is that of its WIN_OPEN, and 50 ms where that is 0 (log entry 62). -/
def effWinRequestTimeout (win rseq : Nat) (s : State) : State :=
  let x := s.wnd win
  if x.far then
    if x.st = wDraining ∧ s.passed x.drainAt (400000 * (if x.toMs = 0 then 50 else x.toMs)) then s.farDrainEnd win else s
  else
  match (s.wnd win).reqs.find? fun r =>
      decide (r.rseq.toNat = rseq) && s.passed r.sentAt (400000 * (s.wnd win).toMs) with
  | none => s
  | some r => (s.winErr win weTimeout 0 r.offset rseq).finishReq win r resCa []

def execWinRequestTimeout (win rseq : Nat) (s : State) : Host.Outcome State Fault Refusal :=
  .next (effWinRequestTimeout win rseq s)

/-! ### Tunnels and rebinding -/

/-- Every outstanding request of a window completed with CA, an ATOMIC reported uncertain (R501). -/
def State.winAbort (s : State) (w : Nat) : State :=
  (s.wnd w).reqs.foldl (fun s r =>
    let s := s.finishReq w r resCa []
    if r.kind = 3 then s.winErr w weUncertain 0 r.offset r.rseq.toNat else s) s

/-- What becomes of a window is reported by the near hub (R501). -/
def State.nearErr (s : State) (w reason : Nat) : State := if (s.wnd w).far then s else s.winErr w reason 0 0 0

/-- A window or far record whose tunnel pair leaves OPEN (R488, R501): SUSPENDED under a new generation, or CLOSED; one
that drains goes on draining (R507). -/
def State.winLost (s : State) (even : Nat) (closed : Bool) (w : Nat) : State :=
  let x := s.wnd w
  if x.tid ≠ even ∨ x.st = wClosed ∨ (x.st = wSuspended ∧ !closed) then s
  else
    let s := s.winAbort w
    let s := (s.forgetFar w).winDrained w
    let x := s.wnd w
    if x.st = wClosed ∨ (x.st = wDraining ∧ !closed) then s
    else if closed then
      ((s.nearErr w weClosed).setWnd w { Win.init with gen := x.gen }).completeOpt x.draining stOk
    else (s.setWnd w { x with st := wSuspended, gen := x.gen + 1, draining := none }).nearErr w weSuspended

/-- The units of a tunnel pair leave OPEN (R488, R501). -/
def State.winTunnelLost (s : State) (t : Nat) (closed : Bool) : State :=
  (s.win.wins.foldl (fun s p => s.winLost (t / 2 * 2) closed p.1) s).exitGo 9

/-- The pair is OPEN again: a new generation (R488, R501). -/
def State.winTunnelOpen (s : State) (t : Nat) : State :=
  let even := t / 2 * 2
  s.win.wins.foldl (fun s p =>
    let x := s.wnd p.1
    if x.tid ≠ even ∨ x.st ≠ wSuspended ∨ !s.tunOpen even ∨ !s.tunOpen (even + 1) then s
    else (s.setWnd p.1 { x with st := wOpen, gen := x.gen + 1 }).nearErr p.1 weReopened) s

/-- Two apertures of one port overlap. -/
def Win.overlaps (a b : Win) : Bool :=
  decide (a.apoff * 4096 < b.apoff * 4096 + 2 ^ b.sizeLog) && decide (b.apoff * 4096 < a.apoff * 4096 + 2 ^ a.sizeLog)

/-- A window overlaps another of the same port. -/
def State.winOverlap (s : State) (w port : Nat) (x : Win) : Bool :=
  s.win.wins.any fun p => decide (p.1 ≠ w) && decide (p.2.st ≠ wClosed) && !p.2.far &&
    decide ((s.slice p.2.owner).port = port) && x.overlaps p.2

/-- SLICE_RESTORE has rebound a slice: its windows take the new port under a new generation, an overlapping one
closes (R361, R488, R489). -/
def State.winRebind (s : State) (k : Nat) : State :=
  s.win.wins.foldl (fun s p =>
    let x := s.wnd p.1
    if x.owner ≠ k ∨ x.ownerHub ≠ s.selfNo ∨ x.st = wClosed then s
    else
      let s := s.setWnd p.1 { x with gen := x.gen + 1 }
      if !x.far ∧ s.winOverlap p.1 (s.slice k).port x then
        let s := s.winAbort p.1
        (s.winErr p.1 weClosed 0 0 0).setWnd p.1 { Win.init with gen := x.gen + 1 }
      else s) s

/-- Every window and far record of a slice closed (R359, R489). -/
def State.winCloseOwner (s : State) (h k : Nat) : State :=
  s.win.wins.foldl (fun s p =>
    let x := s.wnd p.1
    if x.ownerHub ≠ h ∨ x.owner ≠ k ∨ x.st = wClosed then s
    else
      let s := s.winAbort p.1
      let s := s.forgetFar p.1
      ((s.winErr p.1 weClosed 0 0 0).setWnd p.1 { Win.init with gen := x.gen }).completeOpt (s.wnd p.1).draining stOk) s |>.exitGo 9

/-! ### Semaphores -/

/-- SEMAPHORE_LEASE_EXPIRY (R502). -/
def effSemaphoreLeaseExpiry (sem : Nat) (s : State) : State :=
  let x := s.semAt sem
  if !x.held ∨ 16 ≤ sem ∨ !s.coreOn ∨ !s.passed x.takenAt (400000 * x.leaseMs) then s
  else
    let s := if x.bridge then s
      else s.report x.hub x.slice 0x0B stTimeout sem [pack [fld 8 x.gen.toNat, weLease], 0, 1, 0]
    (s.semNext sem).present

def execSemaphoreLeaseExpiry (sem : Nat) (s : State) : Host.Outcome State Fault Refusal := .next (effSemaphoreLeaseExpiry sem s)

/-- SEMAPHORE_WAIT_EXPIRY: the ACQUIRE completes with BUSY (R507). -/
def effSemaphoreWaitExpiry (sem hub htag : Nat) (s : State) : State :=
  let x := s.semAt sem
  match x.waiters.find? fun p => match p.1 with
      | some c => decide (s.cmdHub c = hub ∧ c.htag = htag) && s.passed p.2.2 (400000 * c.w 6)
      | none => false with
  | some (some c, l) => ((s.setSem sem { x with waiters := x.waiters.filter (· ≠ (some c, l)) }).semDone c sem stBusy).present
  | _ => s

def execSemaphoreWaitExpiry (sem hub htag : Nat) (s : State) : Host.Outcome State Fault Refusal :=
  .next (effSemaphoreWaitExpiry sem hub htag s)

/-! ### Commands -/

def layWinOpen (_ : Cmd) : Layout :=
  { masks := [(4, mk 31 29 + mk 11 0), (5, mk 28 0), (6, mk 28 24 + mk 7 0), (7, mk 9 0), (8, mkAll), (9, mkAll)] }

/-- The windows and far records of a slice. -/
def State.winOwned (s : State) (h k : Nat) : Nat :=
  (s.win.wins.filter fun p => decide (p.2.st ≠ wClosed ∧ p.2.ownerHub = h ∧ p.2.owner = k)).length

/-- WIN_OPEN (R485 to R488, R505, R506). -/
def execWinOpen (c : Cmd) (s : State) : Host.Outcome State Fault Refusal :=
  .next <| s.runCmd c 0x0C00 (layWinOpen c) false fun s =>
    let far := c.b 4 31
    let reg := c.b 4 30
    let t := c.f 4 11 0
    let g := s.gaz t
    let log := sizeLog (c.f 5 28 24)
    let size := 2 ^ log
    let apoff := c.f 5 23 0
    let outMax := c.f 6 7 0
    let toMs := c.w 7
    let base := c.w64 8
    let h := s.cmdHub c
    let k := c.slice
    let bound := decide (h = s.selfNo) && (s.slice k).bound
    let auth := if !far then bound && s.ownsTun c t
      else if reg then s.authZ c || s.ownsTun c t else bound
    let ep := if far then g.dstEp else g.srcEp
    let w := epIndex ep
    let endOk := if far then g.loc && decide (g.ingress ≠ 7) else decide (g.ingress = 7) && !g.loc
    let pair := decide (t % 2 = 0 ∧ g.state ≠ gClosed ∧ g.cls = clsWin) && g.duplex && endOk && decide (epBlock ep = 9)
    let fits := decide (12 ≤ log ∧ log ≤ 32) &&
      (if !far then decide (apoff * 4096 % size = 0 ∧ apoff * 4096 + size ≤ 2 ^ s.board.bar2log ∧ 1 ≤ outMax ∧ outMax ≤ 128 ∧ 1 ≤ toMs ∧ toMs ≤ 1000)
        else if reg then decide (base % size = 0 ∧ base + size ≤ 2 ^ 24) else decide (base % 4096 = 0))
    let old := s.wnd w
    let x : Win := { Win.init with
      st := wOpen, far := far, reg := far && reg, tid := t, gen := old.gen + 1, owner := k, ownerHub := h, sizeLog := log
      apoff := if far then 0 else apoff
      defAck := !far && c.b 4 29
      outMax := outMax, toMs := toMs, base := base
      sem := if far && !reg && !c.b 6 28 then some (c.f 6 27 24) else none }
    if !auth then s.complete c stNotGranted []
    else if !pair ∨ !fits then s.complete c stBadParam []
    else if g.state ≠ gOpen then s.complete c stWrongMode []
    else if old.st ≠ wClosed then s.complete c stNoResource []
    else if !far ∧ s.winOverlap w (s.slice k).port x then s.complete c stBusy []
    else if 16 ≤ s.winOwned h k then s.complete c stLimit []
    else (s.setWnd w x).complete c stOk []

def layWinClose (_ : Cmd) : Layout := { masks := [(4, mk 7 0)] }

/-- The command comes from the owner of a unit, or from slice 0 (R505). -/
def State.winAuth (s : State) (c : Cmd) (x : Win) : Bool := s.authZ c || decide (x.ownerHub = s.cmdHub c ∧ x.owner = c.slice)

/-- WIN_CLOSE (R505, R507). -/
def execWinClose (c : Cmd) (s : State) : Host.Outcome State Fault Refusal :=
  .next <| s.runCmd c 0x0C01 (layWinClose c) false fun s =>
    let w := c.f 4 7 0
    let x := s.wnd w
    if x.st = wClosed then s.complete c (if s.authZ c then stNotPresent else stNotGranted) []
    else if !s.winAuth c x then s.complete c stNotGranted []
    else if x.st = wDraining then s.complete c stBusy []
    else (s.setWnd w { x with st := wDraining, draining := some c, drainAt := s.uptime + 1 }).winDrained w

def layWinRange (_ : Cmd) : Layout := { masks := [(4, mk 12 0), (5, mk 28 24 + mk 19 0)] }

/-- WIN_RANGE (R492, R505, R507). -/
def execWinRange (c : Cmd) (s : State) : Host.Outcome State Fault Refusal :=
  .next <| s.runCmd c 0x0C02 (layWinRange c) false fun s =>
    let w := c.f 4 7 0
    let x := s.wnd w
    let off := c.f 5 19 0
    let log := sizeLog (c.f 5 28 24)
    let en := c.b 4 11
    if x.st = wClosed then s.complete c (if s.authZ c then stNotPresent else stNotGranted) []
    else if !s.winAuth c x then s.complete c stNotGranted []
    else if x.far ∨ (en ∧ (log < 12 ∨ 32 < log ∨ off * 4096 % 2 ^ log ≠ 0 ∨ 2 ^ x.sizeLog < off * 4096 + 2 ^ log)) then
      s.complete c stBadParam []
    else
      let r : WinRange := { enable := en, ack := c.b 4 12, offset := off, sizeLog := log }
      (s.setWnd w { x with ranges := x.ranges.write WinRange.init (c.f 4 10 8) r }).complete c stOk []

def layWinSem (c : Cmd) : Layout :=
  { masks := [(4, mk 5 0 + (if c.b 4 4 then mk 24 16 else 0)), (5, mk 15 0), (6, mk 9 0), (7, mk 13 0)] }

/-- A waiter is an ACQUIRE with the hub, slice and OPID of a command: a repeat of it takes its place (R504, log entry 57). -/
def State.sameAcquire (s : State) (c : Cmd) (p : Option Cmd × Nat × Nat) : Bool :=
  match p.1 with
  | some d => decide (s.cmdHub d = s.cmdHub c ∧ d.slice = c.slice ∧ d.f 5 15 0 = c.f 5 15 0)
  | none => false

/-- WIN_SEM (R502, R504, R505, R507). -/
def execWinSem (c : Cmd) (s : State) : Host.Outcome State Fault Refusal :=
  .next <| s.runCmd c 0x0C03 (layWinSem c) false fun s =>
    let n := c.f 4 3 0
    let op := c.f 4 5 4
    let opid := c.f 5 15 0
    let x := s.semAt n
    let h := s.cmdHub c
    let lease := c.w 7
    let mine := x.held && !x.bridge && decide (x.hub = h ∧ x.slice = c.slice)
    let old := s.win.semRecs.find? fun r => decide (r.hub = h ∧ r.slice = c.slice ∧ r.opid = opid ∧ s.nowNs ≤ r.since + 1000000000)
    if op = 3 ∧ !s.authZ c then s.complete c stNotGranted []
    else if op = 2 then s.complete c stOk (s.semWords n)
    else if op = 0 ∧ (1000 < c.w 6 ∨ lease = 0 ∨ 10000 < lease) then s.complete c stBadParam []
    else
      match if op < 2 then old else none with
      | some r => s.complete c r.status r.words
      | none =>
        if op = 0 then
          if !x.held then (s.setSem n (x.take false h c.slice lease s.uptime)).semDone c n stOk
          else if x.waiters.any (s.sameAcquire c) then
            ((x.waiters.filter (s.sameAcquire c)).foldl (fun s p => s.completeOpt p.1 stAborted) s).setSem n
              { x with waiters := x.waiters.map fun p => if s.sameAcquire c p then (some c, p.2) else p }
          else if c.w 6 = 0 then s.semDone c n stBusy
          else if 16 ≤ x.waiters.length then s.semDone c n stNoResource
          else s.setSem n { x with waiters := x.waiters ++ [(some c, lease, s.uptime + 1)] }
        else if !genOk (c.b 4 24) (c.f 4 23 16) x.gen then
          s.complete c stStaleGen (s.semWords n ++ [word x.waiters.length, 0, 0])
        else if op = 1 then
          if mine then ((s.semNext n).semDone c n stOk).present else s.semDone c n stDenied
        else
          let s := if x.held then s.semNext n else s
          (s.complete c stOk (s.semWords n)).present

def layWinQuery (_ : Cmd) : Layout := { masks := [(4, mk 10 0)] }

/-- WIN_QUERY (R505, R507, Table 16.5). -/
def execWinQuery (c : Cmd) (s : State) : Host.Outcome State Fault Refusal :=
  .next <| s.runCmd c 0x0C04 (layWinQuery c) true fun s =>
    let w := c.f 4 7 0
    let x := s.wnd w
    match c.f 4 9 8 with
    | 0 => s.complete c stOk
      [ pack [fld 30 x.st, fld 29 (b2n x.far), fld 28 (b2n x.reg), fld 20 x.reqs.length, fld 8 x.tid, x.gen.toNat],
        pack [fld 24 (x.sizeLog % 32), x.apoff],
        word (sumN ((List.range 8).map fun i => if (x.ranges.read WinRange.init i).enable then 2 ^ i else 0)), 0 ]
    | 1 =>
      if c.b 4 10 ∧ !s.winAuth c x then s.complete c stNotGranted []
      else (if c.b 4 10 then s.setWnd w { x with counters := [] } else s).complete c stOk (counterWords x.counters 0)
    | 2 =>
      if 16 ≤ w then s.complete c stBadParam []
      else s.complete c stOk (s.semWords w ++ [word (s.semAt w).waiters.length, 0, 0])
    | _ => s.complete c stOk
      [ word s.host.port0.unmapped, word s.host.port1.unmapped, word (256 - min 256 s.win.store.length),
        word (s.win.wins.filter fun p => decide (p.2.st ≠ wClosed)).length ]

end Sys2Proof.Machine
end

