-- ==== Sys2Proof/Machine/TreeOps.lean ====
section
/-! DEFINITION. A hub's part in the life of a tunnel (entries and their states, hop checks, TUNNEL_STATE), and the
root's records of hubs, paths and tunnels (Chapter 7; log entries 34 to 36). -/

namespace Sys2Proof.Machine

/-! ### Entries and their states -/

/-- The queued packets of a tunnel discarded at this hop (R210, R212). -/
def State.flushTun (s : State) (t : Nat) : State :=
  let mine (q : QPkt) : Bool := decide (q.pkt.tunnel = t)
  let qs := ((List.range 5).flatMap fun l => (s.link l).sched.queue.filter mine) ++
    s.tree.exitQ.filter mine
  if qs = [] then s
  else
    let cut (s : State) (l : Nat) : State := (s.schedAdvance l).modLink l fun k =>
      { k with sched := { k.sched with queue := k.sched.queue.filter fun q => decide (q.pkt.tunnel ≠ t) } }
    let s := (List.range 5).foldl cut s
    let s := { s with tree := { s.tree with exitQ := s.tree.exitQ.filter fun q => !mine q } }
    let holds := (qs.filter fun q => q.rx.isSome).map fun q => (q.rx, q)
    let firsts := holds.foldl (fun (acc : List (Option (Nat × Nat × Nat) × QPkt)) p =>
      if acc.any fun o => decide (o.1 = p.1) then acc else acc ++ [p]) []
    (firsts.foldl (fun s p => s.leftHop p.2) s).countDrop t qs.length

/-- The windows of a tunnel follow its state, and at its close they and its bound go (R240, R242). -/
def State.windowsFollow (s : State) (t : Nat) (held closed : Bool) : State :=
  let upd (k : Link) : Link :=
    let ws := if closed then k.sched.windows.filter fun w => decide (w.tid ≠ t)
      else k.sched.windows.map fun w => if w.tid = t then { w with suspended := held, isOpen := w.isOpen && !held } else w
    if ws = k.sched.windows then k else { k with sched := { k.sched with windows := ws } }
  (List.range 5).foldl (fun s l =>
    let k := s.link l
    if upd k = k then s else (s.schedAdvance l).modLink l upd) s

/-- A bound record freed (R242). -/
def State.dropBound (s : State) (b : Nat) : State :=
  if b = 0 then s
  else
    let s := (List.range 5).foldl State.schedAdvance s
    { s with sched := { s.sched with
        bounds := s.sched.bounds.erase b
        blink := (List.range 5).foldl (fun t l => t.erase (256 * l + b)) s.sched.blink } }

/-- An entry written with what a change of its state brings to the units of this hub: windows, USB ports, remote
windows, the bound and a partial message (R207, R240, R242, R445, R501). -/
def State.setEntry (s : State) (t : Nat) (g : Gaz) : State :=
  let old := s.gaz t
  let s := s.setGaz t g
  let s := if old.state = gOpen ∧ g.state ≠ gOpen then
      ((s.windowsFollow t true false).usbTunnelLost t).winTunnelLost t (decide (g.state ≠ gSuspended))
    else s
  let s := if g.state = gOpen ∧ old.state = gSuspended then (s.windowsFollow t false false).winTunnelOpen t else s
  if g.state = gClosed ∧ old.state ≠ gClosed then
    let s := (((s.usbRelease t).winTunnelLost t true).windowsFollow t false true).dropBound old.bound
    { s with tree := { s.tree with
        partials := s.tree.partials.erase t, inMsg := s.tree.inMsg.filter (· ≠ t), closing := s.tree.closing.erase t } }
  else s

/-- An entry CLOSED: its generation and identity stay, counters and bound go (R203, R205, R242). -/
def State.closeEntry (s : State) (t : Nat) : State :=
  let g := s.gaz t
  if g.state = gClosed then s
  else (s.flushTun t).setEntry t { g with state := gClosed, cause := 0, bound := 0, drops := 0, pkts := 0 }

/-- Links of an entry. -/
def Gaz.links (g : Gaz) : List Nat := (if g.ingress < 5 then [g.ingress] else []) ++ egressLinks g.egress

/-- Words of a link-local TUN_SET (Table 7.1, R189). -/
def llSet (t state cause : Nat) (gen : BitVec 8) : List Word :=
  [pack [fld 24 6, fld 23 1], word t, pack [fld 16 state, fld 14 cause, gen.toNat], 0, 0, 0, 0, 0]

/-- A link-local TUN_SET over the links of an entry but one, where they are UP (R189, R212). -/
def State.flood (s : State) (g : Gaz) (t state cause : Nat) (gen : BitVec 8) (except : Nat) : State :=
  (g.links.filter fun l => decide (l ≠ except) && s.linkUp l).foldl (fun s l => s.emit (.tree l 6 (llSet t state cause gen))) s

/-- An OPEN entry becomes SUSPENDED; its queued packets go (R211, R212). -/
def State.suspendEntry (s : State) (t cause : Nat) (gen : BitVec 8) : State :=
  let g := s.gaz t
  (s.flushTun t).setEntry t { (s.flushTun t).gaz t with state := gSuspended, cause := cause, gen := if g.state = gOpen then gen else g.gen }

/-- A change of the data path is reported once for a duplex pair (R224). -/
def reportsFor (g : Gaz) (t : Nat) : Bool := !g.duplex || decide (t % 2 = 0)

/-- TUNNEL_STATE of a change of the data path, with this hub's entry after it (R224). -/
def State.tunnelState (s : State) (t status : Nat) : State :=
  let g := s.gaz t
  if reportsFor g t then s.report g.ownerHub g.ownerSlice 4 status 0 g.words else s

/-- The owner lies on this side of a link (R224): not by way of it. -/
def State.ownerSide (s : State) (g : Gaz) (l : Nat) : Bool :=
  decide (s.hubNum = some g.ownerHub) ||
    (decide ((s.ctrlEntry g.ownerHub).state = gOpen) && decide ((s.ctrlEntry g.ownerHub).egress ≠ linkBit l))

/-- The epoch on a link has ended: OPEN entries that use it are suspended, a SUSPENDED one loses what is queued and passes the
suspension on, a CLOSING one loses what is queued on that link, and the owner's side reports (R212, R224). -/
def State.suspendLink (s : State) (l : Nat) : State :=
  let one (s : State) (p : Nat × Gaz) : State :=
    let t := p.1
    let g := s.gaz t
    if t ≤ 33 ∨ !g.links.contains l then s
    else if g.state = gOpen then
      let mine := s.ownerSide g l
      let s := (s.suspendEntry t 1 (g.gen + 1)).flood g t gSuspended 1 (g.gen + 1) l
      if mine then s.tunnelState t stLinkLost else s
    else if g.state = gSuspended then (s.flushTun t).flood g t gSuspended 1 g.gen l
    else s
  s.tree.gaz.foldl one s

/-- The words of a TUN_ACK (Table 7.1). -/
def State.ackWords (s : State) (tag t status : Nat) : List Word :=
  [pack [fld 24 7, fld 15 s.hubNo], pack [fld 24 tag, t], word status, 0] ++ (s.gaz t).words

/-- TUN_ACK to the root (R189). -/
def State.tunAck (s : State) (tag t status : Nat) : State := s.emit (.ctrl 0 7 (s.ackWords tag t status) [])

/-- A CLOSING hop is done: CLOSED, and acknowledged (R210). -/
def State.endClosing (s : State) (t : Nat) : State :=
  let tag := s.tree.closing.read 0 t
  let s := s.closeEntry t
  if tag = 0 then s else s.tunAck (tag - 1) t stOk

/-- The tunnel has packets in this hop's queues. -/
def State.queued (s : State) (t : Nat) : Bool :=
  (List.range 5).any fun l => (s.link l).sched.queue.any fun q => decide (q.pkt.tunnel = t)

/-- On entry to Safe every entry but CTRL and TIME closes, each with TUNNEL_STATE and an unsolicited TUN_ACK
(R78, R215, R224). -/
def State.safeTunnels (s : State) : State :=
  let one (s : State) (p : Nat × Gaz) : State :=
    if p.1 ≤ 33 ∨ (s.gaz p.1).state = gClosed then s
    else ((s.closeEntry p.1).tunnelState p.1 stWrongMode).tunAck 0 p.1 stWrongMode
  s.tree.gaz.foldl one s

/-! ### Facts a hop holds (R221) -/

/-- The unit behind an endpoint is on this hub. -/
def State.epPresent (s : State) (ep : Nat) : Bool :=
  let i := epIndex ep
  match epBlock ep with
  | 1 => s.hostPortUsed 0 && decide ((s.slice i).state ≠ 0) && (s.slice i).bound && decide ((s.slice i).port = 0)
  | 2 => s.hostPortUsed 1 && decide ((s.slice i).state ≠ 0) && (s.slice i).bound && decide ((s.slice i).port = 1)
  | 3 => s.headPresent i
  | 4 => decide (i < 4)
  | 5 => s.usbPresent && s.usbPort i
  | 6 => decide (i < 4) && bit s.board.macFit.toNat i
  | 7 => decide (i < 2) && bit s.board.canFit.toNat i
  | 8 => decide (i < 32)
  | 9 => true
  | _ => false

/-- Entries in use, but a tunnel and its pair, that start or end at an endpoint. -/
def State.epUses (s : State) (t ep : Nat) (source : Bool) : Nat :=
  (s.tree.gaz.filter fun p => decide (33 < p.1 ∧ p.1 / 2 ≠ t / 2 ∧ p.2.state ≠ gClosed) &&
    (if source then decide (p.2.ingress = 7 ∧ p.2.srcEp = ep) else p.2.loc && decide (p.2.dstEp = ep))).length

/-- Entries in use, but a tunnel, that start or end at an endpoint: for the limits that count IDs. -/
def State.epIds (s : State) (t ep : Nat) (source : Bool) (cls : Nat) : Nat :=
  (s.tree.gaz.filter fun p => decide (33 < p.1 ∧ p.1 ≠ t ∧ p.2.state ≠ gClosed ∧ p.2.cls = cls) &&
    (if source then decide (p.2.ingress = 7 ∧ p.2.srcEp = ep) else p.2.loc && decide (p.2.dstEp = ep))).length

/-- The endpoint takes one more tunnel (R405, R442, R470, R478, R485). -/
def State.epRoom (s : State) (t ep cls : Nat) (source : Bool) : Bool :=
  match epBlock ep with
  | 1 => !(source && decide (cls = clsDisp)) || decide (s.epIds t ep true clsDisp < 4)
  | 2 => !(source && decide (cls = clsDisp)) || decide (s.epIds t ep true clsDisp < 4)
  | 3 => decide (s.epIds t ep false clsDisp < 1)
  | 4 => decide (s.epIds t ep false clsDisp < 1)
  | 5 => decide (s.epUses t ep true < 2)
  | 6 => decide (s.epIds t ep source clsNet < 16)
  | 7 => decide (s.epIds t ep source clsCan < if source then 64 else 16)
  | 9 => decide (s.epUses t ep true < 1 ∧ s.epUses t ep false < 1)
  | _ => true

/-- The kind of grant an endpoint needs (Tables 7.3 and 11.4), none for host ports and windows. -/
def epGrant (ep : Nat) : Option Nat :=
  match epBlock ep with
  | 3 => some 5
  | 4 => some 6
  | 5 => some 7
  | 6 => some 8
  | 7 => some 9
  | 8 => some 1
  | _ => none

/-- The owner of a tunnel may use an endpoint here (R348, R373). -/
def State.epGranted (s : State) (g : Gaz) (ep : Nat) : Bool :=
  match epGrant ep with
  | none => true
  | some k =>
    (decide (g.ownerSlice = 0) && (decide (s.hubNum = some g.ownerHub) || (!s.pcieUsed && decide (g.ownerHub = 0))))
      || s.holds g.ownerHub g.ownerSlice k (epIndex ep)

/-- The data area in use (R576). -/
def State.area (s : State) : DataArea := if s.img.inUse1 then s.nv.area1 else s.nv.area0

/-- The PAIR record for the partner of a link (R563, R564). -/
def State.pairFor (s : State) (l : Nat) : Option PairRec :=
  s.area.pairs.find? fun p => decide (p.link = l ∧ p.unit = (s.link l).pUnit)

/-- The status a hop answers a TUN_PROG with (R78, R221). -/
def State.hopCheck (s : State) (t : Nat) (g : Gaz) : Nat :=
  let eps := (if g.ingress = 7 then [(g.srcEp, true)] else []) ++ (if g.loc then [(g.dstEp, false)] else [])
  if s.ret.mode = .safe then stWrongMode
  else if eps.any fun e => !s.epPresent e.1 then stNotPresent
  else if eps.any fun e => !s.epRoom t e.1 g.cls e.2 then stNoResource
  else if eps.any fun e => !s.epGranted g e.1 then stNotGranted
  else if g.sealed ∧ g.links.any fun l => (s.pairFor l).isNone then stAuthFail
  else stOk

/-! ### The root's hub records -/

/-- RECSTATE (Table 7.6). -/
def rFree : Nat := 0
def rNumbered : Nat := 1
def rGrace : Nat := 2
def rDetached : Nat := 3
def rEvicted : Nat := 4

/-- The record of a hub number; the root's own is fixed (R220, R643). -/
def State.recOf (s : State) (n : Nat) : HubRec :=
  if n = 0 then { HubRec.init with state := rNumbered, unit := s.nv.unitId, cfgGen := s.tree.cfgGen, role := s.role }
  else s.tree.hubs.read HubRec.init n

def State.setRec (s : State) (n : Nat) (r : HubRec) : State :=
  { s with tree := { s.tree with hubs := s.tree.hubs.write HubRec.init n r } }

/-- Hub numbers with a record, and those in use (R219). -/
def State.hubList (s : State) : List Nat := (s.tree.hubs.filter fun p => decide (p.2.state ≠ rFree)).map Prod.fst
def State.inUse (s : State) : Word := word (1 + sumN (s.hubList.map fun n => 2 ^ n))

/-- A hub and its parents up to the root. -/
def State.chain (s : State) : Nat → Nat → List Nat
  | 0, n => [n]
  | k + 1, n => if n = 0 then [0] else n :: s.chain k (s.recOf n).parent

/-- Hubs of the subtree behind a link of a hub. -/
def State.subtree (s : State) (hub link : Nat) : List Nat :=
  s.hubList.filter fun n => (s.chain 9 n).any fun c => decide (c ≠ 0 ∧ (s.recOf c).parent = hub ∧ (s.recOf c).link = link)

/-- Hubs of the subtree that a hub heads. -/
def State.below (s : State) (hub : Nat) : List Nat := s.hubList.filter fun n => (s.chain 9 n).contains hub

/-- The hub is in an evicted subtree: it takes no new tunnel, and no new number (R219). -/
def State.barred (s : State) (n : Nat) : Bool := (s.chain 9 n).any s.tree.evictedHubs.contains

/-- The root can send to a hub: neither it nor a parent is cut off. -/
def State.reach (s : State) (n : Nat) : Bool :=
  (s.chain 9 n).all fun c => decide ((s.recOf c).state = rNumbered ∨ (s.recOf c).state = rEvicted)

/-- The links a ROUTE still holds: 24 bits hold eight (R188). -/
def routeLen (count : Nat) : Nat := min 8 count

/-- The last link of a route and the rest of it (R188). -/
def routeLast (route count : Nat) : Nat := if count = 0 then 0 else route / 8 ^ (routeLen count - 1) % 8
def routeHead (route count : Nat) : Nat := if count = 0 then 0 else route % 8 ^ (routeLen count - 1)

/-- The hub that a route without its last link leads to, 0 where it holds no number (R643). -/
def State.routeParent (s : State) (h : HelloRec) : Nat :=
  (s.hubList.find? fun m => decide ((s.recOf m).depth + 1 = routeLen h.count ∧ (s.recOf m).route = routeHead h.route h.count)).getD 0

/-- The root knows a downstream link of a hub to be UP: a child it reaches over that link has its number or waits for one, or is
refused one (R12, R20). -/
def State.childUp (s : State) (n : Nat) : Bool :=
  (s.hubList.any fun m => decide ((s.recOf m).parent = n ∧ ((s.recOf m).state = rNumbered ∨ (s.recOf m).state = rEvicted))) ||
    (s.tree.refused ++ s.tree.pendHello).any fun h => decide (h.count = (s.recOf n).depth + 1 ∧ s.routeParent h = n)

/-- The words of Table 7.6 for a hub number. -/
def State.hubWords (s : State) (change n : Nat) : List Word :=
  let r := s.recOf n
  let branch := decide (r.role = 1) || (decide (r.role = 3) && s.childUp n)
  let branch := if n = 0 then s.isBranch else branch
  [ pack [fld 24 change, fld 19 n, fld 16 r.link, fld 11 r.parent, fld 7 r.depth, fld 5 r.role, fld 4 (b2n branch), r.state],
    pack [fld 24 r.cfgGen.toNat, r.route], word r.unit.toNat, word (r.unit.toNat / 2 ^ 32) ]

/-- TREE_CHANGE from the root: to its own slice 0 and to slice 0 of every numbered hub with a host that it reaches (R11, R220). -/
def State.treeEvent (s : State) (status : Nat) (ws : List Word) : State :=
  (s.hubList.filter fun n =>
    let r := s.recOf n
    decide (r.state = rNumbered ∧ r.role ≠ 3) && s.reach n && Config.hasHost r.unit).foldl
    (fun s n => s.report n 0 3 status 0 ws) (s.report 0 0 3 status 0 ws)

/-- TREE_CHANGE for a hub number. -/
def State.hubEvent (s : State) (change n : Nat) : State := s.treeEvent stOk (s.hubWords change n)

/-! ### Paths -/

/-- The hubs from one hub to another along the tree. -/
def State.treePath (s : State) (a b : Nat) : List Nat :=
  let ca := s.chain 9 a
  let cb := s.chain 9 b
  let up := ca.takeWhile fun n => !cb.contains n
  let down := cb.takeWhile fun n => !ca.contains n
  up ++ (ca.drop up.length).take 1 ++ down.reverse

/-- The link of a hub that leads to a neighbour in the tree. -/
def State.linkToward (s : State) (p q : Nat) : Nat := if q ≠ 0 ∧ (s.recOf q).parent = p then (s.recOf q).link else 0

/-- The hops of a tunnel with their distances from its source (R210). -/
def State.hopsOf (s : State) (src : Nat) (exits : List (Nat × Nat)) : List (Nat × Nat) :=
  let ps := exits.map fun e => s.treePath src e.1
  (List.range 17).flatMap fun d => (once (ps.filterMap fun p => p[d]?)).map fun h => (h, d)

/-- The entry of a tunnel at a hop (R203, R214). -/
def State.hopEntry (s : State) (t : Nat) (r : TunRec) (h state : Nat) : Gaz :=
  let ps := r.exits.map fun e => s.treePath r.srcHub e.1
  let next := once (ps.filterMap fun p => match p.dropWhile (· ≠ h) with
    | _ :: q :: _ => some (s.linkToward h q)
    | _ => none)
  let prev := (ps.filterMap fun p => (p.takeWhile (· ≠ h)).getLast? |>.filter fun _ => p.contains h).head?
  let exit := r.exits.find? fun e => decide (e.1 = h)
  { gen := r.gen, state := state, cls := r.cls, tc := r.tc, sealed := r.sealed, lossy := r.lossy
    mcast := decide (1 < r.exits.length), ingress := if h = r.srcHub then 7 else s.linkToward h (prev.getD 0)
    egress := BitVec.ofNat 5 (sumN (next.map fun l => 2 ^ l)), loc := exit.isSome, duplex := r.duplex, tid := t
    ownerHub := r.ownerHub, ownerSlice := r.ownerSlice, srcEp := if h = r.srcHub then r.srcEp else 0
    dstEp := match exit with
      | some e => e.2
      | none => 0 }

/-! ### Tunnel records -/

def State.setTun (s : State) (t : Nat) (r : TunRec) : State :=
  { s with tree := { s.tree with tuns := s.tree.tuns.write TunRec.init t r } }

def State.modTun (s : State) (t : Nat) (f : TunRec → TunRec) : State := s.setTun t (f (s.tun t))

/-- The IDs of a tunnel: the pair where it is duplex (R222). -/
def State.pairIds (s : State) (t : Nat) : List Nat := if (s.tun t).duplex then [t / 2 * 2, t / 2 * 2 + 1] else [t]

/-- TUNNEL_STATE from the root, with the source hub's entry as its last TUN_ACK gave it (R224). -/
def State.rootTunEvent (s : State) (t status : Nat) : State :=
  let r := s.tun t
  if s.reach r.ownerHub then
    let ws := match r.srcEntry with
      | some g => if s.reach r.srcHub then g.words else [0, 0, 0, 0]
      | none => [0, 0, 0, 0]
    s.report r.ownerHub r.ownerSlice 4 status 0 ws
  else s

/-! ### Owners -/

/-- What slices hold and own on this hub, under other names (R363; log entry 44). -/
def State.mapOwners (s : State) (f : Nat × Nat → Nat × Nat) : State :=
  let hop (_ : Nat) (g : Gaz) : Gaz := let o := f (g.ownerHub, g.ownerSlice); { g with ownerHub := o.1, ownerSlice := o.2 }
  let tun (_ : Nat) (r : TunRec) : TunRec := let o := f (r.ownerHub, r.ownerSlice); { r with ownerHub := o.1, ownerSlice := o.2 }
  let eng (_ : Nat) (e : Engine) : Engine := let o := f (e.ownerHub, e.ownerSlice); { e with ownerHub := o.1, ownerSlice := o.2 }
  let stamp (_ : Nat) (p : StampIn) : StampIn := let o := f (p.hub, p.slice); { p with hub := o.1, slice := o.2 }
  let act (_ : Nat) (a : Act) : Act := { a with stamp := stamp 0 a.stamp }
  let grant (g : Grant) : Grant := let o := f (g.hub, g.slice); { g with hub := o.1, slice := o.2 }
  let frame (q : CanQ) : CanQ := { q with owner := q.owner.map f }
  let can (_ : Nat) (x : Can) : Can :=
    { x with tunQ := x.tunQ.map frame, timedQ := x.timedQ.map frame, offered := x.offered.map fun p => (p.1, frame p.2) }
  let sem (_ : Nat) (x : Sem) : Sem := let o := f (x.hub, x.slice); if x.held ∧ !x.bridge then { x with hub := o.1, slice := o.2 } else x
  { s with
    host := { s.host with grants := s.host.grants.map grant, revokes := s.host.revokes.map fun r => { r with grant := grant r.grant } }
    tree := { s.tree with gaz := s.tree.gaz.mapAll Gaz.init hop, tuns := s.tree.tuns.mapAll TunRec.init tun }
    trav := { s.trav with eng := s.trav.eng.mapAll Engine.init eng, act := s.trav.act.mapAll Act.init act }
    time := { s.time with stamps := s.time.stamps.mapAll StampIn.init stamp }
    net := { s.net with cans := s.net.cans.mapAll Can.init can }
    win := { s.win with sems := s.win.sems.mapAll Sem.init sem } }

/-- The hub takes a number, or another one: what its own slices hold and own here, windows included, is theirs under it
(R188, R195; log entry 35). -/
def State.renumberOwn (s : State) (n : Nat) : State :=
  let old := s.selfNo
  if old = n then s
  else
    let win (_ : Nat) (x : Win) : Win := if x.st ≠ wClosed ∧ x.ownerHub = old then { x with ownerHub := n } else x
    let s := s.mapOwners fun o => if o.1 = old then (n, o.2) else o
    { s with win := { s.win with wins := s.win.wins.mapAll Win.init win } }

end Sys2Proof.Machine
end

