-- ==== Sys2Proof/Machine/Sched.lean ====
section
/-! DEFINITION. The egress schedulers at run time: the choice of the next packet, gates, windows and the credit
interval, and the commands that act on one hub (Chapter 8; log entry 30). -/

namespace Sys2Proof.Machine

/-! ### Alerts -/

/-- SCHED_ALERT of a link, at most once a second per reason unless every occurrence is sent (R249, R250). -/
def State.schedAlert (s : State) (l reason status tid tc v1 v2 : Nat) (always : Bool) : State :=
  let sec := s.nowSec + 1
  if !always ∧ (s.link l).sched.lastAlert.read 0 reason = sec then s
  else
    let s := s.modLink l fun k => { k with sched := { k.sched with lastAlert := k.sched.lastAlert.write 0 reason sec } }
    let ws := [pack [fld 16 tid, fld 12 tc, fld 8 l, reason], word (min v1 (2 ^ 32 - 1)), word (min v2 (2 ^ 32 - 1)), 0]
    let s := s.reportMgmt 5 status l ws
    let g := s.gaz tid
    if tid = 0 ∨ (g.ownerHub = s.mgmtHub ∧ g.ownerSlice = 0) then s else s.report g.ownerHub g.ownerSlice 5 status l ws

/-- OVERCOMMIT when a link becomes over-committed (R245). -/
def State.noteOver (s : State) (l : Nat) : State :=
  let now := s.over l
  let was := (s.link l).sched.overCommit
  let s := if now = was then s else s.modLink l fun k => { k with sched := { k.sched with overCommit := now } }
  if now ∧ !was then s.schedAlert l 5 stLimit 0 0 (s.commitSum l) ((s.xFine l).toNat / 125000) false else s

/-! ### The next packet -/

/-- The first queued packet of each tunnel, where it waits in a class: a tunnel's packets leave in arrival order, whatever class
they wait in (R229). -/
def LinkSched.heads (x : LinkSched) (tc : Nat) : List QPkt :=
  (x.queue.foldl (fun (acc : List QPkt) q =>
    if acc.any fun o => decide (o.pkt.tunnel = q.pkt.tunnel) then acc else acc ++ [q]) []).filter fun q => decide (q.cls = tc)

/-- Tier of a tunnel's next packet on a link: 0 floor, 1 shared, none while its ceiling holds (R246); best effort is
policed while the shed level is above 0 (R244). -/
def State.tier (s : State) (l : Nat) (q : QPkt) : Option Nat :=
  let b := (s.entry q.pkt.tunnel).bound
  if b = 0 then
    if q.cls = 0 ∧ s.pace.shed ≠ 0 ∧ (s.blink l 0).borrowB < 0 then none else some 1
  else
    let y := s.blink l b
    if 0 ≤ y.floorB then some 0 else if 0 ≤ y.borrowB then some 1 else none

/-- The packet may be chosen for its class now: gate, windows and credit (R229, R235). -/
def State.fits (s : State) (l : Nat) (q : QPkt) : Bool :=
  let k := s.link l
  let t := k.ptime (pktCounted q.pkt k.sched.ovh)
  let now := s.nowFine
  k.sched.gateFits q.cls now t s.tickLen && k.room q.pkt && !s.hopHeld q.pkt.tunnel &&
    k.sched.windows.all fun w => !w.effect || w.suspended ||
      decide (t * fineTenth ≤ if w.live now ∧ w.past now = 0 then w.period * fineNs else w.toOpen now)

/-- Round robin: the lowest tunnel above the last one served, else the lowest (R229). -/
def rrPick (last : Nat) (qs : List QPkt) : Option QPkt :=
  let best (l : List QPkt) : Option QPkt := l.foldl (fun (acc : Option QPkt) q => match acc with
    | some b => if q.pkt.tunnel < b.pkt.tunnel then some q else some b
    | none => some q) none
  match best (qs.filter fun q => decide (last < q.pkt.tunnel)) with
  | some q => some q
  | none => best qs

/-- The packet a class offers, with its tier (R229). -/
def State.pickClass (s : State) (l tc : Nat) : Option (QPkt × Nat) :=
  let x := (s.link l).sched
  if !x.gateOpen tc s.nowFine ∨ (tc ≠ 0 ∧ tc ≠ 7 ∧ s.creditNow l tc s.nowFine < 0) then none
  else
    let qs := (x.heads tc).filter (s.fits l)
    let tierOf (i : Nat) : Option (QPkt × Nat) :=
      (rrPick (x.rr.read 0 (2 * tc + i)) (qs.filter fun q => decide (s.tier l q = some i))).map fun q => (q, i)
    match tierOf 0 with
    | some r => some r
    | none => tierOf 1

/-- A queued packet is taken off and sent (R149, R231). -/
def State.sendQueued (s : State) (l : Nat) (q : QPkt) : State :=
  let s := s.modLink l fun k => { k with sched := { k.sched with queue := k.sched.queue.erase q } }
  (s.txNew l q.pkt).leftHop q

/-- What sending a packet takes from its class and its bound: the rise ends and is truncated to the grid, and the fall is rounded
away from zero (R232, R246). -/
def State.debit (s : State) (l : Nat) (q : QPkt) (tier : Nat) : State :=
  let k := s.link l
  let n := pktCounted q.pkt k.sched.ovh
  let t := k.ptime n
  let b := (s.entry q.pkt.tunnel).bound
  let take : Int := ceilDiv ((k.payRate - s.idleEff l q.cls) * t) 31250
  let c := max (k.sched.lo q.cls * grain) ((k.sched.credit.read 0 q.cls / grain - take) * grain)
  let shaped := decide (1 ≤ q.cls ∧ q.cls ≤ 6)
  let s := s.modLink l fun k => { k with sched := { k.sched with
    rr := k.sched.rr.write 0 (2 * q.cls + tier) q.pkt.tunnel
    credit := if shaped then k.sched.credit.write 0 q.cls c else k.sched.credit
    creditAt := if shaped then k.sched.creditAt.write 0 q.cls (s.nowFine + t * fineTenth) else k.sched.creditAt } }
  if b = 0 then
    if q.cls = 0 ∧ s.pace.shed ≠ 0 then
      let y := s.blink l 0
      s.setBlink l 0 { y with borrowB := y.borrowB - 256 * n * grain }
    else s
  else
    let y := s.blink l b
    let z := if tier = 0 then { y with floorB := y.floorB - 256 * n * grain } else { y with borrowB := y.borrowB - 256 * n * grain }
    s.setBlink l b { z with sent := y.sent + n }

/-- A packet of a window's tunnel served outside the window, in a class (R239, R249, R250). -/
def State.missed (s : State) (l t tc : Nat) : State :=
  let x := (s.link l).sched
  match x.windows.find? fun w => decide (w.tid = t) && w.effect && !w.suspended with
  | none => s
  | some w =>
    let set (s : State) (f : Window → Window) : State := s.modLink l fun k => { k with sched := { k.sched with
      windows := k.sched.windows.map fun v => if v.tid = t ∧ v.effect then f v else v } }
    let n := (w.misses + 1) % 2 ^ 32
    let s := set s fun v => { v with misses := n }
    if x.lastAlert.read 0 3 = s.nowSec + 1 then s
    else (set s fun v => { v with missRep := n }).schedAlert l 3 stOk t tc ((n + 2 ^ 32 - w.missRep) % 2 ^ 32) 0 false

/-- One packet of a replay goes, before any new one (R162). -/
def State.sendReplay (s : State) (l : Nat) : State :=
  let k := s.link l
  match k.replay[k.replayIdx]? with
  | some p =>
    let n := k.replayIdx + 1
    (s.setLink l { k with replayIdx := n, replaying := decide (n < k.replay.length) }).sendPkt l p
  | none => s.setLink l { k with replaying := false }

/-- The packet a window that is open takes next, if there is one (R229). -/
def State.windowPick (s : State) (l : Nat) (w : Window) : Option QPkt :=
  let k := s.link l
  match k.sched.queue.find? fun q => decide (q.pkt.tunnel = w.tid) with
  | some q =>
    let n := pktCounted q.pkt k.sched.ovh
    if w.sent + n ≤ w.q ∧ k.ptime n * fineTenth ≤ w.toClose s.nowFine ∧ k.room q.pkt ∧ !s.hopHeld w.tid then some q else none
  | none => none

/-- Bytes of a tunnel's bound sent on a link (R247). -/
def State.boundSent (s : State) (l t n : Nat) : State :=
  let b := (s.entry t).bound
  if b = 0 then s else s.setBlink l b { s.blink l b with sent := (s.blink l b).sent + n }

/-- SCHEDULER_PICK (R152, R162, R229, R230); nothing is picked while the fabric or the link recovers (R587). -/
def effSchedulerPick (link : Nat) (s : State) : State :=
  let k := s.link link
  if !(s.coreOn && s.linkPresent link && s.linkUp link) ∨ k.lane.txDoze ≠ .awake ∨ k.lane.txWaking ∨ k.ackDue
      ∨ (k.nakDue ∧ !k.lane.los) ∨ s.recovers [1, 2 + link] then s
  else if k.replaying then s.sendReplay link
  else if k.quiescing then s
  else
    let s := s.schedAdvance link
    match k.sched.windows.find? fun w => w.live s.nowFine && decide (w.sent < w.q) with
    | some w =>
      match s.windowPick link w with
      | some q =>
        let n := pktCounted q.pkt k.sched.ovh
        let s := s.modLink link fun k => { k with sched := { k.sched with
          windows := k.sched.windows.map fun v => if v = w then { v with sent := v.sent + n } else v } }
        (s.boundSent link q.pkt.tunnel n).sendQueued link q
      | none => s
    | none =>
      match ((List.range 8).reverse.filterMap fun tc => s.pickClass link tc).head? with
      | some (q, i) => ((s.debit link q i).missed link q.pkt.tunnel q.cls).sendQueued link q
      | none => s

def execSchedulerPick (link : Nat) (s : State) : Host.Outcome State Fault Refusal := .next (effSchedulerPick link s)

/-- LOSSY_AGE_EXPIRY (R231). -/
def effLossyAgeExpiry (link : Nat) (s : State) : State :=
  let x := (s.link link).sched
  let old (q : QPkt) : Bool := q.lossy && decide (q.since + 4000 * x.ageUs < s.now250)
  if !s.coreOn ∨ x.ageUs = 0 then s
  else
    let gone := x.queue.filter old
    if gone = [] then s
    else
      let s := (s.schedAdvance link).modLink link fun k => { k with sched := { k.sched with
        queue := k.sched.queue.filter fun q => !old q } }
      gone.foldl (fun s q => (s.leftHop q).countDrop q.pkt.tunnel 1) s

def execLossyAgeExpiry (link : Nat) (s : State) : Host.Outcome State Fault Refusal := .next (effLossyAgeExpiry link s)

/-! ### Gates -/

/-- Credits of the classes whose gate is closed hold still, on the grid: the rise has ended (R232). -/
def LinkSched.frozen (x : LinkSched) : LinkSched :=
  { x with credit := (List.range 6).foldl (fun t i =>
      if x.gateWas (i + 1) then t else t.write 0 (i + 1) (t.read 0 (i + 1) / grain * grain)) x.credit }

/-- The entry in force is taken from the operating list at this instant (R234). -/
def State.setGateIdx (s : State) (l : Nat) : State :=
  let s := s.schedAdvance l
  s.modLink l fun k => { k with sched := { k.sched with gateIdx := match k.sched.opGate with
    | some g => (entryAt g.entries 0 (g.pos s.nowFine)).1
    | none => 0 }.frozen }

/-- GATE_ENTRY_BOUNDARY (R232, R234). -/
def effGateEntryBoundary (link : Nat) (s : State) : State :=
  if s.coreOn ∧ (s.link link).sched.opGate.isSome then s.setGateIdx link else s

def execGateEntryBoundary (link : Nat) (s : State) : Host.Outcome State Fault Refusal := .next (effGateEntryBoundary link s)

/-- A switch to a slot (4 for none) asked for at an instant: at BASE where that is later (R236, R254). -/
def State.gateCommit (s : State) (l slot at' : Nat) : State :=
  s.modLink l fun k =>
    let b := if slot < 4 then (k.sched.gates.read GateSlot.init slot).base else 0
    { k with sched := { k.sched with pendSlot := slot, pendAt := max at' b } }

/-- A switch takes effect once its instant has come (R236, R249). -/
def State.gateSwitch (s : State) (link : Nat) : State :=
  let x := (s.link link).sched
  if s.coreOn ∧ x.pendSlot ≠ 7 ∧ x.pendAt ≤ s.nowNs then
    let s := (s.schedAdvance link).modLink link fun k => { k with sched := { k.sched with opSlot := x.pendSlot, pendSlot := 7 } }
    (s.setGateIdx link).schedAlert link 7 stOk 0 0 x.pendSlot (x.pendAt % 1000000000) true
  else s

/-- GATE_SWITCH (R236, R249, R265). -/
def effGateSwitch (link : Nat) (s : State) : State :=
  if s.noneBefore (4 * (s.link link).sched.pendAt) then s.gateSwitch link else s

def execGateSwitch (link : Nat) (s : State) : Host.Outcome State Fault Refusal := .next (effGateSwitch link s)

/-! ### Windows -/

/-- Windows of a tunnel on a link changed. -/
def State.modWindows (s : State) (l t : Nat) (f : Window → Window) : State :=
  s.modLink l fun k => { k with sched := { k.sched with
    windows := k.sched.windows.map fun w => if w.tid = t then f w else w } }

/-- WINDOW_OPEN (R238, R239): once in each occurrence, by the clock. -/
def effWindowOpen (link tid : Nat) (s : State) : State :=
  let now := s.nowFine
  if s.coreOn then s.modWindows link tid fun w =>
    if w.effect ∧ !w.suspended ∧ w.inside now ∧ w.occ ≠ w.occAt now then { w with isOpen := true, sent := 0, occ := w.occAt now } else w
  else s

def execWindowOpen (link tid : Nat) (s : State) : Host.Outcome State Fault Refusal := .next (effWindowOpen link tid s)

/-- WINDOW_CLOSE (R239): once the clock has left the occurrence. -/
def effWindowClose (link tid : Nat) (s : State) : State :=
  if s.coreOn then s.modWindows link tid fun w => if w.inside s.nowFine then w else { w with isOpen := false } else s

def execWindowClose (link tid : Nat) (s : State) : Host.Outcome State Fault Refusal := .next (effWindowClose link tid s)

/-- The instant is a datum second boundary at which a window takes effect that this hop acknowledged at `ack`: the first tick of a
second that starts at least 2 ms later (R240). -/
def State.effectAt (s : State) (ack : Nat) : Bool :=
  decide (s.time.datum - s.nowSec * 1000000000 * unitNs < s.tickLen) && decide (ack + 2000000 ≤ s.nowSec * 1000000000)

/-- WINDOW_EFFECT (R240): the window waiting replaces the one it was set on. At the root it waits for every hop's answer; that the
other hops have answered is the sender's knowledge at another hub (log entry 53). -/
def effWindowEffect (tid : Nat) (s : State) : State :=
  let busy : Bool := match s.sched.winOp with
    | some o => o.isWin && decide (o.tid = tid)
    | none => false
  if !s.coreOn ∨ busy then s
  else
    (List.range 5).foldl (fun s l =>
      let ws := (s.link l).sched.windows
      if ws.any fun w => decide (w.tid = tid) && !w.effect && s.effectAt w.ackAt then
        (s.schedAdvance l).modLink l fun k => { k with sched := { k.sched with
          windows := (ws.filter fun w => decide (w.tid ≠ tid) || !w.effect).map fun w =>
            if w.tid = tid then { w with effect := true } else w } }
      else s) s

def execWindowEffect (tid : Nat) (s : State) : Host.Outcome State Fault Refusal := .next (effWindowEffect tid s)

/-! ### The credit interval -/

/-- The bounds of a link with what R247 counts: record, bound, bytes sent in the interval and whether packets are queued. -/
def State.usage (s : State) (l : Nat) : List (Nat × Bound × Nat × Bool) :=
  let x := (s.link l).sched
  (s.boundsOn l).map fun b =>
    (b.1, b.2, (s.blink l b.1).sent, x.queue.any fun q => decide (q.pkt.tunnel = b.2.tid))

/-- CREDIT_INTERVAL_END (R247, R248, R249). Used rates and the pool are exact; a share is rounded down to 10 kbit/s. -/
def effCreditIntervalEnd (link : Nat) (s : State) : State :=
  if !(s.coreOn && s.linkPresent link && s.linkUp link) then s
  else
    let s := s.schedAdvance link
    let us := s.usage link
    let ci := max 1 (s.link link).sched.ciUs
    let f (b : Bound) : Nat := s.scaled link b.floor
    let c' (b : Bound) : Nat := b.ceilEff s.pace.shed
    -- f(b) - used(b), times ci
    let idle (u : Nat × Bound × Nat × Bool) : Nat := f u.2.1 * ci - u.2.2.1 * 800
    let lends (u : Nat × Bound × Nat × Bool) : Bool := !u.2.2.2 && decide (u.2.2.1 * 800 < f u.2.1 * ci)
    let borrows (u : Nat × Bound × Nat × Bool) : Bool := u.2.2.2 && decide (f u.2.1 < c' u.2.1)
    -- the pool, times 125000 ci
    let pool := ci * s.headFine link + 125000 * sumN ((us.filter lends).map idle)
    let need := sumN ((us.filter borrows).map fun u => c' u.2.1 - f u.2.1)
    let recalls := us.filter fun u => (s.blink link u.1).lender && u.2.2.2
    let recalled := recalls.map fun u => (u.2.1.tid, (s.blink link u.1).lent)
    let set (s : State) (u : Nat × Bound × Nat × Bool) : State :=
      let d := c' u.2.1 - f u.2.1
      let y := s.blink link u.1
      s.setBlink link u.1 { y with
        loan := if borrows u then min d (pool * d / (125000 * ci * max 1 need)) else 0, sent := 0, lender := lends u, borrower := borrows u
        lent := if lends u then idle u / ci else 0 }
    let s := us.foldl set s
    let s := recalled.foldl (fun s r => s.schedAlert link 2 stOk r.1 (s.gaz r.1).tc r.2 0 false) s
    let s := s.noteOver link
    let blocked := (List.range 6).find? fun i =>
      ((s.link link).sched.queue.any fun q => decide (q.cls = i + 1)) && decide (s.idleEff link (i + 1) = 0)
    match blocked with
    | some i => s.schedAlert link 6 stOk 0 (i + 1) 0 0 false
    | none => s

def execCreditIntervalEnd (link : Nat) (s : State) : Host.Outcome State Fault Refusal := .next (effCreditIntervalEnd link s)

/-! ### Commands on one link -/

def laySchedClassSet (c : Cmd) : Layout :=
  let urg := c.b 4 23
  let adm := c.b 4 15
  let cls := c.b 4 14
  let lnk := c.b 4 13
  let lo := c.w 7
  { masks := [(4, mk 26 13 + mk 10 8 + mk 2 0), (5, mk 23 0), (6, mkAll), (7, mkAll), (8, mk 19 0), (9, mk 13 8 + mk 6 0)]
    enc := decide (c.f 4 2 0 < 5) && (!urg || decide (1 ≤ c.f 4 26 24 ∧ c.f 4 26 24 ≤ 6))
      && (!adm || decide (50 ≤ c.f 4 22 16 ∧ c.f 4 22 16 ≤ 100))
      && (!cls || (decide (1 ≤ c.f 4 10 8 ∧ c.f 4 10 8 ≤ 6 ∧ c.w 6 ≤ 0x10000000) && decide (lo = 0 ∨ 0xF0000000 ≤ lo)))
      && (!lnk || decide (2 ≤ c.f 9 6 0 ∧ c.f 9 6 0 ≤ 100)) }

/-- The selected fields of SCHED_CLASS_SET set on a link (R252). -/
def State.setClass (s : State) (c : Cmd) (l : Nat) : State :=
  let tc := c.f 4 10 8
  (s.schedAdvance l).modLink l fun k =>
    let x := k.sched
    let x := if c.b 4 23 then { x with urgTc := c.f 4 26 24 } else x
    let x := if c.b 4 15 then { x with admitPct := c.f 4 22 16 } else x
    let x := if c.b 4 13 then { x with ageUs := c.f 8 19 0, ovh := c.f 9 13 8, ciUs := c.f 9 6 0 } else x
    let x := if c.b 4 14 then { x with
        cfgIdle := x.cfgIdle.write 0 tc (c.f 5 23 0 + 1)
        hiCredit := x.hiCredit.write 0x100001 tc (c.w 6 + 1)
        loCredit := x.loCredit.write 0x100001 tc ((2 ^ 32 - c.w 7) % 2 ^ 32 + 1) } else x
    { k with sched := x }

/-- SCHED_CLASS_SET (R243, R251, R252). -/
def execSchedClassSet (c : Cmd) (s : State) : Host.Outcome State Fault Refusal :=
  .next <| s.runCmd c 0x0500 (laySchedClassSet c) false fun s =>
    let l := c.f 4 2 0
    if !s.mayUse c 0 l then s.complete c stNotGranted []
    else if !s.linkPresent l then s.complete c stNotPresent []
    else if c.b 4 14 ∧ s.linkUp l ∧ (s.link l).payRate < c.f 5 23 0 then s.complete c stBadParam []
    else
      let new := s.setClass c l
      if c.b 4 14 ∧ (new.admitFail l).isSome then s.complete c stLimit []
      else (new.noteOver l).complete c stOk []

/-- The entries form a gate list: each lasts 50 ns or more, and the cycle 1 us to 1 s (R253). -/
def gateListOk (es : List Word) : Bool :=
  !(es.any fun e => decide (entDur e < 50)) && decide (1000 ≤ gateCycle es ∧ gateCycle es ≤ 1000000000)

/-- What the packet holds of a gate list belongs to check 2, what indirect data holds to check 8 (R370). -/
def laySchedGateLoad (c : Cmd) : Layout :=
  let n := c.f 4 16 8
  { ind := true
    masks := [(4, mk 16 8 + mk 6 4 + mk 2 0), (5, mkAll), (6, mkAll), (8, mkAll), (9, mkAll)] ++
      if c.indirect then [] else (List.range 6).map fun i => (i + 10, mkAll)
    enc := decide (c.f 4 2 0 < 5 ∧ c.f 4 6 4 < 4 ∧ 1 ≤ n ∧ n ≤ 256 ∧ c.w 5 < 1000000000) && (c.indirect || (decide (n ≤ 8) && gateListOk ((List.range n).map fun i => word (c.w (i + 8)))))
    inAddr := if c.indirect then c.w64 8 else 0
    inLen := if c.indirect then 4 * n else 0 }

/-- SCHED_GATE_LOAD (R234, R243, R251, R253). -/
def execSchedGateLoad (c : Cmd) (s : State) : Host.Outcome State Fault Refusal :=
  .next <| s.runCmd c 0x0501 (laySchedGateLoad c) false fun s =>
    let l := c.f 4 2 0
    let slot := c.f 4 6 4
    let n := c.f 4 16 8
    let es := if c.indirect then wordsOf n c.data else (List.range n).map fun i => word (c.w (i + 8))
    let x := (s.link l).sched
    if !s.mayUse c 0 l then s.complete c stNotGranted []
    else if !s.linkPresent l then s.complete c stNotPresent []
    else if !gateListOk es then s.complete c stBadParam []
    else if x.opSlot = slot ∨ x.pendSlot = slot then s.complete c stBusy []
    else
      let g : GateSlot := { loaded := true, base := (s.compactField c 5).getD 0, cycle := gateCycle es, entries := es }
      let new := s.modLink l fun k => { k with sched := { k.sched with gates := k.sched.gates.write GateSlot.init slot g } }
      if (new.admitFail l).isSome then s.complete c stLimit [] else new.complete c stOk []

def laySchedGateCommit (c : Cmd) : Layout :=
  { masks := [(4, mk 8 8 + mk 6 4 + mk 2 0), (5, mkAll), (6, mkAll)]
    enc := decide (c.f 4 2 0 < 5 ∧ c.f 4 6 4 < 5 ∧ c.w 5 < 1000000000) }

/-- SCHED_GATE_COMMIT (R236, R251, R254). -/
def execSchedGateCommit (c : Cmd) (s : State) : Host.Outcome State Fault Refusal :=
  .next <| s.runCmd c 0x0502 (laySchedGateCommit c) false fun s =>
    let l := c.f 4 2 0
    let slot := c.f 4 6 4
    let x := (s.link l).sched
    if !s.mayUse c 0 l then s.complete c stNotGranted []
    else if !s.linkPresent l then s.complete c stNotPresent []
    else if slot < 4 ∧ !(x.gates.read GateSlot.init slot).loaded then s.complete c stBadParam []
    else if x.pendSlot ≠ 7 ∧ !c.b 4 8 then s.complete c stBusy []
    else
      let at' := if c.w 5 = 0 ∧ c.w 6 = 0 then s.nowNs else max s.nowNs ((s.compactField c 5).getD 0)
      (s.gateCommit l slot at').complete c stOk []

def laySchedQuery (c : Cmd) : Layout := { masks := [(4, mk 27 16 + mk 10 8 + mk 5 4 + mk 2 0)], enc := decide (c.f 4 2 0 < 5) }

/-- SCHED_QUERY (R251, R257). -/
def execSchedQuery (c : Cmd) (s : State) : Host.Outcome State Fault Refusal :=
  .next <| s.runCmd c 0x0505 (laySchedQuery c) true fun s =>
    let l := c.f 4 2 0
    let tc := c.f 4 10 8
    let t := c.f 4 27 16
    let k := s.link l
    let x := k.sched
    if !s.linkPresent l then s.complete c stNotPresent []
    else
      match c.f 4 5 4 with
      | 0 => s.complete c stOk [ word (k.cfgIdle tc), word (s.idleEff l tc), word (unsigned 32 (s.creditNow l tc s.nowFine)),
          pack [fld 24 (s.usable255 l tc), s.classFloor l tc] ]
      | 1 =>
        match (s.boundsOn l).find? fun b => decide (b.2.tid = t) with
        | none => s.complete c stNotPresent []
        | some b =>
          let y := s.blink l b.1
          s.complete c stOk [ pack [fld 24 (b2n b.2.be), b.2.floor], word b.2.ceil, word (b.2.ceilEff s.pace.shed),
            pack [fld 25 (b2n y.borrower), fld 24 (b2n y.lender), s.allot l b] ]
      | 2 => s.complete c stOk [ pack [ fld 29 x.opSlot, fld 26 x.pendSlot, fld 23 x.urgTc, fld 16 x.admitPct, fld 7 x.ovh, x.ciUs ],
          word k.payRate, word (s.reserved l), word (s.headroom l) ]
      | _ =>
        match x.windows.find? fun w => decide (w.tid = t) with
        | none => s.complete c stNotPresent []
        | some w => s.complete c stOk [word t, word w.hopOpen, word w.hopLen, word w.misses]

end Sys2Proof.Machine
end

