-- ==== Sys2Proof/Machine/SchedRoot.lean ====
section
/-! DEFINITION. SCHED_WINDOW_SET and SCHED_BOUNDS: the root's transaction, one at a time, and the hop form at a
hub (R238 to R243, R251, R255, R256; log entries 29, 33 and 37). -/

namespace Sys2Proof.Machine

/-! ### SYS commands of the root's control plane (R375) -/

/-- A tag is held by a command of a slice or by the control plane. -/
def State.tagBusy (s : State) (t : Nat) : Bool :=
  (s.host.pend.any fun p => decide (p.cmd.htag = t)) || s.sysTags.contains t

/-- The lowest free tag of the 512 (R346). -/
def State.freeTag (s : State) : Nat := ((List.range 512).find? fun t => !s.tagBusy t).getD 511

/-- A SYS command to a hub: opcode and the DWs that are not zero (R375). -/
def State.sendSys (s : State) (h htag op : Nat) (dws : List (Nat × Word)) : State :=
  let dw := [word (op + fld 16 16), word (fld 24 h)] ++ (List.range 14).map fun i =>
    ((dws.find? fun d => decide (d.1 = i + 2)).map Prod.snd).getD 0
  s.sendCommand { hub := 0, slice := 0, here := true, sys := true, sq := 0, htag := htag, dw := dw } []

/-! ### Figures of a window (R239) -/

/-- The hub at the lower end of a hub's link. -/
def State.lowerEnd (s : State) (hub link : Nat) : Nat :=
  if hub ≠ 0 ∧ link = 0 then hub
  else ((s.tree.hubs.find? fun p => decide (p.2.state ≠ rFree ∧ p.2.parent = hub ∧ p.2.link = link)).map Prod.fst).getD 0

/-- Payload rate of a hub's link as the root computes with it (R239): of its own links the agreed rate, of another what LINK_STATE
last said, else a free value (log entry 33). -/
def State.rateOf (s : State) (hub link : Nat) : Nat :=
  let low := s.lowerEnd hub link
  if hub = 0 then (s.link link).payRate
  else if low ≠ 0 ∧ (s.recOf low).parent = 0 then (s.link (s.recOf low).link).payRate
  else match (s.recOf low).upRate with
    | 0 => Config.farRate hub link s.free
    | r => r

/-- o(i) - o(0) and c(i) - o(i) along the egress links of a path, in tenths of a ns. -/
def winHops (q lmax : Nat) : List (Nat × Nat × Nat) → Option (Nat × Nat × Nat × Nat) → List (Nat × Nat × Nat × Nat)
  | [], _ => []
  | (h, l, r) :: rest, prev =>
    let d := ceilDiv (q * 8000000) r
    let p := ceilDiv (lmax * 8000000) r
    let (o, g) := match prev with
      | none => (0, 1000)
      | some (o, g, d0, p0) => (o + p0 + 1500, g + 5500 + ((d0 - p0) - (d - p)))
    (h, l, o, d + g) :: winHops q lmax rest (some (o, g, d, p))

/-- The egress links along a path with their rates. -/
def State.pathLinks (s : State) : List Nat → List (Nat × Nat × Nat)
  | p :: q :: rest => (p, s.linkToward p q, s.rateOf p (s.linkToward p q)) :: s.pathLinks (q :: rest)
  | _ => []

/-- The figures of a tunnel's window at every egress link of its paths, each link once: whole ns that contain the exact interval
(R239, R255). -/
def State.winPlan (s : State) (t : Nat) (w : Window) : List (Nat × Nat × Nat × Nat) :=
  let r := s.tun t
  let whole (x : Nat × Nat × Nat × Nat) : Nat × Nat × Nat × Nat :=
    (x.1, x.2.1, x.2.2.1 / 10, ceilDiv (x.2.2.1 + x.2.2.2) 10 - x.2.2.1 / 10)
  let all := r.exits.flatMap fun e => (winHops w.q w.lmax (s.pathLinks (s.treePath r.srcHub e.1)) none).map whole
  all.foldl (fun acc x => if acc.any fun y => decide (y.1 = x.1 ∧ y.2.1 = x.2.1) then acc else acc ++ [x]) []

/-! ### The transaction -/

/-- The hop forms of a window or its removal, or of a bound (R251): hub and DWs. -/
def State.hopForms (s : State) (isWin : Bool) (t : Nat) (w : Option Window) (b : Option (Bool × Nat × Nat)) : List (Nat × List (Nat × Word)) :=
  let r := s.tun t
  let d4 (remove : Bool) (kind : Bool) : Word := pack [fld 22 (b2n kind), fld 21 (b2n remove), fld 12 r.gen.toNat, t]
  let hopForm : Nat × Word := (15, word (2 ^ 31))
  if isWin then
    let plan := s.winPlan t (match w with
      | some w => w
      | none => r.win.getD Window.init)
    match w with
    | some w => plan.map fun x => (x.1, [ (4, d4 false false), (5, word w.period), (6, word w.offset), (7, pack [fld 20 w.lmax, w.q]),
        (8, word x.2.2.1), (9, word x.2.2.2), (10, word x.2.1), hopForm ])
    | none => plan.map fun x => (x.1, [(4, d4 true false), (10, word x.2.1), hopForm])
  else
    (once (r.path.map Prod.fst)).map fun h => match b with
      | some (be, f, c) => (h, [(4, d4 false be), (5, word f), (6, word c), hopForm])
      | none => (h, [(4, d4 true false), hopForm])

/-- Hop forms sent to the hubs the root reaches; the hubs awaited. -/
def State.sendForms (s : State) (o : WinOp) (fs : List (Nat × List (Nat × Word))) : State :=
  let live := fs.filter fun f => s.reach f.1
  let op := if o.isWin then 0x0503 else 0x0504
  let s := { s with sched := { s.sched with winOp := some { o with waiting := live.map Prod.fst, got := [] } } }
  live.foldl (fun s f => s.sendSys f.1 o.tag op f.2) s

/-- TID and GEN of a completion (R255). -/
def State.schedWord (s : State) (t : Nat) : Word := pack [fld 12 (s.tun t).gen.toNat, t]

/-- The transaction ends: the record takes the window or the bound, or everything has been set back. -/
def State.winEnd (s : State) (o : WinOp) : State :=
  let s := { s with sched := { s.sched with winOp := none } }
  let first := o.fails.head?
  match first with
  | some (_, st, dw5) =>
    match o.cmd with
    | some c => s.complete c st (if o.isWin then [] else [s.schedWord o.tid, dw5, 0, 0])
    | none =>
      if !o.isWin then s
      else
        -- a recomputed window that no longer fits is withdrawn (R241): the link named is the first that refused it
        let r := s.tun o.tid
        let l := match (s.winPlan o.tid (r.win.getD Window.init)).find? fun p => decide (some p.1 = first.map Prod.fst) with
          | some p => p.2.1
          | none => 0
        let s := s.setTun o.tid { r with win := none }
        let ws := [pack [fld 16 o.tid, fld 12 r.tc, fld 8 l, 4], 0, 0, 0]
        let s := s.reportMgmt 5 stLimit l ws
        if r.ownerHub = s.mgmtHub ∧ r.ownerSlice = 0 then s else s.report r.ownerHub r.ownerSlice 5 stLimit l ws
  | none =>
    let s := s.modTun o.tid fun r => if o.isWin then { r with win := o.winRec } else { r with bound := o.bnd }
    -- the root's own hop waits from the last acknowledgement of all (R240)
    let s := if !o.isWin then s else (List.range 5).foldl (fun s l =>
      s.modWindows l o.tid fun w => if w.effect then w else { w with ackAt := s.nowNs }) s
    let eff := ceilDiv (s.nowNs + 2000000) 1000000000
    match o.cmd with
    | some c => s.complete c stOk (if o.isWin then [s.schedWord o.tid, word o.span, word eff, word o.nhops] else [s.schedWord o.tid, 0, 0, 0])
    | none => s

/-- A window or bound command ends at once; a transaction of the root's own just ends. -/
def State.winRefuse (s : State) (c : Option Cmd) (st : Nat) (ws : List Word) : State :=
  match c with
  | some c => s.complete c st ws
  | none => s

/-- A window or bound transaction begins: its forms go to the hops (R241, R251). -/
def State.winTake (s : State) (c : Option Cmd) (t : Nat) (isWin : Bool) (w : Option Window) (b : Option (Bool × Nat × Nat)) :
    State :=
  let plan := match w with
    | some w => s.winPlan t w
    | none => []
  let o : WinOp := { isWin := isWin, tid := t, tag := s.freeTag, cmd := c, winRec := w, bnd := b
                     span := (plan.map fun x => x.2.2.1 + x.2.2.2).foldl max 0, nhops := (once (plan.map Prod.fst)).length }
  let s := s.sendForms o (s.hopForms isWin t w b)
  match s.sched.winOp with
  | some o => if o.waiting = [] then s.winEnd o else s
  | none => s

/-- A window or bound transaction begins, with the checks of the root (R251, R255, R256); the root's own reapplies the tunnel's
window (`again` true) or bound (R241, R242). -/
def State.winBegin (s : State) (c : Option Cmd) (t : Nat) (again : Bool) : State :=
  let r := s.tun t
  let isWin : Bool := match c with
    | some c => decide (c.opcode = 0x0503)
    | none => again
  let mine : Bool := match c with
    | some c => decide (s.cmdHub c = r.ownerHub ∧ c.slice = r.ownerSlice) || decide (s.cmdHub c = 0 ∧ c.slice = 0)
    | none => true
  let fresh : Bool := match c with
    | some c => genOk (c.b 4 20) (c.f 4 19 12) r.gen
    | none => true
  let remove : Bool := match c with
    | some c => c.b 4 21
    | none => false
  let w : Option Window := match c with
    | none => if isWin then r.win else none
    | some c => if remove ∨ !isWin then none
      else some { tid := t, period := c.w 5, offset := c.w 6, q := c.f 7 19 0, lmax := c.f 7 31 20 }
  let b : Option (Bool × Nat × Nat) := match c with
    | none => if isWin then none else r.bound
    | some c => if remove ∨ isWin then none else some (c.b 4 22, c.w 5, c.w 6)
  if !mine then s.winRefuse c stNotGranted []
  else if !fresh then s.winRefuse c stStaleGen (s.tunWords t)
  else if r.state ≠ gOpen then s.winRefuse c stWrongMode []
  else if !isWin ∧ r.tc = 0 then s.winRefuse c stBadParam []
  else if c.isNone ∧ w.isNone ∧ b.isNone then s
  else if remove ∧ (if isWin then r.win.isNone else r.bound.isNone) then s.winRefuse c stNotPresent []
  else s.winTake c t isWin w b

/-- The next window or bound transaction, while none is under way (R251). -/
def State.winNext (s : State) : Nat → State
  | 0 => s
  | n + 1 =>
    match s.sched.winOp, s.sched.winQ with
    | none, q :: rest => ({ s with sched := { s.sched with winQ := rest } }.winBegin q.1 q.2.1 q.2.2).winNext n
    | _, _ => s

/-- A window or bound transaction asked for. -/
def State.winAsk (s : State) (c : Option Cmd) (t : Nat) (again : Bool := true) : State :=
  let q := s.sched.winQ ++ [(c, t, again)]
  { s with sched := { s.sched with winQ := q } }.winNext (q.length)

/-- A hop form has completed at a hub (R251): at a refusal the hops that took it are set back. -/
def State.hopFormDone (s : State) (hub st : Nat) (dw5 : Word) : State :=
  match s.sched.winOp with
  | none => s
  | some o =>
    if !o.waiting.contains hub then s
    else
      let o := { o with waiting := o.waiting.erase hub, fails := if st = stOk ∨ o.undo then o.fails else o.fails ++ [(hub, st, dw5)] }
      let s := { s with sched := { s.sched with winOp := some o } }
      if o.waiting ≠ [] then s
      else if o.fails = [] ∨ o.undo then (s.winEnd o).winNext (s.sched.winQ.length + 1)
      else
        -- in path order: the first failing hop is the one reported
        let path := (s.tun o.tid).path.map Prod.fst
        let rank (h : Nat) : Nat := path.findIdx (· = h)
        let best := o.fails.foldl (fun (a : Option (Nat × Nat × Word)) f => match a with
          | some g => if rank f.1 < rank g.1 then some f else some g
          | none => some f) none
        let o := { o with fails := best.toList, undo := true }
        let r := s.tun o.tid
        let back := if o.cmd.isNone then (if o.isWin then s.hopForms true o.tid none none else []) else s.hopForms o.isWin o.tid r.win r.bound
        let s := s.sendForms o back
        match s.sched.winOp with
        | some o => if o.waiting = [] then (s.winEnd o).winNext (s.sched.winQ.length + 1) else s
        | none => s

/-! ### The hop form (R240, R242, R243) -/

/-- TUN_MODIFY has added a link of this hub to a tunnel, within the last 10 ms (R241, R245; log entry 53). -/
def State.isFresh (s : State) (t l : Nat) : Bool :=
  let n := s.tree.fresh.read 0 (8 * t + l)
  decide (n ≠ 0 ∧ s.uptime < n + 4000000)

/-- The same figures (R239). -/
def Window.same (a b : Window) : Bool :=
  decide (a.period = b.period ∧ a.offset = b.offset ∧ a.q = b.q ∧ a.lmax = b.lmax ∧ a.hopOpen = b.hopOpen ∧ a.hopLen = b.hopLen)

/-- What this hub's hop form of a transaction found here, if it is the transaction whose form came last: tunnel, tag and within the
300 ms for which one command can be under way (R251, R377; log entry 33). -/
def State.backOf (s : State) (c : Cmd) (isWin : Bool) (l : Nat) : Option Back :=
  s.sched.back.find? fun b => decide (b.isWin = isWin ∧ b.tid = c.f 4 11 0 ∧ b.link = l ∧ b.tag = c.htag ∧ s.uptime < b.since + 120000000)

/-- It is kept as the form comes, those of other transactions dropped; the set-back takes it. -/
def State.keepBack (s : State) (c : Cmd) (isWin : Bool) (l : Nat) (b : Option Back) : State :=
  let own := s.sched.back.filter fun b => decide (b.isWin = isWin ∧ b.tid = c.f 4 11 0 ∧ b.tag = c.htag ∧ b.link ≠ l)
  { s with sched := { s.sched with back := own ++ b.toList } }

/-- A form that sets the tunnel's window on a link back to what the transaction's form found there. -/
def Back.isWindow (b : Back) (remove : Bool) (w : Window) : Bool :=
  match b.wins.getLast? with
  | some v => !remove && v.same w
  | none => remove

/-- The same of the tunnel's bound. -/
def Back.isBound (b : Back) (remove : Bool) (x : Bound) : Bool :=
  match b.bound with
  | some y => !remove && decide (y = x)
  | none => remove

/-- A window set or removed on one link of this hub. The window in force set again stays as it is; a link that TUN_MODIFY has added
takes the window at once, tested or not; a set-back leaves everything as the refused form found it (R241, R251). -/
def State.hopWindow (s : State) (c : Cmd) : State :=
  let t := c.f 4 11 0
  let g := s.gaz t
  let l := c.f 10 2 0
  if !genOk (c.b 4 20) (c.f 4 19 12) g.gen then (s.hopRecord t).2.complete c stStaleGen (s.hopRecord t).1
  else if g.state ≠ gOpen then s.complete c stWrongMode []
  else if !g.egress.toNat.testBit l then s.complete c stBadParam []
  else
    let s' := s.schedAdvance l
    let others := (s.link l).sched.windows.filter fun w => decide (w.tid ≠ t)
    let own := (s.link l).sched.windows.filter fun w => decide (w.tid = t) && w.effect
    let put (s : State) (ws : List Window) : State := s.modLink l fun k => { k with sched := { k.sched with windows := ws } }
    let w : Window := { tid := t, period := c.w 5, offset := c.w 6, q := c.f 7 19 0, lmax := c.f 7 31 20,
                        hopOpen := c.w 8, hopLen := c.w 9, ackAt := s.nowNs }
    let ok (s : State) : State := s.complete c stOk [pack [fld 12 g.gen.toNat, t], 0, 0, 0]
    match (s.backOf c true l).filter fun b => b.isWindow (c.b 4 21) w with
    | some b => ok ((put s' (others ++ b.wins.map fun v => (own.find? v.same).getD v)).keepBack c true l none)
    | none =>
    let mine := (s.link l).sched.windows.filter fun w => decide (w.tid = t)
    let s' := s'.keepBack c true l (some { isWin := true, tid := t, link := l, tag := c.htag, since := s.uptime, wins := mine })
    if c.b 4 21 then ok (put s' others)
    else
      let test := put s' (others ++ [w])
      if own.any w.same then ok (put s' (others ++ own))
      else if s.isFresh t l then
        let s' := put s' (others ++ [{ w with effect := true }])
        ok ({ s' with tree := { s'.tree with fresh := s'.tree.fresh.erase (8 * t + l) } }.noteOver l)
      else if w.period < w.hopLen ∨ others.any w.clash ∨ (test.admitFail l).isSome then s'.complete c stLimit []
      else ok (put s' (others ++ own ++ [w]))

/-- A bound set or removed at this hop; one that TUN_MODIFY has just added to the tunnel takes it tested or not, and so does a set-back (R242, R245, R251). -/
def State.hopBound (s : State) (c : Cmd) : State :=
  let t := c.f 4 11 0
  let g := s.gaz t
  let words : List Word := [pack [fld 12 g.gen.toNat, t], 0, 0, 0]
  if !genOk (c.b 4 20) (c.f 4 19 12) g.gen then (s.hopRecord t).2.complete c stStaleGen (s.hopRecord t).1
  else if g.state ≠ gOpen then s.complete c stWrongMode []
  else
    let x : Bound := { tid := t, be := c.b 4 22, floor := c.f 5 23 0, ceil := c.f 6 23 0 }
    let undo := (s.backOf c false 0).any fun b => b.isBound (c.b 4 21) x
    let old := if g.bound = 0 then none else some (s.sched.bounds.read Bound.init g.bound)
    let s := s.keepBack c false 0 (if undo then none else some { tid := t, tag := c.htag, since := s.uptime, bound := old })
    if c.b 4 21 then ((s.dropBound g.bound).setGaz t { g with bound := 0 }).complete c stOk words
    else
    let rec' := if g.bound ≠ 0 then some g.bound
      else ((List.range 255).map (· + 1)).find? fun b => !(s.sched.bounds.any fun p => decide (p.1 = b))
    match rec' with
    | none => s.complete c stLimit [pack [fld 12 g.gen.toNat, t], pack [fld 12 3, s.hubNo], 0, 0]
    | some b =>
      let s' := (List.range 5).foldl State.schedAdvance s
      let s' := { s' with sched := { s'.sched with
        bounds := s'.sched.bounds.write Bound.init b x } }
      let s' := s'.setGaz t { g with bound := b }
      let bad := ((egressLinks g.egress).filterMap fun l => (s'.admitFail l).map fun k => (l, k)).head?
      let bad := if bad.isNone ∧ !s'.testFabric then some (0, 2) else bad
      let added := decide (g.bound = 0) && (egressLinks g.egress).any (s.isFresh t)
      match if added ∨ undo then none else bad with
      | some (l, k) => s.complete c stLimit [pack [fld 12 g.gen.toNat, t], pack [fld 12 k, fld 8 l, s.hubNo], 0, 0]
      | none => s'.complete c stOk words

/-! ### A rate that has changed (R241) -/

/-- A LINK_STATE of another hub reaches the root's management slice (R182, R183, R373): the rate of that link is known from then on,
and the windows whose path uses the link are computed again where it is another. Table 5.1 gives the rate of a code. -/
def State.rateHeard (s : State) (hub dw4 : Nat) : State :=
  let low := s.lowerEnd hub (bits dw4 2 0)
  let rate := bits dw4 5 3 * laneRate (bits dw4 17 16)
  let r := s.recOf low
  if !s.isRoot ∨ bits dw4 31 29 ≠ 2 ∨ low = 0 ∨ r.state = rFree ∨ r.upRate = rate then s
  else
    let s := s.setRec low { r with upRate := rate }
    let uses (r : TunRec) : Bool := r.win.isSome && r.exits.any fun e =>
      (s.pathLinks (s.treePath r.srcHub e.1)).any fun p => decide (s.lowerEnd p.1 p.2.1 = low)
    ((s.tree.tuns.filter fun t => uses t.2).map Prod.fst).foldl (fun s t => s.winAsk none t) s

/-! ### The commands -/

/-- Checks that both commands share before they wait for their turn (R196, R251). -/
def State.schedCmd (s : State) (c : Cmd) (hop : State → State) : State :=
  if c.b 15 31 then (if c.sys ∧ c.hub = 0 then hop s else s.complete c stDenied [])
  else if !s.isRoot then s.complete c stBadParam []
  else if c.f 4 11 0 ≤ 33 then s.complete c stDenied []
  else s.winAsk (some c) (c.f 4 11 0)

def laySchedWindowSet (c : Cmd) : Layout :=
  let hop := c.b 15 31
  let t := c.f 5 29 0
  { masks := [(4, mk 21 0), (5, mk 29 0), (6, mk 29 0), (7, mkAll), (15, mk 31 31)] ++
      if hop then [(8, mkAll), (9, mkAll), (10, mk 2 0)] else []
    enc := c.b 4 21 || (decide (t ≠ 0 ∧ 1000000000 % t = 0 ∧ 10000 ≤ t ∧ c.f 6 29 0 < t)
      && decide (20 ≤ c.f 7 31 20 ∧ c.f 7 31 20 ≤ 2147 ∧ c.f 7 31 20 ≤ c.f 7 19 0)) }

/-- SCHED_WINDOW_SET (R238 to R241, R251, R255). -/
def execSchedWindowSet (c : Cmd) (s : State) : Host.Outcome State Fault Refusal :=
  .next <| s.runCmd c 0x0503 (laySchedWindowSet c) false fun s => s.schedCmd c fun s => s.hopWindow c

def laySchedBounds (c : Cmd) : Layout :=
  { masks := [(4, mk 22 0), (5, mk 23 0), (6, mk 23 0), (15, mk 31 31)]
    enc := c.b 4 21 || decide (c.w 5 ≤ c.w 6 ∧ c.w 6 ≠ 0) }

/-- SCHED_BOUNDS (R242, R243, R251, R256). -/
def execSchedBounds (c : Cmd) (s : State) : Host.Outcome State Fault Refusal :=
  .next <| s.runCmd c 0x0504 (laySchedBounds c) false fun s => s.schedCmd c fun s => s.hopBound c

end Sys2Proof.Machine
end

