-- ==== Sys2Proof/Machine/TimeOps.lean ====
section
/-! DEFINITION. Shared operations of datum time: the mode changes it brings, steps, the servo, the lock, TIME messages,
time exchanges and timestamps (Chapter 9, R71 to R74; log entry 39). Offsets are kept as twice theta in units of
250 ps, so that a half unit is not lost. -/

namespace Sys2Proof.Machine

/-! ### Mode changes -/

/-- MODE_CHANGE on entry to a core mode (R56, R391). -/
def State.modeEvent (s : State) (old new : Mode) (cause : Nat) : State :=
  s.reportBoth 0x11 stOk 0 [pack [fld 16 s.ret.resetCause, fld 8 cause, fld 3 (modeCode old), modeCode new], 0, 0, 0]

/-- The hub moves between core modes; PPS_OUT and TIME_OUT follow Table 3.6. -/
def State.toMode (s : State) (m : Mode) (cause : Nat) : State :=
  let old := s.ret.mode
  (s.timePinEdges { s with ret := { s.ret with mode := m } }).modeEvent old m cause

/-- TIME_ALERT (R294): the step size saturates at signed 64 bits. -/
def State.timeAlert (s : State) (reason status link : Nat) (step : Int) (extra : Nat) : State :=
  let v := unsigned 64 (max (-(2 ^ 63)) (min (2 ^ 63 - 1) step))
  s.reportBoth 6 status 0
    [pack [fld 11 (timeStCode s.time.st), fld 8 link, reason], word v, word (v / 2 ^ 32), word extra]

/-- 64 s in units of 2^-32 ns (R281). -/
def learnSpan : Nat := 64 * 10 ^ 9 * unitNs

/-- The integral of integ over the time from `lo` to `hi`, and how long of it is known (R281). -/
def learnSum (lo : Nat) : Nat → List (Nat × Int) → Int × Nat
  | _, [] => (0, 0)
  | hi, (a, v) :: rest =>
    let r := learnSum lo a rest
    let d := hi - max a lo
    (r.1 + d * v, r.2 + d)

/-- Those values of integ that the last 64 s still need (R281). -/
def learnKeep (lo : Nat) : List (Nat × Int) → List (Nat × Int)
  | [] => []
  | e :: rest => if e.1 ≤ lo then [e] else e :: learnKeep lo rest

/-- integ as it stands now joins what is learned (R281). -/
def Time.learn (t : Time) : Time := { t with learned := learnKeep (t.datum - learnSpan) ((t.datum, t.integ) :: t.learned) }

/-- The learned correction: while LOCKED the mean of integ over the last 64 s, or since lock where that is shorter; else the
one kept, or integ where the state has not been LOCKED (R281; log entry 39). -/
def Time.learnedFreq (t : Time) : Int :=
  if t.st = .locked then
    let r := learnSum (t.datum - learnSpan) t.datum t.learned
    if r.2 = 0 then t.integ else r.1 / (r.2 : Int)
  else t.kept.getD t.integ

/-- LOCKED ends: the learned correction is kept (R281). -/
def Time.unlock (t : Time) : Time :=
  if t.st = .locked then { t with kept := some t.learnedFreq, learned := [] } else t

/-- The clamp of FREQ (R261). -/
def clampI (lim x : Int) : Int := max (-lim) (min lim x)

/-- The time source is lost: FREQ is held at the learned correction (R281). -/
def State.holdTime (s : State) : State :=
  let t := s.time
  { s with time := { t.unlock with
    st := .holdover, freq := clampI 128000000 t.learnedFreq, slewLeft := 0, wasLocked := decide (t.st = .locked)
    lockRun := 0, unlockRun := 0, recovered := false, slewing := true } }

/-- A loss of the time source, or the end of the upstream epoch: from Field the hub enters Holdover (R71, R72). -/
def State.loseTime (s : State) (cause : Nat) : State :=
  let s := if s.time.st = .holdover then s else s.holdTime
  let s := { s with time := { s.time with recovered := false } }
  if s.ret.mode = .field then s.toMode .holdover cause else s

/-- The return from Holdover to Field, once its conditions are met (R74, R122). -/
def State.tryReturn (s : State) : State :=
  if s.ret.mode = .holdover ∧ s.time.recovered ∧ (s.isRoot ∨ (s.linkUp 0 ∧ s.tree.hub.isSome)) then (s.toMode .field 4).fieldMoves else s

/-- ACQUIRING begins (R263). -/
def Time.acquire (t : Time) : Time := { t.unlock with st := .acquiring, n := 0, lockRun := 0, unlockRun := 0 }

/-! ### TIME messages -/

/-- The words of a TIME message (Table 9.3). -/
def State.timeMsg (s : State) (step : Option Step) : List Word :=
  let t := s.time
  let root := s.isTimeRoot
  let sec := match step with
    | some p => p.atSec
    | none => s.nowSec + 1
  let new := match step with
    | some p => p.newT
    | none => 0
  let ns := new / unitNs
  [ pack [ fld 22 (b2n t.utcValid), fld 21 (b2n t.leap59), fld 20 (b2n t.leap61), fld 19 (b2n step.isSome),
      fld 16 (if root then timeStCode t.st else t.rootSt), fld 13 s.timeSource, fld 8 (if root then s.hubNo else t.timeRoot),
      t.msgSeq.toNat ],
    pack [t.utcOff.toNat], word sec, pack [sec / 2 ^ 32 % 2 ^ 16], word (ns / 1000000000),
    pack [fld 16 (new / 2 ^ 16 % 2 ^ 16), ns / 1000000000 / 2 ^ 32 % 2 ^ 16], word (ns % 1000000000), 0 ]

/-- A TIME message from this hub on some of its links (R279, R196). -/
def State.sendTime (s : State) (step : Option Step) (links : List Nat) : State :=
  let s := match s.time.utcPend with
    | some (v, l59, l61, off) => { s with time := { s.time with
        utcPend := none, utcValid := v, leap59 := l59, leap61 := l61, utcOff := BitVec.ofNat 16 off } }
    | none => s
  let p : TxPkt := { tunnel := 33, tclass := clsTime, tc := 7, srcHub := s.hubNo, payload := bytesOf (s.timeMsg step) }
  let s := { s with time := { s.time with msgSeq := s.time.msgSeq + 1 } }
  links.foldl (fun s l => if s.linkUp l ∧ !(s.link l).evicted then s.enqueue l p false none else s) s

/-! ### Steps -/

/-- A figure moved with a step of `by'`: instants from which elapsed time is measured keep their distance from now. -/
def moved (n : Nat) (by' : Int) : Nat := ((n : Int) + by').toNat

/-- Instants that only measure elapsed time move with a step (log entry 39). -/
def State.moveElapsed (s : State) (by250 byNs byFine byUnit : Int) : State :=
  let link (_ : Nat) (k : Link) : Link := { k with
    xWait := false
    sched := { k.sched with
      creditAt := k.sched.creditAt.mapAll 0 fun _ n => moved n byFine
      queue := k.sched.queue.map fun q => { q with since := moved q.since by250 } } }
  let slice (_ : Nat) (x : Slice) : Slice := { x with firstAt := x.firstAt.map fun n => moved n byNs }
  let head (i : Nat) (h : Head) : Head := { h with
    stepFrame := h.stepFrame || decide (h.st ≠ hdOff)
    lineEnd := moved (if h.stepFrame then h.lineEnd else s.lineEndNs i) byNs
    regNext := h.regNext.map fun p => (p.1, p.2.1, moved p.2.2 byNs), lpend := h.lpend.map fun p => { p with since := moved p.since byNs } }
  let pipe (_ : Nat) (x : Pipe) : Pipe := { x with grantAt := moved x.grantAt byNs }
  let port (_ : Nat) (u : UPort) : UPort := { u with
    pipes := u.pipes.mapAll Pipe.init pipe, hostH := u.hostH.map fun n => moved n byNs, acq := u.acq || (u.far.isSome && decide (u.st = 4)) }
  let can (_ : Nat) (c : Can) : Can := { c with tunQ := c.tunQ.map fun q => { q with due := moved q.due by250 } }
  let stamp (_ : Nat) (p : StampIn) : StampIn := { p with lastAt := p.lastAt.map fun n => moved n by250 }
  let act (_ : Nat) (a : Act) : Act := { a with stamp := stamp 0 a.stamp }
  { s with
    links := s.links.mapAll Link.init link
    host := { s.host with slices := s.host.slices.mapAll Slice.init slice }
    disp := { s.disp with d0 := head 0 s.disp.d0, d1 := head 1 s.disp.d1 }
    usb := { s.usb with ports := s.usb.ports.mapAll UPort.init port }
    win := { s.win with
      semRecs := s.win.semRecs.map fun r => { r with since := moved r.since byNs } }
    net := { s.net with cans := s.net.cans.mapAll Can.init can }
    trav := { s.trav with act := s.trav.act.mapAll Act.init act }
    time := { s.time with
      stamps := s.time.stamps.mapAll StampIn.init stamp, lastPps := s.time.lastPps.map fun n => moved n by250
      ppsFrom := moved s.time.ppsFrom by250, learned := s.time.learned.map fun e => (moved e.1 byUnit, e.2)
      xBad := s.time.xBad || s.time.xOpen } }

/-- A window's state at the new time: the byte count restarts at the first occurrence after the step, whenever on the new time that
one opens (R237, R239). -/
def Window.after (w : Window) (now : Nat) : Window :=
  if w.effect ∧ !w.suspended ∧ w.inside now then { w with isOpen := true, occ := w.occAt now } else { w with isOpen := false, occ := 0 }

/-- Datum time becomes `new` (R237, R264, R265, R289, R308, R318). `alert`: outside Survey. -/
def State.applyStep (s : State) (new : Nat) (byTime alert : Bool) : State :=
  let old := s.time.datum
  let by' : Int := (new : Int) - old
  let s := (List.range 5).foldl State.schedAdvance s
  let s := s.moveElapsed (by' / unit250) (by' / unitNs) (10 * by') by'
  let t := s.time
  let s := { s with time := { t with
    datum := new, step := none, stepTo := new / unit250, stepBy := ((new / unit250 : Nat) : Int) - (old / unit250 : Nat)
    stepCnt := if alert then t.stepCnt + 1 else t.stepCnt
    st := if byTime ∧ !t.pps then .free else t.st
    recovered := t.recovered || !t.slewing } }
  let s := (List.range 5).foldl (fun s l => (s.setGateIdx l).modLink l fun k => { k with sched := { k.sched with
    windows := k.sched.windows.map fun w => w.after s.nowFine } }) s
  let s := s.travStep (old / unit250) (by' / unit250)
  let s := if alert then s.timeAlert 6 stOk 0 (by' / unitNs) 0 else s
  s.tryReturn

/-- A time root announces a step that it orders (R264, R279). -/
def State.announce (s : State) (p : Step) : State := if s.isTimeRoot then s.sendTime (some p) s.downLinks else s

/-- A step at a boundary, given as the change it makes: in Survey at once, elsewhere pending; a time root announces it
(R264, R279). -/
def State.stepAt (s : State) (sec : Nat) (newT : Nat) (byTime : Bool) : State :=
  let p : Step := { atSec := sec, newT := newT, byTime := byTime }
  if s.ret.mode = .survey then
    (s.announce p).applyStep (((s.time.datum : Int) + newT - sec * 1000000000 * unitNs).toNat) byTime false
  else if s.time.step.isSome then s
  else ({ s with time := { s.time with step := some p } }).announce p

/-- The first second boundary at least 100 us after now (R264). -/
def State.stepSec (s : State) : Nat := ceilDiv (s.time.datum + 100000 * unitNs) (1000000000 * unitNs)

/-- A step by `delta`, in 2^-32 ns (R264). -/
def State.orderStep (s : State) (delta : Int) (byTime : Bool) : State :=
  s.stepAt s.stepSec ((((s.stepSec * 1000000000 * unitNs : Nat) : Int) + delta).toNat) byTime

/-! ### The servo and the lock -/

/-- The servo of R263, with R281 after HOLDOVER: `th` is twice theta in 250 ps, `inv` is 1 / tx, `secs` the whole seconds
a first step adds (R276). The first measurement after HOLDOVER counts as n = 1 of R263 and takes the step-or-slew choice in
place of its step (log entry 39). -/
def State.servo (s : State) (th inv : Int) (secs : Int) : State :=
  let t := s.time
  let delta := secs * 1000000000 * unitNs - th * 2 ^ 29
  let slew (s : State) (integ : Int) : State :=
    let phase := clampI 12800000 (-(8 * th * inv))
    { s with time := { s.time with integ := integ, freq := clampI 128000000 (integ + phase), slewLeft := 0 } }
  let step (s : State) : State :=
    ({ s with time := { s.time with freq := clampI 128000000 s.time.integ, slewLeft := 0 } }).orderStep delta false
  let s := { s with time := { t with lastTheta := th / 2 } }
  if t.slewing then
    if -8000 ≤ th ∧ th ≤ 8000 ∧ secs = 0 then
      let s := slew s (t.integ - 2 * th * inv)
      { s with time := { s.time with n := 1, slewing := false, recovered := true } }
    else if t.step.isSome ∧ s.ret.mode ≠ .survey then s
    else step { s with time := { s.time with n := 1, slewing := false } }
  else
    let s := { s with time := { s.time with n := t.n + 1 } }
    if t.n = 0 then step s
    else if t.n = 1 then slew s (t.integ - 32 * th * inv)
    else if th < -8000 ∨ 8000 < th then step s
    else slew s (t.integ - 2 * th * inv)

/-- Lock and unlock after a measurement, and what is learned while LOCKED (R270, R276, R281). -/
def State.lockCount (s : State) (th : Int) (limIn limOut need : Nat) : State :=
  let t := s.time
  let a := th.natAbs
  if t.st = .acquiring then
    let n := if a ≤ limIn then t.lockRun + 1 else 0
    let s := { s with time := { t with lockRun := n } }
    if n < need then s
    else ({ s with time := { t with st := .locked, lockRun := 0, unlockRun := 0, learned := [(t.datum, t.integ)] } }).timeAlert
      4 stOk 0 0 0
  else if t.st = .locked then
    let n := if limOut < a then t.unlockRun + 1 else 0
    if 4 ≤ n then ({ s with time := t.acquire }).timeAlert 5 stOk 0 0 0
    else { s with time := { t.learn with unlockRun := n } }
  else s

/-- A measurement after the source had been lost makes the state ACQUIRING (R270, R277). -/
def State.sourceBack (s : State) : State :=
  if s.time.st = .holdover then { s with time := s.time.acquire } else s

/-- A valid exchange goes to the servo (R263, R274, R276). -/
def State.useExchange (s : State) (th : Int) (k : Nat) (secs : Int) : State :=
  let s := s.sourceBack
  (s.servo th (8000 / max 1 k : Nat) secs).tryReturn.lockCount th 160 800 16

/-- The upstream link is UP with a new epoch: acquisition starts (R276). -/
def State.timeNewEpoch (s : State) : State :=
  let s := s.modLink 0 fun k => { k with xSync := false }
  let t := s.time.acquire
  { s with time := { t with
    gotMsg := none, held := none, delays := [], invalRun := 0, xOpen := false, xBad := false
    exchReject := if t.xOpen then satAdd 16 t.exchReject 1 else t.exchReject } }

/-! ### Exchanges -/

/-- A difference wrapped into one second, 250 ps units (R274). -/
def wrapSec (i : Int) : Int := (i + 2000000000) % 4000000000 - 2000000000

/-- An invalid exchange at the child; the 16th in a row while the link stays UP loses the time source (R275, R277). -/
def State.exchInvalid (s : State) : State :=
  let t := s.time
  let n := t.invalRun + 1
  let s := { s with time := { t with
    exchReject := satAdd 16 t.exchReject 1, invalRun := if n < 16 then n else 0, xOpen := false, xBad := false } }
  if n < 16 ∨ !s.linkUp 0 ∨ (t.st ≠ .acquiring ∧ t.st ≠ .locked) then s
  else (s.holdTime.timeAlert 7 stTimeout 0 0 0).loseTime 3

/-! ### Timestamps -/

/-- TIMESTAMP of an accepted edge `since` (250 ps) ago (R284, R285, R295): counted, reported where it is armed, and lost
without room. -/
def State.stampEvent (s : State) (p : StampIn) (src since : Nat) (rising : Bool) : State × StampIn :=
  let at250 := s.ago since
  let p := { p with lastAt := some (s.now250 - since) }
  if p.edge = 0 then (s, p)
  else
    let p := { p with seq := (p.seq + 1) % 2 ^ 32 }
    if !(if rising then decide (p.edge % 2 = 1) else decide (2 ≤ p.edge)) then (s, p)
    else
      let x := s.slice p.slice
      let here := decide (p.hub = s.selfNo)
      let room := if s.canWrite p.slice then x.evq.room else 0
      if here ∧ room + (64 - x.held.length) ≤ s.pendingOf p.slice then
        (s, { p with lost := satAdd 8 p.lost 1 })
      else
        let ns := at250 / 4
        let rec0 : Rec :=
          { typ := 0x10, status := stOk, srcHub := s.hubNo, srcIndex := src, ns := ns % 1000000000, sec := ns / 1000000000,
            ws := [ pack [ fld 8 p.lost, fld 7 (b2n (decide (s.time.st ≠ .locked ∧ s.time.st ≠ .free))), fld 3 s.time.stepCnt.toNat,
                fld 2 (b2n rising), at250 % 4 ], word p.seq, 0, 0 ] }
        let s' := if !s.coreOn then s else if here then s.postRec p.slice false rec0
          else s.emit (.ctrl p.hub 0x12 ([s.ctrlW0 0x12 p.slice, 0, 0, 0] ++ rec0.dws false 0) [])
        (s', { p with lost := 0, edge := if p.once then 0 else p.edge })

/-- A qualifying edge of a trigger-like input: one within 200 ns of the last accepted edge only counts as lost (R284). -/
def State.stampEdge (s : State) (p : StampIn) (src since : Nat) (rising : Bool) : State × StampIn × Bool :=
  let near := match p.lastAt with
    | some a => decide (s.now250 < a + since + 800)
    | none => false
  if near then (s, { p with lost := satAdd 8 p.lost 1 }, false)
  else
    let r := s.stampEvent p src since rising
    (r.1, r.2, true)

def State.stamp (s : State) (i : Nat) : StampIn := s.time.stamps.read StampIn.init i

def State.setStamp (s : State) (i : Nat) (p : StampIn) : State :=
  { s with time := { s.time with stamps := s.time.stamps.write StampIn.init i p } }

end Sys2Proof.Machine
end

