-- ==== Sys2Proof/Machine/Tree.lean ====
section
/-! DEFINITION. Tree messages, numbering, and the root's tunnel transactions and tree commands (Chapter 7; log
entries 34 to 36). TREE_RESET_HUB stands in Modes. -/

namespace Sys2Proof.Machine

/-! ### The tunnel transaction (R208 to R214) -/

def State.setOp (s : State) (o : Option TunOp) : State := { s with tree := { s.tree with tunOp := o } }

/-- The message of a step to one hub. -/
def State.stepMsg (s : State) (tag h t act : Nat) : Out :=
  let r := s.tun t
  let w1 := pack [fld 24 tag, t]
  let set (state cause : Nat) : Out :=
    .ctrl h 6 [word (fld 24 6), w1, pack [fld 16 state, fld 14 cause, r.gen.toNat], 0, 0, 0, 0, 0] []
  let prog (state : Nat) : Out := .ctrl h 5 ([word (fld 24 5), w1, 0, 0] ++ (s.hopEntry t r h state).words) []
  match act with
  | 0 => prog gOpening
  | 1 => prog gOpen
  | 2 => set gOpen 0
  | 3 => set gSuspended 2
  | _ => set gClosing 0

/-- Every hop has to answer the transaction, one that the root does not reach too; to a close, and to TUN_SUSPEND, such a hop
counts as having answered (R209, R210, R213, R214). -/
def needsAll : TunOpKind → Bool
  | .open | .reopen | .modify => true
  | .suspend | .close => false

/-- Steps are taken until one awaits an answer: messages go to the hops the root reaches (R209, R210). -/
def State.takeSteps (s : State) (o : TunOp) : List (List (Nat × Nat × Nat)) → State × Option TunOp
  | [] => (s, none)
  | st :: rest =>
    let live := st.filter fun x => s.reach x.1
    let wait := st.filter fun x => s.reach x.1 || (needsAll o.kind && decide (x.2.2 ≠ 4))
    if wait = [] then s.takeSteps o rest
    else
      let tag := s.tree.ackTag % 255 + 1
      let s := { s with tree := { s.tree with ackTag := tag } }
      (live.foldl (fun s x => s.emit (s.stepMsg tag x.1 x.2.1 x.2.2)) s,
        some { o with steps := rest, waiting := wait.map fun x => (x.1, x.2.1), tag := tag, fails := [] })

/-- TUN_SET CLOSING level by level from the source (R210). -/
def State.closeSteps (s : State) (ids : List Nat) : List (List (Nat × Nat × Nat)) :=
  ((List.range 17).map fun d => ids.flatMap fun t =>
    ((s.tun t).path.filter fun p => decide (p.2 = d)).map fun p => (p.1, t, 4)).filter (· ≠ [])

/-- TUN_SET OPEN to every hop but the entry hops, then to those (R209, R213). -/
def State.openSteps (s : State) (ids : List Nat) : List (List (Nat × Nat × Nat)) :=
  let part (f : Nat → Bool) : List (Nat × Nat × Nat) :=
    ids.flatMap fun t => ((s.tun t).path.filter fun p => f p.2).map fun p => (p.1, t, 2)
  [part fun d => decide (d ≠ 0), part fun d => decide (d = 0)]

/-- The requester of a command owns the tunnel. -/
def State.isOwner (s : State) (c : Cmd) (r : TunRec) : Bool := decide (s.cmdHub c = r.ownerHub ∧ c.slice = r.ownerSlice)

/-- A tunnel's window and bound programmed again: after a reopening, when a link's rate may be another, and for the hops that
TUN_MODIFY has added (R241, R242, R245; log entry 53). -/
def State.formsAgain (s : State) (t : Nat) : State :=
  let s := if (s.tun t).bound.isSome then s.winAsk none t false else s
  if (s.tun t).win.isSome then s.winAsk none t else s

/-- A transaction has ended: records, the command, TUNNEL_STATE, and the figures of the schedulers (R209, R223, R224, R241,
R242, R387). -/
def State.opEnd (s : State) (o : TunOp) : State :=
  s.causedBy o.cause fun s =>
  let s := s.setOp none
  let upd (f : TunRec → TunRec) (s : State) : State := o.ids.foldl (fun s t => s.modTun t f) s
  let s := match o.kind with
    | .open => upd (fun r => { r with state := gOpen }) s
    | .close => upd (fun r => { r with state := gClosed, cause := 0, path := [], exits := [], win := none, bound := none }) s
    | .suspend => upd (fun r => { r with state := gSuspended, cause := 2 }) s
    | .reopen => upd (fun r => { r with state := gOpen, cause := 0 }) s
    | .modify => s
  let s := match o.cmd with
    | some c =>
      let other := !s.isOwner c (s.tun o.tid) && decide (o.kind ≠ .modify)
      let s := if other then s.rootTunEvent o.tid stOk else s
      s.complete c o.status (s.tunWords o.tid)
    | none =>
      let r := s.tun o.tid
      match o.event with
      | some st => if o.asker = some (r.ownerHub, r.ownerSlice) then s else s.rootTunEvent o.tid st
      | none => s
  let s := if o.kind = .reopen ∨ (o.kind = .modify ∧ o.old.isSome) then o.ids.foldl State.formsAgain s else s
  if o.kind = .close then upd (fun r => { r with srcEntry := none }) s else s

/-- The transaction goes on with the steps left, or ends. -/
def State.opGo (s : State) (o : TunOp) : State :=
  match s.takeSteps o o.steps with
  | (s, some o) => s.setOp (some o)
  | (s, none) => s.opEnd o

/-- The transaction fails (R209, R214, R221): an open or a reopening closes every hop the root reaches, an added exit is
taken back, any other change counts as acknowledged. -/
def State.opFail (s : State) (o : TunOp) (st : Nat) : State :=
  match o.kind with
  | .open | .reopen =>
    let s := o.ids.foldl (fun s t => s.modTun t fun r => { r with state := gClosing, cause := 0 }) s
    s.opGo { o with kind := .close, steps := s.closeSteps o.ids, waiting := [], status := st
                    event := o.event.map fun _ => stOk }
  | .modify =>
    match o.old with
    | some r =>
      let new := ((s.tun o.tid).path.filter fun p => !(r.path.any fun q => decide (q.1 = p.1)))
      let s := s.setTun o.tid { r with srcEntry := (s.tun o.tid).srcEntry }
      s.opGo { o with old := none, steps := [new.map fun p => (p.1, o.tid, 4)], waiting := [], status := st }
    | none => s.opGo { o with waiting := [], status := st }
  | .suspend | .close => s.opGo { o with waiting := [], status := st }

/-- Every answer of a step has come or is no longer awaited (R221): the first failing hop in path order decides. -/
def State.opStep (s : State) (o : TunOp) : State :=
  if o.waiting ≠ [] then s.setOp (some o)
  else if o.fails = [] ∨ o.kind = .close then s.opGo o
  else
    let path := o.ids.flatMap fun t => (s.tun t).path.map Prod.fst
    let first := (path.filterMap fun h => o.fails.find? fun f => decide (f.1 = h)).head?
    s.opFail o ((first.map Prod.snd).getD stOk)

/-! ### Checks and starts -/

/-- The class an endpoint serves, as source or exit (Table 7.3). -/
def epServes (ep cls : Nat) (source : Bool) : Bool :=
  let i := epIndex ep
  match epBlock ep with
  | 1 | 2 => decide (i < 64 ∧ (cls = clsTrav ∨ cls = clsDisp ∨ cls = clsNet ∨ cls = clsCan ∨ cls = clsWin))
  | 3 => decide (i < 2 ∧ cls = clsDisp) && !source
  | 4 => decide (i < 4 ∧ cls = clsDisp) && !source
  | 5 => decide (1 ≤ i ∧ i ≤ 12 ∧ cls = clsUsb)
  | 6 => decide (i < 4 ∧ cls = clsNet)
  | 7 => decide (i < 2 ∧ cls = clsCan)
  | 8 => decide (i < 32 ∧ cls = clsTrav)
  | 9 => decide (cls = clsWin)
  | _ => false

/-- No element twice. -/
def distinct : List Nat → Bool
  | [] => true
  | x :: r => !r.contains x && distinct r

/-- The shape of a tunnel against Table 7.3 and R202. -/
def shapeOk (cls : Nat) (duplex : Bool) (src : Nat × Nat) (exits : List (Nat × Nat)) : Bool :=
  epServes src.2 cls true && (exits.all fun e => epServes e.2 cls false) && !exits.contains src && distinct (exits.map Prod.fst)
    && (!duplex || (decide (exits.length = 1 ∧ cls ≠ clsTrav ∧ cls ≠ clsDisp) && epServes src.2 cls false
        && exits.all fun e => epServes e.2 cls true))
    && (duplex || decide (cls ≠ clsUsb ∧ cls ≠ clsWin))

/-- The exits of a TUN_OPEN. -/
def openExits (c : Cmd) : List (Nat × Nat) := (List.range (c.f 4 7 4)).map fun i => (c.f (i + 6) 28 24, c.f (i + 6) 11 0)

/-- The tunnel ID of a TUN_OPEN: the requested one, or the lowest free (R200, R221). -/
def State.pickTid (s : State) (c : Cmd) : Option Nat :=
  let free (t : Nat) : Bool := decide ((s.tun t).state = gClosed)
  let fits (t : Nat) : Bool := if c.b 4 11 then decide (t % 2 = 0) && free t && free (t + 1) else free t
  if c.f 4 31 20 ≠ 0 then (if fits (c.f 4 31 20) then some (c.f 4 31 20) else none)
  else ((List.range 4062).map (· + 34)).find? fits

/-- Checks of the root for a TUN_OPEN in the order R221 lists them. A hub that is cut off fails the open in its steps (R209). -/
def State.openCheck (s : State) (c : Cmd) : Nat :=
  let src := (c.f 5 28 24, c.f 5 11 0)
  let exits := openExits c
  let hubs := src.1 :: exits.map Prod.fst
  if !shapeOk (c.f 4 19 17) (c.b 4 11) src exits ∨ (c.b 4 11 ∧ c.f 4 31 20 % 2 = 1) then stBadParam
  else if (c.f 4 31 20 ≠ 0 ∧ c.f 4 31 20 < 34) ∨ hubs.any s.barred then stDenied
  else if (s.pickTid c).isNone then stNoResource
  else if hubs.any fun h => decide ((s.recOf h).state = rFree) then stNotPresent
  else stOk

/-- A tunnel opens (R209, R211, R221); one that does not start completes with the record of the ID it asks for (R223). -/
def State.beginOpen (s : State) (o : TunOp) (c : Cmd) : State :=
  let st := s.openCheck c
  match decide (st = stOk), s.pickTid c with
  | true, some t =>
    let src := (c.f 5 28 24, c.f 5 11 0)
    let exits := openExits c
    let mk (s : State) (t : Nat) (src : Nat × Nat) (exits : List (Nat × Nat)) : State :=
      s.setTun t { TunRec.init with
        state := gOpening, cls := c.f 4 19 17, tc := c.f 4 16 14, sealed := c.b 4 13, lossy := c.b 4 12, duplex := c.b 4 11
        gen := (s.tun t).gen + 1, ownerHub := s.cmdHub c, ownerSlice := c.slice, srcHub := src.1, srcEp := src.2
        path := s.hopsOf src.1 exits, exits := exits }
    let s := mk s t src exits
    let s := if c.b 4 11 then exits.foldl (fun s e => mk s (t + 1) e [src]) s else s
    let ids := s.pairIds t
    let progs := ids.flatMap fun t => (s.tun t).path.map fun p => (p.1, t, 0)
    s.opGo { o with tid := t, ids := ids, steps := [progs] ++ s.openSteps ids }
  | _, _ => s.complete c st (if c.f 4 31 20 = 0 then [] else s.tunWords (c.f 4 31 20))

/-- Steps of a changed entry at the hops that stay: those whose branches change first, then the rest that change (R214). -/
def State.changeSteps (s : State) (t : Nat) (old new : TunRec) (hubs : List Nat) : List (List (Nat × Nat × Nat)) :=
  let e (r : TunRec) (h : Nat) : Gaz := s.hopEntry t r h gOpen
  let branch (h : Nat) : Bool := decide ((e old h).egress ≠ (e new h).egress ∨ (e old h).loc ≠ (e new h).loc)
  let rest (h : Nat) : Bool := !branch h && decide (e old h ≠ e new h)
  ((hubs.filter branch) ++ (hubs.filter rest)).map fun h => [(h, t, 1)]

/-- TC and LOSSY of both directions changed in the root's registry (R214, R222). -/
def State.modifyTc (s : State) (o : TunOp) (c : Cmd) : State :=
  if c.b 5 2 ∨ c.b 5 1 then
    o.ids.foldl (fun s t => s.modTun t fun r => { r with
      tc := if c.b 5 2 then c.f 5 16 14 else r.tc, lossy := if c.b 5 1 then c.b 5 12 else r.lossy }) s
  else s

/-- The steps that bring a changed TC or LOSSY to the hubs (R214, R222). -/
def State.modifyTcSteps (s : State) (o : TunOp) (c : Cmd) : List (List (Nat × Nat × Nat)) :=
  if c.b 5 2 ∨ c.b 5 1 then o.ids.flatMap fun t => (s.tun t).path.map fun p => [(p.1, t, 1)] else []

/-- TUN_MODIFY (R214, R222, R223). -/
def State.beginModify (s : State) (o : TunOp) (c : Cmd) : State :=
  let t := o.tid
  let r := s.tun t
  let op := c.f 5 5 4
  let e := (c.f 6 28 24, c.f 6 11 0)
  let has := r.exits.contains e
  let done (st : Nat) : State := s.complete c st (s.tunWords t)
  if op ≠ 0 ∧ r.duplex then done stBadParam
  else if op = 1 ∧ (has ∨ !shapeOk r.cls false (r.srcHub, r.srcEp) (r.exits ++ [e])) then done stBadParam
  else if op = 2 ∧ (!has ∨ r.exits.length = 1) then done stBadParam
  else if op = 1 ∧ s.barred e.1 then done stDenied
  else if op = 1 ∧ (s.recOf e.1).state = rFree then done stNotPresent
  else if op = 1 ∧ r.exits.length = 8 then done stLimit
  else if op = 0 then
    let s := s.modifyTc o c
    s.opGo { o with steps := s.modifyTcSteps o c }
  else
    let exits := if op = 1 then r.exits ++ [e] else r.exits.filter (· ≠ e)
    let new := { r with exits := exits, path := s.hopsOf r.srcHub exits }
    let oldH := r.path.map Prod.fst
    let newH := new.path.map Prod.fst
    let added := (newH.filter fun h => !oldH.contains h).reverse.map fun h => [(h, t, 1)]
    let gone := (oldH.filter fun h => !newH.contains h).map fun h => [(h, t, 4)]
    let change := s.changeSteps t r new (oldH.filter newH.contains)
    let s := s.setTun t new
    let s := s.modifyTc o c
    s.opGo { o with steps := added ++ change.take 1 ++ gone ++ change.drop 1 ++ s.modifyTcSteps o c, old := if op = 1 then some r else none }

/-- A transaction starts, with the checks that its turn brings (R208, R217, R222); the source hub's entry is what it answers in
this transaction (R224). DESIGN CHOICE: TUN_SUSPEND and TUN_RESUME of a CLOSED tunnel complete with NOT_PRESENT, as TUN_CLOSE does
(log entry 60). -/
def State.opBegin (s : State) (o : TunOp) : State :=
  let ids := s.pairIds o.tid
  let s := ids.foldl (fun s t => s.modTun t fun r => { r with srcEntry := none }) s
  let t := ids.headD o.tid
  let r := s.tun t
  let o := { o with tid := t, ids := ids }
  let raise (s : State) (state : Nat) (bump : Bool) : State :=
    ids.foldl (fun s t => s.modTun t fun r => { r with state := state, gen := if bump then r.gen + 1 else r.gen }) s
  let close (s : State) : State := let s := raise s gClosing false; s.opGo { o with steps := s.closeSteps ids }
  let all (act : Nat) : List (List (Nat × Nat × Nat)) := [ids.flatMap fun t => (s.tun t).path.map fun p => (p.1, t, act)]
  match o.cmd with
  | none =>
    match o.kind with
    | .close => if r.state = gClosed then s else close s
    | .reopen => if r.state = gSuspended ∧ r.cause = 1 then
        let s := raise s gSuspended true
        s.opGo { o with steps := s.openSteps ids }
      else s
    | _ => s
  | some c =>
    let done (st : Nat) : State := s.complete c st (s.tunWords t)
    if o.kind = .open then s.beginOpen o c
    else if !genOk (c.b 4 20) (c.f 4 19 12) (s.tun (c.f 4 11 0)).gen then s.complete c stStaleGen (s.tunWords (c.f 4 11 0))
    else
      match o.kind with
      | .close => if r.state = gClosed then done stNotPresent else close s
      | .suspend =>
        if r.state = gClosed then done stNotPresent
        else if r.state = gSuspended ∧ r.cause = 2 then done stOk
        else
          let s := raise s gSuspended (decide (r.state = gOpen))
          s.opGo { o with steps := all 3 }
      | .reopen =>
        if r.state = gClosed then done stNotPresent
        else if r.state = gOpen then done stOk
        else if r.cause = 1 then done stLinkLost
        else
          let s := raise s gSuspended true
          s.opGo { o with steps := s.openSteps ids }
      | _ => if r.state ≠ gOpen then done stWrongMode else s.beginModify o c

/-- The next transactions, in arrival order, while none is under way (R208). -/
def State.tunNext (s : State) : Nat → State
  | 0 => s
  | n + 1 =>
    match s.tree.tunOp, s.tree.tunQ with
    | none, o :: rest => ({ s with tree := { s.tree with tunQ := rest } }.opBegin o).tunNext n
    | _, _ => s

/-- A transaction asked for, in the cause of the command under way (R208, R387). -/
def State.tunAsk (s : State) (o : TunOp) : State :=
  let q := s.tree.tunQ ++ [{ o with cause := s.host.cause }]
  { s with tree := { s.tree with tunQ := q } }.tunNext q.length

/-- The root closes a tunnel on its own, or for a command of another kind, and says so with a status where one is given (R198,
R215, R219, R224, R349). -/
def State.rootClose (s : State) (t : Nat) (event : Option Nat) (asker : Option (Nat × Nat) := none) : State :=
  s.tunAsk { kind := .close, tid := t, event := event, asker := asker }

/-- The transaction under way after a change of what the root reaches or an answer. -/
def State.opPrune (s : State) (f : Nat × Nat → Bool) : State :=
  match s.tree.tunOp with
  | none => s
  | some o =>
    let w := o.waiting.filter f
    if w = o.waiting then s else (s.opStep { o with waiting := w }).tunNext (s.tree.tunQ.length + 1)

/-- The transaction under way fails (R209). -/
def State.opAbort (s : State) (st : Nat) : State :=
  match s.tree.tunOp with
  | none => s
  | some o => (s.opFail o st).tunNext (s.tree.tunQ.length + 1)

/-! ### What the root does on a LINKCHG (R197, R198) -/

/-- Tunnels with a hop in a set of hubs, and whether every hop is in it; each pair once. -/
def State.tunsIn (s : State) (hubs : List Nat) : List (Nat × Bool) :=
  s.tree.tuns.filterMap fun p =>
    let hs := p.2.path.map Prod.fst
    if p.2.state = gClosed ∨ !(hs.any hubs.contains) ∨ (p.2.duplex ∧ p.1 % 2 = 1) then none else some (p.1, hs.all hubs.contains)

/-- The subtree is cut off: crossing tunnels are SUSPENDED in the root's records (R198, R211, R212). -/
def State.cutTunnels (s : State) (crossing : List Nat) : State :=
  let s := crossing.foldl (fun s t => (s.pairIds t).foldl (fun s t => s.modTun t fun r =>
    if r.state = gOpen then { r with state := gSuspended, cause := 1, gen := r.gen + 1 } else r) s) s
  match s.tree.tunOp with
  | some o =>
    if crossing.contains o.tid then
      match o.kind with
      | .open => s.opAbort stLinkLost
      | .reopen =>
        let s := o.ids.foldl (fun s t => s.modTun t fun r => { r with state := gSuspended, cause := 1, gen := r.gen + 1 }) s
        let s := s.setOp none
        let s := match o.cmd with
          | some c => s.complete c stLinkLost (s.tunWords o.tid)
          | none => s
        s.tunNext (s.tree.tunQ.length + 1)
      | .modify => (s.opGo { o with steps := [], waiting := [], status := stLinkLost }).tunNext (s.tree.tunQ.length + 1)
      | _ => s.opPrune fun w => s.reach w.1
    else if needsAll o.kind then s
    else s.opPrune fun w => s.reach w.1
  | none => s

/-- The tree has changed: a refused unit is answered at its next HELLO (R20, R193). -/
def State.lapse (s : State) : State :=
  { s with tree := { s.tree with refused := [], lapsed := s.tree.refused ++ s.tree.lapsed } }

/-- The root acts on LINKCHG (R198, Table 7.2): each hub of the subtree is reported, whatever its record said before. An
evicted hub's record goes through the same states; its bar lasts while it has its number (R219; log entry 35). -/
def State.linkChange (s : State) (hub link event : Nat) (cfg : BitVec 8) (unit : BitVec 64) : State :=
  let sub := s.subtree hub link
  let ts := s.tunsIn sub
  let crossing := (ts.filter fun t => !t.2).map Prod.fst
  let inside := (ts.filter fun t => t.2).map Prod.fst
  let move (s : State) (to' change : Nat) : State :=
    sub.foldl (fun s n => s.hubEvent change n) (sub.foldl (fun s n => s.setRec n { s.recOf n with state := to' }) s)
  let s := if event = 0 ∨ event = 3 then s.lapse else s
  match event with
  | 0 => ((move s rGrace 3).launchCut sub).cutTunnels crossing
  | 1 =>
    crossing.foldl (fun s t => s.tunAsk { kind := .reopen, tid := t, event := some stOk })
      ((move s rNumbered 4).launchBack sub)
  | 2 => crossing.foldl (fun s t => s.rootClose t (some stTimeout)) (move s rDetached 5)
  | _ =>
    let head := sub.find? fun n => decide ((s.recOf n).parent = hub ∧ (s.recOf n).link = link)
    let same := match head with
      | some n => decide ((s.recOf n).unit = unit ∧ (s.recOf n).cfgGen = cfg)
      | none => false
    if same then crossing.foldl (fun s t => s.rootClose t (some stLinkLost)) ((move s rNumbered 6).launchBack sub)
    else
      let s := move s rFree 0x0D
      (crossing ++ inside).foldl (fun s t => s.rootClose t (some stLinkLost))
        { s with tree := { s.tree with evictedHubs := s.tree.evictedHubs.filter fun n => !sub.contains n } }

/-- Words of a LINKCHG (Table 7.1). -/
def linkchgWords (hub link event : Nat) (cfg : BitVec 8) (unit : BitVec 64) : List Word :=
  [pack [fld 24 4, fld 15 hub, fld 11 link, event], word cfg.toNat, word unit.toNat, word (unit.toNat / 2 ^ 32), 0, 0, 0, 0]

/-- LINKCHG from this hub as the parent: acted on at the root, sent upstream by a numbered hub while its upstream link
is UP (R197). -/
def State.sendLinkchg (s : State) (l event : Nat) (cfg : BitVec 8) (unit : BitVec 64) : State :=
  if s.isRoot then s.linkChange 0 l event cfg unit
  else
    match s.tree.hub with
    | some n => if s.linkUp 0 then s.emit (.tree 0 4 (linkchgWords n l event cfg unit)) else s
    | none => s

/-! ### Numbering (R188 to R195) -/

/-- The digits of a route, depth 0 first. -/
def routeDigits : Nat → Nat → List Nat
  | 0, _ => []
  | k + 1, r => r % 8 :: routeDigits k (r / 8)

/-- Preorder of two routes (R192). -/
def routeLt : List Nat → List Nat → Bool
  | [], [] => false
  | [], _ :: _ => true
  | _ :: _, [] => false
  | a :: x, b :: y => decide (a < b) || (decide (a = b) && routeLt x y)

/-- HELLOs in preorder of ROUTE. -/
def preorder (hs : List HelloRec) : List HelloRec :=
  let ins (acc : List HelloRec) (h : HelloRec) : List HelloRec :=
    let lt (a b : HelloRec) : Bool := routeLt (routeDigits a.count a.route) (routeDigits b.count b.route)
    acc.takeWhile (fun x => !lt h x) ++ [h] ++ acc.dropWhile (fun x => !lt h x)
  hs.foldl ins []

/-- ASSIGN as a hub sends it on along its route (R188). -/
def assignWords (count hub route : Nat) (unit root : BitVec 64) : List Word :=
  [ pack [fld 24 2, fld 20 count, fld 15 hub, fld 14 1], word route, word unit.toNat, word (unit.toNat / 2 ^ 32),
    word root.toNat, word (root.toNat / 2 ^ 32), 0, 0 ]

/-- The root gives a hub a number (R192, R194). -/
def State.assign (s : State) (h : HelloRec) (n change : Nat) : State :=
  let s := s.setRec n { state := rNumbered, unit := h.unit, cfgGen := h.cfgGen, role := h.role, route := h.route, depth := h.count,
                        link := routeLast h.route h.count, parent := s.routeParent h }
  let s := { s with tree := { s.tree with lastNums := (h.unit, n) :: s.tree.lastNums.filter fun p => decide (p.1 ≠ h.unit) } }
  (s.hubEvent change n).emit (.tree (h.route % 8) 2 (assignWords (h.count - 1) n (h.route / 8) h.unit s.nv.unitId))

/-- A refusal under R20, reported once (R193, R643). -/
def State.refuse (s : State) (h : HelloRec) : State :=
  let parent := s.routeParent h
  let s := { s with tree := { s.tree with refused := h :: s.tree.refused } }
  s.treeEvent stLimit [ pack [fld 24 8, fld 16 (routeLast h.route h.count), fld 11 parent, fld 7 h.count, fld 5 h.role, 5],
    pack [fld 24 h.cfgGen.toNat, h.route], word h.unit.toNat, word (h.unit.toNat / 2 ^ 32) ]

/-- The HELLO has to be refused: too deep, behind a refused hub (R20, R193). -/
def State.mustRefuse (s : State) (h : HelloRec) : Bool :=
  decide (9 ≤ h.count) || s.tree.refused.any fun r => decide (h.route % 8 ^ r.count = r.route ∧ r.count ≤ h.count)

/-- The number a hot attach gets (R194). -/
def State.hotNumber (s : State) (unit : BitVec 64) : Option Nat :=
  let free (n : Nat) : Bool := decide ((s.recOf n).state = rFree)
  let all := (List.range 31).map (· + 1)
  match s.tree.lastNums.find? fun p => decide (p.1 = unit) && free p.2 with
  | some p => some p.2
  | none =>
    match all.find? fun n => free n && !(s.tree.lastNums.any fun p => decide (p.2 = n)) with
    | some n => some n
    | none => all.find? free

/-- A hot attach is answered (R194). -/
def State.hotAttach (s : State) (h : HelloRec) : State :=
  if s.mustRefuse h then s.refuse h
  else
    match s.hotNumber h.unit with
    | some n => s.assign h n 2
    | none => s.refuse h

/-- The HELLO names a place behind another's (R193). -/
def HelloRec.behind (h r : HelloRec) : Bool := decide (h.unit ≠ r.unit ∧ r.count < h.count ∧ h.route % 8 ^ r.count = r.route)

/-- A numbered hub is heard: what its HELLO gives is recorded. At another place it takes its subtree along: every route and depth
follows, a hub too deep or behind a refused one loses its number, and with it a bar, and is refused, tunnels across the old
place or of such a hub close, and the hubs count as back (R19, R20, R191, R193; log entry 35). -/
def State.heard (s : State) (n : Nat) (h : HelloRec) : State :=
  let r := s.recOf n
  if r.route = h.route ∧ r.depth = h.count ∧ !s.mustRefuse h then s.setRec n { r with cfgGen := h.cfgGen, role := h.role }
  else
    let sub := s.below n
    let crossing := ((s.tunsIn sub).filter fun t => !t.2).map Prod.fst
    let place (m : Nat) : HelloRec :=
      let x := s.recOf m
      { unit := x.unit, route := (h.route + 8 ^ h.count * (x.route / 8 ^ r.depth)) % 2 ^ 24, count := min 9 (x.depth - r.depth + h.count)
        role := if m = n then h.role else x.role, cfgGen := if m = n then h.cfgGen else x.cfgGen }
    let deep := sub.filter fun m => s.mustRefuse (place m)
    let kept := sub.filter fun m => !s.mustRefuse (place m)
    let ts := crossing ++ ((s.tunsIn deep).map Prod.fst).filter fun t => !crossing.contains t
    let back := kept.filter fun m => decide ((s.recOf m).state = rGrace ∨ (s.recOf m).state = rDetached)
    let s := s.lapse
    let up (s : State) (m : Nat) : State :=
      let p := place m
      let x := s.recOf m
      s.setRec m { x with
        route := p.route, depth := p.count, role := p.role, cfgGen := p.cfgGen
        link := if m = n then routeLast h.route h.count else x.link, parent := if m = n then s.routeParent h else x.parent
        state := if back.contains m then rNumbered else x.state }
    let was := back.map fun m => (m, if (s.recOf m).state = rGrace then 4 else 6)
    let s := kept.foldl up s
    let s := was.foldl (fun s x => s.hubEvent x.2 x.1) s
    let s := deep.foldl (fun s m => (s.setRec m { s.recOf m with state := rFree }).refuse (place m)) s
    let s := { s with tree := { s.tree with evictedHubs := s.tree.evictedHubs.filter fun m => !deep.contains m } }
    ts.foldl (fun s t => s.rootClose t (some stOk)) (s.launchBack kept)

/-- Words of a HELLO of this hub (Table 7.1). -/
def State.helloWords (s : State) : List Word :=
  [ pack [fld 24 1, fld 15 s.hubNo, fld 14 (b2n s.hubNum.isSome), fld 9 s.role, s.tree.cfgGen.toNat], 0, word s.nv.unitId.toNat,
    word (s.nv.unitId.toNat / 2 ^ 32), word s.tree.rootUnit.toNat, word (s.tree.rootUnit.toNat / 2 ^ 32), 0, 0 ]

/-- NUMBERED for a hub number. -/
def numberedWords (n : Nat) (unit : BitVec 64) : List Word :=
  [pack [fld 24 3, fld 15 n], 0, word unit.toNat, word (unit.toNat / 2 ^ 32), 0, 0, 0, 0]

/-- Hub numbers learnt downstream. -/
def State.learnt (s : State) : List Nat :=
  (List.range 32).filter fun n => decide ((s.gaz (n + 1)).egress ≠ 0)

/-- HELLO at a new epoch on the upstream link, and from a numbered hub NUMBERED for all it holds (R191). -/
def State.sendHello (s : State) : State :=
  if s.isRoot ∨ !s.linkUp 0 then s
  else
    let s := s.emit (.tree 0 1 s.helloWords)
    match s.tree.hub with
    | none => s
    | some n =>
      let s := s.emit (.tree 0 3 (numberedWords n s.nv.unitId))
      s.learnt.foldl (fun s m => s.emit (.tree 0 3 (numberedWords m (s.tree.numUnits.read 0 m)))) s

/-- A 64-bit unit ID of two words. -/
def unitOf (ws : List Word) (i : Nat) : BitVec 64 := BitVec.ofNat 64 (nthW ws i + 2 ^ 32 * nthW ws (i + 1))

/-- HELLO (R19, R20, R188, R191 to R194). A unit behind one whose refusal has lapsed waits for that one (R20). -/
def effHello (link : Nat) (ws : List Word) (s : State) : State :=
  if !s.coreOn ∨ !s.linkUp link ∨ s.upLink link then s
  else
    let w0 := nthW ws 0
    let route := (nthW ws 1 * 8 + link) % 2 ^ 24
    let count := min 9 (bits w0 23 20 + 1)
    if !s.isRoot then
      if s.linkUp 0 then
        s.emit (.tree 0 1 ([pack [w0 - fld 20 (bits w0 23 20), fld 20 count], word route] ++ ws.drop 2))
      else s
    else
      let h : HelloRec := { unit := unitOf ws 2, route := route, count := count, role := bits w0 10 9, cfgGen := BitVec.ofNat 8 (bits w0 7 0) }
      let n := bits w0 19 15
      let known := bit w0 14 && decide (n ≠ 0 ∧ (s.recOf n).state ≠ rFree ∧ (s.recOf n).unit = h.unit ∧ unitOf ws 4 = s.nv.unitId)
      let tr := s.tree
      if s.hubList.any fun m => decide ((s.recOf m).unit = h.unit) && s.barred m then s
      else if tr.refused.any fun r => decide (r.unit = h.unit ∧ r.route = h.route ∧ r.count = h.count) then s
      else if tr.lapsed.any h.behind then s
      else
      let mine (r : HelloRec) : Bool := decide (r.unit = h.unit ∨ (r.route = h.route ∧ r.count = h.count))
      let s := { s with tree := { tr with
        refused := tr.refused.filter fun r => decide (r.unit ≠ h.unit), lapsed := tr.lapsed.filter fun r => !mine r } }
      if known then s.heard n h
      else if tr.enumDone ∧ !tr.enumRun then s.hotAttach h
      else { s with tree := { s.tree with pendHello := (s.tree.pendHello.filter fun p => decide (p.unit ≠ h.unit)) ++ [h] } }

def execHello (link : Nat) (ws : List Word) (s : State) : Host.Outcome State Fault Refusal := .next (effHello link ws s)

/-- HELLO_REPEAT (R191). -/
def effHelloRepeat (s : State) : State := if s.coreOn ∧ s.tree.hub.isNone then s.sendHello else s

def execHelloRepeat (s : State) : Host.Outcome State Fault Refusal := .next (effHelloRepeat s)

/-- Every learnt CTRL route cleared (R195). -/
def State.clearRoutes (s : State) : State :=
  { s with tree := { s.tree with gaz := s.tree.gaz.filter fun p => decide (33 ≤ p.1), numUnits := [], lostRoutes := [] } }

/-- ASSIGN (R188, R193, R195). -/
def effAssign (ws : List Word) (s : State) : State :=
  let w0 := nthW ws 0
  let count := bits w0 23 20
  let route := nthW ws 1 % 2 ^ 24
  let root := unitOf ws 4
  if !s.coreOn then s
  else if count ≠ 0 then
    let l := route % 8
    if s.linkPresent l ∧ !s.upLink l ∧ s.linkUp l then
      s.emit (.tree l 2 (assignWords (count - 1) (bits w0 19 15) (route / 8) (unitOf ws 2) root))
    else s
  else if s.isRoot ∨ unitOf ws 2 ≠ s.nv.unitId then s
  else
    let s := if root = s.tree.rootUnit then s
      else s.tree.gaz.foldl (fun s p =>
        if p.1 ≤ 33 ∨ p.2.state = gClosed then s else (s.closeEntry p.1).tunnelState p.1 stWrongMode) s
    let n := bits w0 19 15
    let s := if s.tree.hub.isSome ∧ s.tree.hub ≠ some n then s.clearRoutes else s
    let s := { s.renumberOwn n with tree := { (s.renumberOwn n).tree with hub := some n, rootUnit := root } }
    (if s.linkUp 0 then s.emit (.tree 0 3 (numberedWords n s.nv.unitId)) else s).tryReturn

def execAssign (ws : List Word) (s : State) : Host.Outcome State Fault Refusal := .next (effAssign ws s)

/-- NUMBERED (R195): the route is learnt and the message goes on toward the root. -/
def effNumbered (link : Nat) (ws : List Word) (s : State) : State :=
  let n := bits (nthW ws 0) 19 15
  if !s.coreOn ∨ !s.linkUp link ∨ s.upLink link ∨ s.hubNum = some n then s
  else
    let s := s.setGaz (n + 1) { s.gaz (n + 1) with state := gOpen, egress := linkBit link, tid := n + 1, tc := 7 }
    let s := { s with tree := { s.tree with
        numUnits := s.tree.numUnits.write 0 n (unitOf ws 2), lostRoutes := s.tree.lostRoutes.filter fun m => decide (m ≠ n) } }
    if !s.isRoot ∧ s.linkUp 0 then s.emit (.tree 0 3 ws) else s

def execNumbered (link : Nat) (ws : List Word) (s : State) : Host.Outcome State Fault Refusal := .next (effNumbered link ws s)

/-- LINKCHG (R197, R198). -/
def effLinkchg (link : Nat) (ws : List Word) (s : State) : State :=
  let w0 := nthW ws 0
  if !s.coreOn ∨ !s.linkUp link ∨ s.upLink link then s
  else if !s.isRoot then (if s.linkUp 0 then s.emit (.tree 0 4 ws) else s)
  else s.linkChange (bits w0 19 15) (bits w0 13 11) (bits w0 3 0) (BitVec.ofNat 8 (nthW ws 1 % 256)) (unitOf ws 2)

def execLinkchg (link : Nat) (ws : List Word) (s : State) : Host.Outcome State Fault Refusal := .next (effLinkchg link ws s)

/-- The hubs a renumbering runs over (R219). -/
def State.renumHubs (s : State) : List Nat :=
  s.hubList.filter fun n => decide ((s.recOf n).state = rNumbered) && s.reach n && !s.barred n

/-- Those hubs as HELLOs from their records. -/
def State.knownHubs (s : State) : List HelloRec :=
  s.renumHubs.map fun n =>
    let r := s.recOf n
    { unit := r.unit, route := r.route, count := r.depth, role := r.role, cfgGen := r.cfgGen }

/-- Hubs numbered in preorder with the lowest numbers that are free (R192, R219). -/
def State.numberAll (s : State) : List HelloRec → State
  | [] => s
  | h :: rest =>
    let free := ((List.range 31).map (· + 1)).find? fun n => decide ((s.recOf n).state = rFree)
    (if s.mustRefuse h then s.refuse h
      else match free with
        | some n => s.assign h n 1
        | none => s.refuse h).numberAll rest

/-- TREE_ENUMERATE's words (Table 7.5). -/
def State.enumWords (s : State) : List Word :=
  [word (1 + (s.hubList.filter fun n => decide ((s.recOf n).state = rNumbered)).length), s.inUse, 0, 0]

/-- REATTACH_GRACE_EXPIRY (R197). -/
def effReattachGraceExpiry (link : Nat) (s : State) : State :=
  match (s.link link).grace with
  | some g =>
    if s.coreOn ∧ g.running then
      let s := s.modLink link fun k => { k with grace := some { g with running := false } }
      if g.judged = 0 then s.sendLinkchg link 2 g.cfgGen g.unit else s
    else s
  | none => s

def execReattachGraceExpiry (link : Nat) (s : State) : Host.Outcome State Fault Refusal := .next (effReattachGraceExpiry link s)

/-- This side's hop of a tunnel that crosses the lost upstream link closes, whatever its state (R199, R224). DESIGN CHOICE: the
acting root reaches the hops below it by a link-local TUN_SET with STATE CLOSING, passed on from hop to hop (log entry 60). -/
def State.actingClose (s : State) (p : Nat × Gaz) : State :=
  let g := s.gaz p.1
  if p.1 ≤ 33 ∨ g.state = gClosed ∨ !g.links.contains 0 then s
  else
    let s := (s.flood g p.1 gClosing 0 g.gen 0).closeEntry p.1
    if s.ownerSide g 0 then s.tunnelState p.1 stTimeout else s

/-- ACTING_ROOT_CLOSE (R199). DESIGN CHOICE: once the upstream link is UP again, nothing is closed here (log entry 60). -/
def effActingRootClose (s : State) : State :=
  if s.ret.mode = .holdover ∧ !s.isRoot ∧ !s.linkUp 0 then s.tree.gaz.foldl State.actingClose s else s

def execActingRootClose (s : State) : Host.Outcome State Fault Refusal := .next (effActingRootClose s)

/-! ### Messages to a hop and its answers -/

/-- TUN_SET on the hub's CTRL tunnel (R209 to R213). -/
def State.tunSet (s : State) (t tag state cause : Nat) (gen : BitVec 8) : State :=
  let g := s.gaz t
  if state = gOpen then
    if g.state = gOpening ∨ g.state = gSuspended then
      (s.setEntry t { g with state := gOpen, cause := 0, gen := gen }).tunAck tag t stOk
    else s.tunAck tag t (if g.state = gOpen ∧ g.gen = gen then stOk else stWrongMode)
  else if state = gSuspended then
    if g.state = gOpen then (s.suspendEntry t cause gen).tunAck tag t stOk
    else if g.state = gSuspended then (s.setGaz t { g with cause := if cause = 2 then 2 else g.cause }).tunAck tag t stOk
    else s.tunAck tag t stWrongMode
  else if g.state = gClosed ∨ !s.queued t ∨ state = gClosed then (s.closeEntry t).tunAck tag t stOk
  else
    let s := { s with tree := { s.tree with closing := s.tree.closing.write 0 t (tag + 1) } }
    s.setEntry t { g with state := gClosing, cause := 0 }

/-- TUN_SET, also link-local (R189, R199, R210, R212). -/
def effTunSet (link : Option Nat) (ws : List Word) (s : State) : State :=
  let t := nthW ws 1 % 4096
  let w2 := nthW ws 2
  let state := bits w2 18 16
  let gen := BitVec.ofNat 8 (bits w2 7 0)
  let g := s.gaz t
  if !s.coreOn ∨ t ≤ 33 then s
  else if !bit (nthW ws 0) 23 then s.tunSet t (nthW ws 1 / 2 ^ 24) state (bits w2 15 14) gen
  else
    match link with
    | none => s
    | some l =>
      if !g.links.contains l then s
      else if state = gSuspended ∧ g.state = gOpen then
        (s.suspendEntry t (bits w2 15 14) gen).flood g t gSuspended (bits w2 15 14) gen l
      else if state = gClosing ∧ g.state ≠ gClosed then (s.flood g t gClosing 0 gen l).closeEntry t
      else s

def execTunSet (link : Option Nat) (ws : List Word) (s : State) : Host.Outcome State Fault Refusal := .next (effTunSet link ws s)

/-- TUN_ACK (R209, R210, R215, R221, R224). One of TAG 00h and status OK asks for the close of the tunnel, as State.closeOwned sends
it (R349; log entry 44). -/
def effTunAck (ws : List Word) (s : State) : State :=
  let hub := bits (nthW ws 0) 19 15
  let t := nthW ws 1 % 4096
  let tag := nthW ws 1 / 2 ^ 24
  let st := nthW ws 2 % 256
  if !s.coreOn ∨ !s.isRoot ∨ t ≤ 33 then s
  else
    let r := s.tun t
    let s := if hub = r.srcHub ∧ r.state ≠ gClosed then s.setTun t { r with srcEntry := some (Gaz.ofWords (ws.drop 4)) } else s
    if tag = 0 ∧ st = stWrongMode then
      let s := s.modTun t fun r => { r with path := r.path.filter fun p => decide (p.1 ≠ hub) }
      match s.tree.tunOp with
      | some o =>
        if o.ids.contains t ∧ o.kind = .open then s.opAbort stWrongMode
        else if o.ids.contains t ∧ o.kind = .close then s.opPrune fun w => decide (w ≠ (hub, t))
        else s.rootClose t none
      | none => if r.state = gClosed then s else s.rootClose t none
    else if tag = 0 ∧ st = stOk then (if r.state = gClosed then s else s.rootClose t (some stOk))
    else
      match s.tree.tunOp with
      | some o =>
        if o.tag ≠ tag ∨ !o.waiting.contains (hub, t) then s
        else
          let o := { o with waiting := o.waiting.erase (hub, t), fails := if st = stOk then o.fails else o.fails ++ [(hub, st)] }
          (s.opStep o).tunNext (s.tree.tunQ.length + 1)
      | none => s

def execTunAck (ws : List Word) (s : State) : Host.Outcome State Fault Refusal := .next (effTunAck ws s)

/-- TUNNEL_OPEN_STEP_TIMEOUT (R209). -/
def effTunnelOpenStepTimeout (s : State) : State :=
  match s.tree.tunOp with
  | some o => if s.coreOn ∧ s.isRoot ∧ o.kind ≠ .close ∧ o.waiting ≠ [] then s.opAbort stTimeout else s
  | none => s

def execTunnelOpenStepTimeout (s : State) : Host.Outcome State Fault Refusal := .next (effTunnelOpenStepTimeout s)

/-- HOP_CLOSE_DRAINED (R210). -/
def effHopCloseDrained (tid : Nat) (s : State) : State :=
  if s.coreOn ∧ (s.gaz tid).state = gClosing ∧ !s.queued tid then s.endClosing tid else s

def execHopCloseDrained (tid : Nat) (s : State) : Host.Outcome State Fault Refusal := .next (effHopCloseDrained tid s)

/-- HOP_CLOSE_TIMEOUT (R210). -/
def effHopCloseTimeout (tid : Nat) (s : State) : State :=
  if s.coreOn ∧ (s.gaz tid).state = gClosing then s.endClosing tid else s

def execHopCloseTimeout (tid : Nat) (s : State) : Host.Outcome State Fault Refusal := .next (effHopCloseTimeout tid s)

/-- CLOSE_ACK_TIMEOUT (R210): the hop counts as closed. -/
def effCloseAckTimeout (hub tid : Nat) (s : State) : State :=
  match s.tree.tunOp with
  | some o => if s.coreOn ∧ s.isRoot ∧ o.kind = .close then s.opPrune fun w => decide (w ≠ (hub, tid)) else s
  | none => s

def execCloseAckTimeout (hub tid : Nat) (s : State) : Host.Outcome State Fault Refusal := .next (effCloseAckTimeout hub tid s)

/-! ### Tree commands -/

/-- From slice 0 of the root (Table 7.5). -/
def State.fromRoot0 (s : State) (c : Cmd) : Bool := decide (s.cmdHub c = 0 ∧ c.slice = 0)

def layTreeEnumerate (_ : Cmd) : Layout := { masks := [(4, 1)] }

/-- TREE_ENUMERATE (R219, R224). -/
def execTreeEnumerate (c : Cmd) (s : State) : Host.Outcome State Fault Refusal :=
  .next <| s.runCmd c 0x0300 (layTreeEnumerate c) false fun s =>
    if !s.isRoot then s.complete c stBadParam []
    else if !s.fromRoot0 c then s.complete c stNotGranted []
    else if s.tree.renumCmd.isSome then s.complete c stBusy []
    else if c.b 4 0 then
      let ts := (s.tree.tuns.filter fun p => decide (p.2.state ≠ gClosed) && !(p.2.duplex && decide (p.1 % 2 = 1))).map Prod.fst
      let s := { s with tree := { s.tree with enumRun := true, renumCmd := some c } }
      ts.foldl (fun s t => s.rootClose t (some stOk) (some (0, 0))) s
    else
      let hs := preorder s.tree.pendHello
      let s := hs.foldl State.hotAttach { s with tree := { s.tree with pendHello := [] } }
      s.complete c stOk s.enumWords

def layTreeQuery (c : Cmd) : Layout :=
  { masks := [(4, mk 5 0)] ++ if c.b 4 5 then [(5, mkAll), (6, mkAll)] else [] }

/-- TREE_QUERY (R219, R220). -/
def execTreeQuery (c : Cmd) (s : State) : Host.Outcome State Fault Refusal :=
  .next <| s.runCmd c 0x0301 (layTreeQuery c) true fun s =>
    let u := BitVec.ofNat 64 (c.w64 5)
    let n := if c.b 4 5 then (0 :: s.hubList).find? fun n => decide ((s.recOf n).unit = u) else some (c.f 4 4 0)
    if !s.isRoot then s.complete c stBadParam []
    else
      match n with
      | some n => if (s.recOf n).state = rFree then s.complete c stNotPresent [] else s.complete c stOk (s.hubWords 0 n)
      | none => s.complete c stNotPresent []

def layTreeEvict (_ : Cmd) : Layout := { masks := [(4, mk 8 8 + mk 4 0), (5, mkAll), (6, mkAll)] }

/-- A hub under the root's own link bars or frees that link (R219). -/
def State.barLink (s : State) (r : HubRec) (v : Bool) : State :=
  if r.parent = 0 then s.modLink r.link fun k => { k with evicted := v } else s

/-- The subtree of a hub is evicted for a requester: its records, but those of hubs cut off, its events, and its tunnels closed
(R219, R220, R224). -/
def State.evict (s : State) (n : Nat) (asker : Nat × Nat) : State :=
  let sub := s.below n
  let ts := (s.tunsIn sub).map Prod.fst
  let s := sub.foldl (fun s m => if (s.recOf m).state = rNumbered then s.setRec m { s.recOf m with state := rEvicted } else s) s
  let s := { s with tree := { s.tree with
      evictedHubs := n :: s.tree.evictedHubs.filter (· ≠ n) } }.barLink (s.recOf n) true
  let s := sub.foldl (fun s m => s.hubEvent 9 m) s
  ts.foldl (fun s t => s.rootClose t (some stOk) (some asker)) s

/-- The subtree of an evicted hub returns as hot attaches (R219, R220). -/
def State.readmit (s : State) (n : Nat) : State :=
  let sub := s.below n
  let s := { s with tree := { s.tree with evictedHubs := s.tree.evictedHubs.filter (· ≠ n) } }.barLink (s.recOf n) false
  let back := sub.filter fun m => decide ((s.recOf m).state = rEvicted ∨ (s.recOf m).state = rNumbered) && !s.barred m
  let s := back.foldl (fun s m => s.setRec m { s.recOf m with state := rNumbered }) s
  let s := back.foldl (fun s m => s.hubEvent 0x0A m) s
  back.foldl (fun s m =>
    let q := s.recOf m
    s.assign { unit := q.unit, route := q.route, count := q.depth, role := q.role, cfgGen := q.cfgGen } m 2) s

/-- TREE_EVICT (R219, R220). DESIGN CHOICE: READMIT of a hub that is not evicted completes with OK and changes nothing (log
entry 60). -/
def execTreeEvict (c : Cmd) (s : State) : Host.Outcome State Fault Refusal :=
  .next <| s.runCmd c 0x0303 (layTreeEvict c) false fun s =>
    let n := c.f 4 4 0
    let r := s.recOf n
    let from' := s.cmdHub c
    let ancestor := decide (c.slice = 0 ∧ from' ≠ n) && (s.chain 9 n).contains from'
    let sub := s.below n
    if !s.isRoot ∨ n = 0 then s.complete c stBadParam []
    else if sub.contains from' then s.complete c stDenied []
    else if !(s.fromRoot0 c || ancestor) then s.complete c stNotGranted []
    else if r.state = rFree then s.complete c stNotPresent []
    else if r.unit ≠ BitVec.ofNat 64 (c.w64 5) then s.complete c stStaleGen (s.hubWords 0 n)
    else
      let s := s.lapse
      if c.b 4 8 then
        if !s.tree.evictedHubs.contains n then s.complete c stOk (s.hubWords 0 n)
        else
          let s := s.readmit n
          s.complete c stOk (s.hubWords 0x0A n)
      else
        let s := s.evict n (from', c.slice)
        s.complete c stOk (s.hubWords 9 n)

/-! ### Tunnel commands -/

/-- What the commands on an existing tunnel share before their turn (R196, R208, R217, R222, R223, R370). -/
def State.tunCmd (s : State) (c : Cmd) (kind : TunOpKind) : State :=
  let t := c.f 4 11 0
  let ids := s.pairIds t
  let r := s.tun (ids.headD t)
  if !s.isRoot ∨ t = 0 then s.complete c stBadParam []
  else if t ≤ 33 then s.complete c stDenied (s.tunWords t)
  else if !(s.isOwner c r || s.fromRoot0 c) then s.complete c stNotGranted (s.tunWords t)
  else if r.state = gOpening ∨ r.state = gClosing then
    if !genOk (c.b 4 20) (c.f 4 19 12) (s.tun t).gen then s.complete c stStaleGen (s.tunWords t) else s.complete c stBusy (s.tunWords t)
  else s.tunAsk { kind := kind, tid := t, cmd := some c }

def layTunOpen (c : Cmd) : Layout :=
  { masks := [(4, mk 31 11 + mk 7 4), (5, mk 28 24 + mk 11 0)] ++ (List.range 8).map fun i => (i + 6, mk 28 24 + mk 11 0)
    enc := decide (2 ≤ c.f 4 19 17 ∧ c.f 4 16 14 < 7 ∧ 1 ≤ c.f 4 7 4 ∧ c.f 4 7 4 ≤ 8) }

/-- TUN_OPEN (R200 to R202, R208, R209, R221, R226). -/
def effTunOpen (c : Cmd) (s : State) : State :=
  s.runCmd c 0x0400 (layTunOpen c) false fun s =>
    if !s.isRoot then s.complete c stBadParam [] else s.tunAsk { kind := .open, tid := 0, cmd := some c }

def execTunOpen (c : Cmd) (s : State) : Host.Outcome State Fault Refusal := .next (effTunOpen c s)

def layTun (_ : Cmd) : Layout := { masks := [(4, mk 20 0)] }

/-- TUN_CLOSE (R210, R217, R222). -/
def execTunClose (c : Cmd) (s : State) : Host.Outcome State Fault Refusal :=
  .next <| s.runCmd c 0x0401 (layTun c) false fun s => s.tunCmd c .close

def layTunModify (c : Cmd) : Layout :=
  { masks := [(4, mk 20 0), (5, mk 16 14 + mk 12 12 + mk 5 4 + mk 2 1), (6, mk 28 24 + mk 11 0)]
    enc := decide (c.f 5 5 4 < 3) && (!c.b 5 2 || decide (c.f 5 16 14 < 7)) }

/-- TUN_MODIFY (R214, R217, R222, R226). -/
def execTunModify (c : Cmd) (s : State) : Host.Outcome State Fault Refusal :=
  .next <| s.runCmd c 0x0402 (layTunModify c) false fun s => s.tunCmd c .modify

/-- TUN_SUSPEND (R212, R217, R222). -/
def execTunSuspend (c : Cmd) (s : State) : Host.Outcome State Fault Refusal :=
  .next <| s.runCmd c 0x0404 (layTun c) false fun s => s.tunCmd c .suspend

/-- TUN_RESUME (R213, R217, R222). -/
def execTunResume (c : Cmd) (s : State) : Host.Outcome State Fault Refusal :=
  .next <| s.runCmd c 0x0405 (layTun c) false fun s => s.tunCmd c .reopen

def layTunQuery (_ : Cmd) : Layout := { masks := [(4, mk 13 0)] }

/-- TUN_QUERY (R203, R223). -/
def execTunQuery (c : Cmd) (s : State) : Host.Outcome State Fault Refusal :=
  .next <| s.runCmd c 0x0403 (layTunQuery c) true fun s =>
    let t := c.f 4 11 0
    let clear := c.b 4 12
    let tr := s.tree
    if c.b 4 13 ∧ (clear ∨ !s.isRoot) then s.complete c stBadParam []
    else if c.b 4 13 then s.complete c stOk (s.tunWords t)
    else if clear ∧ !(s.authZ c || (decide (t ≠ 0) && s.ownsTun c t)) then s.complete c stNotGranted []
    else if t = 0 then
      let s' := if clear then { s with tree := { tr with notOpen := 0, wrongIn := 0, staleGen := 0, fragErr := 0 } } else s
      s'.complete c stOk [word tr.notOpen, word tr.wrongIn, word tr.staleGen, word tr.fragErr]
    else
      let s' := if clear then s.modGaz t fun g => { g with drops := 0, pkts := 0 } else s
      s'.complete c stOk (s.entry t).words

end Sys2Proof.Machine
end

