-- ==== Sys2Proof/Machine/Moves.lean ====
section
/-! DEFINITION. What the root does over several hubs for a slice, and what ends when the route to a hub closes: the tunnels a slice
owns, the end of SLICE_DESTROY, the move of a slice from a blob, remote commands, and the end of the enumeration
(R192, R210, R219, R359, R361, R363, R365, R375, R377; log entry 44). -/

namespace Sys2Proof.Machine

/-- The completion of a SLICE_ or QUEUE_ command: the slice record as it stands after the command (R345). -/
def State.doneSlice (s : State) (c : Cmd) (k st : Nat) : State := s.complete c st ((s.dropPend c).sliceWords k)

/-! ### Tunnels of a slice -/

/-- The endpoint code of a resource (Tables 7.3 and 11.4). -/
def resourceEp (kind idx : Nat) : Option Nat :=
  match kind with
  | 1 => some (0x800 + idx)
  | 5 => some (0x300 + idx)
  | 6 => some (0x400 + idx)
  | 7 => some (0x500 + idx)
  | 8 => some (0x600 + idx)
  | 9 => some (0x700 + idx)
  | _ => none

/-- The tunnels of an owner, all or those with an endpoint here, close (R210, R224, R349, R359). The root closes them in path order.
Another hub asks the root for it with an unsolicited TUN_ACK of TAG 00h, status OK and the entry as it stands; where it has no link
to the root it closes its own hop (DESIGN CHOICE: no rule gives the message; log entry 44). How many. -/
def State.closeOwned (s : State) (h k : Nat) (ep : Option Nat) : State × Nat :=
  let one (t : Nat) (dup : Bool) : Bool := !(dup && decide (t % 2 = 1))
  if s.isRoot then
    let at' (r : TunRec) : Bool := match ep with
      | some e => decide ((r.srcHub, r.srcEp) = (0, e)) || r.exits.contains (0, e)
      | none => true
    let ts := (s.tree.tuns.filter fun p =>
      decide (p.2.state ≠ gClosed ∧ p.2.ownerHub = h ∧ p.2.ownerSlice = k) && at' p.2 && one p.1 p.2.duplex).map Prod.fst
    (ts.foldl (fun s t => s.rootClose t (some stOk)) s, ts.length)
  else
    let at' (g : Gaz) : Bool := match ep with
      | some e => decide (g.ingress = 7 ∧ g.srcEp = e) || (g.loc && decide (g.dstEp = e))
      | none => true
    let ts := s.tree.gaz.filter fun p => decide (33 < p.1 ∧ p.2.state ≠ gClosed ∧ p.2.ownerHub = h ∧ p.2.ownerSlice = k) && at' p.2
    let ask (s : State) (p : Nat × Gaz) : State :=
      if !s.linkUp 0 then ((s.closeEntry p.1).tunnelState p.1 stOk).tunAck 0 p.1 stWrongMode
      else if one p.1 p.2.duplex then s.tunAck 0 p.1 stOk else s
    (ts.foldl ask s, (ts.filter fun p => one p.1 p.2.duplex).length)

/-! ### SLICE_DESTROY -/

/-- A SLICE_DESTROY that has no revoke left to wait for, here or on another hub: the slice becomes FREE, or keeps its state where
another hub has failed (R359, R615). -/
def State.endDestroy (s : State) (k : Nat) : State :=
  let x := s.slice k
  match x.destroyCmd with
  | none => s
  | some c =>
    if (s.host.grants.any fun g => decide (g.hub = s.selfNo ∧ g.slice = k)) ∨ x.destroyHubs ≠ [] then s
    else
      let s := (s.closeOwned s.selfNo k none).1.winCloseOwner s.selfNo k
      if x.destroySt ≠ 0 then
        (s.modSlice k fun x => { x with destroyCmd := none, destroyTag := none, destroyGot := [], destroySt := 0 }).doneSlice c k x.destroySt
      else
        let s := { s with host := { s.host with pend := s.host.pend.filter fun p => decide (p.cmd.slice ≠ k ∨ p.cmd.htag = c.htag) } }
        let s := s.setSlice k { Slice.init with gen := x.gen }
        (s.doneSlice c k stOk).kick

/-- The revokes for slices of the root that is destroying them have ended here: their SYS commands complete (R359, R375). -/
def State.endFarDestroys (s : State) : State :=
  let done (p : Cmd × Nat) : Bool := !(s.host.grants.any fun g => decide (g.hub = p.1.hub ∧ g.slice = p.2))
  let ds := s.host.farDestroys.filter done
  let s := { s with host := { s.host with farDestroys := s.host.farDestroys.filter fun p => !done p } }
  ds.foldl (fun s p => s.complete p.1 stOk []) s

/-- Slices whose SLICE_DESTROY awaits a hub, under a tag where one is named (R359). -/
def State.destroying (s : State) (hub : Nat) (tag : Option Nat) : List Nat :=
  (List.range 64).filter fun k =>
    let x := s.slice k
    x.destroyCmd.isSome && x.destroyHubs.contains hub && (tag.isNone || decide (x.destroyTag = tag))

/-- Another hub has finished with a slice being destroyed, or will not (R359, R377). -/
def State.destroyAnswer (s : State) (k hub st : Nat) : State :=
  (s.modSlice k fun x => { x with
    destroyHubs := x.destroyHubs.erase hub, destroySt := if st ≠ stOk ∧ x.destroySt = 0 then st else x.destroySt }).endDestroy k

/-! ### The move of a slice (R361, R363, R365) -/

/-- Another slice is bound to the port with the PASID (Table 11.7). -/
def State.pasidTaken (s : State) (k port : Nat) (pasid : Option Nat) : Bool :=
  pasid.isSome && (List.range 64).any fun j =>
    let x := s.slice j
    decide (j ≠ k ∧ x.state ≠ 0) && x.bound && decide (x.port = port ∧ x.pasid = pasid)

/-- The binding a command names. -/
def bindOf (c : Cmd) : Option Nat := if c.b 4 9 then none else some (c.f 5 19 0)

/-- The queues of a blob (Table 11.6); what its fields hold outside the register fields is ignored (R5, Table 20.3). -/
def blobQueues (b : List Byte) (x : Slice) : Slice :=
  let n (off len : Nat) : Nat := fromLe ((b.drop off).take len)
  let sq (i : Nat) : SubQ :=
    let o := 0x50 + 0x20 * i
    { base := n o 8 / 4096 * 4096, size := n (o + 8) 2 % 2 ^ 13, head := n (o + 10) 2 % 4096, tail := n (o + 12) 2 % 4096, prio := n (o + 14) 1 % 4
      enable := bit (n (o + 15) 1) 0, err := if bit (n (o + 15) 1) 1 then 2 else 0 }
  let int := n 0x44 4
  { x with
    sqs := (List.range 8).foldl (fun (t : Tab SubQ) i => Tab.write SubQ.init t i (sq i)) []
    evq := { base := n 0x30 8 / 4096 * 4096, size := n 0x38 4 % 2 ^ 17, enable := bit (n 0x38 4) 31, err := bits (n 0x38 4) 27 20, tail := n 0x3C 4 % 2 ^ 17
             head := n 0x40 4 % 2 ^ 17, phase := bit (n 0x3C 4) 31 }
    mask := bit int 31, intTime := bits int 30 21, intCount := max 1 (bits int 20 13), vector := bits int 8 0 }

/-- A record from its words (R387). -/
def Rec.ofDws (ws : List Word) : Rec :=
  let w0 := nthW ws 0
  let w1 := nthW ws 1
  { typ := bits w0 7 0, status := bits w0 15 8, srcHub := bits w0 20 16, srcIndex := bits w1 31 24, tag := bits w1 15 0
    ns := nthW ws 2, sec := nthW ws 3, ws := ws.drop 4 }

/-- TUN_OPEN of a tunnel as its record has it, with the endpoints of a moved slice (R209, R363): the root's own work, in the
name of the slice that now owns it. -/
def reopenCmd (t : Nat) (r : TunRec) (k : Nat) (move : Nat × Nat → Nat × Nat) : Cmd :=
  let ep (e : Nat × Nat) : Word := let e := move e; pack [fld 24 e.1, e.2]
  let dw4 := pack [ fld 20 t, fld 17 r.cls, fld 14 r.tc, fld 13 (b2n r.sealed), fld 12 (b2n r.lossy), fld 11 (b2n r.duplex),
    fld 4 r.exits.length ]
  { slice := k, here := true, sys := true, htag := 65536
    dw := [pack [fld 16 16, 0x0400], word (2 ^ 29), 0, 0, dw4, ep (r.srcHub, r.srcEp)] ++ r.exits.map ep }

/-- The root closes each tunnel with an endpoint at the old host-port endpoints and reopens it to the new one (R363). -/
def State.moveTunnels (s : State) (h k port k' : Nat) : State :=
  if !s.isRoot then s
  else
    let old (e : Nat × Nat) : Bool := decide (e.1 = h) && decide (epSlice e.2 = some k)
    let move (e : Nat × Nat) : Nat × Nat := if old e then (0, (port + 1) * 256 + k') else e
    let ts := s.tree.tuns.filter fun p =>
      decide (p.2.state ≠ gClosed) && (old (p.2.srcHub, p.2.srcEp) || p.2.exits.any old) && !(p.2.duplex && decide (p.1 % 2 = 1))
    ts.foldl (fun s p => (s.rootClose p.1 none).tunAsk { kind := .open, tid := 0, cmd := some (reopenCmd p.1 p.2 k' move) }) s

/-- The root's SYS command of a slice move to a hub: phase 0 rewrites holders and owners, 1 undoes that, 2 says that the move is
taken. DESIGN CHOICE: no rule gives its packet; it is a SLICE_RESTORE with the new slice in DW4, hub and slice of the source, the new
hub and the phase in DW6 and the cookie in DW8 and DW9 (R375; log entry 44). -/
def State.moveSend (s : State) (o : MoveOp) (phase : Nat) (hubs : List Nat) : State :=
  let cookie := fromLe ((o.cmd.data.drop 0x18).take 8)
  hubs.foldl (fun s h => s.sendSys h o.tag 0x0007
    [ (4, pack [fld 24 1, o.cmd.f 4 5 0]), (6, pack [fld 16 phase, fld 11 s.hubNo, fld 5 o.fromSlice, o.fromHub]), (8, word cookie),
      (9, word (cookie / 2 ^ 32)) ]) s

/-- The holder of every grant and the owner of every owned unit here rewritten (R363). -/
def State.rewriteOwner (s : State) (h k h' k' : Nat) : State := s.mapOwners fun o => if o = (h, k) then (h', k') else o

/-- Such a command at a hub. The source hub checks the cookie, and on the last one sends the held records after the slice, whose
number there becomes FREE (R363, R375). -/
def State.moveHop (s : State) (c : Cmd) : State :=
  let k := c.f 4 5 0
  let h := c.f 6 4 0
  let from' := c.f 6 10 5
  let dst := c.f 6 15 11
  let mine := decide (h = s.selfNo)
  let x := s.slice from'
  match c.f 6 17 16 with
  | 0 =>
    if mine ∧ (x.state ≠ 3 ∨ x.cookie ≠ some (c.w64 8)) then s.complete c stStaleGen (s.sliceWords from')
    else (s.rewriteOwner h from' dst k).complete c stOk []
  | 1 => (s.rewriteOwner dst k h from').complete c stOk []
  | _ =>
    let s := s.winCloseOwner h from'
    if mine ∧ x.state = 3 then
      let s := s.emits (x.held.map fun r => .ctrl dst 0x12 ([s.ctrlW0 0x12 k, 0, 0, 0] ++ r.dws false 0) [])
      (s.setSlice from' { Slice.init with gen := x.gen }).complete c stOk []
    else s.complete c stOk []

/-- The move is taken: the slice stands here, FROZEN, and its source here is FREE (R344, R363, R489). `recs`: the held records that
another hub than the source's own brings. -/
def State.moveCommit (s : State) (o : MoveOp) (recs : List (List Word)) : State :=
  let c := o.cmd
  let k := c.f 4 5 0
  let port := c.f 4 8 8
  let b := c.data
  let n (off len : Nat) : Nat := fromLe ((b.drop off).take len)
  let here := decide (o.fromHub = s.selfNo)
  let x := s.slice o.fromSlice
  let s := s.winCloseOwner o.fromHub o.fromSlice
  let s := if here then s.setSlice o.fromSlice { Slice.init with gen := x.gen } else s
  let s := s.moveTunnels o.fromHub o.fromSlice port k
  let s := { s with host := { s.host with moveOp := if o.did = [] then none else some { o with waiting := o.did, decided := true } } }
  let s := s.moveSend o 2 o.did
  let y : Slice := { Slice.init with
    state := 2, gen := (s.slice k).gen + 1, port := port, pasid := bindOf c, bound := true, quota := n 0x28 2
    held := if here then x.held else recs.map Rec.ofDws, lost := n 0x2C 4 }
  (s.setSlice k (if c.b 4 10 then blobQueues b y else y)).doneSlice c k stOk

/-- The move fails: every rewrite is undone, and the slice stays SAVED at the source (R363). -/
def State.moveFail (s : State) (o : MoveOp) (st : Nat) : State :=
  let k := o.cmd.f 4 5 0
  let s := s.rewriteOwner s.selfNo k o.fromHub o.fromSlice
  let hubs := (o.did ++ o.waiting).filter s.reach
  let s := { s with host := { s.host with moveOp := if hubs = [] then none else some { o with waiting := hubs, decided := true } } }
  (s.moveSend o 1 hubs).doneSlice o.cmd k st

/-- A SLICE_RESTORE from a blob, when its turn has come (R363, R365); its quota lies in the range of R346 (R3). The root sends its
rewrites to every hub that has a number. On another hub `far` is what the root's transaction comes to: 0 taken, 1 the source hub does
not hold the cookie, 2 no answer yet, 3 a hub is lost; `recs` are the held records it brings. -/
def State.restoreBlob (s : State) (c : Cmd) (far : Nat) (recs : List (List Word)) : State :=
  let k := c.f 4 5 0
  let b := c.data
  let n (off len : Nat) : Nat := fromLe ((b.drop off).take len)
  let port := c.f 4 8 8
  let here := decide (n 8 8 = s.nv.unitId.toNat)
  let o : MoveOp := { cmd := c, fromHub := if here then s.selfNo else n 0x10 1, fromSlice := n 0x11 1, tag := s.freeTag }
  let x := s.slice o.fromSlice
  if (s.slice k).state ≠ 0 then s.doneSlice c k stWrongMode
  else if b.length ≠ 512 ∨ n 0 4 ≠ 0x534C4231 ∨ n 4 2 ≠ 1 ∨ n 6 2 ≠ 0x200 then s.doneSlice c k stBadParam
  else if n 0x1FC 4 ≠ (crc32 (b.take 0x1FC)).toNat then s.doneSlice c k stIntegrity
  else if n 0x28 2 = 0 ∨ 256 < n 0x28 2 then s.doneSlice c k stBadParam
  else if !s.hostPortUsed port then s.doneSlice c k stNotPresent
  else if s.pasidTaken k port (bindOf c) then s.doneSlice c k stBadParam
  else if here ∧ (x.state ≠ 3 ∨ x.cookie ≠ some (n 0x18 8)) then s.doneSlice c k stStaleGen
  else if s.isRoot then
    let hubs := s.hubList.filter fun h => decide (h ≠ 0 ∧ (s.recOf h).state ≠ rFree)
    if !here ∧ !hubs.contains o.fromHub then s.doneSlice c k stStaleGen
    else if hubs.any fun h => !s.reach h then s.doneSlice c k stLinkLost
    else
      let s := s.rewriteOwner o.fromHub o.fromSlice s.selfNo k
      if hubs = [] then s.moveCommit o recs
      else ({ s with host := { s.host with moveOp := some { o with waiting := hubs } } }).moveSend o 0 hubs
  else
    match far with
    | 1 => s.doneSlice c k stStaleGen
    | 2 => { s with host := { s.host with moveOp := some o } }
    | 3 => s.doneSlice c k stLinkLost
    | _ => (s.rewriteOwner o.fromHub o.fromSlice s.selfNo k).moveCommit o recs

/-- The restores from blobs that wait, one at a time in the order of their arrival (R365). -/
def State.moveNext (s : State) : Nat → State
  | 0 => s
  | n + 1 =>
    match s.host.moveOp, s.host.moveQ with
    | none, q :: rest => (({ s with host := { s.host with moveQ := rest } }).restoreBlob q.1 q.2.1 q.2.2).moveNext n
    | _, _ => s

/-- The restores that the end of a move lets go on (R365). -/
def State.moveGoOn (s : State) : State := s.moveNext (s.host.moveQ.length + 1)

/-- A hub has answered the root's SYS command of a slice move (R363). -/
def State.moveAnswer (s : State) (o : MoveOp) (hub st : Nat) : State :=
  let left := o.waiting.erase hub
  let put (o : Option MoveOp) : State := { s with host := { s.host with moveOp := o } }
  if o.decided then (if left = [] then (put none).moveGoOn else put (some { o with waiting := left }))
  else if st ≠ stOk then (s.moveFail { o with waiting := left } st).moveGoOn
  else
    let o := { o with waiting := left, did := o.did ++ [hub] }
    if left = [] then (s.moveCommit o []).moveGoOn else put (some o)

/-- The hubs awaited have not answered, or the source hub's answer has not come, within 100 ms (R363). -/
def State.moveLate (s : State) (o : MoveOp) : State :=
  if o.decided then ({ s with host := { s.host with moveOp := none } }).moveGoOn
  else (s.moveFail o (if o.waiting ≠ [] ∧ o.waiting.all o.got.contains then stLinkLost else stTimeout)).moveGoOn

/-! ### Routes that close -/

/-- The words of a remote command that the submitting hub completes itself (R377). -/
def Pend.lostWords (p : Pend) : List Word := [pack [fld 8 p.cmd.target, b2n p.received], 0, 0, 0]

/-- The submitting hub completes a remote command itself (R377). -/
def State.failRemote (s : State) (p : Pend) (st : Nat) : State := s.complete p.cmd st p.lostWords

/-- The root's own transactions await a hub that some route no longer reaches (R359, R363, R377). -/
def State.hubsGone (s : State) (gone : Nat → Bool) : State :=
  let s := (s.hubList.filter gone).foldl (fun s h => (s.destroying h none).foldl (fun s k => s.destroyAnswer k h stLinkLost) s) s
  match s.host.moveOp with
  | some o => (match o.waiting.find? gone with
      | some h => s.moveAnswer o h stLinkLost
      | none => s)
  | none => s

/-- The CTRL entries for some hubs have closed: commands for them end with LINK_LOST, those that still wait for a fence or their
input included (R377). -/
def State.routesClosed (s : State) (gone : Nat → Bool) : State :=
  let ps := s.host.pend.filter fun p => !s.isLocal p.cmd && gone p.cmd.target
  let s := ps.foldl (fun s p => s.failRemote p stLinkLost) s
  let s := s.hubsGone gone
  match s.sched.winOp with
  | none => s
  | some o => (o.waiting.filter gone).foldl (fun s h => s.hopFormDone h stLinkLost 0) s

/-! ### The end of the enumeration -/

/-- INITIAL_ENUMERATION_END (R20, R192, R219, R377, R643). A renumbering waits for its tunnels to be closed, and closes the CTRL
routes it gives anew; a unit behind one whose refusal has lapsed is not numbered before that one. -/
def effInitialEnumerationEnd (s : State) : State :=
  if !s.coreOn ∨ !s.isRoot ∨ !s.tree.enumRun ∨ (s.tree.renumCmd.isSome ∧ (s.tree.tunOp.isSome ∨ s.tree.tunQ ≠ [])) then s
  else
    let again := s.tree.renumCmd.isSome
    let known := if again then s.knownHubs else []
    let ns := s.renumHubs
    let s := if again then
        (ns.foldl (fun s n => (s.setRec n { s.recOf n with state := rFree }).setGaz (n + 1) Gaz.init) s.lapse).routesClosed ns.contains
      else s
    let hs := known ++ s.tree.pendHello.filter fun h => !(known.any fun k => decide (k.unit = h.unit)) && !(s.tree.lapsed.any h.behind)
    let cmd := s.tree.renumCmd
    let s := { s with tree := { s.tree with pendHello := [], enumRun := false, enumDone := true, renumCmd := none } }
    let s := s.numberAll (preorder hs)
    let s := s.treeEvent stOk [pack [fld 24 0x0B, 1], pack [fld 24 s.tree.cfgGen.toNat], s.inUse, 0]
    match cmd with
    | some c => s.complete c stOk s.enumWords
    | none => s

def execInitialEnumerationEnd (s : State) : Host.Outcome State Fault Refusal := .next (effInitialEnumerationEnd s)

end Sys2Proof.Machine
end

