-- ==== Sys2Proof/Machine/Epoch.lean ====
section
/-! DEFINITION. Epochs: their end and their start, the receipt of IDENT, credit LCPs and tunnel packets, and
LINK_PATTERN (R137, R145, R150 to R182; log entry 32). -/

namespace Sys2Proof.Machine

/-! ### Role -/

/-- The words of TREE_CHANGE that the hub sends of itself (R220). What a hub other than the root does not know of its own place
in the tree is the free value `v` (log entry 4). -/
def State.selfWords (s : State) (change v : Nat) : List Word :=
  if s.isRoot then s.hubWords change 0
  else
    [ pack [ fld 24 change, fld 19 s.hubNo, fld 16 (bits v 26 24), fld 11 ((s.link 0).pHub.getD 0), fld 7 (bits v 31 28), fld 5 s.role,
        fld 4 (b2n s.isBranch), b2n s.hubNum.isSome ],
      pack [fld 24 s.tree.cfgGen.toNat, bits v 23 0], word s.nv.unitId.toNat, word (s.nv.unitId.toNat / 2 ^ 32) ]

/-- TREE_CHANGE of a change of role, from the hub itself (R12, R220). -/
def State.noteRole (s : State) : State :=
  let b := s.isBranch
  if s.role ≠ 3 ∨ b = s.tree.wasBranch then s
  else
    let v := (s.freeVal 32).toNat
    let s := { s.drew with tree := { s.tree with wasBranch := b } }
    s.reportBoth 3 stOk 0 (s.selfWords 7 v)

/-- RETRAIN_QUIESCED (R12, R127, R136, R143, R181, R182). -/
def effRetrainQuiesced (link : Nat) (s : State) : State :=
  let k := s.link link
  if s.coreOn ∧ k.st = .up ∧ k.quiescing then
    let old := k.code
    let s := (s.schedAdvance link).spoilExchange link
    let s := s.modLink link fun k => { (k.bump 2 4) with
      st := .retrain, timerHeld := false, timerEnd := if k.timerHeld then s.uptime + k.timerEnd else k.timerEnd
      lane := { k.lane with
        quiesce := false, txDoze := .awake, rxDoze := .awake, txWaking := false, rxWaking := false, los := false, phase := .idle
        wakeCmd := [] } }
    let s := k.lane.wakeCmd.foldl (fun s c => s.complete c stOk []) s
    ((s.linkEvent link old 5 stOk false false k.lane.retrainCause).noteRole).agree link
  else s

def execRetrainQuiesced (link : Nat) (s : State) : Host.Outcome State Fault Refusal := .next (effRetrainQuiesced link s)

/-! ### The end of an epoch -/

/-- The egress queue of a link discarded, and the receive buffers of its ended epoch forgotten (R177, R212). -/
def State.dropQueue (s : State) (l : Nat) : State :=
  let s := s.schedAdvance l
  let qs := (s.link l).sched.queue
  let s := s.modLink l fun k => { k with sched := { k.sched with queue := [] } }
  let s := qs.foldl (fun s q => (s.countDrop q.pkt.tunnel 1).leftHop q) s
  let cut (q : QPkt) : QPkt := match q.rx with
    | some r => if r.1 = l then { q with rx := none } else q
    | none => q
  let one (s : State) (m : Nat) : State := s.modLink m fun k => { k with sched := { k.sched with queue := k.sched.queue.map cut } }
  let s := [0, 1, 2, 3, 4].foldl one s
  { s with tree := { s.tree with exitQ := s.tree.exitQ.map cut } }

/-- A link without an epoch: nothing of the link layer is kept but its numbers, generation, partner and counters (R177). -/
def Link.noEpoch (k : Link) (st : LinkSt) : Link :=
  { k with
    st := st, epochHeld := false, contTx := false, refuse := false, replay := [], replayNum := 0, replaying := false, replayIdx := 0
    timerRun := false, timerHeld := false, nakPending := false, nakDue := false, ackDue := false, sealKey := none, sealFails := 0
    ephem := none, xWait := false
    lane := { k.lane with quiesce := false, rateMove := false, wakeCmd := [] } }

/-- CTRL routes that use a link closed, and the commands sent over them ended (R195, R377). -/
def State.closeRoutes (s : State) (l : Nat) : State :=
  if s.upLink l then
    let learnt := s.learnt
    s.routesClosed fun n => !learnt.contains n && decide (s.hubNum ≠ some n)
  else
    let ns := s.learnt.filter fun n => decide ((s.gaz (n + 1)).egress = linkBit l)
    let s := ns.foldl (fun s n => s.setGaz (n + 1) Gaz.init) s
    let s := { s with tree := { s.tree with
        numUnits := ns.foldl (fun t n => t.erase n) s.tree.numUnits
        lostRoutes := ns ++ s.tree.lostRoutes.filter fun n => !ns.contains n } }
    s.routesClosed ns.contains

/-- The epoch on a link ends (R71, R176 to R179, R182, R195, R197, R212, R281). `down`: the link goes DOWN; otherwise its
training goes on toward a new epoch. -/
def State.epochEnd (s : State) (l cause : Nat) (down : Bool) : State :=
  let k := s.link l
  if !k.epochHeld then s
  else
    let old := k.code
    let s := (s.suspendLink l).dropQueue l
    let s := s.modLink l fun k => if down then (k.noEpoch .down).lanesDown else k.noEpoch .survey
    let status := if cause = 1 ∨ cause = 2 ∨ cause = 0x0B then stLinkLost else if cause = 0x0C then stIntegrity else stOk
    let s := s.linkEvent l old (if down then 0 else 1) status false true cause
    let s := k.lane.wakeCmd.foldl (fun s c => s.complete c stLinkLost []) (s.endLinkCmd l stLinkLost)
    let s := s.closeRoutes l
    let s := if s.upLink l then
        { s with time := { s.time with
          xOpen := false, xBad := false, invalRun := 0
          exchReject := if s.time.xOpen then satAdd 16 s.time.exchReject 1 else s.time.exchReject } }.loseTime 2
      else
        (s.modLink l fun x => { x with grace := some { unit := k.pUnit, cfgGen := k.pCfgGen } }).sendLinkchg l 0 k.pCfgGen k.pUnit
    let s := s.noteRole
    if down then s.newAttempt l 0 false else s

/-- LOS_EPOCH_TIMEOUT (R176, Table 6.9). -/
def effLosEpochTimeout (link : Nat) (s : State) : State :=
  let k := s.link link
  if s.runs link ∧ k.lane.los then (s.setLink link (k.bump 2 1)).epochEnd link 1 true else s

def execLosEpochTimeout (link : Nat) (s : State) : Host.Outcome State Fault Refusal := .next (effLosEpochTimeout link s)

/-- RETRAIN_TIMEOUT (R176). -/
def effRetrainTimeout (link : Nat) (s : State) : State :=
  if s.coreOn ∧ (s.link link).st = .retrain then s.epochEnd link 7 true else s

def execRetrainTimeout (link : Nat) (s : State) : Host.Outcome State Fault Refusal := .next (effRetrainTimeout link s)

/-- Presence is lost on a link of a running core (R176, R181, R182). -/
def State.linkGone (s : State) (l : Nat) : State :=
  let s := s.modLink l fun k => { k.rearm with
    sbUnit := none
    lane := { k.lane with farProp := none, propSent := false, roundWait := false, rateMove := false } }
  let k := s.link l
  if k.epochHeld then s.epochEnd l 2 true
  else if k.st = .survey then
    let s := s.modLink l fun k => { k.lanesDown with st := .down }
    s.linkEvent l 1 0 stOk false false 2
  else s

/-- CARRIER_LOSS (R176, R519, R541). -/
def effCarrierLoss (port link : Nat) (s : State) : State :=
  if !s.sbOn port ∨ 1 < link ∨ !((s.port port).sb link).carrier then s
  else
    let s := s.sbLost port link
    if s.coreOn ∧ s.linkPresent (sbLinkCode port link) then s.linkGone (sbLinkCode port link) else s

def execCarrierLoss (port link : Nat) (s : State) : Host.Outcome State Fault Refusal := .next (effCarrierLoss port link s)

/-! ### The start and the continuation of an epoch -/

/-- Windows on this link whose figures its rate has changed are reapplied by the root (R241). -/
def State.windowsAgain (s : State) (l : Nat) : State :=
  if !s.isRoot then s
  else
    let stale (w : Window) : Bool := match (s.tun w.tid).win with
      | some x => (s.winPlan w.tid x).any fun p => decide (p.1 = 0 ∧ p.2.1 = l ∧ p.2.2.2 ≠ w.hopLen)
      | none => false
    ((s.link l).sched.windows.filter stale).foldl (fun s w => s.winAsk none w.tid) s

/-- The link is UP once IDENT and both halves of the limits have come (R174, R181, R182, R191, R197, R276, R279). -/
def State.tryUp (s : State) (l : Nat) : State :=
  let k := s.link l
  if k.lane.phase ≠ .linkLayer ∨ !k.identRx ∨ !k.fcLoRx ∨ !k.fcHiRx then s
  else
    let old := k.code
    let s := (s.schedAdvance l).modLink l fun k => { k with
      st := .up, identTx := false
      replaying := decide (k.replay ≠ []), replayIdx := 0, timerRun := decide (k.replay ≠ [])
      timerHeld := false, timerEnd := s.uptime + 400 * s.replayUs l
      replayFrom := k.oldest - 1
      lane := { k.lane with phase := .idle, fails := 0, los := false } }
    let s := (s.linkEvent l old 2 stOk k.newEpoch false 0).endLinkCmd l stOk
    let s := (s.noteRole.noteOver l).windowsAgain l
    if !k.newEpoch then s
    else if s.upLink l then s.sendHello.timeNewEpoch.tryReturn
    else
      let s := match k.grace with
        | some g => (s.modLink l fun x => { x with grace := none }).sendLinkchg l g.judged k.pCfgGen k.pUnit
        | none => s
      s.sendTime none [l]

/-- A new epoch starts under the partner's IDENT (R151, R156, R167, R170, R173 to R175, R197). The number that goes with a
refused continuation is the one after it. -/
def State.newEpochOn (s : State) (l : Nat) (unit : BitVec 64) (cfgGen : BitVec 8) (upf : Bool) (hub : Option Nat)
    (epoch : BitVec 8) (cont : Bool) (nonce : Word) : State :=
  let alloc := (List.range 8).foldl (fun (t : Tab Nat) tc => Tab.write 0 t tc (s.rxAlloc tc)) []
  let judge (g : Grace) : Grace := { g with
    judged := if g.unit = unit ∧ g.cfgGen = cfgGen ∧ (g.running ∨ g.judged = 1) then 1 else 3 }
  let up := s.upLink l
  let s := s.modLink l fun k => { (k.bump 2 3) with
    epochHeld := true, gen := k.gen + 1, identRx := true, newEpoch := true, contTx := false
    epoch := if up then (if cont then epoch + 1 else epoch) else k.epoch + 1
    pKnown := true, pUnit := unit, pCfgGen := cfgGen, pUpf := upf, pHub := hub, nonceRx := nonce
    txSeq := 0, rxSeq := 0, replay := [], replayNum := 0, cc := [], clLocal := alloc, clAdv := [], rxUsed := []
    cl := k.cl.filter fun p => if p.1 < 4 then k.fcLoRx else k.fcHiRx
    sealTx := 0, sealWrapped := false, kphaseTx := 0, kphaseRx := 0, sealFails := 0
    grace := k.grace.map judge
    limitRep := k.limitRep && !(k.pKnown && decide (k.pUnit ≠ unit)), deniedRep := k.deniedRep && !(k.pKnown && decide (k.pUnit ≠ unit))
    lane := { k.lane with fallback := if k.pKnown ∧ k.pUnit ≠ unit then none else k.lane.fallback } }
  let s := s.modLink l fun k => { k with sealKey := (s.pairFor l).map fun p => s.sealMat l p.key }
  (s.sendFc l true false).sendFc l true true

/-- The partner's IDENT taken (R125, R151, R173 to R176). The NONCEs kept are those of the latest exchange (R170; log entry 32). -/
def State.takeIdent (s : State) (link : Nat) (unit : BitVec 64) (cfgGen : BitVec 8) (upf : Bool) (hub : Option Nat) (epoch : BitVec 8)
    (cont : Bool) (nonce : Word) : State :=
    let k := s.link link
    let keep := k.epochHeld && k.contTx && cont && decide (epoch = k.epoch ∧ unit = k.pUnit)
    let bad := decide (k.sbUnit ≠ some unit ∨ upf = s.upLink link)
    let s := if k.epochHeld ∧ !keep ∧ (!bad ∨ unit ≠ k.pUnit) then s.epochEnd link 6 false else s
    if bad then s.trainFail link
    else if keep then
      let s := s.modLink link fun k => { k with identRx := true, newEpoch := false, pCfgGen := cfgGen, pUpf := upf, pHub := hub, nonceRx := nonce }
      ((s.sendFc link false false).sendFc link false true).tryUp link
    else (s.newEpochOn link unit cfgGen upf hub epoch cont nonce).tryUp link

/-- IDENT_RECEIVE (R151, R154, R173 to R176). -/
def effIdentReceive (link : Nat) (w : Wave) (s : State) : State :=
  if !s.inPhase link .linkLayer ∨ (s.link link).identRx then s
  else
    match s.takeLcp link w with
    | (s, some (.ident unit cfgGen upf hub epoch cont nonce)) => s.takeIdent link unit cfgGen upf hub epoch cont nonce
    | (s, _) => s

def execIdentReceive (link : Nat) (w : Wave) (s : State) : Host.Outcome State Fault Refusal := .next (effIdentReceive link w s)

/-! ### Credit limits -/

/-- The limits of a half taken (R167). -/
def Link.takeLimits (k : Link) (hi : Bool) (limits : List Nat) : Link :=
  { k with cl := (List.range 4).foldl (fun (t : Tab Nat) i => Tab.write 0 t (i + if hi then 4 else 0) ((limits[i]?).getD 0 % 65536)) k.cl }

/-- Limits received: while the link is UP, or in the link layer's part of a training (R167, R174). -/
def State.limitsCome (s : State) (l : Nat) (hi : Bool) (limits : List Nat) : State :=
  if s.inPhase l .linkLayer then
    (s.modLink l fun k => { (k.takeLimits hi limits) with fcLoRx := k.fcLoRx || !hi, fcHiRx := k.fcHiRx || hi }).tryUp l
  else if s.runs l then s.modLink l fun k => k.takeLimits hi limits
  else s

/-- The link layer hears the partner on the link: UP, or in its part of a training. -/
def State.hears (s : State) (l : Nat) : Bool := s.inPhase l .linkLayer || s.runs l

/-- FC_UPDATE_RECEIVE (R151, R154, R167, R174, R178). -/
def effFcUpdateReceive (link : Nat) (w : Wave) (s : State) : State :=
  if !s.hears link then s
  else
    match s.takeLcp link w with
    | (s, some (.fc false hi limits)) => s.limitsCome link hi limits
    | (s, _) => s

def execFcUpdateReceive (link : Nat) (w : Wave) (s : State) : Host.Outcome State Fault Refusal :=
  .next (effFcUpdateReceive link w s)

/-- INIT_FC_RECEIVE (R151, R154, R167, R174, R181): it belongs to the start of an epoch. -/
def effInitFcReceive (link : Nat) (w : Wave) (s : State) : State :=
  if !s.inPhase link .linkLayer then s
  else
    match s.takeLcp link w with
    | (s, some (.fc true hi limits)) => s.limitsCome link hi limits
    | (s, _) => s

def execInitFcReceive (link : Nat) (w : Wave) (s : State) : Host.Outcome State Fault Refusal :=
  .next (effInitFcReceive link w s)

/-! ### Tunnel packets received -/

/-- A packet calls for a NAK, unless one is pending (R158). -/
def Link.nak (k : Link) : Link := if k.nakPending then k else { k with nakPending := true, nakDue := true }

/-- The packet carries a message that is taken off the link without a look at the Gazetteer (R188, R189): KIND 01h to 04h,
or TUN_SET with LL, on tunnel 001h. -/
def linkLocal (p : TxPkt) : Bool :=
  let w0 := fromLe (p.payload.take 4)
  let kind := w0 / 2 ^ 24
  decide (p.tunnel = 1) && (decide (1 ≤ kind ∧ kind ≤ 4) || (decide (kind = 6) && bit w0 23))

/-- KIND codes of CTRL payloads (R187, Table 12.2). -/
def kindOk (kind : Nat) : Bool :=
  decide (1 ≤ kind ∧ kind ≤ 7) || [0x10, 0x11, 0x12, 0x13, 0x14, 0x18, 0x19, 0x1A, 0x1B, 0x1C, 0x20, 0x21, 0x22].contains kind

/-- The receive buffer of an accepted packet is freed unless a queued copy holds it (R167, R231). -/
def State.freeUnheld (s : State) (r : Nat × Nat × Nat) (n : Nat) : State :=
  if s.holdsRx r then s else s.freeCredits r.1 r.2.2 n

/-- The lookup of a packet accepted on a link, and its copies (R150, R204 to R207, R219, R374). A COMMAND on a closed
CTRL tunnel is taken by the root's control plane (R641). -/
def State.forwardPkt (s : State) (l : Nat) (p : TxPkt) : State :=
  let t := p.tunnel
  let g := s.entry t
  let r : Nat × Nat × Nat := (l, (s.link l).rxNo, p.tc)
  let bump (s : State) (f : Tree → Tree) : State := { s with tree := f s.tree }
  let s :=
    if linkLocal p then { s with out := .deliver 1 p.payload :: s.out }
    else if s.isRoot ∧ 1 ≤ t ∧ t ≤ 32 ∧ g.state = gClosed ∧ p.first ∧ fromLe (p.payload.take 4) / 2 ^ 24 = 0x10 then
      s.emit (.deliver t p.payload)
    else if g.state ≠ gOpen ∨ !g.sound t ∨ ((s.link l).evicted ∧ !treePkt p) then
      (bump s fun x => { x with notOpen := satAdd 32 x.notOpen 1 }).countDrop t 1
    else if (32 < t ∧ g.ingress ≠ l) ∨ p.tclass ≠ g.cls then
      (bump s fun x => { x with wrongIn := satAdd 32 x.wrongIn 1 }).countDrop t 1
    else if p.gen ≠ g.gen then (bump s fun x => { x with staleGen := satAdd 32 x.staleGen 1 }).countDrop t 1
    else if p.hops = 15 ∧ g.egress ≠ 0 then s.modLink l fun k => k.bump 0 6
    else if t ≤ 32 ∧ g.loc ∧ p.first ∧ !kindOk (fromLe (p.payload.take 4) / 2 ^ 24) then s.modLink l fun k => k.bump 0 1
    else s.fanOut t { p with hops := p.hops + 1 } (some r)
  s.freeUnheld r (pktCredits p)

/-- A packet accepted in order whose seal does not verify (R172). -/
def State.sealBad (s : State) (l : Nat) (p : TxPkt) : State :=
  let k := s.link l
  let s := (s.setLink l { (k.bump 0 5) with sealFails := k.sealFails + 1 }).freeCredits l p.tc (pktCredits p)
  if k.sealFails + 1 = 16 then s.epochEnd l 0x0C true else s

/-- A sealed packet opened under the present or the next key phase of the far end: its payload, none where the tag fails
(R171, R172). DESIGN CHOICE: on a link without seal keys no tag verifies, and the packet counts in SEAL_FAIL (log entry 59). -/
def State.openSeal (s : State) (l : Nat) (p : TxPkt) (tag : List Byte) : Option (List Byte) :=
  let k := s.link l
  match k.sealKey with
  | none => none
  | some m =>
    let d := 1 - s.dirn l
    let phase := if p.kphase = decide (k.kphaseRx % 2 = 1) then k.kphaseRx else k.kphaseRx + 1
    let ins := gcmIns (phaseKey m d phase) (sealIv d p.sealCnt) p.header (p.payload ++ tag)
    if Config.cryptoOk cfGcmOpen ins then some (Config.crypto cfGcmOpen ins p.payload.length) else none

/-- A good tunnel packet with its tag (R158, R169, R171, R172). DESIGN CHOICE: a NAK that is due and not yet sent when the packet
awaited comes is not sent (log entry 59). -/
def State.takePkt (s : State) (link : Nat) (p : TxPkt) (tag : List Byte) : State :=
  let k := s.link link
  let d := (p.lseq - k.rxSeq).toNat
  if s.rxAlloc p.tc < k.rxUsed.read 0 p.tc + pktCredits p then s.setLink link (k.bump 0 1).nak
  else if 2048 ≤ d then s.setLink link { (k.bump 0 2) with ackDue := true }
  else if d ≠ 0 then s.setLink link k.nak
  else
    let plain := if p.sealed then s.openSeal link p tag else some p.payload
    let turn := decide (p.sealed ∧ p.kphase ≠ decide (k.kphaseRx % 2 = 1))
    let s := s.setLink link { k with
      rxSeq := k.rxSeq + 1, rxNo := k.rxNo + 1, ackDue := true, nakPending := false, nakDue := false
      rxUsed := k.rxUsed.mod 0 p.tc fun n => n + pktCredits p
      kphaseRx := if turn ∧ plain ≠ none then k.kphaseRx + 1 else k.kphaseRx }
    match plain with
    | none => s.sealBad link p
    | some bs => s.forwardPkt link { p with payload := bs }

/-- TUNNEL_PACKET_RECEIVE (R104 to R110, R147, R148, R150, R153 to R155, R158, R169, R171, R172, R178): what the lanes bring;
a packet that overlaps a loss of signal, one that its own symbols begin too, is discarded. -/
def effTunnelPacketReceive (link : Nat) (w : Wave) (s : State) : State :=
  if !s.runs link then s
  else
    let los := (s.link link).lane.los
    let s := s.waveViols link w
    if los ∨ (s.link link).lane.los then s
    else
      match rxPkt (rxFrame w.rows) with
      | .nothing => s
      | .abandoned => s.modLink link fun k => k.bump 0 3
      | .crc => s.modLink link fun k => (k.bump 0 0).nak
      | .malformed => s.modLink link fun k => (k.bump 0 1).nak
      | .good p tag => s.takePkt link p tag

def execTunnelPacketReceive (link : Nat) (w : Wave) (s : State) : Host.Outcome State Fault Refusal :=
  .next (effTunnelPacketReceive link w s)

/-! ### LINK_PATTERN -/

/-- The results a pattern has left (R145). -/
def Pattern.words (p : Pattern) : List Word :=
  let e (i : Nat) : Nat := p.errs.read 0 i
  [pack [fld 16 (e 1), e 0], pack [fld 16 (e 3), e 2], word p.bits, 0]

/-- A pattern starts on a link that is not UP or is forced DOWN, under the entry of its rate and class (R137, R145, R176, R181).
DESIGN CHOICE: a pattern that runs already is replaced, and its results are dropped (log entry 52). -/
def State.startPattern (s : State) (l : Nat) (p : Pattern) : State :=
  let k := s.link l
  let s := s.modLink l fun k => { k with lane := { k.lane with pattern := p } }
  let s := if k.st = .survey then
      (s.modLink l fun k => { (k.noEpoch .down).lanesDown with st := .down }).linkEvent l 1 0 stOk false false 0x0B
    else if k.epochHeld then (s.modLink l fun k => k.bump 2 1).epochEnd l 0x0B true
    else s
  (s.modLink l fun k => { k with lane := { k.lane with
    roundWait := false, farProp := none, propSent := false, rate := p.rate, cls := p.cls
    eq := s.eqEntry (eqIndex (linkPort l) p.rate p.cls) } }).sendSym l (.pattern p.pat p.lanes (patternBits p.pat 40))

def layLinkPattern (c : Cmd) : Layout :=
  { masks := [(4, mk 23 8 + mk 2 0), (5, mk 15 0)], enc := decide (c.f 4 2 0 < 5 ∧ c.f 4 11 8 < 7) }

/-- LINK_PATTERN (R137 to R139, R145), with the bits each port lane has received under the pattern that it ends. DESIGN CHOICE: PATTERN 0 on a link that is UP answers OK with the last results; a link in
RETRAIN counts as UP here (log entry 52). -/
def execLinkPattern (c : Cmd) (got : List (List Bool)) (s : State) : Host.Outcome State Fault Refusal :=
  .next <| s.runCmd c 0x0206 (layLinkPattern c) false fun s =>
    let l := c.f 4 2 0
    let k := s.link l
    let pat := c.f 4 11 8
    let lanes := c.f 4 15 12
    let entry := s.eqEntry (eqIndex (linkPort l) (c.f 4 17 16) (c.f 4 23 20))
    if !s.authZ c then s.complete c stNotGranted []
    else if !s.linkPresent l then s.complete c stNotPresent []
    else if !c.here ∧ (s.ctrlEntry c.hub).egress = linkBit l then s.complete c stDenied []
    else if pat ≠ 0 ∧ (k.st = .up ∨ k.st = .retrain) ∧ !c.b 4 18 then s.complete c stBusy []
    else if 60000 < c.f 5 15 0 then s.complete c stBadParam []
    else if pat = 0 then
      if k.lane.pattern.pat = 0 then s.complete c stOk k.lane.pattern.words
      else
        let s := (s.patternResults l got).endPattern l
        s.complete c stOk (s.link l).lane.pattern.words
    else if lanes = 0 ∨ lanes &&& s.laneMask l ≠ lanes ∨ !entry.usable then s.complete c stBadParam []
    else
      let p : Pattern := { Pattern.init with
        pat := pat, lanes := BitVec.ofNat 4 lanes, rate := c.f 4 17 16, cls := c.f 4 23 20, check := c.b 4 19, durationMs := c.f 5 15 0 }
      (s.startPattern l p).complete c stOk []

end Sys2Proof.Machine
end

