-- ==== Sys2Proof/Machine/FaultOps.lean ====
section
/-! DEFINITION. The counts, latches and reports of detected errors (R597, R600, R602). What a domain does about an error
stands in Faults. -/

namespace Sys2Proof.Machine

def State.dom (s : State) (d : Nat) : DomErr := s.err.doms.read DomErr.init d

def State.setDom (s : State) (d : Nat) (x : DomErr) : State :=
  { s with err := { s.err with doms := s.err.doms.write DomErr.init d x } }

def State.modDom (s : State) (d : Nat) (f : DomErr → DomErr) : State := s.setDom d (f (s.dom d))

/-- The domain's recovery window of 10 ms runs (R591). -/
def State.inRecWindow (s : State) (d : Nat) : Bool := (s.dom d).window && !s.passed (s.dom d).windowAt 4000000

/-- LASTDOM and LASTCHECK of an error of class recoverable or worse (Table 19.4, R602). -/
def State.noteErr (s : State) (d check : Nat) : State :=
  { s with err := { s.err with lastDom := d, lastCheck := check } }.modDom d fun x => { x with lastCheck := check }

/-- A domain-fatal error is counted, latched and reported, and starts the domain's recovery window (R589, R591, R600). -/
def State.noteFatal (s : State) (r : ErrRep) : State :=
  let s := s.modDom r.dom fun x => { x with fatals := satAdd 16 x.fatals 1, lastCheck := r.check, window := decide (r.dom < 0x80), windowAt := s.uptime + 1 }
  let s := { s with err := { s.err with domFatal := true, fatals := satAdd 8 s.err.fatals 1 } }
  s.errReport { r with cls := 2 }

end Sys2Proof.Machine
end

