-- ==== Sys2Proof/Machine/Flash.lean ====
section
/-! DEFINITION. The device root's keys and the data area of the flash: its header, its records, the live records of a copy, and
the change to the other copy (R551, R573, R576; log entry 58). -/

namespace Sys2Proof.Machine

/-! ### Keys of the device root -/

/-- What the PUF gives, the signature fused at manufacture, public keys, ECDH, key wrap and unwrap, signing and verifying, GCM
seal and open, CMAC or HMAC, by number. -/
def cfRoot : Nat := 6
def cfManuf : Nat := 13
def cfPub : Nat := 1
def cfEcdh : Nat := 3
def cfWrap : Nat := 4
def cfUnwrap : Nat := 5
def cfSign : Nat := 8
def cfVerify : Nat := 18
def cfMac : Nat := 11

/-- The die's unit ID as bytes. -/
def State.die (s : State) : List Byte := leBytes 8 s.nv.unitId.toNat

/-- A key derived from the 256-bit device root with its label and the unit ID (R551, Table 18.1). -/
def rootKey (die : List Byte) (label : String) (n : Nat) : List Byte := kdf (Config.crypto cfRoot [die] 32) label die n

/-- The identity key, the image receipt key and the blob key (Table 18.1). -/
def identKey (die : List Byte) : List Byte := rootKey die "HZ ID" 48
def receiptKey (die : List Byte) : List Byte := rootKey die "HZ IMG" 48
def blobKey (die : List Byte) : List Byte := rootKey die "HZ BLOB" 32

/-- An ECDSA P-384 signature under the identity key, with its random bytes (R551). -/
def identSign (die body seed : List Byte) : List Byte := Config.crypto cfSign [[4], identKey die, body, seed] 96

/-! ### Records -/

/-- A record of a data-area copy. -/
structure AreaRec where
  /-- TYPE: 1 BOOT, 2 PAIR, 3 BLOB -/
  typ : Nat := 0
  /-- SEQ, versions 2 and 3 -/
  seq : Nat := 0
  /-- STAMP, version 3 -/
  stamp : Nat := 0
  /-- the value -/
  value : List Byte := []
  deriving DecidableEq, Repr

/-- The area header: MAGIC, VERSION, GEN and their CRC-32 (R576). -/
def areaHead (ver gen : Nat) : List Byte :=
  let h := leBytes 4 0x41445A48 ++ [BitVec.ofNat 8 ver, 0, 0, 0] ++ leBytes 4 gen
  h ++ leBytes 4 (crc32 h).toNat ++ List.replicate 48 0

/-- A record's bytes: TYPE, LEN, SEQ from version 2 on, STAMP in version 3, the CRC over these and the value, and the value
(R576). -/
def AreaRec.bytes (ver : Nat) (r : AreaRec) : List Byte :=
  let h := leBytes 2 r.typ ++ leBytes 2 r.value.length ++ (if 2 ≤ ver then leBytes 4 r.seq else [])
    ++ if ver = 3 then leBytes 8 r.stamp else []
  h ++ leBytes 4 (crc32 (h ++ r.value)).toNat ++ r.value

/-- Bytes of a record header before its CRC. -/
def headLen (ver : Nat) : Nat := if ver = 1 then 4 else if ver = 2 then 8 else 16

/-- The records of a copy in their order; one whose CRC fails is ignored (R576). -/
def areaRecs (ver : Nat) : Nat → List Byte → List AreaRec
  | 0, _ => []
  | n + 1, bs =>
    let k := headLen ver
    let len := fromLe ((bs.drop 2).take 2)
    let v := (bs.drop (k + 4)).take len
    if bs.length < k + 4 + len then []
    else
      let rest := areaRecs ver n (bs.drop (k + 4 + len))
      if fromLe ((bs.drop k).take 4) = (crc32 (bs.take k ++ v)).toNat then
        { typ := fromLe (bs.take 2), value := v
          seq := if 2 ≤ ver then fromLe ((bs.drop 4).take 4) else 0
          stamp := if ver = 3 then fromLe ((bs.drop 8).take 8) else 0 } :: rest
      else rest

/-- What records of one key share: the TYPE and, of a PAIR, the partner, link and port, of a BLOB, the slot. -/
def AreaRec.key (r : AreaRec) : Nat × List Byte := (r.typ, if r.typ = 2 then r.value.take 9 else if r.typ = 3 then r.value.take 1 else [])

/-- LEN of a value of a TYPE; a record of a PAIR or BLOB with less removes it (DESIGN CHOICE, log entry 58). -/
def AreaRec.whole (r : AreaRec) : Bool :=
  decide (r.value.length = if r.typ = 1 then 16 else if r.typ = 2 then 72 else 100) && decide (1 ≤ r.typ ∧ r.typ ≤ 3)

/-- A record put in order of SEQ, after those of its own. -/
def seqInsert (r : AreaRec) : List AreaRec → List AreaRec
  | [] => [r]
  | x :: xs => if r.seq < x.seq then r :: x :: xs else x :: seqInsert r xs

/-- The live records: of each key the last one, in order of SEQ from version 2 on (R576). -/
def liveRecs (ver : Nat) (rs : List AreaRec) : List AreaRec :=
  let rs := if ver = 1 then rs else rs.foldl (fun l r => seqInsert r l) []
  (rs.foldl (fun l r => l.filter (fun x => decide (x.key ≠ r.key)) ++ [r]) []).filter AreaRec.whole

/-- The live records of a copy's bytes. -/
def DataArea.live (a : DataArea) : List AreaRec := liveRecs a.version (areaRecs a.version a.bytes.length (a.bytes.drop 64))

/-! ### Values -/

/-- BOOT (R573). -/
def bootValue (a : DataArea) : List Byte :=
  [BitVec.ofNat 8 a.active, BitVec.ofNat 8 (b2n a.confA + fld 1 (b2n a.confB)), BitVec.ofNat 8 a.unconf] ++ List.replicate 13 0

/-- The key of a PAIR: the partner, the local link and port (R576). -/
def pairHead (p : PairRec) : List Byte := leBytes 8 p.unit.toNat ++ [BitVec.ofNat 8 (p.link + fld 3 p.port)]

/-- The pair key under the blob key: IV, ciphertext and tag (R563, R576). -/
def pairSealed (die iv key : List Byte) : List Byte := iv ++ Config.crypto cfGcmSeal [[1], blobKey die, leBytes 4 0, iv ++ key] 48

/-- What a copy's bytes hold, on the die with this unit ID (R573, R576). -/
def readArea (die bs : List Byte) : DataArea :=
  let ver := fromLe ((bs.drop 4).take 1)
  let gen := fromLe ((bs.drop 8).take 4)
  if ver = 0 ∨ 3 < ver ∨ bs.take 64 ≠ areaHead ver gen then DataArea.init
  else
    let all := areaRecs ver bs.length (bs.drop 64)
    let a : DataArea := { valid := true, version := ver, gen := gen, bytes := bs
                          seq := if ver = 1 then all.length else all.foldl (fun n r => max n r.seq) 0 }
    let byte (r : AreaRec) (i : Nat) : Nat := ((r.value[i]?).getD 0).toNat
    let take (a : DataArea) (r : AreaRec) : DataArea :=
      if r.typ = 1 then
        { a with active := byte r 0, confA := bit (byte r 1) 0, confB := bit (byte r 1) 1, unconf := byte r 2 }
      else if r.typ = 3 then { a with blobs := a.blobs.write [] (byte r 0) (r.value.drop 4) }
      else
        let ins : List (List Byte) := [[1], blobKey die, leBytes 4 0, r.value.drop 12]
        if Config.cryptoOk cfGcmOpen ins then
          { a with pairs := a.pairs ++ [{ link := byte r 8 % 8, port := byte r 8 / 8 % 4, unit := BitVec.ofNat 64 (fromLe (r.value.take 8))
                                          key := Config.crypto cfGcmOpen ins 32 }] }
        else a
    (liveRecs ver all).foldl take a

/-! ### The copies -/

/-- A change of the copy in use. -/
def State.setArea (s : State) (a : DataArea) : State :=
  if s.img.inUse1 then { s with nv := { s.nv with area1 := a } } else { s with nv := { s.nv with area0 := a } }

/-- The data-area copy not in use. -/
def State.otherArea (s : State) : DataArea := if s.img.inUse1 then s.nv.area0 else s.nv.area1

def State.setOther (s : State) (a : DataArea) : State :=
  if s.img.inUse1 then { s with nv := { s.nv with area0 := a } } else { s with nv := { s.nv with area1 := a } }

/-- The live records in the other copy with GEN + 1, the first erased. DESIGN CHOICE: a copy that fills while the other is kept for
an older version is rewritten where it is (log entry 58). -/
def State.moveArea (s : State) (a : DataArea) : State :=
  let new : DataArea := { a with gen := a.gen + 1, bytes := areaHead a.version (a.gen + 1) ++ a.live.flatMap (AreaRec.bytes a.version) }
  if s.img.kept then s.setArea new
  else
    let t := (s.setOther new).setArea DataArea.init
    { t with img := { t.img with inUse1 := !t.img.inUse1 } }

/-- A record appended to the copy in use, whose contents it changes; a full copy moves (R576). -/
def State.storeRec (s : State) (typ : Nat) (value : List Byte) (f : DataArea → DataArea) : State :=
  let a := s.area
  let r : AreaRec := { typ := typ, seq := a.seq + 1, stamp := compactOf s.nowNs, value := value }
  let old := if a.valid then a.bytes else areaHead a.version a.gen
  let new : DataArea := { f a with valid := true, seq := a.seq + 1, bytes := old ++ r.bytes a.version }
  if new.bytes.length ≤ 0x40000 then s.setArea new else s.moveArea new

/-- The BOOT record in use rewritten (R573, R576). -/
def State.setBoot (s : State) (f : DataArea → DataArea) : State := s.storeRec 1 (bootValue (f s.area)) f

/-- A BLOB record of a slot written, or removed (R561, R576). -/
def State.storeBlob (s : State) (k : Nat) (b : List Byte) : State :=
  s.storeRec 3 ([BitVec.ofNat 8 k, 0, 0, 0] ++ b) fun a => { a with blobs := a.blobs.write [] k b }
def State.dropBlob (s : State) (k : Nat) : State := s.storeRec 3 [BitVec.ofNat 8 k] fun a => { a with blobs := a.blobs.erase k }

/-- A PAIR record written under an IV in place of the partner's on its link, and removed (R563, R565, R576). -/
def State.storePair (s : State) (iv : List Byte) (p : PairRec) : State :=
  s.storeRec 2 (pairHead p ++ [0, 0, 0] ++ pairSealed s.die iv p.key) fun a =>
    { a with pairs := (a.pairs.filter fun q => decide (¬ (q.link = p.link ∧ q.unit = p.unit))) ++ [p] }
def State.dropPair (s : State) (p : PairRec) : State :=
  s.storeRec 2 (pairHead p) fun a => { a with pairs := a.pairs.filter fun q => decide (pairHead q ≠ pairHead p) }

/-- A copy written anew under another version: every live record, converted (R577). -/
def DataArea.convert (a : DataArea) (ver : Nat) : DataArea :=
  let live := if a.version = 1 then a.live.zipIdx.map fun p => { p.1 with seq := p.2 + 1 } else a.live
  { a with
    valid := true, version := ver, gen := a.gen + 1, seq := if a.version = 1 then live.length else a.seq
    bytes := areaHead ver (a.gen + 1) ++ live.flatMap (AreaRec.bytes ver) }

/-- At a core reset both copies are read; the one in use is the valid one with the higher GEN, and with both valid the other is kept
(R576, R577). -/
def State.areaBoot (s : State) : State :=
  let a0 := readArea s.die s.nv.area0.bytes
  let a1 := readArea s.die s.nv.area1.bytes
  { s with
    nv := { s.nv with area0 := a0, area1 := a1 }
    img := { s.img with inUse1 := a1.valid && (!a0.valid || decide (a0.gen < a1.gen)), kept := a0.valid && a1.valid } }

end Sys2Proof.Machine
end

