-- ==== Sys2Proof/Machine/Keys.lean ====
section
/-! DEFINITION. The key store: slots, blobs, attestation, link pairing and the KEY_ commands (Chapter 18). Cryptography is
uninterpreted (log entry 10); the unit ID stands for the die whose device root a function uses. -/

namespace Sys2Proof.Machine

/-- Bytes from the DRBG (R553). -/
def State.drbg (s : State) (n : Nat) : List Byte × State :=
  ((List.range n).map fun i => Config.freeValue 8 (s.free + i), { s with free := s.free + n })

/-! ### Slots -/

def State.kslot (s : State) (k : Nat) : KeySlot := s.keys.slots.read KeySlot.init k

def State.setKslot (s : State) (k : Nat) (x : KeySlot) : State :=
  { s with keys := { s.keys with slots := s.keys.slots.write KeySlot.init k x } }

/-- Bytes of a type's key material and of its public key (Table 18.2). -/
def keyLen (typ : Nat) : Nat := if typ = 0 then 16 else if typ = 4 then 48 else 32
def pubLen (typ : Nat) : Nat := if typ = 3 then 64 else if typ = 4 then 96 else 0

/-- The attribute is allowed for the type (Table 18.2). -/
def keyPair (typ attr : Nat) : Bool :=
  if typ ≤ 1 then decide (attr ≤ 2) else if typ = 2 then decide (attr ≤ 3 ∧ attr ≠ 2)
  else decide (typ ≤ 4) && decide (attr = 0 ∨ attr = 3)

/-- Two shares combined (R555). -/
def xorBytes (a b : List Byte) : List Byte := List.zipWith (· ^^^ ·) a b

/-- The key of a slot. -/
def KeySlot.key (x : KeySlot) : List Byte := xorBytes x.share0 x.share1

/-- The slot holds a key that may be used. -/
def KeySlot.usable (x : KeySlot) : Bool := x.full && !x.broken

/-- Public key of a slot's key. -/
def KeySlot.pub (x : KeySlot) : List Byte := Config.crypto cfPub [[BitVec.ofNat 8 x.typ], x.key] (pubLen x.typ)

/-- FLAGS of Tables 18.3 and 18.4. -/
def KeySlot.flags (x : KeySlot) : Nat := b2n x.exportable + fld 1 x.origin

/-- A key stored in a slot as two shares under a fresh mask (R555). -/
def State.putKey (s : State) (k typ attr : Nat) (keyid : Word) (exportable : Bool) (origin : Nat) (key : List Byte) : State :=
  let (m, s) := s.drbg key.length
  s.setKslot k { full := true, typ := typ, attr := attr, keyid := keyid, exportable := exportable, origin := origin,
                 share0 := m, share1 := xorBytes key m, broken := false }

/-- A slot re-masked (R555). -/
def State.skimSlot (s : State) (k : Nat) : State :=
  let x := s.kslot k
  if !x.full then s
  else
    let (m, s) := s.drbg x.share0.length
    s.setKslot k { x with share0 := xorBytes x.share0 m, share1 := xorBytes x.share1 m }

/-- SKIM_PASS (R555): once per skim interval. -/
def effSkimPass (s : State) : State :=
  if s.coreOn ∧ s.passed s.keys.skimAt (s.keys.skimUs * 400) then
    let s := (List.range 64).foldl State.skimSlot s
    { s with keys := { s.keys with skimAt := s.uptime + 1 } }
  else s

def execSkimPass (s : State) : Host.Outcome State Fault Refusal := .next (effSkimPass s)

/-- ENTROPY_STARTUP_PASS (R553). -/
def effEntropyStartupPass (s : State) : State := if s.coreOn then { s with keys := { s.keys with entropyOk := true } } else s

def execEntropyStartupPass (s : State) : Host.Outcome State Fault Refusal := .next (effEntropyStartupPass s)

/-- KEY_EVENT of a slot (R579). -/
def State.keyEvent (s : State) (k reason status : Nat) (keyid : Word) (value : Nat) : State :=
  s.reportHolder 0xA k 0x0D status k [pack [reason, fld 9 s.nv.counter], keyid, word value, 0]

/-- KEY_EVENT of a link's pairing (R579). -/
def State.pairEvent (s : State) (l reason : Nat) (value : Word) : State :=
  s.reportMgmt 0x0D stOk (0x40 + l) [pack [reason, fld 9 s.nv.counter], 0, value, 0]

/-! ### Blobs -/

/-- Bytes 000h to 013h of a blob (Table 18.3). -/
def State.blobHead (s : State) (x : KeySlot) : List Byte :=
  leBytes 4 0x424B5A48 ++ [1, BitVec.ofNat 8 x.typ, BitVec.ofNat 8 x.attr, BitVec.ofNat 8 x.flags] ++ s.die ++ leBytes 4 x.keyid.toNat

/-- A slot's key as a blob (R557). -/
def State.makeBlob (s : State) (x : KeySlot) : List Byte × State :=
  let (iv, s) := s.drbg 12
  let head := s.blobHead x
  let key := x.key ++ List.replicate (48 - x.key.length) 0
  (head ++ iv ++ Config.crypto cfGcmSeal (gcmIns (blobKey s.die) iv head key) 64, s)

/-- What the opening of a blob takes: IV, AAD, ciphertext and tag of Table 18.3 (R557). -/
def blobIns (die b : List Byte) : List (List Byte) := gcmIns (blobKey die) ((b.drop 0x14).take 12) (b.take 0x14) (b.drop 0x20)

/-- The checks of R558 in their order. -/
def State.blobCheck (s : State) (b : List Byte) : Nat :=
  let byte (i : Nat) : Nat := ((b[i]?).getD 0).toNat
  if b.length ≠ 96 ∨ fromLe (b.take 4) ≠ 0x424B5A48 ∨ byte 4 ≠ 1 ∨ !keyPair (byte 5) (byte 6) ∨ 6 ≤ byte 7 then stBadParam
  else if (b.drop 8).take 8 ≠ s.die then stAuthFail
  else if !Config.cryptoOk cfGcmOpen (blobIns s.die b) then stIntegrity
  else stOk

/-- A blob that passed its checks loaded into a slot (R558). -/
def State.loadBlob (s : State) (k : Nat) (b : List Byte) : State :=
  let byte (i : Nat) : Nat := ((b[i]?).getD 0).toNat
  s.putKey k (byte 5) (byte 6) (word (fromLe ((b.drop 0x10).take 4))) (bit (byte 7) 0) (byte 7 / 2)
    ((Config.crypto cfGcmOpen (blobIns s.die b) 48).take (keyLen (byte 5)))

/-- A persisted or preloaded blob loaded into its slot, or reported (R561). -/
def State.preload (s : State) (k : Nat) (b : List Byte) : State :=
  let st := s.blobCheck b
  if st = stOk ∧ !(s.kslot k).broken then s.loadBlob k b
  else if st = stOk then s
  else s.keyEvent k 5 (if st = stBadParam then stIntegrity else st) (word (fromLe ((b.drop 0x10).take 4))) k

/-- Every BLOB record of the data area reloaded (R561). -/
def State.reloadBlobs (s : State) : State := s.area.blobs.foldl (fun s p => s.preload p.1 p.2) s

/-- The slot of the image that runs, none without one. -/
def State.runSlot (s : State) : Option FlashSlot :=
  if s.img.running = 0 then some s.nv.slotA else if s.img.running = 1 then some s.nv.slotB else none

/-- The image's preloaded blobs (record 0702h, R554). -/
def State.preloadImage (s : State) : State :=
  match s.runSlot with
  | none => s
  | some x => (x.records.filter fun r => decide (r.tag = 0x0702)).foldl
      (fun s r => s.preload (r.value.headD 0).toNat (r.value.drop 4)) s

/-- Every slot cleared and reloaded, broken ones staying unused (R554, R560, R561, Table 19.2). -/
def State.keysReload (s : State) : State :=
  let wipe (_ : Nat) (x : KeySlot) : KeySlot := { KeySlot.init with broken := x.broken }
  { s with keys := { s.keys with slots := s.keys.slots.mapAll KeySlot.init wipe } }.reloadBlobs.preloadImage

/-- The key store's domain-fatal action: keys that the reload does not bring back are reported (R589, Table 19.2). -/
def State.keysFatal (s : State) : State :=
  let gone := (List.range 64).filter fun k => (s.kslot k).full
  gone.foldl (fun t k => if (t.kslot k).full then t else t.keyEvent k 1 stOk (s.kslot k).keyid 0) s.keysReload

/-! ### Commands -/

/-- The requester's slots (R578). -/
def State.keySlots (s : State) (c : Cmd) : List Nat :=
  (List.range 64).filter fun k => if s.authZ c then (s.holder 0xA k).isNone else s.holds (s.cmdHub c) c.slice 0xA k

/-- A slot for a new key: the lowest free one with AUTO, else the one named (R578). -/
def State.newSlot (s : State) (c : Cmd) (k : Nat) (auto : Bool) : Except Nat Nat :=
  if auto then
    match (s.keySlots c).find? fun i => !(s.kslot i).full && !(s.kslot i).broken with
    | some i => .ok i
    | none => .error stNoResource
  else if (s.kslot k).broken then .error stNotPresent
  else if (s.kslot k).full then .error stBusy
  else .ok k

/-- A key command with the slots it names (R553, R578). -/
def State.keyCmd (s : State) (c : Cmd) (slots : List Nat) (random : Bool) (body : State → State) : State :=
  if slots.any fun k => !s.mayUse c 0xA k then s.complete c stNotGranted []
  else if random ∧ !s.keys.entropyOk then s.complete c stBusy []
  else body s

/-- A new key goes into a slot and the command completes. -/
def State.newKey (s : State) (c : Cmd) (k : Nat) (auto : Bool) (body : State → Nat → State) : State :=
  match s.newSlot c k auto with
  | .error st => s.complete c st []
  | .ok i => body s i

def layKeyGenerate (c : Cmd) : Layout :=
  { ind := true
    masks := [(4, mk 14 12 + mk 10 8 + mk 6 0), (5, mkAll)] ++ (if c.indirect then [(6, mkAll), (7, mkAll)] else [])
    enc := keyPair (c.f 4 10 8) (c.f 4 13 12), outAddr := if c.indirect then c.w64 6 else 0 }

/-- KEY_GENERATE (R553, R554, R578). -/
def execKeyGenerate (c : Cmd) (s : State) : Host.Outcome State Fault Refusal :=
  .next <| s.runCmd c 0x0E00 (layKeyGenerate c) false fun s =>
    s.keyCmd c (if c.b 4 6 then [] else [c.f 4 5 0]) true fun s =>
      s.newKey c (c.f 4 5 0) (c.b 4 6) fun s k =>
        let (key, s) := s.drbg (keyLen (c.f 4 10 8))
        let s := s.putKey k (c.f 4 10 8) (c.f 4 13 12) (word (c.w 5)) (c.b 4 14) 0 key
        let s := if c.indirect then s.output c (c.w64 6) (s.kslot k).pub else s
        s.complete c stOk [word k]

def layKeyImport (c : Cmd) : Layout :=
  { ind := true, masks := [(4, mk 22 16 + mk 14 12 + mk 10 8 + mk 6 0), (5, mkAll), (6, mk 7 0), (7, mkAll), (8, mkAll)]
    enc := keyPair (c.f 4 10 8) (c.f 4 13 12) && c.indirect, inAddr := c.w64 7, inLen := c.f 6 7 0 }

/-- The slot may wrap and unwrap (Table 18.2). -/
def KeySlot.wraps (x : KeySlot) : Bool := decide (x.typ ≤ 1 ∧ x.attr = 2)

/-- KEY_IMPORT (R554, R556, R578). -/
def execKeyImport (c : Cmd) (s : State) : Host.Outcome State Fault Refusal :=
  .next <| s.runCmd c 0x0E01 (layKeyImport c) false fun s =>
    let plain := c.b 4 22
    let w := c.f 4 21 16
    let n := keyLen (c.f 4 10 8)
    s.keyCmd c ((if c.b 4 6 then [] else [c.f 4 5 0]) ++ if plain then [] else [w]) false fun s =>
      let x := s.kslot w
      if plain ∧ c.data.length ≠ n then s.complete c stBadParam []
      else if !plain ∧ !x.usable then s.complete c stNotPresent []
      else if !plain ∧ !x.wraps then s.complete c stDenied []
      else if !plain ∧ !Config.cryptoOk cfUnwrap [x.key, c.data] then s.complete c stIntegrity []
      else
        s.newKey c (c.f 4 5 0) (c.b 4 6) fun s k =>
          let key := if plain then c.data else Config.crypto cfUnwrap [x.key, c.data] n
          (s.putKey k (c.f 4 10 8) (c.f 4 13 12) (word (c.w 5)) (c.b 4 14) 1 key).complete c stOk [word k]

def layKeyExport (c : Cmd) : Layout :=
  { ind := true, masks := [(4, mk 22 16 + mk 5 0), (6, mkAll), (7, mkAll)], enc := c.indirect, outAddr := c.w64 6 }

/-- KEY_EXPORT_WRAPPED (R556, R557, R578). -/
def execKeyExportWrapped (c : Cmd) (s : State) : Host.Outcome State Fault Refusal :=
  .next <| s.runCmd c 0x0E02 (layKeyExport c) false fun s =>
    let k := c.f 4 5 0
    let w := c.f 4 21 16
    let kwp := c.b 4 22
    s.keyCmd c (k :: if kwp then [w] else []) (!kwp) fun s =>
      let x := s.kslot k
      let y := s.kslot w
      if !x.usable ∨ (kwp ∧ !y.usable) then s.complete c stNotPresent []
      else if kwp then
        if !x.exportable ∨ !y.wraps then s.complete c stDenied []
        else
          let n := 8 + 8 * ceilDiv x.key.length 8
          (s.output c (c.w64 6) (Config.crypto cfWrap [y.key, x.key] n)).complete c stOk [word n]
      else
        let (b, s) := s.makeBlob x
        (s.output c (c.w64 6) b).complete c stOk [word 96]

def layKeyLoad (c : Cmd) : Layout :=
  { ind := true, masks := [(4, mk 7 0), (6, mkAll), (7, mkAll)], enc := c.indirect, inAddr := c.w64 6, inLen := 96 }

/-- KEY_LOAD (R558, R561, R578). -/
def execKeyLoad (c : Cmd) (s : State) : Host.Outcome State Fault Refusal :=
  .next <| s.runCmd c 0x0E03 (layKeyLoad c) false fun s =>
    s.keyCmd c (if c.b 4 6 then [] else [c.f 4 5 0]) false fun s =>
      let st := s.blobCheck c.data
      if st ≠ stOk then s.complete c st []
      else
        s.newKey c (c.f 4 5 0) (c.b 4 6) fun s k =>
          let s := s.loadBlob k c.data
          let s := if c.b 4 7 then s.storeBlob k c.data else s
          s.complete c stOk [word k]

/-- One slot destroyed, or found broken (R560, R595). -/
def State.destroySlot (s : State) (k : Nat) (persisted : Bool) (bad : Option Nat) : State :=
  let x := s.kslot k
  let s := if persisted ∧ s.area.blobs.any fun p => decide (p.1 = k) then s.dropBlob k else s
  match bad with
  | none => if x.full then (s.setKslot k KeySlot.init).keyEvent k 1 stOk x.keyid 0 else s
  | some pass =>
    if x.full then
      let s := (s.setKslot k { KeySlot.init with broken := true }).keyEvent k 2 stIntegrity x.keyid pass
      ((s.noteErr 0x11 0x0B).noteFatal { dom := 0x11, check := 0x0B, origin := 0x11, loc := word k }).keysFatal
    else s

def layKeyDestroy (_ : Cmd) : Layout := { masks := [(4, mk 7 0)] }

/-- KEY_DESTROY (R553, R560, R561, R578, R595). -/
def execKeyDestroy (c : Cmd) (bad : List (Nat × Nat)) (s : State) : Host.Outcome State Fault Refusal :=
  .next <| s.runCmd c 0x0E04 (layKeyDestroy c) false fun s =>
    let k := c.f 4 5 0
    let all := c.b 4 6
    let persisted := c.b 4 7
    s.keyCmd c (if all then [] else [k]) false fun s =>
      let ks := if all then (s.keySlots c).filter fun i => !(s.kslot i).broken else [k]
      let stored (i : Nat) : Bool := persisted && s.area.blobs.any fun p => decide (p.1 = i)
      if !all ∧ !(s.kslot k).usable ∧ !stored k then s.complete c stNotPresent []
      else
        let failed (i : Nat) : Option Nat := (bad.find? fun p => decide (p.1 = i ∧ 1 ≤ p.2 ∧ p.2 ≤ 3)).map Prod.snd
        let worse := ks.any fun i => (failed i).isSome && (s.kslot i).full
        let s := ks.foldl (fun s i => s.destroySlot i persisted (failed i)) s
        s.complete c (if worse then stIntegrity else stOk) []

def layKeyAttest (c : Cmd) : Layout :=
  { ind := true, masks := [(4, mk 9 8 + mk 5 0)] ++ ((List.range 10).map fun i => (i + 5, mkAll))
    enc := decide (c.f 4 9 8 < 3) && c.indirect, outAddr := c.w64 13 }

/-- PUBLIC of Table 18.4. -/
def KeySlot.attestPub (x : KeySlot) : List Byte :=
  let pad (n : Nat) (b : List Byte) : List Byte := b ++ List.replicate (n - b.length) 0
  if x.typ = 3 then pad 48 (x.pub.take 32) ++ pad 48 (x.pub.drop 32)
  else if x.typ = 4 then x.pub
  else pad 96 (Config.crypto cfMac [[BitVec.ofNat 8 x.typ], x.key, List.replicate 16 0] (if x.typ = 2 then 32 else 16))

/-- The identity public key (R551, R552). -/
def identPub (die : List Byte) : List Byte := Config.crypto cfPub [[4], identKey die] 96

/-- Bytes 000h to 0A7h of the attestation statement (Table 18.4). -/
def State.attestBody (s : State) (k : Nat) (nonce : List Byte) : List Byte :=
  let x := s.kslot k
  leBytes 4 0x54415A48 ++ [BitVec.ofNat 8 k, BitVec.ofNat 8 x.typ, BitVec.ofNat 8 x.attr, BitVec.ofNat 8 x.flags] ++ s.die
    ++ leBytes 4 x.keyid.toNat ++ leBytes 4 s.board.imgVer.toNat ++ [BitVec.ofNat 8 s.nv.counter, 0x21] ++ List.replicate 6 0
    ++ leBytes 8 (compactOf s.nowNs) ++ nonce ++ x.attestPub

/-- KEY_ATTEST (R552, R553, R559, R578). -/
def execKeyAttest (c : Cmd) (s : State) : Host.Outcome State Fault Refusal :=
  .next <| s.runCmd c 0x0E05 (layKeyAttest c) false fun s =>
    let k := c.f 4 5 0
    let form := c.f 4 9 8
    s.keyCmd c (if form = 0 then [k] else []) true fun s =>
      if form = 1 then
        (s.output c (c.w64 13) (identPub s.die ++ Config.crypto cfManuf [s.die, identPub s.die] 96)).complete c stOk []
      else if form = 2 then (s.output c (c.w64 13) (Config.crypto cfPub [[4], receiptKey s.die] 96)).complete c stOk []
      else if !(s.kslot k).usable then s.complete c stNotPresent []
      else
        let body := s.attestBody k (bytesOf ((List.range 8).map fun i => word (c.w (i + 5))))
        let (seed, s) := s.drbg 48
        (s.output c (c.w64 13) (body ++ identSign s.die body seed)).complete c stOk []

def layKeyDerive (c : Cmd) : Layout :=
  { ind := true, masks := [(4, mk 18 0), (5, mkAll), (6, mk 7 0), (7, mkAll), (8, mkAll)]
    enc := keyPair (c.f 4 15 13) (c.f 4 17 16) && decide (1 ≤ c.f 6 7 0) && c.indirect, inAddr := c.w64 7, inLen := c.f 6 7 0 }

/-- KEY_DERIVE (R554, R556, R578). -/
def execKeyDerive (c : Cmd) (s : State) : Host.Outcome State Fault Refusal :=
  .next <| s.runCmd c 0x0E06 (layKeyDerive c) false fun s =>
    let src := c.f 4 5 0
    let auto := c.b 4 12
    let typ := c.f 4 15 13
    let ecdh := c.b 4 18
    s.keyCmd c (src :: if auto then [] else [c.f 4 11 6]) false fun s =>
      let x := s.kslot src
      if !x.usable then s.complete c stNotPresent []
      else if x.attr ≠ 3 ∨ ecdh = decide (x.typ = 2) then s.complete c stDenied []
      else if 3 ≤ typ ∨ (ecdh ∧ c.data.length ≠ pubLen x.typ) then s.complete c stBadParam []
      else
        s.newKey c (c.f 4 11 6) auto fun s k =>
          let key := Config.crypto (if ecdh then cfEcdh else cfKdf) [[BitVec.ofNat 8 x.typ], x.key, c.data] (keyLen typ)
          (s.putKey k typ (c.f 4 17 16) (word (c.w 5)) false 2 key).complete c stOk [word k]

/-- Bytes a MAC of a type takes. -/
def macLen (typ : Nat) : Nat := if typ = 2 then 32 else 16

/-- The type and attribute permit an operation of KEY_CRYPT (Table 18.2). -/
def KeySlot.permits (x : KeySlot) (op : Nat) : Bool :=
  match op with
  | 0 => decide (x.typ ≤ 1 ∧ x.attr = 0)
  | 1 => decide (x.typ ≤ 1 ∧ x.attr = 1)
  | 2 => decide (x.typ ≤ 2 ∧ x.attr = 0)
  | 3 => decide (x.typ ≤ 2 ∧ x.attr = 1)
  | _ => decide (3 ≤ x.typ ∧ x.attr = 0)

def layKeyCrypt (c : Cmd) : Layout :=
  let op := c.f 4 10 8
  { ind := true, masks := [(4, mk 10 8 + mk 5 0), (5, mkAll), (6, mkAll), (7, mkAll), (8, mkAll), (9, mkAll), (10, mkAll)]
    enc := decide (op < 6 ∧ c.w 5 ≤ 32768) && c.indirect
      && (!decide (op = 0) || decide (12 + c.w 6 ≤ c.w 5 ∧ c.w 5 + 4 ≤ 32768 + c.w 6))
      && (!decide (op = 1) || decide (28 + c.w 6 ≤ c.w 5))
    inAddr := c.w64 7, inLen := if op = 5 then 0 else c.w 5, outAddr := c.w64 9 }

/-- KEY_CRYPT (R553, R556, R578). -/
def execKeyCrypt (c : Cmd) (s : State) : Host.Outcome State Fault Refusal :=
  .next <| s.runCmd c 0x0E07 (layKeyCrypt c) false fun s =>
    let op := c.f 4 10 8
    let k := c.f 4 5 0
    s.keyCmd c (if op = 5 then [] else [k]) (decide (4 ≤ op)) fun s =>
      let x := s.kslot k
      let t : List Byte := [BitVec.ofNat 8 x.typ]
      let put (s : State) (bs : List Byte) : State := (s.output c (c.w64 9) bs).complete c stOk []
      if op = 5 then
        let (r, s) := s.drbg (c.w 5)
        put s r
      else if !x.usable then s.complete c stNotPresent []
      else if !x.permits op then s.complete c stDenied []
      else
        let aad : List Byte := leBytes 4 (c.w 6)
        match op with
        | 0 => put s (Config.crypto cfGcmSeal [t, x.key, aad, c.data] (c.w 5 - 12 - c.w 6 + 16))
        | 1 =>
          if Config.cryptoOk cfGcmOpen [t, x.key, aad, c.data] then
            put s (Config.crypto cfGcmOpen [t, x.key, aad, c.data] (c.w 5 - 28 - c.w 6))
          else s.complete c stAuthFail []
        | 2 => put s (Config.crypto cfMac [t, x.key, c.data] (macLen x.typ))
        | 3 =>
          let n := c.data.length - macLen x.typ
          if macLen x.typ ≤ c.data.length ∧ Config.crypto cfMac [t, x.key, c.data.take n] (macLen x.typ) = c.data.drop n then
            s.complete c stOk []
          else s.complete c stAuthFail []
        | _ =>
          let (seed, s) := s.drbg (keyLen x.typ)
          put s (Config.crypto cfSign [t, x.key, c.data, seed] (pubLen x.typ))

/-! ### Pairing -/

def layKeyPairLink (c : Cmd) : Layout :=
  let step := c.f 4 5 4
  { ind := true
    masks := [(4, mk 5 4 + mk 2 0)] ++ if step < 2 then [(6, mkAll), (7, mkAll)] else []
    enc := decide (c.f 4 2 0 < 5 ∧ step < 3) && (c.indirect == decide (step < 2))
    inAddr := if step = 1 then c.w64 6 else 0, inLen := if step = 1 then 352 else 0
    outAddr := if step = 0 then c.w64 6 else 0 }

/-- The offer of an end but its signature (R562). -/
def State.offer (s : State) (l : Nat) (eph : List Byte) : List Byte :=
  s.die ++ leBytes 8 (s.link l).pUnit.toNat ++ Config.crypto cfPub [[4], eph] 96 ++ List.replicate 48 0

/-- FINISH: the pair key from the partner's offer and key (R563). -/
def State.pairKey (s : State) (l : Nat) (eph theirs : List Byte) : List Byte :=
  let mine := Config.crypto cfPub [[4], eph] 96
  let unit := leBytes 8 (s.link l).pUnit.toNat
  let ctx := if s.upLink l then unit ++ s.die ++ theirs ++ mine else s.die ++ unit ++ mine ++ theirs
  kdf (Config.crypto cfEcdh [[4], eph, theirs] 48) "HZ PAIR" ctx 32

/-- The check value of a pair key: the first 32 bits of its HMAC of a label (R563). -/
def pairCheck (pk : List Byte) : Word := word (fromLe ((Config.crypto cfMac [[2], pk, ascii "HZ CHECK"] 32).take 4))

/-- The hubs on the far side of a link of a hub, seen from the root. -/
def State.beyond (s : State) (h l : Nat) : List Nat := if h ≠ 0 ∧ l = 0 then s.below h else s.subtree h l

/-- The root closes each sealed tunnel that crosses a link of hub `h`, for a requester (R224, R565). -/
def State.closeSealed (s : State) (h l : Nat) (asker : Nat × Nat) : State :=
  if !s.isRoot then s
  else ((s.tunsIn (s.beyond h l)).filter fun t => !t.2 && (s.tun t.1).sealed).foldl
    (fun s t => s.rootClose t.1 (some stOk) (some asker)) s

/-- KEY_PAIR_LINK (R553, R562 to R565, R578). FINISH in an epoch that already has seal keys replaces them at once and sets
SEALCNT and both key phases back to 0 within the epoch (DESIGN CHOICE; R171 speaks of the epoch's first keys; log entry 59). -/
def execKeyPairLink (c : Cmd) (s : State) : Host.Outcome State Fault Refusal :=
  .next <| s.runCmd c 0x0E08 (layKeyPairLink c) false fun s =>
    let l := c.f 4 2 0
    let k := s.link l
    let setLink (s : State) (f : Link → Link) : State := s.modLink l f
    if !s.authZ c then s.complete c stNotGranted []
    else if !s.linkPresent l then s.complete c stNotPresent []
    else if !s.keys.entropyOk then s.complete c stBusy []
    else
      match c.f 4 5 4 with
      | 0 =>
        if k.st ≠ .up then s.complete c stWrongMode []
        else
          let (eph, s) := s.drbg 48
          let (seed, s) := s.drbg 48
          let o := s.offer l eph
          let s := setLink s fun k => { k with ephem := some eph }
          (s.output c (c.w64 6) (o ++ identSign s.die o seed)).complete c stOk []
      | 1 =>
        match k.ephem with
        | none => s.complete c stWrongMode []
        | some eph =>
          let o := c.data.take 0xA0
          let key := c.data.drop 0x100
          let others := s.area.pairs.filter fun p => decide (¬ (p.link = l ∧ p.unit = k.pUnit))
          if o.take 8 ≠ leBytes 8 k.pUnit.toNat ∨ (o.drop 8).take 8 ≠ s.die then s.complete c stStaleGen []
          else if !Config.cryptoOk cfVerify [key, o, (c.data.drop 0xA0).take 0x60] then s.complete c stAuthFail []
          else if 16 ≤ others.length then s.complete c stNoResource []
          else
            let pk := s.pairKey l eph ((o.drop 0x10).take 0x60)
            let check := pairCheck pk
            let p : PairRec := { link := l, port := linkPort l, unit := k.pUnit, key := pk }
            let (iv, s) := s.drbg 12
            let s := s.storePair iv p
            let s := setLink s fun k => { k with
              ephem := none, sealKey := some (s.sealMat l pk), sealTx := 0, sealWrapped := false, kphaseTx := 0, kphaseRx := 0 }
            (s.pairEvent l 3 check).complete c stOk [check]
      | _ =>
        if !(s.area.pairs.any fun p => decide (p.link = l)) then s.complete c stNotPresent []
        else
          let s := (s.area.pairs.filter fun p => decide (p.link = l)).foldl State.dropPair s
          let s := setLink s fun k => { k with sealKey := none }
          ((s.pairEvent l 4 0).closeSealed 0 l (s.cmdHub c, c.slice)).complete c stOk []

end Sys2Proof.Machine
end

