-- ==== Sys2Proof/Machine/Time.lean ====
section
/-! DEFINITION. Datum time, PPS and trigger inputs, exchanges and the time commands (Chapter 9; log entry 39). -/

namespace Sys2Proof.Machine

/-! ### PPS_IN -/

/-- The +-1 ms window applies (R268). -/
def Time.window (t : Time) : Bool := decide (t.st = .locked) || (decide (t.st = .holdover) && t.wasLocked)

/-- The counts of a finished datum second: seconds whose edges all lay outside the window, and clean seconds while PPS_IN is
ignored (R268, R269). -/
def State.ppsSecond (s : State) (sec : Nat) : State :=
  let t := s.time
  let n := t.ppsSecIn + t.ppsSecOut
  if sec = t.ppsSec then s
  else
    let outs := if !t.window then 0 else if n = 0 then t.ppsOutSecs else if t.ppsSecIn ≠ 0 then 0 else t.ppsOutSecs + 1
    let clean := decide (n = 1) && (!t.window || decide (t.ppsSecIn = 1))
    let run := if !t.ppsNoisy then 0 else if 3 ≤ t.ppsClean then 3 else if !clean then 0
      else if sec = t.ppsSec + 1 ∨ 2 ≤ t.ppsClean then t.ppsClean + 1 else 0
    let s := { s with time := { t with
      ppsSec := sec, ppsSecIn := 0, ppsSecOut := 0, ppsSecExtra := 0, ppsOutSecs := outs, ppsClean := run } }
    if outs < 16 then s
    else ({ s with time := { s.time.acquire with ppsOutSecs := 0, wasLocked := false } }).timeAlert 8 stOk 0 0 0

/-- A datum second has ended while the root follows PPS_IN, and its last edge has had its 100 ns, and a tick, to qualify (R267 to
R269). -/
def State.ppsTick (s : State) : State := if s.isRoot ∧ s.time.pps then s.ppsSecond ((s.now250 - 420) / 4000000000) else s

/-- An accepted edge of the source (R263, R270). -/
def State.ppsAccept (s : State) (at250 : Nat) (th : Int) : State :=
  let s := ({ s with time := { s.time with lastPps := some at250 } }).sourceBack
  (s.servo th 1 0).tryReturn.lockCount th 400 4000 4

/-- The last accepted edge is less than 0.5 s before (R268). -/
def Time.ppsSoon (t : Time) (at250 : Nat) : Bool :=
  match t.lastPps with
  | some a => decide (at250 < a + 2000000000)
  | none => false

/-- Twice theta of an edge, in 250 ps: its place in the second, wrapped, less PPSDELAY (R270). -/
def Time.ppsTheta (t : Time) (at250 : Nat) : Int := 2 * (wrapSec (at250 % 4000000000 : Nat) - t.ppsDelay)

/-- The edge lies within 1 ms of the second (R268). -/
def ppsInside (th : Int) : Bool := decide (-8000000 ≤ th ∧ th ≤ 8000000)

/-- An edge counted in its second, inside or outside the window (R268). -/
def State.ppsCount (s : State) (inside : Bool) : State :=
  { s with time := { s.time with
    ppsSecIn := if inside then s.time.ppsSecIn + 1 else s.time.ppsSecIn,
    ppsSecOut := if inside then s.time.ppsSecOut else s.time.ppsSecOut + 1 } }

/-- A noisy source is clean again (R268). -/
def State.ppsQuiet (s : State) : State :=
  if s.time.ppsNoisy then ({ s with time := { s.time with ppsNoisy := false } }).timeAlert 3 stOk 0 0 0 else s

/-- An edge that is not accepted counts; with more than 16 in one datum second the root ignores PPS_IN (R268, R269). -/
def State.ppsDiscard (s : State) : State :=
  let s := { s with time := { s.time with ppsExtra := satAdd 16 s.time.ppsExtra 1, ppsSecExtra := s.time.ppsSecExtra + 1 } }
  if s.time.ppsSecExtra ≤ 16 ∨ s.time.ppsNoisy then s
  else ({ s with time := { s.time with ppsNoisy := true, ppsClean := 0 } }).timeAlert 2 stIntegrity 0 0 s.time.ppsExtra

/-- A qualifying edge of the PPS polarity, source PPS_IN (R268 to R270). -/
def State.ppsEdge (s : State) (at250 : Nat) : State :=
  let s := s.ppsSecond (at250 / 4000000000)
  let t := s.time
  let th := t.ppsTheta at250
  let s := s.ppsCount (ppsInside th)
  if t.ppsNoisy ∧ t.ppsClean < 3 then s.ppsDiscard
  else
    let s := s.ppsQuiet
    if t.ppsSoon at250 ∨ (t.window ∧ !ppsInside th) then s.ppsDiscard else s.ppsAccept at250 th

/-- PPS_EDGE (R267 to R270, R285, R295). -/
def effPpsEdge (rising : Bool) (since : Nat) (s : State) : State :=
  if !s.coreOn then s
  else
    let (s, p) := s.stampEvent (s.stamp 4) 4 since rising
    let s := s.setStamp 4 p
    if s.isRoot ∧ s.time.pps ∧ rising ≠ s.time.falling then s.ppsEdge (s.now250 - since) else s

def execPpsEdge (rising : Bool) (since : Nat) (s : State) : Host.Outcome State Fault Refusal := .next (effPpsEdge rising since s)

/-- PPS_LOST (R71, R270). -/
def effPpsLost (s : State) : State :=
  if s.coreOn ∧ s.isRoot ∧ s.time.pps ∧ s.time.st ≠ .holdover
      ∧ max s.time.ppsFrom (s.time.lastPps.getD 0) + 6000000000 ≤ s.now250 then (s.holdTime.timeAlert 1 stTimeout 0 0 0).loseTime 3
  else s

def execPpsLost (s : State) : Host.Outcome State Fault Refusal := .next (effPpsLost s)

/-! ### Exchanges -/

/-- k of the PERIOD of a downstream link (R271). -/
def State.exchK (s : State) (l : Nat) : Nat := match s.board.exchK.read 0 (linkPort l) with
  | 0 => 8
  | n => n

/-- How long ago, in 2^-32 ns, the place `at'` of every period was last reached within the datum second (R271, R279). -/
def State.sincePlace (s : State) (at' period : Nat) : Nat :=
  (s.time.datum % (1000000000 * unitNs) + period - at') % period

/-- The scheduled instant of an exchange on the link that this tick has reached (R271): NS modulo PERIOD is PERIOD / 2. -/
def State.exchDue (s : State) (l : Nat) : Option Nat :=
  let p := s.exchK l * 125000 * unitNs
  let off := s.sincePlace (p / 2) p
  if off < s.tickLen then some (s.time.datum - off) else none

/-- TIME_EXCHANGE_START (R271, R272): once at each scheduled instant; the TMK crosses the balls `cross` (250 ps) after it. -/
def effTimeExchangeStart (link cross : Nat) (s : State) : State :=
  if !s.coreOn ∨ !s.linkPresent link ∨ s.upLink link ∨ !s.linkUp link then s
  else
    match s.exchDue link with
    | none => s
    | some at' =>
      if at' = (s.link link).xLast then s
      else
        (s.modLink link fun k => { k with
          xT1 := at' / unit250 + cross, xWait := true, xSeq := k.xSeq + 1, xLast := at' }).sendSym link .tmk

def execTimeExchangeStart (link cross : Nat) (s : State) : Host.Outcome State Fault Refusal := .next (effTimeExchangeStart link cross s)

/-- TMK_RECEIVE (R272, R273, R275): the TMK crossed the balls `since` (250 ps) before; a child answers `reply` after it. -/
def effTmkReceive (link reply since : Nat) (s : State) : State :=
  let k := s.link link
  let now := s.ago since
  if !s.coreOn ∨ !s.linkPresent link ∨ !s.linkUp link then s
  else if s.upLink link then
    ({ s with time := { s.time with t2 := now, t3 := now + reply, xOpen := true, xBad := false } }).sendSym link .tmk
  else if !k.xWait then s
  else
    let s := s.setLink link { k with xWait := false }
    if k.xT1 + 200000 < now then s
    else s.sendSym link (.timex k.xSeq (s.exchK link) (k.xT1 / 4000000000 % 65536) (k.xT1 % 4000000000) (now % 4000000000)
      (s.board.asym.read 0 (linkPort link)) s.time.step.isSome (decide (s.time.st = .holdover)) (decide (s.time.st = .locked)))

def execTmkReceive (link reply since : Nat) (s : State) : Host.Outcome State Fault Refusal := .next (effTmkReceive link reply since s)

/-- The seconds a first step adds: SECONDS[15:0] from the exchange, the upper bits nearest to the TIME message's (R276). -/
def State.fullSeconds (s : State) (th : Int) (add m : Nat) : Int :=
  let own := ((s.now250 : Int) - th / 2) / 4000000000
  let low := (own + add) % 65536
  let base := (m / 65536 * 65536 : Nat) + low
  let dist (x : Int) : Nat := (x - m).natAbs
  let best := [base - 65536, base + 65536].foldl (fun a x => if dist x < dist a then x else a) base
  best - own

/-- A TIMEX taken by the child (R263, R274 to R277). -/
def State.takeTimex (s : State) (link : Nat) (seq : BitVec 8) (pcode secLo t1 t4 : Nat) (asym : Int) : State :=
    let k := s.link link
    let t := s.time
    let a := wrapSec ((t.t2 : Int) - t1)
    let b := wrapSec ((t4 : Int) - t.t3)
    let th := a - b - asym
    let d2 := a + b
    let n : Int := t.delays.length
    let sum := t.delays.foldl (· + ·) 0
    let bad := (k.xSync && decide (seq ≠ k.xSeq)) || t.xBad || k.lane.los || decide (d2 < 0 ∨ 16000 < d2)
      || decide (160 * n < (n * d2 - sum).natAbs)
    let s := s.setLink link { k with xK := pcode, xSync := true, xSeq := seq + 1 }
    if bad then s.exchInvalid
    else
      let s := { s with time := { t with delays := (d2 :: t.delays).take 16, invalRun := 0, xOpen := false } }
      let corrected := (2 * (t.t2 : Int) - th - d2) / 2
      let own := (corrected - t1 + 2000000000) / 4000000000
      let add := (((secLo : Int) - own) % 65536).toNat
      match t.gotMsg with
      | none => if t.held.isSome then s else { s with time := { s.time with held := some (th, add) } }
      | some m => s.useExchange th pcode (if t.n = 0 ∨ t.slewing then s.fullSeconds th add m else 0)

/-- TIMEX_RECEIVE (R154, R263, R273 to R277). -/
def effTimexReceive (link : Nat) (w : Wave) (s : State) : State :=
  if !s.coreOn ∨ !s.upLink link ∨ !s.linkPresent link ∨ !s.linkUp link ∨ !s.time.xOpen then s
  else
    match s.takeLcp link w with
    | (s, some (.timex seq pcode secLo t1 t4 asym _ _ _)) => s.takeTimex link seq pcode secLo t1 t4 asym
    | (s, _) => s

def execTimexReceive (link : Nat) (w : Wave) (s : State) : Host.Outcome State Fault Refusal := .next (effTimexReceive link w s)

/-- EXCHANGE_INVALID_TIMEOUT (R271, R275, R277): an instant at which the link is not UP starts nothing and counts nowhere,
an exchange under way that a retrain cuts counts. -/
def effExchangeInvalidTimeout (link : Nat) (s : State) : State :=
  if !s.coreOn ∨ !s.linkPresent link then s
  else if !s.upLink link then s.modLink link fun k => { k with xWait := false }
  else if !s.linkUp link ∧ !s.time.xOpen then s
  else (s.modLink link fun k => { k with xSeq := k.xSeq + 1 }).exchInvalid

def execExchangeInvalidTimeout (link : Nat) (s : State) : Host.Outcome State Fault Refusal := .next (effExchangeInvalidTimeout link s)

/-! ### Steps and TIME messages -/

/-- TIME_STEP_APPLY (R264, R265). -/
def effTimeStepApply (s : State) : State :=
  match s.time.step with
  | some p =>
    if s.coreOn ∧ p.atSec * 1000000000 * unitNs ≤ s.time.datum then
      s.applyStep (p.newT + (s.time.datum - p.atSec * 1000000000 * unitNs)) p.byTime true
    else s
  | none => s

def execTimeStepApply (s : State) : Host.Outcome State Fault Refusal := .next (effTimeStepApply s)

/-- TIME_MESSAGE_SEND (R278, R279): once a second, at NS 500,000,000. -/
def effTimeMessageSend (s : State) : State :=
  if s.coreOn ∧ s.isTimeRoot ∧ s.sincePlace (500000000 * unitNs) (1000000000 * unitNs) < s.tickLen
      ∧ s.time.msgSec ≠ some s.nowSec then
    ({ s with time := { s.time with msgSec := some s.nowSec } }).sendTime none s.downLinks
  else s

def execTimeMessageSend (s : State) : Host.Outcome State Fault Refusal := .next (effTimeMessageSend s)

/-- The exchange held for the first TIME message is used (R276): `t` is the time state before the message. -/
def State.useHeld (s : State) (t : Time) (m : Nat) : State :=
  match t.gotMsg, t.held with
  | none, some (th, add) =>
    ({ s with time := { s.time with held := none } }).useExchange th (s.link 0).xK (s.fullSeconds th add m)
  | _, _ => s

/-- The SECONDS of the boundary a TIME message names (Table 9.3). -/
def msgSeconds (ws : List Word) : Nat := nthW ws 2 + 2 ^ 32 * (nthW ws 3 % 65536)

/-- The UTC fields and the time root's state of a TIME message (R280). -/
def Time.hear (t : Time) (ws : List Word) : Time :=
  let w0 := nthW ws 0
  { t with
    utcValid := bit w0 22, leap59 := bit w0 21, leap61 := bit w0 20, utcOff := BitVec.ofNat 16 (nthW ws 1)
    rootSt := bits w0 18 16, rootSource := bits w0 15 13, timeRoot := bits w0 12 8, gotMsg := some (msgSeconds ws) }

/-- TIME_MESSAGE (R276, R278, R280). A message after its boundary, in the hub's own time, is ignored; that one was received
still ends the wait of R276 (DEDUCED, log entry 39). -/
def effTimeMessage (ws : List Word) (s : State) : State :=
  let m := msgSeconds ws
  if !s.coreOn ∨ (s.entry 33).ingress = 7 then s
  else
    let t := s.time
    if m * 1000000000 * unitNs ≤ t.datum then
      ({ s with time := { t with gotMsg := some (t.gotMsg.getD m) } }).useHeld t m
    else
      let s := ({ s with time := t.hear ws }).useHeld t m
      if bit (nthW ws 0) 19 then
        let sec := nthW ws 4 + 2 ^ 32 * (nthW ws 5 % 65536)
        let new := (sec * 1000000000 + nthW ws 6) * unitNs + bits (nthW ws 5) 31 16 * 2 ^ 16
        ({ s with time := { s.time with step := none } }).stepAt m new false
      else if m ≠ s.nowSec + 1 then s.orderStep (((m : Int) - (s.nowSec + 1)) * 1000000000 * unitNs) false
      else s

def execTimeMessage (ws : List Word) (s : State) : Host.Outcome State Fault Refusal := .next (effTimeMessage ws s)

/-! ### Pins -/

/-- TRIG_EDGE (R284, R285, R295, R305). -/
def effTrigEdge (src : Nat) (rising : Bool) (since : Nat) (s : State) : State :=
  if !s.coreOn ∨ 4 ≤ src then s
  else
    let at250 := s.ago since
    let (s, p, _) := s.stampEdge (s.stamp src) src since rising
    (s.setStamp src p).feedEdge (if rising then 5 else 6) src at250

def execTrigEdge (src : Nat) (rising : Bool) (since : Nat) (s : State) : Host.Outcome State Fault Refusal :=
  .next (effTrigEdge src rising since s)

/-- The settings of an output replaced. -/
def State.putOutput (s : State) (pin : Nat) (x : TimeOut) : State :=
  if pin = 0 then { s with time := { s.time with ppsOut := x } } else { s with time := { s.time with timeOut := x } }

/-- TIME_OUT_EDGE (R265, R283, R293): the output's next scheduled edge once its instant is reached and nothing that was due
earlier is left; it is placed at its instant, or at the step that skipped it. The schedule runs on while the mode holds the
pin low (Table 3.6). -/
def effTimeOutEdge (pin : Nat) (s : State) : State :=
  match (s.timeOutOf pin).edge with
  | none => s
  | some (d, x) =>
    if !s.coreOn ∨ 2 ≤ pin ∨ s.now250 < 4 * d ∨ !s.noneBefore (4 * d) then s
    else
      let t := s.putOutput pin x
      if t.timePin pin = s.timePin pin then t
      else t.emit (.edge (32 + pin) (t.timePin pin) (max (s.served (4 * d)) x.from250))

def execTimeOutEdge (pin : Nat) (s : State) : Host.Outcome State Fault Refusal := .next (effTimeOutEdge pin s)

/-! ### Commands -/

def layTimeQuery (_ : Cmd) : Layout := { masks := [(4, 1)] }

/-- TIME_QUERY (R287, R288). -/
def execTimeQuery (c : Cmd) (s : State) : Host.Outcome State Fault Refusal :=
  .next <| s.runCmd c 0x0600 (layTimeQuery c) true fun s =>
    let t := s.time
    let n : Int := t.delays.length
    let mean : Int := if n = 0 ∨ s.isRoot then 0 else t.delays.foldl (· + ·) 0 / (2 * n)
    s.complete c stOk <|
      if c.b 4 0 then
        [word (unsigned 32 t.freq), word (unsigned 32 t.lastTheta), word (unsigned 32 mean), pack [fld 16 t.ppsExtra, t.exchReject]]
      else timeWords t.datum ++ [s.timeW7]

/-- The common part of the commands of the root's time (R287). -/
def State.rootTimeCmd (s : State) (c : Cmd) (body : State) : State :=
  if !((c.sys && decide (c.hub = 0)) || s.fromRoot0 c) then s.complete c stNotGranted []
  else if !s.isRoot then s.complete c stDenied []
  else body

def layTimeSet (_ : Cmd) : Layout := { masks := [(4, mkAll), (5, mkAll), (6, mkAll), (7, mk 4 0)] }

/-- TIME_SET (R260, R287, R289). -/
def execTimeSet (c : Cmd) (s : State) : Host.Outcome State Fault Refusal :=
  .next <| s.runCmd c 0x0601 (layTimeSet c) false fun s => s.rootTimeCmd c <|
    if s.time.step.isSome then s.complete c stBusy []
    else if 1000000000 ≤ c.w 4 ∨ (c.b 7 0 ∧ s.time.pps ∧ c.w 4 ≠ 0) then s.complete c stBadParam []
    else
      let s := if c.b 7 1 then { s with time := { s.time with utcPend := some (c.b 7 4, c.b 7 3, c.b 7 2, c.f 6 31 16) } } else s
      let new := ((c.w 5 + 2 ^ 32 * c.f 6 15 0) * 1000000000 + c.w 4) * unitNs
      let s := if c.b 7 0 then s.stepAt s.stepSec new true else s
      s.complete c stOk []

def layTimeAdjust (c : Cmd) : Layout :=
  { masks := [(4, mkAll), (5, mkAll), (6, mk 3 0)], enc := (!c.b 6 1 || c.b 6 0) && (!c.b 6 3 || c.b 6 2) }

/-- TIME_ADJUST (R287, R290). -/
def execTimeAdjust (c : Cmd) (s : State) : Host.Outcome State Fault Refusal :=
  .next <| s.runCmd c 0x0602 (layTimeAdjust c) false fun s => s.rootTimeCmd c <|
    let f := if c.b 6 0 then signed 32 (c.w 5) + (if c.b 6 1 then s.time.freq else 0) else s.time.freq
    let ph := signed 32 (c.w 4)
    if s.time.pps then s.complete c stDenied []
    else if s.time.step.isSome then s.complete c stBusy []
    else if f < -128000000 ∨ 128000000 < f then s.complete c stBadParam []
    else
      let s := { s with time := { s.time with freq := f } }
      let s := if !c.b 6 2 then s
        else if c.b 6 3 then s.orderStep (ph * unitNs) false
        else { s with time := { s.time with slewLeft := ph * unitNs } }
      s.complete c stOk []

def layTimeSource (c : Cmd) : Layout := { masks := [(4, mk 2 0), (5, mkAll)], enc := decide (c.f 4 1 0 < 2) }

/-- The source and its settings (R266, R291). -/
def State.setTimeSource (s : State) (pps falling : Bool) (delay : Int) : State :=
  let t := { s.time with falling := falling, ppsDelay := delay }
  if pps = t.pps then { s with time := t }
  else if pps then
    { s with time := { t.acquire with
      pps := true, lastPps := none, ppsFrom := s.now250, ppsSec := s.nowSec, ppsNoisy := false, ppsOutSecs := 0, ppsSecIn := 0, ppsSecOut := 0, ppsSecExtra := 0, ppsClean := 0 } }
  else
    ({ s with time := { t.unlock with
      pps := false, st := if t.st = TimeSt.locked then TimeSt.free else TimeSt.unset, slewing := false, recovered := true } }).tryReturn

/-- TIME_SOURCE (R287, R291). -/
def execTimeSource (c : Cmd) (s : State) : Host.Outcome State Fault Refusal :=
  .next <| s.runCmd c 0x0603 (layTimeSource c) false fun s => s.rootTimeCmd c <|
    (s.setTimeSource (c.b 4 0) (c.b 4 2) (signed 32 (c.w 5))).complete c stOk []

def layTimeStampArm (c : Cmd) : Layout := { masks := [(4, mk 10 0)], enc := decide (c.f 4 7 0 < 5) }

/-- TIME_STAMP_ARM (R287, R292). -/
def execTimeStampArm (c : Cmd) (s : State) : Host.Outcome State Fault Refusal :=
  .next <| s.runCmd c 0x0604 (layTimeStampArm c) false fun s =>
    let src := c.f 4 7 0
    let e := c.f 4 9 8
    let p := s.stamp src
    let other := decide (p.edge ≠ 0) && decide (p.hub ≠ s.cmdHub c ∨ p.slice ≠ c.slice)
    if !s.mayUse c 4 src then s.complete c stNotGranted []
    else if e = 0 then
      if other ∧ !s.authZ c then s.complete c stNotGranted []
      else (s.setStamp src { p with edge := 0 }).complete c stOk []
    else if other then s.complete c stBusy []
    else (s.setStamp src { p with edge := e, once := c.b 4 10, slice := c.slice, hub := s.cmdHub c, seq := 0 }).complete c stOk []

def layTimeOutCfg (c : Cmd) : Layout :=
  { masks := [(4, mk 5 0), (5, mkAll), (6, mkAll), (7, mkAll), (8, mkAll), (9, mkAll)], enc := decide (c.f 4 3 1 < 4) }

/-- PERIOD, OFFSET, WIDTH and MODE fit (R293). -/
def timeOutOk (pin mode period offset width : Nat) : Bool :=
  (decide (period ≠ 0) && decide (10 ^ 9 % period = 0)) && decide (offset < period) && decide (20 ≤ width) && decide (width < period)
    && (decide (pin ≠ 0) || (decide (mode ≤ 1) && decide (period = 10 ^ 9)))

/-- The first leading edge of an output configured now, ns: a periodic pulse starts at the first leading edge not before now
(R293; log entry 39). -/
def State.firstEdge (s : State) (x : TimeOut) : Option Nat :=
  match x.mode with
  | 1 =>
    let now := ceilDiv s.time.datum unitNs
    if x.period = 0 then none else some (now + (x.period - (now + x.period - x.offset) % x.period) % x.period)
  | 2 => some x.instant
  | 3 => some x.instant
  | _ => none

/-- An output's settings take effect: it is driven at its inactive level where its mode lets it (R293, Table 3.6). -/
def State.setTimeOut (s : State) (pin : Nat) (x : TimeOut) : State :=
  let x := { x with active := false, fallAt := none, next := s.firstEdge x, from250 := s.now250 }
  let t := s.putOutput pin x
  if t.timePin pin = s.timePin pin then t else t.emit (.edge (32 + pin) (t.timePin pin) s.now250)

/-- TIME_OUT_CFG (R260, R287, R293). -/
def execTimeOutCfg (c : Cmd) (s : State) : Host.Outcome State Fault Refusal :=
  .next <| s.runCmd c 0x0605 (layTimeOutCfg c) false fun s =>
    if !s.mayUse c 4 (5 + c.f 4 0 0) then s.complete c stNotGranted []
    else if !timeOutOk (c.f 4 0 0) (c.f 4 3 1) (c.w 5) (c.w 6) (c.w 7) then s.complete c stBadParam []
    else
      match s.compactField c 8 with
      | none => s.complete c stBadParam []
      | some inst =>
        (s.setTimeOut (c.f 4 0 0) { mode := c.f 4 3 1, invert := c.b 4 5, level := c.b 4 4, period := c.w 5, offset := c.w 6
                                    width := c.w 7, instant := inst, active := false, configured := true }).complete c stOk []

end Sys2Proof.Machine
end

