-- ==== Sys2Proof/Machine/Traverse.lean ====
section
/-! DEFINITION. Traverse engines, their legs and effects, action pins, tree-wide launches and the traverse commands
(Chapter 10; log entry 38). CONFIRM_IMAGE stands in Images. -/

namespace Sys2Proof.Machine

/-! ### Legs -/

/-- A field of a leg. -/
def lf (v hi lo : Nat) : Nat := bits v hi lo

/-- KIND of a leg (R300). -/
def legKind (v : Nat) : Nat := bits v 63 58

/-- The bits a kind of leg may set below KIND (Table 10.2). -/
def legMask (kind : Nat) : Nat :=
  match kind with
  | 0x00 => mk 31 0
  | 0x01 => mk 57 55 + mk 47 0
  | 0x02 => mk 57 50 + mk 47 24
  | 0x03 => mk 57 40 + mk 19 0
  | 0x04 => mk 57 51 + mk 49 0
  | 0x05 => mk 57 51 + mk 49 22 + mk 19 0
  | 0x06 => mk 57 35 + mk 31 0
  | 0x07 => mk 57 33 + mk 31 0
  | 0x08 => mk 57 57 + mk 47 33 + mk 19 0
  | 0x09 => mk 57 42 + mk 31 0
  | 0x0A => mk 57 57 + mk 19 0
  | 0x0B => mk 57 52 + mk 19 0
  | 0x0C => mk 57 49 + mk 31 0
  | 0x0D => mk 57 56 + mk 46 0
  | 0x0E => mk 57 52 + mk 46 32
  | 0x0F => mk 57 52 + mk 46 32
  | _ => 0

/-- The values a leg's fields may take (Table 10.2). -/
def legRanges (v : Nat) : Bool :=
  match legKind v with
  | 0x01 => decide (lf v 57 56 ≠ 3)
  | 0x02 =>
    let c := lf v 57 55
    decide (c ≠ 7) && (decide (c ≠ 0) || decide (lf v 54 50 < 8)) && (decide (c < 5) || decide (lf v 54 50 < 4))
  | 0x04 => decide (lf v 57 52 < 32 ∧ 1 ≤ lf v 49 20)
  | 0x05 => decide (lf v 57 52 < 32 ∧ 1 ≤ lf v 49 32 ∧ lf v 31 22 ≤ 1000)
  | 0x0B => decide (lf v 57 55 < 5 ∧ lf v 54 52 < 5)
  | 0x0E => decide (lf v 57 55 < 5)
  | _ => true

/-- A leg that is not bad (R300). -/
def legOk (v : Nat) : Bool :=
  decide (legKind v ≤ 0x10) && decide (v % 2 ^ 58 &&& (2 ^ 58 - 1 - legMask (legKind v)) = 0) && legRanges v

/-- A leg of the leg memory. -/
def State.leg (s : State) (i : Nat) : Nat := (s.trav.legs.read 0 i).toNat

/-- The leg lies in a block of the slice (R296). -/
def State.legMay (s : State) (o : Nat × Nat) (i : Nat) : Bool := decide (i < 32768) && s.sliceMay o.1 o.2 2 (i / 256)

/-- The next leg. -/
def State.adv (s : State) (e : Nat) : State := s.modEngine e fun x => { x with pc := (x.pc + 1) % 32768 }

/-- The engine is held at a leg boundary: the fabric, the traverse group or its own domain recovers (R587, Table 19.2). -/
def State.engHeld (s : State) (e : Nat) : Bool := s.recovers [1, 7, 0x20 + e]

/-- One more leg has executed since the engine last waited (R316). -/
def State.countLeg (s : State) (e : Nat) : State := s.modEngine e fun y => { y with runLegs := y.runLegs + 1 }

/-- C and the next leg. -/
def State.advC (s : State) (e : Nat) (c : Bool) : State := (s.modEngine e fun x => { x with c := c }).adv e

/-- The count of legs put back to a value (R316). -/
def State.setRunLegs (s : State) (e n : Nat) : State := s.modEngine e fun x => { x with runLegs := n }

/-- The engine waits (R298, R304, R305). -/
def State.startWait (s : State) (e : Nat) (w : EngWait) : State :=
  s.modEngine e fun x => { x with st := .waiting, wait := w, runLegs := 0 }

/-- D and REF set (R304). -/
def State.setD (s : State) (e d ref : Nat) : State := s.modEngine e fun x => { x with d := d, ref := ref }

/-- The 65,536th leg without a wait is an exception at its PC (R316). -/
def State.legLimit (s : State) (e pc : Nat) : State :=
  let y := s.engine e
  if y.st = .running ∧ 65536 ≤ y.runLegs then (s.modEngine e fun z => { z with pc := pc }).exception e 7 else s

/-- One leg of a running engine, if the leg at PC is of the kind named and may execute now (R296, R300, R316): `body` is
given the leg, and answers none while it has to wait. -/
def State.runLeg (s : State) (e kind : Nat) (body : State → Nat → Option State) : State :=
  let x := s.engine e
  let v := s.leg x.pc
  if !s.working ∨ 32 ≤ e ∨ x.st ≠ .running ∨ s.engHeld e then s
  else if !s.legMay (s.engOwner e) x.pc then s.exception e 2
  else if s.trav.badLegs.contains x.pc then s.exception e 8
  else if !legOk v then s.exception e 1
  else if legKind v ≠ kind then s
  else
    match body (s.countLeg e) v with
    | none => s
    | some s' => s'.legLimit e x.pc

/-- An effect leg: no earlier than D (R301). -/
def State.effectLeg (s : State) (e kind : Nat) (body : State → Nat → State) : State :=
  s.runLeg e kind fun s v => if s.now250 < (s.engine e).d then none else some (body s v)

/-! ### Effects -/

/-- A period of a PWM output starts (R307). -/
def State.pwmStart (s : State) (n : Nat) (p : PwmCfg) (at250 next : Nat) : State :=
  let a := s.act n
  (s.setAct n { a with pwm := some { p with nextAt := next }, pwmNext := none, safe := false }).emit
    (.pwm n (!p.inverted) at250 p.high)

/-- The first period start after an instant of an output that starts at E (R307, R308). -/
def PwmCfg.after (p : PwmCfg) (due at250 : Nat) : Nat := due + p.period * ((at250 - due) / max 1 p.period + 1)

/-- A PWM_PIN effect for E, taken at an instant (R307, R308). -/
def State.pwmEffect (s : State) (n : Nat) (cfg : PwmCfg) (due at250 : Nat) : State :=
  let a := s.act n
  if a.mode ≠ 3 then s
  else match a.pwm with
  | some p =>
    if p.period ≠ cfg.period then s.pwmStart n cfg at250 (cfg.after due at250)
    else if due + p.period = p.nextAt then s.pwmStart n cfg at250 p.nextAt
    else s.setAct n { a with pwmNext := some cfg }
  | none => s.pwmStart n cfg at250 (cfg.after due at250)

/-- What an effect does at an instant, and what is left of it: the trailing edge of a pulse (R307, R314). Its edges stand at
that instant: E, or the step that skipped E, or, for a late leg, the hand-over (R265, R306). -/
def State.takeEffect (s : State) (f : Effect) (at250 : Nat) : State × Option Effect :=
  match f.kind with
  | .pins mask levels =>
    (((List.range 32).filter fun n => bit mask n).foldl (fun s n => s.setPin n (bit levels n) at250) s, none)
  | .pulse n lv w begun =>
    if begun then (s.setPin n (!lv) at250, none)
    else (s.setPin n lv at250, some { f with due := f.due + w, kind := .pulse n lv w true })
  | .pwm n cfg => (s.pwmEffect n cfg f.due at250, none)
  | .can n w0 w1 data =>
    (if s.canFitted n then (s.canTimed n { w0 := w0, w1 := w1, data := data } f.due none ((s.engine f.eng).ownerHub, (s.engine f.eng).ownerSlice)).1 else s, none)
  | .disp h => (if s.headPresent h then s.takeCommit h [] true true 0xFFF else s, none)
  | .gate l slot => ((s.gateCommit l slot (ceilDiv f.due 4)).gateSwitch l, none)

def State.setEffects (s : State) (l : List Effect) : State := { s with trav := { s.trav with effects := l } }

/-- A timed leg hands over its effect for E, or waits for room (R301, R302, R306). -/
def State.handOver (s : State) (e due : Nat) (kind : EffKind) : Option State :=
  let fx := s.trav.effects
  let f : Effect := { eng := e, due := due, kind := kind }
  if 256 ≤ fx.length ∨ 16 ≤ (fx.filter fun g => decide (g.eng = e)).length then none
  else if s.now250 + 160 ≤ due then some ((s.setEffects (fx ++ [f])).adv e)
  else
    let x := s.engine e
    let n := x.lateRep + 1
    let s := s.setEngine e { x with lateCnt := satAdd 16 x.lateCnt 1, lateRep := n }
    let s := if !s.passed x.lateAt 400000 then s
      else (s.modEngine e fun y => { y with lateAt := s.uptime + 1, lateRep := 0 }).travEvent e
        { event := 5, data := word (min (ceilDiv (s.now250 + 160 - due) 4) (2 ^ 32 - 1)), mask := word n }
    if x.latePol = 2 then some (s.exception e 4)
    else if x.latePol = 1 then some (s.adv e)
    else
      let (s, rest) := s.takeEffect f s.now250
      some ((s.setEffects (s.trav.effects ++ rest.toList)).adv e)

/-- EFFECT_INSTANT (R265, R301): the effect due first, in hand-over order. -/
def effEffectInstant (s : State) : State :=
  let fx := s.trav.effects
  match fx.map (·.due) with
  | [] => s
  | d :: ds =>
    let m := ds.foldl min d
    let i := (fx.findIdx? fun f => decide (f.due = m)).getD 0
    match fx[i]? with
    | some f =>
      if !s.working ∨ s.now250 < m ∨ !s.noneBefore m then s
      else
        let (s', rest) := (s.setEffects (fx.eraseIdx i)).takeEffect f (s.served m)
        match rest with
        | some g => s'.setEffects (s'.trav.effects.take i ++ [g] ++ s'.trav.effects.drop i)
        | none => s'
    | none => s

def execEffectInstant (s : State) : Host.Outcome State Fault Refusal := .next (effEffectInstant s)

/-- PWM_PERIOD_START (R307, R308). -/
def effPwmPeriodStart (pin : Nat) (s : State) : State :=
  let a := s.act pin
  match a.pwm with
  | some p =>
    if !s.working ∨ s.now250 < p.nextAt then s
    else s.pwmStart pin (a.pwmNext.getD p) p.nextAt (p.nextAt + p.period)
  | none => s

def execPwmPeriodStart (pin : Nat) (s : State) : Host.Outcome State Fault Refusal := .next (effPwmPeriodStart pin s)

/-! ### Launch and waits -/

/-- An engine runs from its entry for a launch instant (R303). -/
def State.launchEngine (s : State) (e at250 : Nat) : State :=
  s.modEngine e fun x => { x with st := .running, pc := x.entry, ref := at250, d := at250 }

/-- ENGINE_LAUNCH (R265, R303): a launch that is later than its T sends LAUNCHED at once (R322). -/
def effEngineLaunch (e : Nat) (s : State) : State :=
  let x := s.engine e
  if !s.working ∨ 32 ≤ e ∨ x.st ≠ .armed ∨ s.now250 + 4000 * x.lead < x.launchAt ∨ !s.noneBefore (x.launchAt - 4000 * x.lead) then s
  else
    let s := s.launchEngine e x.launchAt
    let prep := s.trav.prep.map fun p => if x.launchId = some p.id then { p with launched := true } else p
    { s with trav := { s.trav with prep := prep } }.launchesDone

def execEngineLaunch (eng : Nat) (s : State) : Host.Outcome State Fault Refusal := .next (effEngineLaunch eng s)

/-- LEG_END (R314). -/
def effLegEnd (e : Nat) (s : State) : State :=
  s.runLeg e 0x00 fun s v =>
    some ((s.modEngine e fun x => { x with st := .idle, health := false, launchId := none }).travEvent e
      { event := 1, data := word (lf v 31 0) })

def execLegEnd (eng : Nat) (s : State) : Host.Outcome State Fault Refusal := .next (effLegEnd eng s)

/-- LEG_WAIT_UNTIL (R304). -/
def effLegWaitUntil (e : Nat) (s : State) : State :=
  s.runLeg e 0x01 fun s v =>
    let x := s.engine e
    let b := match lf v 57 56 with
      | 0 => x.ref
      | 1 => (x.d / 4000000000 + 1) * 4000000000
      | _ => x.evt
    let w := b + lf v 47 0
    let s := s.setD e w (if bit v 55 then w else x.ref)
    if s.now250 + 4000 * x.lead < w then some (s.startWait e (.untilAt w)) else some (s.adv e)

def execLegWaitUntil (eng : Nat) (s : State) : Host.Outcome State Fault Refusal := .next (effLegWaitUntil eng s)

/-- WAIT_UNTIL_RELEASE (R265, R304). -/
def effWaitUntilRelease (e : Nat) (s : State) : State :=
  let x := s.engine e
  match x.wait with
  | .untilAt w =>
    if s.working ∧ x.st = .waiting ∧ w ≤ s.now250 + 4000 * x.lead ∧ s.noneBefore (w - 4000 * x.lead) then
      (s.setEngine e { x with st := .running, wait := .none }).adv e else s
  | _ => s

def execWaitUntilRelease (eng : Nat) (s : State) : Host.Outcome State Fault Refusal := .next (effWaitUntilRelease eng s)

/-- A level or flag condition holds now (R305). -/
def State.condNow (s : State) (e kind idx : Nat) : Bool :=
  match kind with
  | 0 => bit (s.engine e).flags.toNat idx
  | 3 => (s.act idx).input
  | 4 => !(s.act idx).input
  | _ => false

/-- A flag is cleared. -/
def State.clearFlag (s : State) (e k : Nat) : State :=
  s.modEngine e fun x => { x with flags := x.flags &&& ~~~(BitVec.ofNat 8 (2 ^ k)) }

/-- LEG_WAIT_FOR (R305, R315). -/
def effLegWaitFor (e : Nat) (s : State) : State :=
  s.runLeg e 0x02 fun s v =>
    let kind := lf v 57 55
    let idx := lf v 54 50
    let t := lf v 47 24
    let pin := decide (1 ≤ kind ∧ kind ≤ 4)
    if pin ∧ (s.act idx).mode ≠ 4 then some (s.exception e 3)
    else if s.condNow e kind idx then
      let n := (s.engine e).runLegs
      some (((if kind = 0 then s.clearFlag e idx else s).endWait e s.now250 true).setRunLegs e n)
    else some (s.startWait e (.cond kind idx (if t = 0 then 0 else s.now250 + 4000 * t)))

def execLegWaitFor (eng : Nat) (s : State) : Host.Outcome State Fault Refusal := .next (effLegWaitFor eng s)

/-- WAIT_FOR_MET: a flag or level condition (R305). -/
def effWaitForMet (e : Nat) (s : State) : State :=
  let x := s.engine e
  match x.wait with
  | .cond k i _ =>
    if s.working ∧ x.st = .waiting ∧ s.condNow e k i then
      (if k = 0 then s.clearFlag e i else s).endWait e s.now250 true else s
  | _ => s

def execWaitForMet (eng : Nat) (s : State) : Host.Outcome State Fault Refusal := .next (effWaitForMet eng s)

/-- WAIT_FOR_TIMEOUT (R305). -/
def effWaitForTimeout (e : Nat) (s : State) : State :=
  let x := s.engine e
  match x.wait with
  | .cond _ _ t => if s.working ∧ x.st = .waiting ∧ t ≠ 0 ∧ t ≤ s.now250 then s.endWait e t false else s
  | _ => s

def execWaitForTimeout (eng : Nat) (s : State) : Host.Outcome State Fault Refusal := .next (effWaitForTimeout eng s)

/-! ### Timed legs -/

/-- A pin leg may drive the pin (R315). -/
def State.pinMay (s : State) (e n : Nat) : Bool := let a := s.act n; decide (n < 32 ∧ a.mode = 3 ∧ a.eng = e)

/-- LEG_SET_PIN (R307, R315). -/
def effLegSetPin (e : Nat) (s : State) : State :=
  s.runLeg e 0x03 fun s v =>
    let sh := 8 * lf v 57 56
    let mask := lf v 55 48 <<< sh
    if (List.range 32).any fun n => bit mask n && !s.pinMay e n then some (s.exception e 3)
    else s.handOver e ((s.engine e).d + lf v 19 0) (.pins mask (lf v 47 40 <<< sh))

def execLegSetPin (eng : Nat) (s : State) : Host.Outcome State Fault Refusal := .next (effLegSetPin eng s)

/-- LEG_PULSE_PIN (R307, R315). -/
def effLegPulsePin (e : Nat) (s : State) : State :=
  s.runLeg e 0x04 fun s v =>
    if !s.pinMay e (lf v 57 52) then some (s.exception e 3)
    else s.handOver e ((s.engine e).d + lf v 19 0) (.pulse (lf v 57 52) (bit v 51) (lf v 49 20) false)

def execLegPulsePin (eng : Nat) (s : State) : Host.Outcome State Fault Refusal := .next (effLegPulsePin eng s)

/-- LEG_PWM_PIN (R307, R308, R315). -/
def effLegPwmPin (e : Nat) (s : State) : State :=
  s.runLeg e 0x05 fun s v =>
    let p := lf v 49 32
    if !s.pinMay e (lf v 57 52) then some (s.exception e 3)
    else s.handOver e ((s.engine e).d + lf v 19 0)
      (.pwm (lf v 57 52) { period := 4000 * p, high := 4 * p * lf v 31 22, inverted := !bit v 51, eng := e, nextAt := 0 })

def execLegPwmPin (eng : Nat) (s : State) : Host.Outcome State Fault Refusal := .next (effLegPwmPin eng s)

/-- LEG_SEND_CAN (R314, R315, R480). -/
def effLegSendCan (e : Nat) (s : State) : State :=
  s.runLeg e 0x08 fun s v =>
    let o := s.engOwner e
    let n := lf v 57 57
    let i := lf v 47 33
    let w0 := s.leg i % 2 ^ 32
    let w1 := s.leg i / 2 ^ 32
    let len := bits w1 6 0
    let legs := ceilDiv len 8
    if !s.sliceMay o.1 o.2 9 n then some (s.exception e 3)
    else if (List.range (2 + legs)).any fun k => !s.legMay o (i + k) then some (s.exception e 2)
    else if !canOk w0 w1 then some (s.exception e 1)
    else
      let data := ((List.range legs).flatMap fun k => leBytes 8 (s.leg (i + 2 + k))).take len
      s.handOver e ((s.engine e).d + lf v 19 0) (.can n (word w0) (word w1) data)

def execLegSendCan (eng : Nat) (s : State) : Host.Outcome State Fault Refusal := .next (effLegSendCan eng s)

/-- LEG_DISP_COMMIT (R314, R315). -/
def effLegDispCommit (e : Nat) (s : State) : State :=
  s.runLeg e 0x0A fun s v =>
    let o := s.engOwner e
    if !s.sliceMay o.1 o.2 5 (lf v 57 57) then some (s.exception e 3)
    else s.handOver e ((s.engine e).d + lf v 19 0) (.disp (lf v 57 57))

def execLegDispCommit (eng : Nat) (s : State) : Host.Outcome State Fault Refusal := .next (effLegDispCommit eng s)

/-- LEG_GATE_SWITCH (R236, R314, R315). -/
def effLegGateSwitch (e : Nat) (s : State) : State :=
  s.runLeg e 0x0B fun s v =>
    let o := s.engOwner e
    let l := lf v 57 55
    let slot := lf v 54 52
    if !s.sliceMay o.1 o.2 0 l then some (s.exception e 3)
    else if slot < 4 ∧ !((s.link l).sched.gates.read GateSlot.init slot).loaded then some (s.exception e 1)
    else s.handOver e ((s.engine e).d + lf v 19 0) (.gate l slot)

def execLegGateSwitch (eng : Nat) (s : State) : Host.Outcome State Fault Refusal := .next (effLegGateSwitch eng s)

/-! ### Effect legs -/

/-- BAR0 offset of a register leg (R309). -/
def regOff (v : Nat) : Nat := (if bit v 51 then 0x100000 else 0) + 4 * lf v 50 35

/-- The words of REG_WRITE and REG_READ (Table 12.3). -/
def State.regMsg (s : State) (kind e v value : Nat) : List Word :=
  [ pack [fld 24 kind, fld 16 (s.engOwner e).2, fld 11 s.hubNo, fld 6 e], pack [fld 16 (b2n (bit v 51)), lf v 50 35], word value,
    pack [(s.engine e).rseq.toNat] ]

/-- The leg names a register of this hub. -/
def State.regLocal (s : State) (v : Nat) : Bool := bit v 52 || decide (s.hubNum = some (lf v 57 53))

/-- LEG_WRITE_REG (R309, R610). -/
def effLegWriteReg (e : Nat) (s : State) : State :=
  s.effectLeg e 0x06 fun s v =>
    let o := s.engOwner e
    if s.regLocal v then
      match s.regWrite o.1 o.2 (regOff v) (lf v 31 0) with
      | some s => s.adv e
      | none => s.exception e 3
    else
      ((s.emit (.ctrl (lf v 57 53) 0x20 (s.regMsg 0x20 e v (lf v 31 0)) [])).modEngine e fun x => { x with rseq := x.rseq + 1 }).adv e

def execLegWriteReg (eng : Nat) (s : State) : Host.Outcome State Fault Refusal := .next (effLegWriteReg eng s)

/-- The comparison of READ_CHECK (R309). -/
def readCheck (v value : Nat) : Bool :=
  let half := if bit v 34 then bits value 31 16 else bits value 15 0
  let eq := decide (half &&& lf v 31 16 = lf v 15 0)
  if bit v 33 then !eq else eq

/-- LEG_READ_CHECK (R309, R610). -/
def effLegReadCheck (e : Nat) (s : State) : State :=
  s.effectLeg e 0x07 fun s v =>
    let o := s.engOwner e
    if s.regLocal v then
      match s.regRead o.1 o.2 (regOff v) with
      | (s, some w) => s.advC e (readCheck v w.toNat)
      | (s, none) => s.exception e 3
    else
      let s := s.emit (.ctrl (lf v 57 53) 0x21 (s.regMsg 0x21 e v 0) [])
      s.modEngine e fun x => { x with st := .waiting, wait := .reg x.rseq.toNat v, rseq := x.rseq + 1 }

def execLegReadCheck (eng : Nat) (s : State) : Host.Outcome State Fault Refusal := .next (effLegReadCheck eng s)

/-- REMOTE_READ_TIMEOUT (R309). -/
def effRemoteReadTimeout (e : Nat) (s : State) : State :=
  let x := s.engine e
  match x.wait with
  | .reg _ _ => if s.working ∧ x.st = .waiting then s.exception e 5 else s
  | _ => s

def execRemoteReadTimeout (eng : Nat) (s : State) : Host.Outcome State Fault Refusal := .next (effRemoteReadTimeout eng s)

/-- LEG_SEND_MSG (R310, R311). -/
def effLegSendMsg (e : Nat) (s : State) : State :=
  s.effectLeg e 0x09 fun s v =>
    let t := lf v 56 45
    let flag := lf v 44 42
    let data := word (lf v 31 0)
    let g := s.entry t
    if bit v 57 then
      let s := s.travEvent e { event := 3, data := data, code := flag, mask := pack [fld 5 e, s.hubNo] }
      s.advC e true
    else if g.cls ≠ clsTrav ∨ g.ingress ≠ 7 ∨ g.srcEp ≠ 0x800 + e then s.exception e 3
    else if g.state ≠ gOpen then s.advC e false
    else
      let s := s.sendTunnel t false (bytesOf [pack [fld 10 e, flag], data, compactNs s.nowNs, compactSec s.nowNs])
      s.advC e true

def execLegSendMsg (eng : Nat) (s : State) : Host.Outcome State Fault Refusal := .next (effLegSendMsg eng s)

/-- LEG_MARK (R314). -/
def effLegMark (e : Nat) (s : State) : State :=
  s.effectLeg e 0x0C fun s v =>
    let s := if bit v 49 then s else s.travEvent e { event := 2, data := word (lf v 31 0), code := lf v 57 50 }
    s.adv e

def execLegMark (eng : Nat) (s : State) : Host.Outcome State Fault Refusal := .next (effLegMark eng s)

/-- A jump: the target must lie in the owner's blocks (Table 10.3). -/
def State.jump (s : State) (e target : Nat) : State :=
  if s.legMay (s.engOwner e) target then s.modEngine e fun x => { x with pc := target } else s.exception e 1

/-- LEG_LOOP (R312). -/
def effLegLoop (e : Nat) (s : State) : State :=
  s.runLeg e 0x0D fun s v =>
    let x := s.engine e
    let k := lf v 57 56
    let active := bit x.ctrAct.toNat k
    let n := if active then x.ctrs.read 0 k else lf v 31 0
    let on : BitVec 4 := x.ctrAct ||| BitVec.ofNat 4 (2 ^ k)
    let set (m : Nat) (act : BitVec 4) : State := s.setEngine e { x with ctrs := x.ctrs.write 0 k m, ctrAct := act }
    some <|
      if n = 0 then (set 0 on).jump e (lf v 46 32)
      else if n = 1 then (set 1 (on &&& ~~~(BitVec.ofNat 4 (2 ^ k)))).adv e
      else (set (n - 1) on).jump e (lf v 46 32)

def execLegLoop (eng : Nat) (s : State) : Host.Outcome State Fault Refusal := .next (effLegLoop eng s)

/-- LEG_BRANCH (R312). -/
def effLegBranch (e : Nat) (s : State) : State :=
  s.runLeg e 0x0E fun s v =>
    let x := s.engine e
    let set := bit x.flags.toNat (lf v 54 52)
    let go := match lf v 57 55 with
      | 0 => true
      | 1 => x.c
      | 2 => !x.c
      | 3 => set
      | _ => !set
    let s := if lf v 57 55 = 3 ∧ set then s.clearFlag e (lf v 54 52) else s
    some (if go then s.jump e (lf v 46 32) else s.adv e)

def execLegBranch (eng : Nat) (s : State) : Host.Outcome State Fault Refusal := .next (effLegBranch eng s)

/-- Engine `n` starts at a leg with another's settings, its REF and D at an instant (R313). -/
def State.startEngine (s : State) (x : Engine) (n pc at250 : Nat) : State :=
  (s.wakeEngine n .running).modEngine n fun y => { y with
    pc := pc, ref := at250, d := at250, lead := x.lead, latePol := x.latePol, stepPause := x.stepPause, excSafe := x.excSafe }

/-- LEG_START_ENGINE (R313). -/
def effLegStartEngine (e : Nat) (s : State) : State :=
  s.effectLeg e 0x0F fun s v =>
    let n := lf v 57 53
    let x := s.engine e
    if s.engOwner n ≠ s.engOwner e then s.exception e 3
    else if (s.engine n).st ≠ .idle then s.exception e 6
    else
      (s.startEngine x n (lf v 46 32) (if bit v 52 then x.d else s.now250)).adv e

def execLegStartEngine (eng : Nat) (s : State) : Host.Outcome State Fault Refusal := .next (effLegStartEngine eng s)

/-! ### Messages -/

/-- REG_WRITE (R309, R610). -/
def effRegWrite (ws : List Word) (s : State) : State :=
  let w0 := nthW ws 0
  let w1 := nthW ws 1
  let off := (if bit w1 16 then 0x100000 else 0) + 4 * (w1 % 65536)
  if !s.coreOn then s
  else
    match s.regWrite (bits w0 15 11) (bits w0 21 16) off (nthW ws 2) with
    | some s => s
    | none =>
      s.report (bits w0 15 11) (bits w0 21 16) 7 stDenied (bits w0 10 6)
        [pack [fld 8 (bits w0 10 6), 9], word off, 0, word s.hubNo]

def execRegWrite (ws : List Word) (s : State) : Host.Outcome State Fault Refusal := .next (effRegWrite ws s)

/-- REG_READ (R309, R610). -/
def effRegRead (ws : List Word) (s : State) : State :=
  let w0 := nthW ws 0
  let w1 := nthW ws 1
  let off := (if bit w1 16 then 0x100000 else 0) + 4 * (w1 % 65536)
  if !s.coreOn then s
  else
    let (s, v) := s.regRead (bits w0 15 11) (bits w0 21 16) off
    let st := if v.isSome then stOk else stDenied
    s.emit (.ctrl (bits w0 15 11) 0x22
      [pack [fld 24 0x22, fld 16 st, fld 11 s.hubNo], word w1, v.getD 0, pack [fld 8 (bits w0 10 6), nthW ws 3 % 256]] [])

def execRegRead (ws : List Word) (s : State) : Host.Outcome State Fault Refusal := .next (effRegRead ws s)

/-- REG_REPLY (R309). -/
def effRegReply (ws : List Word) (s : State) : State :=
  let e := bits (nthW ws 3) 12 8
  let x := s.engine e
  match x.wait with
  | .reg q v =>
    if !s.working ∨ x.st ≠ .waiting ∨ q ≠ nthW ws 3 % 256 then s
    else if bits (nthW ws 0) 23 16 ≠ stOk then s.exception e 3
    else (s.setEngine e { x with st := .running, wait := .none, c := readCheck v (nthW ws 2) }).adv e
  | _ => s

def execRegReply (ws : List Word) (s : State) : Host.Outcome State Fault Refusal := .next (effRegReply ws s)

/-- TRAV_MESSAGE (R311). -/
def effTravMessage (tid src : Nat) (bytes : List Byte) (s : State) : State :=
  let g := s.entry tid
  let w0 := fromLe (bytes.take 4)
  let data := word (fromLe ((bytes.drop 4).take 4))
  let flag := bits w0 2 0
  if !s.coreOn ∨ g.state = gClosed ∨ !g.loc ∨ g.cls ≠ clsTrav ∨ bytes.length ≠ 16 ∨ w0 &&& (2 ^ 32 - 1 - mk 15 10 - mk 2 0) ≠ 0 then s
  else
    match epSlice g.dstEp with
    | some k =>
      s.report s.selfNo k 7 stOk 0
        [pack [3], data, pack [fld 24 flag], pack [fld 10 (b2n (bit w0 15)), fld 5 (bits w0 14 10), src]]
    | none =>
      if epBlock g.dstEp ≠ 8 then s
      else s.modEngine (epIndex g.dstEp) fun x => { x with flags := x.flags ||| BitVec.ofNat 8 (2 ^ flag), msg := data }

def execTravMessage (tid src : Nat) (bytes : List Byte) (s : State) : Host.Outcome State Fault Refusal :=
  .next (effTravMessage tid src bytes s)

/-! ### Tree-wide launches -/

/-- Engines of a mask. -/
def maskEngines (m : Nat) : List Nat := (List.range 32).filter fun e => bit m e

/-- The requesting slice owns the engine or holds it (R322). -/
def State.engMay (s : State) (h k e : Nat) : Bool := decide (s.engOwner e = (h, k)) || s.sliceMay h k 1 e

/-- The status a hub answers PREPARE with (R322). -/
def State.prepareStatus (s : State) (id : BitVec 8) (es : List Nat) (h k : Nat) : Nat :=
  let one (e : Nat) : Option Nat :=
    let x := s.engine e
    if x.st ≠ .idle ∧ !(x.st = .prepared ∧ x.launchId = some id) then some stBusy
    else if !x.hasEntry then some stBadParam else none
  if s.ret.mode ≠ .field ∨ (!s.isRoot ∧ s.time.st ≠ .locked) then stWrongMode
  else if es.any fun e => !s.engMay h k e then stNotGranted
  else (es.filterMap one).headD stOk

/-- PREPARE (R322, R325). -/
def effPrepare (ws : List Word) (s : State) : State :=
  let id := BitVec.ofNat 8 (bits (nthW ws 0) 23 16)
  let es := maskEngines (nthW ws 1)
  let h := bits (nthW ws 4) 4 0
  let k := bits (nthW ws 4) 10 5
  let w5 := nthW ws 5
  let due := 4 * resolveCompact s.nowNs (nthW ws 2) (nthW ws 3)
  let st := s.prepareStatus id es h k
  if !s.coreOn then s
  else if st ≠ stOk then s.launchReply 0x19 st ws
  else
    let set (s : State) (e : Nat) : State :=
      (if (s.engine e).st = .idle then s.wakeEngine e .prepared else s).modEngine e fun x => { x with
        launchId := some id, launchAt := due, lead := bits w5 7 0, latePol := bits w5 10 9, stepPause := bit w5 8, excSafe := bit w5 11 }
    let s := es.foldl set s
    let p : PrepRec := { id := id, mask := BitVec.ofNat 32 (nthW ws 1), due := due, rhub := h, rslice := k, w5 := word w5, committed := false }
    ({ s with trav := { s.trav with prep := p :: s.trav.prep.filter fun q => decide (q.id ≠ id) } }).launchReply 0x19 stOk ws

def execPrepare (ws : List Word) (s : State) : Host.Outcome State Fault Refusal := .next (effPrepare ws s)

/-- Every named hub is ready: COMMIT, and the command completes (R322). -/
def State.tryCommit (s : State) (id : BitVec 8) : State :=
  match s.launchOf id with
  | none => s
  | some x =>
    if x.committed ∨ x.due < s.now250 + 200000 ∨ !(x.hubs.all fun h => x.ready.contains h) then s
    else
      let s := x.hubs.foldl (fun s h => s.sendLaunch x 0x1A h) (s.setLaunch { x with committed := true })
      let s := if x.hubs = [] then s.dropLaunch id else s
      s.complete x.cmd stOk x.result

/-- READY (R322, R323, R325). -/
def effReady (ws : List Word) (s : State) : State :=
  let id := BitVec.ofNat 8 (bits (nthW ws 0) 23 16)
  let st := bits (nthW ws 0) 15 8
  let h := bits (nthW ws 0) 4 0
  match s.launchOf id with
  | none => s
  | some x =>
    if !s.coreOn ∨ x.committed ∨ !x.hubs.contains h then s
    else if st ≠ stOk then s.abortLaunch { x with refused := x.refused ++ [(h, st)] }
    else (s.setLaunch { x with ready := if x.ready.contains h then x.ready else h :: x.ready }).tryCommit id

def execReady (ws : List Word) (s : State) : Host.Outcome State Fault Refusal := .next (effReady ws s)

/-- Prepared engines return to IDLE, with ABORTED to their owners: all, or those the requesting slice does not own
(R323, R324). -/
def State.unprepare (s : State) (p : PrepRec) (status : Nat) (all : Bool) : State :=
  let one (s : State) (e : Nat) : State :=
    let x := s.engine e
    if x.st ≠ .prepared ∨ x.launchId ≠ some p.id then s
    else
      let s := s.setEngine e { x with st := .idle, launchId := none }
      if all || decide ((x.ownerHub, x.ownerSlice) ≠ (p.rhub, p.rslice)) then s.abortedEvent e status p.id.toNat else s
  (maskEngines p.mask.toNat).foldl one { s with trav := { s.trav with prep := s.trav.prep.filter fun q => decide (q.id ≠ p.id) } }

/-- COMMIT (R322, R325): one that comes after T - 20 us finds the engines returned to IDLE (R324). -/
def effCommit (ws : List Word) (s : State) : State :=
  let id := BitVec.ofNat 8 (bits (nthW ws 0) 23 16)
  match s.trav.prep.find? fun p => decide (p.id = id) with
  | none => s
  | some p =>
    if !s.coreOn ∨ p.committed then s
    else if p.due < s.now250 + 80000 then s.unprepare p stTimeout true
    else
      let s := (maskEngines p.mask.toNat).foldl (fun s e => s.modEngine e fun x =>
        if x.st = .prepared ∧ x.launchId = some id then { x with st := .armed } else x) s
      { s with trav := { s.trav with prep := s.trav.prep.map fun q => if q.id = id then { q with committed := true } else q } }

def execCommit (ws : List Word) (s : State) : Host.Outcome State Fault Refusal := .next (effCommit ws s)

/-- ABORT (R323, R325). -/
def effAbort (ws : List Word) (s : State) : State :=
  let id := BitVec.ofNat 8 (bits (nthW ws 0) 23 16)
  match s.trav.prep.find? fun p => decide (p.id = id) with
  | none => s
  | some p => if !s.coreOn ∨ p.committed then s else s.unprepare p stAborted false

def execAbort (ws : List Word) (s : State) : Host.Outcome State Fault Refusal := .next (effAbort ws s)

/-- LAUNCHED (R324, R325). -/
def effLaunched (ws : List Word) (s : State) : State :=
  let id := BitVec.ofNat 8 (bits (nthW ws 0) 23 16)
  let h := bits (nthW ws 0) 4 0
  match s.launchOf id with
  | none => s
  | some x =>
    if !s.coreOn ∨ !x.committed ∨ !x.hubs.contains h then s
    else
      let l := if x.launched.contains h then x.launched else h :: x.launched
      if x.hubs.all fun n => l.contains n then s.dropLaunch id else s.setLaunch { x with launched := l }

def execLaunched (ws : List Word) (s : State) : Host.Outcome State Fault Refusal := .next (effLaunched ws s)

/-- LAUNCH_READY_DEADLINE (R323). -/
def effLaunchReadyDeadline (id : BitVec 8) (s : State) : State :=
  match s.launchOf id with
  | none => s
  | some x => if s.coreOn ∧ !x.committed ∧ x.due ≤ s.now250 + 200000 then s.abortLaunch x else s

def execLaunchReadyDeadline (id : BitVec 8) (s : State) : Host.Outcome State Fault Refusal := .next (effLaunchReadyDeadline id s)

/-- PREPARED_TIMEOUT (R324). -/
def effPreparedTimeout (id : BitVec 8) (s : State) : State :=
  match s.trav.prep.find? fun p => decide (p.id = id) with
  | none => s
  | some p => if s.coreOn ∧ !p.committed ∧ p.due ≤ s.now250 + 80000 then s.unprepare p stTimeout true else s

def execPreparedTimeout (id : BitVec 8) (s : State) : Host.Outcome State Fault Refusal := .next (effPreparedTimeout id s)

/-- LAUNCH_PARTIAL_TIMEOUT (R324, Table 10.9). -/
def effLaunchPartialTimeout (id : BitVec 8) (s : State) : State :=
  match s.launchOf id with
  | none => s
  | some x =>
    if s.coreOn ∧ x.committed ∧ x.due + 4000000 ≤ s.now250 then
      let missing := x.hubs.filter fun h => !x.launched.contains h
      (s.dropLaunch id).report (s.cmdHub x.cmd) x.cmd.slice 7 stLinkLost 0
        [pack [8], 0, pack [fld 16 id.toNat], word (sumN (missing.map fun h => 2 ^ h))]
    else s

def execLaunchPartialTimeout (id : BitVec 8) (s : State) : Host.Outcome State Fault Refusal := .next (effLaunchPartialTimeout id s)

/-! ### Pins -/

/-- ACT_INPUT_EDGE (R284, R305, R327). -/
def effActInputEdge (pin : Nat) (rising : Bool) (since : Nat) (s : State) : State :=
  let a := s.act pin
  if !s.working ∨ 32 ≤ pin ∨ a.mode ≠ 4 then s
  else
    let at250 := s.ago since
    let (s, p, _) := s.stampEdge a.stamp (0x20 + pin) since rising
    (s.setAct pin { a with input := rising, stamp := p }).feedEdge (if rising then 1 else 2) pin at250

def execActInputEdge (pin : Nat) (rising : Bool) (since : Nat) (s : State) : Host.Outcome State Fault Refusal :=
  .next (effActInputEdge pin rising since s)

/-! ### Commands -/

/-- TRAV_QUERY words (Table 10.7). -/
def State.engWords (s : State) (e : Nat) : List Word :=
  let x := s.engine e
  let ns := x.d / 4
  [ pack [fld 17 x.pc, fld 14 (engCode x.st), fld 13 (b2n x.c), fld 8 e, x.gen.toNat],
    pack [fld 30 x.latePol, fld 23 x.lead, fld 15 x.flags.toNat, x.entry], word (ns % 1000000000),
    pack [fld 16 x.lateCnt, fld 8 x.lastExc, ns / 1000000000 % 256] ]

/-- The legs a TRAV_LOAD carries. -/
def loadLegs (c : Cmd) : List Nat :=
  let n := c.f 4 28 16
  if c.indirect then (List.range n).map fun i => fromLe ((c.data.drop (8 * i)).take 8)
  else (List.range n).map fun i => c.w (6 + 2 * i) + 2 ^ 32 * c.w (7 + 2 * i)

def layTravLoad (c : Cmd) : Layout :=
  let n := c.f 4 28 16
  { ind := true
    masks := [(4, mk 29 16 + mk 14 0), (5, mk 30 16 + mk 4 0)] ++
      (if c.indirect then [(6, mkAll), (7, mkAll)] else (List.range (2 * min n 5)).map fun i => (6 + i, mkAll))
    enc := decide (n ≤ 4096) && (c.indirect || decide (n ≤ 5))
    inAddr := c.w64 6, inLen := 8 * n }

/-- TRAV_LOAD (R296, R329, R332). -/
def execTravLoad (c : Cmd) (s : State) : Host.Outcome State Fault Refusal :=
  .next <| s.runCmd c 0x0700 (layTravLoad c) false fun s =>
    let start := c.f 4 14 0
    let n := c.f 4 28 16
    let e := c.f 5 4 0
    let legs := loadLegs c
    let blocks := if n = 0 then [] else (List.range 128).filter fun b => decide (start / 256 ≤ b ∧ b ≤ (start + n - 1) / 256)
    if (blocks.any fun b => !s.mayUse c 2 b) ∨ (c.b 4 29 ∧ !s.mayUse c 1 e) then s.complete c stNotGranted []
    else if 32768 < start + n ∨ !(legs.all legOk) then s.complete c stBadParam []
    else if c.b 4 29 ∧ (s.engine e).st ≠ .idle then s.complete c stBusy []
    else
      let put (t : Tab (BitVec 64)) (p : Nat × Nat) : Tab (BitVec 64) := t.write 0 (start + p.2) (BitVec.ofNat 64 p.1)
      let s := { s with trav := { s.trav with
        legs := legs.zipIdx.foldl put s.trav.legs
        badLegs := s.trav.badLegs.filter fun i => decide (i < start ∨ start + n ≤ i) } }
      let s := if c.b 4 29 then s.modEngine e fun x => { x with entry := c.f 5 30 16, hasEntry := true } else s
      s.complete c stOk []

def layTravReadLegs (c : Cmd) : Layout :=
  let n := c.f 4 28 16
  { ind := true, masks := [(4, mk 28 16 + mk 14 0)] ++ (if c.indirect then [(5, mkAll), (6, mkAll)] else [])
    enc := if c.indirect then decide (n ≤ 4096) else decide (1 ≤ n ∧ n ≤ 2), outAddr := c.w64 5 }

/-- TRAV_READ_LEGS (R329, R333). -/
def execTravReadLegs (c : Cmd) (s : State) : Host.Outcome State Fault Refusal :=
  .next <| s.runCmd c 0x0704 (layTravReadLegs c) false fun s =>
    let start := c.f 4 14 0
    let n := c.f 4 28 16
    let legs := (List.range n).map fun i => s.leg (start + i)
    if 32768 < start + n then s.complete c stBadParam []
    else if c.indirect then (s.output c (c.w64 5) (legs.flatMap (leBytes 8))).complete c stOk []
    else s.complete c stOk (legs.flatMap fun v => [word v, word (v / 2 ^ 32)])

def layTravQuery (_ : Cmd) : Layout := { masks := [(4, mk 4 0)] }

/-- TRAV_QUERY (R329, R334). -/
def execTravQuery (c : Cmd) (s : State) : Host.Outcome State Fault Refusal :=
  .next <| s.runCmd c 0x0703 (layTravQuery c) true fun s => s.complete c stOk (s.engWords (c.f 4 4 0))

def layTravArm (c : Cmd) : Layout :=
  let tree := c.b 4 31
  let lead := c.f 4 27 21
  { ind := tree
    masks := [(4, mk 31 18), (5, mkAll), (6, mkAll), (8, mkAll)] ++ (if tree then [(7, mkAll)] else [])
      ++ (if c.indirect then [(9, mkAll)] else [])
    enc := c.b 4 19 || (decide (c.f 4 29 28 < 3) && decide (1 ≤ lead ∧ lead ≤ 100))
    inAddr := c.w64 8, inLen := 128 }

/-- The engine settings of a TRAV_ARM (R330). -/
def Engine.settings (x : Engine) (c : Cmd) : Engine :=
  { x with lead := c.f 4 27 21, latePol := c.f 4 29 28, stepPause := c.b 4 30, excSafe := c.b 4 20 }

/-- A paused engine goes on (R318). -/
def State.resumeEngine (s : State) (e : Nat) (rebase : Bool) : State :=
  let x := s.engine e
  let mv (n : Nat) : Nat := if rebase then moved n x.stepBy else n
  if x.st ≠ .paused then s
  else s.setEngine e { x with
    st := if x.paused = .armed then .armed else .running, paused := .idle, stepBy := 0
    ref := mv x.ref, d := mv x.d, evt := mv x.evt }

/-- A tree-wide launch begins; the first since the core reset draws its LAUNCHID (R321, R322; log entry 9). -/
def State.treeLaunch (s : State) (c : Cmd) (t : Nat) : State :=
  let hubs := (List.range 32).filter fun h => bit (c.w 7) h
  let masks : Tab (BitVec 32) := hubs.foldl (fun m h =>
    m.write 0 h (if c.indirect then BitVec.ofNat 32 (fromLe ((c.data.drop (4 * h)).take 4)) else BitVec.ofNat 32 (c.w 8))) []
  if !s.isRoot ∨ 4 * t < s.now250 + 800000 ∨ 20 < c.f 4 27 21 then s.complete c stBadParam []
  else if hubs.any fun h => !bit s.inUse.toNat h then s.complete c stNotPresent []
  else if 4 ≤ s.trav.launches.length then s.complete c stNoResource []
  else if s.trav.nextId.isNone ∧ !s.keys.entropyOk then s.complete c stBusy []
  else
    let id := s.trav.nextId.getD (s.freeVal 8)
    let w5 := pack [fld 11 (b2n (c.b 4 20)), fld 9 (c.f 4 29 28), fld 8 (b2n (c.b 4 30)), c.f 4 27 21]
    let x : Launch := { id := id, hubs := hubs, masks := masks, due := 4 * t, w5 := w5, ready := [], refused := [], launched := [],
                        committed := false, cmd := c }
    let s := if s.trav.nextId.isNone then s.drew else s
    let s := { s with trav := { s.trav with nextId := some (id + 1), launches := s.trav.launches ++ [x] } }
    (hubs.foldl (fun s h => s.sendLaunch x 0x18 h) s).tryCommit id

/-- TRAV_ARM (R318, R321, R329, R330). -/
def execTravArm (c : Cmd) (s : State) : Host.Outcome State Fault Refusal :=
  .next <| s.runCmd c 0x0701 (layTravArm c) false fun s =>
    let es := maskEngines (c.w 8)
    let zero := decide (c.w 5 = 0 ∧ c.w 6 = 0)
    let one (e : Nat) : Option Nat :=
      if (s.engine e).st ≠ .idle then some stBusy else if !(s.engine e).hasEntry then some stBadParam else none
    if c.b 4 31 ∧ !c.b 4 19 then
      match s.compactField c 5 with
      | some t => s.treeLaunch c t
      | none => s.complete c stBadParam []
    else if es.any fun e => !s.mayUse c 1 e && decide (s.engOwner e ≠ (s.cmdHub c, c.slice)) then s.complete c stNotGranted []
    else if c.b 4 19 then (es.foldl (fun s e => s.resumeEngine e (c.b 4 18)) s).complete c stOk []
    else
      match s.compactField c 5, es.filterMap one with
      | none, _ => s.complete c stBadParam []
      | some _, st :: _ => s.complete c st []
      | some t, [] =>
        if !zero ∧ 4 * t < s.now250 + 4000 * c.f 4 27 21 then s.complete c stBadParam []
        else if zero then
          (es.foldl (fun s e => ((s.wakeEngine e .running).modEngine e fun x => x.settings c).launchEngine e s.now250) s).complete c stOk []
        else
          (es.foldl (fun s e => (s.wakeEngine e .armed).modEngine e fun x => { x.settings c with launchAt := 4 * t }) s).complete c stOk []

def layTravAbort (_ : Cmd) : Layout := { masks := [(4, mk 20 12 + mk 7 0), (5, mk 7 0)] }

/-- TRAV_ABORT (R299, R323, R329, R331). -/
def execTravAbort (c : Cmd) (s : State) : Host.Outcome State Fault Refusal :=
  .next <| s.runCmd c 0x0702 (layTravAbort c) false fun s =>
    let me := (s.cmdHub c, c.slice)
    let stop (s : State) (e : Nat) : State :=
      let o := s.engOwner e
      if (s.engine e).st = .idle then s.stopEngine e (c.b 4 6)
      else
        let t := s.abortEngine e (c.b 4 6)
        if o = me then t else t.abortedEvent e stAborted (s.launchNo e)
    let e := c.f 4 4 0
    if c.b 4 7 then
      if !s.isRoot then s.complete c stBadParam []
      else
        match s.launchOf (BitVec.ofNat 8 (c.f 5 7 0)) with
        | none => s.complete c stNotPresent []
        | some x =>
          if !(s.authZ c || decide (s.cmdHub x.cmd = s.cmdHub c ∧ x.cmd.slice = c.slice)) then s.complete c stNotGranted []
          else if x.committed then s.complete c stBusy []
          else (s.abortLaunch x).complete c stOk []
    else if c.b 4 5 then
      (((List.range 32).filter fun n => decide (s.engOwner n = me)).foldl stop s).complete c stOk []
    else if !s.mayUse c 1 e ∧ s.engOwner e ≠ me then s.complete c stNotGranted []
    else if !genOk (c.b 4 20) (c.f 4 19 12) (s.engine e).gen then s.complete c stStaleGen (s.engWords e)
    else (stop s e).complete c stOk []

def layTravActCfg (c : Cmd) : Layout :=
  { masks := [(4, mk 18 11 + mk 9 0), (5, mkAll)], enc := decide (c.f 4 7 5 < 5) }

/-- One pin configured (R326 to R328, R335). A PWM output stops at a change of the mode alone (R308). The level at the ball of a
pin that becomes an INPUT is a free value: no row carries it (log entry 38). -/
def State.cfgPin (s : State) (c : Cmd) (n : Nat) : State :=
  let a := s.act n
  let mode := c.f 4 7 5
  let level := if mode = 2 then c.b 4 9 else if mode = 3 then (s.pinDrive n).getD a.level else a.level
  let st := c.f 4 17 16
  let same := decide (mode = a.mode)
  let enters := decide (mode = 4) && !same
  let was := s.pinDrive n
  let input := if enters then decide (s.freeVal 1 = 1) else a.input
  let s := if enters then s.drew else s
  let s := s.setAct n { a with
    mode := mode, od := c.b 4 8, level := level, eng := c.f 4 15 11, input := input
    pwm := if same then a.pwm else none, pwmNext := if same then a.pwmNext else none, safe := same && a.safe
    stamp := { a.stamp with edge := st, once := c.b 4 18, slice := c.slice, hub := s.cmdHub c, seq := 0 } }
  if !s.working ∨ s.pinDrive n = was then s
  else
    match s.pinDrive n with
    | some lv => s.emit (.edge n lv s.now250)
    | none => s

/-- TRAV_ACT_CFG (R328, R329, R335). -/
def execTravActCfg (c : Cmd) (s : State) : Host.Outcome State Fault Refusal :=
  .next <| s.runCmd c 0x0705 (layTravActCfg c) false fun s =>
    let pins := if c.w 5 = 0 then [c.f 4 4 0] else (List.range 32).filter fun n => bit (c.w 5) n
    let e := c.f 4 15 11
    let mode := c.f 4 7 5
    let busy (n : Nat) : Bool :=
      let a := s.act n
      decide (a.mode = 3) && decide ((s.engine a.eng).st ≠ .idle) && decide (mode ≠ 3 ∨ a.eng ≠ e)
    if pins.any fun n => !s.mayUse c 3 n then s.complete c stNotGranted []
    else if mode = 3 ∧ s.engOwner e ≠ (s.cmdHub c, c.slice) then s.complete c stBadParam []
    else if pins.any busy then s.complete c stBusy []
    else (pins.foldl (fun s n => s.cfgPin c n) s).complete c stOk []

end Sys2Proof.Machine
end

