-- ==== Sys2Proof/Machine/Host.lean ====
section
/-! DEFINITION. Host ports, slices, grants and queues: the SLICE_ and QUEUE_ commands and what follows from them
(R337 to R366; log entry 44). -/

namespace Sys2Proof.Machine

/-- HOST_PORT_POWER_STATE (R340, R341, R357, R475, R496, R607). -/
def effHostPortPowerState (port : Nat) (up d0 memEn pasidEn funcMask : Bool) (mps mrrs : Nat) (s : State) : State :=
  if !s.hostPortUsed port ∨ !s.coreOn then s
  else
    let h := s.hport port
    let s := s.setHport port { h with up := up, d0 := d0, memEn := memEn, pasidEn := pasidEn, funcMask := funcMask, mps := mps, mrrs := mrrs }
    let s := ((h.pba.foldl (fun s n => s.msixUnmask port n) s).flushPort port).present
    (List.range 64).foldl (fun s k => s.sendPosted k) s

def execHostPortPowerState (port : Nat) (up d0 memEn pasidEn funcMask : Bool) (mps mrrs : Nat) (s : State) :
    Host.Outcome State Fault Refusal :=
  .next (effHostPortPowerState port up d0 memEn pasidEn funcMask mps mrrs s)

/-! ### Slices -/

/-- What the commands that name a slice share (R345, R366): `own`: also from the slice itself; `taker`: also from the
holder of its takeover; `gen`: GEN is checked; `deny0`: slice 0 is refused as it is named (R343). -/
def State.sliceCmd (s : State) (c : Cmd) (own taker gen : Bool) (deny0 : Bool) (body : State → Nat → State) : State :=
  let k := c.f 4 5 0
  let may := s.authZ c || (own && c.here && !c.sys && decide (c.slice = k)) || (taker && s.mayUse c 0xB k)
  if !may then s.doneSlice c k stNotGranted
  else if deny0 ∧ k = 0 then s.doneSlice c k stDenied
  else if gen ∧ !genOk (c.b 4 24) (c.f 4 23 16) (s.slice k).gen then s.doneSlice c k stStaleGen
  else if (s.slice k).state = 0 then s.doneSlice c k stWrongMode
  else body s k

/-- DRAIN is out of range (R349, R360). -/
def drainBad (c : Cmd) : Bool := decide (10000 < c.w 5)

def laySliceCreate (_ : Cmd) : Layout := { masks := [(4, mk 24 16 + mk 9 8 + mk 5 0), (5, mk 19 0)] }

/-- SLICE_CREATE (R342 to R346, R366, R615; a QUOTA outside its range is refused under R3). -/
def execSliceCreate (c : Cmd) (s : State) : Host.Outcome State Fault Refusal :=
  .next <| s.runCmd c 0x0000 (laySliceCreate c) false fun s =>
    let k := c.f 4 5 0
    let x := s.slice k
    let quota := c.f 4 24 16
    if !s.authZ c then s.doneSlice c k stNotGranted
    else if x.state ≠ 0 then s.doneSlice c k stBusy
    else if !s.hostPortUsed (c.f 4 8 8) then s.doneSlice c k stNotPresent
    else if quota = 0 ∨ 256 < quota ∨ s.pasidTaken k (c.f 4 8 8) (bindOf c) then s.doneSlice c k stBadParam
    else
      let s := s.setSlice k { Slice.init with
        state := 1, gen := x.gen + 1, port := c.f 4 8 8, pasid := bindOf c, bound := true, quota := quota }
      s.doneSlice c k stOk

/-- Every queue disabled, bases and sizes kept (R358, R614, R615). -/
def Slice.noQueues (x : Slice) : Slice :=
  { x with
    sqs := x.sqs.mapAll SubQ.init fun _ q => { q with enable := false, err := 0 }
    evq := { x.evq with enable := false, err := 0 } }

/-- The command of an entry has started executing (R358, R382). -/
def Pend.started (p : Pend) : Bool :=
  match p.stage with
  | .exec => true
  | .sent => true
  | .input => true
  | .ready => decide (p.inLen ≠ 0)
  | .fence => false
  | .timed => false

/-- A slice reset (R344, R358). -/
def State.resetSlice (s : State) (k : Nat) (queues : Bool) : State :=
  let x := s.slice k
  let x := if queues then x.noQueues else x
  let s := s.setSlice k { x with
    gen := x.gen + 1, held := [], state := if x.state = 3 then 2 else x.state, cookie := none }
  let keep := (s.host.pend.filter fun p => decide (p.cmd.slice ≠ k) || p.started).map fun p =>
    if p.cmd.slice = k then { p with stale := true } else p
  ({ s with host := { s.host with pend := keep } }).kick

def laySliceReset (_ : Cmd) : Layout := { masks := [(4, mk 25 16 + mk 5 0)] }

/-- SLICE_RESET (R344, R358, R366). -/
def execSliceReset (c : Cmd) (s : State) : Host.Outcome State Fault Refusal :=
  .next <| s.runCmd c 0x0002 (laySliceReset c) false fun s =>
    s.sliceCmd c true true true false fun s k => (s.resetSlice k (c.b 4 25)).doneSlice c k stOk

/-! ### Grants and revokes -/

/-- Resource kinds: the highest index (Table 11.4); USB ports count from 1. -/
def kindMax (kind : Nat) : Nat := (([4, 31, 127, 31, 6, 1, 3, 12, 3, 1, 63, 63] : List Nat)[kind]?).getD 0

def kindOkIdx (kind idx : Nat) : Bool := decide (kind < 12 ∧ idx ≤ kindMax kind) && (decide (kind ≠ 7) || decide (1 ≤ idx))

/-- SLICE_GRANT or SLICE_REVOKE completes: the holder it names, whatever the status (R345, R366). -/
def State.doneGrant (s : State) (c : Cmd) (st : Nat) : State := s.complete c st (grantWords false 0 (c.f 4 28 24) (c.f 4 17 12))

/-- What the two commands share: from slice 0, and a holder on this hub is not FREE (R366). -/
def State.grantCmd (s : State) (c : Cmd) (body : State → State) : State :=
  if !s.authZ c then s.doneGrant c stNotGranted
  else if s.hubNum = some (c.f 4 28 24) ∧ (s.slice (c.f 4 17 12)).state = 0 then s.doneGrant c stWrongMode
  else body s

def laySliceGrant (c : Cmd) : Layout := { masks := [(4, mk 28 24 + mk 17 0)], enc := kindOkIdx (c.f 4 11 8) (c.f 4 7 0) }

/-- SLICE_GRANT (R347, R348, R366). Slice 0 of the hub holds what nobody else does, and needs no entry. -/
def execSliceGrant (c : Cmd) (s : State) : Host.Outcome State Fault Refusal :=
  .next <| s.runCmd c 0x0003 (laySliceGrant c) false fun s =>
    let kind := c.f 4 11 8
    let idx := c.f 4 7 0
    let hub := c.f 4 28 24
    let slice := c.f 4 17 12
    let hold := s.host.grants.filter fun g => decide (g.kind = kind ∧ g.index = idx)
    s.grantCmd c fun s =>
      if hold.any fun g => decide (g.hub = hub ∧ g.slice = slice) && !g.revoking then s.doneGrant c stOk
      else if kind = 0 ∧ 8 ≤ hold.length then s.doneGrant c stLimit
      else if (kind ≠ 0 ∧ hold ≠ []) ∨ hold.any fun g => decide (g.hub = hub ∧ g.slice = slice) then s.doneGrant c stBusy
      else
        let s := if s.isZ hub slice then s
          else { s with host := { s.host with
            grants := s.host.grants ++ [{ kind := kind, index := idx, hub := hub, slice := slice, revoking := false }] } }
        s.doneGrant c stOk

/-- Engines of a holder that run in a leg block. -/
def State.inBlock (s : State) (g : Grant) : List Nat :=
  (List.range 32).filter fun e => decide ((s.engine e).st ≠ .idle ∧ (s.engine e).pc / 256 = g.index ∧ s.engOwner e = (g.hub, g.slice))

/-- The resource has drained (Table 11.4). -/
def State.drained (s : State) (g : Grant) : Bool :=
  let his (c : Cmd) : Bool := decide (s.cmdHub c = g.hub ∧ c.slice = g.slice)
  match g.kind with
  | 0 => let x := (s.link g.index).lane; !(x.linkCmd ++ x.wakeCmd).any his
  | 1 => decide ((s.engine g.index).st = .idle)
  | 2 => decide (s.inBlock g = [])
  | 3 => decide ((s.act g.index).mode ≠ 3 ∨ (s.engine (s.act g.index).eng).st = .idle)
  | _ => true

/-- An engine stopped at the limit (R316, R349). -/
def State.forceEngine (s : State) (safe : Bool) (e : Nat) : State :=
  if (s.engine e).st = .idle then s else (s.abortEngine e safe).abortedEvent e stAborted (s.launchNo e)

/-- What the revoke does to the resource once it has drained or at the limit (Table 11.4). -/
def State.seize (s : State) (g : Grant) (safe : Bool) : State :=
  let i := g.index
  match g.kind with
  | 1 => s.forceEngine safe i
  | 2 => (s.inBlock g).foldl (fun s e => s.forceEngine safe e) s
  | 3 =>
    let s := s.setAct i { s.act i with mode := 0, pwm := none, pwmNext := none }
    if !s.working then s
    else
      match s.pinDrive i with
      | some lv => s.emit (.edge i lv s.now250)
      | none => s
  | 4 =>
    if i < 5 then s.setStamp i { s.stamp i with edge := 0 }
    else if i = 5 then s.setTimeOut 0 { s.time.ppsOut with mode := 0 }
    else s.setTimeOut 1 { s.time.timeOut with mode := 0 }
  | 5 => s.modHead i fun h => { h with staged := h.timing, stagedUc := h.uc, stagedLine := h.line, regNext := [] }
  | 9 =>
    let x := s.can i
    let his (q : CanQ) : Bool := decide (q.owner = some (g.hub, g.slice))
    let mark (o : Nat × CanQ) : Nat × CanQ := if o.1 = 1 ∧ his o.2 then (o.1, { o.2 with dropped := true }) else o
    (s.setCan i { x with timedQ := x.timedQ.filter fun q => !his q, offered := x.offered.map mark }).abortSends (x.timedQ.filter his)
  | 0xA => s.destroySlot i true none
  | _ => s

/-- A revoke ends: at the limit the resource is seized, the grant goes, and the holder's tunnels there close; a destroy that waited
for it goes on (R349, R359). -/
def State.endRevoke (s : State) (r : Revoke) : State :=
  let g := r.grant
  let forced := !s.drained g
  let same (o : Grant) : Bool := decide (o.kind = g.kind ∧ o.index = g.index ∧ o.hub = g.hub ∧ o.slice = g.slice)
  let s := s.seize g r.safePins
  let s := { s with host := { s.host with
    grants := s.host.grants.filter fun o => !same o
    revokes := s.host.revokes.filter fun o => !same o.grant } }
  s.causedBy ((r.cmd.map Cmd.tag).getD s.host.cause) fun s =>
    let (s, n) := match resourceEp g.kind g.index with
      | some e => s.closeOwned g.hub g.slice (some e)
      | none => (s, 0)
    let s := match r.cmd with
      | some c => s.complete c stOk (grantWords forced n g.hub g.slice)
      | none => s
    (if g.hub = s.selfNo then s.endDestroy g.slice else s).endFarDestroys

/-- A revoke starts (R349): uses are refused from now on, and what needs no drain ends at once. -/
def State.beginRevoke (s : State) (g : Grant) (safe : Bool) (cmd : Option Cmd) : State :=
  let mark (o : Grant) : Grant := if o = g then { o with revoking := true } else o
  let r : Revoke := { grant := g, safePins := safe, cmd := cmd }
  let s := { s with host := { s.host with grants := s.host.grants.map mark } }
  if s.drained g then s.endRevoke r else { s with host := { s.host with revokes := s.host.revokes ++ [r] } }

/-- REVOKE_DRAIN_END (R349). -/
def effRevokeDrainEnd (kind index hub slice : Nat) (s : State) : State :=
  match s.host.revokes.find? fun r =>
      decide (r.grant.kind = kind ∧ r.grant.index = index ∧ r.grant.hub = hub ∧ r.grant.slice = slice) with
  | some r => s.endRevoke r
  | none => s

def execRevokeDrainEnd (kind index hub slice : Nat) (s : State) : Host.Outcome State Fault Refusal :=
  .next (effRevokeDrainEnd kind index hub slice s)

def laySliceRevoke (c : Cmd) : Layout :=
  { masks := [(4, mk 31 31 + mk 28 24 + mk 17 0), (5, mkAll)], enc := kindOkIdx (c.f 4 11 8) (c.f 4 7 0) }

/-- SLICE_REVOKE (R347, R349, R366; log entry 44 for a grant that is not held). -/
def execSliceRevoke (c : Cmd) (s : State) : Host.Outcome State Fault Refusal :=
  .next <| s.runCmd c 0x0004 (laySliceRevoke c) false fun s =>
    let mine (g : Grant) : Bool :=
      decide (g.kind = c.f 4 11 8 ∧ g.index = c.f 4 7 0 ∧ g.hub = c.f 4 28 24 ∧ g.slice = c.f 4 17 12)
    s.grantCmd c fun s =>
      if drainBad c then s.doneGrant c stBadParam
      else
        match s.host.grants.find? mine with
        | none => s.doneGrant c stNotPresent
        | some g => if g.revoking then s.doneGrant c stBusy else s.beginRevoke g (c.b 4 31) (some c)

def laySliceDestroy (_ : Cmd) : Layout := { masks := [(4, mk 24 16 + mk 5 0), (5, mkAll)] }

/-- What a SLICE_DESTROY does on this hub for a holder: its engines stop and its grants are revoked (R349, R359). -/
def State.stripHolder (s : State) (h k : Nat) : State :=
  let es := (List.range 32).filter fun e => decide ((s.engine e).st ≠ .idle ∧ s.engOwner e = (h, k))
  let s := es.foldl (fun s e => s.abortEngine e false) s
  let gs := s.host.grants.filter fun g => decide (g.hub = h ∧ g.slice = k) && !g.revoking
  gs.foldl (fun s g => s.beginRevoke g false none) s

/-- The SYS form: a slice of the root is destroyed, and this hub gives up what it holds of it (R359, R375; log entry 44). -/
def State.farDestroy (s : State) (c : Cmd) : State :=
  let k := c.f 4 5 0
  let s := { s with host := { s.host with farDestroys := s.host.farDestroys ++ [(c, k)] } }
  ((s.winCloseOwner c.hub k).stripHolder c.hub k).endFarDestroys

/-- The root asks every hub that has a number to give up what it holds of a slice of its own; one it cannot reach fails the command
(R359). DESIGN CHOICE: no rule gives the message; it is a SYS SLICE_DESTROY (log entry 44). -/
def State.destroyElsewhere (s : State) (c : Cmd) (k : Nat) : State :=
  let hubs := s.hubList.filter fun h => decide (h ≠ 0 ∧ (s.recOf h).state ≠ rFree)
  let live := hubs.filter s.reach
  let tag := s.freeTag
  if hubs = [] then s
  else
    let s := s.modSlice k fun x => { x with
      destroyHubs := live, destroyTag := some tag, destroySt := if live.length < hubs.length then stLinkLost else 0 }
    live.foldl (fun s h => s.sendSys h tag 0x0001 [(4, pack [fld 24 1, k]), (5, word (c.w 5))]) s

/-- SLICE_DESTROY (R343, R345, R359, R366, R375, R615). `far`: on a hub that is not the root, the status with which the revokes on
other hubs fail, 0 where none does (log entry 44). -/
def execSliceDestroy (c : Cmd) (far : Nat) (s : State) : Host.Outcome State Fault Refusal :=
  .next <| s.runCmd c 0x0001 (laySliceDestroy c) false fun s =>
    if c.sys then s.farDestroy c
    else s.sliceCmd c false false true true fun s k =>
      if drainBad c then s.doneSlice c k stBadParam
      else if (s.slice k).destroyCmd.isSome then s.doneSlice c k stBusy
      else
        let s := s.modSlice k fun x => { x with
          destroyCmd := some c, destroySt := if !s.isRoot ∧ (far = stTimeout ∨ far = stLinkLost) then far else 0 }
        ((if s.isRoot then s.destroyElsewhere c k else s).stripHolder s.selfNo k).endDestroy k

/-! ### Freeze, save, restore and thaw -/

/-- A timed command that awaits its instant, here, behind a fence or on another hub (R360, R380). -/
def State.awaits (s : State) (p : Pend) : Bool :=
  p.cmd.timed && decide (p.stage = .timed ∨ p.stage = .fence ∨ p.stage = .sent) &&
    decide (s.nowNs < resolveCompact s.nowNs (p.cmd.w 2) (p.cmd.w 3))

/-- Commands of a slice that a freeze waits for: all but those that wait for their instants, and the freeze itself (R360). -/
def State.freezeLeft (s : State) (k : Nat) (c : Cmd) : Bool :=
  s.host.pend.any fun p => decide (p.cmd.slice = k) && !s.awaits p && !(c.here && decide (p.cmd.htag = c.htag))

def laySliceFreeze (_ : Cmd) : Layout := { masks := [(4, mk 24 16 + mk 5 0), (5, mkAll)] }

/-- SLICE_FREEZE (R360, R365, R366). -/
def execSliceFreeze (c : Cmd) (s : State) : Host.Outcome State Fault Refusal :=
  .next <| s.runCmd c 0x0005 (laySliceFreeze c) false fun s =>
    s.sliceCmd c true true true false fun s k =>
      let x := s.slice k
      if drainBad c then s.doneSlice c k stBadParam
      else if x.state ≠ 1 then s.doneSlice c k stOk
      else
        let s := (s.setSlice k { x with state := 2 }).stopSources k
        if s.freezeLeft k c then s.modSlice k fun x => { x with freezeCmd := some c } else s.doneSlice c k stOk

/-- FREEZE_DRAIN_END (R360). -/
def effFreezeDrainEnd (slice : Nat) (s : State) : State :=
  match (s.slice slice).freezeCmd with
  | some c => (s.modSlice slice fun x => { x with freezeCmd := none }).doneSlice c slice stOk
  | none => s

def execFreezeDrainEnd (slice : Nat) (s : State) : Host.Outcome State Fault Refusal := .next (effFreezeDrainEnd slice s)

/-- The figures of a submission queue in the blob (Table 11.6). -/
def SubQ.blob (q : SubQ) : List Byte :=
  leBytes 8 q.base ++ leBytes 2 q.size ++ leBytes 2 q.head ++ leBytes 2 q.tail ++ leBytes 1 q.prio
    ++ leBytes 1 (b2n q.enable + 2 * b2n (decide (q.err ≠ 0))) ++ leBytes 16 0

/-- The state blob of a slice (R362, Table 11.6). `tuns` and `grants` count over the whole tree. -/
def State.sliceBlob (s : State) (k cookie tuns grants : Nat) : List Byte :=
  let x := s.slice k
  let q := x.evq
  let body := leBytes 4 0x534C4231 ++ leBytes 2 1 ++ leBytes 2 0x200 ++ leBytes 8 s.nv.unitId.toNat ++ leBytes 1 s.hubNo ++ leBytes 1 k
    ++ leBytes 1 x.gen.toNat ++ leBytes 1 (b2n x.pasid.isNone + 2 * x.port) ++ leBytes 4 (x.pasid.getD 0) ++ leBytes 8 cookie
    ++ leBytes 8 (compactOf s.nowNs) ++ leBytes 2 x.quota ++ leBytes 2 x.held.length ++ leBytes 4 x.lost ++ leBytes 8 q.base
    ++ leBytes 4 (q.size + 2 ^ 20 * q.err + 2 ^ 31 * b2n q.enable) ++ leBytes 4 (q.tail + 2 ^ 31 * b2n q.phase) ++ leBytes 4 q.head
    ++ leBytes 4 (2 ^ 31 * b2n x.mask + 2 ^ 21 * x.intTime + 2 ^ 13 * x.intCount + x.vector) ++ leBytes 8 0
    ++ ((List.range 8).flatMap fun i => (s.sq k i).blob) ++ leBytes 2 tuns ++ leBytes 2 (s.winOwned s.selfNo k) ++ leBytes 2 grants
    ++ List.replicate 166 0
  body ++ leBytes 4 (crc32 body).toNat

def laySliceSave (c : Cmd) : Layout :=
  { ind := true, masks := [(4, mk 24 16 + mk 5 0), (5, mkAll), (6, mkAll)], enc := c.indirect, outAddr := c.w64 5 }

/-- Grants of a slice on this hub. -/
def State.grantsOf (s : State) (h k : Nat) : Nat := (s.host.grants.filter fun g => decide (g.hub = h ∧ g.slice = k)).length

/-- SLICE_SAVE (R343, R345, R362, R366). What only the other hubs know of the slice is a free value, added to what this hub knows
(log entry 44). -/
def execSliceSave (c : Cmd) (s : State) : Host.Outcome State Fault Refusal :=
  .next <| s.runCmd c 0x0006 (laySliceSave c) false fun s =>
    s.sliceCmd c true true true true fun s k =>
      let x := s.slice k
      if x.state ≠ 2 then s.doneSlice c k stWrongMode
      else if c.w64 5 % 64 ≠ 0 then s.doneSlice c k stBadParam
      else if (s.dropPend c).pendingOf k ≠ 0 then s.doneSlice c k stBusy
      else
        let cookie := (s.freeVal 64).toNat
        let s := s.drew
        let far := (s.freeVal 32).toNat
        let tuns := if s.isRoot then
            (s.tree.tuns.filter fun p => decide (p.2.state ≠ gClosed ∧ p.2.ownerHub = 0 ∧ p.2.ownerSlice = k)).length
          else far % 65536
        let s := s.drew.setSlice k { x with state := 3, cookie := some cookie }
        (s.output c (c.w64 5) (s.sliceBlob k cookie tuns (s.grantsOf s.selfNo k + far / 65536))).doneSlice c k stOk

/-- COOKIE_EXPIRY (R362). -/
def effCookieExpiry (slice : Nat) (s : State) : State :=
  let x := s.slice slice
  if x.state = 3 then s.setSlice slice { x with state := 2, cookie := none } else s

def execCookieExpiry (slice : Nat) (s : State) : Host.Outcome State Fault Refusal := .next (effCookieExpiry slice s)

/-- An endpoint code of a slice, moved to a port (R361). -/
def movedEp (k port ep : Nat) : Nat := if epSlice ep = some k then (port + 1) * 256 + k else ep

/-- The slice's endpoint codes in every local hop, and in the root's own records of them (R361). -/
def State.moveEps (s : State) (k port : Nat) : State :=
  let hop (_ : Nat) (g : Gaz) : Gaz := { g with
    srcEp := if g.ingress = 7 then movedEp k port g.srcEp else g.srcEp
    dstEp := if g.loc then movedEp k port g.dstEp else g.dstEp }
  let rec' (_ : Nat) (r : TunRec) : TunRec := { r with
    srcEp := if r.srcHub = 0 then movedEp k port r.srcEp else r.srcEp
    exits := r.exits.map fun e => if e.1 = 0 then (0, movedEp k port e.2) else e }
  { s with tree := { s.tree with
    gaz := s.tree.gaz.mapAll Gaz.init hop, tuns := if s.isRoot then s.tree.tuns.mapAll TunRec.init rec' else s.tree.tuns } }

/-- The SYS form carries a rewrite of a slice move (R375; log entry 44). -/
def laySliceRestore (c : Cmd) : Layout :=
  { ind := c.b 4 11
    masks := [(4, mk 24 16 + mk 11 8 + mk 5 0), (5, mk 19 0), (6, mkAll), (7, mkAll)] ++ if c.sys then [(8, mkAll), (9, mkAll)] else []
    enc := !c.b 4 11 || c.indirect
    inAddr := c.w64 6, inLen := if c.b 4 11 then 512 else 0 }

/-- SLICE_RESTORE (R344, R345, R361, R363, R365, R366, R375, R489). -/
def execSliceRestore (c : Cmd) (far : Nat) (recs : List (List Word)) (s : State) : Host.Outcome State Fault Refusal :=
  .next <| s.runCmd c 0x0007 (laySliceRestore c) false fun s =>
    let k := c.f 4 5 0
    if c.sys then s.moveHop c
    else if c.b 4 11 then
      if !(s.mayUse c 0xB k) then s.doneSlice c k stNotGranted
      else ({ s with host := { s.host with moveQ := s.host.moveQ ++ [(c, far, recs)] } }).moveGoOn
    else
      s.sliceCmd c false true true false fun s k =>
        let x := s.slice k
        let port := c.f 4 8 8
        if x.state < 2 then s.doneSlice c k stWrongMode
        else if !s.hostPortUsed port then s.doneSlice c k stNotPresent
        else if s.pasidTaken k port (bindOf c) then s.doneSlice c k stBadParam
        else
          let x := if c.b 4 10 then x else x.noQueues
          let s := s.setSlice k { x with
            state := 2, cookie := none, gen := x.gen + 1, port := port, pasid := bindOf c, bound := true }
          ((s.moveEps k port).winRebind k).doneSlice c k stOk

/-- SLICE_MOVE_TIMEOUT (R363). -/
def effSliceMoveTimeout (s : State) : State :=
  match s.host.moveOp with
  | some o => s.moveLate o
  | none => s

def execSliceMoveTimeout (s : State) : Host.Outcome State Fault Refusal := .next (effSliceMoveTimeout s)

def laySliceThaw (_ : Cmd) : Layout := { masks := [(4, mk 24 16 + mk 5 0)] }

/-- SLICE_THAW (R364, R366, R475, R496; log entry 44 for a slice that is ACTIVE). -/
def execSliceThaw (c : Cmd) (s : State) : Host.Outcome State Fault Refusal :=
  .next <| s.runCmd c 0x0008 (laySliceThaw c) false fun s =>
    s.sliceCmd c true true true false fun s k =>
      let x := s.slice k
      if !x.evq.enable then s.doneSlice c k stWrongMode
      else if x.state = 1 then s.doneSlice c k stOk
      else ((((s.setSlice k { x with state := 1, cookie := none }).flushHeld k 64).present).sendPosted k).doneSlice c k stOk

/-! ### Queues -/

def layQueueCreate (c : Cmd) : Layout :=
  { masks := [(4, mk 24 16 + mk 13 12 + mk 10 8 + mk 5 0), (5, mk 12 0), (6, mkAll), (7, mkAll)], enc := decide (c.f 4 10 8 ≠ 0) }

/-- QUEUE_CREATE (R351, R366). -/
def execQueueCreate (c : Cmd) (s : State) : Host.Outcome State Fault Refusal :=
  .next <| s.runCmd c 0x0009 (layQueueCreate c) false fun s =>
    s.sliceCmd c true true true false fun s k =>
      let q := c.f 4 10 8
      if (s.sq k q).enable then s.doneSlice c k stBusy
      else if !pow2In 16 4096 (c.f 5 12 0) ∨ c.w64 6 % 4096 ≠ 0 then s.doneSlice c k stBadParam
      else
        (s.setSq k q { base := c.w64 6, size := c.f 5 12 0, prio := c.f 4 13 12, enable := true, err := 0, head := 0, tail := 0 }).doneSlice
          c k stOk

def layQueueDestroy (_ : Cmd) : Layout := { masks := [(4, mk 24 16 + mk 10 8 + mk 5 0)] }

/-- QUEUE_DESTROY (R353, R366). -/
def execQueueDestroy (c : Cmd) (s : State) : Host.Outcome State Fault Refusal :=
  .next <| s.runCmd c 0x000A (layQueueDestroy c) false fun s =>
    s.sliceCmd c true true true false fun s k =>
      let q := c.f 4 10 8
      let x := s.sq k q
      (s.setSq k q { x with enable := false, err := 0, tail := x.head }).doneSlice c k stOk

def layEvqSet (_ : Cmd) : Layout := { masks := [(4, mk 24 16 + mk 5 0), (5, mk 16 0), (6, mkAll), (7, mkAll)] }

/-- EVQ_SET (R351, R366). -/
def execEvqSet (c : Cmd) (s : State) : Host.Outcome State Fault Refusal :=
  .next <| s.runCmd c 0x000B (layEvqSet c) false fun s =>
    s.sliceCmd c true true true false fun s k =>
      if !pow2In 64 65536 (c.f 5 16 0) ∨ c.w64 6 % 4096 ≠ 0 then s.doneSlice c k stBadParam
      else
        let s := s.modSlice k fun x => { x with evq := { base := c.w64 6, size := c.f 5 16 0, enable := true, err := 0, tail := 0, head := 0, phase := true } }
        (s.flushHeld k 64).doneSlice c k stOk

end Sys2Proof.Machine
end

