-- ==== Sys2Proof/Machine/Pace.lean ====
section
/-! DEFINITION. The pace monitor and the pace loop (Chapter 4). The fault of a monitor that stays invalid stands in
Faults. -/

namespace Sys2Proof.Machine

/-- The pace index of a sample (R83). -/
def paceIndex (rings : List Nat) : Nat := min 1023 ((rings.foldl min (rings.headD 0)) / 5)

/-- PACE_SAMPLE (R83, R84, R102). -/
def effPaceSample (rings : List Nat) (fault : Bool) (tj : BitVec 8) (s : State) : State :=
  let p := s.pace
  let p := { p with tj := tj, tjHigh := decide (125 < tj.toInt), ringFault := fault }
  if !s.coreOn then s
  else if fault then
    { s with pace := if p.monInvalid then p else { p with monInvalid := true, prevCode := p.code, code := 31 } }
  else if p.monInvalid then { s with pace := p }
  else
    let i := paceIndex rings
    { s with pace := { p with sample := i, curMin := min p.curMin i, curSome := true } }

def execPaceSample (rings : List Nat) (fault : Bool) (tj : BitVec 8) (s : State) : Host.Outcome State Fault Refusal :=
  .next (effPaceSample rings fault tj s)

/-- PACE_MONITOR_REVALID (R84). -/
def effPaceMonitorRevalid (s : State) : State :=
  let p := s.pace
  if s.coreOn ∧ p.monInvalid ∧ !p.ringFault then { s with pace := { p with monInvalid := false, code := p.prevCode } } else s

def execPaceMonitorRevalid (s : State) : Host.Outcome State Fault Refusal := .next (effPaceMonitorRevalid s)

/-- A PACE_SET that waited takes effect (R93, R94). DESIGN CHOICE: where HOLD takes effect while the monitor is invalid and code 31
is presented, the code presented before it is held (log entry 54). -/
def Pace.take (p : Pace) : Pace :=
  match p.pendCfg with
  | some c => { p with cfg := c, pendCfg := none, holdCode := if c.hold ∧ !p.cfg.hold then (if p.monInvalid then p.prevCode else p.code) else p.holdCode }
  | none => p

/-- Floor and ceiling in effect (R94). -/
def Pace.lo (p : Pace) : Nat := if p.cfg.hold then p.holdCode else p.cfg.floor
def Pace.hi (p : Pace) : Nat := if p.cfg.hold then p.holdCode else p.cfg.ceiling

/-- Step 4 of R92. -/
def Pace.vidStep (p : Pace) (pmin t : Nat) : Nat :=
  if p.hi < p.code then p.code - 1
  else if p.code < p.lo then p.code + 1
  else if pmin < t ∧ p.code < p.hi then p.code + 1
  else if t + 16 ≤ pmin ∧ p.lo < p.code then p.code - 1
  else p.code

/-- Steps 1 to 3 of R92: the shed level after the interval. `demand` gives D at a shed level. -/
def Pace.shedNext (p : Pace) (short : Bool) (pmin : Nat) (hist : List Nat) (demand : Nat → Nat) : Nat :=
  let m := p.cfg.margin
  if short then 16
  else if decide (0 < p.shed ∧ hist.length = 10) && hist.all fun x => decide (demand (p.shed - 1) + m + 16 ≤ x) then p.shed - 1
  else if pmin < min 1023 (demand p.shed + m) ∧ p.hi ≤ p.code then min 16 (p.shed + 1)
  else p.shed

/-- SCHED_ALERT of a pace decision (R99, Table 4.5). -/
def State.paceAlert (s : State) (reason status : Nat) : State :=
  let p := s.pace
  s.reportMgmt 5 status (s.busiest p.shed)
    [ pack [fld 26 p.code, fld 16 p.pmin, fld 8 p.shed, reason], pack [fld 20 p.target, fld 10 p.dfloor, p.demand], 0, 0 ]

/-- Shedding has changed: the links' schedulers account at the old level up to now (R95). -/
def State.shedTo (s : State) (shed : Nat) : State :=
  if shed = s.pace.shed then s else (List.range 5).foldl State.schedAdvance s

/-- The alerts of an interval's end (R99): shortfall start or a jump of the shed level to 16, shed level raised or lowered,
shortfall end. -/
def State.paceAlerts (s : State) (old : Nat) (starts jump ends : Bool) : State :=
  let s := if starts || jump then s.paceAlert 0x22 stLimit
    else if old < s.pace.shed then s.paceAlert 0x20 stOk
    else if s.pace.shed < old then s.paceAlert 0x21 stOk
    else s
  if ends then s.paceAlert 0x23 stOk else s

/-- The values of Table 4.7 now. -/
def Pace.view (p : Pace) : PaceShown :=
  { hold := p.cfg.hold, target := p.target, pmin := p.pmin, sample := p.sample, floor := p.cfg.floor, code := p.code,
    dfloor := p.dfloor, demand := p.demand, tjHigh := p.tjHigh, monInvalid := p.monInvalid, shortfall := p.shortfall,
    atCeiling := decide (p.code = p.hi), tj := p.tj, shed := p.shed, margin := p.cfg.margin, ceiling := p.cfg.ceiling
    shortfalls := p.shortfalls }

/-- The values that PACE_QUERY reports until the next interval ends (R102). -/
def Pace.show (p : Pace) : Pace := { p with shown := p.view }

/-- PACE_INTERVAL_END (R87, R88, R90 to R99, R102). DESIGN CHOICE: an interval in which the monitor was invalid for a part runs the
loop on the samples it has; one that ends with the monitor invalid, or without a sample, leaves the loop as it was (log
entry 54). -/
def effPaceIntervalEnd (s : State) : State :=
  if !s.coreOn then s
  else
    let s := { s with pace := s.pace.take }
    let p := s.pace
    if p.monInvalid ∨ !p.curSome then { s with pace := Pace.show { p with curMin := 1023, curSome := false } }
    else
      let pmin := p.curMin
      let hist := (pmin :: p.hist).take 10
      let df := s.demandFloor
      let short := decide (pmin < df)
      let target (lvl : Nat) : Nat := min 1023 (s.demandAt lvl + p.cfg.margin)
      let shed := p.shedNext short pmin hist s.demandAt
      let run := if short then 0 else if p.shortfall then p.okRun + 1 else 0
      let ends := p.shortfall && decide (10 ≤ run)
      let starts := short && !p.shortfall
      let s := s.shedTo shed
      let q := { p with
        curMin := 1023, curSome := false, pmin := pmin, hist := hist, shed := shed, okRun := if ends then 0 else run
        shortfall := short || (p.shortfall && !ends), shortfalls := if starts then satAdd 16 p.shortfalls 1 else p.shortfalls
        demand := s.demandAt shed, dfloor := df, target := target shed, code := p.vidStep pmin (target shed) }
      { s with pace := q.show }.paceAlerts p.shed starts (short && decide (p.shed < 16)) ends

def execPaceIntervalEnd (s : State) : Host.Outcome State Fault Refusal := .next (effPaceIntervalEnd s)

def layPaceSet (c : Cmd) : Layout :=
  { masks := [(4, mk 25 16 + mk 12 8 + mk 4 0)]
    enc := decide (c.f 4 25 24 < 2) && decide (c.f 4 4 0 ≤ c.f 4 12 8) && decide (c.f 4 12 8 < 31) }

/-- PACE_SET (R93, R100, R101). -/
def execPaceSet (c : Cmd) (s : State) : Host.Outcome State Fault Refusal :=
  .next <| s.runCmd c 0x0102 (layPaceSet c) false fun s =>
    if !s.authZ c then s.complete c stNotGranted []
    else
      let cfg : PaceCfg := { floor := c.f 4 4 0, ceiling := c.f 4 12 8, margin := c.f 4 23 16, hold := decide (c.f 4 25 24 = 1) }
      ({ s with pace := { s.pace with pendCfg := some cfg } }).complete c stOk []

/-- PACE_QUERY words (Table 4.7). -/
def PaceShown.words (p : PaceShown) : List Word :=
  [ pack [fld 30 (b2n p.hold), fld 20 p.target, fld 10 p.pmin, p.sample],
    pack [fld 25 p.floor, fld 20 p.code, fld 10 p.dfloor, p.demand],
    pack [ fld 30 (b2n p.tjHigh), fld 29 (b2n p.monInvalid), fld 28 (b2n p.shortfall), fld 27 (b2n (decide (0 < p.shed))),
      fld 26 (b2n p.atCeiling), fld 18 p.tj.toNat, fld 13 p.shed, fld 5 p.margin, p.ceiling ],
    Machine.word p.shortfalls ]

def layPaceQuery (_ : Cmd) : Layout := {}

/-- PACE_QUERY (R100, R102). -/
def execPaceQuery (c : Cmd) (s : State) : Host.Outcome State Fault Refusal :=
  .next <| s.runCmd c 0x0103 (layPaceQuery c) true fun s => s.complete c stOk s.pace.shown.words

end Sys2Proof.Machine
end

