-- ==== Sys2Proof/Machine/Power.lean ====
section
/-! DEFINITION. Power negotiation, swaps, fusing, KEEP, the converters and the PWR_ commands (Chapter 17;
log entry 28). -/

namespace Sys2Proof.Machine

/-! ### Negotiation -/

/-- REQUEST sent for an offer (R521, R545). -/
def State.sendRequest (s : State) (p idx v i : Nat) : State :=
  (s.modPort p fun x => { x with reqV := v, reqI := i, st := if x.st = pAttaching then pNegotiating else x.st }).sbPush p 0 0x11
    (BitVec.ofNat 8 (idx + fld 2 (b2n (s.fsOk p))) :: leBytes 2 i)

/-- The index of the offer a sink takes by itself: the highest voltage under a policy, the lowest without one
(R515, R545; log entry 28). -/
def State.chosenOffer (s : State) (p : Nat) (caps : List (Nat × Nat)) : Nat :=
  if (s.port p).pol.given then caps.length - 1 else 0

/-- SRC_CAPS (R513, R521, R523). -/
def effSrcCaps (port : Nat) (f : SbFrame) (s : State) : State :=
  let n := sbByte f 0 % 4
  let offer (i : Nat) : Nat × Nat :=
    let v := sbByte f (1 + 2 * i) + 256 * sbByte f (2 + 2 * i)
    (bits v 15 14, bits v 8 0)
  let clean := (List.range n).all fun i => decide (sbByte f (2 + 2 * i) / 2 % 32 = 0)
  let good := sbOk f 0x10 (1 + 2 * n) && decide (n ≠ 0) && decide (sbByte f 0 &&& 0xE4 = 0) && clean
  s.pwrFrame port f good fun s =>
    let x := s.port port
    let caps := (List.range n).map offer
    if x.role = 1 then
      if x.st = pAttaching ∨ x.st = pNegotiating then (s.setPort port { x with st := pAttaching, resend := true }).pwrEvent port 4 0
      else s
    else if x.role = 2 ∧ (x.st = pAttaching ∨ x.st = pNegotiating ∨ x.st = pContract) then
      let s := s.setPort port { x with
        caps := caps, capsFsOk := bit (sbByte f 0) 3, st := if x.st = pAttaching then pNegotiating else x.st }
      if s.maySink port ∧ !x.noReq ∧ s.ret.mode ≠ .safe then
        let i := s.chosenOffer port caps
        let o := (caps[i]?).getD (0, 0)
        s.sendRequest port i o.1 (if x.pol.given then min o.2 x.polNew.sinkMax else o.2)
      else s
    else s

def execSrcCaps (port : Nat) (f : SbFrame) (s : State) : Host.Outcome State Fault Refusal := .next (effSrcCaps port f s)

/-- The far end's IDENT shows CORE set (R540). -/
def PwrPort.farCore (x : PwrPort) : Bool := match x.sb0.ident with | some i => i.core | none => false

/-- REJECT of a message with a reason (R521). -/
def State.pushReject (s : State) (p msgid reason : Nat) : State :=
  s.sbPush p 0 0x13 [BitVec.ofNat 8 (msgid + fld 4 reason)]

/-- A REQUEST answered with REJECT: a negotiation is over, and SRC_CAPS follows after 100 ms (R523). -/
def State.refuseRequest (s : State) (p msgid reason : Nat) : State :=
  let neg (x : PwrPort) : Bool := decide (x.st = pNegotiating ∧ x.role = 1)
  (s.modPort p fun x => { x with
    st := if neg x then pAttaching else x.st, resend := x.resend || neg x, lastType := if neg x then 0 else x.lastType }).pushReject
    p msgid reason

/-- REQUEST_FRAME (R521 to R523, R535, R540). -/
def effRequestFrame (port : Nat) (f : SbFrame) (s : State) : State :=
  let good := sbOk f 0x11 3 && decide (sbByte f 0 &&& 0xF8 = 0 ∧ sbByte f 2 &&& 0xFE = 0)
  s.pwrFrame port f good fun s =>
    let x := s.port port
    if s.ret.mode = .safe ∨ !x.farCore then s.refuseRequest port f.msgid 3
    else if x.st = pTransition ∨ x.st = pSwap then s.pushReject port f.msgid 2
    else if x.role ≠ 1 ∨ !(decide (x.st = pNegotiating ∨ x.st = pContract)) then s
    else
      let cur := sbByte f 1 + 256 * sbByte f 2
      match x.ownCaps[sbByte f 0 % 4]? with
      | some (v, imax) =>
        if imax < cur then s.refuseRequest port f.msgid 4
        else
          let s := s.setPort port { x.disarm with
            pol := x.polNew, pendPol := none, lastType := 0, vcode := v, icon := cur, st := pTransition, changing := x.closed,
            psRdy := false, qualified := false, conRep := false, capsFsOk := bit (sbByte f 0) 2,
            lastV := if x.vcode ≠ 0 then x.vcode else x.lastV }
          (((s.sbPush port 0 0x12 [BitVec.ofNat 8 f.msgid]).convStart port v).tryClose port).endArm port
      | none => s.refuseRequest port f.msgid 4

def execRequestFrame (port : Nat) (f : SbFrame) (s : State) : Host.Outcome State Fault Refusal := .next (effRequestFrame port f s)

/-- A swap of a resource starts after its ACCEPT (R536, R537). -/
def State.startSwap (s : State) (p r : Nat) : State :=
  let x := s.port p
  if r = 1 then
    s.setPort p { x.disarm with
      st := if x.st = pContract then pSwap else x.st, swapIn := some 1, swapNew := decide (x.keepRole ≠ 1),
      keepEn := x.keepEn && decide (x.keepRole ≠ 1) }
  else if x.role = 1 then
    (s.setPort p { x.openPath with st := pSwap, swapIn := some 0, swapNew := false, psRdy := false, fast := false }).convIdle p
  else
    let mine := ((x.polNew.offerList.find? fun o => decide (o.1 = x.vcode)).map Prod.snd).getD x.icon
    (s.setPort p { x.openPath with
      st := pSwap, role := 1, swapIn := some 0, swapNew := true, psRdy := false, fast := false,
      icon := min x.icon mine, discharge := false }).convStart p x.vcode

/-- ACCEPT_FRAME (R523, R535 to R537). -/
def effAcceptFrame (port : Nat) (f : SbFrame) (s : State) : State :=
  s.pwrFrame port f (sbOk f 0x12 1 && decide (sbByte f 0 < 16)) fun s =>
    let x := s.port port
    if sbByte f 0 ≠ x.lastMsg then s
    else if x.lastType = 0x11 then
      (s.setPort port { x.disarm with
        pol := x.polNew, pendPol := none, lastType := 0, vcode := x.reqV, icon := x.reqI, st := pTransition,
        changing := x.closed, psRdy := false, qualified := false, conRep := false,
        lastV := if x.vcode ≠ 0 then x.vcode else x.lastV }).endArm port
    else if x.lastType = 0x15 then
      match x.swapRes with
      | some r => (s.setPort port { x with lastType := 0, swapRes := none }).startSwap port r
      | none => s
    else s

def execAcceptFrame (port : Nat) (f : SbFrame) (s : State) : Host.Outcome State Fault Refusal := .next (effAcceptFrame port f s)

/-- REJECT_FRAME (R523, R545, R546, R550). -/
def effRejectFrame (port : Nat) (f : SbFrame) (s : State) : State :=
  s.pwrFrame port f (sbOk f 0x13 1) fun s =>
    let x := s.port port
    let why := sbByte f 0 / 16
    if sbByte f 0 % 16 ≠ x.lastMsg then s
    else if x.lastType = 0x11 then
      let s := s.setPort port { x with
        lastType := 0, reqV := 0, reqI := 0, st := if x.st = pNegotiating then pAttaching else x.st }
      (s.pwrEvent port 4 why).endContract port stDenied
    else if x.lastType = 0x15 then
      let s := s.setPort port { x with lastType := 0, swapRes := none }
      (s.pwrEvent port 4 why).endSwapCmd port (if why = 1 then stCollided else stDenied)
    else s

def execRejectFrame (port : Nat) (f : SbFrame) (s : State) : Host.Outcome State Fault Refusal := .next (effRejectFrame port f s)

/-- A swap has ended: both ends are in CONTRACT again (R523, R536 to R538, R546). -/
def State.finishSwap (s : State) (p r : Nat) : State :=
  let x := s.port p
  let s := s.setPort p { x with
    st := if x.st = pSwap then pContract else x.st, swapIn := none, swapNew := false, swapRes := none, fast := false }
  (s.pwrEvent p 8 r).endSwapCmd p stOk

/-- PS_RDY (R523, R525, R535 to R538). -/
def effPsRdy (port : Nat) (f : SbFrame) (s : State) : State :=
  s.pwrFrame port f (sbOk f 0x14 1 && decide (sbByte f 0 < 4)) fun s =>
    let x := s.port port
    let off := bit (sbByte f 0) 1
    if sbByte f 0 % 2 = 1 then
      if x.swapIn ≠ some 1 then s
      else if off then
        if x.swapNew then s.setPort port { x with keepRole := 1, keepEn := !keepOver x.vkeep 1000 } else s
      else if x.swapNew then s else s.finishSwap port 1
    else if x.st = pTransition ∧ x.role = 2 ∧ !off then
      let s := s.setPort port { x with st := pContract, psRdy := true, qualified := false, changing := false, lastV := x.vcode }
      (s.endContract port stOk).tryClose port
    else if x.st = pSwap ∧ x.swapIn = some 0 then
      if off then if x.swapNew then (s.setPort port { x with psRdy := true }).tryClose port else s
      else if x.swapNew then s
      else ((s.setPort port { x with psRdy := true, role := 2 }).finishSwap port 0).tryClose port
    else s

def execPsRdy (port : Nat) (f : SbFrame) (s : State) : Host.Outcome State Fault Refusal := .next (effPsRdy port f s)

/-- This end may become the source, or the sink, of a resource (R536, R537). -/
def State.canSwap (s : State) (p r : Nat) : Bool :=
  let x := s.port p
  if r = 1 then x.keepRole = 1 || x.keepWanted
  else if x.role = 1 then s.maySink p
  else x.polNew.offerList.any fun o => decide (o.1 = x.vcode)

/-- SWAP_REQ (R536, R537, R539, R540). -/
def effSwapReq (port : Nat) (f : SbFrame) (s : State) : State :=
  s.pwrFrame port f (sbOk f 0x15 1 && decide (sbByte f 0 < 2)) fun s =>
    let x := s.port port
    let r := sbByte f 0
    let mine := if r = 1 then decide (x.keepRole = 1) else decide (x.role = 1)
    if s.ret.mode = .safe ∨ !x.farCore then s.pushReject port f.msgid 3
    else if x.st = pTransition ∨ x.st = pSwap ∨ x.swapIn.isSome then s.pushReject port f.msgid 2
    else if x.swapRes = some r ∧ mine then s.pushReject port f.msgid 1
    else
      let s := if x.swapRes = some r then
          let s := s.modPort port fun x => { x with
            swapRes := none, lastType := 0, swapLost := some r
            sb0 := { x.sb0 with
              outst := x.sb0.outst.filter fun o => decide (o.typ ≠ 0x15)
              queue := x.sb0.queue.filter fun o => decide (o.typ ≠ 0x15) } }
          (s.pwrEvent port 9 r).endSwapCmd port stCollided
        else s
      if (r = 0 ∧ x.st ≠ pContract) ∨ (r = 1 ∧ x.keepRole = 0) ∨ !s.canSwap port r then s.pushReject port f.msgid 4
      else ((s.sbPush port 0 0x12 [BitVec.ofNat 8 f.msgid]).startSwap port r).endArm port

def execSwapReq (port : Nat) (f : SbFrame) (s : State) : Host.Outcome State Fault Refusal := .next (effSwapReq port f s)

/-- SWAP_REQ sent (R536, R546). -/
def State.sendSwap (s : State) (p r : Nat) : State :=
  (s.modPort p fun x => { x with swapRes := some r }).sbPush p 0 0x15 [BitVec.ofNat 8 r]

/-- SWAP_RETRY (R539). -/
def effSwapRetry (port : Nat) (s : State) : State :=
  let x := s.port port
  match x.swapLost with
  | some r =>
    if s.pwrOn port ∧ (x.st = pContract ∨ (r = 1 ∧ x.keepRole ≠ 0)) ∧ x.swapIn = none ∧ x.swapRes = none then
      (s.setPort port { x with swapLost := none }).sendSwap port r
    else s
  | none => s

def execSwapRetry (port : Nat) (s : State) : Host.Outcome State Fault Refusal := .next (effSwapRetry port s)

/-- FS_ARM (R538). -/
def effFsArm (port : Nat) (f : SbFrame) (s : State) : State :=
  s.pwrFrame port f (sbOk f 0x16 1 && decide (sbByte f 0 < 2)) fun s =>
    if sbByte f 0 = 1 then (s.modPort port fun x => { x with armRx := true }).tryArm port
    else (s.modPort port PwrPort.disarm).endArm port

def execFsArm (port : Nat) (f : SbFrame) (s : State) : Host.Outcome State Fault Refusal := .next (effFsArm port f s)

/-- GOODBYE (R523, R533, R550). -/
def effGoodbye (port : Nat) (f : SbFrame) (s : State) : State :=
  s.pwrFrame port f (sbOk f 0x17 1 && decide (sbByte f 0 < 6)) fun s =>
    let x := s.port port
    let r := sbByte f 0
    if x.st = pDetached ∨ pFault ≤ x.st then s.pwrEvent port 0x0E r
    else
      let s :=
        if r = 2 ∧ x.role = 1 then
          let s := (s.setPort port { x.openPath.clearContract with
            st := pLatched, cause := 7, lastV := if x.vcode ≠ 0 then x.vcode else x.lastV }).convIdle port
          (s.pwrEvent port 0x0E r).pwrEvent port 6 0
        else
          let s := (s.backToAttaching port).modPort port fun y => { y with
            noReq := y.noReq || decide (r = 1), lastV := if x.vcode ≠ 0 then x.vcode else x.lastV }
          s.pwrEvent port 0x0E r
      ((s.endContract port stTimeout).endSwapCmd port stTimeout).tryCaps port

def execGoodbye (port : Nat) (f : SbFrame) (s : State) : Host.Outcome State Fault Refusal := .next (effGoodbye port f s)

/-- NEGOTIATION_TIMEOUT (R522, R523): the answer to SRC_CAPS, REQUEST or SWAP_REQ misses its 10 ms; a sink that answers SRC_CAPS
with no REQUEST is back in ATTACHING too. -/
def effNegotiationTimeout (port : Nat) (s : State) : State :=
  let x := s.port port
  let asks (f : SbFrame) : Bool := decide (f.typ = 0x11)
  if !s.pwrOn port then s
  else if x.lastType ≠ 0 then s.exchangeFailed port x.lastType
  else if x.role = 2 ∧ x.st = pNegotiating ∧ !(x.sb0.outst.any asks || x.sb0.queue.any asks) then s.exchangeFailed port 0x10
  else s

def execNegotiationTimeout (port : Nat) (s : State) : Host.Outcome State Fault Refusal := .next (effNegotiationTimeout port s)

/-- SRC_CAPS_RESEND (R523): 100 ms after a rejected or failed negotiation. -/
def effSrcCapsResend (port : Nat) (s : State) : State :=
  if s.pwrOn port ∧ (s.port port).resend then (s.modPort port fun x => { x with resend := false }).tryCaps port else s

def execSrcCapsResend (port : Nat) (s : State) : Host.Outcome State Fault Refusal := .next (effSrcCapsResend port s)

/-! ### Fusing -/

/-- ilim of R528 in mA as a fraction: imax, or P_LIM over vds, which is in 1/64 mV. -/
def PwrPort.limit (x : PwrPort) : Nat × Nat :=
  let vds := max (((x.vhub - x.vcab) + (x.vcab - x.vhub)) * 1125) (x.pol.vdsMin * 6400)
  if x.imax * vds ≤ x.pol.pLim * 64000000 then (x.imax, 1) else (x.pol.pLim * 64000000, vds)

/-- The current limit of R528, whole mA, and the PILIM_x code; code 3FFh without a policy (R515). -/
def PwrPort.foldback (x : PwrPort) : Nat × Nat :=
  if !x.pol.given then (0, 0x3FF)
  else
    let (n, d) := x.limit
    (n / d, if x.pol.iDac = 0 then 0x3FF else min 0x3FF (n * 256 / (d * x.pol.iDac)))

/-- The path is in current limit now: the measured current is at least 95 % of ilim, or PFLT_x_N is low (R515, R529). -/
def PwrPort.limiting (x : PwrPort) : Bool :=
  x.closed && (x.pfltLow || (x.pol.given && decide (x.limit.1 * 24320 ≤ x.imeas * x.pol.iScale * 100 * x.limit.2)))

/-- FOLDBACK_UPDATE (R514, R525, R527 to R529, R538): the latest samples act; a sink whose hub-side window is lost disarms both
ends. -/
def effFoldbackUpdate (port vhub vcab imeas vkeep : Nat) (pfltLow : Bool) (s : State) : State :=
  if !s.sbOn port then s
  else
    let x := { s.port port with
      vhub := vhub % 4096, vcab := vcab % 4096, imeas := imeas % 4096, vkeep := vkeep % 4096, pfltLow := pfltLow }
    let (ilim, code) := x.foldback
    let x := { x with ilim := ilim, pilim := code }
    let fs := x.fsHub && x.inWindow x.vhub
    let held := if x.role = 2 && x.closed then x.inWindow x.vhub else x.supplyOk
    let x := { x with
      inLimit := x.limiting, faultRun := x.faultRun || x.limiting
      faultAt := if !x.faultRun && x.limiting then s.uptime + 1 else x.faultAt
      insAt := if !held then 0 else if x.insAt = 0 then s.uptime + 1 else x.insAt
      safeLow := x.safeLow || x.cableLow, insOk := x.insOk && x.supplyOk, fsHub := fs }
    let lost := decide (x.role = 2) && x.armed && !fs
    let s := s.setPort port (if lost then x.disarm else x)
    let s := if lost then (s.sbPush port 0 0x16 [0]).endArm port else s
    let s := (s.tryClose port).tryCaps port
    let x := s.port port
    if x.swapIn = some 1 then
      if x.swapNew ∧ x.keepRole = 1 ∧ !x.keepEn ∧ !keepOver x.vkeep 1000 then s.setPort port { x with keepEn := true } else s
    else s.keepUpdate port

def execFoldbackUpdate (port vhub vcab imeas vkeep : Nat) (pfltLow : Bool) (s : State) : Host.Outcome State Fault Refusal :=
  .next (effFoldbackUpdate port vhub vcab imeas vkeep pfltLow s)

/-- COMPARATOR_TRIP (R511, R530): the path opens with SHORT or OV. -/
def effComparatorTrip (port : Nat) (ov : Bool) (s : State) : State :=
  if s.sbOn port ∧ (s.port port).closed then s.powerFault port (if ov then 3 else 2) 4 else s

def execComparatorTrip (port : Nat) (ov : Bool) (s : State) : Host.Outcome State Fault Refusal := .next (effComparatorTrip port ov s)

/-- CURRENT_LIMIT_END (R527, R529): 1 ms out of current limit; the fault timer clears and qualification restarts. -/
def effCurrentLimitEnd (port : Nat) (s : State) : State :=
  let x := s.port port
  if s.sbOn port ∧ x.faultRun ∧ !x.inLimit then s.setPort port { x with faultRun := false, faultAt := 0, qualified := false } else s

def execCurrentLimitEnd (port : Nat) (s : State) : Host.Outcome State Fault Refusal := .next (effCurrentLimitEnd port s)

/-- FAULT_TIMER_EXPIRY (R529, R531): the fault timer has run its time. -/
def effFaultTimerExpiry (port : Nat) (s : State) : State :=
  let x := s.port port
  if s.sbOn port ∧ x.faultRun ∧ x.closed ∧ s.heldFor x.faultAt (x.pol.faultMs * 400000) then s.powerFault port 1 4 else s

def execFaultTimerExpiry (port : Nat) (s : State) : Host.Outcome State Fault Refusal := .next (effFaultTimerExpiry port s)

/-- The window a closed sink checks: both voltages' while a change is under way (R516, R535). -/
def PwrPort.sinkWindow (x : PwrPort) : Nat × Nat :=
  let a := x.pol.window x.vcode
  let b := x.pol.window x.lastV
  if x.st = pTransition ∧ x.changing ∧ x.lastV ≠ 0 then (min a.1 b.1, max a.2 b.2) else a

/-- UV_OV_FILTER (R530): 100 us outside the window at a closed sink. -/
def effUvOvFilter (port : Nat) (ov : Bool) (s : State) : State :=
  let x := s.port port
  let mv := adcMv x.vcab
  if !s.sbOn port ∨ x.role ≠ 2 ∨ !x.closed then s
  else if ov then (if adcOver x.vcab x.sinkWindow.2 then s.powerFault port 3 4 else s)
  else if mv < x.sinkWindow.1 then
    ((s.backToAttaching port).endContract port stTimeout).endSwapCmd port stTimeout
  else s

def execUvOvFilter (port : Nat) (ov : Bool) (s : State) : Host.Outcome State Fault Refusal := .next (effUvOvFilter port ov s)

/-- INSERTION_DELAY (R525, R538): the supply side has held the window for the insertion delay; at a closed 48 V sink, the hub side
has. -/
def effInsertionDelay (port : Nat) (s : State) : State :=
  let x := s.port port
  if !s.sbOn port ∨ !s.heldFor x.insAt (x.pol.insMs * 400000) then s
  else if x.role = 2 ∧ x.closed ∧ x.st = pContract then
    if x.vcode = 3 ∧ x.inWindow x.vhub then (s.setPort port { x with fsHub := true }).tryArm port else s
  else if x.supplyOk then (s.setPort port { x with insOk := true }).tryClose port else s

def execInsertionDelay (port : Nat) (s : State) : Host.Outcome State Fault Refusal := .next (effInsertionDelay port s)

/-- Within 10 % of the contract voltage (R527). -/
def PwrPort.near (x : PwrPort) (code : Nat) : Bool :=
  let n := nominalMv x.vcode
  decide (n ≠ 0 ∧ n * 9 / 10 ≤ adcMv code) && !adcOver code (n * 11 / 10)

/-- QUALIFICATION_DONE (R523, R527, R535, R536, R538, R550). -/
def effQualificationDone (port : Nat) (s : State) : State :=
  let x := s.port port
  if !s.sbOn port ∨ !x.closed ∨ x.faultRun ∨ x.inLimit ∨ x.qualified ∨ !x.near x.vhub ∨ !x.near x.vcab then s
  else
    let s := s.setPort port { x with qualified := true }
    let s :=
      if x.role = 1 ∧ x.st = pTransition then
        (s.modPort port fun x => { x with st := pContract, lastV := x.vcode, changing := false }).sbPush port 0 0x14 [0]
      else if x.role = 1 ∧ x.st = pSwap ∧ x.swapIn = some 0 ∧ x.swapNew then
        (s.sbPush port 0 0x14 [0]).finishSwap port 0
      else s
    let x := s.port port
    if x.st = pContract ∧ !x.conRep then (s.setPort port { x with conRep := true }).pwrEvent port 3 x.icon else s

def execQualificationDone (port : Nat) (s : State) : Host.Outcome State Fault Refusal := .next (effQualificationDone port s)

/-- DISCHARGE_DONE (R526, R536, R541): the cable has been below 0.8 V for 10 ms. -/
def effDischargeDone (port : Nat) (s : State) : State :=
  let x := s.port port
  if !s.sbOn port ∨ x.closed ∨ !x.cableLow then s
  else
    let s := s.setPort port { x with discharge := false, safeLow := true }
    if x.lostSt.isSome then
      let s := s.modPort port fun x => { x with lostSt := none, st := pDetached, role := 0 }
      (s.pwrEvent port 2 0).attachPower port
    else if x.st = pSwap ∧ x.swapIn = some 0 ∧ !x.swapNew ∧ !x.fast ∧ x.role = 1 then
      (s.modPort port fun x => { x with role := 2 }).sbPush port 0 0x14 [2]
    else s.tryCaps port

def execDischargeDone (port : Nat) (s : State) : Host.Outcome State Fault Refusal := .next (effDischargeDone port s)

/-- The conditions of R532. -/
def PwrPort.shorted (x : PwrPort) : Bool :=
  let lim := nominalMv (if x.vcode ≠ 0 then x.vcode else if x.lastV ≠ 0 then x.lastV else 1) / 10
  !x.closed && x.pdis && adcOver x.vcab lim && adcOver x.vhub lim

/-- FET_SHORT (R532). -/
def effFetShort (port : Nat) (s : State) : State :=
  let x := s.port port
  if !s.sbOn port ∨ !x.shorted ∨ x.st = pLatched then s
  else
    let fed := decide (x.role = 1 ∨ x.convOp = pmbOn)
    let s := s.setPort port { x.openPath.clearContract with
      st := pLatched, cause := 6, lastV := if x.vcode ≠ 0 then x.vcode else x.lastV, lostSt := none }
    let s := s.sbPush port 0 0x17 [1]
    let s := [0, 1, 2].foldl (fun s q =>
      if (s.port q).role = 2 ∧ pTransition ≤ (s.port q).st ∧ (s.port q).st ≤ pSwap then s.sbPush q 0 0x17 [2] else s) s
    let s := if fed then s.convOperate port 0 else s
    ((s.pwrEvent port 7 0).endContract port stTimeout).endSwapCmd port stTimeout

def execFetShort (port : Nat) (s : State) : Host.Outcome State Fault Refusal := .next (effFetShort port s)

/-- RETRY_TIMER_EXPIRY (R523, R531, R537): the retry timer of the port, or of its KEEP, has run its time. -/
def effRetryTimerExpiry (port : Nat) (keep : Bool) (s : State) : State :=
  let x := s.port port
  if !s.sbOn port then s
  else if keep then
    if x.keepFault ∧ s.heldFor x.keepAt (x.pol.retry10 * 4000000) then (s.setPort port { x with keepFault := false }).keepUpdate port else s
  else if x.st = pFault ∧ x.lostSt = none ∧ s.heldFor x.retryAt (x.pol.retry10 * 4000000) then
    (s.setPort port { x with st := pAttaching, insOk := false, safeLow := x.cableLow }).tryCaps port
  else s

def execRetryTimerExpiry (port : Nat) (keep : Bool) (s : State) : Host.Outcome State Fault Refusal :=
  .next (effRetryTimerExpiry port keep s)

/-! ### KEEP -/

/-- KEEP_OFF_DONE (R537): the old KEEP source's line is below 1 V. -/
def effKeepOffDone (port : Nat) (s : State) : State :=
  let x := s.port port
  if s.pwrOn port ∧ x.swapIn = some 1 ∧ !x.swapNew ∧ x.keepRole = 1 ∧ !x.keepEn ∧ keepMv x.vkeep < 1000 then
    (s.setPort port { x with keepRole := 2 }).sbPush port 0 0x14 [3]
  else s

def execKeepOffDone (port : Nat) (s : State) : Host.Outcome State Fault Refusal := .next (effKeepOffDone port s)

/-- KEEP_SENSE_FAULT (R537): 10 ms outside 10.0 to 14.0 V while on. -/
def effKeepSenseFault (port : Nat) (s : State) : State :=
  let x := s.port port
  let mv := keepMv x.vkeep
  if s.pwrOn port ∧ x.keepEn ∧ (mv < 10000 ∨ keepOver x.vkeep 14000) then
    let latch := decide (3 ≤ x.keepRetries)
    (s.setPort port { x with
      keepEn := false, keepLatch := latch, keepFault := !latch, keepRetries := min 3 (x.keepRetries + 1),
      keepAt := s.uptime + 1 }).pwrEvent port 0x0C (mv / 100)
  else s

def execKeepSenseFault (port : Nat) (s : State) : Host.Outcome State Fault Refusal := .next (effKeepSenseFault port s)

/-- KEEP_IN_RANGE (R537): the new KEEP source's line is between 10.8 and 13.2 V. -/
def effKeepInRange (port : Nat) (s : State) : State :=
  let x := s.port port
  let mv := keepMv x.vkeep
  if s.pwrOn port ∧ x.swapIn = some 1 ∧ x.swapNew ∧ x.keepEn ∧ 10800 ≤ mv ∧ !keepOver x.vkeep 13200 then
    (s.sbPush port 0 0x14 [1]).finishSwap port 1
  else s

def execKeepInRange (port : Nat) (s : State) : Host.Outcome State Fault Refusal := .next (effKeepInRange port s)

/-! ### Fast swap -/

/-- FAST_SWAP_CROSSING (R538): the cable falls below FSPCT of 48 V while armed. -/
def effFastSwapCrossing (port : Nat) (s : State) : State :=
  let x := s.port port
  if s.pwrOn port ∧ x.armed ∧ x.st = pContract ∧ 100 * adcMv x.vcab < x.pol.fsPct * 48000 then
    if x.role = 1 then
      (s.setPort port { x.openPath with
        st := pSwap, role := 2, swapIn := some 0, swapNew := false, fast := true, psRdy := false, crossAt := s.uptime,
        discharge := false }).convIdle port
    else
      s.setPort port { x.openPath with
        st := pSwap, role := 1, swapIn := some 0, swapNew := true, fast := true, psRdy := false, crossAt := s.uptime,
        discharge := false }
  else s

def execFastSwapCrossing (port : Nat) (s : State) : Host.Outcome State Fault Refusal := .next (effFastSwapCrossing port s)

/-- FAST_SWAP_CLOSE (R538, R550): the armed sink closes 20 to 50 us after the crossing, while it holds carrier, whatever the cable
side reads. -/
def effFastSwapClose (port : Nat) (s : State) : State :=
  let x := s.port port
  if s.pwrOn port ∧ x.st = pSwap ∧ x.fast ∧ x.swapNew ∧ !x.closed ∧ x.sb0.carrier ∧ x.lostSt = none
      ∧ x.crossAt + 8000 ≤ s.uptime ∧ s.uptime ≤ x.crossAt + 20000 then
    (s.setPort port x.closePath).pwrEvent port 0x0A ((s.uptime - x.crossAt) / 400)
  else s

def execFastSwapClose (port : Nat) (s : State) : Host.Outcome State Fault Refusal := .next (effFastSwapClose port s)

/-! ### Transitions and the converter -/

/-- TRANSITION_TIMEOUT (R535): 100 ms after ACCEPT at the source. -/
def effTransitionTimeout (port : Nat) (s : State) : State :=
  let x := s.port port
  if s.sbOn port ∧ x.role = 1 ∧ x.st = pTransition ∧ (x.changing ∨ !(x.closed || x.inWindow x.vhub)) then s.powerFault port 5 3 else s

def execTransitionTimeout (port : Nat) (s : State) : Host.Outcome State Fault Refusal := .next (effTransitionTimeout port s)

/-- A PMBus LINEAR16 value in 10 mV. -/
def linear16 (v : Nat) (e : Int) : Nat := if 0 ≤ e then v * 100 * 2 ^ e.toNat else v * 100 / 2 ^ (-e).toNat

/-- A PMBus LINEAR11 value in hundredths, not below 0. -/
def linear11 (v : Nat) : Nat :=
  let m := (signed 11 (bits v 10 0)).toNat
  let e := signed 5 (bits v 15 11)
  if 0 ≤ e then m * 100 * 2 ^ e.toNat else m * 100 / 2 ^ (-e).toNat

/-- PMBUS_DONE (R534, R544): a transaction is acknowledged, or fails and is retried twice. -/
def effPmbusDone (port op value : Nat) (ok : Bool) (s : State) : State :=
  let x := s.port port
  if !s.sbOn port ∨ !x.pol.given ∨ x.pol.pmbus = 0 then s
  else if !ok then
    if x.pmbTries < 2 then (s.setPort port { x with pmbTries := x.pmbTries + 1 }).pmbus port op value
    else ((s.setPort port { x with pmbTries := 0 }).powerFault port 4 4).pwrEvent port 0x0D 0xFFFF
  else
    let x := { x with pmbTries := 0 }
    if op = pmbReadVout then s.setPort port { x with convVout := min 65535 (linear16 (value % 65536) x.pol.vexp) }
    else if op = pmbReadIout then s.setPort port { x with convIout := min 65535 (linear11 (value % 65536)) }
    else if op = pmbStatus then
      let s := s.setPort port x
      if value &&& 0x3C ≠ 0 ∨ (bit value 6 ∧ x.convOp = pmbOn) then (s.powerFault port 4 4).pwrEvent port 0x0D (value % 65536)
      else s
    else s.setPort port x

def execPmbusDone (port op value : Nat) (ok : Bool) (s : State) : Host.Outcome State Fault Refusal :=
  .next (effPmbusDone port op value ok s)

/-- PMB_ALERT (R534): STATUS_WORD is read from every converter, at most once per 10 ms. -/
def effPmbAlert (s : State) : State :=
  if s.ret.inReset ∨ s.ret.mode = .dormant ∨ !s.passed s.pwr.alertAt 4000000 then s
  else [0, 1, 2].foldl (fun s p => s.pmbus p pmbStatus 0) { s with pwr := { s.pwr with alertAt := s.uptime + 1 } }

def execPmbAlert (s : State) : Host.Outcome State Fault Refusal := .next (effPmbAlert s)

/-- VOUT_SLEW_STEP (R534): 1 V toward the target each millisecond. -/
def effVoutSlewStep (port : Nat) (s : State) : State :=
  let x := s.port port
  if s.sbOn port ∧ x.convOp = pmbOn ∧ x.convV ≠ x.convTgt then
    let v := if x.convV < x.convTgt then min x.convTgt (x.convV + 1000) else max x.convTgt (x.convV - 1000)
    (s.setPort port { x with convV := v }).pmbus port pmbVout (voutCode v x.pol.vexp)
  else s

def execVoutSlewStep (port : Nat) (s : State) : Host.Outcome State Fault Refusal := .next (effVoutSlewStep port s)

/-- CONVERTER_POLL (R544): READ_VOUT and READ_IOUT of each source port. -/
def effConverterPoll (s : State) : State :=
  [0, 1, 2].foldl (fun s p =>
    if s.sbOn p ∧ (s.port p).role = 1 then (s.pmbus p pmbReadVout 0).pmbus p pmbReadIout 0 else s) s

def execConverterPoll (s : State) : Host.Outcome State Fault Refusal := .next (effConverterPoll s)

/-! ### Commands -/

/-- PORT, and whether the port is there (R543). -/
def Cmd.pport (c : Cmd) : Nat := c.f 4 1 0
def State.pportOk (s : State) (c : Cmd) : Bool := s.portEnabled (c.f 4 1 0)

def layPwrQuery (c : Cmd) : Layout := { masks := [(4, mk 1 0)], enc := decide (c.f 4 1 0 < 3) }

/-- PWR_QUERY (R543, R544). -/
def execPwrQuery (c : Cmd) (s : State) : Host.Outcome State Fault Refusal :=
  .next <| s.runCmd c 0x0D00 (layPwrQuery c) true fun s =>
    if !s.pportOk c then s.complete c stNotPresent [] else s.complete c stOk (s.portWords (c.f 4 1 0))

def layPwrContract (c : Cmd) : Layout :=
  { masks := [(4, mk 5 0), (5, mk 8 0)], enc := decide (c.f 4 1 0 < 3 ∧ c.f 4 3 2 < 3) }

/-- PWR_CONTRACT (R543, R545). -/
def execPwrContract (c : Cmd) (s : State) : Host.Outcome State Fault Refusal :=
  .next <| s.runCmd c 0x0D01 (layPwrContract c) false fun s =>
    let p := c.f 4 1 0
    let x := s.port p
    let act := c.f 4 3 2
    let v := c.f 4 5 4
    let i := c.f 5 8 0
    if !s.authZ c then s.complete c stNotGranted []
    else if !s.pportOk c then s.complete c stNotPresent []
    else if (x.st ≠ pAttaching ∧ x.st ≠ pContract) ∨ x.lostSt.isSome ∨ (act = 0 ∧ x.role ≠ 2) ∨ (act = 1 ∧ x.role ≠ 1) then
      s.complete c stWrongMode []
    else if act < 2 ∧ x.cmd.isSome then s.complete c stBusy []
    else if act = 0 then
      match x.caps.findIdx? fun o => decide (o.1 = v) with
      | none => s.complete c stLimit []
      | some n =>
        let lim := ((x.caps[n]?).getD (0, 0)).2
        if lim < i ∨ (x.pol.given ∧ x.polNew.sinkMax < i) ∨ x.noReq then s.complete c stLimit []
        else (s.modPort p fun x => { x with cmd := some c }).sendRequest p n v i
    else if act = 1 then
      if x.polNew.offerList = [] then s.complete c stLimit []
      else
        (s.modPort p fun x => { x with cmd := some c, st := if x.st = pAttaching then pNegotiating else x.st }).pushCaps p
    else
      let s := (((s.backToAttaching p).sbPush p 0 0x17 [0]).endContract p stTimeout).endSwapCmd p stTimeout
      let s := s.modPort p fun y => { y with lastV := if x.vcode ≠ 0 then x.vcode else x.lastV }
      (s.tryCaps p).complete c stOk []

def layPwrSwap (c : Cmd) : Layout := { masks := [(4, mk 4 0)], enc := decide (c.f 4 1 0 < 3 ∧ c.f 4 4 3 < 3) }

/-- PWR_SWAP (R537 to R539, R543, R546). -/
def execPwrSwap (c : Cmd) (s : State) : Host.Outcome State Fault Refusal :=
  .next <| s.runCmd c 0x0D02 (layPwrSwap c) false fun s =>
    let p := c.f 4 1 0
    let x := s.port p
    let r := c.f 4 2 2
    let act := c.f 4 4 3
    let far : Bool := match x.sb0.ident with | some i => i.fsEn && i.blk | none => false
    if !s.authZ c then s.complete c stNotGranted []
    else if !s.pportOk c then s.complete c stNotPresent []
    else if x.lostSt.isSome ∨ x.swapIn.isSome ∨ (x.st ≠ pContract ∧ !(decide (act = 0 ∧ r = 1 ∧ x.st ≤ pNegotiating)))
        ∨ (act = 0 ∧ r = 1 ∧ x.keepRole = 0) then
      s.complete c stWrongMode []
    else if act = 2 then
      (((s.setPort p x.disarm).sbPush p 0 0x16 [0]).endArm p).complete c stOk []
    else if act = 1 ∧ x.armed then s.complete c stOk []
    else if x.swapCmd.isSome ∨ x.swapRes.isSome then s.complete c stBusy []
    else if act = 1 then
      if x.vcode ≠ 3 ∨ !s.fsOk p ∨ !far ∨ !x.capsFsOk ∨ (x.role = 2 ∧ !x.fsHub) then s.complete c stDenied []
      else (s.setPort p { x with swapCmd := some c }).sbPush p 0 0x16 [1]
    else if !s.canSwap p r then s.complete c stDenied []
    else (s.setPort p { x with swapCmd := some c }).sendSwap p r

def layPwrLimits (c : Cmd) : Layout :=
  { masks := [(4, mk 7 3 + mk 1 0), (5, mk 31 16 + mk 8 0), (6, mk 27 0), (7, mk 31 30 + mk 26 0), (8, mk 16 0)],
    enc := decide (c.f 4 1 0 < 3 ∧ c.f 7 31 30 < 3) }

/-- Every value of an applied group lies in its range (R547). -/
def pwrLimitsOk (c : Cmd) : Bool :=
  (!c.b 4 3 || decide (1 ≤ c.f 5 31 24 ∧ c.f 5 31 24 ≤ 50 ∧ c.f 5 23 16 ≤ 50 ∧ 10 ≤ c.f 5 8 0 ∧ c.f 5 8 0 ≤ 500))
    && (!c.b 4 4 || decide (10 ≤ c.f 6 27 18 ∧ c.f 6 27 18 ≤ 1000 ∧ 10 ≤ c.f 6 17 8 ∧ c.f 6 17 8 ≤ 1000
          ∧ 1 ≤ c.f 6 7 0 ∧ c.f 6 7 0 ≤ 200))
    && (!c.b 4 7 || decide (70 ≤ c.f 8 7 0 ∧ c.f 8 7 0 ≤ 90))

/-- The policy with the applied groups of PWR_LIMITS: the fusing group with `fuse`, the groups a contract waits for with
`rest`; the KEEP policy is no part of a contract (R547). -/
def PwrPol.limits (q : PwrPol) (c : Cmd) (fuse rest : Bool) : PwrPol :=
  let q := if c.b 4 3 ∧ fuse then { q with vdsMin := c.f 5 31 24, iMargin := c.f 5 23 16, pLim := c.f 5 8 0 } else q
  let q := if c.b 4 4 ∧ rest then { q with insMs := c.f 6 27 18, retry10 := c.f 6 17 8, faultMs := c.f 6 7 0 } else q
  let q := if c.b 4 5 ∧ rest then
      { q with offers := { i48 := c.f 7 26 18, i24 := c.f 7 17 9, i12 := c.f 7 8 0 }, sinkMax := c.f 8 16 8 } else q
  let q := if c.b 4 6 then { q with keepPol := c.f 7 31 30 } else q
  if c.b 4 7 ∧ rest then { q with fsPct := c.f 8 7 0 } else q

/-- PWR_LIMITS (R512, R543, R547). -/
def execPwrLimits (c : Cmd) (s : State) : Host.Outcome State Fault Refusal :=
  .next <| s.runCmd c 0x0D03 (layPwrLimits c) false fun s =>
    let p := c.f 4 1 0
    let x := s.port p
    let offer := decide (c.f 7 26 18 ≠ 0 ∨ c.f 7 17 9 ≠ 0 ∨ c.f 7 8 0 ≠ 0)
    if !s.authZ c then s.complete c stNotGranted []
    else if !s.pportOk c then s.complete c stNotPresent []
    else if !pwrLimitsOk c then s.complete c stBadParam []
    else if c.b 4 5 ∧ (x.pol.portMax < c.f 7 26 18 ∨ x.pol.portMax < c.f 7 17 9 ∨ x.pol.portMax < c.f 7 8 0
        ∨ x.pol.portMax < c.f 8 16 8 ∨ (offer ∧ x.pol.pmbus = 0)) then
      s.complete c stLimit []
    else
      let x' :=
        if x.vcode = 0 then { x with pol := x.pol.limits c true true }
        else { x with pol := x.pol.limits c true false, pendPol := some (x.polNew.limits c true true) }
      let s := (s.setPort p x').keepUpdate p
      let s := if c.b 4 6 then s.pushIdent p 0 else s
      (s.tryCaps p).complete c stOk []

def layPwrResetFault (c : Cmd) : Layout := { masks := [(4, mk 2 0)], enc := decide (c.f 4 1 0 < 3) }

/-- PWR_RESET_FAULT (R531, R537, R543, R548). -/
def execPwrResetFault (c : Cmd) (s : State) : Host.Outcome State Fault Refusal :=
  .next <| s.runCmd c 0x0D04 (layPwrResetFault c) false fun s =>
    let p := c.f 4 1 0
    let x := s.port p
    if !s.authZ c then s.complete c stNotGranted []
    else if !s.pportOk c then s.complete c stNotPresent []
    else if x.shorted ∧ (x.st = pLatched ∨ x.st = pFault) then s.complete c stDenied []
    else if c.b 4 2 then
      ((s.setPort p { x with keepLatch := false, keepRetries := 0 }).keepUpdate p).complete c stOk []
    else if x.st = pLatched ∨ x.st = pFault then
      let s := s.setPort p { x with st := pDetached, retries := 0, role := 0, lostSt := none, discharge := false }
      (s.attachPower p).complete c stOk []
    else s.complete c stOk []

def layPwrLog (c : Cmd) : Layout :=
  { ind := true, masks := [(4, mk 16 8 + mk 6 0)] ++ (if c.indirect then [(5, mkAll), (6, mkAll)] else []),
    outAddr := if c.indirect then c.w64 5 else 0 }

def PwrLogEnt.ws (e : PwrLogEnt) : List Word := [e.w0, e.w1, e.w2, e.w3]

/-- PWR_LOG (R543, R549). -/
def execPwrLog (c : Cmd) (s : State) : Host.Outcome State Fault Refusal :=
  .next <| s.runCmd c 0x0D05 (layPwrLog c) true fun s =>
    let start := c.f 4 6 0
    let n := c.f 4 15 8
    let ent (i : Nat) : PwrLogEnt := (s.pwr.log[start + i]?).getD PwrLogEnt.init
    if c.b 4 16 ∧ !s.authZ c then s.complete c stNotGranted []
    else if n = 0 ∨ 128 < n ∨ (!c.indirect ∧ n ≠ 1) then s.complete c stBadParam []
    else
      let s' := if c.b 4 16 then { s with pwr := { s.pwr with log := [] } } else s
      if c.indirect then (s'.output c (c.w64 5) ((List.range n).flatMap fun i => bytesOf (ent i).ws)).complete c stOk []
      else s'.complete c stOk (ent 0).ws

/-! ### Modes -/

/-- The Safe power policy acts on every path (R77). -/
def State.pwrSafe (s : State) : State :=
  if !s.safeOpen then s
  else
    [0, 1, 2].foldl (fun s p =>
      let x := s.port p
      let s :=
        if x.st = pDetached ∨ pFault ≤ x.st then s
        else
          let s := s.modPort p fun y => { y.openPath.clearContract with
            st := pAttaching, lastV := if y.vcode ≠ 0 then y.vcode else y.lastV }
          if x.role = 1 then s.convIdle p else s
      (((s.modPort p fun y => { y with keepEn := false }).endContract p stAborted).endSwapCmd p stAborted)) s

/-- The hub leaves the core modes with the open policy: GOODBYE reason 5, then the path opens (R542). -/
def State.pwrLeave (s : State) : State :=
  let hold : Bool := match s.ret.policy with | some q => q.safeHold | none => false
  if hold then s
  else
    [0, 1, 2].foldl (fun s p =>
      let x := s.port p
      if x.st = pDetached ∨ pFault ≤ x.st ∨ x.lostSt.isSome then s
      else
        let s := (s.sbPush p 0 0x17 [5]).backToAttaching p
        let s := s.modPort p fun y => { y with lastV := if x.vcode ≠ 0 then x.vcode else x.lastV }
        (s.endContract p stAborted).endSwapCmd p stAborted) s

end Sys2Proof.Machine
end

