-- ==== Sys2Proof/Machine/ImgOps.lean ====
section
/-! DEFINITION. Configuration images: the header and sections of a slot, the order of verification, and what each record
sets when the image is applied (R566 to R572). -/

namespace Sys2Proof.Machine

/-- SHA-384, by number (R569). -/
def cfHash : Nat := 21

/-! ### Records -/

/-- A record's value as a command with the authority of slice 0: its words stand from DW4 on (R571; log entry 40). -/
def recCmd (tag op : Nat) (v : List Byte) : Cmd :=
  let n := v.length / 4
  { hub := 0, slice := 0, here := true, sys := true, htag := 65536 + tag
    dw := [word (op + fld 16 (4 + n)), 0, 0, 0] ++ wordsOf n v }

/-- A little-endian field of a value. -/
def ImgRec.le (r : ImgRec) (i k : Nat) : Nat := fromLe ((r.value.drop i).take k)

def ImgRec.len (r : ImgRec) : Nat := r.value.length

/-- The command forms a record of the image stands for. -/
def ImgRec.cmd (r : ImgRec) (op : Nat) : Cmd := recCmd r.tag op r.value

/-- 0201h: the words of PWR_LIMITS, then the port's own settings (R512, Table 18.9). -/
def pwrRecOk (r : ImgRec) : Bool :=
  let c := recCmd r.tag 0x0D03 (r.value.take 20)
  let top := r.le 20 2
  decide (r.len = 32) && c.layoutOk (layPwrLimits c) && pwrLimitsOk c
    && decide (1 ≤ top ∧ top ≤ 300) && decide (r.le 29 1 < 8 ∧ r.le 30 2 = 0)
    && (!c.b 4 5 || decide (c.f 7 26 18 ≤ top ∧ c.f 7 17 9 ≤ top ∧ c.f 7 8 0 ≤ top ∧ c.f 8 16 8 ≤ top
          ∧ (r.le 26 1 = 0 → c.w 7 % 2 ^ 27 = 0)))

/-- Runs of the safety page: count and colour (R572). -/
def pageRuns : Nat → List Byte → List (Nat × Nat)
  | 0, _ => []
  | n + 1, bs => if bs.length < 4 then [] else (fromLe ((bs.drop 3).take 1) + 1, fromLe (bs.take 3)) :: pageRuns n (bs.drop 4)

def ImgRec.runs (r : ImgRec) : List (Nat × Nat) := pageRuns (r.len / 4) (r.value.drop 4)

/-- The strings of record 0602h: two of them, each a length byte and whole UTF-16 units. -/
def stringsOk (bs : List Byte) : Bool :=
  let n := (bs.headD 0).toNat
  let m := ((bs.drop (1 + n)).headD 0).toNat
  decide (bs.length = 2 + n + m) && decide (n % 2 = 0 ∧ m % 2 = 0)

/-- k of a port's time exchanges is good (R271). -/
def exchOk (k : Nat) : Bool := decide (1 ≤ k ∧ k ≤ 800) && decide (8000 % k = 0)

/-- Receive-buffer division (R166). -/
def allocOk (cs : List Nat) : Bool := cs.all (fun n => decide (n = 0 ∨ 33 ≤ n)) && decide (sumN cs ≤ 1024)

/-- Words of a value, eight bytes to each. -/
def longs : Nat → List Byte → List Nat
  | 0, _ => []
  | n + 1, bs => fromLe (bs.take 8) :: longs n (bs.drop 8)

/-- BOARD records (Table 18.9). -/
def boardRecOk (r : ImgRec) : Bool :=
  let n := r.len
  let form (k op : Nat) (lay : Cmd → Layout) (more : Cmd → Bool) : Bool :=
    let c := r.cmd op
    decide (n = 4 * k) && c.layoutOk (lay c) && more c
  let sleepOk (c : Cmd) : Bool :=
    decide (c.f 4 27 24 ≤ 10 ∧ 1 ≤ c.f 5 9 0 ∧ c.f 5 9 0 ≤ 1000 ∧ 100 ≤ c.f 6 19 0 ∧ c.f 6 19 0 ≤ 1000000 ∧ c.f 5 9 0 < c.f 6 19 0)
  let macOk (c : Cmd) : Bool := decide (c.f 4 31 30 = 0 ∧ c.f 4 4 2 ≤ 3 ∧ 1518 ≤ c.f 5 13 0 ∧ c.f 5 13 0 ≤ 9216)
  if r.tag = 0x0101 then decide (n = 2 ∧ r.le 0 1 < 32 ∧ r.le 1 1 < 128)
  else if r.tag = 0x0102 then decide (n = 8)
  else if r.tag = 0x0103 then decide (1 ≤ n ∧ n ≤ 4 ∧ r.le 0 n < 32)
  else if r.tag = 0x0104 then decide (n = 5) && r.value.all fun b => decide (b.toNat < 16)
  else if r.tag = 0x0105 then decide (n = 1536) && (longs 192 r.value).all fun e =>
    decide (bits e 62 56 = 0 ∧ bits e 31 28 = 0 ∧ bits e 3 0 = 0)
  else if r.tag = 0x0106 then decide (n = 3) && r.value.all fun b => decide (2 ≤ b.toNat ∧ b.toNat ≤ 64)
  else if r.tag = 0x0107 then decide (n = 16) && allocOk ((List.range 8).map fun i => r.le (2 * i) 2)
  else if r.tag = 0x0108 then form 1 0x0102 layPaceSet fun _ => true
  else if r.tag = 0x0109 then form 3 0x0202 layLinkSleep sleepOk
  else if r.tag = 0x010A then form 6 0x0500 laySchedClassSet fun _ => true
  else if r.tag = 0x010B then form 2 0x0603 layTimeSource fun _ => true
  else if r.tag = 0x010C then decide (n = 12) && [0, 1, 2].all fun p => exchOk (r.le (4 * p) 2)
  else if r.tag = 0x010D then decide (2 ≤ n ∧ n ≤ 4 ∧ 100 ≤ r.le 0 n ∧ r.le 0 n ≤ 60000)
  else if r.tag = 0x010E then decide (n = 9 ∧ 28 ≤ r.le 8 1 ∧ r.le 8 1 ≤ 36)
  else if r.tag = 0x010F then decide (1 ≤ n ∧ n ≤ 4 ∧ r.le 0 n < 2)
  else if r.tag = 0x0110 then form 3 0x0A00 layNetPort macOk
  else if r.tag = 0x0111 then form 4 0x0B00 layCanCfg fun c => !canCfgBad c && !canRateBad c
  else if r.tag = 0x0112 then decide (1 ≤ n ∧ n ≤ 4 ∧ r.le 0 n < 64)
  else false

/-- Records of the other sections (Table 18.9). -/
def otherRecOk (r : ImgRec) : Bool :=
  let n := r.len
  let form (k op : Nat) (lay : Cmd → Layout) (more : Cmd → Bool) : Bool :=
    let c := r.cmd op
    decide (n = 4 * k) && c.layoutOk (lay c) && more c
  let timing (c : Cmd) : Bool := decide (c.w 9 < 1000000000) && (timingOf c 0).ok
  let uc (c : Cmd) : Bool := decide (c.f 4 2 1 = 0 ∧ c.f 5 7 0 ≠ 0 ∧ c.f 5 15 8 ≠ 0)
  if r.tag = 0x0201 then pwrRecOk r
  else if r.tag = 0x0202 then
    let v := r.le 0 1 / 4 % 4
    let w := PwrPol.init.window v
    decide (n = 5 ∧ r.le 0 1 < 16 ∧ r.le 0 1 % 4 < 3 ∧ 1 ≤ v ∧ w.1 ≤ r.le 1 2 ∧ r.le 1 2 ≤ r.le 3 2 ∧ r.le 3 2 ≤ w.2)
  else if r.tag = 0x0301 then form 12 0x0400 layTunOpen fun _ => true
  else if r.tag = 0x0302 then form 4 0x0503 laySchedWindowSet fun _ => true
  else if r.tag = 0x0303 then form 3 0x0504 laySchedBounds fun _ => true
  else if r.tag = 0x0401 then
    let k := (n - 4) / 8
    decide (4 ≤ n ∧ n % 8 = 4 ∧ r.le 0 4 + k ≤ 32768) && (longs k (r.value.drop 4)).all legOk
  else if r.tag = 0x0402 ∨ r.tag = 0x0403 then decide (2 ≤ n ∧ n ≤ 4 ∧ r.le 0 n < 32768)
  else if r.tag = 0x0404 then decide (n = 16)
  else if r.tag = 0x0405 then form 2 0x0705 layTravActCfg fun _ => true
  else if r.tag = 0x0501 then form 9 0x0800 layTiming timing
  else if r.tag = 0x0502 then
    let px := r.le 0 2 * r.le 2 2
    decide (4 ≤ n ∧ n % 4 = 0 ∧ 3 * px ≤ 8388608) && decide (sumN (r.runs.map Prod.fst) = px)
  else if r.tag = 0x0503 then decide (n = 6 ∧ r.le 5 1 < 4)
  else if r.tag = 0x0504 then form 2 0x0804 layUndercoat uc
  else if r.tag = 0x0601 then decide (n = 6 ∧ r.le 5 1 ≤ 8)
  else if r.tag = 0x0602 then stringsOk r.value
  else if r.tag = 0x0701 then decide (2 ≤ n ∧ n ≤ 4 ∧ 100 ≤ r.le 0 n ∧ r.le 0 n ≤ 10000)
  else if r.tag = 0x0702 then decide (n = 100 ∧ r.le 0 1 < 64 ∧ r.le 1 3 = 0)
  else false

/-- A record that does not fail the image (R571). -/
def recOk (sect : Nat) (r : ImgRec) : Bool :=
  bit r.tag 15 || (decide (r.tag / 256 = sect) && (boardRecOk r || otherRecOk r))

/-! ### Sections -/

def zeros (bs : List Byte) : Bool := bs.all fun b => decide (b = 0)

/-- The records of a section (R571). -/
def parseRecs : Nat → List Byte → Option (List ImgRec)
  | 0, _ => none
  | n + 1, bs =>
    let len := fromLe ((bs.drop 2).take 2)
    let pad := 4 * ceilDiv len 4
    if bs = [] then some []
    else if bs.length < 4 + pad ∨ !zeros (((bs.drop 4).take pad).drop len) then none
    else (parseRecs n (bs.drop (4 + pad))).map fun rs => { tag := fromLe (bs.take 2), value := (bs.drop 4).take len } :: rs

/-- The sections of a plaintext body, each TYPE at most once; zeros after the last one are the body's padding (R571; log
entry 41). -/
def parseSections : Nat → List Nat → List Byte → Option (List ImgRec)
  | 0, _, _ => none
  | n + 1, seen, bs =>
    let typ := fromLe (bs.take 1)
    let len := fromLe ((bs.drop 4).take 4)
    if zeros bs then some []
    else if bs.length < 8 + len ∨ typ = 0 ∨ 7 < typ ∨ seen.contains typ ∨ fromLe ((bs.drop 1).take 3) ≠ 1 ∨ len % 4 ≠ 0 then none
    else
      match parseRecs (len / 4 + 1) ((bs.drop 8).take len), parseSections n (typ :: seen) (bs.drop (8 + len)) with
      | some rs, some more => if rs.all (recOk typ) then some ((rs.filter fun r => !bit r.tag 15) ++ more) else none
      | _, _ => none

/-! ### A slot -/

/-- Bytes of a slot: erased flash, then the pieces in the order they were written (R575; log entry 41). -/
def slotBytes (ps : List StagePiece) : List Byte :=
  let put (bs : List Byte) (p : StagePiece) : List Byte := bs.take p.offset ++ p.bytes ++ bs.drop (p.offset + p.bytes.length)
  ps.foldl put (List.replicate 0x200000 0xFF)

/-- The key that WCEK is wrapped under: from EPHPUB and the image receipt key (R568). -/
def imgKek (die hdr : List Byte) : List Byte :=
  kdf (Config.crypto cfEcdh [[4], receiptKey die, (hdr.drop 0x21).take 96] 48) "HZ CEK" ((hdr.drop 0x14).take 8) 32

/-- What the decryption of a body takes: the content key unwrapped from WCEK, IV, the AAD, the ciphertext and TAG (Table 18.7,
R568). -/
def imgIns (die hdr body : List Byte) : List (List Byte) :=
  gcmIns (Config.crypto cfUnwrap [imgKek die hdr, (hdr.drop 0x88).take 40] 32) ((hdr.drop 0xB0).take 12) (hdr.take 0xC0)
    (body ++ (hdr.drop 0xC0).take 16)

/-- What verification reads from a slot's bytes, on the die with this unit ID (R567 to R571). -/
def slotOf (die : List Byte) (ps : List StagePiece) : FlashSlot :=
  let bs := slotBytes ps
  let le (i k : Nat) : Nat := fromLe ((bs.drop i).take k)
  let n := le 0x10 4
  let hdr := bs.take 256
  let body := (bs.drop 256).take n
  let sig := (bs.drop (256 + n)).take 256
  let good := decide (le 0 4 = 0x4D495A48 ∧ le 4 2 = 1 ∧ le 6 2 = 0x100 ∧ le 0xE 2 = 0x4812 ∧ n % 16 = 0 ∧ n ≤ 0x1FFE00
    ∧ le 0xC 1 ≤ 64 ∧ 1 ≤ le 0xD 1 ∧ le 0xD 1 ≤ 3)
    && zeros ((bs.drop 0x1C).take 4) && zeros ((bs.drop 0x81).take 7) && zeros ((bs.drop 0xBC).take 4)
    && zeros ((bs.drop 0xD0).take 48) && zeros (sig.drop 0xC1)
  let plain := parseSections 9 [] (Config.crypto cfGcmOpen (imgIns die hdr body) n)
  { hdrOk := good
    unit := BitVec.ofNat 64 (le 0x14 8)
    sigOk := decide (sig.take 1 = [4]) && Config.cryptoOk cfVerify [(sig.drop 1).take 96, hdr ++ body, (sig.drop 0x61).take 96]
    signer := fromLe (Config.crypto cfHash [sig.take 97] 48)
    bodyOk := decide ((hdr.drop 0x20).take 1 = [4]) && Config.cryptoOk cfUnwrap [imgKek die hdr, (hdr.drop 0x88).take 40]
      && Config.cryptoOk cfGcmOpen (imgIns die hdr body)
    sectOk := plain.isSome
    imgVer := word (le 8 4), minSvn := le 0xC 1, dataVer := le 0xD 1
    staged := ps, verified := false, records := plain.getD [] }

def State.slotN (s : State) (k : Nat) : FlashSlot := if k = 0 then s.nv.slotA else s.nv.slotB

def State.setSlot (s : State) (k : Nat) (x : FlashSlot) : State :=
  if k = 0 then { s with nv := { s.nv with slotA := x } } else { s with nv := { s.nv with slotB := x } }

/-- A slot's image is confirmed by the BOOT record (R573). -/
def State.confirmed (s : State) (k : Nat) : Bool := if k = 0 then s.area.confA else s.area.confB

/-- Verification of a slot in the order of Table 18.8: the failing step, 0 for none. -/
def State.imgVerify (s : State) (k : Nat) (bad : Bool) : Nat :=
  let x := s.slotN k
  let root := match s.nv.rootHash with
    | some h => decide (h = x.signer)
    | none => true
  if !x.hdrOk then 1
  else if x.unit ≠ s.nv.unitId then 2
  else if !root ∨ !x.sigOk then 3
  else if x.minSvn < s.nv.counter then 4
  else if bad ∨ !x.bodyOk then 5
  else if !x.sectOk then 6
  else if x.dataVer < s.area.version ∧ !(s.img.kept && decide (s.otherArea.version = x.dataVer)) then 7
  else 0

/-- Status of a failing step (Table 18.8). -/
def stepStatus (step : Nat) : Nat :=
  if step = 0 then stOk else if step = 2 ∨ step = 3 then stAuthFail else if step = 4 ∨ step = 7 then stLimit else stIntegrity

/-! ### Applying the records -/

/-- The straps a record may override, those it may not keeping their strap values (R38, R39). DESIGN CHOICE: PSRC, FS_EN and
USB_UP selected with the value the strap has change nothing and are not denied (log entry 49). -/
def State.overrides (s : State) (sel v : Nat) : Nat :=
  let low (lo k : Nat) (ok : Bool) : Nat := if bit sel k ∧ ok then 2 ^ k else lo
  let one (k b : Nat) : Bool := !bit v b || decide (s.strap k k = 1)
  low 0 0 (decide (s.strap 7 6 ≤ bits v 1 0)) + low 0 1 (one 8 2) + low 0 2 (one 9 3) + low 0 3 (one 13 4)
    + low 0 4 (decide (min 2 (bits v 6 5) ≤ min 2 (s.strap 11 10)))

/-- Settings of the BOARD record (Table 18.9). -/
def Board.setRec (b : Board) (r : ImgRec) : Board :=
  if r.tag = 0x0102 then { b with safeImg := true, safeLevels := BitVec.ofNat 32 (r.le 0 4), safeHiz := BitVec.ofNat 32 (r.le 4 4) }
  else if r.tag = 0x0103 then
    { b with splitB := bit (r.le 0 1) 0, splitC := bit (r.le 0 1) 1, absentPorts := BitVec.ofNat 3 (r.le 0 1 / 4) }
  else if r.tag = 0x0104 then { b with classes := (List.range 5).foldl (fun t i => Tab.write 0 (t : Tab Nat) i (r.le i 1)) [] }
  else if r.tag = 0x0105 then
    { b with
      eqRecord := true
      eqImage := (List.range 192).foldl (fun t i => Tab.write EqEntry.init (t : Tab EqEntry) i (eqOfNat (r.le (8 * i) 8))) [] }
  else if r.tag = 0x0106 then { b with replayUs := (List.range 3).foldl (fun t i => Tab.write 0 (t : Tab Nat) i (r.le i 1)) [] }
  else if r.tag = 0x0107 then
    { b with rxAlloc := (List.range 8).foldl (fun t i => Tab.write 0 (t : Tab Nat) i (r.le (2 * i) 2 + 1)) [] }
  else if r.tag = 0x010C then
    { b with
      exchK := (List.range 3).foldl (fun t i => Tab.write 0 (t : Tab Nat) i (r.le (4 * i) 2)) []
      asym := (List.range 3).foldl (fun t i => Tab.write 0 (t : Tab Int) i (signed 16 (r.le (4 * i + 2) 2))) [] }
  else if r.tag = 0x010E then
    { b with
      vendorId := BitVec.ofNat 16 (r.le 0 2), deviceId := BitVec.ofNat 16 (r.le 2 2)
      subVendor := BitVec.ofNat 16 (r.le 4 2), subId := BitVec.ofNat 16 (r.le 6 2), bar2log := r.le 8 1 }
  else if r.tag = 0x0112 then { b with macFit := BitVec.ofNat 4 (r.le 0 1), canFit := BitVec.ofNat 2 (r.le 0 1 / 16) }
  else if r.tag = 0x0402 then { b with startEntry := some (r.le 0 r.len) }
  else if r.tag = 0x0403 then { b with healthEntry := some (r.le 0 r.len) }
  else if r.tag / 256 = 3 then { b with tunnelRecs := b.tunnelRecs ++ [r] }
  else b

/-- The copy of the retained policy a record changes (R52). -/
def Policy.setRec (p : Policy) (r : ImgRec) : Policy :=
  if r.tag = 0x0102 then { p with hasSafe := true, safeLevels := BitVec.ofNat 32 (r.le 0 4), safeHiz := BitVec.ofNat 32 (r.le 4 4) }
  else if r.tag = 0x010D then { p with dormancyMs := r.le 0 r.len }
  else if r.tag = 0x010F then { p with safeHold := decide (r.le 0 1 = 1) }
  else p

/-- Port `p`'s policy in the POWER section (R512, R516). -/
def PwrPol.setRec (p : Nat) (q : PwrPol) (r : ImgRec) : PwrPol :=
  let c := recCmd r.tag 0x0D03 (r.value.take 20)
  if r.tag = 0x0201 ∧ c.f 4 1 0 = p then
    { q.limits c true true with
      given := true, portMax := r.le 20 2, iScale := r.le 22 2, iDac := r.le 24 2, pmbus := r.le 26 1
      vexp := signed 8 (r.le 27 1), idleOp := r.le 28 1, blk := bit (r.le 29 1) 0, pec := bit (r.le 29 1) 1
      linkNo := b2n (bit (r.le 29 1) 2) }
  else if r.tag = 0x0202 ∧ r.le 0 1 % 4 = p then
    { q with windows := Tab.write (0, 0) q.windows (r.le 0 1 / 4) (r.le 1 2, r.le 3 2) }
  else q

/-- The safety page in its plane (R416, R572). -/
def State.setPage (s : State) (k : Nat) (r : ImgRec) : State :=
  let px := r.runs.flatMap fun p => List.replicate p.1 p.2
  s.setPlane k { width := r.le 0 2, height := r.le 2 2, load := none
                 px := (px.zipIdx.filter fun p => decide (p.1 ≠ 0)).map fun p => (p.2, p.1) }

/-- What a record outside the BOARD settings sets (Table 18.9). DESIGN CHOICE: the pace defaults take effect at once; a PACE_SET that
waits for the interval end still takes effect there (R93, R101; log entry 54). -/
def State.applyRec (s : State) (r : ImgRec) : State :=
  let c := r.cmd 0
  if r.tag = 0x0101 then
    let ok := s.overrides (r.le 0 1) (r.le 1 1)
    let s := { s with board := { s.board with ovSel := BitVec.ofNat 5 ok, ovVal := BitVec.ofNat 7 (r.le 1 1) } }
    if ok = r.le 0 1 then s else s.imgEvent 7 stDenied (s.img.running % 2) 0x0101
  else if r.tag = 0x0108 then
    let cfg : PaceCfg := { floor := c.f 4 4 0, ceiling := c.f 4 12 8, margin := c.f 4 23 16, hold := decide (c.f 4 25 24 = 1) }
    { s with pace := { ({ s.pace with pendCfg := some cfg } : Pace).take with pendCfg := s.pace.pendCfg } }
  else if r.tag = 0x0109 then
    s.modLink (c.f 4 2 0) fun k => { k with lane := { k.lane with
      depth := c.f 4 21 20, lightTo := c.f 5 9 0, deepTo := c.f 6 19 0, guard := c.f 4 27 24 } }
  else if r.tag = 0x010A then s.setClass c (c.f 4 2 0)
  else if r.tag = 0x010B then if s.isRoot then s.setTimeSource (c.b 4 0) (c.b 4 2) (signed 32 (c.w 5)) else s
  else if r.tag = 0x0110 then s.macCfg (c.f 4 1 0) (c.f 4 4 2) (c.f 5 13 0) (c.f 6 11 0) (c.f 6 27 16) (c.b 4 5)
  else if r.tag = 0x0111 then
    s.setCan (c.f 4 0 0) { s.can (c.f 4 0 0) with
      mode := c.f 4 2 1, autoRec := c.b 4 3, nom := word (c.w 5), dat := word (c.w 6), age := c.f 7 9 0 }
  else if r.tag = 0x0401 then
    let start := r.le 0 4
    let put (t : Tab (BitVec 64)) (p : Nat × Nat) : Tab (BitVec 64) := t.write 0 (start + p.2) (BitVec.ofNat 64 p.1)
    { s with trav := { s.trav with legs := (longs ((r.len - 4) / 8) (r.value.drop 4)).zipIdx.foldl put s.trav.legs } }
  else if r.tag = 0x0405 then
    (if c.w 5 = 0 then [c.f 4 4 0] else (List.range 32).filter fun n => bit (c.w 5) n).foldl (fun s n => s.cfgPin c n) s
  else if r.tag = 0x0501 then
    let t := timingOf c (resolveCompact s.nowNs (c.w 9) (c.w 10))
    ({ s with disp := { s.disp with imgTiming := s.disp.imgTiming.insert (c.f 4 0 0) t } }).modHead (c.f 4 0 0) fun h =>
      { h with staged := t }
  else if r.tag = 0x0503 then
    { s with disp := { s.disp with bh := r.le 0 2, banner := r.le 2 3, safePlane := r.le 5 1 } }
  else if r.tag = 0x0504 then
    let u : UcCfg := { plane := c.f 4 5 4, capture := c.b 4 6, force := c.f 4 8 7, underrunMax := c.f 5 7 0, returnFrames := c.f 5 15 8 }
    s.modHead (c.f 4 0 0) fun h => { h with uc := u, stagedUc := u }
  else if r.tag = 0x0601 then
    { s with usb := { s.usb with
      vid := BitVec.ofNat 16 (r.le 0 2), pid := BitVec.ofNat 16 (r.le 2 2)
      fitted := BitVec.ofNat 4 (r.le 4 1), removable := BitVec.ofNat 4 (r.le 4 1 / 16), vports := r.le 5 1 } }
  else if r.tag = 0x0602 then { s with usb := { s.usb with strings := r.value } }
  else if r.tag = 0x0701 then { s with keys := { s.keys with skimUs := r.le 0 r.len } }
  else s

/-- Undercoat capture is on by default with HEADS 11b (R398, Table 2.5). -/
def State.captureDefault (s : State) : State :=
  let f (h : Head) : Head :=
    { h with uc := { h.uc with capture := decide (s.heads = 3) }, stagedUc := { h.stagedUc with capture := decide (s.heads = 3) } }
  { s with disp := { s.disp with d0 := f s.disp.d0, d1 := f s.disp.d1 } }

/-- The POWER section in a port's policy; a contract keeps the policy in force until its next transition (R512, R543). -/
def State.applyPower (s : State) (rs : List ImgRec) (p : Nat) : State :=
  let q := rs.foldl (fun q r => q.setRec p r) PwrPol.init
  let x := s.port p
  (s.setPort p (if x.vcode = 0 then { x with pol := q, pendPol := none } else { x with pendPol := some q })).keepUpdate p

/-- The records of the image in a slot take effect, the retained policy takes its copy and CFGGEN rises; DENIED and LIMIT may be
reported again (R52, R146, R182, R190, R571, R572). -/
def State.applyRecords (s : State) (k : Nat) : State :=
  let x := s.slotN k
  let rs := x.records
  let b := rs.foldl Board.setRec s.board
  let s := { s with
    tree := { s.tree with cfgGen := s.tree.cfgGen + 1 }
    board := { b with eqOver := [], eqOverKeys := [], applied := true, noImage := false, imgVer := x.imgVer, imgSvn := x.minSvn, imgDataVer := x.dataVer }
    img := { s.img with running := k }
    ret := { s.ret with policy := some (rs.foldl Policy.setRec Policy.init), actRetained := false } }
  let s := (List.range 5).foldl (fun s l => s.modLink l Link.rearm) s
  let s := (rs.filter fun r => decide (r.tag = 0x0101)).foldl State.applyRec s
  let s := (rs.filter fun r => decide (r.tag ≠ 0x0101)).foldl State.applyRec s.captureDefault
  let s := match rs.find? fun r => decide (r.tag = 0x0502) with
    | some r => s.setPage s.disp.safePlane r
    | none => s
  [0, 1, 2].foldl (fun s p => s.applyPower rs p) s.preloadImage

end Sys2Proof.Machine
end

