-- ==== Sys2Proof/Machine/SafeOps.lean ====
section
/-! DEFINITION. Entry to Safe (R76 to R78, R80) and what a core reset clears (R51 to R54). -/

namespace Sys2Proof.Machine

/-- A pin takes its safe level (R76). -/
def State.pinToSafe (s : State) (n : Nat) : State :=
  match s.safePin n with
  | some lv => s.emit (.edge n lv s.now250)
  | none => s

/-- The pins take their safe levels (R76). -/
def State.pinsToSafe (s : State) : State := (List.range 32).foldl State.pinToSafe s

/-- The DISP_COMMITs pending on a head, each once. -/
def Head.pendCmds (h : Head) : List Cmd :=
  let f := match h.fpend with
    | some x => x.cmds.map DCmd.cmd
    | none => []
  let l := match h.lpend with
    | some x => x.cmds.map DCmd.cmd
    | none => []
  f ++ l.filter fun c => !f.contains c

/-- Every present head shows the safety page: a head that was off is sequenced on, and pending commits end (R78, R397,
R404; log entry 43). -/
def State.headSafe (s : State) (i : Nat) : State :=
  if !s.headPresent i then s
  else
    let h := s.head i
    let off := decide (h.st = hdOff)
    let start := off || decide (5 ≤ h.seq)
    let run := if off then h.running (s.headTiming i) s.nowNs else h
    let s := s.setHead i { run with
      st := hdSafety, fpend := none, lpend := none, panelEn := true, toUc := 0, capturing := false
      frameCnt := if off then 0 else h.frameCnt
      seq := if start then 1 else h.seq, seqAt := if start then s.uptime + 1 else h.seqAt }
    h.pendCmds.foldl (fun s c => s.complete c stAborted []) s

/-- Entry to Safe (R59, R76 to R78, R80, R131, R436): a dozing direction wakes. -/
def State.enterSafe (s : State) (cause : Nat) : State :=
  if !s.coreOn ∨ s.ret.mode = .safe then s
  else
    let s := { s with ret := { s.ret with safeLatch := true, devReq := none, safeAt := s.uptime + 1 } }.toMode .safe cause
    let s := s.haltEngines.pinsToSafe
    let s := [0, 1].foldl State.headSafe s.pwrSafe
    s.linksPresent.foldl State.wakeTx s.usbDetachAll.safeTunnels

/-- Sets one link's epoch number and generation to random values (R173, R175). -/
def State.randomLink (s : State) (l : Nat) : State :=
  let e := s.freeVal 8
  let s := s.drew
  let g := s.freeVal 8
  s.drew.setLink l { Link.init with epoch := e, gen := g }

/-- The facing, unit ID and class that the sideband IDENT of a link's far end has given, which a core reset keeps (R14, R51,
R52). -/
def State.identKept (s : State) (l : Nat) : State :=
  match ((s.port (linkPort l)).sb (linkConv l)).ident with
  | some i => s.modLink l fun k => { k with sbUnit := some i.unit, lane := { k.lane with sbUpf := i.upf, farCls := i.cls } }
  | none => s

/-- Everything outside the auxiliary island cleared; a slot that KEY_DESTROY found broken stays so, and USB_UP_VBUS is a pin
(R51, R52, R436, R560). -/
def State.coreClear (s : State) : State :=
  let wipe (_ : Nat) (x : KeySlot) : KeySlot := { KeySlot.init with broken := x.broken }
  let drop (_ : Nat) (x : PwrPort) : PwrPort := { x with cmd := none, swapCmd := none }
  let e := s.err
  { s with
    board := Board.init, pace := Pace.init, links := [], tree := Tree.init, sched := Sched.init, time := Time.init
    trav := Trav.init, host := HostIf.init, disp := Disp.init, usb := { Usb.init with vbus := s.usb.vbus }, net := Net.init, win := WinSys.init
    keys := { Keys.init with slots := s.keys.slots.mapAll KeySlot.init wipe }, img := Img.init
    pwr := { s.pwr with ports := s.pwr.ports.mapAll PwrPort.init drop }
    ret := { s.ret with devReq := none }
    err := { Err.init with
      devFatal := e.devFatal, domFatal := e.domFatal, evqFail := e.evqFail, escaped := e.escaped
      escalated := e.escalated, lastDom := e.lastDom, lastCheck := e.lastCheck, fatals := e.fatals } }

/-- A core reset: random epoch numbers, generations and CFGGEN (R51, R173, R175, R190). -/
def State.coreReset (s : State) : State :=
  let s := [0, 1, 2, 3, 4].foldl (fun s l => (s.randomLink l).identKept l) s.coreClear
  { s with tree := { s.tree with cfgGen := s.freeVal 8 } }.drew

end Sys2Proof.Machine
end

