-- ==== Sys2Proof/Machine/Faults.lean ====
section
/-! DEFINITION. Fault detection, containment and recovery: the checks, the domains, recovery and escalation, the patrol and
the DIAG_ commands (Chapter 19; log entry 45). -/

namespace Sys2Proof.Machine

/-! ### Domains (Tables 19.2 and 19.3) -/

/-- The codes of Tables 19.2 and 19.3. -/
def domKnown (d : Nat) : Bool := decide (d ≤ 0x15 ∨ (0x20 ≤ d ∧ d ≤ 0x98))

/-- A power path. -/
def domPower (d : Nat) : Bool := decide (0x13 ≤ d ∧ d ≤ 0x15)

/-- Parents of the arrays 80h to 98h (Table 19.3). -/
def arrayParents : List Nat :=
  [1, 1, 1, 7, 1, 1, 1, 1, 2, 3, 4, 5, 6, 0, 0, 0, 0x0A, 0x0B, 0x0C, 0x0D, 0x0E, 0x0F, 0x11, 8, 9]

/-- The parent of a domain, none for the device. -/
def State.domParent (s : State) (d : Nat) : Option Nat :=
  if d = 0 then none
  else if d = 1 ∨ domPower d then some 0
  else if d ≤ 0x12 then some 1
  else if 0x20 ≤ d ∧ d < 0x40 then some 7
  else if 0x40 ≤ d ∧ d < 0x80 then
    let x := s.slice (d - 0x40)
    some (if x.state ≠ 0 ∧ x.bound then 8 + x.port else 1)
  else (arrayParents[d - 0x80]?)

/-- The arrays; 8Dh to 8Fh name none. -/
def domArray (d : Nat) : Bool := decide (0x80 ≤ d ∧ d ≤ 0x98) && decide (d < 0x8D ∨ 0x90 ≤ d)

/-- The checks a domain has (Table 19.1; log entry 45). -/
def domHas (d check : Nat) : Bool :=
  if domArray d then
    decide (check = 4 ∨ check = 5) || (decide (d = 0x80) && decide (check = 8)) || (decide (d = 0x81) && decide (check = 6))
  else if !domKnown d ∨ 0x80 ≤ d then false
  else if check = 0x0C then true
  else if domPower d then [1, 6, 7].contains check
  else if [1, 2, 3].contains check then true
  else if check = 6 then decide (2 ≤ d ∧ d ≤ 6) || decide (d = 0x0D ∨ d = 0x0E)
  else if check = 8 ∨ check = 9 then decide (d = 1)
  else if check = 0x0A ∨ check = 0x0B then decide (d = 0x11)
  else false

/-- An uncorrectable word in use of this array is domain-fatal (Table 19.3). -/
def State.arrayFatal (s : State) (h : Hit) : Bool :=
  if 0x88 ≤ h.dom ∧ h.dom ≤ 0x8C then !(s.gaz (h.unit % 4096)).lossy
  else if 0x97 ≤ h.dom then
    decide (h.unit < 64) || (((s.slice (h.unit % 64)).held[h.unit / 64 - 1]?).map fun r => decide (r.typ = 1)).getD true
  else [0x82, 0x83, 0x84, 0x85, 0x86, 0x87, 0x92, 0x96].contains h.dom

/-- The class of an error (R586, Tables 19.1 and 19.3): 0 correctable, 1 recoverable, 2 domain-fatal, 3 device-fatal. A checker
that fails in Survey fails the test of the Survey entry, which is device-fatal (R605). -/
def State.hitClass (s : State) (h : Hit) : Nat :=
  match h.check with
  | 4 => 0
  | 5 => if !h.inUse then 1 else if h.dom = 0x81 then (if h.noCopy then 3 else 1) else if s.arrayFatal h then 2 else 1
  | 6 => if h.noCopy then 2 else 1
  | 7 => 2
  | 0x0B => 2
  | 0x0C => if s.ret.mode = .survey then 3 else 2
  | _ => 1

/-! ### Actions -/

/-- The list without its `i`-th element. -/
def dropNth {α : Type} (l : List α) (i : Nat) : List α := l.take i ++ l.drop (i + 1)

/-- The continuation of a link's epoch is refused at a retrain (Table 19.2). -/
def State.linkFatal (s : State) (l : Nat) : State :=
  if (s.link l).st ≠ .up then s.modLink l fun k => { k with refuse := k.epochHeld }
  else (s.modLink l fun k => { k with refuse := true }).requestRetrain l 6

/-- The first frame among the packets in a MAC's receive buffer. -/
def firstFrame : List (TxPkt × Nat) → List (TxPkt × Nat)
  | [] => []
  | q :: r => if q.1.last then [q] else q :: firstFrame r

/-- The packet that a link has sent last, as it stands in the outbox, gives way to what it turned into; else that is added. -/
def cutShort (l : Nat) (p : TxPkt) (o : Out) : List Out → List Out
  | [] => [o]
  | .packet m q ab rows :: r =>
    if m = l then (if q = p ∧ !ab then o :: r else o :: .packet m q ab rows :: r) else .packet m q ab rows :: cutShort l p o r
  | x :: r => x :: cutShort l p o r

/-- A packet whose bytes fail a check on the way to the lanes is abandoned part way, at a place the spec leaves open: EBD ends
it, and it does not go out whole (R155, R596). -/
def State.abandonPkt (s : State) (l : Nat) (p : TxPkt) : State :=
  let n := (s.freeVal 12).toNat
  let bs := s.pktBytes l p
  let o : Out := .packet l p true (stripe (s.link l).lane.width (framed .stp (bs.take (n % (bs.length + 1))) .ebd))
  { s.drew with out := cutShort l p o s.out }

/-- The packet of a tunnel on the way to the lanes: the last one sent, of a replay or the newest; where that is another
tunnel's, the newest of its own (R155). -/
def Link.leaving (k : Link) (t : Nat) : Option TxPkt :=
  let sent := if k.replaying ∧ 0 < k.replayIdx then k.replay[k.replayIdx - 1]? else k.replay.getLast?
  match sent.filter fun p => decide (p.tunnel = t) with
  | some p => some p
  | none => k.replay.reverse.find? fun p => decide (p.tunnel = t)

/-- A packet is dropped from the replay buffer: the newest has used no number. DESIGN CHOICE: where later packets stand, each
keeps its own number, and the dropped one's is not used again (R155, R156; log entry 59). -/
def Link.dropTx (k : Link) (p : TxPkt) : Link :=
  let i := k.replay.idxOf p
  { k with
    replay := k.replay.eraseIdx i, replayIdx := if i < k.replayIdx then k.replayIdx - 1 else k.replayIdx
    txSeq := if i + 1 = k.replay.length then p.lseq else k.txSeq
    timerRun := k.timerRun && decide (1 < k.replay.length) }

/-- A packet of a LOSSY tunnel lost from a link's receive buffer, or any packet from its replay buffer (R155, Table 19.3): one on the way to the lanes is
abandoned, and with its copy bad it is dropped and counted in EBD_TX. -/
def State.loseRx (s : State) (l t : Nat) (tx : Bool) : State :=
  if tx then
    match (s.link l).leaving t with
    | none => s.modLink l fun k => k.bump 1 4
    | some p =>
      let s := if (s.link l).st = .up then s.abandonPkt l p else s
      s.modLink l fun k => (k.dropTx p).bump 1 4
  else
    let all := (List.range 5).flatMap fun m => (s.link m).sched.queue
    let mine (q : QPkt) : Bool := decide (q.pkt.tunnel = t) && (q.rx.map fun r => decide (r.1 = l)).getD false
    match all.find? mine with
    | none => s.countDrop t 1
    | some q =>
      let cut (s : State) (m : Nat) : State := s.modLink m fun k =>
        { k with sched := { k.sched with queue := k.sched.queue.filter fun o => decide (o.rx ≠ q.rx) } }
      (((List.range 5).foldl cut ((List.range 5).foldl State.schedAdvance s)).countDrop t 1).leftHop q

/-- An uncorrectable word in use (Table 19.3). -/
def State.arrayHit (s : State) (h : Hit) : State :=
  let u := h.unit
  match h.dom with
  | 0x82 =>
    if u < 512 then
      match s.host.pend.find? fun p => decide (p.cmd.htag = u ∧ p.stage = .timed) with
      | some p => s.complete p.cmd stAborted []
      | none => s
    else
      match s.host.recv[u - 512]? with
      | some r => if r.hold ∧ r.launch ≠ 0 then s.complete r.cmd stAborted [] else s
      | none => s
  | 0x83 => if s.trav.badLegs.contains u ∨ 32768 ≤ u then s else { s with trav := { s.trav with badLegs := u :: s.trav.badLegs } }
  | 0x92 => if s.usbPort u then s.proxyError u else s
  | 0x93 =>
    let m := u % 4
    if bit u 2 then ((s.modMac m fun x => { x with txq := dropNth x.txq (u / 8) }).macCount m mcTxDrop 1).macGo m
    else (s.macForget m (firstFrame (s.macHeld m))).macCount m mcRxDrop 1
  | 0x94 =>
    let n := u % 2
    let x := s.can n
    let i := u / 2
    let timed := decide (i < x.timedQ.length)
    let gone := if timed then (x.timedQ[i]?).toList else (x.tunQ[i - x.timedQ.length]?).toList
    let s := s.setCan n (if timed then { x with timedQ := dropNth x.timedQ i } else { x with tunQ := dropNth x.tunQ (i - x.timedQ.length) })
    (s.canCount n ccTxDrop gone.length).abortSends gone
  | 0x95 =>
    match s.win.store[u]? with
    | none => s
    | some r =>
      if r.started then effFarAccessDone u 2 [] s
      else
        let s := s.setStore (s.win.store.eraseIdx u)
        let s := if r.dead then s else s.farFail r.win (s.wnd r.win).tid r.op resCa r.wgen r.rseq r.offset
        s.present.winDrained r.win
  | 0x96 => s.destroySlot u false none
  | d =>
    if 0x84 ≤ d ∧ d ≤ 0x87 then
      let a := 8 * h.loc.toNat
      let p := s.plane (d - 0x84)
      s.setPlane (d - 0x84) { p with px := p.px.filter fun e => decide (e.1 < a / 3 ∨ (a + 7) / 3 < e.1) }
    else if 0x88 ≤ d ∧ d ≤ 0x8C then
      let tx := decide (4096 ≤ u)
      let fatal := s.arrayFatal h
      let s := if tx ∨ !fatal then s.loseRx (d - 0x88) (u % 4096) tx else s
      if fatal then s.linkFatal (d - 0x88) else s
    else if d = 0x90 ∨ d = 0x91 then
      s.modHead (d - 0x90) fun x => { x with curUnder := x.curUnder + 1, underruns := satAdd 32 x.underruns 1 }
    else if d = 0x97 ∨ d = 0x98 then
      let k := u % 64
      if (s.slice k).state = 0 then s
      else if s.arrayFatal h then s.resetSlice k true
      else s.modSlice k fun x => { x with held := dropNth x.held (u / 64 - 1), lost := satAdd 32 x.lost 1 }
    else s

/-- Every slice bound to a port reset with its queues disabled (R49, R358). -/
def State.resetPortSlices (s : State) (port : Nat) : State :=
  (List.range 64).foldl (fun s k =>
    let x := s.slice k
    if x.state ≠ 0 ∧ x.bound ∧ x.port = port then s.resetSlice k true else s) s

/-- An engine stopped as by exception TABLE, under a new generation (R316, R589). -/
def State.engFatal (s : State) (e : Nat) : State :=
  if (s.engine e).st = .idle then s else (s.modEngine e fun x => { x with gen := x.gen + 1 }).exception e 8

/-- The time domain cannot restore its state (R71, R266, Table 19.2). -/
def State.timeFatal (s : State) : State :=
  if s.isRoot ∧ !s.time.pps then
    let s := { s with time := { s.time with st := .unset } }
    s.timeAlert 5 stOk 0 0 0
  else if s.time.st = .unset ∨ s.time.st = .holdover then s
  else
    let s := s.holdTime
    (if s.isRoot then s.timeAlert 1 stTimeout 0 0 0 else s.timeAlert 7 stTimeout 0 0 0).loseTime 3

/-- The domain-fatal action of Table 19.2. The image domain's lies in the reading of its slot (R573). -/
def State.domAction (s : State) (d : Nat) : State :=
  if 2 ≤ d ∧ d ≤ 6 then s.linkFatal (d - 2)
  else if d = 7 then (List.range 32).foldl State.engFatal s
  else if d = 8 ∨ d = 9 then s.resetPortSlices (d - 8)
  else if d = 0x0A ∨ d = 0x0B then
    let h := s.head (d - 0x0A)
    if h.st = hdOff ∨ h.st = hdSafety ∨ 5 ≤ h.seq then s
    else (s.setHead (d - 0x0A) { h.turnOff s.uptime with timing := { h.timing with enable := false } }).dispAlert (d - 0x0A) 6 stIntegrity 0 0 0 0
  else if d = 0x0C then
    let s := if s.usb.attached then s.busReset else s
    { s with usb := { s.usb with detachEnd := some (s.uptime + 40000000) } }.usbAttach
  else if d = 0x0D then (List.range 4).foldl (fun s m => if s.macFitted m then s.macRestart m else s) s
  else if d = 0x0E then
    [0, 1].foldl (fun s n => if s.canTx n then (effCanBusOff n s).modCan n fun x => { x with forceRec := true } else s) s
  else if d = 0x0F then s.win.wins.foldl (fun s p => s.winAbort p.1) s
  else if d = 0x10 then s.timeFatal
  else if d = 0x11 then s.keysFatal
  else if domPower d then s.powerFault (d - 0x13) 8 4
  else if 0x20 ≤ d ∧ d < 0x40 then s.engFatal (d - 0x20)
  else if 0x40 ≤ d ∧ d < 0x80 then (if (s.slice (d - 0x40)).state = 0 then s else s.resetSlice (d - 0x40) true)
  else s

/-! ### Detection -/

/-- No domain recovers and no recovery window runs any more. -/
def State.endRecoveries (s : State) : State :=
  { s with err := { s.err with doms := s.err.doms.mapAll DomErr.init fun _ x => { x with recovering := false, window := false } } }

/-- A device-fatal error (R590). -/
def State.deviceFatal (s : State) (h : Hit) (inj esc : Bool) : State :=
  let s := s.endRecoveries.modDom 0 fun x => { x with lastCheck := h.check }
  let s := { s with err := { s.err with devFatal := true, fatals := satAdd 8 s.err.fatals 1 } }
  let s := s.errReport { dom := 0, check := h.check, cls := 3, origin := h.dom, loc := h.loc, detail := h.detail,
                         injected := inj, escaped := h.gone, escalated := esc }
  s.enterSafe 6

/-- A domain-fatal error: counted, reported, acted on; the fabric's and the device's are device-fatal (R586, R589, Table 19.2).
An array's action has been taken with the loss of its word. -/
def State.domainFatal (s : State) (d : Nat) (h : Hit) (inj esc : Bool) (us : Nat) : State :=
  if d ≤ 1 then s.deviceFatal h inj esc
  else
    (s.noteFatal { dom := d, check := h.check, origin := h.dom, loc := h.loc, detail := h.detail, injected := inj
                   escaped := h.gone, escalated := esc, recovery := us }).domAction d

/-- A domain starts to recover (R587, R588): what it does meanwhile is held, and what its recovery discards is gone
(Table 19.2). A packet on the way to a link's lanes is abandoned, and the retrain's replay sends its sound copy again (R155). -/
def State.recover (s : State) (d : Nat) (h : Hit) (inj esc : Bool) : State :=
  let s := s.modDom d fun x => { x with
    recovering := true, window := false, recCheck := h.check, recOrigin := h.dom, recEsc := esc, recInj := inj, recLoc := h.loc
    recDetail := h.detail, recGone := h.gone, recUnit := h.unit, recAt := s.uptime + 1 }
  if 2 ≤ d ∧ d ≤ 6 then
    let l := d - 2
    let s := s.schedAdvance l
    let s := s.modLink l fun k => { k with sched := { k.sched with credit := [] } }
    let s := ((0, Bound.init) :: s.boundsOn l).foldl (fun s b => s.setBlink l b.1 { s.blink l b.1 with floorB := 0, borrowB := 0 }) s
    let s : State := match (s.link l).leaving (h.unit - 4096) with
      | some p => if h.inUse = true ∧ 4096 < h.unit ∧ (s.link l).st = .up then s.abandonPkt l p else s
      | none => s
    if h.inUse ∧ (s.link l).st = .up then s.drew.requestRetrain l (s.freeVal 8).toNat else s
  else if d = 0x0A ∨ d = 0x0B then
    s.modHead (d - 0x0A) fun x => { x with curUnder := x.curUnder + h.unit, underruns := satAdd 32 x.underruns h.unit }
  else s

/-- The domain's recovery began in this same arbitration (R592). -/
def State.recNow (s : State) (d : Nat) : Bool := (s.dom d).recovering && decide ((s.dom d).recAt = s.uptime + 1)

/-- The domain in whose recovery, or recovery window, an error of domain `d` is a second one (R591). Of two errors in the same
arbitration, one in a domain and one in its parent, the second one detected counts as second, whichever that is (R592). -/
def State.firstDom (s : State) (d : Nat) : Option Nat :=
  let kids := (s.err.doms.map Prod.fst).filter fun x => decide (x ≠ d ∧ s.domParent x = some d)
  match (d :: kids).find? fun x => (s.dom x).recovering || s.inRecWindow x with
  | some x => some x
  | none => if ((s.domParent d).map s.recNow).getD false then some d else none

/-- A second error: the parent of the first domain recovers, and its recovery covers the child (R591). -/
def State.escalate (s : State) (x : Nat) (h : Hit) (inj : Bool) : State :=
  let p := (s.domParent x).getD 0
  let s := (s.modDom x fun y => { y with recovering := false, window := false }).modDom p fun y =>
    { y with escal := satAdd 16 y.escal 1, lastCheck := h.check }
  let s := { s with err := { s.err with escalated := true } }
  if p = 0 then s.deviceFatal h inj true else s.recover p h inj true

/-- A correctable error: reported at most once per second for its domain and check, with the count since (R600). -/
def State.corrected (s : State) (h : Hit) (inj : Bool) : State :=
  let x := s.dom h.dom
  let n := x.ceCnt.read 0 h.check + 1
  let x := { x with corrected := satAdd 16 x.corrected 1, lastCheck := h.check }
  if !s.passed (x.ceAt.read 0 h.check) 400000000 then s.setDom h.dom { x with ceCnt := x.ceCnt.write 0 h.check n }
  else
    (s.setDom h.dom { x with ceCnt := x.ceCnt.write 0 h.check 0, ceAt := x.ceAt.write 0 h.check (s.uptime + 1) }).errReport
      { dom := h.dom, check := h.check, origin := h.dom, count := n, loc := h.loc, detail := h.detail, injected := inj }

/-- A check has fired: the error is corrected, recovered, escalated or fatal (R580 to R592, R596). -/
def State.detect (s : State) (h : Hit) (inj : Bool) : State :=
  if !domHas h.dom h.check ∨ (!s.coreOn ∧ !domPower h.dom) then s
  else
    let cls := s.hitClass h
    if cls = 0 then s.corrected h inj
    else
      let s := s.noteErr h.dom h.check
      let s := if h.gone then { s with err := { s.err with escaped := true } } else s
      let s := if h.check = 0x0A then { s with keys := { s.keys with entropyOk := false } } else s
      let first := s.firstDom h.dom
      let s := if h.check = 5 ∧ h.inUse ∧ cls < 3 then s.arrayHit h else s
      match first with
      | some x => s.escalate x h inj
      | none =>
        if cls = 3 ∨ h.dom = 0 then s.deviceFatal h inj false
        else if cls = 2 then s.domainFatal h.dom h inj false 0
        else s.recover h.dom h inj false

/-- TUN_PROG (R189, R203, R204, R214, R221, R241): a hop that is not CLOSED keeps its counters and its bound. An entry that names
another tunnel is a table error. -/
def effTunProg (ws : List Word) (s : State) : State :=
  let t := nthW ws 1 % 4096
  let tag := nthW ws 1 / 2 ^ 24
  let g := Gaz.ofWords (ws.drop 4)
  if !s.coreOn ∨ t ≤ 33 then s
  else
    let st := s.hopCheck t g
    if st ≠ stOk then s.tunAck tag t st
    else
      let old := s.gaz t
      let g := if old.state = gClosed then g else { g with bound := old.bound, drops := old.drops, pkts := old.pkts }
      let was := if old.state = gClosed then [] else egressLinks old.egress
      let new := if g.state = gOpen then (egressLinks g.egress).filter fun l => !was.contains l else []
      let s := new.foldl (fun s l => { s with tree := { s.tree with fresh := s.tree.fresh.write 0 (8 * t + l) (s.uptime + 1) } })
        (s.setEntry t g)
      let s := s.tunAck tag t stOk
      if g.sound t then s else s.detect { dom := 0x80, check := 8, loc := word t, unit := t } false

def execTunProg (ws : List Word) (s : State) : Host.Outcome State Fault Refusal := .next (effTunProg ws s)

/-- CHECK_DETECT (R580 to R592, R596). LCRC and the queue errors have rows of their own. -/
def execCheckDetect (h : Hit) (s : State) : Host.Outcome State Fault Refusal := .next (s.detect h false)

/-- HANDSHAKE_STALL (R581). -/
def execHandshakeStall (dom : Nat) (loc : Word) (s : State) : Host.Outcome State Fault Refusal :=
  .next (s.detect { dom := dom, check := 3, loc := loc } false)

/-- COMPARATOR_DISAGREE (R511). -/
def execComparatorDisagree (port : Nat) (s : State) : Host.Outcome State Fault Refusal :=
  .next (if s.portEnabled port ∧ !s.ret.inReset then s.detect { dom := 0x13 + port, check := 7 } false else s)

/-- PACE_MONITOR_TIMEOUT (R84). -/
def execPaceMonitorTimeout (s : State) : Host.Outcome State Fault Refusal :=
  .next (if s.pace.monInvalid then s.detect { dom := 1, check := 9 } false else s)

/-- The bound of a recovery in us (R587). -/
def recBound (d : Nat) : Nat := if d = 1 then 200 else 1000

/-- The error a recovery answers. -/
def DomErr.hit (x : DomErr) : Hit :=
  { dom := x.recOrigin, check := x.recCheck, loc := x.recLoc, detail := x.recDetail, unit := x.recUnit, gone := x.recGone }

/-- DOMAIN_RECOVERY_END (R587, R591, R593, R600, Table 19.3). -/
def effDomainRecoveryEnd (dom us : Nat) (s : State) : State :=
  let x := s.dom dom
  if !x.recovering ∨ recBound dom < us ∨ !s.coreOn then s
  else
    let s := s.setDom dom { x with recovering := false, window := true, windowAt := s.uptime + 1, recovered := satAdd 16 x.recovered 1, lastCheck := x.recCheck }
    let s := if x.recOrigin = 0x80 ∧ x.recCheck = 5 ∧ (s.gaz x.recUnit).state ≠ gClosed then
        s.modGaz x.recUnit fun g => { g with pkts := 0, drops := 0 }
      else s
    s.errReport { dom := dom, check := x.recCheck, cls := 1, origin := x.recOrigin, loc := x.recLoc, detail := x.recDetail
                  recovery := us, guarantee := !x.recEsc && !x.recGone, injected := x.recInj, escaped := x.recGone
                  escalated := x.recEsc }

def execDomainRecoveryEnd (dom us : Nat) (s : State) : Host.Outcome State Fault Refusal := .next (effDomainRecoveryEnd dom us s)

/-- RECOVERY_BOUND_EXCEEDED (R587, R589). -/
def effRecoveryBoundExceeded (dom : Nat) (s : State) : State :=
  let x := s.dom dom
  if !x.recovering ∨ !s.coreOn then s
  else (s.setDom dom { x with recovering := false }).domainFatal dom x.hit x.recInj x.recEsc 0

def execRecoveryBoundExceeded (dom : Nat) (s : State) : Host.Outcome State Fault Refusal := .next (effRecoveryBoundExceeded dom s)

/-- RECOVERY_WINDOW_END (R591): 10 ms after the recovery. -/
def execRecoveryWindowEnd (dom : Nat) (s : State) : Host.Outcome State Fault Refusal :=
  .next (if (s.dom dom).window ∧ !s.inRecWindow dom then s.modDom dom fun x => { x with window := false } else s)

/-! ### The patrol and scrub passes -/

/-- The array after one, as the patrol goes. -/
def nextArray (a : Nat) : Nat := if a = 0x8C then 0x90 else if a = 0x98 then 0x80 else a + 1

/-- The word's result as an error (R582). -/
def State.scrubWordAt (s : State) (arr at' res detail unit : Nat) (noCopy : Bool) : State :=
  let h : Hit := { dom := arr, check := if res = 1 then 4 else 5, loc := word at', detail := detail, unit := unit
                   inUse := decide (res = 3), noCopy := noCopy }
  if res = 0 then s else s.detect h false

/-- PATROL_SCRUB: the next word, of the pass under way if there is one, of the patrol otherwise (R582, R604). -/
def effPatrolScrub (res detail unit : Nat) (noCopy last : Bool) (s : State) : State :=
  let e := s.err
  if !s.coreOn then s
  else
    match e.scrub with
    | some (arr, n, ce, ue) =>
      let a := e.scrubArr
      let ws := [word (n + 1), word (ce + b2n (decide (res = 1))), word (ue + b2n (decide (2 ≤ res))), word ((s.uptime - e.scrubStart) / 400)]
      let ends := last && (decide (arr ≠ 0xFF) || decide (a = 0x98))
      let s := { s with err := { e with
        scrub := if ends then none else some (arr, n + 1, ce + b2n (decide (res = 1)), ue + b2n (decide (2 ≤ res)))
        scrubArr := if last then nextArray a else a, scrubWord := if last then 0 else e.scrubWord + 1
        scrubCmd := if ends then none else e.scrubCmd } }
      let s := s.scrubWordAt a e.scrubWord res detail unit noCopy
      match if ends then e.scrubCmd else none with
      | some c => s.complete c stOk ws
      | none => s
    | none =>
      let a := e.patrolArr
      let s := { s with err := { e with
        patrolArr := if last then nextArray a else a, patrolWord := if last then 0 else e.patrolWord + 1
        patrols := if last ∧ a = 0x98 then satAdd 16 e.patrols 1 else e.patrols } }
      s.scrubWordAt a e.patrolWord res detail unit noCopy

def execPatrolScrub (res detail unit : Nat) (noCopy last : Bool) (s : State) : Host.Outcome State Fault Refusal :=
  .next (effPatrolScrub res detail unit noCopy last s)

/-! ### Diagnostics (R601 to R606) -/

/-- INJECT_DELAY_EXPIRY (R603): the delay of the pending injection has passed. An injected TABLE_CRC leaves the reference copy
sound. -/
def effInjectDelayExpiry (unit : Nat) (inUse noCopy : Bool) (s : State) : State :=
  match s.err.inject with
  | none => s
  | some i =>
    if s.uptime < i.since + 400 * i.delay then s else
    let next : Option Inject := match i.second with
      | some (d, t) => some { i with dom := d, second := none, delay := t, since := s.uptime }
      | none => none
    let s := { s with err := { s.err with inject := next } }
    s.detect { dom := i.dom, check := i.check, loc := i.loc, unit := unit, inUse := inUse
               noCopy := noCopy && decide (i.check ≠ 6) } true

def execInjectDelayExpiry (unit : Nat) (inUse noCopy : Bool) (s : State) : Host.Outcome State Fault Refusal :=
  .next (effInjectDelayExpiry unit inUse noCopy s)

def layDiagErrors (c : Cmd) : Layout :=
  { masks := [(4, mk 7 0)], enc := decide (c.f 4 7 0 = 0xFF) || (domKnown (c.f 4 7 0) && (decide (c.f 4 7 0 < 0x80) || domArray (c.f 4 7 0))) }

/-- DIAG_ERRORS (R601, R602). -/
def execDiagErrors (c : Cmd) (s : State) : Host.Outcome State Fault Refusal :=
  .next <| s.runCmd c 0x1000 (layDiagErrors c) true fun s =>
    let all := decide (c.f 4 7 0 = 0xFF)
    let total (f : DomErr → Nat) : Nat := if all then min 65535 (sumN (s.err.doms.map fun p => f p.2)) else f (s.dom (c.f 4 7 0))
    s.complete c stOk
      [ s.err.sum, pack [fld 16 (total DomErr.recovered), total DomErr.corrected],
        pack [fld 16 (total DomErr.escal), total DomErr.fatals],
        pack [fld 16 (if all then s.err.lastCheck else (s.dom (c.f 4 7 0)).lastCheck), s.err.patrols] ]

def layDiagInject (_ : Cmd) : Layout := { masks := [(4, mkAll), (5, mkAll), (6, mk 25 0), (7, mk 15 0)] }

/-- DIAG_INJECT (R601, R603). -/
def execDiagInject (c : Cmd) (s : State) : Host.Outcome State Fault Refusal :=
  .next <| s.runCmd c 0x1001 (layDiagInject c) false fun s =>
    let d := c.f 4 15 8
    let k := c.f 4 7 0
    let d2 := c.f 6 23 16
    let bad := decide (c.f 4 31 16 ≠ 0x494A ∨ k < 1 ∨ 7 < k ∨ 50000 < c.f 6 15 0) || !domHas d k || (c.b 6 24 && !domHas d2 k)
    let dev := decide (d = 0) || (c.b 6 24 && decide (c.f 7 15 0 ≤ 10000) && decide (d2 = d ∨ s.domParent d = some d2))
    if !s.authZ c then s.complete c stNotGranted []
    else if bad ∨ (dev ∧ !c.b 6 25) then s.complete c stBadParam []
    else if s.err.inject.isSome then s.complete c stBusy []
    else
      { s with err := { s.err with inject := some {
        dom := d, check := k, loc := word (c.w 5), delay := c.f 6 15 0, since := s.uptime
        second := if c.b 6 24 then some (d2, c.f 7 15 0) else none } } }.complete c stOk []

def layDiagScrub (_ : Cmd) : Layout := { masks := [(4, mk 8 0)] }

/-- DIAG_SCRUB (R601, R604). -/
def execDiagScrub (c : Cmd) (s : State) : Host.Outcome State Fault Refusal :=
  .next <| s.runCmd c 0x1002 (layDiagScrub c) true fun s =>
    let a := c.f 4 7 0
    if !s.authZ c then s.complete c stNotGranted []
    else if !domArray a ∧ a ≠ 0xFF then s.complete c stBadParam []
    else if s.err.scrub.isSome then s.complete c stBusy []
    else
      let wait := c.b 4 8
      let s := { s with err := { s.err with
        scrub := some (a, 0, 0, 0), scrubArr := if a = 0xFF then 0x80 else a, scrubWord := 0, scrubStart := s.uptime
        scrubCmd := if wait then some c else none } }
      if wait then s else s.complete c stOk []

/-- The domain that a failing checker is reported for (R605; log entry 45). -/
def selfDom (k : Nat) : Nat := if k = 5 then 0x13 else if k = 6 then 0x11 else 1

def layDiagSelftest (_ : Cmd) : Layout := {}

/-- DIAG_SELFTEST (R601, R605). -/
def execDiagSelftest (c : Cmd) (failed : Nat) (s : State) : Host.Outcome State Fault Refusal :=
  .next <| s.runCmd c 0x1003 (layDiagSelftest c) false fun s =>
    if !s.authZ c then s.complete c stNotGranted []
    else
      let one (s : State) (k : Nat) : State :=
        if bit failed k then (s.noteErr (selfDom k) 0x0C).noteFatal { dom := selfDom k, check := 0x0C, origin := selfDom k } else s
      ((List.range 7).foldl one s).complete c stOk [word (failed % 128)]

def layDiagClear (_ : Cmd) : Layout := { masks := [(4, mk 30 26 + 1)] }

/-- DIAG_CLEAR (R601, R606). -/
def execDiagClear (c : Cmd) (s : State) : Host.Outcome State Fault Refusal :=
  .next <| s.runCmd c 0x1004 (layDiagClear c) false fun s =>
    if !s.authZ c then s.complete c stNotGranted []
    else
      let e := s.err.clear (c.w 4)
      let zero (_ : Nat) (x : DomErr) : DomErr := { x with corrected := 0, recovered := 0, fatals := 0, escal := 0 }
      let e := if c.b 4 0 then { e with doms := e.doms.mapAll DomErr.init zero, patrols := 0 } else e
      { s with err := e }.complete c stOk []

end Sys2Proof.Machine
end

