-- ==== Sys2Proof/Machine/Images.lean ====
section
/-! DEFINITION. Boot, confirmation, fall-back, the data area and the IMG_ commands (R573 to R579). -/

namespace Sys2Proof.Machine

/-- The data area follows the DATAVER of the image applied: migration to a higher version, or the return to the kept copy
(R577). -/
def State.migrate (s : State) (ver : Nat) : State :=
  let a := s.area
  let k := s.otherArea
  if a.version < ver then
    let s := (s.setArea { a with valid := true }).setOther (a.convert ver)
    { s with img := { s.img with inUse1 := !s.img.inUse1, kept := true } }.imgEvent 8 stOk (s.img.running % 2) a.version
  else if ver < a.version ∧ s.img.kept ∧ k.version = ver then
    let s := s.setArea DataArea.init
    let s := { s with img := { s.img with inUse1 := !s.img.inUse1, kept := false } }
    s.setBoot fun k => { k with active := a.active, confA := a.confA, confB := a.confB, unconf := a.unconf }
  else s

/-- The Safe latch takes the hub from Survey to Safe (R80). -/
def State.latchSafe (s : State) : State := if s.ret.safeLatch ∧ s.ret.mode = .survey then s.enterSafe 9 else s

/-- Links that wait for the settings of the image start their first attempt (R15, R121, R642). -/
def State.startLinks (s : State) : State := s.linksPresent.foldl (fun s l => (s.sendRate l 0 false).agree l) s

/-- An image is applied: UNCONF is raised first where the slot is not confirmed; configuration requests are answered from
then on. Which ports are split is read at entry to Survey alone, so an image that a command applies changes it at the next
reset (R15, R66, R573, R577). -/
def State.bootImage (s : State) (k : Nat) (atEntry : Bool) : State :=
  let b := s.board
  let s := if s.confirmed k then s else s.setBoot fun a => { a with unconf := min 3 (a.unconf + 1) }
  let s := (s.applyRecords k).migrate (s.slotN k).dataVer
  let s := if atEntry then s else { s with board := { s.board with splitB := b.splitB, splitC := b.splitC } }
  let s := { s with host := { s.host with
    port0 := { s.host.port0 with retry := false }, port1 := { s.host.port1 with retry := false } } }
  let s := (s.imgEvent 1 stOk k s.area.unconf).latchSafe.pushIdents
  if atEntry then s.startLinks else s

/-- IMAGE_APPLY: the choice of R573. `badA`, `badB`: reading the slot failed beyond recovery (Table 19.2). -/
def effImageApply (badA badB : Bool) (s : State) : State :=
  if s.ret.mode ≠ .survey ∨ 2 ≤ s.boot ∨ s.board.applied ∨ s.board.noImage then s
  else
    let a := s.area
    let named := if a.active < 2 then a.active else s.boot
    let back := decide (a.active < 2) && !s.confirmed named && decide (a.unconf = 3)
    let first := if back then 1 - named else named
    let s := if back then s.imgEvent 3 stOk first first else s
    let bad (k : Nat) : Bool := if k = 0 then badA else badB
    let try1 := s.imgVerify first (bad first)
    if try1 = 0 then s.bootImage first true
    else
      let s := s.imgEvent 2 (stepStatus try1) first try1
      let other := 1 - first
      let try2 := s.imgVerify other (bad other)
      if try2 = 0 then s.bootImage other true
      else
        let s := (s.imgEvent 2 (stepStatus try2) other try2).imgEvent 4 stNotPresent first 0
        { s with board := { s.board with noImage := true } }.latchSafe.startLinks

def execImageApply (badA badB : Bool) (s : State) : Host.Outcome State Fault Refusal := .next (effImageApply badA badB s)

/-- The running image is confirmed (R574). -/
def State.confirmImage (s : State) : State :=
  let k := s.img.running
  let x := s.slotN k
  let s := s.setBoot fun a => { a with confA := decide (k = 0), confB := decide (k = 1), unconf := 0 }
  let s := { s with nv := { s.nv with
    counter := max s.nv.counter x.minSvn, rootHash := some (s.nv.rootHash.getD x.signer) } }
  let s := if s.img.kept then s.setOther DataArea.init else s
  { s with img := { s.img with kept := false, health := false } }.imgEvent 6 stOk k s.nv.counter

/-- The running image counts as confirmed. -/
def State.runConfirmed (s : State) : Bool := decide (s.img.running < 2) && s.confirmed s.img.running

/-- LEG_CONFIRM_IMAGE (R314, R574). -/
def effLegConfirmImage (e : Nat) (s : State) : State :=
  s.effectLeg e 0x10 fun s _ =>
    if !(s.engine e).health ∨ 2 ≤ s.img.running then s.exception e 3
    else if s.runConfirmed then s.adv e
    else s.confirmImage.adv e

def execLegConfirmImage (eng : Nat) (s : State) : Host.Outcome State Fault Refusal := .next (effLegConfirmImage eng s)

/-- The 60 s from Field entry have passed (R574). -/
def State.healthOver (s : State) : Bool := decide (s.img.healthStart + 24000000000 ≤ s.uptime)

/-- HEALTH_TIMEOUT (R574): 60 s from Field entry; nothing follows where the image is confirmed. -/
def effHealthTimeout (s : State) : State :=
  if !s.coreOn ∨ !s.img.health ∨ !s.healthOver then s
  else if s.runConfirmed then { s with img := { s.img with health := false } }
  else
    let s := { s with img := { s.img with health := false } }
    let s := if (s.engine 31).health then s.abortEngine 31 false else s
    s.imgEvent 5 stTimeout (s.img.running % 2) 0

def execHealthTimeout (s : State) : Host.Outcome State Fault Refusal := .next (effHealthTimeout s)

/-! ### Commands -/

def layImgStage (c : Cmd) : Layout :=
  { ind := true, masks := [(4, mk 1 0), (5, mkAll), (6, mk 15 0), (7, mkAll), (8, mkAll)]
    enc := c.indirect && decide (c.w 5 % 256 = 0 ∧ 16 ≤ c.w 6 ∧ c.w 6 ≤ 32768 ∧ c.w 6 % 16 = 0 ∧ c.w 5 + c.w 6 ≤ 0x200000)
    inAddr := c.w64 7, inLen := c.w 6 }

/-- IMG_STAGE (R570, R575, R578). -/
def execImgStage (c : Cmd) (s : State) : Host.Outcome State Fault Refusal :=
  .next <| s.runCmd c 0x0F00 (layImgStage c) false fun s =>
    let k := c.f 4 0 0
    if !s.authZ c then s.complete c stNotGranted []
    else if s.img.running = k ∨ (s.img.running < 2 ∧ !s.runConfirmed) then s.complete c stDenied []
    else
      let piece : StagePiece := { offset := c.w 5, bytes := c.data.take (c.w 6) }
      let x := slotOf s.die (if c.w 5 = 0 then [piece] else (s.slotN k).staged ++ [piece])
      let s := s.setSlot k x
      if !c.b 4 1 then s.complete c stOk []
      else
        let step := s.imgVerify k false
        if step ≠ 0 then s.complete c (stepStatus step) []
        else (s.setSlot k { x with verified := true }).complete c stOk [x.imgVer, word x.minSvn]

def layImgCommit (_ : Cmd) : Layout := { masks := [(4, 1), (5, mkAll)] }

/-- IMG_COMMIT (R575, R578). -/
def execImgCommit (c : Cmd) (s : State) : Host.Outcome State Fault Refusal :=
  .next <| s.runCmd c 0x0F01 (layImgCommit c) false fun s =>
    let k := c.f 4 0 0
    let x := s.slotN k
    if !s.authZ c then s.complete c stNotGranted []
    else if !x.verified ∨ x.imgVer.toNat ≠ c.w 5 then s.complete c stStaleGen []
    else
      let s := s.setBoot fun a =>
        { a with active := k, unconf := 0, confA := a.confA && decide (k ≠ 0), confB := a.confB && decide (k ≠ 1) }
      let s := s.complete c stOk []
      if s.ret.mode = .survey ∧ s.img.running = 2 then s.bootImage k false else s

/-- State of a slot (Table 18.11). -/
def State.slotState (s : State) (k : Nat) : Nat :=
  if s.imgVerify k false ≠ 0 then 0 else if s.confirmed k then 3 else if s.area.active = k then 2 else 1

/-- Seconds left of the 60 s interval (Table 18.11). -/
def State.healthLeft (s : State) : Nat := if s.img.health then 60 - (s.uptime - s.img.healthStart) / 400000000 else 0

/-- IMG_QUERY words (Table 18.11). -/
def State.imgWords (s : State) : List Word :=
  let a := s.area
  let svn (k : Nat) : Nat := if s.slotState k = 0 then 0 else (s.slotN k).minSvn
  let ver (k : Nat) : Word := if s.slotState k = 0 then 0 else (s.slotN k).imgVer
  [ pack [fld 18 s.healthLeft, fld 17 (b2n s.img.kept), fld 14 a.version, fld 7 s.nv.counter, fld 5 a.unconf,
          fld 4 (b2n (decide (a.active = 1))), fld 3 (b2n s.runConfirmed), s.img.running],
    ver 0, ver 1,
    pack [fld 11 (svn 1), fld 4 (svn 0), fld 2 (s.slotState 1), s.slotState 0] ]

def layImgQuery (_ : Cmd) : Layout := {}

/-- IMG_QUERY (R578). -/
def execImgQuery (c : Cmd) (s : State) : Host.Outcome State Fault Refusal :=
  .next <| s.runCmd c 0x0F02 (layImgQuery c) true fun s => s.complete c stOk s.imgWords

def layImgConfirm (_ : Cmd) : Layout := {}

/-- IMG_CONFIRM (R574, R578). -/
def execImgConfirm (c : Cmd) (s : State) : Host.Outcome State Fault Refusal :=
  .next <| s.runCmd c 0x0F03 (layImgConfirm c) false fun s =>
    if !s.authZ c then s.complete c stNotGranted []
    else if s.runConfirmed then s.complete c stOk []
    else if !s.img.health ∨ s.healthOver ∨ 2 ≤ s.img.running then s.complete c stWrongMode []
    else s.confirmImage.complete c stOk []

def layImgRevert (_ : Cmd) : Layout := {}

/-- IMG_REVERT (R575, R578): the other slot than the one the BOOT record names. -/
def execImgRevert (c : Cmd) (s : State) : Host.Outcome State Fault Refusal :=
  .next <| s.runCmd c 0x0F04 (layImgRevert c) false fun s =>
    let named := if s.area.active < 2 then s.area.active else s.boot % 2
    let k := 1 - named
    let step := s.imgVerify k false
    if !s.authZ c then s.complete c stNotGranted []
    else if step ≠ 0 then s.complete c (stepStatus step) []
    else ((s.setBoot fun a => { a with active := k }).imgEvent 9 stOk k k).complete c stOk []

end Sys2Proof.Machine
end

