-- ==== Sys2Proof/Machine/Modes.lean ====
section
/-! DEFINITION. Resets, straps, rails, the modes and their transitions, TREE_RESET_HUB and the DEV_ commands (Chapters 2 and 3,
R393 to R395; log entry 46). -/

namespace Sys2Proof.Machine

/-! ### Power-on reset, RESET_N and straps -/

/-- Everything cleared but flash and fuses, slots that KEY_DESTROY found broken, and the levels of the pins and rails that the
caller gives (R49, R52, R560). -/
def State.wholeReset (s : State) (r : Ret) : State :=
  let keep (_ : Nat) (x : KeySlot) : KeySlot := { KeySlot.init with broken := x.broken }
  { State.reset with
    pending := s.pending, out := s.out, free := s.free, nv := s.nv, uptime := s.uptime, ret := r, usb := { Usb.init with vbus := s.usb.vbus }
    keys := { Keys.init with slots := s.keys.slots.mapAll KeySlot.init keep } }

/-- POWER_ON_RESET (R49, R52, R53). -/
def execPowerOnReset (s : State) : Host.Outcome State Fault Refusal :=
  .next { s.wholeReset { Ret.init with resetCause := 0, perst0 := s.ret.perst0, perst1 := s.ret.perst1 } with uptime := 0 }

/-- RESET_N_ASSERT (R49 to R53). -/
def execResetNAssert (s : State) : Host.Outcome State Fault Refusal :=
  .next (s.wholeReset { Ret.init with
    resetCause := 1, rails := s.ret.rails, perst0 := s.ret.perst0, perst1 := s.ret.perst1, testEn := s.ret.testEn })

/-- The straps are sampled, and the hub rests in Sentry (R29, R57, R63). -/
def State.sampleStraps (s : State) (pins : BitVec 14) (wakeN : Bool) : State :=
  let s := { s with ret := { s.ret with
    straps := pins, strapsValid := true, strapDefer := false, inReset := false, mode := .sentry, wakeN := wakeN
    xspiAt := some (s.ret.xspiAt.getD s.uptime) } }
  if wakeN then s else s.runRequest

/-- RESET_N_RELEASE (R27, R29, R30). -/
def effResetNRelease (pins : BitVec 14) (wakeN testEn : Bool) (s : State) : State :=
  if !s.ret.inReset ∨ s.ret.strapDefer then s
  else if testEn then { s with ret := { s.ret with testEn := true } }
  else
    let s := { s with ret := { s.ret with testEn := false, xspiAt := some s.uptime } }
    if s.railValid .vddioC then s.sampleStraps pins wakeN else { s with ret := { s.ret with strapDefer := true } }

def execResetNRelease (pins : BitVec 14) (wakeN testEn : Bool) (s : State) : Host.Outcome State Fault Refusal :=
  .next (effResetNRelease pins wakeN testEn s)

/-- STRAP_SAMPLE_DEFERRED (R27, R30): with TEST_EN high at this instant the hub stays in reset, and samples nothing. -/
def effStrapSampleDeferred (pins : BitVec 14) (wakeN testEn : Bool) (s : State) : State :=
  if s.ret.strapDefer ∧ s.railValid .vddioC then
    if testEn then { s with ret := { s.ret with testEn := true, strapDefer := false } } else s.sampleStraps pins wakeN
  else s

def execStrapSampleDeferred (pins : BitVec 14) (wakeN testEn : Bool) (s : State) : Host.Outcome State Fault Refusal :=
  .next (effStrapSampleDeferred pins wakeN testEn s)

/-- ACT_SAFELVL_DRIVE (R31). -/
def effActSafelvlDrive (s : State) : State :=
  if s.ret.strapsValid ∧ !s.ret.actDriven then { s with ret := { s.ret with actDriven := true } }.pinsToSafe else s

def execActSafelvlDrive (s : State) : Host.Outcome State Fault Refusal := .next (effActSafelvlDrive s)

/-! ### Between the core modes and Sentry -/

/-- A link of a hub that leaves its core modes, or whose core is reset, goes DOWN; where it holds an epoch, that ends: tunnels
that cross it are SUSPENDED, and commands that wait on it or on a route over it end with LINK_LOST (R177, R182, R183). -/
def State.linkLeave (s : State) (l : Nat) : State :=
  let k := s.link l
  if k.st = .down then s
  else
    let s := if k.epochHeld then (s.suspendLink l).dropQueue l else s
    let s := (s.modLink l fun k => (k.noEpoch .down).lanesDown).linkEvent l k.code 0 stOk false k.epochHeld 0x0D
    let s := k.lane.wakeCmd.foldl (fun s c => s.complete c stLinkLost []) (s.endLinkCmd l stLinkLost)
    if k.epochHeld then s.closeRoutes l else s

/-- The hub leaves its core modes, or its core is reset, by its own doing: every link goes DOWN, an epoch with it, and a hub that
counted as a branch is a leaf (R12, R177, R182, R183). -/
def State.linksLeave (s : State) : State := (s.linksPresent.foldl State.linkLeave s).noteRole

/-- The core is released: the state of Survey entry (R15, R46, R51, R54, R57, R343, R397, R561, R573, R578, R605, R642). -/
def State.surveyStart (s : State) (cause : Nat) (failed : Bool) : State :=
  let old := s.ret.mode
  let s := s.outputsLow.coreReset
  let s := { s with ret := { s.ret with mode := .survey, runReq := false, wakeSent := [], lateRails := [], xspiAt := some s.uptime } }
  let builtin := decide (s.boot = 2)
  let zero : Slice := { Slice.init with state := 1, bound := s.pcieUsed, pasid := if s.pcieUsed then none else some 0 }
  let s := ({ s with
    board := { s.board with builtin := builtin }
    img := { s.img with running := if builtin then 3 else 2 } }.areaBoot.keysReload.captureDefault).setSlice 0 zero
  let s := (s.pinsToSafe.modeEvent old .survey cause).pushIdents
  let s := s.linksPresent.foldl (fun s l => s.sendRate l 0 false) s
  let s := if builtin then s.latchSafe else s
  if failed then (s.noteErr 0 0x0C).deviceFatal { dom := 0, check := 0x0C } false false else s

/-- The hub leaves the core modes: everything in the core is lost (R48, R51, R60, R522). -/
def State.toSentry (s : State) : State :=
  let s := s.outputsLow.coreClear
  { s with ret := { s.ret with mode := .sentry } }.pinsToSafe.pushIdents

/-- SURVEY_ENTRY (R57, R80). -/
def effSurveyEntry (failed : Bool) (s : State) : State :=
  if s.ret.mode = .sentry ∧ !s.ret.inReset ∧ s.runRailsValid ∧ (s.ret.runReq ∨ s.ret.safeLatch) then s.surveyStart 0 failed else s

def execSurveyEntry (failed : Bool) (s : State) : Host.Outcome State Fault Refusal := .next (effSurveyEntry failed s)

/-- RAIL_VALID (R43, R44). -/
def effRailValid (r : Rail) (s : State) : State :=
  if s.railValid r then s
  else
    let late := decide (r = .vddLv ∨ r = .vddUsb) && decide (s.ret.mode = .safe)
    let s := { s with ret := { s.ret with rails := r :: s.ret.rails, lateRails := if late then r :: s.ret.lateRails else s.ret.lateRails } }
    if r = .vddUsb then s.usbAttach else s

def execRailValid (r : Rail) (s : State) : Host.Outcome State Fault Refusal := .next (effRailValid r s)

/-- A head whose block has become absent (R41, R44, R397). -/
def State.headGone (s : State) (i : Nat) : State :=
  let h := s.head i
  let s := s.setHead i { h with
    st := hdOff, capturing := false, lvds := false, bl := false, panelEn := false, seq := 0, fpend := none, lpend := none, rows := [], acc := none, accNext := none
    timing := { h.timing with enable := false } }
  h.pendCmds.foldl (fun s c => s.complete c stNotPresent []) s

/-- RAIL_INVALID (R43, R44, R48, R53, R54, R57, R59, R80, R394): Safe, where it is asked for, ranks before the loss of a run rail,
and the loss, which lasts, then takes the hub to Sentry with the Safe latch kept. -/
def effRailInvalid (r : Rail) (s : State) : State :=
  if !s.railValid r then s
  else
    let drop (l : List Rail) : List Rail := l.filter fun x => decide (x ≠ r)
    let s := { s with ret := { s.ret with rails := drop s.ret.rails, lateRails := drop s.ret.lateRails } }
    if !s.coreOn then s
    else if r = .vddLv then (s.headGone 0).headGone 1
    else if r = .vddUsb then s.usbDetachAll
    else
      let s := match s.ret.devReq with
        | some d => if d.toSafe then s.enterSafe 7 else s
        | none => s
      { s with ret := { s.ret with resetCause := 3, actRetained := true, xspiAt := none } }.toSentry

def execRailInvalid (r : Rail) (s : State) : Host.Outcome State Fault Refusal := .next (effRailInvalid r s)

/-- WAKE_REASON (R61, R63). -/
def effWakeReason (byPin : Bool) (s : State) : State :=
  if s.ret.inReset then s
  else
    let s := if s.ret.mode = .dormant then { s with ret := { s.ret with mode := .sentry } } else s
    if byPin then { s with ret := { s.ret with wakeN := false } }.runRequest else s

def execWakeReason (byPin : Bool) (s : State) : Host.Outcome State Fault Refusal := .next (effWakeReason byPin s)

/-- No enabled port receives carrier, no power path is outside DETACHED and every KEEP output is off (R62). -/
def State.quiet (s : State) : Bool :=
  [0, 1, 2].all fun p =>
    let x := s.port p
    !s.portEnabled p || (!x.sb0.carrier && !x.sb1.carrier && decide (x.st = pDetached) && !x.keepEn)

/-- DORMANCY_DELAY_EXPIRY (R57, R62). -/
def effDormancyDelayExpiry (wakeN : Bool) (s : State) : State :=
  let s := { s with ret := { s.ret with wakeN := wakeN } }
  if s.ret.mode = .sentry ∧ !s.ret.inReset ∧ wakeN ∧ s.quiet then { s with ret := { s.ret with mode := .dormant } } else s

def execDormancyDelayExpiry (wakeN : Bool) (s : State) : Host.Outcome State Fault Refusal := .next (effDormancyDelayExpiry wakeN s)

/-- SURVEY_CARRIER_TIMEOUT (R57, R182, R542). -/
def effSurveyCarrierTimeout (wakeN : Bool) (s : State) : State :=
  let s := { s with ret := { s.ret with wakeN := wakeN } }
  if s.ret.mode = .survey ∧ !s.isRoot ∧ wakeN ∧ !(s.port 0).sb0.carrier then s.linksLeave.pwrLeave.toSentry else s

def execSurveyCarrierTimeout (wakeN : Bool) (s : State) : Host.Outcome State Fault Refusal := .next (effSurveyCarrierTimeout wakeN s)

/-! ### Host port resets -/

/-- The level of PE_PERSTn_N. -/
def State.setPerst (s : State) (port : Nat) (v : Bool) : State :=
  if port = 0 then { s with ret := { s.ret with perst0 := v } } else { s with ret := { s.ret with perst1 := v } }

/-- PERST_RELEASE (R36, R63, R66). -/
def effPerstRelease (port : Nat) (s : State) : State :=
  if 2 ≤ port then s
  else
    let s := s.setPerst port true
    if s.hostPortUsed port ∧ s.ret.strapsValid then s.runRequest else s

def execPerstRelease (port : Nat) (s : State) : Host.Outcome State Fault Refusal := .next (effPerstRelease port s)

/-- HOST_PORT_RESET (R36, R49, R66, R358): the port's PCIe logic, its configuration and its MSI-X table, and its slices. -/
def effHostPortReset (port : Nat) (s : State) : State :=
  if 2 ≤ port then s
  else
    let s := s.setPerst port false
    if !s.hostPortUsed port ∨ !s.coreOn then s
    else
      let h := s.hport port
      (s.setHport port { HPort.init with
        retry := !s.board.applied, snapT := h.snapT, snapW7 := h.snapW7, snapOk := h.snapOk, unmapped := h.unmapped }).resetPortSlices port

def execHostPortReset (port : Nat) (s : State) : Host.Outcome State Fault Refusal := .next (effHostPortReset port s)

/-- PCIE_RETRY_STATUS_END (R66). -/
def effPcieRetryStatusEnd (port : Nat) (s : State) : State :=
  let level := if port = 0 then s.ret.perst0 else s.ret.perst1
  if s.coreOn ∧ s.hostPortUsed port ∧ level then s.setHport port { s.hport port with retry := false } else s

def execPcieRetryStatusEnd (port : Nat) (s : State) : Host.Outcome State Fault Refusal := .next (effPcieRetryStatusEnd port s)

/-! ### Field -/

/-- The Field conditions (R69), and the latch (R80). -/
def State.fieldReady (s : State) : Bool :=
  decide (s.ret.mode = .survey) && !s.ret.safeLatch && (s.board.applied || decide (s.boot = 2)) &&
    (s.isRoot || (s.linkUp 0 && s.hubNum.isSome && decide (s.time.st = .locked)))

/-- An engine of the image starts, owned by slice 0, with REF at this instant (R70, R320). -/
def State.imageEngine (s : State) (e : Nat) (entry : Option Nat) : State :=
  match entry with
  | none => s
  | some n =>
    ((s.wakeEngine e .running).modEngine e fun x => { x with
      entry := n, ownerHub := s.mgmtHub, ownerSlice := 0, health := decide (e = 31) }).launchEngine e s.now250

/-- A head with ENABLE set starts as a commit turns it on: under the timing a commit put in force in Survey, where the head
stayed OFF, else under the image's (R70, R397, R404, Table 3.6). -/
def State.startHead (s : State) (i : Nat) : State :=
  let h := s.head i
  if !s.headPresent i then s
  else if h.hasTiming then (if h.timing.enable then s.applyF i { timing := h.timing, uc := h.uc } else s)
  else
    match s.disp.imgTiming.find? fun p => decide (p.1 = i) with
    | some (_, t) => if t.enable then s.applyF i { timing := t, uc := h.uc } else s
    | none => s

/-- A TUNNEL record of the image, through the root's control plane (R572). -/
def State.tunnelRec (s : State) (r : ImgRec) : State := effTunOpen (r.cmd 0x0400) s

/-- FIELD_ENTRY (R69, R70, R122, R191, R320, R436, R482, R572, R574). -/
def effFieldEntry (s : State) : State :=
  if !s.fieldReady then s
  else
    let s := s.toMode .field 1
    let s := (s.imageEngine 0 s.board.startEntry).imageEngine 31 s.board.healthEntry
    let s := if s.img.running < 2 then { s with img := { s.img with health := true, healthStart := s.uptime } } else s
    let s := (s.startHead 0).startHead 1
    let s := (((s.claimStart 0).claimStart 1).usbAttach).fieldMoves
    if s.isRoot then
      s.board.tunnelRecs.foldl State.tunnelRec { s with tree := { s.tree with enumRun := s.tree.enumRun || !s.tree.enumDone } }
    else s

def execFieldEntry (s : State) : Host.Outcome State Fault Refusal := .next (effFieldEntry s)

/-! ### TREE_RESET_HUB -/

def layTreeResetHub (_ : Cmd) : Layout := { masks := [(4, 1), (5, mkAll), (6, mkAll)] }

/-- The command comes from slice 0 of the root, or from its control plane. -/
def State.byRoot (s : State) (c : Cmd) : Bool :=
  (c.sys && decide (c.hub = 0)) || decide (c.slice = 0 ∧ (if c.here then s.isRoot = true else c.hub = 0))

/-- The command comes from slice 0 of the root, or of an ancestor (R219; log entry 36). -/
def State.fromAbove (s : State) (c : Cmd) : Bool :=
  s.byRoot c || (!c.here && !c.sys && decide (c.slice = 0) &&
    (decide ((s.link 0).pHub = some c.hub) || Config.isAncestor c.hub s.free))

/-- Safe, which ranks first, is entered at this instant or asked for by a DEV_MODE in its DELAY: the core kind of a tree reset
loses against it (R59, R394). -/
def State.outranked (s : State) : Bool :=
  decide (s.ret.safeAt = s.uptime + 1) || (match s.ret.devReq with
    | some d => d.toSafe
    | none => false)

/-- TREE_RESET_HUB (R49, R59, R79, R182, R217, R219, R220, R394): completion, report, then the reset. DESIGN CHOICE: a core reset
that loses against Safe is discarded and its command completes with ABORTED (log entry 46). -/
def execTreeResetHub (c : Cmd) (failed : Bool) (s : State) : Host.Outcome State Fault Refusal :=
  .next <| s.runCmd c 0x0302 (layTreeResetHub c) true fun s =>
    let ok := s.fromAbove c
    let v := (s.freeVal 32).toNat
    let s := s.drew
    if s.ret.mode = .safe ∧ !s.byRoot c then s.complete c stWrongMode []
    else if !ok then s.complete c stNotGranted []
    else if s.nv.unitId ≠ BitVec.ofNat 64 (c.w64 5) then s.complete c stStaleGen (s.selfWords 0 v)
    else if !c.b 4 0 ∧ s.outranked then s.complete c stAborted []
    else
      let s := (s.complete c stOk []).reportBoth 3 stOk 0 (s.selfWords 0x0C v)
      let s := if c.sys ∨ s.cmdHub c = 0 ∨ (s.cmdHub c = s.mgmtHub ∧ c.slice = 0) then s
        else s.report c.hub c.slice 3 stOk 0 (s.selfWords 0x0C v)
      if c.b 4 0 then s.enterSafe 8
      else
        let s := s.linksLeave
        { s with ret := { s.ret with resetCause := 2, safeLatch := false, actRetained := true } }.surveyStart 5 failed

/-! ### DEV_ commands -/

def layDevInfo (_ : Cmd) : Layout := { masks := [(4, 1)] }

/-- DEV_INFO (R393). -/
def execDevInfo (c : Cmd) (s : State) : Host.Outcome State Fault Refusal :=
  .next <| s.runCmd c 0x0100 (layDevInfo c) true fun s => s.complete c stOk (if c.b 4 0 then s.devInfo1 else s.devInfo0)

def layDevMode (c : Cmd) : Layout := { masks := [(4, mk 31 16 + mk 2 0), (5, mk 13 0)], enc := decide (c.f 4 2 0 = 1 ∨ c.f 4 2 0 = 5) }

/-- DEV_MODE (R58, R394). -/
def execDevMode (c : Cmd) (s : State) : Host.Outcome State Fault Refusal :=
  .next <| s.runCmd c 0x0101 (layDevMode c) false fun s =>
    if !s.authZ c then s.complete c stNotGranted []
    else if c.f 4 31 16 ≠ 0x4D4F ∨ 10000 < c.f 5 13 0 then s.complete c stBadParam []
    else if s.ret.devReq.isSome then s.complete c stBusy []
    else
      let s := s.complete c stOk []
      { s with ret := { s.ret with devReq := some { toSafe := decide (c.f 4 2 0 = 5), delayMs := c.f 5 13 0, tag := c.tag } } }

/-- DEV_MODE_DELAY_EXPIRY (R57, R59, R182, R394, R542). -/
def effDevModeDelayExpiry (s : State) : State :=
  match s.ret.devReq with
  | none => s
  | some r =>
    let s := { s with ret := { s.ret with devReq := none } }
    if r.toSafe then s.causedBy r.tag fun s => s.enterSafe 7
    else if !s.coreOn ∨ s.ret.mode = .safe then s
    else s.causedBy r.tag fun s => s.linksLeave.pwrLeave.toSentry

def execDevModeDelayExpiry (s : State) : Host.Outcome State Fault Refusal := .next (effDevModeDelayExpiry s)

def layDevStraps (_ : Cmd) : Layout := {}

/-- DEV_STRAPS (R395). -/
def execDevStraps (c : Cmd) (s : State) : Host.Outcome State Fault Refusal :=
  .next <| s.runCmd c 0x0104 (layDevStraps c) true fun s => s.complete c stOk s.devStraps

end Sys2Proof.Machine
end

