-- ==== Sys2Proof/Machine/Transport.lean ====
section
/-! DEFINITION. How commands reach their execution: the opcode index, the fetch from a submission queue, the messages that carry a
command to another hub and its completion back, and timed commands (R346, R354, R367 to R384, R641; log entry 47). -/

namespace Sys2Proof.Machine

/-! ### The opcode index (Table 12.7) -/

def sliceLayouts : List (Nat × (Cmd → Layout)) :=
  [(0x0000, laySliceCreate), (0x0001, laySliceDestroy), (0x0002, laySliceReset), (0x0003, laySliceGrant),
   (0x0004, laySliceRevoke), (0x0005, laySliceFreeze), (0x0006, laySliceSave), (0x0007, laySliceRestore),
   (0x0008, laySliceThaw), (0x0009, layQueueCreate), (0x000A, layQueueDestroy), (0x000B, layEvqSet)]

def deviceLayouts : List (Nat × (Cmd → Layout)) :=
  [(0x0100, layDevInfo), (0x0101, layDevMode), (0x0102, layPaceSet), (0x0103, layPaceQuery), (0x0104, layDevStraps)]

def linkLayouts : List (Nat × (Cmd → Layout)) :=
  [(0x0200, layLinkQuery), (0x0201, layLinkRate), (0x0202, layLinkSleep), (0x0203, layLinkWake), (0x0204, layLinkRetrain),
   (0x0205, layLinkCounters), (0x0206, layLinkPattern), (0x0207, layLinkEqOverride)]

def treeLayouts : List (Nat × (Cmd → Layout)) :=
  [(0x0300, layTreeEnumerate), (0x0301, layTreeQuery), (0x0302, layTreeResetHub), (0x0303, layTreeEvict)]

def tunnelLayouts : List (Nat × (Cmd → Layout)) :=
  [(0x0400, layTunOpen), (0x0401, layTun), (0x0402, layTunModify), (0x0403, layTunQuery), (0x0404, layTun), (0x0405, layTun)]

def scheduleLayouts : List (Nat × (Cmd → Layout)) :=
  [(0x0500, laySchedClassSet), (0x0501, laySchedGateLoad), (0x0502, laySchedGateCommit), (0x0503, laySchedWindowSet),
   (0x0504, laySchedBounds), (0x0505, laySchedQuery)]

def timeLayouts : List (Nat × (Cmd → Layout)) :=
  [(0x0600, layTimeQuery), (0x0601, layTimeSet), (0x0602, layTimeAdjust), (0x0603, layTimeSource),
   (0x0604, layTimeStampArm), (0x0605, layTimeOutCfg)]

def traverseLayouts : List (Nat × (Cmd → Layout)) :=
  [(0x0700, layTravLoad), (0x0701, layTravArm), (0x0702, layTravAbort), (0x0703, layTravQuery), (0x0704, layTravReadLegs),
   (0x0705, layTravActCfg)]

def displayLayouts : List (Nat × (Cmd → Layout)) :=
  [(0x0800, layTiming), (0x0801, layDispPlane), (0x0802, layOverlay), (0x0803, layCommit), (0x0804, layUndercoat),
   (0x0805, layRegion), (0x0806, layDispQuery)]

def usbLayouts : List (Nat × (Cmd → Layout)) :=
  [(0x0900, layPortMap), (0x0901, layUsbQuery), (0x0902, layUsbPortPower), (0x0903, layUsbCounters)]

def netLayouts : List (Nat × (Cmd → Layout)) :=
  [(0x0A00, layNetPort), (0x0A01, layVlanMap), (0x0A02, layNetQuery), (0x0A03, layNetCounters)]

def canLayouts : List (Nat × (Cmd → Layout)) :=
  [(0x0B00, layCanCfg), (0x0B01, layCanFilter), (0x0B02, layCanName), (0x0B03, layCanQuery), (0x0B04, layCanSend)]

def windowLayouts : List (Nat × (Cmd → Layout)) :=
  [(0x0C00, layWinOpen), (0x0C01, layWinClose), (0x0C02, layWinRange), (0x0C03, layWinSem), (0x0C04, layWinQuery)]

def powerLayouts : List (Nat × (Cmd → Layout)) :=
  [(0x0D00, layPwrQuery), (0x0D01, layPwrContract), (0x0D02, layPwrSwap), (0x0D03, layPwrLimits),
   (0x0D04, layPwrResetFault), (0x0D05, layPwrLog)]

def keyLayouts : List (Nat × (Cmd → Layout)) :=
  [(0x0E00, layKeyGenerate), (0x0E01, layKeyImport), (0x0E02, layKeyExport), (0x0E03, layKeyLoad), (0x0E04, layKeyDestroy),
   (0x0E05, layKeyAttest), (0x0E06, layKeyDerive), (0x0E07, layKeyCrypt), (0x0E08, layKeyPairLink)]

def imageLayouts : List (Nat × (Cmd → Layout)) :=
  [(0x0F00, layImgStage), (0x0F01, layImgCommit), (0x0F02, layImgQuery), (0x0F03, layImgConfirm), (0x0F04, layImgRevert)]

def diagLayouts : List (Nat × (Cmd → Layout)) :=
  [(0x1000, layDiagErrors), (0x1001, layDiagInject), (0x1002, layDiagScrub), (0x1003, layDiagSelftest),
   (0x1004, layDiagClear)]

/-- The opcodes with the layouts of their parameters (R392). -/
def allLayouts : List (Nat × (Cmd → Layout)) :=
  sliceLayouts ++ deviceLayouts ++ linkLayouts ++ treeLayouts ++ tunnelLayouts ++ scheduleLayouts ++
    timeLayouts ++ traverseLayouts ++ displayLayouts ++ usbLayouts ++ netLayouts ++ canLayouts ++
    windowLayouts ++ powerLayouts ++ keyLayouts ++ imageLayouts ++ diagLayouts

/-- The layout of a packet's opcode, none where Table 12.7 has no such opcode (R370, R392). -/
def layoutOf (c : Cmd) : Option Layout := (allLayouts.find? fun p => decide (p.1 = c.opcode)).map fun p => p.2 c

/-! ### The choice of a command (R346, R354, R356) -/

/-- A tag is free for a slice: 16 of the 512 are reserved for slice 0 (R346). -/
def State.tagFree (s : State) (k : Nat) : Bool :=
  let free := 512 - s.tagsUsed
  if k = 0 then decide (0 < free) else decide (16 - s.pendingOf 0 < free)

/-- The queue has entries to fetch (R351 to R353). -/
def SubQ.work (q : SubQ) : Bool := q.enable && decide (q.err = 0) && decide (q.head ≠ q.tail) && decide (q.size ≠ 0)

/-- The queues of a slice with work. -/
def State.workQs (s : State) (k : Nat) : List Nat := (List.range 8).filter fun i => (s.sq k i).work

/-- The queue a slice's next command comes from: the highest priority, in turns (R354). -/
def State.pickQ (s : State) (k : Nat) : Option Nat :=
  let qs := s.workQs k
  let best := qs.foldl (fun p i => min p (s.sq k i).prio) 3
  let eq := qs.filter fun i => decide ((s.sq k i).prio = best)
  match eq.find? fun i => decide ((s.slice k).lastSq.read 8 best < i ∨ (s.slice k).lastSq.read 8 best = 8) with
  | some i => some i
  | none => eq.head?

/-- A command may be fetched for the slice (R338, R340, R346, R354, R356). -/
def State.mayFetch (s : State) (k : Nat) : Bool :=
  let x := s.slice k
  let room := if s.canWrite k then x.evq.room else 0
  s.coreOn && decide (x.state = 1) && s.portReady x && decide (s.readsOut x.port < maxNonPosted) && decide (s.pendingOf k < x.quota) && s.tagFree k
    && decide (s.pendingOf k < room + (64 - x.held.length)) && (s.pickQ k).isSome

/-- The slice served next, in turn after the last (R354). -/
def State.pickSlice (s : State) : Option Nat :=
  ((List.range 64).map fun i => (s.host.lastSlice + 1 + i) % 64).find? s.mayFetch

/-! ### A command is taken (R370 to R372, R380, R381) -/

/-- Timed commands that wait for their instants (R381). -/
def State.timedWaiting (s : State) : Nat :=
  (s.host.pend.filter fun p => decide (s.nowNs < p.launch ∧ (p.stage = .timed ∨ p.stage = .fence))).length
    + (s.host.recv.filter fun r => decide (r.launch ≠ 0)).length

/-- The launch instant of a command that its target takes now, 0 for an untimed one, or the status that turns it away
(R259, R380, R381). -/
def State.launchInstant (s : State) (c : Cmd) : Except Nat Nat :=
  if !c.timed then .ok 0
  else
    let t := resolveCompact s.nowNs (c.w 2) (c.w 3)
    if t < s.nowNs then (if c.lateFail then .error stTimeout else .ok t)
    else if t = s.nowNs then .ok t
    else if 128 ≤ s.timedWaiting then .error stNoResource
    else .ok t

/-- A hub number that check 4 turns away at the submitting hub (R372, R641). -/
def State.noTarget (s : State) (n : Nat) : Bool :=
  decide (s.hubNum ≠ some n) &&
    ((s.isRoot && decide ((s.recOf n).state = rFree)) || decide ((s.entry (n + 1)).state = gClosed))

/-- The status of such a command: a tree command to a target that is only out of reach completes with LINK_LOST (R219, R372,
R641). -/
def State.noTargetSt (s : State) (c : Cmd) : Nat :=
  if c.opcode / 256 = 3 ∧ !(s.isRoot && decide ((s.recOf c.target).state = rFree)) then stLinkLost else stNotPresent

/-- A tree command of the root to a numbered hub that it cannot reach (R219). -/
def State.cutOff (s : State) (c : Cmd) : Bool :=
  decide (c.opcode / 256 = 3) && s.isRoot && decide ((s.recOf c.target).state ≠ rFree) && !s.reach c.target

/-- A command that its queue has given: checks 1 to 4, then it starts or waits (R367 to R372, R380 to R383). -/
def State.takeCmd (s : State) (c : Cmd) : State :=
  match layoutOf c with
  | none => s.complete c stBadOpcode []
  | some lay =>
    if !c.layoutOk lay then s.complete c stBadParam []
    else if c.sgen ≠ (s.slice c.slice).gen.toNat then s.complete c stStaleGen (s.sliceWords c.slice)
    else if !c.toSelf ∧ s.hubNum.isNone then s.complete c stWrongMode []
    else if !c.toSelf ∧ (s.noTarget c.target ∨ s.cutOff c) then s.complete c (s.noTargetSt c) []
    else
      match if s.isLocal c then s.launchInstant c else .ok 0 with
      | .error st => s.complete c st (s.ownWords c)
      | .ok t =>
        let p : Pend := { cmd := c, order := s.host.order, stage := .fence, launch := t, instant := t
                          inAddr := lay.inAddr, inLen := if c.indirect then lay.inLen else 0, outAddr := lay.outAddr }
        let s := { s with host := { s.host with pend := s.host.pend ++ [p], order := s.host.order + 1 } }
        if s.heldBack p then s else s.startPend p

/-- COMMAND_FETCH: the entry is read at HEAD under the slice's PASID; `dws` is what the read brings, none where it has failed
(R341, R346, R352 to R354, R356). -/
def effCommandFetch (dws : Option (List Word)) (s : State) : State :=
  match s.pickSlice with
  | none => s
  | some k =>
    match s.pickQ k with
    | none => s
    | some i =>
      let q := s.sq k i
      let x := s.slice k
      let s := s.emit (.hostRead x.port x.pasid (q.base + 64 * q.head) 64 false)
      match dws with
      | none => (s.setSq k i { q with err := 2 }).queueErr k i 2
      | some ws =>
        let s := s.setSq k i { q with head := (q.head + 1) % q.size }
        let s := s.modSlice k fun x => { x with lastSq := x.lastSq.write 8 q.prio i }
        let s := { s with host := { s.host with lastSlice := k } }
        s.takeCmd { hub := s.hubNo, slice := k, here := true, sys := false, sq := i, htag := s.freeTag, dw := ws }

def execCommandFetch (dws : Option (List Word)) (s : State) : Host.Outcome State Fault Refusal := .next (effCommandFetch dws s)

/-- INDIRECT_INPUT_READ_DONE (R376, R384). -/
def effIndirectInputReadDone (htag : Nat) (ok : Bool) (bytes : List Byte) (s : State) : State :=
  match s.host.pend.find? fun p => decide (p.cmd.htag = htag ∧ p.stage = .input) with
  | none => s
  | some p =>
    if !s.coreOn then s
    else if !ok then s.complete p.cmd stTargetError (if s.isLocal p.cmd then s.ownWords p.cmd else [])
    else
      let data := bytes.take p.inLen
      let p := { p with cmd := { p.cmd with data := data } }
      if s.isLocal p.cmd then (s.setPend { p with stage := .ready }).kick
      else ((s.setPend { p with stage := .sent }).sendCommand p.cmd data).kick

def execIndirectInputReadDone (htag : Nat) (ok : Bool) (bytes : List Byte) (s : State) : Host.Outcome State Fault Refusal :=
  .next (effIndirectInputReadDone htag ok bytes s)

/-- TIMED_COMMAND_DUE: a command of this hub, or one received from a hub, in the order of the instants (R265, R380). -/
def effTimedCommandDue (hub : Option Nat) (htag : Nat) (s : State) : State :=
  if !s.coreOn then s
  else
    match hub with
    | none =>
      match s.host.pend.find? fun p => decide (p.cmd.htag = htag ∧ p.stage = .timed ∧ p.launch ≤ s.nowNs) && s.noneBefore (4 * p.launch) with
      | some p => s.startPend p
      | none => s
    | some h =>
      let due (r : RecvCmd) : Bool := decide (r.cmd.hub = h ∧ r.cmd.htag = htag ∧ r.launch ≤ s.nowNs) && s.noneBefore (4 * r.launch)
      { s with host := { s.host with recv := s.host.recv.map fun r => if due r then { r with launch := 0 } else r } }

def execTimedCommandDue (hub : Option Nat) (htag : Nat) (s : State) : Host.Outcome State Fault Refusal :=
  .next (effTimedCommandDue hub htag s)

/-! ### Messages (R374 to R378, R389) -/

/-- SLICE and SRCHUB of a message (Table 12.3). -/
def msgSlice (ws : List Word) : Nat := bits (nthW ws 0) 21 16
def msgHub (ws : List Word) : Nat := bits (nthW ws 0) 15 11
def msgSgen (ws : List Word) : Nat := bits (nthW ws 1) 23 16
def msgTag (ws : List Word) : Nat := bits (nthW ws 1) 8 0

/-- RECEIVED for a command held (R376). -/
def State.sendReceived (s : State) (c : Cmd) : State :=
  s.emit (.ctrl c.hub 0x14 [s.ctrlW0 0x14 c.slice, pack [fld 16 c.sgen, c.htag], 0, 0] [])

/-- The command a COMMAND carries (Table 12.3). -/
def cmdOf (ws : List Word) : Cmd :=
  { hub := msgHub ws, slice := msgSlice ws, here := false, sys := bit (nthW ws 0) 23, sq := 0, htag := msgTag ws, dw := (ws.drop 6).take 16 }

/-- An entry among the received commands. -/
def RecvCmd.is (r : RecvCmd) (c : Cmd) : Bool := decide (r.cmd.htag = c.htag ∧ r.cmd.hub = c.hub ∧ r.cmd.sys = c.sys)

/-- COMMAND_MESSAGE (R374 to R376, R380, R381, R641). -/
def effCommandMessage (ws : List Word) (s : State) : State :=
  let c := cmdOf ws
  let sent := resolveCompact s.nowNs (nthW ws 2) (nthW ws 3)
  let need := nthW ws 4
  if !s.coreOn then s
  else if s.isRoot ∧ c.target ≠ 0 then
    (if (s.entry (c.target + 1)).state = gClosed then s.complete c stNotPresent [] else s)
  else if s.hubNum ≠ some c.target ∨ sent + 40000000 < s.nowNs ∨ s.host.recv.any fun r => r.is c then s
  else
    match layoutOf c, s.launchInstant c with
    | none, _ => s.complete c stBadOpcode []
    | _, .error st => s.complete c st (s.ownWords c)
    | _, .ok t =>
      let r : RecvCmd :=
        { cmd := c, need := need, launch := if s.nowNs < t then t else 0, hold := decide (need = 0), order := s.host.order, instant := t }
      let s := { s with host := { s.host with recv := s.host.recv ++ [r], order := s.host.order + 1 } }
      if need = 0 then s.sendReceived c else s

def execCommandMessage (ws : List Word) (s : State) : Host.Outcome State Fault Refusal := .next (effCommandMessage ws s)

/-- DATA_MESSAGE: input of a command being received, or output of one sent (R375, R376, R384). -/
def effDataMessage (ws : List Word) (data : List Byte) (s : State) : State :=
  let h := msgHub ws
  let t := msgTag ws
  let bs := data.take (nthW ws 3)
  if !s.coreOn then s
  else
    match s.host.recv.find? fun r => decide (r.cmd.hub = h ∧ r.cmd.htag = t ∧ r.need ≠ 0) with
    | some r =>
      let all := r.data ++ bs
      let left := r.need - bs.length
      let c := if left = 0 then { r.cmd with data := all } else r.cmd
      let r' := { r with cmd := c, data := all, need := left, hold := decide (left = 0) }
      let s := { s with host := { s.host with recv := s.host.recv.map fun q => if q = r then r' else q } }
      if left = 0 then s.sendReceived c else s
    | none =>
      match s.host.pend.find? fun p => decide (p.cmd.htag = t ∧ p.stage = .sent ∧ p.cmd.target = h) with
      | some p =>
        let x := s.slice p.cmd.slice
        if p.stale then s else s.emit (.hostWrite x.port x.pasid (p.outAddr + nthW ws 2) bs)
      | none => s

def execDataMessage (ws : List Word) (data : List Byte) (s : State) : Host.Outcome State Fault Refusal :=
  .next (effDataMessage ws data s)

/-- A message discarded as stale is counted for its slice (R378). -/
def State.countStale (s : State) (k : Nat) : State := s.modSlice k fun x => { x with stale := satAdd 32 x.stale 1 }

/-- The command of this hub that a RECEIVED or COMPLETION answers: its target's, or the root's NOT_PRESENT for a number that is not
in use (R378, R641). -/
def State.answered (s : State) (ws : List Word) : Option Pend :=
  let absent := decide (bits (nthW ws 0) 31 24 = 0x11 ∧ msgHub ws = 0 ∧ (Rec.ofDws ((ws.drop 4).take 8)).status = stNotPresent)
  s.host.pend.find? fun p => decide (p.cmd.htag = msgTag ws ∧ p.stage = .sent) && (decide (p.cmd.target = msgHub ws) || absent)

/-- The hop forms of the root's control plane that a message answers (R375). -/
def State.answersForms (s : State) (hub htag : Nat) : Bool :=
  match s.sched.winOp with
  | some o => decide (o.tag = htag) && o.waiting.contains hub
  | none => false

/-- The rewrites of a slice move that a message answers (R363, R375). -/
def State.answersMove (s : State) (hub htag : Nat) : Bool :=
  match s.host.moveOp with
  | some o => decide (o.tag = htag) && o.waiting.contains hub
  | none => false

/-- RECEIVED_MESSAGE (R377, R378). -/
def effReceivedMessage (ws : List Word) (s : State) : State :=
  let k := msgSlice ws
  if !s.coreOn then s
  else if s.answersForms (msgHub ws) (msgTag ws) then
    { s with sched := { s.sched with winOp := s.sched.winOp.map fun o => { o with got := msgHub ws :: o.got } } }
  else if s.answersMove (msgHub ws) (msgTag ws) then
    { s with host := { s.host with moveOp := s.host.moveOp.map fun o => { o with got := msgHub ws :: o.got } } }
  else if s.destroying (msgHub ws) (some (msgTag ws)) ≠ [] then
    (s.destroying (msgHub ws) (some (msgTag ws))).foldl
      (fun s k => s.modSlice k fun x => { x with destroyGot := msgHub ws :: x.destroyGot }) s
  else
    match s.answered ws with
    | none => s.countStale k
    | some p => if msgSgen ws ≠ (s.slice k).gen.toNat then s.countStale k else s.setPend { p with received := true }

def execReceivedMessage (ws : List Word) (s : State) : Host.Outcome State Fault Refusal := .next (effReceivedMessage ws s)

/-- RECEIVED_REPEAT, every 100 ms while the command is held (R376). -/
def effReceivedRepeat (hub htag : Nat) (sys : Bool) (s : State) : State :=
  match s.host.recv.find? fun r => decide (r.cmd.hub = hub ∧ r.cmd.htag = htag ∧ r.cmd.sys = sys) && r.hold with
  | some r => if s.coreOn then s.sendReceived r.cmd else s
  | none => s

def execReceivedRepeat (hub htag : Nat) (sys : Bool) (s : State) : Host.Outcome State Fault Refusal :=
  .next (effReceivedRepeat hub htag sys s)

/-- COMPLETION_MESSAGE (R376, R378, R383, R384, R390): `outOk`: the output was written to host memory. -/
def effCompletionMessage (ws : List Word) (outOk : Bool) (s : State) : State :=
  let k := msgSlice ws
  let r := Rec.ofDws ((ws.drop 4).take 8)
  if !s.coreOn then s
  else if s.answersForms (msgHub ws) (msgTag ws) then s.hopFormDone (msgHub ws) r.status (word (nthW ws 9))
  else if s.answersMove (msgHub ws) (msgTag ws) then
    (match s.host.moveOp with
      | some o => s.moveAnswer o (msgHub ws) r.status
      | none => s)
  else if s.destroying (msgHub ws) (some (msgTag ws)) ≠ [] then
    (s.destroying (msgHub ws) (some (msgTag ws))).foldl (fun s k => s.destroyAnswer k (msgHub ws) r.status) s
  else
    match s.answered ws with
    | none => s.countStale k
    | some p =>
      if msgSgen ws ≠ (s.slice k).gen.toNat then
        let s := s.countStale k
        if p.stale then (s.dropPend p.cmd).kick else s
      else
        let s := s.dropPend p.cmd
        let bad := !outOk && decide (nthW ws 2 ≠ 0)
        let r := { r with typ := 1, srcIndex := p.cmd.sq, tag := p.cmd.tag
                          status := if bad then stTargetError else r.status, ws := if bad ∧ 0x0B < p.cmd.opcode then [0, 0, 0, 0] else r.ws }
        let s := if r.status = stOk ∧ p.cmd.noEvent then s else s.postRec k true r
        s.kick

def execCompletionMessage (ws : List Word) (outOk : Bool) (s : State) : Host.Outcome State Fault Refusal :=
  .next (effCompletionMessage ws outOk s)

/-- EVENT_MESSAGE (R389). -/
def effEventMessage (ws : List Word) (s : State) : State :=
  let r := Rec.ofDws ((ws.drop 4).take 8)
  if !s.coreOn then s
  else
    let s := s.postRec (msgSlice ws) false r
    if msgSlice ws ≠ 0 then s
    else if r.typ = 2 then s.rateHeard r.srcHub (nthW r.ws 0)
    else if r.typ = 0x0D ∧ nthW r.ws 0 % 256 = 4 ∧ 0x40 ≤ r.srcIndex then s.closeSealed r.srcHub (r.srcIndex - 0x40) (0, 0)
    else s

def execEventMessage (ws : List Word) (s : State) : Host.Outcome State Fault Refusal := .next (effEventMessage ws s)

/-- REMOTE_COMMAND_TIMEOUT (R377). -/
def effRemoteCommandTimeout (hub htag : Nat) (s : State) : State :=
  if !s.coreOn then s
  else if s.answersForms hub htag then
    match s.sched.winOp with
    | some o => s.hopFormDone hub (if o.got.contains hub then stLinkLost else stTimeout) 0
    | none => s
  else if s.destroying hub (some htag) ≠ [] then
    (s.destroying hub (some htag)).foldl
      (fun s k => s.destroyAnswer k hub (if (s.slice k).destroyGot.contains hub then stLinkLost else stTimeout)) s
  else
    match s.host.pend.find? fun p => decide (p.cmd.htag = htag ∧ p.stage = .sent ∧ p.cmd.target = hub) with
    | some p => s.failRemote p (if p.received then stLinkLost else stTimeout)
    | none => s

def execRemoteCommandTimeout (hub htag : Nat) (s : State) : Host.Outcome State Fault Refusal :=
  .next (effRemoteCommandTimeout hub htag s)

end Sys2Proof.Machine
end

