-- ==== Sys2Proof/Machine/Dispatch.lean ====
section
/-! DEFINITION. The dispatcher: one arm per constructor. -/

namespace Sys2Proof.Machine

open Sys2Proof

def exec (i : Instr) (s : State) : Host.Outcome State Fault Refusal :=
  match i with
  | .powerOnReset => Sys2Proof.Machine.execPowerOnReset s
  | .resetNAssert => Sys2Proof.Machine.execResetNAssert s
  | .resetNRelease pins wakeN testEn => Sys2Proof.Machine.execResetNRelease pins wakeN testEn s
  | .strapSampleDeferred pins wakeN testEn => Sys2Proof.Machine.execStrapSampleDeferred pins wakeN testEn s
  | .actSafelvlDrive => Sys2Proof.Machine.execActSafelvlDrive s
  | .railValid r => Sys2Proof.Machine.execRailValid r s
  | .railInvalid r => Sys2Proof.Machine.execRailInvalid r s
  | .wakeReason byPin => Sys2Proof.Machine.execWakeReason byPin s
  | .dormancyDelayExpiry wakeN => Sys2Proof.Machine.execDormancyDelayExpiry wakeN s
  | .surveyEntry failed => Sys2Proof.Machine.execSurveyEntry failed s
  | .perstRelease port => Sys2Proof.Machine.execPerstRelease port s
  | .hostPortReset port => Sys2Proof.Machine.execHostPortReset port s
  | .pcieRetryStatusEnd port => Sys2Proof.Machine.execPcieRetryStatusEnd port s
  | .imageApply badA badB => Sys2Proof.Machine.execImageApply badA badB s
  | .fieldEntry => Sys2Proof.Machine.execFieldEntry s
  | .surveyCarrierTimeout wakeN => Sys2Proof.Machine.execSurveyCarrierTimeout wakeN s
  | .devModeDelayExpiry => Sys2Proof.Machine.execDevModeDelayExpiry s
  | .paceSample rings fault tj => Sys2Proof.Machine.execPaceSample rings fault tj s
  | .paceMonitorRevalid => Sys2Proof.Machine.execPaceMonitorRevalid s
  | .paceMonitorTimeout => Sys2Proof.Machine.execPaceMonitorTimeout s
  | .paceIntervalEnd => Sys2Proof.Machine.execPaceIntervalEnd s
  | .paceSet c => Sys2Proof.Machine.execPaceSet c s
  | .paceQuery c => Sys2Proof.Machine.execPaceQuery c s
  | .skpSend link => Sys2Proof.Machine.execSkpSend link s
  | .pllLock link => Sys2Proof.Machine.execPllLock link s
  | .widthFallback link => Sys2Proof.Machine.execWidthFallback link s
  | .ts1Align link skew sets => Sys2Proof.Machine.execTs1Align link skew sets s
  | .ts2Handoff link sets => Sys2Proof.Machine.execTs2Handoff link sets s
  | .trainingTimeout link => Sys2Proof.Machine.execTrainingTimeout link s
  | .trainingRoundWaitEnd link => Sys2Proof.Machine.execTrainingRoundWaitEnd link s
  | .retrainQuiesced link => Sys2Proof.Machine.execRetrainQuiesced link s
  | .losStart link => Sys2Proof.Machine.execLosStart link s
  | .losEnd link ns => Sys2Proof.Machine.execLosEnd link ns s
  | .losEpochTimeout link => Sys2Proof.Machine.execLosEpochTimeout link s
  | .retrainTimeout link => Sys2Proof.Machine.execRetrainTimeout link s
  | .dozeLightTimeout link => Sys2Proof.Machine.execDozeLightTimeout link s
  | .dozeDeepTimeout link => Sys2Proof.Machine.execDozeDeepTimeout link s
  | .dozReceive link d => Sys2Proof.Machine.execDozReceive link d s
  | .dozeWakeStart link => Sys2Proof.Machine.execDozeWakeStart link s
  | .dozeWakeComplete link => Sys2Proof.Machine.execDozeWakeComplete link s
  | .wakeLockTimeout link => Sys2Proof.Machine.execWakeLockTimeout link s
  | .patternDurationEnd link got => Sys2Proof.Machine.execPatternDurationEnd link got s
  | .linkRate c => Sys2Proof.Machine.execLinkRate c s
  | .linkSleep c => Sys2Proof.Machine.execLinkSleep c s
  | .linkWake c => Sys2Proof.Machine.execLinkWake c s
  | .linkRetrain c => Sys2Proof.Machine.execLinkRetrain c s
  | .linkPattern c got => Sys2Proof.Machine.execLinkPattern c got s
  | .linkEqOverride c => Sys2Proof.Machine.execLinkEqOverride c s
  | .linkQuery c => Sys2Proof.Machine.execLinkQuery c s
  | .linkCounters c => Sys2Proof.Machine.execLinkCounters c s
  | .tunnelPacketReceive link w => Sys2Proof.Machine.execTunnelPacketReceive link w s
  | .localPacketOffer tid urgent first last payload => Sys2Proof.Machine.execLocalPacketOffer tid urgent first last payload s
  | .ackReceive link w => Sys2Proof.Machine.execAckReceive link w s
  | .nakReceive link w => Sys2Proof.Machine.execNakReceive link w s
  | .replayTimerExpiry link => Sys2Proof.Machine.execReplayTimerExpiry link s
  | .ackSend link => Sys2Proof.Machine.execAckSend link s
  | .nakSend link => Sys2Proof.Machine.execNakSend link s
  | .fcUpdateReceive link w => Sys2Proof.Machine.execFcUpdateReceive link w s
  | .initFcReceive link w => Sys2Proof.Machine.execInitFcReceive link w s
  | .identReceive link w => Sys2Proof.Machine.execIdentReceive link w s
  | .identRepeat link => Sys2Proof.Machine.execIdentRepeat link s
  | .fcUpdateTimer link => Sys2Proof.Machine.execFcUpdateTimer link s
  | .fcRefresh link => Sys2Proof.Machine.execFcRefresh link s
  | .fcStall link tc => Sys2Proof.Machine.execFcStall link tc s
  | .hello link ws => Sys2Proof.Machine.execHello link ws s
  | .helloRepeat => Sys2Proof.Machine.execHelloRepeat s
  | .assign ws => Sys2Proof.Machine.execAssign ws s
  | .numbered link ws => Sys2Proof.Machine.execNumbered link ws s
  | .linkchg link ws => Sys2Proof.Machine.execLinkchg link ws s
  | .tunProg ws => Sys2Proof.Machine.execTunProg ws s
  | .tunSet link ws => Sys2Proof.Machine.execTunSet link ws s
  | .tunAck ws => Sys2Proof.Machine.execTunAck ws s
  | .initialEnumerationEnd => Sys2Proof.Machine.execInitialEnumerationEnd s
  | .reattachGraceExpiry link => Sys2Proof.Machine.execReattachGraceExpiry link s
  | .actingRootClose => Sys2Proof.Machine.execActingRootClose s
  | .tunnelOpenStepTimeout => Sys2Proof.Machine.execTunnelOpenStepTimeout s
  | .hopCloseDrained tid => Sys2Proof.Machine.execHopCloseDrained tid s
  | .hopCloseTimeout tid => Sys2Proof.Machine.execHopCloseTimeout tid s
  | .closeAckTimeout hub tid => Sys2Proof.Machine.execCloseAckTimeout hub tid s
  | .treeEnumerate c => Sys2Proof.Machine.execTreeEnumerate c s
  | .treeQuery c => Sys2Proof.Machine.execTreeQuery c s
  | .treeResetHub c failed => Sys2Proof.Machine.execTreeResetHub c failed s
  | .treeEvict c => Sys2Proof.Machine.execTreeEvict c s
  | .tunOpen c => Sys2Proof.Machine.execTunOpen c s
  | .tunClose c => Sys2Proof.Machine.execTunClose c s
  | .tunModify c => Sys2Proof.Machine.execTunModify c s
  | .tunQuery c => Sys2Proof.Machine.execTunQuery c s
  | .tunSuspend c => Sys2Proof.Machine.execTunSuspend c s
  | .tunResume c => Sys2Proof.Machine.execTunResume c s
  | .schedulerPick link => Sys2Proof.Machine.execSchedulerPick link s
  | .lossyAgeExpiry link => Sys2Proof.Machine.execLossyAgeExpiry link s
  | .gateEntryBoundary link => Sys2Proof.Machine.execGateEntryBoundary link s
  | .gateSwitch link => Sys2Proof.Machine.execGateSwitch link s
  | .windowOpen link tid => Sys2Proof.Machine.execWindowOpen link tid s
  | .windowClose link tid => Sys2Proof.Machine.execWindowClose link tid s
  | .windowEffect tid => Sys2Proof.Machine.execWindowEffect tid s
  | .creditIntervalEnd link => Sys2Proof.Machine.execCreditIntervalEnd link s
  | .schedClassSet c => Sys2Proof.Machine.execSchedClassSet c s
  | .schedGateLoad c => Sys2Proof.Machine.execSchedGateLoad c s
  | .schedGateCommit c => Sys2Proof.Machine.execSchedGateCommit c s
  | .schedWindowSet c => Sys2Proof.Machine.execSchedWindowSet c s
  | .schedBounds c => Sys2Proof.Machine.execSchedBounds c s
  | .schedQuery c => Sys2Proof.Machine.execSchedQuery c s
  | .ppsEdge rising since => Sys2Proof.Machine.execPpsEdge rising since s
  | .ppsLost => Sys2Proof.Machine.execPpsLost s
  | .timeExchangeStart link cross => Sys2Proof.Machine.execTimeExchangeStart link cross s
  | .tmkReceive link reply since => Sys2Proof.Machine.execTmkReceive link reply since s
  | .timexReceive link w => Sys2Proof.Machine.execTimexReceive link w s
  | .exchangeInvalidTimeout link => Sys2Proof.Machine.execExchangeInvalidTimeout link s
  | .timeStepApply => Sys2Proof.Machine.execTimeStepApply s
  | .timeMessageSend => Sys2Proof.Machine.execTimeMessageSend s
  | .timeMessage ws => Sys2Proof.Machine.execTimeMessage ws s
  | .trigEdge src rising since => Sys2Proof.Machine.execTrigEdge src rising since s
  | .timeOutEdge pin => Sys2Proof.Machine.execTimeOutEdge pin s
  | .timeQuery c => Sys2Proof.Machine.execTimeQuery c s
  | .timeSet c => Sys2Proof.Machine.execTimeSet c s
  | .timeAdjust c => Sys2Proof.Machine.execTimeAdjust c s
  | .timeSource c => Sys2Proof.Machine.execTimeSource c s
  | .timeStampArm c => Sys2Proof.Machine.execTimeStampArm c s
  | .timeOutCfg c => Sys2Proof.Machine.execTimeOutCfg c s
  | .engineLaunch eng => Sys2Proof.Machine.execEngineLaunch eng s
  | .legEnd eng => Sys2Proof.Machine.execLegEnd eng s
  | .legWaitUntil eng => Sys2Proof.Machine.execLegWaitUntil eng s
  | .waitUntilRelease eng => Sys2Proof.Machine.execWaitUntilRelease eng s
  | .legWaitFor eng => Sys2Proof.Machine.execLegWaitFor eng s
  | .waitForMet eng => Sys2Proof.Machine.execWaitForMet eng s
  | .waitForTimeout eng => Sys2Proof.Machine.execWaitForTimeout eng s
  | .legSetPin eng => Sys2Proof.Machine.execLegSetPin eng s
  | .legPulsePin eng => Sys2Proof.Machine.execLegPulsePin eng s
  | .legPwmPin eng => Sys2Proof.Machine.execLegPwmPin eng s
  | .legWriteReg eng => Sys2Proof.Machine.execLegWriteReg eng s
  | .legReadCheck eng => Sys2Proof.Machine.execLegReadCheck eng s
  | .remoteReadTimeout eng => Sys2Proof.Machine.execRemoteReadTimeout eng s
  | .legSendCan eng => Sys2Proof.Machine.execLegSendCan eng s
  | .legSendMsg eng => Sys2Proof.Machine.execLegSendMsg eng s
  | .legDispCommit eng => Sys2Proof.Machine.execLegDispCommit eng s
  | .legGateSwitch eng => Sys2Proof.Machine.execLegGateSwitch eng s
  | .legMark eng => Sys2Proof.Machine.execLegMark eng s
  | .legLoop eng => Sys2Proof.Machine.execLegLoop eng s
  | .legBranch eng => Sys2Proof.Machine.execLegBranch eng s
  | .legStartEngine eng => Sys2Proof.Machine.execLegStartEngine eng s
  | .legConfirmImage eng => Sys2Proof.Machine.execLegConfirmImage eng s
  | .effectInstant => Sys2Proof.Machine.execEffectInstant s
  | .pwmPeriodStart pin => Sys2Proof.Machine.execPwmPeriodStart pin s
  | .regWrite ws => Sys2Proof.Machine.execRegWrite ws s
  | .regRead ws => Sys2Proof.Machine.execRegRead ws s
  | .regReply ws => Sys2Proof.Machine.execRegReply ws s
  | .travMessage tid src bytes => Sys2Proof.Machine.execTravMessage tid src bytes s
  | .prepare ws => Sys2Proof.Machine.execPrepare ws s
  | .ready ws => Sys2Proof.Machine.execReady ws s
  | .commit ws => Sys2Proof.Machine.execCommit ws s
  | .abort ws => Sys2Proof.Machine.execAbort ws s
  | .launched ws => Sys2Proof.Machine.execLaunched ws s
  | .launchReadyDeadline id => Sys2Proof.Machine.execLaunchReadyDeadline id s
  | .preparedTimeout id => Sys2Proof.Machine.execPreparedTimeout id s
  | .launchPartialTimeout id => Sys2Proof.Machine.execLaunchPartialTimeout id s
  | .actInputEdge pin rising since => Sys2Proof.Machine.execActInputEdge pin rising since s
  | .travLoad c => Sys2Proof.Machine.execTravLoad c s
  | .travArm c => Sys2Proof.Machine.execTravArm c s
  | .travAbort c => Sys2Proof.Machine.execTravAbort c s
  | .travQuery c => Sys2Proof.Machine.execTravQuery c s
  | .travReadLegs c => Sys2Proof.Machine.execTravReadLegs c s
  | .travActCfg c => Sys2Proof.Machine.execTravActCfg c s
  | .commandFetch dws => Sys2Proof.Machine.execCommandFetch dws s
  | .heldRecordWrite slice ok => Sys2Proof.Machine.execHeldRecordWrite slice ok s
  | .interruptTimer slice => Sys2Proof.Machine.execInterruptTimer slice s
  | .slSqTailWrite port slice queue value => Sys2Proof.Machine.execSlSqTailWrite port slice queue value s
  | .slEvqHeadWrite port slice value => Sys2Proof.Machine.execSlEvqHeadWrite port slice value s
  | .slSqSizeWrite port slice queue value => Sys2Proof.Machine.execSlSqSizeWrite port slice queue value s
  | .slEvqSizeWrite port slice value => Sys2Proof.Machine.execSlEvqSizeWrite port slice value s
  | .slIntCtrlWrite port slice value => Sys2Proof.Machine.execSlIntCtrlWrite port slice value s
  | .slRingDbWrite port slice ring value slots => Sys2Proof.Machine.execSlRingDbWrite port slice ring value slots s
  | .rcRegisterRead port offset tag => Sys2Proof.Machine.execRcRegisterRead port offset tag s
  | .mgErrsumWrite port value => Sys2Proof.Machine.execMgErrsumWrite port value s
  | .mgTimeNsRead port tag => Sys2Proof.Machine.execMgTimeNsRead port tag s
  | .msixTableWrite port offset bytes => Sys2Proof.Machine.execMsixTableWrite port offset bytes s
  | .registerWrite port offset value => Sys2Proof.Machine.execRegisterWrite port offset value s
  | .hostPortPowerState port up d0 memEn pasidEn funcMask mps mrrs => Sys2Proof.Machine.execHostPortPowerState port up d0 memEn pasidEn funcMask mps mrrs s
  | .revokeDrainEnd kind index hub slice => Sys2Proof.Machine.execRevokeDrainEnd kind index hub slice s
  | .freezeDrainEnd slice => Sys2Proof.Machine.execFreezeDrainEnd slice s
  | .cookieExpiry slice => Sys2Proof.Machine.execCookieExpiry slice s
  | .sliceMoveTimeout => Sys2Proof.Machine.execSliceMoveTimeout s
  | .sliceCreate c => Sys2Proof.Machine.execSliceCreate c s
  | .sliceDestroy c far => Sys2Proof.Machine.execSliceDestroy c far s
  | .sliceReset c => Sys2Proof.Machine.execSliceReset c s
  | .sliceGrant c => Sys2Proof.Machine.execSliceGrant c s
  | .sliceRevoke c => Sys2Proof.Machine.execSliceRevoke c s
  | .sliceFreeze c => Sys2Proof.Machine.execSliceFreeze c s
  | .sliceSave c => Sys2Proof.Machine.execSliceSave c s
  | .sliceRestore c far recs => Sys2Proof.Machine.execSliceRestore c far recs s
  | .sliceThaw c => Sys2Proof.Machine.execSliceThaw c s
  | .queueCreate c => Sys2Proof.Machine.execQueueCreate c s
  | .queueDestroy c => Sys2Proof.Machine.execQueueDestroy c s
  | .evqSet c => Sys2Proof.Machine.execEvqSet c s
  | .commandMessage ws => Sys2Proof.Machine.execCommandMessage ws s
  | .dataMessage ws data => Sys2Proof.Machine.execDataMessage ws data s
  | .indirectInputReadDone htag ok bytes => Sys2Proof.Machine.execIndirectInputReadDone htag ok bytes s
  | .receivedMessage ws => Sys2Proof.Machine.execReceivedMessage ws s
  | .receivedRepeat hub htag sys => Sys2Proof.Machine.execReceivedRepeat hub htag sys s
  | .completionMessage ws outOk => Sys2Proof.Machine.execCompletionMessage ws outOk s
  | .eventMessage ws => Sys2Proof.Machine.execEventMessage ws s
  | .remoteCommandTimeout hub htag => Sys2Proof.Machine.execRemoteCommandTimeout hub htag s
  | .timedCommandDue hub htag => Sys2Proof.Machine.execTimedCommandDue hub htag s
  | .devInfo c => Sys2Proof.Machine.execDevInfo c s
  | .devMode c => Sys2Proof.Machine.execDevMode c s
  | .devStraps c => Sys2Proof.Machine.execDevStraps c s
  | .frameStart head => Sys2Proof.Machine.execFrameStart head s
  | .lineStart head line pins => Sys2Proof.Machine.execLineStart head line pins s
  | .frameMessage tid ws => Sys2Proof.Machine.execFrameMessage tid ws s
  | .rowMessage tid bytes more => Sys2Proof.Machine.execRowMessage tid bytes more s
  | .sourceFrameSend tid k => Sys2Proof.Machine.execSourceFrameSend tid k s
  | .sourceRowSend tid => Sys2Proof.Machine.execSourceRowSend tid s
  | .rowFetchDone tid ok bytes => Sys2Proof.Machine.execRowFetchDone tid ok bytes s
  | .panelSequenceTimer head => Sys2Proof.Machine.execPanelSequenceTimer head s
  | .dispTiming c => Sys2Proof.Machine.execDispTiming c s
  | .dispPlane c => Sys2Proof.Machine.execDispPlane c s
  | .dispOverlay c => Sys2Proof.Machine.execDispOverlay c s
  | .dispCommit c => Sys2Proof.Machine.execDispCommit c s
  | .dispUndercoat c => Sys2Proof.Machine.execDispUndercoat c s
  | .dispCrcRegion c => Sys2Proof.Machine.execDispCrcRegion c s
  | .dispQuery c => Sys2Proof.Machine.execDispQuery c s
  | .usbSetupToken t bytes => Sys2Proof.Machine.execUsbSetupToken t bytes s
  | .usbOutToken t pid bytes => Sys2Proof.Machine.execUsbOutToken t pid bytes s
  | .usbPingToken t => Sys2Proof.Machine.execUsbPingToken t s
  | .usbInToken t acked => Sys2Proof.Machine.execUsbInToken t acked s
  | .usbHubRequest bmType bRequest wValue wIndex wLength => Sys2Proof.Machine.execUsbHubRequest bmType bRequest wValue wIndex wLength s
  | .usbBusReset => Sys2Proof.Machine.execUsbBusReset s
  | .vbusChange valid => Sys2Proof.Machine.execVbusChange valid s
  | .usbSof mframe => Sys2Proof.Machine.execUsbSof mframe s
  | .microframeStart port => Sys2Proof.Machine.execMicroframeStart port s
  | .overcurrentFilter port => Sys2Proof.Machine.execOvercurrentFilter port s
  | .connectDebounce port speed => Sys2Proof.Machine.execConnectDebounce port speed s
  | .portResetEnd port speed => Sys2Proof.Machine.execPortResetEnd port speed s
  | .resumeEnd port => Sys2Proof.Machine.execResumeEnd port s
  | .suspendIdle => Sys2Proof.Machine.execSuspendIdle s
  | .deviceRemoteWake port => Sys2Proof.Machine.execDeviceRemoteWake port s
  | .farBusTransaction port addr ep dirIn res pid data => Sys2Proof.Machine.execFarBusTransaction port addr ep dirIn res pid data s
  | .usbSetupMessage tid bytes => Sys2Proof.Machine.execUsbSetupMessage tid bytes s
  | .outdata tid bytes => Sys2Proof.Machine.execOutdata tid bytes s
  | .inreq tid bytes => Sys2Proof.Machine.execInreq tid bytes s
  | .indata tid bytes => Sys2Proof.Machine.execIndata tid bytes s
  | .result tid bytes => Sys2Proof.Machine.execResult tid bytes s
  | .portMessage tid src bytes => Sys2Proof.Machine.execPortMessage tid src bytes s
  | .sofrep tid bytes => Sys2Proof.Machine.execSofrep tid bytes s
  | .powerCycleEnd port => Sys2Proof.Machine.execPowerCycleEnd port s
  | .usbPortMap c => Sys2Proof.Machine.execUsbPortMap c s
  | .usbQuery c => Sys2Proof.Machine.execUsbQuery c s
  | .usbPortPower c => Sys2Proof.Machine.execUsbPortPower c s
  | .usbCounters c => Sys2Proof.Machine.execUsbCounters c s
  | .macFrameReceive mac since fcsOk bytes => Sys2Proof.Machine.execMacFrameReceive mac since fcsOk bytes s
  | .macLinkChange mac up speed ability => Sys2Proof.Machine.execMacLinkChange mac up speed ability s
  | .phyInterrupt => Sys2Proof.Machine.execPhyInterrupt s
  | .macFrameTransmit mac => Sys2Proof.Machine.execMacFrameTransmit mac s
  | .netMessage tid bytes => Sys2Proof.Machine.execNetMessage tid bytes s
  | .canFrameReceive ctrl since w0 w1 data => Sys2Proof.Machine.execCanFrameReceive ctrl since w0 w1 data s
  | .addressClaimSettle ctrl => Sys2Proof.Machine.execAddressClaimSettle ctrl s
  | .canBusIdle ctrl => Sys2Proof.Machine.execCanBusIdle ctrl s
  | .canBusOff ctrl => Sys2Proof.Machine.execCanBusOff ctrl s
  | .canBusOffRecovery ctrl => Sys2Proof.Machine.execCanBusOffRecovery ctrl s
  | .canMessage tid bytes => Sys2Proof.Machine.execCanMessage tid bytes s
  | .netPortCfg c => Sys2Proof.Machine.execNetPortCfg c s
  | .netVlanMap c => Sys2Proof.Machine.execNetVlanMap c s
  | .netQuery c => Sys2Proof.Machine.execNetQuery c s
  | .netCounters c => Sys2Proof.Machine.execNetCounters c s
  | .canCfg c => Sys2Proof.Machine.execCanCfg c s
  | .canFilter c => Sys2Proof.Machine.execCanFilter c s
  | .canName c => Sys2Proof.Machine.execCanName c s
  | .canQuery c => Sys2Proof.Machine.execCanQuery c s
  | .canSend c => Sys2Proof.Machine.execCanSend c s
  | .bar2MemoryWrite port addr fbe lbe data => Sys2Proof.Machine.execBar2MemoryWrite port addr fbe lbe data s
  | .bar2MemoryRead port hostTag addr len fbe lbe => Sys2Proof.Machine.execBar2MemoryRead port hostTag addr len fbe lbe s
  | .bar2Atomicop port hostTag addr atype asize data => Sys2Proof.Machine.execBar2Atomicop port hostTag addr atype asize data s
  | .bar2LockedRead port hostTag addr => Sys2Proof.Machine.execBar2LockedRead port hostTag addr s
  | .winRead tid bytes => Sys2Proof.Machine.execWinRead tid bytes s
  | .winWriteP tid bytes => Sys2Proof.Machine.execWinWriteP tid bytes s
  | .winWriteA tid bytes => Sys2Proof.Machine.execWinWriteA tid bytes s
  | .winAtomic tid bytes => Sys2Proof.Machine.execWinAtomic tid bytes s
  | .farAccessDone index result data => Sys2Proof.Machine.execFarAccessDone index result data s
  | .winReadData tid bytes => Sys2Proof.Machine.execWinReadData tid bytes s
  | .winWriteDone tid bytes => Sys2Proof.Machine.execWinWriteDone tid bytes s
  | .winAtomicData tid bytes => Sys2Proof.Machine.execWinAtomicData tid bytes s
  | .winRetry tid bytes => Sys2Proof.Machine.execWinRetry tid bytes s
  | .retryBackoffExpiry win rseq => Sys2Proof.Machine.execRetryBackoffExpiry win rseq s
  | .winRequestTimeout win rseq => Sys2Proof.Machine.execWinRequestTimeout win rseq s
  | .farHoldTimeout index => Sys2Proof.Machine.execFarHoldTimeout index s
  | .semaphoreLeaseExpiry sem => Sys2Proof.Machine.execSemaphoreLeaseExpiry sem s
  | .winOpen c => Sys2Proof.Machine.execWinOpen c s
  | .winClose c => Sys2Proof.Machine.execWinClose c s
  | .winRange c => Sys2Proof.Machine.execWinRange c s
  | .winSem c => Sys2Proof.Machine.execWinSem c s
  | .winQuery c => Sys2Proof.Machine.execWinQuery c s
  | .sidebandTurn port => Sys2Proof.Machine.execSidebandTurn port s
  | .idleFrame port f => Sys2Proof.Machine.execIdleFrame port f s
  | .sidebandIdent port f => Sys2Proof.Machine.execSidebandIdent port f s
  | .sidebandRate port f => Sys2Proof.Machine.execSidebandRate port f s
  | .sidebandWake port f => Sys2Proof.Machine.execSidebandWake port f s
  | .srcCaps port f => Sys2Proof.Machine.execSrcCaps port f s
  | .requestFrame port f => Sys2Proof.Machine.execRequestFrame port f s
  | .acceptFrame port f => Sys2Proof.Machine.execAcceptFrame port f s
  | .rejectFrame port f => Sys2Proof.Machine.execRejectFrame port f s
  | .psRdy port f => Sys2Proof.Machine.execPsRdy port f s
  | .swapReq port f => Sys2Proof.Machine.execSwapReq port f s
  | .swapRetry port => Sys2Proof.Machine.execSwapRetry port s
  | .fsArm port f => Sys2Proof.Machine.execFsArm port f s
  | .goodbye port f => Sys2Proof.Machine.execGoodbye port f s
  | .carrierLoss port link => Sys2Proof.Machine.execCarrierLoss port link s
  | .attachDebounce port link => Sys2Proof.Machine.execAttachDebounce port link s
  | .sidebandExchangeTimeout port link => Sys2Proof.Machine.execSidebandExchangeTimeout port link s
  | .negotiationTimeout port => Sys2Proof.Machine.execNegotiationTimeout port s
  | .srcCapsResend port => Sys2Proof.Machine.execSrcCapsResend port s
  | .foldbackUpdate port vhub vcab imeas vkeep pfltLow => Sys2Proof.Machine.execFoldbackUpdate port vhub vcab imeas vkeep pfltLow s
  | .comparatorTrip port ov => Sys2Proof.Machine.execComparatorTrip port ov s
  | .comparatorDisagree port => Sys2Proof.Machine.execComparatorDisagree port s
  | .currentLimitEnd port => Sys2Proof.Machine.execCurrentLimitEnd port s
  | .faultTimerExpiry port => Sys2Proof.Machine.execFaultTimerExpiry port s
  | .uvOvFilter port ov => Sys2Proof.Machine.execUvOvFilter port ov s
  | .insertionDelay port => Sys2Proof.Machine.execInsertionDelay port s
  | .qualificationDone port => Sys2Proof.Machine.execQualificationDone port s
  | .dischargeDone port => Sys2Proof.Machine.execDischargeDone port s
  | .fetShort port => Sys2Proof.Machine.execFetShort port s
  | .retryTimerExpiry port keep => Sys2Proof.Machine.execRetryTimerExpiry port keep s
  | .keepOffDone port => Sys2Proof.Machine.execKeepOffDone port s
  | .keepSenseFault port => Sys2Proof.Machine.execKeepSenseFault port s
  | .fastSwapCrossing port => Sys2Proof.Machine.execFastSwapCrossing port s
  | .fastSwapClose port => Sys2Proof.Machine.execFastSwapClose port s
  | .transitionTimeout port => Sys2Proof.Machine.execTransitionTimeout port s
  | .pmbusDone port op value ok => Sys2Proof.Machine.execPmbusDone port op value ok s
  | .pmbAlert => Sys2Proof.Machine.execPmbAlert s
  | .voutSlewStep port => Sys2Proof.Machine.execVoutSlewStep port s
  | .converterPoll => Sys2Proof.Machine.execConverterPoll s
  | .pwrQuery c => Sys2Proof.Machine.execPwrQuery c s
  | .pwrContract c => Sys2Proof.Machine.execPwrContract c s
  | .pwrSwap c => Sys2Proof.Machine.execPwrSwap c s
  | .pwrLimits c => Sys2Proof.Machine.execPwrLimits c s
  | .pwrResetFault c => Sys2Proof.Machine.execPwrResetFault c s
  | .pwrLog c => Sys2Proof.Machine.execPwrLog c s
  | .skimPass => Sys2Proof.Machine.execSkimPass s
  | .healthTimeout => Sys2Proof.Machine.execHealthTimeout s
  | .keyGenerate c => Sys2Proof.Machine.execKeyGenerate c s
  | .keyImport c => Sys2Proof.Machine.execKeyImport c s
  | .keyExportWrapped c => Sys2Proof.Machine.execKeyExportWrapped c s
  | .keyLoad c => Sys2Proof.Machine.execKeyLoad c s
  | .keyDestroy c bad => Sys2Proof.Machine.execKeyDestroy c bad s
  | .keyAttest c => Sys2Proof.Machine.execKeyAttest c s
  | .keyDerive c => Sys2Proof.Machine.execKeyDerive c s
  | .keyCrypt c => Sys2Proof.Machine.execKeyCrypt c s
  | .keyPairLink c => Sys2Proof.Machine.execKeyPairLink c s
  | .imgStage c => Sys2Proof.Machine.execImgStage c s
  | .imgCommit c => Sys2Proof.Machine.execImgCommit c s
  | .imgQuery c => Sys2Proof.Machine.execImgQuery c s
  | .imgConfirm c => Sys2Proof.Machine.execImgConfirm c s
  | .imgRevert c => Sys2Proof.Machine.execImgRevert c s
  | .checkDetect h => Sys2Proof.Machine.execCheckDetect h s
  | .handshakeStall dom loc => Sys2Proof.Machine.execHandshakeStall dom loc s
  | .domainRecoveryEnd dom us => Sys2Proof.Machine.execDomainRecoveryEnd dom us s
  | .recoveryBoundExceeded dom => Sys2Proof.Machine.execRecoveryBoundExceeded dom s
  | .recoveryWindowEnd dom => Sys2Proof.Machine.execRecoveryWindowEnd dom s
  | .patrolScrub res detail unit noCopy last => Sys2Proof.Machine.execPatrolScrub res detail unit noCopy last s
  | .injectDelayExpiry unit inUse noCopy => Sys2Proof.Machine.execInjectDelayExpiry unit inUse noCopy s
  | .diagErrors c => Sys2Proof.Machine.execDiagErrors c s
  | .diagInject c => Sys2Proof.Machine.execDiagInject c s
  | .diagScrub c => Sys2Proof.Machine.execDiagScrub c s
  | .diagSelftest c failed => Sys2Proof.Machine.execDiagSelftest c failed s
  | .diagClear c => Sys2Proof.Machine.execDiagClear c s
  | .symbolLock link lane groups => Sys2Proof.Machine.execSymbolLock link lane groups s
  | .wakeEndSkpReceive link => Sys2Proof.Machine.execWakeEndSkpReceive link s
  | .deviceDisconnect port => Sys2Proof.Machine.execDeviceDisconnect port s
  | .usbOcNRelease port => Sys2Proof.Machine.execUsbOcNRelease port s
  | .globalResume => Sys2Proof.Machine.execGlobalResume s
  | .canFrameSent ctrl since won => Sys2Proof.Machine.execCanFrameSent ctrl since won s
  | .canErrorPassive ctrl txErr rxErr => Sys2Proof.Machine.execCanErrorPassive ctrl txErr rxErr s
  | .semaphoreWaitExpiry sem hub htag => Sys2Proof.Machine.execSemaphoreWaitExpiry sem hub htag s
  | .keepInRange port => Sys2Proof.Machine.execKeepInRange port s
  | .mdioAccessDone data => Sys2Proof.Machine.execMdioAccessDone data s
  | .entropyStartupPass => Sys2Proof.Machine.execEntropyStartupPass s

end Sys2Proof.Machine
end

