-- ==== Sys2Proof/Machine/Tick.lean ====
section
/-! DEFINITION. What one tick of the 400 MHz counter does when no command waits (R261, R290; log entry 5). -/

namespace Sys2Proof.Machine

/-- The datum counter and the rest of a slew after one tick (R261, R290). -/
def Time.tick (t : Time) : Time :=
  let part := slewPart t.slewLeft
  { t with datum := ((t.datum : Int) + addend t.freq + part).toNat, slewLeft := t.slewLeft - part }

/-- The UFP may attach again once its fault recovery has kept it detached for 100 ms (Table 19.2). -/
def State.detachDone (s : State) : State :=
  match s.usb.detachEnd with
  | some t => if t ≤ s.uptime then { s with usb := { s.usb with detachEnd := none } }.usbAttach else s
  | none => s

/-- One tick of the counter clock: the uptime always, datum time while the core runs, and the end of a PPS_IN second with it,
and LAUNCHED of a launch whose T it passes (R55, R261, R268, R322). -/
def State.tick (s : State) : State :=
  let s := { s with uptime := s.uptime + 1 }
  if s.coreOn then { s with time := s.time.tick }.ppsTick.detachDone.launchesDone else s

end Sys2Proof.Machine
end

