-- ==== Sys2Proof/Machine/Lvds.lean ====
section
/-! DEFINITION. What the LVDS pairs of a head carry (R402, R403, Table 13.2; log entry 50). -/

namespace Sys2Proof.Machine

/-- The link runs: LVDS output is on, and link B only of a dual-link head (R402, R404). -/
def State.lvdsOn (s : State) (i : Nat) (linkB : Bool) : Bool := (s.head i).lvds && (!linkB || (s.headTiming i).dual)

/-- What a pair carries in period `n` of the line under way, pair 4 the clock pair; none for high impedance (R402, R403). The
colour in blanking is a free value: no rule gives it. -/
def State.lvdsPair (s : State) (i : Nat) (linkB : Bool) (pair n : Nat) : Option (List Bool) :=
  let h := s.head i
  let t := s.headTiming i
  let x := t.linkPixel linkB n
  let hs := decide (t.hactive + t.hfp ≤ x ∧ x < t.hactive + t.hfp + t.hsync)
  let vs := decide (t.vactive + t.vfp ≤ h.lineNo ∧ h.lineNo < t.vactive + t.vfp + t.vsync)
  let de := decide (x < t.hactive ∧ h.lineNo < t.vactive)
  let colour := if de then h.shown.getD x 0 else (s.freeVal 24).toNat
  if !s.lvdsOn i linkB then none
  else if pair = 4 then some lvdsClock
  else lvdsData t.jeida t.bpp18 colour (hs == t.hspol) (vs == t.vspol) de pair

end Sys2Proof.Machine
end

