-- ==== Sys2Proof/Safety.lean ====
section
/-! DEFINITION. The terms in which claims about the hub are stated: the parts of its state and what leaves them unchanged, the
conditions under which a host command executes, and the invariants of the modes and of the fused state. -/

namespace Sys2Proof.Machine

open Sys2Proof

/-- The parts of the state, one for each field of `State`. -/
inductive Part where
  | pending | nv | ret | pwr | board | pace | links | tree | sched | time | trav | host | disp | usb | net | win | keys | img
  | err | out | free | uptime
  deriving DecidableEq, Repr

/-- Two states agree on a part. -/
def Part.same (p : Part) (s t : State) : Prop :=
  match p with
  | .pending => t.pending = s.pending
  | .nv => t.nv = s.nv
  | .ret => t.ret = s.ret
  | .pwr => t.pwr = s.pwr
  | .board => t.board = s.board
  | .pace => t.pace = s.pace
  | .links => t.links = s.links
  | .tree => t.tree = s.tree
  | .sched => t.sched = s.sched
  | .time => t.time = s.time
  | .trav => t.trav = s.trav
  | .host => t.host = s.host
  | .disp => t.disp = s.disp
  | .usb => t.usb = s.usb
  | .net => t.net = s.net
  | .win => t.win = s.win
  | .keys => t.keys = s.keys
  | .img => t.img = s.img
  | .err => t.err = s.err
  | .out => t.out = s.out
  | .free => t.free = s.free
  | .uptime => t.uptime = s.uptime

/-- Every part but those listed is as it was. -/
def Unchanged (but : List Part) (s t : State) : Prop := ∀ p, p ∉ but → p.same s t

/-- The frame of a command: whatever the state, a next state differs in the parts listed at most. -/
def Frame (i : Instr) (but : List Part) : Prop := ∀ s t, exec i s = .next t → Unchanged but s t

/-- A host command reaches its owning chapter's part (R370): the core is on, the packet has the row's opcode, nothing holds it,
its layout is good, its slice is not stale, a SYS command comes from the root, and Safe allows it. -/
abbrev State.takes (s : State) (c : Cmd) (op : Nat) (lay : Layout) (safe : Bool) : Prop :=
  s.coreOn = true ∧ c.opcode = op ∧ s.waiting c = false ∧ c.layoutOk lay = true ∧
  ¬ (c.here = true ∧ c.sys = false ∧ s.pendOf c = none ∧ c.sgen ≠ (s.slice c.slice).gen.toNat) ∧
  ¬ (c.sys = true ∧ c.hub ≠ 0) ∧ (s.ret.mode = .safe → safe = true)

/-- A host command that reaches its chapter's part, in a state where `P` holds as it begins, makes the next state `f` of that
state; what follows is no longer of its causing (R387). -/
def Completes (i : Instr) (c : Cmd) (op : Nat) (lay : Layout) (safe : Bool) (P : State → Prop) (f : State → State) : Prop :=
  ∀ s : State, s.takes c op lay safe → P (s.begins c) → exec i s = .next (f (s.begins c)).ended

/-- The leg at an engine's PC executes now and is of a kind (R296, R300, R301): the engine is RUNNING in a mode that works, it is
not held, the leg lies in a block granted to its owner, is readable and is not bad. -/
abbrev State.legRuns (s : State) (e kind v : Nat) : Prop :=
  s.working = true ∧ e < 32 ∧ (s.engine e).st = .running ∧ s.engHeld e = false ∧ s.legMay (s.engOwner e) (s.engine e).pc = true ∧
  s.trav.badLegs.contains (s.engine e).pc = false ∧ s.leg (s.engine e).pc = v ∧ legOk v = true ∧ legKind v = kind

/-- The legal modes under the Safe latch (R80): a hub in Safe has it set, and no hub with it set is in Field or Holdover. -/
def State.modeLaw (s : State) : Prop :=
  (s.ret.mode = .safe → s.ret.safeLatch = true) ∧
  (s.ret.safeLatch = true → s.ret.mode ≠ .field ∧ s.ret.mode ≠ .holdover)

/-- Reset and the modes (R29, R30, R55): the straps wait for their supply in reset only, and a hub in reset is in Sentry. -/
def State.resetLaw (s : State) : Prop :=
  (s.ret.strapDefer = true → s.ret.inReset = true) ∧ (s.ret.inReset = true → s.ret.mode = .sentry)

end Sys2Proof.Machine
end

