-- ==== Sys2Proof/Certificates/Slice0/Obligations.lean ====
section
/-! DEFINITION. The statements about the hub that are to be proved, in the order of the chapters of the spec. -/

open Sys2Proof Sys2Proof.Machine

/-! ### The block as a whole -/

/-- For every state, command and rest of the queue, a step of the state with the command in front is that command's execution on the same state
with the rest. The queue is the model's own (log entry 5): the spec's operations and events arrive one at a time, and each is whole. -/
def Obligations.stepRunsFront : Prop :=
  ∀ (s : State) (c : Instr) (rest : List Instr), step { s with pending := c :: rest } = exec c { s with pending := rest }

/-- A step on an empty queue is a tick: the uptime rises by one and no command is put in the queue; in a core mode the datum rises by the addend
of FREQ and a part of the slew of at most 50 ppm, which is taken from what is left, and in the other modes nothing else changes. That a step
on an empty queue is a tick, and the rounding, are the model's choices (log entry 5). -/
def Obligations.idleTicks : Prop :=
  ∀ s : State, s.pending = [] →
    (s.coreOn = true → ∃ t, step s = .next t ∧ t.uptime = s.uptime + 1 ∧ t.pending = [] ∧
      t.time.datum = ((s.time.datum : Int) + (10737418240 + s.time.freq * 41943040 / 1000000000) + max (-536870) (min 536870 s.time.slewLeft)).toNat ∧
      t.time.slewLeft = s.time.slewLeft - max (-536870) (min 536870 s.time.slewLeft) ∧ t.time.freq = s.time.freq ∧ t.ret = s.ret ∧ t.nv = s.nv) ∧
    (s.coreOn = false → step s = .next { s with uptime := s.uptime + 1 })

/-- Every row of the table has an effect in every state: its execution answers a next state, never a fault or a refusal, and leaves the queue of
waiting commands as it was. A row whose conditions the state does not meet leaves the state or answers the status the spec gives (log entry
7). -/
def Obligations.everyCommandCompletes : Prop :=
  ∀ (i : Instr) (s : State), ∃ t, exec i s = .next t ∧ t.pending = s.pending

/-- From every state, reached or not, in which a hub in Safe has its latch set, no latched hub is in Field or Holdover, deferred straps are
waited for in reset only and a hub in reset is in Sentry, every step, of any command or of the clock, leads to such a state again. -/
def Obligations.modeInvariant : Prop :=
  ∀ s t : State, s.modeLaw → s.resetLaw → step s = .next t → t.modeLaw ∧ t.resetLaw

/-- The state right after reset satisfies the laws of the modes, the latch and reset that every step keeps. -/
def Obligations.modeInvariantAtReset : Prop :=
  State.reset.modeLaw ∧ State.reset.resetLaw

/-- R32: in a hub out of reset, with no strap sampling deferred (deferred sampling is waited for in reset only, which modeInvariant states),
every command but power-on reset and RESET_N's fall leaves the latched strap values as they are, and they stay valid: PE_PERSTn_N, tree
resets, slice resets and domain recovery among them. -/
def Obligations.strapsHold : Prop :=
  ∀ (i : Instr) (s t : State), i ≠ .powerOnReset → i ≠ .resetNAssert → s.ret.inReset = false → s.ret.strapDefer = false →
    exec i s = .next t → t.ret.straps = s.ret.straps ∧ t.ret.strapsValid = s.ret.strapsValid

/-- The Safe latch is set whenever a command enters Safe. Only power-on reset, RESET_N's fall and TREE_RESET_HUB of the core kind clear it. A
command that takes a hub out of Safe takes it to Sentry, or is such a tree reset. -/
def Obligations.safeLatchHolds : Prop :=
  ∀ (i : Instr) (s t : State), exec i s = .next t →
    (s.ret.mode ≠ .safe → t.ret.mode = .safe → t.ret.safeLatch = true) ∧
    (s.ret.safeLatch = true → t.ret.safeLatch = false →
      i = .powerOnReset ∨ i = .resetNAssert ∨ ∃ c failed, i = .treeResetHub c failed ∧ c.b 4 0 = false) ∧
    (s.ret.mode = .safe → t.ret.mode ≠ .safe → t.ret.mode = .sentry ∨ ∃ c failed, i = .treeResetHub c failed ∧ c.b 4 0 = false)

/-- No command changes the unit ID; none lowers the anti-rollback counter; and the hash of the root key, once fixed at the first confirmation,
never changes. -/
def Obligations.fusedStateHolds : Prop :=
  ∀ (i : Instr) (s t : State), exec i s = .next t →
    t.nv.unitId = s.nv.unitId ∧ s.nv.counter ≤ t.nv.counter ∧ (∀ h, s.nv.rootHash = some h → t.nv.rootHash = some h)

/-- Each row named changes, whatever its operands and whatever the state, at most the parts of the state that stand beside it; every other part,
the waiting commands among them, is as it was. Queries and register reads change the host interface's records and what is handed out only; a
sample or a timer of a unit its own part. -/
def Obligations.narrowFrames : Prop :=
  ∀ (a b d e g : Nat) (bs : List Byte) (dz : Doze) (p q : Bool) (ns : List Nat) (y : BitVec 8) (pins : BitVec 14)
      (ws : List Word) (c : Cmd) (oa : Option Nat) (rail : Rail) (tok : UsbTok) (w : Wave) (gs : List (BitVec 10)),
    (∀ i ∈ ([.rowMessage a bs p, .panelSequenceTimer a] : List Instr), Frame i [.disp]) ∧
    (∀ i ∈ ([.recoveryWindowEnd a] : List Instr), Frame i [.err]) ∧
    (∀ i ∈ ([.cookieExpiry a, .pcieRetryStatusEnd a] : List Instr), Frame i [.host]) ∧
    (∀ i ∈ ([.entropyStartupPass] : List Instr), Frame i [.keys]) ∧
    (∀ i ∈ ([.sourceRowSend a] : List Instr), Frame i [.disp, .out]) ∧
    (∀ i ∈ ([.losEnd a b, .dozReceive a dz, .wakeEndSkpReceive a, .fcStall a b] : List Instr), Frame i [.links]) ∧
    (∀ i ∈ ([.skpSend a, .identRepeat a, .converterPoll, .helloRepeat, .receivedRepeat a b p] : List Instr), Frame i [.out]) ∧
    (∀ i ∈ ([.paceSample ns p y, .paceMonitorRevalid] : List Instr), Frame i [.pace]) ∧
    (∀ i ∈ ([.swapRetry a, .srcCapsResend a, .currentLimitEnd a, .retryTimerExpiry a p, .keepOffDone a] : List Instr), Frame i [.pwr]) ∧
    (∀ i ∈ ([.resetNRelease pins p q, .strapSampleDeferred pins p q, .wakeReason p, .dormancyDelayExpiry p, .perstRelease a] : List Instr),
        Frame i [.ret]) ∧
    (∀ i ∈ ([.waitUntilRelease a, .waitForMet a, .waitForTimeout a, .launched ws] : List Instr), Frame i [.trav]) ∧
    (∀ i ∈ ([.sofrep a bs] : List Instr), Frame i [.usb]) ∧
    (∀ i ∈ ([.linkQuery c, .pwrQuery c, .dispQuery c, .usbQuery c, .netQuery c, .rcRegisterRead a b d, .mgTimeNsRead a b, .msixTableWrite a b bs,
        .interruptTimer a, .schedQuery c, .treeQuery c, .timeQuery c, .paceQuery c, .regRead ws, .travReadLegs c, .travQuery c, .imgQuery c,
        .sliceCreate c, .sliceReset c, .sliceGrant c, .freezeDrainEnd a, .queueCreate c, .evqSet c, .devInfo c, .devStraps c,
        .indirectInputReadDone a p bs, .timedCommandDue oa a, .commandMessage ws, .dataMessage ws bs] : List Instr), Frame i [.host, .out]) ∧
    (∀ i ∈ ([.skimPass] : List Instr), Frame i [.keys, .free]) ∧
    (∀ i ∈ ([.pllLock a, .symbolLock a b gs, .dozeWakeStart a, .ackSend a, .nakSend a, .fcUpdateTimer a, .fcRefresh a, .timeExchangeStart a b] : List Instr),
        Frame i [.links, .out]) ∧
    (∀ i ∈ ([.windowOpen a b, .windowClose a b] : List Instr), Frame i [.links]) ∧
    (∀ i ∈ ([.gateEntryBoundary a, .windowEffect a] : List Instr), Frame i [.links, .sched]) ∧
    (∀ i ∈ ([.losStart a, .wakeLockTimeout a, .ackReceive a w] : List Instr), Frame i [.links, .time]) ∧
    (∀ i ∈ ([.fastSwapCrossing a, .pmbAlert, .voutSlewStep a] : List Instr), Frame i [.pwr, .out]) ∧
    (∀ i ∈ ([.actSafelvlDrive] : List Instr), Frame i [.ret, .out]) ∧
    (∀ i ∈ ([.railValid rail] : List Instr), Frame i [.ret, .links, .tree, .sched, .usb, .out]) ∧
    (∀ i ∈ ([.receivedMessage ws] : List Instr), Frame i [.sched, .host]) ∧
    (∀ i ∈ ([.timeOutEdge a] : List Instr), Frame i [.time, .out]) ∧
    (∀ i ∈ ([.pwmPeriodStart a, .engineLaunch a, .prepare ws] : List Instr), Frame i [.trav, .out]) ∧
    (∀ i ∈ ([.numbered a ws] : List Instr), Frame i [.tree, .out]) ∧
    (∀ i ∈ ([.usbPingToken tok] : List Instr), Frame i [.usb, .out]) ∧
    (∀ i ∈ ([.winRetry a bs] : List Instr), Frame i [.win, .free]) ∧
    (∀ i ∈ ([.foldbackUpdate a b d e g p] : List Instr), Frame i [.pwr, .host, .out]) ∧
    (∀ i ∈ ([.commit ws] : List Instr), Frame i [.trav, .host, .out]) ∧
    (∀ i ∈ ([.sliceFreeze c] : List Instr), Frame i [.host, .disp, .out]) ∧
    (∀ i ∈ ([.sliceMoveTimeout] : List Instr), Frame i [.links, .tree, .sched, .time, .trav, .host, .net, .win, .out]) ∧
    (∀ i ∈ ([.eventMessage ws] : List Instr), Frame i [.links, .tree, .sched, .host, .out]) ∧
    (∀ i ∈ ([.canBusIdle a] : List Instr), Frame i [.host, .net, .out])

/-- Each row named changes, whatever its operands and whatever the state, at most the parts of the state that stand beside it: a display,
network, power, window, engine, tree, key or image row its own unit and the host interface's records; every other part, the waiting commands
among them, is as it was. -/
def Obligations.unitFrames : Prop :=
  ∀ (a b d e g : Nat) (ons : Option LinePins) (ws : List Word) (c : Cmd) (p q r : Bool) (ows : Option (List Word)) (z : BitVec 16) (f : SbFrame)
      (bs : List Byte) (y : BitVec 8) (bits : List (List Bool)) (w : Wave) (sets : List (List Sym)),
    (∀ i ∈ ([.frameStart a, .lineStart a b ons, .frameMessage a ws, .dispTiming c, .dispOverlay c, .dispUndercoat c, .dispCrcRegion c] : List Instr),
        Frame i [.host, .disp, .out]) ∧
    (∀ i ∈ ([.dispPlane c, .dispCommit c] : List Instr), Frame i [.host, .disp, .out, .free]) ∧
    (∀ i ∈ ([.queueDestroy c, .commandFetch ows] : List Instr), Frame i [.host, .out]) ∧
    (∀ i ∈ ([.heldRecordWrite a p, .diagErrors c, .diagInject c, .diagScrub c, .diagSelftest c a, .diagClear c] : List Instr),
        Frame i [.host, .err, .out]) ∧
    (∀ i ∈ ([.macLinkChange a p b z, .phyInterrupt, .addressClaimSettle a, .canBusOff a, .canBusOffRecovery a, .canFrameSent a b p,
        .canErrorPassive a b d, .mdioAccessDone a, .netVlanMap c, .netCounters c, .canCfg c, .canFilter c, .canName c, .canQuery c, .canSend c] : List Instr),
        Frame i [.host, .net, .out]) ∧
    (∀ i ∈ ([.keyExportWrapped c, .keyAttest c, .keyCrypt c, .sliceSave c] : List Instr), Frame i [.host, .out, .free]) ∧
    (∀ i ∈ ([.usbCounters c] : List Instr), Frame i [.host, .usb, .out]) ∧
    (∀ i ∈ ([.bar2LockedRead a b d, .winOpen c, .winClose c, .winRange c, .winQuery c] : List Instr), Frame i [.host, .win, .out]) ∧
    (∀ i ∈ ([.dozeLightTimeout a, .dozeDeepTimeout a, .dozeWakeComplete a, .linkSleep c, .linkWake c, .linkCounters c] : List Instr),
        Frame i [.links, .host, .out]) ∧
    (∀ i ∈ ([.timeMessageSend] : List Instr), Frame i [.links, .sched, .time]) ∧
    (∀ i ∈ ([.tmkReceive a b d] : List Instr), Frame i [.links, .time, .out]) ∧
    (∀ i ∈ ([.imgStage c] : List Instr), Frame i [.nv, .host, .out]) ∧
    (∀ i ∈ ([.imgRevert c] : List Instr), Frame i [.nv, .host, .img, .out]) ∧
    (∀ i ∈ ([.paceSet c] : List Instr), Frame i [.pace, .host, .out]) ∧
    (∀ i ∈ ([.idleFrame a f, .sidebandExchangeTimeout a b, .srcCaps a f, .requestFrame a f, .acceptFrame a f, .rejectFrame a f, .psRdy a f,
        .swapReq a f, .fsArm a f, .goodbye a f, .negotiationTimeout a, .comparatorTrip a p, .faultTimerExpiry a, .uvOvFilter a p, .insertionDelay a,
        .qualificationDone a, .dischargeDone a, .fetShort a, .keepSenseFault a, .keepInRange a, .fastSwapClose a, .transitionTimeout a,
        .pmbusDone a b d p, .pwrContract c, .pwrSwap c, .pwrLimits c, .pwrResetFault c, .pwrLog c] : List Instr), Frame i [.pwr, .host, .out]) ∧
    (∀ i ∈ ([.devMode c] : List Instr), Frame i [.ret, .host, .out]) ∧
    (∀ i ∈ ([.sidebandTurn a] : List Instr), Frame i [.ret, .pwr, .out]) ∧
    (∀ i ∈ ([.timeStampArm c, .timeOutCfg c] : List Instr), Frame i [.time, .host, .out]) ∧
    (∀ i ∈ ([.legEnd a, .legWaitUntil a, .legWaitFor a, .legReadCheck a, .remoteReadTimeout a, .legMark a, .legLoop a, .legBranch a,
        .legStartEngine a, .regReply ws, .travMessage a b bs, .abort ws, .preparedTimeout y, .launchPartialTimeout y, .actInputEdge a p b,
        .travLoad c] : List Instr), Frame i [.trav, .host, .out]) ∧
    (∀ i ∈ ([.travActCfg c] : List Instr), Frame i [.trav, .host, .out, .free]) ∧
    (∀ i ∈ ([.tunQuery c] : List Instr), Frame i [.tree, .host, .out]) ∧
    (∀ i ∈ ([.keyGenerate c, .keyImport c, .keyDerive c] : List Instr), Frame i [.host, .keys, .out, .free]) ∧
    (∀ i ∈ ([.schedGateLoad c, .schedGateCommit c] : List Instr), Frame i [.links, .host, .out]) ∧
    (∀ i ∈ ([.schedulerPick a, .gateSwitch a, .creditIntervalEnd a, .schedClassSet c] : List Instr), Frame i [.links, .sched, .host, .out]) ∧
    (∀ i ∈ ([.localPacketOffer a p q r bs, .lossyAgeExpiry a] : List Instr), Frame i [.links, .tree, .sched, .out]) ∧
    (∀ i ∈ ([.imgConfirm c] : List Instr), Frame i [.nv, .host, .img, .out]) ∧
    (∀ i ∈ ([.sidebandIdent a f, .attachDebounce a b, .widthFallback a, .ts1Align a b sets, .trainingTimeout a, .trainingRoundWaitEnd a,
        .patternDurationEnd a bits, .linkRate c, .linkRetrain c, .replayTimerExpiry a] : List Instr), Frame i [.pwr, .links, .host, .out]) ∧
    (∀ i ∈ ([.hostPortReset a] : List Instr), Frame i [.ret, .host, .win, .out]) ∧
    (∀ i ∈ ([.sidebandWake a f] : List Instr), Frame i [.ret, .pwr, .host, .out]) ∧
    (∀ i ∈ ([.ppsLost] : List Instr), Frame i [.ret, .time, .host, .out]) ∧
    (∀ i ∈ ([.trigEdge a p b] : List Instr), Frame i [.time, .trav, .host, .out]) ∧
    (∀ i ∈ ([.healthTimeout] : List Instr), Frame i [.trav, .host, .img, .out]) ∧
    (∀ i ∈ ([.domainRecoveryEnd a b] : List Instr), Frame i [.tree, .host, .err, .out]) ∧
    (∀ i ∈ ([.canMessage a bs] : List Instr), Frame i [.tree, .host, .net, .out]) ∧
    (∀ i ∈ ([.macFrameTransmit a, .netMessage a bs] : List Instr), Frame i [.links, .tree, .host, .net, .out]) ∧
    (∀ i ∈ ([.farHoldTimeout a] : List Instr), Frame i [.links, .tree, .sched, .host, .win, .err, .out]) ∧
    (∀ i ∈ ([.initialEnumerationEnd] : List Instr), Frame i [.links, .tree, .sched, .time, .trav, .host, .usb, .net, .win, .out]) ∧
    (∀ i ∈ ([.hello a ws, .tunAck ws, .tunnelOpenStepTimeout, .closeAckTimeout a b, .treeEnumerate c, .tunOpen c, .tunClose c, .tunModify c,
        .tunSuspend c, .tunResume c] : List Instr), Frame i [.links, .tree, .sched, .host, .out]) ∧
    (∀ i ∈ ([.nakReceive a w] : List Instr), Frame i [.pwr, .links, .time, .host, .out])

/-- Each row named changes, whatever its operands and whatever the state, at most the parts of the state that stand beside it: rows that send
packets the links, the tree and the scheduler besides their own unit; none of them touches the board's settings but LINK_EQ_OVERRIDE, nor
flash and fuses but the key and image rows; every other part, the waiting commands among them, is as it was. -/
def Obligations.wideFrames : Prop :=
  ∀ (c : Cmd) (a b d e g h : Nat) (bss : List (List Byte)) (p q r t : Bool) (bs : List Byte) (tok : UsbTok) (f : SbFrame) (ws : List Word) (x : Bool)
      (v v2 : Word) (y : BitVec 8) (pairs : List (Nat × Nat)) (oa : Option Nat) (wss : List (List Word)) (sets : List (List Sym)),
    (∀ i ∈ ([.ts2Handoff a sets] : List Instr), Frame i [.pwr, .links, .tree, .host, .out, .free]) ∧
    (∀ i ∈ ([.treeEvict c] : List Instr), Frame i [.links, .tree, .sched, .host, .out]) ∧
    (∀ i ∈ ([.slRingDbWrite a b d e bss] : List Instr), Frame i [.links, .tree, .sched, .host, .out]) ∧
    (∀ i ∈ ([.macFrameReceive a b p bs] : List Instr), Frame i [.links, .tree, .sched, .net, .out]) ∧
    (∀ i ∈ ([.usbSetupToken tok bs, .usbOutToken tok a bs, .usbHubRequest a b d e g, .microframeStart a, .portResetEnd a b, .suspendIdle,
        .globalResume, .farBusTransaction a b d p e g bs, .usbSof a, .powerCycleEnd a] : List Instr), Frame i [.links, .tree, .sched, .usb, .out]) ∧
    (∀ i ∈ ([.retryBackoffExpiry a b] : List Instr), Frame i [.links, .tree, .sched, .win, .out]) ∧
    (∀ i ∈ ([.keyLoad c] : List Instr), Frame i [.nv, .host, .keys, .img, .out, .free]) ∧
    (∀ i ∈ ([.legConfirmImage a] : List Instr), Frame i [.nv, .trav, .host, .img, .out]) ∧
    (∀ i ∈ ([.paceIntervalEnd] : List Instr), Frame i [.pace, .links, .sched, .host, .out]) ∧
    (∀ i ∈ ([.linkEqOverride c] : List Instr), Frame i [.pwr, .board, .links, .host, .out]) ∧
    (∀ i ∈ ([.exchangeInvalidTimeout a] : List Instr), Frame i [.ret, .links, .time, .host, .out]) ∧
    (∀ i ∈ ([.sidebandRate a f] : List Instr), Frame i [.ret, .pwr, .links, .host, .out]) ∧
    (∀ i ∈ ([.sourceFrameSend a b, .rowFetchDone a p bs] : List Instr), Frame i [.links, .tree, .sched, .host, .disp, .out]) ∧
    (∀ i ∈ ([.slSqTailWrite a b d e, .slEvqHeadWrite a b d, .slSqSizeWrite a b d e, .slEvqSizeWrite a b d, .slIntCtrlWrite a b d,
        .mgErrsumWrite a b, .registerWrite a b d, .regWrite ws] : List Instr), Frame i [.links, .tree, .sched, .host, .err, .out]) ∧
    (∀ i ∈ ([.usbBusReset, .vbusChange p, .overcurrentFilter a, .usbOcNRelease a, .connectDebounce a b, .deviceDisconnect a, .resumeEnd a,
        .deviceRemoteWake a, .usbSetupMessage a bs, .outdata a bs, .inreq a bs, .indata a bs, .result a bs, .portMessage a b bs, .usbPortPower c] : List Instr),
        Frame i [.links, .tree, .sched, .host, .usb, .out]) ∧
    (∀ i ∈ ([.bar2MemoryRead a b d e g h, .bar2Atomicop a b d e g bs, .winReadData a bs, .winWriteDone a bs, .winAtomicData a bs] : List Instr),
        Frame i [.links, .tree, .sched, .host, .win, .out]) ∧
    (∀ i ∈ ([.legSendMsg a, .ready ws, .launchReadyDeadline y, .travAbort c, .linkchg a ws] : List Instr),
        Frame i [.links, .tree, .sched, .trav, .host, .out]) ∧
    (∀ i ∈ ([.reattachGraceExpiry a] : List Instr), Frame i [.links, .tree, .sched, .trav, .host, .out]) ∧
    (∀ i ∈ ([.keyDestroy c pairs] : List Instr), Frame i [.nv, .host, .keys, .img, .err, .out, .free]) ∧
    (∀ i ∈ ([.retrainQuiesced a] : List Instr), Frame i [.pwr, .links, .tree, .sched, .time, .host, .out, .free]) ∧
    (∀ i ∈ ([.timeSource c] : List Instr), Frame i [.ret, .pwr, .links, .time, .host, .out]) ∧
    (∀ i ∈ ([.effectInstant, .legSetPin a, .legPulsePin a, .legPwmPin a, .legSendCan a, .legDispCommit a, .legGateSwitch a] : List Instr),
        Frame i [.links, .sched, .trav, .host, .disp, .net, .out]) ∧
    (∀ i ∈ ([.usbPortMap c] : List Instr), Frame i [.links, .tree, .sched, .host, .usb, .out, .free]) ∧
    (∀ i ∈ ([.actingRootClose, .tunSet oa ws, .hopCloseDrained a, .hopCloseTimeout a, .remoteCommandTimeout a b] : List Instr),
        Frame i [.links, .tree, .sched, .host, .usb, .win, .out]) ∧
    (∀ i ∈ ([.winRead a bs, .winWriteP a bs, .winWriteA a bs, .winAtomic a bs, .farAccessDone a b bs, .semaphoreLeaseExpiry a,
        .semaphoreWaitExpiry a b d, .winSem c, .hostPortPowerState a p q r t x b d, .sliceThaw c] : List Instr),
        Frame i [.links, .tree, .sched, .host, .win, .err, .out]) ∧
    (∀ i ∈ ([.legWriteReg a] : List Instr), Frame i [.links, .tree, .sched, .trav, .host, .err, .out]) ∧
    (∀ i ∈ ([.keyPairLink c] : List Instr), Frame i [.nv, .links, .tree, .sched, .host, .img, .out, .free]) ∧
    (∀ i ∈ ([.bar2MemoryWrite a b d e bs] : List Instr), Frame i [.pwr, .links, .tree, .sched, .host, .win, .out]) ∧
    (∀ i ∈ ([.usbInToken tok p] : List Instr), Frame i [.links, .tree, .sched, .usb, .out, .free]) ∧
    (∀ i ∈ ([.tunProg ws] : List Instr),
        Frame i [.nv, .ret, .pwr, .links, .tree, .sched, .time, .trav, .host, .disp, .usb, .net, .win, .keys, .img, .err, .out, .free]) ∧
    (∀ i ∈ ([.netPortCfg c] : List Instr), Frame i [.links, .tree, .host, .net, .out, .free]) ∧
    (∀ i ∈ ([.completionMessage ws p] : List Instr), Frame i [.links, .tree, .sched, .time, .trav, .host, .usb, .net, .win, .out]) ∧
    (∀ i ∈ ([.canFrameReceive a b v v2 bs] : List Instr), Frame i [.links, .tree, .sched, .host, .net, .out, .free]) ∧
    (∀ i ∈ ([.winRequestTimeout a b] : List Instr), Frame i [.links, .tree, .host, .win, .out]) ∧
    (∀ i ∈ ([.schedWindowSet c, .schedBounds c] : List Instr), Frame i [.links, .tree, .sched, .host, .out, .free]) ∧
    (∀ i ∈ ([.travArm c] : List Instr), Frame i [.links, .tree, .sched, .trav, .host, .out, .free]) ∧
    (∀ i ∈ ([.sliceRestore c a wss] : List Instr), Frame i [.links, .tree, .sched, .time, .trav, .host, .net, .win, .out]) ∧
    (∀ i ∈ ([.assign ws] : List Instr), Frame i [.ret, .pwr, .links, .tree, .sched, .time, .trav, .host, .usb, .net, .win, .out])

/-! ### Resets and modes (Chapters 2 and 3, R393 to R395) -/

/-- What reset leaves, where the spec gives it: RESET_N low in Sentry with nothing sampled (R29, R49, R55), no Safe latch (R80), no policy
(R52), datum time 0 s with FREQ 0 (R261), an outbox and a queue with nothing in them. -/
def Obligations.resetState : Prop :=
  State.reset.ret.mode = .sentry ∧ State.reset.ret.inReset = true ∧ State.reset.ret.strapsValid = false ∧
  State.reset.ret.safeLatch = false ∧ State.reset.ret.runReq = false ∧ State.reset.ret.policy = none ∧
  State.reset.time.datum = 0 ∧ State.reset.time.freq = 0 ∧ State.reset.time.st = .unset ∧
  State.reset.err.errN = false ∧ State.reset.vid = 18 ∧ State.reset.out = [] ∧ State.reset.pending = []

/-- R27: RESET_N rises with TEST_EN high: the hub stays in reset and samples no strap. -/
def Obligations.testEnHolds : Prop :=
  ∀ (s : State) (pins : BitVec 14) (wakeN : Bool), s.ret.inReset = true →
    ∃ t, exec (.resetNRelease pins wakeN true) s = .next t ∧ t.ret.inReset = true ∧ t.ret.straps = s.ret.straps ∧
      t.ret.strapsValid = s.ret.strapsValid

/-- The resets of the whole hub complete: power-on reset and RESET_N clear the retained state, the latch and the policy among it, and leave the
hub in reset; flash and fuses stay (R49, R52, R53). The straps: sampled as RESET_N rises with VDDIO_C valid, otherwise late; the hub then
rests in Sentry; the action pins follow SAFELVL 20 µs later (R29, R30, R31). -/
def Obligations.resetsAndStraps : Prop :=
  ((∀ s : State, ∃ t, exec .powerOnReset s = .next t ∧ t.ret.inReset = true ∧ t.ret.mode = .sentry ∧ t.ret.safeLatch = false ∧
     t.ret.policy = none ∧ t.ret.strapsValid = false ∧ t.ret.resetCause = 0 ∧ t.err = Err.init ∧ t.nv = s.nv ∧ t.uptime = 0 ∧
     t.pending = s.pending) ∧
   (∀ s : State, ∃ t, exec .resetNAssert s = .next t ∧ t.ret.inReset = true ∧ t.ret.mode = .sentry ∧ t.ret.safeLatch = false ∧
     t.ret.policy = none ∧ t.ret.strapsValid = false ∧ t.ret.resetCause = 1 ∧ t.err = Err.init ∧ t.nv = s.nv ∧
     t.ret.rails = s.ret.rails ∧ t.pending = s.pending)) ∧
  ((∀ (s : State) (pins : BitVec 14) (wakeN : Bool), s.ret.inReset = true → s.ret.strapDefer = false → s.railValid .vddioC = true →
     ∃ t, exec (.resetNRelease pins wakeN false) s = .next t ∧ t.ret.straps = pins ∧ t.ret.strapsValid = true ∧
       t.ret.inReset = false ∧ t.ret.mode = .sentry) ∧
   (∀ (s : State) (pins : BitVec 14) (wakeN : Bool), s.ret.inReset = true → s.ret.strapDefer = false → s.railValid .vddioC = false →
     ∃ t, exec (.resetNRelease pins wakeN false) s = .next t ∧ t.ret.strapDefer = true ∧ t.ret.inReset = true ∧
       t.ret.straps = s.ret.straps) ∧
   (∀ (s : State) (pins : BitVec 14) (wakeN : Bool), s.ret.strapDefer = true → s.railValid .vddioC = true →
     ∃ t, exec (.strapSampleDeferred pins wakeN false) s = .next t ∧ t.ret.straps = pins ∧ t.ret.strapsValid = true ∧
       t.ret.strapDefer = false ∧ t.ret.inReset = false ∧ t.ret.mode = .sentry) ∧
   (∀ s : State, s.ret.strapsValid = true → s.ret.actDriven = false →
     ∃ t, exec .actSafelvlDrive s = .next t ∧ t.ret.actDriven = true ∧ t.ret.straps = s.ret.straps))

/-- The transitions between the modes that events of the supplies, the balls and the timers make (Table 3.5), each under the condition its rule
gives. A rail becomes valid and changes no other (R43, R44); a run rail lost in a core mode leads to Sentry, with everything in the core lost
and the Safe latch kept, or set where a DEV_MODE in its delay asked for Safe (R48, R59); a rail lost outside the core modes, or a display rail, changes no mode (R43, R44); a wake reason ends Dormant,
and one by WAKE_N is a run request (R61, R63); the dormancy delay (R62); Survey entry (R57, R261); the carrier time-out of Survey (R57); Field
entry (R69); the end of a DEV_MODE delay (R57, R394). The PCIe resets: the level of PE_PERSTn_N is followed, its release is a run request in
every mode on a port in use (R36, R63), its fall puts the port's configuration and slices back (R36, R49, R66), and Retry Status ends (R66). -/
def Obligations.modeChanges : Prop :=
  ((∀ (s : State) (r : Rail), s.railValid r = false →
     ∃ t, exec (.railValid r) s = .next t ∧ t.railValid r = true ∧ (∀ q, q ≠ r → t.railValid q = s.railValid q) ∧ t.ret.mode = s.ret.mode) ∧
   (∀ (s : State) (r : Rail), s.railValid r = true →
     ∃ t, exec (.railInvalid r) s = .next t ∧ t.railValid r = false ∧ (∀ q, q ≠ r → t.railValid q = s.railValid q) ∧
       ((∀ d, s.ret.devReq = some d → d.toSafe = false) → t.ret.safeLatch = s.ret.safeLatch) ∧
       (∀ d, s.ret.devReq = some d → d.toSafe = true → s.coreOn = true → s.ret.mode ≠ .safe → r ≠ .vddLv → r ≠ .vddUsb → t.ret.safeLatch = true) ∧
       (if s.coreOn = true ∧ r ≠ .vddLv ∧ r ≠ .vddUsb then
          t.ret.mode = .sentry ∧ t.ret.resetCause = 3 ∧ t.links = [] ∧ t.trav = Trav.init ∧ t.tree = Tree.init
        else t.ret.mode = s.ret.mode ∧ t.ret.resetCause = s.ret.resetCause)) ∧
   (∀ (s : State) (byPin : Bool), s.ret.inReset = false →
     ∃ t, exec (.wakeReason byPin) s = .next t ∧ t.ret.mode = (if s.ret.mode = .dormant then .sentry else s.ret.mode) ∧
       t.ret.runReq = (byPin || s.ret.runReq)) ∧
   (∀ s : State, s.ret.mode = .sentry → s.ret.inReset = false → s.quiet = true →
     ∃ t, exec (.dormancyDelayExpiry true) s = .next t ∧ t.ret.mode = .dormant) ∧
   (∀ s : State, s.ret.mode = .sentry → s.ret.inReset = false → s.runRailsValid = true →
     (s.ret.runReq = true ∨ s.ret.safeLatch = true) → s.boot ≠ 2 →
     ∃ t, exec (.surveyEntry false) s = .next t ∧ t.ret.mode = .survey ∧ t.ret.runReq = false ∧ t.time.datum = 0 ∧
       t.time.freq = 0 ∧ t.ret.safeLatch = s.ret.safeLatch) ∧
   (∀ s : State, s.ret.mode = .survey → s.isRoot = false → (s.port 0).sb0.carrier = false →
     ∃ t, exec (.surveyCarrierTimeout true) s = .next t ∧ t.ret.mode = .sentry) ∧
   (∀ s : State, s.fieldReady = true → ∃ t, exec .fieldEntry s = .next t ∧ t.ret.mode = .field) ∧
   (∀ (s : State) (r : DevReq), s.ret.devReq = some r → s.coreOn = true → s.ret.mode ≠ .safe →
     ∃ t, exec .devModeDelayExpiry s = .next t ∧ t.ret.mode = (if r.toSafe then .safe else .sentry) ∧ t.ret.devReq = none)) ∧
  ((∀ (s : State) (port : Nat), port < 2 →
     ∃ t, exec (.perstRelease port) s = .next t ∧ (if port = 0 then t.ret.perst0 else t.ret.perst1) = true ∧ t.ret.mode = s.ret.mode ∧
       t.ret.runReq = (s.ret.runReq || (s.hostPortUsed port && s.ret.strapsValid))) ∧
   (∀ (s : State) (port : Nat), port < 2 →
     let v := s.setPerst port false
     let h := s.hport port
     exec (.hostPortReset port) s = .next
       (if s.hostPortUsed port = true ∧ s.coreOn = true then
          (v.setHport port { HPort.init with
            retry := !s.board.applied, snapT := h.snapT, snapW7 := h.snapW7, snapOk := h.snapOk, unmapped := h.unmapped }).resetPortSlices port
        else v) ∧
     (if port = 0 then v.ret.perst0 else v.ret.perst1) = false) ∧
   (∀ (s : State) (port : Nat), port < 2 → s.coreOn = true → s.hostPortUsed port = true →
     (if port = 0 then s.ret.perst0 else s.ret.perst1) = true →
     ∃ t, exec (.pcieRetryStatusEnd port) s = .next t ∧ (t.hport port).retry = false))

/-- The DEV_ commands and TREE_RESET_HUB complete: DEV_INFO and DEV_STRAPS return their words in every core mode, Safe included; DEV_MODE
records the mode asked for and its DELAY; TREE_RESET_HUB is completed and reported first; of the core kind it takes every link DOWN and restarts
Survey without the Safe latch, the action pins keeping their safe levels, of the Safe kind it enters Safe (R49, R54, R58, R182, R219, R393, R394,
R395). One of the core kind that loses against Safe, entered at the same instant or asked for by a DEV_MODE, is discarded with ABORTED (the
model's choice, log entry 46). -/
def Obligations.devCommands : Prop :=
  let reported (c : Cmd) (u : State) : State :=
    let r := (u.freeVal 32).toNat
    let v := (u.drew.complete c stOk []).reportBoth 3 stOk 0 (u.drew.selfWords 0x0C r)
    if c.sys = true ∨ v.cmdHub c = 0 ∨ v.cmdHub c = v.mgmtHub ∧ c.slice = 0 then v else v.report c.hub c.slice 3 stOk 0 (v.selfWords 0x0C r)
  (∀ c : Cmd, Completes (.devInfo c) c 0x0100 (layDevInfo c) true (fun _ => c.b 4 0 = false) fun u => u.complete c stOk u.devInfo0) ∧
  (∀ c : Cmd, Completes (.devInfo c) c 0x0100 (layDevInfo c) true (fun _ => c.b 4 0 = true) fun u => u.complete c stOk u.devInfo1) ∧
  (∀ c : Cmd, Completes (.devMode c) c 0x0101 (layDevMode c) false
    (fun u => u.authZ c = true ∧ c.f 4 31 16 = 0x4D4F ∧ c.f 5 13 0 ≤ 10000 ∧ u.ret.devReq = none) fun u =>
    let v := u.complete c stOk []
    { v with ret := { v.ret with devReq := some { toSafe := decide (c.f 4 2 0 = 5), delayMs := c.f 5 13 0, tag := c.tag } } }) ∧
  (∀ c : Cmd, Completes (.devStraps c) c 0x0104 (layDevStraps c) true (fun _ => True) fun u => u.complete c stOk u.devStraps) ∧
  (∀ (c : Cmd) (failed : Bool), Completes (.treeResetHub c failed) c 0x0302 (layTreeResetHub c) true
    (fun u => u.byRoot c = true ∧ u.nv.unitId = BitVec.ofNat 64 (c.w64 5) ∧ c.b 4 0 = false ∧ u.outranked = true) fun u =>
    u.drew.complete c stAborted []) ∧
  (∀ s : State, s.outranked = true ↔ s.ret.safeAt = s.uptime + 1 ∨ ∃ d, s.ret.devReq = some d ∧ d.toSafe = true) ∧
  (∀ (c : Cmd) (failed : Bool), Completes (.treeResetHub c failed) c 0x0302 (layTreeResetHub c) true
    (fun u => u.byRoot c = true ∧ u.nv.unitId = BitVec.ofNat 64 (c.w64 5) ∧ c.b 4 0 = false ∧ u.outranked = false) fun u =>
    let v := (reported c u).linksLeave
    { v with ret := { v.ret with resetCause := 2, safeLatch := false, actRetained := true } }.surveyStart 5 failed) ∧
  (∀ (c : Cmd) (failed : Bool), Completes (.treeResetHub c failed) c 0x0302 (layTreeResetHub c) true
    (fun u => u.byRoot c = true ∧ u.nv.unitId = BitVec.ofNat 64 (c.w64 5) ∧ c.b 4 0 = true) fun u => (reported c u).enterSafe 8) ∧
  (∀ (s : State) (l : Nat), l ∈ s.linksPresent → (s.linksLeave.link l).st = .down)

/-- R58: a DEV_MODE request that names another mode than Sentry (1) and Safe (5) completes with BAD_PARAM and has no other effect. -/
def Obligations.devModeNames : Prop :=
  ∀ (s : State) (c : Cmd), s.coreOn = true → c.opcode = 0x0101 → s.waiting c = false → c.f 4 2 0 ≠ 1 → c.f 4 2 0 ≠ 5 →
    exec (.devMode c) s = .next (s.complete c stBadParam [])

/-! ### The pace (Chapter 4) -/

/-- The pace rows complete. A valid sample of the rings becomes the latest sample and lowers the interval's minimum; a ring fault makes the
monitor invalid and VID present code 31 (R84), and its end brings the former code back; 1 ms of it is an error of its domain; the end of an
interval takes the shed level and the VID code that the steps of R92 give, and its values are what PACE_QUERY reports from then on (R102);
PACE_SET waits for the interval's end (R93). -/
def Obligations.paceRows : Prop :=
  (∀ (s : State) (rings : List Nat) (tj : BitVec 8), s.coreOn = true → s.pace.monInvalid = false →
    ∃ t, exec (.paceSample rings false tj) s = .next t ∧ t.pace.sample = paceIndex rings ∧
      t.pace.curMin = min s.pace.curMin (paceIndex rings) ∧ t.pace.code = s.pace.code ∧ t.pace.tj = tj) ∧
  (∀ (s : State) (rings : List Nat) (tj : BitVec 8), s.coreOn = true → s.pace.monInvalid = false →
    ∃ t, exec (.paceSample rings true tj) s = .next t ∧ t.pace.monInvalid = true ∧ t.pace.code = 31 ∧ t.pace.prevCode = s.pace.code ∧
      t.pace.shed = s.pace.shed ∧ t.pace.shortfall = s.pace.shortfall) ∧
  (∀ (s : State) (rings : List Nat) (fault : Bool) (tj : BitVec 8), s.coreOn = true → s.pace.monInvalid = true →
    ∃ t, exec (.paceSample rings fault tj) s = .next t ∧ t.pace.monInvalid = true ∧ t.pace.ringFault = fault ∧
      t.pace.sample = s.pace.sample ∧ t.pace.curMin = s.pace.curMin ∧ t.pace.code = s.pace.code) ∧
  (∀ s : State, s.coreOn = true → s.pace.monInvalid = true → s.pace.ringFault = false →
    ∃ t, exec .paceMonitorRevalid s = .next t ∧ t.pace.monInvalid = false ∧ t.pace.code = s.pace.prevCode) ∧
  (∀ s : State, s.coreOn = true → s.pace.monInvalid = false → s.pace.curSome = true →
    let u := { s with pace := s.pace.take }
    ∃ t, exec .paceIntervalEnd s = .next t ∧ t.pace.pmin = s.pace.curMin ∧ t.pace.pendCfg = none ∧
      t.pace.shed = u.pace.shedNext (decide (s.pace.curMin < u.demandFloor)) s.pace.curMin ((s.pace.curMin :: s.pace.hist).take 10)
        u.demandAt ∧
      t.pace.target = min 1023 (u.demandAt t.pace.shed + u.pace.cfg.margin) ∧
      t.pace.code = u.pace.vidStep s.pace.curMin t.pace.target ∧ t.pace.shown = t.pace.view) ∧
  (∀ s : State, s.coreOn = true → s.pace.monInvalid = true → exec .paceMonitorTimeout s = .next (s.detect { dom := 1, check := 9 } false)) ∧
  (∀ c : Cmd, Completes (.paceSet c) c 0x0102 (layPaceSet c) false (fun u => u.authZ c = true) fun u =>
    let cfg : PaceCfg := { floor := c.f 4 4 0, ceiling := c.f 4 12 8, margin := c.f 4 23 16, hold := decide (c.f 4 25 24 = 1) }
    ({ u with pace := { u.pace with pendCfg := some cfg } }).complete c stOk []) ∧
  (∀ c : Cmd, Completes (.paceQuery c) c 0x0103 (layPaceQuery c) true (fun _ => True) fun u => u.complete c stOk u.pace.shown.words)

/-- From any state, the end of an interval with the monitor valid moves the VID code by at most one step, and a code outside the floor and the
ceiling in effect moves toward them; with the monitor invalid, the code and the shed level stay. -/
def Obligations.paceOneStep : Prop :=
  ∀ s t : State, exec .paceIntervalEnd s = .next t →
    t.pace.code ≤ s.pace.code + 1 ∧ s.pace.code ≤ t.pace.code + 1 ∧
    (s.pace.monInvalid = true → t.pace.code = s.pace.code ∧ t.pace.shed = s.pace.shed) ∧
    (s.coreOn = true → s.pace.monInvalid = false → s.pace.curSome = true → s.pace.take.hi < s.pace.code → t.pace.code + 1 = s.pace.code) ∧
    (s.coreOn = true → s.pace.monInvalid = false → s.pace.curSome = true → s.pace.code ≤ s.pace.take.hi →
      s.pace.code < s.pace.take.lo → t.pace.code = s.pace.code + 1)

/-! ### Lanes and sideband (Chapter 5) -/

/-- The rows of the sideband complete. A well-formed IDENT that its port accepts records the far end's identity and class, and makes a link that is
DOWN propose its rate when the identity has changed; a RATE is a run request from upstream in Sentry, and is taken for the link in a core mode;
WAKE from upstream is a run request in Sentry; the debounce marks the conversation attached; a turn with nothing to send sends an idle frame,
its line half a cell at a time; an idle frame is received; a frame of these types that is valid but not well formed holds carrier and does no
more; 2 ms without an acknowledgement ends the exchange. -/
def Obligations.sidebandRows : Prop :=
  (∀ (s u : State) (port l : Nat) (f : SbFrame), sbOk f 1 14 = true → sbByte f 12 < 128 → sbByte f 13 < 16 →
    s.sbReceive port f = (u, some l) →
    let w (i n : Nat) : Nat := fromLe ((f.payload.drop i).take n)
    let b := sbByte f 12
    let i : FarIdent := { unit := BitVec.ofNat 64 (w 0 8), imgVer := word (w 8 4), role := b % 4, psrc := bit b 2, fsEn := bit b 3,
                          blk := bit b 4, core := bit b 5, keepSrc := bit b 6, cls := sbByte f 13, upf := !f.df }
    let same := decide (((u.port port).sb l).ident = some i)
    let v := (u.modPort port fun x => x.modSb l fun y => { y with ident := some i }).modLink (sbLinkCode port l) fun x => { x with
      sbUnit := some i.unit, deniedRep := x.deniedRep && same, limitRep := x.limitRep && same
      lane := { x.lane with
        sbUpf := !f.df, farCls := i.cls, fallback := if x.lane.fallUnit = i.unit then x.lane.fallback else none } }
    exec (.sidebandIdent port f) s =
      .next (if (v.link (sbLinkCode port l)).st = .down ∧ same = false then v.sendRate (sbLinkCode port l) 0 false else v)) ∧
  (∀ (s u : State) (port l : Nat) (f : SbFrame), sbOk f 2 2 = true → sbByte f 0 < 64 →
    bits (sbByte f 0) 4 2 = 1 ∨ bits (sbByte f 0) 4 2 = 2 ∨ bits (sbByte f 0) 4 2 = 4 → s.sbReceive port f = (u, some l) →
    exec (.sidebandRate port f) s = .next
      (if u.coreOn then u.takeRate (sbLinkCode port l) (sbByte f 0 % 4) (bits (sbByte f 0) 4 2) (sbByte f 1) (bit (sbByte f 0) 5)
       else if u.upPort port = true ∧ u.ret.mode = .sentry then u.runRequest else u)) ∧
  (∀ (s u : State) (port l : Nat) (f : SbFrame), sbOk f 3 0 = true → s.sbReceive port f = (u, some l) →
    exec (.sidebandWake port f) s = .next (if u.upPort port = true ∧ u.ret.mode = .sentry then u.runRequest else u)) ∧
  (∀ (s : State) (port link : Nat), s.sbOn port = true → link = 1 → ((s.port port).sb link).carrier = true →
    ((s.port port).sb link).identTx = true → ((s.port port).sb link).ident ≠ none → ((s.port port).sb link).attached = false →
    exec (.attachDebounce port link) s = .next
      (((s.modPort port fun x => x.modSb link fun y => { y with attached := true }).sendRate (sbLinkCode port link) 0 false).agree
        (sbLinkCode port link))) ∧
  (∀ (s : State) (port : Nat), s.sbOn port = true → ((s.port port).sb 0).carrier = true →
    ((s.port port).sb 0).identTx = true → ((s.port port).sb 0).ident ≠ none → ((s.port port).sb 0).attached = false →
    exec (.attachDebounce port 0) s = .next
      ((((s.modPort port fun x => x.modSb 0 fun y => { y with attached := true }).attachPower port).sendRate
        (sbLinkCode port 0) 0 false).agree (sbLinkCode port 0))) ∧
  (∀ (s : State) (port : Nat), s.drives port = true → s.portSplit port = false → ((s.port port).sb 0).outst = none →
    ((s.port port).sb 0).queue = [] → s.ret.runReq = false →
    let link := if s.upPort port then (s.port port).pol.linkNo else 0
    ∃ t : State, exec (.sidebandTurn port) s = .next t ∧
      let f : SbFrame := { link := link, df := !s.upPort port, ackid := ((s.port port).sb 0).ackid }
      t.out = .sideband port link f (sbLine f) :: s.out) ∧
  (∀ (s : State) (port : Nat) (f : SbFrame),
    (sbOk f 0 0 = false → exec (.idleFrame port f) s = .next (s.sbDiscard port f)) ∧
    (sbOk f 1 14 = false → exec (.sidebandIdent port f) s = .next (s.sbDiscard port f)) ∧
    (sbOk f 2 2 = false → exec (.sidebandRate port f) s = .next (s.sbDiscard port f)) ∧
    (sbOk f 3 0 = false → exec (.sidebandWake port f) s = .next (s.sbDiscard port f))) ∧
  (∀ (s : State) (port : Nat) (f : SbFrame), sbOk f 0 0 = true → exec (.idleFrame port f) s = .next (s.sbReceive port f).1) ∧
  (∀ (s : State) (port : Nat) (f : SbFrame), s.sbOn port = true → ((s.port port).sb 0).outst = some f →
    exec (.sidebandExchangeTimeout port 0) s = .next
      ((s.modPort port fun x => x.modSb 0 fun b => { b with outst := none }).exchangeFailed port f.typ)) ∧
  (∀ (s : State) (port : Nat) (f : SbFrame), s.sbOn port = true → ((s.port port).sb 1).outst = some f →
    exec (.sidebandExchangeTimeout port 1) s = .next (s.modPort port fun x => x.modSb 1 fun b => { b with outst := none }))

/-- The training rows complete. SKP goes on lanes that send; the PLL's lock starts the comma pattern; a lane that its code groups lock is recorded
with its polarity; 10 µs after the first COM the widest width whose lanes are all locked sends TS1, the upper pair of port A among them;
agreeing TS1 sets lane order and starts TS2, another rate or class or too wide a skew fails the attempt; after TS2 of the same rate, class and
width the link layer takes the link with a fresh nonce, and another fails the attempt; a time-out fails it; the 100 ms wait ends in a new
agreement; a quiesced link enters RETRAIN; a pattern that reaches its duration keeps its checker's results and the link trains. The rows of loss
of signal and doze complete. A loss marks the link and spoils an exchange under way; its end counts it and its longest length in 10 ns; an idle
direction with no opening near dozes lightly, then, after a brief wake, deeply, with a DOZ ordered set; a received DOZ holds the replay timer
and what is left of it; a wake starts with COM, ends with SKP and both FC_UPDATE halves, and completes the waiting LINK_WAKE commands; the SKP
that ends the far end's wake releases the timer, and a lock that does not come is a loss of signal. -/
def Obligations.laneRows : Prop :=
  ((∀ (s : State) (l : Nat), s.coreOn = true → (s.link l).st ≠ .down → (s.link l).lane.txDoze = .awake → (s.link l).lane.phase ≠ .pll →
     exec (.skpSend l) s = .next (s.sendSym l .skp)) ∧
   (∀ (s : State) (l : Nat), s.inPhase l .pll = true →
     exec (.pllLock l) s = .next ((s.modLink l fun k => { k with lane := { k.lane with phase := .comma } }).sendSym l
       (.com (s.link l).lane.width))) ∧
   (∀ (s : State) (l lane : Nat) (groups : List (BitVec 10)) (inverted : Bool), s.coreOn = true → lane < 4 → (s.link l).st ≠ .down →
     commaLock groups = (true, inverted) →
     let m := BitVec.ofNat 4 (2 ^ lane)
     let u := s.modLink l fun k => { k with lane := { k.lane with
       locked := k.lane.locked ||| m, viols := k.lane.viols.erase lane
       polInv := if k.lane.phase = .comma then (if inverted then k.lane.polInv ||| m else k.lane.polInv &&& ~~~m) else k.lane.polInv } }
     exec (.symbolLock l lane groups) s = .next
       (if (u.link l).lane.phase = .comma ∧ fallbackWidth (linkBase l) (u.link l).lane.agreedWidth (u.link l).lane.locked = (u.link l).lane.agreedWidth
        then u.startTs1 l (u.link l).lane.agreedWidth else u)) ∧
   (∀ (s : State) (l : Nat), s.inPhase l .comma = true → ¬ (linkPort l = 0 ∧ (s.link l).lane.agreedWidth = 2 ∧ (s.link l).lane.locked = 12) →
     fallbackWidth (linkBase l) (s.link l).lane.agreedWidth (s.link l).lane.locked ≠ 0 →
     exec (.widthFallback l) s = .next (s.startTs1 l (fallbackWidth (linkBase l) (s.link l).lane.agreedWidth (s.link l).lane.locked))) ∧
   (∀ s : State, s.inPhase 0 .comma = true → (s.link 0).lane.agreedWidth = 2 → (s.link 0).lane.locked = 12 →
     exec (.widthFallback 0) s = .next ((s.modLink 0 fun k => { k with lane := { k.lane with upperPair := true } }).startTs1 0 2)) ∧
   (∀ (s : State) (l skew : Nat) (sets : List (List Sym)) (t : Ts) (lanes : List Nat) (rev : Bool), s.inPhase l .ts1 = true →
     tsLanes sets = some (t, lanes) → t.second = false → t.rate = (s.link l).lane.rate → t.cls = (s.link l).lane.cls →
     t.width = (s.link l).lane.width → skew ≤ 64 → (s.link l).lane.upperPair = false → t.width = 1 ∨ t.width = 2 ∨ t.width = 4 →
     t.width ≤ (s.link l).lane.agreedWidth → (rev = true → t.width ≠ 1) →
     lanes = (if rev then (List.range t.width).reverse else List.range t.width) →
     let u := s.modLink l fun k => { k with lane := { k.lane with width := t.width, reversed := rev, phase := .ts2 } }
     exec (.ts1Align l skew sets) s = .next (u.sendSym l (.ts (u.ts l true)))) ∧
   (∀ (s : State) (l skew : Nat) (sets : List (List Sym)) (t : Ts) (lanes : List Nat), s.inPhase l .ts1 = true →
     tsLanes sets = some (t, lanes) → t.second = false →
     t.rate ≠ (s.link l).lane.rate ∨ t.cls ≠ (s.link l).lane.cls ∨ 64 < skew ∨ (s.link l).lane.agreedWidth < t.width →
     exec (.ts1Align l skew sets) s = .next (s.trainFail l)) ∧
   (∀ (s : State) (l : Nat) (sets : List (List Sym)) (t : Ts) (lanes : List Nat), s.inPhase l .ts2 = true →
     tsLanes sets = some (t, lanes) → t.second = true →
     let x := (s.link l).lane
     exec (.ts2Handoff l sets) s = .next
       (if t.rate = x.rate ∧ t.cls = x.cls ∧ t.width = x.width then
         (s.drew.modLink l fun k => { k with
           nonceTx := s.freeVal 32, identTx := true, identRx := false, contTx := k.epochHeld && !k.refuse, fcLoRx := false, fcHiRx := false
           newEpoch := false, lane := { k.lane with phase := .linkLayer } }).sendIdent l
        else s.trainFail l)) ∧
   (∀ (s : State) (l : Nat), s.coreOn = true → (s.link l).lane.phase ≠ .idle → exec (.trainingTimeout l) s = .next (s.trainFail l)) ∧
   (∀ (s : State) (l : Nat), s.coreOn = true → (s.link l).lane.roundWait = true →
     exec (.trainingRoundWaitEnd l) s = .next ((s.modLink l fun k => { k with lane := { k.lane with roundWait := false } }).newAttempt l 0
       (decide ((s.link l).st = .retrain)))) ∧
   (∀ (s : State) (l : Nat), s.coreOn = true → (s.link l).st = .up → (s.link l).quiescing = true → (s.link l).lane.wakeCmd = [] →
     let v := (s.schedAdvance l).spoilExchange l
     let u := v.modLink l fun k => { (k.bump 2 4) with
       st := .retrain, timerHeld := false
       timerEnd := if (s.link l).timerHeld then v.uptime + (s.link l).timerEnd else (s.link l).timerEnd
       lane := { k.lane with quiesce := false, txDoze := .awake, rxDoze := .awake, txWaking := false, rxWaking := false, los := false
                             phase := .idle, wakeCmd := [] } }
     exec (.retrainQuiesced l) s = .next (((u.linkEvent l (s.link l).code 5 stOk false false (s.link l).lane.retrainCause).noteRole).agree l)) ∧
   (∀ (s : State) (l : Nat) (got : List (List Bool)), s.coreOn = true → (s.link l).lane.pattern.pat ≠ 0 →
     (s.link l).lane.pattern.durationMs ≠ 0 →
     exec (.patternDurationEnd l got) s = .next ((s.modLink l fun k => { k with lane := { k.lane with
       pattern := k.lane.pattern.checked got } }).endPattern l)) ∧
   (∀ (p : Pattern) (got : List (List Bool)) (i : Nat), i < 4 →
     (p.checked got).errs.read 0 i =
       (if p.check = true ∧ p.lanes.toNat.testBit i = true then min 65535 (patternErrs p.pat ((got[i]?).getD [])) else 0))) ∧
  ((∀ (s : State) (l : Nat), s.coreOn = true → (s.link l).st = .up → (s.link l).lane.rxDoze = .awake →
     exec (.losStart l) s = .next ((s.spoilExchange l).modLink l fun k => { k with lane := { k.lane with los := true } })) ∧
   (∀ (s : State) (l ns : Nat), s.coreOn = true → (s.link l).st = .up → (s.link l).lane.los = true →
     exec (.losEnd l ns) s = .next (s.modLink l fun k =>
       let k := k.bump 2 0
       { k with
         counters := k.counters.mod 0 (8 * 2 + 2) fun m => max m (min 65535 (ceilDiv ns 10))
         lane := { k.lane with
           los := false, viols := []
           locked := k.lane.locked ||| BitVec.ofNat 4 (sumN ((List.range k.lane.width).map fun i =>
             2 ^ ((if k.lane.upperPair then 2 else linkBase l) + (if k.lane.reversed then k.lane.width - 1 - i else i)))) } })) ∧
   (∀ (s : State) (l : Nat), s.mayDoze l 1 = true → (s.link l).lane.txDoze = .awake → 2000 + 1000 * (s.link l).lane.guard ≤ s.toOpening l →
     exec (.dozeLightTimeout l) s = .next ((s.modLink l fun k => { k with lane := { k.lane with txDoze := .light } }).sendSym l
       (.doz .light))) ∧
   (∀ (s : State) (l : Nat), s.mayDoze l 2 = true → (s.link l).lane.txDoze = .light → 20000 + 1000 * (s.link l).lane.guard ≤ s.toOpening l →
     exec (.dozeDeepTimeout l) s = .next ((((s.sendSym l (.com (s.link l).lane.width)).sendSym l .skp).modLink l fun k =>
       { k with lane := { k.lane with txDoze := .deep } }).sendSym l (.doz .deep))) ∧
   (∀ (s : State) (l : Nat) (d : Doze), s.coreOn = true → (s.link l).st = .up → d ≠ .awake →
     exec (.dozReceive l d) s = .next (s.modLink l fun k => { k with
       timerHeld := true, timerEnd := if k.timerHeld then k.timerEnd else k.timerEnd - s.uptime
       lane := { k.lane with rxDoze := d, rxWaking := false } })) ∧
   (∀ (s : State) (l : Nat), s.coreOn = true → (s.link l).st = .up → (s.link l).lane.txDoze ≠ .awake → (s.link l).lane.txWaking = false →
     exec (.dozeWakeStart l) s = .next ((s.modLink l fun k => { k with lane := { k.lane with txWaking := true } }).sendSym l
       (.com (s.link l).lane.width))) ∧
   (∀ (s : State) (l : Nat), s.coreOn = true → (s.link l).st = .up → (s.link l).lane.txWaking = true →
     let u := s.modLink l fun k => { k with lane := { k.lane with txWaking := false, txDoze := .awake, wakeCmd := [] } }
     exec (.dozeWakeComplete l) s = .next ((s.link l).lane.wakeCmd.foldl (fun s c => s.complete c stOk [])
       (((u.sendSym l .skp).sendFc l false false).sendFc l false true))) ∧
   (∀ (s : State) (l : Nat), s.coreOn = true → (s.link l).st = .up → (s.link l).lane.rxDoze ≠ .awake →
     exec (.wakeLockTimeout l) s = .next ((s.spoilExchange l).modLink l fun k => { k with
       timerHeld := false, timerEnd := if k.timerHeld then (s.spoilExchange l).uptime + k.timerEnd else k.timerEnd
       lane := { k.lane with rxDoze := .awake, rxWaking := false, los := true } })) ∧
   (∀ (s : State) (l : Nat), s.coreOn = true → (s.link l).st = .up → (s.link l).lane.rxDoze ≠ .awake →
     exec (.wakeEndSkpReceive l) s = .next (s.modLink l fun k => { k with
       timerHeld := false, timerEnd := if k.timerHeld then s.uptime + k.timerEnd else k.timerEnd
       lane := { k.lane with rxDoze := .awake, rxWaking := false } })))

/-- Each LINK_ command, sent with its authority, a matching generation and a link that exists, takes its effect: LINK_RATE sets the limit and
clears the fallback limit, at once or with a retrain; LINK_SLEEP sets the doze policy, LINK_WAKE wakes the direction or completes when it is
awake; LINK_RETRAIN retrains a link that is UP; LINK_EQ_OVERRIDE replaces or restores an entry; LINK_PATTERN starts and ends a pattern;
LINK_QUERY and LINK_COUNTERS return their words. -/
def Obligations.linkCommands : Prop :=
  (∀ c : Cmd, Completes (.linkRate c) c 0x0201 (layLinkRate c) false (fun u => u.mayUse c 0 (c.f 4 2 0) = true ∧
      genOk (c.b 4 7) (c.f 4 15 8) (u.link (c.f 4 2 0)).gen = true ∧ u.linkPresent (c.f 4 2 0) = true ∧ u.laneMax ≤ c.f 4 17 16 ∧
      c.b 4 18 = false) fun u =>
    let v := u.modLink (c.f 4 2 0) fun k => { k.rearm with lane := { k.lane with rateLim := some (c.f 4 17 16), fallback := none } }
    v.complete c stOk (v.rateWords (c.f 4 2 0))) ∧
  (∀ c : Cmd, Completes (.linkRate c) c 0x0201 (layLinkRate c) false (fun u => u.mayUse c 0 (c.f 4 2 0) = true ∧
      genOk (c.b 4 7) (c.f 4 15 8) (u.link (c.f 4 2 0)).gen = true ∧ u.linkPresent (c.f 4 2 0) = true ∧ u.laneMax ≤ c.f 4 17 16 ∧
      c.b 4 18 = true ∧ (u.link (c.f 4 2 0)).st = .up ∧ (c.b 4 19 = true ∨ u.linkReserved (c.f 4 2 0) = false)) fun u =>
    (u.modLink (c.f 4 2 0) fun k => { k.rearm with
      lane := { k.lane with rateLim := some (c.f 4 17 16), fallback := none } }).joinRetrain (c.f 4 2 0) c) ∧
  (∀ c : Cmd, Completes (.linkSleep c) c 0x0202 (layLinkSleep c) false (fun u => u.mayUse c 0 (c.f 4 2 0) = true ∧
      genOk (c.b 4 7) (c.f 4 15 8) (u.link (c.f 4 2 0)).gen = true ∧ u.linkPresent (c.f 4 2 0) = true ∧ c.f 4 27 24 ≤ 10 ∧
      1 ≤ c.f 5 9 0 ∧ c.f 5 9 0 ≤ 1000 ∧ 100 ≤ c.f 6 19 0 ∧ c.f 6 19 0 ≤ 1000000 ∧ c.f 5 9 0 < c.f 6 19 0 ∧ c.b 4 6 = false) fun u =>
    (u.modLink (c.f 4 2 0) fun k => { k with lane := { k.lane with
      depth := c.f 4 21 20, lightTo := c.f 5 9 0, deepTo := c.f 6 19 0, guard := c.f 4 27 24 } }).complete c stOk []) ∧
  (∀ c : Cmd, Completes (.linkWake c) c 0x0203 (layLinkWake c) false (fun u => u.mayUse c 0 (c.f 4 2 0) = true ∧
      genOk (c.b 4 7) (c.f 4 15 8) (u.link (c.f 4 2 0)).gen = true ∧ u.linkPresent (c.f 4 2 0) = true ∧ (u.link (c.f 4 2 0)).st = .up ∧
      (u.link (c.f 4 2 0)).lane.txDoze = .awake ∧ c.b 4 16 = false) fun u => u.complete c stOk []) ∧
  (∀ c : Cmd, Completes (.linkWake c) c 0x0203 (layLinkWake c) false (fun u => u.mayUse c 0 (c.f 4 2 0) = true ∧
      genOk (c.b 4 7) (c.f 4 15 8) (u.link (c.f 4 2 0)).gen = true ∧ u.linkPresent (c.f 4 2 0) = true ∧ (u.link (c.f 4 2 0)).st = .up ∧
      (u.link (c.f 4 2 0)).lane.txDoze ≠ .awake ∧ c.b 4 16 = false) fun u =>
    (u.modLink (c.f 4 2 0) fun k => { k with lane := { k.lane with wakeCmd := k.lane.wakeCmd ++ [c] } }).wakeTx (c.f 4 2 0)) ∧
  (∀ c : Cmd, Completes (.linkRetrain c) c 0x0204 (layLinkRetrain c) false (fun u => u.mayUse c 0 (c.f 4 2 0) = true ∧
      genOk (c.b 4 7) (c.f 4 15 8) (u.link (c.f 4 2 0)).gen = true ∧ u.linkPresent (c.f 4 2 0) = true ∧ (u.link (c.f 4 2 0)).st = .up ∧
      (c.b 4 19 = true ∨ u.linkReserved (c.f 4 2 0) = false)) fun u =>
    (u.modLink (c.f 4 2 0) fun k => if c.b 4 17 = true ∧ k.lane.fallback ≠ none then { k.rearm with lane := { k.lane with fallback := none } }
      else k).joinRetrain (c.f 4 2 0) c) ∧
  (∀ c : Cmd, Completes (.linkEqOverride c) c 0x0207 (layLinkEqOverride c) false (fun u => u.authZ c = true ∧ c.b 4 0 = false ∧
      ((eqOfNat (c.w64 6)).valid = true → (eqOfNat (c.w64 6)).usable = true) ∧ c.b 4 1 = false) fun u =>
    let i := eqIndex (c.f 4 9 8) (c.f 4 17 16) (c.f 4 23 20)
    let b := { u.board with
      eqOverKeys := i :: u.board.eqOverKeys.filter (· ≠ i), eqOver := u.board.eqOver.write EqEntry.init i (eqOfNat (c.w64 6)) }
    ((List.range 5).foldl (fun (s : State) l => s.modLink l Link.rearm) { u with board := b }).complete c stOk []) ∧
  (∀ c : Cmd, Completes (.linkQuery c) c 0x0200 (layLinkQuery c) true (fun u => u.linkPresent (c.f 4 2 0) = true) fun u =>
    u.complete c stOk (u.linkWords (c.f 4 2 0))) ∧
  (∀ c : Cmd, Completes (.linkCounters c) c 0x0205 (layLinkCounters c) true (fun u => u.linkPresent (c.f 4 2 0) = true ∧ c.b 4 9 = false)
    fun u => u.complete c stOk (counterWords (u.link (c.f 4 2 0)).counters (8 * c.f 4 11 10))) ∧
  (∀ c : Cmd, Completes (.linkCounters c) c 0x0205 (layLinkCounters c) true (fun u => u.linkPresent (c.f 4 2 0) = true ∧ c.b 4 9 = true ∧
      u.mayUse c 0 (c.f 4 2 0) = true) fun u =>
    (u.modLink (c.f 4 2 0) fun k => { k with
      counters := (List.range 8).foldl (fun t i => t.erase (8 * c.f 4 11 10 + i)) k.counters }).complete c stOk
      (counterWords (u.link (c.f 4 2 0)).counters (8 * c.f 4 11 10)))

/-! ### Link layer and tree (Chapters 6 and 7) -/

/-- The link-layer rows complete on a link that runs. A local packet goes to its Gazetteer entry; an ACK in range purges; a NAK in range purges and
replays, unless a replay it started is under way; one out of range is counted as malformed, and a link control packet whose LCRC is wrong is
discarded and counted; the timer's expiry replays from the last number acknowledged; a due ACK, NAK, IDENT or FC_UPDATE is sent, and a dozing
direction wakes for the last; a class that waited 100 µs for credit is counted. A loss of signal that reaches 4 µs, 10 ms in RETRAIN and the
loss of carrier end the epoch; the partner's IDENT starts a new epoch where none is held and continues the one held where both ends send CONT
with the same number; limits come with INIT_FC and FC_UPDATE; LINK_PATTERN starts a pattern on a link it may take, and PATTERN 0 ends it with
its results. A tunnel packet received on a running link that has no loss of signal: in order and sound, it is accepted, E advances, an ACK is
due and a pending NAK is cleared, and the packet goes to its Gazetteer entry, but one whose seal fails goes nowhere; one whose number is behind
E is discarded, counted in DUP_DISCARD and acknowledged; one ahead of E, or a bad one, is discarded and calls for a NAK unless one is pending;
one ended with EBD is counted only; one that overlaps a loss of signal is dropped, and no NAK is called for. The Wave of a row is what the lanes
bring: code groups by symbol time and lane (log entry 51). -/
def Obligations.linkEpochRows : Prop :=
  ((∀ (s : State) (tid : Nat) (urgent first last : Bool) (payload : List Byte), s.coreOn = true → payload.length ≤ 2048 →
     exec (.localPacketOffer tid urgent first last payload) s = .next (s.offerPkt tid urgent first last payload)) ∧
   (∀ (s u : State) (l n : Nat) (w : Wave) (seq : BitVec 12), s.runs l = true → s.takeLcp l w = (u, some (.ack seq)) →
     (u.link l).purge seq = some (n + 1) →
     exec (.ackReceive l w) s = .next (u.setLink l (u.purged l (u.link l) (n + 1)))) ∧
   (∀ (s u : State) (l n : Nat) (w : Wave) (seq : BitVec 12), s.runs l = true → s.takeLcp l w = (u, some (.nak seq)) →
     (u.link l).purge seq = some n → ¬ (n = 0 ∧ (u.link l).replaying = true ∧ (u.link l).replayFrom = seq) →
     let k := (u.link l).bump 1 0
     exec (.nakReceive l w) s = .next ((u.setLink l (if n = 0 then k else u.purged l k n)).startReplay l seq true)) ∧
   (∀ (s u : State) (l : Nat) (w : Wave) (seq : BitVec 12), s.runs l = true → (u.link l).purge seq = none →
     (s.takeLcp l w = (u, some (.ack seq)) → exec (.ackReceive l w) s = .next (u.setLink l ((u.link l).bump 0 1))) ∧
     (s.takeLcp l w = (u, some (.nak seq)) → exec (.nakReceive l w) s = .next (u.setLink l ((u.link l).bump 0 1)))) ∧
   (∀ (s : State) (l : Nat) (w : Wave), s.runs l = true →
     ∀ i ∈ ([.ackReceive l w, .nakReceive l w, .fcUpdateReceive l w] : List Instr),
       (((s.waveViols l w).link l).lane.los = true → exec i s = .next (s.waveViols l w)) ∧
       (((s.waveViols l w).link l).lane.los = false → rxLcp (rxFrame w.rows) = .crc →
         exec i s = .next ((s.waveViols l w).modLink l fun k => k.bump 0 0))) ∧
   (∀ (s : State) (l : Nat), s.runs l = true → s.timerOut l = true →
     exec (.replayTimerExpiry l) s = .next (s.startReplay l ((s.link l).oldest - 1) false)) ∧
   (∀ (s : State) (l : Nat), s.runs l = true → (s.link l).ackDue = true → (s.link l).txAwake = true →
     exec (.ackSend l) s = .next ((s.setLink l { s.link l with ackDue := false }).sendSym l (.ack ((s.link l).rxSeq - 1)))) ∧
   (∀ (s : State) (l : Nat), s.runs l = true → (s.link l).nakDue = true → (s.link l).txAwake = true → (s.link l).lane.los = false →
     exec (.nakSend l) s = .next ((s.setLink l { ((s.link l).bump 0 4) with nakDue := false }).sendSym l (.nak ((s.link l).rxSeq - 1)))) ∧
   (∀ (s : State) (l : Nat), s.coreOn = true → (s.link l).identTx = true → (s.link l).identRx = false →
     (s.link l).lane.phase = .linkLayer → exec (.identRepeat l) s = .next (s.sendIdent l)) ∧
   (∀ (s : State) (l : Nat), s.runs l = true → (s.link l).txAwake = true → (s.link l).halfDue false = true →
     let u := s.sendFc l false false
     exec (.fcUpdateTimer l) s = .next (if (u.link l).halfDue true then u.sendFc l false true else u)) ∧
   (∀ (s : State) (l : Nat), s.runs l = true → (s.link l).txAwake = false → (s.link l).halfDue false = true ∨ (s.link l).halfDue true = true →
     exec (.fcUpdateTimer l) s = .next (s.wakeTx l)) ∧
   (∀ (s : State) (l : Nat), s.runs l = true → (s.link l).txAwake = true →
     exec (.fcRefresh l) s = .next ((s.sendFc l false false).sendFc l false true)) ∧
   (∀ (s : State) (l tc : Nat), s.runs l = true → ((s.link l).sched.queue.any fun q => decide (q.cls = tc) && !(s.link l).credit q.pkt) = true →
     exec (.fcStall l tc) s = .next (s.setLink l ((s.link l).bump 1 6)))) ∧
  ((∀ (s : State) (l : Nat), s.runs l = true → (s.link l).lane.los = true →
     exec (.losEpochTimeout l) s = .next ((s.setLink l ((s.link l).bump 2 1)).epochEnd l 1 true)) ∧
   (∀ (s : State) (l : Nat), s.coreOn = true → (s.link l).st = .retrain → exec (.retrainTimeout l) s = .next (s.epochEnd l 7 true)) ∧
   (∀ (s : State) (port l : Nat), s.sbOn port = true → l ≤ 1 → ((s.port port).sb l).carrier = true →
     (s.sbLost port l).coreOn = true → (s.sbLost port l).linkPresent (sbLinkCode port l) = true →
     exec (.carrierLoss port l) s = .next ((s.sbLost port l).linkGone (sbLinkCode port l))) ∧
   (∀ (s u : State) (l : Nat) (w : Wave) (unit : BitVec 64) (cfgGen : BitVec 8) (upf : Bool) (hub : Option Nat) (epoch : BitVec 8)
       (cont : Bool) (nonce : Word), s.inPhase l .linkLayer = true → (s.link l).identRx = false →
     s.takeLcp l w = (u, some (.ident unit cfgGen upf hub epoch cont nonce)) → (u.link l).epochHeld = false →
     (u.link l).sbUnit = some unit → upf ≠ u.upLink l →
     exec (.identReceive l w) s = .next ((u.newEpochOn l unit cfgGen upf hub epoch cont nonce).tryUp l)) ∧
   (∀ (s u : State) (l : Nat) (w : Wave) (unit : BitVec 64) (cfgGen : BitVec 8) (upf : Bool) (hub : Option Nat) (nonce : Word),
     s.inPhase l .linkLayer = true → (s.link l).identRx = false →
     s.takeLcp l w = (u, some (.ident unit cfgGen upf hub (u.link l).epoch true nonce)) → (u.link l).epochHeld = true →
     (u.link l).contTx = true → unit = (u.link l).pUnit → (u.link l).sbUnit = some unit → upf ≠ u.upLink l →
     let v := u.modLink l fun k => { k with identRx := true, newEpoch := false, pCfgGen := cfgGen, pUpf := upf, pHub := hub, nonceRx := nonce }
     exec (.identReceive l w) s = .next (((v.sendFc l false false).sendFc l false true).tryUp l)) ∧
   (∀ (s u : State) (l : Nat) (w : Wave) (hi : Bool) (limits : List Nat), s.hears l = true →
     s.takeLcp l w = (u, some (.fc false hi limits)) → u.inPhase l .linkLayer = false → u.runs l = true →
     exec (.fcUpdateReceive l w) s = .next (u.modLink l fun k => k.takeLimits hi limits)) ∧
   (∀ (s u : State) (l : Nat) (w : Wave) (hi : Bool) (limits : List Nat), s.inPhase l .linkLayer = true →
     s.takeLcp l w = (u, some (.fc true hi limits)) → u.inPhase l .linkLayer = true →
     exec (.initFcReceive l w) s = .next
       ((u.modLink l fun k => { (k.takeLimits hi limits) with fcLoRx := k.fcLoRx || !hi, fcHiRx := k.fcHiRx || hi }).tryUp l)) ∧
   (∀ (c : Cmd) (got : List (List Bool)), Completes (.linkPattern c got) c 0x0206 (layLinkPattern c) false (fun u => u.authZ c = true ∧
       u.linkPresent (c.f 4 2 0) = true ∧ c.here = true ∧ c.f 4 11 8 ≠ 0 ∧ c.f 4 15 12 ≠ 0 ∧
       c.f 4 15 12 &&& u.laneMask (c.f 4 2 0) = c.f 4 15 12 ∧
       (u.eqEntry (eqIndex (linkPort (c.f 4 2 0)) (c.f 4 17 16) (c.f 4 23 20))).usable = true ∧ c.f 5 15 0 ≤ 60000 ∧
       ((u.link (c.f 4 2 0)).st ≠ .up ∧ (u.link (c.f 4 2 0)).st ≠ .retrain ∨ c.b 4 18 = true)) fun u =>
     let p : Pattern := { Pattern.init with
       pat := c.f 4 11 8, lanes := BitVec.ofNat 4 (c.f 4 15 12), rate := c.f 4 17 16, cls := c.f 4 23 20, check := c.b 4 19
       durationMs := c.f 5 15 0 }
     (u.startPattern (c.f 4 2 0) p).complete c stOk []) ∧
   (∀ (c : Cmd) (got : List (List Bool)), Completes (.linkPattern c got) c 0x0206 (layLinkPattern c) false (fun u => u.authZ c = true ∧
       u.linkPresent (c.f 4 2 0) = true ∧ c.here = true ∧ c.f 4 11 8 ≠ 0 ∧ (u.link (c.f 4 2 0)).st = .up ∧ c.b 4 18 = false) fun u =>
     u.complete c stBusy []) ∧
   (∀ (c : Cmd) (got : List (List Bool)), Completes (.linkPattern c got) c 0x0206 (layLinkPattern c) false (fun u => u.authZ c = true ∧
       u.linkPresent (c.f 4 2 0) = true ∧ c.here = true ∧ c.f 4 11 8 = 0 ∧ c.f 5 15 0 ≤ 60000 ∧
       (u.link (c.f 4 2 0)).lane.pattern.pat ≠ 0) fun u =>
     let v := (u.patternResults (c.f 4 2 0) got).endPattern (c.f 4 2 0)
     v.complete c stOk (v.link (c.f 4 2 0)).lane.pattern.words)) ∧
  (∀ (s : State) (l : Nat) (w : Wave), s.runs l = true → ((s.waveViols l w).link l).lane.los = false →
     let v := s.waveViols l w
     let k := v.link l
     let rx := rxPkt (rxFrame w.rows)
     (∀ p tag, rx = .good p tag →
       let d := (p.lseq - k.rxSeq).toNat
       let room := k.rxUsed.read 0 p.tc + pktCredits p ≤ v.rxAlloc p.tc
       let u := v.setLink l { k with
         rxSeq := k.rxSeq + 1, rxNo := k.rxNo + 1, ackDue := true, nakPending := false, nakDue := false
         rxUsed := k.rxUsed.mod 0 p.tc fun n => n + pktCredits p }
       (room → d = 0 → p.sealed = false → exec (.tunnelPacketReceive l w) s = .next (u.forwardPkt l p)) ∧
       (room → d = 0 → p.sealed = true → v.openSeal l p tag = none → exec (.tunnelPacketReceive l w) s = .next (u.sealBad l p)) ∧
       (room → 2048 ≤ d → exec (.tunnelPacketReceive l w) s = .next (v.setLink l { (k.bump 0 2) with ackDue := true })) ∧
       (room → 1 ≤ d → d ≤ 2047 → exec (.tunnelPacketReceive l w) s = .next (v.setLink l k.nak)) ∧
       (¬ room → exec (.tunnelPacketReceive l w) s = .next (v.setLink l (k.bump 0 1).nak))) ∧
     (rx = .crc → exec (.tunnelPacketReceive l w) s = .next (v.modLink l fun k => (k.bump 0 0).nak)) ∧
     (rx = .malformed → exec (.tunnelPacketReceive l w) s = .next (v.modLink l fun k => (k.bump 0 1).nak)) ∧
     (rx = .abandoned → exec (.tunnelPacketReceive l w) s = .next (v.modLink l fun k => k.bump 0 3)) ∧
     (∀ k : Link, k.nakPending = true → k.nak = k) ∧
     (∀ k : Link, k.nakPending = false → k.nak = { k with nakPending := true, nakDue := true })) ∧
  (∀ (s : State) (l : Nat) (w : Wave), s.runs l = true → ((s.waveViols l w).link l).lane.los = true →
     exec (.tunnelPacketReceive l w) s = .next (s.waveViols l w))

/-- The tree's messages and timers complete. HELLO is passed up with its route and count, or kept by the root until its enumeration ends; a hub
without a number says HELLO again; ASSIGN goes on along its route or gives this hub its number; NUMBERED teaches a route; LINKCHG is acted on by
the root; a numbered hub that the root hears again at its place has its CFGGEN and role recorded, and is moved with its subtree from another;
enumeration ends with every hub heard from numbered in preorder; a grace that ends is reported; the acting root closes what crossed the lost
link; TUN_PROG writes a checked entry, and one that names another tunnel is a table error, TUN_SET changes it, both acknowledged; TUN_ACK and
the time-outs move the transaction on. -/
def Obligations.treeRows : Prop :=
  (∀ (s : State) (l : Nat) (ws : List Word), s.coreOn = true → s.linkUp l = true → s.upLink l = false → s.isRoot = false → s.linkUp 0 = true →
    let w0 := nthW ws 0
    exec (.hello l ws) s = .next (s.emit (.tree 0 1 ([pack [w0 - fld 20 (bits w0 23 20), fld 20 (min 9 (bits w0 23 20 + 1))],
      word ((nthW ws 1 * 8 + l) % 2 ^ 24)] ++ ws.drop 2)))) ∧
  (∀ (s : State) (l : Nat) (ws : List Word), s.coreOn = true → s.linkUp l = true → s.upLink l = false → s.isRoot = true →
    bit (nthW ws 0) 14 = false → s.tree.enumDone = false → s.tree.refused = [] → s.tree.lapsed = [] → s.hubList = [] →
    let w0 := nthW ws 0
    let h : HelloRec := { unit := unitOf ws 2, route := (nthW ws 1 * 8 + l) % 2 ^ 24, count := min 9 (bits w0 23 20 + 1), role := bits w0 10 9
                          cfgGen := BitVec.ofNat 8 (bits w0 7 0) }
    exec (.hello l ws) s = .next { s with tree := { s.tree with
      pendHello := (s.tree.pendHello.filter fun p => decide (p.unit ≠ h.unit)) ++ [h] } }) ∧
  (∀ (s : State) (l : Nat) (ws : List Word), s.coreOn = true → s.linkUp l = true → s.upLink l = false → s.isRoot = true →
    let w0 := nthW ws 0
    let n := bits w0 19 15
    let h : HelloRec := { unit := unitOf ws 2, route := (nthW ws 1 * 8 + l) % 2 ^ 24, count := min 9 (bits w0 23 20 + 1), role := bits w0 10 9
                          cfgGen := BitVec.ofNat 8 (bits w0 7 0) }
    bit w0 14 = true → n ≠ 0 → (s.recOf n).state ≠ rFree → (s.recOf n).unit = h.unit → unitOf ws 4 = s.nv.unitId →
    (∀ m ∈ s.hubList, (s.recOf m).unit = h.unit → s.barred m = false) → s.tree.refused = [] → s.tree.lapsed = [] →
    exec (.hello l ws) s = .next
      (if (s.recOf n).route = h.route ∧ (s.recOf n).depth = h.count ∧ s.mustRefuse h = false then
        s.setRec n { s.recOf n with cfgGen := h.cfgGen, role := h.role }
      else s.heard n h)) ∧
  (∀ s : State, s.coreOn = true → s.tree.hub = none → s.isRoot = false → s.linkUp 0 = true →
    exec .helloRepeat s = .next (s.emit (.tree 0 1 s.helloWords))) ∧
  (∀ (s : State) (ws : List Word), s.coreOn = true → bits (nthW ws 0) 23 20 ≠ 0 → nthW ws 1 < 2 ^ 24 →
    s.linkPresent (nthW ws 1 % 8) = true → s.upLink (nthW ws 1 % 8) = false → s.linkUp (nthW ws 1 % 8) = true →
    exec (.assign ws) s = .next (s.emit (.tree (nthW ws 1 % 8) 2 (assignWords (bits (nthW ws 0) 23 20 - 1) (bits (nthW ws 0) 19 15)
      (nthW ws 1 / 8) (unitOf ws 2) (unitOf ws 4))))) ∧
  (∀ (s : State) (ws : List Word), s.coreOn = true → bits (nthW ws 0) 23 20 = 0 → s.isRoot = false → unitOf ws 2 = s.nv.unitId →
    unitOf ws 4 = s.tree.rootUnit → s.tree.hub = none → s.linkUp 0 = true →
    let v := s.renumberOwn (bits (nthW ws 0) 19 15)
    exec (.assign ws) s = .next (({ v with tree := { v.tree with hub := some (bits (nthW ws 0) 19 15), rootUnit := unitOf ws 4 } }.emit
      (.tree 0 3 (numberedWords (bits (nthW ws 0) 19 15) s.nv.unitId))).tryReturn)) ∧
  (∀ (s : State) (l : Nat) (ws : List Word), s.coreOn = true → s.linkUp l = true → s.upLink l = false →
    s.hubNum ≠ some (bits (nthW ws 0) 19 15) → s.isRoot = true →
    let n := bits (nthW ws 0) 19 15
    let u := s.setGaz (n + 1) { s.gaz (n + 1) with state := gOpen, egress := linkBit l, tid := n + 1, tc := 7 }
    let tr := { u.tree with numUnits := u.tree.numUnits.write 0 n (unitOf ws 2),
                            lostRoutes := u.tree.lostRoutes.filter fun m => decide (m ≠ n) }
    exec (.numbered l ws) s = .next { u with tree := tr }) ∧
  (∀ (s : State) (l : Nat) (ws : List Word), s.coreOn = true → s.linkUp l = true → s.upLink l = false → s.isRoot = true →
    exec (.linkchg l ws) s = .next (s.linkChange (bits (nthW ws 0) 19 15) (bits (nthW ws 0) 13 11) (bits (nthW ws 0) 3 0)
      (BitVec.ofNat 8 (nthW ws 1 % 256)) (unitOf ws 2))) ∧
  (∀ s : State, s.coreOn = true → s.isRoot = true → s.tree.enumRun = true → s.tree.renumCmd = none →
    let u := { s with tree := { s.tree with pendHello := [], enumRun := false, enumDone := true, renumCmd := none } }.numberAll
      (preorder (s.tree.pendHello.filter fun h => !(s.tree.lapsed.any h.behind)))
    exec .initialEnumerationEnd s = .next (u.treeEvent stOk [pack [fld 24 0x0B, 1], pack [fld 24 u.tree.cfgGen.toNat], u.inUse, 0])) ∧
  (∀ (s : State) (l : Nat) (g : Grace), s.coreOn = true → (s.link l).grace = some g → g.running = true → g.judged = 0 →
    exec (.reattachGraceExpiry l) s = .next
      ((s.modLink l fun k => { k with grace := some { g with running := false } }).sendLinkchg l 2 g.cfgGen g.unit)) ∧
  (∀ s : State, s.ret.mode = .holdover → s.isRoot = false → s.linkUp 0 = false →
    exec .actingRootClose s = .next (s.tree.gaz.foldl State.actingClose s)) ∧
  (∀ (s : State) (ws : List Word), s.coreOn = true → 33 < nthW ws 1 % 4096 → (s.gaz (nthW ws 1 % 4096)).state = gClosed →
    s.hopCheck (nthW ws 1 % 4096) (Gaz.ofWords (ws.drop 4)) = stOk →
    let t := nthW ws 1 % 4096
    let g := Gaz.ofWords (ws.drop 4)
    let u := (if g.state = gOpen then egressLinks g.egress else []).foldl (fun (s : State) l => { s with tree := { s.tree with
      fresh := s.tree.fresh.write 0 (8 * t + l) (s.uptime + 1) } }) (s.setEntry t g)
    let v := u.tunAck (nthW ws 1 / 2 ^ 24) t stOk
    exec (.tunProg ws) s = .next (if g.sound t then v else v.detect { dom := 0x80, check := 8, loc := word t, unit := t } false)) ∧
  (∀ (s : State) (link : Option Nat) (ws : List Word), s.coreOn = true → 33 < nthW ws 1 % 4096 → bit (nthW ws 0) 23 = false →
    exec (.tunSet link ws) s = .next (s.tunSet (nthW ws 1 % 4096) (nthW ws 1 / 2 ^ 24) (bits (nthW ws 2) 18 16) (bits (nthW ws 2) 15 14)
      (BitVec.ofNat 8 (bits (nthW ws 2) 7 0)))) ∧
  (∀ (s : State) (ws : List Word) (o : TunOp), s.coreOn = true → s.isRoot = true → 33 < nthW ws 1 % 4096 → nthW ws 1 / 2 ^ 24 ≠ 0 →
    s.tree.tunOp = some o → o.tag = nthW ws 1 / 2 ^ 24 → o.waiting.contains (bits (nthW ws 0) 19 15, nthW ws 1 % 4096) = true →
    bits (nthW ws 0) 19 15 ≠ (s.tun (nthW ws 1 % 4096)).srcHub → nthW ws 2 % 256 = stOk →
    let o' := { o with waiting := o.waiting.erase (bits (nthW ws 0) 19 15, nthW ws 1 % 4096) }
    exec (.tunAck ws) s = .next ((s.opStep o').tunNext (s.tree.tunQ.length + 1))) ∧
  (∀ (s : State) (o : TunOp), s.coreOn = true → s.isRoot = true → s.tree.tunOp = some o → o.kind ≠ .close → o.waiting ≠ [] →
    exec .tunnelOpenStepTimeout s = .next (s.opAbort stTimeout)) ∧
  (∀ (s : State) (t : Nat), s.coreOn = true → (s.gaz t).state = gClosing → s.queued t = false →
    exec (.hopCloseDrained t) s = .next (s.endClosing t)) ∧
  (∀ (s : State) (t : Nat), s.coreOn = true → (s.gaz t).state = gClosing → exec (.hopCloseTimeout t) s = .next (s.endClosing t)) ∧
  (∀ (s : State) (hub t : Nat) (o : TunOp), s.coreOn = true → s.isRoot = true → s.tree.tunOp = some o → o.kind = .close →
    exec (.closeAckTimeout hub t) s = .next (s.opPrune fun w => decide (w ≠ (hub, t))))

/-- The tree commands of slice 0 of the root complete: TREE_ENUMERATE answers the pending HELLOs or starts a renumbering; TREE_QUERY returns a
hub's record; TREE_EVICT evicts a subtree or lets it return. The tunnel commands become the root's transactions in arrival order: TUN_OPEN,
and TUN_CLOSE, TUN_MODIFY, TUN_SUSPEND and TUN_RESUME of an owner or of slice 0 of the root, for a tunnel that is neither OPENING nor
CLOSING. TUN_QUERY returns the record, the hub counters or the entry. -/
def Obligations.treeCommands : Prop :=
  (∀ c : Cmd, Completes (.treeEnumerate c) c 0x0300 (layTreeEnumerate c) false (fun u => u.isRoot = true ∧ u.fromRoot0 c = true ∧
      u.tree.renumCmd = none ∧ c.b 4 0 = false) fun u =>
    let v := (preorder u.tree.pendHello).foldl State.hotAttach { u with tree := { u.tree with pendHello := [] } }
    v.complete c stOk v.enumWords) ∧
  (∀ c : Cmd, Completes (.treeEnumerate c) c 0x0300 (layTreeEnumerate c) false (fun u => u.isRoot = true ∧ u.fromRoot0 c = true ∧
      u.tree.renumCmd = none ∧ c.b 4 0 = true ∧ u.tree.tuns = []) fun u =>
    { u with tree := { u.tree with enumRun := true, renumCmd := some c } }) ∧
  (∀ c : Cmd, Completes (.treeQuery c) c 0x0301 (layTreeQuery c) true (fun u => u.isRoot = true ∧ c.b 4 5 = false ∧
      (u.recOf (c.f 4 4 0)).state ≠ rFree) fun u => u.complete c stOk (u.hubWords 0 (c.f 4 4 0))) ∧
  (∀ c : Cmd, Completes (.treeEvict c) c 0x0303 (layTreeEvict c) false (fun u => u.isRoot = true ∧ c.f 4 4 0 ≠ 0 ∧ u.fromRoot0 c = true ∧
      (u.below (c.f 4 4 0)).contains (u.cmdHub c) = false ∧ (u.recOf (c.f 4 4 0)).state ≠ rFree ∧
      (u.recOf (c.f 4 4 0)).unit = BitVec.ofNat 64 (c.w64 5) ∧ c.b 4 8 = false) fun u =>
    let v := u.lapse.evict (c.f 4 4 0) (u.cmdHub c, c.slice)
    v.complete c stOk (v.hubWords 9 (c.f 4 4 0))) ∧
  (∀ c : Cmd, Completes (.treeEvict c) c 0x0303 (layTreeEvict c) false (fun u => u.isRoot = true ∧ c.f 4 4 0 ≠ 0 ∧ u.fromRoot0 c = true ∧
      (u.below (c.f 4 4 0)).contains (u.cmdHub c) = false ∧ (u.recOf (c.f 4 4 0)).state ≠ rFree ∧
      (u.recOf (c.f 4 4 0)).unit = BitVec.ofNat 64 (c.w64 5) ∧ c.b 4 8 = true ∧ u.tree.evictedHubs.contains (c.f 4 4 0) = true) fun u =>
    let v := u.lapse.readmit (c.f 4 4 0)
    v.complete c stOk (v.hubWords 0x0A (c.f 4 4 0))) ∧
  (∀ c : Cmd, Completes (.tunOpen c) c 0x0400 (layTunOpen c) false (fun u => u.isRoot = true) fun u =>
    u.tunAsk { kind := .open, tid := 0, cmd := some c }) ∧
  (∀ (c : Cmd) (k : TunOpKind), k ≠ .open →
    let P (u : State) : Prop := u.isRoot = true ∧ 33 < c.f 4 11 0 ∧
      (u.isOwner c (u.tun ((u.pairIds (c.f 4 11 0)).headD (c.f 4 11 0))) = true ∨ u.fromRoot0 c = true) ∧
      (u.tun ((u.pairIds (c.f 4 11 0)).headD (c.f 4 11 0))).state ≠ gOpening ∧
      (u.tun ((u.pairIds (c.f 4 11 0)).headD (c.f 4 11 0))).state ≠ gClosing
    let f (u : State) : State := u.tunAsk { kind := k, tid := c.f 4 11 0, cmd := some c }
    (k = .close → Completes (.tunClose c) c 0x0401 (layTun c) false P f) ∧
    (k = .modify → Completes (.tunModify c) c 0x0402 (layTunModify c) false P f) ∧
    (k = .suspend → Completes (.tunSuspend c) c 0x0404 (layTun c) false P f) ∧
    (k = .reopen → Completes (.tunResume c) c 0x0405 (layTun c) false P f)) ∧
  (∀ c : Cmd, Completes (.tunQuery c) c 0x0403 (layTunQuery c) true (fun u => c.b 4 13 = true ∧ c.b 4 12 = false ∧ u.isRoot = true) fun u =>
    u.complete c stOk (u.tunWords (c.f 4 11 0))) ∧
  (∀ c : Cmd, Completes (.tunQuery c) c 0x0403 (layTunQuery c) true (fun _ => c.b 4 13 = false ∧ c.b 4 12 = false ∧ c.f 4 11 0 = 0) fun u =>
    u.complete c stOk [word u.tree.notOpen, word u.tree.wrongIn, word u.tree.staleGen, word u.tree.fragErr]) ∧
  (∀ c : Cmd, Completes (.tunQuery c) c 0x0403 (layTunQuery c) true (fun _ => c.b 4 13 = false ∧ c.b 4 12 = false ∧ c.f 4 11 0 ≠ 0) fun u =>
    u.complete c stOk (u.entry (c.f 4 11 0)).words)

/-! ### Shaping and gates (Chapter 8) -/

/-- SCHEDULER_PICK on a link that is up, awake and owes no acknowledgement completes. A replay under way sends its next packet before any new one.
While a window that is open has bytes left, its tunnel's first packet is sent, and its bytes are counted, for the window and for the tunnel's
bound, when it fits the window; where it does not fit, nothing is sent. Otherwise the highest class that offers a packet sends it, the class and
the bound pay for it, and a window's tunnel served so counts a miss; where no class offers one nothing is sent. A class offers a packet only
with its gate open and, for TC1 to TC6, a credit that is not negative, and a packet of the floor tier before one of the shared tier. While the
fabric or the link recovers nothing is sent. -/
def Obligations.schedulerPick : Prop :=
  (∀ (s : State) (l : Nat), s.recovers [1, 2 + l] = true → exec (.schedulerPick l) s = .next s) ∧
  (∀ (s : State) (l : Nat) (p : TxPkt),
    let k := s.link l
    s.coreOn = true → s.linkPresent l = true → s.linkUp l = true → k.lane.txDoze = .awake → k.lane.txWaking = false → k.ackDue = false →
    k.nakDue = false → s.recovers [1, 2 + l] = false → k.replaying = true → k.replay[k.replayIdx]? = some p →
    exec (.schedulerPick l) s = .next ((s.setLink l { k with
      replayIdx := k.replayIdx + 1, replaying := decide (k.replayIdx + 1 < k.replay.length) }).sendPkt l p)) ∧
  (∀ (s : State) (l : Nat),
    let k := s.link l
    s.coreOn = true → s.linkPresent l = true → s.linkUp l = true → k.lane.txDoze = .awake → k.lane.txWaking = false → k.ackDue = false →
    k.nakDue = false → s.recovers [1, 2 + l] = false → k.replaying = false → k.quiescing = false →
    let open' : Option Window := k.sched.windows.find? fun w => w.live (s.schedAdvance l).nowFine && decide (w.sent < w.q)
    (∀ w q, open' = some w → (s.schedAdvance l).windowPick l w = some q →
      let n := pktCounted q.pkt k.sched.ovh
      exec (.schedulerPick l) s = .next ((((s.schedAdvance l).modLink l fun k => { k with sched := { k.sched with
        windows := k.sched.windows.map fun v => if v = w then { v with sent := v.sent + n } else v } }).boundSent l q.pkt.tunnel n).sendQueued
          l q)) ∧
    (∀ w, open' = some w →
      (s.schedAdvance l).windowPick l w = none → exec (.schedulerPick l) s = .next (s.schedAdvance l)) ∧
    (open' = none →
      (∀ tc q i, tc < 8 → (s.schedAdvance l).pickClass l tc = some (q, i) →
        (∀ m, tc < m → m < 8 → (s.schedAdvance l).pickClass l m = none) →
        exec (.schedulerPick l) s = .next
          ((((s.schedAdvance l).debit l q i).missed l q.pkt.tunnel q.cls).sendQueued l q)) ∧
      ((∀ m, m < 8 → (s.schedAdvance l).pickClass l m = none) → exec (.schedulerPick l) s = .next (s.schedAdvance l)))) ∧
  (∀ (s : State) (l tc i : Nat) (q : QPkt), s.pickClass l tc = some (q, i) →
    (s.link l).sched.gateOpen tc s.nowFine = true ∧ (1 ≤ tc ∧ tc ≤ 6 → 0 ≤ s.creditNow l tc s.nowFine) ∧ s.fits l q = true ∧
    s.tier l q = some i ∧ q ∈ (s.link l).sched.heads tc ∧
    (i = 1 → ∀ p ∈ (s.link l).sched.heads tc, s.fits l p = true → s.tier l p ≠ some 0))

/-- The timed rows of a scheduler complete. Packets of LOSSY tunnels older than AGE leave the queue and are counted; at an entry's end the entry
of the operating list at that instant is in force; at its instant a pending switch makes its slot the operating one and is reported; a
window in effect opens with nothing sent, once in an occurrence that the clock has entered, and closes when the clock has left it; a window
waiting replaces its tunnel's window at a second boundary 2 ms or more after the hop acknowledged it; and with one bound that lends and one
that borrows, the loan is the smaller of what the ceiling leaves and the headroom plus what was lent, both exact. -/
def Obligations.schedulerTimers : Prop :=
  (∀ (s : State) (l : Nat),
    let x := (s.link l).sched
    let old (q : QPkt) : Bool := q.lossy && decide (q.since + 4000 * x.ageUs < s.now250)
    s.coreOn = true → x.ageUs ≠ 0 → x.queue.filter old ≠ [] →
    exec (.lossyAgeExpiry l) s = .next ((x.queue.filter old).foldl (fun (s : State) q => (s.leftHop q).countDrop q.pkt.tunnel 1)
      ((s.schedAdvance l).modLink l fun k => { k with sched := { k.sched with queue := k.sched.queue.filter fun q => !old q } }))) ∧
  (∀ (s : State) (l : Nat) (g : GateSlot), s.coreOn = true → (s.link l).sched.opGate = some g →
    ((s.schedAdvance l).link l).sched.opGate = some g →
    exec (.gateEntryBoundary l) s = .next ((s.schedAdvance l).modLink l fun k => { k with sched := { k.sched with
      gateIdx := match k.sched.opGate with
        | some g => (entryAt g.entries 0 (g.pos (s.schedAdvance l).nowFine)).1
        | none => 0 }.frozen })) ∧
  (∀ (x : LinkSched) (tc : Nat), 1 ≤ tc → tc ≤ 6 → x.frozen.credit.read 0 tc =
    if x.gateWas tc = true then x.credit.read 0 tc else x.credit.read 0 tc / grain * grain) ∧
  (∀ (s : State) (l : Nat), s.coreOn = true → (s.link l).sched.pendSlot ≠ 7 → (s.link l).sched.pendAt ≤ s.nowNs →
    s.noneBefore (4 * (s.link l).sched.pendAt) = true → exec (.gateSwitch l) s = .next ((((s.schedAdvance l).modLink l fun k => { k with sched := { k.sched with
      opSlot := (s.link l).sched.pendSlot, pendSlot := 7 } }).setGateIdx l).schedAlert l 7 stOk 0 0 (s.link l).sched.pendSlot
        ((s.link l).sched.pendAt % 1000000000) true)) ∧
  (∀ (s : State) (l t : Nat), s.coreOn = true →
    exec (.windowOpen l t) s = .next (s.modLink l fun k => { k with sched := { k.sched with
      windows := k.sched.windows.map fun w =>
        if w.tid = t then
          (if w.effect = true ∧ w.suspended = false ∧ w.inside s.nowFine = true ∧ w.occ ≠ w.occAt s.nowFine then
            { w with isOpen := true, sent := 0, occ := w.occAt s.nowFine } else w)
        else w } })) ∧
  (∀ (s : State) (l t : Nat), s.coreOn = true →
    exec (.windowClose l t) s = .next (s.modLink l fun k => { k with sched := { k.sched with
      windows := k.sched.windows.map fun w =>
        if w.tid = t then (if w.inside s.nowFine then w else { w with isOpen := false }) else w } })) ∧
  (∀ (s : State) (l t : Nat), s.coreOn = true → l < 5 → (∀ o, s.sched.winOp = some o → o.isWin = false ∨ o.tid ≠ t) →
    ((s.link l).sched.windows.any fun w => decide (w.tid = t) && !w.effect && s.effectAt w.ackAt) = true →
    (∀ m, m < 5 → m ≠ l → ((s.link m).sched.windows.any fun w => decide (w.tid = t) && !w.effect && s.effectAt w.ackAt) = false) →
    exec (.windowEffect t) s = .next ((s.schedAdvance l).modLink l fun k => { k with sched := { k.sched with
      windows := ((s.link l).sched.windows.filter fun w => decide (w.tid ≠ t) || !w.effect).map fun w =>
        if w.tid = t then { w with effect := true } else w } })) ∧
  (∀ (s : State) (l i j ua ub : Nat) (a b : Bound),
    let u := s.schedAdvance l
    let ci := max 1 (u.link l).sched.ciUs
    let idle := u.scaled l a.floor * ci - ua * 800
    let lent := idle / ci
    let pool := ci * u.headFine l + 125000 * idle
    let d := b.ceilEff u.pace.shed - u.scaled l b.floor
    let v := u.setBlink l i { u.blink l i with loan := 0, sent := 0, lender := true, borrower := false, lent := lent }
    let w := v.setBlink l j { v.blink l j with loan := min d (pool / (125000 * ci)), sent := 0, lender := false, borrower := true, lent := 0 }
    s.coreOn = true → s.linkPresent l = true → s.linkUp l = true → u.usage l = [(i, a, ua, false), (j, b, ub, true)] →
    ua * 800 < u.scaled l a.floor * ci → 0 < d → (u.blink l j).lender = false → w.over l = (w.link l).sched.overCommit →
    (∀ q ∈ (w.link l).sched.queue, w.idleEff l q.cls ≠ 0) →
    exec (.creditIntervalEnd l) s = .next w)

/-- SCHED_CLASS_SET applies the selected groups and completes with OK when the link passes the tests, and with LIMIT and no change when a
configured idle slope fails them. SCHED_GATE_LOAD fills a slot that is neither operating nor pending, or completes with LIMIT.
SCHED_GATE_COMMIT sets the pending switch, BUSY when one is pending without CANCEL. SCHED_QUERY returns the words of Table 8.9. At the root,
the owner's command on an OPEN tunnel with nothing of the kind under way sends the hop form to every hop it reaches and waits for them. At a
hop, the hop form of the root sets the window or the bound record where the link passes the tests, leaves a window as it is that is set
again, removes it when REMOVE is set, and completes with LIMIT and leaves windows and bounds as they are where a test fails; a link that TUN_MODIFY has just
added takes the window at once (R241), and a set-back gives the link or the tunnel what the refused form found there (R251; log entries 33, 53). -/
def Obligations.schedulingCommands : Prop :=
  ((∀ c : Cmd, Completes (.schedClassSet c) c 0x0500 (laySchedClassSet c) false (fun u => u.mayUse c 0 (c.f 4 2 0) = true ∧
       u.linkPresent (c.f 4 2 0) = true ∧ (c.b 4 14 = true → c.f 5 23 0 ≤ (u.link (c.f 4 2 0)).payRate ∧
         (u.setClass c (c.f 4 2 0)).admitFail (c.f 4 2 0) = none)) fun u =>
     ((u.setClass c (c.f 4 2 0)).noteOver (c.f 4 2 0)).complete c stOk []) ∧
   (∀ c : Cmd, Completes (.schedClassSet c) c 0x0500 (laySchedClassSet c) false (fun u => u.mayUse c 0 (c.f 4 2 0) = true ∧
       u.linkPresent (c.f 4 2 0) = true ∧ c.b 4 14 = true ∧ c.f 5 23 0 ≤ (u.link (c.f 4 2 0)).payRate ∧
         (u.setClass c (c.f 4 2 0)).admitFail (c.f 4 2 0) ≠ none) fun u => u.complete c stLimit []) ∧
   (∀ c : Cmd,
     let l := c.f 4 2 0
     let slot := c.f 4 6 4
     let es := if c.indirect then wordsOf (c.f 4 16 8) c.data else (List.range (c.f 4 16 8)).map fun i => word (c.w (i + 8))
     let list (u : State) : GateSlot := { loaded := true, base := (u.compactField c 5).getD 0, cycle := gateCycle es, entries := es }
     let put (u : State) : State := u.modLink l fun k => { k with sched := { k.sched with
       gates := k.sched.gates.write GateSlot.init slot (list u) } }
     let good (u : State) : Prop := (∀ e ∈ es, 50 ≤ entDur e) ∧ 1000 ≤ gateCycle es ∧ gateCycle es ≤ 1000000000 ∧ u.mayUse c 0 l = true ∧
       u.linkPresent l = true ∧ (u.link l).sched.opSlot ≠ slot ∧ (u.link l).sched.pendSlot ≠ slot
     Completes (.schedGateLoad c) c 0x0501 (laySchedGateLoad c) false (fun u => good u ∧ (put u).admitFail l = none)
       (fun u => (put u).complete c stOk []) ∧
     Completes (.schedGateLoad c) c 0x0501 (laySchedGateLoad c) false (fun u => good u ∧ (put u).admitFail l ≠ none)
       (fun u => u.complete c stLimit [])) ∧
   (∀ c : Cmd,
     let l := c.f 4 2 0
     let slot := c.f 4 6 4
     let good (u : State) : Prop := u.mayUse c 0 l = true ∧ u.linkPresent l = true ∧
       (slot = 4 ∨ slot < 4 ∧ ((u.link l).sched.gates.read GateSlot.init slot).loaded = true)
     Completes (.schedGateCommit c) c 0x0502 (laySchedGateCommit c) false
       (fun u => good u ∧ ((u.link l).sched.pendSlot = 7 ∨ c.b 4 8 = true) ∧ c.w 5 = 0 ∧ c.w 6 = 0)
       (fun u => (u.gateCommit l slot u.nowNs).complete c stOk []) ∧
     Completes (.schedGateCommit c) c 0x0502 (laySchedGateCommit c) false
       (fun u => good u ∧ ((u.link l).sched.pendSlot = 7 ∨ c.b 4 8 = true) ∧ (c.w 5 ≠ 0 ∨ c.w 6 ≠ 0))
       (fun u => (u.gateCommit l slot (max u.nowNs ((u.compactField c 5).getD 0))).complete c stOk []) ∧
     Completes (.schedGateCommit c) c 0x0502 (laySchedGateCommit c) false
       (fun u => good u ∧ (u.link l).sched.pendSlot ≠ 7 ∧ c.b 4 8 = false) (fun u => u.complete c stBusy [])) ∧
   (∀ c : Cmd,
     let l := c.f 4 2 0
     let tc := c.f 4 10 8
     let t := c.f 4 27 16
     Completes (.schedQuery c) c 0x0505 (laySchedQuery c) true (fun u => u.linkPresent l = true ∧ c.f 4 5 4 = 0)
       (fun u => u.complete c stOk [word ((u.link l).cfgIdle tc), word (u.idleEff l tc), word (unsigned 32 (u.creditNow l tc u.nowFine)),
         pack [fld 24 (u.usable255 l tc), u.classFloor l tc]]) ∧
     (∀ r b, Completes (.schedQuery c) c 0x0505 (laySchedQuery c) true (fun u => u.linkPresent l = true ∧ c.f 4 5 4 = 1 ∧
         (u.boundsOn l).find? (fun b => decide (b.2.tid = t)) = some (r, b))
       (fun u => u.complete c stOk [pack [fld 24 (b2n b.be), b.floor], word b.ceil, word (b.ceilEff u.pace.shed),
         pack [fld 25 (b2n (u.blink l r).borrower), fld 24 (b2n (u.blink l r).lender), u.allot l (r, b)]])) ∧
     Completes (.schedQuery c) c 0x0505 (laySchedQuery c) true (fun u => u.linkPresent l = true ∧ c.f 4 5 4 = 2)
       (fun u =>
         let x := (u.link l).sched
         u.complete c stOk [pack [fld 29 x.opSlot, fld 26 x.pendSlot, fld 23 x.urgTc, fld 16 x.admitPct, fld 7 x.ovh, x.ciUs],
           word (u.link l).payRate, word (u.reserved l), word (u.headroom l)]) ∧
     (∀ w, Completes (.schedQuery c) c 0x0505 (laySchedQuery c) true (fun u => u.linkPresent l = true ∧ c.f 4 5 4 = 3 ∧
         (u.link l).sched.windows.find? (fun w => decide (w.tid = t)) = some w)
       (fun u => u.complete c stOk [word t, word w.hopOpen, word w.hopLen, word w.misses])) ∧
     Completes (.schedQuery c) c 0x0505 (laySchedQuery c) true (fun u => u.linkPresent l = true ∧
         (c.f 4 5 4 = 1 ∧ (u.boundsOn l).find? (fun b => decide (b.2.tid = t)) = none ∨
          c.f 4 5 4 = 3 ∧ (u.link l).sched.windows.find? (fun w => decide (w.tid = t)) = none))
       (fun u => u.complete c stNotPresent []))) ∧
  ((∀ c : Cmd,
     let t := c.f 4 11 0
     Completes (.schedWindowSet c) c 0x0503 (laySchedWindowSet c) false (fun u =>
       let r := u.tun t
       let w : Window := { tid := t, period := c.w 5, offset := c.w 6, q := c.f 7 19 0, lmax := c.f 7 31 20 }
       u.isRoot = true ∧ c.b 15 31 = false ∧ 33 < t ∧ u.sched.winOp = none ∧ u.sched.winQ = [] ∧ c.opcode = 0x0503 ∧
       u.cmdHub c = r.ownerHub ∧ c.slice = r.ownerSlice ∧ genOk (c.b 4 20) (c.f 4 19 12) r.gen = true ∧ r.state = gOpen ∧
       c.b 4 21 = false ∧ (u.hopForms true t (some w) none).filter (fun f => u.reach f.1) ≠ [])
     (fun u =>
       let w : Window := { tid := t, period := c.w 5, offset := c.w 6, q := c.f 7 19 0, lmax := c.f 7 31 20 }
       u.sendForms { isWin := true, tid := t, tag := u.freeTag, cmd := some c, winRec := some w, bnd := none
                     span := ((u.winPlan t w).map fun x => x.2.2.1 + x.2.2.2).foldl max 0
                     nhops := (once ((u.winPlan t w).map Prod.fst)).length } (u.hopForms true t (some w) none))) ∧
   (∀ c : Cmd,
     let t := c.f 4 11 0
     let b : Bool × Nat × Nat := (c.b 4 22, c.w 5, c.w 6)
     Completes (.schedBounds c) c 0x0504 (laySchedBounds c) false (fun u =>
       let r := u.tun t
       u.isRoot = true ∧ c.b 15 31 = false ∧ 33 < t ∧ u.sched.winOp = none ∧ u.sched.winQ = [] ∧ c.opcode = 0x0504 ∧
       u.cmdHub c = r.ownerHub ∧ c.slice = r.ownerSlice ∧ genOk (c.b 4 20) (c.f 4 19 12) r.gen = true ∧ r.state = gOpen ∧ r.tc ≠ 0 ∧
       c.b 4 21 = false ∧ (u.hopForms false t none (some b)).filter (fun f => u.reach f.1) ≠ [])
     (fun u => u.sendForms { isWin := false, tid := t, tag := u.freeTag, cmd := some c, winRec := none, bnd := some b
                             span := 0, nhops := 0 } (u.hopForms false t none (some b)))) ∧
   (∀ c : Cmd,
     let t := c.f 4 11 0
     let l := c.f 10 2 0
     let w : Window := { tid := t, period := c.w 5, offset := c.w 6, q := c.f 7 19 0, lmax := c.f 7 31 20,
                         hopOpen := c.w 8, hopLen := c.w 9 }
     let at' (u : State) : Window := { w with ackAt := u.nowNs }
     let others (u : State) : List Window := (u.link l).sched.windows.filter fun w => decide (w.tid ≠ t)
     let own (u : State) : List Window := (u.link l).sched.windows.filter fun w => decide (w.tid = t) && w.effect
     let mine (u : State) : List Window := (u.link l).sched.windows.filter fun w => decide (w.tid = t)
     let kept (u : State) : State := (u.schedAdvance l).keepBack c true l
       (some { isWin := true, tid := t, link := l, tag := c.htag, since := u.uptime, wins := mine u })
     let onLink (u : State) (ws : List Window) : State := u.modLink l fun k => { k with sched := { k.sched with windows := ws } }
     let put (u : State) (ws : List Window) : State := onLink (kept u) ws
     let here (u : State) : Prop := c.b 15 31 = true ∧ c.sys = true ∧ c.hub = 0 ∧ genOk (c.b 4 20) (c.f 4 19 12) (u.gaz t).gen = true ∧
       (u.gaz t).state = gOpen ∧ (u.gaz t).egress.toNat.testBit l = true
     let good (u : State) : Prop := here u ∧ (u.backOf c true l).filter (fun b => b.isWindow (c.b 4 21) (at' u)) = none
     (∀ b : Back, Completes (.schedWindowSet c) c 0x0503 (laySchedWindowSet c) false (fun u => here u ∧ u.backOf c true l = some b ∧
         b.isWindow (c.b 4 21) (at' u) = true)
       (fun u => ((onLink (u.schedAdvance l) (others u ++ b.wins.map fun v => ((own u).find? v.same).getD v)).keepBack c true l none).complete
         c stOk [pack [fld 12 (u.gaz t).gen.toNat, t], 0, 0, 0])) ∧
     Completes (.schedWindowSet c) c 0x0503 (laySchedWindowSet c) false (fun u => good u ∧ c.b 4 21 = true)
       (fun u => (put u (others u)).complete c stOk [pack [fld 12 (u.gaz t).gen.toNat, t], 0, 0, 0]) ∧
     Completes (.schedWindowSet c) c 0x0503 (laySchedWindowSet c) false (fun u => good u ∧ c.b 4 21 = false ∧ (own u).any w.same = true)
       (fun u => (put u (others u ++ own u)).complete c stOk [pack [fld 12 (u.gaz t).gen.toNat, t], 0, 0, 0]) ∧
     Completes (.schedWindowSet c) c 0x0503 (laySchedWindowSet c) false (fun u => good u ∧ c.b 4 21 = false ∧ (own u).any w.same = false ∧
         u.isFresh t l = false ∧ w.hopLen ≤ w.period ∧ (others u).any w.clash = false ∧ (put u (others u ++ [at' u])).admitFail l = none)
       (fun u => (put u (others u ++ own u ++ [at' u])).complete c stOk [pack [fld 12 (u.gaz t).gen.toNat, t], 0, 0, 0]) ∧
     Completes (.schedWindowSet c) c 0x0503 (laySchedWindowSet c) false (fun u => good u ∧ c.b 4 21 = false ∧ (own u).any w.same = false ∧
         u.isFresh t l = false ∧ (w.period < w.hopLen ∨ (others u).any w.clash = true ∨ (put u (others u ++ [at' u])).admitFail l ≠ none))
       (fun u => (kept u).complete c stLimit []) ∧
     Completes (.schedWindowSet c) c 0x0503 (laySchedWindowSet c) false (fun u => good u ∧ c.b 4 21 = false ∧ (own u).any w.same = false ∧
         u.isFresh t l = true)
       (fun u =>
         let v := put u (others u ++ [{ at' u with effect := true }])
         ({ v with tree := { v.tree with fresh := v.tree.fresh.erase (8 * t + l) } }.noteOver l).complete c stOk
           [pack [fld 12 (u.gaz t).gen.toNat, t], 0, 0, 0])) ∧
   (∀ c : Cmd,
     let t := c.f 4 11 0
     let good (u : State) : Prop := c.b 15 31 = true ∧ c.sys = true ∧ c.hub = 0 ∧ genOk (c.b 4 20) (c.f 4 19 12) (u.gaz t).gen = true ∧
       (u.gaz t).state = gOpen
     let b : Bound := { tid := t, be := c.b 4 22, floor := c.f 5 23 0, ceil := c.f 6 23 0 }
     let undo (u : State) : Bool := (u.backOf c false 0).any fun k => k.isBound (c.b 4 21) b
     let kept (u : State) : State := u.keepBack c false 0 (if undo u = true then none else
       some { tid := t, tag := c.htag, since := u.uptime,
              bound := if (u.gaz t).bound = 0 then none else some (u.sched.bounds.read Bound.init (u.gaz t).bound) })
     let put (u : State) : State :=
       let v := (List.range 5).foldl State.schedAdvance (kept u)
       State.setGaz { v with sched := { v.sched with bounds := v.sched.bounds.write Bound.init (u.gaz t).bound b } } t (u.gaz t)
     Completes (.schedBounds c) c 0x0504 (laySchedBounds c) false (fun u => good u ∧ c.b 4 21 = true)
       (fun u => (((kept u).dropBound (u.gaz t).bound).setGaz t { u.gaz t with bound := 0 }).complete c stOk
         [pack [fld 12 (u.gaz t).gen.toNat, t], 0, 0, 0]) ∧
     Completes (.schedBounds c) c 0x0504 (laySchedBounds c) false (fun u => good u ∧ c.b 4 21 = false ∧ (u.gaz t).bound ≠ 0 ∧
         (undo u = true ∨ (∀ l ∈ egressLinks (u.gaz t).egress, (put u).admitFail l = none) ∧ (put u).testFabric = true))
       (fun u => (put u).complete c stOk [pack [fld 12 (u.gaz t).gen.toNat, t], 0, 0, 0])))

/-! ### Datum time (Chapter 9) -/

/-- The servo of R263, with theta given as twice its value in 250 ps and the interval as its inverse in 1/s, FREQ and integ in 2^-8 ppb. Outside
HOLDOVER the first measurement orders a step by -theta; the second corrects integ by theta/tx; a later one of more than 1000 ns orders a
step and leaves integ; any other corrects integ by theta/(16 tx). A measurement that orders no step sets FREQ to the clamped sum of integ
and the phase term -theta/(4 tx), clamped to 50000 ppb; one that orders a step sets FREQ to integ. A pending step takes effect at its
boundary: datum time becomes the new time, plus what has passed since the boundary. A time root sends its TIME message on every downstream
link at NS 500,000,000, once. A received message whose boundary is past is ignored, but that it ends the wait of R276 (the model's choice,
log entry 39); one before its boundary keeps the UTC fields and the root's state, and with STEP makes the step pending at its boundary in
place of any other, without it steps to its SECONDS when they differ from the next of the hub. A trigger edge is stamped and fed to the engines at
its instant in the time in force then; one within 200 ns of the last accepted edge only adds to the lost count. An output makes its next
scheduled edge, once its instant is reached and nothing due earlier is left, at that instant or at the step that skipped it. -/
def Obligations.timeServoAndRows : Prop :=
  (∀ (s : State) (th inv : Int), s.time.slewing = false →
     let t := s.time
     let phase := clampI 12800000 (-(8 * th * inv))
     let step (s : State) : State := s.orderStep (-(th * 2 ^ 29)) false
     let b : State := { s with time := { t with lastTheta := th / 2, n := t.n + 1 } }
     let slew (integ : Int) : State :=
       { b with time := { b.time with integ := integ, freq := clampI 128000000 (integ + phase), slewLeft := 0 } }
     let held : State := { b with time := { b.time with freq := clampI 128000000 t.integ, slewLeft := 0 } }
     (t.n = 0 → s.servo th inv 0 = step held) ∧
     (t.n = 1 → s.servo th inv 0 = slew (t.integ - 32 * th * inv)) ∧
     (2 ≤ t.n → th < -8000 ∨ 8000 < th → s.servo th inv 0 = step held) ∧
     (2 ≤ t.n → -8000 ≤ th ∧ th ≤ 8000 → s.servo th inv 0 = slew (t.integ - 2 * th * inv))) ∧
  ((∀ (s : State) (p : Step), s.coreOn = true → s.time.step = some p → p.atSec * 1000000000 * unitNs ≤ s.time.datum →
     exec .timeStepApply s = .next (s.applyStep (p.newT + (s.time.datum - p.atSec * 1000000000 * unitNs)) p.byTime true)) ∧
   (∀ (s t : State) (p : Step), s.coreOn = true → s.time.step = some p → p.atSec * 1000000000 * unitNs ≤ s.time.datum →
     exec .timeStepApply s = .next t → t.time.datum = p.newT + (s.time.datum - p.atSec * 1000000000 * unitNs) ∧ t.time.step = none ∧
       t.time.stepCnt = s.time.stepCnt + 1) ∧
   (∀ (s : State), s.coreOn = true → s.isTimeRoot = true →
     (s.sincePlace (500000000 * unitNs) (1000000000 * unitNs) < s.tickLen ∧ s.time.msgSec ≠ some s.nowSec →
       exec .timeMessageSend s =
         .next (({ s with time := { s.time with msgSec := some s.nowSec } }).sendTime none s.downLinks)) ∧
     (s.tickLen ≤ s.sincePlace (500000000 * unitNs) (1000000000 * unitNs) ∨ s.time.msgSec = some s.nowSec →
       exec .timeMessageSend s = .next s)) ∧
   (∀ (s : State) (ws : List Word),
     let m := nthW ws 2 + 2 ^ 32 * (nthW ws 3 % 65536)
     let heard : Time := { s.time with
       utcValid := bit (nthW ws 0) 22, leap59 := bit (nthW ws 0) 21, leap61 := bit (nthW ws 0) 20, utcOff := BitVec.ofNat 16 (nthW ws 1)
       rootSt := bits (nthW ws 0) 18 16, rootSource := bits (nthW ws 0) 15 13, timeRoot := bits (nthW ws 0) 12 8, gotMsg := some m }
     let u := ({ s with time := heard }).useHeld s.time m
     s.coreOn = true → (s.entry 33).ingress ≠ 7 →
     (m * 1000000000 * unitNs ≤ s.time.datum → s.time.gotMsg ≠ none → exec (.timeMessage ws) s = .next s) ∧
     (m * 1000000000 * unitNs ≤ s.time.datum → s.time.gotMsg = none → s.time.held = none →
       exec (.timeMessage ws) s = .next { s with time := { s.time with gotMsg := some m } }) ∧
     (∀ th add, m * 1000000000 * unitNs ≤ s.time.datum → s.time.gotMsg = none → s.time.held = some (th, add) →
       exec (.timeMessage ws) s = .next (({ s with time := { s.time with gotMsg := some m, held := none } }).useExchange th (s.link 0).xK
         (({ s with time := { s.time with gotMsg := some m } }).fullSeconds th add m))) ∧
     (s.time.datum < m * 1000000000 * unitNs → bit (nthW ws 0) 19 = true →
       let sec := nthW ws 4 + 2 ^ 32 * (nthW ws 5 % 65536)
       exec (.timeMessage ws) s = .next (({ u with time := { u.time with step := none } }).stepAt m
         ((sec * 1000000000 + nthW ws 6) * unitNs + bits (nthW ws 5) 31 16 * 2 ^ 16) false)) ∧
     (s.time.datum < m * 1000000000 * unitNs → bit (nthW ws 0) 19 = false → m ≠ u.nowSec + 1 →
       exec (.timeMessage ws) s = .next (u.orderStep (((m : Int) - (u.nowSec + 1)) * 1000000000 * unitNs) false)) ∧
     (s.time.datum < m * 1000000000 * unitNs → bit (nthW ws 0) 19 = false → m = u.nowSec + 1 → exec (.timeMessage ws) s = .next u)) ∧
   (∀ (s : State) (src since : Nat) (rising : Bool), s.coreOn = true → src < 4 →
     let at' : Int := (s.now250 : Int) - since
     -- the instant of the edge, in the time in force at it
     let place : Nat := (if at' < s.time.stepTo then at' - s.time.stepBy else at').toNat
     let p := s.stamp src
     ((∃ a, p.lastAt = some a ∧ s.now250 < a + since + 800) → exec (.trigEdge src rising since) s = .next
       ((s.setStamp src { p with lost := satAdd 8 p.lost 1 }).feedEdge (if rising then 5 else 6) src place)) ∧
     ((∀ a, p.lastAt = some a → a + since + 800 ≤ s.now250) → exec (.trigEdge src rising since) s = .next
       (((s.stampEvent p src since rising).1.setStamp src (s.stampEvent p src since rising).2).feedEdge
         (if rising then 5 else 6) src place))) ∧
   (∀ (s : State) (pin d : Nat) (x : TimeOut), s.coreOn = true → pin < 2 →
     let y := if pin = 0 then s.time.ppsOut else s.time.timeOut
     let u : State := if pin = 0 then { s with time := { s.time with ppsOut := x } } else { s with time := { s.time with timeOut := x } }
     -- the edge that falls, or the pulse or level that starts
     (y.fallAt = some d ∧ x = { y with active := false, fallAt := none } ∨
       y.fallAt = none ∧ y.next = some d ∧ (y.mode = 1 ∧ x = { y with active := true, fallAt := some (d + y.width), next := some (d + y.period) } ∨
         y.mode = 2 ∧ x = { y with active := true, fallAt := some (d + y.width), next := none } ∨
         y.mode = 3 ∧ x = { y with active := y.level, next := none })) →
     4 * d ≤ s.now250 → s.noneBefore (4 * d) = true →
     (u.timePin pin = s.timePin pin → exec (.timeOutEdge pin) s = .next u) ∧
     (u.timePin pin ≠ s.timePin pin → exec (.timeOutEdge pin) s = .next
       (u.emit (.edge (32 + pin) (u.timePin pin) (max (max (4 * d) s.time.stepTo) x.from250))))))

/-- The rows of the time source complete. An edge of PPS_IN is stamped, and one of the PPS polarity at a root that follows it goes on to R268;
1.5 s without an accepted edge raise PPS_LOST, put the time in HOLDOVER and lose the source; an exchange starts with TMK once at each
scheduled instant and at no other; the child answers TMK and the parent sends TIMEX with t1 and t4 within 50 µs and nothing later; a sound TIMEX
that is valid goes to the servo with theta = (a - b - asym)/2, waits for a TIME message before the first, and one that is not valid counts; a
time-out counts at the child, also when a retrain cut the exchange. -/
def Obligations.timeSourceRows : Prop :=
  (∀ (s : State) (rising : Bool) (since : Nat), s.coreOn = true →
    let r := s.stampEvent (s.stamp 4) 4 since rising
    let u := r.1.setStamp 4 r.2
    exec (.ppsEdge rising since) s = .next
      (if u.isRoot = true ∧ u.time.pps = true ∧ rising ≠ u.time.falling then u.ppsEdge (u.now250 - since) else u)) ∧
  (∀ (s : State) (at' : Nat),
    let u := s.ppsSecond (at' / 4000000000)
    -- theta of R270, twice: the place of the edge in its second, wrapped, less PPSDELAY
    let th : Int := 2 * ((((at' % 4000000000 : Nat) : Int) + 2000000000) % 4000000000 - 2000000000 - u.time.ppsDelay)
    let inside : Bool := decide (-8000000 ≤ th ∧ th ≤ 8000000)
    let soon := ∃ a, u.time.lastPps = some a ∧ at' < a + 2000000000
    let window := u.time.st = .locked ∨ u.time.st = .holdover ∧ u.time.wasLocked = true
    let v := (u.ppsCount inside).ppsQuiet
    (u.time.ppsNoisy = true → u.time.ppsClean < 3 → s.ppsEdge at' = (u.ppsCount inside).ppsDiscard) ∧
    (u.time.ppsNoisy = false ∨ 3 ≤ u.time.ppsClean → ¬ soon → ¬ window ∨ inside = true → s.ppsEdge at' = v.ppsAccept at' th) ∧
    (u.time.ppsNoisy = false ∨ 3 ≤ u.time.ppsClean → soon ∨ window ∧ inside = false → s.ppsEdge at' = v.ppsDiscard)) ∧
  (∀ (s : State), s.coreOn = true → s.isRoot = true → s.time.pps = true → s.time.st ≠ .holdover →
    (∀ a, s.time.lastPps = some a → a + 6000000000 ≤ s.now250) → s.time.ppsFrom + 6000000000 ≤ s.now250 →
    exec .ppsLost s = .next ((s.holdTime.timeAlert 1 stTimeout 0 0 0).loseTime 3)) ∧
  (∀ (s : State) (l cross : Nat), s.coreOn = true → s.linkPresent l = true → s.upLink l = false → s.linkUp l = true →
    (∀ at', s.exchDue l = some at' → at' ≠ (s.link l).xLast → exec (.timeExchangeStart l cross) s = .next
      ((s.modLink l fun k => { k with xT1 := at' / unit250 + cross, xWait := true, xSeq := k.xSeq + 1, xLast := at' }).sendSym l .tmk)) ∧
    (s.exchDue l = none ∨ s.exchDue l = some (s.link l).xLast → exec (.timeExchangeStart l cross) s = .next s)) ∧
  (∀ (s : State) (l reply since : Nat), s.coreOn = true → s.linkPresent l = true → s.linkUp l = true → s.upLink l = true →
    exec (.tmkReceive l reply since) s = .next (({ s with time := { s.time with
      t2 := s.ago since, t3 := s.ago since + reply, xOpen := true, xBad := false } }).sendSym l .tmk)) ∧
  (∀ (s : State) (l reply since : Nat), s.coreOn = true → s.linkPresent l = true → s.linkUp l = true → s.upLink l = false →
    (s.link l).xWait = true →
    let k := s.link l
    let u := s.setLink l { k with xWait := false }
    exec (.tmkReceive l reply since) s = .next (if k.xT1 + 200000 < s.ago since then u else u.sendSym l (.timex k.xSeq (u.exchK l)
      (k.xT1 / 4000000000 % 65536) (k.xT1 % 4000000000) (s.ago since % 4000000000) (u.board.asym.read 0 (linkPort l)) u.time.step.isSome
      (decide (u.time.st = .holdover)) (decide (u.time.st = .locked))))) ∧
  (∀ (s0 : State) (l pcode secLo t1 t4 : Nat) (seq : BitVec 8) (asym : Int) (sp hold lock : Bool) (w : Wave),
    let s := (s0.takeLcp l w).1
    let t := s.time
    let a := wrapSec ((t.t2 : Int) - t1)
    let b := wrapSec ((t4 : Int) - t.t3)
    let th := a - b - asym
    let sum : Int := t.delays.foldl (· + ·) 0
    let n : Int := t.delays.length
    let k := s.link l
    let good := (k.xSync = true → seq = k.xSeq) ∧ t.xBad = false ∧ k.lane.los = false ∧ 0 ≤ a + b ∧ a + b ≤ 16000 ∧
      (n * (a + b) - sum).natAbs ≤ 160 * n
    -- the seconds of t1 beyond those of the child's own time at that instant
    let add := (((secLo : Int) - ((2 * (t.t2 : Int) - th - (a + b)) / 2 - t1 + 2000000000) / 4000000000) % 65536).toNat
    let u := s.setLink l { k with xK := pcode, xSync := true, xSeq := seq + 1 }
    let v : State := { u with time := { t with delays := ((a + b) :: t.delays).take 16, invalRun := 0, xOpen := false } }
    s0.coreOn = true → s0.upLink l = true → s0.linkPresent l = true → s0.linkUp l = true → s0.time.xOpen = true →
    ((s0.takeLcp l w).2 = none → exec (.timexReceive l w) s0 = .next s) ∧
    ((s0.takeLcp l w).2 = some (.timex seq pcode secLo t1 t4 asym sp hold lock) →
      (¬ good → exec (.timexReceive l w) s0 = .next u.exchInvalid) ∧
      (∀ m, good → t.gotMsg = some m → exec (.timexReceive l w) s0 =
        .next (v.useExchange th pcode (if t.n = 0 ∨ t.slewing = true then v.fullSeconds th add m else 0))) ∧
      (good → t.gotMsg = none → t.held ≠ none → exec (.timexReceive l w) s0 = .next v) ∧
      (good → t.gotMsg = none → t.held = none → exec (.timexReceive l w) s0 =
        .next { v with time := { v.time with held := some (th, add) } }))) ∧
  (∀ (s : State) (l : Nat), s.coreOn = true → s.linkPresent l = true → s.upLink l = true →
    (s.linkUp l = true ∨ s.time.xOpen = true →
      exec (.exchangeInvalidTimeout l) s = .next ((s.modLink l fun k => { k with xSeq := k.xSeq + 1 }).exchInvalid)) ∧
    (s.linkUp l = false → s.time.xOpen = false → exec (.exchangeInvalidTimeout l) s = .next s)) ∧
  (∀ (s : State) (l : Nat), s.coreOn = true → s.linkPresent l = true → s.upLink l = false →
    exec (.exchangeInvalidTimeout l) s = .next (s.modLink l fun k => { k with xWait := false }))

/-- TIME_QUERY returns the words of Table 9.5. TIME_SET orders the step of SETTIME and keeps the UTC fields of SETUTC for the next TIME message;
TIME_ADJUST sets FREQ and steps or slews; TIME_SOURCE sets the source, its edge and its delay; each is taken from slice 0 of the root only.
TIME_STAMP_ARM arms and disarms an input; TIME_OUT_CFG configures a pin: no pulse is under way, its schedule starts anew, and it is driven at its
inactive level where the mode lets it. -/
def Obligations.timeCommands : Prop :=
  let mine (c : Cmd) (u : State) : Prop := (c.sys = true ∧ c.hub = 0 ∨ u.fromRoot0 c = true) ∧ u.isRoot = true
  (∀ c : Cmd, Completes (.timeQuery c) c 0x0600 (layTimeQuery c) true (fun _ => c.b 4 0 = false)
    (fun u => u.complete c stOk (timeWords u.time.datum ++ [u.timeW7]))) ∧
  (∀ c : Cmd, Completes (.timeQuery c) c 0x0600 (layTimeQuery c) true (fun u => c.b 4 0 = true ∧ (u.time.delays = [] ∨ u.isRoot = true))
    (fun u => u.complete c stOk [word (unsigned 32 u.time.freq), word (unsigned 32 u.time.lastTheta), word (unsigned 32 0),
      pack [fld 16 u.time.ppsExtra, u.time.exchReject]])) ∧
  (∀ c : Cmd, Completes (.timeQuery c) c 0x0600 (layTimeQuery c) true (fun u => c.b 4 0 = true ∧ u.time.delays ≠ [] ∧ u.isRoot = false)
    (fun u => u.complete c stOk [word (unsigned 32 u.time.freq), word (unsigned 32 u.time.lastTheta),
      word (unsigned 32 (u.time.delays.foldl (· + ·) 0 / (2 * u.time.delays.length))), pack [fld 16 u.time.ppsExtra, u.time.exchReject]])) ∧
  (∀ c : Cmd, Completes (.timeSet c) c 0x0601 (layTimeSet c) false (fun u => mine c u ∧ u.time.step = none ∧ c.w 4 < 1000000000 ∧
      c.b 7 0 = true ∧ c.b 7 1 = false ∧ (u.time.pps = true → c.w 4 = 0))
    (fun u => (u.stepAt u.stepSec (((c.w 5 + 2 ^ 32 * c.f 6 15 0) * 1000000000 + c.w 4) * unitNs) true).complete c stOk [])) ∧
  (∀ c : Cmd, Completes (.timeSet c) c 0x0601 (layTimeSet c) false (fun u => mine c u ∧ u.time.step = none ∧ c.w 4 < 1000000000 ∧
      c.b 7 0 = false ∧ c.b 7 1 = true)
    (fun u => ({ u with time := { u.time with utcPend := some (c.b 7 4, c.b 7 3, c.b 7 2, c.f 6 31 16) } }).complete c stOk [])) ∧
  (∀ c : Cmd, Completes (.timeSet c) c 0x0601 (layTimeSet c) false (fun u => mine c u ∧ u.time.step ≠ none)
    (fun u => u.complete c stBusy [])) ∧
  (∀ c : Cmd,
    let f (u : State) : Int :=
      if c.b 6 0 then signed 32 (c.w 5) + (if c.b 6 1 then u.time.freq else 0) else u.time.freq
    let set (u : State) : State := { u with time := { u.time with freq := f u } }
    let good (u : State) : Prop := mine c u ∧ u.time.pps = false ∧ u.time.step = none ∧ -128000000 ≤ f u ∧ f u ≤ 128000000
    Completes (.timeAdjust c) c 0x0602 (layTimeAdjust c) false (fun u => good u ∧ c.b 6 2 = false) (fun u => (set u).complete c stOk []) ∧
    Completes (.timeAdjust c) c 0x0602 (layTimeAdjust c) false (fun u => good u ∧ c.b 6 2 = true ∧ c.b 6 3 = true)
      (fun u => ((set u).orderStep (signed 32 (c.w 4) * unitNs) false).complete c stOk []) ∧
    Completes (.timeAdjust c) c 0x0602 (layTimeAdjust c) false (fun u => good u ∧ c.b 6 2 = true ∧ c.b 6 3 = false)
      (fun u => ({ set u with time := { (set u).time with slewLeft := signed 32 (c.w 4) * unitNs } }).complete c stOk [])) ∧
  (∀ c : Cmd, Completes (.timeSource c) c 0x0603 (layTimeSource c) false (fun u => mine c u ∧ u.time.pps = false ∧ c.b 4 0 = true)
    (fun u =>
      let t := u.time
      ({ u with time := { t.acquire with
        falling := c.b 4 2, ppsDelay := signed 32 (c.w 5), pps := true, lastPps := none, ppsFrom := u.now250, ppsSec := u.nowSec
        ppsNoisy := false, ppsOutSecs := 0, ppsSecIn := 0, ppsSecOut := 0, ppsSecExtra := 0, ppsClean := 0 } }).complete c stOk [])) ∧
  (∀ c : Cmd, Completes (.timeSource c) c 0x0603 (layTimeSource c) false (fun u => mine c u ∧ u.time.pps = true ∧ c.b 4 0 = false)
    (fun u => ({ u with time := { u.time.unlock with
        falling := c.b 4 2, ppsDelay := signed 32 (c.w 5), pps := false
        st := if u.time.st = TimeSt.locked then TimeSt.free else TimeSt.unset, slewing := false, recovered := true } }).tryReturn.complete
      c stOk [])) ∧
  (∀ c : Cmd, Completes (.timeSource c) c 0x0603 (layTimeSource c) false (fun u => mine c u ∧ u.time.pps = c.b 4 0)
    (fun u => ({ u with time := { u.time with falling := c.b 4 2, ppsDelay := signed 32 (c.w 5) } }).complete c stOk [])) ∧
  (∀ c : Cmd,
    let p (u : State) := u.stamp (c.f 4 7 0)
    let free (u : State) : Prop := (p u).edge = 0 ∨ (p u).hub = u.cmdHub c ∧ (p u).slice = c.slice
    Completes (.timeStampArm c) c 0x0604 (layTimeStampArm c) false (fun u => u.mayUse c 4 (c.f 4 7 0) = true ∧ c.f 4 9 8 = 0 ∧
        (free u ∨ u.authZ c = true)) (fun u => (u.setStamp (c.f 4 7 0) { p u with edge := 0 }).complete c stOk []) ∧
    Completes (.timeStampArm c) c 0x0604 (layTimeStampArm c) false (fun u => u.mayUse c 4 (c.f 4 7 0) = true ∧ c.f 4 9 8 ≠ 0 ∧ free u)
      (fun u => (u.setStamp (c.f 4 7 0) { p u with
        edge := c.f 4 9 8, once := c.b 4 10, slice := c.slice, hub := u.cmdHub c, seq := 0 }).complete c stOk [])) ∧
  (∀ (c : Cmd) (i : Nat), Completes (.timeOutCfg c) c 0x0605 (layTimeOutCfg c) false (fun u => u.mayUse c 4 (5 + c.f 4 0 0) = true ∧
      timeOutOk (c.f 4 0 0) (c.f 4 3 1) (c.w 5) (c.w 6) (c.w 7) = true ∧ u.compactField c 8 = some i)
    (fun u => (u.setTimeOut (c.f 4 0 0) {
      mode := c.f 4 3 1, invert := c.b 4 5, level := c.b 4 4, period := c.w 5, offset := c.w 6
      width := c.w 7, instant := i, active := false, configured := true }).complete c stOk [])) ∧
  (∀ (s : State) (pin : Nat) (x : TimeOut), pin < 2 →
    (s.setTimeOut pin x).timeOutOf pin = { x with active := false, fallAt := none, next := s.firstEdge x, from250 := s.now250 } ∧
    (s.setTimeOut pin x).timePin pin = (s.timeOutsOn && x.configured && x.invert))

/-! ### Traverse engines (Chapter 10) -/

/-- A flow leg of an engine that may run it takes its effect, counted, with the limit on legs applied. WAIT_UNTIL sets D, and REF with REANCHOR,
to the base plus OFFSET, and waits until LEAD before it; WAIT_FOR ends at once on a condition that holds, waits otherwise and raises DENIED
on a pin that is not an input; the waits end with C, EVT and D as R305 says, an edge included; LOOP and BRANCH set PC; END returns the
engine to IDLE and reports DONE. A timed leg whose pins, controller, head or link its engine may use hands over its effect for E = D + DELTA
when there is room and 40 ns remain, and goes on; a pin leg on another pin, and a leg without its grant, raise DENIED, and a GATE_SWITCH to
an empty slot BADLEG. Without room the engine waits. A late effect is dropped and goes on under SKIP, and raises LATE under HALT. -/
def Obligations.engineLegs : Prop :=
  ((∀ (s : State) (e v : Nat), s.legRuns e 0x00 v →
     let u := s.countLeg e
     exec (.legEnd e) s = .next (((u.modEngine e fun x => { x with st := .idle, health := false, launchId := none }).travEvent e
       { event := 1, data := word (lf v 31 0) }).legLimit e (s.engine e).pc)) ∧
   (∀ (s : State) (e v : Nat), s.legRuns e 0x01 v →
     let u := s.countLeg e
     let x := u.engine e
     let b := if lf v 57 56 = 0 then x.ref else if lf v 57 56 = 1 then (x.d / 4000000000 + 1) * 4000000000 else x.evt
     let w := b + lf v 47 0
     let t := u.setD e w (if bit v 55 then w else x.ref)
     exec (.legWaitUntil e) s = .next ((if t.now250 + 4000 * x.lead < w then t.startWait e (.untilAt w) else t.adv e).legLimit e
       (s.engine e).pc)) ∧
   (∀ (s : State) (e w : Nat),
     let x := s.engine e
     s.working = true → x.st = .waiting → x.wait = .untilAt w → w ≤ s.now250 + 4000 * x.lead → s.noneBefore (w - 4000 * x.lead) = true →
     exec (.waitUntilRelease e) s = .next ((s.setEngine e { x with st := .running, wait := .none }).adv e)) ∧
   (∀ (s : State) (e v : Nat), s.legRuns e 0x02 v →
     let u := s.countLeg e
     let kind := lf v 57 55
     let idx := lf v 54 50
     let t := lf v 47 24
     let isPin := 1 ≤ kind ∧ kind ≤ 4
     (isPin → (u.act idx).mode ≠ 4 → exec (.legWaitFor e) s = .next ((u.exception e 3).legLimit e (s.engine e).pc)) ∧
     ((isPin → (u.act idx).mode = 4) → u.condNow e kind idx = true →
       exec (.legWaitFor e) s = .next (((((if kind = 0 then u.clearFlag e idx else u).endWait e u.now250 true).setRunLegs e
         (u.engine e).runLegs)).legLimit e (s.engine e).pc)) ∧
     ((isPin → (u.act idx).mode = 4) → u.condNow e kind idx = false →
       exec (.legWaitFor e) s = .next ((u.startWait e (.cond kind idx (if t = 0 then 0 else u.now250 + 4000 * t))).legLimit e
         (s.engine e).pc))) ∧
   (∀ (s : State) (e k i t : Nat), s.working = true → (s.engine e).st = .waiting → (s.engine e).wait = .cond k i t →
     (s.condNow e k i = true →
       exec (.waitForMet e) s = .next ((if k = 0 then s.clearFlag e i else s).endWait e s.now250 true)) ∧
     (t ≠ 0 → t ≤ s.now250 → exec (.waitForTimeout e) s = .next (s.endWait e t false)) ∧
     (∀ at', s.feedOne k i at' e = s.endWait e at' true)) ∧
   (∀ (s : State) (e v : Nat), s.legRuns e 0x0D v →
     let u := s.countLeg e
     let x := u.engine e
     let k := lf v 57 56
     let n := if bit x.ctrAct.toNat k then x.ctrs.read 0 k else lf v 31 0
     let on : BitVec 4 := x.ctrAct ||| BitVec.ofNat 4 (2 ^ k)
     let set (m : Nat) (act : BitVec 4) : State := u.setEngine e { x with ctrs := x.ctrs.write 0 k m, ctrAct := act }
     exec (.legLoop e) s = .next ((if n = 0 then (set 0 on).jump e (lf v 46 32)
       else if n = 1 then (set 1 (on &&& ~~~(BitVec.ofNat 4 (2 ^ k)))).adv e
       else (set (n - 1) on).jump e (lf v 46 32)).legLimit e (s.engine e).pc)) ∧
   (∀ (s : State) (e v : Nat), s.legRuns e 0x0E v →
     let u := s.countLeg e
     let x := u.engine e
     let c := lf v 57 55
     let set := bit x.flags.toNat (lf v 54 52)
     let go := c = 0 ∨ c = 1 ∧ x.c = true ∨ c = 2 ∧ x.c = false ∨ c = 3 ∧ set = true ∨ c = 4 ∧ set = false
     let t := if c = 3 ∧ set = true then u.clearFlag e (lf v 54 52) else u
     (go → exec (.legBranch e) s = .next ((t.jump e (lf v 46 32)).legLimit e (s.engine e).pc)) ∧
     (¬ go → exec (.legBranch e) s = .next ((t.adv e).legLimit e (s.engine e).pc)))) ∧
  ((∀ (s : State) (e v kind : Nat), s.legRuns e kind v →
     let u := s.countLeg e
     let o := u.engOwner e
     let due := (u.engine e).d + lf v 19 0
     let hand (k : EffKind) : Host.Outcome State Fault Refusal :=
       .next (((u.setEffects (u.trav.effects ++ [{ eng := e, due := due, kind := k }])).adv e).legLimit e (s.engine e).pc)
     let denied : Host.Outcome State Fault Refusal := .next ((u.exception e 3).legLimit e (s.engine e).pc)
     let ready := u.trav.effects.length < 256 ∧ (u.trav.effects.filter fun g => decide (g.eng = e)).length < 16 ∧ u.now250 + 160 ≤ due
     (kind = 0x03 →
       let mask := lf v 55 48 <<< (8 * lf v 57 56)
       ((∀ n < 32, bit mask n = true → u.pinMay e n = true) → ready →
         exec (.legSetPin e) s = hand (.pins mask (lf v 47 40 <<< (8 * lf v 57 56)))) ∧
       ((∃ n < 32, bit mask n = true ∧ u.pinMay e n = false) → exec (.legSetPin e) s = denied)) ∧
     (kind = 0x04 →
       (u.pinMay e (lf v 57 52) = true → ready → exec (.legPulsePin e) s = hand (.pulse (lf v 57 52) (bit v 51) (lf v 49 20) false)) ∧
       (u.pinMay e (lf v 57 52) = false → exec (.legPulsePin e) s = denied)) ∧
     (kind = 0x05 →
       (u.pinMay e (lf v 57 52) = true → ready → exec (.legPwmPin e) s = hand (.pwm (lf v 57 52)
         { period := 4000 * lf v 49 32, high := 4 * lf v 49 32 * lf v 31 22, inverted := !bit v 51, eng := e, nextAt := 0 })) ∧
       (u.pinMay e (lf v 57 52) = false → exec (.legPwmPin e) s = denied)) ∧
     (kind = 0x08 →
       let i := lf v 47 33
       let w0 := u.leg i % 2 ^ 32
       let w1 := u.leg i / 2 ^ 32
       let n := ceilDiv (bits w1 6 0) 8
       (u.sliceMay o.1 o.2 9 (lf v 57 57) = true → (∀ k < 2 + n, u.legMay o (i + k) = true) → canOk w0 w1 = true → ready →
         exec (.legSendCan e) s = hand (.can (lf v 57 57) (word w0) (word w1)
           (((List.range n).flatMap fun k => leBytes 8 (u.leg (i + 2 + k))).take (bits w1 6 0)))) ∧
       (u.sliceMay o.1 o.2 9 (lf v 57 57) = false → exec (.legSendCan e) s = denied)) ∧
     (kind = 0x0A →
       (u.sliceMay o.1 o.2 5 (lf v 57 57) = true → ready → exec (.legDispCommit e) s = hand (.disp (lf v 57 57))) ∧
       (u.sliceMay o.1 o.2 5 (lf v 57 57) = false → exec (.legDispCommit e) s = denied)) ∧
     (kind = 0x0B →
       let l := lf v 57 55
       let slot := lf v 54 52
       let loaded := slot = 4 ∨ ((u.link l).sched.gates.read GateSlot.init slot).loaded = true
       (u.sliceMay o.1 o.2 0 l = true → loaded → ready → exec (.legGateSwitch e) s = hand (.gate l slot)) ∧
       (u.sliceMay o.1 o.2 0 l = true → ¬ loaded → exec (.legGateSwitch e) s = .next ((u.exception e 1).legLimit e (s.engine e).pc)) ∧
       (u.sliceMay o.1 o.2 0 l = false → exec (.legGateSwitch e) s = denied))) ∧
   (∀ (s : State) (e due : Nat) (k : EffKind),
     let fx := s.trav.effects
     let x := s.engine e
     let counted := s.setEngine e { x with lateCnt := satAdd 16 x.lateCnt 1, lateRep := x.lateRep + 1 }
     (256 ≤ fx.length ∨ 16 ≤ (fx.filter fun g => decide (g.eng = e)).length → s.handOver e due k = none) ∧
     (fx.length < 256 → (fx.filter fun g => decide (g.eng = e)).length < 16 → due < s.now250 + 160 → s.passed x.lateAt 400000 = false →
       (x.latePol = 2 → s.handOver e due k = some (counted.exception e 4)) ∧
       (x.latePol = 1 → s.handOver e due k = some (counted.adv e)))))

/-- An effect leg of an engine whose D has come: WRITE_REG writes a register of its own hub or posts REG_WRITE to another; READ_CHECK sets C
from a register of its own hub or waits for REG_REPLY; SEND_MSG sends on its own TRAV tunnel, drops the message with C clear when the tunnel
is not OPEN, raises DENIED on another tunnel, and reports MSG with TOHOST; MARK reports; START_ENGINE starts an IDLE engine of the same
owner and raises DENIED or BUSYENG otherwise. A register that the owner may not use raises DENIED. -/
def Obligations.effectLegs : Prop :=
  ∀ (s : State) (e v kind : Nat),
    let u := s.countLeg e
    let o := u.engOwner e
    let x := u.engine e
    let done (t : State) : Host.Outcome State Fault Refusal := .next (t.legLimit e (s.engine e).pc)
    s.legRuns e kind v → x.d ≤ u.now250 →
    (kind = 0x06 →
      (∀ t, u.regLocal v = true → u.regWrite o.1 o.2 (regOff v) (lf v 31 0) = some t → exec (.legWriteReg e) s = done (t.adv e)) ∧
      (u.regLocal v = true → u.regWrite o.1 o.2 (regOff v) (lf v 31 0) = none → exec (.legWriteReg e) s = done (u.exception e 3)) ∧
      (u.regLocal v = false → exec (.legWriteReg e) s =
        done (((u.emit (.ctrl (lf v 57 53) 0x20 (u.regMsg 0x20 e v (lf v 31 0)) [])).modEngine e fun x => { x with
          rseq := x.rseq + 1 }).adv e))) ∧
    (kind = 0x07 →
      (∀ t w, u.regLocal v = true → u.regRead o.1 o.2 (regOff v) = (t, some w) →
        exec (.legReadCheck e) s = done (t.advC e (readCheck v w.toNat))) ∧
      (∀ t, u.regLocal v = true → u.regRead o.1 o.2 (regOff v) = (t, none) → exec (.legReadCheck e) s = done (t.exception e 3)) ∧
      (u.regLocal v = false → exec (.legReadCheck e) s =
        done ((u.emit (.ctrl (lf v 57 53) 0x21 (u.regMsg 0x21 e v 0) [])).modEngine e fun x => { x with
          st := .waiting, wait := .reg x.rseq.toNat v, rseq := x.rseq + 1 }))) ∧
    (kind = 0x09 →
      let g := u.entry (lf v 56 45)
      let own := g.cls = clsTrav ∧ g.ingress = 7 ∧ g.srcEp = 0x800 + e
      (bit v 57 = true → exec (.legSendMsg e) s = done ((u.travEvent e
        { event := 3, data := word (lf v 31 0), code := lf v 44 42, mask := pack [fld 5 e, u.hubNo] }).advC e true)) ∧
      (bit v 57 = false → ¬ own → exec (.legSendMsg e) s = done (u.exception e 3)) ∧
      (bit v 57 = false → own → g.state ≠ gOpen → exec (.legSendMsg e) s = done (u.advC e false)) ∧
      (bit v 57 = false → own → g.state = gOpen → exec (.legSendMsg e) s = done ((u.sendTunnel (lf v 56 45) false (bytesOf
        [pack [fld 10 e, lf v 44 42], word (lf v 31 0), compactNs u.nowNs, compactSec u.nowNs])).advC e true))) ∧
    (kind = 0x0C →
      (bit v 49 = true → exec (.legMark e) s = done (u.adv e)) ∧
      (bit v 49 = false → exec (.legMark e) s =
        done ((u.travEvent e { event := 2, data := word (lf v 31 0), code := lf v 57 50 }).adv e))) ∧
    (kind = 0x0F →
      let n := lf v 57 53
      (u.engOwner n ≠ o → exec (.legStartEngine e) s = done (u.exception e 3)) ∧
      (u.engOwner n = o → (u.engine n).st ≠ .idle → exec (.legStartEngine e) s = done (u.exception e 6)) ∧
      (u.engOwner n = o → (u.engine n).st = .idle → exec (.legStartEngine e) s =
        done ((u.startEngine x n (lf v 46 32) (if bit v 52 then x.d else u.now250)).adv e)))

/-- The effect due first is taken once its instant is reached and nothing due earlier is left, its edges at that instant or at the step that
skipped it and on pins in ENGINE mode alone, and a pulse leaves its trailing edge; a period of a PWM output starts, with a change waiting
taken; an ARMED engine runs from its ENTRY with REF and D at its launch instant; REG_WRITE and REG_READ act with the sender's rights and are
refused with REMOTE_DENIED or status 12h; REG_REPLY sets C, and none within 100 µs raises REMOTE; a TRAV message sets an engine's flag and
MSG, or goes to the exit slice; an edge of an INPUT pin is stamped and fed to the engines that wait. A hub that can answers READY and
prepares its engines, and any other answers with the first failure; the root counts a READY and commits when every hub has answered and T is
50 µs away, and aborts on a refusal or at the deadline; COMMIT arms the prepared engines, and one that comes after T - 20 µs returns them to
IDLE with TIMEOUT, as the time-out without COMMIT does; ABORT returns them to IDLE; LAUNCHED from every hub ends the launch, and one that is
missing 1 ms after T is reported as PARTIAL. -/
def Obligations.engineRows : Prop :=
  ((∀ (s : State) (f : Effect) (rest : List Effect), s.working = true → s.trav.effects = f :: rest → f.due ≤ s.now250 →
     (∀ g ∈ rest, f.due ≤ g.due) → s.noneBefore f.due = true →
     exec .effectInstant s = .next (match (s.setEffects rest).takeEffect f (max f.due s.time.stepTo) with
       | (t, some g) => t.setEffects (g :: t.trav.effects)
       | (t, none) => t)) ∧
   (∀ (s : State) (f : Effect) (at' : Nat),
     -- only a pin in ENGINE mode takes an effect
     let put (s : State) (n : Nat) (lv : Bool) : State := if (s.act n).mode ≠ 3 then s else
       (s.setAct n { s.act n with level := lv, pwm := none, pwmNext := none, safe := false }).emit (.edge n lv at')
     (∀ mask levels, f.kind = .pins mask levels →
       s.takeEffect f at' = (((List.range 32).filter fun n => bit mask n).foldl (fun s n => put s n (bit levels n)) s, none)) ∧
     (∀ n lv w, f.kind = .pulse n lv w false →
       s.takeEffect f at' = (put s n lv, some { f with due := f.due + w, kind := .pulse n lv w true })) ∧
     (∀ n lv w, f.kind = .pulse n lv w true → s.takeEffect f at' = (put s n (!lv), none))) ∧
   (∀ (s : State) (n : Nat) (p : PwmCfg), s.working = true → (s.act n).pwm = some p → p.nextAt ≤ s.now250 →
     exec (.pwmPeriodStart n) s = .next (s.pwmStart n ((s.act n).pwmNext.getD p) p.nextAt (p.nextAt + p.period))) ∧
   (∀ (s : State) (e : Nat), s.working = true → e < 32 → (s.engine e).st = .armed →
     (s.engine e).launchAt ≤ s.now250 + 4000 * (s.engine e).lead → s.noneBefore ((s.engine e).launchAt - 4000 * (s.engine e).lead) = true →
     let t := s.modEngine e fun x => { x with
       st := .running, pc := x.entry, ref := (s.engine e).launchAt, d := (s.engine e).launchAt }
     let l := s.trav.prep.map fun p => if (s.engine e).launchId = some p.id then { p with launched := true } else p
     let go (p : PrepRec) : Bool := p.launched && decide (p.due ≤ s.now250)
     exec (.engineLaunch e) s = .next
       ((l.filter go).foldl (fun s p => s.launchReply 0x1C 0 p.words) { t with trav := { t.trav with prep := l.filter fun p => !go p } })) ∧
   (∀ (s : State) (ws : List Word), s.coreOn = true →
     let w0 := nthW ws 0
     let w1 := nthW ws 1
     let off := (if bit w1 16 then 0x100000 else 0) + 4 * (w1 % 65536)
     (∀ t, s.regWrite (bits w0 15 11) (bits w0 21 16) off (nthW ws 2) = some t → exec (.regWrite ws) s = .next t) ∧
     (s.regWrite (bits w0 15 11) (bits w0 21 16) off (nthW ws 2) = none → exec (.regWrite ws) s =
       .next (s.report (bits w0 15 11) (bits w0 21 16) 7 stDenied (bits w0 10 6)
         [pack [fld 8 (bits w0 10 6), 9], word off, 0, word s.hubNo])) ∧
     (∀ t v, s.regRead (bits w0 15 11) (bits w0 21 16) off = (t, v) → exec (.regRead ws) s = .next (t.emit (.ctrl (bits w0 15 11) 0x22
       [pack [fld 24 0x22, fld 16 (if v.isSome then stOk else stDenied), fld 11 t.hubNo], word w1, v.getD 0,
        pack [fld 8 (bits w0 10 6), nthW ws 3 % 256]] [])))) ∧
   (∀ (s : State) (ws : List Word) (v : Nat),
     let e := bits (nthW ws 3) 12 8
     let x := s.engine e
     s.working = true → x.st = .waiting → x.wait = .reg (nthW ws 3 % 256) v →
     (bits (nthW ws 0) 23 16 = stOk →
       exec (.regReply ws) s = .next ((s.setEngine e { x with st := .running, wait := .none, c := readCheck v (nthW ws 2) }).adv e)) ∧
     (bits (nthW ws 0) 23 16 ≠ stOk → exec (.regReply ws) s = .next (s.exception e 3))) ∧
   (∀ (s : State) (e q v : Nat), s.working = true → (s.engine e).st = .waiting → (s.engine e).wait = .reg q v →
     exec (.remoteReadTimeout e) s = .next (s.exception e 5)) ∧
   (∀ (s : State) (tid src : Nat) (bytes : List Byte),
     let g := s.entry tid
     let w0 := fromLe (bytes.take 4)
     let data := word (fromLe ((bytes.drop 4).take 4))
     s.coreOn = true → g.state ≠ gClosed → g.loc = true → g.cls = clsTrav → bytes.length = 16 →
     w0 &&& (2 ^ 32 - 1 - mk 15 10 - mk 2 0) = 0 →
     (epSlice g.dstEp = none → epBlock g.dstEp = 8 → exec (.travMessage tid src bytes) s =
       .next (s.modEngine (epIndex g.dstEp) fun x => { x with flags := x.flags ||| BitVec.ofNat 8 (2 ^ bits w0 2 0), msg := data })) ∧
     (∀ k, epSlice g.dstEp = some k → exec (.travMessage tid src bytes) s =
       .next (s.report s.selfNo k 7 stOk 0 [pack [3], data, pack [fld 24 (bits w0 2 0)],
         pack [fld 10 (b2n (bit w0 15)), fld 5 (bits w0 14 10), src]]))) ∧
   (∀ (s : State) (n since : Nat) (rising : Bool), s.working = true → n < 32 → (s.act n).mode = 4 →
     let r := s.stampEdge (s.act n).stamp (0x20 + n) since rising
     let at' : Int := (s.now250 : Int) - since
     exec (.actInputEdge n rising since) s =
       .next ((r.1.setAct n { s.act n with input := rising, stamp := r.2.1 }).feedEdge (if rising then 1 else 2) n
         (if at' < s.time.stepTo then at' - s.time.stepBy else at').toNat))) ∧
  ((∀ (s : State) (ws : List Word),
     let id := BitVec.ofNat 8 (bits (nthW ws 0) 23 16)
     let es := maskEngines (nthW ws 1)
     let w5 := nthW ws 5
     let due := 4 * resolveCompact s.nowNs (nthW ws 2) (nthW ws 3)
     let st := s.prepareStatus id es (bits (nthW ws 4) 4 0) (bits (nthW ws 4) 10 5)
     let ready (s : State) (e : Nat) : State :=
       (if (s.engine e).st = .idle then s.wakeEngine e .prepared else s).modEngine e fun x => { x with
         launchId := some id, launchAt := due, lead := bits w5 7 0, latePol := bits w5 10 9, stepPause := bit w5 8, excSafe := bit w5 11 }
     let t := es.foldl ready s
     let p : PrepRec := { id := id, mask := BitVec.ofNat 32 (nthW ws 1), due := due, rhub := bits (nthW ws 4) 4 0,
                          rslice := bits (nthW ws 4) 10 5, w5 := word w5, committed := false }
     s.coreOn = true →
     (st ≠ stOk → exec (.prepare ws) s = .next (s.launchReply 0x19 st ws)) ∧
     (st = stOk → exec (.prepare ws) s =
       .next (({ t with trav := { t.trav with prep := p :: t.trav.prep.filter fun q => decide (q.id ≠ id) } }).launchReply 0x19 stOk ws))) ∧
   (∀ (s : State) (ws : List Word) (x : Launch),
     let id := BitVec.ofNat 8 (bits (nthW ws 0) 23 16)
     let h := bits (nthW ws 0) 4 0
     s.coreOn = true → s.launchOf id = some x → x.hubs.contains h = true →
     (x.committed = false → bits (nthW ws 0) 15 8 = stOk →
       exec (.ready ws) s = .next ((s.setLaunch { x with ready := if x.ready.contains h then x.ready else h :: x.ready }).tryCommit id)) ∧
     (x.committed = false → bits (nthW ws 0) 15 8 ≠ stOk → exec (.ready ws) s =
       .next (s.abortLaunch { x with refused := x.refused ++ [(h, bits (nthW ws 0) 15 8)] })) ∧
     (x.committed = true →
       let l := if x.launched.contains h then x.launched else h :: x.launched
       exec (.launched ws) s = .next (if x.hubs.all (fun n => l.contains n) then s.dropLaunch id else s.setLaunch { x with launched := l }))) ∧
   (∀ (s : State) (ws : List Word) (p : PrepRec),
     let id := BitVec.ofNat 8 (bits (nthW ws 0) 23 16)
     s.coreOn = true → s.trav.prep.find? (fun p => decide (p.id = id)) = some p → p.committed = false →
     (p.due < s.now250 + 80000 → exec (.commit ws) s = .next (s.unprepare p stTimeout true)) ∧
     (s.now250 + 80000 ≤ p.due → exec (.commit ws) s = .next (
       let t := (maskEngines p.mask.toNat).foldl (fun (s : State) e => s.modEngine e fun x =>
         if x.st = .prepared ∧ x.launchId = some id then { x with st := .armed } else x) s
       { t with trav := { t.trav with prep := t.trav.prep.map fun q => if q.id = id then { q with committed := true } else q } })) ∧
     exec (.abort ws) s = .next (s.unprepare p stAborted false)) ∧
   (∀ (s : State) (id : BitVec 8) (x : Launch), s.coreOn = true → s.launchOf id = some x →
     (x.committed = false → x.due ≤ s.now250 + 200000 → exec (.launchReadyDeadline id) s = .next (s.abortLaunch x)) ∧
     (x.committed = true → x.due + 4000000 ≤ s.now250 → exec (.launchPartialTimeout id) s =
       .next ((s.dropLaunch id).report (s.cmdHub x.cmd) x.cmd.slice 7 stLinkLost 0
         [pack [8], 0, pack [fld 16 id.toNat], word (sumN ((x.hubs.filter fun h => !x.launched.contains h).map fun h => 2 ^ h))]))) ∧
   (∀ (s : State) (id : BitVec 8) (p : PrepRec), s.coreOn = true → s.trav.prep.find? (fun p => decide (p.id = id)) = some p →
     p.committed = false → p.due ≤ s.now250 + 80000 → exec (.preparedTimeout id) s = .next (s.unprepare p stTimeout true)))

/-- TRAV_LOAD writes its legs whole and sets ENTRY; TRAV_READ_LEGS and TRAV_QUERY return legs and the words of Table 10.7; TRAV_ARM launches
IDLE engines with an ENTRY at once or arms them for T, resumes paused ones, or begins a tree-wide launch at the root; TRAV_ABORT stops the
engines named, the PWM outputs and the effects left of one that has ended already included, or aborts a launch before COMMIT; TRAV_ACT_CFG configures the pins: a
PWM output and a safe level stop at a change of the mode alone, and the level of a pin that becomes an INPUT is a free value (the model's
choice, log entry 38). -/
def Obligations.travCommands : Prop :=
  (∀ c : Cmd,
    let start := c.f 4 14 0
    let n := c.f 4 28 16
    let e := c.f 5 4 0
    let good (u : State) : Prop := (∀ b < 128, n ≠ 0 → start / 256 ≤ b → b ≤ (start + n - 1) / 256 → u.mayUse c 2 b = true) ∧
      start + n ≤ 32768 ∧ (loadLegs c).all legOk = true
    let put (u : State) : State := { u with trav := { u.trav with
      legs := (loadLegs c).zipIdx.foldl (fun (t : Tab (BitVec 64)) p => t.write 0 (start + p.2) (BitVec.ofNat 64 p.1)) u.trav.legs
      badLegs := u.trav.badLegs.filter fun i => decide (i < start ∨ start + n ≤ i) } }
    Completes (.travLoad c) c 0x0700 (layTravLoad c) false (fun u => good u ∧ c.b 4 29 = false) (fun u => (put u).complete c stOk []) ∧
    Completes (.travLoad c) c 0x0700 (layTravLoad c) false
      (fun u => good u ∧ c.b 4 29 = true ∧ u.mayUse c 1 e = true ∧ (u.engine e).st = .idle)
      (fun u => ((put u).modEngine e fun x => { x with entry := c.f 5 30 16, hasEntry := true }).complete c stOk []) ∧
    Completes (.travLoad c) c 0x0700 (layTravLoad c) false
      (fun u => good u ∧ c.b 4 29 = true ∧ u.mayUse c 1 e = true ∧ (u.engine e).st ≠ .idle) (fun u => u.complete c stBusy [])) ∧
  (∀ c : Cmd,
    let legs (u : State) := (List.range (c.f 4 28 16)).map fun i => u.leg (c.f 4 14 0 + i)
    Completes (.travReadLegs c) c 0x0704 (layTravReadLegs c) false (fun _ => c.f 4 14 0 + c.f 4 28 16 ≤ 32768 ∧ c.indirect = true)
      (fun u => (u.output c (c.w64 5) ((legs u).flatMap (leBytes 8))).complete c stOk []) ∧
    Completes (.travReadLegs c) c 0x0704 (layTravReadLegs c) false (fun _ => c.f 4 14 0 + c.f 4 28 16 ≤ 32768 ∧ c.indirect = false)
      (fun u => u.complete c stOk ((legs u).flatMap fun v => [word v, word (v / 2 ^ 32)]))) ∧
  (∀ c : Cmd, Completes (.travQuery c) c 0x0703 (layTravQuery c) true (fun _ => True)
    (fun u => u.complete c stOk (u.engWords (c.f 4 4 0)))) ∧
  (∀ (c : Cmd) (t : Nat), Completes (.travArm c) c 0x0701 (layTravArm c) false
    (fun u => c.b 4 31 = true ∧ c.b 4 19 = false ∧ u.compactField c 5 = some t) (fun u => u.treeLaunch c t)) ∧
  (∀ (c : Cmd) (t : Nat),
    let es := maskEngines (c.w 8)
    let mine (u : State) : Prop := ∀ e ∈ es, u.mayUse c 1 e = true ∨ u.engOwner e = (u.cmdHub c, c.slice)
    let idle (u : State) : Prop := c.b 4 19 = false ∧ c.b 4 31 = false ∧ (∀ e ∈ es, (u.engine e).st = .idle ∧ (u.engine e).hasEntry = true)
    Completes (.travArm c) c 0x0701 (layTravArm c) false (fun u => mine u ∧ c.b 4 19 = true)
      (fun u => (es.foldl (fun (s : State) e => s.resumeEngine e (c.b 4 18)) u).complete c stOk []) ∧
    Completes (.travArm c) c 0x0701 (layTravArm c) false
      (fun u => mine u ∧ idle u ∧ u.compactField c 5 = some t ∧ c.w 5 = 0 ∧ c.w 6 = 0)
      (fun u => (es.foldl (fun (s : State) e => ((s.wakeEngine e .running).modEngine e fun x => x.settings c).launchEngine e s.now250)
        u).complete c stOk []) ∧
    Completes (.travArm c) c 0x0701 (layTravArm c) false
      (fun u => mine u ∧ idle u ∧ u.compactField c 5 = some t ∧ (c.w 5 ≠ 0 ∨ c.w 6 ≠ 0) ∧ u.now250 + 4000 * c.f 4 27 21 ≤ 4 * t)
      (fun u => (es.foldl (fun (s : State) e => (s.wakeEngine e .armed).modEngine e fun x => { x.settings c with launchAt := 4 * t })
        u).complete c stOk [])) ∧
  (∀ c : Cmd,
    let e := c.f 4 4 0
    let one (u : State) : Prop := c.b 4 7 = false ∧ c.b 4 5 = false ∧ (u.mayUse c 1 e = true ∨ u.engOwner e = (u.cmdHub c, c.slice))
    Completes (.travAbort c) c 0x0702 (layTravAbort c) false
      (fun u => one u ∧ genOk (c.b 4 20) (c.f 4 19 12) (u.engine e).gen = true ∧ (u.engine e).st ≠ .idle ∧
        u.engOwner e = (u.cmdHub c, c.slice)) (fun u => (u.abortEngine e (c.b 4 6)).complete c stOk []) ∧
    Completes (.travAbort c) c 0x0702 (layTravAbort c) false
      (fun u => one u ∧ genOk (c.b 4 20) (c.f 4 19 12) (u.engine e).gen = true ∧ (u.engine e).st ≠ .idle ∧
        u.engOwner e ≠ (u.cmdHub c, c.slice))
      (fun u => ((u.abortEngine e (c.b 4 6)).abortedEvent e stAborted (u.launchNo e)).complete c stOk []) ∧
    Completes (.travAbort c) c 0x0702 (layTravAbort c) false
      (fun u => one u ∧ genOk (c.b 4 20) (c.f 4 19 12) (u.engine e).gen = true ∧ (u.engine e).st = .idle)
      (fun u => (u.stopEngine e (c.b 4 6)).complete c stOk []) ∧
    Completes (.travAbort c) c 0x0702 (layTravAbort c) false
      (fun u => one u ∧ genOk (c.b 4 20) (c.f 4 19 12) (u.engine e).gen = false) (fun u => u.complete c stStaleGen (u.engWords e)) ∧
    (∀ x : Launch, Completes (.travAbort c) c 0x0702 (layTravAbort c) false
      (fun u => c.b 4 7 = true ∧ u.isRoot = true ∧ u.launchOf (BitVec.ofNat 8 (c.f 5 7 0)) = some x ∧ u.authZ c = true ∧
        x.committed = false) (fun u => (u.abortLaunch x).complete c stOk []))) ∧
  (∀ c : Cmd,
    let pins := if c.w 5 = 0 then [c.f 4 4 0] else (List.range 32).filter fun n => bit (c.w 5) n
    let e := c.f 4 15 11
    let mode := c.f 4 7 5
    let mine (u : State) : Prop := (∀ n ∈ pins, u.mayUse c 3 n = true) ∧
      (mode = 3 → u.engOwner e = (u.cmdHub c, c.slice))
    let held (u : State) (n : Nat) : Prop :=
      (u.act n).mode = 3 ∧ (u.engine (u.act n).eng).st ≠ .idle ∧ (mode ≠ 3 ∨ (u.act n).eng ≠ e)
    Completes (.travActCfg c) c 0x0705 (layTravActCfg c) false (fun u => mine u ∧ ∀ n ∈ pins, ¬ held u n)
      (fun u => (pins.foldl (fun (s : State) n => s.cfgPin c n) u).complete c stOk []) ∧
    Completes (.travActCfg c) c 0x0705 (layTravActCfg c) false (fun u => mine u ∧ ∃ n ∈ pins, held u n) (fun u => u.complete c stBusy []) ∧
    (∀ (s : State) (n : Nat), n < 32 →
      let a := s.act n
      let x := (s.cfgPin c n).act n
      x.mode = mode ∧ x.od = c.b 4 8 ∧ x.eng = e ∧
      (mode = 2 → x.level = c.b 4 9) ∧ (mode ≠ 2 → mode ≠ 3 → x.level = a.level) ∧
      (mode = a.mode → x.pwm = a.pwm ∧ x.pwmNext = a.pwmNext ∧ x.safe = a.safe) ∧
      (mode ≠ a.mode → x.pwm = none ∧ x.pwmNext = none ∧ x.safe = false) ∧
      (mode ≠ a.mode → mode = 4 → x.input = decide (s.freeVal 1 = 1)) ∧ (mode = a.mode ∨ mode ≠ 4 → x.input = a.input)))

/-! ### Slices (Chapter 11) -/

/-- The SLICE_ commands, outside Safe and from a slice that may send them, complete: CREATE makes a FREE slice ACTIVE with the next generation;
RESET raises the generation; FREEZE stops an ACTIVE slice and its sources and waits for its commands, and is OK on a frozen one; THAW makes a
frozen slice with an enabled event queue ACTIVE and writes what it held, and is WRONG_MODE without that queue; SAVE of a FROZEN slice with
nothing pending writes the blob and keeps the cookie; RESTORE without a blob gives the new binding and the next generation; DESTROY is recorded,
the root asks the other hubs, the slice's engines here stop and its grants here are revoked, and it ends once nothing is left to wait for;
DESTROY and SAVE of slice 0 are DENIED, whatever the generation; RESTORE from a blob refuses a bad header and a bad CRC and waits while another
is under way. The SYS forms of DESTROY and RESTORE, the SYS command that asks another hub to give up a slice's holdings and the free part of the
blob's count of grants are the model's choices (log entry 44). -/
def Obligations.sliceCommands : Prop :=
  let may (c : Cmd) (own taker : Bool) (u : State) : Prop :=
    u.authZ c = true ∨ own = true ∧ c.here = true ∧ c.sys = false ∧ c.slice = c.f 4 5 0 ∨ taker = true ∧ u.mayUse c 0xB (c.f 4 5 0) = true
  let from' (c : Cmd) (own taker : Bool) (u : State) : Prop :=
    may c own taker u ∧ genOk (c.b 4 24) (c.f 4 23 16) (u.slice (c.f 4 5 0)).gen = true ∧ (u.slice (c.f 4 5 0)).state ≠ 0
  ∀ c : Cmd,
    let k := c.f 4 5 0
    let frozen (u : State) : State := (u.setSlice k { u.slice k with state := 2 }).stopSources k
    Completes (.sliceCreate c) c 0x0000 (laySliceCreate c) false (fun u => u.authZ c = true ∧ (u.slice k).state = 0 ∧
        u.hostPortUsed (c.f 4 8 8) = true ∧ 1 ≤ c.f 4 24 16 ∧ c.f 4 24 16 ≤ 256 ∧ u.pasidTaken k (c.f 4 8 8) (bindOf c) = false)
      (fun u => (u.setSlice k { Slice.init with state := 1, gen := (u.slice k).gen + 1, port := c.f 4 8 8, pasid := bindOf c, bound := true
                                                quota := c.f 4 24 16 }).doneSlice c k stOk) ∧
    Completes (.sliceReset c) c 0x0002 (laySliceReset c) false (from' c true true)
      (fun u => (u.resetSlice k (c.b 4 25)).doneSlice c k stOk) ∧
    Completes (.sliceFreeze c) c 0x0005 (laySliceFreeze c) false
      (fun u => from' c true true u ∧ c.w 5 ≤ 10000 ∧ (u.slice k).state = 1 ∧ (frozen u).freezeLeft k c = false)
      (fun u => (frozen u).doneSlice c k stOk) ∧
    Completes (.sliceFreeze c) c 0x0005 (laySliceFreeze c) false
      (fun u => from' c true true u ∧ c.w 5 ≤ 10000 ∧ (u.slice k).state = 1 ∧ (frozen u).freezeLeft k c = true)
      (fun u => (frozen u).modSlice k fun x => { x with freezeCmd := some c }) ∧
    Completes (.sliceFreeze c) c 0x0005 (laySliceFreeze c) false
      (fun u => from' c true true u ∧ c.w 5 ≤ 10000 ∧ (u.slice k).state ≠ 1) (fun u => u.doneSlice c k stOk) ∧
    Completes (.sliceThaw c) c 0x0008 (laySliceThaw c) false
      (fun u => from' c true true u ∧ (u.slice k).state ≠ 1 ∧ (u.slice k).evq.enable = true)
      (fun u => ((((u.setSlice k { u.slice k with state := 1, cookie := none }).flushHeld k 64).present).sendPosted k).doneSlice c k stOk) ∧
    Completes (.sliceThaw c) c 0x0008 (laySliceThaw c) false
      (fun u => from' c true true u ∧ (u.slice k).evq.enable = false) (fun u => u.doneSlice c k stWrongMode) ∧
    Completes (.sliceSave c) c 0x0006 (laySliceSave c) false
      (fun u => from' c true true u ∧ k ≠ 0 ∧ (u.slice k).state = 2 ∧ c.w64 5 % 64 = 0 ∧ (u.dropPend c).pendingOf k = 0 ∧ u.isRoot = true)
      (fun u =>
        let cookie := (u.freeVal 64).toNat
        let owned := (u.tree.tuns.filter fun p => decide (p.2.state ≠ gClosed ∧ p.2.ownerHub = 0 ∧ p.2.ownerSlice = k)).length
        let v := u.drew.drew.setSlice k { u.slice k with state := 3, cookie := some cookie }
        -- what only the other hubs know of the slice's grants is a free value (log entry 44)
        (v.output c (c.w64 5) (v.sliceBlob k cookie owned (v.grantsOf v.selfNo k + (u.drew.freeVal 32).toNat / 65536))).doneSlice c k stOk) ∧
    Completes (.sliceSave c) c 0x0006 (laySliceSave c) false (fun u => may c true true u ∧ k = 0) (fun u => u.doneSlice c k stDenied) ∧
    (∀ far : Nat,
      Completes (.sliceDestroy c far) c 0x0001 (laySliceDestroy c) false (fun u => c.sys = false ∧ may c false false u ∧ k = 0)
        (fun u => u.doneSlice c k stDenied) ∧
      Completes (.sliceDestroy c far) c 0x0001 (laySliceDestroy c) false
        (fun u => c.sys = false ∧ from' c false false u ∧ k ≠ 0 ∧ c.w 5 ≤ 10000 ∧ (u.slice k).destroyCmd = none ∧ u.isRoot = false ∧
          (∀ e < 32, (u.engine e).st = .idle ∨ u.engOwner e ≠ (u.selfNo, k)) ∧
          (∀ g ∈ u.host.grants, g.hub = u.selfNo ∧ g.slice = k → g.revoking = true))
        (fun u => (u.modSlice k fun x => { x with
          destroyCmd := some c, destroySt := if far = stTimeout ∨ far = stLinkLost then far else 0 }).endDestroy k) ∧
      Completes (.sliceDestroy c far) c 0x0001 (laySliceDestroy c) false
        (fun u => c.sys = false ∧ from' c false false u ∧ k ≠ 0 ∧ c.w 5 ≤ 10000 ∧ (u.slice k).destroyCmd = none ∧ u.isRoot = true)
        (fun u => (((u.modSlice k fun x => { x with destroyCmd := some c, destroySt := 0 }).destroyElsewhere c k).stripHolder u.selfNo
          k).endDestroy k) ∧
      Completes (.sliceDestroy c far) c 0x0001 (laySliceDestroy c) false (fun _ => c.sys = true) (fun u => u.farDestroy c)) ∧
    (∀ (far : Nat) (recs : List (List Word)),
      Completes (.sliceRestore c far recs) c 0x0007 (laySliceRestore c) false
        (fun u => c.sys = false ∧ from' c false true u ∧ c.b 4 11 = false ∧ 2 ≤ (u.slice k).state ∧ u.hostPortUsed (c.f 4 8 8) = true ∧
          u.pasidTaken k (c.f 4 8 8) (bindOf c) = false)
        (fun u =>
          let x := if c.b 4 10 then u.slice k else (u.slice k).noQueues
          (((u.setSlice k { x with
            state := 2, cookie := none, gen := x.gen + 1, port := c.f 4 8 8, pasid := bindOf c, bound := true }).moveEps k (c.f 4 8 8)).winRebind
              k).doneSlice c k stOk) ∧
      Completes (.sliceRestore c far recs) c 0x0007 (laySliceRestore c) false
        (fun u => c.sys = false ∧ c.b 4 11 = true ∧ u.mayUse c 0xB k = true ∧ (u.slice k).state = 0 ∧ u.host.moveOp = none ∧ u.host.moveQ = [] ∧
          fromLe (c.data.take 4) ≠ 0x534C4231)
        (fun u => u.doneSlice c k stBadParam) ∧
      Completes (.sliceRestore c far recs) c 0x0007 (laySliceRestore c) false
        (fun u => c.sys = false ∧ c.b 4 11 = true ∧ u.mayUse c 0xB k = true ∧ (u.slice k).state = 0 ∧ u.host.moveOp = none ∧ u.host.moveQ = [] ∧
          c.data.length = 512 ∧ fromLe (c.data.take 4) = 0x534C4231 ∧ fromLe ((c.data.drop 4).take 2) = 1 ∧
          fromLe ((c.data.drop 6).take 2) = 0x200 ∧ fromLe ((c.data.drop 0x1FC).take 4) ≠ (crc32 (c.data.take 0x1FC)).toNat)
        (fun u => u.doneSlice c k stIntegrity) ∧
      Completes (.sliceRestore c far recs) c 0x0007 (laySliceRestore c) false
        (fun u => c.sys = false ∧ c.b 4 11 = true ∧ u.mayUse c 0xB k = true ∧ u.host.moveOp ≠ none)
        (fun u => { u with host := { u.host with moveQ := u.host.moveQ ++ [(c, far, recs)] } }) ∧
      Completes (.sliceRestore c far recs) c 0x0007 (laySliceRestore c) false (fun _ => c.sys = true) (fun u => u.moveHop c))

/-- SLICE_GRANT enters a grant of a resource that nobody else holds, completes with BUSY where another slice holds a one-holder resource and with
LIMIT at a ninth link holder, each with the words that name the holder; SLICE_REVOKE ends at once where nothing needs draining, waits otherwise,
and is NOT_PRESENT for a grant not held; the drain limit ends the revoke. The drain of a freeze, the expiry of a cookie and the time-out of a
move take their effects. QUEUE_CREATE enables a queue with an allowed count and base; QUEUE_DESTROY disables it and clears its error; EVQ_SET
starts a ring at index 0 with phase 1. A host port's power state is kept, and what it held up goes on. -/
def Obligations.grantAndQueueRows : Prop :=
  (∀ c : Cmd,
    let kind := c.f 4 11 8
    let idx := c.f 4 7 0
    let hub := c.f 4 28 24
    let slice := c.f 4 17 12
    let hold (u : State) := u.host.grants.filter fun g => decide (g.kind = kind ∧ g.index = idx)
    let new : Grant := { kind := kind, index := idx, hub := hub, slice := slice, revoking := false }
    let words : List Word := grantWords false 0 hub slice
    let good (u : State) : Prop := u.authZ c = true ∧ (u.hubNum = some hub → (u.slice slice).state ≠ 0)
    Completes (.sliceGrant c) c 0x0003 (laySliceGrant c) false (fun u => good u ∧ hold u = [] ∧ u.isZ hub slice = false)
      (fun u => ({ u with host := { u.host with grants := u.host.grants ++ [new] } }).complete c stOk words) ∧
    Completes (.sliceGrant c) c 0x0003 (laySliceGrant c) false
      (fun u => good u ∧ kind ≠ 0 ∧ hold u ≠ [] ∧ ∀ g ∈ hold u, ¬ (g.hub = hub ∧ g.slice = slice)) (fun u => u.complete c stBusy words) ∧
    Completes (.sliceGrant c) c 0x0003 (laySliceGrant c) false
      (fun u => good u ∧ kind = 0 ∧ 8 ≤ (hold u).length ∧ ∀ g ∈ hold u, ¬ (g.hub = hub ∧ g.slice = slice)) (fun u => u.complete c stLimit words) ∧
    (∀ g : Grant, Completes (.sliceRevoke c) c 0x0004 (laySliceRevoke c) false
      (fun u => good u ∧ c.w 5 ≤ 10000 ∧ g.revoking = false ∧ u.host.grants.find? (fun g =>
        decide (g.kind = c.f 4 11 8 ∧ g.index = c.f 4 7 0 ∧ g.hub = c.f 4 28 24 ∧ g.slice = c.f 4 17 12)) = some g)
      (fun u => u.beginRevoke g (c.b 4 31) (some c))) ∧
    Completes (.sliceRevoke c) c 0x0004 (laySliceRevoke c) false
      (fun u => good u ∧ c.w 5 ≤ 10000 ∧ ∀ g ∈ u.host.grants, ¬ (g.kind = kind ∧ g.index = idx ∧ g.hub = hub ∧ g.slice = slice))
      (fun u => u.complete c stNotPresent words)) ∧
  (∀ (s : State) (g : Grant) (safe : Bool) (cmd : Option Cmd),
    let t : State := { s with host := { s.host with grants := s.host.grants.map fun o => if o = g then { o with revoking := true } else o } }
    (t.drained g = true → s.beginRevoke g safe cmd = t.endRevoke { grant := g, safePins := safe, cmd := cmd }) ∧
    (t.drained g = false → s.beginRevoke g safe cmd =
      { t with host := { t.host with revokes := t.host.revokes ++ [{ grant := g, safePins := safe, cmd := cmd }] } })) ∧
  (∀ (s : State) (kind idx hub slice : Nat) (r : Revoke), s.host.revokes.find? (fun r =>
      decide (r.grant.kind = kind ∧ r.grant.index = idx ∧ r.grant.hub = hub ∧ r.grant.slice = slice)) = some r →
    exec (.revokeDrainEnd kind idx hub slice) s = .next (s.endRevoke r)) ∧
  (∀ (s : State) (k : Nat) (c : Cmd), (s.slice k).freezeCmd = some c →
    exec (.freezeDrainEnd k) s = .next ((s.modSlice k fun x => { x with freezeCmd := none }).doneSlice c k stOk)) ∧
  (∀ (s : State) (k : Nat), (s.slice k).state = 3 →
    exec (.cookieExpiry k) s = .next (s.setSlice k { s.slice k with state := 2, cookie := none })) ∧
  (∀ (s : State) (o : MoveOp), s.host.moveOp = some o →
    (o.decided = true → exec .sliceMoveTimeout s = .next ({ s with host := { s.host with moveOp := none } }).moveGoOn) ∧
    (o.decided = false → o.waiting ≠ [] ∧ (∀ h ∈ o.waiting, h ∈ o.got) → exec .sliceMoveTimeout s = .next (s.moveFail o stLinkLost).moveGoOn) ∧
    (o.decided = false → ¬ (o.waiting ≠ [] ∧ ∀ h ∈ o.waiting, h ∈ o.got) →
      exec .sliceMoveTimeout s = .next (s.moveFail o stTimeout).moveGoOn)) ∧
  (∀ c : Cmd,
    let k := c.f 4 5 0
    let q := c.f 4 10 8
    let good (u : State) : Prop := (u.authZ c = true ∨ c.here = true ∧ c.sys = false ∧ c.slice = k ∨ u.mayUse c 0xB k = true) ∧
      genOk (c.b 4 24) (c.f 4 23 16) (u.slice k).gen = true ∧ (u.slice k).state ≠ 0
    Completes (.queueCreate c) c 0x0009 (layQueueCreate c) false
      (fun u => good u ∧ (u.sq k q).enable = false ∧ pow2In 16 4096 (c.f 5 12 0) = true ∧ c.w64 6 % 4096 = 0)
      (fun u => (u.setSq k q { base := c.w64 6, size := c.f 5 12 0, prio := c.f 4 13 12, enable := true, err := 0, head := 0
                               tail := 0 }).doneSlice c k stOk) ∧
    Completes (.queueCreate c) c 0x0009 (layQueueCreate c) false
      (fun u => good u ∧ (u.sq k q).enable = false ∧ ¬ (pow2In 16 4096 (c.f 5 12 0) = true ∧ c.w64 6 % 4096 = 0))
      (fun u => u.doneSlice c k stBadParam) ∧
    Completes (.queueDestroy c) c 0x000A (layQueueDestroy c) false good
      (fun u => (u.setSq k q { u.sq k q with enable := false, err := 0, tail := (u.sq k q).head }).doneSlice c k stOk) ∧
    Completes (.evqSet c) c 0x000B (layEvqSet c) false
      (fun u => good u ∧ pow2In 64 65536 (c.f 5 16 0) = true ∧ c.w64 6 % 4096 = 0)
      (fun u => ((u.modSlice k fun x => { x with evq := {
        base := c.w64 6, size := c.f 5 16 0, enable := true, err := 0, tail := 0, head := 0, phase := true } }).flushHeld k 64).doneSlice
          c k stOk)) ∧
  (∀ (s : State) (port mps mrrs : Nat) (up d0 memEn pasidEn funcMask : Bool), s.hostPortUsed port = true → s.coreOn = true →
    let h := s.hport port
    let t := s.setHport port { h with
      up := up, d0 := d0, memEn := memEn, pasidEn := pasidEn, funcMask := funcMask, mps := mps, mrrs := mrrs }
    exec (.hostPortPowerState port up d0 memEn pasidEn funcMask mps mrrs) s = .next
      ((List.range 64).foldl (fun (s : State) k => s.sendPosted k)
        ((h.pba.foldl (fun (s : State) n => s.msixUnmask port n) t).flushPort port).present))

/-! ### Commands, events and queues (Chapters 11 and 12) -/

/-- COMMAND_FETCH takes the entry at HEAD of the queue chosen for the slice chosen and advances HEAD, or reports a queue error where the read
failed. The command then completes with BAD_OPCODE, BAD_PARAM, STALE_GEN, WRONG_MODE or NOT_PRESENT as the first of checks 1 to 4 that fails
says, and otherwise becomes pending: it waits behind its fence, or starts. The slice chosen is one that may fetch: ACTIVE, below its quota,
with a tag and an event slot free and a queue with work, and the queue is one of its queues with work of the highest priority. -/
def Obligations.commandFetch : Prop :=
  (∀ (s : State) (k i : Nat) (ws : List Word), s.pickSlice = some k → s.pickQ k = some i →
    let q := s.sq k i
    let x := s.slice k
    let r := s.emit (.hostRead x.port x.pasid (q.base + 64 * q.head) 64 false)
    let t := (r.setSq k i { q with head := (q.head + 1) % q.size }).modSlice k fun x => { x with lastSq := x.lastSq.write 8 q.prio i }
    let u : State := { t with host := { t.host with lastSlice := k } }
    exec (.commandFetch none) s = .next ((r.setSq k i { q with err := 2 }).queueErr k i 2) ∧
    exec (.commandFetch (some ws)) s = .next (u.takeCmd
      { hub := u.hubNo, slice := k, here := true, sys := false, sq := i, htag := u.freeTag, dw := ws })) ∧
  (∀ (s : State) (c : Cmd),
    let stale := c.sgen ≠ (s.slice c.slice).gen.toNat
    let out := s.noTarget c.target = true ∨ s.cutOff c = true
    (layoutOf c = none → s.takeCmd c = s.complete c stBadOpcode []) ∧
    (∀ lay, layoutOf c = some lay →
      (c.layoutOk lay = false → s.takeCmd c = s.complete c stBadParam []) ∧
      (c.layoutOk lay = true → stale → s.takeCmd c = s.complete c stStaleGen (s.sliceWords c.slice)) ∧
      (c.layoutOk lay = true → ¬ stale → c.toSelf = false → s.hubNum = none → s.takeCmd c = s.complete c stWrongMode []) ∧
      (c.layoutOk lay = true → ¬ stale → c.toSelf = false → s.hubNum ≠ none → out →
        (c.opcode / 256 ≠ 3 ∨ s.isRoot = true ∧ (s.recOf c.target).state = rFree → s.takeCmd c = s.complete c stNotPresent []) ∧
        (c.opcode / 256 = 3 → s.isRoot = false ∨ (s.recOf c.target).state ≠ rFree → s.takeCmd c = s.complete c stLinkLost [])) ∧
      (∀ st, c.layoutOk lay = true → ¬ stale → (c.toSelf = true ∨ s.hubNum ≠ none ∧ ¬ out) →
        (if s.isLocal c then s.launchInstant c else .ok 0) = .error st → s.takeCmd c = s.complete c st (s.ownWords c)) ∧
      (∀ t, c.layoutOk lay = true → ¬ stale → (c.toSelf = true ∨ s.hubNum ≠ none ∧ ¬ out) →
        (if s.isLocal c then s.launchInstant c else .ok 0) = .ok t →
        let p : Pend := { cmd := c, order := s.host.order, stage := .fence, launch := t, instant := t
                          inAddr := lay.inAddr, inLen := if c.indirect then lay.inLen else 0, outAddr := lay.outAddr }
        let u : State := { s with host := { s.host with pend := s.host.pend ++ [p], order := s.host.order + 1 } }
        s.takeCmd c = if u.heldBack p then u else u.startPend p))) ∧
  (∀ (s : State) (k i : Nat), s.pickSlice = some k → s.pickQ k = some i →
    (s.slice k).state = 1 ∧ s.pendingOf k < (s.slice k).quota ∧ s.tagFree k = true ∧ (s.sq k i).work = true ∧
    ∀ j < 8, (s.sq k j).work = true → (s.sq k i).prio ≤ (s.sq k j).prio)

/-- The transport rows complete. Input that has been read makes a command ready here or sends it to its target, and input that failed completes
it with TARGET_ERROR; a timed command starts at its instant; a COMMAND for this hub is held and answered with RECEIVED when all its input is
there, is discarded more than 40 ms after it was sent, and is answered with NOT_PRESENT by the root for a hub whose CTRL entry is CLOSED;
DATA completes the input, or is written to host memory; RECEIVED is noted; a COMPLETION is written as the command's one record; RECEIVED
goes again while a command is held; an EVENT is posted; silence completes a command with TIMEOUT or LINK_LOST. -/
def Obligations.transportRows : Prop :=
  (∀ (s : State) (htag : Nat) (p : Pend) (bytes : List Byte), s.coreOn = true →
    s.host.pend.find? (fun p => decide (p.cmd.htag = htag ∧ p.stage = .input)) = some p →
    let q : Pend := { p with cmd := { p.cmd with data := bytes.take p.inLen } }
    (s.isLocal p.cmd = true → exec (.indirectInputReadDone htag false bytes) s = .next (s.complete p.cmd stTargetError (s.ownWords p.cmd))) ∧
    (s.isLocal p.cmd = false → exec (.indirectInputReadDone htag false bytes) s = .next (s.complete p.cmd stTargetError [])) ∧
    (s.isLocal q.cmd = true → exec (.indirectInputReadDone htag true bytes) s = .next (s.setPend { q with stage := .ready }).kick) ∧
    (s.isLocal q.cmd = false → exec (.indirectInputReadDone htag true bytes) s =
      .next ((s.setPend { q with stage := .sent }).sendCommand q.cmd (bytes.take p.inLen)).kick)) ∧
  (∀ (s : State) (htag : Nat) (p : Pend), s.coreOn = true →
    s.host.pend.find? (fun p => decide (p.cmd.htag = htag ∧ p.stage = .timed ∧ p.launch ≤ s.nowNs) && s.noneBefore (4 * p.launch)) = some p →
    exec (.timedCommandDue none htag) s = .next (s.startPend p)) ∧
  (∀ (s : State) (h htag : Nat), s.coreOn = true → exec (.timedCommandDue (some h) htag) s =
    .next { s with host := { s.host with recv := s.host.recv.map fun r =>
      if r.cmd.hub = h ∧ r.cmd.htag = htag ∧ r.launch ≤ s.nowNs ∧ s.noneBefore (4 * r.launch) = true then { r with launch := 0 } else r } }) ∧
  (∀ (s : State) (ws : List Word) (lay : Layout) (t : Nat),
    let c := cmdOf ws
    let r : RecvCmd := { cmd := c, need := nthW ws 4, launch := if s.nowNs < t then t else 0, hold := decide (nthW ws 4 = 0)
                         order := s.host.order, instant := t }
    let u : State := { s with host := { s.host with recv := s.host.recv ++ [r], order := s.host.order + 1 } }
    let sent := resolveCompact s.nowNs (nthW ws 2) (nthW ws 3)
    s.coreOn = true → s.hubNum = some c.target → s.isRoot = false ∨ c.target = 0 →
    (sent + 40000000 < s.nowNs → exec (.commandMessage ws) s = .next s) ∧
    (s.nowNs ≤ sent + 40000000 → (∀ r ∈ s.host.recv, r.is c = false) → layoutOf c = some lay → s.launchInstant c = .ok t →
      exec (.commandMessage ws) s = .next (if nthW ws 4 = 0 then u.sendReceived c else u))) ∧
  (∀ (s : State) (ws : List Word), s.coreOn = true → s.isRoot = true → (cmdOf ws).target ≠ 0 →
    (s.entry ((cmdOf ws).target + 1)).state = gClosed →
    exec (.commandMessage ws) s = .next (s.complete (cmdOf ws) stNotPresent [])) ∧
  (∀ (s : State) (ws : List Word) (data : List Byte) (p : Pend), s.coreOn = true →
    s.host.recv.find? (fun r => decide (r.cmd.hub = msgHub ws ∧ r.cmd.htag = msgTag ws ∧ r.need ≠ 0)) = none →
    s.host.pend.find? (fun p => decide (p.cmd.htag = msgTag ws ∧ p.stage = .sent ∧ p.cmd.target = msgHub ws)) = some p → p.stale = false →
    exec (.dataMessage ws data) s = .next (s.emit (.hostWrite (s.slice p.cmd.slice).port (s.slice p.cmd.slice).pasid
      (p.outAddr + nthW ws 2) (data.take (nthW ws 3))))) ∧
  (∀ (s : State) (ws : List Word) (data : List Byte) (r : RecvCmd), s.coreOn = true →
    s.host.recv.find? (fun r => decide (r.cmd.hub = msgHub ws ∧ r.cmd.htag = msgTag ws ∧ r.need ≠ 0)) = some r →
    let all := r.data ++ data.take (nthW ws 3)
    let left := r.need - (data.take (nthW ws 3)).length
    (left ≠ 0 → exec (.dataMessage ws data) s = .next { s with host := { s.host with recv := s.host.recv.map fun q =>
      if q = r then { r with data := all, need := left, hold := false } else q } }) ∧
    (left = 0 →
      let c : Cmd := { r.cmd with data := all }
      let r' : RecvCmd := { r with cmd := c, data := all, need := 0, hold := true }
      exec (.dataMessage ws data) s = .next (({ s with host := { s.host with recv := s.host.recv.map fun q =>
        if q = r then r' else q } }).sendReceived c))) ∧
  (∀ (s : State) (ws : List Word), s.coreOn = true → s.answersForms (msgHub ws) (msgTag ws) = false →
    s.answersMove (msgHub ws) (msgTag ws) = false → s.destroying (msgHub ws) (some (msgTag ws)) = [] →
    (s.answered ws = none → exec (.receivedMessage ws) s = .next (s.countStale (msgSlice ws)) ∧
      ∀ ok, exec (.completionMessage ws ok) s = .next (s.countStale (msgSlice ws))) ∧
    (∀ p, s.answered ws = some p → msgSgen ws ≠ (s.slice (msgSlice ws)).gen.toNat →
      exec (.receivedMessage ws) s = .next (s.countStale (msgSlice ws)) ∧
      ∀ ok, exec (.completionMessage ws ok) s =
        .next (if p.stale then ((s.countStale (msgSlice ws)).dropPend p.cmd).kick else s.countStale (msgSlice ws))) ∧
    (∀ p, s.answered ws = some p → msgSgen ws = (s.slice (msgSlice ws)).gen.toNat →
      let r := Rec.ofDws ((ws.drop 4).take 8)
      let t := s.dropPend p.cmd
      exec (.receivedMessage ws) s = .next (s.setPend { p with received := true }) ∧
      (r.status = stOk → p.cmd.noEvent = true → exec (.completionMessage ws true) s = .next t.kick) ∧
      (r.status ≠ stOk ∨ p.cmd.noEvent = false → exec (.completionMessage ws true) s = .next
        (t.postRec (msgSlice ws) true { r with typ := 1, srcIndex := p.cmd.sq, tag := p.cmd.tag }).kick) ∧
      (nthW ws 2 ≠ 0 → exec (.completionMessage ws false) s = .next (t.postRec (msgSlice ws) true { r with
        typ := 1, srcIndex := p.cmd.sq, tag := p.cmd.tag, status := stTargetError
        ws := if 0x0B < p.cmd.opcode then [0, 0, 0, 0] else r.ws }).kick))) ∧
  (∀ (s : State) (hub htag : Nat) (sys : Bool) (r : RecvCmd), s.coreOn = true →
    s.host.recv.find? (fun r => decide (r.cmd.hub = hub ∧ r.cmd.htag = htag ∧ r.cmd.sys = sys) && r.hold) = some r →
    exec (.receivedRepeat hub htag sys) s = .next (s.sendReceived r.cmd)) ∧
  (∀ (s : State) (ws : List Word), s.coreOn = true →
    let r := Rec.ofDws ((ws.drop 4).take 8)
    let u := s.postRec (msgSlice ws) false r
    (msgSlice ws ≠ 0 ∨ r.typ ≠ 2 ∧ ¬ (r.typ = 0x0D ∧ nthW r.ws 0 % 256 = 4 ∧ 0x40 ≤ r.srcIndex) → exec (.eventMessage ws) s = .next u) ∧
    (msgSlice ws = 0 → r.typ = 2 → exec (.eventMessage ws) s = .next (u.rateHeard r.srcHub (nthW r.ws 0))) ∧
    (msgSlice ws = 0 → r.typ = 0x0D → nthW r.ws 0 % 256 = 4 → 0x40 ≤ r.srcIndex →
      exec (.eventMessage ws) s = .next (u.closeSealed r.srcHub (r.srcIndex - 0x40) (0, 0)))) ∧
  (∀ (s : State) (hub htag : Nat) (p : Pend), s.coreOn = true → s.answersForms hub htag = false → s.destroying hub (some htag) = [] →
    s.host.pend.find? (fun p => decide (p.cmd.htag = htag ∧ p.stage = .sent ∧ p.cmd.target = hub)) = some p →
    exec (.remoteCommandTimeout hub htag) s = .next (s.failRemote p (if p.received then stLinkLost else stTimeout)))

/-! ### Display heads (Chapter 13) -/

/-- FRAME_START, LINE_START and PANEL_SEQUENCE_TIMER complete, and do nothing before their instants. A frame start evaluates the eight regions,
closes the frame that ended, takes region settings that are due, applies a pending frame-bound commit that is not late (a late one waits one
frame more), and starts the frame under way with the FRAME message accepted for it, source loss without one, and LVDS and backlight as the panel
sequence has come. A LIVE head whose ended frame reached UNDERRUNMAX, had source loss, was forced or was switched by the CRC policy is in
UNDERCOAT; an UNDERCOAT head not forced is LIVE once its clean frames reach RETURNFRAMES, or one where it was just turned on. A line in the
blanking composes nothing; a visible line is captured, composed, counted as underrun where its row is missing and taken out of the row buffer; a
line-bound commit whose line and 2 us have come applies first. The panel timer, once T_ON or T_BL has passed, moves LVDS, backlight and panel in
the order of R404. -/
def Obligations.displayFrames : Prop :=
  (∀ (s : State) (i : Nat), s.nowNs < s.nextFrameNs i → exec (.frameStart i) s = .next s) ∧
  (∀ (s : State) (i : Nat), s.headPresent i = true → (s.head i).st ≠ hdOff → s.nextFrameNs i ≤ s.nowNs →
    let k := (s.nextFrame i).2
    let a := ((List.range 8).foldl (fun (s : State) k => s.evalRegion i k) s).endFrame i
    let b := a.modHead i fun h => h.applyRegions a.nowNs
    let start (d : State) : State :=
      let h := d.head i
      let acc := h.accNext.filter fun a => decide (a.start = s.nextFrameNs i)
      (d.setHead i { h with
        k := k, begun := h.begun + 1, lineNo := 0, nextLine := 0, acc := acc, accNext := none, stepFrame := false
        loss := acc.isNone || !d.tunOpen (d.exitTid (0x300 + i))
        rows := h.rows.filter fun r => decide (r.1 = h.begun + 1)
        lvds := h.lvds || decide (h.seq = 2)
        bl := h.bl || decide (h.seq = 4)
        seq := if h.seq = 2 then 3 else if h.seq = 4 then 0 else h.seq
        seqAt := if h.seq = 2 then d.uptime + 1 else h.seqAt }).startCapture i
    ((b.head i).fpend = none → exec (.frameStart i) s = .next (start b)) ∧
    (∀ f, (b.head i).fpend = some f → f.skip = false → exec (.frameStart i) s = .next (start (b.applyF i f))) ∧
    (∀ f, (b.head i).fpend = some f → f.skip = true →
      exec (.frameStart i) s = .next (start (b.modHead i fun h => { h with fpend := some { f with skip := false } })))) ∧
  (∀ (s : State) (i : Nat),
    let h := s.head i
    let n := if h.stepFrame then 0 else h.curUnder
    let clean := if h.stepFrame = true then h.clean
      else if h.loss = false ∧ h.acc.isSome = true ∧ h.curUnder = 0 then min 255 (h.clean + 1) else 0
    let t := (s.endFrame i).head i
    (h.st = hdLive → h.forced = true ∨ h.toUc ≠ 0 ∨ h.uc.underrunMax ≤ n ∨ h.loss = true → t.st = hdUndercoat) ∧
    (h.st = hdLive → h.forced = false → h.toUc = 0 → n < h.uc.underrunMax → h.loss = false → t.st = hdLive) ∧
    (h.st = hdUndercoat → h.forced = false → (if h.firstReturn then 1 else h.uc.returnFrames) ≤ clean → t.st = hdLive) ∧
    (h.st = hdUndercoat → h.forced = true → t.st = hdUndercoat ∧ t.clean = 0) ∧
    (h.st = hdUndercoat → h.forced = false → clean < (if h.firstReturn then 1 else h.uc.returnFrames) →
      t.st = hdUndercoat ∧ t.clean = clean)) ∧
  (∀ (s : State) (i l : Nat) (pins : Option LinePins), l < (s.head i).nextLine ∨ (s.headTiming i).vtotal ≤ l ∨
    (s.head i).stepFrame = true ∨ (s.nowNs : Int) < (s.headTiming i).lineNs (s.head i).k l → exec (.lineStart i l pins) s = .next s) ∧
  (∀ (s : State) (i l : Nat) (pins : Option LinePins), s.headPresent i = true → (s.head i).st ≠ hdOff → l < (s.headTiming i).vtotal →
    (s.head i).nextLine ≤ l → (s.head i).stepFrame = false → (s.headTiming i).lineNs (s.head i).k l ≤ (s.nowNs : Int) →
    let a := s.modHead i fun h => { h with lineNo := l, nextLine := l + 1 }
    let b := match (a.head i).lpend with
      | some p => if (p.line = 0xFFF ∨ p.line = l) ∧ p.since + 2000 ≤ a.nowNs then a.applyL i p else a
      | none => a
    ((s.headTiming i).vactive ≤ l → exec (.lineStart i l pins) s = .next b) ∧
    (l < (s.headTiming i).vactive →
      let d := b.captureLine i l
      let h := d.head i
      let drawn := d.composeLine i l
      let seen := match pins with
        | some p => (s.headTiming i).recovered p.a p.b
        | none => drawn
      let add (r : Region) : Region :=
        if r.enable ∧ r.y ≤ l ∧ l < r.y + r.h then
          { r with accInt := (bgrBytes ((drawn.drop r.x).take r.w)).reverse ++ r.accInt,
                   accPin := (bgrBytes ((seen.drop r.x).take r.w)).reverse ++ r.accPin }
        else r
      let u := (decide (h.st = hdLive) || decide (h.st = hdUndercoat)) && h.underrunAt l
      exec (.lineStart i l pins) s = .next (d.setHead i { h with
        shown := drawn
        regions := h.regions.map fun p => (p.1, add p.2)
        curUnder := h.curUnder + b2n u
        underruns := satAdd 32 h.underruns (b2n u)
        rows := h.rows.filter fun r => decide (¬ (r.1 = h.begun ∧ r.2.1 ≤ l)) }))) ∧
  (∀ (s : State) (i : Nat),
    let h := s.head i
    let tOn := s.passed h.seqAt (400000 * (s.headTiming i).tOn)
    let tBl := s.passed h.seqAt (400000 * (s.headTiming i).tBl)
    (h.seq = 1 ∨ h.seq = 6 → tOn = false → exec (.panelSequenceTimer i) s = .next s) ∧
    (h.seq = 3 ∨ h.seq = 5 → tBl = false → exec (.panelSequenceTimer i) s = .next s) ∧
    (h.seq = 1 → tOn = true → exec (.panelSequenceTimer i) s = .next (s.setHead i { h with seq := 2 })) ∧
    (h.seq = 3 → tBl = true → exec (.panelSequenceTimer i) s = .next (s.setHead i { h with seq := 4 })) ∧
    (h.seq = 5 → tBl = true →
      exec (.panelSequenceTimer i) s = .next (s.setHead i { h with lvds := false, seq := 6, seqAt := s.uptime + 1 })) ∧
    (h.seq = 6 → tOn = true → exec (.panelSequenceTimer i) s =
      .next (s.setHead i { h with panelEn := false, seq := 0, st := hdOff, capturing := false, rows := [], acc := none, accNext := none })))

/-- The pixel transport rows complete. A FRAME message for a plane loads its descriptor where it is a ONESHOT frame of FORMAT 0 and is reported as
FRAME_REJECT otherwise; one for a head is accepted for the next frame where START is that frame's start, the format is known and the plane fits
the active area, and is otherwise rejected with cause 1, 3 or 2. A row message comes in packets: with more to come its bytes so far are held,
and its last packet completes it. A whole row for a plane is written at its place in the load; for a head in force the bytes so far stand in the
row buffer, are taken out again where the row is misshapen or finds eight others held, and change nothing where the line has begun; the row
counts as received in each case. A line underruns when the head does not hold every byte of its row, and shows background from the first pixel
that is missing. The data pairs of LVDS carry Table 13.2 in the head's mapping, the clock pairs 1100011b, a dual-link head the even pixels on
link A and the odd ones on link B. A source that may send sends its FRAME message with the next FRAMESEQ at its instant, 8 lines ahead of the
frame; it fetches each row once, from 7 lines ahead of it on; a fetched row is sent and a failed fetch abandons the frame and is reported; a
source that may send no more, or whose tunnel was suspended since the FRAME message, ends its frame. -/
def Obligations.displayPixels : Prop :=
  (∀ (s : State) (tid : Nat) (ws : List Word), epBlock (s.gaz tid).dstEp = 4 →
    let i := epIndex (s.gaz tid).dstEp
    let f := frameOf 0 0 ws
    (f.fmt = 0 ∧ bit (nthW ws 0) 16 = true → exec (.frameMessage tid ws) s =
      .next (s.setPlane i { s.plane i with width := f.width, height := f.height, load := some f })) ∧
    (f.fmt ≠ 0 ∨ bit (nthW ws 0) 16 = false → exec (.frameMessage tid ws) s =
      .next ((s.setPlane i { s.plane i with load := none }).rejectFrame (s.planeHead i) tid 4))) ∧
  (∀ (s : State) (tid : Nat) (ws : List Word), epBlock (s.gaz tid).dstEp = 3 →
    let i := epIndex (s.gaz tid).dstEp
    s.headPresent i = true → (s.head i).st ≠ hdOff →
    let h := s.head i
    let t := match h.fpend with
      | some f => if f.skip then s.headTiming i else f.timing
      | none => s.headTiming i
    let start := t.frameNs (t.firstAt (if h.stepFrame then max (ceilDiv s.time.stepTo 4) h.lineEnd else (s.headTiming i).frameNs (h.k + 1)))
    let reject (cause : Nat) : State := (s.modHead i fun h => { h with inForce := false }).rejectFrame i tid cause
    let f := frameOf (h.begun + 1) start ws
    let onTime := nthW ws 3 = (compactNs start).toNat ∧ nthW ws 4 = (compactSec start).toNat ∧ bit (nthW ws 0) 16 = false
    (¬ onTime → exec (.frameMessage tid ws) s = .next (reject 1)) ∧
    (onTime → 4 ≤ f.fmt → exec (.frameMessage tid ws) s = .next (reject 3)) ∧
    (onTime → f.fmt < 4 → t.hactive < f.xoff + f.width ∨ t.vactive < f.yoff + f.height →
      exec (.frameMessage tid ws) s = .next (reject 2)) ∧
    (onTime → f.fmt < 4 → f.xoff + f.width ≤ t.hactive → f.yoff + f.height ≤ t.vactive →
      exec (.frameMessage tid ws) s = .next (s.setHead i { h with accNext := some f, inForce := true }))) ∧
  (∀ (s : State) (tid : Nat) (bytes : List Byte) (f : FrameRec), epBlock (s.gaz tid).dstEp = 4 →
    let p := s.plane (epIndex (s.gaz tid).dstEp)
    let b := f.got ++ bytes
    p.load = some f → f.rows < f.height →
    (exec (.rowMessage tid bytes true) s =
      .next (s.setPlane (epIndex (s.gaz tid).dstEp) { p with load := some { f with got := b } })) ∧
    (b.length = f.width * 3 → exec (.rowMessage tid bytes false) s = .next (s.setPlane (epIndex (s.gaz tid).dstEp) { p with
      px := (List.range f.width).foldl (fun px x => px.write 0 (f.rows * f.width + x) (fromLe ((b.drop (3 * x)).take 3))) p.px
      load := some { f with got := [], rows := f.rows + 1 } })) ∧
    (b.length ≠ f.width * 3 → exec (.rowMessage tid bytes false) s = .next (s.setPlane (epIndex (s.gaz tid).dstEp)
      { p with load := some { f with got := [], rows := f.rows + 1 } }))) ∧
  (∀ (s : State) (tid : Nat) (bytes : List Byte) (more : Bool) (f : FrameRec) (rows : List (Nat × Nat × List Byte)),
    epBlock (s.gaz tid).dstEp = 3 →
    let i := epIndex (s.gaz tid).dstEp
    let h := s.head i
    let l := f.yoff + f.rows
    let b := f.got ++ bytes
    let g : FrameRec := if more then { f with got := b } else { f with got := [], rows := f.rows + 1 }
    let others := h.rows.filter fun r => decide (¬ (r.1 = f.k ∧ r.2.1 = l))
    let late := f.height ≤ f.rows ∨ f.k = h.begun ∧ l ≤ h.lineNo
    let kept := (b.length = f.width * fmtBytes f.fmt ∨ more = true ∧ b.length < f.width * fmtBytes f.fmt) ∧ others.length < 8
    s.headPresent i = true → h.st ≠ hdOff → h.inForce = true →
    late ∧ rows = h.rows ∨ ¬ late ∧ (kept ∧ rows = others ++ [(f.k, l, b)] ∨ ¬ kept ∧ rows = others) →
    (h.accNext = some f → exec (.rowMessage tid bytes more) s = .next (s.setHead i { h with rows := rows, accNext := some g })) ∧
    (h.accNext = none → h.acc = some f →
      exec (.rowMessage tid bytes more) s = .next (s.setHead i { h with rows := rows, acc := some g }))) ∧
  (∀ (h : Head) (a : FrameRec) (bs : List Byte) (l x : Nat),
    h.acc = some a → h.loss = false → a.yoff ≤ l → l < a.yoff + a.height →
    let n := fmtBytes a.fmt
    let p := x - a.xoff
    (h.rowFor l = none → h.underrunAt l = true ∧ h.planePixel l x = h.line.bg) ∧
    (h.rowFor l = some bs → h.underrunAt l = decide (bs.length < a.width * n)) ∧
    (h.rowFor l = some bs → a.xoff ≤ x → x < a.xoff + a.width → (p + 1) * n ≤ bs.length →
      h.planePixel l x = pixel24 h.line.clut a.fmt (bs.drop (p * n))) ∧
    (h.rowFor l = some bs → x < a.xoff ∨ a.xoff + a.width ≤ x ∨ bs.length < (p + 1) * n → h.planePixel l x = h.line.bg)) ∧
  (∀ (s : State) (i n : Nat) (linkB : Bool),
    let h := s.head i
    let t := s.headTiming i
    let on := h.lvds = true ∧ (linkB = true → t.dual = true)
    let x := if t.dual = true then (if linkB = true then 2 * n + 1 else 2 * n) else n
    let p := h.shown.getD x 0
    let r (k : Nat) : Bool := bit p (16 + k)
    let g (k : Nat) : Bool := bit p (8 + k)
    let b (k : Nat) : Bool := bit p k
    (¬ on → ∀ pair, s.lvdsPair i linkB pair n = none) ∧
    (on → s.lvdsPair i linkB 4 n = some [true, true, false, false, false, true, true]) ∧
    (on → t.bpp18 = true → s.lvdsPair i linkB 3 n = none) ∧
    (on → x < t.hactive → h.lineNo < t.vactive →
      (t.jeida = true ∨ t.bpp18 = true →
        s.lvdsPair i linkB 0 n = some [g 2, r 7, r 6, r 5, r 4, r 3, r 2] ∧ s.lvdsPair i linkB 1 n = some [b 3, b 2, g 7, g 6, g 5, g 4, g 3] ∧
        s.lvdsPair i linkB 2 n = some [true, !t.vspol, !t.hspol, b 7, b 6, b 5, b 4]) ∧
      (t.jeida = true → t.bpp18 = false → s.lvdsPair i linkB 3 n = some [false, b 1, b 0, g 1, g 0, r 1, r 0]) ∧
      (t.jeida = false → t.bpp18 = false →
        s.lvdsPair i linkB 0 n = some [g 0, r 5, r 4, r 3, r 2, r 1, r 0] ∧ s.lvdsPair i linkB 1 n = some [b 1, b 0, g 5, g 4, g 3, g 2, g 1] ∧
        s.lvdsPair i linkB 2 n = some [true, !t.vspol, !t.hspol, b 5, b 4, b 3, b 2] ∧
        s.lvdsPair i linkB 3 n = some [false, b 7, b 6, g 7, g 6, r 7, r 6]))) ∧
  (∀ (s : State) (tid k : Nat),
    let y := s.source tid
    let d := y.pend.getD y.cfg
    let off : Int := (s.time.datum : Int) - d.rowNs k (-1) * unitNs
    (d.oneshot = true → (s.frameDue y d k = true ↔ y.sending = false)) ∧
    (d.oneshot = false → (s.frameDue y d k = true ↔ 0 ≤ off ∧ off < s.tickLen ∧ y.sentAt ≠ s.uptime + 1)) ∧
    (s.frameDue y d k = false → exec (.sourceFrameSend tid k) s = .next s)) ∧
  (∀ (s : State) (tid k : Nat), s.frameDue (s.source tid) ((s.source tid).pend.getD (s.source tid).cfg) k = true →
    let u := s.applySrc tid
    let x := u.source tid
    let c := x.cfg
    let ws (a b : Word) : List Word := [ pack [fld 28 c.fmt, fld 16 (b2n c.oneshot), x.frameSeq], pack [fld 16 c.height, c.width],
      pack [fld 16 c.yoff, c.xoff], a, b, 0, 0, 0 ]
    let v := u.setSource tid { x with
      frameSeq := (x.frameSeq + 1) % 65536, sending := true, row := 0, k := k, abandoned := false, fetching := false
      sentAt := u.uptime + 1, gen := (u.gaz tid).gen }
    let start := c.frameBase + k * 1000000000 / c.rate
    (u.srcSends tid = true → c.oneshot = false →
      exec (.sourceFrameSend tid k) s = .next (v.sendTunnel tid false (bytesOf (ws (compactNs start) (compactSec start))))) ∧
    (u.srcSends tid = true → c.oneshot = true → x.oneDone = false →
      exec (.sourceFrameSend tid k) s = .next (v.sendTunnel tid false (bytesOf (ws 0 0)))) ∧
    (u.srcSends tid = false ∨ c.oneshot = true ∧ x.oneDone = true →
      exec (.sourceFrameSend tid k) s = .next (u.setSource tid { x with sending := false }))) ∧
  (∀ (s : State) (tid k : Nat),
    let x := s.source tid
    let lives := s.srcSends tid = true ∧ x.gen = (s.gaz tid).gen
    let due := x.cfg.oneshot = true ∨
      linesFrom x.cfg.frameBase x.cfg.rate x.cfg.vtotal x.k ((x.cfg.yoff : Int) + x.row - 7) ≤ (s.nowNs : Int)
    x.sending = true → x.abandoned = false → x.fetching = false → x.row < x.cfg.height →
    (¬ lives → exec (.sourceRowSend tid) s = .next (s.setSource tid { x with sending := false })) ∧
    (lives → ¬ due → exec (.sourceRowSend tid) s = .next s) ∧
    (lives → due → epSlice (s.gaz tid).srcEp = some k →
      exec (.sourceRowSend tid) s = .next ((s.setSource tid { x with fetching := true }).emit (.hostRead (s.slice k).port
        (s.slice k).pasid (x.cfg.base + x.row * x.cfg.stride) (x.cfg.width * fmtBytes x.cfg.fmt) (s.rowUrgent x))))) ∧
  (∀ (s : State) (tid : Nat) (bytes : List Byte),
    let x := s.source tid
    let lives := s.srcSends tid = true ∧ x.gen = (s.gaz tid).gen
    x.sending = true → x.abandoned = false → x.fetching = true → x.row < x.cfg.height →
    let u := s.rowUrgent x
    let done := decide (x.row + 1 = x.cfg.height)
    (∀ ok, ¬ lives → exec (.rowFetchDone tid ok bytes) s = .next (s.setSource tid { x with sending := false, fetching := false })) ∧
    (lives → exec (.rowFetchDone tid false bytes) s = .next ((s.setSource tid
      { x with abandoned := true, sending := false, fetching := false, readErrs := satAdd 32 x.readErrs 1
               oneDone := x.oneDone || x.cfg.oneshot }).srcAlert tid 7 stTargetError 0 x.row)) ∧
    (lives → exec (.rowFetchDone tid true bytes) s = .next ((s.setSource tid
      { x with row := x.row + 1, urgentRows := satAdd 32 x.urgentRows (b2n u), sending := !done, fetching := false
               oneDone := x.oneDone || (done && x.cfg.oneshot) }).offerAll tid u true (rowChunks bytes))))

/-- From a slice that may command the head, DISP_TIMING stages a timing within the limits and is BAD_PARAM outside them; DISP_OVERLAY stages an
overlay, the background colour or up to 8 CLUT entries, BAD_PARAM for a count of 0 or above 8 or entries past 255; a head DISP_COMMIT is
taken with the kinds it names and completes when they apply. From a slice that may command the source, DISP_PLANE stages a source within its
limits and is BAD_PARAM outside them, and a source DISP_COMMIT applies at once on a source that is sending no frame and waits for the next
FRAME message otherwise. From a slice that may command them: DISP_UNDERCOAT FORM 1 sets a plane's descriptor and clears it where asked,
BAD_PARAM above 8 MiB; FORM 0 stages the undercoat settings, BAD_PARAM where UNDERRUNMAX or RETURNFRAMES is 0 and BUSY where another head
captures into the plane; DISP_CRC_REGION takes effect one line later, BAD_PARAM for N, W or H of 0; DISP_QUERY answers with the head's, the
region's or the source's words. -/
def Obligations.displayCommands : Prop :=
  (let headOk (c : Cmd) (u : State) : Prop := u.mayUse c 5 (c.f 4 0 0) = true ∧ u.headPresent (c.f 4 0 0) = true
   let srcOk (c : Cmd) (tid gen : Nat) (any : Bool) (u : State) : Prop := (u.authZ c = true ∨ u.ownsTun c tid = true) ∧
     genOk any gen (u.gaz tid).gen = true ∧ (u.gaz tid).state ≠ gClosed ∧ (u.gaz tid).cls = clsDisp ∧ (u.gaz tid).ingress = 7 ∧
     (epSlice (u.gaz tid).srcEp).isSome = true
   ∀ c : Cmd,
     let i := c.f 4 0 0
     let tid := c.f 4 11 0
     let src (fb : Nat) : SrcCfg :=
       { fmt := c.f 4 31 28, wm := c.f 4 27 25, oneshot := c.b 4 24, enable := c.b 4 23, frameBase := fb
         height := c.f 5 27 16, width := c.f 5 11 0, yoff := c.f 6 27 16, xoff := c.f 6 11 0, stride := c.f 7 23 0
         base := c.w64 8, rate := c.f 12 23 16, vtotal := c.f 12 11 0 }
     let fits : Prop := c.w64 8 % 64 = 0 ∧ c.f 7 23 0 % 64 = 0 ∧ c.f 5 11 0 * fmtBytes (c.f 4 31 28) ≤ c.f 7 23 0 ∧ 1 ≤ c.f 4 27 25 ∧
       64 ≤ c.f 5 11 0 ∧ c.f 5 11 0 ≤ 1920 ∧ 1 ≤ c.f 5 27 16 ∧ c.f 5 27 16 ≤ 1200 ∧ 24 ≤ c.f 12 23 16 ∧ c.f 12 23 16 ≤ 75 ∧ 1 ≤ c.f 12 11 0
     let overlay : Overlay := { enable := c.b 4 6, x := c.f 5 11 0, y := c.f 5 27 16, w := c.f 6 11 0, h := c.f 6 27 16,
                                colour := c.f 7 23 0, alpha := c.f 7 31 24 }
     (∀ fb, Completes (.dispTiming c) c 0x0800 (layTiming c) false
       (fun u => headOk c u ∧ u.compactField c 9 = some fb ∧ (timingOf c fb).ok = true)
       (fun u => (u.modHead i fun h => { h with staged := timingOf c fb }).complete c stOk [])) ∧
     Completes (.dispTiming c) c 0x0800 (layTiming c) false
       (fun u => headOk c u ∧ ∀ fb, u.compactField c 9 = some fb → (timingOf c fb).ok = false) (fun u => u.complete c stBadParam []) ∧
     (∀ fb, Completes (.dispPlane c) c 0x0801 (layDispPlane c) false
       (fun u => srcOk c tid (c.f 4 19 12) (c.b 4 20) u ∧ u.compactField c 10 = some fb ∧ fits)
       (fun u => (u.setSource tid { u.source tid with staged := src fb }).complete c stOk [])) ∧
     Completes (.dispPlane c) c 0x0801 (layDispPlane c) false
       (fun u => srcOk c tid (c.f 4 19 12) (c.b 4 20) u ∧ (u.compactField c 10 = none ∨ ¬ fits)) (fun u => u.complete c stBadParam []) ∧
     Completes (.dispOverlay c) c 0x0802 (layOverlay c) false (fun u => headOk c u ∧ c.f 4 2 1 = 0)
       (fun u => (u.modHead i fun h => { h with stagedLine := { h.stagedLine with
         overlays := h.stagedLine.overlays.write Overlay.init (c.f 4 5 4) overlay } }).complete c stOk []) ∧
     Completes (.dispOverlay c) c 0x0802 (layOverlay c) false (fun u => headOk c u ∧ c.f 4 2 1 = 1)
       (fun u => (u.modHead i fun h => { h with stagedLine := { h.stagedLine with bg := c.f 5 23 0 } }).complete c stOk []) ∧
     Completes (.dispOverlay c) c 0x0802 (layOverlay c) false
       (fun u => headOk c u ∧ c.f 4 2 1 = 2 ∧ 1 ≤ c.f 4 19 16 ∧ c.f 4 19 16 ≤ 8 ∧ c.f 4 15 8 + c.f 4 19 16 ≤ 256)
       (fun u => (u.modHead i fun h => { h with stagedLine := { h.stagedLine with
         clut := (List.range (c.f 4 19 16)).foldl (fun t k => t.write 0 (c.f 4 15 8 + k) (c.f (5 + k) 23 0)) h.stagedLine.clut } }).complete
           c stOk []) ∧
     Completes (.dispOverlay c) c 0x0802 (layOverlay c) false
       (fun u => headOk c u ∧ c.f 4 2 1 = 2 ∧ (c.f 4 19 16 = 0 ∨ 8 < c.f 4 19 16 ∨ 256 < c.f 4 15 8 + c.f 4 19 16))
       (fun u => u.complete c stBadParam []) ∧
     Completes (.dispCommit c) c 0x0803 (layCommit c) false (fun u => headOk c u ∧ c.b 4 3 = false)
       (fun u => u.takeCommit i [c] (c.b 4 1) (c.b 4 2) (c.f 5 11 0)) ∧
     Completes (.dispCommit c) c 0x0803 (layCommit c) false
       (fun u => srcOk c (c.f 4 27 16) (c.f 5 19 12) (c.b 5 20) u ∧ c.b 4 3 = true ∧ (u.source (c.f 4 27 16)).sending = true)
       (fun u =>
         let x := u.source (c.f 4 27 16)
         u.setSource (c.f 4 27 16) { x with pend := some x.staged, cmds := c :: x.cmds }) ∧
     Completes (.dispCommit c) c 0x0803 (layCommit c) false
       (fun u => srcOk c (c.f 4 27 16) (c.f 5 19 12) (c.b 5 20) u ∧ c.b 4 3 = true ∧ (u.source (c.f 4 27 16)).sending = false)
       (fun u =>
         let x := u.source (c.f 4 27 16)
         (u.setSource (c.f 4 27 16) { x with pend := some x.staged, cmds := c :: x.cmds }).applySrc (c.f 4 27 16))) ∧
  (∀ c : Cmd,
     let i := c.f 4 0 0
     let k := c.f 4 10 9
     let uc : UcCfg := { plane := c.f 4 5 4, capture := c.b 4 6, force := c.f 4 8 7, underrunMax := c.f 5 7 0, returnFrames := c.f 5 15 8 }
     let r : Region := { enable := c.b 4 4, hostExp := c.b 4 5, policy := c.f 4 7 6, n := c.f 4 11 8, x := c.f 5 11 0,
                         y := c.f 5 27 16, w := c.f 6 11 0, h := c.f 6 27 16, expected := word (c.w 7) }
     let headOk (u : State) : Prop := u.mayUse c 5 i = true ∧ u.headPresent i = true
     let ucOf (u : State) : UcCfg := { uc with force := if c.f 4 8 7 = 0 then (u.head i).stagedUc.force else c.f 4 8 7 }
     let ucOk (u : State) : Prop := c.f 4 2 1 = 0 ∧ headOk u ∧ (uc.plane = (u.head i).uc.plane ∨ u.mayUse c 6 uc.plane = true)
     let tid := c.f 4 27 16
     Completes (.dispUndercoat c) c 0x0804 (layUndercoat c) false
       (fun u => c.f 4 2 1 = 1 ∧ u.mayUse c 6 k = true ∧ c.f 5 11 0 * c.f 5 27 16 * 3 ≤ 8388608)
       (fun u => (u.setPlane k { u.plane k with
         width := c.f 5 11 0, height := c.f 5 27 16, px := if c.b 4 11 then [] else (u.plane k).px }).complete c stOk []) ∧
     Completes (.dispUndercoat c) c 0x0804 (layUndercoat c) false
       (fun u => c.f 4 2 1 = 1 ∧ u.mayUse c 6 k = true ∧ 8388608 < c.f 5 11 0 * c.f 5 27 16 * 3) (fun u => u.complete c stBadParam []) ∧
     Completes (.dispUndercoat c) c 0x0804 (layUndercoat c) false
       (fun u => ucOk u ∧ 1 ≤ uc.underrunMax ∧ 1 ≤ uc.returnFrames ∧ (uc.capture = false ∨ (u.head (1 - i)).captures uc.plane = false))
       (fun u => (u.setHead i { u.head i with stagedUc := ucOf u }).complete c stOk []) ∧
     Completes (.dispUndercoat c) c 0x0804 (layUndercoat c) false
       (fun u => ucOk u ∧ (uc.underrunMax = 0 ∨ uc.returnFrames = 0)) (fun u => u.complete c stBadParam []) ∧
     Completes (.dispUndercoat c) c 0x0804 (layUndercoat c) false
       (fun u => ucOk u ∧ 1 ≤ uc.underrunMax ∧ 1 ≤ uc.returnFrames ∧ uc.capture = true ∧ (u.head (1 - i)).captures uc.plane = true)
       (fun u => u.complete c stBusy []) ∧
     Completes (.dispCrcRegion c) c 0x0805 (layRegion c) false
       (fun u => headOk u ∧ 1 ≤ r.n ∧ 1 ≤ r.w ∧ 1 ≤ r.h)
       (fun u => (u.modHead i fun h => { h with regNext := h.regNext ++
         [(c.f 4 3 1, r, u.nowNs + ceilDiv 1000000000 ((u.headTiming i).rate * (u.headTiming i).vtotal))] }).complete c stOk []) ∧
     Completes (.dispCrcRegion c) c 0x0805 (layRegion c) false
       (fun u => headOk u ∧ (r.n = 0 ∨ r.w = 0 ∨ r.h = 0)) (fun u => u.complete c stBadParam []) ∧
     Completes (.dispQuery c) c 0x0806 (layDispQuery c) true (fun u => c.f 4 2 1 = 0 ∧ u.headPresent i = true)
       (fun u => u.complete c stOk (u.headWords i)) ∧
     Completes (.dispQuery c) c 0x0806 (layDispQuery c) true (fun u => c.f 4 2 1 = 1 ∧ u.headPresent i = true)
       (fun u =>
         let r := (u.head i).regions.read Region.init (c.f 4 6 4)
         u.complete c stOk [r.pinCrc, r.expect, word r.mismatches, word r.crcFrame]) ∧
     Completes (.dispQuery c) c 0x0806 (layDispQuery c) true (fun u => c.f 4 2 1 = 2 ∧ (u.gaz tid).state ≠ gClosed ∧
         (u.gaz tid).cls = clsDisp ∧ (u.gaz tid).ingress = 7 ∧ (epSlice (u.gaz tid).srcEp).isSome = true)
       (fun u =>
         let x := u.source tid
         u.complete c stOk [pack [fld 17 (b2n x.pend.isSome), fld 16 (b2n x.cfg.enable), x.frameSeq], word x.urgentRows, word x.readErrs, 0]))

/-! ### USB (Chapter 14) -/

/-- The token rows complete on an attached hub that is not suspended. For an enabled local DFP a token is repeated on that port after the hub
has learned from it. For an enabled virtual port with a mapping: a SETUP is acknowledged, buffered and forwarded, supersedes the pipe's work
and starts at DATA1; OUT data is acknowledged and dropped where its toggle repeats, NAKed without room, and otherwise buffered, forwarded
and answered ACK, or NYET where no further packet fits; PING is answered ACK or NAK by the room left; IN data is the oldest packet buffered,
and otherwise NAK with credit asked for; a failed pipe gives no answer once, a halted one STALL, a token that is late or finds the USB domain or
the fabric recovering NAK. A periodic split: its start-split sends OUT data or asks for one IN transaction, its complete-split has the device's
answer, or the IN data of the frame before, once it is there, NYET while it is outstanding and NAK without any (the model's choice, log entry
55). A request to the hub or a
port answers: port features act, GET_STATUS of a port gives its status and change, SET_ADDRESS and SET_CONFIGURATION are taken,
GET_DESCRIPTOR gives the descriptor cut to its length, and a port that is no port stalls. -/
def Obligations.usbTokens : Prop :=
  let local' (s : State) (t : UsbTok) : Prop := s.usb.attached = true ∧ s.usb.suspended = false ∧ 1 ≤ s.tokPort t ∧ s.tokPort t ≤ 4 ∧
    (s.uport (s.tokPort t)).st = upEnabled ∧ (s.uport (s.tokPort t)).far = none
  let near (s : State) (t : UsbTok) : Prop := s.usb.attached = true ∧ s.usb.suspended = false ∧ 5 ≤ s.tokPort t ∧
    (s.uport (s.tokPort t)).st = upEnabled ∧ (s.uport (s.tokPort t)).mapped ≠ none
  (∀ (s : State) (t : UsbTok) (bytes : List Byte), local' s t →
    let p := s.tokPort t
    let k := pipeKey t.addr t.ep 0 false
    exec (.usbSetupToken t bytes) s = .next (((s.setPipe p k { (s.uport p).pipe k with setup := bytes.take 8 }).learnSetup t p bytes).emit
      (.usbBus p 6 bytes))) ∧
  (∀ (s : State) (t : UsbTok) (pid : Nat) (bytes : List Byte), local' s t →
    let p := s.tokPort t
    let k := pipeKey t.addr t.ep t.typ false
    exec (.usbOutToken t pid bytes) s =
      .next ((if ((s.uport p).pipe k).ctrlIn then s.localStatus p t k else s).emit (.usbBus p 6 bytes))) ∧
  (∀ (s : State) (t : UsbTok) (acked : Bool), local' s t →
    let p := s.tokPort t
    let k := pipeKey t.addr t.ep t.typ true
    exec (.usbPingToken t) s = .next (s.emit (.usbBus p 6 [])) ∧
    exec (.usbInToken t acked) s = .next
      ((if acked = true ∧ ((s.uport p).pipe k).ctrlIn = false then s.localStatus p t k else s).emit (.usbBus p 6 []))) ∧
  (∀ (s : State) (t : UsbTok) (bytes : List Byte), near s t →
    let p := s.tokPort t
    let k := pipeKey t.addr t.ep 0 false
    let x := (s.uport p).pipe k
    let x' : Pipe := { x with typ := 0, fsls := t.split.isSome, halted := false, noAns := false, status := none, setup := bytes.take 8,
                              buf := [], naked := false, toggle := true, bursts := (x.bursts.map fun _ => 4) ++ [0], outst := x.outst + 1 }
    exec (.usbSetupToken t bytes) s = .next ((((s.pipeMsg p 0 t.addr t.ep false x' 1 0 0 [(0, bytes.take 8)]).setPipe p k
      { x' with txSeq := (x'.txSeq + 1) % 32 }).learnSetup t p bytes).emit (.usbHost t.addr t.ep ansAck []))) ∧
  (∀ (s : State) (t : UsbTok) (p k : Nat) (body : State),
    let x := (s.uport p).pipe k
    (s.usbLate t = true ↔ t.late = true ∨ s.recovers [1, 0x0C] = true) ∧
    (s.usbLate t = true → s.pipeGate t p k body = (s.usbCount 0 3 1).emit (.usbHost t.addr t.ep ansNak [])) ∧
    (s.usbLate t = false → x.noAns = true →
      s.pipeGate t p k body = (s.setPipe p k { x with noAns := false }).emit (.usbHost t.addr t.ep ansNone [])) ∧
    (s.usbLate t = false → x.noAns = false → x.halted = true → s.pipeGate t p k body = s.emit (.usbHost t.addr t.ep ansStall [])) ∧
    (s.usbLate t = false → x.noAns = false → x.halted = false → s.pipeGate t p k body = body)) ∧
  (∀ (s ask : State) (t : UsbTok) (p k : Nat) (acked : Bool),
    let x := (s.uport p).pipe k
    let a := if x.ctrlIn = true then ansAck else ansData 1
    (∀ v, x.status = some v → s.ctrlStatus t p k true ask =
      ((s.setPipe p k { x with status := none, setup := [] }).statusDone p t.addr x.setup true).emit (.usbHost t.addr t.ep a [])) ∧
    (∀ v, x.status = some v → s.ctrlStatus t p k false ask = s.emit (.usbHost t.addr t.ep a [])) ∧
    (x.status = none → s.ctrlStatus t p k acked ask = (if x.bursts.contains 3 then s else ask).emit (.usbHost t.addr t.ep ansNak []))) ∧
  (∀ (s : State) (t : UsbTok) (pid : Nat) (bytes : List Byte), near s t →
    let p := s.tokPort t
    let k := pipeKey t.addr t.ep t.typ false
    let x : Pipe := { (s.uport p).pipe k with typ := t.typ, fsls := t.split.isSome }
    let room := Config.usbPipeRoom - sumN (x.buf.map fun e => e.2.length)
    let answer (u : State) : State := s.pipeGate t p k u
    let split := t.split ≠ none ∧ (t.typ = 1 ∨ t.typ = 3)
    let held := s.setPipe p k { x with buf := x.buf ++ [(pid, bytes)], status := none }
    (t.typ = 1 → (split → t.complete = false) → (s.uport p).locked = false →
      exec (.usbOutToken t pid bytes) s = .next (s.usbCount p 5 1)) ∧
    (t.typ = 1 → (split → t.complete = false) → (s.uport p).locked = true → exec (.usbOutToken t pid bytes) s = .next held) ∧
    (split → t.typ = 3 → t.complete = false →
      exec (.usbOutToken t pid bytes) s = .next (held.flushOut p t.addr t.ep s.usb.mframe k)) ∧
    (split → t.complete = true → ∀ v, x.status = some v →
      exec (.usbOutToken t pid bytes) s = .next (answer ((s.setPipe p k { x with status := none }).emit (.usbHost t.addr t.ep ansAck [])))) ∧
    (split → t.complete = true → x.status = none → exec (.usbOutToken t pid bytes) s =
      .next (answer (s.emit (.usbHost t.addr t.ep (if x.outst = 0 then ansNak else ansNyet) [])))) ∧
    (t.typ = 0 → x.ctrlIn = true → exec (.usbOutToken t pid bytes) s = .next (answer (s.ctrlStatus t p k true
      ((s.pipeMsg p 1 t.addr t.ep false x 1 0 0 [(1, [])]).setPipe p k
        { x with outst := x.outst + 1, bursts := x.bursts ++ [3], txSeq := (x.txSeq + 1) % 32 })))) ∧
    (t.typ ≠ 1 → ¬ split → t.typ ≠ 0 ∨ x.ctrlIn = false → pid % 2 ≠ b2n x.toggle →
      exec (.usbOutToken t pid bytes) s = .next (answer (s.emit (.usbHost t.addr t.ep ansAck [])))) ∧
    (t.typ ≠ 1 → ¬ split → t.typ ≠ 0 ∨ x.ctrlIn = false → pid % 2 = b2n x.toggle → room < bytes.length →
      exec (.usbOutToken t pid bytes) s = .next (answer (s.emit (.usbHost t.addr t.ep ansNak [])))) ∧
    (t.typ ≠ 1 → ¬ split → t.typ ≠ 0 ∨ x.ctrlIn = false → pid % 2 = b2n x.toggle → bytes.length ≤ room →
      exec (.usbOutToken t pid bytes) s = .next (answer (((s.setPipe p k
        { x with buf := x.buf ++ [(pid, bytes)], toggle := !x.toggle }).flushOut p t.addr t.ep s.usb.mframe k).emit
          (.usbHost t.addr t.ep (if room - bytes.length < t.maxPkt then ansNyet else ansAck) []))))) ∧
  (∀ (s : State) (t : UsbTok), near s t →
    let p := s.tokPort t
    let k := pipeKey t.addr t.ep t.typ false
    let room := Config.usbPipeRoom - sumN (((s.uport p).pipe k).buf.map fun e => e.2.length)
    exec (.usbPingToken t) s = .next (s.pipeGate t p k (s.emit (.usbHost t.addr t.ep (if t.maxPkt ≤ room then ansAck else ansNak) [])))) ∧
  (∀ (s : State) (t : UsbTok) (acked : Bool), near s t →
    let p := s.tokPort t
    let k := pipeKey t.addr t.ep t.typ true
    let x := (s.uport p).pipe k
    let split := t.split ≠ none ∧ (t.typ = 1 ∨ t.typ = 3)
    let due := (s.usb.mframe / 8 + 2047) % 2048
    let left := x.buf.dropWhile (frameLate due)
    let ready (e : Nat × List Byte) : Prop := e.1 / 32 = due ∧ (t.typ = 3 ∨ (s.uport p).locked = true)
    (t.typ = 1 → ¬ split → exec (.usbInToken t acked) s = .next (s.inIso t p k)) ∧
    (split → t.complete = false → exec (.usbInToken t acked) s = .next (s.grantIn t p k 2)) ∧
    (split → t.complete = true → ∀ e rest, left = e :: rest → ready e → exec (.usbInToken t acked) s = .next (s.pipeGate t p k
      ((s.setPipe p k { x with buf := rest, toggle := !x.toggle }).emit
        (.usbHost t.addr t.ep (ansData (if t.typ = 1 then e.1 % 4 else b2n x.toggle)) e.2)))) ∧
    (split → t.complete = true → (∀ e rest, left = e :: rest → ¬ ready e) → exec (.usbInToken t acked) s = .next (s.pipeGate t p k
      ((s.setPipe p k { x with buf := left }).emit (.usbHost t.addr t.ep (if x.outst = 0 then ansNak else ansNyet) [])))) ∧
    (t.typ = 0 → x.ctrlIn = false →
      exec (.usbInToken t acked) s = .next (s.pipeGate t p k (s.ctrlStatus t p k acked (s.grantIn t p k 3)))) ∧
    (t.typ ≠ 1 → ¬ split → t.typ ≠ 0 ∨ x.ctrlIn = true → ∀ pid data rest, x.buf = (pid, data) :: rest →
      let u := s.emit (.usbHost t.addr t.ep (ansData (b2n x.toggle)) data)
      exec (.usbInToken t acked) s = .next (s.pipeGate t p k (if acked then u.inTaken t p k rest else u))) ∧
    (t.typ ≠ 1 → ¬ split → t.typ ≠ 0 ∨ x.ctrlIn = true → x.buf = [] →
      exec (.usbInToken t acked) s = .next (s.pipeGate t p k
        ((if x.bursts.contains 2 then s else s.grantIn t p k 2).emit (.usbHost t.addr t.ep ansNak []))))) ∧
  (∀ (s : State) (val idx len : Nat), s.usb.attached = true →
    let p := idx % 256
    let mine := s.usbPort p = true ∧ ¬ (p ≤ 4 ∧ (s.uport p).far ≠ none)
    let ack (u : State) : State := u.emit (.usbHost u.usb.address 0 ansAck [])
    (mine → val ≠ 21 → exec (.usbHubRequest 0x23 3 val idx len) s = .next
      ((s.portFeature p true val).emit (.usbHost s.usb.address 0 ansAck []))) ∧
    (mine → val ≠ 21 → exec (.usbHubRequest 0x23 1 val idx len) s = .next
      ((s.portFeature p false val).emit (.usbHost s.usb.address 0 ansAck []))) ∧
    (¬ mine → exec (.usbHubRequest 0x23 3 val idx len) s = .next (s.emit (.usbHost s.usb.address 0 ansStall []))) ∧
    (s.usbPort p = true → (s.uport p).far = none → exec (.usbHubRequest 0xA3 0 val idx len) s =
      .next (s.emit (.usbHost s.usb.address 0 (ansData 1) (leBytes 2 (s.uport p).status.toNat ++ leBytes 2 (s.uport p).change.toNat)))) ∧
    (s.usbPort p = true → p ≤ 4 → (s.uport p).far ≠ none → exec (.usbHubRequest 0xA3 0 val idx len) s =
      .next (s.emit (.usbHost s.usb.address 0 (ansData 1)
        (leBytes 2 ((s.uport p).status &&& psPower).toNat ++ leBytes 2 (s.uport p).change.toNat)))) ∧
    exec (.usbHubRequest 0 5 val idx len) s =
      .next ({ s with usb := { s.usb with address := val % 128 } }.emit (.usbHost 0 0 ansAck [])) ∧
    exec (.usbHubRequest 0 9 val idx len) s = .next (ack { s with usb := { s.usb with configured := decide (val = 1) } }) ∧
    (∀ d, s.usbDescriptor (val / 256) (val % 256) = some d → exec (.usbHubRequest 0x80 6 val idx len) s =
      .next (s.emit (.usbHost s.usb.address 0 (ansData 1) (d.take len)))) ∧
    (s.usbDescriptor (val / 256) (val % 256) = none → exec (.usbHubRequest 0x80 6 val idx len) s =
      .next (s.emit (.usbHost s.usb.address 0 ansStall []))))

/-- The bus rows complete. A bus reset puts an attached hub back; VBUS attaches or detaches; a start of frame is stamped, counted as missed on a gap
after the first, and sent as SOFREP for every enabled remote port; 3 ms of idle suspends the hub with its enabled ports, and a resume begins on
the ports suspended with it; a debounced attach, a detach, the end of a reset after 15 ms, the end of a resume after 20 ms, an overcurrent and
its end, and a device's wake change the port as a local port of the hub or as the far end of a remote one; a remote microframe takes the host's
number and instant in acquisition, and otherwise starts once the last has run its 60,000 + ADJ bit times, steers ADJ within plus or minus 15 and
follows the lock rule, its SOF on the bus and late messages CANCELLED; the end of OFFTIME returns the port to HOST and its power to what the
host last asked. -/
def Obligations.usbBus : Prop :=
  (∀ s : State, s.usb.attached = true →
    exec .usbBusReset s = .next { s.busReset with usb := { s.busReset.usb with hs := true } }) ∧
  (∀ s : State, exec (.vbusChange true) s = .next ({ s with usb := { s.usb with vbus := true } } : State).usbAttach ∧
    (s.usb.attached = true →
      exec (.vbusChange false) s = .next ({ s.busReset with usb := { s.busReset.usb with vbus := false } } : State).usbAttach) ∧
    (s.usb.attached = false → exec (.vbusChange false) s = .next ({ s with usb := { s.usb with vbus := false } } : State).usbAttach)) ∧
  (∀ (s : State) (n : Nat), s.usb.attached = true →
    let w := s.usb.ports.foldl (fun (s : State) q => if q.2.mapped.isSome then s.flushIso q.1 else s) s
    let u : State := { w with usb := { w.usb with mframe := n, sofSeen := true } }
    let v := if s.usb.sofSeen = true ∧ (s.usb.mframe + 1) % 16384 ≠ n then u.usbCount 0 5 1 else u
    exec (.usbSof n) s = .next (v.usb.ports.foldl (fun (s : State) q => s.sofRep q.2 n) v)) ∧
  (∀ s : State, s.usb.attached = true → s.usb.suspended = false →
    let u := ({ s with usb := { s.usb with suspended := true, sofSeen := false } } : State).usbCount 0 1 1
    let one (s : State) (p : Nat) : State :=
      if (s.uport p).st ≠ upEnabled ∨ (p ≤ 4 ∧ (s.uport p).far.isSome) then s
      else
        let v := s.setUport p { s.uport p with st := upSuspended }
        if (s.uport p).mapped.isSome then v.portMsg p 4 else v.emit (.usbBus p 2 [])
    exec .suspendIdle s = .next (u.allPorts.foldl one u)) ∧
  (∀ s : State, s.usb.suspended = true →
    let u : State := { s with usb := { s.usb with suspended := false } }
    let one (s : State) (p : Nat) : State :=
      if (s.uport p).st = upSuspended ∧ (s.uport p).status &&& psSuspend = 0 ∧ ((s.uport p).far.isNone ∨ 4 < p) then s.portFeature p false 2 else s
    exec .globalResume s = .next (u.allPorts.foldl one u)) ∧
  (∀ (s : State) (p sp : Nat), s.usbPresent = true → 1 ≤ p → p ≤ 4 →
    let u := s.uport p
    let conn := s.setUport p { u with st := upDisabled, speed := sp, status := u.status ||| psConn ||| speedBits sp, change := u.changed psConn }
    let gone := s.setUport p { u with st := upDisc, status := u.status &&& psPower, change := u.changed psConn, locked := false, hostRes := false }
    (∀ b, u.far = none → u.changed b = u.change ||| b) ∧ (∀ b, u.far ≠ none → u.changed b = u.change) ∧
    (u.st = upDisc → u.far = none → exec (.connectDebounce p sp) s = .next ((conn.raiseGen p).usbEvent p 1 stOk 0)) ∧
    (∀ m, u.st = upDisc → u.far = some m → s.tunOpen m.main = true → (m.per = 0 ∨ s.tunOpen m.per = true) →
      exec (.connectDebounce p sp) s = .next ((conn.portMsg p 0).raiseGen p)) ∧
    (upDisabled ≤ u.st → u.far = none → exec (.deviceDisconnect p) s = .next (((gone.raiseGen p).clearAddrs p).usbEvent p 2 stOk 0)) ∧
    (upDisabled ≤ u.st → u.far ≠ none → exec (.deviceDisconnect p) s = .next ((gone.portMsg p 1).raiseGen p)) ∧
    (s.passed u.busAt 6000000 = false → exec (.portResetEnd p sp) s = .next s) ∧
    (s.passed u.busAt 8000000 = false → exec (.resumeEnd p) s = .next s) ∧
    (u.st = upResetting → s.passed u.busAt 6000000 = true → u.far = none → exec (.portResetEnd p sp) s = .next (s.resetDone p sp)) ∧
    (u.st = upResetting → s.passed u.busAt 6000000 = true → u.far ≠ none → exec (.portResetEnd p sp) s =
      .next ((s.setUport p { u with st := upEnabled, speed := sp, acq := true, locked := false, hostH := none }).portMsg p 2)) ∧
    (u.st = upResuming → s.passed u.busAt 8000000 = true → u.far = none → exec (.resumeEnd p) s = .next (s.resumed p)) ∧
    (u.st = upResuming → s.passed u.busAt 8000000 = true → u.far ≠ none → exec (.resumeEnd p) s =
      .next ((s.setUport p { u with st := upEnabled, hostRes := false }).portMsg p 5)) ∧
    (u.far = none → exec (.deviceRemoteWake p) s = .next (s.remoteWake p)) ∧
    (u.far ≠ none → u.st = upSuspended → exec (.deviceRemoteWake p) s = .next (s.portMsg p 6)) ∧
    (u.far ≠ none → u.st = upResuming → exec (.deviceRemoteWake p) s = .next ((s.setUport p { u with wakeSrc := 3 }).portMsg p 6)) ∧
    (s.usbPort p = true → u.ocLow = false →
      let v := (s.setUport p { u with
        ocLow := true, ocOff := true, pwren := false, st := upOff, status := psOver, change := u.changed psOver }).usbCount p 0 1
      (u.far = none → exec (.overcurrentFilter p) s = .next (((v.raiseGen p).clearAddrs p).usbEvent p 3 stLimit 0)) ∧
      (u.far ≠ none → exec (.overcurrentFilter p) s = .next (((v.portMsg p 3).raiseGen p).clearAddrs p))) ∧
    (u.ocLow = true →
      let v := s.setUport p { u with ocLow := false, status := u.status &&& ~~~psOver, change := u.changed psOver }
      (u.far = none → exec (.usbOcNRelease p) s = .next (v.usbEvent p 4 stOk 0)) ∧
      (u.far ≠ none → exec (.usbOcNRelease p) s = .next (v.portMsg p 4)))) ∧
  (∀ (s : State) (p : Nat),
    let u := s.uport p
    let n := (u.mf + 1) % 16384
    let next : Nat := match u.starts with
      | (_, r) :: _ => ((r : Int) + (60000 + u.adj) * 25).toNat
      | [] => 3 * s.now250
    let starts := ((n, next) :: u.starts).take 16
    let v := ((s.setUport p { u.newSlot n with mf := n, starts := starts }).farSof p).missAll p
    s.usbPresent = true → u.far ≠ none → u.st = upEnabled →
    (∀ h, u.acq = true → u.hostH = some h → exec (.microframeStart p) s =
      .next ((((if u.locked then s.portMsg p 8 else s).setUport p { u.newSlot u.hostMf with
        mf := u.hostMf, starts := [(u.hostMf, 12 * h)], acq := false, adj := 0, ePrev := none, lockRun := 0, unlockRun := 0
        locked := false }).farSof p).missAll p)) ∧
    (u.acq = false ∨ u.hostH = none → 3 * s.now250 < next → exec (.microframeStart p) s = .next s) ∧
    (u.hostH = none ∨ u.acq = false ∧ starts.find? (fun q => decide (q.1 = u.hostMf)) = none → next ≤ 3 * s.now250 →
      exec (.microframeStart p) s = .next v) ∧
    (∀ h r, u.acq = false → u.hostH = some h → next ≤ 3 * s.now250 → starts.find? (fun q => decide (q.1 = u.hostMf)) = some r →
      let y := v.uport p
      let e : Int := (r.2 : Int) - 12 * h
      let lr := if -1200 ≤ e ∧ e ≤ 1200 then min 8 (y.lockRun + 1) else 0
      let ur := if e < -12000 ∨ 12000 < e then min 8 (y.unlockRun + 1) else 0
      let now := if y.locked then decide (ur < 8) else decide (lr = 8)
      ∃ adj : Int, (-15 ≤ y.adj → y.adj ≤ 15 → -15 ≤ adj ∧ adj ≤ 15) ∧
        (∀ e0, y.ePrev = some e0 → -(100 * e) + 39936 < 1600 * (e - e0) → -15 < y.adj → adj = y.adj - 1) ∧
        (∀ e0, y.ePrev = some e0 → 1600 * (e - e0) < -(100 * e) - 39936 → y.adj < 15 → adj = y.adj + 1) ∧
        let w := v.setUport p { y with adj := adj, ePrev := some e, lockRun := lr, unlockRun := ur, locked := now }
        exec (.microframeStart p) s = .next (if now = y.locked then w else w.portMsg p (if now then 7 else 8)))) ∧
  (∀ (s : State) (p : Nat), s.passed (s.uport p).offAt (400000 * (s.uport p).offMs) = false → exec (.powerCycleEnd p) s = .next s) ∧
  (∀ (s : State) (p : Nat), (s.uport p).policy = 2 → s.passed (s.uport p).offAt (400000 * (s.uport p).offMs) = true →
    let u := s.setUport p { s.uport p with policy := 0 }
    ((s.uport p).far = none → (s.uport p).ocOff = true → exec (.powerCycleEnd p) s = .next u) ∧
    ((s.uport p).far = none → (s.uport p).ocOff = false → exec (.powerCycleEnd p) s = .next (u.usbPower p (s.uport p).hostPwr)) ∧
    ((s.uport p).far ≠ none → exec (.powerCycleEnd p) s = .next (u.farPower p)))

/-- The message rows complete. At a far end a message of its port's generation with the next number is taken: SETUP cancels the pipe's work,
OUTDATA joins its buffer, INREQ is its credit, both CANCELLED on a halted pipe, and SOFREP is the host's microframe; at the near end an
INDATA joins the pipe's buffer and a RESULT halts, fails, completes the status stage or frees the next burst. A message of another
generation or with reserved fields is counted; a number out of turn is a proxy error. A PORT message is an order at a far end and a report
at the near end, and the first on a tunnel to a free DFP makes it a far end. On the far bus: a NAK changes nothing, an error is retried
twice and then answered, a STALL halts the pipe and cancels its work, IN data is collected until its credit is used or an isochronous
microframe's DATA0 has come, and an acknowledged OUT packet leaves the buffer; an isochronous OUT runs two microframes after its own, a full- or
low-speed periodic message in the frame after its own, and in no other. -/
def Obligations.usbMessages : Prop :=
  (∀ (s : State) (tid p : Nat) (bytes : List Byte),
    let h := usbHdr bytes
    let t := s.usbAdopt tid
    let u := t.uport p
    let k := pipeKey h.addr h.ep h.typ h.dirIn
    let x : Pipe := { u.pipe k with rxSeq := ((u.pipe k).rxSeq + 1) % 32, typ := h.typ, fsls := h.fsls }
    t.usbMsgPort tid = some p → u.far ≠ none →
    let goodOp (op : Nat) : Prop := h.op = op ∧ h.ok = true ∧ h.gen = u.gen.toNat ∧ h.pseq = (u.pipe k).rxSeq
    (goodOp 0 → exec (.usbSetupMessage tid bytes) s = .next ((t.cancelAll p h.addr h.ep false x x.bursts.length).setPipe p k
      { x with txSeq := (x.txSeq + x.bursts.length) % 32, bursts := [1], mfs := [h.mframe], buf := h.es.take 1, credit := 0, errs := 0, halted := false, owed := none
               toggle := false, setup := ((h.es.head?).map fun e => e.2).getD [] })) ∧
    (goodOp 1 → x.halted = false → x.owed = none → exec (.outdata tid bytes) s =
      .next (t.setPipe p k { x with bursts := x.bursts ++ [h.es.length], mfs := x.mfs ++ [h.mframe], buf := x.buf ++ h.es })) ∧
    (goodOp 1 → x.halted = true → exec (.outdata tid bytes) s = .next (t.refuseHalted p h k x h.es.length)) ∧
    (∀ code, goodOp 1 → x.halted = false → x.owed = some code → exec (.outdata tid bytes) s =
      .next (t.failNow p h.addr h.ep k h.dirIn (decide (h.typ = 0))
        { x with bursts := x.bursts ++ [h.es.length], mfs := x.mfs ++ [h.mframe], buf := x.buf ++ h.es } code)) ∧
    (∀ code, goodOp 2 → x.halted = false → x.owed = some code → exec (.inreq tid bytes) s =
      .next (t.failNow p h.addr h.ep k h.dirIn (decide (h.typ = 0))
        { x with bursts := x.bursts ++ [0], mfs := x.mfs ++ [h.mframe], credit := h.count } code)) ∧
    (goodOp 2 → x.halted = false → x.owed = none → exec (.inreq tid bytes) s =
      .next (t.setPipe p k { x with bursts := x.bursts ++ [0], mfs := x.mfs ++ [h.mframe], credit := h.count })) ∧
    (goodOp 2 → x.halted = true → exec (.inreq tid bytes) s = .next (t.refuseHalted p h k x 0)) ∧
    (h.op = 6 → h.ok = true → h.gen = u.gen.toNat → exec (.sofrep tid bytes) s =
      let at' := resolveCompact t.nowNs h.instant.1 h.instant.2
      .next (t.setUport p { u with hostMf := h.mframe, hostH := some at'
                                   acq := u.acq || (decide (u.st = upEnabled) && u.hostStepped h.mframe at') })) ∧
    (h.op = 1 → h.ok = true → h.gen ≠ u.gen.toNat → exec (.outdata tid bytes) s = .next (t.usbCount p 2 1)) ∧
    (h.op = 1 → h.ok = true → h.gen = u.gen.toNat → h.pseq ≠ (u.pipe k).rxSeq → exec (.outdata tid bytes) s = .next (t.proxyError p)) ∧
    (h.op = 1 → h.ok = false → exec (.outdata tid bytes) s = .next (t.usbCount p 3 1))) ∧
  (∀ (s : State) (tid p : Nat) (bytes : List Byte),
    let h := usbHdr bytes
    let u := s.uport p
    let k := pipeKey h.addr h.ep h.typ h.dirIn
    let x : Pipe := { u.pipe k with rxSeq := ((u.pipe k).rxSeq + 1) % 32, bursts := (u.pipe k).bursts.drop 1, outst := (u.pipe k).outst - 1 }
    let kind := ((u.pipe k).bursts.head?).getD 0
    s.usbMsgPort tid = some p → u.mapped ≠ none → h.ok = true → h.gen = u.gen.toNat → h.pseq = (u.pipe k).rxSeq → (u.pipe k).bursts ≠ [] →
    (h.op = 3 → kind ≠ 4 → exec (.indata tid bytes) s = .next (s.setPipe p k { x with
      buf := x.buf ++ (if h.typ = 1 ∨ h.typ = 3 ∧ h.fsls = true then h.es.map fun e => (h.mframe * 4 + e.1, e.2) else h.es), naked := false })) ∧
    (h.op = 3 → kind = 4 → exec (.indata tid bytes) s = .next (s.setPipe p k x)) ∧
    (h.op = 4 → kind = 4 → exec (.result tid bytes) s = .next (s.setPipe p k x)) ∧
    (h.op = 4 → kind ≠ 4 → h.code = 1 → exec (.result tid bytes) s = .next
      ((s.setPipe p k { x with halted := true, buf := if h.dirIn then x.buf else [] }).usbCount p 7 (if h.dirIn = true ∨ kind = 2 then 0 else x.buf.length))) ∧
    (h.op = 4 → kind ≠ 4 → h.code = 2 → exec (.result tid bytes) s =
      .next ((s.setPipe p k { x with noAns := true }).usbCount 0 4 (b2n x.fsls))) ∧
    (h.op = 4 → kind = 3 ∨ kind = 1 ∧ x.fsls = true ∧ x.typ = 3 → h.code = 0 → exec (.result tid bytes) s = .next (s.setPipe p k { x with status := some 0 })) ∧
    (h.op = 4 → kind ≠ 4 → kind ≠ 3 → ¬ (kind = 1 ∧ x.fsls = true ∧ x.typ = 3) → h.code = 0 → ¬ (h.typ = 0 ∧ x.ctrlIn = true) →
      exec (.result tid bytes) s = .next ((s.setPipe p k x).flushOut p h.addr h.ep s.usb.mframe k))) ∧
  (∀ (s : State) (tid src p : Nat) (bytes : List Byte), s.usbMsgPort tid = some p → (usbHdr bytes).op = 5 → (usbHdr bytes).ok = true →
    let h := usbHdr bytes
    let hub (u : UPort) : UPort := { u with mapped := u.mapped.map fun m => { m with hub := src } }
    ((s.uport p).far ≠ none → exec (.portMessage tid src bytes) s = .next (s.farOrder p h.code h.gen)) ∧
    ((s.uport p).far = none → h.gen = (s.uport p).gen.toNat → exec (.portMessage tid src bytes) s =
      .next ((s.setUport p (hub (s.uport p))).nearReport p h.code h.speed)) ∧
    ((s.uport p).far = none → h.gen ≠ (s.uport p).gen.toNat → exec (.portMessage tid src bytes) s = .next (s.usbCount p 2 1))) ∧
  (∀ (s : State) (tid src p : Nat) (bytes : List Byte), s.usbPresent = true → s.usbPortOf tid = none → epBlock (s.gaz tid).dstEp = 5 →
    epIndex (s.gaz tid).dstEp = p → 1 ≤ p → p ≤ 4 →
    s.usbPort p = true → s.freeDfp p = true → (s.takeFar p src tid).usbMsgPort tid = some p →
    (((s.takeFar p src tid).uport p).far).isSome = true → (usbHdr bytes).op = 5 → (usbHdr bytes).ok = true →
    exec (.portMessage tid src bytes) s = .next ((s.takeFar p src tid).farOrder p (usbHdr bytes).code (usbHdr bytes).gen)) ∧
  (∀ (s : State) (p addr ep pid : Nat) (dirIn : Bool) (data : List Byte),
    let u := s.uport p
    let k := pipeKey addr ep 2 dirIn
    let x := u.pipe k
    let m := (x.mfs.head?).getD 0
    let frame := x.fsls = true ∧ (x.typ = 1 ∨ x.typ = 3)
    (frame → (x.runs dirIn u.mf = true ↔ (u.mf / 8 + 4095 - m / 8) % 2048 = 0)) ∧
    (¬ frame → x.typ = 1 → dirIn = false → (x.runs dirIn u.mf = true ↔ (u.mf + 32766 - m) % 16384 = 0)) ∧
    (¬ frame → x.typ ≠ 1 ∨ dirIn = true → x.runs dirIn u.mf = true) ∧
    (¬ ((u.pipe (pipeKey addr ep 0 false)).typ = 0 ∧ (u.pipe (pipeKey addr ep 0 false)).bursts ≠ []) →
      x.runs dirIn u.mf = false ∨ u.farHeld { x with tried := true } = true →
      ∀ res, exec (.farBusTransaction p addr ep dirIn res pid data) s = .next s)) ∧
  (∀ (s : State) (p addr ep pid : Nat) (dirIn : Bool) (data : List Byte),
    let u := s.uport p
    let k := pipeKey addr ep 2 dirIn
    let x : Pipe := { u.pipe k with tried := true }
    s.usbPresent = true → u.far ≠ none → ¬ ((u.pipe (pipeKey addr ep 0 false)).typ = 0 ∧ (u.pipe (pipeKey addr ep 0 false)).bursts ≠ []) →
    x.bursts ≠ [] → x.runs dirIn u.mf = true → u.farHeld x = false →
    let fails (u : State) (code : Nat) : State :=
      let v := u.sendIn p addr ep k x (u.uport p).mf
      let y := (v.uport p).pipe k
      if y.bursts = [] then v.setPipe p k { y with owed := some code } else v.failNow p addr ep k true false y code
    exec (.farBusTransaction p addr ep dirIn 2 pid data) s = .next (s.setPipe p k { x with errs := 0, naked := true }) ∧
    (x.errs < 2 → exec (.farBusTransaction p addr ep dirIn 3 pid data) s =
      .next ((s.usbCount p 6 1).setPipe p k { x with errs := x.errs + 1 })) ∧
    (2 ≤ x.errs → x.buf = [] ∨ dirIn = false → exec (.farBusTransaction p addr ep dirIn 3 pid data) s =
      .next (((s.usbCount p 6 1).result p addr ep dirIn x 2).setPipe p k
        { x.answered with buf := x.buf.drop ((x.bursts.head?).getD 0), owed := none, credit := 0 })) ∧
    (2 ≤ x.errs → dirIn = true → x.buf ≠ [] → exec (.farBusTransaction p addr ep dirIn 3 pid data) s = .next (fails (s.usbCount p 6 1) 2)) ∧
    (dirIn = true → x.buf ≠ [] → exec (.farBusTransaction p addr ep dirIn 1 pid data) s = .next (fails s 1)) ∧
    (x.buf = [] ∨ dirIn = false → exec (.farBusTransaction p addr ep dirIn 1 pid data) s =
      .next ((((s.result p addr ep dirIn x 1).cancelAll p addr ep dirIn { x.answered with owed := none, credit := 0 }
        x.answered.bursts.length).setPipe p k
        { x.answered with owed := none, txSeq := (x.answered.txSeq + x.answered.bursts.length) % 32, bursts := [], mfs := [], buf := []
                          credit := 0, halted := true }).usbCount p 7 (if dirIn then 0 else x.buf.length - 1))) ∧
    (dirIn = true → x.typ ≠ 1 → pid % 2 ≠ b2n x.toggle → exec (.farBusTransaction p addr ep dirIn 0 pid data) s =
      .next (s.setPipe p k { x with errs := 0 })) ∧
    (dirIn = true → x.typ = 1 ∨ pid % 2 = b2n x.toggle →
      let y : Pipe := { x with buf := x.buf ++ [(pid, data)], credit := x.credit - 1, toggle := !x.toggle, errs := 0 }
      exec (.farBusTransaction p addr ep dirIn 0 pid data) s =
        .next (if x.credit ≤ 1 ∨ data = [] ∨ x.typ = 1 ∧ pid = 0 then s.sendIn p addr ep k y u.mf else s.setPipe p k y) ∧
      exec (.farBusTransaction p addr ep dirIn 4 pid data) s = .next (s.sendIn p addr ep k y u.mf)) ∧
    (dirIn = false →
      let y : Pipe := { x with buf := x.buf.drop 1, toggle := !x.toggle, errs := 0 }
      exec (.farBusTransaction p addr ep dirIn 0 pid data) s =
        .next (if (x.bursts.head?).getD 0 ≤ 1 then (s.result p addr ep dirIn y 0).setPipe p k y.answered
               else s.setPipe p k { y with bursts := ((x.bursts.head?).getD 0 - 1) :: x.bursts.drop 1 }))) ∧
  (∀ (s : State) (p addr ep pid : Nat) (data : List Byte),
    let u := s.uport p
    let k := pipeKey addr ep 0 false
    let x : Pipe := { u.pipe k with tried := true }
    s.usbPresent = true → u.far ≠ none → x.typ = 0 → x.bursts ≠ [] → u.farHeld x = false →
    (x.ctrlIn = false → x.runs true u.mf = true → exec (.farBusTransaction p addr ep true 0 pid data) s =
      .next (((s.result p addr ep true x 0).setPipe p k x.answered).statusDone p addr x.setup false)) ∧
    (x.ctrlIn = false → x.runs false u.mf = true → (x.bursts.head?).getD 0 ≤ 1 →
      let y : Pipe := { x with buf := x.buf.drop 1, toggle := !x.toggle, errs := 0 }
      exec (.farBusTransaction p addr ep false 0 pid data) s = .next ((s.result p addr ep false y 0).setPipe p k y.answered)))

/-- From a slice that may use the port, in its generation: MAP of an unmapped port to an OPEN pair that fits takes the far end from the root's
record, raises the generation, sends the far hub the host's power and reports MAPPED; UNMAP sends POWER_OFF, raises the generation, clears
the addresses and reports UNMAPPED; a mapped port is BUSY, a tunnel not OPEN WRONG_MODE; USB_QUERY answers with the hub's or the port's
words; USB_PORT_POWER sets the policy and the power it gives, BAD_PARAM outside 10 to 10,000 ms and DENIED for a policy of always on at a
presented, far or virtual port; USB_COUNTERS reads the counters and clears them where asked. -/
def Obligations.usbCommands : Prop :=
  ∀ c : Cmd,
    let v := c.f 4 3 0
    let main := c.f 5 11 0
    let per := c.f 6 11 0
    let mapOk (u : State) : Prop := u.mayUse c 7 v = true ∧ u.usbPresent = true ∧ u.usbPort v = true ∧
      genOk (c.b 4 16) (c.f 4 15 8) (u.uport v).gen = true ∧ u.ufpActive = true
    let pairOk (u : State) : Prop := u.tunOpen main = true ∧ u.usbPairOk main v = true ∧ (per = 0 ∨ u.tunOpen per = true ∧ u.usbPairOk per v = true)
    let pwrOk (u : State) : Prop := u.mayUse c 7 v = true ∧ u.usbPresent = true ∧ u.usbPort v = true ∧
      genOk (c.b 4 16) (c.f 4 15 8) (u.uport v).gen = true
    Completes (.usbPortMap c) c 0x0900 (layPortMap c) false
      (fun u => mapOk u ∧ c.b 4 4 = false ∧ pairOk u ∧ (u.uport v).mapped = none ∧ u.isRoot = true ∧ (u.farEnd main).1 ≠ u.hubNo ∧
        epBlock (u.farEnd main).2 = 5 ∧ 1 ≤ epIndex (u.farEnd main).2 ∧ epIndex (u.farEnd main).2 ≤ 4 ∧
        (per = 0 ∨ u.farEnd per = u.farEnd main) ∧
        (u.usb.ports.any fun q => decide (q.2.mapped.map (fun m => (m.hub, m.port)) = some ((u.farEnd main).1, epIndex (u.farEnd main).2))) = false)
      (fun u =>
        let on := (u.uport v).status &&& psPower != 0
        let t := (u.setUport v { u.uport v with
          mapped := some { hub := (u.farEnd main).1, port := epIndex (u.farEnd main).2, main := main, per := per }
          st := if on then upDisc else upOff }).raiseGen v
        let t := (t.portMsg v (if on then 0 else 1)).usbEvent v 9 stOk main
        t.complete c stOk (t.usbWords v)) ∧
    Completes (.usbPortMap c) c 0x0900 (layPortMap c) false (fun u => mapOk u ∧ c.b 4 4 = false ∧ pairOk u ∧ (u.uport v).mapped ≠ none)
      (fun u => u.complete c stBusy []) ∧
    Completes (.usbPortMap c) c 0x0900 (layPortMap c) false (fun u => mapOk u ∧ c.b 4 4 = false ∧ u.tunOpen main = false)
      (fun u => u.complete c stWrongMode []) ∧
    Completes (.usbPortMap c) c 0x0900 (layPortMap c) false (fun u => mapOk u ∧ c.b 4 4 = true ∧ (u.uport v).mapped = none)
      (fun u => u.complete c stOk (u.usbWords v)) ∧
    Completes (.usbPortMap c) c 0x0900 (layPortMap c) false (fun u => mapOk u ∧ c.b 4 4 = true ∧ (u.uport v).mapped ≠ none)
      (fun u =>
        let x := u.uport v
        let t := (((u.portMsg v 1).setUport v { x with
          mapped := none, locked := false, status := x.status &&& psPower, st := if x.status &&& psPower = 0 then upOff else upDisc
          change := x.change ||| (x.status &&& psConn) }).raiseGen v).clearAddrs v
        let t := t.usbEvent v 10 stOk 0
        t.complete c stOk (t.usbWords v)) ∧
    Completes (.usbQuery c) c 0x0901 (layUsbQuery c) true (fun u => u.usbPresent = true ∧ v = 0)
      (fun u => u.complete c stOk
        [ pack [fld 12 u.usb.vports, fld 11 (b2n u.usb.hs), fld 10 (b2n u.ufpActive), fld 9 (b2n u.usb.suspended),
            fld 8 (b2n u.usb.configured), u.usb.address],
          pack [fld 16 u.usb.pid.toNat, u.usb.vid.toNat], word u.usb.fitted.toNat, 0 ]) ∧
    Completes (.usbQuery c) c 0x0901 (layUsbQuery c) true (fun u => u.usbPresent = true ∧ v ≠ 0 ∧ u.usbPort v = true)
      (fun u => u.complete c stOk (u.usbWords v)) ∧
    Completes (.usbPortPower c) c 0x0902 (layUsbPortPower c) false (fun u => pwrOk u ∧ 10 ≤ c.f 5 15 0 ∧ c.f 5 15 0 ≤ 10000 ∧
        (c.f 4 5 4 = 3 → v ≤ 4 ∧ u.presented v = false ∧ (u.uport v).far = none))
      (fun u =>
        let t := (u.setUport v { u.uport v with policy := c.f 4 5 4, offMs := c.f 5 15 0, offAt := u.uptime + 1 }).ocDone v
        (if (u.uport v).far = none then t.usbPower v (decide (c.f 4 5 4 = 3) || (decide (c.f 4 5 4 = 0) && (u.uport v).hostPwr))
          else t.farPower v).complete c stOk []) ∧
    Completes (.usbPortPower c) c 0x0902 (layUsbPortPower c) false (fun u => pwrOk u ∧ (c.f 5 15 0 < 10 ∨ 10000 < c.f 5 15 0))
      (fun u => u.complete c stBadParam []) ∧
    Completes (.usbPortPower c) c 0x0902 (layUsbPortPower c) false (fun u => pwrOk u ∧ 10 ≤ c.f 5 15 0 ∧ c.f 5 15 0 ≤ 10000 ∧
        c.f 4 5 4 = 3 ∧ (4 < v ∨ u.presented v = true ∨ (u.uport v).far ≠ none)) (fun u => u.complete c stDenied []) ∧
    Completes (.usbCounters c) c 0x0903 (layUsbCounters c) false (fun u => u.usbPresent = true ∧ (v = 0 ∨ u.usbPort v = true) ∧ c.b 4 4 = false)
      (fun u => u.complete c stOk (counterWords (if v = 0 then u.usb.counters else (u.uport v).counters) 0)) ∧
    Completes (.usbCounters c) c 0x0903 (layUsbCounters c) false
      (fun u => u.mayUse c 7 v = true ∧ u.usbPresent = true ∧ (v = 0 ∨ u.usbPort v = true) ∧ c.b 4 4 = true)
      (fun u => (if v = 0 then { u with usb := { u.usb with counters := [] } } else u.modUport v fun x => { x with counters := [] }).complete c stOk
        (counterWords (if v = 0 then u.usb.counters else (u.uport v).counters) 0))

/-! ### Ethernet and CAN (Chapter 15) -/

/-- The MAC rows complete on a fitted MAC that is on with its link up. A good frame within the limits with room in the receive buffer goes,
stamped and stripped as its VLAN entry says, into the tunnel of the first entry that hits it; a bad FCS, a runt, an oversize frame, a
control frame, a full buffer, no entry and a tunnel not OPEN are each counted. A link change is recorded and reported; PHY_INT is reported
once in 10 ms, to the holders of MACs too (log entry 61); the oldest frame of the transmit buffer leaves with its FCS, and its stamp is reported where asked. A NET or CAN message at
an exit endpoint of a ring is written to the ring or dropped where malformed; at a MAC or controller it joins the transmit queue, or is
counted as malformed, oversize or dropped, and a lossless one waits where the buffer of the MAC is full (log entry 61); an MDIO access completes in turn. -/
def Obligations.netRows : Prop :=
  (∀ (s : State) (m since : Nat) (bytes : List Byte), s.macFitted m = true → s.working = true → (s.mac m).mode ≠ 0 → (s.mac m).link = true →
    let x := s.mac m
    let limit := x.mtu + (if ethTagged bytes then 4 else 0)
    let r := s.macCount m mcRxFrames 1
    let find := (List.range 16).find? fun i => ((r.mac m).vlan.read VlanEnt.init i).hits bytes
    let fits := 64 ≤ bytes.length ∧ bytes.length ≤ limit
    exec (.macFrameReceive m since false bytes) s = .next (s.macCount m mcFcsErr 1) ∧
    (bytes.length < 64 → exec (.macFrameReceive m since true bytes) s = .next (s.macCount m mcRunt 1)) ∧
    (64 ≤ bytes.length → limit < bytes.length → exec (.macFrameReceive m since true bytes) s = .next (s.macCount m mcOversize 1)) ∧
    (fits → ethControl bytes = true → exec (.macFrameReceive m since true bytes) s = .next (r.macCount m mcCtrlDiscard 1)) ∧
    (fits → ethControl bytes = false → 32768 < r.macRxUsed m + bytes.length →
      exec (.macFrameReceive m since true bytes) s = .next (r.macCount m mcRxDrop 1)) ∧
    (fits → ethControl bytes = false → r.macRxUsed m + bytes.length ≤ 32768 → find = none →
      exec (.macFrameReceive m since true bytes) s = .next (r.macCount m mcNoMap 1)) ∧
    (∀ i, fits → ethControl bytes = false → r.macRxUsed m + bytes.length ≤ 32768 → find = some i →
      let e := (r.mac m).vlan.read VlanEnt.init i
      (r.tunOpen e.tid = false → exec (.macFrameReceive m since true bytes) s = .next (r.macCount m mcTunDown 1)) ∧
      (r.tunOpen e.tid = true →
        let frame := bytes.take (bytes.length - 4)
        let strip := e.strip && ethTagged bytes
        let t := quantise x.quantum (s.ago (4 * (since + x.inLat)) / 4)
        exec (.macFrameReceive m since true bytes) s = .next (r.sendTunnel e.tid false
          (netMessage strip true (if strip then ethTci bytes else 0) 0 t (if strip then frame.take 12 ++ frame.drop 16 else frame)))))) ∧
  (∀ (s : State) (m speed : Nat) (up : Bool) (ab : BitVec 16), s.macFitted m = true → s.working = true → (s.mac m).mode ≠ 0 → (s.mac m).link ≠ up →
    let sp := if (s.mac m).mode = 1 then speed % 3 else if (s.mac m).mode = 2 then 2 else 3
    exec (.macLinkChange m up speed ab) s = .next ((s.setMac m { s.mac m with link := up, speed := sp, partner := ab }).netAlert
      m 8 m 1 stOk 0 (b2n up + 2 * sp) 0 0)) ∧
  (∀ s : State, s.passed s.net.phyIntAt 4000000 = false → exec .phyInterrupt s = .next s) ∧
  (∀ s : State, s.coreOn = true → s.passed s.net.phyIntAt 4000000 = true →
    let u := ({ s with net := { s.net with phyIntAt := s.uptime + 1 } } : State).reportMgmt 0x0A stOk 0 [pack [2], 0, 0, 0]
    exec .phyInterrupt s = .next (u.macHolders.foldl (fun (s : State) p =>
      if p.2 = (s.mgmtHub, 0) then s else s.report p.2.1 p.2.2 0x0A stOk p.1 [pack [2], 0, 0, 0]) u)) ∧
  (∀ (s : State) (m : Nat) (f : TxFrame) (rest : List TxFrame), s.macFitted m = true → s.working = true → (s.mac m).mode ≠ 0 →
    (s.mac m).link = true → (s.mac m).txq = f :: rest →
    let t := quantise (s.mac m).quantum (s.nowNs + (s.mac m).egLat)
    let u := ((s.setMac m { s.mac m with txq := rest }).macCount m mcTxFrames 1).emit (.mac m (f.bytes ++ leBytes 4 (crc32 f.bytes).toNat))
    (f.stamp = false → exec (.macFrameTransmit m) s = .next (u.macGo m)) ∧
    (f.stamp = true → exec (.macFrameTransmit m) s = .next (((u.macCount m mcTxStamps 1).netAlertOwner m f.tid 3 (t % 1000000000)
      (t / 1000000000 % 2 ^ 32) (f.cookie * 65536 + t / 1000000000 / 2 ^ 32 % 65536)).macGo m))) ∧
  (∀ (s : State) (tid : Nat) (bytes : List Byte), (s.gaz tid).state ≠ gClosed → (s.gaz tid).loc = true → (s.gaz tid).cls = clsNet → s.coreOn = true →
    let g := s.gaz tid
    let m := epIndex g.dstEp
    let f := netFrame bytes
    let x := s.mac m
    let limit := x.mtu + (if ethTagged f then 4 else 0)
    let full : Prop := 32768 < sumN (x.txq.map fun q => q.bytes.length + 4) + netFrameLen bytes
    (epBlock g.dstEp ≠ 6 → netOk bytes = true → exec (.netMessage tid bytes) s = .next (s.ringWrite tid bytes)) ∧
    (epBlock g.dstEp ≠ 6 → netOk bytes = false → exec (.netMessage tid bytes) s = .next (s.countDrop tid 1)) ∧
    (epBlock g.dstEp = 6 → netOk bytes = false → exec (.netMessage tid bytes) s = .next ((s.macCount m mcMalformed 1).macGo m)) ∧
    (epBlock g.dstEp = 6 → netOk bytes = true → limit < f.length + 4 →
      exec (.netMessage tid bytes) s = .next ((s.macCount m mcOversize 1).macGo m)) ∧
    (epBlock g.dstEp = 6 → netOk bytes = true → f.length + 4 ≤ limit → full → g.lossy = true →
      exec (.netMessage tid bytes) s = .next ((s.macCount m mcTxDrop 1).macGo m)) ∧
    (epBlock g.dstEp = 6 → netOk bytes = true → f.length + 4 ≤ limit → full → g.lossy = false →
      let p : TxPkt := { TxPkt.init with tunnel := tid, tclass := clsNet, payload := bytes }
      exec (.netMessage tid bytes) s = .next (State.macGo
        { s with tree := { s.tree with exitQ := { pkt := p, since := s.now250 } :: s.tree.exitQ } } m)) ∧
    (epBlock g.dstEp = 6 → netOk bytes = true → f.length + 4 ≤ limit → ¬ full →
      exec (.netMessage tid bytes) s = .next ((s.setMac m { x with txq := x.txq ++
        [{ bytes := f, stamp := bit (fromLe (bytes.take 4)) 14, cookie := bits (fromLe ((bytes.drop 4).take 4)) 31 16, tid := tid }] }).macGo m))) ∧
  (∀ (s : State) (tid : Nat) (bytes : List Byte), (s.gaz tid).state ≠ gClosed → (s.gaz tid).loc = true → (s.gaz tid).cls = clsCan → s.coreOn = true →
    let g := s.gaz tid
    let n := epIndex g.dstEp
    let w0 := fromLe (bytes.take 4)
    let w1 := fromLe ((bytes.drop 4).take 4)
    let x := s.can n
    let held := x.tunQ.length + (if x.offered.map Prod.fst = some 2 then 1 else 0)
    let good := 16 ≤ bytes.length ∧ canOk w0 w1 = true ∧ bytes.length = 16 + bits w1 6 0
    (epBlock g.dstEp ≠ 7 → good → exec (.canMessage tid bytes) s = .next (s.ringWrite tid bytes)) ∧
    (epBlock g.dstEp ≠ 7 → ¬ good → exec (.canMessage tid bytes) s = .next (s.countDrop tid 1)) ∧
    (epBlock g.dstEp = 7 → ¬ good → exec (.canMessage tid bytes) s = .next (s.canCount n ccMalformed 1)) ∧
    (epBlock g.dstEp = 7 → good → 32 ≤ held → exec (.canMessage tid bytes) s = .next (s.canCount n ccTxDrop 1)) ∧
    (epBlock g.dstEp = 7 → good → held < 32 → exec (.canMessage tid bytes) s = .next (s.setCan n { x with tunQ := x.tunQ ++
      [{ frame := { w0 := word w0, w1 := word w1, data := bytes.drop 16 }, due := s.now250, cmd := none, tid := tid }] }))) ∧
  (∀ (s : State) (data : Nat) (c : Cmd) (rest : List Cmd), s.net.mdio = c :: rest →
    exec (.mdioAccessDone data) s = .next ((({ s with net := { s.net with mdio := rest } } : State).complete c stOk
      (if c.b 4 1 then [] else [word (data % 65536)])).mdioStart))

/-- The CAN rows complete. A frame received by a controller on the bus is counted, seen by the claim logic, and goes with the losses counted for its
tunnel into the tunnel of the first filter that hits it and is set to forward; no filter and a tunnel not OPEN are counted, and an FD frame at a
controller in MODE 1 is not received; REC falls by 1 at a reception (log entry 61). At an idle bus the
best of the claim, the due timed frames and the oldest tunnel frame is offered; nothing is offered where none waits. The frame offered finishes,
completing its CAN_SEND with its instant, and the tunnel frames after it that are older than AGE as they reach the head are dropped; or it loses
arbitration and waits again, unless its holder has lost the controller meanwhile. Bus-off discards and counts every waiting frame, aborts their CAN_SENDs and is reported; recovery, with AUTOREC or by CAN_CFG, puts
the controller back; a claim that stood 250 ms since its frame was sent is settled, and no sooner; error passive is reported. -/
def Obligations.canRows : Prop :=
  (∀ (s : State) (n since : Nat) (w0 w1 : Word) (data : List Byte), s.canOn n = true →
    let len := bits w1.toNat 6 0
    let f : CanFrame := { w0 := w0, w1 := w1, data := (data ++ List.replicate len 0).take len }
    let u := ((s.canCount n ccRxFrames 1).recDown n).claimSees n f
    let x := u.can n
    let find := (List.range 64).find? fun i => (x.filters.read CanFilter.init i).hits f
    let fdOff := (s.can n).mode = 1 ∧ f.fdf = true
    (fdOff → exec (.canFrameReceive n since w0 w1 data) s = .next s) ∧
    (¬ fdOff → find = none → exec (.canFrameReceive n since w0 w1 data) s = .next (u.canCount n ccNoMap 1)) ∧
    (∀ i, ¬ fdOff → find = some i →
      let e := x.filters.read CanFilter.init i
      (e.action = false → exec (.canFrameReceive n since w0 w1 data) s = .next u) ∧
      (e.action = true → u.tunOpen e.tid = false → exec (.canFrameReceive n since w0 w1 data) s =
        .next (u.setCan n { x with lost := x.lost.mod 0 e.tid fun v => satAdd 8 v 1 })) ∧
      (e.action = true → u.tunOpen e.tid = true →
        let t := u.ago (4 * since) / 4
        exec (.canFrameReceive n since w0 w1 data) s = .next ((u.setCan n { x with lost := x.lost.write 0 e.tid 0 }).sendTunnel e.tid false
          (bytesOf [ pack [fld 31 (b2n f.ide), fld 30 (b2n f.rtr), f.id],
            pack [fld 31 (b2n f.fdf), fld 30 (b2n f.brs), fld 29 (b2n (bit w1.toNat 29)), fld 16 (x.lost.read 0 e.tid), f.len],
            compactNs t, compactSec t ] ++ f.data))))) ∧
  (∀ (s : State) (n : Nat),
    ((s.can n).rxErr = 0 → s.recDown n = s) ∧
    (0 < (s.can n).rxErr → (s.can n).rxErr < 128 → s.recDown n = s.setCan n { s.can n with rxErr := (s.can n).rxErr - 1 })) ∧
  (∀ (s : State) (n : Nat), s.canTx n = true → (s.can n).nameEn = true → (s.can n).claimed = false → (s.can n).addr ≠ 0xFE → (s.can n).claimQ = none →
    (s.can n).offered.map Prod.fst ≠ some 0 →
    ((s.can n).claimAt = 0 ∨ s.passed (s.can n).claimAt 100000000 = false → exec (.addressClaimSettle n) s = .next s) ∧
    ((s.can n).claimAt ≠ 0 → s.passed (s.can n).claimAt 100000000 = true → exec (.addressClaimSettle n) s = .next ((s.setCan n { s.can n with claimed := true }).canAlert n 8 stOk (s.can n).addr 0 0))) ∧
  (∀ (s : State) (n : Nat), s.canTx n = true → (s.can n).offered = none →
    let u := s.canDropFd n
    let x := u.can n
    let claim := x.claimQ.toList.map fun f => (0, ({ frame := f, due := u.now250, cmd := none, tid := 0 } : CanQ))
    let timed := (x.timedQ.filter fun q => decide (q.due ≤ u.now250)).map fun q => (1, q)
    let best := (claim ++ timed ++ (x.tunQ.take 1).map fun q => (2, q)).foldl canBetter none
    (best = none → exec (.canBusIdle n) s = .next u) ∧
    (∀ k q, best = some (k, q) → exec (.canBusIdle n) s = .next ((u.setCan n { x with
      offered := some (k, q)
      claimQ := if k = 0 then none else x.claimQ
      timedQ := if k = 1 then canDrop q x.timedQ else x.timedQ
      tunQ := if k = 2 then x.tunQ.drop 1 else x.tunQ }).emit (.can n q.frame.w0 q.frame.w1 q.frame.data)))) ∧
  (∀ (s : State) (n since k : Nat) (q : CanQ), (s.can n).offered = some (k, q) →
    let x := s.can n
    (q.dropped = true → exec (.canFrameSent n since false) s =
      .next (((s.setCan n { x with offered := none }).canCount n ccArbLost 1).abortSends [q])) ∧
    (q.dropped = false → exec (.canFrameSent n since false) s = .next ((s.setCan n { x with
      offered := none
      claimQ := if k = 0 then some (x.claimQ.getD q.frame) else x.claimQ
      timedQ := if k = 1 then q :: x.timedQ else x.timedQ
      tunQ := if k = 2 then q :: x.tunQ else x.tunQ }).canCount n ccArbLost 1)) ∧
    let kept := if k = 2 then x.tunQ.dropWhile fun p => decide (p.due + x.age * 4000000 < s.now250) else x.tunQ
    let u := ((s.setCan n { x with
      offered := none, txErr := x.txErr - 1, passive := decide (128 ≤ x.txErr - 1 ∨ 128 ≤ x.rxErr), tunQ := kept
      claimAt := if k = 0 then s.uptime + 1 else x.claimAt }).canCount n ccTxFrames 1).canCount n ccTxDrop
        (x.tunQ.length - kept.length)
    let v := if k = 0 then u else u.claimSees n q.frame
    (q.cmd = none → exec (.canFrameSent n since true) s = .next v) ∧
    (∀ c, q.cmd = some c → exec (.canFrameSent n since true) s =
      .next (v.complete c stOk [compactNs (v.ago (4 * since) / 4), compactSec (v.ago (4 * since) / 4)]))) ∧
  (∀ (s : State) (n : Nat), s.canTx n = true →
    let x := s.can n
    let all := x.offered.toList.map Prod.snd ++ x.claimQ.toList.map (fun f => { frame := f, due := 0, cmd := none, tid := 0 }) ++ x.timedQ ++ x.tunQ
    let u := s.setCan n { x with busOff := true, offered := none, claimQ := none, timedQ := [], tunQ := [], claimed := false }
    exec (.canBusOff n) s = .next ((((u.canCount n ccTxDrop all.length).canCount n ccBusOffs 1).abortSends all).canAlert n 6 stOk 0 0 0)) ∧
  (∀ (s : State) (n : Nat), s.canFitted n = true → s.working = true → (s.can n).mode ≠ 0 → (s.can n).busOff = true →
    (s.can n).autoRec = true ∨ (s.can n).forceRec = true →
    exec (.canBusOffRecovery n) s = .next (s.canBusOn n)) ∧
  (∀ (s : State) (n tx rx : Nat), s.canOn n = true → (s.can n).passive = false → 128 ≤ tx ∨ 128 ≤ rx → tx ≤ 255 → rx ≤ 255 →
    exec (.canErrorPassive n tx rx) s = .next ((s.setCan n { s.can n with passive := true, txErr := tx, rxErr := rx }).canAlert n 5 stOk tx rx 0))

/-- From a slice that may use the MAC or controller, fitted: NET_PORT_CFG configures the MAC, starts or queues an MDIO access or sets up a ring of a
tunnel the slice owns; NET_VLAN_MAP writes an entry for a tunnel of that MAC; NET_QUERY and NET_COUNTERS answer, the latter clearing its group
where asked; CAN_CFG sets the controller, BAD_PARAM and LIMIT outside the ranges, discards its timed frames, the one offered among them, and
in bus-off starts the recovery (log entry 61); CAN_FILTER writes an entry for a tunnel of that controller; CAN_NAME sets the NAME and starts the claim; CAN_QUERY
answers; CAN_SEND queues a frame at its instant, ABORTED without an address it needs and NO_RESOURCE at a full queue. What is not fitted is
NOT_PRESENT. -/
def Obligations.netCanCommands : Prop :=
  ∀ c : Cmd,
    let m := c.f 4 1 0
    let n := c.f 4 0 0
    let macOk (u : State) : Prop := u.mayUse c 8 m = true ∧ u.macFitted m = true
    let canMay (u : State) : Prop := u.mayUse c 9 n = true ∧ u.canFitted n = true
    let t := c.f 5 11 0
    let r := c.f 4 3 0
    let entries := c.f 6 12 0
    let bufsz := c.f 7 14 0
    let ringOk (u : State) : Prop := c.f 4 31 30 = 2 ∧ u.ownsTun c t = true ∧ genOk (c.b 5 20) (c.f 5 19 12) (u.gaz t).gen = true
    let ringMay (u : State) : Prop := ((u.gaz t).cls = clsNet ∨ (u.gaz t).cls = clsCan) ∧ c.here = true ∧
      (if c.b 4 5 then (u.gaz t).loc = true ∧ epSlice (u.gaz t).dstEp = some c.slice
        else (u.gaz t).ingress = 7 ∧ epSlice (u.gaz t).srcEp = some c.slice) ∧
      entries ∈ [16, 32, 64, 128, 256, 512, 1024, 2048, 4096] ∧ 256 ≤ bufsz ∧ bufsz ≤ 16384 ∧ bufsz % 64 = 0 ∧ alignedTo (c.w64 8) 4096 = true
    let words (x : Mac) : List Word :=
      [ pack [x.mode, fld 3 (b2n x.link), fld 4 x.speed, fld 18 x.mtu], word x.partner.toNat, pack [x.inLat, fld 16 x.egLat],
        word (sumN ((List.range 16).map fun i => if (x.vlan.read VlanEnt.init i).enable then 2 ^ i else 0)) ]
    let vlan : VlanEnt := { enable := c.b 4 8, mtch := c.f 4 10 9, group := c.f 4 12 11, strip := c.b 4 13, vid := c.f 4 27 16, tid := t }
    let filter : CanFilter := { enable := c.b 4 7, ide := c.b 4 8, fdsel := c.f 4 10 9, action := c.b 4 11, fid := BitVec.ofNat 29 (c.w 5),
                                mask := BitVec.ofNat 29 (c.w 6), tid := c.f 7 11 0 }
    let sendData := if c.indirect then c.data.take (c.f 8 6 0) else (bytesOf ((List.range 4).map fun i => word (c.w (9 + i)))).take (c.f 8 6 0)
    let held (u : State) : Nat := (u.can n).timedQ.length + (if (u.can n).offered.map Prod.fst = some 1 then 1 else 0)
    let frame : CanFrame := { w0 := word (c.w 7), w1 := word (c.w 8), data := sendData }
    Completes (.netPortCfg c) c 0x0A00 (layNetPort c) false
      (fun u => c.f 4 31 30 = 0 ∧ macOk u ∧ c.f 4 4 2 ≤ 3 ∧ 1518 ≤ c.f 5 13 0 ∧ c.f 5 13 0 ≤ 9216)
      (fun u => (u.macCfg m (c.f 4 4 2) (c.f 5 13 0) (c.f 6 11 0) (c.f 6 27 16) (c.b 4 5)).complete c stOk []) ∧
    Completes (.netPortCfg c) c 0x0A00 (layNetPort c) false
      (fun u => c.f 4 31 30 = 0 ∧ macOk u ∧ (c.f 5 13 0 < 1518 ∨ 9216 < c.f 5 13 0)) (fun u => u.complete c stBadParam []) ∧
    Completes (.netPortCfg c) c 0x0A00 (layNetPort c) false (fun u => c.f 4 31 30 = 0 ∧ u.mayUse c 8 m = true ∧ u.macFitted m = false)
      (fun u => u.complete c stNotPresent []) ∧
    Completes (.netPortCfg c) c 0x0A00 (layNetPort c) false (fun u => c.f 4 31 30 = 1 ∧ u.authZ c = true ∧ u.net.mdio = [])
      (fun u => ({ u with net := { u.net with mdio := [c] } } : State).mdioStart) ∧
    Completes (.netPortCfg c) c 0x0A00 (layNetPort c) false (fun u => c.f 4 31 30 = 1 ∧ u.authZ c = true ∧ u.net.mdio ≠ [])
      (fun u => { u with net := { u.net with mdio := u.net.mdio ++ [c] } }) ∧
    Completes (.netPortCfg c) c 0x0A00 (layNetPort c) false (fun u => ringOk u ∧ c.b 4 4 = false)
      (fun u => (u.setRing c.slice r Ring.init).complete c stOk []) ∧
    Completes (.netPortCfg c) c 0x0A00 (layNetPort c) false
      (fun u => ringOk u ∧ c.b 4 4 = true ∧ ((u.slice c.slice).ring r).enable = true) (fun u => u.complete c stBusy []) ∧
    Completes (.netPortCfg c) c 0x0A00 (layNetPort c) false
      (fun u => ringOk u ∧ c.b 4 4 = true ∧ ((u.slice c.slice).ring r).enable = false ∧ ringMay u)
      (fun u => (u.setRing c.slice r { Ring.init with
        enable := true, exitDir := c.b 4 5, tid := t, entries := entries, bufsz := bufsz, base := c.w64 8 }).complete c stOk []) ∧
    Completes (.netVlanMap c) c 0x0A01 (layVlanMap c) false (fun u => macOk u ∧ u.macSource m t = true)
      (fun u => (u.modMac m fun x => { x with vlan := x.vlan.write VlanEnt.init (c.f 4 7 4) vlan }).complete c stOk []) ∧
    Completes (.netVlanMap c) c 0x0A01 (layVlanMap c) false (fun u => macOk u ∧ u.macSource m t = false) (fun u => u.complete c stBadParam []) ∧
    Completes (.netQuery c) c 0x0A02 (layNetQuery c) true (fun u => u.macFitted m = true) (fun u => u.complete c stOk (words (u.mac m))) ∧
    Completes (.netQuery c) c 0x0A02 (layNetQuery c) true (fun u => u.macFitted m = false) (fun u => u.complete c stNotPresent []) ∧
    Completes (.netCounters c) c 0x0A03 (layNetCounters c) false (fun u => u.macFitted m = true ∧ c.b 4 4 = false)
      (fun u => u.complete c stOk (counterWords (u.mac m).counters (8 * c.f 4 3 2))) ∧
    Completes (.netCounters c) c 0x0A03 (layNetCounters c) false (fun u => macOk u ∧ c.b 4 4 = true)
      (fun u => (u.setMac m { u.mac m with counters := (u.mac m).counters.filter fun p => decide (p.1 / 8 ≠ c.f 4 3 2) }).complete c stOk
        (counterWords (u.mac m).counters (8 * c.f 4 3 2))) ∧
    Completes (.canCfg c) c 0x0B00 (layCanCfg c) false (fun u => canMay u ∧ canCfgBad c = true) (fun u => u.complete c stBadParam []) ∧
    Completes (.canCfg c) c 0x0B00 (layCanCfg c) false (fun u => canMay u ∧ canCfgBad c = false ∧ canRateBad c = true) (fun u => u.complete c stLimit []) ∧
    Completes (.canCfg c) c 0x0B00 (layCanCfg c) false (fun u => canMay u ∧ canCfgBad c = false ∧ canRateBad c = false)
      (fun u =>
        let x := u.can n
        let mode := c.f 4 2 1
        let off := mode = 0 ∨ mode = 3
        let of' (k : Nat) : List CanQ := (x.offered.toList.filter fun p => decide (p.1 = k)).map Prod.snd
        let y : Can := { x with mode := mode, claimed := x.claimed && decide (mode ≠ 0 ∧ mode ≠ 3), autoRec := c.b 4 3, nom := word (c.w 5)
                                dat := word (c.w 6), age := c.f 7 9 0, timedQ := [], tunQ := if off then of' 2 ++ x.tunQ else x.tunQ
                                offered := if off then none else x.offered.filter fun p => decide (p.1 ≠ 1) }
        let v := ((u.setCan n y).canCount n ccTxDrop (of' 1 ++ x.timedQ).length).abortSends (of' 1 ++ x.timedQ)
        (if x.busOff = true then v.modCan n fun x => { x with forceRec := decide (mode ≠ 0) }
          else if x.mode ≠ mode then (v.modCan n fun x => { x with others := [] }).claimStart n else v).complete c stOk []) ∧
    Completes (.canFilter c) c 0x0B01 (layCanFilter c) false (fun u => canMay u ∧ (u.gaz (c.f 7 11 0)).state ≠ gClosed ∧
        (u.gaz (c.f 7 11 0)).cls = clsCan ∧ (u.gaz (c.f 7 11 0)).ingress = 7 ∧ (u.gaz (c.f 7 11 0)).srcEp = 0x700 + n)
      (fun u => (u.modCan n fun x => { x with filters := x.filters.write CanFilter.init (c.f 4 6 1) filter }).complete c stOk []) ∧
    Completes (.canName c) c 0x0B02 (layCanName c) false (fun u => canMay u ∧ c.f 4 15 8 ≤ 253)
      (fun u =>
        let v := (u.modCan n fun x => { x with
          nameEn := c.b 4 1, name := BitVec.ofNat 64 (c.w64 5), pref := c.f 4 15 8, addr := 0xFE, claimed := false, claimQ := none }).claimStart n
        v.complete c stOk [pack [(v.can n).addr, fld 8 (b2n (v.can n).claimed)]]) ∧
    Completes (.canName c) c 0x0B02 (layCanName c) false (fun u => canMay u ∧ 253 < c.f 4 15 8) (fun u => u.complete c stBadParam []) ∧
    Completes (.canQuery c) c 0x0B03 (layCanQuery c) true (fun u => u.canFitted n = true ∧ c.b 4 3 = false ∧ c.f 4 2 1 = 0)
      (fun u =>
        let x := u.can n
        let st := if x.mode = 0 then 3 else if x.busOff then 2 else if x.passive then 1 else 0
        u.complete c stOk [pack [st, fld 8 (x.txErr % 256), fld 16 x.rxErr, fld 24 x.addr]]) ∧
    Completes (.canQuery c) c 0x0B03 (layCanQuery c) true (fun u => canMay u ∧ c.b 4 3 = true ∧ c.f 4 2 1 = 1)
      (fun u => (u.setCan n { u.can n with counters := [] }).complete c stOk (counterWords (u.can n).counters 0)) ∧
    (∀ t, Completes (.canSend c) c 0x0B04 (layCanSend c) false (fun u => canMay u ∧ (c.f 8 6 0 ≤ 16 ∨ c.indirect = true) ∧
        u.compactField c 5 = some t ∧ (frame.useSa = true → (u.can n).claimed = true) ∧ held u < 16)
      (fun u => u.setCan n { u.can n with timedQ := (u.can n).timedQ ++
        [{ frame := { frame with w0 := if frame.useSa then word (frame.w0.toNat / 256 * 256 + (u.can n).addr) else frame.w0
                                 w1 := frame.w1 &&& 0xC000007F#32 }
           due := if c.w 5 = 0 ∧ c.w 6 = 0 then u.now250 else 4 * t, cmd := some c, owner := some (u.cmdHub c, c.slice), tid := 0 }] })) ∧
    (∀ t, Completes (.canSend c) c 0x0B04 (layCanSend c) false (fun u => canMay u ∧ (c.f 8 6 0 ≤ 16 ∨ c.indirect = true) ∧
        u.compactField c 5 = some t ∧ frame.useSa = true ∧ (u.can n).claimed = false)
      (fun u => (u.canCount n ccNoAddr 1).complete c stAborted [])) ∧
    (∀ t, Completes (.canSend c) c 0x0B04 (layCanSend c) false (fun u => canMay u ∧ (c.f 8 6 0 ≤ 16 ∨ c.indirect = true) ∧
        u.compactField c 5 = some t ∧ (frame.useSa = true → (u.can n).claimed = true) ∧ 16 ≤ held u)
      (fun u => ((u.canCount n ccTxDrop 1).canAlert n 10 stNoResource 1 0 0).complete c stNoResource []))

/-! ### Remote windows (Chapter 16) -/

/-- The near rows complete on a port whose BAR2 is reached; a read or AtomicOp at one that hears but does not take memory requests completes with
UR. An access that no window covers is counted and reported, and a read, an AtomicOp and a locked read complete with UR; on a window that does
not take requests a write is discarded and counted and a read or AtomicOp completes with CA; a posted write is sent; an acked write, a read and
an AtomicOp with a place and a tag free are sent with the next RSEQ and counted, and wait otherwise; an AtomicOp that no window takes completes
with UR. A response in the window's generation for a request that waits completes it, a failed write is reported and makes later reads fail,
RETRY sets the back-off, and one that fits nothing is counted as STALE; the back-off's end sends the request again; a timeout completes it with
CA and reports it. A lease that runs out passes the semaphore on, to the first waiter; a wait that runs out completes with BUSY. None of these
four does anything before its time. The far rows complete on an OPEN WIN tunnel whose exit is a far record here. A well-formed request beyond
the record, on a record that is closed, on a draining one, or an AtomicOp the record does not take, is answered with UR or CA, a posted write
being counted and reported instead; with fewer than 64 entries free a READ or ATOMIC from the root's side is answered with RETRY; otherwise the
request joins the store and what can be presented is. When the access ends, the entry leaves the store and a READ is answered with its data, an
acked write with DONE, a failed one with its result; a held MEM request that waited 1 s is discarded, and none sooner. -/
def Obligations.remoteWindows : Prop :=
  ((∀ (s : State) (p a fbe lbe len tag ty sz : Nat) (data : List Byte), s.bar2Reach p = false →
     let u := if s.portHears p = true then s.emit (.cpl p tag resUr []) else s
     exec (.bar2MemoryRead p tag a len fbe lbe) s = .next u ∧ exec (.bar2Atomicop p tag a ty sz data) s = .next u ∧
     exec (.bar2LockedRead p tag a) s = .next u ∧ exec (.bar2MemoryWrite p a fbe lbe data) s = .next s) ∧
   (∀ (s : State) (p a fbe lbe len tag ty sz : Nat) (data : List Byte), s.bar2Reach p = true → s.pressed p = true →
     exec (.bar2MemoryWrite p a fbe lbe data) s = .next s ∧ exec (.bar2MemoryRead p tag a len fbe lbe) s = .next s ∧
     exec (.bar2Atomicop p tag a ty sz data) s = .next s ∧ exec (.bar2LockedRead p tag a) s = .next s) ∧
   (∀ (s : State) (p a fbe lbe len tag ty sz : Nat) (data : List Byte), s.bar2Reach p = true → s.pressed p = false → s.winAt p a = none →
     (data.length ≤ 4096 → exec (.bar2MemoryWrite p a fbe lbe data) s = .next (s.unmapped p a)) ∧
     (len ≤ 4096 → exec (.bar2MemoryRead p tag a len fbe lbe) s = .next ((s.unmapped p a).hostCpl p tag resUr [])) ∧
     exec (.bar2Atomicop p tag a ty sz data) s = .next ((s.unmapped p a).hostCpl p tag resUr []) ∧
     exec (.bar2LockedRead p tag a) s = .next ((s.unmapped p a).hostCpl p tag resUr [])) ∧
   (∀ (s : State) (p a fbe lbe len tag ty sz w : Nat) (data : List Byte), s.bar2Reach p = true → s.pressed p = false →
     s.winAt p a = some w →
     let x := s.wnd w
     let off := a - x.apoff * 4096
     let w2 (n : Nat) : Nat := (pack [fld 16 n, fld 4 (lbe % 16), fbe % 16]).toNat
     exec (.bar2LockedRead p tag a) s = .next (s.hostCpl p tag resUr []) ∧
     (data.length ≤ 4096 → s.winTakes x = false → exec (.bar2MemoryWrite p a fbe lbe data) s = .next (s.winCount w wcDiscarded)) ∧
     (data.length ≤ 4096 → s.winTakes x = true → x.acked off = false → exec (.bar2MemoryWrite p a fbe lbe data) s =
       .next ((s.winCount w wcWritesP).sendTunnel x.tid false (winMsg opWriteP 0 x.gen 0 off (w2 data.length) data))) ∧
     (data.length ≤ 4096 → s.winTakes x = true → x.acked off = true → exec (.bar2MemoryWrite p a fbe lbe data) s =
       .next ((s.winCount w wcWritesA).winSend w 2 off data.length 0 (w2 data.length) data)) ∧
     (len ≤ 4096 → s.winTakes x = false → exec (.bar2MemoryRead p tag a len fbe lbe) s = .next (s.hostCpl p tag resCa [])) ∧
     (len ≤ 4096 → s.winTakes x = true → exec (.bar2MemoryRead p tag a len fbe lbe) s =
       .next ((s.winCount w wcReads).winSend w 0 off len tag (w2 len) [])) ∧
     (atomicOk ty sz a data = false → exec (.bar2Atomicop p tag a ty sz data) s = .next (s.hostCpl p tag resUr [])) ∧
     (atomicOk ty sz a data = true → s.winTakes x = false → exec (.bar2Atomicop p tag a ty sz data) s = .next (s.hostCpl p tag resCa [])) ∧
     (atomicOk ty sz a data = true → s.winTakes x = true → exec (.bar2Atomicop p tag a ty sz data) s =
       .next ((s.winCount w wcAtomics).winSend w 3 off data.length tag (pack [fld 16 data.length, fld 12 sz, fld 10 ty]).toNat data))) ∧
   (∀ (s : State) (t w : Nat) (bytes : List Byte), s.coreOn = true → s.nearOf t = some w → (winHdr bytes).ok = true → (winHdr bytes).gen = (s.wnd w).gen →
     let h := winHdr bytes
     let find := (s.wnd w).reqs.find? fun r => decide (r.rseq = h.rseq)
     (h.op = opReadData → find = none → exec (.winReadData t bytes) s = .next (s.winCount w wcStale)) ∧
     (∀ r, find = some r →
       (h.op = opReadData → r.kind = 0 → exec (.winReadData t bytes) s =
         .next (s.finishReq w r (resCpl h.result) (if h.result = 0 then h.data else []))) ∧
       (h.op = opAtomicData → r.kind = 3 → exec (.winAtomicData t bytes) s =
         .next (s.finishReq w r (resCpl h.result) (if h.result = 0 then h.data else []))) ∧
       (h.op = opWriteDone → r.kind = 2 → h.result = 0 → exec (.winWriteDone t bytes) s = .next (s.finishReq w r 0 [])) ∧
       (h.op = opWriteDone → r.kind = 2 → h.result ≠ 0 → exec (.winWriteDone t bytes) s = .next (((s.modWnd w fun x => { x with
         reqs := x.reqs.map fun q => if r.order < q.order ∧ q.kind ≠ 2 then { q with fail := true } else q }).winErr
           w weWriteFailed h.result r.offset r.rseq.toNat).finishReq w r 0 [])) ∧
       (h.op = opRetry →
         let b := backoffB (r.retries + 1)
         let till := s.uptime + ceilDiv (2 * (b + (s.freeVal 32).toNat % (b / 4 + 1))) 5
         let r' : WinReq := { r with retries := r.retries + 1, backoff := some till }
         exec (.winRetry t bytes) s = .next ((s.drew.winCount w wcRetries).modWnd w fun x => { x with
           reqs := x.reqs.map fun q => if q.rseq = r.rseq then r' else q })))) ∧
   (∀ (s : State) (t w : Nat) (bytes : List Byte), s.coreOn = true → s.nearOf t = some w →
     (winHdr bytes).ok = false ∨ (winHdr bytes).op = opReadData ∧ (winHdr bytes).gen ≠ (s.wnd w).gen →
     exec (.winReadData t bytes) s = .next (s.winCount w wcStale)) ∧
   (∀ (s : State) (w rseq : Nat),
     let late (r : WinReq) : Bool := decide (r.rseq.toNat = rseq) && s.passed r.sentAt (400000 * (s.wnd w).toMs)
     ((s.wnd w).far = false → (s.wnd w).reqs.find? late = none → exec (.winRequestTimeout w rseq) s = .next s) ∧
     ((s.wnd w).far = true → (s.wnd w).st = wDraining → s.passed (s.wnd w).drainAt (400000 * (s.wnd w).toMs) = true → (s.wnd w).toMs ≠ 0 →
       exec (.winRequestTimeout w rseq) s =
         .next ((((s.forgetFar w).setWnd w { Win.init with gen := (s.wnd w).gen }).completeOpt (s.wnd w).draining stOk).exitGo 9)) ∧
     (∀ r, (s.wnd w).far = false → (s.wnd w).reqs.find? late = some r →
       exec (.winRequestTimeout w rseq) s = .next ((s.winErr w weTimeout 0 r.offset rseq).finishReq w r resCa []))) ∧
   (∀ (s : State) (w rseq : Nat), (∀ r ∈ (s.wnd w).reqs, r.rseq.toNat = rseq → ∀ t, r.backoff = some t → s.uptime < t) →
     exec (.retryBackoffExpiry w rseq) s = .next s) ∧
   (∀ (s : State) (w rseq : Nat) (r : WinReq), (s.wnd w).st = wOpen →
     (s.wnd w).reqs.find? (fun r => decide (r.rseq.toNat = rseq) && s.backedOff r) = some r →
     let x := s.wnd w
     exec (.retryBackoffExpiry w rseq) s = .next ((s.setWnd w { x with
       reqs := x.reqs.map fun q => if q.rseq = r.rseq then { r with backoff := none } else q }).sendTunnel x.tid false
         (winMsg (if r.kind = 0 then opRead else if r.kind = 2 then opWriteA else opAtomic) 0 x.gen r.rseq r.offset (nthW r.words 0) r.data))) ∧
   (∀ (s : State) (n : Nat), s.passed (s.semAt n).takenAt (400000 * (s.semAt n).leaseMs) = false →
     exec (.semaphoreLeaseExpiry n) s = .next s) ∧
   (∀ (s : State) (n lease t : Nat) (c : Cmd) (rest : List (Option Cmd × Nat × Nat)),
     ((s.semAt n).waiters = [] → s.semNext n = s.setSem n { s.semAt n with held := false, bridge := false, waiters := [] }) ∧
     ((s.semAt n).waiters = (some c, lease, t) :: rest → s.semNext n = (s.setSem n { s.semAt n with
       waiters := rest, held := true, bridge := false, hub := s.cmdHub c, slice := c.slice, gen := (s.semAt n).gen + 1, leaseMs := lease
       takenAt := s.uptime + 1 }).semDone c n stOk)) ∧
   (∀ (s : State) (n : Nat), (s.semAt n).held = true → n < 16 → s.coreOn = true →
     s.passed (s.semAt n).takenAt (400000 * (s.semAt n).leaseMs) = true →
     ((s.semAt n).bridge = true → exec (.semaphoreLeaseExpiry n) s = .next (s.semNext n).present) ∧
     ((s.semAt n).bridge = false → exec (.semaphoreLeaseExpiry n) s = .next ((s.report (s.semAt n).hub (s.semAt n).slice 0x0B stTimeout n
       [pack [fld 8 (s.semAt n).gen.toNat, weLease], 0, 1, 0]).semNext n).present)) ∧
   (∀ (s : State) (n lease t : Nat) (c : Cmd), (s.semAt n).waiters = [(some c, lease, t)] →
     (s.passed t (400000 * c.w 6) = false → exec (.semaphoreWaitExpiry n (s.cmdHub c) c.htag) s = .next s) ∧
     (s.passed t (400000 * c.w 6) = true → exec (.semaphoreWaitExpiry n (s.cmdHub c) c.htag) s =
       .next ((s.setSem n { s.semAt n with waiters := [] }).semDone c n stBusy).present))) ∧
  ((∀ (s : State) (t : Nat) (bytes : List Byte), s.farTun t = true → (winHdr bytes).ok = true →
     let h := winHdr bytes
     let w := s.farOf t
     let x := s.wnd w
     let g := s.gaz t
     let all (k : State → State) : Prop := (h.op = opRead → exec (.winRead t bytes) s = .next ((k s).exitGo 9)) ∧
       (h.op = opWriteP → exec (.winWriteP t bytes) s = .next ((k s).exitGo 9)) ∧
       (h.op = opWriteA → exec (.winWriteA t bytes) s = .next ((k s).exitGo 9)) ∧
       (h.op = opAtomic → exec (.winAtomic t bytes) s = .next ((k s).exitGo 9))
     let fit := h.off + (if h.op = opAtomic then asizeBytes (bits h.w2 13 12) else h.len) ≤ 2 ^ x.sizeLog
     let busy := (g.ingress ≠ 7 ∧ s.upLink g.ingress = false) ∧ 256 - s.win.store.length < 64
     let entry : FarReq := { win := w, op := h.op, wgen := h.gen, rseq := h.rseq, offset := h.off, len := h.len,
                             w2 := word h.w2, data := h.data, started := false, semWait := false, dead := false
                             since := s.uptime + 1 }
     (x.st = wClosed → all fun u => u.farFail w t h.op resUr h.gen h.rseq h.off) ∧
     (x.st ≠ wClosed → x.far = true → x.gen = h.gen →
       (x.st = wDraining → all fun u => (u.setWnd w x).farFail w t h.op resCa h.gen h.rseq h.off) ∧
       (x.st ≠ wDraining → ¬ fit → all fun u => (u.setWnd w x).farFail w t h.op resUr h.gen h.rseq h.off) ∧
       (x.st ≠ wDraining → fit → h.op ≠ opAtomic → ¬ (busy ∧ h.op = opRead) →
         all fun u => ((u.setWnd w x).setStore (u.win.store ++ [entry])).present) ∧
       (x.st ≠ wDraining → fit → h.op = opRead → busy → exec (.winRead t bytes) s =
         .next (((s.setWnd w x).sendTunnel (t + 1) false (winMsg opRetry 0 h.gen h.rseq h.off 0 [])).exitGo 9)) ∧
       (x.st ≠ wDraining → fit → h.op = opAtomic → x.reg = true ∨ x.sem = none →
         exec (.winAtomic t bytes) s = .next (((s.setWnd w x).farFail w t h.op resUr h.gen h.rseq h.off).exitGo 9)) ∧
       (x.st ≠ wDraining → fit → h.op = opAtomic → x.reg = false → x.sem ≠ none → atomicOk (bits h.w2 11 10) (bits h.w2 13 12) h.off h.data = true →
         ¬ busy → x.atomics.find? (fun a => decide (a.1 = h.rseq.toNat)) = none →
         exec (.winAtomic t bytes) s = .next (((s.setWnd w x).setStore (s.win.store ++ [entry])).present.exitGo 9)))) ∧
   (∀ (s : State) (i res : Nat) (data : List Byte) (r : FarReq), s.win.store[i]? = some r → r.started = true → s.coreOn = true →
     let x := s.wnd r.win
     let u := s.setStore (s.win.store.eraseIdx i)
     let ends (v : State) : Prop := exec (.farAccessDone i res data) s = .next (v.present.winDrained r.win)
     (r.op ≠ opAtomic → r.dead = true → ends u) ∧
     (r.dead = false → r.op = opRead → res = 0 → ends (u.winReply x.tid opReadData resOk r.wgen r.rseq r.offset
       (data.take r.len).length (data.take r.len))) ∧
     (r.dead = false → r.op = opWriteA → res = 0 → ends (u.winReply x.tid opWriteDone resOk r.wgen r.rseq r.offset 0 [])) ∧
     (r.dead = false → r.op = opWriteP → res = 0 → ends u) ∧
     (r.dead = false → r.op ≠ opAtomic → res = 1 ∨ res = 2 → ends (u.farFail r.win x.tid r.op res r.wgen r.rseq r.offset))) ∧
   (∀ (s : State) (i : Nat) (r : FarReq), s.win.store[i]? = some r → r.started = false → (s.wnd r.win).reg = false →
     s.farReady (s.wnd r.win) = false → s.coreOn = true →
     (s.passed r.since 400000000 = false → exec (.farHoldTimeout i) s = .next s) ∧
     (s.passed r.since 400000000 = true → exec (.farHoldTimeout i) s =
       .next ((s.setStore (s.win.store.eraseIdx i)).present.winDrained r.win))))

/-- From a slice that may: WIN_OPEN opens a near window or a far record on an OPEN pair whose end is here, with a new generation, refuses one
already open with NO_RESOURCE, an overlap with BUSY, a seventeenth with LIMIT and a tunnel not OPEN with WRONG_MODE; WIN_CLOSE drains and
closes; WIN_RANGE writes a range inside the window and is BAD_PARAM outside it; WIN_SEM ACQUIRE takes a free semaphore under a new generation,
waits or is BUSY on a held one, a repeat of one that waits taking its place (the model's choice, log entry 57), RELEASE by its holder passes it
on and by another is DENIED, QUERY answers and slice 0's FORCE releases; a repeated OPID gives the outcome recorded; WIN_QUERY answers its four
forms. -/
def Obligations.windowCommands : Prop :=
  ∀ c : Cmd,
    let t := c.f 4 11 0
    let log := sizeLog (c.f 5 28 24)
    let far := c.b 4 31
    let reg := c.b 4 30
    let win (u : State) : Nat := epIndex (if far then (u.gaz t).dstEp else (u.gaz t).srcEp)
    let pair (u : State) : Prop := t % 2 = 0 ∧ (u.gaz t).state ≠ gClosed ∧ (u.gaz t).cls = clsWin ∧ (u.gaz t).duplex = true ∧
      (if far then (u.gaz t).loc = true ∧ (u.gaz t).ingress ≠ 7 ∧ epBlock (u.gaz t).dstEp = 9
        else (u.gaz t).ingress = 7 ∧ (u.gaz t).loc = false ∧ epBlock (u.gaz t).srcEp = 9)
    let auth (u : State) : Prop := u.cmdHub c = u.selfNo ∧ (u.slice c.slice).bound = true ∧ (far = true ∨ u.ownsTun c t = true) ∧ ¬ (far = true ∧ reg = true) ∨
      far = true ∧ reg = true ∧ (u.authZ c = true ∨ u.ownsTun c t = true)
    let fits (u : State) : Prop := 12 ≤ log ∧ log ≤ 32 ∧
      (if far then (if reg then c.w64 8 % 2 ^ log = 0 ∧ c.w64 8 + 2 ^ log ≤ 2 ^ 24 else c.w64 8 % 4096 = 0)
        else c.f 5 23 0 * 4096 % 2 ^ log = 0 ∧ c.f 5 23 0 * 4096 + 2 ^ log ≤ 2 ^ u.board.bar2log ∧ 1 ≤ c.f 6 7 0 ∧ c.f 6 7 0 ≤ 128 ∧
          1 ≤ c.w 7 ∧ c.w 7 ≤ 1000)
    let new (u : State) : Win := { Win.init with
      st := wOpen, far := far, reg := far && reg, tid := t, gen := (u.wnd (win u)).gen + 1, owner := c.slice, ownerHub := u.cmdHub c, sizeLog := log
      apoff := if far then 0 else c.f 5 23 0
      defAck := !far && c.b 4 29
      outMax := c.f 6 7 0, toMs := c.w 7, base := c.w64 8
      sem := if far && !reg && !c.b 6 28 then some (c.f 6 27 24) else none }
    let good (u : State) : Prop := auth u ∧ pair u ∧ fits u
    let openOp (P : State → Prop) (f : State → State) : Prop := Completes (.winOpen c) c 0x0C00 (layWinOpen c) false P f
    let w := c.f 4 7 0
    let part := sizeLog (c.f 5 28 24)
    let range : WinRange := { enable := c.b 4 11, ack := c.b 4 12, offset := c.f 5 19 0, sizeLog := part }
    let owns (u : State) : Prop := (u.wnd w).st ≠ wClosed ∧ u.winAuth c (u.wnd w) = true
    let n := c.f 4 3 0
    let sem (P : State → Prop) (f : State → State) : Prop := Completes (.winSem c) c 0x0C03 (layWinSem c) false P f
    let fresh (u : State) : Prop := u.win.semRecs.find? (fun r => decide (r.hub = u.cmdHub c ∧ r.slice = c.slice ∧ r.opid = c.f 5 15 0 ∧
      u.nowNs ≤ r.since + 1000000000)) = none
    let same (u : State) (p : Option Cmd × Nat × Nat) : Prop := ∃ d, p.1 = some d ∧ u.cmdHub d = u.cmdHub c ∧ d.slice = c.slice ∧
      d.f 5 15 0 = c.f 5 15 0
    let acq0 (u : State) : Prop := c.f 4 5 4 = 0 ∧ c.w 6 ≤ 1000 ∧ 1 ≤ c.w 7 ∧ c.w 7 ≤ 10000 ∧ fresh u
    let acq (u : State) : Prop := acq0 u ∧ ∀ p ∈ (u.semAt n).waiters, ¬ same u p
    let rel (u : State) : Prop := c.f 4 5 4 = 1 ∧ fresh u ∧ genOk (c.b 4 24) (c.f 4 23 16) (u.semAt n).gen = true
    openOp (fun u => good u ∧ (u.gaz t).state ≠ gOpen) (fun u => u.complete c stWrongMode []) ∧
    openOp (fun u => good u ∧ (u.gaz t).state = gOpen ∧ (u.wnd (win u)).st ≠ wClosed) (fun u => u.complete c stNoResource []) ∧
    openOp (fun u => good u ∧ (u.gaz t).state = gOpen ∧ (u.wnd (win u)).st = wClosed ∧ far = false ∧
      u.winOverlap (win u) (u.slice c.slice).port (new u) = true) (fun u => u.complete c stBusy []) ∧
    openOp (fun u => good u ∧ (u.gaz t).state = gOpen ∧ (u.wnd (win u)).st = wClosed ∧
      (far = true ∨ u.winOverlap (win u) (u.slice c.slice).port (new u) = false) ∧ 16 ≤ u.winOwned (u.cmdHub c) c.slice)
      (fun u => u.complete c stLimit []) ∧
    openOp (fun u => good u ∧ (u.gaz t).state = gOpen ∧ (u.wnd (win u)).st = wClosed ∧
      (far = true ∨ u.winOverlap (win u) (u.slice c.slice).port (new u) = false) ∧ u.winOwned (u.cmdHub c) c.slice < 16)
      (fun u => (u.setWnd (win u) (new u)).complete c stOk []) ∧
    Completes (.winClose c) c 0x0C01 (layWinClose c) false (fun u => owns u ∧ (u.wnd w).st ≠ wDraining)
      (fun u => (u.setWnd w { u.wnd w with st := wDraining, draining := some c, drainAt := u.uptime + 1 }).winDrained w) ∧
    Completes (.winClose c) c 0x0C01 (layWinClose c) false (fun u => owns u ∧ (u.wnd w).st = wDraining) (fun u => u.complete c stBusy []) ∧
    Completes (.winRange c) c 0x0C02 (layWinRange c) false (fun u => owns u ∧ (u.wnd w).far = false ∧ (c.b 4 11 = true →
        12 ≤ part ∧ part ≤ 32 ∧ c.f 5 19 0 * 4096 % 2 ^ part = 0 ∧ c.f 5 19 0 * 4096 + 2 ^ part ≤ 2 ^ (u.wnd w).sizeLog))
      (fun u => (u.setWnd w { u.wnd w with ranges := (u.wnd w).ranges.write WinRange.init (c.f 4 10 8) range }).complete c stOk []) ∧
    Completes (.winRange c) c 0x0C02 (layWinRange c) false (fun u => owns u ∧ ((u.wnd w).far = true ∨ c.b 4 11 = true ∧
        (part < 12 ∨ 32 < part ∨ c.f 5 19 0 * 4096 % 2 ^ part ≠ 0 ∨ 2 ^ (u.wnd w).sizeLog < c.f 5 19 0 * 4096 + 2 ^ part)))
      (fun u => u.complete c stBadParam []) ∧
    sem (fun u => acq0 u ∧ (u.semAt n).held = false)
      (fun u => (u.setSem n ((u.semAt n).take false (u.cmdHub c) c.slice (c.w 7) u.uptime)).semDone c n stOk) ∧
    (∀ pre d l t post, sem (fun u => acq0 u ∧ (u.semAt n).held = true ∧ (u.semAt n).waiters = pre ++ (some d, l, t) :: post ∧
        same u (some d, l, t) ∧ ∀ p ∈ pre ++ post, ¬ same u p)
      (fun u => (u.complete d stAborted []).setSem n { u.semAt n with waiters := pre ++ (some c, l, t) :: post })) ∧
    sem (fun u => acq u ∧ (u.semAt n).held = true ∧ c.w 6 = 0) (fun u => u.semDone c n stBusy) ∧
    sem (fun u => acq u ∧ (u.semAt n).held = true ∧ c.w 6 ≠ 0 ∧ (u.semAt n).waiters.length < 16)
      (fun u => u.setSem n { u.semAt n with waiters := (u.semAt n).waiters ++ [(some c, c.w 7, u.uptime + 1)] }) ∧
    sem (fun u => acq u ∧ (u.semAt n).held = true ∧ c.w 6 ≠ 0 ∧ 16 ≤ (u.semAt n).waiters.length) (fun u => u.semDone c n stNoResource) ∧
    sem (fun u => rel u ∧ (u.semAt n).held = true ∧ (u.semAt n).bridge = false ∧ (u.semAt n).hub = u.cmdHub c ∧ (u.semAt n).slice = c.slice)
      (fun u => ((u.semNext n).semDone c n stOk).present) ∧
    sem (fun u => rel u ∧ ((u.semAt n).held = false ∨ (u.semAt n).bridge = true ∨ (u.semAt n).hub ≠ u.cmdHub c ∨ (u.semAt n).slice ≠ c.slice))
      (fun u => u.semDone c n stDenied) ∧
    sem (fun _ => c.f 4 5 4 = 2) (fun u => u.complete c stOk (u.semWords n)) ∧
    sem (fun u => c.f 4 5 4 = 3 ∧ u.authZ c = true ∧ genOk (c.b 4 24) (c.f 4 23 16) (u.semAt n).gen = true ∧ (u.semAt n).held = true)
      (fun u => ((u.semNext n).complete c stOk ((u.semNext n).semWords n)).present) ∧
    (∀ r, sem (fun u => (c.f 4 5 4 = 1 ∨ c.f 4 5 4 = 0 ∧ c.w 6 ≤ 1000 ∧ 1 ≤ c.w 7 ∧ c.w 7 ≤ 10000) ∧
        u.win.semRecs.find? (fun r => decide (r.hub = u.cmdHub c ∧ r.slice = c.slice ∧ r.opid = c.f 5 15 0 ∧ u.nowNs ≤ r.since + 1000000000)) = some r)
      (fun u => u.complete c r.status r.words)) ∧
    Completes (.winQuery c) c 0x0C04 (layWinQuery c) true (fun _ => c.f 4 9 8 = 0)
      (fun u =>
        let x := u.wnd w
        u.complete c stOk
          [ pack [fld 30 x.st, fld 29 (b2n x.far), fld 28 (b2n x.reg), fld 20 x.reqs.length, fld 8 x.tid, x.gen.toNat],
            pack [fld 24 (x.sizeLog % 32), x.apoff],
            word (sumN ((List.range 8).map fun i => if (x.ranges.read WinRange.init i).enable then 2 ^ i else 0)), 0 ]) ∧
    Completes (.winQuery c) c 0x0C04 (layWinQuery c) true (fun _ => c.f 4 9 8 = 1 ∧ c.b 4 10 = false)
      (fun u => u.complete c stOk (counterWords (u.wnd w).counters 0)) ∧
    Completes (.winQuery c) c 0x0C04 (layWinQuery c) true (fun u => c.f 4 9 8 = 1 ∧ c.b 4 10 = true ∧ u.winAuth c (u.wnd w) = true)
      (fun u => (u.setWnd w { u.wnd w with counters := [] }).complete c stOk (counterWords (u.wnd w).counters 0)) ∧
    Completes (.winQuery c) c 0x0C04 (layWinQuery c) true (fun _ => c.f 4 9 8 = 2 ∧ w < 16)
      (fun u => u.complete c stOk (u.semWords w ++ [word (u.semAt w).waiters.length, 0, 0])) ∧
    Completes (.winQuery c) c 0x0C04 (layWinQuery c) true (fun _ => c.f 4 9 8 = 3)
      (fun u => u.complete c stOk
        [ word u.host.port0.unmapped, word u.host.port1.unmapped, word (256 - min 256 u.win.store.length),
          word (u.win.wins.filter fun p => decide (p.2.st ≠ wClosed)).length ])

/-! ### Power (Chapter 17) -/

/-- A valid power message that the sideband accepts on link 0 of a port that carries power, and is not waiting for its discharge, takes effect.
SRC_CAPS collides at a source and at a sink is recorded and answered with REQUEST where the sink may ask; REQUEST is rejected in Safe,
during a transition and for more than the offer, and is otherwise accepted and starts the transition; ACCEPT starts the transition or the
swap it answers, REJECT ends either with its event; PS_RDY ends the transition at the sink, or the swap; SWAP_REQ is rejected with its
reason or accepted and starts the swap; FS_ARM arms or disarms; GOODBYE ends the contract, latches a source the sink says is shorted, and is
only reported where there is none. A frame of these types that is not well formed, or is not of link 0 of a port that carries power, holds
carrier and does no more. A negotiation that times out fails, at a sink also where it has nothing
under way in it; a request refused in the first negotiation has the source offer again; SRC_CAPS goes again; a lost swap is tried again. -/
def Obligations.powerMessages : Prop :=
  let got (s u : State) (p : Nat) (f : SbFrame) : Prop := s.pwrOn p = true ∧ f.link = 0 ∧ (∃ l, s.sbReceive p f = (u, some l)) ∧ (u.port p).lostSt = none
  (∀ (s u : State) (p : Nat) (f : SbFrame), got s u p f →
    let n := sbByte f 0 % 4
    let offer (i : Nat) : Nat × Nat :=
      let v := sbByte f (1 + 2 * i) + 256 * sbByte f (2 + 2 * i)
      (bits v 15 14, bits v 8 0)
    let caps := (List.range n).map offer
    let x := u.port p
    sbOk f 0x10 (1 + 2 * n) = true → n ≠ 0 → sbByte f 0 &&& 0xE4 = 0 → (∀ i < n, sbByte f (2 + 2 * i) / 2 % 32 = 0) →
    (x.role = 1 → x.st = pAttaching ∨ x.st = pNegotiating →
      exec (.srcCaps p f) s = .next ((u.setPort p { x with st := pAttaching, resend := true }).pwrEvent p 4 0)) ∧
    (x.role = 2 → x.st = pAttaching ∨ x.st = pNegotiating ∨ x.st = pContract →
      let v := u.setPort p { x with caps := caps, capsFsOk := bit (sbByte f 0) 3, st := if x.st = pAttaching then pNegotiating else x.st }
      let i := v.chosenOffer p caps
      let o := (caps[i]?).getD (0, 0)
      (v.maySink p = true → x.noReq = false → v.ret.mode ≠ .safe →
        exec (.srcCaps p f) s = .next (v.sendRequest p i o.1 (if x.pol.given then min o.2 x.polNew.sinkMax else o.2))) ∧
      (v.maySink p = false ∨ x.noReq = true ∨ v.ret.mode = .safe → exec (.srcCaps p f) s = .next v))) ∧
  (∀ (s u : State) (p : Nat) (f : SbFrame), got s u p f → sbOk f 0x11 3 = true → sbByte f 0 &&& 0xF8 = 0 → sbByte f 2 &&& 0xFE = 0 →
    let x := u.port p
    let cur := sbByte f 1 + 256 * sbByte f 2
    let no (r : Nat) : Prop := exec (.requestFrame p f) s = .next (u.refuseRequest p f.msgid r)
    (u.ret.mode = .safe ∨ x.farCore = false → no 3) ∧
    (u.ret.mode ≠ .safe → x.farCore = true → x.st = pTransition ∨ x.st = pSwap →
      exec (.requestFrame p f) s = .next (u.pushReject p f.msgid 2)) ∧
    (u.ret.mode ≠ .safe → x.farCore = true → x.role = 1 → x.st = pNegotiating ∨ x.st = pContract →
      (x.ownCaps[sbByte f 0 % 4]? = none → no 4) ∧
      (∀ v imax, x.ownCaps[sbByte f 0 % 4]? = some (v, imax) → imax < cur → no 4) ∧
      (∀ v imax, x.ownCaps[sbByte f 0 % 4]? = some (v, imax) → cur ≤ imax → exec (.requestFrame p f) s =
        .next (((((u.setPort p { x.disarm with
          pol := x.polNew, pendPol := none, lastType := 0, vcode := v, icon := cur, st := pTransition, changing := x.closed,
          psRdy := false, qualified := false, conRep := false, capsFsOk := bit (sbByte f 0) 2
          lastV := if x.vcode ≠ 0 then x.vcode else x.lastV }).sbPush p 0 0x12 [BitVec.ofNat 8 f.msgid]).convStart p v).tryClose p).endArm p)))) ∧
  -- a request refused in the first negotiation ends it at the source, which sends its offers again; one refused in a contract changes nothing
  (∀ (s : State) (p m r : Nat),
    let x := s.port p
    (x.st = pNegotiating → x.role = 1 →
      s.refuseRequest p m r = (s.modPort p fun x => { x with st := pAttaching, resend := true, lastType := 0 }).pushReject p m r) ∧
    (¬ (x.st = pNegotiating ∧ x.role = 1) → s.refuseRequest p m r = (s.setPort p x).pushReject p m r)) ∧
  (∀ (s u : State) (p : Nat) (f : SbFrame), got s u p f → sbOk f 0x12 1 = true → sbByte f 0 < 16 → sbByte f 0 = (u.port p).lastMsg →
    let x := u.port p
    (x.lastType = 0x11 → exec (.acceptFrame p f) s = .next ((u.setPort p { x.disarm with
      pol := x.polNew, pendPol := none, lastType := 0, vcode := x.reqV, icon := x.reqI, st := pTransition
      changing := x.closed, psRdy := false, qualified := false, conRep := false
      lastV := if x.vcode ≠ 0 then x.vcode else x.lastV }).endArm p)) ∧
    (∀ r, x.lastType = 0x15 → x.swapRes = some r →
      exec (.acceptFrame p f) s = .next ((u.setPort p { x with lastType := 0, swapRes := none }).startSwap p r))) ∧
  (∀ (s u : State) (p : Nat) (f : SbFrame), got s u p f → sbOk f 0x13 1 = true → sbByte f 0 % 16 = (u.port p).lastMsg →
    let x := u.port p
    let why := sbByte f 0 / 16
    (x.lastType = 0x11 → exec (.rejectFrame p f) s = .next (((u.setPort p { x with
      lastType := 0, reqV := 0, reqI := 0, st := if x.st = pNegotiating then pAttaching else x.st }).pwrEvent p 4 why).endContract p stDenied)) ∧
    (x.lastType = 0x15 → exec (.rejectFrame p f) s = .next (((u.setPort p { x with lastType := 0, swapRes := none }).pwrEvent p 4 why).endSwapCmd
      p (if why = 1 then stCollided else stDenied)))) ∧
  (∀ (s u : State) (p : Nat) (f : SbFrame), got s u p f → sbOk f 0x14 1 = true →
    let x := u.port p
    (sbByte f 0 = 0 → x.st = pTransition → x.role = 2 → exec (.psRdy p f) s = .next (((u.setPort p { x with
      st := pContract, psRdy := true, qualified := false, changing := false, lastV := x.vcode }).endContract p stOk).tryClose p)) ∧
    (sbByte f 0 = 2 → x.st = pSwap → x.swapIn = some 0 → x.swapNew = true →
      exec (.psRdy p f) s = .next ((u.setPort p { x with psRdy := true }).tryClose p)) ∧
    (sbByte f 0 = 0 → x.st = pSwap → x.swapIn = some 0 → x.swapNew = false →
      exec (.psRdy p f) s = .next (((u.setPort p { x with psRdy := true, role := 2 }).finishSwap p 0).tryClose p)) ∧
    (sbByte f 0 = 3 → x.swapIn = some 1 → x.swapNew = true →
      exec (.psRdy p f) s = .next (u.setPort p { x with keepRole := 1, keepEn := !keepOver x.vkeep 1000 })) ∧
    (sbByte f 0 = 1 → x.swapIn = some 1 → x.swapNew = false → exec (.psRdy p f) s = .next (u.finishSwap p 1))) ∧
  (∀ (s u : State) (p r : Nat) (f : SbFrame), got s u p f → sbOk f 0x15 1 = true → sbByte f 0 = r → r < 2 →
    let x := u.port p
    let no (k : Nat) : Prop := exec (.swapReq p f) s = .next (u.pushReject p f.msgid k)
    let mine := if r = 1 then x.keepRole = 1 else x.role = 1
    (u.ret.mode = .safe ∨ x.farCore = false → no 3) ∧
    (u.ret.mode ≠ .safe → x.farCore = true → x.st = pTransition ∨ x.st = pSwap ∨ x.swapIn ≠ none → no 2) ∧
    (u.ret.mode ≠ .safe → x.farCore = true → x.st ≠ pTransition → x.st ≠ pSwap → x.swapIn = none →
      (x.swapRes = some r → mine → no 1) ∧
      (x.swapRes ≠ some r → (r = 0 ∧ x.st ≠ pContract) ∨ (r = 1 ∧ x.keepRole = 0) ∨ u.canSwap p r = false → no 4) ∧
      (x.swapRes ≠ some r → (r = 0 → x.st = pContract) → (r = 1 → x.keepRole ≠ 0) → u.canSwap p r = true →
        exec (.swapReq p f) s = .next (((u.sbPush p 0 0x12 [BitVec.ofNat 8 f.msgid]).startSwap p r).endArm p)))) ∧
  (∀ (s u : State) (p : Nat) (f : SbFrame), got s u p f → sbOk f 0x16 1 = true →
    (sbByte f 0 = 1 → exec (.fsArm p f) s = .next ((u.modPort p fun x => { x with armRx := true }).tryArm p)) ∧
    (sbByte f 0 = 0 → exec (.fsArm p f) s = .next ((u.modPort p PwrPort.disarm).endArm p))) ∧
  (∀ (s u : State) (p : Nat) (f : SbFrame), got s u p f → sbOk f 0x17 1 = true → sbByte f 0 < 6 →
    let x := u.port p
    let r := sbByte f 0
    let keepV (y : PwrPort) : PwrPort := { y with noReq := y.noReq || decide (r = 1), lastV := if x.vcode ≠ 0 then x.vcode else x.lastV }
    (x.st = pDetached ∨ pFault ≤ x.st → exec (.goodbye p f) s = .next (u.pwrEvent p 0x0E r)) ∧
    (x.st ≠ pDetached → x.st < pFault → r = 2 → x.role = 1 → exec (.goodbye p f) s = .next ((((((((u.setPort p { x.openPath.clearContract with
      st := pLatched, cause := 7, lastV := if x.vcode ≠ 0 then x.vcode else x.lastV }).convIdle p).pwrEvent p 0x0E r).pwrEvent p 6 0).endContract
        p stTimeout).endSwapCmd p stTimeout).tryCaps p))) ∧
    (x.st ≠ pDetached → x.st < pFault → r ≠ 2 ∨ x.role ≠ 1 → exec (.goodbye p f) s = .next ((((((u.backToAttaching p).modPort p keepV).pwrEvent
      p 0x0E r).endContract p stTimeout).endSwapCmd p stTimeout).tryCaps p))) ∧
  (∀ (s : State) (p : Nat) (f : SbFrame),
    let not (t n m : Nat) : Prop := s.pwrOn p = false ∨ f.link ≠ 0 ∨ sbOk f t n = false ∨ m ≤ sbByte f 0
    let n := sbByte f 0 % 4
    (not 0x10 (1 + 2 * n) 256 → exec (.srcCaps p f) s = .next (s.sbDiscard p f)) ∧
    (not 0x11 3 8 → exec (.requestFrame p f) s = .next (s.sbDiscard p f)) ∧
    (not 0x12 1 16 → exec (.acceptFrame p f) s = .next (s.sbDiscard p f)) ∧
    (not 0x13 1 256 → exec (.rejectFrame p f) s = .next (s.sbDiscard p f)) ∧
    (not 0x14 1 4 → exec (.psRdy p f) s = .next (s.sbDiscard p f)) ∧
    (not 0x15 1 2 → exec (.swapReq p f) s = .next (s.sbDiscard p f)) ∧
    (not 0x16 1 2 → exec (.fsArm p f) s = .next (s.sbDiscard p f)) ∧
    (not 0x17 1 6 → exec (.goodbye p f) s = .next (s.sbDiscard p f))) ∧
  (∀ (s : State) (p : Nat), s.pwrOn p = true → (s.port p).lastType ≠ 0 →
    exec (.negotiationTimeout p) s = .next (s.exchangeFailed p (s.port p).lastType)) ∧
  (∀ (s : State) (p : Nat), s.pwrOn p = true → (s.port p).lastType = 0 →
    let x := s.port p
    let silent := x.role = 2 ∧ x.st = pNegotiating ∧ (∀ f ∈ x.sb0.outst, f.typ ≠ 0x11) ∧ ∀ f ∈ x.sb0.queue, f.typ ≠ 0x11
    (silent → exec (.negotiationTimeout p) s = .next (s.exchangeFailed p 0x10)) ∧
    (¬ silent → exec (.negotiationTimeout p) s = .next s)) ∧
  (∀ (s : State) (p : Nat), s.pwrOn p = true → (s.port p).resend = true →
    exec (.srcCapsResend p) s = .next ((s.modPort p fun x => { x with resend := false }).tryCaps p)) ∧
  (∀ (s : State) (p r : Nat), s.pwrOn p = true → (s.port p).swapLost = some r → (s.port p).st = pContract ∨ r = 1 ∧ (s.port p).keepRole ≠ 0 →
    (s.port p).swapIn = none → (s.port p).swapRes = none →
    exec (.swapRetry p) s = .next ((s.setPort p { s.port p with swapLost := none }).sendSwap p r))

/-- The path rows complete on a port whose auxiliary island runs; a timer that has not run its time does nothing. New samples set the fold-back
limit and the state of the path; a trip and the fault timer open a closed path with SHORT, OV or OVERCURRENT; 1 ms out of limit restarts
qualification; 100 us below the window opens a sink and above it is a fault; a sink whose hub-side window is lost disarms itself and the source;
the insertion delay lets the path close; qualification completes the contract or the swap at the source and is reported once; discharge ends a
loss, a swap or lets offers go; a shorted FET latches the port and tells the others; the retry timer takes a fault back to ATTACHING; the KEEP
rows follow the line; an armed crossing opens the path and starts the fast swap, and the armed sink closes 20 to 50 us after it; a transition of
100 ms is a fault; PMBus transactions are read, retried twice and then a fault; an alert reads every converter's status once in 10 ms; the
output slews by 1 V; the poll reads every source. -/
def Obligations.powerPath : Prop :=
  (∀ (s : State) (p a b i k : Nat) (low : Bool), s.sbOn p = true →
    let x0 : PwrPort := { s.port p with vhub := a % 4096, vcab := b % 4096, imeas := i % 4096, vkeep := k % 4096, pfltLow := low }
    let x1 : PwrPort := { x0 with ilim := x0.foldback.1, pilim := x0.foldback.2 }
    let fs := x1.fsHub && x1.inWindow x1.vhub
    let held := if x1.role = 2 && x1.closed then x1.inWindow x1.vhub else x1.supplyOk
    let x2 : PwrPort := { x1 with inLimit := x1.limiting, faultRun := x1.faultRun || x1.limiting, safeLow := x1.safeLow || x1.cableLow
                                  faultAt := if !x1.faultRun && x1.limiting then s.uptime + 1 else x1.faultAt
                                  insAt := if !held then 0 else if x1.insAt = 0 then s.uptime + 1 else x1.insAt
                                  insOk := x1.insOk && x1.supplyOk, fsHub := fs }
    let lost := x2.role = 2 ∧ x2.armed = true ∧ fs = false
    let v := s.setPort p (if lost then x2.disarm else x2)
    let t := ((if lost then (v.sbPush p 0 0x16 [0]).endArm p else v).tryClose p).tryCaps p
    let y := t.port p
    (y.swapIn ≠ some 1 → exec (.foldbackUpdate p a b i k low) s = .next (t.keepUpdate p)) ∧
    (y.swapIn = some 1 → exec (.foldbackUpdate p a b i k low) s =
      .next (if y.swapNew ∧ y.keepRole = 1 ∧ !y.keepEn ∧ !keepOver y.vkeep 1000 then t.setPort p { y with keepEn := true } else t))) ∧
  (∀ (s : State) (p : Nat), s.sbOn p = true →
    let x := s.port p
    (x.closed = true → exec (.comparatorTrip p true) s = .next (s.powerFault p 3 4) ∧
      exec (.comparatorTrip p false) s = .next (s.powerFault p 2 4)) ∧
    (x.faultRun = true → x.inLimit = false →
      exec (.currentLimitEnd p) s = .next (s.setPort p { x with faultRun := false, faultAt := 0, qualified := false })) ∧
    (s.heldFor x.faultAt (x.pol.faultMs * 400000) = false → exec (.faultTimerExpiry p) s = .next s) ∧
    (s.heldFor x.faultAt (x.pol.faultMs * 400000) = true → x.faultRun = true → x.closed = true →
      exec (.faultTimerExpiry p) s = .next (s.powerFault p 1 4)) ∧
    (x.role = 2 → x.closed = true → x.sinkWindow.2 * 64 < x.vcab * 1125 → exec (.uvOvFilter p true) s = .next (s.powerFault p 3 4)) ∧
    (x.role = 2 → x.closed = true → adcMv x.vcab < x.sinkWindow.1 → exec (.uvOvFilter p false) s =
      .next (((s.backToAttaching p).endContract p stTimeout).endSwapCmd p stTimeout)) ∧
    (s.heldFor x.insAt (x.pol.insMs * 400000) = false → exec (.insertionDelay p) s = .next s) ∧
    (s.heldFor x.insAt (x.pol.insMs * 400000) = true → x.role = 2 → x.closed = true → x.st = pContract → x.vcode = 3 →
      x.inWindow x.vhub = true → exec (.insertionDelay p) s = .next ((s.setPort p { x with fsHub := true }).tryArm p)) ∧
    (s.heldFor x.insAt (x.pol.insMs * 400000) = true → x.closed = false → x.supplyOk = true → exec (.insertionDelay p) s = .next ((s.setPort p { x with insOk := true }).tryClose p)) ∧
    (x.role = 1 → x.st = pTransition → x.changing = true ∨ x.closed = false ∧ x.inWindow x.vhub = false →
      exec (.transitionTimeout p) s = .next (s.powerFault p 5 3)) ∧
    (x.closed = false → x.cableLow = true →
      let u := s.setPort p { x with discharge := false, safeLow := true }
      (x.lostSt ≠ none → exec (.dischargeDone p) s =
        .next (((u.modPort p fun x => { x with lostSt := none, st := pDetached, role := 0 }).pwrEvent p 2 0).attachPower p)) ∧
      (x.lostSt = none → x.st = pSwap → x.swapIn = some 0 → x.swapNew = false → x.fast = false → x.role = 1 →
        exec (.dischargeDone p) s = .next ((u.modPort p fun x => { x with role := 2 }).sbPush p 0 0x14 [2])) ∧
      (x.lostSt = none → x.st ≠ pSwap → exec (.dischargeDone p) s = .next (u.tryCaps p))) ∧
    (s.heldFor x.keepAt (x.pol.retry10 * 4000000) = false → exec (.retryTimerExpiry p true) s = .next s) ∧
    (s.heldFor x.keepAt (x.pol.retry10 * 4000000) = true → x.keepFault = true →
      exec (.retryTimerExpiry p true) s = .next ((s.setPort p { x with keepFault := false }).keepUpdate p)) ∧
    (s.heldFor x.retryAt (x.pol.retry10 * 4000000) = false → exec (.retryTimerExpiry p false) s = .next s) ∧
    (s.heldFor x.retryAt (x.pol.retry10 * 4000000) = true → x.st = pFault → x.lostSt = none → exec (.retryTimerExpiry p false) s =
      .next ((s.setPort p { x with st := pAttaching, insOk := false, safeLow := x.cableLow }).tryCaps p))) ∧
  (∀ (s : State) (p : Nat), s.sbOn p = true →
    let x := s.port p
    x.closed = true → x.faultRun = false → x.inLimit = false → x.qualified = false → x.near x.vhub = true → x.near x.vcab = true →
    let u := s.setPort p { x with qualified := true }
    let tell (v : State) : State :=
      let y := v.port p
      if y.st = pContract ∧ !y.conRep then (v.setPort p { y with conRep := true }).pwrEvent p 3 y.icon else v
    (x.role = 1 → x.st = pTransition → exec (.qualificationDone p) s =
      .next (tell ((u.modPort p fun x => { x with st := pContract, lastV := x.vcode, changing := false }).sbPush p 0 0x14 [0]))) ∧
    (x.role = 1 → x.st = pSwap → x.swapIn = some 0 → x.swapNew = true →
      exec (.qualificationDone p) s = .next (tell ((u.sbPush p 0 0x14 [0]).finishSwap p 0))) ∧
    (x.role ≠ 1 ∨ x.st ≠ pTransition ∧ x.st ≠ pSwap → exec (.qualificationDone p) s = .next (tell u))) ∧
  (∀ (s : State) (p : Nat), s.sbOn p = true → (s.port p).shorted = true → (s.port p).st ≠ pLatched →
    let x := s.port p
    let u := (s.setPort p { x.openPath.clearContract with
      st := pLatched, cause := 6, lastV := if x.vcode ≠ 0 then x.vcode else x.lastV, lostSt := none }).sbPush p 0 0x17 [1]
    let v := [0, 1, 2].foldl (fun (s : State) q =>
      if (s.port q).role = 2 ∧ pTransition ≤ (s.port q).st ∧ (s.port q).st ≤ pSwap then s.sbPush q 0 0x17 [2] else s) u
    let w := if x.role = 1 ∨ x.convOp = pmbOn then v.convOperate p 0 else v
    exec (.fetShort p) s = .next (((w.pwrEvent p 7 0).endContract p stTimeout).endSwapCmd p stTimeout)) ∧
  (∀ (s : State) (p : Nat), s.pwrOn p = true →
    let x := s.port p
    (x.swapIn = some 1 → x.swapNew = false → x.keepRole = 1 → x.keepEn = false → keepMv x.vkeep < 1000 →
      exec (.keepOffDone p) s = .next ((s.setPort p { x with keepRole := 2 }).sbPush p 0 0x14 [3])) ∧
    (x.keepEn = true → keepMv x.vkeep < 10000 ∨ 14000 * 256 < x.vkeep * 1125 → exec (.keepSenseFault p) s = .next ((s.setPort p { x with
      keepEn := false, keepLatch := decide (3 ≤ x.keepRetries), keepFault := !decide (3 ≤ x.keepRetries)
      keepRetries := min 3 (x.keepRetries + 1), keepAt := s.uptime + 1 }).pwrEvent p 0x0C (keepMv x.vkeep / 100))) ∧
    (x.swapIn = some 1 → x.swapNew = true → x.keepEn = true → 10800 ≤ keepMv x.vkeep → x.vkeep * 1125 ≤ 13200 * 256 →
      exec (.keepInRange p) s = .next ((s.sbPush p 0 0x14 [1]).finishSwap p 1)) ∧
    (x.armed = true → x.st = pContract → 100 * adcMv x.vcab < x.pol.fsPct * 48000 →
      (x.role = 1 → exec (.fastSwapCrossing p) s = .next ((s.setPort p { x.openPath with
        st := pSwap, role := 2, swapIn := some 0, swapNew := false, fast := true, psRdy := false, crossAt := s.uptime
        discharge := false }).convIdle p)) ∧
      (x.role ≠ 1 → exec (.fastSwapCrossing p) s = .next (s.setPort p { x.openPath with
        st := pSwap, role := 1, swapIn := some 0, swapNew := true, fast := true, psRdy := false, crossAt := s.uptime
        discharge := false }))) ∧
    (x.st = pSwap → x.fast = true → x.swapNew = true → x.closed = false → x.sb0.carrier = true → x.lostSt = none →
      x.crossAt + 8000 ≤ s.uptime → s.uptime ≤ x.crossAt + 20000 →
      exec (.fastSwapClose p) s = .next ((s.setPort p x.closePath).pwrEvent p 0x0A ((s.uptime - x.crossAt) / 400))) ∧
    (s.uptime < x.crossAt + 8000 ∨ x.crossAt + 20000 < s.uptime → exec (.fastSwapClose p) s = .next s)) ∧
  (∀ (s : State) (p op v : Nat), s.sbOn p = true → (s.port p).pol.given = true → (s.port p).pol.pmbus ≠ 0 →
    let x := s.port p
    let y : PwrPort := { x with pmbTries := 0 }
    (x.pmbTries < 2 → exec (.pmbusDone p op v false) s = .next ((s.setPort p { x with pmbTries := x.pmbTries + 1 }).pmbus p op v)) ∧
    (2 ≤ x.pmbTries → exec (.pmbusDone p op v false) s = .next (((s.setPort p y).powerFault p 4 4).pwrEvent p 0x0D 0xFFFF)) ∧
    (op = pmbReadVout → exec (.pmbusDone p op v true) s =
      .next (s.setPort p { y with convVout := min 65535 (linear16 (v % 65536) x.pol.vexp) })) ∧
    (op = pmbReadIout → exec (.pmbusDone p op v true) s = .next (s.setPort p { y with convIout := min 65535 (linear11 (v % 65536)) })) ∧
    (op = pmbStatus → v &&& 0x3C ≠ 0 → exec (.pmbusDone p op v true) s =
      .next (((s.setPort p y).powerFault p 4 4).pwrEvent p 0x0D (v % 65536))) ∧
    (op ≠ pmbReadVout → op ≠ pmbReadIout → op ≠ pmbStatus → exec (.pmbusDone p op v true) s = .next (s.setPort p y))) ∧
  (∀ s : State, s.passed s.pwr.alertAt 4000000 = false → exec .pmbAlert s = .next s) ∧
  (∀ s : State, s.ret.inReset = false → s.ret.mode ≠ .dormant → s.passed s.pwr.alertAt 4000000 = true →
    exec .pmbAlert s = .next ([0, 1, 2].foldl (fun (s : State) p => s.pmbus p pmbStatus 0)
      { s with pwr := { s.pwr with alertAt := s.uptime + 1 } })) ∧
  (∀ (s : State) (p : Nat), s.sbOn p = true → (s.port p).convOp = pmbOn →
    let x := s.port p
    let step (v : Nat) : State := (s.setPort p { x with convV := v }).pmbus p pmbVout (voutCode v x.pol.vexp)
    (x.convV < x.convTgt → exec (.voutSlewStep p) s = .next (step (min x.convTgt (x.convV + 1000)))) ∧
    (x.convTgt < x.convV → exec (.voutSlewStep p) s = .next (step (max x.convTgt (x.convV - 1000))))) ∧
  (∀ s : State, exec .converterPoll s = .next ([0, 1, 2].foldl (fun (s : State) p =>
    if s.sbOn p ∧ (s.port p).role = 1 then (s.pmbus p pmbReadVout 0).pmbus p pmbReadIout 0 else s) s))

/-- From the management slice, for a port that is there: PWR_QUERY answers with the port's words; PWR_CONTRACT requests an offer, offers again
or ends the contract, WRONG_MODE, BUSY or LIMIT where it may not; PWR_SWAP starts a swap, arms or disarms, DENIED where this end may not and OK where it is armed already;
PWR_LIMITS sets the groups it applies, BAD_PARAM outside their ranges and LIMIT above the port's maximum; PWR_RESET_FAULT takes a faulted or
latched port to DETACHED and attaches it again, DENIED while the path is shorted; PWR_LOG answers with entries and clears the log where
asked. -/
def Obligations.powerCommands : Prop :=
  ∀ c : Cmd,
    let p := c.f 4 1 0
    let may (u : State) : Prop := u.authZ c = true ∧ u.pportOk c = true
    let act := c.f 4 3 2
    let con (P : State → Prop) (f : State → State) : Prop := Completes (.pwrContract c) c 0x0D01 (layPwrContract c) false P f
    let okSt (u : State) : Prop := ((u.port p).st = pAttaching ∨ (u.port p).st = pContract) ∧ (u.port p).lostSt = none
    let swp (P : State → Prop) (f : State → State) : Prop := Completes (.pwrSwap c) c 0x0D02 (layPwrSwap c) false P f
    let calm (u : State) : Prop := may u ∧ (u.port p).lostSt = none ∧ (u.port p).swapIn = none ∧ (u.port p).st = pContract
    let lim (P : State → Prop) (f : State → State) : Prop := Completes (.pwrLimits c) c 0x0D03 (layPwrLimits c) false P f
    let offer : Prop := c.f 7 26 18 ≠ 0 ∨ c.f 7 17 9 ≠ 0 ∨ c.f 7 8 0 ≠ 0
    let tooMuch (u : State) : Prop := c.b 4 5 = true ∧ ((u.port p).pol.portMax < c.f 7 26 18 ∨ (u.port p).pol.portMax < c.f 7 17 9 ∨
      (u.port p).pol.portMax < c.f 7 8 0 ∨ (u.port p).pol.portMax < c.f 8 16 8 ∨ (offer ∧ (u.port p).pol.pmbus = 0))
    let limited (u : State) : State :=
      let x := u.port p
      let y := if x.vcode = 0 then { x with pol := x.pol.limits c true true }
        else { x with pol := x.pol.limits c true false, pendPol := some (x.polNew.limits c true true) }
      let v := (u.setPort p y).keepUpdate p
      if c.b 4 6 then v.pushIdent p 0 else v
    let rst (P : State → Prop) (f : State → State) : Prop := Completes (.pwrResetFault c) c 0x0D04 (layPwrResetFault c) false P f
    let down (u : State) : Prop := (u.port p).st = pLatched ∨ (u.port p).st = pFault
    let n := c.f 4 15 8
    let ent (u : State) (i : Nat) : PwrLogEnt := (u.pwr.log[c.f 4 6 0 + i]?).getD PwrLogEnt.init
    let logged (u : State) : State := if c.b 4 16 then { u with pwr := { u.pwr with log := [] } } else u
    Completes (.pwrQuery c) c 0x0D00 (layPwrQuery c) true (fun u => u.pportOk c = true) (fun u => u.complete c stOk (u.portWords p)) ∧
    Completes (.pwrQuery c) c 0x0D00 (layPwrQuery c) true (fun u => u.pportOk c = false) (fun u => u.complete c stNotPresent []) ∧
    con (fun u => may u ∧ (((u.port p).st ≠ pAttaching ∧ (u.port p).st ≠ pContract) ∨ (u.port p).lostSt ≠ none ∨
      (act = 0 ∧ (u.port p).role ≠ 2) ∨ (act = 1 ∧ (u.port p).role ≠ 1))) (fun u => u.complete c stWrongMode []) ∧
    (∀ k, con (fun u => may u ∧ okSt u ∧ act = 0 ∧ (u.port p).role = 2 ∧ (u.port p).cmd = none ∧
        (u.port p).caps.findIdx? (fun o => decide (o.1 = c.f 4 5 4)) = some k ∧ c.f 5 8 0 ≤ (((u.port p).caps[k]?).getD (0, 0)).2 ∧
        ((u.port p).pol.given = false ∨ c.f 5 8 0 ≤ (u.port p).polNew.sinkMax) ∧ (u.port p).noReq = false)
      (fun u => (u.modPort p fun x => { x with cmd := some c }).sendRequest p k (c.f 4 5 4) (c.f 5 8 0))) ∧
    con (fun u => may u ∧ okSt u ∧ act = 0 ∧ (u.port p).role = 2 ∧ (u.port p).cmd = none ∧
        (u.port p).caps.findIdx? (fun o => decide (o.1 = c.f 4 5 4)) = none) (fun u => u.complete c stLimit []) ∧
    con (fun u => may u ∧ okSt u ∧ act = 1 ∧ (u.port p).role = 1 ∧ (u.port p).cmd = none ∧ (u.port p).polNew.offerList ≠ [])
      (fun u => (u.modPort p fun x => { x with cmd := some c, st := if (u.port p).st = pAttaching then pNegotiating else (u.port p).st }).pushCaps p) ∧
    con (fun u => may u ∧ okSt u ∧ act = 1 ∧ (u.port p).role = 1 ∧ (u.port p).cmd = none ∧ (u.port p).polNew.offerList = [])
      (fun u => u.complete c stLimit []) ∧
    con (fun u => may u ∧ okSt u ∧ act = 2)
      (fun u => (((((((u.backToAttaching p).sbPush p 0 0x17 [0]).endContract p stTimeout).endSwapCmd p stTimeout).modPort p fun y => { y with
        lastV := if (u.port p).vcode ≠ 0 then (u.port p).vcode else (u.port p).lastV }).tryCaps p).complete c stOk [])) ∧
    swp (fun u => calm u ∧ c.f 4 4 3 = 2)
      (fun u => (((u.setPort p (u.port p).disarm).sbPush p 0 0x16 [0]).endArm p).complete c stOk []) ∧
    swp (fun u => calm u ∧ c.f 4 4 3 = 1 ∧ (u.port p).armed = true) (fun u => u.complete c stOk []) ∧
    swp (fun u => calm u ∧ (c.f 4 4 3 = 1 ∧ (u.port p).armed = false ∨ (c.f 4 4 3 = 0 ∧ (c.f 4 2 2 = 1 → (u.port p).keepRole ≠ 0))) ∧
        ((u.port p).swapCmd ≠ none ∨ (u.port p).swapRes ≠ none)) (fun u => u.complete c stBusy []) ∧
    swp (fun u => calm u ∧ c.f 4 4 3 = 0 ∧ (c.f 4 2 2 = 1 → (u.port p).keepRole ≠ 0) ∧ (u.port p).swapCmd = none ∧ (u.port p).swapRes = none ∧
        u.canSwap p (c.f 4 2 2) = true)
      (fun u => (u.setPort p { u.port p with swapCmd := some c }).sendSwap p (c.f 4 2 2)) ∧
    swp (fun u => calm u ∧ c.f 4 4 3 = 0 ∧ (c.f 4 2 2 = 1 → (u.port p).keepRole ≠ 0) ∧ (u.port p).swapCmd = none ∧ (u.port p).swapRes = none ∧
        u.canSwap p (c.f 4 2 2) = false) (fun u => u.complete c stDenied []) ∧
    (∀ i, swp (fun u => calm u ∧ c.f 4 4 3 = 1 ∧ (u.port p).armed = false ∧ (u.port p).swapCmd = none ∧ (u.port p).swapRes = none ∧ (u.port p).sb0.ident = some i ∧
        i.fsEn = true ∧ i.blk = true ∧ (u.port p).vcode = 3 ∧ u.fsOk p = true ∧ (u.port p).capsFsOk = true ∧
        ((u.port p).role = 2 → (u.port p).fsHub = true))
      (fun u => (u.setPort p { u.port p with swapCmd := some c }).sbPush p 0 0x16 [1])) ∧
    swp (fun u => calm u ∧ c.f 4 4 3 = 1 ∧ (u.port p).armed = false ∧ (u.port p).swapCmd = none ∧ (u.port p).swapRes = none ∧
        (u.port p).vcode ≠ 3)
      (fun u => u.complete c stDenied []) ∧
    lim (fun u => may u ∧ pwrLimitsOk c = false) (fun u => u.complete c stBadParam []) ∧
    lim (fun u => may u ∧ pwrLimitsOk c = true ∧ tooMuch u) (fun u => u.complete c stLimit []) ∧
    lim (fun u => may u ∧ pwrLimitsOk c = true ∧ ¬ tooMuch u) (fun u => ((limited u).tryCaps p).complete c stOk []) ∧
    rst (fun u => may u ∧ (u.port p).shorted = true ∧ down u) (fun u => u.complete c stDenied []) ∧
    rst (fun u => may u ∧ ¬ ((u.port p).shorted = true ∧ down u) ∧ c.b 4 2 = true)
      (fun u => ((u.setPort p { u.port p with keepLatch := false, keepRetries := 0 }).keepUpdate p).complete c stOk []) ∧
    rst (fun u => may u ∧ (u.port p).shorted = false ∧ down u ∧ c.b 4 2 = false)
      (fun u => ((u.setPort p { u.port p with st := pDetached, retries := 0, role := 0, lostSt := none, discharge := false }).attachPower p).complete
        c stOk []) ∧
    rst (fun u => may u ∧ ¬ down u ∧ c.b 4 2 = false) (fun u => u.complete c stOk []) ∧
    Completes (.pwrLog c) c 0x0D05 (layPwrLog c) true (fun u => (c.b 4 16 = true → u.authZ c = true) ∧ c.indirect = true ∧ 1 ≤ n ∧ n ≤ 128)
      (fun u => ((logged u).output c (c.w64 5) ((List.range n).flatMap fun i => bytesOf (ent u i).ws)).complete c stOk []) ∧
    Completes (.pwrLog c) c 0x0D05 (layPwrLog c) true (fun u => (c.b 4 16 = true → u.authZ c = true) ∧ c.indirect = false ∧ n = 1)
      (fun u => (logged u).complete c stOk (ent u 0).ws) ∧
    Completes (.pwrLog c) c 0x0D05 (layPwrLog c) true
      (fun u => (c.b 4 16 = true → u.authZ c = true) ∧ (n = 0 ∨ 128 < n ∨ (c.indirect = false ∧ n ≠ 1))) (fun u => u.complete c stBadParam [])

/-! ### Keys and images (Chapter 18) -/

/-- KEY_GENERATE, KEY_IMPORT, KEY_EXPORT_WRAPPED, KEY_LOAD, KEY_DESTROY, KEY_ATTEST, KEY_DERIVE and KEY_CRYPT complete when they are taken with
the slots they name in use by the requester. A new key is stored in the named free slot, or in the lowest free slot of the requester with
AUTO, and its slot is returned; an import is taken as it is or unwrapped under a slot that wraps; an export is wrapped or sealed in a blob;
a blob is checked, loaded and with PERSIST recorded; a destroyed slot is empty; an attestation signs the statement of Table 18.4; a derived
key is ORIGIN 2 and not exportable; KEY_CRYPT seals, opens, authenticates, verifies, signs or gives random bytes. An empty slot is
NOT_PRESENT, a full destination BUSY, a type or attribute that forbids the use DENIED, and a slot not granted NOT_GRANTED. The cryptographic
results are those of uninterpreted functions (log entry 10). -/
def Obligations.keyCommands : Prop :=
  ∀ (c : Cmd) (bad : List (Nat × Nat)),
    let k := c.f 4 5 0
    let w := c.f 4 21 16
    let id := word (c.w 5)
    let auto := c.b 4 6
    let mine (u : State) (l : List Nat) : Prop := ∀ i ∈ l, u.mayUse c 0xA i = true
    let dest (b : Bool) (i : Nat) : List Nat := if b then [] else [i]
    let typ := c.f 4 10 8
    let attr := c.f 4 13 12
    let op := c.f 4 10 8
    let t (u : State) : List Byte := [BitVec.ofNat 8 (u.kslot k).typ]
    let aad : List Byte := leBytes 4 (c.w 6)
    let put (u : State) (bs : List Byte) : State := (u.output c (c.w64 9) bs).complete c stOk []
    let may (u : State) : Prop := mine u [k] ∧ (u.kslot k).usable = true ∧ (u.kslot k).permits op = true
    let stored (u : State) : Bool := c.b 4 7 && u.area.blobs.any fun p => decide (p.1 = k)
    let nonce := bytesOf ((List.range 8).map fun i => word (c.w (i + 5)))
    let src := c.f 4 5 0
    let ecdh := c.b 4 18
    (∀ i, Completes (.keyGenerate c) c 0x0E00 (layKeyGenerate c) false
      (fun u => mine u (dest auto k) ∧ u.keys.entropyOk = true ∧ u.newSlot c k auto = .ok i)
      (fun u =>
        let r := u.drbg (keyLen typ)
        let v := r.2.putKey i typ attr id (c.b 4 14) 0 r.1
        (if c.indirect then v.output c (c.w64 6) (v.kslot i).pub else v).complete c stOk [word i])) ∧
    Completes (.keyGenerate c) c 0x0E00 (layKeyGenerate c) false (fun u => mine u (dest auto k) ∧ u.keys.entropyOk = false)
      (fun u => u.complete c stBusy []) ∧
    Completes (.keyGenerate c) c 0x0E00 (layKeyGenerate c) false
      (fun u => auto = false ∧ mine u [k] ∧ u.keys.entropyOk = true ∧ (u.kslot k).broken = false ∧ (u.kslot k).full = true)
      (fun u => u.complete c stBusy []) ∧
    (∀ i, Completes (.keyImport c) c 0x0E01 (layKeyImport c) false
      (fun u => c.b 4 22 = true ∧ mine u (dest auto k) ∧ c.data.length = keyLen typ ∧ u.newSlot c k auto = .ok i)
      (fun u => (u.putKey i typ attr id (c.b 4 14) 1 c.data).complete c stOk [word i])) ∧
    (∀ i, Completes (.keyImport c) c 0x0E01 (layKeyImport c) false
      (fun u => c.b 4 22 = false ∧ mine u (dest auto k) ∧ mine u [w] ∧ (u.kslot w).usable = true ∧ (u.kslot w).wraps = true ∧
        Config.cryptoOk cfUnwrap [(u.kslot w).key, c.data] = true ∧ u.newSlot c k auto = .ok i)
      (fun u => (u.putKey i typ attr id (c.b 4 14) 1 (Config.crypto cfUnwrap [(u.kslot w).key, c.data] (keyLen typ))).complete c stOk [word i])) ∧
    Completes (.keyImport c) c 0x0E01 (layKeyImport c) false
      (fun u => c.b 4 22 = false ∧ mine u (dest auto k) ∧ mine u [w] ∧ (u.kslot w).usable = true ∧ (u.kslot w).wraps = true ∧
        Config.cryptoOk cfUnwrap [(u.kslot w).key, c.data] = false) (fun u => u.complete c stIntegrity []) ∧
    Completes (.keyExportWrapped c) c 0x0E02 (layKeyExport c) false
      (fun u => c.b 4 22 = true ∧ mine u [k, w] ∧ (u.kslot k).usable = true ∧ (u.kslot w).usable = true ∧ (u.kslot k).exportable = true ∧
        (u.kslot w).wraps = true)
      (fun u =>
        let n := 8 + 8 * ceilDiv (u.kslot k).key.length 8
        (u.output c (c.w64 6) (Config.crypto cfWrap [(u.kslot w).key, (u.kslot k).key] n)).complete c stOk [word n]) ∧
    Completes (.keyExportWrapped c) c 0x0E02 (layKeyExport c) false
      (fun u => c.b 4 22 = true ∧ mine u [k, w] ∧ (u.kslot k).usable = true ∧ (u.kslot w).usable = true ∧
        ((u.kslot k).exportable = false ∨ (u.kslot w).wraps = false)) (fun u => u.complete c stDenied []) ∧
    Completes (.keyExportWrapped c) c 0x0E02 (layKeyExport c) false
      (fun u => c.b 4 22 = false ∧ mine u [k] ∧ u.keys.entropyOk = true ∧ (u.kslot k).usable = true)
      (fun u => ((u.makeBlob (u.kslot k)).2.output c (c.w64 6) (u.makeBlob (u.kslot k)).1).complete c stOk [word 96]) ∧
    (∀ i, Completes (.keyLoad c) c 0x0E03 (layKeyLoad c) false
      (fun u => mine u (dest auto k) ∧ u.blobCheck c.data = stOk ∧ u.newSlot c k auto = .ok i)
      (fun u =>
        let v := u.loadBlob i c.data
        (if c.b 4 7 then v.storeBlob i c.data else v).complete c stOk [word i])) ∧
    Completes (.keyLoad c) c 0x0E03 (layKeyLoad c) false (fun u => mine u (dest auto k) ∧ u.blobCheck c.data ≠ stOk)
      (fun u => u.complete c (u.blobCheck c.data) []) ∧
    Completes (.keyDestroy c []) c 0x0E04 (layKeyDestroy c) false
      (fun u => auto = false ∧ mine u [k] ∧ ((u.kslot k).usable = true ∨ stored u = true))
      (fun u => (u.destroySlot k (c.b 4 7) none).complete c stOk []) ∧
    Completes (.keyDestroy c bad) c 0x0E04 (layKeyDestroy c) false
      (fun u => auto = false ∧ mine u [k] ∧ (u.kslot k).usable = false ∧ stored u = false) (fun u => u.complete c stNotPresent []) ∧
    (∀ pass, Completes (.keyDestroy c [(k, pass)]) c 0x0E04 (layKeyDestroy c) false
      (fun u => 1 ≤ pass ∧ pass ≤ 3 ∧ auto = false ∧ mine u [k] ∧ (u.kslot k).usable = true)
      (fun u => (u.destroySlot k (c.b 4 7) (some pass)).complete c stIntegrity [])) ∧
    Completes (.keyAttest c) c 0x0E05 (layKeyAttest c) false
      (fun u => c.f 4 9 8 = 0 ∧ mine u [k] ∧ u.keys.entropyOk = true ∧ (u.kslot k).usable = true)
      (fun u =>
        let body := u.attestBody k nonce
        let r := u.drbg 48
        (r.2.output c (c.w64 13) (body ++ identSign r.2.die body r.1)).complete c stOk []) ∧
    Completes (.keyAttest c) c 0x0E05 (layKeyAttest c) false (fun u => c.f 4 9 8 = 1 ∧ u.keys.entropyOk = true)
      (fun u => (u.output c (c.w64 13) (identPub u.die ++ Config.crypto cfManuf [u.die, identPub u.die] 96)).complete c stOk []) ∧
    Completes (.keyAttest c) c 0x0E05 (layKeyAttest c) false (fun u => c.f 4 9 8 = 2 ∧ u.keys.entropyOk = true)
      (fun u => (u.output c (c.w64 13) (Config.crypto cfPub [[4], receiptKey u.die] 96)).complete c stOk []) ∧
    (∀ i, Completes (.keyDerive c) c 0x0E06 (layKeyDerive c) false
      (fun u => mine u (src :: dest (c.b 4 12) (c.f 4 11 6)) ∧ (u.kslot src).usable = true ∧ (u.kslot src).attr = 3 ∧
        ecdh = decide ((u.kslot src).typ ≠ 2) ∧ c.f 4 15 13 < 3 ∧ (ecdh = true → c.data.length = pubLen (u.kslot src).typ) ∧
        u.newSlot c (c.f 4 11 6) (c.b 4 12) = .ok i)
      (fun u => (u.putKey i (c.f 4 15 13) (c.f 4 17 16) id false 2 (Config.crypto (if ecdh then cfEcdh else cfKdf)
        [[BitVec.ofNat 8 (u.kslot src).typ], (u.kslot src).key, c.data] (keyLen (c.f 4 15 13)))).complete c stOk [word i])) ∧
    Completes (.keyDerive c) c 0x0E06 (layKeyDerive c) false
      (fun u => mine u (src :: dest (c.b 4 12) (c.f 4 11 6)) ∧ (u.kslot src).usable = true ∧ (u.kslot src).attr ≠ 3)
      (fun u => u.complete c stDenied []) ∧
    Completes (.keyCrypt c) c 0x0E07 (layKeyCrypt c) false (fun u => op = 0 ∧ may u)
      (fun u => put u (Config.crypto cfGcmSeal [t u, (u.kslot k).key, aad, c.data] (c.w 5 - 12 - c.w 6 + 16))) ∧
    Completes (.keyCrypt c) c 0x0E07 (layKeyCrypt c) false
      (fun u => op = 1 ∧ may u ∧ Config.cryptoOk cfGcmOpen [t u, (u.kslot k).key, aad, c.data] = true)
      (fun u => put u (Config.crypto cfGcmOpen [t u, (u.kslot k).key, aad, c.data] (c.w 5 - 28 - c.w 6))) ∧
    Completes (.keyCrypt c) c 0x0E07 (layKeyCrypt c) false
      (fun u => op = 1 ∧ may u ∧ Config.cryptoOk cfGcmOpen [t u, (u.kslot k).key, aad, c.data] = false) (fun u => u.complete c stAuthFail []) ∧
    Completes (.keyCrypt c) c 0x0E07 (layKeyCrypt c) false (fun u => op = 2 ∧ may u)
      (fun u => put u (Config.crypto cfMac [t u, (u.kslot k).key, c.data] (macLen (u.kslot k).typ))) ∧
    Completes (.keyCrypt c) c 0x0E07 (layKeyCrypt c) false (fun u => op = 3 ∧ may u)
      (fun u =>
        let n := c.data.length - macLen (u.kslot k).typ
        u.complete c (if macLen (u.kslot k).typ ≤ c.data.length ∧
          Config.crypto cfMac [t u, (u.kslot k).key, c.data.take n] (macLen (u.kslot k).typ) = c.data.drop n then stOk else stAuthFail) []) ∧
    Completes (.keyCrypt c) c 0x0E07 (layKeyCrypt c) false (fun u => op = 4 ∧ may u ∧ u.keys.entropyOk = true)
      (fun u => put (u.drbg (keyLen (u.kslot k).typ)).2 (Config.crypto cfSign
        [t u, (u.kslot k).key, c.data, (u.drbg (keyLen (u.kslot k).typ)).1] (pubLen (u.kslot k).typ))) ∧
    Completes (.keyCrypt c) c 0x0E07 (layKeyCrypt c) false (fun u => op = 5 ∧ u.keys.entropyOk = true)
      (fun u => put (u.drbg (c.w 5)).2 (u.drbg (c.w 5)).1) ∧
    Completes (.keyCrypt c) c 0x0E07 (layKeyCrypt c) false
      (fun u => op < 4 ∧ mine u [k] ∧ (u.kslot k).usable = true ∧ (u.kslot k).permits op = false) (fun u => u.complete c stDenied []) ∧
    Completes (.keyCrypt c) c 0x0E07 (layKeyCrypt c) false (fun u => op ≤ 4 ∧ u.mayUse c 0xA k = false) (fun u => u.complete c stNotGranted [])

/-- SKIM_PASS, once per skim interval, re-masks every slot in turn, an empty one staying as it is, and ENTROPY_STARTUP_PASS lets random values be
drawn. KEY_PAIR_LINK completes for authority on a present link: OFFER on an UP link keeps a fresh ephemeral key and writes the signed offer;
FINISH with the partner's valid offer records the pair key, sealed under a drawn IV, turns sealing on with fresh counters and reports the check
value; CLEAR forgets the pairing, turns sealing off, reports it and closes the sealed tunnels across the link. FINISH without an offer is
WRONG_MODE, with other unit IDs STALE_GEN, with a bad signature AUTH_FAIL and with 16 other pairs NO_RESOURCE. -/
def Obligations.keyRows : Prop :=
  (∀ s : State, s.passed s.keys.skimAt (s.keys.skimUs * 400) = false → exec .skimPass s = .next s) ∧
  (∀ s : State, s.coreOn = true → s.passed s.keys.skimAt (s.keys.skimUs * 400) = true →
    let u := (List.range 64).foldl State.skimSlot s
    exec .skimPass s = .next { u with keys := { u.keys with skimAt := u.uptime + 1 } }) ∧
  (∀ s : State, s.coreOn = true →
    exec .entropyStartupPass s = .next { s with keys := { s.keys with entropyOk := true } }) ∧
  (∀ (s : State) (k : Nat), (s.kslot k).full = true →
    let m := (s.drbg (s.kslot k).share0.length).1
    s.skimSlot k = (s.drbg (s.kslot k).share0.length).2.setKslot k
      { s.kslot k with share0 := xorBytes (s.kslot k).share0 m, share1 := xorBytes (s.kslot k).share1 m }) ∧
  (∀ (s : State) (k : Nat), (s.kslot k).full = false → s.skimSlot k = s) ∧
  (∀ c : Cmd,
    let l := c.f 4 2 0
    let step := c.f 4 5 4
    let may (u : State) : Prop := u.authZ c = true ∧ u.linkPresent l = true ∧ u.keys.entropyOk = true
    let o := c.data.take 0xA0
    let key := c.data.drop 0x100
    let sound (u : State) : Prop := o.take 8 = leBytes 8 (u.link l).pUnit.toNat ∧ (o.drop 8).take 8 = u.die
    let signed := Config.cryptoOk cfVerify [key, o, (c.data.drop 0xA0).take 0x60]
    let others (u : State) : List PairRec := u.area.pairs.filter fun p => decide (¬ (p.link = l ∧ p.unit = (u.link l).pUnit))
    let go (P : State → Prop) (f : State → State) : Prop := Completes (.keyPairLink c) c 0x0E08 (layKeyPairLink c) false P f
    go (fun u => may u ∧ step = 0 ∧ (u.link l).st = .up)
      (fun u =>
        let a := u.drbg 48
        let b := a.2.drbg 48
        let offer := b.2.offer l a.1
        ((b.2.modLink l fun k => { k with ephem := some a.1 }).output c (c.w64 6)
          (offer ++ identSign b.2.die offer b.1)).complete c stOk []) ∧
    go (fun u => may u ∧ step = 0 ∧ (u.link l).st ≠ .up) (fun u => u.complete c stWrongMode []) ∧
    go (fun u => may u ∧ step = 1 ∧ (u.link l).ephem = none) (fun u => u.complete c stWrongMode []) ∧
    (∀ eph, go (fun u => may u ∧ step = 1 ∧ (u.link l).ephem = some eph ∧ ¬ sound u) (fun u => u.complete c stStaleGen [])) ∧
    (∀ eph, go (fun u => may u ∧ step = 1 ∧ (u.link l).ephem = some eph ∧ sound u ∧ signed = false) (fun u => u.complete c stAuthFail [])) ∧
    (∀ eph, go (fun u => may u ∧ step = 1 ∧ (u.link l).ephem = some eph ∧ sound u ∧ signed = true ∧ 16 ≤ (others u).length)
      (fun u => u.complete c stNoResource [])) ∧
    (∀ eph, go (fun u => may u ∧ step = 1 ∧ (u.link l).ephem = some eph ∧ sound u ∧ signed = true ∧ (others u).length < 16)
      (fun u =>
        let pk := u.pairKey l eph ((o.drop 0x10).take 0x60)
        let check := pairCheck pk
        let p : PairRec := { link := l, port := linkPort l, unit := (u.link l).pUnit, key := pk }
        let iv := u.drbg 12
        (((iv.2.storePair iv.1 p).modLink l fun k => { k with
          ephem := none, sealKey := some (iv.2.sealMat l pk), sealTx := 0, sealWrapped := false, kphaseTx := 0, kphaseRx := 0 }).pairEvent l 3 check).complete
            c stOk [check])) ∧
    go (fun u => may u ∧ step = 2 ∧ (u.area.pairs.any fun p => decide (p.link = l)) = true)
      (fun u => ((((((u.area.pairs.filter fun p => decide (p.link = l)).foldl State.dropPair u).modLink l fun k => { k with
        sealKey := none }).pairEvent l 4 0).closeSealed 0 l (u.cmdHub c, c.slice)).complete c stOk [])) ∧
    go (fun u => may u ∧ step = 2 ∧ (u.area.pairs.any fun p => decide (p.link = l)) = false) (fun u => u.complete c stNotPresent []) ∧
    go (fun u => u.authZ c = false) (fun u => u.complete c stNotGranted []))

/-- IMAGE_APPLY in Survey boots the slot that the BOOT record names, the strap's without one; a named image not confirmed after three boots
gives way to the other slot, and one that fails its verification is reported and the other tried; with neither the hub has no image. The links
start their first attempt then, with the ports split as the image says; an image that a command applies in Survey leaves the split as it is until
the next reset.
CONFIRM_IMAGE and IMG_CONFIRM confirm the running image in its health interval: the anti-rollback counter rises to its MINSVN and the root
key is fixed. After 60 s, and not before, IMG_CONFIRM is too late, the health engine of an image not confirmed is stopped and the timeout
reported. IMG_STAGE writes a piece and with LAST verifies
the slot; IMG_COMMIT names a verified slot of the version given; IMG_REVERT names the other slot; IMG_QUERY answers Table 18.11. -/
def Obligations.imageRows : Prop :=
  (∀ (s : State) (badA badB : Bool), s.ret.mode = .survey → s.boot < 2 → s.board.applied = false → s.board.noImage = false →
    let named := if s.area.active < 2 then s.area.active else s.boot
    let back := s.area.active < 2 ∧ s.confirmed named = false ∧ s.area.unconf = 3
    let bad (k : Nat) : Bool := if k = 0 then badA else badB
    let run := exec (.imageApply badA badB) s
    (¬ back → s.imgVerify named (bad named) = 0 → run = .next (s.bootImage named true)) ∧
    (back →
      let v := s.imgEvent 3 stOk (1 - named) (1 - named)
      v.imgVerify (1 - named) (bad (1 - named)) = 0 → run = .next (v.bootImage (1 - named) true)) ∧
    (¬ back → s.imgVerify named (bad named) ≠ 0 →
      let step := s.imgVerify named (bad named)
      let v := s.imgEvent 2 (stepStatus step) named step
      let other := 1 - named
      let step2 := v.imgVerify other (bad other)
      (step2 = 0 → run = .next (v.bootImage other true)) ∧
      (step2 ≠ 0 →
        let x := (v.imgEvent 2 (stepStatus step2) other step2).imgEvent 4 stNotPresent named 0
        run = .next ({ x with board := { x.board with noImage := true } } : State).latchSafe.startLinks))) ∧
  (∀ (s : State) (e v : Nat),
    let u := s.countLeg e
    let done (t : State) : Host.Outcome State Fault Refusal := .next (t.legLimit e (s.engine e).pc)
    s.legRuns e 0x10 v → (u.engine e).d ≤ u.now250 →
    ((u.engine e).health = true → u.img.running < 2 → u.runConfirmed = false → exec (.legConfirmImage e) s = done (u.confirmImage.adv e)) ∧
    ((u.engine e).health = true → u.img.running < 2 → u.runConfirmed = true → exec (.legConfirmImage e) s = done (u.adv e)) ∧
    ((u.engine e).health = false ∨ 2 ≤ u.img.running → exec (.legConfirmImage e) s = done (u.exception e 3))) ∧
  (∀ s : State, s.healthOver = false → exec .healthTimeout s = .next s) ∧
  (∀ s : State, s.coreOn = true → s.img.health = true → s.healthOver = true → s.runConfirmed = true →
    exec .healthTimeout s = .next { s with img := { s.img with health := false } }) ∧
  (∀ s : State, s.coreOn = true → s.img.health = true → s.healthOver = true → s.runConfirmed = false →
    let u : State := { s with img := { s.img with health := false } }
    exec .healthTimeout s = .next ((if (u.engine 31).health then u.abortEngine 31 false else u).imgEvent 5 stTimeout (u.img.running % 2) 0)) ∧
  (∀ (s : State) (k : Nat) (atEntry : Bool),
    (atEntry = false → (s.bootImage k atEntry).board.splitB = s.board.splitB ∧ (s.bootImage k atEntry).board.splitC = s.board.splitC)) ∧
  (∀ s : State, s.confirmImage.nv.counter = max s.nv.counter (s.slotN s.img.running).minSvn ∧
    s.confirmImage.nv.rootHash = some (s.nv.rootHash.getD (s.slotN s.img.running).signer) ∧ s.confirmImage.img.health = false) ∧
  (∀ c : Cmd,
    let k := c.f 4 0 0
    let free (u : State) : Prop := u.authZ c = true ∧ u.img.running ≠ k ∧ (u.img.running < 2 → u.runConfirmed = true)
    let piece : StagePiece := { offset := c.w 5, bytes := c.data.take (c.w 6) }
    let x (u : State) : FlashSlot := slotOf u.die (if c.w 5 = 0 then [piece] else (u.slotN k).staged ++ [piece])
    let named (u : State) : Nat := if u.area.active < 2 then u.area.active else u.boot % 2
    let commit (u : State) : State := (u.setBoot fun a =>
      { a with active := k, unconf := 0, confA := a.confA && decide (k ≠ 0), confB := a.confB && decide (k ≠ 1) }).complete c stOk []
    Completes (.imgStage c) c 0x0F00 (layImgStage c) false (fun u => free u ∧ c.b 4 1 = false)
      (fun u => (u.setSlot k (x u)).complete c stOk []) ∧
    Completes (.imgStage c) c 0x0F00 (layImgStage c) false (fun u => free u ∧ c.b 4 1 = true ∧ (u.setSlot k (x u)).imgVerify k false = 0)
      (fun u => ((u.setSlot k (x u)).setSlot k { x u with verified := true }).complete c stOk [(x u).imgVer, word (x u).minSvn]) ∧
    Completes (.imgStage c) c 0x0F00 (layImgStage c) false (fun u => free u ∧ c.b 4 1 = true ∧ (u.setSlot k (x u)).imgVerify k false ≠ 0)
      (fun u => (u.setSlot k (x u)).complete c (stepStatus ((u.setSlot k (x u)).imgVerify k false)) []) ∧
    Completes (.imgStage c) c 0x0F00 (layImgStage c) false (fun u => u.authZ c = true ∧ u.img.running = k) (fun u => u.complete c stDenied []) ∧
    Completes (.imgCommit c) c 0x0F01 (layImgCommit c) false
      (fun u => u.authZ c = true ∧ (u.slotN k).verified = true ∧ (u.slotN k).imgVer.toNat = c.w 5)
      (fun u => let v := commit u; if v.ret.mode = .survey ∧ v.img.running = 2 then v.bootImage k false else v) ∧
    Completes (.imgCommit c) c 0x0F01 (layImgCommit c) false
      (fun u => u.authZ c = true ∧ ((u.slotN k).verified = false ∨ (u.slotN k).imgVer.toNat ≠ c.w 5)) (fun u => u.complete c stStaleGen []) ∧
    Completes (.imgQuery c) c 0x0F02 (layImgQuery c) true (fun _ => True) (fun u => u.complete c stOk u.imgWords) ∧
    Completes (.imgConfirm c) c 0x0F03 (layImgConfirm c) false
      (fun u => u.authZ c = true ∧ u.runConfirmed = false ∧ u.img.health = true ∧ u.healthOver = false ∧ u.img.running < 2) (fun u => u.confirmImage.complete c stOk []) ∧
    Completes (.imgConfirm c) c 0x0F03 (layImgConfirm c) false (fun u => u.authZ c = true ∧ u.runConfirmed = true) (fun u => u.complete c stOk []) ∧
    Completes (.imgConfirm c) c 0x0F03 (layImgConfirm c) false (fun u => u.authZ c = true ∧ u.runConfirmed = false ∧ (u.img.health = false ∨ u.healthOver = true))
      (fun u => u.complete c stWrongMode []) ∧
    Completes (.imgRevert c) c 0x0F04 (layImgRevert c) false (fun u => u.authZ c = true ∧ u.imgVerify (1 - named u) false = 0)
      (fun u => ((u.setBoot fun a => { a with active := 1 - named u }).imgEvent 9 stOk (1 - named u) (1 - named u)).complete c stOk []) ∧
    Completes (.imgRevert c) c 0x0F04 (layImgRevert c) false (fun u => u.authZ c = true ∧ u.imgVerify (1 - named u) false ≠ 0)
      (fun u => u.complete c (stepStatus (u.imgVerify (1 - named u) false)) []) ∧
    Completes (.imgRevert c) c 0x0F04 (layImgRevert c) false (fun u => u.authZ c = false) (fun u => u.complete c stNotGranted []))

/-! ### Faults (Chapter 19) -/

/-- CHECK_DETECT, HANDSHAKE_STALL and COMPARATOR_DISAGREE complete when the domain has the check and the core is on. A correctable error is counted,
and reported unless it has been in the second before. An error of a higher class is noted as the last, and an uncorrectable word in use takes
the loss of its array. In another domain's recovery or window it escalates to that domain's parent, which recovers (for the device it is
device-fatal); else a recoverable one starts the domain's recovery, a domain-fatal one is counted, latched, reported and acted on, and a
device-fatal one or one of the fabric is latched and takes the hub to Safe. The recovery rows complete for a domain that recovers. Its end
within the bound counts it, opens the window and reports it as recovered; past the bound the error is domain-fatal; the window, of 10 ms, is
closed at its end. PATROL_SCRUB takes the patrol's next word, or the next word of the pass under way, whose last word of its array ends the pass
and completes the waiting command with its counts; a word found bad is an error of its array. The delay of an injected error, once it has
passed, plants it and arms a second one. -/
def Obligations.faultRows : Prop :=
  ((∀ (s : State) (h : Hit), domHas h.dom h.check = true → s.coreOn = true →
     let cls := s.hitClass h
     let x := s.dom h.dom
     let n := x.ceCnt.read 0 h.check + 1
     let y : DomErr := { x with corrected := satAdd 16 x.corrected 1, lastCheck := h.check }
     let a := s.noteErr h.dom h.check
     let b : State := if h.gone then { a with err := { a.err with escaped := true } } else a
     let u : State := if h.check = 0x0A then { b with keys := { b.keys with entropyOk := false } } else b
     let v := if h.check = 5 ∧ h.inUse ∧ cls < 3 then u.arrayHit h else u
     let run := exec (.checkDetect h) s
     (cls = 0 → s.passed (x.ceAt.read 0 h.check) 400000000 = false → run = .next (s.setDom h.dom { y with ceCnt := x.ceCnt.write 0 h.check n })) ∧
     (cls = 0 → s.passed (x.ceAt.read 0 h.check) 400000000 = true → run = .next ((s.setDom h.dom { y with
       ceCnt := x.ceCnt.write 0 h.check 0, ceAt := x.ceAt.write 0 h.check (s.uptime + 1) }).errReport
         { dom := h.dom, check := h.check, origin := h.dom, count := n, loc := h.loc, detail := h.detail, injected := false })) ∧
     (∀ d, cls ≠ 0 → u.firstDom h.dom = some d →
       let p := (v.domParent d).getD 0
       let w := (v.modDom d fun y => { y with recovering := false, window := false }).modDom p fun y =>
         { y with escal := satAdd 16 y.escal 1, lastCheck := h.check }
       let e : State := { w with err := { w.err with escalated := true } }
       (p = 0 → run = .next (e.deviceFatal h false true)) ∧ (p ≠ 0 → run = .next (e.recover p h false true))) ∧
     (cls = 1 → u.firstDom h.dom = none → h.dom ≠ 0 → run = .next (v.recover h.dom h false false)) ∧
     (cls = 2 → u.firstDom h.dom = none → 2 ≤ h.dom → run = .next ((v.noteFatal { dom := h.dom, check := h.check, origin := h.dom, loc := h.loc
                                                                                  detail := h.detail, escaped := h.gone }).domAction h.dom)) ∧
     (u.firstDom h.dom = none → cls = 3 ∨ h.dom = 0 ∧ cls ≠ 0 ∨ h.dom = 1 ∧ cls = 2 → run = .next (v.deviceFatal h false false))) ∧
   (∀ (s : State) (d : Nat) (loc : Word), domHas d 3 = true → d ≠ 0 → s.coreOn = true → (s.noteErr d 3).firstDom d = none →
     exec (.handshakeStall d loc) s = .next ((s.noteErr d 3).recover d { dom := d, check := 3, loc := loc } false false)) ∧
   (∀ (s : State) (p : Nat), p < 3 → s.portEnabled p = true → s.ret.inReset = false → (s.noteErr (0x13 + p) 7).firstDom (0x13 + p) = none →
     exec (.comparatorDisagree p) s = .next (((s.noteErr (0x13 + p) 7).noteFatal
       { dom := 0x13 + p, check := 7, origin := 0x13 + p }).powerFault p 8 4)) ∧
   (∀ (s : State) (h : Hit) (inj esc : Bool),
     let u := s.endRecoveries.modDom 0 fun x => { x with lastCheck := h.check }
     let v : State := { u with err := { u.err with devFatal := true, fatals := satAdd 8 u.err.fatals 1 } }
     s.deviceFatal h inj esc = (v.errReport { dom := 0, check := h.check, cls := 3, origin := h.dom, loc := h.loc, detail := h.detail
                                              injected := inj, escaped := h.gone, escalated := esc }).enterSafe 6)) ∧
  ((∀ (s : State) (d us : Nat), (s.dom d).recovering = true → us ≤ recBound d → s.coreOn = true →
     let x := s.dom d
     let u := s.setDom d { x with
       recovering := false, window := true, windowAt := s.uptime + 1, recovered := satAdd 16 x.recovered 1
       lastCheck := x.recCheck }
     let v := if x.recOrigin = 0x80 ∧ x.recCheck = 5 ∧ (u.gaz x.recUnit).state ≠ gClosed then
       u.modGaz x.recUnit fun g => { g with pkts := 0, drops := 0 } else u
     exec (.domainRecoveryEnd d us) s = .next (v.errReport { dom := d, check := x.recCheck, cls := 1, origin := x.recOrigin, loc := x.recLoc
                                                             detail := x.recDetail, recovery := us, guarantee := !x.recEsc && !x.recGone
                                                             injected := x.recInj, escaped := x.recGone, escalated := x.recEsc })) ∧
   (∀ (s : State) (d : Nat), (s.dom d).recovering = true → s.coreOn = true →
     let x := s.dom d
     let u := s.setDom d { x with recovering := false }
     (2 ≤ d → exec (.recoveryBoundExceeded d) s = .next ((u.noteFatal { dom := d, check := x.recCheck, origin := x.recOrigin, loc := x.recLoc
                                                                        detail := x.recDetail, injected := x.recInj, escaped := x.recGone
                                                                        escalated := x.recEsc }).domAction d)) ∧
     (d ≤ 1 → exec (.recoveryBoundExceeded d) s = .next (u.deviceFatal x.hit x.recInj x.recEsc))) ∧
   (∀ (s : State) (d : Nat), s.inRecWindow d = true ↔ (s.dom d).window = true ∧ s.passed (s.dom d).windowAt 4000000 = false) ∧
   (∀ (s : State) (d : Nat), s.inRecWindow d = true → exec (.recoveryWindowEnd d) s = .next s) ∧
   (∀ (s : State) (d : Nat), (s.dom d).window = true → s.inRecWindow d = false →
     exec (.recoveryWindowEnd d) s = .next (s.modDom d fun x => { x with window := false })) ∧
   (∀ (s : State) (res detail unit : Nat) (noCopy last : Bool), s.coreOn = true →
     let e := s.err
     let found (u : State) (a w : Nat) : State := if res = 0 then u else u.detect
       { dom := a, check := if res = 1 then 4 else 5, loc := word w, detail := detail, unit := unit, inUse := decide (res = 3), noCopy := noCopy } false
     let run := exec (.patrolScrub res detail unit noCopy last) s
     (e.scrub = none →
       let u : State := { s with err := { e with
         patrolArr := if last then nextArray e.patrolArr else e.patrolArr, patrolWord := if last then 0 else e.patrolWord + 1
         patrols := if last ∧ e.patrolArr = 0x98 then satAdd 16 e.patrols 1 else e.patrols } }
       run = .next (found u e.patrolArr e.patrolWord)) ∧
     (∀ arr n ce ue, e.scrub = some (arr, n, ce, ue) →
       let ce1 := ce + b2n (decide (res = 1))
       let ue1 := ue + b2n (decide (2 ≤ res))
       (last = false → let u : State := { s with err := { e with scrub := some (arr, n + 1, ce1, ue1), scrubWord := e.scrubWord + 1 } }
         run = .next (found u e.scrubArr e.scrubWord)) ∧
       (last = true → arr ≠ 0xFF ∨ e.scrubArr = 0x98 →
         let u : State := { s with err := { e with scrub := none, scrubArr := nextArray e.scrubArr, scrubWord := 0, scrubCmd := none } }
         let v := found u e.scrubArr e.scrubWord
         (∀ c, e.scrubCmd = some c → run = .next (v.complete c stOk [word (n + 1), word ce1, word ue1, word ((s.uptime - e.scrubStart) / 400)])) ∧
         (e.scrubCmd = none → run = .next v)))) ∧
   (∀ (s : State) (i : Inject) (unit : Nat) (inUse noCopy : Bool), s.err.inject = some i → s.uptime < i.since + 400 * i.delay →
     exec (.injectDelayExpiry unit inUse noCopy) s = .next s) ∧
   (∀ (s : State) (i : Inject) (unit : Nat) (inUse noCopy : Bool), s.err.inject = some i → i.since + 400 * i.delay ≤ s.uptime →
     -- an injected flow-table error is corrected from the copy
     let plant (u : State) : State := u.detect
       { dom := i.dom, check := i.check, loc := i.loc, unit := unit, inUse := inUse, noCopy := noCopy && decide (i.check ≠ 6) } true
     let rest (x : Option Inject) : State := { s with err := { s.err with inject := x } }
     (i.second = none → exec (.injectDelayExpiry unit inUse noCopy) s = .next (plant (rest none))) ∧
     (∀ d t, i.second = some (d, t) →
       exec (.injectDelayExpiry unit inUse noCopy) s = .next (plant (rest (some { i with dom := d, second := none, delay := t, since := s.uptime }))))))

/-- DIAG_ERRORS answers the sums of a domain or of all of them. The others complete for authority and are NOT_GRANTED without it: DIAG_INJECT
arms one injection, and is BAD_PARAM without the key, outside the ranges, for a check that the domain has not, and for a device-fatal target
not allowed by its flag, and BUSY with one armed; DIAG_SCRUB starts a pass, answering at once or at its end, and is BUSY with one under way;
DIAG_SELFTEST reports each checker that fails and answers the mask; DIAG_CLEAR clears the sums named and with COUNTERS every count. -/
def Obligations.diagCommands : Prop :=
  ∀ (c : Cmd) (failed : Nat),
    let one := c.f 4 7 0
    let d := c.f 4 15 8
    let k := c.f 4 7 0
    let d2 := c.f 6 23 16
    let ranges := c.f 4 31 16 = 0x494A ∧ 1 ≤ k ∧ k ≤ 7 ∧ c.f 6 15 0 ≤ 50000 ∧ domHas d k = true ∧ (c.b 6 24 = true → domHas d2 k = true)
    let dev (u : State) : Prop := d = 0 ∨ c.b 6 24 = true ∧ c.f 7 15 0 ≤ 10000 ∧ (d2 = d ∨ u.domParent d = some d2)
    let inj (u : State) : Inject := { dom := d, check := k, loc := word (c.w 5), delay := c.f 6 15 0, since := u.uptime
                                      second := if c.b 6 24 then some (d2, c.f 7 15 0) else none }
    let scrub (u : State) (w : Option Cmd) : State := { u with err := { u.err with
      scrub := some (one, 0, 0, 0), scrubArr := if one = 0xFF then 0x80 else one, scrubWord := 0, scrubStart := u.uptime, scrubCmd := w } }
    let test (u : State) (j : Nat) : State :=
      if bit failed j then (u.noteErr (selfDom j) 0x0C).noteFatal { dom := selfDom j, check := 0x0C, origin := selfDom j } else u
    let zero (_ : Nat) (x : DomErr) : DomErr := { x with corrected := 0, recovered := 0, fatals := 0, escal := 0 }
    Completes (.diagErrors c) c 0x1000 (layDiagErrors c) true (fun _ => one ≠ 0xFF)
      (fun u => u.complete c stOk [u.err.sum, pack [fld 16 (u.dom one).recovered, (u.dom one).corrected],
        pack [fld 16 (u.dom one).escal, (u.dom one).fatals], pack [fld 16 (u.dom one).lastCheck, u.err.patrols]]) ∧
    Completes (.diagErrors c) c 0x1000 (layDiagErrors c) true (fun _ => one = 0xFF)
      (fun u =>
        let total (f : DomErr → Nat) : Nat := min 65535 (sumN (u.err.doms.map fun p => f p.2))
        u.complete c stOk [u.err.sum, pack [fld 16 (total DomErr.recovered), total DomErr.corrected],
          pack [fld 16 (total DomErr.escal), total DomErr.fatals], pack [fld 16 u.err.lastCheck, u.err.patrols]]) ∧
    Completes (.diagInject c) c 0x1001 (layDiagInject c) false
      (fun u => u.authZ c = true ∧ ranges ∧ (dev u → c.b 6 25 = true) ∧ u.err.inject = none)
      (fun u => ({ u with err := { u.err with inject := some (inj u) } } : State).complete c stOk []) ∧
    Completes (.diagInject c) c 0x1001 (layDiagInject c) false
      (fun u => u.authZ c = true ∧ ranges ∧ (dev u → c.b 6 25 = true) ∧ u.err.inject.isSome = true) (fun u => u.complete c stBusy []) ∧
    Completes (.diagInject c) c 0x1001 (layDiagInject c) false (fun u => u.authZ c = true ∧ (¬ ranges ∨ dev u ∧ c.b 6 25 = false))
      (fun u => u.complete c stBadParam []) ∧
    Completes (.diagScrub c) c 0x1002 (layDiagScrub c) true
      (fun u => u.authZ c = true ∧ (domArray one = true ∨ one = 0xFF) ∧ u.err.scrub = none ∧ c.b 4 8 = false)
      (fun u => (scrub u none).complete c stOk []) ∧
    Completes (.diagScrub c) c 0x1002 (layDiagScrub c) true
      (fun u => u.authZ c = true ∧ (domArray one = true ∨ one = 0xFF) ∧ u.err.scrub = none ∧ c.b 4 8 = true) (fun u => scrub u (some c)) ∧
    Completes (.diagScrub c) c 0x1002 (layDiagScrub c) true
      (fun u => u.authZ c = true ∧ (domArray one = true ∨ one = 0xFF) ∧ u.err.scrub.isSome = true) (fun u => u.complete c stBusy []) ∧
    Completes (.diagSelftest c failed) c 0x1003 (layDiagSelftest c) false (fun u => u.authZ c = true)
      (fun u => ((List.range 7).foldl test u).complete c stOk [word (failed % 128)]) ∧
    Completes (.diagClear c) c 0x1004 (layDiagClear c) false (fun u => u.authZ c = true ∧ c.b 4 0 = false)
      (fun u => ({ u with err := u.err.clear (c.w 4) } : State).complete c stOk []) ∧
    Completes (.diagClear c) c 0x1004 (layDiagClear c) false (fun u => u.authZ c = true ∧ c.b 4 0 = true)
      (fun u => ({ u with err := { u.err.clear (c.w 4) with doms := (u.err.clear (c.w 4)).doms.mapAll DomErr.init zero
                                                            patrols := 0 } } : State).complete c stOk []) ∧
    Completes (.diagInject c) c 0x1001 (layDiagInject c) false (fun u => u.authZ c = false) (fun u => u.complete c stNotGranted []) ∧
    Completes (.diagScrub c) c 0x1002 (layDiagScrub c) true (fun u => u.authZ c = false) (fun u => u.complete c stNotGranted []) ∧
    Completes (.diagSelftest c failed) c 0x1003 (layDiagSelftest c) false (fun u => u.authZ c = false) (fun u => u.complete c stNotGranted []) ∧
    Completes (.diagClear c) c 0x1004 (layDiagClear c) false (fun u => u.authZ c = false) (fun u => u.complete c stNotGranted [])

/-! ### Registers (Chapters 11 and 20) -/

/-- From a host port whose requests reach the hub, bound to the slice, the writes of SL_SQ_TAIL, SL_SQ_SIZE, SL_EVQ_SIZE, SL_EVQ_HEAD,
SL_INT_CTRL, SL_RING_DB and MG_ERRSUM have their effects, errors included, a queue that is enabled keeping its error field; a read of an RC register answers its value and clears it; a read
of MG_TIME_NS latches the port's time snapshot; a write through MSIX_TABLE_WRITE changes one vector, and REGISTER_WRITE acts on the base
registers of a disabled queue and on MG_SCRATCH; held records are written, a failed record write disables the event queue, and the interrupt
timer sends an interrupt that is due. A port that does not see the page changes nothing; at one that does not take memory requests a write changes
nothing and a read is answered with Unsupported Request while the port hears requests at all. -/
def Obligations.registerRows : Prop :=
  ∀ (s : State) (p k v : Nat), k < 64 →
    let on := s.regReach p = true ∧ s.seesPage p k = true
    let x := s.slice k
    (on → ∀ q, q < 8 → (s.sq k q).enable = true →
      (v % 4096 < (s.sq k q).size → exec (.slSqTailWrite p k q v) s = .next (s.setSq k q { s.sq k q with tail := v % 4096 })) ∧
      ((s.sq k q).size ≤ v % 4096 → exec (.slSqTailWrite p k q v) s = .next ((s.setSq k q { s.sq k q with err := 1 }).queueErr k q 1))) ∧
    (on → ∀ q, q < 8 → (s.sq k q).enable = false → exec (.slSqTailWrite p k q v) s = .next s) ∧
    (on → (s.sq k 0).enable = false →
      let y := { s.sq k 0 with prio := bits v 29 28, size := bits v 12 0 }
      (bit v 31 = false → exec (.slSqSizeWrite p k 0 v) s = .next (s.setSq k 0 { y with err := 0 })) ∧
      (bit v 31 = true → y.size ∈ [16, 32, 64, 128, 256, 512, 1024, 2048, 4096] →
        exec (.slSqSizeWrite p k 0 v) s = .next (s.setSq k 0 { y with enable := true, head := 0, tail := 0 })) ∧
      (bit v 31 = true → y.size ∉ [16, 32, 64, 128, 256, 512, 1024, 2048, 4096] →
        exec (.slSqSizeWrite p k 0 v) s = .next ((s.setSq k 0 y).sqErr k 0 3))) ∧
    (on → (s.sq k 0).enable = true →
      (bit v 31 = true → exec (.slSqSizeWrite p k 0 v) s = .next s) ∧
      (bit v 31 = false → exec (.slSqSizeWrite p k 0 v) s = .next (s.setSq k 0 { s.sq k 0 with enable := false, err := 0 }))) ∧
    (∀ q, 1 ≤ q → q < 8 → exec (.slSqSizeWrite p k q v) s = .next s) ∧
    (on → x.evq.enable = false → bit v 31 = true →
      bits v 16 0 ∈ [64, 128, 256, 512, 1024, 2048, 4096, 8192, 16384, 32768, 65536] →
      let y := { x.evq with size := bits v 16 0, enable := true, tail := 0, head := 0, phase := true }
      exec (.slEvqSizeWrite p k v) s = .next ((s.modSlice k fun z => { z with evq := y }).flushHeld k 64)) ∧
    (on → x.evq.enable = true → bit v 31 = false →
      exec (.slEvqSizeWrite p k v) s = .next (s.modSlice k fun z => { z with evq := { x.evq with enable := false, err := 0 } })) ∧
    (on → x.evq.enable = true →
      (v % 2 ^ 17 < x.evq.size → exec (.slEvqHeadWrite p k v) s =
        .next ((s.setSlice k { x with evq := { x.evq with head := v % 2 ^ 17 }, unsig := 0, firstAt := none }).flushHeld k 64)) ∧
      (x.evq.size ≤ v % 2 ^ 17 → exec (.slEvqHeadWrite p k v) s =
        .next ((s.setSlice k { x with evq := { x.evq with err := 4 } }).queueErr k 8 4))) ∧
    (on → let n := if bits v 20 13 = 0 then 1 else bits v 20 13
      let t := s.setSlice k { x with mask := bit v 31, intTime := bits v 30 21, intCount := n, vector := bits v 8 0 }
      exec (.slIntCtrlWrite p k v) s = .next (if x.mask = true ∧ bit v 31 = false ∧ t.intDue k = true then t.sendInt k else t)) ∧
    (on → ∀ r slots, r < 16 → (x.ring r).enable = true → (x.ring r).exitDir = true → v % 4096 < (x.ring r).entries → x.state ≠ 0 →
      exec (.slRingDbWrite p k r v slots) s =
        .next (s.setRing k r { x.ring r with head := v % 4096, emptied := decide (v % 4096 = (x.ring r).tail) })) ∧
    (on → ∀ tag, exec (.rcRegisterRead p (k * 0x1000 + 8) tag) s =
        .next ((s.emit (.cpl p tag 0 (leBytes 4 (word x.lost).toNat))).modSlice k fun z => { z with lost := 0 }) ∧
      exec (.rcRegisterRead p (k * 0x1000 + 0xC) tag) s =
        .next ((s.emit (.cpl p tag 0 (leBytes 4 (word x.stale).toNat))).modSlice k fun z => { z with stale := 0 })) ∧
    (s.regReach p = true → k < s.vectors → ∀ tag,
      let m := (s.hport p).msix.read {} k
      let read (off : Nat) (w : Word) : Prop :=
        exec (.rcRegisterRead p (0x200000 + 16 * k + off) tag) s = .next (s.emit (.cpl p tag 0 (leBytes 4 w.toNat)))
      read 0 (word m.addr) ∧ read 4 (word (m.addr / 2 ^ 32)) ∧ read 8 m.data ∧ read 12 (word (b2n m.masked))) ∧
    (s.regReach p = true → s.portOfZ p = true →
      exec (.registerWrite p 0x100050 v) s = .next { s with host := { s.host with scratch := word v } } ∧
      exec (.mgErrsumWrite p v) s = .next (if s.ret.mode = .safe then s else { s with err := s.err.clear v })) ∧
    (s.regReach p = true → s.portOfZ p = false → exec (.mgErrsumWrite p v) s = .next s) ∧
    (s.regReach p = true → ∀ tag, exec (.mgTimeNsRead p tag) s =
      .next ((s.setHport p { s.hport p with snapT := s.time.datum, snapW7 := s.timeW7, snapOk := true }).emit
        (.cpl p tag 0 (leBytes 4 (s.nowNs % 1000000000))))) ∧
    (on → (s.sq k 0).enable = false → ∀ off, off = k * 0x1000 + 0x100 →
      exec (.registerWrite p off v) s = .next (s.setSq k 0 { s.sq k 0 with
        base := (s.sq k 0).base / 2 ^ 32 * 2 ^ 32 + v % 2 ^ 32 / 4096 * 4096 })) ∧
    (s.regReach p = true → k < s.vectors → ∀ b, b.length = 4 →
      exec (.msixTableWrite p (0x200000 + 16 * k + 12) b) s =
        .next ((s.setHport p { s.hport p with
          msix := (s.hport p).msix.write {} k { (s.hport p).msix.read {} k with masked := bit (fromLe (b.take 4)) 0 } }).msixUnmask p k)) ∧
    (s.seesPage p k = false → exec (.slSqTailWrite p k 0 v) s = .next s ∧ exec (.slEvqHeadWrite p k v) s = .next s ∧
      exec (.slIntCtrlWrite p k v) s = .next s) ∧
    (s.regReach p = false → exec (.mgErrsumWrite p v) s = .next s ∧
      exec (.rcRegisterRead p 8 v) s = .next (s.hostUr p v) ∧ exec (.mgTimeNsRead p v) s = .next (s.hostUr p v)) ∧
    (s.portHears p = true → s.hostUr p v = s.emit (.cpl p v 1 [])) ∧ (s.portHears p = false → s.hostUr p v = s) ∧
    (s.coreOn = true → exec (.heldRecordWrite k true) s = .next (s.flushHeld k 64)) ∧
    (s.coreOn = true → x.evq.enable = true → exec (.heldRecordWrite k false) s =
      (let t := s.modSlice k fun z => { z with evq := { z.evq with enable := false, err := 5 } }
       .next (({ t with err := { t.err with evqFail := true } } : State).queueErr k 8 5))) ∧
    (s.coreOn = true → s.intDue k = true → exec (.interruptTimer k) s = .next (s.sendInt k)) ∧
    (s.coreOn = false ∨ s.intDue k = false → exec (.interruptTimer k) s = .next s)
end

