-- ==== Sys2Proof/Laws/KeepParts.lean ====
section
/-! SUPPORT. The parts of the state that an operation may change: one predicate for each set of parts, each naming what it leaves as it was, and the laws by which they pass through a conditional and a fold. -/

namespace Sys2Proof.Machine

abbrev OnlyLinks (t s : State) : Prop :=
  t.pending = s.pending ∧ t.nv = s.nv ∧ t.ret = s.ret ∧ t.pwr = s.pwr ∧ t.board = s.board ∧ t.pace = s.pace ∧ t.tree = s.tree ∧ t.sched = s.sched ∧ t.time = s.time ∧ t.trav = s.trav ∧ t.host = s.host ∧ t.disp = s.disp ∧ t.usb = s.usb ∧ t.net = s.net ∧ t.win = s.win ∧ t.keys = s.keys ∧ t.img = s.img ∧ t.err = s.err ∧ t.out = s.out ∧ t.free = s.free ∧ t.uptime = s.uptime

abbrev OnlyFree (t s : State) : Prop :=
  t.pending = s.pending ∧ t.nv = s.nv ∧ t.ret = s.ret ∧ t.pwr = s.pwr ∧ t.board = s.board ∧ t.pace = s.pace ∧ t.links = s.links ∧ t.tree = s.tree ∧ t.sched = s.sched ∧ t.time = s.time ∧ t.trav = s.trav ∧ t.host = s.host ∧ t.disp = s.disp ∧ t.usb = s.usb ∧ t.net = s.net ∧ t.win = s.win ∧ t.keys = s.keys ∧ t.img = s.img ∧ t.err = s.err ∧ t.out = s.out ∧ t.uptime = s.uptime

abbrev OnlyOut (t s : State) : Prop :=
  t.pending = s.pending ∧ t.nv = s.nv ∧ t.ret = s.ret ∧ t.pwr = s.pwr ∧ t.board = s.board ∧ t.pace = s.pace ∧ t.links = s.links ∧ t.tree = s.tree ∧ t.sched = s.sched ∧ t.time = s.time ∧ t.trav = s.trav ∧ t.host = s.host ∧ t.disp = s.disp ∧ t.usb = s.usb ∧ t.net = s.net ∧ t.win = s.win ∧ t.keys = s.keys ∧ t.img = s.img ∧ t.err = s.err ∧ t.free = s.free ∧ t.uptime = s.uptime

abbrev OnlyHost (t s : State) : Prop :=
  t.pending = s.pending ∧ t.nv = s.nv ∧ t.ret = s.ret ∧ t.pwr = s.pwr ∧ t.board = s.board ∧ t.pace = s.pace ∧ t.links = s.links ∧ t.tree = s.tree ∧ t.sched = s.sched ∧ t.time = s.time ∧ t.trav = s.trav ∧ t.disp = s.disp ∧ t.usb = s.usb ∧ t.net = s.net ∧ t.win = s.win ∧ t.keys = s.keys ∧ t.img = s.img ∧ t.err = s.err ∧ t.out = s.out ∧ t.free = s.free ∧ t.uptime = s.uptime

abbrev OnlyHostOut (t s : State) : Prop :=
  t.pending = s.pending ∧ t.nv = s.nv ∧ t.ret = s.ret ∧ t.pwr = s.pwr ∧ t.board = s.board ∧ t.pace = s.pace ∧ t.links = s.links ∧ t.tree = s.tree ∧ t.sched = s.sched ∧ t.time = s.time ∧ t.trav = s.trav ∧ t.disp = s.disp ∧ t.usb = s.usb ∧ t.net = s.net ∧ t.win = s.win ∧ t.keys = s.keys ∧ t.img = s.img ∧ t.err = s.err ∧ t.free = s.free ∧ t.uptime = s.uptime

abbrev OnlyErr (t s : State) : Prop :=
  t.pending = s.pending ∧ t.nv = s.nv ∧ t.ret = s.ret ∧ t.pwr = s.pwr ∧ t.board = s.board ∧ t.pace = s.pace ∧ t.links = s.links ∧ t.tree = s.tree ∧ t.sched = s.sched ∧ t.time = s.time ∧ t.trav = s.trav ∧ t.host = s.host ∧ t.disp = s.disp ∧ t.usb = s.usb ∧ t.net = s.net ∧ t.win = s.win ∧ t.keys = s.keys ∧ t.img = s.img ∧ t.out = s.out ∧ t.free = s.free ∧ t.uptime = s.uptime

abbrev OnlyHostErrOut (t s : State) : Prop :=
  t.pending = s.pending ∧ t.nv = s.nv ∧ t.ret = s.ret ∧ t.pwr = s.pwr ∧ t.board = s.board ∧ t.pace = s.pace ∧ t.links = s.links ∧ t.tree = s.tree ∧ t.sched = s.sched ∧ t.time = s.time ∧ t.trav = s.trav ∧ t.disp = s.disp ∧ t.usb = s.usb ∧ t.net = s.net ∧ t.win = s.win ∧ t.keys = s.keys ∧ t.img = s.img ∧ t.free = s.free ∧ t.uptime = s.uptime

abbrev OnlyTrav (t s : State) : Prop :=
  t.pending = s.pending ∧ t.nv = s.nv ∧ t.ret = s.ret ∧ t.pwr = s.pwr ∧ t.board = s.board ∧ t.pace = s.pace ∧ t.links = s.links ∧ t.tree = s.tree ∧ t.sched = s.sched ∧ t.time = s.time ∧ t.host = s.host ∧ t.disp = s.disp ∧ t.usb = s.usb ∧ t.net = s.net ∧ t.win = s.win ∧ t.keys = s.keys ∧ t.img = s.img ∧ t.err = s.err ∧ t.out = s.out ∧ t.free = s.free ∧ t.uptime = s.uptime

abbrev OnlyTravOut (t s : State) : Prop :=
  t.pending = s.pending ∧ t.nv = s.nv ∧ t.ret = s.ret ∧ t.pwr = s.pwr ∧ t.board = s.board ∧ t.pace = s.pace ∧ t.links = s.links ∧ t.tree = s.tree ∧ t.sched = s.sched ∧ t.time = s.time ∧ t.host = s.host ∧ t.disp = s.disp ∧ t.usb = s.usb ∧ t.net = s.net ∧ t.win = s.win ∧ t.keys = s.keys ∧ t.img = s.img ∧ t.err = s.err ∧ t.free = s.free ∧ t.uptime = s.uptime

abbrev OnlyTravHostOut (t s : State) : Prop :=
  t.pending = s.pending ∧ t.nv = s.nv ∧ t.ret = s.ret ∧ t.pwr = s.pwr ∧ t.board = s.board ∧ t.pace = s.pace ∧ t.links = s.links ∧ t.tree = s.tree ∧ t.sched = s.sched ∧ t.time = s.time ∧ t.disp = s.disp ∧ t.usb = s.usb ∧ t.net = s.net ∧ t.win = s.win ∧ t.keys = s.keys ∧ t.img = s.img ∧ t.err = s.err ∧ t.free = s.free ∧ t.uptime = s.uptime

abbrev OnlyLinksTreeSchedTravHostOut (t s : State) : Prop :=
  t.pending = s.pending ∧ t.nv = s.nv ∧ t.ret = s.ret ∧ t.pwr = s.pwr ∧ t.board = s.board ∧ t.pace = s.pace ∧ t.time = s.time ∧ t.disp = s.disp ∧ t.usb = s.usb ∧ t.net = s.net ∧ t.win = s.win ∧ t.keys = s.keys ∧ t.img = s.img ∧ t.err = s.err ∧ t.free = s.free ∧ t.uptime = s.uptime

abbrev OnlySched (t s : State) : Prop :=
  t.pending = s.pending ∧ t.nv = s.nv ∧ t.ret = s.ret ∧ t.pwr = s.pwr ∧ t.board = s.board ∧ t.pace = s.pace ∧ t.links = s.links ∧ t.tree = s.tree ∧ t.time = s.time ∧ t.trav = s.trav ∧ t.host = s.host ∧ t.disp = s.disp ∧ t.usb = s.usb ∧ t.net = s.net ∧ t.win = s.win ∧ t.keys = s.keys ∧ t.img = s.img ∧ t.err = s.err ∧ t.out = s.out ∧ t.free = s.free ∧ t.uptime = s.uptime

abbrev OnlyLinksSched (t s : State) : Prop :=
  t.pending = s.pending ∧ t.nv = s.nv ∧ t.ret = s.ret ∧ t.pwr = s.pwr ∧ t.board = s.board ∧ t.pace = s.pace ∧ t.tree = s.tree ∧ t.time = s.time ∧ t.trav = s.trav ∧ t.host = s.host ∧ t.disp = s.disp ∧ t.usb = s.usb ∧ t.net = s.net ∧ t.win = s.win ∧ t.keys = s.keys ∧ t.img = s.img ∧ t.err = s.err ∧ t.out = s.out ∧ t.free = s.free ∧ t.uptime = s.uptime

abbrev OnlyTree (t s : State) : Prop :=
  t.pending = s.pending ∧ t.nv = s.nv ∧ t.ret = s.ret ∧ t.pwr = s.pwr ∧ t.board = s.board ∧ t.pace = s.pace ∧ t.links = s.links ∧ t.sched = s.sched ∧ t.time = s.time ∧ t.trav = s.trav ∧ t.host = s.host ∧ t.disp = s.disp ∧ t.usb = s.usb ∧ t.net = s.net ∧ t.win = s.win ∧ t.keys = s.keys ∧ t.img = s.img ∧ t.err = s.err ∧ t.out = s.out ∧ t.free = s.free ∧ t.uptime = s.uptime

abbrev OnlyTreeOut (t s : State) : Prop :=
  t.pending = s.pending ∧ t.nv = s.nv ∧ t.ret = s.ret ∧ t.pwr = s.pwr ∧ t.board = s.board ∧ t.pace = s.pace ∧ t.links = s.links ∧ t.sched = s.sched ∧ t.time = s.time ∧ t.trav = s.trav ∧ t.host = s.host ∧ t.disp = s.disp ∧ t.usb = s.usb ∧ t.net = s.net ∧ t.win = s.win ∧ t.keys = s.keys ∧ t.img = s.img ∧ t.err = s.err ∧ t.free = s.free ∧ t.uptime = s.uptime

abbrev OnlyLinksTreeSchedOut (t s : State) : Prop :=
  t.pending = s.pending ∧ t.nv = s.nv ∧ t.ret = s.ret ∧ t.pwr = s.pwr ∧ t.board = s.board ∧ t.pace = s.pace ∧ t.time = s.time ∧ t.trav = s.trav ∧ t.host = s.host ∧ t.disp = s.disp ∧ t.usb = s.usb ∧ t.net = s.net ∧ t.win = s.win ∧ t.keys = s.keys ∧ t.img = s.img ∧ t.err = s.err ∧ t.free = s.free ∧ t.uptime = s.uptime

abbrev OnlyPwr (t s : State) : Prop :=
  t.pending = s.pending ∧ t.nv = s.nv ∧ t.ret = s.ret ∧ t.board = s.board ∧ t.pace = s.pace ∧ t.links = s.links ∧ t.tree = s.tree ∧ t.sched = s.sched ∧ t.time = s.time ∧ t.trav = s.trav ∧ t.host = s.host ∧ t.disp = s.disp ∧ t.usb = s.usb ∧ t.net = s.net ∧ t.win = s.win ∧ t.keys = s.keys ∧ t.img = s.img ∧ t.err = s.err ∧ t.out = s.out ∧ t.free = s.free ∧ t.uptime = s.uptime

abbrev OnlyPwrHostOut (t s : State) : Prop :=
  t.pending = s.pending ∧ t.nv = s.nv ∧ t.ret = s.ret ∧ t.board = s.board ∧ t.pace = s.pace ∧ t.links = s.links ∧ t.tree = s.tree ∧ t.sched = s.sched ∧ t.time = s.time ∧ t.trav = s.trav ∧ t.disp = s.disp ∧ t.usb = s.usb ∧ t.net = s.net ∧ t.win = s.win ∧ t.keys = s.keys ∧ t.img = s.img ∧ t.err = s.err ∧ t.free = s.free ∧ t.uptime = s.uptime

abbrev OnlyPwrOut (t s : State) : Prop :=
  t.pending = s.pending ∧ t.nv = s.nv ∧ t.ret = s.ret ∧ t.board = s.board ∧ t.pace = s.pace ∧ t.links = s.links ∧ t.tree = s.tree ∧ t.sched = s.sched ∧ t.time = s.time ∧ t.trav = s.trav ∧ t.host = s.host ∧ t.disp = s.disp ∧ t.usb = s.usb ∧ t.net = s.net ∧ t.win = s.win ∧ t.keys = s.keys ∧ t.img = s.img ∧ t.err = s.err ∧ t.free = s.free ∧ t.uptime = s.uptime

abbrev OnlyRetPwrOut (t s : State) : Prop :=
  t.pending = s.pending ∧ t.nv = s.nv ∧ t.board = s.board ∧ t.pace = s.pace ∧ t.links = s.links ∧ t.tree = s.tree ∧ t.sched = s.sched ∧ t.time = s.time ∧ t.trav = s.trav ∧ t.host = s.host ∧ t.disp = s.disp ∧ t.usb = s.usb ∧ t.net = s.net ∧ t.win = s.win ∧ t.keys = s.keys ∧ t.img = s.img ∧ t.err = s.err ∧ t.free = s.free ∧ t.uptime = s.uptime ∧ t.ret.mode = s.ret.mode ∧ t.ret.straps = s.ret.straps ∧ t.ret.safeLatch = s.ret.safeLatch ∧ t.ret.resetCause = s.ret.resetCause

abbrev OnlyLinksHostOut (t s : State) : Prop :=
  t.pending = s.pending ∧ t.nv = s.nv ∧ t.ret = s.ret ∧ t.pwr = s.pwr ∧ t.board = s.board ∧ t.pace = s.pace ∧ t.tree = s.tree ∧ t.sched = s.sched ∧ t.time = s.time ∧ t.trav = s.trav ∧ t.disp = s.disp ∧ t.usb = s.usb ∧ t.net = s.net ∧ t.win = s.win ∧ t.keys = s.keys ∧ t.img = s.img ∧ t.err = s.err ∧ t.free = s.free ∧ t.uptime = s.uptime

abbrev OnlyPwrLinksHostOut (t s : State) : Prop :=
  t.pending = s.pending ∧ t.nv = s.nv ∧ t.ret = s.ret ∧ t.board = s.board ∧ t.pace = s.pace ∧ t.tree = s.tree ∧ t.sched = s.sched ∧ t.time = s.time ∧ t.trav = s.trav ∧ t.disp = s.disp ∧ t.usb = s.usb ∧ t.net = s.net ∧ t.win = s.win ∧ t.keys = s.keys ∧ t.img = s.img ∧ t.err = s.err ∧ t.free = s.free ∧ t.uptime = s.uptime

abbrev OnlyLinksOut (t s : State) : Prop :=
  t.pending = s.pending ∧ t.nv = s.nv ∧ t.ret = s.ret ∧ t.pwr = s.pwr ∧ t.board = s.board ∧ t.pace = s.pace ∧ t.tree = s.tree ∧ t.sched = s.sched ∧ t.time = s.time ∧ t.trav = s.trav ∧ t.host = s.host ∧ t.disp = s.disp ∧ t.usb = s.usb ∧ t.net = s.net ∧ t.win = s.win ∧ t.keys = s.keys ∧ t.img = s.img ∧ t.err = s.err ∧ t.free = s.free ∧ t.uptime = s.uptime

abbrev OnlyRet (t s : State) : Prop :=
  t.pending = s.pending ∧ t.nv = s.nv ∧ t.pwr = s.pwr ∧ t.board = s.board ∧ t.pace = s.pace ∧ t.links = s.links ∧ t.tree = s.tree ∧ t.sched = s.sched ∧ t.time = s.time ∧ t.trav = s.trav ∧ t.host = s.host ∧ t.disp = s.disp ∧ t.usb = s.usb ∧ t.net = s.net ∧ t.win = s.win ∧ t.keys = s.keys ∧ t.img = s.img ∧ t.err = s.err ∧ t.out = s.out ∧ t.free = s.free ∧ t.uptime = s.uptime ∧ t.ret.mode = s.ret.mode ∧ t.ret.straps = s.ret.straps ∧ t.ret.safeLatch = s.ret.safeLatch ∧ t.ret.resetCause = s.ret.resetCause

abbrev OnlyRetPwrLinksHostOut (t s : State) : Prop :=
  t.pending = s.pending ∧ t.nv = s.nv ∧ t.board = s.board ∧ t.pace = s.pace ∧ t.tree = s.tree ∧ t.sched = s.sched ∧ t.time = s.time ∧ t.trav = s.trav ∧ t.disp = s.disp ∧ t.usb = s.usb ∧ t.net = s.net ∧ t.win = s.win ∧ t.keys = s.keys ∧ t.img = s.img ∧ t.err = s.err ∧ t.free = s.free ∧ t.uptime = s.uptime ∧ t.ret.mode = s.ret.mode ∧ t.ret.straps = s.ret.straps ∧ t.ret.safeLatch = s.ret.safeLatch ∧ t.ret.resetCause = s.ret.resetCause

abbrev OnlyRetPwrHostOut (t s : State) : Prop :=
  t.pending = s.pending ∧ t.nv = s.nv ∧ t.board = s.board ∧ t.pace = s.pace ∧ t.links = s.links ∧ t.tree = s.tree ∧ t.sched = s.sched ∧ t.time = s.time ∧ t.trav = s.trav ∧ t.disp = s.disp ∧ t.usb = s.usb ∧ t.net = s.net ∧ t.win = s.win ∧ t.keys = s.keys ∧ t.img = s.img ∧ t.err = s.err ∧ t.free = s.free ∧ t.uptime = s.uptime ∧ t.ret.mode = s.ret.mode ∧ t.ret.straps = s.ret.straps ∧ t.ret.safeLatch = s.ret.safeLatch ∧ t.ret.resetCause = s.ret.resetCause

abbrev OnlyLinksTreeHostOutFree (t s : State) : Prop :=
  t.pending = s.pending ∧ t.nv = s.nv ∧ t.ret = s.ret ∧ t.pwr = s.pwr ∧ t.board = s.board ∧ t.pace = s.pace ∧ t.sched = s.sched ∧ t.time = s.time ∧ t.trav = s.trav ∧ t.disp = s.disp ∧ t.usb = s.usb ∧ t.net = s.net ∧ t.win = s.win ∧ t.keys = s.keys ∧ t.img = s.img ∧ t.err = s.err ∧ t.uptime = s.uptime

abbrev OnlyTime (t s : State) : Prop :=
  t.pending = s.pending ∧ t.nv = s.nv ∧ t.ret = s.ret ∧ t.pwr = s.pwr ∧ t.board = s.board ∧ t.pace = s.pace ∧ t.links = s.links ∧ t.tree = s.tree ∧ t.sched = s.sched ∧ t.trav = s.trav ∧ t.host = s.host ∧ t.disp = s.disp ∧ t.usb = s.usb ∧ t.net = s.net ∧ t.win = s.win ∧ t.keys = s.keys ∧ t.img = s.img ∧ t.err = s.err ∧ t.out = s.out ∧ t.free = s.free ∧ t.uptime = s.uptime

abbrev OnlyLinksTime (t s : State) : Prop :=
  t.pending = s.pending ∧ t.nv = s.nv ∧ t.ret = s.ret ∧ t.pwr = s.pwr ∧ t.board = s.board ∧ t.pace = s.pace ∧ t.tree = s.tree ∧ t.sched = s.sched ∧ t.trav = s.trav ∧ t.host = s.host ∧ t.disp = s.disp ∧ t.usb = s.usb ∧ t.net = s.net ∧ t.win = s.win ∧ t.keys = s.keys ∧ t.img = s.img ∧ t.err = s.err ∧ t.out = s.out ∧ t.free = s.free ∧ t.uptime = s.uptime

abbrev OnlyDisp (t s : State) : Prop :=
  t.pending = s.pending ∧ t.nv = s.nv ∧ t.ret = s.ret ∧ t.pwr = s.pwr ∧ t.board = s.board ∧ t.pace = s.pace ∧ t.links = s.links ∧ t.tree = s.tree ∧ t.sched = s.sched ∧ t.time = s.time ∧ t.trav = s.trav ∧ t.host = s.host ∧ t.usb = s.usb ∧ t.net = s.net ∧ t.win = s.win ∧ t.keys = s.keys ∧ t.img = s.img ∧ t.err = s.err ∧ t.out = s.out ∧ t.free = s.free ∧ t.uptime = s.uptime

abbrev OnlyHostDispOut (t s : State) : Prop :=
  t.pending = s.pending ∧ t.nv = s.nv ∧ t.ret = s.ret ∧ t.pwr = s.pwr ∧ t.board = s.board ∧ t.pace = s.pace ∧ t.links = s.links ∧ t.tree = s.tree ∧ t.sched = s.sched ∧ t.time = s.time ∧ t.trav = s.trav ∧ t.usb = s.usb ∧ t.net = s.net ∧ t.win = s.win ∧ t.keys = s.keys ∧ t.img = s.img ∧ t.err = s.err ∧ t.free = s.free ∧ t.uptime = s.uptime

abbrev OnlyLinksTreeSchedHostDispOut (t s : State) : Prop :=
  t.pending = s.pending ∧ t.nv = s.nv ∧ t.ret = s.ret ∧ t.pwr = s.pwr ∧ t.board = s.board ∧ t.pace = s.pace ∧ t.time = s.time ∧ t.trav = s.trav ∧ t.usb = s.usb ∧ t.net = s.net ∧ t.win = s.win ∧ t.keys = s.keys ∧ t.img = s.img ∧ t.err = s.err ∧ t.free = s.free ∧ t.uptime = s.uptime

abbrev OnlyUsb (t s : State) : Prop :=
  t.pending = s.pending ∧ t.nv = s.nv ∧ t.ret = s.ret ∧ t.pwr = s.pwr ∧ t.board = s.board ∧ t.pace = s.pace ∧ t.links = s.links ∧ t.tree = s.tree ∧ t.sched = s.sched ∧ t.time = s.time ∧ t.trav = s.trav ∧ t.host = s.host ∧ t.disp = s.disp ∧ t.net = s.net ∧ t.win = s.win ∧ t.keys = s.keys ∧ t.img = s.img ∧ t.err = s.err ∧ t.out = s.out ∧ t.free = s.free ∧ t.uptime = s.uptime

abbrev OnlyLinksTreeSchedHostUsbOut (t s : State) : Prop :=
  t.pending = s.pending ∧ t.nv = s.nv ∧ t.ret = s.ret ∧ t.pwr = s.pwr ∧ t.board = s.board ∧ t.pace = s.pace ∧ t.time = s.time ∧ t.trav = s.trav ∧ t.disp = s.disp ∧ t.net = s.net ∧ t.win = s.win ∧ t.keys = s.keys ∧ t.img = s.img ∧ t.err = s.err ∧ t.free = s.free ∧ t.uptime = s.uptime

abbrev OnlyLinksTreeSchedUsbOut (t s : State) : Prop :=
  t.pending = s.pending ∧ t.nv = s.nv ∧ t.ret = s.ret ∧ t.pwr = s.pwr ∧ t.board = s.board ∧ t.pace = s.pace ∧ t.time = s.time ∧ t.trav = s.trav ∧ t.host = s.host ∧ t.disp = s.disp ∧ t.net = s.net ∧ t.win = s.win ∧ t.keys = s.keys ∧ t.img = s.img ∧ t.err = s.err ∧ t.free = s.free ∧ t.uptime = s.uptime

abbrev OnlyUsbOut (t s : State) : Prop :=
  t.pending = s.pending ∧ t.nv = s.nv ∧ t.ret = s.ret ∧ t.pwr = s.pwr ∧ t.board = s.board ∧ t.pace = s.pace ∧ t.links = s.links ∧ t.tree = s.tree ∧ t.sched = s.sched ∧ t.time = s.time ∧ t.trav = s.trav ∧ t.host = s.host ∧ t.disp = s.disp ∧ t.net = s.net ∧ t.win = s.win ∧ t.keys = s.keys ∧ t.img = s.img ∧ t.err = s.err ∧ t.free = s.free ∧ t.uptime = s.uptime

abbrev OnlyLinksTreeSchedUsbOutFree (t s : State) : Prop :=
  t.pending = s.pending ∧ t.nv = s.nv ∧ t.ret = s.ret ∧ t.pwr = s.pwr ∧ t.board = s.board ∧ t.pace = s.pace ∧ t.time = s.time ∧ t.trav = s.trav ∧ t.host = s.host ∧ t.disp = s.disp ∧ t.net = s.net ∧ t.win = s.win ∧ t.keys = s.keys ∧ t.img = s.img ∧ t.err = s.err ∧ t.uptime = s.uptime

abbrev OnlyHostUsbOut (t s : State) : Prop :=
  t.pending = s.pending ∧ t.nv = s.nv ∧ t.ret = s.ret ∧ t.pwr = s.pwr ∧ t.board = s.board ∧ t.pace = s.pace ∧ t.links = s.links ∧ t.tree = s.tree ∧ t.sched = s.sched ∧ t.time = s.time ∧ t.trav = s.trav ∧ t.disp = s.disp ∧ t.net = s.net ∧ t.win = s.win ∧ t.keys = s.keys ∧ t.img = s.img ∧ t.err = s.err ∧ t.free = s.free ∧ t.uptime = s.uptime

abbrev OnlyNet (t s : State) : Prop :=
  t.pending = s.pending ∧ t.nv = s.nv ∧ t.ret = s.ret ∧ t.pwr = s.pwr ∧ t.board = s.board ∧ t.pace = s.pace ∧ t.links = s.links ∧ t.tree = s.tree ∧ t.sched = s.sched ∧ t.time = s.time ∧ t.trav = s.trav ∧ t.host = s.host ∧ t.disp = s.disp ∧ t.usb = s.usb ∧ t.win = s.win ∧ t.keys = s.keys ∧ t.img = s.img ∧ t.err = s.err ∧ t.out = s.out ∧ t.free = s.free ∧ t.uptime = s.uptime

abbrev OnlyLinksTreeSchedNetOut (t s : State) : Prop :=
  t.pending = s.pending ∧ t.nv = s.nv ∧ t.ret = s.ret ∧ t.pwr = s.pwr ∧ t.board = s.board ∧ t.pace = s.pace ∧ t.time = s.time ∧ t.trav = s.trav ∧ t.host = s.host ∧ t.disp = s.disp ∧ t.usb = s.usb ∧ t.win = s.win ∧ t.keys = s.keys ∧ t.img = s.img ∧ t.err = s.err ∧ t.free = s.free ∧ t.uptime = s.uptime

abbrev OnlyHostNetOut (t s : State) : Prop :=
  t.pending = s.pending ∧ t.nv = s.nv ∧ t.ret = s.ret ∧ t.pwr = s.pwr ∧ t.board = s.board ∧ t.pace = s.pace ∧ t.links = s.links ∧ t.tree = s.tree ∧ t.sched = s.sched ∧ t.time = s.time ∧ t.trav = s.trav ∧ t.disp = s.disp ∧ t.usb = s.usb ∧ t.win = s.win ∧ t.keys = s.keys ∧ t.img = s.img ∧ t.err = s.err ∧ t.free = s.free ∧ t.uptime = s.uptime

abbrev OnlyTreeHostOut (t s : State) : Prop :=
  t.pending = s.pending ∧ t.nv = s.nv ∧ t.ret = s.ret ∧ t.pwr = s.pwr ∧ t.board = s.board ∧ t.pace = s.pace ∧ t.links = s.links ∧ t.sched = s.sched ∧ t.time = s.time ∧ t.trav = s.trav ∧ t.disp = s.disp ∧ t.usb = s.usb ∧ t.net = s.net ∧ t.win = s.win ∧ t.keys = s.keys ∧ t.img = s.img ∧ t.err = s.err ∧ t.free = s.free ∧ t.uptime = s.uptime

abbrev OnlyTreeHostNetOut (t s : State) : Prop :=
  t.pending = s.pending ∧ t.nv = s.nv ∧ t.ret = s.ret ∧ t.pwr = s.pwr ∧ t.board = s.board ∧ t.pace = s.pace ∧ t.links = s.links ∧ t.sched = s.sched ∧ t.time = s.time ∧ t.trav = s.trav ∧ t.disp = s.disp ∧ t.usb = s.usb ∧ t.win = s.win ∧ t.keys = s.keys ∧ t.img = s.img ∧ t.err = s.err ∧ t.free = s.free ∧ t.uptime = s.uptime

abbrev OnlyLinksTreeSchedHostNetOut (t s : State) : Prop :=
  t.pending = s.pending ∧ t.nv = s.nv ∧ t.ret = s.ret ∧ t.pwr = s.pwr ∧ t.board = s.board ∧ t.pace = s.pace ∧ t.time = s.time ∧ t.trav = s.trav ∧ t.disp = s.disp ∧ t.usb = s.usb ∧ t.win = s.win ∧ t.keys = s.keys ∧ t.img = s.img ∧ t.err = s.err ∧ t.free = s.free ∧ t.uptime = s.uptime

abbrev OnlyLinksTreeSchedHostOut (t s : State) : Prop :=
  t.pending = s.pending ∧ t.nv = s.nv ∧ t.ret = s.ret ∧ t.pwr = s.pwr ∧ t.board = s.board ∧ t.pace = s.pace ∧ t.time = s.time ∧ t.trav = s.trav ∧ t.disp = s.disp ∧ t.usb = s.usb ∧ t.net = s.net ∧ t.win = s.win ∧ t.keys = s.keys ∧ t.img = s.img ∧ t.err = s.err ∧ t.free = s.free ∧ t.uptime = s.uptime

abbrev OnlyLinksTreeSchedHostErrOut (t s : State) : Prop :=
  t.pending = s.pending ∧ t.nv = s.nv ∧ t.ret = s.ret ∧ t.pwr = s.pwr ∧ t.board = s.board ∧ t.pace = s.pace ∧ t.time = s.time ∧ t.trav = s.trav ∧ t.disp = s.disp ∧ t.usb = s.usb ∧ t.net = s.net ∧ t.win = s.win ∧ t.keys = s.keys ∧ t.img = s.img ∧ t.free = s.free ∧ t.uptime = s.uptime

abbrev OnlyHostErr (t s : State) : Prop :=
  t.pending = s.pending ∧ t.nv = s.nv ∧ t.ret = s.ret ∧ t.pwr = s.pwr ∧ t.board = s.board ∧ t.pace = s.pace ∧ t.links = s.links ∧ t.tree = s.tree ∧ t.sched = s.sched ∧ t.time = s.time ∧ t.trav = s.trav ∧ t.disp = s.disp ∧ t.usb = s.usb ∧ t.net = s.net ∧ t.win = s.win ∧ t.keys = s.keys ∧ t.img = s.img ∧ t.out = s.out ∧ t.free = s.free ∧ t.uptime = s.uptime

abbrev OnlyWin (t s : State) : Prop :=
  t.pending = s.pending ∧ t.nv = s.nv ∧ t.ret = s.ret ∧ t.pwr = s.pwr ∧ t.board = s.board ∧ t.pace = s.pace ∧ t.links = s.links ∧ t.tree = s.tree ∧ t.sched = s.sched ∧ t.time = s.time ∧ t.trav = s.trav ∧ t.host = s.host ∧ t.disp = s.disp ∧ t.usb = s.usb ∧ t.net = s.net ∧ t.keys = s.keys ∧ t.img = s.img ∧ t.err = s.err ∧ t.out = s.out ∧ t.free = s.free ∧ t.uptime = s.uptime

abbrev OnlyLinksTreeSchedHostWinOut (t s : State) : Prop :=
  t.pending = s.pending ∧ t.nv = s.nv ∧ t.ret = s.ret ∧ t.pwr = s.pwr ∧ t.board = s.board ∧ t.pace = s.pace ∧ t.time = s.time ∧ t.trav = s.trav ∧ t.disp = s.disp ∧ t.usb = s.usb ∧ t.net = s.net ∧ t.keys = s.keys ∧ t.img = s.img ∧ t.err = s.err ∧ t.free = s.free ∧ t.uptime = s.uptime

abbrev OnlyHostWinOut (t s : State) : Prop :=
  t.pending = s.pending ∧ t.nv = s.nv ∧ t.ret = s.ret ∧ t.pwr = s.pwr ∧ t.board = s.board ∧ t.pace = s.pace ∧ t.links = s.links ∧ t.tree = s.tree ∧ t.sched = s.sched ∧ t.time = s.time ∧ t.trav = s.trav ∧ t.disp = s.disp ∧ t.usb = s.usb ∧ t.net = s.net ∧ t.keys = s.keys ∧ t.img = s.img ∧ t.err = s.err ∧ t.free = s.free ∧ t.uptime = s.uptime

abbrev OnlyLinksTreeSchedWinOut (t s : State) : Prop :=
  t.pending = s.pending ∧ t.nv = s.nv ∧ t.ret = s.ret ∧ t.pwr = s.pwr ∧ t.board = s.board ∧ t.pace = s.pace ∧ t.time = s.time ∧ t.trav = s.trav ∧ t.host = s.host ∧ t.disp = s.disp ∧ t.usb = s.usb ∧ t.net = s.net ∧ t.keys = s.keys ∧ t.img = s.img ∧ t.err = s.err ∧ t.free = s.free ∧ t.uptime = s.uptime

abbrev OnlyPwrLinksTreeSchedHostWinOut (t s : State) : Prop :=
  t.pending = s.pending ∧ t.nv = s.nv ∧ t.ret = s.ret ∧ t.board = s.board ∧ t.pace = s.pace ∧ t.time = s.time ∧ t.trav = s.trav ∧ t.disp = s.disp ∧ t.usb = s.usb ∧ t.net = s.net ∧ t.keys = s.keys ∧ t.img = s.img ∧ t.err = s.err ∧ t.free = s.free ∧ t.uptime = s.uptime

abbrev OnlyWinOut (t s : State) : Prop :=
  t.pending = s.pending ∧ t.nv = s.nv ∧ t.ret = s.ret ∧ t.pwr = s.pwr ∧ t.board = s.board ∧ t.pace = s.pace ∧ t.links = s.links ∧ t.tree = s.tree ∧ t.sched = s.sched ∧ t.time = s.time ∧ t.trav = s.trav ∧ t.host = s.host ∧ t.disp = s.disp ∧ t.usb = s.usb ∧ t.net = s.net ∧ t.keys = s.keys ∧ t.img = s.img ∧ t.err = s.err ∧ t.free = s.free ∧ t.uptime = s.uptime

abbrev OnlyLinksTreeSchedHostWinErrOut (t s : State) : Prop :=
  t.pending = s.pending ∧ t.nv = s.nv ∧ t.ret = s.ret ∧ t.pwr = s.pwr ∧ t.board = s.board ∧ t.pace = s.pace ∧ t.time = s.time ∧ t.trav = s.trav ∧ t.disp = s.disp ∧ t.usb = s.usb ∧ t.net = s.net ∧ t.keys = s.keys ∧ t.img = s.img ∧ t.free = s.free ∧ t.uptime = s.uptime

abbrev OnlyLinksTreeSchedHostUsbWinOut (t s : State) : Prop :=
  t.pending = s.pending ∧ t.nv = s.nv ∧ t.ret = s.ret ∧ t.pwr = s.pwr ∧ t.board = s.board ∧ t.pace = s.pace ∧ t.time = s.time ∧ t.trav = s.trav ∧ t.disp = s.disp ∧ t.net = s.net ∧ t.keys = s.keys ∧ t.img = s.img ∧ t.err = s.err ∧ t.free = s.free ∧ t.uptime = s.uptime

abbrev OnlyLinksSchedHostOut (t s : State) : Prop :=
  t.pending = s.pending ∧ t.nv = s.nv ∧ t.ret = s.ret ∧ t.pwr = s.pwr ∧ t.board = s.board ∧ t.pace = s.pace ∧ t.tree = s.tree ∧ t.time = s.time ∧ t.trav = s.trav ∧ t.disp = s.disp ∧ t.usb = s.usb ∧ t.net = s.net ∧ t.win = s.win ∧ t.keys = s.keys ∧ t.img = s.img ∧ t.err = s.err ∧ t.free = s.free ∧ t.uptime = s.uptime

abbrev OnlySchedOut (t s : State) : Prop :=
  t.pending = s.pending ∧ t.nv = s.nv ∧ t.ret = s.ret ∧ t.pwr = s.pwr ∧ t.board = s.board ∧ t.pace = s.pace ∧ t.links = s.links ∧ t.tree = s.tree ∧ t.time = s.time ∧ t.trav = s.trav ∧ t.host = s.host ∧ t.disp = s.disp ∧ t.usb = s.usb ∧ t.net = s.net ∧ t.win = s.win ∧ t.keys = s.keys ∧ t.img = s.img ∧ t.err = s.err ∧ t.free = s.free ∧ t.uptime = s.uptime

abbrev OnlyRetModeHostOut (t s : State) : Prop :=
  t.pending = s.pending ∧ t.nv = s.nv ∧ t.pwr = s.pwr ∧ t.board = s.board ∧ t.pace = s.pace ∧ t.links = s.links ∧ t.tree = s.tree ∧ t.sched = s.sched ∧ t.time = s.time ∧ t.trav = s.trav ∧ t.disp = s.disp ∧ t.usb = s.usb ∧ t.net = s.net ∧ t.win = s.win ∧ t.keys = s.keys ∧ t.img = s.img ∧ t.err = s.err ∧ t.free = s.free ∧ t.uptime = s.uptime ∧ t.ret.straps = s.ret.straps ∧ t.ret.safeLatch = s.ret.safeLatch ∧ t.ret.resetCause = s.ret.resetCause

abbrev OnlyRetModeTimeHostOut (t s : State) : Prop :=
  t.pending = s.pending ∧ t.nv = s.nv ∧ t.pwr = s.pwr ∧ t.board = s.board ∧ t.pace = s.pace ∧ t.links = s.links ∧ t.tree = s.tree ∧ t.sched = s.sched ∧ t.trav = s.trav ∧ t.disp = s.disp ∧ t.usb = s.usb ∧ t.net = s.net ∧ t.win = s.win ∧ t.keys = s.keys ∧ t.img = s.img ∧ t.err = s.err ∧ t.free = s.free ∧ t.uptime = s.uptime ∧ t.ret.straps = s.ret.straps ∧ t.ret.safeLatch = s.ret.safeLatch ∧ t.ret.resetCause = s.ret.resetCause

abbrev OnlyRetModePwrLinksHostOut (t s : State) : Prop :=
  t.pending = s.pending ∧ t.nv = s.nv ∧ t.board = s.board ∧ t.pace = s.pace ∧ t.tree = s.tree ∧ t.sched = s.sched ∧ t.time = s.time ∧ t.trav = s.trav ∧ t.disp = s.disp ∧ t.usb = s.usb ∧ t.net = s.net ∧ t.win = s.win ∧ t.keys = s.keys ∧ t.img = s.img ∧ t.err = s.err ∧ t.free = s.free ∧ t.uptime = s.uptime ∧ t.ret.straps = s.ret.straps ∧ t.ret.safeLatch = s.ret.safeLatch ∧ t.ret.resetCause = s.ret.resetCause

abbrev OnlyLinksSchedTime (t s : State) : Prop :=
  t.pending = s.pending ∧ t.nv = s.nv ∧ t.ret = s.ret ∧ t.pwr = s.pwr ∧ t.board = s.board ∧ t.pace = s.pace ∧ t.tree = s.tree ∧ t.trav = s.trav ∧ t.host = s.host ∧ t.disp = s.disp ∧ t.usb = s.usb ∧ t.net = s.net ∧ t.win = s.win ∧ t.keys = s.keys ∧ t.img = s.img ∧ t.err = s.err ∧ t.out = s.out ∧ t.free = s.free ∧ t.uptime = s.uptime

abbrev OnlyRetModePwrLinksSchedTimeTravHostDispUsbNetWinOut (t s : State) : Prop :=
  t.pending = s.pending ∧ t.nv = s.nv ∧ t.board = s.board ∧ t.pace = s.pace ∧ t.tree = s.tree ∧ t.keys = s.keys ∧ t.img = s.img ∧ t.err = s.err ∧ t.free = s.free ∧ t.uptime = s.uptime ∧ t.ret.straps = s.ret.straps ∧ t.ret.safeLatch = s.ret.safeLatch ∧ t.ret.resetCause = s.ret.resetCause

abbrev OnlyTimeHostOut (t s : State) : Prop :=
  t.pending = s.pending ∧ t.nv = s.nv ∧ t.ret = s.ret ∧ t.pwr = s.pwr ∧ t.board = s.board ∧ t.pace = s.pace ∧ t.links = s.links ∧ t.tree = s.tree ∧ t.sched = s.sched ∧ t.trav = s.trav ∧ t.disp = s.disp ∧ t.usb = s.usb ∧ t.net = s.net ∧ t.win = s.win ∧ t.keys = s.keys ∧ t.img = s.img ∧ t.err = s.err ∧ t.free = s.free ∧ t.uptime = s.uptime

abbrev OnlyLinksTreeHostOut (t s : State) : Prop :=
  t.pending = s.pending ∧ t.nv = s.nv ∧ t.ret = s.ret ∧ t.pwr = s.pwr ∧ t.board = s.board ∧ t.pace = s.pace ∧ t.sched = s.sched ∧ t.time = s.time ∧ t.trav = s.trav ∧ t.disp = s.disp ∧ t.usb = s.usb ∧ t.net = s.net ∧ t.win = s.win ∧ t.keys = s.keys ∧ t.img = s.img ∧ t.err = s.err ∧ t.free = s.free ∧ t.uptime = s.uptime

abbrev OnlyLinksTimeOut (t s : State) : Prop :=
  t.pending = s.pending ∧ t.nv = s.nv ∧ t.ret = s.ret ∧ t.pwr = s.pwr ∧ t.board = s.board ∧ t.pace = s.pace ∧ t.tree = s.tree ∧ t.sched = s.sched ∧ t.trav = s.trav ∧ t.host = s.host ∧ t.disp = s.disp ∧ t.usb = s.usb ∧ t.net = s.net ∧ t.win = s.win ∧ t.keys = s.keys ∧ t.img = s.img ∧ t.err = s.err ∧ t.free = s.free ∧ t.uptime = s.uptime

abbrev OnlyRetModeLinksTimeHostOut (t s : State) : Prop :=
  t.pending = s.pending ∧ t.nv = s.nv ∧ t.pwr = s.pwr ∧ t.board = s.board ∧ t.pace = s.pace ∧ t.tree = s.tree ∧ t.sched = s.sched ∧ t.trav = s.trav ∧ t.disp = s.disp ∧ t.usb = s.usb ∧ t.net = s.net ∧ t.win = s.win ∧ t.keys = s.keys ∧ t.img = s.img ∧ t.err = s.err ∧ t.free = s.free ∧ t.uptime = s.uptime ∧ t.ret.straps = s.ret.straps ∧ t.ret.safeLatch = s.ret.safeLatch ∧ t.ret.resetCause = s.ret.resetCause

abbrev OnlyTimeTravHostOut (t s : State) : Prop :=
  t.pending = s.pending ∧ t.nv = s.nv ∧ t.ret = s.ret ∧ t.pwr = s.pwr ∧ t.board = s.board ∧ t.pace = s.pace ∧ t.links = s.links ∧ t.tree = s.tree ∧ t.sched = s.sched ∧ t.disp = s.disp ∧ t.usb = s.usb ∧ t.net = s.net ∧ t.win = s.win ∧ t.keys = s.keys ∧ t.img = s.img ∧ t.err = s.err ∧ t.free = s.free ∧ t.uptime = s.uptime

abbrev OnlyTimeOut (t s : State) : Prop :=
  t.pending = s.pending ∧ t.nv = s.nv ∧ t.ret = s.ret ∧ t.pwr = s.pwr ∧ t.board = s.board ∧ t.pace = s.pace ∧ t.links = s.links ∧ t.tree = s.tree ∧ t.sched = s.sched ∧ t.trav = s.trav ∧ t.host = s.host ∧ t.disp = s.disp ∧ t.usb = s.usb ∧ t.net = s.net ∧ t.win = s.win ∧ t.keys = s.keys ∧ t.img = s.img ∧ t.err = s.err ∧ t.free = s.free ∧ t.uptime = s.uptime

abbrev OnlyRetModePwrLinksTimeHostOut (t s : State) : Prop :=
  t.pending = s.pending ∧ t.nv = s.nv ∧ t.board = s.board ∧ t.pace = s.pace ∧ t.tree = s.tree ∧ t.sched = s.sched ∧ t.trav = s.trav ∧ t.disp = s.disp ∧ t.usb = s.usb ∧ t.net = s.net ∧ t.win = s.win ∧ t.keys = s.keys ∧ t.img = s.img ∧ t.err = s.err ∧ t.free = s.free ∧ t.uptime = s.uptime ∧ t.ret.straps = s.ret.straps ∧ t.ret.safeLatch = s.ret.safeLatch ∧ t.ret.resetCause = s.ret.resetCause

abbrev OnlyPace (t s : State) : Prop :=
  t.pending = s.pending ∧ t.nv = s.nv ∧ t.ret = s.ret ∧ t.pwr = s.pwr ∧ t.board = s.board ∧ t.links = s.links ∧ t.tree = s.tree ∧ t.sched = s.sched ∧ t.time = s.time ∧ t.trav = s.trav ∧ t.host = s.host ∧ t.disp = s.disp ∧ t.usb = s.usb ∧ t.net = s.net ∧ t.win = s.win ∧ t.keys = s.keys ∧ t.img = s.img ∧ t.err = s.err ∧ t.out = s.out ∧ t.free = s.free ∧ t.uptime = s.uptime

abbrev OnlyPaceLinksSchedHostOut (t s : State) : Prop :=
  t.pending = s.pending ∧ t.nv = s.nv ∧ t.ret = s.ret ∧ t.pwr = s.pwr ∧ t.board = s.board ∧ t.tree = s.tree ∧ t.time = s.time ∧ t.trav = s.trav ∧ t.disp = s.disp ∧ t.usb = s.usb ∧ t.net = s.net ∧ t.win = s.win ∧ t.keys = s.keys ∧ t.img = s.img ∧ t.err = s.err ∧ t.free = s.free ∧ t.uptime = s.uptime

abbrev OnlyLinksSchedTravHostDispNetOut (t s : State) : Prop :=
  t.pending = s.pending ∧ t.nv = s.nv ∧ t.ret = s.ret ∧ t.pwr = s.pwr ∧ t.board = s.board ∧ t.pace = s.pace ∧ t.tree = s.tree ∧ t.time = s.time ∧ t.usb = s.usb ∧ t.win = s.win ∧ t.keys = s.keys ∧ t.img = s.img ∧ t.err = s.err ∧ t.free = s.free ∧ t.uptime = s.uptime

abbrev OnlyLinksTreeSchedTravHostErrOut (t s : State) : Prop :=
  t.pending = s.pending ∧ t.nv = s.nv ∧ t.ret = s.ret ∧ t.pwr = s.pwr ∧ t.board = s.board ∧ t.pace = s.pace ∧ t.time = s.time ∧ t.disp = s.disp ∧ t.usb = s.usb ∧ t.net = s.net ∧ t.win = s.win ∧ t.keys = s.keys ∧ t.img = s.img ∧ t.free = s.free ∧ t.uptime = s.uptime

abbrev OnlyKeys (t s : State) : Prop :=
  t.pending = s.pending ∧ t.nv = s.nv ∧ t.ret = s.ret ∧ t.pwr = s.pwr ∧ t.board = s.board ∧ t.pace = s.pace ∧ t.links = s.links ∧ t.tree = s.tree ∧ t.sched = s.sched ∧ t.time = s.time ∧ t.trav = s.trav ∧ t.host = s.host ∧ t.disp = s.disp ∧ t.usb = s.usb ∧ t.net = s.net ∧ t.win = s.win ∧ t.img = s.img ∧ t.err = s.err ∧ t.out = s.out ∧ t.free = s.free ∧ t.uptime = s.uptime

abbrev OnlyKeysFree (t s : State) : Prop :=
  t.pending = s.pending ∧ t.nv = s.nv ∧ t.ret = s.ret ∧ t.pwr = s.pwr ∧ t.board = s.board ∧ t.pace = s.pace ∧ t.links = s.links ∧ t.tree = s.tree ∧ t.sched = s.sched ∧ t.time = s.time ∧ t.trav = s.trav ∧ t.host = s.host ∧ t.disp = s.disp ∧ t.usb = s.usb ∧ t.net = s.net ∧ t.win = s.win ∧ t.img = s.img ∧ t.err = s.err ∧ t.out = s.out ∧ t.uptime = s.uptime

abbrev OnlyNv (t s : State) : Prop :=
  t.pending = s.pending ∧ t.ret = s.ret ∧ t.pwr = s.pwr ∧ t.board = s.board ∧ t.pace = s.pace ∧ t.links = s.links ∧ t.tree = s.tree ∧ t.sched = s.sched ∧ t.time = s.time ∧ t.trav = s.trav ∧ t.host = s.host ∧ t.disp = s.disp ∧ t.usb = s.usb ∧ t.net = s.net ∧ t.win = s.win ∧ t.keys = s.keys ∧ t.img = s.img ∧ t.err = s.err ∧ t.out = s.out ∧ t.free = s.free ∧ t.uptime = s.uptime ∧ t.nv.counter = s.nv.counter ∧ t.nv.unitId = s.nv.unitId

abbrev OnlyHostKeysOutFree (t s : State) : Prop :=
  t.pending = s.pending ∧ t.nv = s.nv ∧ t.ret = s.ret ∧ t.pwr = s.pwr ∧ t.board = s.board ∧ t.pace = s.pace ∧ t.links = s.links ∧ t.tree = s.tree ∧ t.sched = s.sched ∧ t.time = s.time ∧ t.trav = s.trav ∧ t.disp = s.disp ∧ t.usb = s.usb ∧ t.net = s.net ∧ t.win = s.win ∧ t.img = s.img ∧ t.err = s.err ∧ t.uptime = s.uptime

abbrev OnlyPwrTree (t s : State) : Prop :=
  t.pending = s.pending ∧ t.nv = s.nv ∧ t.ret = s.ret ∧ t.board = s.board ∧ t.pace = s.pace ∧ t.links = s.links ∧ t.sched = s.sched ∧ t.time = s.time ∧ t.trav = s.trav ∧ t.host = s.host ∧ t.disp = s.disp ∧ t.usb = s.usb ∧ t.net = s.net ∧ t.win = s.win ∧ t.keys = s.keys ∧ t.img = s.img ∧ t.err = s.err ∧ t.out = s.out ∧ t.free = s.free ∧ t.uptime = s.uptime

abbrev OnlyRetModePwrBoardPaceLinksTreeSchedTimeTravHostDispUsbNetKeysImgOutFree (t s : State) : Prop :=
  t.pending = s.pending ∧ t.nv = s.nv ∧ t.win = s.win ∧ t.err = s.err ∧ t.uptime = s.uptime ∧ t.ret.straps = s.ret.straps ∧ t.ret.safeLatch = s.ret.safeLatch ∧ t.ret.resetCause = s.ret.resetCause

abbrev OnlyRetModeLatchPwrLinksTreeSchedTravHostDispUsbWinOut (t s : State) : Prop :=
  t.pending = s.pending ∧ t.nv = s.nv ∧ t.board = s.board ∧ t.pace = s.pace ∧ t.time = s.time ∧ t.net = s.net ∧ t.keys = s.keys ∧ t.img = s.img ∧ t.err = s.err ∧ t.free = s.free ∧ t.uptime = s.uptime ∧ t.ret.straps = s.ret.straps ∧ t.ret.resetCause = s.ret.resetCause

abbrev OnlyLinksFree (t s : State) : Prop :=
  t.pending = s.pending ∧ t.nv = s.nv ∧ t.ret = s.ret ∧ t.pwr = s.pwr ∧ t.board = s.board ∧ t.pace = s.pace ∧ t.tree = s.tree ∧ t.sched = s.sched ∧ t.time = s.time ∧ t.trav = s.trav ∧ t.host = s.host ∧ t.disp = s.disp ∧ t.usb = s.usb ∧ t.net = s.net ∧ t.win = s.win ∧ t.keys = s.keys ∧ t.img = s.img ∧ t.err = s.err ∧ t.out = s.out ∧ t.uptime = s.uptime

abbrev OnlyRetPwrBoardPaceLinksTreeSchedTimeTravHostDispUsbNetWinKeysImgErr (t s : State) : Prop :=
  t.pending = s.pending ∧ t.nv = s.nv ∧ t.out = s.out ∧ t.free = s.free ∧ t.uptime = s.uptime ∧ t.ret.mode = s.ret.mode ∧ t.ret.straps = s.ret.straps ∧ t.ret.safeLatch = s.ret.safeLatch ∧ t.ret.resetCause = s.ret.resetCause

abbrev OnlyRetPwrBoardPaceLinksTreeSchedTimeTravHostDispUsbNetWinKeysImgErrFree (t s : State) : Prop :=
  t.pending = s.pending ∧ t.nv = s.nv ∧ t.out = s.out ∧ t.uptime = s.uptime ∧ t.ret.mode = s.ret.mode ∧ t.ret.straps = s.ret.straps ∧ t.ret.safeLatch = s.ret.safeLatch ∧ t.ret.resetCause = s.ret.resetCause

abbrev OnlyNvHostImgOut (t s : State) : Prop :=
  t.pending = s.pending ∧ t.ret = s.ret ∧ t.pwr = s.pwr ∧ t.board = s.board ∧ t.pace = s.pace ∧ t.links = s.links ∧ t.tree = s.tree ∧ t.sched = s.sched ∧ t.time = s.time ∧ t.trav = s.trav ∧ t.disp = s.disp ∧ t.usb = s.usb ∧ t.net = s.net ∧ t.win = s.win ∧ t.keys = s.keys ∧ t.err = s.err ∧ t.free = s.free ∧ t.uptime = s.uptime ∧ t.nv.counter = s.nv.counter ∧ t.nv.unitId = s.nv.unitId

abbrev OnlyNvRetModeLatchPwrBoardPaceLinksTreeSchedTimeTravHostDispUsbNetWinKeysImgOutFree (t s : State) : Prop :=
  t.pending = s.pending ∧ t.err = s.err ∧ t.uptime = s.uptime ∧ t.ret.straps = s.ret.straps ∧ t.ret.resetCause = s.ret.resetCause ∧ t.nv.counter = s.nv.counter ∧ t.nv.unitId = s.nv.unitId

abbrev OnlyNvCounterHostImgOut (t s : State) : Prop :=
  t.pending = s.pending ∧ t.ret = s.ret ∧ t.pwr = s.pwr ∧ t.board = s.board ∧ t.pace = s.pace ∧ t.links = s.links ∧ t.tree = s.tree ∧ t.sched = s.sched ∧ t.time = s.time ∧ t.trav = s.trav ∧ t.disp = s.disp ∧ t.usb = s.usb ∧ t.net = s.net ∧ t.win = s.win ∧ t.keys = s.keys ∧ t.err = s.err ∧ t.free = s.free ∧ t.uptime = s.uptime ∧ t.nv.unitId = s.nv.unitId

abbrev OnlyNvCounterTravHostImgOut (t s : State) : Prop :=
  t.pending = s.pending ∧ t.ret = s.ret ∧ t.pwr = s.pwr ∧ t.board = s.board ∧ t.pace = s.pace ∧ t.links = s.links ∧ t.tree = s.tree ∧ t.sched = s.sched ∧ t.time = s.time ∧ t.disp = s.disp ∧ t.usb = s.usb ∧ t.net = s.net ∧ t.win = s.win ∧ t.keys = s.keys ∧ t.err = s.err ∧ t.free = s.free ∧ t.uptime = s.uptime ∧ t.nv.unitId = s.nv.unitId

abbrev OnlyTravHostImgOut (t s : State) : Prop :=
  t.pending = s.pending ∧ t.nv = s.nv ∧ t.ret = s.ret ∧ t.pwr = s.pwr ∧ t.board = s.board ∧ t.pace = s.pace ∧ t.links = s.links ∧ t.tree = s.tree ∧ t.sched = s.sched ∧ t.time = s.time ∧ t.disp = s.disp ∧ t.usb = s.usb ∧ t.net = s.net ∧ t.win = s.win ∧ t.keys = s.keys ∧ t.err = s.err ∧ t.free = s.free ∧ t.uptime = s.uptime

abbrev OnlyTreeHostOutFree (t s : State) : Prop :=
  t.pending = s.pending ∧ t.nv = s.nv ∧ t.ret = s.ret ∧ t.pwr = s.pwr ∧ t.board = s.board ∧ t.pace = s.pace ∧ t.links = s.links ∧ t.sched = s.sched ∧ t.time = s.time ∧ t.trav = s.trav ∧ t.disp = s.disp ∧ t.usb = s.usb ∧ t.net = s.net ∧ t.win = s.win ∧ t.keys = s.keys ∧ t.img = s.img ∧ t.err = s.err ∧ t.uptime = s.uptime

abbrev OnlyTreeTimeTravHost (t s : State) : Prop :=
  t.pending = s.pending ∧ t.nv = s.nv ∧ t.ret = s.ret ∧ t.pwr = s.pwr ∧ t.board = s.board ∧ t.pace = s.pace ∧ t.links = s.links ∧ t.sched = s.sched ∧ t.disp = s.disp ∧ t.usb = s.usb ∧ t.net = s.net ∧ t.win = s.win ∧ t.keys = s.keys ∧ t.img = s.img ∧ t.err = s.err ∧ t.out = s.out ∧ t.free = s.free ∧ t.uptime = s.uptime

abbrev OnlyRetModePwrLinksTreeSchedTimeTravHostDispUsbNetWinKeysOutFree (t s : State) : Prop :=
  t.pending = s.pending ∧ t.nv = s.nv ∧ t.board = s.board ∧ t.pace = s.pace ∧ t.img = s.img ∧ t.err = s.err ∧ t.uptime = s.uptime ∧ t.ret.straps = s.ret.straps ∧ t.ret.safeLatch = s.ret.safeLatch ∧ t.ret.resetCause = s.ret.resetCause

abbrev OnlyRetModeLatchPwrLinksTreeSchedTravHostDispUsbWinErrOut (t s : State) : Prop :=
  t.pending = s.pending ∧ t.nv = s.nv ∧ t.board = s.board ∧ t.pace = s.pace ∧ t.time = s.time ∧ t.net = s.net ∧ t.keys = s.keys ∧ t.img = s.img ∧ t.free = s.free ∧ t.uptime = s.uptime ∧ t.ret.straps = s.ret.straps ∧ t.ret.resetCause = s.ret.resetCause

abbrev OnlyRetModeLatchPwrLinksTreeSchedTimeTravHostDispUsbNetWinKeysErrOutFree (t s : State) : Prop :=
  t.pending = s.pending ∧ t.nv = s.nv ∧ t.board = s.board ∧ t.pace = s.pace ∧ t.img = s.img ∧ t.uptime = s.uptime ∧ t.ret.straps = s.ret.straps ∧ t.ret.resetCause = s.ret.resetCause

abbrev OnlyPwrLinksSchedHostDispErrOutFree (t s : State) : Prop :=
  t.pending = s.pending ∧ t.nv = s.nv ∧ t.ret = s.ret ∧ t.board = s.board ∧ t.pace = s.pace ∧ t.tree = s.tree ∧ t.time = s.time ∧ t.trav = s.trav ∧ t.usb = s.usb ∧ t.net = s.net ∧ t.win = s.win ∧ t.keys = s.keys ∧ t.img = s.img ∧ t.uptime = s.uptime

abbrev OnlyRetModeLatchPwrLinksTreeSchedTravHostDispUsbWinErrOutFree (t s : State) : Prop :=
  t.pending = s.pending ∧ t.nv = s.nv ∧ t.board = s.board ∧ t.pace = s.pace ∧ t.time = s.time ∧ t.net = s.net ∧ t.keys = s.keys ∧ t.img = s.img ∧ t.uptime = s.uptime ∧ t.ret.straps = s.ret.straps ∧ t.ret.resetCause = s.ret.resetCause

abbrev OnlyTreeHostErrOut (t s : State) : Prop :=
  t.pending = s.pending ∧ t.nv = s.nv ∧ t.ret = s.ret ∧ t.pwr = s.pwr ∧ t.board = s.board ∧ t.pace = s.pace ∧ t.links = s.links ∧ t.sched = s.sched ∧ t.time = s.time ∧ t.trav = s.trav ∧ t.disp = s.disp ∧ t.usb = s.usb ∧ t.net = s.net ∧ t.win = s.win ∧ t.keys = s.keys ∧ t.img = s.img ∧ t.free = s.free ∧ t.uptime = s.uptime

abbrev OnlyRetModeStrapsLatchCausePwrBoardPaceLinksTreeSchedTimeTravHostDispUsbNetWinKeysImgErr (t s : State) : Prop :=
  t.pending = s.pending ∧ t.nv = s.nv ∧ t.out = s.out ∧ t.free = s.free ∧ t.uptime = s.uptime

abbrev OnlyRetModeStraps (t s : State) : Prop :=
  t.pending = s.pending ∧ t.nv = s.nv ∧ t.pwr = s.pwr ∧ t.board = s.board ∧ t.pace = s.pace ∧ t.links = s.links ∧ t.tree = s.tree ∧ t.sched = s.sched ∧ t.time = s.time ∧ t.trav = s.trav ∧ t.host = s.host ∧ t.disp = s.disp ∧ t.usb = s.usb ∧ t.net = s.net ∧ t.win = s.win ∧ t.keys = s.keys ∧ t.img = s.img ∧ t.err = s.err ∧ t.out = s.out ∧ t.free = s.free ∧ t.uptime = s.uptime ∧ t.ret.safeLatch = s.ret.safeLatch ∧ t.ret.resetCause = s.ret.resetCause

abbrev OnlyRetOut (t s : State) : Prop :=
  t.pending = s.pending ∧ t.nv = s.nv ∧ t.pwr = s.pwr ∧ t.board = s.board ∧ t.pace = s.pace ∧ t.links = s.links ∧ t.tree = s.tree ∧ t.sched = s.sched ∧ t.time = s.time ∧ t.trav = s.trav ∧ t.host = s.host ∧ t.disp = s.disp ∧ t.usb = s.usb ∧ t.net = s.net ∧ t.win = s.win ∧ t.keys = s.keys ∧ t.img = s.img ∧ t.err = s.err ∧ t.free = s.free ∧ t.uptime = s.uptime ∧ t.ret.mode = s.ret.mode ∧ t.ret.straps = s.ret.straps ∧ t.ret.safeLatch = s.ret.safeLatch ∧ t.ret.resetCause = s.ret.resetCause

abbrev OnlyRetModePwrBoardPaceLinksTreeSchedTimeTravHostDispUsbNetWinKeysImgErrOut (t s : State) : Prop :=
  t.pending = s.pending ∧ t.nv = s.nv ∧ t.free = s.free ∧ t.uptime = s.uptime ∧ t.ret.straps = s.ret.straps ∧ t.ret.safeLatch = s.ret.safeLatch ∧ t.ret.resetCause = s.ret.resetCause

abbrev OnlyRetMode (t s : State) : Prop :=
  t.pending = s.pending ∧ t.nv = s.nv ∧ t.pwr = s.pwr ∧ t.board = s.board ∧ t.pace = s.pace ∧ t.links = s.links ∧ t.tree = s.tree ∧ t.sched = s.sched ∧ t.time = s.time ∧ t.trav = s.trav ∧ t.host = s.host ∧ t.disp = s.disp ∧ t.usb = s.usb ∧ t.net = s.net ∧ t.win = s.win ∧ t.keys = s.keys ∧ t.img = s.img ∧ t.err = s.err ∧ t.out = s.out ∧ t.free = s.free ∧ t.uptime = s.uptime ∧ t.ret.straps = s.ret.straps ∧ t.ret.safeLatch = s.ret.safeLatch ∧ t.ret.resetCause = s.ret.resetCause

abbrev OnlyRetHostWinOut (t s : State) : Prop :=
  t.pending = s.pending ∧ t.nv = s.nv ∧ t.pwr = s.pwr ∧ t.board = s.board ∧ t.pace = s.pace ∧ t.links = s.links ∧ t.tree = s.tree ∧ t.sched = s.sched ∧ t.time = s.time ∧ t.trav = s.trav ∧ t.disp = s.disp ∧ t.usb = s.usb ∧ t.net = s.net ∧ t.keys = s.keys ∧ t.img = s.img ∧ t.err = s.err ∧ t.free = s.free ∧ t.uptime = s.uptime ∧ t.ret.mode = s.ret.mode ∧ t.ret.straps = s.ret.straps ∧ t.ret.safeLatch = s.ret.safeLatch ∧ t.ret.resetCause = s.ret.resetCause

abbrev OnlyRetModeLatchPwrBoardPaceLinksTreeSchedTimeTravHostDispUsbNetWinKeysImgErrOut (t s : State) : Prop :=
  t.pending = s.pending ∧ t.nv = s.nv ∧ t.free = s.free ∧ t.uptime = s.uptime ∧ t.ret.straps = s.ret.straps ∧ t.ret.resetCause = s.ret.resetCause

abbrev OnlySchedHost (t s : State) : Prop :=
  t.pending = s.pending ∧ t.nv = s.nv ∧ t.ret = s.ret ∧ t.pwr = s.pwr ∧ t.board = s.board ∧ t.pace = s.pace ∧ t.links = s.links ∧ t.tree = s.tree ∧ t.time = s.time ∧ t.trav = s.trav ∧ t.disp = s.disp ∧ t.usb = s.usb ∧ t.net = s.net ∧ t.win = s.win ∧ t.keys = s.keys ∧ t.img = s.img ∧ t.err = s.err ∧ t.out = s.out ∧ t.free = s.free ∧ t.uptime = s.uptime

abbrev OnlyLinksTreeSchedOutFree (t s : State) : Prop :=
  t.pending = s.pending ∧ t.nv = s.nv ∧ t.ret = s.ret ∧ t.pwr = s.pwr ∧ t.board = s.board ∧ t.pace = s.pace ∧ t.time = s.time ∧ t.trav = s.trav ∧ t.host = s.host ∧ t.disp = s.disp ∧ t.usb = s.usb ∧ t.net = s.net ∧ t.win = s.win ∧ t.keys = s.keys ∧ t.img = s.img ∧ t.err = s.err ∧ t.uptime = s.uptime

abbrev OnlyOutFree (t s : State) : Prop :=
  t.pending = s.pending ∧ t.nv = s.nv ∧ t.ret = s.ret ∧ t.pwr = s.pwr ∧ t.board = s.board ∧ t.pace = s.pace ∧ t.links = s.links ∧ t.tree = s.tree ∧ t.sched = s.sched ∧ t.time = s.time ∧ t.trav = s.trav ∧ t.host = s.host ∧ t.disp = s.disp ∧ t.usb = s.usb ∧ t.net = s.net ∧ t.win = s.win ∧ t.keys = s.keys ∧ t.img = s.img ∧ t.err = s.err ∧ t.uptime = s.uptime

abbrev OnlyPwrLinksTreeHostOutFree (t s : State) : Prop :=
  t.pending = s.pending ∧ t.nv = s.nv ∧ t.ret = s.ret ∧ t.board = s.board ∧ t.pace = s.pace ∧ t.sched = s.sched ∧ t.time = s.time ∧ t.trav = s.trav ∧ t.disp = s.disp ∧ t.usb = s.usb ∧ t.net = s.net ∧ t.win = s.win ∧ t.keys = s.keys ∧ t.img = s.img ∧ t.err = s.err ∧ t.uptime = s.uptime

abbrev OnlyPwrLinksTreeSchedTimeHostOutFree (t s : State) : Prop :=
  t.pending = s.pending ∧ t.nv = s.nv ∧ t.ret = s.ret ∧ t.board = s.board ∧ t.pace = s.pace ∧ t.trav = s.trav ∧ t.disp = s.disp ∧ t.usb = s.usb ∧ t.net = s.net ∧ t.win = s.win ∧ t.keys = s.keys ∧ t.img = s.img ∧ t.err = s.err ∧ t.uptime = s.uptime

abbrev OnlyRetModePwrLinksTreeSchedTravHostDispUsbNetImgOut (t s : State) : Prop :=
  t.pending = s.pending ∧ t.nv = s.nv ∧ t.board = s.board ∧ t.pace = s.pace ∧ t.time = s.time ∧ t.win = s.win ∧ t.keys = s.keys ∧ t.err = s.err ∧ t.free = s.free ∧ t.uptime = s.uptime ∧ t.ret.straps = s.ret.straps ∧ t.ret.safeLatch = s.ret.safeLatch ∧ t.ret.resetCause = s.ret.resetCause

abbrev OnlyTravOutFree (t s : State) : Prop :=
  t.pending = s.pending ∧ t.nv = s.nv ∧ t.ret = s.ret ∧ t.pwr = s.pwr ∧ t.board = s.board ∧ t.pace = s.pace ∧ t.links = s.links ∧ t.tree = s.tree ∧ t.sched = s.sched ∧ t.time = s.time ∧ t.host = s.host ∧ t.disp = s.disp ∧ t.usb = s.usb ∧ t.net = s.net ∧ t.win = s.win ∧ t.keys = s.keys ∧ t.img = s.img ∧ t.err = s.err ∧ t.uptime = s.uptime

abbrev OnlyDispOut (t s : State) : Prop :=
  t.pending = s.pending ∧ t.nv = s.nv ∧ t.ret = s.ret ∧ t.pwr = s.pwr ∧ t.board = s.board ∧ t.pace = s.pace ∧ t.links = s.links ∧ t.tree = s.tree ∧ t.sched = s.sched ∧ t.time = s.time ∧ t.trav = s.trav ∧ t.host = s.host ∧ t.usb = s.usb ∧ t.net = s.net ∧ t.win = s.win ∧ t.keys = s.keys ∧ t.img = s.img ∧ t.err = s.err ∧ t.free = s.free ∧ t.uptime = s.uptime

abbrev OnlyLinksTreeSchedTimeTravHostUsbOutUptime (t s : State) : Prop :=
  t.pending = s.pending ∧ t.nv = s.nv ∧ t.ret = s.ret ∧ t.pwr = s.pwr ∧ t.board = s.board ∧ t.pace = s.pace ∧ t.disp = s.disp ∧ t.net = s.net ∧ t.win = s.win ∧ t.keys = s.keys ∧ t.img = s.img ∧ t.err = s.err ∧ t.free = s.free

abbrev OnlyNvHostKeysImgErrOutFree (t s : State) : Prop :=
  t.pending = s.pending ∧ t.ret = s.ret ∧ t.pwr = s.pwr ∧ t.board = s.board ∧ t.pace = s.pace ∧ t.links = s.links ∧ t.tree = s.tree ∧ t.sched = s.sched ∧ t.time = s.time ∧ t.trav = s.trav ∧ t.disp = s.disp ∧ t.usb = s.usb ∧ t.net = s.net ∧ t.win = s.win ∧ t.uptime = s.uptime ∧ t.nv.unitId = s.nv.unitId ∧ t.nv.counter = s.nv.counter

abbrev OnlyNvImg (t s : State) : Prop :=
  t.pending = s.pending ∧ t.ret = s.ret ∧ t.pwr = s.pwr ∧ t.board = s.board ∧ t.pace = s.pace ∧ t.links = s.links ∧ t.tree = s.tree ∧ t.sched = s.sched ∧ t.time = s.time ∧ t.trav = s.trav ∧ t.host = s.host ∧ t.disp = s.disp ∧ t.usb = s.usb ∧ t.net = s.net ∧ t.win = s.win ∧ t.keys = s.keys ∧ t.err = s.err ∧ t.out = s.out ∧ t.free = s.free ∧ t.uptime = s.uptime ∧ t.nv.unitId = s.nv.unitId ∧ t.nv.counter = s.nv.counter

abbrev OnlyNvLinksTreeSchedTimeTravHostDispUsbNetWinKeysImgErrOutFree (t s : State) : Prop :=
  t.pending = s.pending ∧ t.ret = s.ret ∧ t.pwr = s.pwr ∧ t.board = s.board ∧ t.pace = s.pace ∧ t.uptime = s.uptime ∧ t.nv.unitId = s.nv.unitId ∧ t.nv.counter = s.nv.counter

abbrev OnlyNvPwrLinksTreeSchedTravHostDispUsbNetWinKeysImgErrOutFree (t s : State) : Prop :=
  t.pending = s.pending ∧ t.ret = s.ret ∧ t.board = s.board ∧ t.pace = s.pace ∧ t.time = s.time ∧ t.uptime = s.uptime ∧ t.nv.unitId = s.nv.unitId ∧ t.nv.counter = s.nv.counter

abbrev OnlyNvRetModeLatchPwrBoardPaceLinksTreeSchedTimeTravHostDispUsbNetWinKeysImgErrOutFree (t s : State) : Prop :=
  t.pending = s.pending ∧ t.uptime = s.uptime ∧ t.ret.straps = s.ret.straps ∧ t.ret.resetCause = s.ret.resetCause ∧ t.nv.unitId = s.nv.unitId ∧ t.nv.counter = s.nv.counter

abbrev OnlyNvRetModeLatchPwrLinksTreeSchedTimeTravHostDispUsbNetWinKeysImgErrOutFree (t s : State) : Prop :=
  t.pending = s.pending ∧ t.board = s.board ∧ t.pace = s.pace ∧ t.uptime = s.uptime ∧ t.ret.straps = s.ret.straps ∧ t.ret.resetCause = s.ret.resetCause ∧ t.nv.unitId = s.nv.unitId ∧ t.nv.counter = s.nv.counter

abbrev OnlyNvTimeTravHostDispNetKeysImgErrOutFree (t s : State) : Prop :=
  t.pending = s.pending ∧ t.ret = s.ret ∧ t.pwr = s.pwr ∧ t.board = s.board ∧ t.pace = s.pace ∧ t.links = s.links ∧ t.tree = s.tree ∧ t.sched = s.sched ∧ t.usb = s.usb ∧ t.win = s.win ∧ t.uptime = s.uptime ∧ t.nv.unitId = s.nv.unitId ∧ t.nv.counter = s.nv.counter

abbrev OnlyRetLinksTreeSchedUsbOut (t s : State) : Prop :=
  t.pending = s.pending ∧ t.nv = s.nv ∧ t.pwr = s.pwr ∧ t.board = s.board ∧ t.pace = s.pace ∧ t.time = s.time ∧ t.trav = s.trav ∧ t.host = s.host ∧ t.disp = s.disp ∧ t.net = s.net ∧ t.win = s.win ∧ t.keys = s.keys ∧ t.img = s.img ∧ t.err = s.err ∧ t.free = s.free ∧ t.uptime = s.uptime ∧ t.ret.mode = s.ret.mode ∧ t.ret.straps = s.ret.straps ∧ t.ret.safeLatch = s.ret.safeLatch ∧ t.ret.resetCause = s.ret.resetCause

abbrev OnlyLinksTimeTravHostDispUsbNetWin (t s : State) : Prop :=
  t.pending = s.pending ∧ t.nv = s.nv ∧ t.ret = s.ret ∧ t.pwr = s.pwr ∧ t.board = s.board ∧ t.pace = s.pace ∧ t.tree = s.tree ∧ t.sched = s.sched ∧ t.keys = s.keys ∧ t.img = s.img ∧ t.err = s.err ∧ t.out = s.out ∧ t.free = s.free ∧ t.uptime = s.uptime

abbrev OnlyRetModePwrLinksTreeSchedTimeTravHostOutFree (t s : State) : Prop :=
  t.pending = s.pending ∧ t.nv = s.nv ∧ t.board = s.board ∧ t.pace = s.pace ∧ t.disp = s.disp ∧ t.usb = s.usb ∧ t.net = s.net ∧ t.win = s.win ∧ t.keys = s.keys ∧ t.img = s.img ∧ t.err = s.err ∧ t.uptime = s.uptime ∧ t.ret.straps = s.ret.straps ∧ t.ret.safeLatch = s.ret.safeLatch ∧ t.ret.resetCause = s.ret.resetCause

abbrev OnlyHostOutFree (t s : State) : Prop :=
  t.pending = s.pending ∧ t.nv = s.nv ∧ t.ret = s.ret ∧ t.pwr = s.pwr ∧ t.board = s.board ∧ t.pace = s.pace ∧ t.links = s.links ∧ t.tree = s.tree ∧ t.sched = s.sched ∧ t.time = s.time ∧ t.trav = s.trav ∧ t.disp = s.disp ∧ t.usb = s.usb ∧ t.net = s.net ∧ t.win = s.win ∧ t.keys = s.keys ∧ t.img = s.img ∧ t.err = s.err ∧ t.uptime = s.uptime

abbrev OnlyLinksTreeHostNetOut (t s : State) : Prop :=
  t.pending = s.pending ∧ t.nv = s.nv ∧ t.ret = s.ret ∧ t.pwr = s.pwr ∧ t.board = s.board ∧ t.pace = s.pace ∧ t.sched = s.sched ∧ t.time = s.time ∧ t.trav = s.trav ∧ t.disp = s.disp ∧ t.usb = s.usb ∧ t.win = s.win ∧ t.keys = s.keys ∧ t.img = s.img ∧ t.err = s.err ∧ t.free = s.free ∧ t.uptime = s.uptime

abbrev OnlyLinksTreeHostWinOut (t s : State) : Prop :=
  t.pending = s.pending ∧ t.nv = s.nv ∧ t.ret = s.ret ∧ t.pwr = s.pwr ∧ t.board = s.board ∧ t.pace = s.pace ∧ t.sched = s.sched ∧ t.time = s.time ∧ t.trav = s.trav ∧ t.disp = s.disp ∧ t.usb = s.usb ∧ t.net = s.net ∧ t.keys = s.keys ∧ t.img = s.img ∧ t.err = s.err ∧ t.free = s.free ∧ t.uptime = s.uptime

abbrev OnlyLinksTreeOut (t s : State) : Prop :=
  t.pending = s.pending ∧ t.nv = s.nv ∧ t.ret = s.ret ∧ t.pwr = s.pwr ∧ t.board = s.board ∧ t.pace = s.pace ∧ t.sched = s.sched ∧ t.time = s.time ∧ t.trav = s.trav ∧ t.host = s.host ∧ t.disp = s.disp ∧ t.usb = s.usb ∧ t.net = s.net ∧ t.win = s.win ∧ t.keys = s.keys ∧ t.img = s.img ∧ t.err = s.err ∧ t.free = s.free ∧ t.uptime = s.uptime

abbrev OnlyLinksTreeSchedHostNetOutFree (t s : State) : Prop :=
  t.pending = s.pending ∧ t.nv = s.nv ∧ t.ret = s.ret ∧ t.pwr = s.pwr ∧ t.board = s.board ∧ t.pace = s.pace ∧ t.time = s.time ∧ t.trav = s.trav ∧ t.disp = s.disp ∧ t.usb = s.usb ∧ t.win = s.win ∧ t.keys = s.keys ∧ t.img = s.img ∧ t.err = s.err ∧ t.uptime = s.uptime

abbrev OnlyLinksTreeSchedHostOutFree (t s : State) : Prop :=
  t.pending = s.pending ∧ t.nv = s.nv ∧ t.ret = s.ret ∧ t.pwr = s.pwr ∧ t.board = s.board ∧ t.pace = s.pace ∧ t.time = s.time ∧ t.trav = s.trav ∧ t.disp = s.disp ∧ t.usb = s.usb ∧ t.net = s.net ∧ t.win = s.win ∧ t.keys = s.keys ∧ t.img = s.img ∧ t.err = s.err ∧ t.uptime = s.uptime

abbrev OnlyLinksTreeSchedTimeTravHostNetWinOut (t s : State) : Prop :=
  t.pending = s.pending ∧ t.nv = s.nv ∧ t.ret = s.ret ∧ t.pwr = s.pwr ∧ t.board = s.board ∧ t.pace = s.pace ∧ t.disp = s.disp ∧ t.usb = s.usb ∧ t.keys = s.keys ∧ t.img = s.img ∧ t.err = s.err ∧ t.free = s.free ∧ t.uptime = s.uptime

abbrev OnlyLinksTreeSchedTimeTravHostUsbNetWinOut (t s : State) : Prop :=
  t.pending = s.pending ∧ t.nv = s.nv ∧ t.ret = s.ret ∧ t.pwr = s.pwr ∧ t.board = s.board ∧ t.pace = s.pace ∧ t.disp = s.disp ∧ t.keys = s.keys ∧ t.img = s.img ∧ t.err = s.err ∧ t.free = s.free ∧ t.uptime = s.uptime

abbrev OnlyLinksTreeSchedTimeTravHostUsbNetWinOutFree (t s : State) : Prop :=
  t.pending = s.pending ∧ t.nv = s.nv ∧ t.ret = s.ret ∧ t.pwr = s.pwr ∧ t.board = s.board ∧ t.pace = s.pace ∧ t.disp = s.disp ∧ t.keys = s.keys ∧ t.img = s.img ∧ t.err = s.err ∧ t.uptime = s.uptime

abbrev OnlyLinksTreeSchedTravHostOutFree (t s : State) : Prop :=
  t.pending = s.pending ∧ t.nv = s.nv ∧ t.ret = s.ret ∧ t.pwr = s.pwr ∧ t.board = s.board ∧ t.pace = s.pace ∧ t.time = s.time ∧ t.disp = s.disp ∧ t.usb = s.usb ∧ t.net = s.net ∧ t.win = s.win ∧ t.keys = s.keys ∧ t.img = s.img ∧ t.err = s.err ∧ t.uptime = s.uptime

abbrev OnlyLinksTreeTimeTravHostNetWinOut (t s : State) : Prop :=
  t.pending = s.pending ∧ t.nv = s.nv ∧ t.ret = s.ret ∧ t.pwr = s.pwr ∧ t.board = s.board ∧ t.pace = s.pace ∧ t.sched = s.sched ∧ t.disp = s.disp ∧ t.usb = s.usb ∧ t.keys = s.keys ∧ t.img = s.img ∧ t.err = s.err ∧ t.free = s.free ∧ t.uptime = s.uptime

abbrev OnlyNetFree (t s : State) : Prop :=
  t.pending = s.pending ∧ t.nv = s.nv ∧ t.ret = s.ret ∧ t.pwr = s.pwr ∧ t.board = s.board ∧ t.pace = s.pace ∧ t.links = s.links ∧ t.tree = s.tree ∧ t.sched = s.sched ∧ t.time = s.time ∧ t.trav = s.trav ∧ t.host = s.host ∧ t.disp = s.disp ∧ t.usb = s.usb ∧ t.win = s.win ∧ t.keys = s.keys ∧ t.img = s.img ∧ t.err = s.err ∧ t.out = s.out ∧ t.uptime = s.uptime

abbrev OnlyPwrLinksTimeHostOut (t s : State) : Prop :=
  t.pending = s.pending ∧ t.nv = s.nv ∧ t.ret = s.ret ∧ t.board = s.board ∧ t.pace = s.pace ∧ t.tree = s.tree ∧ t.sched = s.sched ∧ t.trav = s.trav ∧ t.disp = s.disp ∧ t.usb = s.usb ∧ t.net = s.net ∧ t.win = s.win ∧ t.keys = s.keys ∧ t.img = s.img ∧ t.err = s.err ∧ t.free = s.free ∧ t.uptime = s.uptime

abbrev OnlyRetModeLatchCausePwrBoardPaceLinksTreeSchedTimeTravHostDispUsbNetWinKeysImgErrOut (t s : State) : Prop :=
  t.pending = s.pending ∧ t.nv = s.nv ∧ t.free = s.free ∧ t.uptime = s.uptime ∧ t.ret.straps = s.ret.straps

abbrev OnlyRetModeLatchPwrBoardPaceLinksTreeSchedTimeTravHostDispUsbNetWinKeysImgErrOutFree (t s : State) : Prop :=
  t.pending = s.pending ∧ t.nv = s.nv ∧ t.uptime = s.uptime ∧ t.ret.straps = s.ret.straps ∧ t.ret.resetCause = s.ret.resetCause

abbrev OnlyRetModePwrBoardPaceLinksTreeSchedTimeTravHostDispUsbNetKeysOutFree (t s : State) : Prop :=
  t.pending = s.pending ∧ t.nv = s.nv ∧ t.win = s.win ∧ t.img = s.img ∧ t.err = s.err ∧ t.uptime = s.uptime ∧ t.ret.straps = s.ret.straps ∧ t.ret.safeLatch = s.ret.safeLatch ∧ t.ret.resetCause = s.ret.resetCause

abbrev OnlyRetModePwrBoardPaceLinksTreeSchedTimeTravHostDispUsbNetWinKeysImgErrOutFree (t s : State) : Prop :=
  t.pending = s.pending ∧ t.nv = s.nv ∧ t.uptime = s.uptime ∧ t.ret.straps = s.ret.straps ∧ t.ret.safeLatch = s.ret.safeLatch ∧ t.ret.resetCause = s.ret.resetCause

abbrev OnlyRetModePwrLinksTreeSchedTimeTravHostUsbNetWinOut (t s : State) : Prop :=
  t.pending = s.pending ∧ t.nv = s.nv ∧ t.board = s.board ∧ t.pace = s.pace ∧ t.disp = s.disp ∧ t.keys = s.keys ∧ t.img = s.img ∧ t.err = s.err ∧ t.free = s.free ∧ t.uptime = s.uptime ∧ t.ret.straps = s.ret.straps ∧ t.ret.safeLatch = s.ret.safeLatch ∧ t.ret.resetCause = s.ret.resetCause

abbrev OnlyRetModePwrLinksTreeSchedTimeTravHostUsbNetWinOutFree (t s : State) : Prop :=
  t.pending = s.pending ∧ t.nv = s.nv ∧ t.board = s.board ∧ t.pace = s.pace ∧ t.disp = s.disp ∧ t.keys = s.keys ∧ t.img = s.img ∧ t.err = s.err ∧ t.uptime = s.uptime ∧ t.ret.straps = s.ret.straps ∧ t.ret.safeLatch = s.ret.safeLatch ∧ t.ret.resetCause = s.ret.resetCause

abbrev OnlyTreeNet (t s : State) : Prop :=
  t.pending = s.pending ∧ t.nv = s.nv ∧ t.ret = s.ret ∧ t.pwr = s.pwr ∧ t.board = s.board ∧ t.pace = s.pace ∧ t.links = s.links ∧ t.sched = s.sched ∧ t.time = s.time ∧ t.trav = s.trav ∧ t.host = s.host ∧ t.disp = s.disp ∧ t.usb = s.usb ∧ t.win = s.win ∧ t.keys = s.keys ∧ t.img = s.img ∧ t.err = s.err ∧ t.out = s.out ∧ t.free = s.free ∧ t.uptime = s.uptime

abbrev OnlyTreeTimeTravHostNetWin (t s : State) : Prop :=
  t.pending = s.pending ∧ t.nv = s.nv ∧ t.ret = s.ret ∧ t.pwr = s.pwr ∧ t.board = s.board ∧ t.pace = s.pace ∧ t.links = s.links ∧ t.sched = s.sched ∧ t.disp = s.disp ∧ t.usb = s.usb ∧ t.keys = s.keys ∧ t.img = s.img ∧ t.err = s.err ∧ t.out = s.out ∧ t.free = s.free ∧ t.uptime = s.uptime

abbrev OnlyTreeTimeTravHostNetWinOut (t s : State) : Prop :=
  t.pending = s.pending ∧ t.nv = s.nv ∧ t.ret = s.ret ∧ t.pwr = s.pwr ∧ t.board = s.board ∧ t.pace = s.pace ∧ t.links = s.links ∧ t.sched = s.sched ∧ t.disp = s.disp ∧ t.usb = s.usb ∧ t.keys = s.keys ∧ t.img = s.img ∧ t.err = s.err ∧ t.free = s.free ∧ t.uptime = s.uptime

abbrev OnlyLinksTreeSchedHostErrOutFree (t s : State) : Prop :=
  t.pending = s.pending ∧ t.nv = s.nv ∧ t.ret = s.ret ∧ t.pwr = s.pwr ∧ t.board = s.board ∧ t.pace = s.pace ∧ t.time = s.time ∧ t.trav = s.trav ∧ t.disp = s.disp ∧ t.usb = s.usb ∧ t.net = s.net ∧ t.win = s.win ∧ t.keys = s.keys ∧ t.img = s.img ∧ t.uptime = s.uptime

abbrev OnlyLinksTreeSchedHostWinErrOutFree (t s : State) : Prop :=
  t.pending = s.pending ∧ t.nv = s.nv ∧ t.ret = s.ret ∧ t.pwr = s.pwr ∧ t.board = s.board ∧ t.pace = s.pace ∧ t.time = s.time ∧ t.trav = s.trav ∧ t.disp = s.disp ∧ t.usb = s.usb ∧ t.net = s.net ∧ t.keys = s.keys ∧ t.img = s.img ∧ t.uptime = s.uptime

abbrev OnlyLinksTreeSchedTravHostErrOutFree (t s : State) : Prop :=
  t.pending = s.pending ∧ t.nv = s.nv ∧ t.ret = s.ret ∧ t.pwr = s.pwr ∧ t.board = s.board ∧ t.pace = s.pace ∧ t.time = s.time ∧ t.disp = s.disp ∧ t.usb = s.usb ∧ t.net = s.net ∧ t.win = s.win ∧ t.keys = s.keys ∧ t.img = s.img ∧ t.uptime = s.uptime

@[simp] theorem ite_pending (c : Prop) [Decidable c] (a b : State) : (if c then a else b).pending = if c then a.pending else b.pending := apply_ite ..
@[simp] theorem ite_nv (c : Prop) [Decidable c] (a b : State) : (if c then a else b).nv = if c then a.nv else b.nv := apply_ite ..
@[simp] theorem ite_ret (c : Prop) [Decidable c] (a b : State) : (if c then a else b).ret = if c then a.ret else b.ret := apply_ite ..
@[simp] theorem ite_pwr (c : Prop) [Decidable c] (a b : State) : (if c then a else b).pwr = if c then a.pwr else b.pwr := apply_ite ..
@[simp] theorem ite_board (c : Prop) [Decidable c] (a b : State) : (if c then a else b).board = if c then a.board else b.board := apply_ite ..
@[simp] theorem ite_pace (c : Prop) [Decidable c] (a b : State) : (if c then a else b).pace = if c then a.pace else b.pace := apply_ite ..
@[simp] theorem ite_links (c : Prop) [Decidable c] (a b : State) : (if c then a else b).links = if c then a.links else b.links := apply_ite ..
@[simp] theorem ite_tree (c : Prop) [Decidable c] (a b : State) : (if c then a else b).tree = if c then a.tree else b.tree := apply_ite ..
@[simp] theorem ite_sched (c : Prop) [Decidable c] (a b : State) : (if c then a else b).sched = if c then a.sched else b.sched := apply_ite ..
@[simp] theorem ite_time (c : Prop) [Decidable c] (a b : State) : (if c then a else b).time = if c then a.time else b.time := apply_ite ..
@[simp] theorem ite_trav (c : Prop) [Decidable c] (a b : State) : (if c then a else b).trav = if c then a.trav else b.trav := apply_ite ..
@[simp] theorem ite_host (c : Prop) [Decidable c] (a b : State) : (if c then a else b).host = if c then a.host else b.host := apply_ite ..
@[simp] theorem ite_disp (c : Prop) [Decidable c] (a b : State) : (if c then a else b).disp = if c then a.disp else b.disp := apply_ite ..
@[simp] theorem ite_usb (c : Prop) [Decidable c] (a b : State) : (if c then a else b).usb = if c then a.usb else b.usb := apply_ite ..
@[simp] theorem ite_net (c : Prop) [Decidable c] (a b : State) : (if c then a else b).net = if c then a.net else b.net := apply_ite ..
@[simp] theorem ite_win (c : Prop) [Decidable c] (a b : State) : (if c then a else b).win = if c then a.win else b.win := apply_ite ..
@[simp] theorem ite_keys (c : Prop) [Decidable c] (a b : State) : (if c then a else b).keys = if c then a.keys else b.keys := apply_ite ..
@[simp] theorem ite_img (c : Prop) [Decidable c] (a b : State) : (if c then a else b).img = if c then a.img else b.img := apply_ite ..
@[simp] theorem ite_err (c : Prop) [Decidable c] (a b : State) : (if c then a else b).err = if c then a.err else b.err := apply_ite ..
@[simp] theorem ite_out (c : Prop) [Decidable c] (a b : State) : (if c then a else b).out = if c then a.out else b.out := apply_ite ..
@[simp] theorem ite_free (c : Prop) [Decidable c] (a b : State) : (if c then a else b).free = if c then a.free else b.free := apply_ite ..
@[simp] theorem ite_uptime (c : Prop) [Decidable c] (a b : State) : (if c then a else b).uptime = if c then a.uptime else b.uptime := apply_ite ..
@[simp] theorem foldl_pending {α : Type} {g : State → α → State} (h : ∀ s x, (g s x).pending = s.pending) (l : List α) (s : State) :
    (l.foldl g s).pending = s.pending := by
  induction l generalizing s with
  | nil => rfl
  | cons a l ih => rw [List.foldl_cons, ih, h]

@[simp] theorem foldl_nv {α : Type} {g : State → α → State} (h : ∀ s x, (g s x).nv = s.nv) (l : List α) (s : State) :
    (l.foldl g s).nv = s.nv := by
  induction l generalizing s with
  | nil => rfl
  | cons a l ih => rw [List.foldl_cons, ih, h]

@[simp] theorem foldl_ret {α : Type} {g : State → α → State} (h : ∀ s x, (g s x).ret = s.ret) (l : List α) (s : State) :
    (l.foldl g s).ret = s.ret := by
  induction l generalizing s with
  | nil => rfl
  | cons a l ih => rw [List.foldl_cons, ih, h]

@[simp] theorem foldl_pwr {α : Type} {g : State → α → State} (h : ∀ s x, (g s x).pwr = s.pwr) (l : List α) (s : State) :
    (l.foldl g s).pwr = s.pwr := by
  induction l generalizing s with
  | nil => rfl
  | cons a l ih => rw [List.foldl_cons, ih, h]

@[simp] theorem foldl_board {α : Type} {g : State → α → State} (h : ∀ s x, (g s x).board = s.board) (l : List α) (s : State) :
    (l.foldl g s).board = s.board := by
  induction l generalizing s with
  | nil => rfl
  | cons a l ih => rw [List.foldl_cons, ih, h]

@[simp] theorem foldl_pace {α : Type} {g : State → α → State} (h : ∀ s x, (g s x).pace = s.pace) (l : List α) (s : State) :
    (l.foldl g s).pace = s.pace := by
  induction l generalizing s with
  | nil => rfl
  | cons a l ih => rw [List.foldl_cons, ih, h]

@[simp] theorem foldl_links {α : Type} {g : State → α → State} (h : ∀ s x, (g s x).links = s.links) (l : List α) (s : State) :
    (l.foldl g s).links = s.links := by
  induction l generalizing s with
  | nil => rfl
  | cons a l ih => rw [List.foldl_cons, ih, h]

@[simp] theorem foldl_tree {α : Type} {g : State → α → State} (h : ∀ s x, (g s x).tree = s.tree) (l : List α) (s : State) :
    (l.foldl g s).tree = s.tree := by
  induction l generalizing s with
  | nil => rfl
  | cons a l ih => rw [List.foldl_cons, ih, h]

@[simp] theorem foldl_sched {α : Type} {g : State → α → State} (h : ∀ s x, (g s x).sched = s.sched) (l : List α) (s : State) :
    (l.foldl g s).sched = s.sched := by
  induction l generalizing s with
  | nil => rfl
  | cons a l ih => rw [List.foldl_cons, ih, h]

@[simp] theorem foldl_time {α : Type} {g : State → α → State} (h : ∀ s x, (g s x).time = s.time) (l : List α) (s : State) :
    (l.foldl g s).time = s.time := by
  induction l generalizing s with
  | nil => rfl
  | cons a l ih => rw [List.foldl_cons, ih, h]

@[simp] theorem foldl_trav {α : Type} {g : State → α → State} (h : ∀ s x, (g s x).trav = s.trav) (l : List α) (s : State) :
    (l.foldl g s).trav = s.trav := by
  induction l generalizing s with
  | nil => rfl
  | cons a l ih => rw [List.foldl_cons, ih, h]

@[simp] theorem foldl_host {α : Type} {g : State → α → State} (h : ∀ s x, (g s x).host = s.host) (l : List α) (s : State) :
    (l.foldl g s).host = s.host := by
  induction l generalizing s with
  | nil => rfl
  | cons a l ih => rw [List.foldl_cons, ih, h]

@[simp] theorem foldl_disp {α : Type} {g : State → α → State} (h : ∀ s x, (g s x).disp = s.disp) (l : List α) (s : State) :
    (l.foldl g s).disp = s.disp := by
  induction l generalizing s with
  | nil => rfl
  | cons a l ih => rw [List.foldl_cons, ih, h]

@[simp] theorem foldl_usb {α : Type} {g : State → α → State} (h : ∀ s x, (g s x).usb = s.usb) (l : List α) (s : State) :
    (l.foldl g s).usb = s.usb := by
  induction l generalizing s with
  | nil => rfl
  | cons a l ih => rw [List.foldl_cons, ih, h]

@[simp] theorem foldl_net {α : Type} {g : State → α → State} (h : ∀ s x, (g s x).net = s.net) (l : List α) (s : State) :
    (l.foldl g s).net = s.net := by
  induction l generalizing s with
  | nil => rfl
  | cons a l ih => rw [List.foldl_cons, ih, h]

@[simp] theorem foldl_win {α : Type} {g : State → α → State} (h : ∀ s x, (g s x).win = s.win) (l : List α) (s : State) :
    (l.foldl g s).win = s.win := by
  induction l generalizing s with
  | nil => rfl
  | cons a l ih => rw [List.foldl_cons, ih, h]

@[simp] theorem foldl_keys {α : Type} {g : State → α → State} (h : ∀ s x, (g s x).keys = s.keys) (l : List α) (s : State) :
    (l.foldl g s).keys = s.keys := by
  induction l generalizing s with
  | nil => rfl
  | cons a l ih => rw [List.foldl_cons, ih, h]

@[simp] theorem foldl_img {α : Type} {g : State → α → State} (h : ∀ s x, (g s x).img = s.img) (l : List α) (s : State) :
    (l.foldl g s).img = s.img := by
  induction l generalizing s with
  | nil => rfl
  | cons a l ih => rw [List.foldl_cons, ih, h]

@[simp] theorem foldl_err {α : Type} {g : State → α → State} (h : ∀ s x, (g s x).err = s.err) (l : List α) (s : State) :
    (l.foldl g s).err = s.err := by
  induction l generalizing s with
  | nil => rfl
  | cons a l ih => rw [List.foldl_cons, ih, h]

@[simp] theorem foldl_out {α : Type} {g : State → α → State} (h : ∀ s x, (g s x).out = s.out) (l : List α) (s : State) :
    (l.foldl g s).out = s.out := by
  induction l generalizing s with
  | nil => rfl
  | cons a l ih => rw [List.foldl_cons, ih, h]

@[simp] theorem foldl_free {α : Type} {g : State → α → State} (h : ∀ s x, (g s x).free = s.free) (l : List α) (s : State) :
    (l.foldl g s).free = s.free := by
  induction l generalizing s with
  | nil => rfl
  | cons a l ih => rw [List.foldl_cons, ih, h]

@[simp] theorem foldl_uptime {α : Type} {g : State → α → State} (h : ∀ s x, (g s x).uptime = s.uptime) (l : List α) (s : State) :
    (l.foldl g s).uptime = s.uptime := by
  induction l generalizing s with
  | nil => rfl
  | cons a l ih => rw [List.foldl_cons, ih, h]

@[simp] theorem ite_ret_mode (c : Prop) [Decidable c] (a b : Ret) : (if c then a else b).mode = if c then a.mode else b.mode := apply_ite ..
@[simp] theorem ite_ret_straps (c : Prop) [Decidable c] (a b : Ret) : (if c then a else b).straps = if c then a.straps else b.straps := apply_ite ..
@[simp] theorem ite_ret_safeLatch (c : Prop) [Decidable c] (a b : Ret) : (if c then a else b).safeLatch = if c then a.safeLatch else b.safeLatch := apply_ite ..
@[simp] theorem ite_ret_resetCause (c : Prop) [Decidable c] (a b : Ret) : (if c then a else b).resetCause = if c then a.resetCause else b.resetCause := apply_ite ..
@[simp] theorem ite_nv_counter (c : Prop) [Decidable c] (a b : Nv) : (if c then a else b).counter = if c then a.counter else b.counter := apply_ite ..
@[simp] theorem ite_nv_unitId (c : Prop) [Decidable c] (a b : Nv) : (if c then a else b).unitId = if c then a.unitId else b.unitId := apply_ite ..
@[simp] theorem foldl_ret_mode {α : Type} {g : State → α → State} (h : ∀ s x, (g s x).ret.mode = s.ret.mode) (l : List α) (s : State) :
    (l.foldl g s).ret.mode = s.ret.mode := by
  induction l generalizing s with
  | nil => rfl
  | cons a l ih => rw [List.foldl_cons, ih, h]

@[simp] theorem foldl_ret_straps {α : Type} {g : State → α → State} (h : ∀ s x, (g s x).ret.straps = s.ret.straps) (l : List α) (s : State) :
    (l.foldl g s).ret.straps = s.ret.straps := by
  induction l generalizing s with
  | nil => rfl
  | cons a l ih => rw [List.foldl_cons, ih, h]

@[simp] theorem foldl_ret_safeLatch {α : Type} {g : State → α → State} (h : ∀ s x, (g s x).ret.safeLatch = s.ret.safeLatch) (l : List α) (s : State) :
    (l.foldl g s).ret.safeLatch = s.ret.safeLatch := by
  induction l generalizing s with
  | nil => rfl
  | cons a l ih => rw [List.foldl_cons, ih, h]

@[simp] theorem foldl_ret_resetCause {α : Type} {g : State → α → State} (h : ∀ s x, (g s x).ret.resetCause = s.ret.resetCause) (l : List α) (s : State) :
    (l.foldl g s).ret.resetCause = s.ret.resetCause := by
  induction l generalizing s with
  | nil => rfl
  | cons a l ih => rw [List.foldl_cons, ih, h]

@[simp] theorem foldl_nv_counter {α : Type} {g : State → α → State} (h : ∀ s x, (g s x).nv.counter = s.nv.counter) (l : List α) (s : State) :
    (l.foldl g s).nv.counter = s.nv.counter := by
  induction l generalizing s with
  | nil => rfl
  | cons a l ih => rw [List.foldl_cons, ih, h]

@[simp] theorem foldl_nv_unitId {α : Type} {g : State → α → State} (h : ∀ s x, (g s x).nv.unitId = s.nv.unitId) (l : List α) (s : State) :
    (l.foldl g s).nv.unitId = s.nv.unitId := by
  induction l generalizing s with
  | nil => rfl
  | cons a l ih => rw [List.foldl_cons, ih, h]

@[simp] theorem foldlp_pending {α β : Type} {g : State × β → α → State × β} (h : ∀ a x, (g a x).1.pending = a.1.pending) (l : List α)
    (a : State × β) : (l.foldl g a).1.pending = a.1.pending := by
  induction l generalizing a with
  | nil => rfl
  | cons x l ih => rw [List.foldl_cons, ih, h]

@[simp] theorem foldlp_nv {α β : Type} {g : State × β → α → State × β} (h : ∀ a x, (g a x).1.nv = a.1.nv) (l : List α)
    (a : State × β) : (l.foldl g a).1.nv = a.1.nv := by
  induction l generalizing a with
  | nil => rfl
  | cons x l ih => rw [List.foldl_cons, ih, h]

@[simp] theorem foldlp_ret {α β : Type} {g : State × β → α → State × β} (h : ∀ a x, (g a x).1.ret = a.1.ret) (l : List α)
    (a : State × β) : (l.foldl g a).1.ret = a.1.ret := by
  induction l generalizing a with
  | nil => rfl
  | cons x l ih => rw [List.foldl_cons, ih, h]

@[simp] theorem foldlp_pwr {α β : Type} {g : State × β → α → State × β} (h : ∀ a x, (g a x).1.pwr = a.1.pwr) (l : List α)
    (a : State × β) : (l.foldl g a).1.pwr = a.1.pwr := by
  induction l generalizing a with
  | nil => rfl
  | cons x l ih => rw [List.foldl_cons, ih, h]

@[simp] theorem foldlp_board {α β : Type} {g : State × β → α → State × β} (h : ∀ a x, (g a x).1.board = a.1.board) (l : List α)
    (a : State × β) : (l.foldl g a).1.board = a.1.board := by
  induction l generalizing a with
  | nil => rfl
  | cons x l ih => rw [List.foldl_cons, ih, h]

@[simp] theorem foldlp_pace {α β : Type} {g : State × β → α → State × β} (h : ∀ a x, (g a x).1.pace = a.1.pace) (l : List α)
    (a : State × β) : (l.foldl g a).1.pace = a.1.pace := by
  induction l generalizing a with
  | nil => rfl
  | cons x l ih => rw [List.foldl_cons, ih, h]

@[simp] theorem foldlp_links {α β : Type} {g : State × β → α → State × β} (h : ∀ a x, (g a x).1.links = a.1.links) (l : List α)
    (a : State × β) : (l.foldl g a).1.links = a.1.links := by
  induction l generalizing a with
  | nil => rfl
  | cons x l ih => rw [List.foldl_cons, ih, h]

@[simp] theorem foldlp_tree {α β : Type} {g : State × β → α → State × β} (h : ∀ a x, (g a x).1.tree = a.1.tree) (l : List α)
    (a : State × β) : (l.foldl g a).1.tree = a.1.tree := by
  induction l generalizing a with
  | nil => rfl
  | cons x l ih => rw [List.foldl_cons, ih, h]

@[simp] theorem foldlp_sched {α β : Type} {g : State × β → α → State × β} (h : ∀ a x, (g a x).1.sched = a.1.sched) (l : List α)
    (a : State × β) : (l.foldl g a).1.sched = a.1.sched := by
  induction l generalizing a with
  | nil => rfl
  | cons x l ih => rw [List.foldl_cons, ih, h]

@[simp] theorem foldlp_time {α β : Type} {g : State × β → α → State × β} (h : ∀ a x, (g a x).1.time = a.1.time) (l : List α)
    (a : State × β) : (l.foldl g a).1.time = a.1.time := by
  induction l generalizing a with
  | nil => rfl
  | cons x l ih => rw [List.foldl_cons, ih, h]

@[simp] theorem foldlp_trav {α β : Type} {g : State × β → α → State × β} (h : ∀ a x, (g a x).1.trav = a.1.trav) (l : List α)
    (a : State × β) : (l.foldl g a).1.trav = a.1.trav := by
  induction l generalizing a with
  | nil => rfl
  | cons x l ih => rw [List.foldl_cons, ih, h]

@[simp] theorem foldlp_host {α β : Type} {g : State × β → α → State × β} (h : ∀ a x, (g a x).1.host = a.1.host) (l : List α)
    (a : State × β) : (l.foldl g a).1.host = a.1.host := by
  induction l generalizing a with
  | nil => rfl
  | cons x l ih => rw [List.foldl_cons, ih, h]

@[simp] theorem foldlp_disp {α β : Type} {g : State × β → α → State × β} (h : ∀ a x, (g a x).1.disp = a.1.disp) (l : List α)
    (a : State × β) : (l.foldl g a).1.disp = a.1.disp := by
  induction l generalizing a with
  | nil => rfl
  | cons x l ih => rw [List.foldl_cons, ih, h]

@[simp] theorem foldlp_usb {α β : Type} {g : State × β → α → State × β} (h : ∀ a x, (g a x).1.usb = a.1.usb) (l : List α)
    (a : State × β) : (l.foldl g a).1.usb = a.1.usb := by
  induction l generalizing a with
  | nil => rfl
  | cons x l ih => rw [List.foldl_cons, ih, h]

@[simp] theorem foldlp_net {α β : Type} {g : State × β → α → State × β} (h : ∀ a x, (g a x).1.net = a.1.net) (l : List α)
    (a : State × β) : (l.foldl g a).1.net = a.1.net := by
  induction l generalizing a with
  | nil => rfl
  | cons x l ih => rw [List.foldl_cons, ih, h]

@[simp] theorem foldlp_win {α β : Type} {g : State × β → α → State × β} (h : ∀ a x, (g a x).1.win = a.1.win) (l : List α)
    (a : State × β) : (l.foldl g a).1.win = a.1.win := by
  induction l generalizing a with
  | nil => rfl
  | cons x l ih => rw [List.foldl_cons, ih, h]

@[simp] theorem foldlp_keys {α β : Type} {g : State × β → α → State × β} (h : ∀ a x, (g a x).1.keys = a.1.keys) (l : List α)
    (a : State × β) : (l.foldl g a).1.keys = a.1.keys := by
  induction l generalizing a with
  | nil => rfl
  | cons x l ih => rw [List.foldl_cons, ih, h]

@[simp] theorem foldlp_img {α β : Type} {g : State × β → α → State × β} (h : ∀ a x, (g a x).1.img = a.1.img) (l : List α)
    (a : State × β) : (l.foldl g a).1.img = a.1.img := by
  induction l generalizing a with
  | nil => rfl
  | cons x l ih => rw [List.foldl_cons, ih, h]

@[simp] theorem foldlp_err {α β : Type} {g : State × β → α → State × β} (h : ∀ a x, (g a x).1.err = a.1.err) (l : List α)
    (a : State × β) : (l.foldl g a).1.err = a.1.err := by
  induction l generalizing a with
  | nil => rfl
  | cons x l ih => rw [List.foldl_cons, ih, h]

@[simp] theorem foldlp_out {α β : Type} {g : State × β → α → State × β} (h : ∀ a x, (g a x).1.out = a.1.out) (l : List α)
    (a : State × β) : (l.foldl g a).1.out = a.1.out := by
  induction l generalizing a with
  | nil => rfl
  | cons x l ih => rw [List.foldl_cons, ih, h]

@[simp] theorem foldlp_free {α β : Type} {g : State × β → α → State × β} (h : ∀ a x, (g a x).1.free = a.1.free) (l : List α)
    (a : State × β) : (l.foldl g a).1.free = a.1.free := by
  induction l generalizing a with
  | nil => rfl
  | cons x l ih => rw [List.foldl_cons, ih, h]

@[simp] theorem foldlp_uptime {α β : Type} {g : State × β → α → State × β} (h : ∀ a x, (g a x).1.uptime = a.1.uptime) (l : List α)
    (a : State × β) : (l.foldl g a).1.uptime = a.1.uptime := by
  induction l generalizing a with
  | nil => rfl
  | cons x l ih => rw [List.foldl_cons, ih, h]

end Sys2Proof.Machine
end

