-- ==== Sys2Proof/Laws/KeepOps.lean ====
section
/-! SUPPORT. For each operation of Machine/Ops.lean, the parts of the state that it leaves unchanged. -/

set_option linter.unusedTactic false
set_option linter.unreachableTactic false
set_option linter.unusedSimpArgs false

namespace Sys2Proof.Machine
open Sys2Proof

theorem State.setLink_only (s : State) (l : Nat) (k : Link) :
    OnlyLinks (State.setLink s l k) s := by
  simp [State.setLink, OnlyLinks]

theorem State.modLink_only (s : State) (l : Nat) (f : Link → Link) :
    OnlyLinks (State.modLink s l f) s := by
  have only1 := @State.setLink_only
  simp [only1, State.modLink, OnlyLinks]

theorem State.drew_only (s : State) :
    OnlyFree (State.drew s) s := by
  simp [State.drew, OnlyFree]

theorem State.emit_only (s : State) (o : Out) :
    OnlyOut (State.emit s o) s := by
  simp [State.emit, OnlyOut]

theorem State.emits_only (s : State) (os : List Out) :
    OnlyOut (State.emits s os) s := by
  simp [State.emits, OnlyOut]

theorem State.setSlice_only (s : State) (k : Nat) (x : Slice) :
    OnlyHost (State.setSlice s k x) s := by
  simp [State.setSlice, OnlyHost]

theorem State.modSlice_only (s : State) (k : Nat) (f : Slice → Slice) :
    OnlyHost (State.modSlice s k f) s := by
  have only1 := @State.setSlice_only
  simp [only1, State.modSlice, OnlyHost]

theorem State.setHport_only (s : State) (p : Nat) (h : HPort) :
    OnlyHost (State.setHport s p h) s := by
  simp [State.setHport, OnlyHost]

theorem State.sendInt_only (s : State) (k : Nat) :
    OnlyHostOut (State.sendInt s k) s := by
  have only1 := @State.emit_only
  have only2 := @State.setHport_only
  have only3 := @State.setSlice_only
  simp [only1, only2, only3, State.sendInt, OnlyHostOut]

theorem State.writeRec_only (s : State) (k : Nat) (r : Rec) :
    OnlyHostOut (State.writeRec s k r) s := by
  have only1 := @State.emit_only
  have only2 := @State.sendInt_only
  have only3 := @State.setSlice_only
  simp [only1, only2, only3, State.writeRec, OnlyHostOut]

theorem State.postRec_only (s : State) (k : Nat) (completion : Bool) (r : Rec) :
    OnlyHostOut (State.postRec s k completion r) s := by
  have only1 := @State.setSlice_only
  have only2 := @State.writeRec_only
  simp [only1, only2, State.postRec, OnlyHostOut]

theorem State.flushHeld_only (s : State) (k : Nat) (y0 : Nat) :
    OnlyHostOut (State.flushHeld s k y0) s := by
  have only1 := @State.modSlice_only
  have only2 := @State.writeRec_only
  induction y0 generalizing s k with
  | zero => simp [only1, only2, State.flushHeld, OnlyHostOut]
  | succ n ih =>
    generalize hh : State.flushHeld s k (n + 1) = r
    unfold State.flushHeld at hh
    try dsimp only at hh
    repeat' split at hh
    all_goals subst hh
    all_goals simp [only1, only2, OnlyHostOut, ih]

theorem State.report_only (s : State) (h k typ status idx : Nat) (ws : List Word) :
    OnlyHostOut (State.report s h k typ status idx ws) s := by
  have only1 := @State.emit_only
  have only2 := @State.postRec_only
  simp [only1, only2, State.report, OnlyHostOut]

theorem State.reportMgmt_only (s : State) (typ status idx : Nat) (ws : List Word) :
    OnlyHostOut (State.reportMgmt s typ status idx ws) s := by
  have only1 := @State.report_only
  simp [only1, State.reportMgmt, OnlyHostOut]

theorem State.reportBoth_only (s : State) (typ status idx : Nat) (ws : List Word) :
    OnlyHostOut (State.reportBoth s typ status idx ws) s := by
  have only1 := @State.report_only
  have only2 := @State.reportMgmt_only
  simp [only1, only2, State.reportBoth, OnlyHostOut]

theorem State.reportHolder_only (s : State) (kind idx typ status src : Nat) (ws : List Word) :
    OnlyHostOut (State.reportHolder s kind idx typ status src ws) s := by
  have only1 := @State.report_only
  have only2 := @State.reportMgmt_only
  generalize hh : (State.reportHolder s kind idx typ status src ws) = r
  unfold State.reportHolder at hh
  try dsimp only at hh
  repeat' first | split at hh
  all_goals subst hh
  all_goals simp [only1, only2, OnlyHostOut]

theorem State.sendCtrl_only (s : State) (h kind slice : Nat) (ws : List Word) :
    OnlyOut (State.sendCtrl s h kind slice ws) s := by
  have only1 := @State.emit_only
  simp [only1, State.sendCtrl, OnlyOut]

theorem State.dropPend_only (s : State) (c : Cmd) :
    OnlyHost (State.dropPend s c) s := by
  simp [State.dropPend, OnlyHost]

theorem State.sendData_only (s : State) (h slice htag off : Nat) (y0 : List (List Byte)) :
    OnlyOut (State.sendData s h slice htag off y0) s := by
  have only1 := @State.emit_only
  induction y0 generalizing s h slice htag off with
  | nil => simp [only1, State.sendData, OnlyOut]
  | cons a l ih =>
    generalize hh : State.sendData s h slice htag off (a :: l) = r
    unfold State.sendData at hh
    try dsimp only at hh
    repeat' split at hh
    all_goals subst hh
    all_goals simp [only1, OnlyOut, ih]

theorem State.sendCommand_only (s : State) (c : Cmd) (data : List Byte) :
    OnlyOut (State.sendCommand s c data) s := by
  have only1 := @State.emit_only
  have only2 := @State.sendData_only
  simp [only1, only2, State.sendCommand, OnlyOut]

theorem State.setPend_only (s : State) (p : Pend) :
    OnlyHost (State.setPend s p) s := by
  simp [State.setPend, OnlyHost]

theorem State.startPend_only (s : State) (p : Pend) :
    OnlyHostOut (State.startPend s p) s := by
  have only1 := @State.emit_only
  have only2 := @State.sendCommand_only
  have only3 := @State.setPend_only
  simp [only1, only2, only3, State.startPend, OnlyHostOut]

theorem State.kick_only (s : State) :
    OnlyHostOut (State.kick s) s := by
  have only1 := @State.startPend_only
  simp [only1, State.kick, OnlyHostOut]

theorem State.imgEvent_only (s : State) (reason status slot value : Nat) :
    OnlyHostOut (State.imgEvent s reason status slot value) s := by
  have only1 := @State.reportBoth_only
  simp [only1, State.imgEvent, OnlyHostOut]

theorem State.complete_only (s : State) (c : Cmd) (st : Nat) (ws : List Word) :
    OnlyHostOut (State.complete s c st ws) s := by
  have only1 := @State.dropPend_only
  have only2 := @State.emit_only
  have only3 := @State.imgEvent_only
  have only4 := @State.kick_only
  have only5 := @State.modSlice_only
  have only6 := @State.postRec_only
  simp [only1, only2, only3, only4, only5, only6, State.complete, OnlyHostOut]

theorem State.completeOpt_only (s : State) (c : Option Cmd) (st : Nat) :
    OnlyHostOut (State.completeOpt s c st) s := by
  have only1 := @State.complete_only
  generalize hh : (State.completeOpt s c st) = r
  unfold State.completeOpt at hh
  try dsimp only at hh
  repeat' first | split at hh
  all_goals subst hh
  all_goals simp [only1, OnlyHostOut]

theorem State.output_only (s : State) (c : Cmd) (iova : Nat) (bs : List Byte) :
    OnlyHostOut (State.output s c iova bs) s := by
  have only1 := @State.emit_only
  have only2 := @State.sendData_only
  simp [only1, only2, State.output, OnlyHostOut]

theorem State.ended_only (s : State) :
    OnlyHost (State.ended s) s := by
  simp [State.ended, OnlyHost]

theorem State.begins_only (s : State) (c : Cmd) :
    OnlyHost (State.begins s c) s := by
  simp [State.begins, OnlyHost]

end Sys2Proof.Machine
end

