-- ==== Sys2Proof/Laws/KeepSchedOps.lean ====
section
/-! SUPPORT. For each operation of Machine/SchedOps.lean, the parts of the state that it leaves unchanged. -/

namespace Sys2Proof.Machine
open Sys2Proof

theorem State.setBlink_only (s : State) (l b : Nat) (x : BoundLink) :
    OnlySched (State.setBlink s l b x) s := by
  simp [State.setBlink, OnlySched]

theorem State.schedAdvance_only (s : State) (l : Nat) :
    OnlyLinksSched (State.schedAdvance s l) s := by
  have only1 := @State.setBlink_only
  simp [only1, State.schedAdvance, OnlyLinksSched]

end Sys2Proof.Machine
end

