-- ==== Sys2Proof/Laws/KeepTunnelOps.lean ====
section
/-! SUPPORT. For each operation of Machine/TunnelOps.lean, the parts of the state that it leaves unchanged. -/

set_option linter.unusedTactic false
set_option linter.unreachableTactic false
set_option linter.unusedSimpArgs false

namespace Sys2Proof.Machine
open Sys2Proof

theorem State.setGaz_only (s : State) (t : Nat) (g : Gaz) :
    OnlyTree (State.setGaz s t g) s := by
  simp [State.setGaz, OnlyTree]

theorem State.modGaz_only (s : State) (t : Nat) (f : Gaz → Gaz) :
    OnlyTree (State.modGaz s t f) s := by
  have only1 := @State.setGaz_only
  simp [only1, State.modGaz, OnlyTree]

theorem State.hopRecord_only (s : State) (t : Nat) :
    OnlyFree (State.hopRecord s t).2 s := by
  have only1 := @State.drew_only
  generalize hh : (State.hopRecord s t).2 = r
  unfold State.hopRecord at hh
  try dsimp only at hh
  repeat' first | split at hh
  all_goals subst hh
  all_goals simp [only1, OnlyFree]

theorem State.countDrop_only (s : State) (t n : Nat) :
    OnlyTree (State.countDrop s t n) s := by
  have only1 := @State.modGaz_only
  simp [only1, State.countDrop, OnlyTree]

theorem State.enqueue_only (s : State) (l : Nat) (p : TxPkt) (lossy : Bool) (rx : Option (Nat × Nat × Nat)) :
    OnlyLinksSched (State.enqueue s l p lossy rx) s := by
  have only1 := @State.modLink_only
  have only2 := @State.schedAdvance_only
  simp [only1, only2, State.enqueue, OnlyLinksSched]

theorem State.deliverPkt_only (s : State) (t : Nat) (first last : Bool) (payload : List Byte) :
    OnlyTreeOut (State.deliverPkt s t first last payload) s := by
  have only1 := @State.countDrop_only
  simp [only1, State.deliverPkt, OnlyTreeOut]

theorem State.setMac_only (s : State) (m : Nat) (x : Mac) :
    OnlyNet (State.setMac s m x) s := by
  simp [State.setMac, OnlyNet]

theorem State.modMac_only (s : State) (m : Nat) (f : Mac → Mac) :
    OnlyNet (State.modMac s m f) s := by
  have only1 := @State.setMac_only
  simp [only1, State.modMac, OnlyNet]

theorem State.atExit_only (s : State) (p : TxPkt) (rx : Option (Nat × Nat × Nat)) :
    OnlyTreeOut (State.atExit s p rx) s := by
  have only1 := @State.deliverPkt_only
  simp [only1, State.atExit, OnlyTreeOut]

theorem State.fanOut_only (s : State) (t : Nat) (p : TxPkt) (rx : Option (Nat × Nat × Nat)) :
    OnlyLinksTreeSchedOut (State.fanOut s t p rx) s := by
  have only1 := @State.atExit_only
  have only2 := @State.deliverPkt_only
  have only3 := @State.enqueue_only
  have only4 := @State.modGaz_only
  simp [only1, only2, only3, only4, State.fanOut, OnlyLinksTreeSchedOut]

theorem State.offerPkt_only (s : State) (t : Nat) (urgent first last : Bool) (payload : List Byte) :
    OnlyLinksTreeSchedOut (State.offerPkt s t urgent first last payload) s := by
  have only1 := @State.countDrop_only
  have only2 := @State.fanOut_only
  simp [only1, only2, State.offerPkt, OnlyLinksTreeSchedOut]

theorem State.offerAll_only (s : State) (t : Nat) (urgent first : Bool) (y0 : List (List Byte)) :
    OnlyLinksTreeSchedOut (State.offerAll s t urgent first y0) s := by
  have only1 := @State.offerPkt_only
  induction y0 generalizing s t urgent first with
  | nil => simp [only1, State.offerAll, OnlyLinksTreeSchedOut]
  | cons a l ih =>
    generalize hh : State.offerAll s t urgent first (a :: l) = r
    unfold State.offerAll at hh
    try dsimp only at hh
    repeat' split at hh
    all_goals subst hh
    all_goals first
      | (simp [only1, OnlyLinksTreeSchedOut, ih]; done)
      | (cases ‹_ = _ :: _›; simp [only1, OnlyLinksTreeSchedOut, ih]; done)

theorem State.sendTunnel_only (s : State) (t : Nat) (urgent : Bool) (bs : List Byte) :
    OnlyLinksTreeSchedOut (State.sendTunnel s t urgent bs) s := by
  have only1 := @State.offerAll_only
  simp [only1, State.sendTunnel, OnlyLinksTreeSchedOut]

end Sys2Proof.Machine
end

