-- ==== Sys2Proof/Laws/KeepDisplay.lean ====
section
/-! SUPPORT. For each operation of Machine/Display.lean, the parts of the state that it leaves unchanged. -/

set_option linter.unusedTactic false
set_option linter.unreachableTactic false
set_option linter.unusedSimpArgs false

namespace Sys2Proof.Machine
open Sys2Proof

theorem State.setHead_only (s : State) (i : Nat) (h : Head) :
    OnlyDisp (State.setHead s i h) s := by
  simp [State.setHead, OnlyDisp]

theorem State.modHead_only (s : State) (i : Nat) (f : Head → Head) :
    OnlyDisp (State.modHead s i f) s := by
  have only1 := @State.setHead_only
  simp [only1, State.modHead, OnlyDisp]

theorem State.setPlane_only (s : State) (i : Nat) (p : Plane) :
    OnlyDisp (State.setPlane s i p) s := by
  simp [State.setPlane, OnlyDisp]

theorem State.setSource_only (s : State) (t : Nat) (x : Source) :
    OnlyDisp (State.setSource s t x) s := by
  simp [State.setSource, OnlyDisp]

theorem State.dispAlertOf_only (s : State) (i tid reason status cause region v1 v2 : Nat) :
    OnlyHostOut (State.dispAlertOf s i tid reason status cause region v1 v2) s := by
  have only1 := @State.reportHolder_only
  simp [only1, State.dispAlertOf, OnlyHostOut]

theorem State.dispAlert_only (s : State) (i reason status cause region v1 v2 : Nat) :
    OnlyHostOut (State.dispAlert s i reason status cause region v1 v2) s := by
  have only1 := @State.dispAlertOf_only
  have only2 := @State.reportHolder_only
  simp [only1, only2, State.dispAlert, OnlyHostOut]

theorem State.srcAlert_only (s : State) (t reason status cause v1 : Nat) :
    OnlyHostOut (State.srcAlert s t reason status cause v1) s := by
  have only1 := @State.report_only
  simp [only1, State.srcAlert, OnlyHostOut]

theorem State.startCapture_only (s : State) (i : Nat) :
    OnlyDisp (State.startCapture s i) s := by
  have only1 := @State.modHead_only
  have only2 := @State.setPlane_only
  simp [only1, only2, State.startCapture, OnlyDisp]

theorem State.toUndercoat_only (s : State) (i cause : Nat) :
    OnlyHostDispOut (State.toUndercoat s i cause) s := by
  have only1 := @State.dispAlert_only
  have only2 := @State.modHead_only
  simp [only1, only2, State.toUndercoat, OnlyHostDispOut]

theorem State.finishCommits_only (s : State) (i : Nat) (others : List DCmd) (y0 : List DCmd) :
    OnlyHostOut (State.finishCommits s i others y0) s := by
  have only1 := @State.complete_only
  induction y0 with
  | nil => simp [State.finishCommits, OnlyHostOut]
  | cons c rest ih =>
    generalize hh : State.finishCommits s i others (c :: rest) = r
    unfold State.finishCommits at hh
    try dsimp only at hh
    repeat' split at hh
    all_goals subst hh
    all_goals simp [only1, OnlyHostOut, ih]


theorem State.applyF_only (s : State) (i : Nat) (f : FCommit) :
    OnlyHostDispOut (State.applyF s i f) s := by
  have only1 := @State.dispAlert_only
  have only2 := @State.finishCommits_only
  have only3 := @State.setHead_only
  have only4 := @State.startCapture_only
  simp [only1, only2, only3, only4, State.applyF, OnlyHostDispOut]

theorem State.applyL_only (s : State) (i : Nat) (p : LCommit) :
    OnlyHostDispOut (State.applyL s i p) s := by
  have only1 := @State.finishCommits_only
  have only2 := @State.setHead_only
  simp [only1, only2, State.applyL, OnlyHostDispOut]

theorem State.evalRegion_only (s : State) (i k : Nat) :
    OnlyHostDispOut (State.evalRegion s i k) s := by
  have only1 := @State.dispAlert_only
  have only2 := @State.modHead_only
  have only3 := @State.setHead_only
  simp [only1, only2, only3, State.evalRegion, OnlyHostDispOut]

theorem State.endFrame_only (s : State) (i : Nat) :
    OnlyHostDispOut (State.endFrame s i) s := by
  have only1 := @State.dispAlert_only
  have only2 := @State.modHead_only
  have only3 := @State.setHead_only
  have only4 := @State.toUndercoat_only
  simp [only1, only2, only3, only4, State.endFrame, OnlyHostDispOut]

theorem effFrameStart_only (i : Nat) (s : State) :
    OnlyHostDispOut (effFrameStart i s) s := by
  have only1 := @State.applyF_only
  have only2 := @State.endFrame_only
  have only3 := @State.evalRegion_only
  have only4 := @State.modHead_only
  have only5 := @State.setHead_only
  have only6 := @State.startCapture_only
  generalize hh : (effFrameStart i s) = r
  unfold effFrameStart at hh
  try dsimp only at hh
  repeat' first | split at hh
  all_goals subst hh
  all_goals simp [only1, only2, only3, only4, only5, only6, OnlyHostDispOut]

theorem State.captureLine_only (s : State) (i l : Nat) :
    OnlyDisp (State.captureLine s i l) s := by
  have only1 := @State.setPlane_only
  simp [only1, State.captureLine, OnlyDisp]

theorem effLineStart_only (i l : Nat) (pins : Option LinePins) (s : State) :
    OnlyHostDispOut (effLineStart i l pins s) s := by
  have only1 := @State.applyL_only
  have only2 := @State.captureLine_only
  have only3 := @State.modHead_only
  have only4 := @State.setHead_only
  generalize hh : (effLineStart i l pins s) = r
  unfold effLineStart at hh
  try dsimp only at hh
  repeat' first | split at hh
  all_goals subst hh
  all_goals simp [only1, only2, only3, only4, OnlyHostDispOut]

theorem State.rejectFrame_only (s : State) (i tid cause : Nat) :
    OnlyHostDispOut (State.rejectFrame s i tid cause) s := by
  have only1 := @State.dispAlert_only
  have only2 := @State.dispAlertOf_only
  have only3 := @State.setHead_only
  simp [only1, only2, only3, State.rejectFrame, OnlyHostDispOut]

theorem State.rejectHead_only (s : State) (i tid cause : Nat) :
    OnlyHostDispOut (State.rejectHead s i tid cause) s := by
  have only1 := @State.modHead_only
  have only2 := @State.rejectFrame_only
  simp [only1, only2, State.rejectHead, OnlyHostDispOut]

theorem effFrameMessage_only (tid : Nat) (ws : List Word) (s : State) :
    OnlyHostDispOut (effFrameMessage tid ws s) s := by
  have only1 := @State.rejectFrame_only
  have only2 := @State.rejectHead_only
  have only3 := @State.setHead_only
  have only4 := @State.setPlane_only
  simp [only1, only2, only3, only4, effFrameMessage, OnlyHostDispOut]

theorem effRowMessage_only (tid : Nat) (bytes : List Byte) (more : Bool) (s : State) :
    OnlyDisp (effRowMessage tid bytes more s) s := by
  have only1 := @State.setHead_only
  have only2 := @State.setPlane_only
  generalize hh : (effRowMessage tid bytes more s) = r
  unfold effRowMessage at hh
  try dsimp only at hh
  repeat' first | split at hh
  all_goals subst hh
  all_goals simp [only1, only2, OnlyDisp]

theorem State.finishSrc_only (s : State) (seq : Nat) (newest : Bool) (y0 : List Cmd) :
    OnlyHostOut (State.finishSrc s seq newest y0) s := by
  have only1 := @State.complete_only
  induction y0 generalizing s seq newest with
  | nil => simp [only1, State.finishSrc, OnlyHostOut]
  | cons a l ih =>
    generalize hh : State.finishSrc s seq newest (a :: l) = r
    unfold State.finishSrc at hh
    try dsimp only at hh
    repeat' split at hh
    all_goals subst hh
    all_goals simp [only1, OnlyHostOut, ih]

theorem State.applySrc_only (s : State) (t : Nat) :
    OnlyHostDispOut (State.applySrc s t) s := by
  have only1 := @State.finishSrc_only
  have only2 := @State.setSource_only
  generalize hh : (State.applySrc s t) = r
  unfold State.applySrc at hh
  try dsimp only at hh
  repeat' first | split at hh
  all_goals subst hh
  all_goals simp [only1, only2, OnlyHostDispOut]

theorem effSourceFrameSend_only (tid k : Nat) (s : State) :
    OnlyLinksTreeSchedHostDispOut (effSourceFrameSend tid k s) s := by
  have only1 := @State.applySrc_only
  have only2 := @State.sendTunnel_only
  have only3 := @State.setSource_only
  simp [only1, only2, only3, effSourceFrameSend, OnlyLinksTreeSchedHostDispOut]

theorem State.stopSources_only (s : State) (k : Nat) :
    OnlyDisp (State.stopSources s k) s := by
  simp [State.stopSources, OnlyDisp]

theorem effSourceRowSend_only (tid : Nat) (s : State) :
    OnlyDispOut (effSourceRowSend tid s) s := by
  have only1 := @State.emit_only
  have only2 := @State.setSource_only
  generalize hh : (effSourceRowSend tid s) = r
  unfold effSourceRowSend at hh
  try dsimp only at hh
  repeat' first | split at hh
  all_goals subst hh
  all_goals simp [only1, only2, OnlyDispOut]

theorem effRowFetchDone_only (tid : Nat) (ok : Bool) (bytes : List Byte) (s : State) :
    OnlyLinksTreeSchedHostDispOut (effRowFetchDone tid ok bytes s) s := by
  have only1 := @State.offerAll_only
  have only2 := @State.setSource_only
  have only3 := @State.srcAlert_only
  simp [only1, only2, only3, effRowFetchDone, OnlyLinksTreeSchedHostDispOut]

theorem effPanelSequenceTimer_only (i : Nat) (s : State) :
    OnlyDisp (effPanelSequenceTimer i s) s := by
  have only1 := @State.setHead_only
  simp [only1, effPanelSequenceTimer, OnlyDisp]

theorem State.takeCommit_only (s : State) (i : Nat) (cmds : List Cmd) (fk lk : Bool) (ln : Nat) :
    OnlyHostDispOut (State.takeCommit s i cmds fk lk ln) s := by
  have only1 := @State.applyF_only
  have only2 := @State.applyL_only
  have only3 := @State.dispAlert_only
  have only4 := @State.setHead_only
  simp [only1, only2, only3, only4, State.takeCommit, OnlyHostDispOut]

end Sys2Proof.Machine
end

