-- ==== Sys2Proof/Laws/KeepSideband.lean ====
section
/-! SUPPORT. For each operation of Machine/Sideband.lean, the parts of the state that it leaves unchanged. -/

namespace Sys2Proof.Machine
open Sys2Proof

theorem State.setPort_only (s : State) (p : Nat) (x : PwrPort) :
    OnlyPwr (State.setPort s p x) s := by
  simp [State.setPort, OnlyPwr]

theorem State.modPort_only (s : State) (p : Nat) (f : PwrPort → PwrPort) :
    OnlyPwr (State.modPort s p f) s := by
  have only1 := @State.setPort_only
  simp [only1, State.modPort, OnlyPwr]

theorem State.sbSend_only (s : State) (p link : Nat) (f : SbFrame) :
    OnlyOut (State.sbSend s p link f) s := by
  have only1 := @State.emit_only
  simp [only1, State.sbSend, OnlyOut]

theorem State.sbPush_only (s : State) (p l typ : Nat) (payload : List Byte) :
    OnlyPwr (State.sbPush s p l typ payload) s := by
  have only1 := @State.modPort_only
  simp [only1, State.sbPush, OnlyPwr]

theorem State.pushIdent_only (s : State) (p l : Nat) :
    OnlyPwr (State.pushIdent s p l) s := by
  have only1 := @State.modPort_only
  simp [only1, State.pushIdent, OnlyPwr]

theorem State.pushIdents_only (s : State) :
    OnlyPwr (State.pushIdents s) s := by
  have only1 := @State.pushIdent_only
  simp [only1, State.pushIdents, OnlyPwr]

theorem State.pwrEvent_only (s : State) (p reason value : Nat) :
    OnlyPwrHostOut (State.pwrEvent s p reason value) s := by
  have only1 := @State.reportMgmt_only
  simp [only1, State.pwrEvent, OnlyPwrHostOut]

theorem State.endContract_only (s : State) (p st : Nat) :
    OnlyPwrHostOut (State.endContract s p st) s := by
  have only1 := @State.complete_only
  have only2 := @State.modPort_only
  generalize hh : (State.endContract s p st) = r
  unfold State.endContract at hh
  try dsimp only at hh
  repeat' first | split at hh
  all_goals subst hh
  all_goals simp [only1, only2, OnlyPwrHostOut]

theorem State.endSwapCmd_only (s : State) (p st : Nat) :
    OnlyPwrHostOut (State.endSwapCmd s p st) s := by
  have only1 := @State.complete_only
  have only2 := @State.modPort_only
  generalize hh : (State.endSwapCmd s p st) = r
  unfold State.endSwapCmd at hh
  try dsimp only at hh
  repeat' first | split at hh
  all_goals subst hh
  all_goals simp [only1, only2, OnlyPwrHostOut]

theorem State.endArm_only (s : State) (p : Nat) :
    OnlyPwrHostOut (State.endArm s p) s := by
  have only1 := @State.endSwapCmd_only
  generalize hh : (State.endArm s p) = r
  unfold State.endArm at hh
  try dsimp only at hh
  repeat' first | split at hh
  all_goals subst hh
  all_goals simp [only1, OnlyPwrHostOut]

theorem State.pmbus_only (s : State) (p op value : Nat) :
    OnlyOut (State.pmbus s p op value) s := by
  have only1 := @State.emit_only
  simp [only1, State.pmbus, OnlyOut]

theorem State.convOperate_only (s : State) (p op : Nat) :
    OnlyPwrOut (State.convOperate s p op) s := by
  have only1 := @State.modPort_only
  have only2 := @State.pmbus_only
  simp [only1, only2, State.convOperate, OnlyPwrOut]

theorem State.convIdle_only (s : State) (p : Nat) :
    OnlyPwrOut (State.convIdle s p) s := by
  have only1 := @State.convOperate_only
  have only2 := @State.modPort_only
  simp [only1, only2, State.convIdle, OnlyPwrOut]

theorem State.convStart_only (s : State) (p v : Nat) :
    OnlyPwrOut (State.convStart s p v) s := by
  have only1 := @State.convOperate_only
  have only2 := @State.modPort_only
  simp [only1, only2, State.convStart, OnlyPwrOut]

theorem State.tryClose_only (s : State) (p : Nat) :
    OnlyPwr (State.tryClose s p) s := by
  have only1 := @State.setPort_only
  simp [only1, State.tryClose, OnlyPwr]

theorem State.pushCaps_only (s : State) (p : Nat) :
    OnlyPwr (State.pushCaps s p) s := by
  have only1 := @State.modPort_only
  have only2 := @State.sbPush_only
  simp [only1, only2, State.pushCaps, OnlyPwr]

theorem State.tryCaps_only (s : State) (p : Nat) :
    OnlyPwr (State.tryCaps s p) s := by
  have only1 := @State.modPort_only
  have only2 := @State.pushCaps_only
  simp [only1, only2, State.tryCaps, OnlyPwr]

theorem State.keepUpdate_only (s : State) (p : Nat) :
    OnlyPwr (State.keepUpdate s p) s := by
  have only1 := @State.setPort_only
  simp [only1, State.keepUpdate, OnlyPwr]

theorem State.attachPower_only (s : State) (p : Nat) :
    OnlyPwrHostOut (State.attachPower s p) s := by
  have only1 := @State.keepUpdate_only
  have only2 := @State.pwrEvent_only
  have only3 := @State.setPort_only
  have only4 := @State.tryCaps_only
  simp [only1, only2, only3, only4, State.attachPower, OnlyPwrHostOut]

theorem State.backToAttaching_only (s : State) (p : Nat) :
    OnlyPwrOut (State.backToAttaching s p) s := by
  have only1 := @State.convIdle_only
  have only2 := @State.setPort_only
  simp [only1, only2, State.backToAttaching, OnlyPwrOut]

theorem State.powerFault_only (s : State) (p cause reason : Nat) :
    OnlyPwrHostOut (State.powerFault s p cause reason) s := by
  have only1 := @State.convIdle_only
  have only2 := @State.endContract_only
  have only3 := @State.endSwapCmd_only
  have only4 := @State.modPort_only
  have only5 := @State.pwrEvent_only
  have only6 := @State.sbPush_only
  have only7 := @State.setPort_only
  simp [only1, only2, only3, only4, only5, only6, only7, State.powerFault, OnlyPwrHostOut]

theorem State.presenceLost_only (s : State) (p : Nat) :
    OnlyPwrHostOut (State.presenceLost s p) s := by
  have only1 := @State.convIdle_only
  have only2 := @State.endContract_only
  have only3 := @State.endSwapCmd_only
  have only4 := @State.modPort_only
  have only5 := @State.pwrEvent_only
  have only6 := @State.setPort_only
  simp [only1, only2, only3, only4, only5, only6, State.presenceLost, OnlyPwrHostOut]

theorem State.sbLost_only (s : State) (p l : Nat) :
    OnlyPwrHostOut (State.sbLost s p l) s := by
  have only1 := @State.modPort_only
  have only2 := @State.presenceLost_only
  simp [only1, only2, State.sbLost, OnlyPwrHostOut]

theorem State.tryArm_only (s : State) (p : Nat) :
    OnlyPwrHostOut (State.tryArm s p) s := by
  have only1 := @State.endSwapCmd_only
  have only2 := @State.setPort_only
  simp [only1, only2, State.tryArm, OnlyPwrHostOut]

theorem State.acked_only (s : State) (p l : Nat) (f : SbFrame) :
    OnlyPwrHostOut (State.acked s p l f) s := by
  have only1 := @State.endContract_only
  have only2 := @State.modPort_only
  have only3 := @State.tryArm_only
  generalize hh : (State.acked s p l f) = r
  unfold State.acked at hh
  try dsimp only at hh
  repeat' first | split at hh
  all_goals subst hh
  all_goals simp [only1, only2, only3, OnlyPwrHostOut]

theorem State.sbHeld_only (s : State) (p l : Nat) :
    OnlyPwr (State.sbHeld s p l) s := by
  have only1 := @State.modPort_only
  have only2 := @State.pushIdent_only
  simp [only1, only2, State.sbHeld, OnlyPwr]

theorem State.sbDiscard_only (s : State) (p : Nat) (f : SbFrame) :
    OnlyPwr (State.sbDiscard s p f) s := by
  have only1 := @State.sbHeld_only
  generalize hh : (State.sbDiscard s p f) = r
  unfold State.sbDiscard at hh
  try dsimp only at hh
  repeat' first | split at hh
  all_goals subst hh
  all_goals simp [only1, OnlyPwr]

theorem State.sbReceive_only (s : State) (p : Nat) (f : SbFrame) :
    OnlyPwrHostOut (State.sbReceive s p f).1 s := by
  have only1 := @State.acked_only
  have only2 := @State.modPort_only
  have only3 := @State.pushIdent_only
  have only4 := @State.sbHeld_only
  generalize hh : (State.sbReceive s p f) = r
  unfold State.sbReceive at hh
  try dsimp only at hh
  repeat' first | split at hh
  all_goals subst hh
  all_goals simp [only1, only2, only3, only4, OnlyPwrHostOut]

theorem effSidebandTurn_only (port : Nat) (s : State) :
    OnlyRetPwrOut (effSidebandTurn port s) s := by
  have only1 := @State.emit_only
  have only2 := @State.modPort_only
  have only3 := @State.sbSend_only
  have only4 := @State.setPort_only
  generalize hh : (effSidebandTurn port s) = r
  unfold effSidebandTurn at hh
  try dsimp only at hh
  repeat' first | split at hh
  all_goals subst hh
  all_goals simp [only1, only2, only3, only4, OnlyRetPwrOut]

theorem effIdleFrame_only (port : Nat) (f : SbFrame) (s : State) :
    OnlyPwrHostOut (effIdleFrame port f s) s := by
  have only1 := @State.sbDiscard_only
  have only2 := @State.sbReceive_only
  simp [only1, only2, effIdleFrame, OnlyPwrHostOut]

theorem State.exchangeFailed_only (s : State) (p typ : Nat) :
    OnlyPwrHostOut (State.exchangeFailed s p typ) s := by
  have only1 := @State.endContract_only
  have only2 := @State.endSwapCmd_only
  have only3 := @State.setPort_only
  simp [only1, only2, only3, State.exchangeFailed, OnlyPwrHostOut]

theorem effSidebandExchangeTimeout_only (port link : Nat) (s : State) :
    OnlyPwrHostOut (effSidebandExchangeTimeout port link s) s := by
  have only1 := @State.exchangeFailed_only
  have only2 := @State.modPort_only
  generalize hh : (effSidebandExchangeTimeout port link s) = r
  unfold effSidebandExchangeTimeout at hh
  try dsimp only at hh
  repeat' first | split at hh
  all_goals subst hh
  all_goals simp [only1, only2, OnlyPwrHostOut]

end Sys2Proof.Machine
end

