-- ==== Sys2Proof/Laws/KeepLinkOps.lean ====
section
/-! SUPPORT. For each operation of Machine/LinkOps.lean, the parts of the state that it leaves unchanged. -/

set_option linter.unusedTactic false
set_option linter.unreachableTactic false
set_option linter.unusedSimpArgs false

namespace Sys2Proof.Machine
open Sys2Proof

theorem State.linkEvent_only (s : State) (l old new status : Nat) (epNew epEnd : Bool) (cause : Nat) :
    OnlyHostOut (State.linkEvent s l old new status epNew epEnd cause) s := by
  have only1 := @State.report_only
  have only2 := @State.reportMgmt_only
  simp [only1, only2, State.linkEvent, State.causedBy, OnlyHostOut]

theorem State.endLinkCmd_only (s : State) (l st : Nat) :
    OnlyLinksHostOut (State.endLinkCmd s l st) s := by
  have only1 := @State.complete_only
  have only2 := @State.modLink_only
  generalize hh : (State.endLinkCmd s l st) = r
  unfold State.endLinkCmd at hh
  try dsimp only at hh
  repeat' first | split at hh
  all_goals subst hh
  all_goals simp [only1, only2, OnlyLinksHostOut]

theorem State.noTrain_only (s : State) (l status cause : Nat) (rep : Link → Bool) (mark : Link → Link) :
    OnlyLinksHostOut (State.noTrain s l status cause rep mark) s := by
  have only1 := @State.linkEvent_only
  have only2 := @State.modLink_only
  simp [only1, only2, State.noTrain, OnlyLinksHostOut]

theorem State.noteDenied_only (s : State) (l : Nat) :
    OnlyLinksHostOut (State.noteDenied s l) s := by
  have only1 := @State.modLink_only
  have only2 := @State.noTrain_only
  simp [only1, only2, State.noteDenied, OnlyLinksHostOut]

theorem State.noteLimit_only (s : State) (l : Nat) :
    OnlyLinksHostOut (State.noteLimit s l) s := by
  have only1 := @State.modLink_only
  have only2 := @State.noTrain_only
  simp [only1, only2, State.noteLimit, OnlyLinksHostOut]

theorem State.sendRate_only (s : State) (l limit : Nat) (announce : Bool) :
    OnlyPwrLinksHostOut (State.sendRate s l limit announce) s := by
  have only1 := @State.modLink_only
  have only2 := @State.noteDenied_only
  have only3 := @State.noteLimit_only
  have only4 := @State.sbPush_only
  generalize hh : (State.sendRate s l limit announce) = r
  unfold State.sendRate at hh
  try dsimp only at hh
  repeat' first | split at hh
  all_goals subst hh
  all_goals simp [only1, only2, only3, only4, OnlyPwrLinksHostOut]

theorem State.newAttempt_only (s : State) (l limit : Nat) (announce : Bool) :
    OnlyPwrLinksHostOut (State.newAttempt s l limit announce) s := by
  have only1 := @State.modLink_only
  have only2 := @State.sendRate_only
  simp [only1, only2, State.newAttempt, OnlyPwrLinksHostOut]

theorem State.agree_only (s : State) (l : Nat) :
    OnlyPwrLinksHostOut (State.agree s l) s := by
  have only1 := @State.linkEvent_only
  have only2 := @State.modLink_only
  have only3 := @State.newAttempt_only
  have only4 := @State.noteLimit_only
  generalize hh : (State.agree s l) = r
  unfold State.agree at hh
  try dsimp only at hh
  repeat' first | split at hh
  all_goals subst hh
  all_goals simp [only1, only2, only3, only4, OnlyPwrLinksHostOut]

theorem State.trainFail_only (s : State) (l : Nat) :
    OnlyPwrLinksHostOut (State.trainFail s l) s := by
  have only1 := @State.endLinkCmd_only
  have only2 := @State.linkEvent_only
  have only3 := @State.modLink_only
  have only4 := @State.newAttempt_only
  simp [only1, only2, only3, only4, State.trainFail, OnlyPwrLinksHostOut]

theorem State.requestRetrain_only (s : State) (l cause : Nat) :
    OnlyPwrLinksHostOut (State.requestRetrain s l cause) s := by
  have only1 := @State.endLinkCmd_only
  have only2 := @State.modLink_only
  have only3 := @State.newAttempt_only
  have only4 := @State.noteLimit_only
  simp [only1, only2, only3, only4, State.requestRetrain, OnlyPwrLinksHostOut]

theorem State.joinRetrain_only (s : State) (l : Nat) (c : Cmd) :
    OnlyPwrLinksHostOut (State.joinRetrain s l c) s := by
  have only1 := @State.modLink_only
  have only2 := @State.newAttempt_only
  have only3 := @State.requestRetrain_only
  simp [only1, only2, only3, State.joinRetrain, OnlyPwrLinksHostOut]

theorem State.fieldMoves_only (s : State) :
    OnlyPwrLinksHostOut (State.fieldMoves s) s := by
  have only1 := @State.modLink_only
  have only2 := @State.requestRetrain_only
  have only3 := @State.sendRate_only
  simp [only1, only2, only3, State.fieldMoves, OnlyPwrLinksHostOut]

theorem State.sendSym_only (s : State) (l : Nat) (x : LaneSym) :
    OnlyOut (State.sendSym s l x) s := by
  have only1 := @State.emit_only
  simp [only1, State.sendSym, OnlyOut]

theorem State.spoilExchange_only (s : State) (l : Nat) :
    OnlyLinksTime (State.spoilExchange s l) s := by
  have only1 := @State.modLink_only
  simp [only1, State.spoilExchange, OnlyLinksTime]

theorem State.waveViols_only (s : State) (l : Nat) (w : Wave) :
    OnlyLinksTime (State.waveViols s l w) s := by
  have only1 := @State.modLink_only
  have only2 := @State.spoilExchange_only
  simp [only1, only2, State.waveViols, OnlyLinksTime]

theorem State.takeLcp_only (s : State) (l : Nat) (w : Wave) :
    OnlyLinksTime (State.takeLcp s l w).1 s := by
  have only1 := @State.modLink_only
  have only2 := @State.waveViols_only
  generalize hh : (State.takeLcp s l w).1 = r
  unfold State.takeLcp at hh
  try dsimp only at hh
  repeat' first | split at hh
  all_goals subst hh
  all_goals simp [only1, only2, OnlyLinksTime]

theorem State.sendPkt_only (s : State) (l : Nat) (p : TxPkt) :
    OnlyOut (State.sendPkt s l p) s := by
  have only1 := @State.emit_only
  simp [only1, State.sendPkt, OnlyOut]

theorem State.txNew_only (s : State) (l : Nat) (p : TxPkt) :
    OnlyLinksOut (State.txNew s l p) s := by
  have only1 := @State.emit_only
  have only2 := @State.sendPkt_only
  have only3 := @State.setLink_only
  simp [only1, only2, only3, State.txNew, OnlyLinksOut]

theorem State.sendFc_only (s : State) (l : Nat) (init hi : Bool) :
    OnlyLinksOut (State.sendFc s l init hi) s := by
  have only1 := @State.emit_only
  have only2 := @State.sendSym_only
  have only3 := @State.setLink_only
  simp [only1, only2, only3, State.sendFc, OnlyLinksOut]

theorem State.wakeTx_only (s : State) (l : Nat) :
    OnlyLinksOut (State.wakeTx s l) s := by
  have only1 := @State.emit_only
  have only2 := @State.modLink_only
  have only3 := @State.sendSym_only
  simp [only1, only2, only3, State.wakeTx, OnlyLinksOut]

theorem State.freeCredits_only (s : State) (l tc n : Nat) :
    OnlyLinksOut (State.freeCredits s l tc n) s := by
  have only1 := @State.sendFc_only
  have only2 := @State.setLink_only
  have only3 := @State.wakeTx_only
  simp [only1, only2, only3, State.freeCredits, OnlyLinksOut]

theorem State.leftHop_only (s : State) (q : QPkt) :
    OnlyLinksOut (State.leftHop s q) s := by
  have only1 := @State.freeCredits_only
  generalize hh : (State.leftHop s q) = r
  unfold State.leftHop at hh
  try dsimp only at hh
  repeat' first | split at hh
  all_goals subst hh
  all_goals simp [only1, OnlyLinksOut]

theorem State.exitDrain_only (s : State) (unit : Nat) (y0 : Nat) :
    OnlyLinksTreeOut (State.exitDrain s unit y0) s := by
  have only1 := @State.deliverPkt_only
  have only2 := @State.leftHop_only
  induction y0 generalizing s with
  | zero => simp [State.exitDrain, OnlyLinksTreeOut]
  | succ n ih =>
    generalize hh : State.exitDrain s unit (n + 1) = r
    unfold State.exitDrain at hh
    try dsimp only at hh
    repeat' split at hh
    all_goals subst hh
    all_goals simp [only1, only2, OnlyLinksTreeOut, ih]


theorem State.exitGo_only (s : State) (unit : Nat) :
    OnlyLinksTreeOut (State.exitGo s unit) s := by
  have only1 := @State.exitDrain_only
  simp [only1, State.exitGo, OnlyLinksTreeOut]

theorem State.macGo_only (s : State) (m : Nat) :
    OnlyLinksTreeOut (State.macGo s m) s := by
  have only1 := @State.exitGo_only
  simp [only1, State.macGo, OnlyLinksTreeOut]

theorem State.startReplay_only (s : State) (l : Nat) (from' : BitVec 12) (byNak : Bool) :
    OnlyPwrLinksHostOut (State.startReplay s l from' byNak) s := by
  have only1 := @State.requestRetrain_only
  have only2 := @State.setLink_only
  simp [only1, only2, State.startReplay, OnlyPwrLinksHostOut]

end Sys2Proof.Machine
end

