-- ==== Sys2Proof/Laws/KeepSched.lean ====
section
/-! SUPPORT. For each operation of Machine/Sched.lean, the parts of the state that it leaves unchanged. -/

namespace Sys2Proof.Machine
open Sys2Proof

theorem State.schedAlert_only (s : State) (l reason status tid tc v1 v2 : Nat) (always : Bool) :
    OnlyLinksHostOut (State.schedAlert s l reason status tid tc v1 v2 always) s := by
  have only1 := @State.modLink_only
  have only2 := @State.report_only
  have only3 := @State.reportMgmt_only
  simp [only1, only2, only3, State.schedAlert, OnlyLinksHostOut]

theorem State.noteOver_only (s : State) (l : Nat) :
    OnlyLinksHostOut (State.noteOver s l) s := by
  have only1 := @State.modLink_only
  have only2 := @State.schedAlert_only
  simp [only1, only2, State.noteOver, OnlyLinksHostOut]

theorem State.sendQueued_only (s : State) (l : Nat) (q : QPkt) :
    OnlyLinksOut (State.sendQueued s l q) s := by
  have only1 := @State.leftHop_only
  have only2 := @State.modLink_only
  have only3 := @State.txNew_only
  simp [only1, only2, only3, State.sendQueued, OnlyLinksOut]

theorem State.debit_only (s : State) (l : Nat) (q : QPkt) (tier : Nat) :
    OnlyLinksSched (State.debit s l q tier) s := by
  have only1 := @State.modLink_only
  have only2 := @State.setBlink_only
  simp [only1, only2, State.debit, OnlyLinksSched]

theorem State.missed_only (s : State) (l t tc : Nat) :
    OnlyLinksHostOut (State.missed s l t tc) s := by
  have only1 := @State.modLink_only
  have only2 := @State.schedAlert_only
  generalize hh : (State.missed s l t tc) = r
  unfold State.missed at hh
  try dsimp only at hh
  repeat' first | split at hh
  all_goals subst hh
  all_goals simp [only1, only2, OnlyLinksHostOut]

theorem State.sendReplay_only (s : State) (l : Nat) :
    OnlyLinksOut (State.sendReplay s l) s := by
  have only1 := @State.emit_only
  have only2 := @State.sendPkt_only
  have only3 := @State.setLink_only
  generalize hh : (State.sendReplay s l) = r
  unfold State.sendReplay at hh
  try dsimp only at hh
  repeat' first | split at hh
  all_goals subst hh
  all_goals simp [only1, only2, only3, OnlyLinksOut]

theorem State.boundSent_only (s : State) (l t n : Nat) :
    OnlySched (State.boundSent s l t n) s := by
  have only1 := @State.setBlink_only
  simp [only1, State.boundSent, OnlySched]

theorem effSchedulerPick_only (link : Nat) (s : State) :
    OnlyLinksSchedHostOut (effSchedulerPick link s) s := by
  have only1 := @State.boundSent_only
  have only2 := @State.debit_only
  have only3 := @State.missed_only
  have only4 := @State.modLink_only
  have only5 := @State.schedAdvance_only
  have only6 := @State.sendQueued_only
  have only7 := @State.sendReplay_only
  generalize hh : (effSchedulerPick link s) = r
  unfold effSchedulerPick at hh
  try dsimp only at hh
  repeat' first | split at hh
  all_goals subst hh
  all_goals simp [only1, only2, only3, only4, only5, only6, only7, OnlyLinksSchedHostOut]

theorem effLossyAgeExpiry_only (link : Nat) (s : State) :
    OnlyLinksTreeSchedOut (effLossyAgeExpiry link s) s := by
  have only1 := @State.countDrop_only
  have only2 := @State.leftHop_only
  have only3 := @State.modLink_only
  have only4 := @State.schedAdvance_only
  simp [only1, only2, only3, only4, effLossyAgeExpiry, OnlyLinksTreeSchedOut]

theorem State.setGateIdx_only (s : State) (l : Nat) :
    OnlyLinksSched (State.setGateIdx s l) s := by
  have only1 := @State.modLink_only
  have only2 := @State.schedAdvance_only
  simp [only1, only2, State.setGateIdx, OnlyLinksSched]

theorem effGateEntryBoundary_only (link : Nat) (s : State) :
    OnlyLinksSched (effGateEntryBoundary link s) s := by
  have only1 := @State.setGateIdx_only
  simp [only1, effGateEntryBoundary, OnlyLinksSched]

theorem State.gateCommit_only (s : State) (l slot at' : Nat) :
    OnlyLinks (State.gateCommit s l slot at') s := by
  have only1 := @State.modLink_only
  simp [only1, State.gateCommit, OnlyLinks]

theorem State.gateSwitch_only (s : State) (link : Nat) :
    OnlyLinksSchedHostOut (State.gateSwitch s link) s := by
  have only1 := @State.modLink_only
  have only2 := @State.schedAdvance_only
  have only3 := @State.schedAlert_only
  have only4 := @State.setGateIdx_only
  simp [only1, only2, only3, only4, State.gateSwitch, OnlyLinksSchedHostOut]

theorem effGateSwitch_only (link : Nat) (s : State) :
    OnlyLinksSchedHostOut (effGateSwitch link s) s := by
  have only1 := @State.gateSwitch_only
  have only2 := @State.modLink_only
  have only3 := @State.schedAdvance_only
  have only4 := @State.schedAlert_only
  have only5 := @State.setGateIdx_only
  simp [only1, only2, only3, only4, only5, effGateSwitch, OnlyLinksSchedHostOut]

theorem State.modWindows_only (s : State) (l t : Nat) (f : Window → Window) :
    OnlyLinks (State.modWindows s l t f) s := by
  have only1 := @State.modLink_only
  simp [only1, State.modWindows, OnlyLinks]

theorem effWindowOpen_only (link tid : Nat) (s : State) :
    OnlyLinks (effWindowOpen link tid s) s := by
  have only1 := @State.modWindows_only
  simp [only1, effWindowOpen, OnlyLinks]

theorem effWindowClose_only (link tid : Nat) (s : State) :
    OnlyLinks (effWindowClose link tid s) s := by
  have only1 := @State.modWindows_only
  simp [only1, effWindowClose, OnlyLinks]

theorem effWindowEffect_only (tid : Nat) (s : State) :
    OnlyLinksSched (effWindowEffect tid s) s := by
  have only1 := @State.modLink_only
  have only2 := @State.schedAdvance_only
  simp [only1, only2, effWindowEffect, OnlyLinksSched]

theorem effCreditIntervalEnd_only (link : Nat) (s : State) :
    OnlyLinksSchedHostOut (effCreditIntervalEnd link s) s := by
  have only1 := @State.noteOver_only
  have only2 := @State.schedAdvance_only
  have only3 := @State.schedAlert_only
  have only4 := @State.setBlink_only
  generalize hh : (effCreditIntervalEnd link s) = r
  unfold effCreditIntervalEnd at hh
  try dsimp only at hh
  repeat' first | split at hh
  all_goals subst hh
  all_goals simp [only1, only2, only3, only4, OnlyLinksSchedHostOut]

theorem State.setClass_only (s : State) (c : Cmd) (l : Nat) :
    OnlyLinksSched (State.setClass s c l) s := by
  have only1 := @State.modLink_only
  have only2 := @State.schedAdvance_only
  simp [only1, only2, State.setClass, OnlyLinksSched]

end Sys2Proof.Machine
end

