-- ==== Sys2Proof/Laws/KeepUsb.lean ====
section
/-! SUPPORT. For each operation of Machine/Usb.lean, the parts of the state that it leaves unchanged. -/

set_option linter.unusedTactic false
set_option linter.unreachableTactic false
set_option linter.unusedSimpArgs false

namespace Sys2Proof.Machine
open Sys2Proof

theorem State.setUport_only (s : State) (p : Nat) (u : UPort) :
    OnlyUsb (State.setUport s p u) s := by
  simp [State.setUport, OnlyUsb]

theorem State.modUport_only (s : State) (p : Nat) (f : UPort → UPort) :
    OnlyUsb (State.modUport s p f) s := by
  have only1 := @State.setUport_only
  simp [only1, State.modUport, OnlyUsb]

theorem State.usbCount_only (s : State) (p i n : Nat) :
    OnlyUsb (State.usbCount s p i n) s := by
  have only1 := @State.modUport_only
  simp [only1, State.usbCount, OnlyUsb]

theorem State.usbEvent_only (s : State) (p reason status value : Nat) :
    OnlyHostOut (State.usbEvent s p reason status value) s := by
  have only1 := @State.reportHolder_only
  simp [only1, State.usbEvent, OnlyHostOut]

theorem State.raiseGen_only (s : State) (p : Nat) :
    OnlyUsb (State.raiseGen s p) s := by
  have only1 := @State.modUport_only
  simp [only1, State.raiseGen, OnlyUsb]

theorem State.clearAddrs_only (s : State) (p : Nat) :
    OnlyUsb (State.clearAddrs s p) s := by
  simp [State.clearAddrs, OnlyUsb]

theorem State.portMsg_only (s : State) (p code : Nat) :
    OnlyLinksTreeSchedOut (State.portMsg s p code) s := by
  have only1 := @State.sendTunnel_only
  generalize hh : (State.portMsg s p code) = r
  unfold State.portMsg at hh
  try dsimp only at hh
  repeat' first | split at hh
  all_goals subst hh
  all_goals simp [only1, OnlyLinksTreeSchedOut]

theorem State.setPipe_only (s : State) (p k : Nat) (x : Pipe) :
    OnlyUsb (State.setPipe s p k x) s := by
  have only1 := @State.modUport_only
  simp [only1, State.setPipe, OnlyUsb]

theorem State.pipeMsg_only (s : State) (p op addr ep : Nat) (dirIn : Bool) (x : Pipe) (count code mframe : Nat) (es : List (Nat × List Byte)) :
    OnlyLinksTreeSchedOut (State.pipeMsg s p op addr ep dirIn x count code mframe es) s := by
  have only1 := @State.sendTunnel_only
  generalize hh : (State.pipeMsg s p op addr ep dirIn x count code mframe es) = r
  unfold State.pipeMsg at hh
  try dsimp only at hh
  repeat' first | split at hh
  all_goals subst hh
  all_goals simp [only1, OnlyLinksTreeSchedOut]

theorem State.proxyError_only (s : State) (p : Nat) :
    OnlyLinksTreeSchedHostUsbOut (State.proxyError s p) s := by
  have only1 := @State.emit_only
  have only2 := @State.modUport_only
  have only3 := @State.portMsg_only
  have only4 := @State.raiseGen_only
  have only5 := @State.usbCount_only
  have only6 := @State.usbEvent_only
  simp [only1, only2, only3, only4, only5, only6, State.proxyError, OnlyLinksTreeSchedHostUsbOut]

theorem State.learnSetup_only (s : State) (t : UsbTok) (p : Nat) (bytes : List Byte) :
    OnlyUsb (State.learnSetup s t p bytes) s := by
  simp [State.learnSetup, OnlyUsb]

theorem effUsbSetupToken_only (t : UsbTok) (bytes : List Byte) (s : State) :
    OnlyLinksTreeSchedUsbOut (effUsbSetupToken t bytes s) s := by
  have only1 := @State.emit_only
  have only2 := @State.learnSetup_only
  have only3 := @State.pipeMsg_only
  have only4 := @State.setPipe_only
  simp [only1, only2, only3, only4, effUsbSetupToken, State.serve, OnlyLinksTreeSchedUsbOut]

theorem State.resetToggles_only (s : State) (p addr : Nat) (only : Option Nat) :
    OnlyUsb (State.resetToggles s p addr only) s := by
  have only1 := @State.setUport_only
  have only2 := @State.usbCount_only
  simp [only1, only2, State.resetToggles, OnlyUsb]

theorem State.statusDone_only (s : State) (p addr : Nat) (setup : List Byte) (near : Bool) :
    OnlyUsb (State.statusDone s p addr setup near) s := by
  have only1 := @State.resetToggles_only
  generalize hh : (State.statusDone s p addr setup near) = r
  unfold State.statusDone at hh
  try dsimp only at hh
  repeat' first | split at hh
  all_goals subst hh
  all_goals simp [only1, OnlyUsb]

theorem State.flushOut_only (s : State) (p addr ep mframe : Nat) (k : Nat) :
    OnlyLinksTreeSchedUsbOut (State.flushOut s p addr ep mframe k) s := by
  have only1 := @State.pipeMsg_only
  have only2 := @State.setPipe_only
  simp [only1, only2, State.flushOut, OnlyLinksTreeSchedUsbOut]

theorem State.outData_only (s : State) (t : UsbTok) (p k pid : Nat) (bytes : List Byte) (x : Pipe) :
    OnlyLinksTreeSchedUsbOut (State.outData s t p k pid bytes x) s := by
  have only1 := @State.emit_only
  have only2 := @State.flushOut_only
  have only3 := @State.pipeMsg_only
  have only4 := @State.setPipe_only
  have only5 := @State.statusDone_only
  generalize hh : (State.outData s t p k pid bytes x) = r
  unfold State.outData State.ctrlStatus at hh
  try dsimp only at hh
  repeat' first | split at hh | dsimp only at hh
  all_goals subst hh
  all_goals simp [only1, only2, only3, only4, only5, OnlyLinksTreeSchedUsbOut]

theorem State.localStatus_only (s : State) (p : Nat) (t : UsbTok) (k : Nat) :
    OnlyUsb (State.localStatus s p t k) s := by
  have only1 := @State.setPipe_only
  have only2 := @State.statusDone_only
  simp [only1, only2, State.localStatus, OnlyUsb]

theorem State.periodicOut_only (s : State) (t : UsbTok) (p k pid : Nat) (bytes : List Byte) (x : Pipe) :
    OnlyLinksTreeSchedUsbOut (State.periodicOut s t p k pid bytes x) s := by
  have only1 := @State.flushOut_only
  have only2 := @State.setPipe_only
  have only3 := @State.usbCount_only
  simp [only1, only2, only3, State.periodicOut, OnlyLinksTreeSchedUsbOut]

theorem State.flushIso_only (s : State) (p : Nat) :
    OnlyLinksTreeSchedUsbOut (State.flushIso s p) s := by
  have only1 := @State.flushOut_only
  have only2 := @State.setPipe_only
  have only3 := @State.usbCount_only
  simp [only1, only2, only3, State.flushIso, OnlyLinksTreeSchedUsbOut]

theorem State.outSplit_only (s : State) (t : UsbTok) (p k pid : Nat) (bytes : List Byte) (x : Pipe) :
    OnlyLinksTreeSchedUsbOut (State.outSplit s t p k pid bytes x) s := by
  have only1 := @State.complete_only
  have only2 := @State.emit_only
  have only3 := @State.periodicOut_only
  have only4 := @State.setPipe_only
  have onlyU := @State.usbCount_only
  unfold State.outSplit State.pipeGate
  repeat' (first | split | dsimp only)
  all_goals simp [onlyU, only1, only2, only3, only4, OnlyLinksTreeSchedUsbOut]

theorem effUsbOutToken_only (t : UsbTok) (pid : Nat) (bytes : List Byte) (s : State) :
    OnlyLinksTreeSchedUsbOut (effUsbOutToken t pid bytes s) s := by
  have only1 := @State.emit_only
  have only2 := @State.flushOut_only
  have only3 := @State.localStatus_only
  have only4 := @State.outData_only
  have only5 := @State.outSplit_only
  have only6 := @State.periodicOut_only
  have only7 := @State.setPipe_only
  have only8 := @State.usbCount_only
  simp [only1, only2, only3, only4, only5, only6, only7, only8, effUsbOutToken, State.serve, State.pipeGate, OnlyLinksTreeSchedUsbOut]

theorem effUsbPingToken_only (t : UsbTok) (s : State) :
    OnlyUsbOut (effUsbPingToken t s) s := by
  have only1 := @State.emit_only
  have only2 := @State.setPipe_only
  have only3 := @State.usbCount_only
  simp [only1, only2, only3, effUsbPingToken, State.serve, State.pipeGate, OnlyUsbOut]

theorem State.grantIn_only (s : State) (t : UsbTok) (p k kind : Nat) :
    OnlyLinksTreeSchedUsbOutFree (State.grantIn s t p k kind) s := by
  have only1 := @State.drew_only
  have only2 := @State.pipeMsg_only
  have only3 := @State.setPipe_only
  simp [only1, only2, only3, State.grantIn, OnlyLinksTreeSchedUsbOutFree]

theorem State.inIso_only (s : State) (t : UsbTok) (p k : Nat) :
    OnlyLinksTreeSchedUsbOutFree (State.inIso s t p k) s := by
  have only1 := @State.emit_only
  have only2 := @State.grantIn_only
  have only3 := @State.modUport_only
  have only4 := @State.setPipe_only
  have only5 := @State.usbCount_only
  generalize hh : (State.inIso s t p k) = r
  unfold State.inIso at hh
  try dsimp only at hh
  repeat' first | split at hh
  all_goals subst hh
  all_goals simp [only1, only2, only3, only4, only5, OnlyLinksTreeSchedUsbOutFree]

theorem State.inTaken_only (s : State) (t : UsbTok) (p k : Nat) (rest : List (Nat × List Byte)) :
    OnlyLinksTreeSchedUsbOutFree (State.inTaken s t p k rest) s := by
  have only1 := @State.grantIn_only
  have only2 := @State.setPipe_only
  simp [only1, only2, State.inTaken, OnlyLinksTreeSchedUsbOutFree]

theorem State.inData_only (s : State) (t : UsbTok) (p k : Nat) (acked : Bool) :
    OnlyLinksTreeSchedUsbOutFree (State.inData s t p k acked) s := by
  have only1 := @State.emit_only
  have only2 := @State.grantIn_only
  have only3 := @State.inTaken_only
  have only4 := @State.setPipe_only
  have only5 := @State.statusDone_only
  generalize hh : (State.inData s t p k acked) = r
  unfold State.inData State.ctrlStatus at hh
  try dsimp only at hh
  repeat' first | split at hh | dsimp only at hh
  all_goals subst hh
  all_goals simp [only1, only2, only3, only4, only5, OnlyLinksTreeSchedUsbOutFree]

theorem State.inSplit_only (s : State) (t : UsbTok) (p k : Nat) :
    OnlyLinksTreeSchedUsbOutFree (State.inSplit s t p k) s := by
  have only1 := @State.complete_only
  have only2 := @State.emit_only
  have only3 := @State.grantIn_only
  have only4 := @State.setPipe_only
  have onlyU := @State.usbCount_only
  unfold State.inSplit State.pipeGate
  repeat' (first | split | dsimp only)
  all_goals simp [onlyU, only1, only2, only3, only4, OnlyLinksTreeSchedUsbOutFree]

theorem effUsbInToken_only (t : UsbTok) (acked : Bool) (s : State) :
    OnlyLinksTreeSchedUsbOutFree (effUsbInToken t acked s) s := by
  have only1 := @State.emit_only
  have only2 := @State.inData_only
  have only3 := @State.inIso_only
  have only4 := @State.inSplit_only
  have only5 := @State.localStatus_only
  have only6 := @State.setPipe_only
  have only7 := @State.usbCount_only
  unfold effUsbInToken State.serve State.pipeGate
  repeat' (first | split | dsimp only)
  all_goals simp [only1, only2, only3, only4, only5, only6, only7, OnlyLinksTreeSchedUsbOutFree]

theorem State.usbPower_only (s : State) (p : Nat) (on : Bool) :
    OnlyLinksTreeSchedUsbOut (State.usbPower s p on) s := by
  have only1 := @State.portMsg_only
  have only2 := @State.raiseGen_only
  have only3 := @State.setUport_only
  simp [only1, only2, only3, State.usbPower, OnlyLinksTreeSchedUsbOut]

theorem State.farPower_only (s : State) (p : Nat) :
    OnlyLinksTreeSchedUsbOut (State.farPower s p) s := by
  have only1 := @State.portMsg_only
  have only2 := @State.raiseGen_only
  have only3 := @State.setUport_only
  simp [only1, only2, only3, State.farPower, OnlyLinksTreeSchedUsbOut]

theorem State.usbRepower_only (s : State) (p : Nat) :
    OnlyLinksTreeSchedUsbOut (State.usbRepower s p) s := by
  have only1 := @State.farPower_only
  have only2 := @State.usbPower_only
  simp [only1, only2, State.usbRepower, OnlyLinksTreeSchedUsbOut]

theorem State.ocDone_only (s : State) (p : Nat) :
    OnlyUsb (State.ocDone s p) s := by
  have only1 := @State.modUport_only
  simp [only1, State.ocDone, OnlyUsb]

theorem State.portFeature_only (s : State) (p : Nat) (set : Bool) (feature : Nat) :
    OnlyLinksTreeSchedUsbOut (State.portFeature s p set feature) s := by
  have only1 := @State.clearAddrs_only
  have only2 := @State.emit_only
  have only3 := @State.modUport_only
  have only4 := @State.ocDone_only
  have only5 := @State.portMsg_only
  have only6 := @State.raiseGen_only
  have only7 := @State.usbCount_only
  have only8 := @State.usbPower_only
  simp [only1, only2, only3, only4, only5, only6, only7, only8, State.portFeature, OnlyLinksTreeSchedUsbOut]

theorem effUsbHubRequest_only (bm req val idx len : Nat) (s : State) :
    OnlyLinksTreeSchedUsbOut (effUsbHubRequest bm req val idx len s) s := by
  have only1 := @State.emit_only
  have only2 := @State.portFeature_only
  generalize hh : (effUsbHubRequest bm req val idx len s) = r
  unfold effUsbHubRequest at hh
  try dsimp only at hh
  rcases hd : s.usbDescriptor (val / 256) (val % 256) with _ | d <;> simp only [hd] at hh
  all_goals repeat' split at hh
  all_goals subst hh
  all_goals simp [only1, only2, OnlyLinksTreeSchedUsbOut]

theorem State.busResetPort_only (s : State) (p : Nat) :
    OnlyLinksTreeSchedHostUsbOut (State.busResetPort s p) s := by
  have only1 := @State.portMsg_only
  have only2 := @State.raiseGen_only
  have only3 := @State.setUport_only
  have only4 := @State.usbEvent_only
  simp [only1, only2, only3, only4, State.busResetPort, OnlyLinksTreeSchedHostUsbOut]

theorem State.busReset_only (s : State) :
    OnlyLinksTreeSchedHostUsbOut (State.busReset s) s := by
  have only1 := @State.busResetPort_only
  have only2 := @State.usbCount_only
  simp [only1, only2, State.busReset, OnlyLinksTreeSchedHostUsbOut]

theorem State.pwrenOn_only (s : State) (p : Nat) :
    OnlyLinksTreeSchedUsbOut (State.pwrenOn s p) s := by
  have only1 := @State.usbPower_only
  simp [only1, State.pwrenOn, OnlyLinksTreeSchedUsbOut]

theorem State.usbAttach_only (s : State) :
    OnlyLinksTreeSchedUsbOut (State.usbAttach s) s := by
  have only1 := @State.pwrenOn_only
  simp [only1, State.usbAttach, OnlyLinksTreeSchedUsbOut]

theorem State.usbDetachAll_only (s : State) :
    OnlyUsb (State.usbDetachAll s) s := by
  simp [State.usbDetachAll, OnlyUsb]

theorem effVbusChange_only (valid : Bool) (s : State) :
    OnlyLinksTreeSchedHostUsbOut (effVbusChange valid s) s := by
  have only1 := @State.busReset_only
  have only2 := @State.usbAttach_only
  simp [only1, only2, effVbusChange, OnlyLinksTreeSchedHostUsbOut]

theorem State.sofRep_only (s : State) (u : UPort) (mframe : Nat) :
    OnlyLinksTreeSchedOut (State.sofRep s u mframe) s := by
  have only1 := @State.sendTunnel_only
  generalize hh : (State.sofRep s u mframe) = r
  unfold State.sofRep at hh
  try dsimp only at hh
  repeat' first | split at hh
  all_goals subst hh
  all_goals simp [only1, OnlyLinksTreeSchedOut]

theorem effUsbSof_only (mframe : Nat) (s : State) :
    OnlyLinksTreeSchedUsbOut (effUsbSof mframe s) s := by
  have only1 := @State.flushIso_only
  have only2 := @State.sofRep_only
  have only3 := @State.usbCount_only
  simp [only1, only2, only3, effUsbSof, OnlyLinksTreeSchedUsbOut]

theorem effOvercurrentFilter_only (p : Nat) (s : State) :
    OnlyLinksTreeSchedHostUsbOut (effOvercurrentFilter p s) s := by
  have only1 := @State.clearAddrs_only
  have only2 := @State.portMsg_only
  have only3 := @State.raiseGen_only
  have only4 := @State.setUport_only
  have only5 := @State.usbCount_only
  have only6 := @State.usbEvent_only
  simp [only1, only2, only3, only4, only5, only6, effOvercurrentFilter, OnlyLinksTreeSchedHostUsbOut]

theorem effUsbOcNRelease_only (p : Nat) (s : State) :
    OnlyLinksTreeSchedHostUsbOut (effUsbOcNRelease p s) s := by
  have only1 := @State.portMsg_only
  have only2 := @State.setUport_only
  have only3 := @State.usbEvent_only
  simp [only1, only2, only3, effUsbOcNRelease, OnlyLinksTreeSchedHostUsbOut]

theorem effConnectDebounce_only (p speed : Nat) (s : State) :
    OnlyLinksTreeSchedHostUsbOut (effConnectDebounce p speed s) s := by
  have only1 := @State.portMsg_only
  have only2 := @State.raiseGen_only
  have only3 := @State.setUport_only
  have only4 := @State.usbEvent_only
  simp [only1, only2, only3, only4, effConnectDebounce, OnlyLinksTreeSchedHostUsbOut]

theorem effDeviceDisconnect_only (p : Nat) (s : State) :
    OnlyLinksTreeSchedHostUsbOut (effDeviceDisconnect p s) s := by
  have only1 := @State.clearAddrs_only
  have only2 := @State.portMsg_only
  have only3 := @State.raiseGen_only
  have only4 := @State.setUport_only
  have only5 := @State.usbEvent_only
  simp [only1, only2, only3, only4, only5, effDeviceDisconnect, OnlyLinksTreeSchedHostUsbOut]

theorem State.resetDone_only (s : State) (p speed : Nat) :
    OnlyUsb (State.resetDone s p speed) s := by
  have only1 := @State.clearAddrs_only
  have only2 := @State.setUport_only
  simp [only1, only2, State.resetDone, OnlyUsb]

theorem effPortResetEnd_only (p speed : Nat) (s : State) :
    OnlyLinksTreeSchedUsbOut (effPortResetEnd p speed s) s := by
  have only1 := @State.portMsg_only
  have only2 := @State.resetDone_only
  have only3 := @State.setUport_only
  simp [only1, only2, only3, effPortResetEnd, OnlyLinksTreeSchedUsbOut]

theorem State.resumed_only (s : State) (p : Nat) :
    OnlyHostUsbOut (State.resumed s p) s := by
  have only1 := @State.modUport_only
  have only2 := @State.usbEvent_only
  simp [only1, only2, State.resumed, OnlyHostUsbOut]

theorem effResumeEnd_only (p : Nat) (s : State) :
    OnlyLinksTreeSchedHostUsbOut (effResumeEnd p s) s := by
  have only1 := @State.portMsg_only
  have only2 := @State.resumed_only
  have only3 := @State.setUport_only
  simp [only1, only2, only3, effResumeEnd, OnlyLinksTreeSchedHostUsbOut]

theorem effSuspendIdle_only (s : State) :
    OnlyLinksTreeSchedUsbOut (effSuspendIdle s) s := by
  have only1 := @State.emit_only
  have only2 := @State.portMsg_only
  have only3 := @State.setUport_only
  have only4 := @State.usbCount_only
  simp [only1, only2, only3, only4, effSuspendIdle, OnlyLinksTreeSchedUsbOut]

theorem effGlobalResume_only (s : State) :
    OnlyLinksTreeSchedUsbOut (effGlobalResume s) s := by
  have only1 := @State.portFeature_only
  simp [only1, effGlobalResume, OnlyLinksTreeSchedUsbOut]

theorem State.remoteWake_only (s : State) (p : Nat) :
    OnlyLinksTreeSchedHostUsbOut (State.remoteWake s p) s := by
  have only1 := @State.emit_only
  have only2 := @State.portMsg_only
  have only3 := @State.setUport_only
  have only4 := @State.usbCount_only
  have only5 := @State.usbEvent_only
  simp [only1, only2, only3, only4, only5, State.remoteWake, OnlyLinksTreeSchedHostUsbOut]

theorem effDeviceRemoteWake_only (p : Nat) (s : State) :
    OnlyLinksTreeSchedHostUsbOut (effDeviceRemoteWake p s) s := by
  have only1 := @State.portMsg_only
  have only2 := @State.remoteWake_only
  have only3 := @State.setUport_only
  have only4 := @State.usbCount_only
  simp [only1, only2, only3, only4, effDeviceRemoteWake, OnlyLinksTreeSchedHostUsbOut]

theorem State.usbAdopt_only (s : State) (tid : Nat) :
    OnlyUsb (State.usbAdopt s tid) s := by
  have only1 := @State.modUport_only
  generalize hh : (State.usbAdopt s tid) = r
  unfold State.usbAdopt at hh
  dsimp only at hh
  repeat' split at hh
  all_goals subst hh
  all_goals simp [only1, OnlyUsb]

theorem State.result_only (s : State) (p addr ep : Nat) (dirIn : Bool) (x : Pipe) (code : Nat) :
    OnlyLinksTreeSchedOut (State.result s p addr ep dirIn x code) s := by
  have only1 := @State.pipeMsg_only
  simp [only1, State.result, OnlyLinksTreeSchedOut]

theorem State.cancelAll_only (s : State) (p addr ep : Nat) (dirIn : Bool) (x : Pipe) (y0 : Nat) :
    OnlyLinksTreeSchedOut (State.cancelAll s p addr ep dirIn x y0) s := by
  have only1 := @State.result_only
  induction y0 generalizing s p addr ep dirIn x with
  | zero => simp [only1, State.cancelAll, OnlyLinksTreeSchedOut]
  | succ n ih =>
    generalize hh : State.cancelAll s p addr ep dirIn x (n + 1) = r
    unfold State.cancelAll at hh
    try dsimp only at hh
    repeat' split at hh
    all_goals subst hh
    all_goals simp [only1, OnlyLinksTreeSchedOut, ih]

theorem effUsbSetupMessage_only (tid : Nat) (bytes : List Byte) (s : State) :
    OnlyLinksTreeSchedHostUsbOut (effUsbSetupMessage tid bytes s) s := by
  have only1 := @State.cancelAll_only
  have only2 := @State.proxyError_only
  have only3 := @State.setPipe_only
  have only4 := @State.usbAdopt_only
  have only5 := @State.usbCount_only
  generalize hh : (effUsbSetupMessage tid bytes s) = r
  unfold effUsbSetupMessage State.farMsg at hh
  try dsimp only at hh
  repeat' first | split at hh | dsimp only at hh
  all_goals subst hh
  all_goals simp [only1, only2, only3, only4, only5, OnlyLinksTreeSchedHostUsbOut]

theorem State.refuseHalted_only (s : State) (p : Nat) (h : UsbHdr) (k : Nat) (x : Pipe) (n : Nat) :
    OnlyLinksTreeSchedUsbOut (State.refuseHalted s p h k x n) s := by
  have only1 := @State.result_only
  have only2 := @State.setPipe_only
  have only3 := @State.usbCount_only
  simp [only1, only2, only3, State.refuseHalted, OnlyLinksTreeSchedUsbOut]

theorem State.sendIn_only (s : State) (p addr ep k : Nat) (y : Pipe) (mf : Nat) :
    OnlyLinksTreeSchedUsbOut (State.sendIn s p addr ep k y mf) s := by
  have only1 := @State.pipeMsg_only
  have only2 := @State.setPipe_only
  simp [only1, only2, State.sendIn, OnlyLinksTreeSchedUsbOut]

theorem State.failNow_only (s : State) (p addr ep k : Nat) (dirIn ctrl : Bool) (x : Pipe) (code : Nat) :
    OnlyLinksTreeSchedUsbOut (State.failNow s p addr ep k dirIn ctrl x code) s := by
  have only1 := @State.cancelAll_only
  have only2 := @State.result_only
  have only3 := @State.setPipe_only
  have only4 := @State.usbCount_only
  simp [only1, only2, only3, only4, State.failNow, OnlyLinksTreeSchedUsbOut]

theorem State.failPipe_only (s : State) (p addr ep k : Nat) (dirIn ctrl : Bool) (x : Pipe) (code : Nat) :
    OnlyLinksTreeSchedUsbOut (State.failPipe s p addr ep k dirIn ctrl x code) s := by
  have only1 := @State.failNow_only
  have only2 := @State.sendIn_only
  have only3 := @State.setPipe_only
  simp [only1, only2, only3, State.failPipe, OnlyLinksTreeSchedUsbOut]

theorem State.joined_only (s : State) (p : Nat) (h : UsbHdr) (k : Nat) (y : Pipe) :
    OnlyLinksTreeSchedUsbOut (State.joined s p h k y) s := by
  have only1 := @State.failNow_only
  have only2 := @State.setPipe_only
  generalize hh : (State.joined s p h k y) = r
  unfold State.joined at hh
  try dsimp only at hh
  repeat' first | split at hh
  all_goals subst hh
  all_goals simp [only1, only2, OnlyLinksTreeSchedUsbOut]

theorem effOutdata_only (tid : Nat) (bytes : List Byte) (s : State) :
    OnlyLinksTreeSchedHostUsbOut (effOutdata tid bytes s) s := by
  have only1 := @State.joined_only
  have only2 := @State.proxyError_only
  have only3 := @State.refuseHalted_only
  have only4 := @State.setPipe_only
  have only5 := @State.usbAdopt_only
  have only6 := @State.usbCount_only
  generalize hh : (effOutdata tid bytes s) = r
  unfold effOutdata State.farMsg at hh
  try dsimp only at hh
  repeat' first | split at hh | dsimp only at hh
  all_goals subst hh
  all_goals simp [only1, only2, only3, only4, only5, only6, OnlyLinksTreeSchedHostUsbOut]

theorem effInreq_only (tid : Nat) (bytes : List Byte) (s : State) :
    OnlyLinksTreeSchedHostUsbOut (effInreq tid bytes s) s := by
  have only1 := @State.joined_only
  have only2 := @State.proxyError_only
  have only3 := @State.refuseHalted_only
  have only4 := @State.setPipe_only
  have only5 := @State.usbAdopt_only
  have only6 := @State.usbCount_only
  generalize hh : (effInreq tid bytes s) = r
  unfold effInreq State.farMsg at hh
  try dsimp only at hh
  repeat' first | split at hh | dsimp only at hh
  all_goals subst hh
  all_goals simp [only1, only2, only3, only4, only5, only6, OnlyLinksTreeSchedHostUsbOut]

theorem State.missOne_only (s : State) (p k : Nat) :
    OnlyLinksTreeSchedUsbOut (State.missOne s p k) s := by
  have only1 := @State.missed_only
  have only2 := @State.result_only
  have only3 := @State.setPipe_only
  have only4 := @State.usbCount_only
  simp [only1, only2, only3, only4, State.missOne, OnlyLinksTreeSchedUsbOut]

theorem State.missAll_only (s : State) (p : Nat) :
    OnlyLinksTreeSchedUsbOut (State.missAll s p) s := by
  have only1 := @State.missOne_only
  simp [only1, State.missAll, OnlyLinksTreeSchedUsbOut]

theorem effFarBusTransaction_only (p addr ep : Nat) (dirIn : Bool) (res pid : Nat) (data : List Byte) (s : State) :
    OnlyLinksTreeSchedUsbOut (effFarBusTransaction p addr ep dirIn res pid data s) s := by
  have only1 := @State.cancelAll_only
  have only2 := @State.failPipe_only
  have only3 := @State.result_only
  have only4 := @State.sendIn_only
  have only5 := @State.setPipe_only
  have only6 := @State.statusDone_only
  have only7 := @State.usbCount_only
  simp [only1, only2, only3, only4, only5, only6, only7, effFarBusTransaction, OnlyLinksTreeSchedUsbOut]

theorem State.mfEval_only (s : State) (p r h : Nat) :
    OnlyLinksTreeSchedUsbOut (State.mfEval s p r h) s := by
  have only1 := @State.portMsg_only
  have only2 := @State.setUport_only
  simp [only1, only2, State.mfEval, OnlyLinksTreeSchedUsbOut]

theorem State.farSof_only (s : State) (p : Nat) :
    OnlyOut (State.farSof s p) s := by
  have only1 := @State.emit_only
  simp [only1, State.farSof, OnlyOut]

theorem effMicroframeStart_only (p : Nat) (s : State) :
    OnlyLinksTreeSchedUsbOut (effMicroframeStart p s) s := by
  have only1 := @State.emit_only
  have only2 := @State.farSof_only
  have only3 := @State.mfEval_only
  have only4 := @State.missAll_only
  have only5 := @State.portMsg_only
  have only6 := @State.setUport_only
  generalize hh : (effMicroframeStart p s) = r
  unfold effMicroframeStart at hh
  try dsimp only at hh
  repeat' first | split at hh
  all_goals subst hh
  all_goals simp [only1, only2, only3, only4, only5, only6, OnlyLinksTreeSchedUsbOut]

theorem effIndata_only (tid : Nat) (bytes : List Byte) (s : State) :
    OnlyLinksTreeSchedHostUsbOut (effIndata tid bytes s) s := by
  have only1 := @State.proxyError_only
  have only2 := @State.setPipe_only
  have only3 := @State.usbCount_only
  generalize hh : (effIndata tid bytes s) = r
  unfold effIndata State.nearMsg at hh
  try dsimp only at hh
  repeat' first | split at hh | dsimp only at hh
  all_goals subst hh
  all_goals simp [only1, only2, only3, OnlyLinksTreeSchedHostUsbOut]

theorem effResult_only (tid : Nat) (bytes : List Byte) (s : State) :
    OnlyLinksTreeSchedHostUsbOut (effResult tid bytes s) s := by
  have only1 := @State.flushOut_only
  have only2 := @State.proxyError_only
  have only3 := @State.setPipe_only
  have only4 := @State.usbCount_only
  generalize hh : (effResult tid bytes s) = r
  unfold effResult State.nearMsg at hh
  try dsimp only at hh
  repeat' first | split at hh | dsimp only at hh
  all_goals subst hh
  all_goals simp [only1, only2, only3, only4, OnlyLinksTreeSchedHostUsbOut]

theorem State.farOrder_only (s : State) (p code gen : Nat) :
    OnlyLinksTreeSchedUsbOut (State.farOrder s p code gen) s := by
  have only1 := @State.emit_only
  have only2 := @State.farPower_only
  have only3 := @State.modUport_only
  have only4 := @State.ocDone_only
  have only5 := @State.portMsg_only
  have only6 := @State.setUport_only
  have only7 := @State.usbCount_only
  simp [only1, only2, only3, only4, only5, only6, only7, State.farOrder, OnlyLinksTreeSchedUsbOut]

theorem State.nearReport_only (s : State) (p code speed : Nat) :
    OnlyLinksTreeSchedHostUsbOut (State.nearReport s p code speed) s := by
  have only1 := @State.clearAddrs_only
  have only2 := @State.raiseGen_only
  have only3 := @State.remoteWake_only
  have only4 := @State.resetDone_only
  have only5 := @State.resumed_only
  have only6 := @State.setUport_only
  have only7 := @State.usbCount_only
  have only8 := @State.usbEvent_only
  simp [only1, only2, only3, only4, only5, only6, only7, only8, State.nearReport, OnlyLinksTreeSchedHostUsbOut]

theorem State.takeFar_only (s : State) (p src tid : Nat) :
    OnlyUsb (State.takeFar s p src tid) s := by
  have only1 := @State.clearAddrs_only
  have only2 := @State.setUport_only
  simp [only1, only2, State.takeFar, OnlyUsb]

theorem effPortMessage_only (tid src : Nat) (bytes : List Byte) (s : State) :
    OnlyLinksTreeSchedHostUsbOut (effPortMessage tid src bytes s) s := by
  have only1 := @State.farOrder_only
  have only2 := @State.nearReport_only
  have only3 := @State.setUport_only
  have only4 := @State.takeFar_only
  have only5 := @State.usbCount_only
  generalize hh : (effPortMessage tid src bytes s) = r
  unfold effPortMessage at hh
  try dsimp only at hh
  repeat' first | split at hh
  all_goals subst hh
  all_goals simp [only1, only2, only3, only4, only5, OnlyLinksTreeSchedHostUsbOut]

theorem effSofrep_only (tid : Nat) (bytes : List Byte) (s : State) :
    OnlyUsb (effSofrep tid bytes s) s := by
  have only1 := @State.setUport_only
  have only2 := @State.usbAdopt_only
  have only3 := @State.usbCount_only
  generalize hh : (effSofrep tid bytes s) = r
  unfold effSofrep at hh
  try dsimp only at hh
  repeat' first | split at hh
  all_goals subst hh
  all_goals simp [only1, only2, only3, OnlyUsb]

theorem State.usbRelease_only (s : State) (tid : Nat) :
    OnlyUsb (State.usbRelease s tid) s := by
  have only1 := @State.setUport_only
  generalize hh : (State.usbRelease s tid) = r
  unfold State.usbRelease at hh
  dsimp only at hh
  repeat' split at hh
  all_goals subst hh
  all_goals simp [only1, OnlyUsb]

theorem State.usbTunnelLost_only (s : State) (tid : Nat) :
    OnlyHostUsbOut (State.usbTunnelLost s tid) s := by
  have only1 := @State.clearAddrs_only
  have only2 := @State.emit_only
  have only3 := @State.raiseGen_only
  have only4 := @State.setUport_only
  have only5 := @State.usbEvent_only
  generalize hh : (State.usbTunnelLost s tid) = r
  unfold State.usbTunnelLost at hh
  try dsimp only at hh
  repeat' first | split at hh
  all_goals subst hh
  all_goals simp [only1, only2, only3, only4, only5, OnlyHostUsbOut]

theorem effPowerCycleEnd_only (p : Nat) (s : State) :
    OnlyLinksTreeSchedUsbOut (effPowerCycleEnd p s) s := by
  have only1 := @State.setUport_only
  have only2 := @State.usbPower_only
  have only3 := @State.usbRepower_only
  simp [only1, only2, only3, effPowerCycleEnd, OnlyLinksTreeSchedUsbOut]

end Sys2Proof.Machine
end

