-- ==== Sys2Proof/Laws/KeepFlags.lean ====
section
/-! SUPPORT. For each operation of Machine/Flags.lean, the parts of the state that it leaves unchanged. -/

namespace Sys2Proof.Machine
open Sys2Proof

theorem State.timePinEdges_only (s t : State) :
    OnlyOut (State.timePinEdges s t) t := by
  have only1 := @State.emit_only
  simp [only1, State.timePinEdges, OnlyOut]


theorem State.outputsLow_only (s : State) :
    OnlyOut (State.outputsLow s) s := by
  have only1 := @State.emit_only
  simp [only1, State.outputsLow, OnlyOut]

theorem State.errReport_only (s : State) (r : ErrRep) :
    OnlyHostOut (State.errReport s r) s := by
  have only1 := @State.reportBoth_only
  simp [only1, State.errReport, OnlyHostOut]

theorem State.queueErr_only (s : State) (k q code : Nat) :
    OnlyHostOut (State.queueErr s k q code) s := by
  have only1 := @State.errReport_only
  have only2 := @State.report_only
  have only3 := @State.reportMgmt_only
  simp [only1, only2, only3, State.queueErr, OnlyHostOut]

end Sys2Proof.Machine
end

