-- ==== Sys2Proof/Laws/KeepNetCan.lean ====
section
/-! SUPPORT. For each operation of Machine/NetCan.lean, the parts of the state that it leaves unchanged. -/

namespace Sys2Proof.Machine
open Sys2Proof

theorem State.macCount_only (s : State) (m i n : Nat) :
    OnlyNet (State.macCount s m i n) s := by
  have only1 := @State.modMac_only
  simp [only1, State.macCount, OnlyNet]

theorem State.netAlert_only (s : State) (src kind idx reason st tid v1 v2 v3 : Nat) :
    OnlyHostOut (State.netAlert s src kind idx reason st tid v1 v2 v3) s := by
  have only1 := @State.reportHolder_only
  simp [only1, State.netAlert, OnlyHostOut]

theorem State.netAlertOwner_only (s : State) (src tid reason v1 v2 v3 : Nat) :
    OnlyHostOut (State.netAlertOwner s src tid reason v1 v2 v3) s := by
  have only1 := @State.report_only
  simp [only1, State.netAlertOwner, OnlyHostOut]

theorem State.macForget_only (s : State) (m : Nat) (gone : List (TxPkt × Nat)) :
    OnlyLinks (State.macForget s m gone) s := by
  have only1 := @State.modLink_only
  simp [only1, State.macForget, OnlyLinks]

theorem effMacFrameReceive_only (mac since : Nat) (fcsOk : Bool) (bytes : List Byte) (s : State) :
    OnlyLinksTreeSchedNetOut (effMacFrameReceive mac since fcsOk bytes s) s := by
  have only1 := @State.macCount_only
  have only2 := @State.sendTunnel_only
  generalize hh : (effMacFrameReceive mac since fcsOk bytes s) = r
  unfold effMacFrameReceive at hh
  try dsimp only at hh
  repeat' first | split at hh
  all_goals subst hh
  all_goals simp [only1, only2, OnlyLinksTreeSchedNetOut]

theorem effMacLinkChange_only (mac : Nat) (up : Bool) (speed : Nat) (ability : BitVec 16) (s : State) :
    OnlyHostNetOut (effMacLinkChange mac up speed ability s) s := by
  have only1 := @State.netAlert_only
  have only2 := @State.setMac_only
  simp [only1, only2, effMacLinkChange, OnlyHostNetOut]

theorem effPhyInterrupt_only (s : State) :
    OnlyHostNetOut (effPhyInterrupt s) s := by
  have only1 := @State.report_only
  have only2 := @State.reportMgmt_only
  simp [only1, only2, effPhyInterrupt, OnlyHostNetOut]

theorem effMacFrameTransmit_only (mac : Nat) (s : State) :
    OnlyLinksTreeHostNetOut (effMacFrameTransmit mac s) s := by
  have only1 := @State.emit_only
  have only2 := @State.macCount_only
  have only3 := @State.macGo_only
  have only4 := @State.netAlertOwner_only
  have only5 := @State.setMac_only
  generalize hh : (effMacFrameTransmit mac s) = r
  unfold effMacFrameTransmit at hh
  try dsimp only at hh
  repeat' first | split at hh
  all_goals subst hh
  all_goals simp [only1, only2, only3, only4, only5, OnlyLinksTreeHostNetOut]

theorem State.setRing_only (s : State) (k r : Nat) (g : Ring) :
    OnlyHost (State.setRing s k r g) s := by
  have only1 := @State.modSlice_only
  simp [only1, State.setRing, OnlyHost]

theorem State.ringWrite_only (s : State) (t : Nat) (bytes : List Byte) :
    OnlyTreeHostOut (State.ringWrite s t bytes) s := by
  have only1 := @State.countDrop_only
  have only2 := @State.emit_only
  have only3 := @State.netAlertOwner_only
  have only4 := @State.setRing_only
  generalize hh : (State.ringWrite s t bytes) = r
  unfold State.ringWrite at hh
  try dsimp only at hh
  repeat' first | split at hh
  all_goals subst hh
  all_goals simp [only1, only2, only3, only4, OnlyTreeHostOut]

theorem State.macQueue_only (s : State) (m tid : Nat) (lossy : Bool) (bytes : List Byte) :
    OnlyTreeNet (State.macQueue s m tid lossy bytes) s := by
  have only1 := @State.macCount_only
  have only2 := @State.setMac_only
  simp [only1, only2, State.macQueue, OnlyTreeNet]

theorem effNetMessage_only (tid : Nat) (bytes : List Byte) (s : State) :
    OnlyLinksTreeHostNetOut (effNetMessage tid bytes s) s := by
  have only1 := @State.countDrop_only
  have only2 := @State.macCount_only
  have only3 := @State.macGo_only
  have only4 := @State.macQueue_only
  have only5 := @State.ringWrite_only
  have only6 := @State.setMac_only
  simp [only1, only2, only3, only4, only5, only6, effNetMessage, OnlyLinksTreeHostNetOut]

theorem State.setCan_only (s : State) (n : Nat) (x : Can) :
    OnlyNet (State.setCan s n x) s := by
  simp [State.setCan, OnlyNet]

theorem State.modCan_only (s : State) (n : Nat) (f : Can → Can) :
    OnlyNet (State.modCan s n f) s := by
  have only1 := @State.setCan_only
  simp [only1, State.modCan, OnlyNet]

theorem State.canCount_only (s : State) (n i k : Nat) :
    OnlyNet (State.canCount s n i k) s := by
  have only1 := @State.modCan_only
  simp [only1, State.canCount, OnlyNet]

theorem State.canAlert_only (s : State) (n reason st v1 v2 v3 : Nat) :
    OnlyHostOut (State.canAlert s n reason st v1 v2 v3) s := by
  have only1 := @State.netAlert_only
  simp [only1, State.canAlert, OnlyHostOut]

theorem State.claimStart_only (s : State) (n : Nat) :
    OnlyNet (State.claimStart s n) s := by
  have only1 := @State.setCan_only
  simp [only1, State.claimStart, OnlyNet]

theorem State.claimSees_only (s : State) (n : Nat) (f : CanFrame) :
    OnlyHostNetOut (State.claimSees s n f) s := by
  have only1 := @State.canAlert_only
  have only2 := @State.setCan_only
  simp [only1, only2, State.claimSees, OnlyHostNetOut]

theorem State.recDown_only (s : State) (n : Nat) :
    OnlyNetFree (State.recDown s n) s := by
  have only1 := @State.drew_only
  have only2 := @State.setCan_only
  simp [only1, only2, State.recDown, OnlyNetFree]

theorem effCanFrameReceive_only (ctrl since : Nat) (w0 w1 : Word) (data : List Byte) (s : State) :
    OnlyLinksTreeSchedHostNetOutFree (effCanFrameReceive ctrl since w0 w1 data s) s := by
  have only1 := @State.canCount_only
  have only2 := @State.claimSees_only
  have only3 := @State.recDown_only
  have only4 := @State.sendTunnel_only
  have only5 := @State.setCan_only
  generalize hh : (effCanFrameReceive ctrl since w0 w1 data s) = r
  unfold effCanFrameReceive at hh
  try dsimp only at hh
  repeat' first | split at hh
  all_goals subst hh
  all_goals simp [only1, only2, only3, only4, only5, OnlyLinksTreeSchedHostNetOutFree]

theorem effAddressClaimSettle_only (ctrl : Nat) (s : State) :
    OnlyHostNetOut (effAddressClaimSettle ctrl s) s := by
  have only1 := @State.canAlert_only
  have only2 := @State.setCan_only
  simp [only1, only2, effAddressClaimSettle, OnlyHostNetOut]

theorem State.abortSends_only (s : State) (qs : List CanQ) :
    OnlyHostOut (State.abortSends s qs) s := by
  have only1 := @State.completeOpt_only
  simp [only1, State.abortSends, OnlyHostOut]

theorem State.canDropFd_only (s : State) (n : Nat) :
    OnlyHostNetOut (State.canDropFd s n) s := by
  have only1 := @State.abortSends_only
  have only2 := @State.canCount_only
  have only3 := @State.setCan_only
  simp [only1, only2, only3, State.canDropFd, OnlyHostNetOut]

theorem effCanBusIdle_only (ctrl : Nat) (s : State) :
    OnlyHostNetOut (effCanBusIdle ctrl s) s := by
  have only1 := @State.canCount_only
  have only2 := @State.canDropFd_only
  have only3 := @State.emit_only
  have only4 := @State.modCan_only
  have only5 := @State.setCan_only
  generalize hh : (effCanBusIdle ctrl s) = r
  unfold effCanBusIdle at hh
  try dsimp only at hh
  repeat' first | split at hh
  all_goals subst hh
  all_goals simp [only1, only2, only3, only4, only5, OnlyHostNetOut]

theorem effCanBusOff_only (ctrl : Nat) (s : State) :
    OnlyHostNetOut (effCanBusOff ctrl s) s := by
  have only1 := @State.abortSends_only
  have only2 := @State.canAlert_only
  have only3 := @State.canCount_only
  have only4 := @State.setCan_only
  simp [only1, only2, only3, only4, effCanBusOff, OnlyHostNetOut]

theorem State.canBusOn_only (s : State) (n : Nat) :
    OnlyHostNetOut (State.canBusOn s n) s := by
  have only1 := @State.canAlert_only
  have only2 := @State.claimStart_only
  have only3 := @State.modCan_only
  simp [only1, only2, only3, State.canBusOn, OnlyHostNetOut]

theorem effCanBusOffRecovery_only (ctrl : Nat) (s : State) :
    OnlyHostNetOut (effCanBusOffRecovery ctrl s) s := by
  have only1 := @State.canBusOn_only
  simp [only1, effCanBusOffRecovery, OnlyHostNetOut]

theorem effCanMessage_only (tid : Nat) (bytes : List Byte) (s : State) :
    OnlyTreeHostNetOut (effCanMessage tid bytes s) s := by
  have only1 := @State.canCount_only
  have only2 := @State.countDrop_only
  have only3 := @State.ringWrite_only
  have only4 := @State.setCan_only
  simp [only1, only2, only3, only4, effCanMessage, OnlyTreeHostNetOut]

theorem effCanFrameSent_only (ctrl since : Nat) (won : Bool) (s : State) :
    OnlyHostNetOut (effCanFrameSent ctrl since won s) s := by
  have only1 := @State.abortSends_only
  have only2 := @State.canCount_only
  have only3 := @State.claimSees_only
  have only4 := @State.complete_only
  have only5 := @State.setCan_only
  generalize hh : (effCanFrameSent ctrl since won s) = r
  unfold effCanFrameSent at hh
  try dsimp only at hh
  repeat' first | split at hh
  all_goals subst hh
  all_goals simp [only1, only2, only3, only4, only5, OnlyHostNetOut]

theorem effCanErrorPassive_only (ctrl txErr rxErr : Nat) (s : State) :
    OnlyHostNetOut (effCanErrorPassive ctrl txErr rxErr s) s := by
  have only1 := @State.canAlert_only
  have only2 := @State.setCan_only
  simp [only1, only2, effCanErrorPassive, OnlyHostNetOut]

theorem State.canTimed_only (s : State) (n : Nat) (f : CanFrame) (due : Nat) (cmd : Option Cmd) (owner : Nat × Nat) :
    OnlyHostNetOut (State.canTimed s n f due cmd owner).1 s := by
  have only1 := @State.canAlert_only
  have only2 := @State.canCount_only
  have only3 := @State.setCan_only
  generalize hh : (State.canTimed s n f due cmd owner).1 = r
  unfold State.canTimed at hh
  try dsimp only at hh
  repeat' first | split at hh
  all_goals subst hh
  all_goals simp [only1, only2, only3, OnlyHostNetOut]

theorem State.mdioStart_only (s : State) :
    OnlyOut (State.mdioStart s) s := by
  have only1 := @State.emit_only
  generalize hh : (State.mdioStart s) = r
  unfold State.mdioStart at hh
  try dsimp only at hh
  repeat' first | split at hh
  all_goals subst hh
  all_goals simp [only1, OnlyOut]

theorem effMdioAccessDone_only (data : Nat) (s : State) :
    OnlyHostNetOut (effMdioAccessDone data s) s := by
  have only1 := @State.complete_only
  have only2 := @State.mdioStart_only
  generalize hh : (effMdioAccessDone data s) = r
  unfold effMdioAccessDone at hh
  try dsimp only at hh
  repeat' first | split at hh
  all_goals subst hh
  all_goals simp [only1, only2, OnlyHostNetOut]

theorem State.macRestart_only (s : State) (m : Nat) :
    OnlyLinksTreeHostNetOut (State.macRestart s m) s := by
  have only1 := @State.macCount_only
  have only2 := @State.macForget_only
  have only3 := @State.macGo_only
  have only4 := @State.modLink_only
  have only5 := @State.netAlert_only
  have only6 := @State.setMac_only
  simp [only1, only2, only3, only4, only5, only6, State.macRestart, OnlyLinksTreeHostNetOut]

theorem State.macCfg_only (s : State) (m mode mtu inLat egLat : Nat) (an : Bool) :
    OnlyLinksTreeHostNetOut (State.macCfg s m mode mtu inLat egLat an) s := by
  have only1 := @State.macRestart_only
  have only2 := @State.setMac_only
  simp [only1, only2, State.macCfg, OnlyLinksTreeHostNetOut]

theorem State.ringCfg_only (s : State) (c : Cmd) :
    OnlyHostOutFree (State.ringCfg s c) s := by
  have only1 := @State.complete_only
  have only2 := @State.hopRecord_only
  have only3 := @State.setRing_only
  simp [only1, only2, only3, State.ringCfg, OnlyHostOutFree]

end Sys2Proof.Machine
end

