-- ==== Sys2Proof/Laws/KeepRegs.lean ====
section
/-! SUPPORT. For each operation of Machine/Regs.lean, the parts of the state that it leaves unchanged. -/

namespace Sys2Proof.Machine
open Sys2Proof

theorem State.rcClear_only (s : State) (off : Nat) :
    OnlyHost (State.rcClear s off) s := by
  have only1 := @State.modSlice_only
  simp [only1, State.rcClear, OnlyHost]

theorem State.setSq_only (s : State) (k q : Nat) (x : SubQ) :
    OnlyHost (State.setSq s k q x) s := by
  have only1 := @State.modSlice_only
  simp [only1, State.setSq, OnlyHost]

theorem State.sqErr_only (s : State) (k q code : Nat) :
    OnlyHostOut (State.sqErr s k q code) s := by
  have only1 := @State.queueErr_only
  have only2 := @State.setSq_only
  simp [only1, only2, State.sqErr, OnlyHostOut]

theorem State.sqTail_only (s : State) (k q v : Nat) :
    OnlyHostOut (State.sqTail s k q v) s := by
  have only1 := @State.setSq_only
  have only2 := @State.sqErr_only
  simp [only1, only2, State.sqTail, OnlyHostOut]

theorem State.sqSize_only (s : State) (k q v : Nat) :
    OnlyHostOut (State.sqSize s k q v) s := by
  have only1 := @State.setSq_only
  have only2 := @State.sqErr_only
  simp [only1, only2, State.sqSize, OnlyHostOut]

theorem State.evqSize_only (s : State) (k v : Nat) :
    OnlyHostOut (State.evqSize s k v) s := by
  have only1 := @State.flushHeld_only
  have only2 := @State.modSlice_only
  have only3 := @State.queueErr_only
  simp [only1, only2, only3, State.evqSize, OnlyHostOut]

theorem State.evqHead_only (s : State) (k v : Nat) :
    OnlyHostOut (State.evqHead s k v) s := by
  have only1 := @State.flushHeld_only
  have only2 := @State.queueErr_only
  have only3 := @State.setSlice_only
  simp [only1, only2, only3, State.evqHead, OnlyHostOut]

theorem State.intCtrl_only (s : State) (k v : Nat) :
    OnlyHostOut (State.intCtrl s k v) s := by
  have only1 := @State.sendInt_only
  have only2 := @State.setSlice_only
  simp [only1, only2, State.intCtrl, OnlyHostOut]

theorem State.sendSlots_only (s : State) (g : Ring) (slots : List (List Byte)) :
    OnlyLinksTreeSchedOut (State.sendSlots s g slots) s := by
  have only1 := @State.countDrop_only
  have only2 := @State.sendTunnel_only
  simp [only1, only2, State.sendSlots, OnlyLinksTreeSchedOut]

theorem State.sendPosted_only (s : State) (k : Nat) :
    OnlyLinksTreeSchedHostOut (State.sendPosted s k) s := by
  have only1 := @State.sendSlots_only
  have only2 := @State.setRing_only
  simp [only1, only2, State.sendPosted, OnlyLinksTreeSchedHostOut]

theorem State.freeSlots_only (s : State) (len : Nat) (y0 : Nat) :
    OnlyFree (State.freeSlots s len y0).2 s := by
  have only1 := @State.drew_only
  induction y0 generalizing s with
  | zero => simp [State.freeSlots, OnlyFree]
  | succ n ih => simp [only1, State.freeSlots, ih, OnlyFree]


theorem State.ringDb_only (s : State) (k r v : Nat) (slots : List (List Byte)) :
    OnlyLinksTreeSchedHostOutFree (State.ringDb s k r v slots) s := by
  have only1 := @State.countDrop_only
  have only2 := @State.emit_only
  have only3 := @State.freeSlots_only
  have only4 := @State.sendPosted_only
  have only5 := @State.sendTunnel_only
  have only6 := @State.setRing_only
  generalize hh : (State.ringDb s k r v slots) = r
  unfold State.ringDb at hh
  try dsimp only at hh
  repeat' first | split at hh | dsimp only at hh
  all_goals subst hh
  all_goals simp [only1, only2, only3, only4, only5, only6, OnlyLinksTreeSchedHostOutFree]


theorem State.pageWrite_only (s : State) (k off v : Nat) :
    OnlyLinksTreeSchedHostOutFree (State.pageWrite s k off v) s := by
  have only1 := @State.evqHead_only
  have only2 := @State.evqSize_only
  have only3 := @State.intCtrl_only
  have only4 := @State.ringDb_only
  have only5 := @State.setSlice_only
  have only6 := @State.setSq_only
  have only7 := @State.sqSize_only
  have only8 := @State.sqTail_only
  generalize hh : (State.pageWrite s k off v) = r
  unfold State.pageWrite at hh
  try dsimp only at hh
  repeat' first | split at hh
  all_goals subst hh
  all_goals simp [only1, only2, only3, only4, only5, only6, only7, only8, OnlyLinksTreeSchedHostOutFree]

theorem State.errsumWrite_only (s : State) (v : Nat) :
    OnlyErr (State.errsumWrite s v) s := by
  simp [State.errsumWrite, OnlyErr]

theorem State.mgWrite_only (s : State) (off v : Nat) :
    OnlyHostErr (State.mgWrite s off v) s := by
  have only1 := @State.errsumWrite_only
  generalize hh : (State.mgWrite s off v) = r
  unfold State.mgWrite at hh
  try dsimp only at hh
  repeat' first | split at hh
  all_goals subst hh
  all_goals simp [only1, OnlyHostErr]

theorem State.hostUr_only (s : State) (p tag : Nat) :
    OnlyOut (State.hostUr s p tag) s := by
  have only1 := @State.emit_only
  simp [only1, State.hostUr, OnlyOut]

theorem State.hostRegWrite_only (s : State) (p off v : Nat) :
    OnlyLinksTreeSchedHostErrOutFree (State.hostRegWrite s p off v) s := by
  have only1 := @State.mgWrite_only
  have only2 := @State.pageWrite_only
  simp [only1, only2, State.hostRegWrite, OnlyLinksTreeSchedHostErrOutFree]

theorem effSlRingDbWrite_only (port slice ring value : Nat) (slots : List (List Byte)) (s : State) :
    OnlyLinksTreeSchedHostOutFree (effSlRingDbWrite port slice ring value slots s) s := by
  have only1 := @State.ringDb_only
  simp [only1, effSlRingDbWrite, OnlyLinksTreeSchedHostOutFree]

theorem effMgTimeNsRead_only (port tag : Nat) (s : State) :
    OnlyHostOut (effMgTimeNsRead port tag s) s := by
  have only1 := @State.emit_only
  have only2 := @State.hostUr_only
  have only3 := @State.setHport_only
  simp [only1, only2, only3, effMgTimeNsRead, OnlyHostOut]

theorem effRcRegisterRead_only (port offset tag : Nat) (s : State) :
    OnlyHostOut (effRcRegisterRead port offset tag s) s := by
  have only1 := @State.emit_only
  have only2 := @State.hostUr_only
  have only3 := @State.rcClear_only
  have only4 := @effMgTimeNsRead_only
  simp [only1, only2, only3, only4, effRcRegisterRead, OnlyHostOut]

theorem State.msixUnmask_only (s : State) (p n : Nat) :
    OnlyHostOut (State.msixUnmask s p n) s := by
  have only1 := @State.emit_only
  have only2 := @State.setHport_only
  have only3 := @State.setSlice_only
  simp [only1, only2, only3, State.msixUnmask, OnlyHostOut]

theorem effMsixTableWrite_only (port offset : Nat) (bytes : List Byte) (s : State) :
    OnlyHostOut (effMsixTableWrite port offset bytes s) s := by
  have only1 := @State.msixUnmask_only
  have only2 := @State.setHport_only
  simp [only1, only2, effMsixTableWrite, OnlyHostOut]

theorem State.flushPort_only (s : State) (p : Nat) :
    OnlyHostOut (State.flushPort s p) s := by
  have only1 := @State.flushHeld_only
  simp [only1, State.flushPort, OnlyHostOut]

theorem effHeldRecordWrite_only (slice : Nat) (ok : Bool) (s : State) :
    OnlyHostErrOut (effHeldRecordWrite slice ok s) s := by
  have only1 := @State.flushHeld_only
  have only2 := @State.modSlice_only
  have only3 := @State.queueErr_only
  simp [only1, only2, only3, effHeldRecordWrite, OnlyHostErrOut]

theorem effInterruptTimer_only (slice : Nat) (s : State) :
    OnlyHostOut (effInterruptTimer slice s) s := by
  have only1 := @State.sendInt_only
  simp [only1, effInterruptTimer, OnlyHostOut]

theorem State.regRead_only (s : State) (h k off : Nat) :
    OnlyHost (State.regRead s h k off).1 s := by
  have only1 := @State.rcClear_only
  generalize hh : (State.regRead s h k off) = r
  unfold State.regRead at hh
  try dsimp only at hh
  repeat' first | split at hh
  all_goals subst hh
  all_goals simp [only1, OnlyHost]

theorem State.regWrite_only (s : State) (h k off v : Nat) :
    ∀ t, (State.regWrite s h k off v) = some t → OnlyLinksTreeSchedHostErrOutFree t s := by
  have only1 := @State.mgWrite_only
  have only2 := @State.pageWrite_only
  intro r hh
  unfold State.regWrite at hh
  repeat' first | contradiction | split at hh
  all_goals (obtain rfl := Option.some.inj hh; simp [only1, only2, OnlyLinksTreeSchedHostErrOutFree])


end Sys2Proof.Machine
end

