-- ==== Sys2Proof/Laws/KeepWindows.lean ====
section
/-! SUPPORT. For each operation of Machine/Windows.lean, the parts of the state that it leaves unchanged. -/

set_option linter.unusedTactic false
set_option linter.unreachableTactic false
set_option linter.unusedSimpArgs false

namespace Sys2Proof.Machine
open Sys2Proof

theorem State.setWnd_only (s : State) (w : Nat) (x : Win) :
    OnlyWin (State.setWnd s w x) s := by
  simp [State.setWnd, OnlyWin]

theorem State.modWnd_only (s : State) (w : Nat) (f : Win → Win) :
    OnlyWin (State.modWnd s w f) s := by
  have only1 := @State.setWnd_only
  simp [only1, State.modWnd, OnlyWin]

theorem State.winCount_only (s : State) (w i : Nat) :
    OnlyWin (State.winCount s w i) s := by
  have only1 := @State.modWnd_only
  simp [only1, State.winCount, OnlyWin]

theorem State.winErr_only (s : State) (w reason result off rseq : Nat) :
    OnlyHostWinOut (State.winErr s w reason result off rseq) s := by
  have only1 := @State.report_only
  have only2 := @State.setWnd_only
  simp [only1, only2, State.winErr, OnlyHostWinOut]

theorem State.unmapped_only (s : State) (port addr : Nat) :
    OnlyHostWinOut (State.unmapped s port addr) s := by
  have only1 := @State.reportMgmt_only
  have only2 := @State.setHport_only
  simp [only1, only2, State.unmapped, OnlyHostWinOut]

theorem State.winSend_only (s : State) (w kind off len hostTag w2 : Nat) (data : List Byte) :
    OnlyLinksTreeSchedWinOut (State.winSend s w kind off len hostTag w2 data) s := by
  have only1 := @State.sendTunnel_only
  have only2 := @State.setWnd_only
  simp [only1, only2, State.winSend, OnlyLinksTreeSchedWinOut]

theorem effBar2MemoryWrite_only (port addr fbe lbe : Nat) (data : List Byte) (s : State) :
    OnlyPwrLinksTreeSchedHostWinOut (effBar2MemoryWrite port addr fbe lbe data s) s := by
  have only1 := @State.acked_only
  have only2 := @State.sendTunnel_only
  have only3 := @State.unmapped_only
  have only4 := @State.winCount_only
  have only5 := @State.winSend_only
  generalize hh : (effBar2MemoryWrite port addr fbe lbe data s) = r
  unfold effBar2MemoryWrite at hh
  try dsimp only at hh
  repeat' first | split at hh
  all_goals subst hh
  all_goals simp [only1, only2, only3, only4, only5, OnlyPwrLinksTreeSchedHostWinOut]

theorem State.hostCpl_only (s : State) (port hostTag st : Nat) (data : List Byte) :
    OnlyOut (State.hostCpl s port hostTag st data) s := by
  have only1 := @State.emit_only
  simp [only1, State.hostCpl, OnlyOut]

theorem effBar2MemoryRead_only (port hostTag addr len fbe lbe : Nat) (s : State) :
    OnlyLinksTreeSchedHostWinOut (effBar2MemoryRead port hostTag addr len fbe lbe s) s := by
  have only1 := @State.hostCpl_only
  have only2 := @State.hostUr_only
  have only3 := @State.unmapped_only
  have only4 := @State.winCount_only
  have only5 := @State.winSend_only
  generalize hh : (effBar2MemoryRead port hostTag addr len fbe lbe s) = r
  unfold effBar2MemoryRead at hh
  try dsimp only at hh
  repeat' first | split at hh
  all_goals subst hh
  all_goals simp [only1, only2, only3, only4, only5, OnlyLinksTreeSchedHostWinOut]

theorem effBar2Atomicop_only (port hostTag addr atype asize : Nat) (data : List Byte) (s : State) :
    OnlyLinksTreeSchedHostWinOut (effBar2Atomicop port hostTag addr atype asize data s) s := by
  have only1 := @State.hostCpl_only
  have only2 := @State.hostUr_only
  have only3 := @State.unmapped_only
  have only4 := @State.winCount_only
  have only5 := @State.winSend_only
  generalize hh : (effBar2Atomicop port hostTag addr atype asize data s) = r
  unfold effBar2Atomicop at hh
  try dsimp only at hh
  repeat' first | split at hh
  all_goals subst hh
  all_goals simp [only1, only2, only3, only4, only5, OnlyLinksTreeSchedHostWinOut]

theorem effBar2LockedRead_only (port hostTag addr : Nat) (s : State) :
    OnlyHostWinOut (effBar2LockedRead port hostTag addr s) s := by
  have only1 := @State.hostCpl_only
  have only2 := @State.hostUr_only
  have only3 := @State.unmapped_only
  generalize hh : (effBar2LockedRead port hostTag addr s) = r
  unfold effBar2LockedRead at hh
  try dsimp only at hh
  repeat' first | split at hh
  all_goals subst hh
  all_goals simp [only1, only2, only3, OnlyHostWinOut]

theorem State.winReply_only (s : State) (t op result : Nat) (gen : BitVec 8) (rseq : BitVec 16) (off len : Nat) (data : List Byte) :
    OnlyLinksTreeSchedOut (State.winReply s t op result gen rseq off len data) s := by
  have only1 := @State.sendTunnel_only
  simp [only1, State.winReply, OnlyLinksTreeSchedOut]

theorem State.farFail_only (s : State) (w t op result : Nat) (gen : BitVec 8) (rseq : BitVec 16) (off : Nat) :
    OnlyLinksTreeSchedHostWinOut (State.farFail s w t op result gen rseq off) s := by
  have only1 := @State.winCount_only
  have only2 := @State.winErr_only
  have only3 := @State.winReply_only
  simp [only1, only2, only3, State.farFail, OnlyLinksTreeSchedHostWinOut]

theorem State.farWrite_only (s : State) (k : Slice) (max a : Nat) (r : FarReq) :
    OnlyOut (State.farWrite s k max a r) s := by
  have only1 := @State.emit_only
  simp [only1, State.farWrite, OnlyOut]

theorem State.setStore_only (s : State) (st : List FarReq) :
    OnlyWin (State.setStore s st) s := by
  simp [State.setStore, OnlyWin]

theorem State.setSem_only (s : State) (n : Nat) (x : Sem) :
    OnlyWin (State.setSem s n x) s := by
  simp [State.setSem, OnlyWin]

theorem State.semDone_only (s : State) (c : Cmd) (n st : Nat) :
    OnlyHostWinOut (State.semDone s c n st) s := by
  have only1 := @State.complete_only
  simp [only1, State.semDone, OnlyHostWinOut]

theorem State.atomicRead_only (s : State) (i : Nat) (r : FarReq) :
    OnlyWinOut (State.atomicRead s i r) s := by
  have only1 := @State.emit_only
  have only2 := @State.setStore_only
  simp [only1, only2, State.atomicRead, OnlyWinOut]

theorem State.semPass_only (s : State) (n : Nat) (y0 : List (Option Cmd × Nat × Nat)) :
    OnlyHostWinOut (State.semPass s n y0) s := by
  have only1 := @State.atomicRead_only
  have only2 := @State.semDone_only
  have only3 := @State.setSem_only
  induction y0 generalizing s with
  | nil => simp [State.semPass, only1, only2, only3, OnlyHostWinOut]
  | cons w rest ih =>
    obtain ⟨_ | c, lease, k⟩ := w
    · unfold State.semPass
      split
      · simp [only1, only2, only3, OnlyHostWinOut]
      · exact ih s
    · simp [State.semPass, only1, only2, only3, OnlyHostWinOut]

theorem State.semNext_only (s : State) (n : Nat) :
    OnlyHostWinOut (State.semNext s n) s := by
  have only1 := @State.atomicRead_only
  have only2 := @State.semDone_only
  have only3 := @State.semPass_only
  have only4 := @State.setSem_only
  generalize hh : (State.semNext s n) = r
  unfold State.semNext at hh
  try dsimp only at hh
  repeat' first | split at hh
  all_goals subst hh
  all_goals simp [only1, only2, only3, only4, OnlyHostWinOut]

theorem State.farRegPut_only (s : State) (h k off v : Nat) :
    OnlyLinksTreeSchedHostErrOutFree (State.farRegPut s h k off v) s := by
  have only1 := @State.regWrite_only
  unfold State.farRegPut
  cases hh : s.regWrite h k off v with
  | none => simp [only1, OnlyLinksTreeSchedHostErrOutFree]
  | some r => have q := State.regWrite_only _ _ _ _ _ _ hh; simpa [OnlyLinksTreeSchedHostErrOutFree] using q

theorem State.farRegGet_only (s : State) (bs : List Byte) (h k off : Nat) :
    OnlyHost (State.farRegGet s bs h k off).1 s := by
  have only1 := @State.regRead_only
  simp [only1, State.farRegGet, OnlyHost]

theorem State.farReg_only (s : State) (t : Nat) (r : FarReq) :
    OnlyLinksTreeSchedHostWinErrOutFree (State.farReg s t r) s := by
  have only1 := @State.farFail_only
  have only2 := @State.farRegGet_only
  have only3 := @State.farRegPut_only
  have only4 := @State.winReply_only
  simp [only1, only2, only3, only4, State.farReg, OnlyLinksTreeSchedHostWinErrOutFree]

theorem State.presentAt_only (s : State) (i : Nat) :
    OnlyLinksTreeSchedHostWinErrOutFree (State.presentAt s i) s := by
  have only1 := @State.atomicRead_only
  have only2 := @State.emit_only
  have only3 := @State.farFail_only
  have only4 := @State.farReg_only
  have only5 := @State.farWrite_only
  have only6 := @State.setSem_only
  have only7 := @State.setStore_only
  generalize hh : (State.presentAt s i) = r
  unfold State.presentAt at hh
  try dsimp only at hh
  repeat' first | split at hh
  all_goals subst hh
  all_goals simp [only1, only2, only3, only4, only5, only6, only7, OnlyLinksTreeSchedHostWinErrOutFree]

theorem State.presentFrom_only (s : State) (y0 : Nat) (y1 : Nat) :
    OnlyLinksTreeSchedHostWinErrOutFree (State.presentFrom s y0 y1) s := by
  have only1 := @State.presentAt_only
  induction y0 generalizing s y1 with
  | zero => simp [only1, State.presentFrom, OnlyLinksTreeSchedHostWinErrOutFree]
  | succ n ih =>
    generalize hh : State.presentFrom s (n + 1) y1 = r
    unfold State.presentFrom at hh
    try dsimp only at hh
    repeat' split at hh
    all_goals subst hh
    all_goals simp [only1, OnlyLinksTreeSchedHostWinErrOutFree, ih]

theorem State.present_only (s : State) :
    OnlyLinksTreeSchedHostWinErrOutFree (State.present s) s := by
  have only1 := @State.exitGo_only
  have only2 := @State.presentFrom_only
  simp [only1, only2, State.present, OnlyLinksTreeSchedHostWinErrOutFree]

theorem State.farRequest_only (s : State) (t : Nat) (h : WinHdr) :
    OnlyLinksTreeSchedHostWinErrOutFree (State.farRequest s t h) s := by
  have only1 := @State.farFail_only
  have only2 := @State.present_only
  have only3 := @State.sendTunnel_only
  have only4 := @State.setStore_only
  have only5 := @State.setWnd_only
  have only6 := @State.winCount_only
  have only7 := @State.winReply_only
  generalize hh : (State.farRequest s t h) = r
  unfold State.farRequest at hh
  try dsimp only at hh
  repeat' first | split at hh
  all_goals subst hh
  all_goals simp [only1, only2, only3, only4, only5, only6, only7, OnlyLinksTreeSchedHostWinErrOutFree]

theorem State.farWin_only (s : State) (t op : Nat) (bytes : List Byte) :
    OnlyLinksTreeSchedHostWinErrOutFree (State.farWin s t op bytes) s := by
  have only1 := @State.exitGo_only
  have only2 := @State.farRequest_only
  simp [only1, only2, State.farWin, OnlyLinksTreeSchedHostWinErrOutFree]

theorem State.winDrained_only (s : State) (w : Nat) :
    OnlyHostWinOut (State.winDrained s w) s := by
  have only1 := @State.complete_only
  have only2 := @State.setWnd_only
  generalize hh : (State.winDrained s w) = r
  unfold State.winDrained at hh
  try dsimp only at hh
  repeat' first | split at hh
  all_goals subst hh
  all_goals simp [only1, only2, OnlyHostWinOut]

theorem effFarAccessDone_only (index result : Nat) (data : List Byte) (s : State) :
    OnlyLinksTreeSchedHostWinErrOutFree (effFarAccessDone index result data s) s := by
  have only1 := @State.emit_only
  have only2 := @State.farFail_only
  have only3 := @State.modWnd_only
  have only4 := @State.present_only
  have only5 := @State.semNext_only
  have only6 := @State.setStore_only
  have only7 := @State.winDrained_only
  have only8 := @State.winReply_only
  generalize hh : (effFarAccessDone index result data s) = r
  unfold effFarAccessDone at hh
  try dsimp only at hh
  repeat' first | split at hh
  all_goals subst hh
  all_goals simp [only1, only2, only3, only4, only5, only6, only7, only8, OnlyLinksTreeSchedHostWinErrOutFree]

theorem effFarHoldTimeout_only (index : Nat) (s : State) :
    OnlyLinksTreeSchedHostWinErrOutFree (effFarHoldTimeout index s) s := by
  have only1 := @State.present_only
  have only2 := @State.setStore_only
  have only3 := @State.winDrained_only
  generalize hh : (effFarHoldTimeout index s) = r
  unfold effFarHoldTimeout at hh
  try dsimp only at hh
  repeat' first | split at hh
  all_goals subst hh
  all_goals simp [only1, only2, only3, OnlyLinksTreeSchedHostWinErrOutFree]

theorem State.finishReq_only (s : State) (w : Nat) (r : WinReq) (st : Nat) (data : List Byte) :
    OnlyHostWinOut (State.finishReq s w r st data) s := by
  have only1 := @State.hostCpl_only
  have only2 := @State.setWnd_only
  have only3 := @State.winDrained_only
  simp [only1, only2, only3, State.finishReq, OnlyHostWinOut]

theorem effRetryBackoffExpiry_only (win rseq : Nat) (s : State) :
    OnlyLinksTreeSchedWinOut (effRetryBackoffExpiry win rseq s) s := by
  have only1 := @State.sendTunnel_only
  have only2 := @State.setWnd_only
  generalize hh : (effRetryBackoffExpiry win rseq s) = r
  unfold effRetryBackoffExpiry at hh
  try dsimp only at hh
  repeat' first | split at hh
  all_goals subst hh
  all_goals simp [only1, only2, OnlyLinksTreeSchedWinOut]

theorem State.forgetFar_only (s : State) (w : Nat) :
    OnlyWin (State.forgetFar s w) s := by
  have only1 := @State.setStore_only
  simp [only1, State.forgetFar, OnlyWin]

theorem State.farDrainEnd_only (s : State) (w : Nat) :
    OnlyLinksTreeHostWinOut (State.farDrainEnd s w) s := by
  have only1 := @State.completeOpt_only
  have only2 := @State.exitGo_only
  have only3 := @State.forgetFar_only
  have only4 := @State.setWnd_only
  simp [only1, only2, only3, only4, State.farDrainEnd, OnlyLinksTreeHostWinOut]

theorem effWinRequestTimeout_only (win rseq : Nat) (s : State) :
    OnlyLinksTreeHostWinOut (effWinRequestTimeout win rseq s) s := by
  have only1 := @State.farDrainEnd_only
  have only2 := @State.finishReq_only
  have only3 := @State.winErr_only
  generalize hh : (effWinRequestTimeout win rseq s) = r
  unfold effWinRequestTimeout at hh
  try dsimp only at hh
  repeat' first | split at hh
  all_goals subst hh
  all_goals simp [only1, only2, only3, OnlyLinksTreeHostWinOut]

theorem State.winAbort_only (s : State) (w : Nat) :
    OnlyHostWinOut (State.winAbort s w) s := by
  have only1 := @State.finishReq_only
  have only2 := @State.winErr_only
  simp [only1, only2, State.winAbort, OnlyHostWinOut]

theorem State.nearErr_only (s : State) (w reason : Nat) :
    OnlyHostWinOut (State.nearErr s w reason) s := by
  have only1 := @State.winErr_only
  simp [only1, State.nearErr, OnlyHostWinOut]

theorem State.winLost_only (s : State) (even : Nat) (closed : Bool) (w : Nat) :
    OnlyHostWinOut (State.winLost s even closed w) s := by
  have only1 := @State.completeOpt_only
  have only2 := @State.forgetFar_only
  have only3 := @State.nearErr_only
  have only4 := @State.setStore_only
  have only5 := @State.setWnd_only
  have only6 := @State.winAbort_only
  have only7 := @State.winDrained_only
  simp [only1, only2, only3, only4, only5, only6, only7, State.winLost, OnlyHostWinOut]

theorem State.winTunnelLost_only (s : State) (t : Nat) (closed : Bool) :
    OnlyLinksTreeHostWinOut (State.winTunnelLost s t closed) s := by
  have only1 := @State.exitGo_only
  have only2 := @State.winLost_only
  simp [only1, only2, State.winTunnelLost, OnlyLinksTreeHostWinOut]

theorem State.winTunnelOpen_only (s : State) (t : Nat) :
    OnlyHostWinOut (State.winTunnelOpen s t) s := by
  have only1 := @State.nearErr_only
  have only2 := @State.setWnd_only
  simp [only1, only2, State.winTunnelOpen, OnlyHostWinOut]

theorem State.winRebind_only (s : State) (k : Nat) :
    OnlyHostWinOut (State.winRebind s k) s := by
  have only1 := @State.setWnd_only
  have only2 := @State.winAbort_only
  have only3 := @State.winErr_only
  simp [only1, only2, only3, State.winRebind, OnlyHostWinOut]

theorem State.winCloseOwner_only (s : State) (h k : Nat) :
    OnlyLinksTreeHostWinOut (State.winCloseOwner s h k) s := by
  have only1 := @State.completeOpt_only
  have only2 := @State.exitGo_only
  have only3 := @State.forgetFar_only
  have only4 := @State.setStore_only
  have only5 := @State.setWnd_only
  have only6 := @State.winAbort_only
  have only7 := @State.winErr_only
  simp [only1, only2, only3, only4, only5, only6, only7, State.winCloseOwner, OnlyLinksTreeHostWinOut]

theorem effSemaphoreLeaseExpiry_only (sem : Nat) (s : State) :
    OnlyLinksTreeSchedHostWinErrOutFree (effSemaphoreLeaseExpiry sem s) s := by
  have only1 := @State.present_only
  have only2 := @State.report_only
  have only3 := @State.semNext_only
  simp [only1, only2, only3, effSemaphoreLeaseExpiry, OnlyLinksTreeSchedHostWinErrOutFree]

theorem effSemaphoreWaitExpiry_only (sem hub htag : Nat) (s : State) :
    OnlyLinksTreeSchedHostWinErrOutFree (effSemaphoreWaitExpiry sem hub htag s) s := by
  have only1 := @State.present_only
  have only2 := @State.semDone_only
  have only3 := @State.setSem_only
  generalize hh : (effSemaphoreWaitExpiry sem hub htag s) = r
  unfold effSemaphoreWaitExpiry at hh
  try dsimp only at hh
  repeat' first | split at hh
  all_goals subst hh
  all_goals simp [only1, only2, only3, OnlyLinksTreeSchedHostWinErrOutFree]

end Sys2Proof.Machine
end

