-- ==== Sys2Proof/Laws/KeepTreeOps.lean ====
section
/-! SUPPORT. For each operation of Machine/TreeOps.lean, the parts of the state that it leaves unchanged. -/

namespace Sys2Proof.Machine
open Sys2Proof

theorem State.flushTun_only (s : State) (t : Nat) :
    OnlyLinksTreeSchedOut (State.flushTun s t) s := by
  have only1 := @State.countDrop_only
  have only2 := @State.leftHop_only
  have only3 := @State.modLink_only
  have only4 := @State.schedAdvance_only
  simp [only1, only2, only3, only4, State.flushTun, OnlyLinksTreeSchedOut]

theorem State.windowsFollow_only (s : State) (t : Nat) (held closed : Bool) :
    OnlyLinksSched (State.windowsFollow s t held closed) s := by
  have only1 := @State.modLink_only
  have only2 := @State.schedAdvance_only
  simp [only1, only2, State.windowsFollow, OnlyLinksSched]

theorem State.dropBound_only (s : State) (b : Nat) :
    OnlyLinksSched (State.dropBound s b) s := by
  have only1 := @State.schedAdvance_only
  simp [only1, State.dropBound, OnlyLinksSched]

theorem State.setEntry_only (s : State) (t : Nat) (g : Gaz) :
    OnlyLinksTreeSchedHostUsbWinOut (State.setEntry s t g) s := by
  have only1 := @State.dropBound_only
  have only2 := @State.setGaz_only
  have only3 := @State.usbRelease_only
  have only4 := @State.usbTunnelLost_only
  have only5 := @State.winTunnelLost_only
  have only6 := @State.winTunnelOpen_only
  have only7 := @State.windowsFollow_only
  simp [only1, only2, only3, only4, only5, only6, only7, State.setEntry, OnlyLinksTreeSchedHostUsbWinOut]

theorem State.closeEntry_only (s : State) (t : Nat) :
    OnlyLinksTreeSchedHostUsbWinOut (State.closeEntry s t) s := by
  have only1 := @State.flushTun_only
  have only2 := @State.setEntry_only
  simp [only1, only2, State.closeEntry, OnlyLinksTreeSchedHostUsbWinOut]

theorem State.flood_only (s : State) (g : Gaz) (t state cause : Nat) (gen : BitVec 8) (except : Nat) :
    OnlyOut (State.flood s g t state cause gen except) s := by
  have only1 := @State.emit_only
  simp [only1, State.flood, OnlyOut]

theorem State.suspendEntry_only (s : State) (t cause : Nat) (gen : BitVec 8) :
    OnlyLinksTreeSchedHostUsbWinOut (State.suspendEntry s t cause gen) s := by
  have only1 := @State.flushTun_only
  have only2 := @State.setEntry_only
  simp [only1, only2, State.suspendEntry, OnlyLinksTreeSchedHostUsbWinOut]

theorem State.tunnelState_only (s : State) (t status : Nat) :
    OnlyHostOut (State.tunnelState s t status) s := by
  have only1 := @State.report_only
  simp [only1, State.tunnelState, OnlyHostOut]

theorem State.suspendLink_only (s : State) (l : Nat) :
    OnlyLinksTreeSchedHostUsbWinOut (State.suspendLink s l) s := by
  have only1 := @State.flood_only
  have only2 := @State.flushTun_only
  have only3 := @State.suspendEntry_only
  have only4 := @State.tunnelState_only
  simp [only1, only2, only3, only4, State.suspendLink, OnlyLinksTreeSchedHostUsbWinOut]

theorem State.tunAck_only (s : State) (tag t status : Nat) :
    OnlyOut (State.tunAck s tag t status) s := by
  have only1 := @State.emit_only
  simp [only1, State.tunAck, OnlyOut]

theorem State.endClosing_only (s : State) (t : Nat) :
    OnlyLinksTreeSchedHostUsbWinOut (State.endClosing s t) s := by
  have only1 := @State.closeEntry_only
  have only2 := @State.tunAck_only
  simp [only1, only2, State.endClosing, OnlyLinksTreeSchedHostUsbWinOut]

theorem State.safeTunnels_only (s : State) :
    OnlyLinksTreeSchedHostUsbWinOut (State.safeTunnels s) s := by
  have only1 := @State.closeEntry_only
  have only2 := @State.tunAck_only
  have only3 := @State.tunnelState_only
  simp [only1, only2, only3, State.safeTunnels, OnlyLinksTreeSchedHostUsbWinOut]

theorem State.setRec_only (s : State) (n : Nat) (r : HubRec) :
    OnlyTree (State.setRec s n r) s := by
  simp [State.setRec, OnlyTree]

theorem State.treeEvent_only (s : State) (status : Nat) (ws : List Word) :
    OnlyHostOut (State.treeEvent s status ws) s := by
  have only1 := @State.report_only
  simp [only1, State.treeEvent, OnlyHostOut]

theorem State.hubEvent_only (s : State) (change n : Nat) :
    OnlyHostOut (State.hubEvent s change n) s := by
  have only1 := @State.treeEvent_only
  simp [only1, State.hubEvent, OnlyHostOut]

theorem State.setTun_only (s : State) (t : Nat) (r : TunRec) :
    OnlyTree (State.setTun s t r) s := by
  simp [State.setTun, OnlyTree]

theorem State.modTun_only (s : State) (t : Nat) (f : TunRec → TunRec) :
    OnlyTree (State.modTun s t f) s := by
  have only1 := @State.setTun_only
  simp [only1, State.modTun, OnlyTree]

theorem State.rootTunEvent_only (s : State) (t status : Nat) :
    OnlyHostOut (State.rootTunEvent s t status) s := by
  have only1 := @State.report_only
  simp [only1, State.rootTunEvent, OnlyHostOut]

theorem State.mapOwners_only (s : State) (f : Nat × Nat → Nat × Nat) :
    OnlyTreeTimeTravHostNetWin (State.mapOwners s f) s := by
  simp [State.mapOwners, OnlyTreeTimeTravHostNetWin]

theorem State.renumberOwn_only (s : State) (n : Nat) :
    OnlyTreeTimeTravHostNetWin (State.renumberOwn s n) s := by
  have only1 := @State.mapOwners_only
  simp [only1, State.renumberOwn, OnlyTreeTimeTravHostNetWin]

end Sys2Proof.Machine
end

