-- ==== Sys2Proof/Laws/KeepSchedRoot.lean ====
section
/-! SUPPORT. For each operation of Machine/SchedRoot.lean, the parts of the state that it leaves unchanged. -/

set_option linter.unusedTactic false
set_option linter.unreachableTactic false
set_option linter.unusedSimpArgs false

namespace Sys2Proof.Machine
open Sys2Proof

theorem State.sendSys_only (s : State) (h htag op : Nat) (dws : List (Nat × Word)) :
    OnlyOut (State.sendSys s h htag op dws) s := by
  have only1 := @State.sendCommand_only
  simp [only1, State.sendSys, OnlyOut]

theorem State.sendForms_only (s : State) (o : WinOp) (fs : List (Nat × List (Nat × Word))) :
    OnlySchedOut (State.sendForms s o fs) s := by
  have only1 := @State.sendSys_only
  simp [only1, State.sendForms, OnlySchedOut]

theorem State.winEnd_only (s : State) (o : WinOp) :
    OnlyLinksTreeSchedHostOut (State.winEnd s o) s := by
  have only1 := @State.complete_only
  have only2 := @State.modTun_only
  have only3 := @State.modWindows_only
  have only4 := @State.report_only
  have only5 := @State.reportMgmt_only
  have only6 := @State.setTun_only
  generalize hh : (State.winEnd s o) = r
  unfold State.winEnd at hh
  try dsimp only at hh
  repeat' first | split at hh
  all_goals subst hh
  all_goals simp [only1, only2, only3, only4, only5, only6, OnlyLinksTreeSchedHostOut]

theorem State.winRefuse_only (s : State) (c : Option Cmd) (st : Nat) (ws : List Word) :
    OnlyHostOut (State.winRefuse s c st ws) s := by
  have only1 := @State.complete_only
  generalize hh : (State.winRefuse s c st ws) = r
  unfold State.winRefuse at hh
  try dsimp only at hh
  repeat' first | split at hh
  all_goals subst hh
  all_goals simp [only1, OnlyHostOut]

theorem State.winTake_only (s : State) (c : Option Cmd) (t : Nat) (isWin : Bool) (w : Option Window) (b : Option (Bool × Nat × Nat)) :
    OnlyLinksTreeSchedHostOut (State.winTake s c t isWin w b) s := by
  have only1 := @State.sendForms_only
  have only2 := @State.winEnd_only
  generalize hh : (State.winTake s c t isWin w b) = r
  unfold State.winTake at hh
  try dsimp only at hh
  repeat' first | split at hh
  all_goals subst hh
  all_goals simp [only1, only2, OnlyLinksTreeSchedHostOut]

theorem State.winBegin_only (s : State) (c : Option Cmd) (t : Nat) (again : Bool) :
    OnlyLinksTreeSchedHostOut (State.winBegin s c t again) s := by
  have only1 := @State.complete_only
  have only2 := @State.sendForms_only
  have only3 := @State.winEnd_only
  have only4 := @State.winRefuse_only
  have only5 := @State.winTake_only
  unfold State.winBegin
  repeat' (first | split | simp only [])
  all_goals simp [only1, only2, only3, only4, only5, OnlyLinksTreeSchedHostOut]

theorem State.winNext_only (s : State) (y0 : Nat) :
    OnlyLinksTreeSchedHostOut (State.winNext s y0) s := by
  have only1 := @State.winBegin_only
  induction y0 generalizing s with
  | zero => simp [only1, State.winNext, OnlyLinksTreeSchedHostOut]
  | succ n ih =>
    generalize hh : State.winNext s (n + 1) = r
    unfold State.winNext at hh
    try dsimp only at hh
    repeat' split at hh
    all_goals subst hh
    all_goals simp [only1, OnlyLinksTreeSchedHostOut, ih]


theorem State.winAsk_only (s : State) (c : Option Cmd) (t : Nat) (again : Bool := true) :
    OnlyLinksTreeSchedHostOut (State.winAsk s c t again) s := by
  have only1 := @State.winNext_only
  simp [only1, State.winAsk, OnlyLinksTreeSchedHostOut]

theorem State.hopFormDone_only (s : State) (hub st : Nat) (dw5 : Word) :
    OnlyLinksTreeSchedHostOut (State.hopFormDone s hub st dw5) s := by
  have only1 := @State.sendForms_only
  have only2 := @State.winEnd_only
  have only3 := @State.winNext_only
  generalize hh : (State.hopFormDone s hub st dw5) = r
  unfold State.hopFormDone at hh
  try dsimp only at hh
  repeat' first | split at hh
  all_goals subst hh
  all_goals simp [only1, only2, only3, OnlyLinksTreeSchedHostOut]

theorem State.keepBack_only (s : State) (c : Cmd) (isWin : Bool) (l : Nat) (b : Option Back) :
    OnlySched (State.keepBack s c isWin l b) s := by
  simp [State.keepBack, OnlySched]

theorem State.hopWindow_only (s : State) (c : Cmd) :
    OnlyLinksTreeSchedHostOutFree (State.hopWindow s c) s := by
  have only1 := @State.complete_only
  have only2 := @State.hopRecord_only
  have only3 := @State.keepBack_only
  have only4 := @State.modLink_only
  have only5 := @State.noteOver_only
  have only6 := @State.schedAdvance_only
  unfold State.hopWindow
  repeat' (first | split | simp only [])
  all_goals simp [only1, only2, only3, only4, only5, only6, OnlyLinksTreeSchedHostOutFree]

theorem State.hopBound_only (s : State) (c : Cmd) :
    OnlyLinksTreeSchedHostOutFree (State.hopBound s c) s := by
  have only1 := @State.complete_only
  have only2 := @State.dropBound_only
  have only3 := @State.hopRecord_only
  have only4 := @State.keepBack_only
  have only5 := @State.schedAdvance_only
  have only6 := @State.setGaz_only
  generalize hh : (State.hopBound s c) = r
  unfold State.hopBound at hh
  try dsimp only at hh
  repeat' first | split at hh
  all_goals subst hh
  all_goals simp [only1, only2, only3, only4, only5, only6, OnlyLinksTreeSchedHostOutFree]

theorem State.rateHeard_only (s : State) (hub dw4 : Nat) :
    OnlyLinksTreeSchedHostOut (State.rateHeard s hub dw4) s := by
  have only1 := @State.setRec_only
  have only2 := @State.winAsk_only
  simp [only1, only2, State.rateHeard, OnlyLinksTreeSchedHostOut]

end Sys2Proof.Machine
end

