-- ==== Sys2Proof/Laws/KeepTravOps.lean ====
section
/-! SUPPORT. For each operation of Machine/TravOps.lean, the parts of the state that it leaves unchanged. -/

namespace Sys2Proof.Machine
open Sys2Proof

theorem State.setEngine_only (s : State) (e : Nat) (x : Engine) :
    OnlyTrav (State.setEngine s e x) s := by
  simp [State.setEngine, OnlyTrav]

theorem State.modEngine_only (s : State) (e : Nat) (f : Engine → Engine) :
    OnlyTrav (State.modEngine s e f) s := by
  have only1 := @State.setEngine_only
  simp [only1, State.modEngine, OnlyTrav]

theorem State.wakeEngine_only (s : State) (e : Nat) (st : EngSt) :
    OnlyTrav (State.wakeEngine s e st) s := by
  have only1 := @State.modEngine_only
  simp [only1, State.wakeEngine, OnlyTrav]

theorem State.travEvent_only (s : State) (e : Nat) (v : TravEv) :
    OnlyHostOut (State.travEvent s e v) s := by
  have only1 := @State.report_only
  simp [only1, State.travEvent, OnlyHostOut]

theorem State.setAct_only (s : State) (n : Nat) (a : Act) :
    OnlyTrav (State.setAct s n a) s := by
  simp [State.setAct, OnlyTrav]

theorem State.setPin_only (s : State) (n : Nat) (lv : Bool) (at250 : Nat) :
    OnlyTravOut (State.setPin s n lv at250) s := by
  have only1 := @State.emit_only
  have only2 := @State.setAct_only
  simp [only1, only2, State.setPin, OnlyTravOut]

theorem State.stopPwm_only (s : State) (n : Nat) :
    OnlyTravOut (State.stopPwm s n) s := by
  have only1 := @State.setPin_only
  generalize hh : (State.stopPwm s n) = r
  unfold State.stopPwm at hh
  try dsimp only at hh
  repeat' first | split at hh
  all_goals subst hh
  all_goals simp [only1, OnlyTravOut]

theorem State.pinSafe_only (s : State) (n : Nat) :
    OnlyTravOut (State.pinSafe s n) s := by
  have only1 := @State.emit_only
  have only2 := @State.setAct_only
  generalize hh : (State.pinSafe s n) = r
  unfold State.pinSafe at hh
  try dsimp only at hh
  repeat' first | split at hh
  all_goals subst hh
  all_goals simp [only1, only2, OnlyTravOut]

theorem State.dropEffects_only (s : State) (e : Nat) :
    OnlyTrav (State.dropEffects s e) s := by
  simp [State.dropEffects, OnlyTrav]

theorem State.stopEngine_only (s : State) (e : Nat) (safe : Bool) :
    OnlyTravOut (State.stopEngine s e safe) s := by
  have only1 := @State.dropEffects_only
  have only2 := @State.modEngine_only
  have only3 := @State.pinSafe_only
  have only4 := @State.stopPwm_only
  simp [only1, only2, only3, only4, State.stopEngine, OnlyTravOut]

theorem State.exception_only (s : State) (e code : Nat) :
    OnlyTravHostOut (State.exception s e code) s := by
  have only1 := @State.modEngine_only
  have only2 := @State.stopEngine_only
  have only3 := @State.travEvent_only
  simp [only1, only2, only3, State.exception, OnlyTravHostOut]

theorem State.abortEngine_only (s : State) (e : Nat) (safe : Bool) :
    OnlyTravOut (State.abortEngine s e safe) s := by
  have only1 := @State.modEngine_only
  have only2 := @State.stopEngine_only
  simp [only1, only2, State.abortEngine, OnlyTravOut]

theorem State.abortedEvent_only (s : State) (e status launch : Nat) :
    OnlyHostOut (State.abortedEvent s e status launch) s := by
  have only1 := @State.travEvent_only
  simp [only1, State.abortedEvent, OnlyHostOut]

theorem State.haltEngines_only (s : State) :
    OnlyTrav (State.haltEngines s) s := by
  have only1 := @State.dropEffects_only
  have only2 := @State.modEngine_only
  simp [only1, only2, State.haltEngines, OnlyTrav]

theorem State.endWait_only (s : State) (e at250 : Nat) (met : Bool) :
    OnlyTrav (State.endWait s e at250 met) s := by
  have only1 := @State.modEngine_only
  simp [only1, State.endWait, OnlyTrav]

theorem State.feedOne_only (s : State) (kind idx at250 e : Nat) :
    OnlyTrav (State.feedOne s kind idx at250 e) s := by
  have only1 := @State.endWait_only
  generalize hh : (State.feedOne s kind idx at250 e) = r
  unfold State.feedOne at hh
  try dsimp only at hh
  repeat' first | split at hh
  all_goals subst hh
  all_goals simp [only1, OnlyTrav]

theorem State.feedEdge_only (s : State) (kind idx at250 : Nat) :
    OnlyTrav (State.feedEdge s kind idx at250) s := by
  have only1 := @State.feedOne_only
  simp [only1, State.feedEdge, OnlyTrav]

theorem State.pauseAtStep_only (s : State) (by250 : Int) (e : Nat) :
    OnlyTravHostOut (State.pauseAtStep s by250 e) s := by
  have only1 := @State.dropEffects_only
  have only2 := @State.setEngine_only
  have only3 := @State.stopPwm_only
  have only4 := @State.travEvent_only
  simp [only1, only2, only3, only4, State.pauseAtStep, OnlyTravHostOut]

theorem State.pwmAtStep_only (s : State) (old n : Nat) :
    OnlyTravOut (State.pwmAtStep s old n) s := by
  have only1 := @State.emit_only
  have only2 := @State.setAct_only
  generalize hh : (State.pwmAtStep s old n) = r
  unfold State.pwmAtStep at hh
  try dsimp only at hh
  repeat' first | split at hh
  all_goals subst hh
  all_goals simp [only1, only2, OnlyTravOut]

theorem State.travStep_only (s : State) (old : Nat) (by250 : Int) :
    OnlyTravHostOut (State.travStep s old by250) s := by
  have only1 := @State.pauseAtStep_only
  have only2 := @State.pwmAtStep_only
  simp [only1, only2, State.travStep, OnlyTravHostOut]

theorem State.sendLaunch_only (s : State) (x : Launch) (kind hub : Nat) :
    OnlyOut (State.sendLaunch s x kind hub) s := by
  have only1 := @State.emit_only
  simp [only1, State.sendLaunch, OnlyOut]

theorem State.setLaunches_only (s : State) (l : List Launch) :
    OnlyTrav (State.setLaunches s l) s := by
  simp [State.setLaunches, OnlyTrav]

theorem State.setLaunch_only (s : State) (x : Launch) :
    OnlyTrav (State.setLaunch s x) s := by
  have only1 := @State.setLaunches_only
  simp [only1, State.setLaunch, OnlyTrav]

theorem State.dropLaunch_only (s : State) (id : BitVec 8) :
    OnlyTrav (State.dropLaunch s id) s := by
  have only1 := @State.setLaunches_only
  simp [only1, State.dropLaunch, OnlyTrav]

theorem State.abortLaunch_only (s : State) (x : Launch) :
    OnlyLinksTreeSchedTravHostOut (State.abortLaunch s x) s := by
  have only1 := @State.complete_only
  have only2 := @State.dropLaunch_only
  have only3 := @State.result_only
  have only4 := @State.sendLaunch_only
  simp [only1, only2, only3, only4, State.abortLaunch, OnlyLinksTreeSchedTravHostOut]

theorem State.launchCut_only (s : State) (hubs : List Nat) :
    OnlyTrav (State.launchCut s hubs) s := by
  have only1 := @State.setLaunches_only
  simp [only1, State.launchCut, OnlyTrav]

theorem State.launchBack_only (s : State) (hubs : List Nat) :
    OnlyOut (State.launchBack s hubs) s := by
  have only1 := @State.sendLaunch_only
  simp [only1, State.launchBack, OnlyOut]

theorem State.launchReply_only (s : State) (kind status : Nat) (ws : List Word) :
    OnlyOut (State.launchReply s kind status ws) s := by
  have only1 := @State.emit_only
  simp [only1, State.launchReply, OnlyOut]

theorem State.sendLaunched_only (s : State) (l : List PrepRec) :
    OnlyOut (State.sendLaunched s l) s := by
  have only1 := @State.launchReply_only
  simp [only1, State.sendLaunched, OnlyOut]

theorem State.launchesDone_only (s : State) :
    OnlyTravOut (State.launchesDone s) s := by
  have only1 := @State.sendLaunched_only
  simp [only1, State.launchesDone, OnlyTravOut]

end Sys2Proof.Machine
end

