-- ==== Sys2Proof/Laws/KeepTimeOps.lean ====
section
/-! SUPPORT. For each operation of Machine/TimeOps.lean, the parts of the state that it leaves unchanged. -/

namespace Sys2Proof.Machine
open Sys2Proof

theorem State.modeEvent_only (s : State) (old new : Mode) (cause : Nat) :
    OnlyHostOut (State.modeEvent s old new cause) s := by
  have only1 := @State.reportBoth_only
  simp [only1, State.modeEvent, OnlyHostOut]

theorem State.toMode_only (s : State) (m : Mode) (cause : Nat) :
    OnlyRetModeHostOut (State.toMode s m cause) s := by
  have only1 := @State.modeEvent_only
  have only2 := @State.timePinEdges_only
  simp [only1, only2, State.toMode, OnlyRetModeHostOut]

theorem State.timeAlert_only (s : State) (reason status link : Nat) (step : Int) (extra : Nat) :
    OnlyHostOut (State.timeAlert s reason status link step extra) s := by
  have only1 := @State.reportBoth_only
  simp [only1, State.timeAlert, OnlyHostOut]

theorem State.holdTime_only (s : State) :
    OnlyTime (State.holdTime s) s := by
  simp [State.holdTime, OnlyTime]

theorem State.loseTime_only (s : State) (cause : Nat) :
    OnlyRetModeTimeHostOut (State.loseTime s cause) s := by
  have only1 := @State.holdTime_only
  have only2 := @State.toMode_only
  simp [only1, only2, State.loseTime, OnlyRetModeTimeHostOut]

theorem State.tryReturn_only (s : State) :
    OnlyRetModePwrLinksHostOut (State.tryReturn s) s := by
  have only1 := @State.fieldMoves_only
  have only2 := @State.toMode_only
  simp [only1, only2, State.tryReturn, OnlyRetModePwrLinksHostOut]

theorem State.sendTime_only (s : State) (step : Option Step) (links : List Nat) :
    OnlyLinksSchedTime (State.sendTime s step links) s := by
  have only1 := @State.enqueue_only
  generalize hh : (State.sendTime s step links) = r
  unfold State.sendTime at hh
  try dsimp only at hh
  repeat' first | split at hh
  all_goals subst hh
  all_goals simp [only1, OnlyLinksSchedTime]

theorem State.moveElapsed_only (s : State) (by250 byNs byFine byUnit : Int) :
    OnlyLinksTimeTravHostDispUsbNetWin (State.moveElapsed s by250 byNs byFine byUnit) s := by
  simp [State.moveElapsed, OnlyLinksTimeTravHostDispUsbNetWin]

theorem State.applyStep_only (s : State) (new : Nat) (byTime alert : Bool) :
    OnlyRetModePwrLinksSchedTimeTravHostDispUsbNetWinOut (State.applyStep s new byTime alert) s := by
  have only1 := @State.modLink_only
  have only2 := @State.moveElapsed_only
  have only3 := @State.schedAdvance_only
  have only4 := @State.setGateIdx_only
  have only5 := @State.timeAlert_only
  have only6 := @State.travStep_only
  have only7 := @State.tryReturn_only
  simp [only1, only2, only3, only4, only5, only6, only7, State.applyStep, OnlyRetModePwrLinksSchedTimeTravHostDispUsbNetWinOut]

theorem State.announce_only (s : State) (p : Step) :
    OnlyLinksSchedTime (State.announce s p) s := by
  have only1 := @State.sendTime_only
  simp [only1, State.announce, OnlyLinksSchedTime]

theorem State.stepAt_only (s : State) (sec : Nat) (newT : Nat) (byTime : Bool) :
    OnlyRetModePwrLinksSchedTimeTravHostDispUsbNetWinOut (State.stepAt s sec newT byTime) s := by
  have only1 := @State.announce_only
  have only2 := @State.applyStep_only
  have only3 := @State.sendTime_only
  simp [only1, only2, only3, State.stepAt, OnlyRetModePwrLinksSchedTimeTravHostDispUsbNetWinOut]

theorem State.orderStep_only (s : State) (delta : Int) (byTime : Bool) :
    OnlyRetModePwrLinksSchedTimeTravHostDispUsbNetWinOut (State.orderStep s delta byTime) s := by
  have only1 := @State.stepAt_only
  simp [only1, State.orderStep, OnlyRetModePwrLinksSchedTimeTravHostDispUsbNetWinOut]

theorem State.servo_only (s : State) (th inv : Int) (secs : Int) :
    OnlyRetModePwrLinksSchedTimeTravHostDispUsbNetWinOut (State.servo s th inv secs) s := by
  have only1 := @State.orderStep_only
  simp [only1, State.servo, OnlyRetModePwrLinksSchedTimeTravHostDispUsbNetWinOut]

theorem State.lockCount_only (s : State) (th : Int) (limIn limOut need : Nat) :
    OnlyTimeHostOut (State.lockCount s th limIn limOut need) s := by
  have only1 := @State.timeAlert_only
  simp [only1, State.lockCount, OnlyTimeHostOut]

theorem State.sourceBack_only (s : State) :
    OnlyTime (State.sourceBack s) s := by
  simp [State.sourceBack, OnlyTime]

theorem State.useExchange_only (s : State) (th : Int) (k : Nat) (secs : Int) :
    OnlyRetModePwrLinksSchedTimeTravHostDispUsbNetWinOut (State.useExchange s th k secs) s := by
  have only1 := @State.lockCount_only
  have only2 := @State.servo_only
  have only3 := @State.sourceBack_only
  have only4 := @State.tryReturn_only
  simp [only1, only2, only3, only4, State.useExchange, OnlyRetModePwrLinksSchedTimeTravHostDispUsbNetWinOut]

theorem State.timeNewEpoch_only (s : State) :
    OnlyLinksTime (State.timeNewEpoch s) s := by
  have only1 := @State.modLink_only
  simp [only1, State.timeNewEpoch, OnlyLinksTime]

theorem State.exchInvalid_only (s : State) :
    OnlyRetModeTimeHostOut (State.exchInvalid s) s := by
  have only1 := @State.holdTime_only
  have only2 := @State.loseTime_only
  have only3 := @State.timeAlert_only
  simp [only1, only2, only3, State.exchInvalid, OnlyRetModeTimeHostOut]

theorem State.stampEvent_only (s : State) (p : StampIn) (src since : Nat) (rising : Bool) :
    OnlyHostOut (State.stampEvent s p src since rising).1 s := by
  have only1 := @State.emit_only
  have only2 := @State.postRec_only
  generalize hh : (State.stampEvent s p src since rising).1 = r
  unfold State.stampEvent at hh
  try dsimp only at hh
  repeat' first | split at hh
  all_goals subst hh
  all_goals simp [only1, only2, OnlyHostOut]

theorem State.stampEdge_only (s : State) (p : StampIn) (src since : Nat) (rising : Bool) :
    OnlyHostOut (State.stampEdge s p src since rising).1 s := by
  have only1 := @State.stampEvent_only
  generalize hh : (State.stampEdge s p src since rising).1 = r
  unfold State.stampEdge at hh
  try dsimp only at hh
  repeat' first | split at hh
  all_goals subst hh
  all_goals simp [only1, OnlyHostOut]

theorem State.setStamp_only (s : State) (i : Nat) (p : StampIn) :
    OnlyTime (State.setStamp s i p) s := by
  simp [State.setStamp, OnlyTime]

end Sys2Proof.Machine
end

