-- ==== Sys2Proof/Laws/KeepTree.lean ====
section
/-! SUPPORT. For each operation of Machine/Tree.lean, the parts of the state that it leaves unchanged. -/

set_option linter.unusedTactic false
set_option linter.unreachableTactic false
set_option linter.unusedSimpArgs false

namespace Sys2Proof.Machine
open Sys2Proof

theorem State.setOp_only (s : State) (o : Option TunOp) :
    OnlyTree (State.setOp s o) s := by
  simp [State.setOp, OnlyTree]

theorem State.takeSteps_only (s : State) (o : TunOp) (y0 : List (List (Nat × Nat × Nat))) :
    OnlyTreeOut (State.takeSteps s o y0).1 s := by
  have only1 := @State.emit_only
  induction y0 generalizing s o with
  | nil => simp [only1, State.takeSteps, OnlyTreeOut]
  | cons a l ih =>
    generalize hh : State.takeSteps s o (a :: l) = r
    unfold State.takeSteps at hh
    try dsimp only at hh
    repeat' split at hh
    all_goals subst hh
    all_goals simp [only1, OnlyTreeOut, ih]

theorem State.formsAgain_only (s : State) (t : Nat) :
    OnlyLinksTreeSchedHostOut (State.formsAgain s t) s := by
  have only1 := @State.winAsk_only
  simp [only1, State.formsAgain, OnlyLinksTreeSchedHostOut]

theorem State.opEnd_only (s : State) (o : TunOp) :
    OnlyLinksTreeSchedHostOut (State.opEnd s o) s := by
  have only1 := @State.complete_only
  have only2 := @State.formsAgain_only
  have only3 := @State.modTun_only
  have only4 := @State.rootTunEvent_only
  have only5 := @State.setOp_only
  generalize hh : (State.opEnd s o) = r
  unfold State.opEnd State.causedBy at hh
  try dsimp only at hh
  repeat' first | split at hh
  all_goals subst hh
  all_goals simp [only1, only2, only3, only4, only5, OnlyLinksTreeSchedHostOut]

theorem State.opGo_only (s : State) (o : TunOp) :
    OnlyLinksTreeSchedHostOut (State.opGo s o) s := by
  have only1 := @State.opEnd_only
  have only2 := @State.setOp_only
  have only3 := @State.takeSteps_only
  generalize hh : (State.opGo s o) = r
  unfold State.opGo at hh
  try dsimp only at hh
  repeat' first | split at hh
  all_goals subst hh
  all_goals first
    | (simp [only1, only2, only3, OnlyLinksTreeSchedHostOut]; done)
    | (have k := congrArg Prod.fst ‹_ = (_, _)›; dsimp only at k; subst k; simp [only1, only2, only3, OnlyLinksTreeSchedHostOut]; done)

theorem State.opFail_only (s : State) (o : TunOp) (st : Nat) :
    OnlyLinksTreeSchedHostOut (State.opFail s o st) s := by
  have only1 := @State.modTun_only
  have only2 := @State.opGo_only
  have only3 := @State.setTun_only
  generalize hh : (State.opFail s o st) = r
  unfold State.opFail at hh
  try dsimp only at hh
  repeat' first | split at hh
  all_goals subst hh
  all_goals simp [only1, only2, only3, OnlyLinksTreeSchedHostOut]

theorem State.opStep_only (s : State) (o : TunOp) :
    OnlyLinksTreeSchedHostOut (State.opStep s o) s := by
  have only1 := @State.opFail_only
  have only2 := @State.opGo_only
  have only3 := @State.setOp_only
  simp [only1, only2, only3, State.opStep, OnlyLinksTreeSchedHostOut]

theorem State.beginOpen_only (s : State) (o : TunOp) (c : Cmd) :
    OnlyLinksTreeSchedHostOut (State.beginOpen s o c) s := by
  have only1 := @State.complete_only
  have only2 := @State.opGo_only
  have only3 := @State.setTun_only
  generalize hh : (State.beginOpen s o c) = r
  unfold State.beginOpen at hh
  try dsimp only at hh
  repeat' first | split at hh
  all_goals subst hh
  all_goals simp [only1, only2, only3, OnlyLinksTreeSchedHostOut]

theorem State.modifyTc_only (s : State) (o : TunOp) (c : Cmd) :
    OnlyTree (State.modifyTc s o c) s := by
  have only1 := @State.modTun_only
  simp [only1, State.modifyTc, OnlyTree]

theorem State.beginModify_only (s : State) (o : TunOp) (c : Cmd) :
    OnlyLinksTreeSchedHostOut (State.beginModify s o c) s := by
  have only1 := @State.complete_only
  have only2 := @State.modifyTc_only
  have only3 := @State.opGo_only
  have only4 := @State.setTun_only
  simp [only1, only2, only3, only4, State.beginModify, OnlyLinksTreeSchedHostOut]

theorem State.opBegin_only (s : State) (o : TunOp) :
    OnlyLinksTreeSchedHostOut (State.opBegin s o) s := by
  have only1 := @State.beginModify_only
  have only2 := @State.beginOpen_only
  have only3 := @State.complete_only
  have only4 := @State.modTun_only
  have only5 := @State.opGo_only
  generalize hh : (State.opBegin s o) = r
  unfold State.opBegin at hh
  try dsimp only at hh
  repeat' first | split at hh
  all_goals subst hh
  all_goals simp [only1, only2, only3, only4, only5, OnlyLinksTreeSchedHostOut]

theorem State.tunNext_only (s : State) (y0 : Nat) :
    OnlyLinksTreeSchedHostOut (State.tunNext s y0) s := by
  have only1 := @State.opBegin_only
  induction y0 generalizing s with
  | zero => simp [only1, State.tunNext, OnlyLinksTreeSchedHostOut]
  | succ n ih =>
    generalize hh : State.tunNext s (n + 1) = r
    unfold State.tunNext at hh
    try dsimp only at hh
    repeat' split at hh
    all_goals subst hh
    all_goals simp [only1, OnlyLinksTreeSchedHostOut, ih]

theorem State.tunAsk_only (s : State) (o : TunOp) :
    OnlyLinksTreeSchedHostOut (State.tunAsk s o) s := by
  have only1 := @State.tunNext_only
  simp [only1, State.tunAsk, OnlyLinksTreeSchedHostOut]

theorem State.rootClose_only (s : State) (t : Nat) (event : Option Nat) (asker : Option (Nat × Nat) := none) :
    OnlyLinksTreeSchedHostOut (State.rootClose s t event asker) s := by
  have only1 := @State.tunAsk_only
  simp [only1, State.rootClose, OnlyLinksTreeSchedHostOut]

theorem State.opPrune_only (s : State) (f : Nat × Nat → Bool) :
    OnlyLinksTreeSchedHostOut (State.opPrune s f) s := by
  have only1 := @State.opStep_only
  have only2 := @State.tunNext_only
  generalize hh : (State.opPrune s f) = r
  unfold State.opPrune at hh
  try dsimp only at hh
  repeat' first | split at hh
  all_goals subst hh
  all_goals simp [only1, only2, OnlyLinksTreeSchedHostOut]

theorem State.opAbort_only (s : State) (st : Nat) :
    OnlyLinksTreeSchedHostOut (State.opAbort s st) s := by
  have only1 := @State.opFail_only
  have only2 := @State.tunNext_only
  generalize hh : (State.opAbort s st) = r
  unfold State.opAbort at hh
  try dsimp only at hh
  repeat' first | split at hh
  all_goals subst hh
  all_goals simp [only1, only2, OnlyLinksTreeSchedHostOut]

theorem State.cutTunnels_only (s : State) (crossing : List Nat) :
    OnlyLinksTreeSchedHostOut (State.cutTunnels s crossing) s := by
  have only1 := @State.complete_only
  have only2 := @State.modTun_only
  have only3 := @State.opAbort_only
  have only4 := @State.opGo_only
  have only5 := @State.opPrune_only
  have only6 := @State.setOp_only
  have only7 := @State.tunNext_only
  generalize hh : (State.cutTunnels s crossing) = r
  unfold State.cutTunnels at hh
  try dsimp only at hh
  repeat' first | split at hh
  all_goals subst hh
  all_goals simp [only1, only2, only3, only4, only5, only6, only7, OnlyLinksTreeSchedHostOut]

theorem State.lapse_only (s : State) :
    OnlyTree (State.lapse s) s := by
  simp [State.lapse, OnlyTree]

theorem State.linkChange_only (s : State) (hub link event : Nat) (cfg : BitVec 8) (unit : BitVec 64) :
    OnlyLinksTreeSchedTravHostOut (State.linkChange s hub link event cfg unit) s := by
  have only1 := @State.cutTunnels_only
  have only2 := @State.hubEvent_only
  have only3 := @State.lapse_only
  have only4 := @State.launchBack_only
  have only5 := @State.launchCut_only
  have only6 := @State.rootClose_only
  have only7 := @State.setRec_only
  have only8 := @State.tunAsk_only
  generalize hh : (State.linkChange s hub link event cfg unit) = r
  unfold State.linkChange at hh
  try dsimp only at hh
  repeat' first | split at hh
  all_goals subst hh
  all_goals simp [only1, only2, only3, only4, only5, only6, only7, only8, OnlyLinksTreeSchedTravHostOut]

theorem State.sendLinkchg_only (s : State) (l event : Nat) (cfg : BitVec 8) (unit : BitVec 64) :
    OnlyLinksTreeSchedTravHostOut (State.sendLinkchg s l event cfg unit) s := by
  have only1 := @State.emit_only
  have only2 := @State.linkChange_only
  generalize hh : (State.sendLinkchg s l event cfg unit) = r
  unfold State.sendLinkchg at hh
  try dsimp only at hh
  repeat' first | split at hh
  all_goals subst hh
  all_goals simp [only1, only2, OnlyLinksTreeSchedTravHostOut]

theorem State.assign_only (s : State) (h : HelloRec) (n change : Nat) :
    OnlyTreeHostOut (State.assign s h n change) s := by
  have only1 := @State.emit_only
  have only2 := @State.hubEvent_only
  have only3 := @State.setRec_only
  simp [only1, only2, only3, State.assign, OnlyTreeHostOut]

theorem State.refuse_only (s : State) (h : HelloRec) :
    OnlyTreeHostOut (State.refuse s h) s := by
  have only1 := @State.treeEvent_only
  simp [only1, State.refuse, OnlyTreeHostOut]

theorem State.hotAttach_only (s : State) (h : HelloRec) :
    OnlyTreeHostOut (State.hotAttach s h) s := by
  have only1 := @State.assign_only
  have only2 := @State.refuse_only
  generalize hh : (State.hotAttach s h) = r
  unfold State.hotAttach at hh
  try dsimp only at hh
  repeat' first | split at hh
  all_goals subst hh
  all_goals simp [only1, only2, OnlyTreeHostOut]

theorem State.heard_only (s : State) (n : Nat) (h : HelloRec) :
    OnlyLinksTreeSchedHostOut (State.heard s n h) s := by
  have only1 := @State.hubEvent_only
  have only2 := @State.lapse_only
  have only3 := @State.launchBack_only
  have only4 := @State.refuse_only
  have only5 := @State.rootClose_only
  have only6 := @State.setRec_only
  simp [only1, only2, only3, only4, only5, only6, State.heard, OnlyLinksTreeSchedHostOut]

theorem State.sendHello_only (s : State) :
    OnlyOut (State.sendHello s) s := by
  have only1 := @State.emit_only
  generalize hh : (State.sendHello s) = r
  unfold State.sendHello at hh
  try dsimp only at hh
  repeat' first | split at hh
  all_goals subst hh
  all_goals simp [only1, OnlyOut]

theorem effHello_only (link : Nat) (ws : List Word) (s : State) :
    OnlyLinksTreeSchedHostOut (effHello link ws s) s := by
  have only1 := @State.emit_only
  have only2 := @State.heard_only
  have only3 := @State.hotAttach_only
  have only4 := @State.refuse_only
  have only5 := @State.setRec_only
  simp [only1, only2, only3, only4, only5, effHello, OnlyLinksTreeSchedHostOut]

theorem effHelloRepeat_only (s : State) :
    OnlyOut (effHelloRepeat s) s := by
  have only1 := @State.sendHello_only
  simp [only1, effHelloRepeat, OnlyOut]

theorem State.clearRoutes_only (s : State) :
    OnlyTree (State.clearRoutes s) s := by
  simp [State.clearRoutes, OnlyTree]

theorem effAssign_only (ws : List Word) (s : State) :
    OnlyRetModePwrLinksTreeSchedTimeTravHostUsbNetWinOut (effAssign ws s) s := by
  have only1 := @State.clearRoutes_only
  have only2 := @State.closeEntry_only
  have only3 := @State.emit_only
  have only4 := @State.renumberOwn_only
  have only5 := @State.tryReturn_only
  have only6 := @State.tunnelState_only
  simp [only1, only2, only3, only4, only5, only6, effAssign, OnlyRetModePwrLinksTreeSchedTimeTravHostUsbNetWinOut]

theorem effNumbered_only (link : Nat) (ws : List Word) (s : State) :
    OnlyTreeOut (effNumbered link ws s) s := by
  have only1 := @State.emit_only
  have only2 := @State.setGaz_only
  simp [only1, only2, effNumbered, OnlyTreeOut]

theorem effLinkchg_only (link : Nat) (ws : List Word) (s : State) :
    OnlyLinksTreeSchedTravHostOut (effLinkchg link ws s) s := by
  have only1 := @State.emit_only
  have only2 := @State.linkChange_only
  simp [only1, only2, effLinkchg, OnlyLinksTreeSchedTravHostOut]

theorem State.numberAll_only (s : State) (y0 : List HelloRec) :
    OnlyTreeHostOut (State.numberAll s y0) s := by
  have only1 := @State.assign_only
  have only2 := @State.refuse_only
  induction y0 generalizing s with
  | nil => simp [only1, only2, State.numberAll, OnlyTreeHostOut]
  | cons a l ih =>
    generalize hh : State.numberAll s (a :: l) = r
    unfold State.numberAll at hh
    try dsimp only at hh
    repeat' split at hh
    all_goals subst hh
    all_goals simp [only1, only2, OnlyTreeHostOut, ih]

theorem effReattachGraceExpiry_only (link : Nat) (s : State) :
    OnlyLinksTreeSchedTravHostOut (effReattachGraceExpiry link s) s := by
  have only1 := @State.modLink_only
  have only2 := @State.sendLinkchg_only
  generalize hh : (effReattachGraceExpiry link s) = r
  unfold effReattachGraceExpiry at hh
  try dsimp only at hh
  repeat' first | split at hh
  all_goals subst hh
  all_goals simp [only1, only2, OnlyLinksTreeSchedTravHostOut]

theorem State.actingClose_only (s : State) (p : Nat × Gaz) :
    OnlyLinksTreeSchedHostUsbWinOut (State.actingClose s p) s := by
  have only1 := @State.closeEntry_only
  have only2 := @State.flood_only
  have only3 := @State.tunnelState_only
  simp [only1, only2, only3, State.actingClose, OnlyLinksTreeSchedHostUsbWinOut]

theorem effActingRootClose_only (s : State) :
    OnlyLinksTreeSchedHostUsbWinOut (effActingRootClose s) s := by
  have only1 := @State.actingClose_only
  simp [only1, effActingRootClose, OnlyLinksTreeSchedHostUsbWinOut]

theorem State.tunSet_only (s : State) (t tag state cause : Nat) (gen : BitVec 8) :
    OnlyLinksTreeSchedHostUsbWinOut (State.tunSet s t tag state cause gen) s := by
  have only1 := @State.closeEntry_only
  have only2 := @State.setEntry_only
  have only3 := @State.setGaz_only
  have only4 := @State.suspendEntry_only
  have only5 := @State.tunAck_only
  simp [only1, only2, only3, only4, only5, State.tunSet, OnlyLinksTreeSchedHostUsbWinOut]

theorem effTunSet_only (link : Option Nat) (ws : List Word) (s : State) :
    OnlyLinksTreeSchedHostUsbWinOut (effTunSet link ws s) s := by
  have only1 := @State.closeEntry_only
  have only2 := @State.flood_only
  have only3 := @State.suspendEntry_only
  have only4 := @State.tunSet_only
  generalize hh : (effTunSet link ws s) = r
  unfold effTunSet at hh
  try dsimp only at hh
  repeat' first | split at hh
  all_goals subst hh
  all_goals simp [only1, only2, only3, only4, OnlyLinksTreeSchedHostUsbWinOut]

theorem effTunAck_only (ws : List Word) (s : State) :
    OnlyLinksTreeSchedHostOut (effTunAck ws s) s := by
  have only1 := @State.modTun_only
  have only2 := @State.opAbort_only
  have only3 := @State.opPrune_only
  have only4 := @State.opStep_only
  have only5 := @State.rootClose_only
  have only6 := @State.setTun_only
  have only7 := @State.tunNext_only
  generalize hh : (effTunAck ws s) = r
  unfold effTunAck at hh
  try dsimp only at hh
  repeat' first | split at hh
  all_goals subst hh
  all_goals simp [only1, only2, only3, only4, only5, only6, only7, OnlyLinksTreeSchedHostOut]

theorem effTunnelOpenStepTimeout_only (s : State) :
    OnlyLinksTreeSchedHostOut (effTunnelOpenStepTimeout s) s := by
  have only1 := @State.opAbort_only
  generalize hh : (effTunnelOpenStepTimeout s) = r
  unfold effTunnelOpenStepTimeout at hh
  try dsimp only at hh
  repeat' first | split at hh
  all_goals subst hh
  all_goals simp [only1, OnlyLinksTreeSchedHostOut]

theorem effHopCloseDrained_only (tid : Nat) (s : State) :
    OnlyLinksTreeSchedHostUsbWinOut (effHopCloseDrained tid s) s := by
  have only1 := @State.endClosing_only
  simp [only1, effHopCloseDrained, OnlyLinksTreeSchedHostUsbWinOut]

theorem effHopCloseTimeout_only (tid : Nat) (s : State) :
    OnlyLinksTreeSchedHostUsbWinOut (effHopCloseTimeout tid s) s := by
  have only1 := @State.endClosing_only
  simp [only1, effHopCloseTimeout, OnlyLinksTreeSchedHostUsbWinOut]

theorem effCloseAckTimeout_only (hub tid : Nat) (s : State) :
    OnlyLinksTreeSchedHostOut (effCloseAckTimeout hub tid s) s := by
  have only1 := @State.opPrune_only
  generalize hh : (effCloseAckTimeout hub tid s) = r
  unfold effCloseAckTimeout at hh
  try dsimp only at hh
  repeat' first | split at hh
  all_goals subst hh
  all_goals simp [only1, OnlyLinksTreeSchedHostOut]

theorem State.barLink_only (s : State) (r : HubRec) (v : Bool) :
    OnlyLinks (State.barLink s r v) s := by
  have only1 := @State.modLink_only
  simp [only1, State.barLink, OnlyLinks]

theorem State.evict_only (s : State) (n : Nat) (asker : Nat × Nat) :
    OnlyLinksTreeSchedHostOut (State.evict s n asker) s := by
  have only1 := @State.barLink_only
  have only2 := @State.hubEvent_only
  have only3 := @State.rootClose_only
  have only4 := @State.setRec_only
  simp [only1, only2, only3, only4, State.evict, OnlyLinksTreeSchedHostOut]

theorem State.readmit_only (s : State) (n : Nat) :
    OnlyLinksTreeHostOut (State.readmit s n) s := by
  have only1 := @State.assign_only
  have only2 := @State.barLink_only
  have only3 := @State.hubEvent_only
  have only4 := @State.setRec_only
  simp [only1, only2, only3, only4, State.readmit, OnlyLinksTreeHostOut]

theorem State.tunCmd_only (s : State) (c : Cmd) (kind : TunOpKind) :
    OnlyLinksTreeSchedHostOut (State.tunCmd s c kind) s := by
  have only1 := @State.complete_only
  have only2 := @State.tunAsk_only
  simp [only1, only2, State.tunCmd, OnlyLinksTreeSchedHostOut]

theorem effTunOpen_only (c : Cmd) (s : State) :
    OnlyLinksTreeSchedHostOut (effTunOpen c s) s := by
  have only1 := @State.begins_only
  have only2 := @State.complete_only
  have only3 := @State.tunAsk_only
  have onlyE := @State.ended_only
  generalize hh : (effTunOpen c s) = r
  unfold effTunOpen State.runCmd at hh
  try dsimp only at hh
  repeat' first | split at hh
  all_goals subst hh
  all_goals simp [only1, only2, only3, onlyE, OnlyLinksTreeSchedHostOut]


end Sys2Proof.Machine
end

