-- ==== Sys2Proof/Laws/KeepMoves.lean ====
section
/-! SUPPORT. For each operation of Machine/Moves.lean, the parts of the state that it leaves unchanged. -/

namespace Sys2Proof.Machine
open Sys2Proof

theorem State.doneSlice_only (s : State) (c : Cmd) (k st : Nat) :
    OnlyHostOut (State.doneSlice s c k st) s := by
  have only1 := @State.complete_only
  have only2 := @State.dropPend_only
  simp [only1, only2, State.doneSlice, OnlyHostOut]

theorem State.closeOwned_only (s : State) (h k : Nat) (ep : Option Nat) :
    OnlyLinksTreeSchedHostUsbWinOut (State.closeOwned s h k ep).1 s := by
  have only1 := @State.closeEntry_only
  have only2 := @State.rootClose_only
  have only3 := @State.tunAck_only
  have only4 := @State.tunnelState_only
  generalize hh : (State.closeOwned s h k ep) = r
  unfold State.closeOwned at hh
  try dsimp only at hh
  repeat' first | split at hh
  all_goals subst hh
  all_goals simp [only1, only2, only3, only4, OnlyLinksTreeSchedHostUsbWinOut]

theorem State.endDestroy_only (s : State) (k : Nat) :
    OnlyLinksTreeSchedHostUsbWinOut (State.endDestroy s k) s := by
  have only1 := @State.closeOwned_only
  have only2 := @State.doneSlice_only
  have only3 := @State.kick_only
  have only4 := @State.modSlice_only
  have only5 := @State.setSlice_only
  have only6 := @State.winCloseOwner_only
  generalize hh : (State.endDestroy s k) = r
  unfold State.endDestroy at hh
  try dsimp only at hh
  repeat' first | split at hh
  all_goals subst hh
  all_goals simp [only1, only2, only3, only4, only5, only6, OnlyLinksTreeSchedHostUsbWinOut]

theorem State.endFarDestroys_only (s : State) :
    OnlyHostOut (State.endFarDestroys s) s := by
  have only1 := @State.complete_only
  simp [only1, State.endFarDestroys, OnlyHostOut]

theorem State.destroyAnswer_only (s : State) (k hub st : Nat) :
    OnlyLinksTreeSchedHostUsbWinOut (State.destroyAnswer s k hub st) s := by
  have only1 := @State.endDestroy_only
  have only2 := @State.modSlice_only
  simp [only1, only2, State.destroyAnswer, OnlyLinksTreeSchedHostUsbWinOut]

theorem State.moveTunnels_only (s : State) (h k port k' : Nat) :
    OnlyLinksTreeSchedHostOut (State.moveTunnels s h k port k') s := by
  have only1 := @State.rootClose_only
  have only2 := @State.tunAsk_only
  simp [only1, only2, State.moveTunnels, OnlyLinksTreeSchedHostOut]

theorem State.moveSend_only (s : State) (o : MoveOp) (phase : Nat) (hubs : List Nat) :
    OnlyOut (State.moveSend s o phase hubs) s := by
  have only1 := @State.sendSys_only
  simp [only1, State.moveSend, OnlyOut]

theorem State.rewriteOwner_only (s : State) (h k h' k' : Nat) :
    OnlyTreeTimeTravHostNetWin (State.rewriteOwner s h k h' k') s := by
  have only1 := @State.mapOwners_only
  simp [only1, State.rewriteOwner, OnlyTreeTimeTravHostNetWin]

theorem State.moveHop_only (s : State) (c : Cmd) :
    OnlyLinksTreeTimeTravHostNetWinOut (State.moveHop s c) s := by
  have only1 := @State.complete_only
  have only2 := @State.emits_only
  have only3 := @State.rewriteOwner_only
  have only4 := @State.setSlice_only
  have only5 := @State.winCloseOwner_only
  generalize hh : (State.moveHop s c) = r
  unfold State.moveHop at hh
  try dsimp only at hh
  repeat' first | split at hh
  all_goals subst hh
  all_goals simp [only1, only2, only3, only4, only5, OnlyLinksTreeTimeTravHostNetWinOut]

theorem State.moveCommit_only (s : State) (o : MoveOp) (recs : List (List Word)) :
    OnlyLinksTreeSchedHostWinOut (State.moveCommit s o recs) s := by
  have only1 := @State.doneSlice_only
  have only2 := @State.moveSend_only
  have only3 := @State.moveTunnels_only
  have only4 := @State.setSlice_only
  have only5 := @State.winCloseOwner_only
  simp [only1, only2, only3, only4, only5, State.moveCommit, OnlyLinksTreeSchedHostWinOut]

theorem State.moveFail_only (s : State) (o : MoveOp) (st : Nat) :
    OnlyTreeTimeTravHostNetWinOut (State.moveFail s o st) s := by
  have only1 := @State.doneSlice_only
  have only2 := @State.moveSend_only
  have only3 := @State.rewriteOwner_only
  simp [only1, only2, only3, State.moveFail, OnlyTreeTimeTravHostNetWinOut]

theorem State.restoreBlob_only (s : State) (c : Cmd) (far : Nat) (recs : List (List Word)) :
    OnlyLinksTreeSchedTimeTravHostNetWinOut (State.restoreBlob s c far recs) s := by
  have only1 := @State.doneSlice_only
  have only2 := @State.moveCommit_only
  have only3 := @State.moveSend_only
  have only4 := @State.moveTunnels_only
  have only5 := @State.rewriteOwner_only
  have only6 := @State.setSlice_only
  have only7 := @State.winCloseOwner_only
  rcases far with _ | _ | _ | _ | n <;> simp [only1, only2, only3, only4, only5, only6, only7, State.restoreBlob, OnlyLinksTreeSchedTimeTravHostNetWinOut]


theorem State.moveNext_only (s : State) (y0 : Nat) :
    OnlyLinksTreeSchedTimeTravHostNetWinOut (State.moveNext s y0) s := by
  have only1 := @State.restoreBlob_only
  induction y0 generalizing s with
  | zero => simp [State.moveNext, OnlyLinksTreeSchedTimeTravHostNetWinOut]
  | succ n ih =>
    generalize hh : State.moveNext s (n + 1) = r
    unfold State.moveNext at hh
    split at hh
    all_goals subst hh
    all_goals simp [only1, OnlyLinksTreeSchedTimeTravHostNetWinOut, ih]


theorem State.moveGoOn_only (s : State) :
    OnlyLinksTreeSchedTimeTravHostNetWinOut (State.moveGoOn s) s := by
  have only1 := @State.moveNext_only
  simp [only1, State.moveGoOn, OnlyLinksTreeSchedTimeTravHostNetWinOut]

theorem State.moveAnswer_only (s : State) (o : MoveOp) (hub st : Nat) :
    OnlyLinksTreeSchedTimeTravHostNetWinOut (State.moveAnswer s o hub st) s := by
  have only1 := @State.moveCommit_only
  have only2 := @State.moveFail_only
  have only3 := @State.moveGoOn_only
  simp [only1, only2, only3, State.moveAnswer, OnlyLinksTreeSchedTimeTravHostNetWinOut]

theorem State.moveLate_only (s : State) (o : MoveOp) :
    OnlyLinksTreeSchedTimeTravHostNetWinOut (State.moveLate s o) s := by
  have only1 := @State.moveFail_only
  have only2 := @State.moveGoOn_only
  simp [only1, only2, State.moveLate, OnlyLinksTreeSchedTimeTravHostNetWinOut]

theorem State.failRemote_only (s : State) (p : Pend) (st : Nat) :
    OnlyHostOut (State.failRemote s p st) s := by
  have only1 := @State.complete_only
  simp [only1, State.failRemote, OnlyHostOut]

theorem State.hubsGone_only (s : State) (gone : Nat → Bool) :
    OnlyLinksTreeSchedTimeTravHostUsbNetWinOut (State.hubsGone s gone) s := by
  have only1 := @State.destroyAnswer_only
  have only2 := @State.moveAnswer_only
  generalize hh : (State.hubsGone s gone) = r
  unfold State.hubsGone at hh
  try dsimp only at hh
  repeat' first | split at hh
  all_goals subst hh
  all_goals simp [only1, only2, OnlyLinksTreeSchedTimeTravHostUsbNetWinOut]

theorem State.routesClosed_only (s : State) (gone : Nat → Bool) :
    OnlyLinksTreeSchedTimeTravHostUsbNetWinOut (State.routesClosed s gone) s := by
  have only1 := @State.failRemote_only
  have only2 := @State.hopFormDone_only
  have only3 := @State.hubsGone_only
  generalize hh : (State.routesClosed s gone) = r
  unfold State.routesClosed at hh
  try dsimp only at hh
  repeat' first | split at hh
  all_goals subst hh
  all_goals simp [only1, only2, only3, OnlyLinksTreeSchedTimeTravHostUsbNetWinOut]

theorem effInitialEnumerationEnd_only (s : State) :
    OnlyLinksTreeSchedTimeTravHostUsbNetWinOut (effInitialEnumerationEnd s) s := by
  have only1 := @State.complete_only
  have only2 := @State.lapse_only
  have only3 := @State.numberAll_only
  have only4 := @State.routesClosed_only
  have only5 := @State.setGaz_only
  have only6 := @State.setRec_only
  have only7 := @State.treeEvent_only
  generalize hh : (effInitialEnumerationEnd s) = r
  unfold effInitialEnumerationEnd at hh
  try dsimp only at hh
  repeat' first | split at hh
  all_goals subst hh
  all_goals simp [only1, only2, only3, only4, only5, only6, only7, OnlyLinksTreeSchedTimeTravHostUsbNetWinOut]

end Sys2Proof.Machine
end

