-- ==== Sys2Proof/Laws/KeepEpoch.lean ====
section
/-! SUPPORT. For each operation of Machine/Epoch.lean, the parts of the state that it leaves unchanged. -/

namespace Sys2Proof.Machine
open Sys2Proof

theorem State.noteRole_only (s : State) :
    OnlyTreeHostOutFree (State.noteRole s) s := by
  have only1 := @State.drew_only
  have only2 := @State.reportBoth_only
  simp [only1, only2, State.noteRole, OnlyTreeHostOutFree]

theorem effRetrainQuiesced_only (link : Nat) (s : State) :
    OnlyPwrLinksTreeSchedTimeHostOutFree (effRetrainQuiesced link s) s := by
  have only1 := @State.agree_only
  have only2 := @State.complete_only
  have only3 := @State.linkEvent_only
  have only4 := @State.modLink_only
  have only5 := @State.noteRole_only
  have only6 := @State.schedAdvance_only
  have only7 := @State.spoilExchange_only
  simp [only1, only2, only3, only4, only5, only6, only7, effRetrainQuiesced, OnlyPwrLinksTreeSchedTimeHostOutFree]

theorem State.dropQueue_only (s : State) (l : Nat) :
    OnlyLinksTreeSchedOut (State.dropQueue s l) s := by
  have only1 := @State.countDrop_only
  have only2 := @State.leftHop_only
  have only3 := @State.modLink_only
  have only4 := @State.schedAdvance_only
  simp [only1, only2, only3, only4, State.dropQueue, OnlyLinksTreeSchedOut]

theorem State.closeRoutes_only (s : State) (l : Nat) :
    OnlyLinksTreeSchedTimeTravHostUsbNetWinOut (State.closeRoutes s l) s := by
  have only1 := @State.routesClosed_only
  have only2 := @State.setGaz_only
  simp [only1, only2, State.closeRoutes, OnlyLinksTreeSchedTimeTravHostUsbNetWinOut]

theorem State.epochEnd_only (s : State) (l cause : Nat) (down : Bool) :
    OnlyRetModePwrLinksTreeSchedTimeTravHostUsbNetWinOutFree (State.epochEnd s l cause down) s := by
  have only1 := @State.closeRoutes_only
  have only2 := @State.complete_only
  have only3 := @State.dropQueue_only
  have only4 := @State.endLinkCmd_only
  have only5 := @State.linkEvent_only
  have only6 := @State.loseTime_only
  have only7 := @State.modLink_only
  have only8 := @State.newAttempt_only
  have only9 := @State.noteRole_only
  have only10 := @State.sendLinkchg_only
  have only11 := @State.suspendLink_only
  simp [only1, only2, only3, only4, only5, only6, only7, only8, only9, only10, only11, State.epochEnd, OnlyRetModePwrLinksTreeSchedTimeTravHostUsbNetWinOutFree]

theorem effLosEpochTimeout_only (link : Nat) (s : State) :
    OnlyRetModePwrLinksTreeSchedTimeTravHostUsbNetWinOutFree (effLosEpochTimeout link s) s := by
  have only1 := @State.epochEnd_only
  have only2 := @State.setLink_only
  simp [only1, only2, effLosEpochTimeout, OnlyRetModePwrLinksTreeSchedTimeTravHostUsbNetWinOutFree]

theorem effRetrainTimeout_only (link : Nat) (s : State) :
    OnlyRetModePwrLinksTreeSchedTimeTravHostUsbNetWinOutFree (effRetrainTimeout link s) s := by
  have only1 := @State.epochEnd_only
  simp [only1, effRetrainTimeout, OnlyRetModePwrLinksTreeSchedTimeTravHostUsbNetWinOutFree]

theorem State.linkGone_only (s : State) (l : Nat) :
    OnlyRetModePwrLinksTreeSchedTimeTravHostUsbNetWinOutFree (State.linkGone s l) s := by
  have only1 := @State.epochEnd_only
  have only2 := @State.linkEvent_only
  have only3 := @State.modLink_only
  simp [only1, only2, only3, State.linkGone, OnlyRetModePwrLinksTreeSchedTimeTravHostUsbNetWinOutFree]

theorem effCarrierLoss_only (port link : Nat) (s : State) :
    OnlyRetModePwrLinksTreeSchedTimeTravHostUsbNetWinOutFree (effCarrierLoss port link s) s := by
  have only1 := @State.linkGone_only
  have only2 := @State.sbLost_only
  simp [only1, only2, effCarrierLoss, OnlyRetModePwrLinksTreeSchedTimeTravHostUsbNetWinOutFree]

theorem State.windowsAgain_only (s : State) (l : Nat) :
    OnlyLinksTreeSchedHostOut (State.windowsAgain s l) s := by
  have only1 := @State.winAsk_only
  simp [only1, State.windowsAgain, OnlyLinksTreeSchedHostOut]

theorem State.tryUp_only (s : State) (l : Nat) :
    OnlyRetModePwrLinksTreeSchedTimeTravHostOutFree (State.tryUp s l) s := by
  have only1 := @State.endLinkCmd_only
  have only2 := @State.linkEvent_only
  have only3 := @State.modLink_only
  have only4 := @State.noteOver_only
  have only5 := @State.noteRole_only
  have only6 := @State.schedAdvance_only
  have only7 := @State.sendHello_only
  have only8 := @State.sendLinkchg_only
  have only9 := @State.sendTime_only
  have only10 := @State.timeNewEpoch_only
  have only11 := @State.tryReturn_only
  have only12 := @State.windowsAgain_only
  generalize hh : (State.tryUp s l) = r
  unfold State.tryUp at hh
  try dsimp only at hh
  repeat' first | split at hh
  all_goals subst hh
  all_goals simp [only1, only2, only3, only4, only5, only6, only7, only8, only9, only10, only11, only12, OnlyRetModePwrLinksTreeSchedTimeTravHostOutFree]

theorem State.newEpochOn_only (s : State) (l : Nat) (unit : BitVec 64) (cfgGen : BitVec 8) (upf : Bool) (hub : Option Nat) (epoch : BitVec 8) (cont : Bool) (nonce : Word) :
    OnlyLinksOut (State.newEpochOn s l unit cfgGen upf hub epoch cont nonce) s := by
  have only1 := @State.modLink_only
  have only2 := @State.sendFc_only
  simp [only1, only2, State.newEpochOn, OnlyLinksOut]

theorem State.takeIdent_only (s : State) (link : Nat) (unit : BitVec 64) (cfgGen : BitVec 8) (upf : Bool) (hub : Option Nat) (epoch : BitVec 8) (cont : Bool) (nonce : Word) :
    OnlyRetModePwrLinksTreeSchedTimeTravHostUsbNetWinOutFree (State.takeIdent s link unit cfgGen upf hub epoch cont nonce) s := by
  have only1 := @State.epochEnd_only
  have only2 := @State.modLink_only
  have only3 := @State.newEpochOn_only
  have only4 := @State.sendFc_only
  have only5 := @State.trainFail_only
  have only6 := @State.tryUp_only
  simp [only1, only2, only3, only4, only5, only6, State.takeIdent, OnlyRetModePwrLinksTreeSchedTimeTravHostUsbNetWinOutFree]

theorem effIdentReceive_only (link : Nat) (w : Wave) (s : State) :
    OnlyRetModePwrLinksTreeSchedTimeTravHostUsbNetWinOutFree (effIdentReceive link w s) s := by
  have only1 := @State.epochEnd_only
  have only2 := @State.modLink_only
  have only3 := @State.newEpochOn_only
  have only4 := @State.sendFc_only
  have only5 := @State.takeIdent_only
  have only6 := @State.takeLcp_only
  have only7 := @State.trainFail_only
  have only8 := @State.tryUp_only
  have h := @State.takeLcp_only s link w
  unfold effIdentReceive
  split
  · simp [OnlyRetModePwrLinksTreeSchedTimeTravHostUsbNetWinOutFree]
  · split <;> rename_i heq <;> rw [heq] at h <;> dsimp only at h <;> simp [only1, only2, only3, only4, only5, only6, only7, only8, OnlyRetModePwrLinksTreeSchedTimeTravHostUsbNetWinOutFree, h]

theorem State.limitsCome_only (s : State) (l : Nat) (hi : Bool) (limits : List Nat) :
    OnlyRetModePwrLinksTreeSchedTimeTravHostOutFree (State.limitsCome s l hi limits) s := by
  have only1 := @State.modLink_only
  have only2 := @State.tryUp_only
  simp [only1, only2, State.limitsCome, OnlyRetModePwrLinksTreeSchedTimeTravHostOutFree]

theorem effFcUpdateReceive_only (link : Nat) (w : Wave) (s : State) :
    OnlyRetModePwrLinksTreeSchedTimeTravHostOutFree (effFcUpdateReceive link w s) s := by
  have only1 := @State.limitsCome_only
  have only2 := @State.takeLcp_only
  have h := @State.takeLcp_only s link w
  unfold effFcUpdateReceive
  split
  · simp [OnlyRetModePwrLinksTreeSchedTimeTravHostOutFree]
  · split <;> rename_i heq <;> rw [heq] at h <;> dsimp only at h <;> simp [only1, only2, OnlyRetModePwrLinksTreeSchedTimeTravHostOutFree, h]

theorem effInitFcReceive_only (link : Nat) (w : Wave) (s : State) :
    OnlyRetModePwrLinksTreeSchedTimeTravHostOutFree (effInitFcReceive link w s) s := by
  have only1 := @State.limitsCome_only
  have only2 := @State.takeLcp_only
  have h := @State.takeLcp_only s link w
  unfold effInitFcReceive
  split
  · simp [OnlyRetModePwrLinksTreeSchedTimeTravHostOutFree]
  · split <;> rename_i heq <;> rw [heq] at h <;> dsimp only at h <;> simp [only1, only2, OnlyRetModePwrLinksTreeSchedTimeTravHostOutFree, h]

theorem State.freeUnheld_only (s : State) (r : Nat × Nat × Nat) (n : Nat) :
    OnlyLinksOut (State.freeUnheld s r n) s := by
  have only1 := @State.freeCredits_only
  simp [only1, State.freeUnheld, OnlyLinksOut]

theorem State.forwardPkt_only (s : State) (l : Nat) (p : TxPkt) :
    OnlyLinksTreeSchedOut (State.forwardPkt s l p) s := by
  have only1 := @State.countDrop_only
  have only2 := @State.emit_only
  have only3 := @State.fanOut_only
  have only4 := @State.freeUnheld_only
  have only5 := @State.modLink_only
  simp [only1, only2, only3, only4, only5, State.forwardPkt, OnlyLinksTreeSchedOut]

theorem State.sealBad_only (s : State) (l : Nat) (p : TxPkt) :
    OnlyRetModePwrLinksTreeSchedTimeTravHostUsbNetWinOutFree (State.sealBad s l p) s := by
  have only1 := @State.epochEnd_only
  have only2 := @State.freeCredits_only
  have only3 := @State.setLink_only
  simp [only1, only2, only3, State.sealBad, OnlyRetModePwrLinksTreeSchedTimeTravHostUsbNetWinOutFree]

theorem State.takePkt_only (s : State) (link : Nat) (p : TxPkt) (tag : List Byte) :
    OnlyRetModePwrLinksTreeSchedTimeTravHostUsbNetWinOutFree (State.takePkt s link p tag) s := by
  have only1 := @State.forwardPkt_only
  have only2 := @State.sealBad_only
  have only3 := @State.setLink_only
  generalize hh : (State.takePkt s link p tag) = r
  unfold State.takePkt at hh
  try dsimp only at hh
  repeat' first | split at hh
  all_goals subst hh
  all_goals simp [only1, only2, only3, OnlyRetModePwrLinksTreeSchedTimeTravHostUsbNetWinOutFree]

theorem effTunnelPacketReceive_only (link : Nat) (w : Wave) (s : State) :
    OnlyRetModePwrLinksTreeSchedTimeTravHostUsbNetWinOutFree (effTunnelPacketReceive link w s) s := by
  have only1 := @State.forwardPkt_only
  have only2 := @State.modLink_only
  have only3 := @State.sealBad_only
  have only4 := @State.setLink_only
  have only5 := @State.takePkt_only
  have only6 := @State.waveViols_only
  generalize hh : (effTunnelPacketReceive link w s) = r
  unfold effTunnelPacketReceive at hh
  try dsimp only at hh
  repeat' first | split at hh
  all_goals subst hh
  all_goals simp [only1, only2, only3, only4, only5, only6, OnlyRetModePwrLinksTreeSchedTimeTravHostUsbNetWinOutFree]

theorem State.startPattern_only (s : State) (l : Nat) (p : Pattern) :
    OnlyRetModePwrLinksTreeSchedTimeTravHostUsbNetWinOutFree (State.startPattern s l p) s := by
  have only1 := @State.emit_only
  have only2 := @State.epochEnd_only
  have only3 := @State.linkEvent_only
  have only4 := @State.modLink_only
  have only5 := @State.sendSym_only
  simp [only1, only2, only3, only4, only5, State.startPattern, OnlyRetModePwrLinksTreeSchedTimeTravHostUsbNetWinOutFree]

end Sys2Proof.Machine
end

