-- ==== Sys2Proof/Laws/KeepFaultOps.lean ====
section
/-! SUPPORT. For each operation of Machine/FaultOps.lean, the parts of the state that it leaves unchanged. -/

namespace Sys2Proof.Machine
open Sys2Proof

theorem State.setDom_only (s : State) (d : Nat) (x : DomErr) :
    OnlyErr (State.setDom s d x) s := by
  simp [State.setDom, OnlyErr]

theorem State.modDom_only (s : State) (d : Nat) (f : DomErr → DomErr) :
    OnlyErr (State.modDom s d f) s := by
  have only1 := @State.setDom_only
  simp [only1, State.modDom, OnlyErr]

theorem State.noteErr_only (s : State) (d check : Nat) :
    OnlyErr (State.noteErr s d check) s := by
  have only1 := @State.modDom_only
  simp [only1, State.noteErr, OnlyErr]

theorem State.noteFatal_only (s : State) (r : ErrRep) :
    OnlyHostErrOut (State.noteFatal s r) s := by
  have only1 := @State.errReport_only
  have only2 := @State.modDom_only
  simp [only1, only2, State.noteFatal, OnlyHostErrOut]

end Sys2Proof.Machine
end

