-- ==== Sys2Proof/Laws/KeepFlash.lean ====
section
/-! SUPPORT. For each operation of Machine/Flash.lean, the parts of the state that it leaves unchanged. -/

namespace Sys2Proof.Machine
open Sys2Proof

theorem State.setArea_only (s : State) (a : DataArea) :
    OnlyNv (State.setArea s a) s := by
  simp [State.setArea, OnlyNv]

theorem State.setOther_only (s : State) (a : DataArea) :
    OnlyNv (State.setOther s a) s := by
  simp [State.setOther, OnlyNv]

theorem State.moveArea_only (s : State) (a : DataArea) :
    OnlyNvImg (State.moveArea s a) s := by
  have only1 := @State.setArea_only
  have only2 := @State.setOther_only
  simp [only1, only2, State.moveArea, OnlyNvImg]

theorem State.storeRec_only (s : State) (typ : Nat) (value : List Byte) (f : DataArea → DataArea) :
    OnlyNvImg (State.storeRec s typ value f) s := by
  have only1 := @State.moveArea_only
  have only2 := @State.setArea_only
  simp [only1, only2, State.storeRec, OnlyNvImg]

theorem State.setBoot_only (s : State) (f : DataArea → DataArea) :
    OnlyNvImg (State.setBoot s f) s := by
  have only1 := @State.storeRec_only
  simp [only1, State.setBoot, OnlyNvImg]

theorem State.storeBlob_only (s : State) (k : Nat) (b : List Byte) :
    OnlyNvImg (State.storeBlob s k b) s := by
  have only1 := @State.storeRec_only
  simp [only1, State.storeBlob, OnlyNvImg]

theorem State.dropBlob_only (s : State) (k : Nat) :
    OnlyNvImg (State.dropBlob s k) s := by
  have only1 := @State.storeRec_only
  simp [only1, State.dropBlob, OnlyNvImg]

theorem State.storePair_only (s : State) (iv : List Byte) (p : PairRec) :
    OnlyNvImg (State.storePair s iv p) s := by
  have only1 := @State.storeRec_only
  simp [only1, State.storePair, OnlyNvImg]

theorem State.dropPair_only (s : State) (p : PairRec) :
    OnlyNvImg (State.dropPair s p) s := by
  have only1 := @State.storeRec_only
  simp [only1, State.dropPair, OnlyNvImg]

theorem State.areaBoot_only (s : State) :
    OnlyNvImg (State.areaBoot s) s := by
  simp [State.areaBoot, OnlyNvImg]

end Sys2Proof.Machine
end

