-- ==== Sys2Proof/Laws/KeepKeys.lean ====
section
/-! SUPPORT. For each operation of Machine/Keys.lean, the parts of the state that it leaves unchanged. -/

namespace Sys2Proof.Machine
open Sys2Proof

theorem State.drbg_only (s : State) (n : Nat) :
    OnlyFree (State.drbg s n).2 s := by
  simp [State.drbg, OnlyFree]

theorem State.setKslot_only (s : State) (k : Nat) (x : KeySlot) :
    OnlyKeys (State.setKslot s k x) s := by
  simp [State.setKslot, OnlyKeys]

theorem State.putKey_only (s : State) (k typ attr : Nat) (keyid : Word) (exportable : Bool) (origin : Nat) (key : List Byte) :
    OnlyKeysFree (State.putKey s k typ attr keyid exportable origin key) s := by
  have only1 := @State.drbg_only
  have only2 := @State.setKslot_only
  simp [only1, only2, State.putKey, OnlyKeysFree]

theorem State.skimSlot_only (s : State) (k : Nat) :
    OnlyKeysFree (State.skimSlot s k) s := by
  have only1 := @State.drbg_only
  have only2 := @State.setKslot_only
  simp [only1, only2, State.skimSlot, OnlyKeysFree]

theorem effSkimPass_only (s : State) :
    OnlyKeysFree (effSkimPass s) s := by
  have only1 := @State.skimSlot_only
  simp [only1, effSkimPass, OnlyKeysFree]

theorem effEntropyStartupPass_only (s : State) :
    OnlyKeys (effEntropyStartupPass s) s := by
  simp [effEntropyStartupPass, OnlyKeys]

theorem State.keyEvent_only (s : State) (k reason status : Nat) (keyid : Word) (value : Nat) :
    OnlyHostOut (State.keyEvent s k reason status keyid value) s := by
  have only1 := @State.reportHolder_only
  simp [only1, State.keyEvent, OnlyHostOut]

theorem State.pairEvent_only (s : State) (l reason : Nat) (value : Word) :
    OnlyHostOut (State.pairEvent s l reason value) s := by
  have only1 := @State.reportMgmt_only
  simp [only1, State.pairEvent, OnlyHostOut]

theorem State.makeBlob_only (s : State) (x : KeySlot) :
    OnlyFree (State.makeBlob s x).2 s := by
  have only1 := @State.drbg_only
  simp [only1, State.makeBlob, OnlyFree]

theorem State.loadBlob_only (s : State) (k : Nat) (b : List Byte) :
    OnlyKeysFree (State.loadBlob s k b) s := by
  have only1 := @State.putKey_only
  simp [only1, State.loadBlob, OnlyKeysFree]

theorem State.preload_only (s : State) (k : Nat) (b : List Byte) :
    OnlyHostKeysOutFree (State.preload s k b) s := by
  have only1 := @State.keyEvent_only
  have only2 := @State.loadBlob_only
  simp [only1, only2, State.preload, OnlyHostKeysOutFree]

theorem State.reloadBlobs_only (s : State) :
    OnlyHostKeysOutFree (State.reloadBlobs s) s := by
  have only1 := @State.preload_only
  simp [only1, State.reloadBlobs, OnlyHostKeysOutFree]

theorem State.preloadImage_only (s : State) :
    OnlyHostKeysOutFree (State.preloadImage s) s := by
  have only1 := @State.preload_only
  generalize hh : (State.preloadImage s) = r
  unfold State.preloadImage at hh
  try dsimp only at hh
  repeat' first | split at hh
  all_goals subst hh
  all_goals simp [only1, OnlyHostKeysOutFree]

theorem State.keysReload_only (s : State) :
    OnlyHostKeysOutFree (State.keysReload s) s := by
  have only1 := @State.preloadImage_only
  have only2 := @State.reloadBlobs_only
  simp [only1, only2, State.keysReload, OnlyHostKeysOutFree]

theorem State.keysFatal_only (s : State) :
    OnlyHostKeysOutFree (State.keysFatal s) s := by
  have only1 := @State.keyEvent_only
  have only2 := @State.keysReload_only
  simp [only1, only2, State.keysFatal, OnlyHostKeysOutFree]

theorem State.destroySlot_only (s : State) (k : Nat) (persisted : Bool) (bad : Option Nat) :
    OnlyNvHostKeysImgErrOutFree (State.destroySlot s k persisted bad) s := by
  have only1 := @State.dropBlob_only
  have only2 := @State.keyEvent_only
  have only3 := @State.keysFatal_only
  have only4 := @State.noteErr_only
  have only5 := @State.noteFatal_only
  have only6 := @State.setKslot_only
  generalize hh : (State.destroySlot s k persisted bad) = r
  unfold State.destroySlot at hh
  try dsimp only at hh
  repeat' first | split at hh
  all_goals subst hh
  all_goals simp [only1, only2, only3, only4, only5, only6, OnlyNvHostKeysImgErrOutFree]

theorem State.closeSealed_only (s : State) (h l : Nat) (asker : Nat × Nat) :
    OnlyLinksTreeSchedHostOut (State.closeSealed s h l asker) s := by
  have only1 := @State.rootClose_only
  simp [only1, State.closeSealed, OnlyLinksTreeSchedHostOut]

end Sys2Proof.Machine
end

