-- ==== Sys2Proof/Laws/KeepTime.lean ====
section
/-! SUPPORT. For each operation of Machine/Time.lean, the parts of the state that it leaves unchanged. -/

namespace Sys2Proof.Machine
open Sys2Proof

theorem State.ppsSecond_only (s : State) (sec : Nat) :
    OnlyTimeHostOut (State.ppsSecond s sec) s := by
  have only1 := @State.timeAlert_only
  simp [only1, State.ppsSecond, OnlyTimeHostOut]

theorem State.ppsTick_only (s : State) :
    OnlyTimeHostOut (State.ppsTick s) s := by
  have only1 := @State.ppsSecond_only
  simp [only1, State.ppsTick, OnlyTimeHostOut]

theorem State.ppsAccept_only (s : State) (at250 : Nat) (th : Int) :
    OnlyRetModePwrLinksSchedTimeTravHostDispUsbNetWinOut (State.ppsAccept s at250 th) s := by
  have only1 := @State.lockCount_only
  have only2 := @State.servo_only
  have only3 := @State.sourceBack_only
  have only4 := @State.tryReturn_only
  simp [only1, only2, only3, only4, State.ppsAccept, OnlyRetModePwrLinksSchedTimeTravHostDispUsbNetWinOut]

theorem State.ppsCount_only (s : State) (inside : Bool) :
    OnlyTime (State.ppsCount s inside) s := by
  simp [State.ppsCount, OnlyTime]

theorem State.ppsQuiet_only (s : State) :
    OnlyTimeHostOut (State.ppsQuiet s) s := by
  have only1 := @State.timeAlert_only
  simp [only1, State.ppsQuiet, OnlyTimeHostOut]

theorem State.ppsDiscard_only (s : State) :
    OnlyTimeHostOut (State.ppsDiscard s) s := by
  have only1 := @State.timeAlert_only
  simp [only1, State.ppsDiscard, OnlyTimeHostOut]

theorem State.ppsEdge_only (s : State) (at250 : Nat) :
    OnlyRetModePwrLinksSchedTimeTravHostDispUsbNetWinOut (State.ppsEdge s at250) s := by
  have only1 := @State.ppsAccept_only
  have only2 := @State.ppsCount_only
  have only3 := @State.ppsDiscard_only
  have only4 := @State.ppsQuiet_only
  have only5 := @State.ppsSecond_only
  simp [only1, only2, only3, only4, only5, State.ppsEdge, OnlyRetModePwrLinksSchedTimeTravHostDispUsbNetWinOut]

theorem effPpsEdge_only (rising : Bool) (since : Nat) (s : State) :
    OnlyRetModePwrLinksSchedTimeTravHostDispUsbNetWinOut (effPpsEdge rising since s) s := by
  have only1 := @State.ppsEdge_only
  have only2 := @State.setStamp_only
  have only3 := @State.stampEvent_only
  simp [only1, only2, only3, effPpsEdge, OnlyRetModePwrLinksSchedTimeTravHostDispUsbNetWinOut]

theorem effPpsLost_only (s : State) :
    OnlyRetModeTimeHostOut (effPpsLost s) s := by
  have only1 := @State.holdTime_only
  have only2 := @State.loseTime_only
  have only3 := @State.timeAlert_only
  simp [only1, only2, only3, effPpsLost, OnlyRetModeTimeHostOut]

theorem effTimeExchangeStart_only (link cross : Nat) (s : State) :
    OnlyLinksOut (effTimeExchangeStart link cross s) s := by
  have only1 := @State.emit_only
  have only2 := @State.modLink_only
  have only3 := @State.sendSym_only
  generalize hh : (effTimeExchangeStart link cross s) = r
  unfold effTimeExchangeStart at hh
  try dsimp only at hh
  repeat' first | split at hh
  all_goals subst hh
  all_goals simp [only1, only2, only3, OnlyLinksOut]

theorem effTmkReceive_only (link reply since : Nat) (s : State) :
    OnlyLinksTimeOut (effTmkReceive link reply since s) s := by
  have only1 := @State.emit_only
  have only2 := @State.sendSym_only
  have only3 := @State.setLink_only
  simp [only1, only2, only3, effTmkReceive, OnlyLinksTimeOut]

theorem State.takeTimex_only (s : State) (link : Nat) (seq : BitVec 8) (pcode secLo t1 t4 : Nat) (asym : Int) :
    OnlyRetModePwrLinksSchedTimeTravHostDispUsbNetWinOut (State.takeTimex s link seq pcode secLo t1 t4 asym) s := by
  have only1 := @State.exchInvalid_only
  have only2 := @State.setLink_only
  have only3 := @State.useExchange_only
  generalize hh : (State.takeTimex s link seq pcode secLo t1 t4 asym) = r
  unfold State.takeTimex at hh
  try dsimp only at hh
  repeat' first | split at hh
  all_goals subst hh
  all_goals simp [only1, only2, only3, OnlyRetModePwrLinksSchedTimeTravHostDispUsbNetWinOut]

theorem effTimexReceive_only (link : Nat) (w : Wave) (s : State) :
    OnlyRetModePwrLinksSchedTimeTravHostDispUsbNetWinOut (effTimexReceive link w s) s := by
  have only1 := @State.exchInvalid_only
  have only2 := @State.setLink_only
  have only3 := @State.takeLcp_only
  have only4 := @State.takeTimex_only
  have only5 := @State.useExchange_only
  have h := @State.takeLcp_only s link w
  unfold effTimexReceive
  split
  · simp [OnlyRetModePwrLinksSchedTimeTravHostDispUsbNetWinOut]
  · split <;> rename_i heq <;> rw [heq] at h <;> dsimp only at h <;> simp [only1, only2, only3, only4, only5, OnlyRetModePwrLinksSchedTimeTravHostDispUsbNetWinOut, h]

theorem effExchangeInvalidTimeout_only (link : Nat) (s : State) :
    OnlyRetModeLinksTimeHostOut (effExchangeInvalidTimeout link s) s := by
  have only1 := @State.exchInvalid_only
  have only2 := @State.modLink_only
  simp [only1, only2, effExchangeInvalidTimeout, OnlyRetModeLinksTimeHostOut]

theorem effTimeStepApply_only (s : State) :
    OnlyRetModePwrLinksSchedTimeTravHostDispUsbNetWinOut (effTimeStepApply s) s := by
  have only1 := @State.applyStep_only
  generalize hh : (effTimeStepApply s) = r
  unfold effTimeStepApply at hh
  try dsimp only at hh
  repeat' first | split at hh
  all_goals subst hh
  all_goals simp [only1, OnlyRetModePwrLinksSchedTimeTravHostDispUsbNetWinOut]

theorem effTimeMessageSend_only (s : State) :
    OnlyLinksSchedTime (effTimeMessageSend s) s := by
  have only1 := @State.sendTime_only
  simp [only1, effTimeMessageSend, OnlyLinksSchedTime]

theorem State.useHeld_only (s : State) (t : Time) (m : Nat) :
    OnlyRetModePwrLinksSchedTimeTravHostDispUsbNetWinOut (State.useHeld s t m) s := by
  have only1 := @State.useExchange_only
  generalize hh : (State.useHeld s t m) = r
  unfold State.useHeld at hh
  try dsimp only at hh
  repeat' first | split at hh
  all_goals subst hh
  all_goals simp [only1, OnlyRetModePwrLinksSchedTimeTravHostDispUsbNetWinOut]

theorem effTimeMessage_only (ws : List Word) (s : State) :
    OnlyRetModePwrLinksSchedTimeTravHostDispUsbNetWinOut (effTimeMessage ws s) s := by
  have only1 := @State.orderStep_only
  have only2 := @State.stepAt_only
  have only3 := @State.useHeld_only
  simp [only1, only2, only3, effTimeMessage, OnlyRetModePwrLinksSchedTimeTravHostDispUsbNetWinOut]

theorem effTrigEdge_only (src : Nat) (rising : Bool) (since : Nat) (s : State) :
    OnlyTimeTravHostOut (effTrigEdge src rising since s) s := by
  have only1 := @State.feedEdge_only
  have only2 := @State.setStamp_only
  have only3 := @State.stampEdge_only
  simp [only1, only2, only3, effTrigEdge, OnlyTimeTravHostOut]

theorem State.putOutput_only (s : State) (pin : Nat) (x : TimeOut) :
    OnlyTime (State.putOutput s pin x) s := by
  simp [State.putOutput, OnlyTime]

theorem effTimeOutEdge_only (pin : Nat) (s : State) :
    OnlyTimeOut (effTimeOutEdge pin s) s := by
  have only1 := @State.emit_only
  have only2 := @State.putOutput_only
  generalize hh : (effTimeOutEdge pin s) = r
  unfold effTimeOutEdge at hh
  try dsimp only at hh
  repeat' first | split at hh
  all_goals subst hh
  all_goals simp [only1, only2, OnlyTimeOut]

theorem State.setTimeSource_only (s : State) (pps falling : Bool) (delay : Int) :
    OnlyRetModePwrLinksTimeHostOut (State.setTimeSource s pps falling delay) s := by
  have only1 := @State.tryReturn_only
  simp [only1, State.setTimeSource, OnlyRetModePwrLinksTimeHostOut]

theorem State.setTimeOut_only (s : State) (pin : Nat) (x : TimeOut) :
    OnlyTimeOut (State.setTimeOut s pin x) s := by
  have only1 := @State.emit_only
  have only2 := @State.putOutput_only
  simp [only1, only2, State.setTimeOut, OnlyTimeOut]

end Sys2Proof.Machine
end

