-- ==== Sys2Proof/Laws/KeepHost.lean ====
section
/-! SUPPORT. For each operation of Machine/Host.lean, the parts of the state that it leaves unchanged. -/

namespace Sys2Proof.Machine
open Sys2Proof

theorem effHostPortPowerState_only (port : Nat) (up d0 memEn pasidEn funcMask : Bool) (mps mrrs : Nat) (s : State) :
    OnlyLinksTreeSchedHostWinErrOutFree (effHostPortPowerState port up d0 memEn pasidEn funcMask mps mrrs s) s := by
  have only1 := @State.flushPort_only
  have only2 := @State.msixUnmask_only
  have only3 := @State.present_only
  have only4 := @State.sendPosted_only
  have only5 := @State.setHport_only
  simp [only1, only2, only3, only4, only5, effHostPortPowerState, OnlyLinksTreeSchedHostWinErrOutFree]

theorem State.resetSlice_only (s : State) (k : Nat) (queues : Bool) :
    OnlyHostOut (State.resetSlice s k queues) s := by
  have only1 := @State.kick_only
  have only2 := @State.setSlice_only
  simp [only1, only2, State.resetSlice, OnlyHostOut]

theorem State.doneGrant_only (s : State) (c : Cmd) (st : Nat) :
    OnlyHostOut (State.doneGrant s c st) s := by
  have only1 := @State.complete_only
  simp [only1, State.doneGrant, OnlyHostOut]

theorem State.forceEngine_only (s : State) (safe : Bool) (e : Nat) :
    OnlyTravHostOut (State.forceEngine s safe e) s := by
  have only1 := @State.abortEngine_only
  have only2 := @State.abortedEvent_only
  simp [only1, only2, State.forceEngine, OnlyTravHostOut]

theorem State.seize_only (s : State) (g : Grant) (safe : Bool) :
    OnlyNvTimeTravHostDispNetKeysImgErrOutFree (State.seize s g safe) s := by
  have only1 := @State.abortSends_only
  have only2 := @State.destroySlot_only
  have only3 := @State.emit_only
  have only4 := @State.forceEngine_only
  have only5 := @State.modHead_only
  have only6 := @State.setAct_only
  have only7 := @State.setCan_only
  have only8 := @State.setStamp_only
  have only9 := @State.setTimeOut_only
  generalize hh : (State.seize s g safe) = r
  unfold State.seize at hh
  try dsimp only at hh
  repeat' first | split at hh
  all_goals subst hh
  all_goals simp [only1, only2, only3, only4, only5, only6, only7, only8, only9, OnlyNvTimeTravHostDispNetKeysImgErrOutFree]

theorem State.endRevoke_only (s : State) (r : Revoke) :
    OnlyNvLinksTreeSchedTimeTravHostDispUsbNetWinKeysImgErrOutFree (State.endRevoke s r) s := by
  have only1 := @State.closeOwned_only
  have only2 := @State.complete_only
  have only3 := @State.endDestroy_only
  have only4 := @State.endFarDestroys_only
  have only5 := @State.seize_only
  generalize hh : (State.endRevoke s r) = r
  unfold State.endRevoke State.causedBy at hh
  try dsimp only at hh
  repeat' first | split at hh
  all_goals subst hh
  all_goals simp [only1, only2, only3, only4, only5, OnlyNvLinksTreeSchedTimeTravHostDispUsbNetWinKeysImgErrOutFree]

theorem State.beginRevoke_only (s : State) (g : Grant) (safe : Bool) (cmd : Option Cmd) :
    OnlyNvLinksTreeSchedTimeTravHostDispUsbNetWinKeysImgErrOutFree (State.beginRevoke s g safe cmd) s := by
  have only1 := @State.endRevoke_only
  simp [only1, State.beginRevoke, OnlyNvLinksTreeSchedTimeTravHostDispUsbNetWinKeysImgErrOutFree]

theorem effRevokeDrainEnd_only (kind index hub slice : Nat) (s : State) :
    OnlyNvLinksTreeSchedTimeTravHostDispUsbNetWinKeysImgErrOutFree (effRevokeDrainEnd kind index hub slice s) s := by
  have only1 := @State.endRevoke_only
  generalize hh : (effRevokeDrainEnd kind index hub slice s) = r
  unfold effRevokeDrainEnd at hh
  try dsimp only at hh
  repeat' first | split at hh
  all_goals subst hh
  all_goals simp [only1, OnlyNvLinksTreeSchedTimeTravHostDispUsbNetWinKeysImgErrOutFree]

theorem State.stripHolder_only (s : State) (h k : Nat) :
    OnlyNvLinksTreeSchedTimeTravHostDispUsbNetWinKeysImgErrOutFree (State.stripHolder s h k) s := by
  have only1 := @State.abortEngine_only
  have only2 := @State.beginRevoke_only
  simp [only1, only2, State.stripHolder, OnlyNvLinksTreeSchedTimeTravHostDispUsbNetWinKeysImgErrOutFree]

theorem State.farDestroy_only (s : State) (c : Cmd) :
    OnlyNvLinksTreeSchedTimeTravHostDispUsbNetWinKeysImgErrOutFree (State.farDestroy s c) s := by
  have only1 := @State.endFarDestroys_only
  have only2 := @State.stripHolder_only
  have only3 := @State.winCloseOwner_only
  simp [only1, only2, only3, State.farDestroy, OnlyNvLinksTreeSchedTimeTravHostDispUsbNetWinKeysImgErrOutFree]

theorem State.destroyElsewhere_only (s : State) (c : Cmd) (k : Nat) :
    OnlyHostOut (State.destroyElsewhere s c k) s := by
  have only1 := @State.modSlice_only
  have only2 := @State.sendSys_only
  simp [only1, only2, State.destroyElsewhere, OnlyHostOut]

theorem effFreezeDrainEnd_only (slice : Nat) (s : State) :
    OnlyHostOut (effFreezeDrainEnd slice s) s := by
  have only1 := @State.doneSlice_only
  have only2 := @State.modSlice_only
  generalize hh : (effFreezeDrainEnd slice s) = r
  unfold effFreezeDrainEnd at hh
  try dsimp only at hh
  repeat' first | split at hh
  all_goals subst hh
  all_goals simp [only1, only2, OnlyHostOut]

theorem effCookieExpiry_only (slice : Nat) (s : State) :
    OnlyHost (effCookieExpiry slice s) s := by
  have only1 := @State.setSlice_only
  simp [only1, effCookieExpiry, OnlyHost]

theorem State.moveEps_only (s : State) (k port : Nat) :
    OnlyTree (State.moveEps s k port) s := by
  simp [State.moveEps, OnlyTree]

theorem effSliceMoveTimeout_only (s : State) :
    OnlyLinksTreeSchedTimeTravHostNetWinOut (effSliceMoveTimeout s) s := by
  have only1 := @State.doneSlice_only
  have only2 := @State.moveLate_only
  generalize hh : (effSliceMoveTimeout s) = r
  unfold effSliceMoveTimeout at hh
  try dsimp only at hh
  repeat' first | split at hh
  all_goals subst hh
  all_goals simp [only1, only2, OnlyLinksTreeSchedTimeTravHostNetWinOut]

end Sys2Proof.Machine
end

