-- ==== Sys2Proof/Laws/KeepPower.lean ====
section
/-! SUPPORT. For each operation of Machine/Power.lean, the parts of the state that it leaves unchanged. -/

set_option linter.unusedTactic false
set_option linter.unreachableTactic false
set_option linter.unusedSimpArgs false

namespace Sys2Proof.Machine
open Sys2Proof

theorem State.sendRequest_only (s : State) (p idx v i : Nat) :
    OnlyPwr (State.sendRequest s p idx v i) s := by
  have only1 := @State.modPort_only
  have only2 := @State.sbPush_only
  simp [only1, only2, State.sendRequest, OnlyPwr]

theorem effSrcCaps_only (port : Nat) (f : SbFrame) (s : State) :
    OnlyPwrHostOut (effSrcCaps port f s) s := by
  have only1 := @State.pwrEvent_only
  have only2 := @State.sbReceive_only
  have only3 := @State.sendRequest_only
  have only4 := @State.setPort_only
  have onlyD := @State.sbDiscard_only
  generalize hh : (effSrcCaps port f s) = r
  unfold effSrcCaps State.pwrFrame at hh
  try dsimp only at hh
  repeat' first | split at hh | dsimp only at hh
  all_goals subst hh
  all_goals first
    | (simp [onlyD, only1, only2, only3, only4, OnlyPwrHostOut]; done)
    | (have k := congrArg Prod.fst ‹_ = (_, _)›; dsimp only at k; subst k; simp [only1, only2, only3, only4, OnlyPwrHostOut]; done)

theorem State.pushReject_only (s : State) (p msgid reason : Nat) :
    OnlyPwr (State.pushReject s p msgid reason) s := by
  have only1 := @State.sbPush_only
  simp [only1, State.pushReject, OnlyPwr]

theorem State.refuseRequest_only (s : State) (p msgid reason : Nat) :
    OnlyPwr (State.refuseRequest s p msgid reason) s := by
  have only1 := @State.modPort_only
  have only2 := @State.pushReject_only
  simp [only1, only2, State.refuseRequest, OnlyPwr]

theorem effRequestFrame_only (port : Nat) (f : SbFrame) (s : State) :
    OnlyPwrHostOut (effRequestFrame port f s) s := by
  have only1 := @State.convStart_only
  have only2 := @State.endArm_only
  have only3 := @State.pushReject_only
  have only4 := @State.refuseRequest_only
  have only5 := @State.sbPush_only
  have only6 := @State.sbReceive_only
  have only7 := @State.setPort_only
  have only8 := @State.tryClose_only
  have onlyD := @State.sbDiscard_only
  generalize hh : (effRequestFrame port f s) = r
  unfold effRequestFrame State.pwrFrame at hh
  try dsimp only at hh
  repeat' first | split at hh | dsimp only at hh
  all_goals subst hh
  all_goals first
    | (simp [onlyD, only1, only2, only3, only4, only5, only6, only7, only8, OnlyPwrHostOut]; done)
    | (have k := congrArg Prod.fst ‹_ = (_, _)›; dsimp only at k; subst k; simp [only1, only2, only3, only4, only5, only6, only7, only8, OnlyPwrHostOut]; done)

theorem State.startSwap_only (s : State) (p r : Nat) :
    OnlyPwrOut (State.startSwap s p r) s := by
  have only1 := @State.convIdle_only
  have only2 := @State.convStart_only
  have only3 := @State.setPort_only
  simp [only1, only2, only3, State.startSwap, OnlyPwrOut]

theorem effAcceptFrame_only (port : Nat) (f : SbFrame) (s : State) :
    OnlyPwrHostOut (effAcceptFrame port f s) s := by
  have only1 := @State.endArm_only
  have only2 := @State.sbReceive_only
  have only3 := @State.setPort_only
  have only4 := @State.startSwap_only
  have onlyD := @State.sbDiscard_only
  generalize hh : (effAcceptFrame port f s) = r
  unfold effAcceptFrame State.pwrFrame at hh
  try dsimp only at hh
  repeat' first | split at hh | dsimp only at hh
  all_goals subst hh
  all_goals first
    | (simp [onlyD, only1, only2, only3, only4, OnlyPwrHostOut]; done)
    | (have k := congrArg Prod.fst ‹_ = (_, _)›; dsimp only at k; subst k; simp [only1, only2, only3, only4, OnlyPwrHostOut]; done)

theorem effRejectFrame_only (port : Nat) (f : SbFrame) (s : State) :
    OnlyPwrHostOut (effRejectFrame port f s) s := by
  have only1 := @State.endContract_only
  have only2 := @State.endSwapCmd_only
  have only3 := @State.pwrEvent_only
  have only4 := @State.sbReceive_only
  have only5 := @State.setPort_only
  have onlyD := @State.sbDiscard_only
  generalize hh : (effRejectFrame port f s) = r
  unfold effRejectFrame State.pwrFrame at hh
  try dsimp only at hh
  repeat' first | split at hh | dsimp only at hh
  all_goals subst hh
  all_goals first
    | (simp [onlyD, only1, only2, only3, only4, only5, OnlyPwrHostOut]; done)
    | (have k := congrArg Prod.fst ‹_ = (_, _)›; dsimp only at k; subst k; simp [only1, only2, only3, only4, only5, OnlyPwrHostOut]; done)

theorem State.finishSwap_only (s : State) (p r : Nat) :
    OnlyPwrHostOut (State.finishSwap s p r) s := by
  have only1 := @State.endSwapCmd_only
  have only2 := @State.pwrEvent_only
  have only3 := @State.setPort_only
  simp [only1, only2, only3, State.finishSwap, OnlyPwrHostOut]

theorem effPsRdy_only (port : Nat) (f : SbFrame) (s : State) :
    OnlyPwrHostOut (effPsRdy port f s) s := by
  have only1 := @State.endContract_only
  have only2 := @State.finishSwap_only
  have only3 := @State.sbReceive_only
  have only4 := @State.setPort_only
  have only5 := @State.tryClose_only
  have onlyD := @State.sbDiscard_only
  generalize hh : (effPsRdy port f s) = r
  unfold effPsRdy State.pwrFrame at hh
  try dsimp only at hh
  repeat' first | split at hh | dsimp only at hh
  all_goals subst hh
  all_goals first
    | (simp [onlyD, only1, only2, only3, only4, only5, OnlyPwrHostOut]; done)
    | (have k := congrArg Prod.fst ‹_ = (_, _)›; dsimp only at k; subst k; simp [only1, only2, only3, only4, only5, OnlyPwrHostOut]; done)

theorem effSwapReq_only (port : Nat) (f : SbFrame) (s : State) :
    OnlyPwrHostOut (effSwapReq port f s) s := by
  have only1 := @State.endArm_only
  have only2 := @State.endSwapCmd_only
  have only3 := @State.modPort_only
  have only4 := @State.pushReject_only
  have only5 := @State.pwrEvent_only
  have only6 := @State.sbPush_only
  have only7 := @State.sbReceive_only
  have only8 := @State.startSwap_only
  have onlyD := @State.sbDiscard_only
  generalize hh : (effSwapReq port f s) = r
  unfold effSwapReq State.pwrFrame at hh
  try dsimp only at hh
  repeat' first | split at hh | dsimp only at hh
  all_goals subst hh
  all_goals first
    | (simp [onlyD, only1, only2, only3, only4, only5, only6, only7, only8, OnlyPwrHostOut]; done)
    | (have k := congrArg Prod.fst ‹_ = (_, _)›; dsimp only at k; subst k; simp [only1, only2, only3, only4, only5, only6, only7, only8, OnlyPwrHostOut]; done)

theorem State.sendSwap_only (s : State) (p r : Nat) :
    OnlyPwr (State.sendSwap s p r) s := by
  have only1 := @State.modPort_only
  have only2 := @State.sbPush_only
  simp [only1, only2, State.sendSwap, OnlyPwr]

theorem effSwapRetry_only (port : Nat) (s : State) :
    OnlyPwr (effSwapRetry port s) s := by
  have only1 := @State.sendSwap_only
  have only2 := @State.setPort_only
  generalize hh : (effSwapRetry port s) = r
  unfold effSwapRetry at hh
  try dsimp only at hh
  repeat' first | split at hh
  all_goals subst hh
  all_goals simp [only1, only2, OnlyPwr]

theorem effFsArm_only (port : Nat) (f : SbFrame) (s : State) :
    OnlyPwrHostOut (effFsArm port f s) s := by
  have only1 := @State.endArm_only
  have only2 := @State.modPort_only
  have only3 := @State.sbReceive_only
  have only4 := @State.tryArm_only
  have onlyD := @State.sbDiscard_only
  generalize hh : (effFsArm port f s) = r
  unfold effFsArm State.pwrFrame at hh
  try dsimp only at hh
  repeat' first | split at hh | dsimp only at hh
  all_goals subst hh
  all_goals first
    | (simp [onlyD, only1, only2, only3, only4, OnlyPwrHostOut]; done)
    | (have k := congrArg Prod.fst ‹_ = (_, _)›; dsimp only at k; subst k; simp [only1, only2, only3, only4, OnlyPwrHostOut]; done)

theorem effGoodbye_only (port : Nat) (f : SbFrame) (s : State) :
    OnlyPwrHostOut (effGoodbye port f s) s := by
  have only1 := @State.backToAttaching_only
  have only2 := @State.convIdle_only
  have only3 := @State.endContract_only
  have only4 := @State.endSwapCmd_only
  have only5 := @State.modPort_only
  have only6 := @State.pwrEvent_only
  have only7 := @State.sbReceive_only
  have only8 := @State.setPort_only
  have only9 := @State.tryCaps_only
  have onlyD := @State.sbDiscard_only
  generalize hh : (effGoodbye port f s) = r
  unfold effGoodbye State.pwrFrame at hh
  try dsimp only at hh
  repeat' first | split at hh | dsimp only at hh
  all_goals subst hh
  all_goals first
    | (simp [onlyD, only1, only2, only3, only4, only5, only6, only7, only8, only9, OnlyPwrHostOut]; done)
    | (have k := congrArg Prod.fst ‹_ = (_, _)›; dsimp only at k; subst k; simp [only1, only2, only3, only4, only5, only6, only7, only8, only9, OnlyPwrHostOut]; done)

theorem effNegotiationTimeout_only (port : Nat) (s : State) :
    OnlyPwrHostOut (effNegotiationTimeout port s) s := by
  have only1 := @State.exchangeFailed_only
  simp [only1, effNegotiationTimeout, OnlyPwrHostOut]

theorem effSrcCapsResend_only (port : Nat) (s : State) :
    OnlyPwr (effSrcCapsResend port s) s := by
  have only1 := @State.modPort_only
  have only2 := @State.tryCaps_only
  simp [only1, only2, effSrcCapsResend, OnlyPwr]

theorem effFoldbackUpdate_only (port vhub vcab imeas vkeep : Nat) (pfltLow : Bool) (s : State) :
    OnlyPwrHostOut (effFoldbackUpdate port vhub vcab imeas vkeep pfltLow s) s := by
  have only1 := @State.endArm_only
  have only2 := @State.keepUpdate_only
  have only3 := @State.sbPush_only
  have only4 := @State.setPort_only
  have only5 := @State.tryCaps_only
  have only6 := @State.tryClose_only
  simp [only1, only2, only3, only4, only5, only6, effFoldbackUpdate, OnlyPwrHostOut]

theorem effComparatorTrip_only (port : Nat) (ov : Bool) (s : State) :
    OnlyPwrHostOut (effComparatorTrip port ov s) s := by
  have only1 := @State.powerFault_only
  simp [only1, effComparatorTrip, OnlyPwrHostOut]

theorem effCurrentLimitEnd_only (port : Nat) (s : State) :
    OnlyPwr (effCurrentLimitEnd port s) s := by
  have only1 := @State.setPort_only
  simp [only1, effCurrentLimitEnd, OnlyPwr]

theorem effFaultTimerExpiry_only (port : Nat) (s : State) :
    OnlyPwrHostOut (effFaultTimerExpiry port s) s := by
  have only1 := @State.powerFault_only
  simp [only1, effFaultTimerExpiry, OnlyPwrHostOut]

theorem effUvOvFilter_only (port : Nat) (ov : Bool) (s : State) :
    OnlyPwrHostOut (effUvOvFilter port ov s) s := by
  have only1 := @State.backToAttaching_only
  have only2 := @State.endContract_only
  have only3 := @State.endSwapCmd_only
  have only4 := @State.powerFault_only
  simp [only1, only2, only3, only4, effUvOvFilter, OnlyPwrHostOut]

theorem effInsertionDelay_only (port : Nat) (s : State) :
    OnlyPwrHostOut (effInsertionDelay port s) s := by
  have only1 := @State.setPort_only
  have only2 := @State.tryArm_only
  have only3 := @State.tryClose_only
  simp [only1, only2, only3, effInsertionDelay, OnlyPwrHostOut]

theorem effQualificationDone_only (port : Nat) (s : State) :
    OnlyPwrHostOut (effQualificationDone port s) s := by
  have only1 := @State.finishSwap_only
  have only2 := @State.modPort_only
  have only3 := @State.pwrEvent_only
  have only4 := @State.sbPush_only
  have only5 := @State.setPort_only
  simp [only1, only2, only3, only4, only5, effQualificationDone, OnlyPwrHostOut]

theorem effDischargeDone_only (port : Nat) (s : State) :
    OnlyPwrHostOut (effDischargeDone port s) s := by
  have only1 := @State.attachPower_only
  have only2 := @State.modPort_only
  have only3 := @State.pwrEvent_only
  have only4 := @State.sbPush_only
  have only5 := @State.setPort_only
  have only6 := @State.tryCaps_only
  simp [only1, only2, only3, only4, only5, only6, effDischargeDone, OnlyPwrHostOut]

theorem effFetShort_only (port : Nat) (s : State) :
    OnlyPwrHostOut (effFetShort port s) s := by
  have only1 := @State.convOperate_only
  have only2 := @State.endContract_only
  have only3 := @State.endSwapCmd_only
  have only4 := @State.pwrEvent_only
  have only5 := @State.sbPush_only
  have only6 := @State.setPort_only
  simp [only1, only2, only3, only4, only5, only6, effFetShort, OnlyPwrHostOut]

theorem effRetryTimerExpiry_only (port : Nat) (keep : Bool) (s : State) :
    OnlyPwr (effRetryTimerExpiry port keep s) s := by
  have only1 := @State.keepUpdate_only
  have only2 := @State.setPort_only
  have only3 := @State.tryCaps_only
  simp [only1, only2, only3, effRetryTimerExpiry, OnlyPwr]

theorem effKeepOffDone_only (port : Nat) (s : State) :
    OnlyPwr (effKeepOffDone port s) s := by
  have only1 := @State.sbPush_only
  have only2 := @State.setPort_only
  simp [only1, only2, effKeepOffDone, OnlyPwr]

theorem effKeepSenseFault_only (port : Nat) (s : State) :
    OnlyPwrHostOut (effKeepSenseFault port s) s := by
  have only1 := @State.pwrEvent_only
  have only2 := @State.setPort_only
  simp [only1, only2, effKeepSenseFault, OnlyPwrHostOut]

theorem effKeepInRange_only (port : Nat) (s : State) :
    OnlyPwrHostOut (effKeepInRange port s) s := by
  have only1 := @State.finishSwap_only
  have only2 := @State.sbPush_only
  simp [only1, only2, effKeepInRange, OnlyPwrHostOut]

theorem effFastSwapCrossing_only (port : Nat) (s : State) :
    OnlyPwrOut (effFastSwapCrossing port s) s := by
  have only1 := @State.convIdle_only
  have only2 := @State.setPort_only
  simp [only1, only2, effFastSwapCrossing, OnlyPwrOut]

theorem effFastSwapClose_only (port : Nat) (s : State) :
    OnlyPwrHostOut (effFastSwapClose port s) s := by
  have only1 := @State.pwrEvent_only
  have only2 := @State.setPort_only
  simp [only1, only2, effFastSwapClose, OnlyPwrHostOut]

theorem effTransitionTimeout_only (port : Nat) (s : State) :
    OnlyPwrHostOut (effTransitionTimeout port s) s := by
  have only1 := @State.powerFault_only
  simp [only1, effTransitionTimeout, OnlyPwrHostOut]

theorem effPmbusDone_only (port op value : Nat) (ok : Bool) (s : State) :
    OnlyPwrHostOut (effPmbusDone port op value ok s) s := by
  have only1 := @State.pmbus_only
  have only2 := @State.powerFault_only
  have only3 := @State.pwrEvent_only
  have only4 := @State.setPort_only
  simp [only1, only2, only3, only4, effPmbusDone, OnlyPwrHostOut]

theorem effPmbAlert_only (s : State) :
    OnlyPwrOut (effPmbAlert s) s := by
  have only1 := @State.pmbus_only
  simp [only1, effPmbAlert, OnlyPwrOut]

theorem effVoutSlewStep_only (port : Nat) (s : State) :
    OnlyPwrOut (effVoutSlewStep port s) s := by
  have only1 := @State.pmbus_only
  have only2 := @State.setPort_only
  simp [only1, only2, effVoutSlewStep, OnlyPwrOut]

theorem effConverterPoll_only (s : State) :
    OnlyOut (effConverterPoll s) s := by
  have only1 := @State.pmbus_only
  simp [only1, effConverterPoll, OnlyOut]

theorem State.pwrSafe_only (s : State) :
    OnlyPwrHostOut (State.pwrSafe s) s := by
  have only1 := @State.convIdle_only
  have only2 := @State.endContract_only
  have only3 := @State.endSwapCmd_only
  have only4 := @State.modPort_only
  simp [only1, only2, only3, only4, State.pwrSafe, OnlyPwrHostOut]

theorem State.pwrLeave_only (s : State) :
    OnlyPwrHostOut (State.pwrLeave s) s := by
  have only1 := @State.backToAttaching_only
  have only2 := @State.endContract_only
  have only3 := @State.endSwapCmd_only
  have only4 := @State.modPort_only
  have only5 := @State.sbPush_only
  simp [only1, only2, only3, only4, only5, State.pwrLeave, OnlyPwrHostOut]

end Sys2Proof.Machine
end

