-- ==== Sys2Proof/Laws/KeepSafeOps.lean ====
section
/-! SUPPORT. For each operation of Machine/SafeOps.lean, the parts of the state that it leaves unchanged. -/

namespace Sys2Proof.Machine
open Sys2Proof

theorem State.pinToSafe_only (s : State) (n : Nat) :
    OnlyOut (State.pinToSafe s n) s := by
  have only1 := @State.emit_only
  generalize hh : (State.pinToSafe s n) = r
  unfold State.pinToSafe at hh
  try dsimp only at hh
  repeat' first | split at hh
  all_goals subst hh
  all_goals simp [only1, OnlyOut]

theorem State.pinsToSafe_only (s : State) :
    OnlyOut (State.pinsToSafe s) s := by
  have only1 := @State.pinToSafe_only
  simp [only1, State.pinsToSafe, OnlyOut]

theorem State.headSafe_only (s : State) (i : Nat) :
    OnlyHostDispOut (State.headSafe s i) s := by
  have only1 := @State.complete_only
  have only2 := @State.setHead_only
  simp [only1, only2, State.headSafe, OnlyHostDispOut]

theorem State.enterSafe_only (s : State) (cause : Nat) :
    OnlyRetModeLatchPwrLinksTreeSchedTravHostDispUsbWinOut (State.enterSafe s cause) s := by
  have only1 := @State.haltEngines_only
  have only2 := @State.headSafe_only
  have only3 := @State.pinsToSafe_only
  have only4 := @State.pwrSafe_only
  have only5 := @State.safeTunnels_only
  have only6 := @State.toMode_only
  have only7 := @State.usbDetachAll_only
  have only8 := @State.wakeTx_only
  simp [only1, only2, only3, only4, only5, only6, only7, only8, State.enterSafe, OnlyRetModeLatchPwrLinksTreeSchedTravHostDispUsbWinOut]

theorem State.randomLink_only (s : State) (l : Nat) :
    OnlyLinksFree (State.randomLink s l) s := by
  have only1 := @State.drew_only
  have only2 := @State.setLink_only
  simp [only1, only2, State.randomLink, OnlyLinksFree]

theorem State.identKept_only (s : State) (l : Nat) :
    OnlyLinks (State.identKept s l) s := by
  have only1 := @State.modLink_only
  generalize hh : (State.identKept s l) = r
  unfold State.identKept at hh
  try dsimp only at hh
  repeat' first | split at hh
  all_goals subst hh
  all_goals simp [only1, OnlyLinks]

theorem State.coreClear_only (s : State) :
    OnlyRetPwrBoardPaceLinksTreeSchedTimeTravHostDispUsbNetWinKeysImgErr (State.coreClear s) s := by
  simp [State.coreClear, OnlyRetPwrBoardPaceLinksTreeSchedTimeTravHostDispUsbNetWinKeysImgErr]

theorem State.coreReset_only (s : State) :
    OnlyRetPwrBoardPaceLinksTreeSchedTimeTravHostDispUsbNetWinKeysImgErrFree (State.coreReset s) s := by
  have only1 := @State.coreClear_only
  have only2 := @State.drew_only
  have only3 := @State.identKept_only
  have only4 := @State.randomLink_only
  simp [only1, only2, only3, only4, State.coreReset, OnlyRetPwrBoardPaceLinksTreeSchedTimeTravHostDispUsbNetWinKeysImgErrFree]

end Sys2Proof.Machine
end

