-- ==== Sys2Proof/Laws/KeepFaults.lean ====
section
/-! SUPPORT. For each operation of Machine/Faults.lean, the parts of the state that it leaves unchanged. -/

namespace Sys2Proof.Machine
open Sys2Proof

theorem State.linkFatal_only (s : State) (l : Nat) :
    OnlyPwrLinksHostOut (State.linkFatal s l) s := by
  have only1 := @State.modLink_only
  have only2 := @State.requestRetrain_only
  simp [only1, only2, State.linkFatal, OnlyPwrLinksHostOut]

theorem State.abandonPkt_only (s : State) (l : Nat) (p : TxPkt) :
    OnlyOutFree (State.abandonPkt s l p) s := by
  have only1 := @State.drew_only
  have only2 := @State.emit_only
  simp [only1, only2, State.abandonPkt, OnlyOutFree]

theorem State.loseRx_only (s : State) (l t : Nat) (tx : Bool) :
    OnlyLinksTreeSchedOutFree (State.loseRx s l t tx) s := by
  have only1 := @State.abandonPkt_only
  have only2 := @State.countDrop_only
  have only3 := @State.leftHop_only
  have only4 := @State.modLink_only
  have only5 := @State.schedAdvance_only
  have only6 := @State.setLink_only
  generalize hh : (State.loseRx s l t tx) = r
  unfold State.loseRx at hh
  try dsimp only at hh
  repeat' first | split at hh
  all_goals subst hh
  all_goals simp [only1, only2, only3, only4, only5, only6, OnlyLinksTreeSchedOutFree]

theorem State.arrayHit_only (s : State) (h : Hit) :
    OnlyNvPwrLinksTreeSchedTravHostDispUsbNetWinKeysImgErrOutFree (State.arrayHit s h) s := by
  have only1 := @State.abortSends_only
  have only2 := @State.canCount_only
  have only3 := @State.complete_only
  have only4 := @State.destroySlot_only
  have only5 := @State.farFail_only
  have only6 := @State.linkFatal_only
  have only7 := @State.loseRx_only
  have only8 := @State.macCount_only
  have only9 := @State.macForget_only
  have only10 := @State.macGo_only
  have only11 := @State.modHead_only
  have only12 := @State.modLink_only
  have only13 := @State.modMac_only
  have only14 := @State.modSlice_only
  have only15 := @State.present_only
  have only16 := @State.proxyError_only
  have only17 := @State.resetSlice_only
  have only18 := @State.setCan_only
  have only19 := @State.setPlane_only
  have only20 := @State.setStore_only
  have only21 := @State.winDrained_only
  have only22 := @effFarAccessDone_only
  generalize hh : (State.arrayHit s h) = r
  unfold State.arrayHit at hh
  try dsimp only at hh
  repeat' first | split at hh
  all_goals subst hh
  all_goals simp [only1, only2, only3, only4, only5, only6, only7, only8, only9, only10, only11, only12, only13, only14, only15, only16, only17, only18, only19, only20, only21, only22, OnlyNvPwrLinksTreeSchedTravHostDispUsbNetWinKeysImgErrOutFree]

theorem State.resetPortSlices_only (s : State) (port : Nat) :
    OnlyHostOut (State.resetPortSlices s port) s := by
  have only1 := @State.resetSlice_only
  simp [only1, State.resetPortSlices, OnlyHostOut]

theorem State.engFatal_only (s : State) (e : Nat) :
    OnlyTravHostOut (State.engFatal s e) s := by
  have only1 := @State.exception_only
  have only2 := @State.modEngine_only
  simp [only1, only2, State.engFatal, OnlyTravHostOut]

theorem State.timeFatal_only (s : State) :
    OnlyRetModeTimeHostOut (State.timeFatal s) s := by
  have only1 := @State.holdTime_only
  have only2 := @State.loseTime_only
  have only3 := @State.timeAlert_only
  simp [only1, only2, only3, State.timeFatal, OnlyRetModeTimeHostOut]

theorem State.domAction_only (s : State) (d : Nat) :
    OnlyRetModePwrLinksTreeSchedTimeTravHostDispUsbNetWinKeysOutFree (State.domAction s d) s := by
  have only1 := @State.busReset_only
  have only2 := @State.dispAlert_only
  have only3 := @State.engFatal_only
  have only4 := @State.keysFatal_only
  have only5 := @State.linkFatal_only
  have only6 := @State.macRestart_only
  have only7 := @State.modCan_only
  have only8 := @State.powerFault_only
  have only9 := @State.resetPortSlices_only
  have only10 := @State.resetSlice_only
  have only11 := @State.setHead_only
  have only12 := @State.timeFatal_only
  have only13 := @State.usbAttach_only
  have only14 := @State.winAbort_only
  have only15 := @effCanBusOff_only
  simp [only1, only2, only3, only4, only5, only6, only7, only8, only9, only10, only11, only12, only13, only14, only15, State.domAction, OnlyRetModePwrLinksTreeSchedTimeTravHostDispUsbNetWinKeysOutFree]

theorem State.endRecoveries_only (s : State) :
    OnlyErr (State.endRecoveries s) s := by
  simp [State.endRecoveries, OnlyErr]

theorem State.deviceFatal_only (s : State) (h : Hit) (inj esc : Bool) :
    OnlyRetModeLatchPwrLinksTreeSchedTravHostDispUsbWinErrOut (State.deviceFatal s h inj esc) s := by
  have only1 := @State.endRecoveries_only
  have only2 := @State.enterSafe_only
  have only3 := @State.errReport_only
  have only4 := @State.modDom_only
  simp [only1, only2, only3, only4, State.deviceFatal, OnlyRetModeLatchPwrLinksTreeSchedTravHostDispUsbWinErrOut]

theorem State.domainFatal_only (s : State) (d : Nat) (h : Hit) (inj esc : Bool) (us : Nat) :
    OnlyRetModeLatchPwrLinksTreeSchedTimeTravHostDispUsbNetWinKeysErrOutFree (State.domainFatal s d h inj esc us) s := by
  have only1 := @State.deviceFatal_only
  have only2 := @State.domAction_only
  have only3 := @State.noteFatal_only
  simp [only1, only2, only3, State.domainFatal, OnlyRetModeLatchPwrLinksTreeSchedTimeTravHostDispUsbNetWinKeysErrOutFree]

theorem State.recover_only (s : State) (d : Nat) (h : Hit) (inj esc : Bool) :
    OnlyPwrLinksSchedHostDispErrOutFree (State.recover s d h inj esc) s := by
  have only1 := @State.abandonPkt_only
  have only2 := @State.drew_only
  have only3 := @State.modDom_only
  have only4 := @State.modHead_only
  have only5 := @State.modLink_only
  have only6 := @State.requestRetrain_only
  have only7 := @State.schedAdvance_only
  have only8 := @State.setBlink_only
  generalize hh : (State.recover s d h inj esc) = r
  unfold State.recover at hh
  try dsimp only at hh
  repeat' first | split at hh
  all_goals subst hh
  all_goals simp [only1, only2, only3, only4, only5, only6, only7, only8, OnlyPwrLinksSchedHostDispErrOutFree]

theorem State.escalate_only (s : State) (x : Nat) (h : Hit) (inj : Bool) :
    OnlyRetModeLatchPwrLinksTreeSchedTravHostDispUsbWinErrOutFree (State.escalate s x h inj) s := by
  have only1 := @State.deviceFatal_only
  have only2 := @State.modDom_only
  have only3 := @State.recover_only
  simp [only1, only2, only3, State.escalate, OnlyRetModeLatchPwrLinksTreeSchedTravHostDispUsbWinErrOutFree]

theorem State.corrected_only (s : State) (h : Hit) (inj : Bool) :
    OnlyHostErrOut (State.corrected s h inj) s := by
  have only1 := @State.errReport_only
  have only2 := @State.setDom_only
  simp [only1, only2, State.corrected, OnlyHostErrOut]

theorem State.detect_only (s : State) (h : Hit) (inj : Bool) :
    OnlyNvRetModeLatchPwrLinksTreeSchedTimeTravHostDispUsbNetWinKeysImgErrOutFree (State.detect s h inj) s := by
  have only1 := @State.arrayHit_only
  have only2 := @State.corrected_only
  have only3 := @State.deviceFatal_only
  have only4 := @State.domainFatal_only
  have only5 := @State.escalate_only
  have only6 := @State.noteErr_only
  have only7 := @State.recover_only
  generalize hh : (State.detect s h inj) = r
  unfold State.detect at hh
  try dsimp only at hh
  repeat' first | split at hh
  all_goals subst hh
  all_goals simp [only1, only2, only3, only4, only5, only6, only7, OnlyNvRetModeLatchPwrLinksTreeSchedTimeTravHostDispUsbNetWinKeysImgErrOutFree]

theorem effTunProg_only (ws : List Word) (s : State) :
    OnlyNvRetModeLatchPwrLinksTreeSchedTimeTravHostDispUsbNetWinKeysImgErrOutFree (effTunProg ws s) s := by
  have only1 := @State.detect_only
  have only2 := @State.setEntry_only
  have only3 := @State.tunAck_only
  simp [only1, only2, only3, effTunProg, OnlyNvRetModeLatchPwrLinksTreeSchedTimeTravHostDispUsbNetWinKeysImgErrOutFree]

theorem effDomainRecoveryEnd_only (dom us : Nat) (s : State) :
    OnlyTreeHostErrOut (effDomainRecoveryEnd dom us s) s := by
  have only1 := @State.errReport_only
  have only2 := @State.modGaz_only
  have only3 := @State.setDom_only
  simp [only1, only2, only3, effDomainRecoveryEnd, OnlyTreeHostErrOut]

theorem effRecoveryBoundExceeded_only (dom : Nat) (s : State) :
    OnlyRetModeLatchPwrLinksTreeSchedTimeTravHostDispUsbNetWinKeysErrOutFree (effRecoveryBoundExceeded dom s) s := by
  have only1 := @State.domainFatal_only
  have only2 := @State.setDom_only
  simp [only1, only2, effRecoveryBoundExceeded, OnlyRetModeLatchPwrLinksTreeSchedTimeTravHostDispUsbNetWinKeysErrOutFree]

theorem State.scrubWordAt_only (s : State) (arr at' res detail unit : Nat) (noCopy : Bool) :
    OnlyNvRetModeLatchPwrLinksTreeSchedTimeTravHostDispUsbNetWinKeysImgErrOutFree (State.scrubWordAt s arr at' res detail unit noCopy) s := by
  have only1 := @State.detect_only
  simp [only1, State.scrubWordAt, OnlyNvRetModeLatchPwrLinksTreeSchedTimeTravHostDispUsbNetWinKeysImgErrOutFree]

theorem effPatrolScrub_only (res detail unit : Nat) (noCopy last : Bool) (s : State) :
    OnlyNvRetModeLatchPwrLinksTreeSchedTimeTravHostDispUsbNetWinKeysImgErrOutFree (effPatrolScrub res detail unit noCopy last s) s := by
  have only1 := @State.complete_only
  have only2 := @State.scrubWordAt_only
  generalize hh : (effPatrolScrub res detail unit noCopy last s) = r
  unfold effPatrolScrub at hh
  try dsimp only at hh
  repeat' first | split at hh
  all_goals subst hh
  all_goals simp [only1, only2, OnlyNvRetModeLatchPwrLinksTreeSchedTimeTravHostDispUsbNetWinKeysImgErrOutFree]

theorem effInjectDelayExpiry_only (unit : Nat) (inUse noCopy : Bool) (s : State) :
    OnlyNvRetModeLatchPwrLinksTreeSchedTimeTravHostDispUsbNetWinKeysImgErrOutFree (effInjectDelayExpiry unit inUse noCopy s) s := by
  have only1 := @State.detect_only
  generalize hh : (effInjectDelayExpiry unit inUse noCopy s) = r
  unfold effInjectDelayExpiry at hh
  try dsimp only at hh
  repeat' first | split at hh
  all_goals subst hh
  all_goals simp [only1, OnlyNvRetModeLatchPwrLinksTreeSchedTimeTravHostDispUsbNetWinKeysImgErrOutFree]

end Sys2Proof.Machine
end

