-- ==== Sys2Proof/Laws/KeepTraverse.lean ====
section
/-! SUPPORT. For each operation of Machine/Traverse.lean, the parts of the state that it leaves unchanged. -/

set_option linter.unusedTactic false
set_option linter.unreachableTactic false
set_option linter.unusedSimpArgs false
set_option linter.unnecessarySeqFocus false

namespace Sys2Proof.Machine
open Sys2Proof

theorem State.adv_only (s : State) (e : Nat) :
    OnlyTrav (State.adv s e) s := by
  have only1 := @State.modEngine_only
  simp [only1, State.adv, OnlyTrav]

theorem State.countLeg_only (s : State) (e : Nat) :
    OnlyTrav (State.countLeg s e) s := by
  have only1 := @State.modEngine_only
  simp [only1, State.countLeg, OnlyTrav]

theorem State.advC_only (s : State) (e : Nat) (c : Bool) :
    OnlyTrav (State.advC s e c) s := by
  have only1 := @State.adv_only
  have only2 := @State.modEngine_only
  simp [only1, only2, State.advC, OnlyTrav]

theorem State.setRunLegs_only (s : State) (e n : Nat) :
    OnlyTrav (State.setRunLegs s e n) s := by
  have only1 := @State.modEngine_only
  simp [only1, State.setRunLegs, OnlyTrav]

theorem State.startWait_only (s : State) (e : Nat) (w : EngWait) :
    OnlyTrav (State.startWait s e w) s := by
  have only1 := @State.modEngine_only
  simp [only1, State.startWait, OnlyTrav]

theorem State.setD_only (s : State) (e d ref : Nat) :
    OnlyTrav (State.setD s e d ref) s := by
  have only1 := @State.modEngine_only
  simp [only1, State.setD, OnlyTrav]

theorem State.legLimit_only (s : State) (e pc : Nat) :
    OnlyTravHostOut (State.legLimit s e pc) s := by
  have only1 := @State.exception_only
  have only2 := @State.modEngine_only
  simp [only1, only2, State.legLimit, OnlyTravHostOut]

theorem State.pwmStart_only (s : State) (n : Nat) (p : PwmCfg) (at250 next : Nat) :
    OnlyTravOut (State.pwmStart s n p at250 next) s := by
  have only1 := @State.emit_only
  have only2 := @State.setAct_only
  simp [only1, only2, State.pwmStart, OnlyTravOut]

theorem State.pwmEffect_only (s : State) (n : Nat) (cfg : PwmCfg) (due at250 : Nat) :
    OnlyTravOut (State.pwmEffect s n cfg due at250) s := by
  have only1 := @State.pwmStart_only
  have only2 := @State.setAct_only
  generalize hh : (State.pwmEffect s n cfg due at250) = r
  unfold State.pwmEffect at hh
  try dsimp only at hh
  repeat' first | split at hh
  all_goals subst hh
  all_goals simp [only1, only2, OnlyTravOut]

theorem State.takeEffect_only (s : State) (f : Effect) (at250 : Nat) :
    OnlyLinksSchedTravHostDispNetOut (State.takeEffect s f at250).1 s := by
  have only1 := @State.canTimed_only
  have only2 := @State.gateCommit_only
  have only3 := @State.gateSwitch_only
  have only4 := @State.pwmEffect_only
  have only5 := @State.setPin_only
  have only6 := @State.takeCommit_only
  have only7 := @effGateSwitch_only
  generalize hh : (State.takeEffect s f at250).1 = r
  unfold State.takeEffect at hh
  try dsimp only at hh
  repeat' first | split at hh
  all_goals subst hh
  all_goals simp [only1, only2, only3, only4, only5, only6, only7, OnlyLinksSchedTravHostDispNetOut]

theorem State.setEffects_only (s : State) (l : List Effect) :
    OnlyTrav (State.setEffects s l) s := by
  simp [State.setEffects, OnlyTrav]

theorem State.handOver_only (s : State) (e due : Nat) (kind : EffKind) :
    ∀ t, (State.handOver s e due kind) = some t → OnlyLinksSchedTravHostDispNetOut t s := by
  have only1 := @State.adv_only
  have only2 := @State.exception_only
  have only3 := @State.modEngine_only
  have only4 := @State.setEffects_only
  have only5 := @State.setEngine_only
  have only6 := @State.takeEffect_only
  have only7 := @State.travEvent_only
  intro r hh
  unfold State.handOver at hh
  try dsimp only at hh
  repeat' split at hh
  all_goals cases hh
  all_goals simp [only1, only2, only3, only4, only5, only6, only7, OnlyLinksSchedTravHostDispNetOut]

theorem effEffectInstant_only (s : State) :
    OnlyLinksSchedTravHostDispNetOut (effEffectInstant s) s := by
  have only1 := @State.setEffects_only
  have only2 := @State.takeEffect_only
  generalize hh : (effEffectInstant s) = r
  unfold effEffectInstant at hh
  try dsimp only at hh
  repeat' first | split at hh
  all_goals subst hh
  all_goals simp [only1, only2, OnlyLinksSchedTravHostDispNetOut]

theorem effPwmPeriodStart_only (pin : Nat) (s : State) :
    OnlyTravOut (effPwmPeriodStart pin s) s := by
  have only1 := @State.pwmStart_only
  generalize hh : (effPwmPeriodStart pin s) = r
  unfold effPwmPeriodStart at hh
  try dsimp only at hh
  repeat' first | split at hh
  all_goals subst hh
  all_goals simp [only1, OnlyTravOut]

theorem State.launchEngine_only (s : State) (e at250 : Nat) :
    OnlyTrav (State.launchEngine s e at250) s := by
  have only1 := @State.modEngine_only
  simp [only1, State.launchEngine, OnlyTrav]

theorem effEngineLaunch_only (e : Nat) (s : State) :
    OnlyTravOut (effEngineLaunch e s) s := by
  have only1 := @State.launchEngine_only
  have only2 := @State.launchReply_only
  have only3 := @State.launchesDone_only
  generalize hh : (effEngineLaunch e s) = r
  unfold effEngineLaunch at hh
  try dsimp only at hh
  repeat' first | split at hh
  all_goals subst hh
  all_goals simp [only1, only2, only3, OnlyTravOut]

theorem effLegEnd_only (e : Nat) (s : State) :
    OnlyTravHostOut (effLegEnd e s) s := by
  have only1 := @State.countLeg_only
  have only2 := @State.exception_only
  have only3 := @State.legLimit_only
  have only4 := @State.modEngine_only
  have only5 := @State.travEvent_only
  simp [only1, only2, only3, only4, only5, effLegEnd, State.runLeg, OnlyTravHostOut]

theorem effLegWaitUntil_only (e : Nat) (s : State) :
    OnlyTravHostOut (effLegWaitUntil e s) s := by
  have only1 := @State.adv_only
  have only2 := @State.countLeg_only
  have only3 := @State.exception_only
  have only4 := @State.legLimit_only
  have only5 := @State.setD_only
  have only6 := @State.startWait_only
  generalize hh : (effLegWaitUntil e s) = r
  unfold effLegWaitUntil State.runLeg at hh
  try dsimp only at hh
  repeat' first | split at hh | dsimp only at hh
  all_goals subst hh
  all_goals first
    | (simp [only1, only2, only3, only4, only5, only6, OnlyTravHostOut]; done)
    | (have q := ‹_ = some _›; (repeat' split at q) <;> first | (cases q <;> (simp [only1, only2, only3, only4, only5, only6, OnlyTravHostOut]; done)) | (cases q; have k := State.regWrite_only _ _ _ _ _ _ ‹State.regWrite _ _ _ _ _ = some _›; simp [only1, only2, only3, only4, only5, only6, OnlyTravHostOut, k]; done) | (cases q; have k := congrArg Prod.fst ‹_ = (_, _)›; dsimp only at k; subst k; simp [only1, only2, only3, only4, only5, only6, OnlyTravHostOut]; done) | (have k := State.handOver_only _ _ _ _ _ q; simp [only1, only2, only3, only4, only5, only6, OnlyTravHostOut, k]; done))

theorem effWaitUntilRelease_only (e : Nat) (s : State) :
    OnlyTrav (effWaitUntilRelease e s) s := by
  have only1 := @State.adv_only
  have only2 := @State.setEngine_only
  generalize hh : (effWaitUntilRelease e s) = r
  unfold effWaitUntilRelease at hh
  try dsimp only at hh
  repeat' first | split at hh
  all_goals subst hh
  all_goals simp [only1, only2, OnlyTrav]

theorem State.clearFlag_only (s : State) (e k : Nat) :
    OnlyTrav (State.clearFlag s e k) s := by
  have only1 := @State.modEngine_only
  simp [only1, State.clearFlag, OnlyTrav]

theorem effLegWaitFor_only (e : Nat) (s : State) :
    OnlyTravHostOut (effLegWaitFor e s) s := by
  have only1 := @State.clearFlag_only
  have only2 := @State.countLeg_only
  have only3 := @State.endWait_only
  have only4 := @State.exception_only
  have only5 := @State.legLimit_only
  have only6 := @State.setRunLegs_only
  have only7 := @State.startWait_only
  generalize hh : (effLegWaitFor e s) = r
  unfold effLegWaitFor State.runLeg at hh
  try dsimp only at hh
  repeat' first | split at hh | dsimp only at hh
  all_goals subst hh
  all_goals first
    | (simp [only1, only2, only3, only4, only5, only6, only7, OnlyTravHostOut]; done)
    | (have q := ‹_ = some _›; (repeat' split at q) <;> first | (cases q <;> (simp [only1, only2, only3, only4, only5, only6, only7, OnlyTravHostOut]; done)) | (cases q; have k := State.regWrite_only _ _ _ _ _ _ ‹State.regWrite _ _ _ _ _ = some _›; simp [only1, only2, only3, only4, only5, only6, only7, OnlyTravHostOut, k]; done) | (cases q; have k := congrArg Prod.fst ‹_ = (_, _)›; dsimp only at k; subst k; simp [only1, only2, only3, only4, only5, only6, only7, OnlyTravHostOut]; done) | (have k := State.handOver_only _ _ _ _ _ q; simp [only1, only2, only3, only4, only5, only6, only7, OnlyTravHostOut, k]; done))

theorem effWaitForMet_only (e : Nat) (s : State) :
    OnlyTrav (effWaitForMet e s) s := by
  have only1 := @State.clearFlag_only
  have only2 := @State.endWait_only
  generalize hh : (effWaitForMet e s) = r
  unfold effWaitForMet at hh
  try dsimp only at hh
  repeat' first | split at hh
  all_goals subst hh
  all_goals simp [only1, only2, OnlyTrav]

theorem effWaitForTimeout_only (e : Nat) (s : State) :
    OnlyTrav (effWaitForTimeout e s) s := by
  have only1 := @State.endWait_only
  generalize hh : (effWaitForTimeout e s) = r
  unfold effWaitForTimeout at hh
  try dsimp only at hh
  repeat' first | split at hh
  all_goals subst hh
  all_goals simp [only1, OnlyTrav]

theorem effLegSetPin_only (e : Nat) (s : State) :
    OnlyLinksSchedTravHostDispNetOut (effLegSetPin e s) s := by
  have only1 := @State.countLeg_only
  have only2 := @State.exception_only
  have only3 := @State.handOver_only
  have only4 := @State.legLimit_only
  generalize hh : (effLegSetPin e s) = r
  unfold effLegSetPin State.runLeg at hh
  try dsimp only at hh
  repeat' first | split at hh | dsimp only at hh
  all_goals subst hh
  all_goals first
    | (simp [only1, only2, only3, only4, OnlyLinksSchedTravHostDispNetOut]; done)
    | (have q := ‹_ = some _›; (repeat' split at q) <;> first | (cases q <;> (simp [only1, only2, only3, only4, OnlyLinksSchedTravHostDispNetOut]; done)) | (cases q; have k := State.regWrite_only _ _ _ _ _ _ ‹State.regWrite _ _ _ _ _ = some _›; simp [only1, only2, only3, only4, OnlyLinksSchedTravHostDispNetOut, k]; done) | (cases q; have k := congrArg Prod.fst ‹_ = (_, _)›; dsimp only at k; subst k; simp [only1, only2, only3, only4, OnlyLinksSchedTravHostDispNetOut]; done) | (have k := State.handOver_only _ _ _ _ _ q; simp [only1, only2, only3, only4, OnlyLinksSchedTravHostDispNetOut, k]; done))

theorem effLegPulsePin_only (e : Nat) (s : State) :
    OnlyLinksSchedTravHostDispNetOut (effLegPulsePin e s) s := by
  have only1 := @State.countLeg_only
  have only2 := @State.exception_only
  have only3 := @State.handOver_only
  have only4 := @State.legLimit_only
  generalize hh : (effLegPulsePin e s) = r
  unfold effLegPulsePin State.runLeg at hh
  try dsimp only at hh
  repeat' first | split at hh | dsimp only at hh
  all_goals subst hh
  all_goals first
    | (simp [only1, only2, only3, only4, OnlyLinksSchedTravHostDispNetOut]; done)
    | (have q := ‹_ = some _›; (repeat' split at q) <;> first | (cases q <;> (simp [only1, only2, only3, only4, OnlyLinksSchedTravHostDispNetOut]; done)) | (cases q; have k := State.regWrite_only _ _ _ _ _ _ ‹State.regWrite _ _ _ _ _ = some _›; simp [only1, only2, only3, only4, OnlyLinksSchedTravHostDispNetOut, k]; done) | (cases q; have k := congrArg Prod.fst ‹_ = (_, _)›; dsimp only at k; subst k; simp [only1, only2, only3, only4, OnlyLinksSchedTravHostDispNetOut]; done) | (have k := State.handOver_only _ _ _ _ _ q; simp [only1, only2, only3, only4, OnlyLinksSchedTravHostDispNetOut, k]; done))

theorem effLegPwmPin_only (e : Nat) (s : State) :
    OnlyLinksSchedTravHostDispNetOut (effLegPwmPin e s) s := by
  have only1 := @State.countLeg_only
  have only2 := @State.exception_only
  have only3 := @State.handOver_only
  have only4 := @State.legLimit_only
  generalize hh : (effLegPwmPin e s) = r
  unfold effLegPwmPin State.runLeg at hh
  try dsimp only at hh
  repeat' first | split at hh | dsimp only at hh
  all_goals subst hh
  all_goals first
    | (simp [only1, only2, only3, only4, OnlyLinksSchedTravHostDispNetOut]; done)
    | (have q := ‹_ = some _›; (repeat' split at q) <;> first | (cases q <;> (simp [only1, only2, only3, only4, OnlyLinksSchedTravHostDispNetOut]; done)) | (cases q; have k := State.regWrite_only _ _ _ _ _ _ ‹State.regWrite _ _ _ _ _ = some _›; simp [only1, only2, only3, only4, OnlyLinksSchedTravHostDispNetOut, k]; done) | (cases q; have k := congrArg Prod.fst ‹_ = (_, _)›; dsimp only at k; subst k; simp [only1, only2, only3, only4, OnlyLinksSchedTravHostDispNetOut]; done) | (have k := State.handOver_only _ _ _ _ _ q; simp [only1, only2, only3, only4, OnlyLinksSchedTravHostDispNetOut, k]; done))

theorem effLegSendCan_only (e : Nat) (s : State) :
    OnlyLinksSchedTravHostDispNetOut (effLegSendCan e s) s := by
  have only1 := @State.countLeg_only
  have only2 := @State.exception_only
  have only3 := @State.handOver_only
  have only4 := @State.legLimit_only
  generalize hh : (effLegSendCan e s) = r
  unfold effLegSendCan State.runLeg at hh
  try dsimp only at hh
  repeat' first | split at hh | dsimp only at hh
  all_goals subst hh
  all_goals first
    | (simp [only1, only2, only3, only4, OnlyLinksSchedTravHostDispNetOut]; done)
    | (have q := ‹_ = some _›; (repeat' split at q) <;> first | (cases q <;> (simp [only1, only2, only3, only4, OnlyLinksSchedTravHostDispNetOut]; done)) | (cases q; have k := State.regWrite_only _ _ _ _ _ _ ‹State.regWrite _ _ _ _ _ = some _›; simp [only1, only2, only3, only4, OnlyLinksSchedTravHostDispNetOut, k]; done) | (cases q; have k := congrArg Prod.fst ‹_ = (_, _)›; dsimp only at k; subst k; simp [only1, only2, only3, only4, OnlyLinksSchedTravHostDispNetOut]; done) | (have k := State.handOver_only _ _ _ _ _ q; simp [only1, only2, only3, only4, OnlyLinksSchedTravHostDispNetOut, k]; done))

theorem effLegDispCommit_only (e : Nat) (s : State) :
    OnlyLinksSchedTravHostDispNetOut (effLegDispCommit e s) s := by
  have only1 := @State.countLeg_only
  have only2 := @State.exception_only
  have only3 := @State.handOver_only
  have only4 := @State.legLimit_only
  generalize hh : (effLegDispCommit e s) = r
  unfold effLegDispCommit State.runLeg at hh
  try dsimp only at hh
  repeat' first | split at hh | dsimp only at hh
  all_goals subst hh
  all_goals first
    | (simp [only1, only2, only3, only4, OnlyLinksSchedTravHostDispNetOut]; done)
    | (have q := ‹_ = some _›; (repeat' split at q) <;> first | (cases q <;> (simp [only1, only2, only3, only4, OnlyLinksSchedTravHostDispNetOut]; done)) | (cases q; have k := State.regWrite_only _ _ _ _ _ _ ‹State.regWrite _ _ _ _ _ = some _›; simp [only1, only2, only3, only4, OnlyLinksSchedTravHostDispNetOut, k]; done) | (cases q; have k := congrArg Prod.fst ‹_ = (_, _)›; dsimp only at k; subst k; simp [only1, only2, only3, only4, OnlyLinksSchedTravHostDispNetOut]; done) | (have k := State.handOver_only _ _ _ _ _ q; simp [only1, only2, only3, only4, OnlyLinksSchedTravHostDispNetOut, k]; done))

theorem effLegGateSwitch_only (e : Nat) (s : State) :
    OnlyLinksSchedTravHostDispNetOut (effLegGateSwitch e s) s := by
  have only1 := @State.countLeg_only
  have only2 := @State.exception_only
  have only3 := @State.handOver_only
  have only4 := @State.legLimit_only
  generalize hh : (effLegGateSwitch e s) = r
  unfold effLegGateSwitch State.runLeg at hh
  try dsimp only at hh
  repeat' first | split at hh | dsimp only at hh
  all_goals subst hh
  all_goals first
    | (simp [only1, only2, only3, only4, OnlyLinksSchedTravHostDispNetOut]; done)
    | (have q := ‹_ = some _›; (repeat' split at q) <;> first | (cases q <;> (simp [only1, only2, only3, only4, OnlyLinksSchedTravHostDispNetOut]; done)) | (cases q; have k := State.regWrite_only _ _ _ _ _ _ ‹State.regWrite _ _ _ _ _ = some _›; simp [only1, only2, only3, only4, OnlyLinksSchedTravHostDispNetOut, k]; done) | (cases q; have k := congrArg Prod.fst ‹_ = (_, _)›; dsimp only at k; subst k; simp [only1, only2, only3, only4, OnlyLinksSchedTravHostDispNetOut]; done) | (have k := State.handOver_only _ _ _ _ _ q; simp [only1, only2, only3, only4, OnlyLinksSchedTravHostDispNetOut, k]; done))

theorem effLegWriteReg_only (e : Nat) (s : State) :
    OnlyLinksTreeSchedTravHostErrOutFree (effLegWriteReg e s) s := by
  have only1 := @State.adv_only
  have only2 := @State.countLeg_only
  have only3 := @State.emit_only
  have only4 := @State.exception_only
  have only5 := @State.legLimit_only
  have only6 := @State.modEngine_only
  have only7 := @State.regWrite_only
  generalize hh : (effLegWriteReg e s) = r
  unfold effLegWriteReg State.effectLeg State.runLeg at hh
  try dsimp only at hh
  repeat' first | split at hh | dsimp only at hh
  all_goals subst hh
  all_goals first
    | (simp [only1, only2, only3, only4, only5, only6, only7, OnlyLinksTreeSchedTravHostErrOutFree]; done)
    | (have q := ‹_ = some _›; (repeat' split at q) <;> first | (cases q <;> (simp [only1, only2, only3, only4, only5, only6, only7, OnlyLinksTreeSchedTravHostErrOutFree]; done)) | (cases q; have k := State.regWrite_only _ _ _ _ _ _ ‹State.regWrite _ _ _ _ _ = some _›; simp [only1, only2, only3, only4, only5, only6, only7, OnlyLinksTreeSchedTravHostErrOutFree, k]; done) | (cases q; have k := congrArg Prod.fst ‹_ = (_, _)›; dsimp only at k; subst k; simp [only1, only2, only3, only4, only5, only6, only7, OnlyLinksTreeSchedTravHostErrOutFree]; done) | (have k := State.handOver_only _ _ _ _ _ q; simp [only1, only2, only3, only4, only5, only6, only7, OnlyLinksTreeSchedTravHostErrOutFree, k]; done))

theorem effLegReadCheck_only (e : Nat) (s : State) :
    OnlyTravHostOut (effLegReadCheck e s) s := by
  have only1 := @State.advC_only
  have only2 := @State.countLeg_only
  have only3 := @State.emit_only
  have only4 := @State.exception_only
  have only5 := @State.legLimit_only
  have only6 := @State.modEngine_only
  have only7 := @State.regRead_only
  generalize hh : (effLegReadCheck e s) = r
  unfold effLegReadCheck State.effectLeg State.runLeg at hh
  try dsimp only at hh
  repeat' first | split at hh | dsimp only at hh
  all_goals subst hh
  all_goals first
    | (simp [only1, only2, only3, only4, only5, only6, only7, OnlyTravHostOut]; done)
    | (have q := ‹_ = some _›; (repeat' split at q) <;> first | (cases q <;> (simp [only1, only2, only3, only4, only5, only6, only7, OnlyTravHostOut]; done)) | (cases q; have k := State.regWrite_only _ _ _ _ _ _ ‹State.regWrite _ _ _ _ _ = some _›; simp [only1, only2, only3, only4, only5, only6, only7, OnlyTravHostOut, k]; done) | (cases q; have k := congrArg Prod.fst ‹_ = (_, _)›; dsimp only at k; subst k; simp [only1, only2, only3, only4, only5, only6, only7, OnlyTravHostOut]; done) | (have k := State.handOver_only _ _ _ _ _ q; simp [only1, only2, only3, only4, only5, only6, only7, OnlyTravHostOut, k]; done))

theorem effRemoteReadTimeout_only (e : Nat) (s : State) :
    OnlyTravHostOut (effRemoteReadTimeout e s) s := by
  have only1 := @State.exception_only
  generalize hh : (effRemoteReadTimeout e s) = r
  unfold effRemoteReadTimeout at hh
  try dsimp only at hh
  repeat' first | split at hh
  all_goals subst hh
  all_goals simp [only1, OnlyTravHostOut]

theorem effLegSendMsg_only (e : Nat) (s : State) :
    OnlyLinksTreeSchedTravHostOut (effLegSendMsg e s) s := by
  have only1 := @State.advC_only
  have only2 := @State.countLeg_only
  have only3 := @State.exception_only
  have only4 := @State.legLimit_only
  have only5 := @State.sendTunnel_only
  have only6 := @State.travEvent_only
  generalize hh : (effLegSendMsg e s) = r
  unfold effLegSendMsg State.effectLeg State.runLeg at hh
  try dsimp only at hh
  repeat' first | split at hh | dsimp only at hh
  all_goals subst hh
  all_goals first
    | (simp [only1, only2, only3, only4, only5, only6, OnlyLinksTreeSchedTravHostOut]; done)
    | (have q := ‹_ = some _›; (repeat' split at q) <;> first | (cases q <;> (simp [only1, only2, only3, only4, only5, only6, OnlyLinksTreeSchedTravHostOut]; done)) | (cases q; have k := State.regWrite_only _ _ _ _ _ _ ‹State.regWrite _ _ _ _ _ = some _›; simp [only1, only2, only3, only4, only5, only6, OnlyLinksTreeSchedTravHostOut, k]; done) | (cases q; have k := congrArg Prod.fst ‹_ = (_, _)›; dsimp only at k; subst k; simp [only1, only2, only3, only4, only5, only6, OnlyLinksTreeSchedTravHostOut]; done) | (have k := State.handOver_only _ _ _ _ _ q; simp [only1, only2, only3, only4, only5, only6, OnlyLinksTreeSchedTravHostOut, k]; done))

theorem effLegMark_only (e : Nat) (s : State) :
    OnlyTravHostOut (effLegMark e s) s := by
  have only1 := @State.adv_only
  have only2 := @State.countLeg_only
  have only3 := @State.exception_only
  have only4 := @State.legLimit_only
  have only5 := @State.travEvent_only
  generalize hh : (effLegMark e s) = r
  unfold effLegMark State.effectLeg State.runLeg at hh
  try dsimp only at hh
  repeat' first | split at hh | dsimp only at hh
  all_goals subst hh
  all_goals first
    | (simp [only1, only2, only3, only4, only5, OnlyTravHostOut]; done)
    | (have q := ‹_ = some _›; (repeat' split at q) <;> first | (cases q <;> (simp [only1, only2, only3, only4, only5, OnlyTravHostOut]; done)) | (cases q; have k := State.regWrite_only _ _ _ _ _ _ ‹State.regWrite _ _ _ _ _ = some _›; simp [only1, only2, only3, only4, only5, OnlyTravHostOut, k]; done) | (cases q; have k := congrArg Prod.fst ‹_ = (_, _)›; dsimp only at k; subst k; simp [only1, only2, only3, only4, only5, OnlyTravHostOut]; done) | (have k := State.handOver_only _ _ _ _ _ q; simp [only1, only2, only3, only4, only5, OnlyTravHostOut, k]; done))

theorem State.jump_only (s : State) (e target : Nat) :
    OnlyTravHostOut (State.jump s e target) s := by
  have only1 := @State.exception_only
  have only2 := @State.modEngine_only
  simp [only1, only2, State.jump, OnlyTravHostOut]

theorem effLegLoop_only (e : Nat) (s : State) :
    OnlyTravHostOut (effLegLoop e s) s := by
  have only1 := @State.adv_only
  have only2 := @State.countLeg_only
  have only3 := @State.exception_only
  have only4 := @State.jump_only
  have only5 := @State.legLimit_only
  have only6 := @State.setEngine_only
  simp [only1, only2, only3, only4, only5, only6, effLegLoop, State.runLeg, OnlyTravHostOut]

theorem effLegBranch_only (e : Nat) (s : State) :
    OnlyTravHostOut (effLegBranch e s) s := by
  have only1 := @State.adv_only
  have only2 := @State.clearFlag_only
  have only3 := @State.countLeg_only
  have only4 := @State.exception_only
  have only5 := @State.jump_only
  have only6 := @State.legLimit_only
  simp [only1, only2, only3, only4, only5, only6, effLegBranch, State.runLeg, OnlyTravHostOut]

theorem State.startEngine_only (s : State) (x : Engine) (n pc at250 : Nat) :
    OnlyTrav (State.startEngine s x n pc at250) s := by
  have only1 := @State.modEngine_only
  have only2 := @State.wakeEngine_only
  simp [only1, only2, State.startEngine, OnlyTrav]

theorem effLegStartEngine_only (e : Nat) (s : State) :
    OnlyTravHostOut (effLegStartEngine e s) s := by
  have only1 := @State.adv_only
  have only2 := @State.countLeg_only
  have only3 := @State.exception_only
  have only4 := @State.legLimit_only
  have only5 := @State.startEngine_only
  generalize hh : (effLegStartEngine e s) = r
  unfold effLegStartEngine State.effectLeg State.runLeg at hh
  try dsimp only at hh
  repeat' first | split at hh | dsimp only at hh
  all_goals subst hh
  all_goals first
    | (simp [only1, only2, only3, only4, only5, OnlyTravHostOut]; done)
    | (have q := ‹_ = some _›; (repeat' split at q) <;> first | (cases q <;> (simp [only1, only2, only3, only4, only5, OnlyTravHostOut]; done)) | (cases q; have k := State.regWrite_only _ _ _ _ _ _ ‹State.regWrite _ _ _ _ _ = some _›; simp [only1, only2, only3, only4, only5, OnlyTravHostOut, k]; done) | (cases q; have k := congrArg Prod.fst ‹_ = (_, _)›; dsimp only at k; subst k; simp [only1, only2, only3, only4, only5, OnlyTravHostOut]; done) | (have k := State.handOver_only _ _ _ _ _ q; simp [only1, only2, only3, only4, only5, OnlyTravHostOut, k]; done))

theorem effRegWrite_only (ws : List Word) (s : State) :
    OnlyLinksTreeSchedHostErrOutFree (effRegWrite ws s) s := by
  have only1 := @State.regWrite_only
  have only2 := @State.report_only
  generalize hh : (effRegWrite ws s) = r
  unfold effRegWrite at hh
  try dsimp only at hh
  repeat' first | split at hh
  all_goals subst hh
  all_goals first
    | (simp [only1, only2, OnlyLinksTreeSchedHostErrOutFree]; done)
    | (have k := State.regWrite_only _ _ _ _ _ _ ‹State.regWrite _ _ _ _ _ = some _›; simp [only1, only2, OnlyLinksTreeSchedHostErrOutFree, k]; done)

theorem effRegRead_only (ws : List Word) (s : State) :
    OnlyHostOut (effRegRead ws s) s := by
  have only1 := @State.emit_only
  have only2 := @State.regRead_only
  simp [only1, only2, effRegRead, OnlyHostOut]

theorem effRegReply_only (ws : List Word) (s : State) :
    OnlyTravHostOut (effRegReply ws s) s := by
  have only1 := @State.adv_only
  have only2 := @State.exception_only
  have only3 := @State.setEngine_only
  generalize hh : (effRegReply ws s) = r
  unfold effRegReply at hh
  try dsimp only at hh
  repeat' first | split at hh
  all_goals subst hh
  all_goals simp [only1, only2, only3, OnlyTravHostOut]

theorem effTravMessage_only (tid src : Nat) (bytes : List Byte) (s : State) :
    OnlyTravHostOut (effTravMessage tid src bytes s) s := by
  have only1 := @State.modEngine_only
  have only2 := @State.report_only
  generalize hh : (effTravMessage tid src bytes s) = r
  unfold effTravMessage at hh
  try dsimp only at hh
  repeat' first | split at hh
  all_goals subst hh
  all_goals simp [only1, only2, OnlyTravHostOut]

theorem effPrepare_only (ws : List Word) (s : State) :
    OnlyTravOut (effPrepare ws s) s := by
  have only1 := @State.launchReply_only
  have only2 := @State.modEngine_only
  have only3 := @State.wakeEngine_only
  simp [only1, only2, only3, effPrepare, OnlyTravOut]

theorem State.tryCommit_only (s : State) (id : BitVec 8) :
    OnlyLinksTreeSchedTravHostOut (State.tryCommit s id) s := by
  have only1 := @State.complete_only
  have only2 := @State.dropLaunch_only
  have only3 := @State.result_only
  have only4 := @State.sendLaunch_only
  have only5 := @State.setLaunch_only
  generalize hh : (State.tryCommit s id) = r
  unfold State.tryCommit at hh
  try dsimp only at hh
  repeat' first | split at hh
  all_goals subst hh
  all_goals simp [only1, only2, only3, only4, only5, OnlyLinksTreeSchedTravHostOut]

theorem effReady_only (ws : List Word) (s : State) :
    OnlyLinksTreeSchedTravHostOut (effReady ws s) s := by
  have only1 := @State.abortLaunch_only
  have only2 := @State.setLaunch_only
  have only3 := @State.tryCommit_only
  generalize hh : (effReady ws s) = r
  unfold effReady at hh
  try dsimp only at hh
  repeat' first | split at hh
  all_goals subst hh
  all_goals simp [only1, only2, only3, OnlyLinksTreeSchedTravHostOut]

theorem State.unprepare_only (s : State) (p : PrepRec) (status : Nat) (all : Bool) :
    OnlyTravHostOut (State.unprepare s p status all) s := by
  have only1 := @State.abortedEvent_only
  have only2 := @State.setEngine_only
  simp [only1, only2, State.unprepare, OnlyTravHostOut]

theorem effCommit_only (ws : List Word) (s : State) :
    OnlyTravHostOut (effCommit ws s) s := by
  have only1 := @State.modEngine_only
  have only2 := @State.unprepare_only
  generalize hh : (effCommit ws s) = r
  unfold effCommit at hh
  try dsimp only at hh
  repeat' first | split at hh
  all_goals subst hh
  all_goals simp [only1, only2, OnlyTravHostOut]

theorem effAbort_only (ws : List Word) (s : State) :
    OnlyTravHostOut (effAbort ws s) s := by
  have only1 := @State.unprepare_only
  generalize hh : (effAbort ws s) = r
  unfold effAbort at hh
  try dsimp only at hh
  repeat' first | split at hh
  all_goals subst hh
  all_goals simp [only1, OnlyTravHostOut]

theorem effLaunched_only (ws : List Word) (s : State) :
    OnlyTrav (effLaunched ws s) s := by
  have only1 := @State.dropLaunch_only
  have only2 := @State.setLaunch_only
  generalize hh : (effLaunched ws s) = r
  unfold effLaunched at hh
  try dsimp only at hh
  repeat' first | split at hh
  all_goals subst hh
  all_goals simp [only1, only2, OnlyTrav]

theorem effLaunchReadyDeadline_only (id : BitVec 8) (s : State) :
    OnlyLinksTreeSchedTravHostOut (effLaunchReadyDeadline id s) s := by
  have only1 := @State.abortLaunch_only
  generalize hh : (effLaunchReadyDeadline id s) = r
  unfold effLaunchReadyDeadline at hh
  try dsimp only at hh
  repeat' first | split at hh
  all_goals subst hh
  all_goals simp [only1, OnlyLinksTreeSchedTravHostOut]

theorem effPreparedTimeout_only (id : BitVec 8) (s : State) :
    OnlyTravHostOut (effPreparedTimeout id s) s := by
  have only1 := @State.unprepare_only
  generalize hh : (effPreparedTimeout id s) = r
  unfold effPreparedTimeout at hh
  try dsimp only at hh
  repeat' first | split at hh
  all_goals subst hh
  all_goals simp [only1, OnlyTravHostOut]

theorem effLaunchPartialTimeout_only (id : BitVec 8) (s : State) :
    OnlyTravHostOut (effLaunchPartialTimeout id s) s := by
  have only1 := @State.dropLaunch_only
  have only2 := @State.report_only
  generalize hh : (effLaunchPartialTimeout id s) = r
  unfold effLaunchPartialTimeout at hh
  try dsimp only at hh
  repeat' first | split at hh
  all_goals subst hh
  all_goals simp [only1, only2, OnlyTravHostOut]

theorem effActInputEdge_only (pin : Nat) (rising : Bool) (since : Nat) (s : State) :
    OnlyTravHostOut (effActInputEdge pin rising since s) s := by
  have only1 := @State.feedEdge_only
  have only2 := @State.setAct_only
  have only3 := @State.stampEdge_only
  simp [only1, only2, only3, effActInputEdge, OnlyTravHostOut]

theorem State.resumeEngine_only (s : State) (e : Nat) (rebase : Bool) :
    OnlyTrav (State.resumeEngine s e rebase) s := by
  have only1 := @State.setEngine_only
  simp [only1, State.resumeEngine, OnlyTrav]

theorem State.treeLaunch_only (s : State) (c : Cmd) (t : Nat) :
    OnlyLinksTreeSchedTravHostOutFree (State.treeLaunch s c t) s := by
  have only1 := @State.complete_only
  have only2 := @State.drew_only
  have only3 := @State.sendLaunch_only
  have only4 := @State.tryCommit_only
  simp [only1, only2, only3, only4, State.treeLaunch, OnlyLinksTreeSchedTravHostOutFree]

theorem State.cfgPin_only (s : State) (c : Cmd) (n : Nat) :
    OnlyTravOutFree (State.cfgPin s c n) s := by
  have only1 := @State.drew_only
  have only2 := @State.emit_only
  have only3 := @State.setAct_only
  generalize hh : (State.cfgPin s c n) = r
  unfold State.cfgPin at hh
  try dsimp only at hh
  repeat' first | split at hh
  all_goals subst hh
  all_goals simp [only1, only2, only3, OnlyTravOutFree]

end Sys2Proof.Machine
end

