-- ==== Sys2Proof/Laws/KeepImgOps.lean ====
section
/-! SUPPORT. For each operation of Machine/ImgOps.lean, the parts of the state that it leaves unchanged. -/

namespace Sys2Proof.Machine
open Sys2Proof

theorem State.setSlot_only (s : State) (k : Nat) (x : FlashSlot) :
    OnlyNv (State.setSlot s k x) s := by
  simp [State.setSlot, OnlyNv]

theorem State.setPage_only (s : State) (k : Nat) (r : ImgRec) :
    OnlyDisp (State.setPage s k r) s := by
  have only1 := @State.setPlane_only
  simp [only1, State.setPage, OnlyDisp]

theorem State.applyRec_only (s : State) (r : ImgRec) :
    OnlyRetModePwrBoardPaceLinksTreeSchedTimeTravHostDispUsbNetKeysOutFree (State.applyRec s r) s := by
  have only1 := @State.cfgPin_only
  have only2 := @State.imgEvent_only
  have only3 := @State.macCfg_only
  have only4 := @State.modHead_only
  have only5 := @State.modLink_only
  have only6 := @State.setCan_only
  have only7 := @State.setClass_only
  have only8 := @State.setTimeSource_only
  simp [only1, only2, only3, only4, only5, only6, only7, only8, State.applyRec, OnlyRetModePwrBoardPaceLinksTreeSchedTimeTravHostDispUsbNetKeysOutFree]

theorem State.captureDefault_only (s : State) :
    OnlyDisp (State.captureDefault s) s := by
  simp [State.captureDefault, OnlyDisp]

theorem State.applyPower_only (s : State) (rs : List ImgRec) (p : Nat) :
    OnlyPwrTree (State.applyPower s rs p) s := by
  have only1 := @State.keepUpdate_only
  have only2 := @State.setPort_only
  have only3 := @State.setRec_only
  simp [only1, only2, only3, State.applyPower, OnlyPwrTree]

theorem State.applyRecords_only (s : State) (k : Nat) :
    OnlyRetModePwrBoardPaceLinksTreeSchedTimeTravHostDispUsbNetKeysImgOutFree (State.applyRecords s k) s := by
  have only1 := @State.applyPower_only
  have only2 := @State.applyRec_only
  have only3 := @State.captureDefault_only
  have only4 := @State.modLink_only
  have only5 := @State.preloadImage_only
  have only6 := @State.setPage_only
  have only7 := @State.setRec_only
  generalize hh : (State.applyRecords s k) = r
  unfold State.applyRecords at hh
  try dsimp only at hh
  repeat' first | split at hh
  all_goals subst hh
  all_goals simp [only1, only2, only3, only4, only5, only6, only7, OnlyRetModePwrBoardPaceLinksTreeSchedTimeTravHostDispUsbNetKeysImgOutFree]

end Sys2Proof.Machine
end

