-- ==== Sys2Proof/Laws/KeepImages.lean ====
section
/-! SUPPORT. For each operation of Machine/Images.lean, the parts of the state that it leaves unchanged. -/

set_option linter.unusedTactic false
set_option linter.unreachableTactic false
set_option linter.unusedSimpArgs false

namespace Sys2Proof.Machine
open Sys2Proof

theorem State.migrate_only (s : State) (ver : Nat) :
    OnlyNvHostImgOut (State.migrate s ver) s := by
  have only1 := @State.imgEvent_only
  have only2 := @State.setArea_only
  have only3 := @State.setBoot_only
  have only4 := @State.setOther_only
  simp [only1, only2, only3, only4, State.migrate, OnlyNvHostImgOut]

theorem State.latchSafe_only (s : State) :
    OnlyRetModeLatchPwrLinksTreeSchedTravHostDispUsbWinOut (State.latchSafe s) s := by
  have only1 := @State.enterSafe_only
  simp [only1, State.latchSafe, OnlyRetModeLatchPwrLinksTreeSchedTravHostDispUsbWinOut]

theorem State.startLinks_only (s : State) :
    OnlyPwrLinksHostOut (State.startLinks s) s := by
  have only1 := @State.agree_only
  have only2 := @State.sendRate_only
  simp [only1, only2, State.startLinks, OnlyPwrLinksHostOut]

theorem State.bootImage_only (s : State) (k : Nat) (atEntry : Bool) :
    OnlyNvRetModeLatchPwrBoardPaceLinksTreeSchedTimeTravHostDispUsbNetWinKeysImgOutFree (State.bootImage s k atEntry) s := by
  have only1 := @State.applyRecords_only
  have only2 := @State.imgEvent_only
  have only3 := @State.latchSafe_only
  have only4 := @State.migrate_only
  have only5 := @State.pushIdents_only
  have only6 := @State.setBoot_only
  have only7 := @State.startLinks_only
  simp [only1, only2, only3, only4, only5, only6, only7, State.bootImage, OnlyNvRetModeLatchPwrBoardPaceLinksTreeSchedTimeTravHostDispUsbNetWinKeysImgOutFree]

theorem effImageApply_only (badA badB : Bool) (s : State) :
    OnlyNvRetModeLatchPwrBoardPaceLinksTreeSchedTimeTravHostDispUsbNetWinKeysImgOutFree (effImageApply badA badB s) s := by
  have only1 := @State.bootImage_only
  have only2 := @State.imgEvent_only
  have only3 := @State.latchSafe_only
  have only4 := @State.startLinks_only
  simp [only1, only2, only3, only4, effImageApply, OnlyNvRetModeLatchPwrBoardPaceLinksTreeSchedTimeTravHostDispUsbNetWinKeysImgOutFree]

theorem State.confirmImage_only (s : State) :
    OnlyNvCounterHostImgOut (State.confirmImage s) s := by
  have only1 := @State.imgEvent_only
  have only2 := @State.setBoot_only
  have only3 := @State.setOther_only
  simp [only1, only2, only3, State.confirmImage, OnlyNvCounterHostImgOut]

theorem effLegConfirmImage_only (e : Nat) (s : State) :
    OnlyNvCounterTravHostImgOut (effLegConfirmImage e s) s := by
  have only1 := @State.adv_only
  have only2 := @State.confirmImage_only
  have only3 := @State.countLeg_only
  have only4 := @State.exception_only
  have only5 := @State.legLimit_only
  generalize hh : (effLegConfirmImage e s) = r
  unfold effLegConfirmImage State.effectLeg State.runLeg at hh
  try dsimp only at hh
  repeat' first | split at hh | dsimp only at hh
  all_goals subst hh
  all_goals first
    | (simp [only1, only2, only3, only4, only5, OnlyNvCounterTravHostImgOut]; done)
    | (have q := ‹_ = some _›; (repeat' split at q) <;> first | (cases q <;> (simp [only1, only2, only3, only4, only5, OnlyNvCounterTravHostImgOut]; done)) | (cases q; have k := State.regWrite_only _ _ _ _ _ _ ‹State.regWrite _ _ _ _ _ = some _›; simp [only1, only2, only3, only4, only5, OnlyNvCounterTravHostImgOut, k]; done) | (cases q; have k := congrArg Prod.fst ‹_ = (_, _)›; dsimp only at k; subst k; simp [only1, only2, only3, only4, only5, OnlyNvCounterTravHostImgOut]; done) | (have k := State.handOver_only _ _ _ _ _ q; simp [only1, only2, only3, only4, only5, OnlyNvCounterTravHostImgOut, k]; done))

theorem effHealthTimeout_only (s : State) :
    OnlyTravHostImgOut (effHealthTimeout s) s := by
  have only1 := @State.abortEngine_only
  have only2 := @State.imgEvent_only
  simp [only1, only2, effHealthTimeout, OnlyTravHostImgOut]

end Sys2Proof.Machine
end

