-- ==== Sys2Proof/Laws/KeepLanes.lean ====
section
/-! SUPPORT. For each operation of Machine/Lanes.lean, the parts of the state that it leaves unchanged. -/

set_option linter.unusedTactic false
set_option linter.unreachableTactic false
set_option linter.unusedSimpArgs false

namespace Sys2Proof.Machine
open Sys2Proof

theorem State.runRequest_only (s : State) :
    OnlyRet (State.runRequest s) s := by
  simp [State.runRequest, OnlyRet]

theorem State.wakeFrame_only (s : State) (port : Nat) :
    OnlyRet (State.wakeFrame s port) s := by
  have only1 := @State.runRequest_only
  simp [only1, State.wakeFrame, OnlyRet]

theorem effSidebandIdent_only (port : Nat) (f : SbFrame) (s : State) :
    OnlyPwrLinksHostOut (effSidebandIdent port f s) s := by
  have only1 := @State.modLink_only
  have only2 := @State.modPort_only
  have only3 := @State.sbDiscard_only
  have only4 := @State.sbReceive_only
  have only5 := @State.sendRate_only
  generalize hh : (effSidebandIdent port f s) = r
  unfold effSidebandIdent at hh
  try dsimp only at hh
  repeat' first | split at hh
  all_goals subst hh
  all_goals first
    | (simp [only1, only2, only3, only4, only5, OnlyPwrLinksHostOut]; done)
    | (have k := congrArg Prod.fst ‹_ = (_, _)›; dsimp only at k; subst k; simp [only1, only2, only3, only4, only5, OnlyPwrLinksHostOut]; done)

theorem State.takeRate_only (s : State) (k rate width attempt : Nat) (announce : Bool) :
    OnlyPwrLinksHostOut (State.takeRate s k rate width attempt announce) s := by
  have only1 := @State.agree_only
  have only2 := @State.modLink_only
  have only3 := @State.sendRate_only
  simp [only1, only2, only3, State.takeRate, OnlyPwrLinksHostOut]

theorem effSidebandRate_only (port : Nat) (f : SbFrame) (s : State) :
    OnlyRetPwrLinksHostOut (effSidebandRate port f s) s := by
  have only1 := @State.runRequest_only
  have only2 := @State.sbDiscard_only
  have only3 := @State.sbReceive_only
  have only4 := @State.takeRate_only
  have only5 := @State.wakeFrame_only
  have h := @State.sbReceive_only s port f
  unfold effSidebandRate
  try dsimp only
  split
  · simp [only1, only2, only3, only4, only5, OnlyRetPwrLinksHostOut]
  · split <;> rename_i heq <;> rw [heq] at h <;> dsimp only at h <;> (try split) <;> simp [only1, only2, only3, only4, only5, OnlyRetPwrLinksHostOut, h]

theorem effSidebandWake_only (port : Nat) (f : SbFrame) (s : State) :
    OnlyRetPwrHostOut (effSidebandWake port f s) s := by
  have only1 := @State.runRequest_only
  have only2 := @State.sbDiscard_only
  have only3 := @State.sbReceive_only
  have only4 := @State.wakeFrame_only
  have h := @State.sbReceive_only s port f
  unfold effSidebandWake
  try dsimp only
  split
  · simp [only1, only2, only3, only4, OnlyRetPwrHostOut]
  · split <;> rename_i heq <;> rw [heq] at h <;> dsimp only at h <;> (try split) <;> simp [only1, only2, only3, only4, OnlyRetPwrHostOut, h]

theorem effAttachDebounce_only (port link : Nat) (s : State) :
    OnlyPwrLinksHostOut (effAttachDebounce port link s) s := by
  have only1 := @State.agree_only
  have only2 := @State.attachPower_only
  have only3 := @State.modPort_only
  have only4 := @State.sendRate_only
  simp [only1, only2, only3, only4, effAttachDebounce, OnlyPwrLinksHostOut]

theorem effSkpSend_only (link : Nat) (s : State) :
    OnlyOut (effSkpSend link s) s := by
  have only1 := @State.emit_only
  have only2 := @State.sendSym_only
  simp [only1, only2, effSkpSend, OnlyOut]

theorem effPllLock_only (link : Nat) (s : State) :
    OnlyLinksOut (effPllLock link s) s := by
  have only1 := @State.emit_only
  have only2 := @State.modLink_only
  have only3 := @State.sendSym_only
  simp [only1, only2, only3, effPllLock, OnlyLinksOut]

theorem State.startTs1_only (s : State) (l w : Nat) :
    OnlyLinksOut (State.startTs1 s l w) s := by
  have only1 := @State.emit_only
  have only2 := @State.modLink_only
  have only3 := @State.sendSym_only
  simp [only1, only2, only3, State.startTs1, OnlyLinksOut]

theorem effSymbolLock_only (link lane : Nat) (groups : List (BitVec 10)) (s : State) :
    OnlyLinksOut (effSymbolLock link lane groups s) s := by
  have only1 := @State.modLink_only
  have only2 := @State.startTs1_only
  simp [only1, only2, effSymbolLock, OnlyLinksOut]

theorem effWidthFallback_only (link : Nat) (s : State) :
    OnlyPwrLinksHostOut (effWidthFallback link s) s := by
  have only1 := @State.modLink_only
  have only2 := @State.startTs1_only
  have only3 := @State.trainFail_only
  simp [only1, only2, only3, effWidthFallback, OnlyPwrLinksHostOut]

theorem State.takeTs1_only (s : State) (link rate cls width skew : Nat) (lanes : List Nat) :
    OnlyPwrLinksHostOut (State.takeTs1 s link rate cls width skew lanes) s := by
  have only1 := @State.modLink_only
  have only2 := @State.sendSym_only
  have only3 := @State.startTs1_only
  have only4 := @State.trainFail_only
  simp [only1, only2, only3, only4, State.takeTs1, OnlyPwrLinksHostOut]

theorem effTs1Align_only (link skew : Nat) (sets : List (List Sym)) (s : State) :
    OnlyPwrLinksHostOut (effTs1Align link skew sets s) s := by
  have only1 := @State.emit_only
  have only2 := @State.modLink_only
  have only3 := @State.startTs1_only
  have only4 := @State.takeTs1_only
  have only5 := @State.trainFail_only
  generalize hh : (effTs1Align link skew sets s) = r
  unfold effTs1Align at hh
  try dsimp only at hh
  repeat' first | split at hh
  all_goals subst hh
  all_goals simp [only1, only2, only3, only4, only5, OnlyPwrLinksHostOut]

theorem State.sendIdent_only (s : State) (l : Nat) :
    OnlyOut (State.sendIdent s l) s := by
  have only1 := @State.emit_only
  have only2 := @State.sendSym_only
  simp [only1, only2, State.sendIdent, OnlyOut]

theorem State.handToLink_only (s : State) (link : Nat) :
    OnlyLinksTreeHostOutFree (State.handToLink s link) s := by
  have only1 := @State.drew_only
  have only2 := @State.modLink_only
  have only3 := @State.refuse_only
  have only4 := @State.sendIdent_only
  simp [only1, only2, only3, only4, State.handToLink, OnlyLinksTreeHostOutFree]

theorem effTs2Handoff_only (link : Nat) (sets : List (List Sym)) (s : State) :
    OnlyPwrLinksTreeHostOutFree (effTs2Handoff link sets s) s := by
  have only1 := @State.drew_only
  have only2 := @State.handToLink_only
  have only3 := @State.modLink_only
  have only4 := @State.sendIdent_only
  have only5 := @State.trainFail_only
  generalize hh : (effTs2Handoff link sets s) = r
  unfold effTs2Handoff at hh
  try dsimp only at hh
  repeat' first | split at hh
  all_goals subst hh
  all_goals simp [only1, only2, only3, only4, only5, OnlyPwrLinksTreeHostOutFree]

theorem effTrainingTimeout_only (link : Nat) (s : State) :
    OnlyPwrLinksHostOut (effTrainingTimeout link s) s := by
  have only1 := @State.trainFail_only
  simp [only1, effTrainingTimeout, OnlyPwrLinksHostOut]

theorem effTrainingRoundWaitEnd_only (link : Nat) (s : State) :
    OnlyPwrLinksHostOut (effTrainingRoundWaitEnd link s) s := by
  have only1 := @State.modLink_only
  have only2 := @State.newAttempt_only
  simp [only1, only2, effTrainingRoundWaitEnd, OnlyPwrLinksHostOut]

theorem effLosStart_only (link : Nat) (s : State) :
    OnlyLinksTime (effLosStart link s) s := by
  have only1 := @State.modLink_only
  have only2 := @State.spoilExchange_only
  simp [only1, only2, effLosStart, OnlyLinksTime]

theorem effLosEnd_only (link ns : Nat) (s : State) :
    OnlyLinks (effLosEnd link ns s) s := by
  have only1 := @State.modLink_only
  simp [only1, effLosEnd, OnlyLinks]

theorem State.dozeHeld_only (s : State) (l : Nat) :
    OnlyLinksHostOut (State.dozeHeld s l) s := by
  have only1 := @State.modLink_only
  have only2 := @State.reportMgmt_only
  simp [only1, only2, State.dozeHeld, OnlyLinksHostOut]

theorem State.dozeTo_only (s : State) (l : Nat) (d : Doze) :
    OnlyLinksOut (State.dozeTo s l d) s := by
  have only1 := @State.emit_only
  have only2 := @State.modLink_only
  have only3 := @State.sendSym_only
  simp [only1, only2, only3, State.dozeTo, OnlyLinksOut]

theorem effDozeLightTimeout_only (link : Nat) (s : State) :
    OnlyLinksHostOut (effDozeLightTimeout link s) s := by
  have only1 := @State.dozeHeld_only
  have only2 := @State.dozeTo_only
  simp [only1, only2, effDozeLightTimeout, OnlyLinksHostOut]

theorem effDozeDeepTimeout_only (link : Nat) (s : State) :
    OnlyLinksHostOut (effDozeDeepTimeout link s) s := by
  have only1 := @State.dozeHeld_only
  have only2 := @State.dozeTo_only
  simp [only1, only2, effDozeDeepTimeout, OnlyLinksHostOut]

theorem effDozReceive_only (link : Nat) (d : Doze) (s : State) :
    OnlyLinks (effDozReceive link d s) s := by
  have only1 := @State.modLink_only
  simp [only1, effDozReceive, OnlyLinks]

theorem effDozeWakeStart_only (link : Nat) (s : State) :
    OnlyLinksOut (effDozeWakeStart link s) s := by
  have only1 := @State.wakeTx_only
  simp [only1, effDozeWakeStart, OnlyLinksOut]

theorem effDozeWakeComplete_only (link : Nat) (s : State) :
    OnlyLinksHostOut (effDozeWakeComplete link s) s := by
  have only1 := @State.complete_only
  have only2 := @State.emit_only
  have only3 := @State.modLink_only
  have only4 := @State.sendFc_only
  have only5 := @State.sendSym_only
  simp [only1, only2, only3, only4, only5, effDozeWakeComplete, OnlyLinksHostOut]

theorem effWakeLockTimeout_only (link : Nat) (s : State) :
    OnlyLinksTime (effWakeLockTimeout link s) s := by
  have only1 := @State.modLink_only
  have only2 := @State.spoilExchange_only
  simp [only1, only2, effWakeLockTimeout, OnlyLinksTime]

theorem effWakeEndSkpReceive_only (link : Nat) (s : State) :
    OnlyLinks (effWakeEndSkpReceive link s) s := by
  have only1 := @State.modLink_only
  simp [only1, effWakeEndSkpReceive, OnlyLinks]

theorem State.endPattern_only (s : State) (l : Nat) :
    OnlyPwrLinksHostOut (State.endPattern s l) s := by
  have only1 := @State.modLink_only
  have only2 := @State.newAttempt_only
  simp [only1, only2, State.endPattern, OnlyPwrLinksHostOut]

theorem State.patternResults_only (s : State) (l : Nat) (got : List (List Bool)) :
    OnlyLinks (State.patternResults s l got) s := by
  have only1 := @State.drew_only
  have only2 := @State.modLink_only
  simp [only1, only2, State.patternResults, OnlyLinks]

theorem effPatternDurationEnd_only (link : Nat) (got : List (List Bool)) (s : State) :
    OnlyPwrLinksHostOut (effPatternDurationEnd link got s) s := by
  have only1 := @State.endPattern_only
  have only2 := @State.modLink_only
  have only3 := @State.patternResults_only
  generalize hh : (effPatternDurationEnd link got s) = r
  unfold effPatternDurationEnd at hh
  try dsimp only at hh
  repeat' first | split at hh
  all_goals subst hh
  all_goals simp [only1, only2, only3, OnlyPwrLinksHostOut]

end Sys2Proof.Machine
end

