-- ==== Sys2Proof/Laws/KeepLinkLayer.lean ====
section
/-! SUPPORT. For each operation of Machine/LinkLayer.lean, the parts of the state that it leaves unchanged. -/

namespace Sys2Proof.Machine
open Sys2Proof

theorem effLocalPacketOffer_only (tid : Nat) (urgent first last : Bool) (payload : List Byte) (s : State) :
    OnlyLinksTreeSchedOut (effLocalPacketOffer tid urgent first last payload s) s := by
  have only1 := @State.offerPkt_only
  simp [only1, effLocalPacketOffer, OnlyLinksTreeSchedOut]

theorem State.takeAck_only (s : State) (link : Nat) (seq : BitVec 12) :
    OnlyLinks (State.takeAck s link seq) s := by
  have only1 := @State.setLink_only
  generalize hh : (State.takeAck s link seq) = r
  unfold State.takeAck at hh
  try dsimp only at hh
  repeat' first | split at hh
  all_goals subst hh
  all_goals simp [only1, OnlyLinks]

theorem effAckReceive_only (link : Nat) (w : Wave) (s : State) :
    OnlyLinksTime (effAckReceive link w s) s := by
  have only1 := @State.setLink_only
  have only2 := @State.takeAck_only
  have only3 := @State.takeLcp_only
  have h := @State.takeLcp_only s link w
  unfold effAckReceive
  split
  · simp [OnlyLinksTime]
  · split <;> rename_i heq <;> rw [heq] at h <;> dsimp only at h <;> simp [only1, only2, only3, OnlyLinksTime, h]

theorem State.takeNak_only (s : State) (link : Nat) (seq : BitVec 12) :
    OnlyPwrLinksHostOut (State.takeNak s link seq) s := by
  have only1 := @State.setLink_only
  have only2 := @State.startReplay_only
  generalize hh : (State.takeNak s link seq) = r
  unfold State.takeNak at hh
  try dsimp only at hh
  repeat' first | split at hh
  all_goals subst hh
  all_goals simp [only1, only2, OnlyPwrLinksHostOut]

theorem effNakReceive_only (link : Nat) (w : Wave) (s : State) :
    OnlyPwrLinksTimeHostOut (effNakReceive link w s) s := by
  have only1 := @State.setLink_only
  have only2 := @State.startReplay_only
  have only3 := @State.takeLcp_only
  have only4 := @State.takeNak_only
  have h := @State.takeLcp_only s link w
  unfold effNakReceive
  split
  · simp [OnlyPwrLinksTimeHostOut]
  · split <;> rename_i heq <;> rw [heq] at h <;> dsimp only at h <;> simp [only1, only2, only3, only4, OnlyPwrLinksTimeHostOut, h]

theorem effReplayTimerExpiry_only (link : Nat) (s : State) :
    OnlyPwrLinksHostOut (effReplayTimerExpiry link s) s := by
  have only1 := @State.startReplay_only
  simp [only1, effReplayTimerExpiry, OnlyPwrLinksHostOut]

theorem effAckSend_only (link : Nat) (s : State) :
    OnlyLinksOut (effAckSend link s) s := by
  have only1 := @State.emit_only
  have only2 := @State.sendSym_only
  have only3 := @State.setLink_only
  simp [only1, only2, only3, effAckSend, OnlyLinksOut]

theorem effNakSend_only (link : Nat) (s : State) :
    OnlyLinksOut (effNakSend link s) s := by
  have only1 := @State.emit_only
  have only2 := @State.sendSym_only
  have only3 := @State.setLink_only
  simp [only1, only2, only3, effNakSend, OnlyLinksOut]

theorem effIdentRepeat_only (link : Nat) (s : State) :
    OnlyOut (effIdentRepeat link s) s := by
  have only1 := @State.sendIdent_only
  simp [only1, effIdentRepeat, OnlyOut]

theorem effFcUpdateTimer_only (link : Nat) (s : State) :
    OnlyLinksOut (effFcUpdateTimer link s) s := by
  have only1 := @State.sendFc_only
  have only2 := @State.wakeTx_only
  simp [only1, only2, effFcUpdateTimer, OnlyLinksOut]

theorem effFcRefresh_only (link : Nat) (s : State) :
    OnlyLinksOut (effFcRefresh link s) s := by
  have only1 := @State.sendFc_only
  simp [only1, effFcRefresh, OnlyLinksOut]

theorem effFcStall_only (link tc : Nat) (s : State) :
    OnlyLinks (effFcStall link tc s) s := by
  have only1 := @State.setLink_only
  simp [only1, effFcStall, OnlyLinks]

end Sys2Proof.Machine
end

