-- ==== Sys2Proof/Laws/KeepModes.lean ====
section
/-! SUPPORT. For each operation of Machine/Modes.lean, the parts of the state that it leaves unchanged. -/

namespace Sys2Proof.Machine
open Sys2Proof

theorem State.wholeReset_only (s : State) (r : Ret) :
    OnlyRetModeStrapsLatchCausePwrBoardPaceLinksTreeSchedTimeTravHostDispUsbNetWinKeysImgErr (State.wholeReset s r) s := by
  simp [State.wholeReset, OnlyRetModeStrapsLatchCausePwrBoardPaceLinksTreeSchedTimeTravHostDispUsbNetWinKeysImgErr]

theorem State.sampleStraps_only (s : State) (pins : BitVec 14) (wakeN : Bool) :
    OnlyRetModeStraps (State.sampleStraps s pins wakeN) s := by
  have only1 := @State.runRequest_only
  simp [only1, State.sampleStraps, OnlyRetModeStraps]

theorem effResetNRelease_only (pins : BitVec 14) (wakeN testEn : Bool) (s : State) :
    OnlyRetModeStraps (effResetNRelease pins wakeN testEn s) s := by
  have only1 := @State.sampleStraps_only
  simp [only1, effResetNRelease, OnlyRetModeStraps]

theorem effStrapSampleDeferred_only (pins : BitVec 14) (wakeN testEn : Bool) (s : State) :
    OnlyRetModeStraps (effStrapSampleDeferred pins wakeN testEn s) s := by
  have only1 := @State.sampleStraps_only
  simp [only1, effStrapSampleDeferred, OnlyRetModeStraps]

theorem effActSafelvlDrive_only (s : State) :
    OnlyRetOut (effActSafelvlDrive s) s := by
  have only1 := @State.pinsToSafe_only
  simp [only1, effActSafelvlDrive, OnlyRetOut]

theorem State.linkLeave_only (s : State) (l : Nat) :
    OnlyLinksTreeSchedTimeTravHostUsbNetWinOut (State.linkLeave s l) s := by
  have only1 := @State.closeRoutes_only
  have only2 := @State.complete_only
  have only3 := @State.dropQueue_only
  have only4 := @State.endLinkCmd_only
  have only5 := @State.linkEvent_only
  have only6 := @State.modLink_only
  have only7 := @State.suspendLink_only
  simp [only1, only2, only3, only4, only5, only6, only7, State.linkLeave, OnlyLinksTreeSchedTimeTravHostUsbNetWinOut]

theorem State.linksLeave_only (s : State) :
    OnlyLinksTreeSchedTimeTravHostUsbNetWinOutFree (State.linksLeave s) s := by
  have only1 := @State.linkEvent_only
  have only2 := @State.linkLeave_only
  have only3 := @State.modLink_only
  have only4 := @State.noteRole_only
  simp [only1, only2, only3, only4, State.linksLeave, OnlyLinksTreeSchedTimeTravHostUsbNetWinOutFree]

theorem State.surveyStart_only (s : State) (cause : Nat) (failed : Bool) :
    OnlyNvRetModeLatchPwrBoardPaceLinksTreeSchedTimeTravHostDispUsbNetWinKeysImgErrOutFree (State.surveyStart s cause failed) s := by
  have only1 := @State.areaBoot_only
  have only2 := @State.captureDefault_only
  have only3 := @State.coreReset_only
  have only4 := @State.deviceFatal_only
  have only5 := @State.keysReload_only
  have only6 := @State.latchSafe_only
  have only7 := @State.modeEvent_only
  have only8 := @State.noteErr_only
  have only9 := @State.outputsLow_only
  have only10 := @State.pinsToSafe_only
  have only11 := @State.pushIdents_only
  have only12 := @State.sendRate_only
  have only13 := @State.setSlice_only
  simp [only1, only2, only3, only4, only5, only6, only7, only8, only9, only10, only11, only12, only13, State.surveyStart, OnlyNvRetModeLatchPwrBoardPaceLinksTreeSchedTimeTravHostDispUsbNetWinKeysImgErrOutFree]

theorem State.toSentry_only (s : State) :
    OnlyRetModePwrBoardPaceLinksTreeSchedTimeTravHostDispUsbNetWinKeysImgErrOut (State.toSentry s) s := by
  have only1 := @State.coreClear_only
  have only2 := @State.outputsLow_only
  have only3 := @State.pinsToSafe_only
  have only4 := @State.pushIdents_only
  simp [only1, only2, only3, only4, State.toSentry, OnlyRetModePwrBoardPaceLinksTreeSchedTimeTravHostDispUsbNetWinKeysImgErrOut]

theorem effSurveyEntry_only (failed : Bool) (s : State) :
    OnlyNvRetModeLatchPwrBoardPaceLinksTreeSchedTimeTravHostDispUsbNetWinKeysImgErrOutFree (effSurveyEntry failed s) s := by
  have only1 := @State.surveyStart_only
  simp [only1, effSurveyEntry, OnlyNvRetModeLatchPwrBoardPaceLinksTreeSchedTimeTravHostDispUsbNetWinKeysImgErrOutFree]

theorem effRailValid_only (r : Rail) (s : State) :
    OnlyRetLinksTreeSchedUsbOut (effRailValid r s) s := by
  have only1 := @State.usbAttach_only
  simp [only1, effRailValid, OnlyRetLinksTreeSchedUsbOut]

theorem State.headGone_only (s : State) (i : Nat) :
    OnlyHostDispOut (State.headGone s i) s := by
  have only1 := @State.complete_only
  have only2 := @State.setHead_only
  simp [only1, only2, State.headGone, OnlyHostDispOut]

theorem effRailInvalid_only (r : Rail) (s : State) :
    OnlyRetModeLatchCausePwrBoardPaceLinksTreeSchedTimeTravHostDispUsbNetWinKeysImgErrOut (effRailInvalid r s) s := by
  have only1 := @State.enterSafe_only
  have only2 := @State.headGone_only
  have only3 := @State.toSentry_only
  have only4 := @State.usbDetachAll_only
  generalize hh : (effRailInvalid r s) = r
  unfold effRailInvalid at hh
  try dsimp only at hh
  repeat' first | split at hh
  all_goals subst hh
  all_goals simp [only1, only2, only3, only4, OnlyRetModeLatchCausePwrBoardPaceLinksTreeSchedTimeTravHostDispUsbNetWinKeysImgErrOut]

theorem effWakeReason_only (byPin : Bool) (s : State) :
    OnlyRetMode (effWakeReason byPin s) s := by
  have only1 := @State.runRequest_only
  simp [only1, effWakeReason, OnlyRetMode]

theorem effDormancyDelayExpiry_only (wakeN : Bool) (s : State) :
    OnlyRetMode (effDormancyDelayExpiry wakeN s) s := by
  simp [effDormancyDelayExpiry, OnlyRetMode]

theorem effSurveyCarrierTimeout_only (wakeN : Bool) (s : State) :
    OnlyRetModePwrBoardPaceLinksTreeSchedTimeTravHostDispUsbNetWinKeysImgErrOutFree (effSurveyCarrierTimeout wakeN s) s := by
  have only1 := @State.linksLeave_only
  have only2 := @State.pwrLeave_only
  have only3 := @State.toSentry_only
  simp [only1, only2, only3, effSurveyCarrierTimeout, OnlyRetModePwrBoardPaceLinksTreeSchedTimeTravHostDispUsbNetWinKeysImgErrOutFree]

theorem State.setPerst_only (s : State) (port : Nat) (v : Bool) :
    OnlyRet (State.setPerst s port v) s := by
  simp [State.setPerst, OnlyRet]

theorem effPerstRelease_only (port : Nat) (s : State) :
    OnlyRet (effPerstRelease port s) s := by
  have only1 := @State.runRequest_only
  have only2 := @State.setPerst_only
  simp [only1, only2, effPerstRelease, OnlyRet]

theorem effHostPortReset_only (port : Nat) (s : State) :
    OnlyRetHostWinOut (effHostPortReset port s) s := by
  have only1 := @State.resetPortSlices_only
  have only2 := @State.setHport_only
  have only3 := @State.setPerst_only
  have only4 := @State.unmapped_only
  simp [only1, only2, only3, only4, effHostPortReset, OnlyRetHostWinOut]

theorem effPcieRetryStatusEnd_only (port : Nat) (s : State) :
    OnlyHost (effPcieRetryStatusEnd port s) s := by
  have only1 := @State.setHport_only
  simp [only1, effPcieRetryStatusEnd, OnlyHost]

theorem State.imageEngine_only (s : State) (e : Nat) (entry : Option Nat) :
    OnlyTrav (State.imageEngine s e entry) s := by
  have only1 := @State.launchEngine_only
  have only2 := @State.modEngine_only
  have only3 := @State.wakeEngine_only
  generalize hh : (State.imageEngine s e entry) = r
  unfold State.imageEngine at hh
  try dsimp only at hh
  repeat' first | split at hh
  all_goals subst hh
  all_goals simp [only1, only2, only3, OnlyTrav]

theorem State.startHead_only (s : State) (i : Nat) :
    OnlyHostDispOut (State.startHead s i) s := by
  have only1 := @State.applyF_only
  generalize hh : (State.startHead s i) = r
  unfold State.startHead at hh
  try dsimp only at hh
  repeat' first | split at hh
  all_goals subst hh
  all_goals simp [only1, OnlyHostDispOut]

theorem State.tunnelRec_only (s : State) (r : ImgRec) :
    OnlyLinksTreeSchedHostOut (State.tunnelRec s r) s := by
  have only1 := @effTunOpen_only
  simp [only1, State.tunnelRec, OnlyLinksTreeSchedHostOut]

theorem effFieldEntry_only (s : State) :
    OnlyRetModePwrLinksTreeSchedTravHostDispUsbNetImgOut (effFieldEntry s) s := by
  have only1 := @State.claimStart_only
  have only2 := @State.fieldMoves_only
  have only3 := @State.imageEngine_only
  have only4 := @State.startHead_only
  have only5 := @State.toMode_only
  have only6 := @State.tunnelRec_only
  have only7 := @State.usbAttach_only
  simp [only1, only2, only3, only4, only5, only6, only7, effFieldEntry, OnlyRetModePwrLinksTreeSchedTravHostDispUsbNetImgOut]

theorem effDevModeDelayExpiry_only (s : State) :
    OnlyRetModeLatchPwrBoardPaceLinksTreeSchedTimeTravHostDispUsbNetWinKeysImgErrOutFree (effDevModeDelayExpiry s) s := by
  have only1 := @State.enterSafe_only
  have only2 := @State.linksLeave_only
  have only3 := @State.pwrLeave_only
  have only4 := @State.toSentry_only
  generalize hh : (effDevModeDelayExpiry s) = r
  unfold effDevModeDelayExpiry State.causedBy at hh
  try dsimp only at hh
  repeat' first | split at hh
  all_goals subst hh
  all_goals simp [only1, only2, only3, only4, OnlyRetModeLatchPwrBoardPaceLinksTreeSchedTimeTravHostDispUsbNetWinKeysImgErrOutFree]

end Sys2Proof.Machine
end

