-- ==== Sys2Proof/Laws/KeepPace.lean ====
section
/-! SUPPORT. For each operation of Machine/Pace.lean, the parts of the state that it leaves unchanged. -/

namespace Sys2Proof.Machine
open Sys2Proof

theorem effPaceSample_only (rings : List Nat) (fault : Bool) (tj : BitVec 8) (s : State) :
    OnlyPace (effPaceSample rings fault tj s) s := by
  simp [effPaceSample, OnlyPace]

theorem effPaceMonitorRevalid_only (s : State) :
    OnlyPace (effPaceMonitorRevalid s) s := by
  simp [effPaceMonitorRevalid, OnlyPace]

theorem State.paceAlert_only (s : State) (reason status : Nat) :
    OnlyHostOut (State.paceAlert s reason status) s := by
  have only1 := @State.reportMgmt_only
  simp [only1, State.paceAlert, OnlyHostOut]

theorem State.shedTo_only (s : State) (shed : Nat) :
    OnlyLinksSched (State.shedTo s shed) s := by
  have only1 := @State.schedAdvance_only
  simp [only1, State.shedTo, OnlyLinksSched]

theorem State.paceAlerts_only (s : State) (old : Nat) (starts jump ends : Bool) :
    OnlyHostOut (State.paceAlerts s old starts jump ends) s := by
  have only1 := @State.paceAlert_only
  simp [only1, State.paceAlerts, OnlyHostOut]

theorem effPaceIntervalEnd_only (s : State) :
    OnlyPaceLinksSchedHostOut (effPaceIntervalEnd s) s := by
  have only1 := @State.paceAlerts_only
  have only2 := @State.shedTo_only
  simp [only1, only2, effPaceIntervalEnd, OnlyPaceLinksSchedHostOut]

end Sys2Proof.Machine
end

