-- ==== Sys2Proof/Laws/KeepTick.lean ====
section
/-! SUPPORT. For each operation of Machine/Tick.lean, the parts of the state that it leaves unchanged. -/

namespace Sys2Proof.Machine
open Sys2Proof

theorem State.detachDone_only (s : State) :
    OnlyLinksTreeSchedUsbOut (State.detachDone s) s := by
  have only1 := @State.usbAttach_only
  generalize hh : (State.detachDone s) = r
  unfold State.detachDone at hh
  try dsimp only at hh
  repeat' first | split at hh
  all_goals subst hh
  all_goals simp [only1, OnlyLinksTreeSchedUsbOut]

theorem State.tick_only (s : State) :
    OnlyLinksTreeSchedTimeTravHostUsbOutUptime (State.tick s) s := by
  have only1 := @State.detachDone_only
  have only2 := @State.launchesDone_only
  have only3 := @State.ppsTick_only
  simp [only1, only2, only3, State.tick, OnlyLinksTreeSchedTimeTravHostUsbOutUptime]

end Sys2Proof.Machine
end

