-- ==== Sys2Proof/Laws/KeepTransport.lean ====
section
/-! SUPPORT. For each operation of Machine/Transport.lean, the parts of the state that it leaves unchanged. -/

namespace Sys2Proof.Machine
open Sys2Proof

theorem State.takeCmd_only (s : State) (c : Cmd) :
    OnlyHostOut (State.takeCmd s c) s := by
  have only1 := @State.complete_only
  have only2 := @State.startPend_only
  generalize hh : (State.takeCmd s c) = r
  unfold State.takeCmd at hh
  try dsimp only at hh
  repeat' first | split at hh
  all_goals subst hh
  all_goals simp [only1, only2, OnlyHostOut]

theorem effCommandFetch_only (dws : Option (List Word)) (s : State) :
    OnlyHostOut (effCommandFetch dws s) s := by
  have only1 := @State.emit_only
  have only2 := @State.modSlice_only
  have only3 := @State.queueErr_only
  have only4 := @State.setSq_only
  have only5 := @State.takeCmd_only
  generalize hh : (effCommandFetch dws s) = r
  unfold effCommandFetch at hh
  try dsimp only at hh
  repeat' first | split at hh
  all_goals subst hh
  all_goals simp [only1, only2, only3, only4, only5, OnlyHostOut]

theorem effIndirectInputReadDone_only (htag : Nat) (ok : Bool) (bytes : List Byte) (s : State) :
    OnlyHostOut (effIndirectInputReadDone htag ok bytes s) s := by
  have only1 := @State.complete_only
  have only2 := @State.kick_only
  have only3 := @State.sendCommand_only
  have only4 := @State.setPend_only
  generalize hh : (effIndirectInputReadDone htag ok bytes s) = r
  unfold effIndirectInputReadDone at hh
  try dsimp only at hh
  repeat' first | split at hh
  all_goals subst hh
  all_goals simp [only1, only2, only3, only4, OnlyHostOut]

theorem effTimedCommandDue_only (hub : Option Nat) (htag : Nat) (s : State) :
    OnlyHostOut (effTimedCommandDue hub htag s) s := by
  have only1 := @State.startPend_only
  generalize hh : (effTimedCommandDue hub htag s) = r
  unfold effTimedCommandDue at hh
  try dsimp only at hh
  repeat' first | split at hh
  all_goals subst hh
  all_goals simp [only1, OnlyHostOut]

theorem State.sendReceived_only (s : State) (c : Cmd) :
    OnlyOut (State.sendReceived s c) s := by
  have only1 := @State.emit_only
  simp [only1, State.sendReceived, OnlyOut]

theorem effCommandMessage_only (ws : List Word) (s : State) :
    OnlyHostOut (effCommandMessage ws s) s := by
  have only1 := @State.complete_only
  have only2 := @State.sendReceived_only
  generalize hh : (effCommandMessage ws s) = r
  unfold effCommandMessage at hh
  try dsimp only at hh
  repeat' first | split at hh
  all_goals subst hh
  all_goals simp [only1, only2, OnlyHostOut]

theorem effDataMessage_only (ws : List Word) (data : List Byte) (s : State) :
    OnlyHostOut (effDataMessage ws data s) s := by
  have only1 := @State.emit_only
  have only2 := @State.sendReceived_only
  generalize hh : (effDataMessage ws data s) = r
  unfold effDataMessage at hh
  try dsimp only at hh
  repeat' first | split at hh
  all_goals subst hh
  all_goals simp [only1, only2, OnlyHostOut]

theorem State.countStale_only (s : State) (k : Nat) :
    OnlyHost (State.countStale s k) s := by
  have only1 := @State.modSlice_only
  simp [only1, State.countStale, OnlyHost]

theorem effReceivedMessage_only (ws : List Word) (s : State) :
    OnlySchedHost (effReceivedMessage ws s) s := by
  have only1 := @State.countStale_only
  have only2 := @State.modSlice_only
  have only3 := @State.setPend_only
  generalize hh : (effReceivedMessage ws s) = r
  unfold effReceivedMessage at hh
  try dsimp only at hh
  repeat' first | split at hh
  all_goals subst hh
  all_goals simp [only1, only2, only3, OnlySchedHost]

theorem effReceivedRepeat_only (hub htag : Nat) (sys : Bool) (s : State) :
    OnlyOut (effReceivedRepeat hub htag sys s) s := by
  have only1 := @State.sendReceived_only
  generalize hh : (effReceivedRepeat hub htag sys s) = r
  unfold effReceivedRepeat at hh
  try dsimp only at hh
  repeat' first | split at hh
  all_goals subst hh
  all_goals simp [only1, OnlyOut]

theorem effCompletionMessage_only (ws : List Word) (outOk : Bool) (s : State) :
    OnlyLinksTreeSchedTimeTravHostUsbNetWinOut (effCompletionMessage ws outOk s) s := by
  have only1 := @State.countStale_only
  have only2 := @State.destroyAnswer_only
  have only3 := @State.dropPend_only
  have only4 := @State.hopFormDone_only
  have only5 := @State.kick_only
  have only6 := @State.moveAnswer_only
  have only7 := @State.postRec_only
  generalize hh : (effCompletionMessage ws outOk s) = r
  unfold effCompletionMessage at hh
  try dsimp only at hh
  repeat' first | split at hh
  all_goals subst hh
  all_goals simp [only1, only2, only3, only4, only5, only6, only7, OnlyLinksTreeSchedTimeTravHostUsbNetWinOut]

theorem effEventMessage_only (ws : List Word) (s : State) :
    OnlyLinksTreeSchedHostOut (effEventMessage ws s) s := by
  have only1 := @State.closeSealed_only
  have only2 := @State.postRec_only
  have only3 := @State.rateHeard_only
  simp [only1, only2, only3, effEventMessage, OnlyLinksTreeSchedHostOut]

theorem effRemoteCommandTimeout_only (hub htag : Nat) (s : State) :
    OnlyLinksTreeSchedHostUsbWinOut (effRemoteCommandTimeout hub htag s) s := by
  have only1 := @State.destroyAnswer_only
  have only2 := @State.failRemote_only
  have only3 := @State.hopFormDone_only
  generalize hh : (effRemoteCommandTimeout hub htag s) = r
  unfold effRemoteCommandTimeout at hh
  try dsimp only at hh
  repeat' first | split at hh
  all_goals subst hh
  all_goals simp [only1, only2, only3, OnlyLinksTreeSchedHostUsbWinOut]

end Sys2Proof.Machine
end

