-- ==== Sys2Proof/Laws/Legs.lean ====
section
/-! SUPPORT. What a leg does that executes: its own part on the state in which it has been counted. -/

set_option linter.unusedTactic false
set_option linter.unreachableTactic false

namespace Sys2Proof.Machine

open Sys2Proof

theorem State.runLeg_runs {s : State} {e kind v : Nat} (h : s.legRuns e kind v) (body : State → Nat → Option State) :
    s.runLeg e kind body = match body (s.countLeg e) v with
      | none => s
      | some t => t.legLimit e (s.engine e).pc := by
  obtain ⟨h1, h2, h3, h4, h5, h6, h7, h8, h9⟩ := h
  subst h7
  unfold State.runLeg
  have h2' : ¬ 32 ≤ e := by omega
  dsimp only
  rw [if_neg (by simp [h1, h2', h3, h4]), if_neg (by simp [h5]), if_neg (by rw [h6]; simp), if_neg (by simp [h8]), if_neg (by simp [h9])]
  all_goals cases body (s.countLeg e) (s.leg (s.engine e).pc) <;> rfl

theorem State.effectLeg_runs {s : State} {e kind v : Nat} (h : s.legRuns e kind v)
    (hd : ((s.countLeg e).engine e).d ≤ (s.countLeg e).now250) (body : State → Nat → State) :
    s.effectLeg e kind body = (body (s.countLeg e) v).legLimit e (s.engine e).pc := by
  unfold State.effectLeg
  rw [State.runLeg_runs h, if_neg (by omega)]

end Sys2Proof.Machine
end

