-- ==== Sys2Proof/Laws/Table.lean ====
section
/-! SUPPORT. The laws of the sparse tables: a read after a write, and that every operation keeps the canonical form
(log entry 2). -/

namespace Sys2Proof

variable {α : Type}

@[simp] theorem Tab.read_nil (d : α) (k : Nat) : Tab.read d [] k = d := rfl

theorem Tab.read_insert_self (d : α) (t : Tab α) (k : Nat) (v : α) : Tab.read d (Tab.insert t k v) k = v := by
  induction t with
  | nil => simp [Tab.insert, Tab.read]
  | cons p r ih =>
    obtain ⟨j, w⟩ := p
    by_cases h : j < k
    · simp [Tab.insert, h, Tab.read, Nat.ne_of_lt h, ih]
    · by_cases e : j = k <;> simp [Tab.insert, h, e, Tab.read]

theorem Tab.read_insert_ne (d : α) (t : Tab α) {k j : Nat} (v : α) (h : j ≠ k) :
    Tab.read d (Tab.insert t k v) j = Tab.read d t j := by
  induction t with
  | nil => simp [Tab.insert, Tab.read, Ne.symm h]
  | cons p r ih =>
    obtain ⟨i, w⟩ := p
    by_cases a : i < k
    · rw [Tab.insert, if_pos a]; by_cases b : i = j <;> simp [Tab.read, b, ih]
    · by_cases e : i = k
      · subst e; simp [Tab.insert, Tab.read, Ne.symm h]
      · simp [Tab.insert, a, e, Tab.read, Ne.symm h]

theorem Tab.read_erase_ne (d : α) (t : Tab α) {k j : Nat} (h : j ≠ k) :
    Tab.read d (Tab.erase t k) j = Tab.read d t j := by
  induction t with
  | nil => rfl
  | cons p r ih =>
    obtain ⟨i, w⟩ := p
    by_cases a : i < k
    · rw [Tab.erase, if_pos a]; by_cases b : i = j <;> simp [Tab.read, b, ih]
    · by_cases e : i = k
      · subst e; simp [Tab.erase, Tab.read, Ne.symm h]
      · simp [Tab.erase, a, e, Tab.read]

/-- A key below every listed key reads as the default. -/
theorem Tab.read_of_wfFrom [DecidableEq α] (d : α) {lo : Nat} {t : Tab α} (h : Tab.wfFrom d lo t = true) {k : Nat} (hk : k < lo) :
    Tab.read d t k = d := by
  induction t generalizing lo with
  | nil => rfl
  | cons p r ih =>
    obtain ⟨j, v⟩ := p
    simp only [Tab.wfFrom, Bool.and_eq_true, decide_eq_true_eq] at h
    have : j ≠ k := by omega
    simp only [Tab.read, this, if_false]
    exact ih h.2 (by omega)

theorem Tab.read_erase_self [DecidableEq α] (d : α) {lo : Nat} {t : Tab α} (h : Tab.wfFrom d lo t = true) (k : Nat) :
    Tab.read d (Tab.erase t k) k = d := by
  induction t generalizing lo with
  | nil => rfl
  | cons p r ih =>
    obtain ⟨j, v⟩ := p
    simp only [Tab.wfFrom, Bool.and_eq_true, decide_eq_true_eq] at h
    by_cases a : j < k
    · simp only [Tab.erase, a, if_true, Tab.read, Nat.ne_of_lt a, if_false]
      exact ih h.2
    · by_cases e : j = k
      · simp only [Tab.erase, e, if_true]
        rw [if_neg (Nat.lt_irrefl k)]
        exact Tab.read_of_wfFrom d h.2 (by omega)
      · simp only [Tab.erase, a, e, if_false, Tab.read]
        exact Tab.read_of_wfFrom d h.2 (by omega)

theorem Tab.erase_wfFrom [DecidableEq α] (d : α) {lo : Nat} {t : Tab α} (h : Tab.wfFrom d lo t = true) (k : Nat) :
    Tab.wfFrom d lo (Tab.erase t k) = true := by
  induction t generalizing lo with
  | nil => rfl
  | cons p r ih =>
    obtain ⟨j, v⟩ := p
    have h' := h
    simp only [Tab.wfFrom, Bool.and_eq_true, decide_eq_true_eq] at h
    by_cases a : j < k
    · simp only [Tab.erase, a, if_true, Tab.wfFrom, Bool.and_eq_true, decide_eq_true_eq]
      exact ⟨h.1, ih h.2⟩
    · by_cases e : j = k
      · simp only [Tab.erase, e, if_true]
        rw [if_neg (Nat.lt_irrefl k)]
        clear h' ih
        revert h
        cases r with
        | nil => intro _; rfl
        | cons q r =>
          intro h
          have h2 := h.2
          simp only [Tab.wfFrom, Bool.and_eq_true, decide_eq_true_eq] at h2 ⊢
          exact ⟨⟨by omega, h2.1.2⟩, h2.2⟩
      · simp only [Tab.erase, a, e, if_false]
        exact h'

theorem Tab.insert_wfFrom [DecidableEq α] (d : α) {lo : Nat} {t : Tab α} (h : Tab.wfFrom d lo t = true) {k : Nat} (hk : lo ≤ k)
    {v : α} (hv : v ≠ d) : Tab.wfFrom d lo (Tab.insert t k v) = true := by
  induction t generalizing lo with
  | nil => simp [Tab.insert, Tab.wfFrom, hk, hv]
  | cons p r ih =>
    obtain ⟨j, w⟩ := p
    simp only [Tab.wfFrom, Bool.and_eq_true, decide_eq_true_eq] at h
    by_cases a : j < k
    · simp only [Tab.insert, a, if_true, Tab.wfFrom, Bool.and_eq_true, decide_eq_true_eq]
      exact ⟨h.1, ih h.2 (by omega)⟩
    · by_cases e : j = k
      · subst e
        simp only [Tab.insert, a, if_true, if_false, Tab.wfFrom, Bool.and_eq_true, decide_eq_true_eq]
        exact ⟨⟨hk, hv⟩, h.2⟩
      · simp only [Tab.insert, a, e, if_false, Tab.wfFrom, Bool.and_eq_true, decide_eq_true_eq]
        exact ⟨⟨hk, hv⟩, ⟨by omega, h.1.2⟩, h.2⟩

/-- What a read after a write gives: the value at the key written, the old value elsewhere. -/
theorem Tab.read_write [DecidableEq α] (d : α) {t : Tab α} (h : Tab.wf d t = true) (k j : Nat) (v : α) :
    Tab.read d (Tab.write d t k v) j = if j = k then v else Tab.read d t j := by
  by_cases e : j = k
  · subst e
    by_cases hv : v = d
    · simp [Tab.write, hv, Tab.read_erase_self d h]
    · simp [Tab.write, hv, Tab.read_insert_self]
  · by_cases hv : v = d <;> simp [Tab.write, hv, e, Tab.read_erase_ne, Tab.read_insert_ne]

/-- A write at another key is not seen, whatever the table. -/
theorem Tab.read_write_ne [DecidableEq α] (d : α) (t : Tab α) {k j : Nat} (v : α) (e : j ≠ k) :
    Tab.read d (Tab.write d t k v) j = Tab.read d t j := by
  by_cases hv : v = d <;> simp [Tab.write, hv, e, Tab.read_erase_ne, Tab.read_insert_ne]

/-- A write of another value than the default is seen, whatever the table. -/
theorem Tab.read_write_self [DecidableEq α] (d : α) (t : Tab α) (k : Nat) {v : α} (hv : v ≠ d) :
    Tab.read d (Tab.write d t k v) k = v := by
  simp [Tab.write, hv, Tab.read_insert_self]

/-- A write keeps the canonical form. -/
theorem Tab.write_wf [DecidableEq α] (d : α) {t : Tab α} (h : Tab.wf d t = true) (k : Nat) (v : α) :
    Tab.wf d (Tab.write d t k v) = true := by
  by_cases hv : v = d
  · simpa [Tab.write, hv, Tab.wf] using Tab.erase_wfFrom d h k
  · simpa [Tab.write, hv, Tab.wf] using Tab.insert_wfFrom d h (Nat.zero_le k) hv

theorem Tab.mod_wf [DecidableEq α] (d : α) {t : Tab α} (h : Tab.wf d t = true) (k : Nat) (f : α → α) :
    Tab.wf d (Tab.mod d t k f) = true := Tab.write_wf d h k _

theorem Tab.wfFrom_mono [DecidableEq α] (d : α) {lo hi : Nat} {t : Tab α} (h : Tab.wfFrom d hi t = true) (le : lo ≤ hi) :
    Tab.wfFrom d lo t = true := by
  cases t with
  | nil => rfl
  | cons p r =>
    simp only [Tab.wfFrom, Bool.and_eq_true, decide_eq_true_eq] at h ⊢
    exact ⟨⟨by omega, h.1.2⟩, h.2⟩

theorem Tab.mapAll_wfFrom [DecidableEq α] (d : α) {lo : Nat} {t : Tab α} (h : Tab.wfFrom d lo t = true) (f : Nat → α → α) :
    Tab.wfFrom d lo (Tab.mapAll d t f) = true := by
  induction t generalizing lo with
  | nil => rfl
  | cons p r ih =>
    obtain ⟨j, v⟩ := p
    simp only [Tab.wfFrom, Bool.and_eq_true, decide_eq_true_eq] at h
    have tail := ih h.2
    by_cases e : f j v = d
    · have eq : Tab.mapAll d ((j, v) :: r) f = Tab.mapAll d r f := by simp [Tab.mapAll, e]
      rw [eq]
      exact Tab.wfFrom_mono d tail (Nat.le_succ_of_le h.1.1)
    · have eq : Tab.mapAll d ((j, v) :: r) f = (j, f j v) :: Tab.mapAll d r f := by simp [Tab.mapAll, e]
      rw [eq]
      simp only [Tab.wfFrom, Bool.and_eq_true, decide_eq_true_eq]
      exact ⟨⟨h.1.1, e⟩, tail⟩

/-- A change of every entry keeps the canonical form. -/
theorem Tab.mapAll_wf [DecidableEq α] (d : α) {t : Tab α} (h : Tab.wf d t = true) (f : Nat → α → α) :
    Tab.wf d (Tab.mapAll d t f) = true := Tab.mapAll_wfFrom d h f

/-- Canonical tables that read alike are equal. -/
theorem Tab.ext_wfFrom [DecidableEq α] (d : α) {lo : Nat} {t u : Tab α} (ht : Tab.wfFrom d lo t = true) (hu : Tab.wfFrom d lo u = true)
    (h : ∀ k, Tab.read d t k = Tab.read d u k) : t = u := by
  induction t generalizing lo u with
  | nil =>
    cases u with
    | nil => rfl
    | cons q r =>
      obtain ⟨j, v⟩ := q
      simp only [Tab.wfFrom, Bool.and_eq_true, decide_eq_true_eq] at hu
      exact absurd (by simpa [Tab.read] using (h j).symm) hu.1.2
  | cons p t ih =>
    obtain ⟨i, w⟩ := p
    have ht' := ht
    simp only [Tab.wfFrom, Bool.and_eq_true, decide_eq_true_eq] at ht
    cases u with
    | nil => exact absurd (by simpa [Tab.read] using h i) ht.1.2
    | cons q u =>
      obtain ⟨j, v⟩ := q
      have hu' := hu
      simp only [Tab.wfFrom, Bool.and_eq_true, decide_eq_true_eq] at hu
      have hij : i = j := by
        rcases Nat.lt_trichotomy i j with l | e | l
        · have a := h i
          simp only [Tab.read, if_true, (Nat.ne_of_lt l).symm, if_false] at a
          rw [Tab.read_of_wfFrom d hu.2 (by omega)] at a
          exact absurd a ht.1.2
        · exact e
        · have a := h j
          simp only [Tab.read, if_true, (Nat.ne_of_lt l).symm, if_false] at a
          rw [Tab.read_of_wfFrom d ht.2 (by omega)] at a
          exact absurd a.symm hu.1.2
      subst hij
      have hv : w = v := by simpa [Tab.read] using h i
      subst hv
      congr 1
      refine ih ht.2 hu.2 fun k => ?_
      by_cases e : i = k
      · subst e
        rw [Tab.read_of_wfFrom d ht.2 (by omega), Tab.read_of_wfFrom d hu.2 (by omega)]
      · simpa [Tab.read, e] using h k

end Sys2Proof
end

