-- ==== Sys2Proof/Laws/Takes.lean ====
section
/-! SUPPORT. What a host command that is taken does: its owning chapter's part, on the state in which it has begun. -/

namespace Sys2Proof.Machine

open Sys2Proof

theorem State.runCmd_takes {s : State} {c : Cmd} {op : Nat} {lay : Layout} {safe : Bool} (h : s.takes c op lay safe)
    (body : State → State) : s.runCmd c op lay safe body = (body (s.begins c)).ended := by
  obtain ⟨h1, h2, h3, h4, h5, h6, h7⟩ := h
  unfold State.runCmd
  rw [if_neg (by simp [h1, h2, h3]), if_neg (by simp [h4]), if_neg (by simpa using h5), if_neg, if_neg (by simpa using h6)]
  rintro ⟨a, b⟩
  simp [h7 a] at b

/-- What a row's chapter does to every state in which its condition holds, it does when the row is taken. -/
theorem Completes.of {i : Instr} {c : Cmd} {op : Nat} {lay : Layout} {safe : Bool} {body f : State → State} {P : State → Prop}
    (hx : ∀ s, exec i s = .next (s.runCmd c op lay safe body)) (hb : ∀ u, P u → body u = f u) :
    Completes i c op lay safe P f := by
  intro s h hp
  rw [hx, State.runCmd_takes h, hb _ hp]

/-- A command that breaks its layout completes with BAD_PARAM and does nothing else (R6, R370 check 2). -/
theorem State.runCmd_bad {s : State} {c : Cmd} {op : Nat} {lay : Layout} {safe : Bool} (h1 : s.coreOn = true) (h2 : c.opcode = op)
    (h3 : s.waiting c = false) (h4 : c.layoutOk lay = false) (body : State → State) :
    s.runCmd c op lay safe body = s.complete c stBadParam [] := by
  unfold State.runCmd
  rw [if_neg (by simp [h1, h2, h3]), if_pos (by simp [h4])]

/-- Beginning a command changes the transport's records only. -/
@[simp] theorem State.begins_slices (s : State) (c : Cmd) : (s.begins c).host.slices = s.host.slices := by
  unfold State.begins; split <;> rfl

end Sys2Proof.Machine
end

