-- ==== Sys2Proof/Machine/Pins.lean ====
section
/-! DEFINITION. What each signal ball that the hub drives carries in a state of the hub: its reset state, and what its owning
block makes of it (R25, R54, R60, Table 2.2, Table 3.6; log entry 50). -/

namespace Sys2Proof.Machine

/-- What a ball carries. -/
inductive Level where
  /-- high impedance without bias -/
  | z
  /-- driven low -/
  | low
  /-- driven high -/
  | high
  /-- weak pull-down -/
  | pullDown
  /-- weak pull-up -/
  | pullUp
  /-- electrical idle -/
  | idle
  /-- the signals of the owning block -/
  | active
  /-- the analog level of a DAC code -/
  | dac (code : Nat)
  deriving DecidableEq, Repr

/-- The balls the hub drives or biases (Table 2.2); bus balls by their index. -/
inductive Ball where
  /-- transmit lane of hitch port 0 to 2 -/
  | hitchTx (port lane : Nat)
  /-- sideband of a port -/
  | sideband (port : Nat)
  | xspiCk
  | xspiCsN
  | xspiResetN
  | xspiDq
  | pgate (port : Nat)
  | pblk (port : Nat)
  | pdis (port : Nat)
  | pg (port : Nat)
  | keepEn (port : Nat)
  | errN
  | safeN
  /-- VID bit 0 to 4 -/
  | vid (i : Nat)
  | ppsOut
  | timeOut
  | canTx (n : Nat)
  | canStb (n : Nat)
  /-- a pair of a head's link A or B: data pairs 0 to 3, clock pair 4 -/
  | lvds (head : Nat) (linkB : Bool) (pair : Nat)
  | panelEn (head : Nat)
  | blPwm (head : Nat)
  | act (n : Nat)
  | usbUp
  /-- DFP 1 to 4 -/
  | usbDown (port : Nat)
  | usbPwren (port : Nat)
  | peWakeN
  | peClkreqN
  /-- transmit lanes of a host port -/
  | peTx (port : Nat)
  /-- transmit pair of a MAC -/
  | ethTx (mac : Nat)
  | mdc
  | mdio
  | tdo
  /-- current-limit reference of port A to C -/
  | pilim (port : Nat)
  | pmbScl
  | pmbSda
  | pmbAlertN
  | pfltN (port : Nat)
  | wakeN
  | ppsIn
  | trigIn (n : Nat)
  | xspiDqs
  /-- USB_OC_N of DFP 1 to 4 -/
  | usbOcN (port : Nat)
  | ethIntN
  | tck
  | tms
  | tdi
  | trstN
  | testEn
  /-- a ball of Table 2.2 that is an input or an analog ball without bias -/
  | unbiased
  deriving DecidableEq, Repr

/-- A level from a Boolean. -/
def Level.ofBool (b : Bool) : Level := if b then .high else .low

/-- Ticks of 400 MHz in 10 us. -/
def tenUs : Nat := 4000

/-- XSPI_RESET_N is released 10 us after RESET_N rises and after the core leaves reset (R54, R637; log entry 50). -/
def State.xspiReleased (s : State) : Bool :=
  match s.ret.xspiAt with
  | some t => !s.ret.inReset && decide (t + tenUs ≤ s.uptime)
  | none => false

/-- XSPI_CS_N may fall from 50 us after that (R637). -/
def State.xspiReady (s : State) : Bool :=
  match s.ret.xspiAt with
  | some t => !s.ret.inReset && decide (t + 6 * tenUs ≤ s.uptime)
  | none => false

/-- The link that lane `i` of a hitch port belongs to (Table 1.2). -/
def State.laneLink (s : State) (port i : Nat) : Nat :=
  if port = 0 then 0 else 2 * port - 1 + (if s.portSplit port ∧ 2 ≤ i then 1 else 0)

/-- Lane `i` of a port sends: its link is in training past its PLL, carries the link layer, wakes or runs a pattern
(R13, R124, R131, R137). -/
def State.laneSends (s : State) (port i : Nat) : Bool :=
  let l := s.laneLink port i
  let k := s.link l
  s.coreOn && s.linkPresent l && decide (i < 4) &&
    (decide (k.lane.pattern.pat ≠ 0 ∧ k.lane.pattern.lanes.toNat.testBit i) ||
      (decide (k.st ≠ .down ∧ i - linkBase l < max k.lane.width k.lane.agreedWidth) &&
        (if k.st = .up then decide (k.lane.txDoze = .awake) || k.lane.txWaking
         else decide (k.lane.phase ≠ .idle ∧ k.lane.phase ≠ .pll))))

/-- Host port `p` has an event held for a slice while its function is in D3hot (R340). -/
def State.wakeHeld (s : State) (p : Nat) : Bool :=
  s.coreOn && s.hostPortUsed p && !(s.hport p).d0 &&
    s.host.slices.any fun e => e.2.bound && decide (e.2.port = p) && decide (e.2.held ≠ [])

/-- What a ball carries now. -/
def State.ball (s : State) : Ball → Level
  | .hitchTx p i => if s.laneSends p i then .active else .idle
  | .sideband p => if s.drives p then .active else .z
  | .xspiCk => .low
  | .xspiCsN => .high
  | .xspiResetN => Level.ofBool s.xspiReleased
  | .xspiDq => .pullDown
  | .pgate p => Level.ofBool (s.port p).closed
  | .pblk p => Level.ofBool (s.port p).closed
  | .pdis p => Level.ofBool (!s.ret.inReset && (s.port p).pdis)
  | .pg p => Level.ofBool (s.port p).pg
  | .keepEn p => Level.ofBool (s.port p).keepEn
  | .errN => if s.err.errN then .low else .z
  | .safeN => Level.ofBool (!s.safeNLow)
  | .vid i => Level.ofBool (bit s.vid i)
  | .ppsOut => Level.ofBool (s.timePin 0)
  | .timeOut => Level.ofBool (s.timePin 1)
  | .canTx n => if s.coreOn && (s.can n).offered.isSome then .active else .high
  | .canStb n => Level.ofBool (!(s.working && decide ((s.can n).mode ≠ 0)))
  | .lvds i b p => if (s.lvdsPair i b p 0).isSome then .active else .z
  | .panelEn i => Level.ofBool (s.head i).panelEn
  | .blPwm i => Level.ofBool ((s.head i).bl && (s.headTiming i).blHigh s.nowNs)
  | .act n => match s.pinDrive n with
    | some lv => Level.ofBool lv
    | none => .z
  | .usbUp => if s.usb.attached then .active else .z
  | .usbDown p => if s.working && decide (3 ≤ (s.uport p).st ∧ (s.uport p).st ≤ 6) then .active else .pullDown
  | .usbPwren p => Level.ofBool (s.uport p).pwren
  | .peWakeN => if s.wakeHeld 0 || s.wakeHeld 1 then .low else .z
  | .peClkreqN => .low
  | .peTx p => if s.coreOn && s.hostPortUsed p && (if p = 0 then s.ret.perst0 else s.ret.perst1) then .active else .idle
  | .ethTx m => if s.coreOn && bit s.board.macFit.toNat m && decide ((s.mac m).mode ≠ 0) then .active else .idle
  | .mdc => if s.net.mdio = [] then .low else .active
  | .mdio => if s.net.mdio = [] then .z else .active
  | .tdo => .z
  | .pilim p => if s.ret.inReset || (s.port p).pilim = 0 then .low else .dac (s.port p).pilim
  | .pmbScl | .pmbSda | .pmbAlertN | .unbiased => .z
  | .pfltN _ | .wakeN | .usbOcN _ | .ethIntN | .tms | .tdi => .pullUp
  | .ppsIn | .trigIn _ | .xspiDqs | .tck | .trstN | .testEn => .pullDown

end Sys2Proof.Machine
end

