-- ==== Sys2Proof/WellFormed.lean ====
section
/-! DEFINITION. Which commands are well formed: operands in the ranges the spec gives the numbers they stand for. A command outside
them names nothing the hub has. -/

namespace Sys2Proof

/-- A number that may be absent is below a bound. -/
def optBelow (n : Nat) (x : Option Nat) : Bool := match x with | some v => decide (v < n) | none => true

/-- A command packet: at most 16 words, at most 1 MiB of indirect input, a submitter and a queue that exist, one of 512 tags; SYS
is never set by a slice of this hub (R346, R367, R370, R375). -/
def hostCmd (c : Cmd) : Bool :=
  decide (1 ≤ c.dw.length ∧ c.dw.length ≤ 16) && decide (c.hub < 32 ∧ c.slice < 64 ∧ c.sq < 8 ∧ c.htag < 512) && !(c.here && c.sys)

/-- What lanes bring: one code group for each lane of a width in every symbol time (R105). -/
def wave (w : Wave) : Bool :=
  let n := (w.groups.headD []).length
  decide (w.groups = [] ∨ n = 1 ∨ n = 2 ∨ n = 4) && w.groups.all fun r => decide (r.length = n)

/-- Training ordered sets: 16 symbols on each lane of a width (R123). -/
def laneSets (ss : List (List Sym)) : Bool :=
  decide (ss.length = 1 ∨ ss.length = 2 ∨ ss.length = 4) && ss.all fun r => decide (r.length = 16)

/-- A sideband frame: the fields of Table 17.3 in their widths (R517). -/
def sbFrame (f : SbFrame) : Bool := decide (f.link < 2 ∧ f.msgid < 16 ∧ f.ackid < 16 ∧ f.payload.length ≤ 15 ∧ f.typ < 256 ∧ f.rsv < 4)

/-- A USB token: address, endpoint and transfer type (R446). -/
def usbTok (t : UsbTok) : Bool := decide (t.addr < 128 ∧ t.ep < 16 ∧ t.typ < 4 ∧ t.maxPkt ≤ 1024)

/-- A check: the codes of Table 19.1 and its DETAIL (R580, R600). -/
def hit (h : Hit) : Bool := decide (h.dom < 256 ∧ h.check < 256 ∧ h.detail < 256)

/-- The words a fetch brings: the slot of one command (R345, R367). -/
def packetWords (ws : Option (List Word)) : Bool := match ws with | some l => decide (l.length = 16) | none => true

/-- The slots of a line: at most 4095 periods of four data pairs of seven slots on each link (R402, R423). -/
def linePins (px : Option LinePins) : Bool :=
  let ok (l : List (List (List Bool))) : Bool := decide (l.length < 4096) && l.all fun p => decide (p.length ≤ 4) && p.all fun d => decide (d.length = 7)
  match px with
  | some l => ok l.a && ok l.b
  | none => true

/-- The operands of a command lie in their ranges. -/
def Instr.wellFormed (i : Instr) : Bool :=
  match i with
  | .powerOnReset => true
  | .resetNAssert => true
  | .resetNRelease _ _ _ => true
  | .strapSampleDeferred _ _ _ => true
  | .actSafelvlDrive => true
  | .railValid _ => true
  | .railInvalid _ => true
  | .wakeReason _ => true
  | .dormancyDelayExpiry _ => true
  | .surveyEntry _ => true
  | .perstRelease port => decide (port < 2)
  | .hostPortReset port => decide (port < 2)
  | .pcieRetryStatusEnd port => decide (port < 2)
  | .imageApply _ _ => true
  | .fieldEntry => true
  | .surveyCarrierTimeout _ => true
  | .devModeDelayExpiry => true
  | .paceSample rings _ _ => decide (rings.length = 4)
  | .paceMonitorRevalid => true
  | .paceMonitorTimeout => true
  | .paceIntervalEnd => true
  | .paceSet c => hostCmd c
  | .paceQuery c => hostCmd c
  | .skpSend link => decide (link < 5)
  | .pllLock link => decide (link < 5)
  | .widthFallback link => decide (link < 5)
  | .ts1Align link _ sets => decide (link < 5) && laneSets sets
  | .ts2Handoff link sets => decide (link < 5) && laneSets sets
  | .trainingTimeout link => decide (link < 5)
  | .trainingRoundWaitEnd link => decide (link < 5)
  | .retrainQuiesced link => decide (link < 5)
  | .losStart link => decide (link < 5)
  | .losEnd link _ => decide (link < 5)
  | .losEpochTimeout link => decide (link < 5)
  | .retrainTimeout link => decide (link < 5)
  | .dozeLightTimeout link => decide (link < 5)
  | .dozeDeepTimeout link => decide (link < 5)
  | .dozReceive link _ => decide (link < 5)
  | .dozeWakeStart link => decide (link < 5)
  | .dozeWakeComplete link => decide (link < 5)
  | .wakeLockTimeout link => decide (link < 5)
  | .patternDurationEnd link got => decide (link < 5) && decide (got.length ≤ 4)
  | .linkRate c => hostCmd c
  | .linkSleep c => hostCmd c
  | .linkWake c => hostCmd c
  | .linkRetrain c => hostCmd c
  | .linkPattern c got => hostCmd c && decide (got.length ≤ 4)
  | .linkEqOverride c => hostCmd c
  | .linkQuery c => hostCmd c
  | .linkCounters c => hostCmd c
  | .tunnelPacketReceive link w => decide (link < 5) && wave w
  | .localPacketOffer tid _ _ _ _ => decide (tid < 4096)
  | .ackReceive link w => decide (link < 5) && wave w
  | .nakReceive link w => decide (link < 5) && wave w
  | .replayTimerExpiry link => decide (link < 5)
  | .ackSend link => decide (link < 5)
  | .nakSend link => decide (link < 5)
  | .fcUpdateReceive link w => decide (link < 5) && wave w
  | .initFcReceive link w => decide (link < 5) && wave w
  | .identReceive link w => decide (link < 5) && wave w
  | .identRepeat link => decide (link < 5)
  | .fcUpdateTimer link => decide (link < 5)
  | .fcRefresh link => decide (link < 5)
  | .fcStall link tc => decide (link < 5) && decide (tc < 8)
  | .hello link ws => decide (link < 5) && decide (0 < ws.length)
  | .helloRepeat => true
  | .assign ws => decide (0 < ws.length)
  | .numbered link ws => decide (link < 5) && decide (0 < ws.length)
  | .linkchg link ws => decide (link < 5) && decide (0 < ws.length)
  | .tunProg ws => decide (0 < ws.length)
  | .tunSet link ws => optBelow 5 link && decide (0 < ws.length)
  | .tunAck ws => decide (0 < ws.length)
  | .initialEnumerationEnd => true
  | .reattachGraceExpiry link => decide (link < 5)
  | .actingRootClose => true
  | .tunnelOpenStepTimeout => true
  | .hopCloseDrained tid => decide (tid < 4096)
  | .hopCloseTimeout tid => decide (tid < 4096)
  | .closeAckTimeout hub tid => decide (hub < 32) && decide (tid < 4096)
  | .treeEnumerate c => hostCmd c
  | .treeQuery c => hostCmd c
  | .treeResetHub c _ => hostCmd c
  | .treeEvict c => hostCmd c
  | .tunOpen c => hostCmd c
  | .tunClose c => hostCmd c
  | .tunModify c => hostCmd c
  | .tunQuery c => hostCmd c
  | .tunSuspend c => hostCmd c
  | .tunResume c => hostCmd c
  | .schedulerPick link => decide (link < 5)
  | .lossyAgeExpiry link => decide (link < 5)
  | .gateEntryBoundary link => decide (link < 5)
  | .gateSwitch link => decide (link < 5)
  | .windowOpen link tid => decide (link < 5) && decide (tid < 4096)
  | .windowClose link tid => decide (link < 5) && decide (tid < 4096)
  | .windowEffect tid => decide (tid < 4096)
  | .creditIntervalEnd link => decide (link < 5)
  | .schedClassSet c => hostCmd c
  | .schedGateLoad c => hostCmd c
  | .schedGateCommit c => hostCmd c
  | .schedWindowSet c => hostCmd c
  | .schedBounds c => hostCmd c
  | .schedQuery c => hostCmd c
  | .ppsEdge _ since => decide (since < 1000000000)
  | .ppsLost => true
  | .timeExchangeStart link cross => decide (link < 5 ∧ cross < 1000000000)
  | .tmkReceive link _ since => decide (link < 5 ∧ since < 1000000000)
  | .timexReceive link w => decide (link < 5) && wave w
  | .exchangeInvalidTimeout link => decide (link < 5)
  | .timeStepApply => true
  | .timeMessageSend => true
  | .timeMessage ws => decide (0 < ws.length)
  | .trigEdge src _ since => decide (src < 5) && decide (since < 1000000000)
  | .timeOutEdge pin => decide (pin < 2)
  | .timeQuery c => hostCmd c
  | .timeSet c => hostCmd c
  | .timeAdjust c => hostCmd c
  | .timeSource c => hostCmd c
  | .timeStampArm c => hostCmd c
  | .timeOutCfg c => hostCmd c
  | .engineLaunch eng => decide (eng < 32)
  | .legEnd eng => decide (eng < 32)
  | .legWaitUntil eng => decide (eng < 32)
  | .waitUntilRelease eng => decide (eng < 32)
  | .legWaitFor eng => decide (eng < 32)
  | .waitForMet eng => decide (eng < 32)
  | .waitForTimeout eng => decide (eng < 32)
  | .legSetPin eng => decide (eng < 32)
  | .legPulsePin eng => decide (eng < 32)
  | .legPwmPin eng => decide (eng < 32)
  | .legWriteReg eng => decide (eng < 32)
  | .legReadCheck eng => decide (eng < 32)
  | .remoteReadTimeout eng => decide (eng < 32)
  | .legSendCan eng => decide (eng < 32)
  | .legSendMsg eng => decide (eng < 32)
  | .legDispCommit eng => decide (eng < 32)
  | .legGateSwitch eng => decide (eng < 32)
  | .legMark eng => decide (eng < 32)
  | .legLoop eng => decide (eng < 32)
  | .legBranch eng => decide (eng < 32)
  | .legStartEngine eng => decide (eng < 32)
  | .legConfirmImage eng => decide (eng < 32)
  | .effectInstant => true
  | .pwmPeriodStart pin => decide (pin < 32)
  | .regWrite ws => decide (0 < ws.length)
  | .regRead ws => decide (0 < ws.length)
  | .regReply ws => decide (0 < ws.length)
  | .travMessage tid src _ => decide (tid < 4096) && decide (src < 32)
  | .prepare ws => decide (0 < ws.length)
  | .ready ws => decide (0 < ws.length)
  | .commit ws => decide (0 < ws.length)
  | .abort ws => decide (0 < ws.length)
  | .launched ws => decide (0 < ws.length)
  | .launchReadyDeadline _ => true
  | .preparedTimeout _ => true
  | .launchPartialTimeout _ => true
  | .actInputEdge pin _ _ => decide (pin < 32)
  | .travLoad c => hostCmd c
  | .travArm c => hostCmd c
  | .travAbort c => hostCmd c
  | .travQuery c => hostCmd c
  | .travReadLegs c => hostCmd c
  | .travActCfg c => hostCmd c
  | .commandFetch dws => packetWords dws
  | .heldRecordWrite slice _ => decide (slice < 64)
  | .interruptTimer slice => decide (slice < 64)
  | .slSqTailWrite port slice queue value => decide (port < 2) && decide (slice < 64) && decide (queue < 8) && decide (value < 4294967296)
  | .slEvqHeadWrite port slice value => decide (port < 2) && decide (slice < 64) && decide (value < 4294967296)
  | .slSqSizeWrite port slice queue value => decide (port < 2) && decide (slice < 64) && decide (queue < 8) && decide (value < 4294967296)
  | .slEvqSizeWrite port slice value => decide (port < 2) && decide (slice < 64) && decide (value < 4294967296)
  | .slIntCtrlWrite port slice value => decide (port < 2) && decide (slice < 64) && decide (value < 4294967296)
  | .slRingDbWrite port slice ring value _ => decide (port < 2) && decide (slice < 64) && decide (ring < 16) && decide (value < 4294967296)
  | .rcRegisterRead port offset tag => decide (port < 2) && decide (offset < 16777216) && decide (tag < 1024)
  | .mgErrsumWrite port value => decide (port < 2) && decide (value < 4294967296)
  | .mgTimeNsRead port tag => decide (port < 2) && decide (tag < 1024)
  | .msixTableWrite port offset _ => decide (port < 2) && decide (offset < 16777216)
  | .registerWrite port offset value => decide (port < 2) && decide (offset < 16777216) && decide (value < 4294967296)
  | .hostPortPowerState port _ _ _ _ _ mps mrrs => decide (port < 2) && decide (mps < 4097) && decide (mrrs < 4097)
  | .revokeDrainEnd kind _ hub slice => decide (kind < 256) && decide (hub < 32) && decide (slice < 64)
  | .freezeDrainEnd slice => decide (slice < 64)
  | .cookieExpiry slice => decide (slice < 64)
  | .sliceMoveTimeout => true
  | .sliceCreate c => hostCmd c
  | .sliceDestroy c _ => hostCmd c
  | .sliceReset c => hostCmd c
  | .sliceGrant c => hostCmd c
  | .sliceRevoke c => hostCmd c
  | .sliceFreeze c => hostCmd c
  | .sliceSave c => hostCmd c
  | .sliceRestore c far _ => hostCmd c && decide (far < 32)
  | .sliceThaw c => hostCmd c
  | .queueCreate c => hostCmd c
  | .queueDestroy c => hostCmd c
  | .evqSet c => hostCmd c
  | .commandMessage ws => decide (0 < ws.length)
  | .dataMessage ws _ => decide (0 < ws.length)
  | .indirectInputReadDone htag _ _ => decide (htag < 512)
  | .receivedMessage ws => decide (0 < ws.length)
  | .receivedRepeat hub htag _ => decide (hub < 32) && decide (htag < 512)
  | .completionMessage ws _ => decide (0 < ws.length)
  | .eventMessage ws => decide (0 < ws.length)
  | .remoteCommandTimeout hub htag => decide (hub < 32) && decide (htag < 512)
  | .timedCommandDue hub htag => optBelow 32 hub && decide (htag < 512)
  | .devInfo c => hostCmd c
  | .devMode c => hostCmd c
  | .devStraps c => hostCmd c
  | .frameStart head => decide (head < 2)
  | .lineStart head line pins => decide (head < 2) && decide (line < 4096) && linePins pins
  | .frameMessage tid ws => decide (tid < 4096) && decide (0 < ws.length)
  | .rowMessage tid _ _ => decide (tid < 4096)
  | .sourceFrameSend tid _ => decide (tid < 4096)
  | .sourceRowSend tid => decide (tid < 4096)
  | .rowFetchDone tid _ _ => decide (tid < 4096)
  | .panelSequenceTimer head => decide (head < 2)
  | .dispTiming c => hostCmd c
  | .dispPlane c => hostCmd c
  | .dispOverlay c => hostCmd c
  | .dispCommit c => hostCmd c
  | .dispUndercoat c => hostCmd c
  | .dispCrcRegion c => hostCmd c
  | .dispQuery c => hostCmd c
  | .usbSetupToken t _ => usbTok t
  | .usbOutToken t pid _ => usbTok t && decide (pid < 16)
  | .usbPingToken t => usbTok t
  | .usbInToken t _ => usbTok t
  | .usbHubRequest bmType bRequest wValue wIndex wLength => decide (bmType < 256) && decide (bRequest < 256) && decide (wValue < 65536) && decide (wIndex < 65536) && decide (wLength < 65536)
  | .usbBusReset => true
  | .vbusChange _ => true
  | .usbSof mframe => decide (mframe < 16384)
  | .microframeStart port => decide (1 ≤ port ∧ port ≤ 12)
  | .overcurrentFilter port => decide (1 ≤ port ∧ port ≤ 12)
  | .connectDebounce port speed => decide (1 ≤ port ∧ port ≤ 12) && decide (speed < 4)
  | .portResetEnd port speed => decide (1 ≤ port ∧ port ≤ 12) && decide (speed < 4)
  | .resumeEnd port => decide (1 ≤ port ∧ port ≤ 12)
  | .suspendIdle => true
  | .deviceRemoteWake port => decide (1 ≤ port ∧ port ≤ 12)
  | .farBusTransaction port addr ep _ res pid _ => decide (1 ≤ port ∧ port ≤ 12) && decide (addr < 128) && decide (ep < 16) && decide (res < 256) && decide (pid < 16)
  | .usbSetupMessage tid _ => decide (tid < 4096)
  | .outdata tid _ => decide (tid < 4096)
  | .inreq tid _ => decide (tid < 4096)
  | .indata tid _ => decide (tid < 4096)
  | .result tid _ => decide (tid < 4096)
  | .portMessage tid src _ => decide (tid < 4096) && decide (src < 32)
  | .sofrep tid _ => decide (tid < 4096)
  | .powerCycleEnd port => decide (1 ≤ port ∧ port ≤ 12)
  | .usbPortMap c => hostCmd c
  | .usbQuery c => hostCmd c
  | .usbPortPower c => hostCmd c
  | .usbCounters c => hostCmd c
  | .macFrameReceive mac since _ bytes => decide (mac < 4) && decide (since < 1000000000) && decide (bytes.length ≤ 65535)
  | .macLinkChange mac _ speed _ => decide (mac < 4) && decide (speed < 16)
  | .phyInterrupt => true
  | .macFrameTransmit mac => decide (mac < 4)
  | .netMessage tid _ => decide (tid < 4096)
  | .canFrameReceive ctrl since _ _ data => decide (ctrl < 2) && decide (since < 1000000000) && decide (data.length ≤ 64)
  | .addressClaimSettle ctrl => decide (ctrl < 2)
  | .canBusIdle ctrl => decide (ctrl < 2)
  | .canBusOff ctrl => decide (ctrl < 2)
  | .canBusOffRecovery ctrl => decide (ctrl < 2)
  | .canMessage tid _ => decide (tid < 4096)
  | .netPortCfg c => hostCmd c
  | .netVlanMap c => hostCmd c
  | .netQuery c => hostCmd c
  | .netCounters c => hostCmd c
  | .canCfg c => hostCmd c
  | .canFilter c => hostCmd c
  | .canName c => hostCmd c
  | .canQuery c => hostCmd c
  | .canSend c => hostCmd c
  | .bar2MemoryWrite port _ fbe lbe data => decide (port < 2) && decide (fbe < 16) && decide (lbe < 16) && decide (data.length ≤ 4096)
  | .bar2MemoryRead port hostTag _ len fbe lbe => decide (port < 2) && decide (hostTag < 1024) && decide (len < 4097) && decide (fbe < 16) && decide (lbe < 16)
  | .bar2Atomicop port hostTag _ atype asize data => decide (port < 2) && decide (hostTag < 1024) && decide (atype < 4) && decide (asize < 17) && decide (data.length ≤ 4096)
  | .bar2LockedRead port hostTag _ => decide (port < 2) && decide (hostTag < 1024)
  | .winRead tid _ => decide (tid < 4096)
  | .winWriteP tid _ => decide (tid < 4096)
  | .winWriteA tid _ => decide (tid < 4096)
  | .winAtomic tid _ => decide (tid < 4096)
  | .farAccessDone _ r _ => decide (r < 8)
  | .winReadData tid _ => decide (tid < 4096)
  | .winWriteDone tid _ => decide (tid < 4096)
  | .winAtomicData tid _ => decide (tid < 4096)
  | .winRetry tid _ => decide (tid < 4096)
  | .retryBackoffExpiry win rseq => decide (win < 256) && decide (rseq < 65536)
  | .winRequestTimeout win rseq => decide (win < 256) && decide (rseq < 65536)
  | .farHoldTimeout index => decide (index < 256)
  | .semaphoreLeaseExpiry sem => decide (sem < 16)
  | .winOpen c => hostCmd c
  | .winClose c => hostCmd c
  | .winRange c => hostCmd c
  | .winSem c => hostCmd c
  | .winQuery c => hostCmd c
  | .sidebandTurn port => decide (port < 3)
  | .idleFrame port f => decide (port < 3) && sbFrame f
  | .sidebandIdent port f => decide (port < 3) && sbFrame f
  | .sidebandRate port f => decide (port < 3) && sbFrame f
  | .sidebandWake port f => decide (port < 3) && sbFrame f
  | .srcCaps port f => decide (port < 3) && sbFrame f
  | .requestFrame port f => decide (port < 3) && sbFrame f
  | .acceptFrame port f => decide (port < 3) && sbFrame f
  | .rejectFrame port f => decide (port < 3) && sbFrame f
  | .psRdy port f => decide (port < 3) && sbFrame f
  | .swapReq port f => decide (port < 3) && sbFrame f
  | .swapRetry port => decide (port < 3)
  | .fsArm port f => decide (port < 3) && sbFrame f
  | .goodbye port f => decide (port < 3) && sbFrame f
  | .carrierLoss port link => decide (port < 3) && decide (link < 2)
  | .attachDebounce port link => decide (port < 3) && decide (link < 2)
  | .sidebandExchangeTimeout port link => decide (port < 3) && decide (link < 2)
  | .negotiationTimeout port => decide (port < 3)
  | .srcCapsResend port => decide (port < 3)
  | .foldbackUpdate port vhub vcab imeas vkeep _ => decide (port < 3) && decide (vhub < 4096) && decide (vcab < 4096) && decide (imeas < 4096) && decide (vkeep < 4096)
  | .comparatorTrip port _ => decide (port < 3)
  | .comparatorDisagree port => decide (port < 3)
  | .currentLimitEnd port => decide (port < 3)
  | .faultTimerExpiry port => decide (port < 3)
  | .uvOvFilter port _ => decide (port < 3)
  | .insertionDelay port => decide (port < 3)
  | .qualificationDone port => decide (port < 3)
  | .dischargeDone port => decide (port < 3)
  | .fetShort port => decide (port < 3)
  | .retryTimerExpiry port _ => decide (port < 3)
  | .keepOffDone port => decide (port < 3)
  | .keepSenseFault port => decide (port < 3)
  | .fastSwapCrossing port => decide (port < 3)
  | .fastSwapClose port => decide (port < 3)
  | .transitionTimeout port => decide (port < 3)
  | .pmbusDone port op value _ => decide (port < 3) && decide (op < 256) && decide (value < 65536)
  | .pmbAlert => true
  | .voutSlewStep port => decide (port < 3)
  | .converterPoll => true
  | .pwrQuery c => hostCmd c
  | .pwrContract c => hostCmd c
  | .pwrSwap c => hostCmd c
  | .pwrLimits c => hostCmd c
  | .pwrResetFault c => hostCmd c
  | .pwrLog c => hostCmd c
  | .skimPass => true
  | .healthTimeout => true
  | .keyGenerate c => hostCmd c
  | .keyImport c => hostCmd c
  | .keyExportWrapped c => hostCmd c
  | .keyLoad c => hostCmd c
  | .keyDestroy c _ => hostCmd c
  | .keyAttest c => hostCmd c
  | .keyDerive c => hostCmd c
  | .keyCrypt c => hostCmd c
  | .keyPairLink c => hostCmd c
  | .imgStage c => hostCmd c
  | .imgCommit c => hostCmd c
  | .imgQuery c => hostCmd c
  | .imgConfirm c => hostCmd c
  | .imgRevert c => hostCmd c
  | .checkDetect h => hit h
  | .handshakeStall dom _ => decide (dom < 256)
  | .domainRecoveryEnd dom _ => decide (dom < 256)
  | .recoveryBoundExceeded dom => decide (dom < 256)
  | .recoveryWindowEnd dom => decide (dom < 256)
  | .patrolScrub res detail _ _ _ => decide (res < 256) && decide (detail < 4294967296)
  | .injectDelayExpiry _ _ _ => true
  | .diagErrors c => hostCmd c
  | .diagInject c => hostCmd c
  | .diagScrub c => hostCmd c
  | .diagSelftest c failed => hostCmd c && decide (failed < 4294967296)
  | .diagClear c => hostCmd c
  | .symbolLock link lane _ => decide (link < 5) && decide (lane < 4)
  | .wakeEndSkpReceive link => decide (link < 5)
  | .deviceDisconnect port => decide (1 ≤ port ∧ port ≤ 12)
  | .usbOcNRelease port => decide (1 ≤ port ∧ port ≤ 12)
  | .globalResume => true
  | .canFrameSent ctrl since _ => decide (ctrl < 2) && decide (since < 1000000000)
  | .canErrorPassive ctrl txErr rxErr => decide (ctrl < 2) && decide (txErr < 65536) && decide (rxErr < 65536)
  | .semaphoreWaitExpiry sem hub htag => decide (sem < 16) && decide (hub < 32) && decide (htag < 512)
  | .keepInRange port => decide (port < 3)
  | .mdioAccessDone data => decide (data < 65536)
  | .entropyStartupPass => true
end Sys2Proof
end

