-- ==== Sys2Proof/Tests/Slice0.lean ====
section
/-! SUPPORT. The model's own tests: ill-formed commands that WellFormed turns away, single steps from small states with the results
the spec gives, and states that meet the hypotheses of the statements. -/

namespace Sys2Proof.Tests

open Sys2Proof Sys2Proof.Machine

/-! ### Small states -/

/-- Reset with the rails valid that a hub needs. -/
def powered : State :=
  { State.reset with ret := { State.reset.ret with
      rails := [.vcore, .vsram, .vphy, .vphyh, .vddioA, .vddioB, .vddioC] } }

/-- A hub out of reset in a mode, its straps sampled as zeros. -/
def inMode (m : Mode) : State :=
  { State.reset with ret := { State.reset.ret with inReset := false, strapsValid := true, mode := m } }

/-- What a step makes of a state is read through a test. -/
def after (f : State → Bool) (o : Host.Outcome State Fault Refusal) : Bool := match o with | .next t => f t | _ => false

/-- A command of slice 0 of this hub: LEN words, the opcode, and DW4. -/
def cmd0 (len op dw4 : Nat) : Cmd := { dw := [BitVec.ofNat 32 (len * 65536 + op), 0, 0, 0, BitVec.ofNat 32 dw4] }

/-! ### WellFormed refuses what names nothing (Tables 1.3, 6.1, 12.1, 14.1) -/

theorem test_wf_link : (Instr.skpSend 5).wellFormed = false ∧ (Instr.skpSend 4).wellFormed = true := by decide
theorem test_wf_port : (Instr.perstRelease 2).wellFormed = false ∧ (Instr.perstRelease 1).wellFormed = true := by decide
theorem test_wf_engine : (Instr.legEnd 32).wellFormed = false ∧ (Instr.legEnd 31).wellFormed = true := by decide
theorem test_wf_tunnel : (Instr.hopCloseDrained 4096).wellFormed = false := by decide
theorem test_wf_head : (Instr.frameStart 2).wellFormed = false ∧ (Instr.frameStart 1).wellFormed = true := by decide
theorem test_wf_rings : (Instr.paceSample [1, 2, 3] false 0).wellFormed = false := by decide
theorem test_wf_words : (Instr.tunProg []).wellFormed = false := by decide
theorem test_wf_tag : (Instr.linkQuery { (cmd0 5 0x0200 0) with htag := 512 }).wellFormed = false := by decide
theorem test_wf_sys : (Instr.linkQuery { (cmd0 5 0x0200 0) with sys := true }).wellFormed = false := by decide
theorem test_wf_cmd : (Instr.linkQuery (cmd0 5 0x0200 0)).wellFormed = true := by decide
theorem test_wf_token : (Instr.usbPingToken { addr := 128 }).wellFormed = false := by decide

/-! ### Resets and modes (Chapters 2 and 3) -/

/-- R29: the straps are sampled as RESET_N rises, and the hub is in Sentry. -/
theorem test_strap_sample :
    after (fun t => decide (t.ret.straps = 0x2A5 ∧ t.ret.strapsValid = true ∧ t.ret.inReset = false ∧ t.ret.mode = .sentry))
      (exec (.resetNRelease 0x2A5 false false) powered) = true := by decide

/-- R30: without VDDIO_C the sampling waits. -/
theorem test_strap_wait :
    after (fun t => decide (t.ret.strapDefer = true ∧ t.ret.inReset = true)) (exec (.resetNRelease 0x2A5 false false) State.reset) = true := by
  decide

/-- R27: TEST_EN high keeps the hub in reset. -/
theorem test_test_en : after (fun t => t.ret.inReset) (exec (.resetNRelease 0x2A5 false true) powered) = true := by decide

/-- Table 3.5: the wake reason takes Dormant to Sentry. -/
theorem test_wake : after (fun t => decide (t.ret.mode = .sentry)) (exec (.wakeReason true) (inMode .dormant)) = true := by decide

/-- Table 3.5: loss of a run rail in a core mode leads to Sentry. -/
theorem test_rail_lost :
    after (fun t => decide (t.ret.mode = .sentry ∧ t.ret.resetCause = 3))
      (exec (.railInvalid .vcore) { (inMode .field) with ret := { (inMode .field).ret with rails := powered.ret.rails } }) = true := by
  set_option maxRecDepth 8000 in decide

/-! ### The clock (R261): 2.5 ns is 10737418240 units of 2^-32 ns -/

theorem test_tick_field : after (fun t => decide (t.time.datum = 10737418240 ∧ t.uptime = 1)) (step (inMode .field)) = true := by decide
theorem test_tick_sentry : after (fun t => decide (t.time.datum = 0 ∧ t.uptime = 1)) (step (inMode .sentry)) = true := by decide

/-- The front command is the one a step executes. -/
theorem test_step_front :
    after (fun t => decide (t.pending = [.skpSend 0]))
      (step { (inMode .field) with pending := [.skpSend 1, .skpSend 0] }) = true := by decide

/-! ### The worked example of Chapter 8 (Example 8.1): link A of hub 1 at 40 Gbit/s -/

def fast : Link := { Link.init with
  st := .up, lane := { Link.init.lane with rate := 0, width := 4 }, sched := { Link.init.sched with cfgIdle := [(5, 390001)] } }

/-- The hub of the example, its TC5 at an idle slope of 3.90 Gbit/s. -/
def hitch : State := { (inMode .field) with links := [(1, fast)] }

/-- A 1946-byte packet takes 389.2 ns. -/
theorem test_packet_time : fast.ptime 1946 = 3892 := by decide

/-- The three hops: opened at 0, 979.6 and 1959.2 ns, closed at 3418.4, 4948.0 and 6062.8 ns. -/
theorem test_window_hops : winHops 8296 2074 [(7, 1, 2000000), (6, 1, 2000000), (1, 1, 4000000)] none =
    [(7, 1, 0, 34184), (6, 1, 9796, 49480 - 9796), (1, 1, 19592, 60628 - 19592)] := by decide

/-- Its credit falls to -1756.265625 bytes (R232). -/
theorem test_debit :
    ((hitch.debit 1 { pkt := { TxPkt.init with tc := 5, payload := List.replicate 1920 0 }, cls := 5 } 0).link 1).sched.credit.read 0 5 =
      -449604 * (grain : Int) := by
  set_option maxRecDepth 20000 in decide

/-- 265.472 Mbit/s is 1101812.7 flits a second, rounded up (R244). -/
theorem test_window_flits : ({ Window.init with q := 8296, period := 250000 } : Window).flits = 1101813 := by decide

/-! ### What the lanes carry -/

/-- The entry of Example 5.1. -/
theorem test_eq_entry : eqOfNat 0x800CFC020916D1E0 = { valid := true, dfe1 := 12, dfe2 := -4, dfe3 := 2, ctle := 9, pre := 5, main := 180
                                                       post := 30 } := by decide

/-- K28.5 at either disparity, and D21.5, which alternates (R104, R137). -/
theorem test_code_groups : (Sym.k .com).group false = 0b0011111010 ∧ (Sym.k .com).group true = 0b1100000101 ∧
    dataGroup false 0xB5 = 0b1010101010 ∧ dataGroup true 0xB5 = 0b1010101010 := by decide

/-- The clock pair of a head (R402). -/
theorem test_lvds_clock : lvdsClock = [true, true, false, false, false, true, true] := by decide

/-- TS1 sets of four lanes give their fields and the lane numbers back (Table 5.5). -/
theorem witness_ts1 :
    tsLanes ((List.range 4).map fun i => ({ second := false, linkNo := 0, rate := 3, width := 4, cls := 10, upf := false } : Ts).set i) =
      some ({ second := false, linkNo := 0, rate := 3, width := 4, cls := 10, upf := false }, [0, 1, 2, 3]) := by decide

/-- An ACK on the lanes of the link, received without a violation. -/
def ackWave : Wave :=
  let rows := (LaneSym.ack 0x123).rows 4
  let lane (j : Nat) : List (BitVec 10) := encodeLane false (rows.map fun r => r.getD j (.d 0))
  { rd := 0, groups := (List.range rows.length).map fun i => (List.range 4).map fun j => ((lane j)[i]?).getD 0 }

theorem witness_wave : ((rxFrame ackWave.rows).body.length, (rxFrame ackWave.rows).start) = (20, some .slc) := by
  set_option maxRecDepth 20000 in decide

/-! ### Instants and timers at their bounds -/

/-- A hub in Field with host port 0 up and taking memory requests, slice 0 bound to it (R339, R607). -/
def hosted : State :=
  { (inMode .field) with
    ret := { (inMode .field).ret with straps := 4 }
    host := { (inMode .field).host with
      port0 := { (inMode .field).host.port0 with up := true, retry := false, d0 := true, memEn := true }
      slices := [(0, { Slice.init with state := 1, bound := true })] } }

theorem witness_register_page : hosted.regReach 0 = true ∧ hosted.seesPage 0 0 = true ∧ (inMode .field).regReach 0 = false := by decide

/-- A recovery window at its last tick and after it (R591). -/
theorem witness_recovery_window :
    let s (up : Nat) : State := { (inMode .field) with uptime := up
                                                       err := { (inMode .field).err with doms := [(7, { ({} : DomErr) with window := true, windowAt := 1 })] } }
    (s 3999999).inRecWindow 7 = true ∧ (s 4000000).inRecWindow 7 = false ∧ ((s 4000000).dom 7).window = true := by decide

/-- The fault timer at its end and a tick before (R529), the retry timer and the insertion delay being of the same form. -/
theorem witness_power_timer :
    let s (up : Nat) : State := { (inMode .field) with uptime := up }
    (s 399999).heldFor 1 400000 = false ∧ (s 400000).heldFor 1 400000 = true ∧ (s 400000).heldFor 0 400000 = false := by decide

/-- The health interval at its last tick and after it, of an image that runs (R574). -/
theorem witness_health :
    let s (up : Nat) : State := { (inMode .field) with uptime := up, img := { (inMode .field).img with running := 0, health := true } }
    (s 23999999999).healthOver = false ∧ (s 24000000000).healthOver = true ∧ (s 24000000000).runConfirmed = false := by decide

/-- Instants of the built-in timing: line 1 of frame 0, frame 60, and the first frame after the base (R399, R401). -/
theorem witness_display_instants :
    builtinTiming.lineNs 0 1 = 20678 ∧ builtinTiming.frameNs 60 = 1000000000 ∧ builtinTiming.firstAt 1 = 1 := by decide

/-! ### States that meet the hypotheses of the statements -/

/-- An output pulse that is due, and nothing before it (R265, R283). -/
theorem witness_output_edge :
    let s : State := { (inMode .field) with time := { (inMode .field).time with
      datum := 10 ^ 9 * unitNs, timeOut := { (inMode .field).time.timeOut with mode := 1, configured := true, next := some 500, width := 100 } } }
    s.coreOn = true ∧ s.time.timeOut.fallAt = none ∧ s.time.timeOut.next = some 500 ∧ 4 * 500 ≤ s.now250 ∧ s.noneBefore (4 * 500) = true := by
  decide

/-- The tick that reaches NS 500,000,000 at a time root (R279). -/
theorem witness_time_message :
    let s : State := { (inMode .field) with time := { (inMode .field).time with datum := 500000000 * unitNs } }
    s.sincePlace (500000000 * unitNs) (1000000000 * unitNs) < s.tickLen ∧ s.time.msgSec ≠ some s.nowSec := by decide

/-- A link that is UP with a packet to acknowledge (R161, R163). -/
theorem witness_link_up : hitch.linkUp 1 = true ∧ hitch.coreOn = true ∧ (hitch.link 1).lane.txDoze = .awake := by decide


theorem witness_mode_law : (inMode .field).modeLaw ∧ (inMode .field).resetLaw := by
  unfold State.modeLaw State.resetLaw
  decide

theorem witness_safe_law :
    { (inMode .safe) with ret := { (inMode .safe).ret with safeLatch := true } }.modeLaw := by
  unfold State.modeLaw
  decide

theorem witness_straps : (inMode .field).ret.inReset = false ∧ (inMode .field).ret.strapDefer = false := by decide
theorem witness_reset_release : powered.ret.inReset = true ∧ powered.ret.strapDefer = false ∧ powered.railValid .vddioC = true := by decide
theorem witness_core_on : (inMode .field).coreOn = true ∧ (inMode .sentry).coreOn = false := by decide
theorem witness_pace : (inMode .field).pace.monInvalid = false ∧ (inMode .field).pace.pendCfg = none := by decide

/-- DEV_INFO is taken in Safe (R393). -/
theorem witness_takes_safe : (inMode .safe).takes (cmd0 5 0x0100 0) 0x0100 (layDevInfo (cmd0 5 0x0100 0)) true := by decide

/-! ### Every host command is taken somewhere: packets of slice 0 that reach their owning chapter's part in Field (R370) -/

/-- A packet with its LEN, opcode, IND bit and the words from DW4 on. -/
def cmdN (len op : Nat) (ind : Bool) (ws : List Nat) : Cmd :=
  { dw := [BitVec.ofNat 32 (op + len * 2 ^ 16 + (if ind then 2 ^ 25 else 0)), 0, 0, 0] ++ ws.map (BitVec.ofNat 32) }

/-- A hub in Field takes the packet. -/
abbrev taken (len op : Nat) (ind : Bool) (ws : List Nat) (lay : Cmd → Layout) (safe : Bool) : Prop :=
  (inMode .field).takes (cmdN len op ind ws) op (lay (cmdN len op ind ws)) safe

theorem witness_takes_slice :
    taken 4 0x0000 false [] laySliceCreate true ∧
    taken 4 0x0001 false [] laySliceDestroy true ∧
    taken 4 0x0002 false [] laySliceReset true ∧
    taken 4 0x0003 false [] laySliceGrant false ∧
    taken 4 0x0004 false [] laySliceRevoke false ∧
    taken 4 0x0005 false [] laySliceFreeze true ∧
    taken 7 0x0006 true [0, 0, 0] laySliceSave true ∧
    taken 4 0x0007 false [] laySliceRestore true ∧
    taken 4 0x0008 false [] laySliceThaw true ∧
    taken 8 0x0009 false [256] layQueueCreate true ∧
    taken 4 0x000A false [] layQueueDestroy true ∧
    taken 4 0x000B false [] layEvqSet true := by
  refine ⟨?_, ?_, ?_, ?_, ?_, ?_, ?_, ?_, ?_, ?_, ?_, ?_⟩ <;> decide

theorem witness_takes_device :
    taken 4 0x0100 false [] layDevInfo true ∧
    taken 6 0x0101 false [1] layDevMode false ∧
    taken 4 0x0102 false [] layPaceSet false ∧
    taken 4 0x0103 false [] layPaceQuery true ∧
    taken 4 0x0104 false [] layDevStraps true := by
  refine ⟨?_, ?_, ?_, ?_, ?_⟩ <;> decide

theorem witness_takes_link :
    taken 4 0x0200 false [] layLinkQuery true ∧
    taken 4 0x0201 false [] layLinkRate false ∧
    taken 4 0x0202 false [] layLinkSleep false ∧
    taken 4 0x0203 false [] layLinkWake false ∧
    taken 4 0x0204 false [] layLinkRetrain false ∧
    taken 4 0x0205 false [] layLinkCounters true ∧
    taken 4 0x0206 false [] layLinkPattern false ∧
    taken 4 0x0207 false [] layLinkEqOverride false := by
  refine ⟨?_, ?_, ?_, ?_, ?_, ?_, ?_, ?_⟩ <;> decide

theorem witness_takes_tree :
    taken 4 0x0300 false [] layTreeEnumerate false ∧
    taken 4 0x0301 false [] layTreeQuery true ∧
    taken 4 0x0302 false [] layTreeResetHub true ∧
    taken 4 0x0303 false [] layTreeEvict false := by
  refine ⟨?_, ?_, ?_, ?_⟩ <;> decide

theorem witness_takes_tunnel :
    taken 7 0x0400 false [262160] layTunOpen false ∧
    taken 4 0x0401 false [] layTun false ∧
    taken 4 0x0402 false [] layTunModify false ∧
    taken 4 0x0403 false [] layTunQuery true ∧
    taken 4 0x0404 false [] layTun false ∧
    taken 4 0x0405 false [] layTun false := by
  refine ⟨?_, ?_, ?_, ?_, ?_, ?_⟩ <;> decide

theorem witness_takes_sched :
    taken 4 0x0500 false [] laySchedClassSet false ∧
    taken 16 0x0501 false [256, 0, 0, 0, 1000] laySchedGateLoad false ∧
    taken 4 0x0502 false [] laySchedGateCommit false ∧
    taken 8 0x0503 false [2097152] laySchedWindowSet false ∧
    taken 7 0x0504 false [2097152] laySchedBounds false ∧
    taken 4 0x0505 false [] laySchedQuery true := by
  refine ⟨?_, ?_, ?_, ?_, ?_, ?_⟩ <;> decide

theorem witness_takes_time :
    taken 4 0x0600 false [] layTimeQuery true ∧
    taken 4 0x0601 false [] layTimeSet false ∧
    taken 4 0x0602 false [] layTimeAdjust false ∧
    taken 4 0x0603 false [] layTimeSource false ∧
    taken 4 0x0604 false [] layTimeStampArm false ∧
    taken 4 0x0605 false [] layTimeOutCfg false := by
  refine ⟨?_, ?_, ?_, ?_, ?_, ?_⟩ <;> decide

theorem witness_takes_trav :
    taken 4 0x0700 false [] layTravLoad false ∧
    taken 9 0x0701 false [524288] layTravArm false ∧
    taken 4 0x0702 false [] layTravAbort false ∧
    taken 4 0x0703 false [] layTravQuery true ∧
    taken 5 0x0704 false [65536] layTravReadLegs false ∧
    taken 4 0x0705 false [] layTravActCfg false := by
  refine ⟨?_, ?_, ?_, ?_, ?_, ?_⟩ <;> decide

theorem witness_takes_display :
    taken 4 0x0800 false [] layTiming false ∧
    taken 4 0x0801 false [] layDispPlane false ∧
    taken 4 0x0802 false [] layOverlay false ∧
    taken 6 0x0803 false [2] layCommit false ∧
    taken 4 0x0804 false [] layUndercoat false ∧
    taken 4 0x0805 false [] layRegion false ∧
    taken 4 0x0806 false [] layDispQuery true := by
  refine ⟨?_, ?_, ?_, ?_, ?_, ?_, ?_⟩ <;> decide

theorem witness_takes_usb :
    taken 7 0x0900 false [5] layPortMap false ∧
    taken 4 0x0901 false [] layUsbQuery true ∧
    taken 6 0x0902 false [1] layUsbPortPower false ∧
    taken 4 0x0903 false [] layUsbCounters false := by
  refine ⟨?_, ?_, ?_, ?_⟩ <;> decide

theorem witness_takes_net :
    taken 4 0x0A00 false [] layNetPort false ∧
    taken 4 0x0A01 false [] layVlanMap false ∧
    taken 4 0x0A02 false [] layNetQuery true ∧
    taken 4 0x0A03 false [] layNetCounters false := by
  refine ⟨?_, ?_, ?_, ?_⟩ <;> decide

theorem witness_takes_can :
    taken 4 0x0B00 false [] layCanCfg false ∧
    taken 4 0x0B01 false [] layCanFilter false ∧
    taken 4 0x0B02 false [] layCanName false ∧
    taken 4 0x0B03 false [] layCanQuery true ∧
    taken 4 0x0B04 false [] layCanSend false := by
  refine ⟨?_, ?_, ?_, ?_, ?_⟩ <;> decide

theorem witness_takes_win :
    taken 4 0x0C00 false [] layWinOpen false ∧
    taken 4 0x0C01 false [] layWinClose false ∧
    taken 4 0x0C02 false [] layWinRange false ∧
    taken 4 0x0C03 false [] layWinSem false ∧
    taken 4 0x0C04 false [] layWinQuery true := by
  refine ⟨?_, ?_, ?_, ?_, ?_⟩ <;> decide

theorem witness_takes_power :
    taken 4 0x0D00 false [] layPwrQuery true ∧
    taken 4 0x0D01 false [] layPwrContract false ∧
    taken 4 0x0D02 false [] layPwrSwap false ∧
    taken 4 0x0D03 false [] layPwrLimits false ∧
    taken 4 0x0D04 false [] layPwrResetFault false ∧
    taken 4 0x0D05 false [] layPwrLog true := by
  refine ⟨?_, ?_, ?_, ?_, ?_, ?_⟩ <;> decide

theorem witness_takes_key :
    taken 4 0x0E00 false [] layKeyGenerate false ∧
    taken 9 0x0E01 true [0, 0, 1] layKeyImport false ∧
    taken 8 0x0E02 true [0] layKeyExport false ∧
    taken 8 0x0E03 true [0] layKeyLoad false ∧
    taken 4 0x0E04 false [] layKeyDestroy false ∧
    taken 15 0x0E05 true [0] layKeyAttest false ∧
    taken 9 0x0E06 true [0, 0, 1] layKeyDerive false ∧
    taken 11 0x0E07 true [512] layKeyCrypt false ∧
    taken 8 0x0E08 true [0] layKeyPairLink false := by
  refine ⟨?_, ?_, ?_, ?_, ?_, ?_, ?_, ?_, ?_⟩ <;> decide

theorem witness_takes_image :
    taken 9 0x0F00 true [0, 0, 16] layImgStage false ∧
    taken 4 0x0F01 false [] layImgCommit false ∧
    taken 4 0x0F02 false [] layImgQuery true ∧
    taken 4 0x0F03 false [] layImgConfirm false ∧
    taken 4 0x0F04 false [] layImgRevert false := by
  refine ⟨?_, ?_, ?_, ?_, ?_⟩ <;> decide

theorem witness_takes_diag :
    taken 4 0x1000 false [] layDiagErrors true ∧
    taken 4 0x1001 false [] layDiagInject false ∧
    taken 4 0x1002 false [] layDiagScrub true ∧
    taken 4 0x1003 false [] layDiagSelftest false ∧
    taken 4 0x1004 false [] layDiagClear false := by
  refine ⟨?_, ?_, ?_, ?_, ?_⟩ <;> decide

/-- DEV_MODE that names mode 2 (R58). -/
theorem witness_dev_mode : (inMode .field).coreOn = true ∧ (cmd0 6 0x0101 2).opcode = 0x0101 ∧ (inMode .field).waiting (cmd0 6 0x0101 2) = false ∧
    (cmd0 6 0x0101 2).f 4 2 0 ≠ 1 ∧ (cmd0 6 0x0101 2).f 4 2 0 ≠ 5 := by decide

/-- An engine at an END leg of a block granted to its owner. -/
def atEnd : State :=
  { (inMode .field) with
    trav := { (inMode .field).trav with eng := [(0, { Engine.init with st := .running })] } }

theorem witness_engine_runs : (atEnd.engine 0).st = .running ∧ atEnd.working = true ∧ legOk (atEnd.leg 0) = true ∧
    legKind (atEnd.leg 0) = 0 := by decide

/-! ### Hypotheses that rank, order or tell apart -/

/-- An ARMED engine whose launch instant has come, and nothing due before it; and one with an earlier effect left (R265, R303). -/
theorem witness_armed_launch :
    let s (due : Nat) : State := { (inMode .field) with
      time := { (inMode .field).time with datum := 10 ^ 9 * unitNs }
      trav := { (inMode .field).trav with
        eng := [(0, { Engine.init with st := .armed, launchAt := 20500, lead := 5 })]
        effects := [{ eng := 1, due := due, kind := .pins 1 1 }] } }
    (s 500).working = true ∧ ((s 500).engine 0).st = .armed ∧ ((s 500).engine 0).launchAt ≤ (s 500).now250 ∧
    ((s 500).engine 0).launchAt - 4000 * ((s 500).engine 0).lead = 500 ∧
    (s 500).noneBefore 500 = true ∧ (s 499).noneBefore 500 = false := by decide

/-- A DEV_MODE on its way to Safe outranks a core reset, one on its way to Sentry does not (R59). -/
theorem witness_outranked :
    let s (safe : Bool) : State := { (inMode .field) with
      ret := { (inMode .field).ret with devReq := some { toSafe := safe, delayMs := 1, tag := 0 } } }
    (s true).outranked = true ∧ (s false).outranked = false ∧ { (inMode .safe) with ret := { (inMode .safe).ret with safeAt := 1 } }.outranked = true := by
  decide

/-- The removal of a window whose form found none, under the same tag and within 300 ms, is a set-back, and later it is not (R251). -/
theorem witness_set_back :
    let c : Cmd := { (cmd0 16 0x0503 (34 + 2 ^ 21)) with sys := true, htag := 3 }
    let s (up : Nat) : State := { (inMode .field) with
      uptime := up, sched := { (inMode .field).sched with back := [{ isWin := true, tid := 34, link := 0, tag := 3, since := 0, wins := [] }] } }
    ((s 119999999).backOf c true 0).any (fun b => b.isWindow (c.b 4 21) Window.init) = true ∧ (s 120000000).backOf c true 0 = none := by
  decide

/-- A frame buffer of a MAC with room for the largest frame up to its last byte (R472). -/
theorem witness_mac_room :
    let x (n : Nat) : Mac := { Mac.init with txq := [{ bytes := List.replicate n 0, stamp := false, cookie := 0, tid := 34 }] }
    netFrameLen (List.replicate 76 0) = 64 ∧ sumN ((x 12).txq.map fun q => q.bytes.length + 4) = 16 := by
  decide

/-- The sum of a passive receiver: REC falls by 1 below 128 and stays at 0 (R477). -/
theorem witness_rec :
    let s (n : Nat) : State := { (inMode .field) with net := { (inMode .field).net with cans := [(0, { Can.init with rxErr := n })] } }
    (((s 127).recDown 0).can 0).rxErr = 126 ∧ (((s 0).recDown 0).can 0).rxErr = 0 := by decide

end Sys2Proof.Tests
end

section
/-! Registers as a host port reaches them (Chapters 11 and 20): where an access goes, what each register does, and O60. -/

namespace Sys2Proof.Machine
open Sys2Proof

/-! ### Where a write from a host port goes (R339, R607, R609) -/

/-- Only a port that reaches the hub and sees the page writes it. -/
theorem State.hostRegWrite_page (s : State) (p v : Nat) {k off : Nat} (hk : k < 64) (hoff : off < 0x1000) :
    s.hostRegWrite p (k * 0x1000 + off) v =
      if s.regReach p = true ∧ s.seesPage p k = true then s.pageWrite k off v else s := by
  have page : (k * 0x1000 + off) / 0x1000 = k := by omega
  have inPage : (k * 0x1000 + off) % 0x1000 = off := by omega
  have below : k * 0x1000 + off < 0x40000 := by omega
  cases reach : s.regReach p <;> simp [State.hostRegWrite, reach, page, inPage, below]

/-- The management block takes writes from the port of slice 0 only. -/
theorem State.hostRegWrite_management (s : State) (p v : Nat) {off : Nat} (hoff : off < 0x10000) :
    s.hostRegWrite p (0x100000 + off) v =
      if s.regReach p = true ∧ s.portOfZ p = true then s.mgWrite off v else s := by
  have past : ¬ 0x100000 + off < 0x40000 := by omega
  have inBlock : 0x100000 + off < 0x110000 := by omega
  cases reach : s.regReach p <;> simp [State.hostRegWrite, reach, past, inBlock]

/-! ### Where the page takes it (Tables 20.2 and 20.3) -/

theorem State.pageWrite_sqTail (s : State) (k v : Nat) {q : Nat} (hq : q < 8) :
    s.pageWrite k (0x800 + 4 * q) v = s.sqTail k q v := by
  interval_cases q <;> rfl

/-- The size registers of queues 1 to 7 are read only (R613). -/
theorem State.pageWrite_sqSize (s : State) (k v : Nat) {q : Nat} (hq : q < 8) :
    s.pageWrite k (0x108 + 0x20 * q) v = s.sqSize k q v := by
  interval_cases q <;> rfl

/-! ### The rows that write one register of a page -/

theorem exec_slSqTailWrite (s : State) (p v : Nat) {k q : Nat} (hk : k < 64) (hq : q < 8) :
    exec (.slSqTailWrite p k q v) s =
      .next (if s.regReach p = true ∧ s.seesPage p k = true then s.sqTail k q v else s) := by
  rw [← s.pageWrite_sqTail k v hq, ← s.hostRegWrite_page p v hk (by omega), ← Nat.add_assoc]
  exact congrArg _ (if_neg (by omega))

theorem exec_slSqSizeWrite (s : State) (p v : Nat) {k q : Nat} (hk : k < 64) (hq : q < 8) :
    exec (.slSqSizeWrite p k q v) s =
      .next (if s.regReach p = true ∧ s.seesPage p k = true then s.sqSize k q v else s) := by
  rw [← s.pageWrite_sqSize k v hq, ← s.hostRegWrite_page p v hk (by omega), ← Nat.add_assoc]
  exact congrArg _ (if_neg (by omega))

theorem exec_slEvqSizeWrite (s : State) (p v : Nat) {k : Nat} (hk : k < 64) :
    exec (.slEvqSizeWrite p k v) s =
      .next (if s.regReach p = true ∧ s.seesPage p k = true then s.evqSize k v else s) :=
  congrArg _ (s.hostRegWrite_page p v hk (by decide : 0x018 < 0x1000))

theorem exec_slEvqHeadWrite (s : State) (p v : Nat) {k : Nat} (hk : k < 64) :
    exec (.slEvqHeadWrite p k v) s =
      .next (if s.regReach p = true ∧ s.seesPage p k = true then s.evqHead k v else s) :=
  congrArg _ (s.hostRegWrite_page p v hk (by decide : 0x020 < 0x1000))

theorem exec_slIntCtrlWrite (s : State) (p v : Nat) {k : Nat} (hk : k < 64) :
    exec (.slIntCtrlWrite p k v) s =
      .next (if s.regReach p = true ∧ s.seesPage p k = true then s.intCtrl k v else s) :=
  congrArg _ (s.hostRegWrite_page p v hk (by decide : 0x004 < 0x1000))

theorem exec_slRingDbWrite (s : State) (p k v : Nat) (slots : List (List Byte)) {r : Nat} (hr : r < 16) :
    exec (.slRingDbWrite p k r v slots) s =
      .next (if s.regReach p = true ∧ s.seesPage p k = true then s.ringDb k r v slots else s) := by
  have inRange : ¬ 16 ≤ r := by omega
  refine congrArg Host.Outcome.next ?_
  cases reach : s.regReach p <;> cases sees : s.seesPage p k <;> simp [effSlRingDbWrite, inRange, reach, sees]

theorem exec_registerWrite_page (s : State) (p v : Nat) {k off : Nat} (hk : k < 64) (hoff : off < 0x1000) :
    exec (.registerWrite p (k * 0x1000 + off) v) s =
      .next (if s.regReach p = true ∧ s.seesPage p k = true then s.pageWrite k off v else s) := by
  rw [← s.hostRegWrite_page p v hk hoff]
  exact congrArg _ (if_neg (by omega))

theorem exec_mgErrsumWrite (s : State) (p v : Nat) :
    exec (.mgErrsumWrite p v) s = .next (if s.regReach p = true ∧ s.portOfZ p = true then s.errsumWrite v else s) :=
  congrArg _ (s.hostRegWrite_management p v (by decide : 0x30 < 0x10000))

theorem exec_registerWrite_scratch (s : State) (p v : Nat) :
    exec (.registerWrite p 0x100050 v) s =
      .next (if s.regReach p = true ∧ s.portOfZ p = true then { s with host := { s.host with scratch := word v } } else s) :=
  congrArg _ (s.hostRegWrite_management p v (by decide : 0x50 < 0x10000))

/-! ### Queue registers (R351 to R353, R613, R614) -/

/-- The powers of two between two powers of two, listed. -/
theorem pow2In_iff (a b n : Nat) :
    pow2In (2 ^ a) (2 ^ b) n = true ↔ n ∈ (List.range' a (b + 1 - a)).map (2 ^ ·) := by
  simp only [pow2In, decide_eq_true_eq, List.mem_map, List.mem_range'_1]
  constructor
  · rintro ⟨lo, hi, power⟩
    rw [← power] at lo hi
    have := (Nat.pow_le_pow_iff_right (by decide)).1 lo
    have := (Nat.pow_le_pow_iff_right (by decide)).1 hi
    exact ⟨n.log2, by omega, power⟩
  · rintro ⟨j, between, rfl⟩
    exact ⟨Nat.pow_le_pow_right (by decide) (by omega), Nat.pow_le_pow_right (by decide) (by omega), by rw [Nat.log2_two_pow]⟩

/-- The sizes of submission queue 0. -/
theorem pow2In_sq_iff (n : Nat) : pow2In 16 4096 n = true ↔ n ∈ [16, 32, 64, 128, 256, 512, 1024, 2048, 4096] :=
  pow2In_iff 4 12 n

/-- The sizes of an event queue. -/
theorem pow2In_evq_iff (n : Nat) :
    pow2In 64 65536 n = true ↔ n ∈ [64, 128, 256, 512, 1024, 2048, 4096, 8192, 16384, 32768, 65536] :=
  pow2In_iff 6 16 n

section
variable {s : State} {k q v : Nat}

theorem State.sqTail_disabled (off : (s.sq k q).enable = false) : s.sqTail k q v = s := by simp [State.sqTail, off]

theorem State.sqTail_inQueue (on : (s.sq k q).enable = true) (h : v % 4096 < (s.sq k q).size) :
    s.sqTail k q v = s.setSq k q { s.sq k q with tail := v % 4096 } := by
  simp [State.sqTail, on, h]

theorem State.sqTail_pastEnd (on : (s.sq k q).enable = true) (h : (s.sq k q).size ≤ v % 4096) :
    s.sqTail k q v = s.sqErr k q 1 := by
  simp [State.sqTail, on, h]

theorem State.sqSize_readOnly (h : q ≠ 0) : s.sqSize k q v = s := by simp [State.sqSize, h]

theorem State.sqSize_kept (on : (s.sq k 0).enable = true) (en : bit v 31 = true) : s.sqSize k 0 v = s := by
  simp [State.sqSize, on, en]

theorem State.sqSize_disables (on : (s.sq k 0).enable = true) (en : bit v 31 = false) :
    s.sqSize k 0 v = s.setSq k 0 { s.sq k 0 with enable := false, err := 0 } := by
  simp [State.sqSize, on, en]

theorem State.sqSize_leaves_disabled (off : (s.sq k 0).enable = false) (en : bit v 31 = false) :
    s.sqSize k 0 v = s.setSq k 0 { s.sq k 0 with prio := bits v 29 28, size := bits v 12 0, err := 0 } := by
  simp [State.sqSize, off, en]

theorem State.sqSize_enables (off : (s.sq k 0).enable = false) (en : bit v 31 = true) (good : pow2In 16 4096 (bits v 12 0) = true) :
    s.sqSize k 0 v =
      s.setSq k 0 { s.sq k 0 with prio := bits v 29 28, size := bits v 12 0, enable := true, head := 0, tail := 0 } := by
  simp [State.sqSize, off, en, good]

theorem State.sqSize_badSize (off : (s.sq k 0).enable = false) (en : bit v 31 = true) (bad : pow2In 16 4096 (bits v 12 0) = false) :
    s.sqSize k 0 v = (s.setSq k 0 { s.sq k 0 with prio := bits v 29 28, size := bits v 12 0 }).sqErr k 0 3 := by
  simp [State.sqSize, off, en, bad]

theorem State.evqSize_enables (off : (s.slice k).evq.enable = false) (en : bit v 31 = true)
    (good : pow2In 64 65536 (bits v 16 0) = true) :
    s.evqSize k v = (s.modSlice k fun z => { z with evq := { (s.slice k).evq with
      size := bits v 16 0, enable := true, tail := 0, head := 0, phase := true } }).flushHeld k 64 := by
  simp [State.evqSize, off, en, good]

theorem State.evqSize_disables (on : (s.slice k).evq.enable = true) (en : bit v 31 = false) :
    s.evqSize k v = s.modSlice k fun z => { z with evq := { (s.slice k).evq with enable := false, err := 0 } } := by
  simp [State.evqSize, on, en]

theorem State.evqHead_inQueue (on : (s.slice k).evq.enable = true) (h : v % 2 ^ 17 < (s.slice k).evq.size) :
    s.evqHead k v = (s.setSlice k { s.slice k with
      evq := { (s.slice k).evq with head := v % 2 ^ 17 }, unsig := 0, firstAt := none }).flushHeld k 64 := by
  rw [State.evqHead, if_neg (by simp [on]), if_neg (Nat.not_le.2 h)]

theorem State.evqHead_pastEnd (on : (s.slice k).evq.enable = true) (h : (s.slice k).evq.size ≤ v % 2 ^ 17) :
    s.evqHead k v = (s.setSlice k { s.slice k with evq := { (s.slice k).evq with err := 4 } }).queueErr k 8 4 := by
  rw [State.evqHead, if_neg (by simp [on]), if_pos h]

/-- SL_INT_CTRL takes its fields, and sends an interrupt that is due as it clears MASK (R357, R613). -/
theorem State.intCtrl_eq :
    s.intCtrl k v =
      let t := s.setSlice k { s.slice k with
        mask := bit v 31, intTime := bits v 30 21, intCount := if bits v 20 13 = 0 then 1 else bits v 20 13, vector := bits v 8 0 }
      if (s.slice k).mask = true ∧ bit v 31 = false ∧ t.intDue k = true then t.sendInt k else t := by
  simp [State.intCtrl]

/-- An exit ring's slots return (R475). -/
theorem State.ringDb_exit {r : Nat} (slots : List (List Byte)) (on : ((s.slice k).ring r).enable = true)
    (exit : ((s.slice k).ring r).exitDir = true) (h : v % 4096 < ((s.slice k).ring r).entries) (used : (s.slice k).state ≠ 0) :
    s.ringDb k r v slots = s.setRing k r { (s.slice k).ring r with
      head := v % 4096, emptied := decide (v % 4096 = ((s.slice k).ring r).tail) } := by
  simp [State.ringDb, on, exit, h, used]

/-- The base of a disabled submission queue (R613). -/
theorem State.pageWrite_sqBase (off : (s.sq k 0).enable = false) :
    s.pageWrite k 0x100 v = s.setSq k 0 { s.sq k 0 with
      base := (s.sq k 0).base / 2 ^ 32 * 2 ^ 32 + v % 2 ^ 32 / 4096 * 4096 } := by
  simp [State.pageWrite, off]

end

/-! ### Reads (R9, R607, R608, R617, R619) -/

theorem exec_rcRegisterRead_unreached {s : State} {p : Nat} (h : s.regReach p = false) (off tag : Nat) :
    exec (.rcRegisterRead p off tag) s = .next (s.hostUr p tag) := by
  refine congrArg Host.Outcome.next ?_
  simp [effRcRegisterRead, effMgTimeNsRead, h]

theorem exec_mgTimeNsRead_unreached {s : State} {p : Nat} (h : s.regReach p = false) (tag : Nat) :
    exec (.mgTimeNsRead p tag) s = .next (s.hostUr p tag) := by
  refine congrArg Host.Outcome.next ?_
  simp [effMgTimeNsRead, h]

/-- Latching a snapshot does not move the time. -/
@[simp] theorem State.setHport_nowNs (s : State) (p : Nat) (h : HPort) : (s.setHport p h).nowNs = s.nowNs := by
  unfold State.setHport; split <;> rfl

theorem exec_mgTimeNsRead {s : State} {p : Nat} (reach : s.regReach p = true) (tag : Nat) :
    exec (.mgTimeNsRead p tag) s =
      .next ((s.setHport p { s.hport p with snapT := s.time.datum, snapW7 := s.timeW7, snapOk := true }).emit
        (.cpl p tag 0 (leBytes 4 (s.nowNs % 1000000000)))) := by
  refine congrArg Host.Outcome.next ?_
  simp [effMgTimeNsRead, reach]

/-- A read of a register of a page answers its value, and then clears it where it is an RC register. -/
theorem exec_rcRegisterRead_page {s : State} {p k off : Nat} (reach : s.regReach p = true) (sees : s.seesPage p k = true)
    (hk : k < 64) (hoff : off < 0x1000) (aligned : off % 4 = 0) (tag : Nat) :
    exec (.rcRegisterRead p (k * 0x1000 + off) tag) s =
      .next ((s.emit (.cpl p tag 0 (leBytes 4 (s.pageReg k off).toNat))).rcClear (k * 0x1000 + off)) := by
  have page : (k * 0x1000 + off) / 0x1000 = k := by omega
  have inPage : (k * 0x1000 + off) % 0x1000 = off := by omega
  have below : k * 0x1000 + off < 0x40000 := by omega
  have notTime : k * 0x1000 + off ≠ 0x100040 := by omega
  have notMsix : ¬ 0x200000 ≤ k * 0x1000 + off := by omega
  have alignedAll : (k * 0x1000 + off) % 4 = 0 := by omega
  have value : s.hostRegVal p (k * 0x1000 + off) = s.pageReg k off := by
    simp [State.hostRegVal, State.regVal, notMsix, below, page, inPage, sees, alignedAll]
  have seesAfter (o : Out) : (s.emit o).seesPage p k = true := sees
  refine congrArg Host.Outcome.next ?_
  simp [effRcRegisterRead, notTime, reach, value, page, seesAfter]

theorem State.rcClear_lost (s : State) {k : Nat} (hk : k < 64) :
    s.rcClear (k * 0x1000 + 8) = s.modSlice k fun z => { z with lost := 0 } := by
  have page : (k * 0x1000 + 8) / 0x1000 = k := by omega
  rw [State.rcClear, if_pos (by omega), page]

theorem State.rcClear_stale (s : State) {k : Nat} (hk : k < 64) :
    s.rcClear (k * 0x1000 + 0xC) = s.modSlice k fun z => { z with stale := 0 } := by
  have page : (k * 0x1000 + 0xC) / 0x1000 = k := by omega
  rw [State.rcClear, if_neg (by omega), if_pos (by omega), page]

theorem State.vectors_le (s : State) : s.vectors ≤ 512 := by
  unfold State.vectors; split <;> omega

/-- A DW of a vector is read as it stands. -/
theorem exec_rcRegisterRead_msix {s : State} {p n i : Nat} (reach : s.regReach p = true) (hn : n < s.vectors) (hi : i < 4) (tag : Nat) :
    exec (.rcRegisterRead p (0x200000 + 16 * n + 4 * i) tag) s =
      .next (s.emit (.cpl p tag 0 (leBytes 4 (((s.hport p).msix.read {} n).dw i).toNat))) := by
  have few := s.vectors_le
  have entry : (0x200000 + 16 * n + 4 * i - 0x200000) / 16 = n := by omega
  have dw : (0x200000 + 16 * n + 4 * i) % 16 / 4 = i := by omega
  have aligned : (0x200000 + 16 * n + 4 * i) % 4 = 0 := by omega
  have inTable : 0x200000 + 16 * n + 4 * i < 0x208000 := by omega
  have notTime : 0x200000 + 16 * n + 4 * i ≠ 0x100040 := by omega
  have isMsix : 0x200000 ≤ 0x200000 + 16 * n + 4 * i := by omega
  have noPage (t : State) : t.seesPage p ((0x200000 + 16 * n + 4 * i) / 0x1000) = false := by
    have : ¬ (0x200000 + 16 * n + 4 * i) / 0x1000 < 64 := by omega
    simp only [State.seesPage, this, decide_false, Bool.false_and]
  have value : s.hostRegVal p (0x200000 + 16 * n + 4 * i) = ((s.hport p).msix.read {} n).dw i := by
    rw [State.hostRegVal, if_pos isMsix, State.msixVal]
    simp only [aligned, inTable, entry, dw, hn, ne_eq, not_true, if_true, if_false]
  refine congrArg Host.Outcome.next ?_
  simp only [effRcRegisterRead, notTime, reach, value, noPage, Bool.not_true, Bool.false_eq_true, if_false]

/-! ### MSI-X writes, held records and the interrupt timer (R356, R357, R599, R619) -/

/-- A write of one DW changes that DW of its vector, and sends what the vector was holding back. -/
theorem exec_msixTableWrite_dw {s : State} {p n i : Nat} {b : List Byte} (reach : s.regReach p = true) (hn : n < s.vectors) (hi : i < 4)
    (hb : b.length = 4) :
    exec (.msixTableWrite p (0x200000 + 16 * n + 4 * i) b) s =
      .next ((s.setHport p { s.hport p with
        msix := (s.hport p).msix.write {} n (((s.hport p).msix.read {} n).write i (fromLe (b.take 4))) }).msixUnmask p n) := by
  have entry : (0x200000 + 16 * n + 4 * i - 0x200000) / 16 = n := by omega
  have dw : (0x200000 + 16 * n + 4 * i) % 16 / 4 = i := by omega
  have aligned : (0x200000 + 16 * n + 4 * i) % 4 = 0 := by omega
  have isMsix : ¬ 0x200000 + 16 * n + 4 * i < 0x200000 := by omega
  have inTable : ¬ s.vectors ≤ n := Nat.not_le.2 hn
  refine congrArg Host.Outcome.next ?_
  simp [effMsixTableWrite, entry, dw, aligned, isMsix, inTable, reach, hb]

theorem exec_heldRecordWrite_ok {s : State} {k : Nat} (core : s.coreOn = true) (hk : k < 64) :
    exec (.heldRecordWrite k true) s = .next (s.flushHeld k 64) := by
  refine congrArg Host.Outcome.next ?_
  simp [effHeldRecordWrite, core, hk]

/-- A record write that fails disables the event queue and is reported (R599). -/
theorem exec_heldRecordWrite_failed {s : State} {k : Nat} (core : s.coreOn = true) (hk : k < 64) (on : (s.slice k).evq.enable = true) :
    exec (.heldRecordWrite k false) s =
      (let t := s.modSlice k fun z => { z with evq := { z.evq with enable := false, err := 5 } }
       .next (({ t with err := { t.err with evqFail := true } } : State).queueErr k 8 5)) := by
  refine congrArg Host.Outcome.next ?_
  simp [effHeldRecordWrite, core, hk, on]

theorem exec_interruptTimer (s : State) (k : Nat) :
    exec (.interruptTimer k) s = .next (if s.coreOn = true ∧ s.intDue k = true then s.sendInt k else s) := rfl

/-- Settles O60: each row's equation gives the register the access reaches, and that register's lemma what it does. -/
theorem registerRows : Obligations.registerRows := by
  intro s p k v hk
  dsimp only
  refine ⟨?sqTail, ?sqTailDisabled, ?sqSizeDisabled, ?sqSizeEnabled, ?sqSizeReadOnly, ?evqSizeEnables, ?evqSizeDisables, ?evqHead,
    ?intCtrl, ?ringDb, ?rcRead, ?msixRead, ?management, ?errsumOther, ?timeNs, ?sqBase, ?msixWrite, ?unseen, ?unreached,
    ?heard, ?unheard, ?heldOk, ?heldFailed, ?timerDue, ?timerNotDue⟩
  case sqTail =>
    intro on q hq en
    rw [exec_slSqTailWrite s p v hk hq, if_pos on]
    exact ⟨fun h => congrArg _ (State.sqTail_inQueue en h), fun h => congrArg _ (State.sqTail_pastEnd en h)⟩
  case sqTailDisabled =>
    intro on q hq en
    rw [exec_slSqTailWrite s p v hk hq, if_pos on, State.sqTail_disabled en]
  case sqSizeDisabled =>
    intro on off
    rw [exec_slSqSizeWrite s p v hk (by decide), if_pos on, ← pow2In_sq_iff]
    exact ⟨fun en => congrArg _ (State.sqSize_leaves_disabled off en), fun en good => congrArg _ (State.sqSize_enables off en good),
      fun en bad => congrArg _ (State.sqSize_badSize off en (Bool.eq_false_iff.2 bad))⟩
  case sqSizeEnabled =>
    intro on en
    rw [exec_slSqSizeWrite s p v hk (by decide), if_pos on]
    exact ⟨fun h => congrArg _ (State.sqSize_kept en h), fun h => congrArg _ (State.sqSize_disables en h)⟩
  case sqSizeReadOnly =>
    intro q one hq
    rw [exec_slSqSizeWrite s p v hk hq, State.sqSize_readOnly (by omega), ite_self]
  case evqSizeEnables =>
    intro on off en good
    rw [exec_slEvqSizeWrite s p v hk, if_pos on, State.evqSize_enables off en ((pow2In_evq_iff _).2 good)]
  case evqSizeDisables =>
    intro on en h
    rw [exec_slEvqSizeWrite s p v hk, if_pos on, State.evqSize_disables en h]
  case evqHead =>
    intro on en
    rw [exec_slEvqHeadWrite s p v hk, if_pos on]
    exact ⟨fun h => congrArg _ (State.evqHead_inQueue en h), fun h => congrArg _ (State.evqHead_pastEnd en h)⟩
  case intCtrl =>
    intro on
    rw [exec_slIntCtrlWrite s p v hk, if_pos on, State.intCtrl_eq]
  case ringDb =>
    intro on r slots hr en exit inRing used
    rw [exec_slRingDbWrite s p k v slots hr, if_pos on, State.ringDb_exit slots en exit inRing used]
  case rcRead =>
    rintro ⟨reach, sees⟩ tag
    rw [exec_rcRegisterRead_page reach sees hk (by decide) (by decide), exec_rcRegisterRead_page reach sees hk (by decide) (by decide),
      State.rcClear_lost _ hk, State.rcClear_stale _ hk]
    exact ⟨rfl, rfl⟩
  case msixRead =>
    intro reach hn tag
    have dw {i : Nat} (hi : i < 4) := exec_rcRegisterRead_msix reach hn hi tag
    exact ⟨dw (i := 0) (by decide), dw (i := 1) (by decide), dw (i := 2) (by decide), dw (i := 3) (by decide)⟩
  case management =>
    intro reach owner
    rw [exec_registerWrite_scratch, exec_mgErrsumWrite, if_pos ⟨reach, owner⟩, if_pos ⟨reach, owner⟩]
    exact ⟨rfl, rfl⟩
  case errsumOther =>
    intro _ other
    rw [exec_mgErrsumWrite, if_neg (by simp [other])]
  case timeNs =>
    intro reach tag
    exact exec_mgTimeNsRead reach tag
  case sqBase =>
    rintro on off _ rfl
    rw [exec_registerWrite_page s p v hk (by decide), if_pos on, State.pageWrite_sqBase off]
  case msixWrite =>
    intro reach hn b hb
    exact exec_msixTableWrite_dw (i := 3) reach hn (by decide) hb
  case unseen =>
    intro unseen
    rw [exec_slSqTailWrite s p v hk (by decide), exec_slEvqHeadWrite s p v hk, exec_slIntCtrlWrite s p v hk]
    simp only [unseen, Bool.false_eq_true, and_false, if_false, and_self]
  case unreached =>
    intro unreached
    rw [exec_mgErrsumWrite, if_neg (by simp [unreached])]
    exact ⟨rfl, exec_rcRegisterRead_unreached unreached 8 v, exec_mgTimeNsRead_unreached unreached v⟩
  case heard => exact fun heard => if_pos heard
  case unheard =>
    intro unheard
    exact if_neg (by simp [unheard])
  case heldOk => exact fun core => exec_heldRecordWrite_ok core hk
  case heldFailed => exact fun core en => exec_heldRecordWrite_failed core hk en
  case timerDue =>
    intro core due
    rw [exec_interruptTimer, if_pos ⟨core, due⟩]
  case timerNotDue =>
    intro notDue
    rw [exec_interruptTimer, if_neg (by rcases notDue with h | h <;> simp [h])]

end Sys2Proof.Machine
end

section
/-! The sideband (Chapters 5 and 17): what a received frame, a turn, the debounce and the end of a wait do, and O20. -/

namespace Sys2Proof.Machine
open Sys2Proof

/-! ### Received sideband frames (R517, R519, R521, R522)

Each row discards a frame that is not well formed. Of one that its conversation accepts it takes the effect, on the state that the receipt
leaves. -/

section
variable {s u : State} {port l : Nat} {f : SbFrame}

theorem exec_idleFrame_malformed (bad : sbOk f 0 0 = false) : exec (.idleFrame port f) s = .next (s.sbDiscard port f) := by
  refine congrArg Host.Outcome.next ?_
  simp [effIdleFrame, bad]

theorem exec_idleFrame_received (ok : sbOk f 0 0 = true) : exec (.idleFrame port f) s = .next (s.sbReceive port f).1 := by
  refine congrArg Host.Outcome.next ?_
  simp [effIdleFrame, ok]

theorem exec_sidebandIdent_malformed (bad : sbOk f 1 14 = false) : exec (.sidebandIdent port f) s = .next (s.sbDiscard port f) := by
  refine congrArg Host.Outcome.next ?_
  simp [effSidebandIdent, bad]

theorem exec_sidebandRate_malformed (bad : sbOk f 2 2 = false) : exec (.sidebandRate port f) s = .next (s.sbDiscard port f) := by
  refine congrArg Host.Outcome.next ?_
  simp [effSidebandRate, bad]

theorem exec_sidebandWake_malformed (bad : sbOk f 3 0 = false) : exec (.sidebandWake port f) s = .next (s.sbDiscard port f) := by
  refine congrArg Host.Outcome.next ?_
  simp [effSidebandWake, bad]

/-- RATE before the core is on wakes; in a core mode it is the far end's proposal for the link. -/
theorem exec_sidebandRate_accepted (ok : sbOk f 2 2 = true) (unreserved : sbByte f 0 < 64)
    (width : bits (sbByte f 0) 4 2 = 1 ∨ bits (sbByte f 0) 4 2 = 2 ∨ bits (sbByte f 0) 4 2 = 4) (got : s.sbReceive port f = (u, some l)) :
    exec (.sidebandRate port f) s = .next
      (if u.coreOn = true then
        u.takeRate (sbLinkCode port l) (sbByte f 0 % 4) (bits (sbByte f 0) 4 2) (sbByte f 1) (bit (sbByte f 0) 5)
       else u.wakeFrame port) := by
  have below : ¬ 64 ≤ sbByte f 0 := by omega
  refine congrArg Host.Outcome.next ?_
  cases core : u.coreOn <;> simp [effSidebandRate, ok, below, width, got, core]

theorem exec_sidebandWake_accepted (ok : sbOk f 3 0 = true) (got : s.sbReceive port f = (u, some l)) :
    exec (.sidebandWake port f) s = .next (u.wakeFrame port) := by
  refine congrArg Host.Outcome.next ?_
  simp [effSidebandWake, ok, got]

end

/-! ### The debounce, a turn and the end of a wait (R518 to R520, R523) -/

section
variable {s : State} {port link : Nat}

theorem exec_attachDebounce_attaches (on : s.sbOn port = true) (two : link < 2) (carrier : ((s.port port).sb link).carrier = true)
    (told : ((s.port port).sb link).identTx = true) (known : ((s.port port).sb link).ident ≠ none)
    (fresh : ((s.port port).sb link).attached = false) :
    exec (.attachDebounce port link) s = .next
      (let t := s.modPort port fun x => x.modSb link fun y => { y with attached := true }
       let v := if link = 0 then t.attachPower port else t
       (v.sendRate (sbLinkCode port link) 0 false).agree (sbLinkCode port link)) := by
  have inPort : ¬ 1 < link := by omega
  refine congrArg Host.Outcome.next ?_
  simp [effAttachDebounce, on, inPort, carrier, told, known, fresh]

/-- Which way a port faces is not in its record. -/
@[simp] theorem State.setPort_upPort (s : State) (p q : Nat) (x : PwrPort) : (s.setPort p x).upPort q = s.upPort q := rfl
@[simp] theorem State.setPort_ret (s : State) (p : Nat) (x : PwrPort) : (s.setPort p x).ret = s.ret := rfl

/-- No frame awaits its acknowledgement, none is queued, and no run request asks for a WAKE: the turn sends the idle frame. -/
theorem exec_sidebandTurn_idle (drives : s.drives port = true) (whole : s.portSplit port = false)
    (noneOut : ((s.port port).sb 0).outst = none) (noneQueued : ((s.port port).sb 0).queue = []) (quiet : s.ret.runReq = false) :
    exec (.sidebandTurn port) s = .next
      (let link := if s.upPort port = true then (s.port port).pol.linkNo else 0
       (s.setPort port { s.port port with turn1 := false }).sbSend port link
         { link := link, df := !s.upPort port, ackid := ((s.port port).sb 0).ackid }) := by
  refine congrArg Host.Outcome.next ?_
  simp [effSidebandTurn, drives, whole, noneOut, noneQueued, quiet]

theorem exec_sidebandExchangeTimeout_ends {f : SbFrame} (on : s.sbOn port = true) (two : link < 2)
    (out : ((s.port port).sb link).outst = some f) :
    exec (.sidebandExchangeTimeout port link) s = .next
      (let t := s.modPort port fun x => x.modSb link fun b => { b with outst := none }
       if link = 0 then t.exchangeFailed port f.typ else t) := by
  have inPort : ¬ 1 < link := by omega
  refine congrArg Host.Outcome.next ?_
  simp [effSidebandExchangeTimeout, on, inPort, out]

end

/-! ### Hubs and frames that meet the hypotheses -/

/-- A hub in Field that takes carrier on the first conversation of port 1, with IDENT exchanged and a frame of a type in flight. -/
def conversing (out : Option SbFrame) : State :=
  let ret := { State.reset.ret with inReset := false, strapsValid := true, mode := .field }
  ({ State.reset with ret := ret } : State).modPort 1 fun x => x.modSb 0 fun b =>
    { b with carrier := true, identTx := true, ident := some { role := 1 }, outst := out }

/-- A partner's IDENT, its RATE for width 1 and its WAKE are well formed, and the conversation accepts them. -/
theorem witness_accepted :
    let ident : SbFrame := { typ := 1, msgid := 1, payload := List.replicate 14 0 }
    let rate : SbFrame := { typ := 2, msgid := 1, payload := [4, 0] }
    let wake : SbFrame := { typ := 3, msgid := 1 }
    let s := conversing none
    sbOk ident 1 14 = true ∧ (s.sbReceive 1 ident).2 = some 0 ∧ sbOk rate 2 2 = true ∧ bits (sbByte rate 0) 4 2 = 1 ∧
    (s.sbReceive 1 rate).2 = some 0 ∧ sbOk wake 3 0 = true ∧ (s.sbReceive 1 wake).2 = some 0 := by decide

/-- The conversation may attach and has an idle turn; with a frame in flight its exchange may end. -/
theorem witness_conversation :
    let s := conversing none
    s.sbOn 1 = true ∧ ((s.port 1).sb 0).carrier = true ∧ ((s.port 1).sb 0).identTx = true ∧ ((s.port 1).sb 0).ident ≠ none ∧
    ((s.port 1).sb 0).attached = false ∧ ((s.port 1).sb 0).outst = none ∧ s.drives 1 = true ∧ s.portSplit 1 = false ∧
    ((s.port 1).sb 0).queue = [] ∧ s.ret.runReq = false ∧
    (((conversing (some { typ := 1 })).port 1).sb 0).outst = some { typ := 1 } := by decide

/-- Settles O20 from what each row does with a frame, a turn or the end of a wait. -/
theorem sidebandRows : Obligations.sidebandRows := by
  refine ⟨?ident, ?rate, ?wake, ?debounceSecond, ?debounceFirst, ?turn, ?malformed, ?idle, ?timeoutFirst, ?timeoutSecond⟩
  case ident =>
    intro s u port l f ok role cls got
    have roleFits : ¬ 128 ≤ sbByte f 12 := by omega
    have clsFits : ¬ 16 ≤ sbByte f 13 := by omega
    refine congrArg Host.Outcome.next ?_
    simp [effSidebandIdent, ok, roleFits, clsFits, got]
  case rate =>
    intro s u port l f ok unreserved width got
    exact exec_sidebandRate_accepted ok unreserved width got
  case wake =>
    intro s u port l f ok got
    exact exec_sidebandWake_accepted ok got
  case debounceSecond =>
    rintro s port link on rfl carrier told known fresh
    exact exec_attachDebounce_attaches on (by decide) carrier told known fresh
  case debounceFirst =>
    intro s port on carrier told known fresh
    exact exec_attachDebounce_attaches on (by decide) carrier told known fresh
  case turn =>
    intro s port drives whole noneOut noneQueued quiet
    exact ⟨_, exec_sidebandTurn_idle drives whole noneOut noneQueued quiet, rfl⟩
  case malformed =>
    intro s port f
    exact ⟨exec_idleFrame_malformed, exec_sidebandIdent_malformed, exec_sidebandRate_malformed, exec_sidebandWake_malformed⟩
  case idle =>
    intro s port f ok
    exact exec_idleFrame_received ok
  case timeoutFirst =>
    intro s port f on out
    exact exec_sidebandExchangeTimeout_ends on (by decide) out
  case timeoutSecond =>
    intro s port f on out
    exact exec_sidebandExchangeTimeout_ends on (by decide) out

end Sys2Proof.Machine
end

section
/-! Images (Chapter 18): which slot boots, what confirming an image fixes, the health interval, the IMG_ commands, and O57. -/

namespace Sys2Proof.Machine
open Sys2Proof

/-! ### Which slot boots (R573) -/

/-- The slot that the BOOT record names, the strap's without one (R573). -/
def State.bootNamed (s : State) : Nat := if s.area.active < 2 then s.area.active else s.boot

/-- The image named has had its three boots and is not confirmed (R573). -/
def State.bootBack (s : State) : Bool := decide (s.area.active < 2) && !s.confirmed s.bootNamed && decide (s.area.unconf = 3)

/-- The boot of a first slot, or of the other where the first fails its verification (R573). -/
def State.bootEither (s : State) (bad : Nat → Bool) (first : Nat) : State :=
  let step := s.imgVerify first (bad first)
  if step = 0 then s.bootImage first true
  else
    let v := s.imgEvent 2 (stepStatus step) first step
    let other := 1 - first
    let step2 := v.imgVerify other (bad other)
    if step2 = 0 then v.bootImage other true
    else
      let x := (v.imgEvent 2 (stepStatus step2) other step2).imgEvent 4 stNotPresent first 0
      ({ x with board := { x.board with noImage := true } } : State).latchSafe.startLinks

/-- A hub in Survey that has no image yet and has not been found to have none. -/
abbrev State.awaitsImage (s : State) : Prop := s.ret.mode = .survey ∧ s.boot < 2 ∧ s.board.applied = false ∧ s.board.noImage = false

section
variable {s : State} {badA badB : Bool}

theorem State.bootBack_iff : s.bootBack = true ↔ s.area.active < 2 ∧ s.confirmed s.bootNamed = false ∧ s.area.unconf = 3 := by
  simp only [State.bootBack, Bool.and_eq_true, decide_eq_true_eq, Bool.not_eq_true', and_assoc]

theorem State.bootBack_eq_false (stays : ¬ (s.area.active < 2 ∧ s.confirmed s.bootNamed = false ∧ s.area.unconf = 3)) :
    s.bootBack = false :=
  Bool.eq_false_iff.2 (mt State.bootBack_iff.1 stays)

/-- Which slot comes first is settled before either is verified. -/
theorem exec_imageApply (waits : s.awaitsImage) :
    exec (.imageApply badA badB) s = .next
      (let first := if s.bootBack = true then 1 - s.bootNamed else s.bootNamed
       State.bootEither (if s.bootBack = true then s.imgEvent 3 stOk first first else s) (fun k => if k = 0 then badA else badB) first) := by
  obtain ⟨survey, strap, unapplied, image⟩ := waits
  have strapped : ¬ 2 ≤ s.boot := by omega
  exact congrArg _ (if_neg (by simp [survey, strapped, unapplied, image]))

theorem exec_imageApply_named (waits : s.awaitsImage) (stays : s.bootBack = false) :
    exec (.imageApply badA badB) s = .next (s.bootEither (fun k => if k = 0 then badA else badB) s.bootNamed) := by
  simpa only [stays, Bool.false_eq_true, if_false] using exec_imageApply (badA := badA) (badB := badB) waits

theorem exec_imageApply_back (waits : s.awaitsImage) (back : s.bootBack = true) :
    exec (.imageApply badA badB) s = .next ((s.imgEvent 3 stOk (1 - s.bootNamed) (1 - s.bootNamed)).bootEither
      (fun k => if k = 0 then badA else badB) (1 - s.bootNamed)) := by
  simpa only [back, if_true] using exec_imageApply (badA := badA) (badB := badB) waits

variable {bad : Nat → Bool} {first : Nat}

theorem State.bootEither_first (good : s.imgVerify first (bad first) = 0) : s.bootEither bad first = s.bootImage first true :=
  if_pos good

theorem State.bootEither_second (fails : s.imgVerify first (bad first) ≠ 0) :
    let step := s.imgVerify first (bad first)
    let v := s.imgEvent 2 (stepStatus step) first step
    let other := 1 - first
    let step2 := v.imgVerify other (bad other)
    (step2 = 0 → s.bootEither bad first = v.bootImage other true) ∧
    (step2 ≠ 0 →
      let x := (v.imgEvent 2 (stepStatus step2) other step2).imgEvent 4 stNotPresent first 0
      s.bootEither bad first = ({ x with board := { x.board with noImage := true } } : State).latchSafe.startLinks) :=
  ⟨fun good => (if_neg fails).trans (if_pos good), fun bad => (if_neg fails).trans (if_neg bad)⟩

end

/-! ### What applying and confirming an image set (R15, R66, R573, R574) -/

theorem State.bootImage_keeps_split (s : State) (k : Nat) :
    (s.bootImage k false).board.splitB = s.board.splitB ∧ (s.bootImage k false).board.splitC = s.board.splitC := by
  have idents := @State.pushIdents_only
  have latch := @State.latchSafe_only
  have event := @State.imgEvent_only
  simp [State.bootImage, idents, latch, event]

theorem State.setArea_rootHash (s : State) (a : DataArea) : (s.setArea a).nv.rootHash = s.nv.rootHash := by
  unfold State.setArea; split <;> rfl

theorem State.setOther_rootHash (s : State) (a : DataArea) : (s.setOther a).nv.rootHash = s.nv.rootHash := by
  unfold State.setOther; split <;> rfl

theorem State.moveArea_rootHash (s : State) (a : DataArea) : (s.moveArea a).nv.rootHash = s.nv.rootHash := by
  unfold State.moveArea
  dsimp only
  split <;> simp only [State.setArea_rootHash, State.setOther_rootHash]

theorem State.storeRec_rootHash (s : State) (typ : Nat) (value : List Byte) (f : DataArea → DataArea) :
    (s.storeRec typ value f).nv.rootHash = s.nv.rootHash :=
  (apply_ite (fun t : State => t.nv.rootHash) _ _ _).trans
    (by simp only [State.setArea_rootHash, State.moveArea_rootHash, ite_self])

/-- The BOOT record is none of the fuses. -/
theorem State.setBoot_rootHash (s : State) (f : DataArea → DataArea) : (s.setBoot f).nv.rootHash = s.nv.rootHash :=
  s.storeRec_rootHash _ _ f

theorem State.confirmImage_fuses (s : State) :
    s.confirmImage.nv.counter = max s.nv.counter (s.slotN s.img.running).minSvn ∧
    s.confirmImage.nv.rootHash = some (s.nv.rootHash.getD (s.slotN s.img.running).signer) ∧ s.confirmImage.img.health = false := by
  have event := @State.imgEvent_only
  have boot := @State.setBoot_only
  have other := @State.setOther_only
  unfold State.confirmImage
  dsimp only
  split <;> simp [event, boot, other, State.setBoot_rootHash, State.setOther_rootHash]

/-! ### The health interval (R314, R574) -/

section
variable {s : State}

theorem exec_legConfirmImage {e v : Nat} (runs : s.legRuns e 0x10 v) (due : ((s.countLeg e).engine e).d ≤ (s.countLeg e).now250) :
    exec (.legConfirmImage e) s = .next
      (let u := s.countLeg e
       State.legLimit (if (u.engine e).health = false ∨ 2 ≤ u.img.running then u.exception e 3
         else if u.runConfirmed = true then u.adv e else u.confirmImage.adv e) e (s.engine e).pc) := by
  refine congrArg Host.Outcome.next ?_
  rw [effLegConfirmImage, State.effectLeg_runs runs due]
  simp only [Bool.not_eq_true']

theorem exec_healthTimeout_early (early : s.healthOver = false) : exec .healthTimeout s = .next s :=
  congrArg _ (if_pos (by simp [early]))

theorem exec_healthTimeout_confirmed (core : s.coreOn = true) (health : s.img.health = true) (passed : s.healthOver = true)
    (confirmed : s.runConfirmed = true) : exec .healthTimeout s = .next { s with img := { s.img with health := false } } := by
  refine congrArg Host.Outcome.next ?_
  rw [effHealthTimeout, if_neg (by simp [core, health, passed]), if_pos confirmed]

/-- Stopping the health engine leaves which image runs. -/
theorem exec_healthTimeout_unconfirmed (core : s.coreOn = true) (health : s.img.health = true) (passed : s.healthOver = true)
    (unconfirmed : s.runConfirmed = false) :
    exec .healthTimeout s = .next
      (let u : State := { s with img := { s.img with health := false } }
       (if (u.engine 31).health = true then u.abortEngine 31 false else u).imgEvent 5 stTimeout (u.img.running % 2) 0) := by
  have abort := @State.abortEngine_only
  refine congrArg Host.Outcome.next ?_
  rw [effHealthTimeout, if_neg (by simp [core, health, passed]), if_neg (by simp [unconfirmed])]
  dsimp only
  split
  · simp only [abort]
  · rfl

end

/-! ### The IMG_ commands (R570, R575, R578) -/

/-- A slot may be written that does not hold the running image, while no running image awaits its confirmation. -/
theorem State.stage_allowed {s : State} {k : Nat} (other : s.img.running ≠ k) (confirmed : s.img.running < 2 → s.runConfirmed = true) :
    ¬ (s.img.running = k ∨ s.img.running < 2 ∧ (!s.runConfirmed) = true) := by
  rintro (same | ⟨runs, unconfirmed⟩)
  · exact other same
  · simp [confirmed runs] at unconfirmed

/-- Settles O57: the boots from `exec_imageApply`, and each command from the checks of its row in their order. -/
theorem imageRows : Obligations.imageRows := by
  refine ⟨?boot, ?confirmLeg, ?healthEarly, ?healthConfirmed, ?healthOver, ?split, State.confirmImage_fuses, ?commands⟩
  case boot =>
    intro s badA badB survey strap unapplied image
    have waits : s.awaitsImage := ⟨survey, strap, unapplied, image⟩
    refine ⟨?first, ?back, ?second⟩
    case first =>
      intro stays good
      rw [exec_imageApply_named waits (State.bootBack_eq_false stays)]
      exact congrArg _ (State.bootEither_first good)
    case back =>
      intro back v good
      rw [exec_imageApply_back waits (State.bootBack_iff.2 back)]
      exact congrArg _ (State.bootEither_first good)
    case second =>
      intro stays fails
      rw [exec_imageApply_named waits (State.bootBack_eq_false stays)]
      obtain ⟨verified, neither⟩ := State.bootEither_second (bad := fun k => if k = 0 then badA else badB) fails
      exact ⟨fun good => congrArg _ (verified good), fun bad => congrArg _ (neither bad)⟩
  case confirmLeg =>
    intro s e v u done runs due
    have run := exec_legConfirmImage runs due
    have able (health : (u.engine e).health = true) (image : u.img.running < 2) :
        ¬ ((u.engine e).health = false ∨ 2 ≤ u.img.running) := not_or.2 ⟨by simp [health], by omega⟩
    refine ⟨fun health image unconfirmed => ?_, fun health image confirmed => ?_, fun unable => ?_⟩
    · exact run.trans (congrArg done ((if_neg (able health image)).trans (if_neg (ne_true_of_eq_false unconfirmed))))
    · exact run.trans (congrArg done ((if_neg (able health image)).trans (if_pos confirmed)))
    · exact run.trans (congrArg done (if_pos unable))
  case healthEarly => exact fun s early => exec_healthTimeout_early early
  case healthConfirmed => exact fun s core health passed confirmed => exec_healthTimeout_confirmed core health passed confirmed
  case healthOver => exact fun s core health passed unconfirmed => exec_healthTimeout_unconfirmed core health passed unconfirmed
  case split =>
    rintro s k _ rfl
    exact s.bootImage_keeps_split k
  case commands =>
    intro c
    dsimp only
    refine ⟨?stagePiece, ?stageGood, ?stageBad, ?stageDenied, ?commitNamed, ?commitStale, ?query, ?confirms, ?confirmedBefore, ?confirmLate,
      ?reverts, ?revertBad, ?revertNotGranted⟩ <;> refine Completes.of (fun _ => rfl) ?_
    case stagePiece =>
      rintro u ⟨⟨auth, other, confirmed⟩, piece⟩
      exact (if_neg (by simp [auth])).trans ((if_neg (State.stage_allowed other confirmed)).trans (if_pos (by simp [piece])))
    case stageGood =>
      rintro u ⟨⟨auth, other, confirmed⟩, last, good⟩
      exact (if_neg (by simp [auth])).trans ((if_neg (State.stage_allowed other confirmed)).trans
        ((if_neg (by simp [last])).trans (if_neg (not_not.2 good))))
    case stageBad =>
      rintro u ⟨⟨auth, other, confirmed⟩, last, bad⟩
      exact (if_neg (by simp [auth])).trans ((if_neg (State.stage_allowed other confirmed)).trans
        ((if_neg (by simp [last])).trans (if_pos bad)))
    case stageDenied =>
      rintro u ⟨auth, same⟩
      exact (if_neg (by simp [auth])).trans (if_pos (.inl same))
    case commitNamed =>
      rintro u ⟨auth, verified, version⟩
      exact (if_neg (by simp [auth])).trans (if_neg (by simp [verified, version]))
    case commitStale =>
      rintro u ⟨auth, stale⟩
      exact (if_neg (by simp [auth])).trans (if_pos (by simpa using stale))
    case query => exact fun u _ => rfl
    case confirms =>
      rintro u ⟨auth, unconfirmed, health, early, runs⟩
      have below : ¬ 2 ≤ u.img.running := by omega
      exact (if_neg (by simp [auth])).trans ((if_neg (by simp [unconfirmed])).trans (if_neg (by simp [health, early, below])))
    case confirmedBefore =>
      rintro u ⟨auth, confirmed⟩
      exact (if_neg (by simp [auth])).trans (if_pos confirmed)
    case confirmLate =>
      rintro u ⟨auth, unconfirmed, late⟩
      have refused : (!u.img.health) = true ∨ u.healthOver = true ∨ 2 ≤ u.img.running := by
        rcases late with late | late <;> simp [late]
      exact (if_neg (by simp [auth])).trans ((if_neg (by simp [unconfirmed])).trans (if_pos refused))
    case reverts =>
      rintro u ⟨auth, good⟩
      exact (if_neg (by simp [auth])).trans (if_neg (not_not.2 good))
    case revertBad =>
      rintro u ⟨auth, bad⟩
      exact (if_neg (by simp [auth])).trans (if_pos bad)
    case revertNotGranted =>
      intro u denied
      exact if_pos (by simp [denied])

end Sys2Proof.Machine
end

section
/-! Which operations leave the retained record (mode, latch, straps, reset) as it was. -/

namespace Sys2Proof.Machine
open Sys2Proof

/-! ### Operations that leave the retained record as it was -/

section
variable {P Q R : Prop} {s t : State}

/-- What the laws of Laws/ say of an operation's parts, read for the retained record. -/
theorem ret_of_only (h : P ∧ Q ∧ t.ret = s.ret ∧ R) : t.ret = s.ret := by
  obtain ⟨_, _, ret, _⟩ := h
  exact ret

/-- The same of an operation that writes the flash. -/
theorem ret_of_only_nv (h : P ∧ t.ret = s.ret ∧ R) : t.ret = s.ret := by
  obtain ⟨_, ret, _⟩ := h
  exact ret

end

@[simp] theorem State.setLink_ret (s : State) (l : Nat) (k : Link) : (s.setLink l k).ret = s.ret :=
  ret_of_only (State.setLink_only ..)
@[simp] theorem State.modLink_ret (s : State) (l : Nat) (f : Link → Link) : (s.modLink l f).ret = s.ret :=
  ret_of_only (State.modLink_only ..)
@[simp] theorem State.drew_ret (s : State) : s.drew.ret = s.ret := ret_of_only (State.drew_only ..)
@[simp] theorem State.emit_ret (s : State) (o : Out) : (s.emit o).ret = s.ret := ret_of_only (State.emit_only ..)
@[simp] theorem State.setSlice_ret (s : State) (k : Nat) (x : Slice) : (s.setSlice k x).ret = s.ret :=
  ret_of_only (State.setSlice_only ..)
@[simp] theorem State.modSlice_ret (s : State) (k : Nat) (f : Slice → Slice) : (s.modSlice k f).ret = s.ret :=
  ret_of_only (State.modSlice_only ..)
@[simp] theorem State.setHport_ret (s : State) (p : Nat) (h : HPort) : (s.setHport p h).ret = s.ret :=
  ret_of_only (State.setHport_only ..)
@[simp] theorem State.flushHeld_ret (s : State) (k : Nat) (y0 : Nat) : (s.flushHeld k y0).ret = s.ret :=
  ret_of_only (State.flushHeld_only ..)
@[simp] theorem State.report_ret (s : State) (h k typ status idx : Nat) (ws : List Word) : (s.report h k typ status idx ws).ret = s.ret :=
  ret_of_only (State.report_only ..)
@[simp] theorem State.reportBoth_ret (s : State) (typ status idx : Nat) (ws : List Word) : (s.reportBoth typ status idx ws).ret = s.ret :=
  ret_of_only (State.reportBoth_only ..)
@[simp] theorem State.imgEvent_ret (s : State) (reason status slot value : Nat) : (s.imgEvent reason status slot value).ret = s.ret :=
  ret_of_only (State.imgEvent_only ..)
@[simp] theorem State.complete_ret (s : State) (c : Cmd) (st : Nat) (ws : List Word) : (s.complete c st ws).ret = s.ret :=
  ret_of_only (State.complete_only ..)
@[simp] theorem State.completeOpt_ret (s : State) (c : Option Cmd) (st : Nat) : (s.completeOpt c st).ret = s.ret :=
  ret_of_only (State.completeOpt_only ..)
@[simp] theorem State.output_ret (s : State) (c : Cmd) (iova : Nat) (bs : List Byte) : (s.output c iova bs).ret = s.ret :=
  ret_of_only (State.output_only ..)
@[simp] theorem State.ended_ret (s : State) : s.ended.ret = s.ret := ret_of_only (State.ended_only ..)
@[simp] theorem State.begins_ret (s : State) (c : Cmd) : (s.begins c).ret = s.ret := ret_of_only (State.begins_only ..)
@[simp] theorem State.schedAdvance_ret (s : State) (l : Nat) : (s.schedAdvance l).ret = s.ret :=
  ret_of_only (State.schedAdvance_only ..)
@[simp] theorem State.modGaz_ret (s : State) (t : Nat) (f : Gaz → Gaz) : (s.modGaz t f).ret = s.ret :=
  ret_of_only (State.modGaz_only ..)
@[simp] theorem State.hopRecord_ret (s : State) (t : Nat) : (s.hopRecord t).2.ret = s.ret := ret_of_only (State.hopRecord_only ..)
@[simp] theorem State.setMac_ret (s : State) (m : Nat) (x : Mac) : (s.setMac m x).ret = s.ret :=
  ret_of_only (State.setMac_only ..)
@[simp] theorem State.modMac_ret (s : State) (m : Nat) (f : Mac → Mac) : (s.modMac m f).ret = s.ret :=
  ret_of_only (State.modMac_only ..)
@[simp] theorem State.setHead_ret (s : State) (i : Nat) (h : Head) : (s.setHead i h).ret = s.ret :=
  ret_of_only (State.setHead_only ..)
@[simp] theorem State.modHead_ret (s : State) (i : Nat) (f : Head → Head) : (s.modHead i f).ret = s.ret :=
  ret_of_only (State.modHead_only ..)
@[simp] theorem State.setPlane_ret (s : State) (i : Nat) (p : Plane) : (s.setPlane i p).ret = s.ret :=
  ret_of_only (State.setPlane_only ..)
@[simp] theorem State.setSource_ret (s : State) (t : Nat) (x : Source) : (s.setSource t x).ret = s.ret :=
  ret_of_only (State.setSource_only ..)
@[simp] theorem State.dispAlert_ret (s : State) (i reason status cause region v1 v2 : Nat) :
    (s.dispAlert i reason status cause region v1 v2).ret = s.ret :=
  ret_of_only (State.dispAlert_only ..)
@[simp] theorem State.applySrc_ret (s : State) (t : Nat) : (s.applySrc t).ret = s.ret := ret_of_only (State.applySrc_only ..)
@[simp] theorem State.stopSources_ret (s : State) (k : Nat) : (s.stopSources k).ret = s.ret :=
  ret_of_only (State.stopSources_only ..)
@[simp] theorem State.takeCommit_ret (s : State) (i : Nat) (cmds : List Cmd) (fk lk : Bool) (ln : Nat) :
    (s.takeCommit i cmds fk lk ln).ret = s.ret :=
  ret_of_only (State.takeCommit_only ..)
@[simp] theorem State.modPort_ret (s : State) (p : Nat) (f : PwrPort → PwrPort) : (s.modPort p f).ret = s.ret :=
  ret_of_only (State.modPort_only ..)
@[simp] theorem State.sbSend_ret (s : State) (p link : Nat) (f : SbFrame) : (s.sbSend p link f).ret = s.ret :=
  ret_of_only (State.sbSend_only ..)
@[simp] theorem State.sbPush_ret (s : State) (p l typ : Nat) (payload : List Byte) : (s.sbPush p l typ payload).ret = s.ret :=
  ret_of_only (State.sbPush_only ..)
@[simp] theorem State.pushIdent_ret (s : State) (p l : Nat) : (s.pushIdent p l).ret = s.ret :=
  ret_of_only (State.pushIdent_only ..)
@[simp] theorem State.pushIdents_ret (s : State) : s.pushIdents.ret = s.ret := ret_of_only (State.pushIdents_only ..)
@[simp] theorem State.endContract_ret (s : State) (p st : Nat) : (s.endContract p st).ret = s.ret :=
  ret_of_only (State.endContract_only ..)
@[simp] theorem State.endSwapCmd_ret (s : State) (p st : Nat) : (s.endSwapCmd p st).ret = s.ret :=
  ret_of_only (State.endSwapCmd_only ..)
@[simp] theorem State.endArm_ret (s : State) (p : Nat) : (s.endArm p).ret = s.ret := ret_of_only (State.endArm_only ..)
@[simp] theorem State.pushCaps_ret (s : State) (p : Nat) : (s.pushCaps p).ret = s.ret := ret_of_only (State.pushCaps_only ..)
@[simp] theorem State.tryCaps_ret (s : State) (p : Nat) : (s.tryCaps p).ret = s.ret := ret_of_only (State.tryCaps_only ..)
@[simp] theorem State.keepUpdate_ret (s : State) (p : Nat) : (s.keepUpdate p).ret = s.ret :=
  ret_of_only (State.keepUpdate_only ..)
@[simp] theorem State.attachPower_ret (s : State) (p : Nat) : (s.attachPower p).ret = s.ret :=
  ret_of_only (State.attachPower_only ..)
@[simp] theorem State.backToAttaching_ret (s : State) (p : Nat) : (s.backToAttaching p).ret = s.ret :=
  ret_of_only (State.backToAttaching_only ..)
@[simp] theorem State.powerFault_ret (s : State) (p cause reason : Nat) : (s.powerFault p cause reason).ret = s.ret :=
  ret_of_only (State.powerFault_only ..)
@[simp] theorem State.sbLost_ret (s : State) (p l : Nat) : (s.sbLost p l).ret = s.ret := ret_of_only (State.sbLost_only ..)
@[simp] theorem State.sbDiscard_ret (s : State) (p : Nat) (f : SbFrame) : (s.sbDiscard p f).ret = s.ret :=
  ret_of_only (State.sbDiscard_only ..)
@[simp] theorem State.sbReceive_ret (s : State) (p : Nat) (f : SbFrame) : (s.sbReceive p f).1.ret = s.ret :=
  ret_of_only (State.sbReceive_only ..)
@[simp] theorem State.linkEvent_ret (s : State) (l old new status : Nat) (epNew epEnd : Bool) (cause : Nat) :
    (s.linkEvent l old new status epNew epEnd cause).ret = s.ret :=
  ret_of_only (State.linkEvent_only ..)
@[simp] theorem State.endLinkCmd_ret (s : State) (l st : Nat) : (s.endLinkCmd l st).ret = s.ret :=
  ret_of_only (State.endLinkCmd_only ..)
@[simp] theorem State.sendRate_ret (s : State) (l limit : Nat) (announce : Bool) : (s.sendRate l limit announce).ret = s.ret :=
  ret_of_only (State.sendRate_only ..)
@[simp] theorem State.newAttempt_ret (s : State) (l limit : Nat) (announce : Bool) : (s.newAttempt l limit announce).ret = s.ret :=
  ret_of_only (State.newAttempt_only ..)
@[simp] theorem State.trainFail_ret (s : State) (l : Nat) : (s.trainFail l).ret = s.ret := ret_of_only (State.trainFail_only ..)
@[simp] theorem State.requestRetrain_ret (s : State) (l cause : Nat) : (s.requestRetrain l cause).ret = s.ret :=
  ret_of_only (State.requestRetrain_only ..)
@[simp] theorem State.joinRetrain_ret (s : State) (l : Nat) (c : Cmd) : (s.joinRetrain l c).ret = s.ret :=
  ret_of_only (State.joinRetrain_only ..)
@[simp] theorem State.fieldMoves_ret (s : State) : s.fieldMoves.ret = s.ret := ret_of_only (State.fieldMoves_only ..)
@[simp] theorem State.sendSym_ret (s : State) (l : Nat) (x : LaneSym) : (s.sendSym l x).ret = s.ret :=
  ret_of_only (State.sendSym_only ..)
@[simp] theorem State.waveViols_ret (s : State) (l : Nat) (w : Wave) : (s.waveViols l w).ret = s.ret :=
  ret_of_only (State.waveViols_only ..)
@[simp] theorem State.takeLcp_ret (s : State) (l : Nat) (w : Wave) : (s.takeLcp l w).1.ret = s.ret :=
  ret_of_only (State.takeLcp_only ..)
@[simp] theorem State.sendFc_ret (s : State) (l : Nat) (init hi : Bool) : (s.sendFc l init hi).ret = s.ret :=
  ret_of_only (State.sendFc_only ..)
@[simp] theorem State.wakeTx_ret (s : State) (l : Nat) : (s.wakeTx l).ret = s.ret := ret_of_only (State.wakeTx_only ..)
@[simp] theorem State.freeCredits_ret (s : State) (l tc n : Nat) : (s.freeCredits l tc n).ret = s.ret :=
  ret_of_only (State.freeCredits_only ..)
@[simp] theorem State.noteOver_ret (s : State) (l : Nat) : (s.noteOver l).ret = s.ret := ret_of_only (State.noteOver_only ..)
@[simp] theorem State.setGateIdx_ret (s : State) (l : Nat) : (s.setGateIdx l).ret = s.ret :=
  ret_of_only (State.setGateIdx_only ..)
@[simp] theorem State.gateCommit_ret (s : State) (l slot at' : Nat) : (s.gateCommit l slot at').ret = s.ret :=
  ret_of_only (State.gateCommit_only ..)
@[simp] theorem State.setClass_ret (s : State) (c : Cmd) (l : Nat) : (s.setClass c l).ret = s.ret :=
  ret_of_only (State.setClass_only ..)
@[simp] theorem State.setUport_ret (s : State) (p : Nat) (u : UPort) : (s.setUport p u).ret = s.ret :=
  ret_of_only (State.setUport_only ..)
@[simp] theorem State.modUport_ret (s : State) (p : Nat) (f : UPort → UPort) : (s.modUport p f).ret = s.ret :=
  ret_of_only (State.modUport_only ..)
@[simp] theorem State.usbEvent_ret (s : State) (p reason status value : Nat) : (s.usbEvent p reason status value).ret = s.ret :=
  ret_of_only (State.usbEvent_only ..)
@[simp] theorem State.raiseGen_ret (s : State) (p : Nat) : (s.raiseGen p).ret = s.ret := ret_of_only (State.raiseGen_only ..)
@[simp] theorem State.clearAddrs_ret (s : State) (p : Nat) : (s.clearAddrs p).ret = s.ret :=
  ret_of_only (State.clearAddrs_only ..)
@[simp] theorem State.portMsg_ret (s : State) (p code : Nat) : (s.portMsg p code).ret = s.ret :=
  ret_of_only (State.portMsg_only ..)
@[simp] theorem State.usbRepower_ret (s : State) (p : Nat) : (s.usbRepower p).ret = s.ret :=
  ret_of_only (State.usbRepower_only ..)
@[simp] theorem State.ocDone_ret (s : State) (p : Nat) : (s.ocDone p).ret = s.ret := ret_of_only (State.ocDone_only ..)
@[simp] theorem State.busReset_ret (s : State) : s.busReset.ret = s.ret := ret_of_only (State.busReset_only ..)
@[simp] theorem State.usbAttach_ret (s : State) : s.usbAttach.ret = s.ret := ret_of_only (State.usbAttach_only ..)
@[simp] theorem State.usbDetachAll_ret (s : State) : s.usbDetachAll.ret = s.ret := ret_of_only (State.usbDetachAll_only ..)
@[simp] theorem State.timePinEdges_ret (s t : State) : (s.timePinEdges t).ret = t.ret := ret_of_only (State.timePinEdges_only ..)
@[simp] theorem State.outputsLow_ret (s : State) : s.outputsLow.ret = s.ret := ret_of_only (State.outputsLow_only ..)
@[simp] theorem State.errReport_ret (s : State) (r : ErrRep) : (s.errReport r).ret = s.ret :=
  ret_of_only (State.errReport_only ..)
@[simp] theorem State.setCan_ret (s : State) (n : Nat) (x : Can) : (s.setCan n x).ret = s.ret :=
  ret_of_only (State.setCan_only ..)
@[simp] theorem State.modCan_ret (s : State) (n : Nat) (f : Can → Can) : (s.modCan n f).ret = s.ret :=
  ret_of_only (State.modCan_only ..)
@[simp] theorem State.canCount_ret (s : State) (n i k : Nat) : (s.canCount n i k).ret = s.ret :=
  ret_of_only (State.canCount_only ..)
@[simp] theorem State.claimStart_ret (s : State) (n : Nat) : (s.claimStart n).ret = s.ret :=
  ret_of_only (State.claimStart_only ..)
@[simp] theorem State.abortSends_ret (s : State) (qs : List CanQ) : (s.abortSends qs).ret = s.ret :=
  ret_of_only (State.abortSends_only ..)
@[simp] theorem effCanBusOff_ret (ctrl : Nat) (s : State) : (effCanBusOff ctrl s).ret = s.ret :=
  ret_of_only (effCanBusOff_only ..)
@[simp] theorem State.canTimed_ret (s : State) (n : Nat) (f : CanFrame) (due : Nat) (cmd : Option Cmd) (owner : Nat × Nat) :
    (s.canTimed n f due cmd owner).1.ret = s.ret :=
  ret_of_only (State.canTimed_only ..)
@[simp] theorem State.mdioStart_ret (s : State) : s.mdioStart.ret = s.ret := ret_of_only (State.mdioStart_only ..)
@[simp] theorem State.macRestart_ret (s : State) (m : Nat) : (s.macRestart m).ret = s.ret :=
  ret_of_only (State.macRestart_only ..)
@[simp] theorem State.macCfg_ret (s : State) (m mode mtu inLat egLat : Nat) (an : Bool) :
    (s.macCfg m mode mtu inLat egLat an).ret = s.ret :=
  ret_of_only (State.macCfg_only ..)
@[simp] theorem State.ringCfg_ret (s : State) (c : Cmd) : (s.ringCfg c).ret = s.ret := ret_of_only (State.ringCfg_only ..)
@[simp] theorem State.setSq_ret (s : State) (k q : Nat) (x : SubQ) : (s.setSq k q x).ret = s.ret :=
  ret_of_only (State.setSq_only ..)
@[simp] theorem State.sendPosted_ret (s : State) (k : Nat) : (s.sendPosted k).ret = s.ret :=
  ret_of_only (State.sendPosted_only ..)
@[simp] theorem State.hostRegWrite_ret (s : State) (p off v : Nat) : (s.hostRegWrite p off v).ret = s.ret :=
  ret_of_only (State.hostRegWrite_only ..)
@[simp] theorem State.setWnd_ret (s : State) (w : Nat) (x : Win) : (s.setWnd w x).ret = s.ret :=
  ret_of_only (State.setWnd_only ..)
@[simp] theorem State.modWnd_ret (s : State) (w : Nat) (f : Win → Win) : (s.modWnd w f).ret = s.ret :=
  ret_of_only (State.modWnd_only ..)
@[simp] theorem State.winCount_ret (s : State) (w i : Nat) : (s.winCount w i).ret = s.ret := ret_of_only (State.winCount_only ..)
@[simp] theorem State.winErr_ret (s : State) (w reason result off rseq : Nat) : (s.winErr w reason result off rseq).ret = s.ret :=
  ret_of_only (State.winErr_only ..)
@[simp] theorem State.setSem_ret (s : State) (n : Nat) (x : Sem) : (s.setSem n x).ret = s.ret :=
  ret_of_only (State.setSem_only ..)
@[simp] theorem State.semDone_ret (s : State) (c : Cmd) (n st : Nat) : (s.semDone c n st).ret = s.ret :=
  ret_of_only (State.semDone_only ..)
@[simp] theorem State.semNext_ret (s : State) (n : Nat) : (s.semNext n).ret = s.ret := ret_of_only (State.semNext_only ..)
@[simp] theorem State.present_ret (s : State) : s.present.ret = s.ret := ret_of_only (State.present_only ..)
@[simp] theorem State.farWin_ret (s : State) (t op : Nat) (bytes : List Byte) : (s.farWin t op bytes).ret = s.ret :=
  ret_of_only (State.farWin_only ..)
@[simp] theorem State.winDrained_ret (s : State) (w : Nat) : (s.winDrained w).ret = s.ret :=
  ret_of_only (State.winDrained_only ..)
@[simp] theorem State.finishReq_ret (s : State) (w : Nat) (r : WinReq) (st : Nat) (data : List Byte) :
    (s.finishReq w r st data).ret = s.ret :=
  ret_of_only (State.finishReq_only ..)
@[simp] theorem State.winAbort_ret (s : State) (w : Nat) : (s.winAbort w).ret = s.ret := ret_of_only (State.winAbort_only ..)
@[simp] theorem State.winRebind_ret (s : State) (k : Nat) : (s.winRebind k).ret = s.ret := ret_of_only (State.winRebind_only ..)
@[simp] theorem State.setEntry_ret (s : State) (t : Nat) (g : Gaz) : (s.setEntry t g).ret = s.ret :=
  ret_of_only (State.setEntry_only ..)
@[simp] theorem State.closeEntry_ret (s : State) (t : Nat) : (s.closeEntry t).ret = s.ret :=
  ret_of_only (State.closeEntry_only ..)
@[simp] theorem State.tunnelState_ret (s : State) (t status : Nat) : (s.tunnelState t status).ret = s.ret :=
  ret_of_only (State.tunnelState_only ..)
@[simp] theorem State.suspendLink_ret (s : State) (l : Nat) : (s.suspendLink l).ret = s.ret :=
  ret_of_only (State.suspendLink_only ..)
@[simp] theorem State.tunAck_ret (s : State) (tag t status : Nat) : (s.tunAck tag t status).ret = s.ret :=
  ret_of_only (State.tunAck_only ..)
@[simp] theorem State.safeTunnels_ret (s : State) : s.safeTunnels.ret = s.ret := ret_of_only (State.safeTunnels_only ..)
@[simp] theorem State.renumberOwn_ret (s : State) (n : Nat) : (s.renumberOwn n).ret = s.ret :=
  ret_of_only (State.renumberOwn_only ..)
@[simp] theorem State.winAsk_ret (s : State) (c : Option Cmd) (t : Nat) (again : Bool) : (s.winAsk c t again).ret = s.ret :=
  ret_of_only (State.winAsk_only s c t again)
@[simp] theorem State.hopWindow_ret (s : State) (c : Cmd) : (s.hopWindow c).ret = s.ret := ret_of_only (State.hopWindow_only ..)
@[simp] theorem State.hopBound_ret (s : State) (c : Cmd) : (s.hopBound c).ret = s.ret := ret_of_only (State.hopBound_only ..)
@[simp] theorem State.modEngine_ret (s : State) (e : Nat) (f : Engine → Engine) : (s.modEngine e f).ret = s.ret :=
  ret_of_only (State.modEngine_only ..)
@[simp] theorem State.wakeEngine_ret (s : State) (e : Nat) (st : EngSt) : (s.wakeEngine e st).ret = s.ret :=
  ret_of_only (State.wakeEngine_only ..)
@[simp] theorem State.stopEngine_ret (s : State) (e : Nat) (safe : Bool) : (s.stopEngine e safe).ret = s.ret :=
  ret_of_only (State.stopEngine_only ..)
@[simp] theorem State.abortEngine_ret (s : State) (e : Nat) (safe : Bool) : (s.abortEngine e safe).ret = s.ret :=
  ret_of_only (State.abortEngine_only ..)
@[simp] theorem State.abortedEvent_ret (s : State) (e status launch : Nat) : (s.abortedEvent e status launch).ret = s.ret :=
  ret_of_only (State.abortedEvent_only ..)
@[simp] theorem State.haltEngines_ret (s : State) : s.haltEngines.ret = s.ret := ret_of_only (State.haltEngines_only ..)
@[simp] theorem State.travStep_ret (s : State) (old : Nat) (by250 : Int) : (s.travStep old by250).ret = s.ret :=
  ret_of_only (State.travStep_only ..)
@[simp] theorem State.abortLaunch_ret (s : State) (x : Launch) : (s.abortLaunch x).ret = s.ret :=
  ret_of_only (State.abortLaunch_only ..)
@[simp] theorem State.modeEvent_ret (s : State) (old new : Mode) (cause : Nat) : (s.modeEvent old new cause).ret = s.ret :=
  ret_of_only (State.modeEvent_only ..)
@[simp] theorem State.timeAlert_ret (s : State) (reason status link : Nat) (step : Int) (extra : Nat) :
    (s.timeAlert reason status link step extra).ret = s.ret :=
  ret_of_only (State.timeAlert_only ..)
@[simp] theorem State.holdTime_ret (s : State) : s.holdTime.ret = s.ret := ret_of_only (State.holdTime_only ..)
@[simp] theorem State.sendTime_ret (s : State) (step : Option Step) (links : List Nat) : (s.sendTime step links).ret = s.ret :=
  ret_of_only (State.sendTime_only ..)
@[simp] theorem State.moveElapsed_ret (s : State) (by250 byNs byFine byUnit : Int) :
    (s.moveElapsed by250 byNs byFine byUnit).ret = s.ret :=
  ret_of_only (State.moveElapsed_only ..)
@[simp] theorem State.announce_ret (s : State) (p : Step) : (s.announce p).ret = s.ret := ret_of_only (State.announce_only ..)
@[simp] theorem State.lockCount_ret (s : State) (th : Int) (limIn limOut need : Nat) : (s.lockCount th limIn limOut need).ret = s.ret :=
  ret_of_only (State.lockCount_only ..)
@[simp] theorem State.sourceBack_ret (s : State) : s.sourceBack.ret = s.ret := ret_of_only (State.sourceBack_only ..)
@[simp] theorem State.timeNewEpoch_ret (s : State) : s.timeNewEpoch.ret = s.ret := ret_of_only (State.timeNewEpoch_only ..)
@[simp] theorem State.stampEvent_ret (s : State) (p : StampIn) (src since : Nat) (rising : Bool) :
    (s.stampEvent p src since rising).1.ret = s.ret :=
  ret_of_only (State.stampEvent_only ..)
@[simp] theorem State.setStamp_ret (s : State) (i : Nat) (p : StampIn) : (s.setStamp i p).ret = s.ret :=
  ret_of_only (State.setStamp_only ..)
@[simp] theorem State.rootClose_ret (s : State) (t : Nat) (event : Option Nat) (asker : Option (Nat × Nat)) :
    (s.rootClose t event asker).ret = s.ret :=
  ret_of_only (State.rootClose_only s t event asker)
@[simp] theorem State.lapse_ret (s : State) : s.lapse.ret = s.ret := ret_of_only (State.lapse_only ..)
@[simp] theorem State.sendLinkchg_ret (s : State) (l event : Nat) (cfg : BitVec 8) (unit : BitVec 64) :
    (s.sendLinkchg l event cfg unit).ret = s.ret :=
  ret_of_only (State.sendLinkchg_only ..)
@[simp] theorem State.hotAttach_ret (s : State) (h : HelloRec) : (s.hotAttach h).ret = s.ret :=
  ret_of_only (State.hotAttach_only ..)
@[simp] theorem State.sendHello_ret (s : State) : s.sendHello.ret = s.ret := ret_of_only (State.sendHello_only ..)
@[simp] theorem State.clearRoutes_ret (s : State) : s.clearRoutes.ret = s.ret := ret_of_only (State.clearRoutes_only ..)
@[simp] theorem State.evict_ret (s : State) (n : Nat) (asker : Nat × Nat) : (s.evict n asker).ret = s.ret :=
  ret_of_only (State.evict_only ..)
@[simp] theorem State.readmit_ret (s : State) (n : Nat) : (s.readmit n).ret = s.ret := ret_of_only (State.readmit_only ..)
@[simp] theorem State.tunCmd_ret (s : State) (c : Cmd) (kind : TunOpKind) : (s.tunCmd c kind).ret = s.ret :=
  ret_of_only (State.tunCmd_only ..)
@[simp] theorem State.doneSlice_ret (s : State) (c : Cmd) (k st : Nat) : (s.doneSlice c k st).ret = s.ret :=
  ret_of_only (State.doneSlice_only ..)
@[simp] theorem State.endDestroy_ret (s : State) (k : Nat) : (s.endDestroy k).ret = s.ret :=
  ret_of_only (State.endDestroy_only ..)
@[simp] theorem State.moveHop_ret (s : State) (c : Cmd) : (s.moveHop c).ret = s.ret := ret_of_only (State.moveHop_only ..)
@[simp] theorem State.moveGoOn_ret (s : State) : s.moveGoOn.ret = s.ret := ret_of_only (State.moveGoOn_only ..)
@[simp] theorem State.noteRole_ret (s : State) : s.noteRole.ret = s.ret := ret_of_only (State.noteRole_only ..)
@[simp] theorem State.dropQueue_ret (s : State) (l : Nat) : (s.dropQueue l).ret = s.ret := ret_of_only (State.dropQueue_only ..)
@[simp] theorem State.closeRoutes_ret (s : State) (l : Nat) : (s.closeRoutes l).ret = s.ret :=
  ret_of_only (State.closeRoutes_only ..)
@[simp] theorem State.windowsAgain_ret (s : State) (l : Nat) : (s.windowsAgain l).ret = s.ret :=
  ret_of_only (State.windowsAgain_only ..)
@[simp] theorem State.newEpochOn_ret (s : State) (l : Nat) (unit : BitVec 64) (cfgGen : BitVec 8) (upf : Bool) (hub : Option Nat)
    (epoch : BitVec 8) (cont : Bool) (nonce : Word) :
    (s.newEpochOn l unit cfgGen upf hub epoch cont nonce).ret = s.ret :=
  ret_of_only (State.newEpochOn_only ..)
@[simp] theorem State.forwardPkt_ret (s : State) (l : Nat) (p : TxPkt) : (s.forwardPkt l p).ret = s.ret :=
  ret_of_only (State.forwardPkt_only ..)
@[simp] theorem State.setDom_ret (s : State) (d : Nat) (x : DomErr) : (s.setDom d x).ret = s.ret :=
  ret_of_only (State.setDom_only ..)
@[simp] theorem State.modDom_ret (s : State) (d : Nat) (f : DomErr → DomErr) : (s.modDom d f).ret = s.ret :=
  ret_of_only (State.modDom_only ..)
@[simp] theorem State.noteErr_ret (s : State) (d check : Nat) : (s.noteErr d check).ret = s.ret :=
  ret_of_only (State.noteErr_only ..)
@[simp] theorem State.noteFatal_ret (s : State) (r : ErrRep) : (s.noteFatal r).ret = s.ret :=
  ret_of_only (State.noteFatal_only ..)
@[simp] theorem State.setBoot_ret (s : State) (f : DataArea → DataArea) : (s.setBoot f).ret = s.ret :=
  ret_of_only_nv (State.setBoot_only ..)
@[simp] theorem State.storeBlob_ret (s : State) (k : Nat) (b : List Byte) : (s.storeBlob k b).ret = s.ret :=
  ret_of_only_nv (State.storeBlob_only ..)
@[simp] theorem State.storePair_ret (s : State) (iv : List Byte) (p : PairRec) : (s.storePair iv p).ret = s.ret :=
  ret_of_only_nv (State.storePair_only ..)
@[simp] theorem State.dropPair_ret (s : State) (p : PairRec) : (s.dropPair p).ret = s.ret :=
  ret_of_only_nv (State.dropPair_only ..)
@[simp] theorem State.areaBoot_ret (s : State) : s.areaBoot.ret = s.ret := ret_of_only_nv (State.areaBoot_only ..)
@[simp] theorem State.drbg_ret (s : State) (n : Nat) : (s.drbg n).2.ret = s.ret := ret_of_only (State.drbg_only ..)
@[simp] theorem State.putKey_ret (s : State) (k typ attr : Nat) (keyid : Word) (exportable : Bool) (origin : Nat) (key : List Byte) :
    (s.putKey k typ attr keyid exportable origin key).ret = s.ret :=
  ret_of_only (State.putKey_only ..)
@[simp] theorem State.pairEvent_ret (s : State) (l reason : Nat) (value : Word) : (s.pairEvent l reason value).ret = s.ret :=
  ret_of_only (State.pairEvent_only ..)
@[simp] theorem State.makeBlob_ret (s : State) (x : KeySlot) : (s.makeBlob x).2.ret = s.ret :=
  ret_of_only (State.makeBlob_only ..)
@[simp] theorem State.loadBlob_ret (s : State) (k : Nat) (b : List Byte) : (s.loadBlob k b).ret = s.ret :=
  ret_of_only (State.loadBlob_only ..)
@[simp] theorem State.preloadImage_ret (s : State) : s.preloadImage.ret = s.ret := ret_of_only (State.preloadImage_only ..)
@[simp] theorem State.keysReload_ret (s : State) : s.keysReload.ret = s.ret := ret_of_only (State.keysReload_only ..)
@[simp] theorem State.keysFatal_ret (s : State) : s.keysFatal.ret = s.ret := ret_of_only (State.keysFatal_only ..)
@[simp] theorem State.destroySlot_ret (s : State) (k : Nat) (persisted : Bool) (bad : Option Nat) :
    (s.destroySlot k persisted bad).ret = s.ret :=
  ret_of_only_nv (State.destroySlot_only ..)
@[simp] theorem State.closeSealed_ret (s : State) (h l : Nat) (asker : Nat × Nat) : (s.closeSealed h l asker).ret = s.ret :=
  ret_of_only (State.closeSealed_only ..)
@[simp] theorem State.ppsSecond_ret (s : State) (sec : Nat) : (s.ppsSecond sec).ret = s.ret :=
  ret_of_only (State.ppsSecond_only ..)
@[simp] theorem State.ppsCount_ret (s : State) (inside : Bool) : (s.ppsCount inside).ret = s.ret :=
  ret_of_only (State.ppsCount_only ..)
@[simp] theorem State.ppsQuiet_ret (s : State) : s.ppsQuiet.ret = s.ret := ret_of_only (State.ppsQuiet_only ..)
@[simp] theorem State.ppsDiscard_ret (s : State) : s.ppsDiscard.ret = s.ret := ret_of_only (State.ppsDiscard_only ..)
@[simp] theorem State.setTimeOut_ret (s : State) (pin : Nat) (x : TimeOut) : (s.setTimeOut pin x).ret = s.ret :=
  ret_of_only (State.setTimeOut_only ..)
@[simp] theorem State.resetSlice_ret (s : State) (k : Nat) (queues : Bool) : (s.resetSlice k queues).ret = s.ret :=
  ret_of_only (State.resetSlice_only ..)
@[simp] theorem State.doneGrant_ret (s : State) (c : Cmd) (st : Nat) : (s.doneGrant c st).ret = s.ret :=
  ret_of_only (State.doneGrant_only ..)
@[simp] theorem State.beginRevoke_ret (s : State) (g : Grant) (safe : Bool) (cmd : Option Cmd) : (s.beginRevoke g safe cmd).ret = s.ret :=
  ret_of_only_nv (State.beginRevoke_only ..)
@[simp] theorem State.stripHolder_ret (s : State) (h k : Nat) : (s.stripHolder h k).ret = s.ret :=
  ret_of_only_nv (State.stripHolder_only ..)
@[simp] theorem State.farDestroy_ret (s : State) (c : Cmd) : (s.farDestroy c).ret = s.ret :=
  ret_of_only_nv (State.farDestroy_only ..)
@[simp] theorem State.destroyElsewhere_ret (s : State) (c : Cmd) (k : Nat) : (s.destroyElsewhere c k).ret = s.ret :=
  ret_of_only (State.destroyElsewhere_only ..)
@[simp] theorem State.moveEps_ret (s : State) (k port : Nat) : (s.moveEps k port).ret = s.ret :=
  ret_of_only (State.moveEps_only ..)
@[simp] theorem State.sendRequest_ret (s : State) (p idx v i : Nat) : (s.sendRequest p idx v i).ret = s.ret :=
  ret_of_only (State.sendRequest_only ..)
@[simp] theorem State.sendSwap_ret (s : State) (p r : Nat) : (s.sendSwap p r).ret = s.ret := ret_of_only (State.sendSwap_only ..)
@[simp] theorem State.pwrSafe_ret (s : State) : s.pwrSafe.ret = s.ret := ret_of_only (State.pwrSafe_only ..)
@[simp] theorem State.pwrLeave_ret (s : State) : s.pwrLeave.ret = s.ret := ret_of_only (State.pwrLeave_only ..)
@[simp] theorem State.pinsToSafe_ret (s : State) : s.pinsToSafe.ret = s.ret := ret_of_only (State.pinsToSafe_only ..)
@[simp] theorem State.headSafe_ret (s : State) (i : Nat) : (s.headSafe i).ret = s.ret := ret_of_only (State.headSafe_only ..)
@[simp] theorem State.randomLink_ret (s : State) (l : Nat) : (s.randomLink l).ret = s.ret :=
  ret_of_only (State.randomLink_only ..)
@[simp] theorem State.identKept_ret (s : State) (l : Nat) : (s.identKept l).ret = s.ret := ret_of_only (State.identKept_only ..)
@[simp] theorem State.linkFatal_ret (s : State) (l : Nat) : (s.linkFatal l).ret = s.ret := ret_of_only (State.linkFatal_only ..)
@[simp] theorem State.arrayHit_ret (s : State) (h : Hit) : (s.arrayHit h).ret = s.ret := ret_of_only_nv (State.arrayHit_only ..)
@[simp] theorem State.resetPortSlices_ret (s : State) (port : Nat) : (s.resetPortSlices port).ret = s.ret :=
  ret_of_only (State.resetPortSlices_only ..)
@[simp] theorem State.engFatal_ret (s : State) (e : Nat) : (s.engFatal e).ret = s.ret := ret_of_only (State.engFatal_only ..)
@[simp] theorem State.endRecoveries_ret (s : State) : s.endRecoveries.ret = s.ret := ret_of_only (State.endRecoveries_only ..)
@[simp] theorem State.recover_ret (s : State) (d : Nat) (h : Hit) (inj esc : Bool) : (s.recover d h inj esc).ret = s.ret :=
  ret_of_only (State.recover_only ..)
@[simp] theorem State.corrected_ret (s : State) (h : Hit) (inj : Bool) : (s.corrected h inj).ret = s.ret :=
  ret_of_only (State.corrected_only ..)
@[simp] theorem State.launchEngine_ret (s : State) (e at250 : Nat) : (s.launchEngine e at250).ret = s.ret :=
  ret_of_only (State.launchEngine_only ..)
@[simp] theorem State.resumeEngine_ret (s : State) (e : Nat) (rebase : Bool) : (s.resumeEngine e rebase).ret = s.ret :=
  ret_of_only (State.resumeEngine_only ..)
@[simp] theorem State.treeLaunch_ret (s : State) (c : Cmd) (t : Nat) : (s.treeLaunch c t).ret = s.ret :=
  ret_of_only (State.treeLaunch_only ..)
@[simp] theorem State.cfgPin_ret (s : State) (c : Cmd) (n : Nat) : (s.cfgPin c n).ret = s.ret :=
  ret_of_only (State.cfgPin_only ..)
@[simp] theorem State.setSlot_ret (s : State) (k : Nat) (x : FlashSlot) : (s.setSlot k x).ret = s.ret :=
  ret_of_only_nv (State.setSlot_only ..)
@[simp] theorem State.setPage_ret (s : State) (k : Nat) (r : ImgRec) : (s.setPage k r).ret = s.ret :=
  ret_of_only (State.setPage_only ..)
@[simp] theorem State.captureDefault_ret (s : State) : s.captureDefault.ret = s.ret := ret_of_only (State.captureDefault_only ..)
@[simp] theorem State.applyPower_ret (s : State) (rs : List ImgRec) (p : Nat) : (s.applyPower rs p).ret = s.ret :=
  ret_of_only (State.applyPower_only ..)
@[simp] theorem State.migrate_ret (s : State) (ver : Nat) : (s.migrate ver).ret = s.ret := ret_of_only_nv (State.migrate_only ..)
@[simp] theorem State.startLinks_ret (s : State) : s.startLinks.ret = s.ret := ret_of_only (State.startLinks_only ..)
@[simp] theorem State.confirmImage_ret (s : State) : s.confirmImage.ret = s.ret := ret_of_only_nv (State.confirmImage_only ..)
@[simp] theorem State.takeRate_ret (s : State) (k rate width attempt : Nat) (announce : Bool) :
    (s.takeRate k rate width attempt announce).ret = s.ret :=
  ret_of_only (State.takeRate_only ..)
@[simp] theorem State.dozeTo_ret (s : State) (l : Nat) (d : Doze) : (s.dozeTo l d).ret = s.ret :=
  ret_of_only (State.dozeTo_only ..)
@[simp] theorem State.endPattern_ret (s : State) (l : Nat) : (s.endPattern l).ret = s.ret :=
  ret_of_only (State.endPattern_only ..)
@[simp] theorem State.patternResults_ret (s : State) (l : Nat) (got : List (List Bool)) : (s.patternResults l got).ret = s.ret :=
  ret_of_only (State.patternResults_only ..)
@[simp] theorem State.linksLeave_ret (s : State) : s.linksLeave.ret = s.ret := ret_of_only (State.linksLeave_only ..)
@[simp] theorem State.headGone_ret (s : State) (i : Nat) : (s.headGone i).ret = s.ret := ret_of_only (State.headGone_only ..)
@[simp] theorem State.imageEngine_ret (s : State) (e : Nat) (entry : Option Nat) : (s.imageEngine e entry).ret = s.ret :=
  ret_of_only (State.imageEngine_only ..)
@[simp] theorem State.startHead_ret (s : State) (i : Nat) : (s.startHead i).ret = s.ret := ret_of_only (State.startHead_only ..)
@[simp] theorem State.tunnelRec_ret (s : State) (r : ImgRec) : (s.tunnelRec r).ret = s.ret :=
  ret_of_only (State.tunnelRec_only ..)

/-! ### The checks of a command -/

section
variable {s : State} {c : Cmd}

@[simp] theorem State.runCmd_ret {op : Nat} {lay : Layout} {safe : Bool} {body : State → State} (h : ∀ u, (body u).ret = u.ret) :
    (s.runCmd c op lay safe body).ret = s.ret := by
  simp [State.runCmd, h]

@[simp] theorem State.linkCmd_ret {l : Nat} {may : Bool} {gen : Option (Bool × Nat)} {body : State → State}
    (h : ∀ u, (body u).ret = u.ret) : (s.linkCmd c l may gen body).ret = s.ret := by
  simp [State.linkCmd, h]

@[simp] theorem State.headCmd_ret {body : Nat → State} (h : ∀ i, (body i).ret = s.ret) : (s.headCmd c body).ret = s.ret := by
  simp [State.headCmd, h]

@[simp] theorem State.srcCmd_ret {tid gen : Nat} {any : Bool} {body : State} (h : body.ret = s.ret) :
    (s.srcCmd c tid gen any body).ret = s.ret := by
  simp [State.srcCmd, h]

@[simp] theorem State.schedCmd_ret {hop : State → State} (h : ∀ u, (hop u).ret = u.ret) : (s.schedCmd c hop).ret = s.ret := by
  simp [State.schedCmd, h]

@[simp] theorem State.keyCmd_ret {slots : List Nat} {random : Bool} {body : State → State} (h : ∀ u, (body u).ret = u.ret) :
    (s.keyCmd c slots random body).ret = s.ret := by
  simp [State.keyCmd, h]

@[simp] theorem State.newKey_ret {k : Nat} {auto : Bool} {body : State → Nat → State} (h : ∀ u i, (body u i).ret = u.ret) :
    (s.newKey c k auto body).ret = s.ret := by
  unfold State.newKey
  split
  · exact s.complete_ret ..
  · exact h s _

@[simp] theorem State.sliceCmd_ret {own taker gen deny0 : Bool} {body : State → Nat → State} (h : ∀ u k, (body u k).ret = u.ret) :
    (s.sliceCmd c own taker gen deny0 body).ret = s.ret := by
  simp [State.sliceCmd, h]

@[simp] theorem State.grantCmd_ret {body : State → State} (h : ∀ u, (body u).ret = u.ret) : (s.grantCmd c body).ret = s.ret := by
  simp [State.grantCmd, h]

@[simp] theorem State.nearWin_ret {t op : Nat} {bytes : List Byte} {body : Nat → WinReq → WinHdr → State → State}
    (h : ∀ w r x u, (body w r x u).ret = u.ret) : (s.nearWin t op bytes body).ret = s.ret := by
  unfold State.nearWin
  dsimp only
  split
  · rfl
  · split
    · rfl
    · split
      · exact s.winCount_ret ..
      · split
        · exact s.winCount_ret ..
        · exact h ..

end

end Sys2Proof.Machine
end

section
/-! What the retained record must obey (Chapters 2 and 3), and the operations and events that change it and keep it so. -/

namespace Sys2Proof.Machine
open Sys2Proof

/-! ### What the retained record must obey, and what keeps it -/

/-- The laws of the modes, the latch and reset that speak of one record (R29, R30, R55, R80). -/
def Ret.lawful (r : Ret) : Prop :=
  (r.mode = .safe → r.safeLatch = true) ∧ (r.safeLatch = true → r.mode ≠ .field ∧ r.mode ≠ .holdover) ∧
    (r.inReset = true → r.mode = .sentry)

/-- What each row but those that reset the hub or sample its straps makes of a retained record `r`: a record `u` with the same straps, as
far out of reset, that is lawful where `r` is. -/
structure Ret.Keeps (r u : Ret) : Prop where
  straps : u.straps = r.straps
  strapsValid : u.strapsValid = r.strapsValid
  strapDefer : u.strapDefer = r.strapDefer
  inReset : u.inReset = r.inReset
  lawful : r.lawful → u.lawful

/-- The fields that `Ret.Keeps` speaks of. -/
def Ret.guarded (r : Ret) : Mode × Bool × Bool × Bool × BitVec 14 × Bool :=
  (r.mode, r.safeLatch, r.inReset, r.strapDefer, r.straps, r.strapsValid)

section
variable {r u v : Ret}

@[simp] theorem Ret.Keeps.refl (r : Ret) : r.Keeps r := ⟨rfl, rfl, rfl, rfl, id⟩

theorem Ret.Keeps.trans (h : r.Keeps u) (k : u.Keeps v) : r.Keeps v :=
  ⟨k.straps.trans h.straps, k.strapsValid.trans h.strapsValid, k.strapDefer.trans h.strapDefer, k.inReset.trans h.inReset,
    fun law => k.lawful (h.lawful law)⟩

/-- A change of the other fields. -/
theorem Ret.Keeps.other (h : r.Keeps u) (same : v.guarded = u.guarded) : r.Keeps v := by
  simp only [Ret.guarded, Prod.mk.injEq] at same
  obtain ⟨mode, latch, inReset, defer, straps, valid⟩ := same
  exact h.trans ⟨straps, valid, defer, inReset, fun law => by simpa only [Ret.lawful, mode, latch, inReset] using law⟩

/-- A change of the mode that obeys the laws. -/
theorem Ret.Keeps.mode (h : r.Keeps u) {m : Mode} (law : u.lawful → ({ u with mode := m } : Ret).lawful) : r.Keeps { u with mode := m } :=
  h.trans ⟨rfl, rfl, rfl, rfl, law⟩

theorem Ret.Keeps.ite {c : Prop} [Decidable c] (yes : c → r.Keeps u) (no : ¬ c → r.Keeps v) : r.Keeps (if c then u else v) := by
  split
  · exact yes ‹_›
  · exact no ‹_›

@[simp] theorem Ret.keeps_ite {c : Prop} [Decidable c] : r.Keeps (if c then u else v) ↔ if c then r.Keeps u else r.Keeps v := by
  split <;> rfl

theorem Ret.Keeps.foldl {α : Type} {g : State → α → State} (h : ∀ s x, r.Keeps s.ret → r.Keeps (g s x).ret) (l : List α) {s : State}
    (k : r.Keeps s.ret) : r.Keeps (l.foldl g s).ret := by
  induction l generalizing s with
  | nil => exact k
  | cons a l ih => exact ih (h s a k)

/-- Sentry is lawful under either latch, in reset or out of it. -/
theorem Ret.Keeps.sentry (h : r.Keeps u) : r.Keeps { u with mode := .sentry } := h.mode fun _ => by simp [Ret.lawful]

/-- A hub in Field has no latch, so that it may lose its time. -/
theorem Ret.Keeps.holdover (h : r.Keeps u) (field : u.mode = .field) : r.Keeps { u with mode := .holdover } :=
  h.mode fun law => by simpa [Ret.lawful, field] using law

/-- A hub in Holdover has no latch, so that it may return. -/
theorem Ret.Keeps.field (h : r.Keeps u) (holdover : u.mode = .holdover) : r.Keeps { u with mode := .field } :=
  h.mode fun law => by simpa [Ret.lawful, holdover] using law

/-- A hub in a core mode is out of reset, and entry to Safe sets the latch. -/
theorem Ret.Keeps.safe (h : r.Keeps u) (core : u.mode ≠ .sentry) : r.Keeps { u with mode := .safe, safeLatch := true } :=
  h.trans ⟨rfl, rfl, rfl, rfl, fun law => by
    obtain ⟨_, _, reset⟩ := law
    exact ⟨fun _ => rfl, by simp, fun inReset => absurd (reset inReset) core⟩⟩

/-- A tree reset of the core kind clears the latch as the hub goes from a core mode to Survey. -/
theorem Ret.Keeps.restart (h : r.Keeps u) (core : u.mode ≠ .sentry) : r.Keeps { u with mode := .survey, safeLatch := false } :=
  h.trans ⟨rfl, rfl, rfl, rfl, fun law => by
    obtain ⟨_, _, reset⟩ := law
    exact ⟨by simp, by simp, fun inReset => absurd (reset inReset) core⟩⟩

end

/-! ### The modes change -/

section
variable {s : State}

theorem State.coreOn_iff : s.coreOn = true ↔ s.ret.mode ≠ .dormant ∧ s.ret.mode ≠ .sentry := by
  cases mode : s.ret.mode <;> simp [State.coreOn, mode]

@[simp] theorem State.toMode_ret (m : Mode) (cause : Nat) : (s.toMode m cause).ret = { s.ret with mode := m } := by
  simp [State.toMode]

theorem State.loseTime_ret (cause : Nat) :
    (s.loseTime cause).ret = if s.ret.mode = .field then { s.ret with mode := .holdover } else s.ret := by
  simp [State.loseTime]

theorem State.tryReturn_ret :
    s.tryReturn.ret = if s.ret.mode = .holdover ∧ s.time.recovered = true ∧ (s.isRoot = true ∨ s.linkUp 0 = true ∧ s.tree.hub.isSome = true)
      then { s.ret with mode := .field } else s.ret := by
  simp [State.tryReturn]

theorem State.enterSafe_ret (cause : Nat) :
    (s.enterSafe cause).ret = if s.coreOn = false ∨ s.ret.mode = .safe then s.ret
      else { s.ret with safeLatch := true, devReq := none, safeAt := s.uptime + 1, mode := .safe } := by
  simp [State.enterSafe]

@[simp] theorem State.coreClear_ret : s.coreClear.ret = { s.ret with devReq := none } := rfl

@[simp] theorem State.coreReset_ret : s.coreReset.ret = { s.ret with devReq := none } := by
  simp [State.coreReset]

theorem State.toSentry_ret : s.toSentry.ret = { s.ret with devReq := none, mode := .sentry } := by
  simp [State.toSentry]

theorem State.runRequest_ret :
    s.runRequest.ret = { s.ret with runReq := true, wakeSent := if s.ret.runReq = true then s.ret.wakeSent else [] } := by
  unfold State.runRequest
  split
  next asked => simp [← asked]
  next => rfl

end

/-! ### Operations that keep the retained record lawful -/

section
variable {r : Ret} {s : State} (h : r.Keeps s.ret)
include h

theorem State.loseTime_keeps (cause : Nat) : r.Keeps (s.loseTime cause).ret := by
  rw [State.loseTime_ret]
  exact .ite h.holdover fun _ => h

theorem State.tryReturn_keeps : r.Keeps s.tryReturn.ret := by
  rw [State.tryReturn_ret]
  exact .ite (fun away => h.field away.1) fun _ => h

theorem State.enterSafe_keeps (cause : Nat) : r.Keeps (s.enterSafe cause).ret := by
  rw [State.enterSafe_ret]
  refine .ite (fun _ => h) fun enters => ?_
  rw [not_or, Bool.not_eq_false, State.coreOn_iff] at enters
  obtain ⟨⟨_, notSentry⟩, _⟩ := enters
  exact (h.safe notSentry).other rfl

theorem State.latchSafe_keeps : r.Keeps s.latchSafe.ret := by
  simp [State.latchSafe, State.enterSafe_keeps, h]

theorem State.runRequest_keeps : r.Keeps s.runRequest.ret := by
  rw [State.runRequest_ret]
  exact h.other rfl

theorem State.wakeFrame_keeps (port : Nat) : r.Keeps (s.wakeFrame port).ret := by
  simp [State.wakeFrame, State.runRequest_keeps, h]

/-! #### Time (Chapter 8) -/

theorem State.applyStep_keeps (new : Nat) (byTime alert : Bool) : r.Keeps (s.applyStep new byTime alert).ret := by
  simp [State.applyStep, State.tryReturn_keeps, h]

theorem State.stepAt_keeps (sec newT : Nat) (byTime : Bool) : r.Keeps (s.stepAt sec newT byTime).ret := by
  simp [State.stepAt, State.applyStep_keeps, h]

theorem State.orderStep_keeps (delta : Int) (byTime : Bool) : r.Keeps (s.orderStep delta byTime).ret := s.stepAt_keeps h ..

theorem State.servo_keeps (th inv secs : Int) : r.Keeps (s.servo th inv secs).ret := by
  simp [State.servo, State.orderStep_keeps, h]

theorem State.exchInvalid_keeps : r.Keeps s.exchInvalid.ret := by
  simp [State.exchInvalid, State.loseTime_keeps, h]

theorem State.useExchange_keeps (th : Int) (k : Nat) (secs : Int) : r.Keeps (s.useExchange th k secs).ret := by
  simp [State.useExchange, State.tryReturn_keeps, State.servo_keeps, h]

theorem State.useHeld_keeps (t : Time) (m : Nat) : r.Keeps (s.useHeld t m).ret := by
  unfold State.useHeld
  split
  · simp [State.useExchange_keeps, h]
  · exact h

theorem State.takeTimex_keeps (link : Nat) (seq : BitVec 8) (pcode secLo t1 t4 : Nat) (asym : Int) :
    r.Keeps (s.takeTimex link seq pcode secLo t1 t4 asym).ret := by
  unfold State.takeTimex
  dsimp only
  split
  · simp [State.exchInvalid_keeps, h]
  · split
    · simp [h]
    · simp [State.useExchange_keeps, h]

theorem State.ppsAccept_keeps (at250 : Nat) (th : Int) : r.Keeps (s.ppsAccept at250 th).ret := by
  simp [State.ppsAccept, State.tryReturn_keeps, State.servo_keeps, h]

theorem State.ppsEdge_keeps (at250 : Nat) : r.Keeps (s.ppsEdge at250).ret := by
  simp [State.ppsEdge, State.ppsAccept_keeps, h]

theorem State.setTimeSource_keeps (pps falling : Bool) (delay : Int) : r.Keeps (s.setTimeSource pps falling delay).ret := by
  simp [State.setTimeSource, State.tryReturn_keeps, h]

theorem State.timeFatal_keeps : r.Keeps s.timeFatal.ret := by
  simp [State.timeFatal, State.loseTime_keeps, h]

/-! #### Epochs (Chapters 5 and 6) -/

theorem State.epochEnd_keeps (l cause : Nat) (down : Bool) : r.Keeps (s.epochEnd l cause down).ret := by
  simp [State.epochEnd, State.loseTime_keeps, h]

theorem State.linkGone_keeps (l : Nat) : r.Keeps (s.linkGone l).ret := by
  simp [State.linkGone, State.epochEnd_keeps, h]

theorem State.tryUp_keeps (l : Nat) : r.Keeps (s.tryUp l).ret := by
  unfold State.tryUp
  dsimp only
  split
  · exact h
  · split
    · simp [h]
    · split
      · simp [State.tryReturn_keeps, h]
      · split <;> simp [h]

theorem State.takeIdent_keeps (link : Nat) (unit : BitVec 64) (cfgGen : BitVec 8) (upf : Bool) (hub : Option Nat) (epoch : BitVec 8)
    (cont : Bool) (nonce : Word) : r.Keeps (s.takeIdent link unit cfgGen upf hub epoch cont nonce).ret := by
  simp [State.takeIdent, State.tryUp_keeps, State.epochEnd_keeps, h]

theorem State.limitsCome_keeps (l : Nat) (hi : Bool) (limits : List Nat) : r.Keeps (s.limitsCome l hi limits).ret := by
  simp [State.limitsCome, State.tryUp_keeps, h]

theorem State.sealBad_keeps (l : Nat) (p : TxPkt) : r.Keeps (s.sealBad l p).ret := by
  simp [State.sealBad, State.epochEnd_keeps, h]

theorem State.takePkt_keeps (link : Nat) (p : TxPkt) (tag : List Byte) : r.Keeps (s.takePkt link p tag).ret := by
  simp only [State.takePkt, ite_ret]
  refine .ite (fun _ => by simp [h]) fun _ => .ite (fun _ => by simp [h]) fun _ => .ite (fun _ => by simp [h]) fun _ => ?_
  split <;> simp [State.sealBad_keeps, h]

theorem State.startPattern_keeps (l : Nat) (p : Pattern) : r.Keeps (s.startPattern l p).ret := by
  simp [State.startPattern, State.epochEnd_keeps, h]

/-! #### Faults (Chapter 19) -/

theorem State.deviceFatal_keeps (x : Hit) (inj esc : Bool) : r.Keeps (s.deviceFatal x inj esc).ret :=
  State.enterSafe_keeps (by simpa using h) 6

theorem State.domAction_keeps (d : Nat) : r.Keeps (s.domAction d).ret := by
  simp [State.domAction, State.timeFatal_keeps, h]

theorem State.domainFatal_keeps (d : Nat) (x : Hit) (inj esc : Bool) (us : Nat) : r.Keeps (s.domainFatal d x inj esc us).ret := by
  simp [State.domainFatal, State.deviceFatal_keeps, State.domAction_keeps, h]

theorem State.escalate_keeps (d : Nat) (x : Hit) (inj : Bool) : r.Keeps (s.escalate d x inj).ret := by
  simp [State.escalate, State.deviceFatal_keeps, h]

theorem State.detect_keeps (x : Hit) (inj : Bool) : r.Keeps (s.detect x inj).ret := by
  unfold State.detect
  dsimp only
  split
  · exact h
  · split
    · simp [h]
    · split
      · simp [State.escalate_keeps, h]
      · simp [State.deviceFatal_keeps, State.domainFatal_keeps, h]

theorem State.scrubWordAt_keeps (arr at' res detail unit : Nat) (noCopy : Bool) :
    r.Keeps (s.scrubWordAt arr at' res detail unit noCopy).ret := by
  simp [State.scrubWordAt, State.detect_keeps, h]

/-! #### Images (Chapter 18) -/

theorem State.applyRec_keeps (x : ImgRec) : r.Keeps (s.applyRec x).ret := by
  simp [State.applyRec, State.setTimeSource_keeps, h]

/-- Applying an image replaces the policy; each of its records keeps the rest. -/
theorem State.applyRecords_keeps (k : Nat) : r.Keeps (s.applyRecords k).ret := by
  have policy (q : Option Policy) : r.Keeps { s.ret with policy := q, actRetained := false } := h.other rfl
  have records (l : List ImgRec) {u : State} (k : r.Keeps u.ret) : r.Keeps (l.foldl State.applyRec u).ret :=
    .foldl (fun _ x k => State.applyRec_keeps k x) l k
  have rearmed (u : State) : ((List.range 5).foldl (fun s l => s.modLink l Link.rearm) u).ret = u.ret := by simp
  unfold State.applyRecords
  dsimp only
  split <;> simp [records, rearmed, policy]

theorem State.bootImage_keeps (k : Nat) (atEntry : Bool) : r.Keeps (s.bootImage k atEntry).ret := by
  simp [State.bootImage, State.latchSafe_keeps, State.applyRecords_keeps, h]

end

/-! ### Rows that change the retained record and keep it lawful -/

section
variable {r : Ret} {s : State} (h : r.Keeps s.ret)
include h

theorem effLosEpochTimeout_keeps (link : Nat) : r.Keeps (effLosEpochTimeout link s).ret := by
  simp [effLosEpochTimeout, State.epochEnd_keeps, h]

theorem effRetrainTimeout_keeps (link : Nat) : r.Keeps (effRetrainTimeout link s).ret := by
  simp [effRetrainTimeout, State.epochEnd_keeps, h]

theorem effCarrierLoss_keeps (port link : Nat) : r.Keeps (effCarrierLoss port link s).ret := by
  simp [effCarrierLoss, State.linkGone_keeps, h]

/-- What a symbol wave brings is taken on a state with the same retained record. -/
theorem State.takeLcp_keeps {link : Nat} {w : Wave} {u : State} {p : Option LaneSym} (got : s.takeLcp link w = (u, p)) : r.Keeps u.ret := by
  have same := s.takeLcp_ret link w
  rw [got] at same
  exact same ▸ h

theorem effIdentReceive_keeps (link : Nat) (w : Wave) : r.Keeps (effIdentReceive link w s).ret := by
  unfold effIdentReceive
  split
  · exact h
  · split
    next got => exact State.takeIdent_keeps (s.takeLcp_keeps h got) ..
    next got => exact s.takeLcp_keeps h got

theorem effFcUpdateReceive_keeps (link : Nat) (w : Wave) : r.Keeps (effFcUpdateReceive link w s).ret := by
  unfold effFcUpdateReceive
  split
  · exact h
  · split
    next got => exact State.limitsCome_keeps (s.takeLcp_keeps h got) ..
    next got => exact s.takeLcp_keeps h got

theorem effInitFcReceive_keeps (link : Nat) (w : Wave) : r.Keeps (effInitFcReceive link w s).ret := by
  unfold effInitFcReceive
  split
  · exact h
  · split
    next got => exact State.limitsCome_keeps (s.takeLcp_keeps h got) ..
    next got => exact s.takeLcp_keeps h got

theorem effTimexReceive_keeps (link : Nat) (w : Wave) : r.Keeps (effTimexReceive link w s).ret := by
  unfold effTimexReceive
  split
  · exact h
  · split
    next got => exact State.takeTimex_keeps (s.takeLcp_keeps h got) ..
    next got => exact s.takeLcp_keeps h got

theorem effTunnelPacketReceive_keeps (link : Nat) (w : Wave) : r.Keeps (effTunnelPacketReceive link w s).ret := by
  simp only [effTunnelPacketReceive, ite_ret]
  refine .ite (fun _ => h) fun _ => .ite (fun _ => by simp [h]) fun _ => ?_
  split <;> simp [State.takePkt_keeps, h]

theorem effAssign_keeps (ws : List Word) : r.Keeps (effAssign ws s).ret := by
  simp [effAssign, State.tryReturn_keeps, h]

/-! #### Time -/

theorem effPpsEdge_keeps (rising : Bool) (since : Nat) : r.Keeps (effPpsEdge rising since s).ret := by
  simp [effPpsEdge, State.ppsEdge_keeps, h]

theorem effPpsLost_keeps : r.Keeps (effPpsLost s).ret := by
  simp [effPpsLost, State.loseTime_keeps, h]

theorem effExchangeInvalidTimeout_keeps (link : Nat) : r.Keeps (effExchangeInvalidTimeout link s).ret := by
  simp [effExchangeInvalidTimeout, State.exchInvalid_keeps, h]

theorem effTimeStepApply_keeps : r.Keeps (effTimeStepApply s).ret := by
  unfold effTimeStepApply
  split <;> simp [State.applyStep_keeps, h]

theorem effTimeMessage_keeps (ws : List Word) : r.Keeps (effTimeMessage ws s).ret := by
  simp [effTimeMessage, State.useHeld_keeps, State.stepAt_keeps, State.orderStep_keeps, h]

/-! #### Faults -/

theorem effTunProg_keeps (ws : List Word) : r.Keeps (effTunProg ws s).ret := by
  simp [effTunProg, State.detect_keeps, h]

theorem effRecoveryBoundExceeded_keeps (dom : Nat) : r.Keeps (effRecoveryBoundExceeded dom s).ret := by
  simp [effRecoveryBoundExceeded, State.domainFatal_keeps, h]

theorem effPatrolScrub_keeps (res detail unit : Nat) (noCopy last : Bool) : r.Keeps (effPatrolScrub res detail unit noCopy last s).ret := by
  unfold effPatrolScrub
  dsimp only
  split
  · exact h
  · split
    · split <;> simp [State.scrubWordAt_keeps, h]
    · simp [State.scrubWordAt_keeps, h]

theorem effInjectDelayExpiry_keeps (unit : Nat) (inUse noCopy : Bool) : r.Keeps (effInjectDelayExpiry unit inUse noCopy s).ret := by
  unfold effInjectDelayExpiry
  split
  · exact h
  · simp [State.detect_keeps, h]

/-! #### Images -/

theorem effImageApply_keeps (badA badB : Bool) : r.Keeps (effImageApply badA badB s).ret := by
  simp [effImageApply, State.bootImage_keeps, State.latchSafe_keeps, h]

/-! #### The sideband -/

theorem State.sbReceive_keeps {port : Nat} {f : SbFrame} {u : State} {l : Option Nat} (got : s.sbReceive port f = (u, l)) : r.Keeps u.ret := by
  have same := s.sbReceive_ret port f
  rw [got] at same
  exact same ▸ h

theorem effSidebandRate_keeps (port : Nat) (f : SbFrame) : r.Keeps (effSidebandRate port f s).ret := by
  simp only [effSidebandRate, ite_ret]
  refine .ite (fun _ => by simp [h]) fun _ => ?_
  split
  next got => exact s.sbReceive_keeps h got
  next got => simp [State.wakeFrame_keeps, s.sbReceive_keeps h got]

theorem effSidebandWake_keeps (port : Nat) (f : SbFrame) : r.Keeps (effSidebandWake port f s).ret := by
  simp only [effSidebandWake, ite_ret]
  refine .ite (fun _ => by simp [h]) fun _ => ?_
  split
  next got => exact s.sbReceive_keeps h got
  next got => exact State.wakeFrame_keeps (s.sbReceive_keeps h got) port

theorem effSidebandTurn_keeps (port : Nat) : r.Keeps (effSidebandTurn port s).ret := by
  have woken (ks : List Nat) : r.Keeps { s.ret with wakeSent := ks } := h.other rfl
  simp only [effSidebandTurn, ite_ret]
  refine .ite (fun _ => h) fun _ => ?_
  split
  · simp [h]
  · split <;> simp [h, woken]

/-! #### Resets and modes (Chapters 2 and 3) -/

theorem effActSafelvlDrive_keeps : r.Keeps (effActSafelvlDrive s).ret := by
  have driven : r.Keeps { s.ret with actDriven := true } := h.other rfl
  simp [effActSafelvlDrive, driven, h]

theorem State.toSentry_keeps : r.Keeps s.toSentry.ret := by
  rw [State.toSentry_ret]
  exact h.sentry.other rfl

omit h in
/-- Survey starts where the record is lawful in it. -/
theorem State.surveyStart_keeps (survey : r.Keeps { s.ret with mode := .survey }) (cause : Nat) (failed : Bool) :
    r.Keeps (s.surveyStart cause failed).ret := by
  have start (x : Nat) : r.Keeps
      { s.ret with devReq := none, mode := .survey, runReq := false, wakeSent := [], lateRails := [], xspiAt := some x } :=
    survey.other rfl
  have rates (u : State) : (u.linksPresent.foldl (fun s l => s.sendRate l 0 false) u).ret = u.ret := by simp
  simp [State.surveyStart, State.latchSafe_keeps, State.deviceFatal_keeps, rates, start]

theorem effSurveyEntry_keeps (failed : Bool) : r.Keeps (effSurveyEntry failed s).ret := by
  simp only [effSurveyEntry, ite_ret]
  refine .ite (fun enters => ?_) fun _ => h
  obtain ⟨_, out, _⟩ := enters
  exact State.surveyStart_keeps (h.mode fun _ => by simpa [Ret.lawful] using out) ..

theorem effRailValid_keeps (x : Rail) : r.Keeps (effRailValid x s).ret := by
  have valid (l m : List Rail) : r.Keeps { s.ret with rails := l, lateRails := m } := h.other rfl
  simp [effRailValid, valid]

/-- The loss of a run rail in a core mode ends in Sentry, after Safe where a DEV_MODE in its delay asked for it (R59). -/
theorem effRailInvalid_keeps (x : Rail) : r.Keeps (effRailInvalid x s).ret := by
  have lost (l m : List Rail) : r.Keeps { s.ret with rails := l, lateRails := m } := h.other rfl
  have sentry {u : State} (k : r.Keeps u.ret) :
      r.Keeps ({ u with ret := { u.ret with resetCause := 3, actRetained := true, xspiAt := none } } : State).toSentry.ret :=
    State.toSentry_keeps (k.other rfl)
  simp only [effRailInvalid, ite_ret]
  refine .ite (fun _ => h) fun _ => .ite (fun _ => lost ..) fun _ => .ite (fun _ => by simp [lost]) fun _ =>
    .ite (fun _ => by simp [lost]) fun _ => ?_
  split
  · exact sentry (by simp [State.enterSafe_keeps, lost])
  · exact sentry (lost ..)

theorem effWakeReason_keeps (byPin : Bool) : r.Keeps (effWakeReason byPin s).ret := by
  have pulled : r.Keeps { s.ret with wakeN := false } := h.other rfl
  have awake : r.Keeps { s.ret with mode := .sentry } := h.sentry
  have pulledAwake : r.Keeps { s.ret with wakeN := false, mode := .sentry } := h.sentry.other rfl
  by_cases asleep : s.ret.mode = .dormant <;> simp [effWakeReason, State.runRequest_keeps, asleep, pulled, awake, pulledAwake, h]

/-- Dormancy is for a hub in Sentry and out of reset. -/
theorem effDormancyDelayExpiry_keeps (wakeN : Bool) : r.Keeps (effDormancyDelayExpiry wakeN s).ret := by
  have level : r.Keeps { s.ret with wakeN := wakeN } := h.other rfl
  simp only [effDormancyDelayExpiry, ite_ret]
  refine .ite (fun rests => ?_) fun _ => level
  obtain ⟨_, out, _⟩ := rests
  exact level.mode fun _ => by simpa [Ret.lawful] using out

theorem effSurveyCarrierTimeout_keeps (wakeN : Bool) : r.Keeps (effSurveyCarrierTimeout wakeN s).ret := by
  have level : r.Keeps { s.ret with wakeN := wakeN } := h.other rfl
  simp only [effSurveyCarrierTimeout, ite_ret]
  exact .ite (fun _ => State.toSentry_keeps (by simp [level])) fun _ => level

theorem State.setPerst_keeps (port : Nat) (v : Bool) : r.Keeps (s.setPerst port v).ret := by
  have level0 : r.Keeps { s.ret with perst0 := v } := h.other rfl
  have level1 : r.Keeps { s.ret with perst1 := v } := h.other rfl
  simp [State.setPerst, level0, level1]

theorem effPerstRelease_keeps (port : Nat) : r.Keeps (effPerstRelease port s).ret := by
  simp [effPerstRelease, State.runRequest_keeps, State.setPerst_keeps, h]

theorem effHostPortReset_keeps (port : Nat) : r.Keeps (effHostPortReset port s).ret := by
  simp [effHostPortReset, State.setPerst_keeps, h]

omit h in
/-- Nothing else in the record changes as the hub enters Field. -/
theorem effFieldEntry_ret (ready : s.fieldReady = true) : (effFieldEntry s).ret = { s.ret with mode := .field } := by
  simp [effFieldEntry, ready]

/-- Field is entered from Survey, in which no hub is in reset, without the latch. -/
theorem effFieldEntry_keeps : r.Keeps (effFieldEntry s).ret := by
  by_cases ready : s.fieldReady = true
  · rw [effFieldEntry_ret ready]
    refine h.mode fun law => ?_
    simp only [State.fieldReady, Bool.and_eq_true, decide_eq_true_eq, Bool.not_eq_true'] at ready
    obtain ⟨⟨⟨survey, unlatched⟩, _⟩, _⟩ := ready
    simpa [Ret.lawful, survey, unlatched] using law
  · simp [effFieldEntry, ready, h]

theorem effDevModeDelayExpiry_keeps : r.Keeps (effDevModeDelayExpiry s).ret := by
  have asked : r.Keeps { s.ret with devReq := none } := h.other rfl
  unfold effDevModeDelayExpiry
  split
  · exact h
  · simp [State.causedBy, State.enterSafe_keeps, State.toSentry_keeps, asked]

end

end Sys2Proof.Machine
end

section
/-! What each of the 375 rows leaves of the retained record. -/

namespace Sys2Proof.Machine
open Sys2Proof

/-! ### Rows: what an execution answers -/

/-- Whatever an execution on `s` answers keeps the retained record of `s`. -/
def State.Kept (s : State) (o : Host.Outcome State Fault Refusal) : Prop := ∀ t, o = .next t → s.ret.Keeps t.ret

section
variable {P Q R : Prop} {s u : State} {c : Cmd} {op : Nat} {lay : Layout} {safe : Bool} {body : State → State}

theorem State.Kept.next (k : s.ret.Keeps u.ret) : s.Kept (.next u) := fun _ run => Host.Outcome.next.inj run ▸ k

theorem State.Kept.same (h : u.ret = s.ret) : s.Kept (.next u) := .next (h ▸ .refl _)

theorem State.Kept.only (h : P ∧ Q ∧ u.ret = s.ret ∧ R) : s.Kept (.next u) := .same (ret_of_only h)

theorem State.Kept.onlyNv (h : P ∧ u.ret = s.ret ∧ R) : s.Kept (.next u) := .same (ret_of_only_nv h)

/-- A host command whose part leaves the retained record alone. -/
theorem State.Kept.command (h : ∀ u, (body u).ret = u.ret) : s.Kept (.next (s.runCmd c op lay safe body)) := .same (State.runCmd_ret h)

/-- A host command's part runs in a core mode, on a state with the same retained record. -/
theorem State.Kept.commandKeeps (h : ∀ u : State, u.coreOn = true → s.ret.Keeps u.ret → s.ret.Keeps (body u).ret) :
    s.Kept (.next (s.runCmd c op lay safe body)) := by
  refine .next ?_
  simp only [State.runCmd, ite_ret]
  refine .ite (fun _ => .refl _) fun runs => .ite (fun _ => by simp) fun _ => .ite (fun _ => by simp) fun _ =>
    .ite (fun _ => by simp) fun _ => .ite (fun _ => by simp) fun _ => ?_
  have core : s.coreOn = true := by
    simp only [not_or, Bool.not_eq_true'] at runs
    simpa using runs.1
  rw [State.ended_ret]
  exact h _ (by simpa [State.coreOn] using core) (by simp)

end

theorem State.rootTimeCmd_keeps {r : Ret} {s : State} {c : Cmd} {body : State} (h : r.Keeps s.ret) (k : r.Keeps body.ret) :
    r.Keeps (s.rootTimeCmd c body).ret := by
  simp [State.rootTimeCmd, h, k]

theorem execTreeQuery_kept (c : Cmd) (s : State) : s.Kept (execTreeQuery c s) := .command fun u => by
  dsimp only
  split
  · simp
  · split <;> simp

/-- The Safe kind enters Safe; the core kind starts Survey without the latch, from a core mode and so out of reset. -/
theorem execTreeResetHub_kept (c : Cmd) (failed : Bool) (s : State) : s.Kept (execTreeResetHub c failed s) :=
  .commandKeeps fun u core k => by
    simp only [ite_ret]
    refine .ite (fun _ => by simp [k]) fun _ => .ite (fun _ => by simp [k]) fun _ => .ite (fun _ => by simp [k]) fun _ =>
      .ite (fun _ => by simp [k]) fun _ => .ite (fun _ => State.enterSafe_keeps (by simp [k]) 8) fun _ =>
      State.surveyStart_keeps ?_ 5 failed
    have restarts : s.ret.Keeps { u.ret with mode := .survey, safeLatch := false, resetCause := 2, actRetained := true } :=
      (k.restart (State.coreOn_iff.1 core).2).other rfl
    simpa using restarts

theorem execSchedQuery_kept (c : Cmd) (s : State) : s.Kept (execSchedQuery c s) := .command fun u => by
  dsimp only
  split
  · simp
  · split
    · simp
    · split <;> simp
    · simp
    · split <;> simp

theorem execTimeOutCfg_kept (c : Cmd) (s : State) : s.Kept (execTimeOutCfg c s) := .command fun u => by
  cases at' : u.compactField c 8 <;> simp

theorem execTravArm_kept (c : Cmd) (s : State) : s.Kept (execTravArm c s) := .command fun u => by
  dsimp only
  split
  · split <;> simp
  · split
    · simp
    · split
      · simp
      · split <;> simp

theorem execTravAbort_kept (c : Cmd) (s : State) : s.Kept (execTravAbort c s) := .command fun u => by
  cases x : u.launchOf (BitVec.ofNat 8 (c.f 5 7 0)) <;> simp

theorem execSliceRevoke_kept (c : Cmd) (s : State) : s.Kept (execSliceRevoke c s) := .command fun u => State.grantCmd_ret fun v => by
  split
  · simp
  · split <;> simp

theorem execDevMode_kept (c : Cmd) (s : State) : s.Kept (execDevMode c s) := .commandKeeps fun u _ k => by
  have asked (d : Option DevReq) : s.ret.Keeps { u.ret with devReq := d } := k.other rfl
  simp [k, asked]

theorem execDispTiming_kept (c : Cmd) (s : State) : s.Kept (execDispTiming c s) := .command fun u => State.headCmd_ret fun i => by
  cases base : u.compactField c 9 <;> simp

theorem execDispPlane_kept (c : Cmd) (s : State) : s.Kept (execDispPlane c s) := .command fun u => State.srcCmd_ret (by
  cases base : u.compactField c 10 <;> simp)

theorem execNetPortCfg_kept (c : Cmd) (s : State) : s.Kept (execNetPortCfg c s) := .command fun u => by
  dsimp only
  split <;> simp

theorem execCanSend_kept (c : Cmd) (s : State) : s.Kept (execCanSend c s) := .command fun u => by
  dsimp only
  split
  · simp
  · split
    · simp
    · split
      · simp
      · split
        · simp
        · split <;> simp

theorem execWinSem_kept (c : Cmd) (s : State) : s.Kept (execWinSem c s) := .command fun u => by
  dsimp only
  split
  · simp
  · split
    · simp
    · split
      · simp
      · split <;> simp

theorem execWinQuery_kept (c : Cmd) (s : State) : s.Kept (execWinQuery c s) := .command fun u => by
  dsimp only
  split <;> simp

theorem execPwrContract_kept (c : Cmd) (s : State) : s.Kept (execPwrContract c s) := .command fun u => by
  cases offer : (u.port (c.f 4 1 0)).caps.findIdx? fun o => decide (o.1 = c.f 4 5 4) <;> simp [offer]

theorem execKeyCrypt_kept (c : Cmd) (s : State) : s.Kept (execKeyCrypt c s) := .command fun u => State.keyCmd_ret fun v => by
  dsimp only
  split
  · simp
  · split
    · simp
    · split
      · simp
      · split <;> simp

theorem execKeyPairLink_kept (c : Cmd) (s : State) : s.Kept (execKeyPairLink c s) := .command fun u => by
  dsimp only
  split
  · simp
  · split
    · simp
    · split
      · simp
      · split
        · simp
        · split <;> simp
        · simp

/-! ### Every row -/

/-- The rows that put the hub in reset or sample its straps. -/
def resetRow : Instr → Bool
  | .powerOnReset | .resetNAssert | .resetNRelease .. | .strapSampleDeferred .. => true
  | _ => false

/-- Every other row keeps the straps, their deferral and reset, and a lawful record stays lawful: the table of the rows, each with the law of
what it leaves. -/
theorem exec_kept (i : Instr) (s : State) (row : resetRow i = false) : s.Kept (exec i s) := by
  cases i with
  | powerOnReset => simp [resetRow] at row
  | resetNAssert => simp [resetRow] at row
  | resetNRelease => simp [resetRow] at row
  | strapSampleDeferred => simp [resetRow] at row
  | actSafelvlDrive => exact .next (effActSafelvlDrive_keeps (.refl _))
  | railValid => exact .next (effRailValid_keeps (.refl _) ..)
  | railInvalid => exact .next (effRailInvalid_keeps (.refl _) ..)
  | wakeReason => exact .next (effWakeReason_keeps (.refl _) ..)
  | dormancyDelayExpiry => exact .next (effDormancyDelayExpiry_keeps (.refl _) ..)
  | surveyEntry => exact .next (effSurveyEntry_keeps (.refl _) ..)
  | perstRelease => exact .next (effPerstRelease_keeps (.refl _) ..)
  | hostPortReset => exact .next (effHostPortReset_keeps (.refl _) ..)
  | pcieRetryStatusEnd => exact .only (effPcieRetryStatusEnd_only ..)
  | imageApply => exact .next (effImageApply_keeps (.refl _) ..)
  | fieldEntry => exact .next (effFieldEntry_keeps (.refl _))
  | surveyCarrierTimeout => exact .next (effSurveyCarrierTimeout_keeps (.refl _) ..)
  | devModeDelayExpiry => exact .next (effDevModeDelayExpiry_keeps (.refl _))
  | paceSample => exact .only (effPaceSample_only ..)
  | paceMonitorRevalid => exact .only (effPaceMonitorRevalid_only ..)
  | paceMonitorTimeout => exact .next (by simp [State.detect_keeps])
  | paceIntervalEnd => exact .only (effPaceIntervalEnd_only ..)
  | paceSet => exact .command fun u => by simp
  | paceQuery => exact .command fun u => by simp
  | skpSend => exact .only (effSkpSend_only ..)
  | pllLock => exact .only (effPllLock_only ..)
  | widthFallback => exact .only (effWidthFallback_only ..)
  | ts1Align => exact .only (effTs1Align_only ..)
  | ts2Handoff => exact .only (effTs2Handoff_only ..)
  | trainingTimeout => exact .only (effTrainingTimeout_only ..)
  | trainingRoundWaitEnd => exact .only (effTrainingRoundWaitEnd_only ..)
  | retrainQuiesced => exact .only (effRetrainQuiesced_only ..)
  | losStart => exact .only (effLosStart_only ..)
  | losEnd => exact .only (effLosEnd_only ..)
  | losEpochTimeout => exact .next (effLosEpochTimeout_keeps (.refl _) ..)
  | retrainTimeout => exact .next (effRetrainTimeout_keeps (.refl _) ..)
  | dozeLightTimeout => exact .only (effDozeLightTimeout_only ..)
  | dozeDeepTimeout => exact .only (effDozeDeepTimeout_only ..)
  | dozReceive => exact .only (effDozReceive_only ..)
  | dozeWakeStart => exact .only (effDozeWakeStart_only ..)
  | dozeWakeComplete => exact .only (effDozeWakeComplete_only ..)
  | wakeLockTimeout => exact .only (effWakeLockTimeout_only ..)
  | patternDurationEnd => exact .only (effPatternDurationEnd_only ..)
  | linkRate => exact .command fun u => by simp
  | linkSleep => exact .command fun u => by simp
  | linkWake => exact .command fun u => by simp
  | linkRetrain => exact .command fun u => by simp
  | linkPattern => exact .commandKeeps fun u _ k => by simp [State.startPattern_keeps, k]
  | linkEqOverride => exact .command fun u => by simp
  | linkQuery => exact .command fun u => by simp
  | linkCounters => exact .command fun u => by simp
  | tunnelPacketReceive => exact .next (effTunnelPacketReceive_keeps (.refl _) ..)
  | localPacketOffer => exact .only (effLocalPacketOffer_only ..)
  | ackReceive => exact .only (effAckReceive_only ..)
  | nakReceive => exact .only (effNakReceive_only ..)
  | replayTimerExpiry => exact .only (effReplayTimerExpiry_only ..)
  | ackSend => exact .only (effAckSend_only ..)
  | nakSend => exact .only (effNakSend_only ..)
  | fcUpdateReceive => exact .next (effFcUpdateReceive_keeps (.refl _) ..)
  | initFcReceive => exact .next (effInitFcReceive_keeps (.refl _) ..)
  | identReceive => exact .next (effIdentReceive_keeps (.refl _) ..)
  | identRepeat => exact .only (effIdentRepeat_only ..)
  | fcUpdateTimer => exact .only (effFcUpdateTimer_only ..)
  | fcRefresh => exact .only (effFcRefresh_only ..)
  | fcStall => exact .only (effFcStall_only ..)
  | hello => exact .only (effHello_only ..)
  | helloRepeat => exact .only (effHelloRepeat_only ..)
  | assign => exact .next (effAssign_keeps (.refl _) ..)
  | numbered => exact .only (effNumbered_only ..)
  | linkchg => exact .only (effLinkchg_only ..)
  | tunProg => exact .next (effTunProg_keeps (.refl _) ..)
  | tunSet => exact .only (effTunSet_only ..)
  | tunAck => exact .only (effTunAck_only ..)
  | initialEnumerationEnd => exact .only (effInitialEnumerationEnd_only ..)
  | reattachGraceExpiry => exact .only (effReattachGraceExpiry_only ..)
  | actingRootClose => exact .only (effActingRootClose_only ..)
  | tunnelOpenStepTimeout => exact .only (effTunnelOpenStepTimeout_only ..)
  | hopCloseDrained => exact .only (effHopCloseDrained_only ..)
  | hopCloseTimeout => exact .only (effHopCloseTimeout_only ..)
  | closeAckTimeout => exact .only (effCloseAckTimeout_only ..)
  | treeEnumerate => exact .command fun u => by simp
  | treeQuery c => exact execTreeQuery_kept c s
  | treeResetHub c failed => exact execTreeResetHub_kept c failed s
  | treeEvict => exact .command fun u => by simp
  | tunOpen => exact .only (effTunOpen_only ..)
  | tunClose => exact .command fun u => by simp
  | tunModify => exact .command fun u => by simp
  | tunQuery => exact .command fun u => by simp
  | tunSuspend => exact .command fun u => by simp
  | tunResume => exact .command fun u => by simp
  | schedulerPick => exact .only (effSchedulerPick_only ..)
  | lossyAgeExpiry => exact .only (effLossyAgeExpiry_only ..)
  | gateEntryBoundary => exact .only (effGateEntryBoundary_only ..)
  | gateSwitch => exact .only (effGateSwitch_only ..)
  | windowOpen => exact .only (effWindowOpen_only ..)
  | windowClose => exact .only (effWindowClose_only ..)
  | windowEffect => exact .only (effWindowEffect_only ..)
  | creditIntervalEnd => exact .only (effCreditIntervalEnd_only ..)
  | schedClassSet => exact .command fun u => by simp
  | schedGateLoad => exact .command fun u => by simp
  | schedGateCommit => exact .command fun u => by simp
  | schedWindowSet => exact .command fun u => by simp
  | schedBounds => exact .command fun u => by simp
  | schedQuery c => exact execSchedQuery_kept c s
  | ppsEdge => exact .next (effPpsEdge_keeps (.refl _) ..)
  | ppsLost => exact .next (effPpsLost_keeps (.refl _))
  | timeExchangeStart => exact .only (effTimeExchangeStart_only ..)
  | tmkReceive => exact .only (effTmkReceive_only ..)
  | timexReceive => exact .next (effTimexReceive_keeps (.refl _) ..)
  | exchangeInvalidTimeout => exact .next (effExchangeInvalidTimeout_keeps (.refl _) ..)
  | timeStepApply => exact .next (effTimeStepApply_keeps (.refl _))
  | timeMessageSend => exact .only (effTimeMessageSend_only ..)
  | timeMessage => exact .next (effTimeMessage_keeps (.refl _) ..)
  | trigEdge => exact .only (effTrigEdge_only ..)
  | timeOutEdge => exact .only (effTimeOutEdge_only ..)
  | timeQuery => exact .command fun u => by simp
  | timeSet => exact .commandKeeps fun u _ k => State.rootTimeCmd_keeps k (by simp [State.stepAt_keeps, k])
  | timeAdjust => exact .commandKeeps fun u _ k => State.rootTimeCmd_keeps k (by simp [State.orderStep_keeps, k])
  | timeSource => exact .commandKeeps fun u _ k => State.rootTimeCmd_keeps k (by simp [State.setTimeSource_keeps, k])
  | timeStampArm => exact .command fun u => by simp
  | timeOutCfg c => exact execTimeOutCfg_kept c s
  | engineLaunch => exact .only (effEngineLaunch_only ..)
  | legEnd => exact .only (effLegEnd_only ..)
  | legWaitUntil => exact .only (effLegWaitUntil_only ..)
  | waitUntilRelease => exact .only (effWaitUntilRelease_only ..)
  | legWaitFor => exact .only (effLegWaitFor_only ..)
  | waitForMet => exact .only (effWaitForMet_only ..)
  | waitForTimeout => exact .only (effWaitForTimeout_only ..)
  | legSetPin => exact .only (effLegSetPin_only ..)
  | legPulsePin => exact .only (effLegPulsePin_only ..)
  | legPwmPin => exact .only (effLegPwmPin_only ..)
  | legWriteReg => exact .only (effLegWriteReg_only ..)
  | legReadCheck => exact .only (effLegReadCheck_only ..)
  | remoteReadTimeout => exact .only (effRemoteReadTimeout_only ..)
  | legSendCan => exact .only (effLegSendCan_only ..)
  | legSendMsg => exact .only (effLegSendMsg_only ..)
  | legDispCommit => exact .only (effLegDispCommit_only ..)
  | legGateSwitch => exact .only (effLegGateSwitch_only ..)
  | legMark => exact .only (effLegMark_only ..)
  | legLoop => exact .only (effLegLoop_only ..)
  | legBranch => exact .only (effLegBranch_only ..)
  | legStartEngine => exact .only (effLegStartEngine_only ..)
  | legConfirmImage => exact .onlyNv (effLegConfirmImage_only ..)
  | effectInstant => exact .only (effEffectInstant_only ..)
  | pwmPeriodStart => exact .only (effPwmPeriodStart_only ..)
  | regWrite => exact .only (effRegWrite_only ..)
  | regRead => exact .only (effRegRead_only ..)
  | regReply => exact .only (effRegReply_only ..)
  | travMessage => exact .only (effTravMessage_only ..)
  | prepare => exact .only (effPrepare_only ..)
  | ready => exact .only (effReady_only ..)
  | commit => exact .only (effCommit_only ..)
  | abort => exact .only (effAbort_only ..)
  | launched => exact .only (effLaunched_only ..)
  | launchReadyDeadline => exact .only (effLaunchReadyDeadline_only ..)
  | preparedTimeout => exact .only (effPreparedTimeout_only ..)
  | launchPartialTimeout => exact .only (effLaunchPartialTimeout_only ..)
  | actInputEdge => exact .only (effActInputEdge_only ..)
  | travLoad => exact .command fun u => by simp
  | travArm c => exact execTravArm_kept c s
  | travAbort c => exact execTravAbort_kept c s
  | travQuery => exact .command fun u => by simp
  | travReadLegs => exact .command fun u => by simp
  | travActCfg => exact .command fun u => by simp
  | commandFetch => exact .only (effCommandFetch_only ..)
  | heldRecordWrite => exact .only (effHeldRecordWrite_only ..)
  | interruptTimer => exact .only (effInterruptTimer_only ..)
  | slSqTailWrite => exact .same (by simp)
  | slEvqHeadWrite => exact .same (by simp)
  | slSqSizeWrite => exact .same (by simp)
  | slEvqSizeWrite => exact .same (by simp)
  | slIntCtrlWrite => exact .same (by simp)
  | slRingDbWrite => exact .only (effSlRingDbWrite_only ..)
  | rcRegisterRead => exact .only (effRcRegisterRead_only ..)
  | mgErrsumWrite => exact .same (by simp)
  | mgTimeNsRead => exact .only (effMgTimeNsRead_only ..)
  | msixTableWrite => exact .only (effMsixTableWrite_only ..)
  | registerWrite => exact .same (by simp)
  | hostPortPowerState => exact .only (effHostPortPowerState_only ..)
  | revokeDrainEnd => exact .onlyNv (effRevokeDrainEnd_only ..)
  | freezeDrainEnd => exact .only (effFreezeDrainEnd_only ..)
  | cookieExpiry => exact .only (effCookieExpiry_only ..)
  | sliceMoveTimeout => exact .only (effSliceMoveTimeout_only ..)
  | sliceCreate => exact .command fun u => by simp
  | sliceDestroy => exact .command fun u => by simp
  | sliceReset => exact .command fun u => by simp
  | sliceGrant => exact .command fun u => by simp
  | sliceRevoke c => exact execSliceRevoke_kept c s
  | sliceFreeze => exact .command fun u => by simp
  | sliceSave => exact .command fun u => by simp
  | sliceRestore => exact .command fun u => by simp
  | sliceThaw => exact .command fun u => by simp
  | queueCreate => exact .command fun u => by simp
  | queueDestroy => exact .command fun u => by simp
  | evqSet => exact .command fun u => by simp
  | commandMessage => exact .only (effCommandMessage_only ..)
  | dataMessage => exact .only (effDataMessage_only ..)
  | indirectInputReadDone => exact .only (effIndirectInputReadDone_only ..)
  | receivedMessage => exact .only (effReceivedMessage_only ..)
  | receivedRepeat => exact .only (effReceivedRepeat_only ..)
  | completionMessage => exact .only (effCompletionMessage_only ..)
  | eventMessage => exact .only (effEventMessage_only ..)
  | remoteCommandTimeout => exact .only (effRemoteCommandTimeout_only ..)
  | timedCommandDue => exact .only (effTimedCommandDue_only ..)
  | devInfo => exact .command fun u => by simp
  | devMode c => exact execDevMode_kept c s
  | devStraps => exact .command fun u => by simp
  | frameStart => exact .only (effFrameStart_only ..)
  | lineStart => exact .only (effLineStart_only ..)
  | frameMessage => exact .only (effFrameMessage_only ..)
  | rowMessage => exact .only (effRowMessage_only ..)
  | sourceFrameSend => exact .only (effSourceFrameSend_only ..)
  | sourceRowSend => exact .only (effSourceRowSend_only ..)
  | rowFetchDone => exact .only (effRowFetchDone_only ..)
  | panelSequenceTimer => exact .only (effPanelSequenceTimer_only ..)
  | dispTiming c => exact execDispTiming_kept c s
  | dispPlane c => exact execDispPlane_kept c s
  | dispOverlay => exact .command fun u => by simp
  | dispCommit => exact .command fun u => by simp
  | dispUndercoat => exact .command fun u => by simp
  | dispCrcRegion => exact .command fun u => by simp
  | dispQuery => exact .command fun u => by simp
  | usbSetupToken => exact .only (effUsbSetupToken_only ..)
  | usbOutToken => exact .only (effUsbOutToken_only ..)
  | usbPingToken => exact .only (effUsbPingToken_only ..)
  | usbInToken => exact .only (effUsbInToken_only ..)
  | usbHubRequest => exact .only (effUsbHubRequest_only ..)
  | usbBusReset => exact .same (by simp)
  | vbusChange => exact .only (effVbusChange_only ..)
  | usbSof => exact .only (effUsbSof_only ..)
  | microframeStart => exact .only (effMicroframeStart_only ..)
  | overcurrentFilter => exact .only (effOvercurrentFilter_only ..)
  | connectDebounce => exact .only (effConnectDebounce_only ..)
  | portResetEnd => exact .only (effPortResetEnd_only ..)
  | resumeEnd => exact .only (effResumeEnd_only ..)
  | suspendIdle => exact .only (effSuspendIdle_only ..)
  | deviceRemoteWake => exact .only (effDeviceRemoteWake_only ..)
  | farBusTransaction => exact .only (effFarBusTransaction_only ..)
  | usbSetupMessage => exact .only (effUsbSetupMessage_only ..)
  | outdata => exact .only (effOutdata_only ..)
  | inreq => exact .only (effInreq_only ..)
  | indata => exact .only (effIndata_only ..)
  | result => exact .only (effResult_only ..)
  | portMessage => exact .only (effPortMessage_only ..)
  | sofrep => exact .only (effSofrep_only ..)
  | powerCycleEnd => exact .only (effPowerCycleEnd_only ..)
  | usbPortMap => exact .command fun u => by simp
  | usbQuery => exact .command fun u => by simp
  | usbPortPower => exact .command fun u => by simp
  | usbCounters => exact .command fun u => by simp
  | macFrameReceive => exact .only (effMacFrameReceive_only ..)
  | macLinkChange => exact .only (effMacLinkChange_only ..)
  | phyInterrupt => exact .only (effPhyInterrupt_only ..)
  | macFrameTransmit => exact .only (effMacFrameTransmit_only ..)
  | netMessage => exact .only (effNetMessage_only ..)
  | canFrameReceive => exact .only (effCanFrameReceive_only ..)
  | addressClaimSettle => exact .only (effAddressClaimSettle_only ..)
  | canBusIdle => exact .only (effCanBusIdle_only ..)
  | canBusOff => exact .only (effCanBusOff_only ..)
  | canBusOffRecovery => exact .only (effCanBusOffRecovery_only ..)
  | canMessage => exact .only (effCanMessage_only ..)
  | netPortCfg c => exact execNetPortCfg_kept c s
  | netVlanMap => exact .command fun u => by simp
  | netQuery => exact .command fun u => by simp
  | netCounters => exact .command fun u => by simp
  | canCfg => exact .command fun u => by simp
  | canFilter => exact .command fun u => by simp
  | canName => exact .command fun u => by simp
  | canQuery => exact .command fun u => by simp
  | canSend c => exact execCanSend_kept c s
  | bar2MemoryWrite => exact .only (effBar2MemoryWrite_only ..)
  | bar2MemoryRead => exact .only (effBar2MemoryRead_only ..)
  | bar2Atomicop => exact .only (effBar2Atomicop_only ..)
  | bar2LockedRead => exact .only (effBar2LockedRead_only ..)
  | winRead => exact .same (by simp)
  | winWriteP => exact .same (by simp)
  | winWriteA => exact .same (by simp)
  | winAtomic => exact .same (by simp)
  | farAccessDone => exact .only (effFarAccessDone_only ..)
  | winReadData => exact .same (by simp)
  | winWriteDone => exact .same (by simp)
  | winAtomicData => exact .same (by simp)
  | winRetry => exact .same (by simp)
  | retryBackoffExpiry => exact .only (effRetryBackoffExpiry_only ..)
  | winRequestTimeout => exact .only (effWinRequestTimeout_only ..)
  | farHoldTimeout => exact .only (effFarHoldTimeout_only ..)
  | semaphoreLeaseExpiry => exact .only (effSemaphoreLeaseExpiry_only ..)
  | winOpen => exact .command fun u => by simp
  | winClose => exact .command fun u => by simp
  | winRange => exact .command fun u => by simp
  | winSem c => exact execWinSem_kept c s
  | winQuery c => exact execWinQuery_kept c s
  | sidebandTurn => exact .next (effSidebandTurn_keeps (.refl _) ..)
  | idleFrame => exact .only (effIdleFrame_only ..)
  | sidebandIdent => exact .only (effSidebandIdent_only ..)
  | sidebandRate => exact .next (effSidebandRate_keeps (.refl _) ..)
  | sidebandWake => exact .next (effSidebandWake_keeps (.refl _) ..)
  | srcCaps => exact .only (effSrcCaps_only ..)
  | requestFrame => exact .only (effRequestFrame_only ..)
  | acceptFrame => exact .only (effAcceptFrame_only ..)
  | rejectFrame => exact .only (effRejectFrame_only ..)
  | psRdy => exact .only (effPsRdy_only ..)
  | swapReq => exact .only (effSwapReq_only ..)
  | swapRetry => exact .only (effSwapRetry_only ..)
  | fsArm => exact .only (effFsArm_only ..)
  | goodbye => exact .only (effGoodbye_only ..)
  | carrierLoss => exact .next (effCarrierLoss_keeps (.refl _) ..)
  | attachDebounce => exact .only (effAttachDebounce_only ..)
  | sidebandExchangeTimeout => exact .only (effSidebandExchangeTimeout_only ..)
  | negotiationTimeout => exact .only (effNegotiationTimeout_only ..)
  | srcCapsResend => exact .only (effSrcCapsResend_only ..)
  | foldbackUpdate => exact .only (effFoldbackUpdate_only ..)
  | comparatorTrip => exact .only (effComparatorTrip_only ..)
  | comparatorDisagree => exact .next (by simp [State.detect_keeps])
  | currentLimitEnd => exact .only (effCurrentLimitEnd_only ..)
  | faultTimerExpiry => exact .only (effFaultTimerExpiry_only ..)
  | uvOvFilter => exact .only (effUvOvFilter_only ..)
  | insertionDelay => exact .only (effInsertionDelay_only ..)
  | qualificationDone => exact .only (effQualificationDone_only ..)
  | dischargeDone => exact .only (effDischargeDone_only ..)
  | fetShort => exact .only (effFetShort_only ..)
  | retryTimerExpiry => exact .only (effRetryTimerExpiry_only ..)
  | keepOffDone => exact .only (effKeepOffDone_only ..)
  | keepSenseFault => exact .only (effKeepSenseFault_only ..)
  | fastSwapCrossing => exact .only (effFastSwapCrossing_only ..)
  | fastSwapClose => exact .only (effFastSwapClose_only ..)
  | transitionTimeout => exact .only (effTransitionTimeout_only ..)
  | pmbusDone => exact .only (effPmbusDone_only ..)
  | pmbAlert => exact .only (effPmbAlert_only ..)
  | voutSlewStep => exact .only (effVoutSlewStep_only ..)
  | converterPoll => exact .only (effConverterPoll_only ..)
  | pwrQuery => exact .command fun u => by simp
  | pwrContract c => exact execPwrContract_kept c s
  | pwrSwap => exact .command fun u => by simp
  | pwrLimits => exact .command fun u => by simp
  | pwrResetFault => exact .command fun u => by simp
  | pwrLog => exact .command fun u => by simp
  | skimPass => exact .only (effSkimPass_only ..)
  | healthTimeout => exact .only (effHealthTimeout_only ..)
  | keyGenerate => exact .command fun u => by simp
  | keyImport => exact .command fun u => by simp
  | keyExportWrapped => exact .command fun u => by simp
  | keyLoad => exact .command fun u => by simp
  | keyDestroy => exact .command fun u => by simp
  | keyAttest => exact .command fun u => by simp
  | keyDerive => exact .command fun u => by simp
  | keyCrypt c => exact execKeyCrypt_kept c s
  | keyPairLink c => exact execKeyPairLink_kept c s
  | imgStage => exact .command fun u => by simp
  | imgCommit => exact .commandKeeps fun u _ k => by simp [State.bootImage_keeps, k]
  | imgQuery => exact .command fun u => by simp
  | imgConfirm => exact .command fun u => by simp
  | imgRevert => exact .command fun u => by simp
  | checkDetect => exact .next (State.detect_keeps (.refl _) ..)
  | handshakeStall => exact .next (State.detect_keeps (.refl _) ..)
  | domainRecoveryEnd => exact .only (effDomainRecoveryEnd_only ..)
  | recoveryBoundExceeded => exact .next (effRecoveryBoundExceeded_keeps (.refl _) ..)
  | recoveryWindowEnd => exact .same (by simp)
  | patrolScrub => exact .next (effPatrolScrub_keeps (.refl _) ..)
  | injectDelayExpiry => exact .next (effInjectDelayExpiry_keeps (.refl _) ..)
  | diagErrors => exact .command fun u => by simp
  | diagInject => exact .command fun u => by simp
  | diagScrub => exact .command fun u => by simp
  | diagSelftest => exact .command fun u => by simp
  | diagClear => exact .command fun u => by simp
  | symbolLock => exact .only (effSymbolLock_only ..)
  | wakeEndSkpReceive => exact .only (effWakeEndSkpReceive_only ..)
  | deviceDisconnect => exact .only (effDeviceDisconnect_only ..)
  | usbOcNRelease => exact .only (effUsbOcNRelease_only ..)
  | globalResume => exact .only (effGlobalResume_only ..)
  | canFrameSent => exact .only (effCanFrameSent_only ..)
  | canErrorPassive => exact .only (effCanErrorPassive_only ..)
  | semaphoreWaitExpiry => exact .only (effSemaphoreWaitExpiry_only ..)
  | keepInRange => exact .only (effKeepInRange_only ..)
  | mdioAccessDone => exact .only (effMdioAccessDone_only ..)
  | entropyStartupPass => exact .only (effEntropyStartupPass_only ..)

end Sys2Proof.Machine
end

section
/-! Resets, straps and the laws of the modes: O4, O5 and O6. -/

namespace Sys2Proof.Machine
open Sys2Proof

/-! ### Resets and straps (R27 to R31, R49, R52, R53) -/

section
variable {s t : State} {pins : BitVec 14} {wakeN : Bool}

/-- What sampling leaves, whether or not WAKE_N asks for a run. -/
theorem State.sampleStraps_samples (s : State) (pins : BitVec 14) (wakeN : Bool) :
    let t := s.sampleStraps pins wakeN
    t.ret.straps = pins ∧ t.ret.strapsValid = true ∧ t.ret.strapDefer = false ∧ t.ret.inReset = false ∧ t.ret.mode = .sentry := by
  cases wakeN <;> simp [State.sampleStraps, State.runRequest_ret]

theorem exec_resetNRelease_idle (idle : s.ret.inReset = false ∨ s.ret.strapDefer = true) (testEn : Bool) :
    exec (.resetNRelease pins wakeN testEn) s = .next s :=
  congrArg _ (if_pos (by simpa using idle))

theorem exec_resetNRelease_testEn (reset : s.ret.inReset = true) (waits : s.ret.strapDefer = false) :
    exec (.resetNRelease pins wakeN true) s = .next { s with ret := { s.ret with testEn := true } } :=
  congrArg _ ((if_neg (by simp [reset, waits])).trans (if_pos rfl))

theorem exec_resetNRelease_samples (reset : s.ret.inReset = true) (waits : s.ret.strapDefer = false) (rail : s.railValid .vddioC = true) :
    exec (.resetNRelease pins wakeN false) s = .next
      (({ s with ret := { s.ret with testEn := false, xspiAt := some s.uptime } } : State).sampleStraps pins wakeN) :=
  congrArg _ ((if_neg (by simp [reset, waits])).trans ((if_neg Bool.false_ne_true).trans (if_pos rail)))

theorem exec_resetNRelease_defers (reset : s.ret.inReset = true) (waits : s.ret.strapDefer = false) (rail : s.railValid .vddioC = false) :
    exec (.resetNRelease pins wakeN false) s = .next
      { s with ret := { s.ret with testEn := false, xspiAt := some s.uptime, strapDefer := true } } :=
  congrArg _ ((if_neg (by simp [reset, waits])).trans ((if_neg Bool.false_ne_true).trans (if_neg (ne_true_of_eq_false rail))))

theorem exec_strapSampleDeferred_idle (idle : ¬ (s.ret.strapDefer = true ∧ s.railValid .vddioC = true)) (testEn : Bool) :
    exec (.strapSampleDeferred pins wakeN testEn) s = .next s :=
  congrArg _ (if_neg idle)

theorem exec_strapSampleDeferred_testEn (due : s.ret.strapDefer = true ∧ s.railValid .vddioC = true) :
    exec (.strapSampleDeferred pins wakeN true) s = .next { s with ret := { s.ret with testEn := true, strapDefer := false } } :=
  congrArg _ (if_pos due)

theorem exec_strapSampleDeferred_samples (due : s.ret.strapDefer = true ∧ s.railValid .vddioC = true) :
    exec (.strapSampleDeferred pins wakeN false) s = .next (s.sampleStraps pins wakeN) :=
  congrArg _ (if_pos due)

/-! ### The laws of the modes, the latch and reset -/

theorem State.laws_iff :
    s.modeLaw ∧ s.resetLaw ↔ s.ret.lawful ∧ (s.ret.strapDefer = true → s.ret.inReset = true) := by
  simp only [State.modeLaw, State.resetLaw, Ret.lawful]
  tauto

theorem Ret.Keeps.laws (h : s.ret.Keeps t.ret) (law : s.modeLaw ∧ s.resetLaw) : t.modeLaw ∧ t.resetLaw := by
  rw [State.laws_iff] at law ⊢
  obtain ⟨lawful, defer⟩ := law
  exact ⟨h.lawful lawful, by simpa only [h.strapDefer, h.inReset] using defer⟩

theorem State.laws_of_sentry (rest : t.ret.mode = .sentry) (defer : t.ret.strapDefer = true → t.ret.inReset = true) :
    t.modeLaw ∧ t.resetLaw :=
  State.laws_iff.2 ⟨by simp [Ret.lawful, rest], defer⟩

theorem State.sampleStraps_laws (s : State) (pins : BitVec 14) (wakeN : Bool) :
    (s.sampleStraps pins wakeN).modeLaw ∧ (s.sampleStraps pins wakeN).resetLaw := by
  obtain ⟨_, _, sampled, _, rest⟩ := s.sampleStraps_samples pins wakeN
  exact State.laws_of_sentry rest (by simp [sampled])

theorem exec_powerOnReset_laws (run : exec .powerOnReset s = .next t) : t.modeLaw ∧ t.resetLaw := by
  cases run
  exact State.laws_of_sentry rfl (fun _ => rfl)

theorem exec_resetNAssert_laws (run : exec .resetNAssert s = .next t) : t.modeLaw ∧ t.resetLaw := by
  cases run
  exact State.laws_of_sentry rfl (fun _ => rfl)

theorem exec_resetNRelease_laws {testEn : Bool} (law : s.modeLaw ∧ s.resetLaw) (run : exec (.resetNRelease pins wakeN testEn) s = .next t) :
    t.modeLaw ∧ t.resetLaw := by
  by_cases idle : s.ret.inReset = false ∨ s.ret.strapDefer = true
  · rw [exec_resetNRelease_idle idle] at run
    cases run
    exact law
  · simp only [not_or, Bool.not_eq_false, Bool.not_eq_true] at idle
    obtain ⟨reset, waits⟩ := idle
    cases testEn with
    | true =>
      rw [exec_resetNRelease_testEn reset waits] at run
      cases run
      exact law
    | false =>
      cases rail : s.railValid .vddioC
      · rw [exec_resetNRelease_defers reset waits rail] at run
        cases run
        exact State.laws_of_sentry (law.2.2 reset) (fun _ => reset)
      · rw [exec_resetNRelease_samples reset waits rail] at run
        cases run
        exact State.sampleStraps_laws ..

theorem exec_strapSampleDeferred_laws {testEn : Bool} (law : s.modeLaw ∧ s.resetLaw)
    (run : exec (.strapSampleDeferred pins wakeN testEn) s = .next t) : t.modeLaw ∧ t.resetLaw := by
  by_cases due : s.ret.strapDefer = true ∧ s.railValid .vddioC = true
  · cases testEn with
    | true =>
      rw [exec_strapSampleDeferred_testEn due] at run
      cases run
      rw [State.laws_iff] at law ⊢
      exact ⟨law.1, nofun⟩
    | false =>
      rw [exec_strapSampleDeferred_samples due] at run
      cases run
      exact State.sampleStraps_laws ..
  · rw [exec_strapSampleDeferred_idle due] at run
    cases run
    exact law

/-- A row of any kind keeps the laws. -/
theorem exec_laws (i : Instr) (law : s.modeLaw ∧ s.resetLaw) (run : exec i s = .next t) : t.modeLaw ∧ t.resetLaw := by
  cases row : resetRow i with
  | false => exact (exec_kept i s row t run).laws law
  | true =>
    unfold resetRow at row
    split at row
    · exact exec_powerOnReset_laws run
    · exact exec_resetNAssert_laws run
    · exact exec_resetNRelease_laws law run
    · exact exec_strapSampleDeferred_laws law run
    · contradiction

theorem State.tick_laws (law : s.modeLaw ∧ s.resetLaw) : s.tick.modeLaw ∧ s.tick.resetLaw := by
  have same : s.tick.ret = s.ret := ret_of_only s.tick_only
  exact Ret.Keeps.laws (same ▸ .refl _) law

end

/-- Settles O4: by the laws of the tick and of every row, which `exec_kept` gives but for the resets and the samplings. -/
theorem modeInvariant : Obligations.modeInvariant := by
  intro s t mode reset run
  unfold step at run
  split at run
  · cases run
    exact State.tick_laws ⟨mode, reset⟩
  next c rest _ => exact exec_laws c (s := { s with pending := rest }) ⟨mode, reset⟩ run

/-- Settles O5: after reset the hub rests in Sentry, in reset. -/
theorem modeInvariantAtReset : Obligations.modeInvariantAtReset := State.laws_of_sentry rfl fun _ => rfl

/-- Settles O6: a row that samples does so in a hub in reset only, and every other row but the resets keeps the straps. -/
theorem strapsHold : Obligations.strapsHold := by
  intro i s t notPower notReset out sampled run
  cases row : resetRow i with
  | false =>
    have kept := exec_kept i s row t run
    exact ⟨kept.straps, kept.strapsValid⟩
  | true =>
    unfold resetRow at row
    split at row
    · exact absurd rfl notPower
    · exact absurd rfl notReset
    · rw [exec_resetNRelease_idle (.inl out)] at run
      cases run
      exact ⟨rfl, rfl⟩
    · rw [exec_strapSampleDeferred_idle (by simp [sampled])] at run
      cases run
      exact ⟨rfl, rfl⟩
    · contradiction

end Sys2Proof.Machine
end

section
/-! Rails, modes and PE_PERSTn_N: O12 to O15. -/

namespace Sys2Proof.Machine
open Sys2Proof

/-! ### The safe levels of the action pins (R31) -/

theorem exec_actSafelvlDrive {s : State} (valid : s.ret.strapsValid = true) (undriven : s.ret.actDriven = false) :
    exec .actSafelvlDrive s = .next ({ s with ret := { s.ret with actDriven := true } } : State).pinsToSafe :=
  congrArg Host.Outcome.next (if_pos ⟨valid, by simp [undriven]⟩)

/-! ### Rails (R43, R44, R48, R59) -/

/-- The hub with a rail lost, before anything follows from it. -/
def State.railDropped (s : State) (x : Rail) : State :=
  { s with ret := { s.ret with rails := s.ret.rails.filter fun q => decide (q ≠ x), lateRails := s.ret.lateRails.filter fun q => decide (q ≠ x) } }

/-- Safe is entered first where a DEV_MODE in its delay asks for it (R59). -/
def State.safeFirst (s : State) : State :=
  match s.ret.devReq with
  | some d => if d.toSafe then s.enterSafe 7 else s
  | none => s

/-- The loss of a run rail resets the core (R48, R53, R54). -/
def State.runRailLost (s : State) : State :=
  ({ s with ret := { s.ret with resetCause := 3, actRetained := true, xspiAt := none } } : State).toSentry

section
variable {s t : State} {x : Rail}

theorem State.railValid_added (rails : t.ret.rails = x :: s.ret.rails) :
    t.railValid x = true ∧ ∀ q, q ≠ x → t.railValid q = s.railValid q := by
  simp +contextual [State.railValid, rails]

theorem State.railValid_dropped (rails : t.ret.rails = (s.railDropped x).ret.rails) :
    t.railValid x = false ∧ ∀ q, q ≠ x → t.railValid q = s.railValid q := by
  simp +contextual [State.railValid, State.railDropped, rails]

theorem effRailValid_ret (invalid : s.railValid x = false) :
    ∃ late, (effRailValid x s).ret = { s.ret with rails := x :: s.ret.rails, lateRails := late } := by
  simp [effRailValid, invalid]

theorem State.enterSafe_rails (cause : Nat) : (s.enterSafe cause).ret.rails = s.ret.rails := by
  rw [State.enterSafe_ret]
  split <;> rfl

theorem State.safeFirst_rails : s.safeFirst.ret.rails = s.ret.rails := by
  unfold State.safeFirst
  split
  · split
    · exact State.enterSafe_rails 7
    · rfl
  · rfl

theorem State.safeFirst_latched {d : DevReq} (asked : s.ret.devReq = some d) (safe : d.toSafe = true) (core : s.coreOn = true)
    (other : s.ret.mode ≠ .safe) : s.safeFirst.ret.safeLatch = true := by
  simp [State.safeFirst, asked, safe, State.enterSafe_ret, core, other]

theorem State.safeFirst_unasked (unasked : ∀ d, s.ret.devReq = some d → d.toSafe = false) : s.safeFirst = s := by
  unfold State.safeFirst
  split
  next d asked => simp [unasked d asked]
  next => rfl

/-- Everything in the core is lost. -/
theorem State.toSentry_core (s : State) : s.toSentry.links = [] ∧ s.toSentry.trav = Trav.init ∧ s.toSentry.tree = Tree.init := by
  have pins := @State.pinsToSafe_only
  have idents := @State.pushIdents_only
  simp [State.toSentry, State.coreClear, pins, idents]

theorem State.runRailLost_ret : s.runRailLost.ret =
    { s.ret with resetCause := 3, actRetained := true, xspiAt := none, devReq := none, mode := .sentry } :=
  State.toSentry_ret

theorem effRailInvalid_valid (valid : s.railValid x = true) :
    effRailInvalid x s =
      let v := s.railDropped x
      if (!s.coreOn) = true then v
      else if x = .vddLv then (v.headGone 0).headGone 1
      else if x = .vddUsb then v.usbDetachAll
      else v.safeFirst.runRailLost :=
  if_neg (by simp [valid])

theorem effRailInvalid_lost (valid : s.railValid x = true) (core : s.coreOn = true) (lv : x ≠ .vddLv) (usb : x ≠ .vddUsb) :
    effRailInvalid x s = (s.railDropped x).safeFirst.runRailLost := by
  simp [effRailInvalid_valid valid, core, lv, usb]

/-- A display or USB rail, or any outside the core modes, leaves no more than its own mark. -/
theorem effRailInvalid_ret (valid : s.railValid x = true) (stays : ¬ (s.coreOn = true ∧ x ≠ .vddLv ∧ x ≠ .vddUsb)) :
    (effRailInvalid x s).ret = (s.railDropped x).ret := by
  rw [effRailInvalid_valid valid]
  by_cases core : s.coreOn = true
  · by_cases lv : x = .vddLv
    · simp [core, lv]
    · have usb : x = .vddUsb := by
        by_contra usb
        exact stays ⟨core, lv, usb⟩
      simp [core, usb]
  · simp [core]

end

/-! ### Wake, dormancy, Survey and the delay of a DEV_MODE (R57, R61 to R63, R261, R394) -/

section
variable {s : State}

theorem effWakeReason_wakes (out : s.ret.inReset = false) (byPin : Bool) :
    (effWakeReason byPin s).ret.mode = (if s.ret.mode = .dormant then .sentry else s.ret.mode) ∧
      (effWakeReason byPin s).ret.runReq = (byPin || s.ret.runReq) := by
  cases byPin <;> by_cases asleep : s.ret.mode = .dormant <;> simp [effWakeReason, State.runRequest_ret, out, asleep]

theorem exec_dormancyDelayExpiry (rest : s.ret.mode = .sentry) (out : s.ret.inReset = false) (quiet : s.quiet = true) :
    exec (.dormancyDelayExpiry true) s = .next { s with ret := { s.ret with wakeN := true, mode := .dormant } } :=
  congrArg _ (if_pos ⟨rest, by simp [out], rfl, quiet⟩)

theorem exec_surveyEntry (rest : s.ret.mode = .sentry) (out : s.ret.inReset = false) (rails : s.runRailsValid = true)
    (asked : s.ret.runReq = true ∨ s.ret.safeLatch = true) (failed : Bool) :
    exec (.surveyEntry failed) s = .next (s.surveyStart 0 failed) :=
  congrArg _ (if_pos ⟨rest, by simp [out], rails, asked⟩)

theorem State.coreReset_time (s : State) : s.coreReset.time = Time.init := by
  have link := @State.randomLink_only
  have ident := @State.identKept_only
  have drew := @State.drew_only
  simp [State.coreReset, State.coreClear, link, ident, drew]

/-- Survey without the built-in image: the run request is spent, and the latch stays. -/
theorem State.surveyStart_ret (image : s.boot ≠ 2) (cause : Nat) :
    (s.surveyStart cause false).ret =
      { s.ret with devReq := none, mode := .survey, runReq := false, wakeSent := [], lateRails := [], xspiAt := some s.uptime } := by
  have low := @State.outputsLow_only
  have clear := @State.coreReset_only
  have slot : ¬ bits s.ret.straps.toNat 5 4 = 2 := image
  simp [State.surveyStart, State.boot, State.strap, slot, low, clear]

/-- Datum time starts again, and nothing on the way into Survey sets it. -/
theorem State.surveyStart_time (image : s.boot ≠ 2) (cause : Nat) : (s.surveyStart cause false).time = Time.init := by
  have slot : ¬ bits s.ret.straps.toNat 5 4 = 2 := image
  have area := @State.areaBoot_only
  have display := @State.captureDefault_only
  have idents := @State.pushIdents_only
  have event := @State.modeEvent_only
  have keys := @State.keysReload_only
  have pins := @State.pinsToSafe_only
  have rate := @State.sendRate_only
  have slice := @State.setSlice_only
  simp [State.surveyStart, State.boot, State.strap, slot, area, display, idents, event, keys, pins, rate, slice, State.coreReset_time]

theorem exec_surveyCarrierTimeout (survey : s.ret.mode = .survey) (leaf : s.isRoot = false) (silent : (s.port 0).sb0.carrier = false) :
    exec (.surveyCarrierTimeout true) s = .next
      (({ s with ret := { s.ret with wakeN := true } } : State).linksLeave.pwrLeave.toSentry) :=
  congrArg Host.Outcome.next (if_pos ⟨survey, (Bool.not_eq_true' _).mpr leaf, rfl, (Bool.not_eq_true' _).mpr silent⟩)

theorem effDevModeDelayExpiry_ends {d : DevReq} (asked : s.ret.devReq = some d) (core : s.coreOn = true) (other : s.ret.mode ≠ .safe) :
    (effDevModeDelayExpiry s).ret.mode = (if d.toSafe then .safe else .sentry) ∧ (effDevModeDelayExpiry s).ret.devReq = none := by
  have on (h : HostIf) : ({ s with ret := { s.ret with devReq := none }, host := h } : State).coreOn = true := core
  unfold effDevModeDelayExpiry
  rw [asked]
  cases safe : d.toSafe <;> simp [State.causedBy, State.enterSafe_ret, State.toSentry_ret, on, other, safe]

end

/-! ### PE_PERSTn_N (R36, R63, R66) -/

section
variable {s : State} {port : Nat}

theorem exec_perstRelease (two : port < 2) :
    exec (.perstRelease port) s = .next
      (let v := s.setPerst port true
       if v.hostPortUsed port = true ∧ v.ret.strapsValid = true then v.runRequest else v) :=
  congrArg Host.Outcome.next (if_neg (Nat.not_le.2 two))

theorem State.setPerst_level (level : Bool) :
    (if port = 0 then (s.setPerst port level).ret.perst0 else (s.setPerst port level).ret.perst1) = level := by
  unfold State.setPerst
  split <;> simp [*]

theorem State.setPerst_retained (level : Bool) : (s.setPerst port level).ret.mode = s.ret.mode ∧
    (s.setPerst port level).ret.runReq = s.ret.runReq ∧ (s.setPerst port level).ret.strapsValid = s.ret.strapsValid := by
  unfold State.setPerst
  split <;> exact ⟨rfl, rfl, rfl⟩

theorem State.setPerst_rest (level : Bool) : (s.setPerst port level).hostPortUsed port = s.hostPortUsed port ∧
    (s.setPerst port level).coreOn = s.coreOn ∧ (s.setPerst port level).hport port = s.hport port ∧
    (s.setPerst port level).board = s.board := by
  unfold State.setPerst
  split <;> exact ⟨rfl, rfl, rfl, rfl⟩

/-- The port's level falls; where the port is in use in a core mode, its configuration and slices are put back. -/
theorem exec_hostPortReset (two : port < 2) :
    exec (.hostPortReset port) s = .next
      (let v := s.setPerst port false
       let h := s.hport port
       if s.hostPortUsed port = true ∧ s.coreOn = true then
         (v.setHport port { HPort.init with
           retry := !s.board.applied, snapT := h.snapT, snapW7 := h.snapW7, snapOk := h.snapOk, unmapped := h.unmapped }).resetPortSlices port
       else v) := by
  obtain ⟨used, core, hport, board⟩ := s.setPerst_rest (port := port) false
  refine congrArg Host.Outcome.next ?_
  rw [effHostPortReset, if_neg (Nat.not_le.2 two)]
  dsimp only
  rw [used, core, hport, board]
  cases s.hostPortUsed port <;> cases s.coreOn <;> rfl

end

/-! ### The obligations -/

/-- Settles O12: each clause is a field of `State.reset`, and VID is the code of a hub whose core is off. -/
theorem resetState : Obligations.resetState := by
  unfold Obligations.resetState
  exact ⟨rfl, rfl, rfl, rfl, rfl, rfl, rfl, rfl, rfl, rfl, rfl, rfl, rfl⟩

/-- Settles O13: the row does nothing while sampling is deferred, and otherwise notes the level of TEST_EN only. -/
theorem testEnHolds : Obligations.testEnHolds := by
  intro s pins wakeN reset
  cases waits : s.ret.strapDefer with
  | true => exact ⟨s, exec_resetNRelease_idle (.inr waits) true, reset, rfl, rfl⟩
  | false => exact ⟨_, exec_resetNRelease_testEn reset waits, reset, rfl, rfl⟩

/-- Settles O14: the two resets by computation, and the straps by what `State.sampleStraps` leaves. -/
theorem resetsAndStraps : Obligations.resetsAndStraps := by
  refine ⟨⟨?power, ?resetN⟩, ?release, ?defer, ?late, ?drive⟩
  case power => exact fun s => ⟨_, rfl, rfl, rfl, rfl, rfl, rfl, rfl, rfl, rfl, rfl, rfl⟩
  case resetN => exact fun s => ⟨_, rfl, rfl, rfl, rfl, rfl, rfl, rfl, rfl, rfl, rfl, rfl⟩
  case release =>
    intro s pins wakeN reset waits rail
    obtain ⟨straps, valid, _, out, rest⟩ := State.sampleStraps_samples _ pins wakeN
    exact ⟨_, exec_resetNRelease_samples reset waits rail, straps, valid, out, rest⟩
  case defer => exact fun s pins wakeN reset waits rail => ⟨_, exec_resetNRelease_defers reset waits rail, rfl, reset, rfl⟩
  case late =>
    intro s pins wakeN waits rail
    exact ⟨_, exec_strapSampleDeferred_samples ⟨waits, rail⟩, s.sampleStraps_samples pins wakeN⟩
  case drive =>
    intro s valid undriven
    refine ⟨_, exec_actSafelvlDrive valid undriven, ?_, ?_⟩ <;> rw [State.pinsToSafe_ret]

/-- Settles O15: each row by what it makes of the retained record, and the loss of a run rail by what `State.toSentry` clears. -/
theorem modeChanges : Obligations.modeChanges := by
  refine ⟨⟨?railValid, ?railInvalid, ?wake, ?dormancy, ?survey, ?carrier, ?field, ?devMode⟩, ?release, ?fall, ?retry⟩
  case railValid =>
    intro s x invalid
    obtain ⟨late, ret⟩ := effRailValid_ret invalid
    obtain ⟨added, others⟩ := State.railValid_added (s := s) (t := effRailValid x s) (x := x) (by rw [ret])
    exact ⟨_, rfl, added, others, by rw [ret]⟩
  case railInvalid =>
    intro s x valid
    refine ⟨_, rfl, ?_⟩
    by_cases lost : s.coreOn = true ∧ x ≠ .vddLv ∧ x ≠ .vddUsb
    · rw [if_pos lost]
      obtain ⟨core, lv, usb⟩ := lost
      rw [effRailInvalid_lost valid core lv usb]
      obtain ⟨dropped, others⟩ := State.railValid_dropped (t := (s.railDropped x).safeFirst.runRailLost)
        (by rw [State.runRailLost_ret]; exact State.safeFirst_rails)
      refine ⟨dropped, others, fun unasked => ?_, fun d asked safe _ other _ _ => ?_, ?_⟩
      · rw [State.runRailLost_ret, State.safeFirst_unasked (s := s.railDropped x) unasked]
        rfl
      · rw [State.runRailLost_ret]
        exact State.safeFirst_latched (s := s.railDropped x) asked safe core other
      · rw [State.runRailLost_ret]
        exact ⟨rfl, rfl, State.toSentry_core _⟩
    · rw [if_neg lost]
      have ret := effRailInvalid_ret valid lost
      obtain ⟨dropped, others⟩ := State.railValid_dropped (t := effRailInvalid x s) (by rw [ret])
      refine ⟨dropped, others, fun _ => by rw [ret]; rfl, fun _ _ _ core _ lv usb => absurd ⟨core, lv, usb⟩ lost, ?_⟩
      rw [ret]
      exact ⟨rfl, rfl⟩
  case wake => exact fun s byPin out => ⟨_, rfl, effWakeReason_wakes out byPin⟩
  case dormancy => exact fun s rest out quiet => ⟨_, exec_dormancyDelayExpiry rest out quiet, rfl⟩
  case survey =>
    intro s rest out rails asked image
    refine ⟨_, exec_surveyEntry rest out rails asked false, ?_⟩
    rw [State.surveyStart_ret image, State.surveyStart_time image]
    exact ⟨rfl, rfl, rfl, rfl, rfl⟩
  case carrier =>
    intro s survey leaf silent
    exact ⟨_, exec_surveyCarrierTimeout survey leaf silent, by rw [State.toSentry_ret]⟩
  case field => exact fun s ready => ⟨_, rfl, by rw [effFieldEntry_ret ready]⟩
  case devMode => exact fun s d asked core other => ⟨_, rfl, effDevModeDelayExpiry_ends asked core other⟩
  case release =>
    intro s port two
    refine ⟨_, exec_perstRelease two, ?_⟩
    obtain ⟨used, _⟩ := s.setPerst_rest (port := port) true
    obtain ⟨mode, asked, valid⟩ := s.setPerst_retained (port := port) true
    have level := s.setPerst_level (port := port) true
    dsimp only
    rw [used, valid]
    by_cases asks : s.hostPortUsed port = true ∧ s.ret.strapsValid = true
    · rw [if_pos asks, State.runRequest_ret]
      exact ⟨level, mode, by simp [asks]⟩
    · rw [if_neg asks]
      have unasked : (s.hostPortUsed port && s.ret.strapsValid) = false := by
        rwa [← Bool.not_eq_true, Bool.and_eq_true]
      exact ⟨level, mode, by rw [asked, unasked, Bool.or_false]⟩
  case fall => exact fun s port two => ⟨exec_hostPortReset two, s.setPerst_level false⟩
  case retry =>
    intro s port two core used level
    refine ⟨_, congrArg Host.Outcome.next (if_pos ⟨core, used, level⟩), ?_⟩
    by_cases first : port = 0 <;> simp [State.hport, State.setHport, first]

end Sys2Proof.Machine
end

section
/-! The tick of the counter clock (R55, R261, R290): O2. -/

namespace Sys2Proof.Machine
open Sys2Proof

section
variable {s : State}

theorem step_idle (idle : s.pending = []) : step s = .next s.tick := by
  rw [step, idle]

/-- What a tick moves of the time: the datum, the slew that is left, and the frequency that it is moved by. -/
def Time.clock (t : Time) : Nat × Int × Int := (t.datum, t.slewLeft, t.freq)

theorem Time.acquire_clock (t : Time) : t.acquire.clock = t.clock := by
  unfold Time.acquire Time.unlock
  split <;> rfl

theorem State.ite_clock {c : Prop} [Decidable c] {a b : State} {x : Nat × Int × Int} (yes : a.time.clock = x) (no : b.time.clock = x) :
    (if c then a else b).time.clock = x := by
  split <;> assumption

/-- Counting a second of PPS_IN leaves the clock, even where the source is lost and ACQUIRING begins (R268). -/
theorem State.ppsSecond_clock (sec : Nat) : (s.ppsSecond sec).time.clock = s.time.clock := by
  have alert := @State.timeAlert_only
  exact State.ite_clock rfl (State.ite_clock rfl (by simp only [alert]; exact Time.acquire_clock _))

theorem State.ppsTick_clock : s.ppsTick.time.clock = s.time.clock := State.ite_clock (State.ppsSecond_clock _) rfl

/-- In a core mode the clock is that of `Time.tick`, and the rest of the tick leaves it. -/
theorem State.tick_clock (core : s.coreOn = true) : s.tick.time.clock = s.time.tick.clock := by
  have attach := @State.detachDone_only
  have launched := @State.launchesDone_only
  have on : ({ s with uptime := s.uptime + 1 } : State).coreOn = true := core
  simp [State.tick, on, attach, launched, State.ppsTick_clock]

theorem State.tick_uptime : s.tick.uptime = s.uptime + 1 := by
  have pps := @State.ppsTick_only
  have attach := @State.detachDone_only
  have launched := @State.launchesDone_only
  simp [State.tick, pps, attach, launched]

end

/-- Settles O2: a step on an empty queue is `State.tick`, whose clock `State.tick_clock` gives. -/
theorem idleTicks : Obligations.idleTicks := by
  intro s idle
  rw [step_idle idle]
  refine ⟨fun core => ?_, fun off => congrArg _ (if_neg (by simpa [State.coreOn] using off))⟩
  have clock := State.tick_clock core
  simp only [Time.clock, Prod.mk.injEq] at clock
  obtain ⟨datum, slew, freq⟩ := clock
  obtain ⟨pending, nv, ret, _⟩ := s.tick_only
  exact ⟨_, rfl, State.tick_uptime, pending.trans idle, datum, slew, freq, ret, nv⟩

end Sys2Proof.Machine
end

section
/-! The DEV_ commands and the tree reset (R49, R54, R58, R182, R393 to R395): O16 and O17. -/

namespace Sys2Proof.Machine
open Sys2Proof

/-- A link table out of canonical form (log entry 2): two entries for link 0, each of a link that is UP and otherwise as at reset. -/
def twiceUp : State :=
  let up : Link := { Link.init with st := .up }
  { State.reset with links := [(0, up), (0, up)] }

/-- Refutes O16: its last clause speaks of every link table, those out of canonical form too. In `twiceUp` link 0, once DOWN, is as at reset, so
that its entry is erased, and the second entry, of a link that is UP, is read from then on. -/
theorem not_devCommands : ¬ Obligations.devCommands := by
  rintro ⟨_, _, _, _, _, _, _, _, down⟩
  have present : 0 ∈ twiceUp.linksPresent := by decide
  have up : (twiceUp.linksLeave.link 0).st = .up := by decide
  simp [down twiceUp 0 present] at up

/-- R58: the encoding of the mode is part of DEV_MODE's layout. -/
theorem layDevMode_bad {c : Cmd} (sentry : c.f 4 2 0 ≠ 1) (safe : c.f 4 2 0 ≠ 5) : c.layoutOk (layDevMode c) = false := by
  simp [Cmd.layoutOk, layDevMode, sentry, safe]

/-- Settles O17: a mode that DEV_MODE may not name breaks the layout, which completes with BAD_PARAM. -/
theorem devModeNames : Obligations.devModeNames :=
  fun _ _ core op ready sentry safe => congrArg _ (State.runCmd_bad core op ready (layDevMode_bad sentry safe) _)

end Sys2Proof.Machine
end

section
/-! The Safe latch (R52, R57, R80): what sets it, what clears it, and how a hub leaves Safe. -/

namespace Sys2Proof.Machine
open Sys2Proof

/-! ### What a row may do to the mode and the latch -/

/-- How a retained record `u` may follow `r` in every row but those that clear the latch: Safe is entered with the latch set, the latch stays
set, and the way out of Safe is to Sentry. -/
structure Ret.KeepsSafe (r u : Ret) : Prop where
  enters : r.mode ≠ .safe → u.mode = .safe → u.safeLatch = true
  latched : r.safeLatch = true → u.safeLatch = true
  leaves : r.mode = .safe → u.mode = .safe ∨ u.mode = .sentry

section
variable {r u v : Ret}

@[simp] theorem Ret.KeepsSafe.refl (r : Ret) : r.KeepsSafe r := ⟨fun other safe => absurd safe other, id, .inl⟩

/-- A change of neither the mode nor the latch. -/
theorem Ret.KeepsSafe.other (h : r.KeepsSafe u) (mode : v.mode = u.mode) (latch : v.safeLatch = u.safeLatch) : r.KeepsSafe v :=
  ⟨by simpa only [mode, latch] using h.enters, by simpa only [latch] using h.latched, by simpa only [mode] using h.leaves⟩

theorem Ret.KeepsSafe.ite {c : Prop} [Decidable c] (yes : c → r.KeepsSafe u) (no : ¬ c → r.KeepsSafe v) :
    r.KeepsSafe (if c then u else v) := by
  split
  · exact yes ‹_›
  · exact no ‹_›

@[simp] theorem Ret.keepsSafe_ite {c : Prop} [Decidable c] :
    r.KeepsSafe (if c then u else v) ↔ if c then r.KeepsSafe u else r.KeepsSafe v := by
  split <;> rfl

theorem Ret.KeepsSafe.foldl {α : Type} {g : State → α → State} (h : ∀ s x, r.KeepsSafe s.ret → r.KeepsSafe (g s x).ret) (l : List α)
    {s : State} (k : r.KeepsSafe s.ret) : r.KeepsSafe (l.foldl g s).ret := by
  induction l generalizing s with
  | nil => exact k
  | cons a l ih => exact ih (h s a k)

/-- Sentry may follow every mode. -/
theorem Ret.KeepsSafe.sentry (h : r.KeepsSafe u) : r.KeepsSafe { u with mode := .sentry } :=
  ⟨nofun, h.latched, fun _ => .inr rfl⟩

/-- What has come to a mode that is neither Safe nor Sentry did not set out from Safe, and may go on to any mode but Safe. -/
theorem Ret.KeepsSafe.onward (h : r.KeepsSafe u) (away : u.mode ≠ .safe) (core : u.mode ≠ .sentry) {m : Mode} (other : m ≠ .safe) :
    r.KeepsSafe { u with mode := m } :=
  ⟨fun _ safe => absurd safe other, h.latched, fun safe => ((h.leaves safe).elim away core).elim⟩

/-- Entry to Safe sets the latch. -/
theorem Ret.keepsSafe_safe : r.KeepsSafe { u with mode := .safe, safeLatch := true } :=
  ⟨fun _ _ => rfl, fun _ => rfl, fun _ => .inl rfl⟩

/-- A hub outside Safe may go to any mode but Safe. -/
theorem Ret.KeepsSafe.start (away : r.mode ≠ .safe) {m : Mode} (other : m ≠ .safe) : r.KeepsSafe { r with mode := m } :=
  ⟨fun _ safe => absurd safe other, id, fun safe => absurd safe away⟩

end

/-! ### Operations that guard Safe -/

section
variable {r : Ret} {s : State} (h : r.KeepsSafe s.ret)
include h

theorem State.loseTime_keepsSafe (cause : Nat) : r.KeepsSafe (s.loseTime cause).ret := by
  rw [State.loseTime_ret]
  exact .ite (fun field => h.onward (by simp [field]) (by simp [field]) (by simp)) fun _ => h

theorem State.tryReturn_keepsSafe : r.KeepsSafe s.tryReturn.ret := by
  rw [State.tryReturn_ret]
  exact .ite (fun ⟨holdover, _⟩ => h.onward (by simp [holdover]) (by simp [holdover]) (by simp)) fun _ => h

theorem State.enterSafe_keepsSafe (cause : Nat) : r.KeepsSafe (s.enterSafe cause).ret := by
  rw [State.enterSafe_ret]
  exact .ite (fun _ => h) fun _ => (Ret.keepsSafe_safe (u := s.ret)).other rfl rfl

theorem State.latchSafe_keepsSafe : r.KeepsSafe s.latchSafe.ret := by
  simp [State.latchSafe, State.enterSafe_keepsSafe, h]

theorem State.safeFirst_keepsSafe : r.KeepsSafe s.safeFirst.ret := by
  unfold State.safeFirst
  split <;> simp [State.enterSafe_keepsSafe, h]

theorem State.toSentry_keepsSafe : r.KeepsSafe s.toSentry.ret := by
  rw [State.toSentry_ret]
  exact h.sentry.other rfl rfl

/-! #### Time (Chapter 9) -/

theorem State.applyStep_keepsSafe (new : Nat) (byTime alert : Bool) : r.KeepsSafe (s.applyStep new byTime alert).ret := by
  simp [State.applyStep, State.tryReturn_keepsSafe, h]

theorem State.stepAt_keepsSafe (sec newT : Nat) (byTime : Bool) : r.KeepsSafe (s.stepAt sec newT byTime).ret := by
  simp [State.stepAt, State.applyStep_keepsSafe, h]

theorem State.orderStep_keepsSafe (delta : Int) (byTime : Bool) : r.KeepsSafe (s.orderStep delta byTime).ret :=
  s.stepAt_keepsSafe h ..

theorem State.servo_keepsSafe (th inv secs : Int) : r.KeepsSafe (s.servo th inv secs).ret := by
  simp [State.servo, State.orderStep_keepsSafe, h]

theorem State.exchInvalid_keepsSafe : r.KeepsSafe s.exchInvalid.ret := by
  simp [State.exchInvalid, State.loseTime_keepsSafe, h]

theorem State.useExchange_keepsSafe (th : Int) (k : Nat) (secs : Int) : r.KeepsSafe (s.useExchange th k secs).ret := by
  simp [State.useExchange, State.tryReturn_keepsSafe, State.servo_keepsSafe, h]

theorem State.useHeld_keepsSafe (t : Time) (m : Nat) : r.KeepsSafe (s.useHeld t m).ret := by
  unfold State.useHeld
  split <;> simp [State.useExchange_keepsSafe, h]

theorem State.takeTimex_keepsSafe (link : Nat) (seq : BitVec 8) (pcode secLo t1 t4 : Nat) (asym : Int) :
    r.KeepsSafe (s.takeTimex link seq pcode secLo t1 t4 asym).ret := by
  unfold State.takeTimex
  dsimp only
  split
  · simp [State.exchInvalid_keepsSafe, h]
  · split <;> simp [State.useExchange_keepsSafe, h]

theorem State.ppsEdge_keepsSafe (at250 : Nat) : r.KeepsSafe (s.ppsEdge at250).ret := by
  simp [State.ppsEdge, State.ppsAccept, State.tryReturn_keepsSafe, State.servo_keepsSafe, h]

theorem State.setTimeSource_keepsSafe (pps falling : Bool) (delay : Int) : r.KeepsSafe (s.setTimeSource pps falling delay).ret := by
  simp [State.setTimeSource, State.tryReturn_keepsSafe, h]

theorem effTimeStepApply_keepsSafe : r.KeepsSafe (effTimeStepApply s).ret := by
  unfold effTimeStepApply
  split <;> simp [State.applyStep_keepsSafe, h]

/-! #### Epochs (Chapters 5 and 6) -/

theorem State.epochEnd_keepsSafe (l cause : Nat) (down : Bool) : r.KeepsSafe (s.epochEnd l cause down).ret := by
  simp [State.epochEnd, State.loseTime_keepsSafe, h]

theorem State.tryUp_keepsSafe (l : Nat) : r.KeepsSafe (s.tryUp l).ret := by
  unfold State.tryUp
  dsimp only
  split
  · exact h
  · split
    · simp [h]
    · split
      · simp [State.tryReturn_keepsSafe, h]
      · split <;> simp [h]

theorem State.takeIdent_keepsSafe (link : Nat) (unit : BitVec 64) (cfgGen : BitVec 8) (upf : Bool) (hub : Option Nat) (epoch : BitVec 8)
    (cont : Bool) (nonce : Word) : r.KeepsSafe (s.takeIdent link unit cfgGen upf hub epoch cont nonce).ret := by
  simp [State.takeIdent, State.tryUp_keepsSafe, State.epochEnd_keepsSafe, h]

theorem State.limitsCome_keepsSafe (l : Nat) (hi : Bool) (limits : List Nat) : r.KeepsSafe (s.limitsCome l hi limits).ret := by
  simp [State.limitsCome, State.tryUp_keepsSafe, h]

theorem State.takePkt_keepsSafe (link : Nat) (p : TxPkt) (tag : List Byte) : r.KeepsSafe (s.takePkt link p tag).ret := by
  simp only [State.takePkt, ite_ret]
  refine .ite (fun _ => by simp [h]) fun _ => .ite (fun _ => by simp [h]) fun _ => .ite (fun _ => by simp [h]) fun _ => ?_
  split <;> simp [State.sealBad, State.epochEnd_keepsSafe, h]

theorem effTunnelPacketReceive_keepsSafe (link : Nat) (w : Wave) : r.KeepsSafe (effTunnelPacketReceive link w s).ret := by
  simp only [effTunnelPacketReceive, ite_ret]
  refine .ite (fun _ => h) fun _ => .ite (fun _ => by simp [h]) fun _ => ?_
  split <;> simp [State.takePkt_keepsSafe, h]

/-! #### Link control packets -/

/-- What a symbol wave brings is taken on a state with the same retained record. -/
theorem State.takeLcp_keepsSafe {link : Nat} {w : Wave} {u : State} {p : Option LaneSym} (got : s.takeLcp link w = (u, p)) :
    r.KeepsSafe u.ret := by
  have same := s.takeLcp_ret link w
  rw [got] at same
  exact same ▸ h

theorem effIdentReceive_keepsSafe (link : Nat) (w : Wave) : r.KeepsSafe (effIdentReceive link w s).ret := by
  unfold effIdentReceive
  split
  · exact h
  · split
    next got => exact State.takeIdent_keepsSafe (s.takeLcp_keepsSafe h got) ..
    next got => exact s.takeLcp_keepsSafe h got

theorem effFcUpdateReceive_keepsSafe (link : Nat) (w : Wave) : r.KeepsSafe (effFcUpdateReceive link w s).ret := by
  unfold effFcUpdateReceive
  split
  · exact h
  · split
    next got => exact State.limitsCome_keepsSafe (s.takeLcp_keepsSafe h got) ..
    next got => exact s.takeLcp_keepsSafe h got

theorem effInitFcReceive_keepsSafe (link : Nat) (w : Wave) : r.KeepsSafe (effInitFcReceive link w s).ret := by
  unfold effInitFcReceive
  split
  · exact h
  · split
    next got => exact State.limitsCome_keepsSafe (s.takeLcp_keepsSafe h got) ..
    next got => exact s.takeLcp_keepsSafe h got

theorem effTimexReceive_keepsSafe (link : Nat) (w : Wave) : r.KeepsSafe (effTimexReceive link w s).ret := by
  unfold effTimexReceive
  split
  · exact h
  · split
    next got => exact State.takeTimex_keepsSafe (s.takeLcp_keepsSafe h got) ..
    next got => exact s.takeLcp_keepsSafe h got

/-! #### Faults (Chapter 19) -/

theorem State.deviceFatal_keepsSafe (x : Hit) (inj esc : Bool) : r.KeepsSafe (s.deviceFatal x inj esc).ret :=
  State.enterSafe_keepsSafe (by simpa using h) 6

theorem State.domAction_keepsSafe (d : Nat) : r.KeepsSafe (s.domAction d).ret := by
  simp [State.domAction, State.timeFatal, State.loseTime_keepsSafe, h]

theorem State.domainFatal_keepsSafe (d : Nat) (x : Hit) (inj esc : Bool) (us : Nat) : r.KeepsSafe (s.domainFatal d x inj esc us).ret := by
  simp [State.domainFatal, State.deviceFatal_keepsSafe, State.domAction_keepsSafe, h]

theorem State.detect_keepsSafe (x : Hit) (inj : Bool) : r.KeepsSafe (s.detect x inj).ret := by
  unfold State.detect
  dsimp only
  split
  · exact h
  · split
    · simp [h]
    · split <;> simp [State.escalate, State.deviceFatal_keepsSafe, State.domainFatal_keepsSafe, h]

theorem effPatrolScrub_keepsSafe (res detail unit : Nat) (noCopy last : Bool) :
    r.KeepsSafe (effPatrolScrub res detail unit noCopy last s).ret := by
  unfold effPatrolScrub State.scrubWordAt
  dsimp only
  split
  · exact h
  · split
    · split <;> simp [State.detect_keepsSafe, h]
    · simp [State.detect_keepsSafe, h]

theorem effInjectDelayExpiry_keepsSafe (unit : Nat) (inUse noCopy : Bool) : r.KeepsSafe (effInjectDelayExpiry unit inUse noCopy s).ret := by
  unfold effInjectDelayExpiry
  split <;> simp [State.detect_keepsSafe, h]

/-! #### Images (Chapter 18) -/

theorem State.applyRec_keepsSafe (x : ImgRec) : r.KeepsSafe (s.applyRec x).ret := by
  simp [State.applyRec, State.setTimeSource_keepsSafe, h]

/-- Applying an image replaces the policy, and its records leave the latch. -/
theorem State.applyRecords_keepsSafe (k : Nat) : r.KeepsSafe (s.applyRecords k).ret := by
  have policy (q : Option Policy) : r.KeepsSafe { s.ret with policy := q, actRetained := false } := h.other rfl rfl
  have records (l : List ImgRec) {u : State} (k : r.KeepsSafe u.ret) : r.KeepsSafe (l.foldl State.applyRec u).ret :=
    .foldl (fun _ x k => State.applyRec_keepsSafe k x) l k
  have rearmed (u : State) : ((List.range 5).foldl (fun s l => s.modLink l Link.rearm) u).ret = u.ret := by simp
  unfold State.applyRecords
  dsimp only
  split <;> simp [records, rearmed, policy]

theorem State.bootImage_keepsSafe (k : Nat) (atEntry : Bool) : r.KeepsSafe (s.bootImage k atEntry).ret := by
  simp [State.bootImage, State.latchSafe_keepsSafe, State.applyRecords_keepsSafe, h]

end

/-! ### The modes and their transitions (Chapter 3) -/

section
variable {s : State}

/-- Survey starts, and may go on to Safe by the built-in image or a failure. -/
theorem State.surveyStart_keepsSafe {r : Ret} (survey : r.KeepsSafe { s.ret with mode := .survey }) (cause : Nat) (failed : Bool) :
    r.KeepsSafe (s.surveyStart cause failed).ret := by
  have start (x : Nat) : r.KeepsSafe
      { s.ret with devReq := none, mode := .survey, runReq := false, wakeSent := [], lateRails := [], xspiAt := some x } :=
    survey.other rfl rfl
  have rates (u : State) : (u.linksPresent.foldl (fun s l => s.sendRate l 0 false) u).ret = u.ret := by simp
  simp [State.surveyStart, State.latchSafe_keepsSafe, State.deviceFatal_keepsSafe, rates, start]

theorem effSurveyEntry_keepsSafe (failed : Bool) : s.ret.KeepsSafe (effSurveyEntry failed s).ret := by
  simp only [effSurveyEntry, ite_ret]
  refine .ite (fun ⟨sentry, _⟩ => ?_) fun _ => .refl _
  exact State.surveyStart_keepsSafe (.start (by simp [sentry]) (by simp)) ..

/-- The loss of a run rail in a core mode ends in Sentry, after Safe where a DEV_MODE in its delay asked for it (R59). -/
theorem effRailInvalid_keepsSafe (x : Rail) : s.ret.KeepsSafe (effRailInvalid x s).ret := by
  by_cases valid : s.railValid x = true
  · have dropped : s.ret.KeepsSafe (s.railDropped x).ret := Ret.KeepsSafe.other (.refl _) rfl rfl
    by_cases lost : s.coreOn = true ∧ x ≠ .vddLv ∧ x ≠ .vddUsb
    · obtain ⟨core, lv, usb⟩ := lost
      rw [effRailInvalid_lost valid core lv usb, State.runRailLost_ret]
      exact (State.safeFirst_keepsSafe dropped).sentry.other rfl rfl
    · rw [effRailInvalid_ret valid lost]
      exact dropped
  · simp [effRailInvalid, valid]

theorem effWakeReason_keepsSafe (byPin : Bool) : s.ret.KeepsSafe (effWakeReason byPin s).ret := by
  have awake : s.ret.KeepsSafe (if s.ret.mode = .dormant then { s.ret with mode := .sentry } else s.ret) := by
    simp [Ret.KeepsSafe.sentry]
  simp only [effWakeReason, ite_ret]
  refine .ite (fun _ => .refl _) fun _ => .ite (fun _ => ?_) fun _ => awake
  rw [State.runRequest_ret]
  exact awake.other (by simp) (by simp)

theorem effDormancyDelayExpiry_keepsSafe (wakeN : Bool) : s.ret.KeepsSafe (effDormancyDelayExpiry wakeN s).ret := by
  simp only [effDormancyDelayExpiry, ite_ret]
  refine .ite (fun ⟨rest, _⟩ => ?_) fun _ => Ret.KeepsSafe.other (.refl _) rfl rfl
  exact (Ret.KeepsSafe.start (m := .dormant) (by simp [rest]) (by simp)).other rfl rfl

theorem effSurveyCarrierTimeout_keepsSafe (wakeN : Bool) : s.ret.KeepsSafe (effSurveyCarrierTimeout wakeN s).ret := by
  have level : s.ret.KeepsSafe { s.ret with wakeN := wakeN } := Ret.KeepsSafe.other (.refl _) rfl rfl
  simp only [effSurveyCarrierTimeout, ite_ret]
  exact .ite (fun _ => State.toSentry_keepsSafe (by simp [level])) fun _ => level

theorem effFieldEntry_keepsSafe : s.ret.KeepsSafe (effFieldEntry s).ret := by
  by_cases ready : s.fieldReady = true
  · rw [effFieldEntry_ret ready]
    simp only [State.fieldReady, Bool.and_eq_true, decide_eq_true_eq] at ready
    exact .start (by simp [ready]) (by simp)
  · simp [effFieldEntry, ready]

theorem effDevModeDelayExpiry_keepsSafe : s.ret.KeepsSafe (effDevModeDelayExpiry s).ret := by
  have asked : s.ret.KeepsSafe { s.ret with devReq := none } := Ret.KeepsSafe.other (.refl _) rfl rfl
  unfold effDevModeDelayExpiry
  split <;> simp [State.causedBy, State.enterSafe_keepsSafe, State.toSentry_keepsSafe, asked]

end

section
variable {s : State} {pins : BitVec 14} {wakeN testEn : Bool}

/-- Sampling leaves the latch and rests in Sentry. -/
theorem State.sampleStraps_keepsSafe {r : Ret} (h : r.KeepsSafe s.ret) : r.KeepsSafe (s.sampleStraps pins wakeN).ret := by
  cases wakeN with
  | true => exact h.sentry.other rfl rfl
  | false =>
    refine h.sentry.other ?_ ?_ <;> simp [State.sampleStraps, State.runRequest_ret]

theorem effResetNRelease_keepsSafe : s.ret.KeepsSafe (effResetNRelease pins wakeN testEn s).ret := by
  have noted (level defer : Bool) (x : Option Nat) : s.ret.KeepsSafe { s.ret with testEn := level, strapDefer := defer, xspiAt := x } :=
    Ret.KeepsSafe.other (.refl _) rfl rfl
  simp only [effResetNRelease, ite_ret]
  exact .ite (fun _ => .refl _) fun _ => .ite (fun _ => noted ..) fun _ =>
    .ite (fun _ => State.sampleStraps_keepsSafe (noted ..)) fun _ => noted ..

theorem effStrapSampleDeferred_keepsSafe : s.ret.KeepsSafe (effStrapSampleDeferred pins wakeN testEn s).ret := by
  simp only [effStrapSampleDeferred, ite_ret]
  exact .ite (fun _ => .ite (fun _ => Ret.KeepsSafe.other (.refl _) rfl rfl) fun _ => State.sampleStraps_keepsSafe (.refl _)) fun _ => .refl _

end

/-! ### Every row -/

/-- Whatever an execution on `s` answers guards Safe. -/
def State.GuardsSafe (s : State) (o : Host.Outcome State Fault Refusal) : Prop := ∀ t, o = .next t → s.ret.KeepsSafe t.ret

section
variable {P Q R : Prop} {s u : State} {c : Cmd} {op : Nat} {lay : Layout} {safe : Bool} {body : State → State}

/-- A host command answers the retained record that it found, or the one that its chapter's part leaves. -/
theorem State.runCmd_ret_cases : (s.runCmd c op lay safe body).ret = s.ret ∨ (s.runCmd c op lay safe body).ret = (body (s.begins c)).ret := by
  unfold State.runCmd
  split
  · exact .inl rfl
  · split
    · simp
    · split
      · simp
      · split
        · simp
        · split <;> simp

theorem State.GuardsSafe.next (k : s.ret.KeepsSafe u.ret) : s.GuardsSafe (.next u) := fun _ run => Host.Outcome.next.inj run ▸ k

theorem State.GuardsSafe.same (h : u.ret = s.ret) : s.GuardsSafe (.next u) := .next (h ▸ .refl _)

theorem State.GuardsSafe.only (h : P ∧ Q ∧ u.ret = s.ret ∧ R) : s.GuardsSafe (.next u) := .same (ret_of_only h)

theorem State.GuardsSafe.onlyNv (h : P ∧ u.ret = s.ret ∧ R) : s.GuardsSafe (.next u) := .same (ret_of_only_nv h)

/-- A row that leaves the mode and the latch. -/
theorem State.GuardsSafe.unmoved (h : u.ret.mode = s.ret.mode ∧ u.ret.safeLatch = s.ret.safeLatch) : s.GuardsSafe (.next u) := by
  obtain ⟨mode, latch⟩ := h
  exact .next (Ret.KeepsSafe.other (.refl _) mode latch)

/-- A host command whose part leaves the retained record. -/
theorem State.GuardsSafe.command (h : ∀ u, (body u).ret = u.ret) : s.GuardsSafe (.next (s.runCmd c op lay safe body)) :=
  .same (State.runCmd_ret h)

/-- A host command whose part guards Safe. -/
theorem State.GuardsSafe.commandKeeps (h : ∀ u, s.ret.KeepsSafe u.ret → s.ret.KeepsSafe (body u).ret) :
    s.GuardsSafe (.next (s.runCmd c op lay safe body)) :=
  .next <| State.runCmd_ret_cases.elim (fun same => same ▸ .refl _) fun ran => ran ▸ h _ (by simp)

end

theorem execWinSem_guardsSafe (c : Cmd) (s : State) : s.GuardsSafe (execWinSem c s) := .command fun u => by
  dsimp only
  split
  · simp
  · split
    · simp
    · split
      · simp
      · split <;> simp

theorem execKeyPairLink_guardsSafe (c : Cmd) (s : State) : s.GuardsSafe (execKeyPairLink c s) := .command fun u => by
  dsimp only
  repeat' split
  all_goals simp

/-- The rows that clear the latch. -/
def clearsLatch : Instr → Bool
  | .powerOnReset | .resetNAssert | .treeResetHub .. => true
  | _ => false

/-- Every other row guards Safe: the table of the rows, those that touch the mode or the latch first. -/
theorem exec_guardsSafe (i : Instr) (s : State) (row : clearsLatch i = false) : s.GuardsSafe (exec i s) := by
  cases i with
  | powerOnReset | resetNAssert | treeResetHub => simp [clearsLatch] at row
  | resetNRelease => exact .next (effResetNRelease_keepsSafe ..)
  | strapSampleDeferred => exact .next (effStrapSampleDeferred_keepsSafe ..)
  | actSafelvlDrive => exact .unmoved (by simp [effActSafelvlDrive_only])
  | railValid => exact .unmoved (by simp [effRailValid_only])
  | railInvalid => exact .next (effRailInvalid_keepsSafe ..)
  | wakeReason => exact .next (effWakeReason_keepsSafe ..)
  | dormancyDelayExpiry => exact .next (effDormancyDelayExpiry_keepsSafe ..)
  | surveyEntry => exact .next (effSurveyEntry_keepsSafe ..)
  | perstRelease => exact .unmoved (by simp [effPerstRelease_only])
  | hostPortReset => exact .unmoved (by simp [effHostPortReset_only])
  | imageApply => exact .next (by simp [effImageApply, State.bootImage_keepsSafe, State.latchSafe_keepsSafe])
  | fieldEntry => exact .next effFieldEntry_keepsSafe
  | surveyCarrierTimeout => exact .next (effSurveyCarrierTimeout_keepsSafe ..)
  | devModeDelayExpiry => exact .next effDevModeDelayExpiry_keepsSafe
  | paceMonitorTimeout => exact .next (by simp [State.detect_keepsSafe])
  | losEpochTimeout => exact .next (by simp [effLosEpochTimeout, State.epochEnd_keepsSafe])
  | retrainTimeout => exact .next (by simp [effRetrainTimeout, State.epochEnd_keepsSafe])
  | linkPattern => exact .commandKeeps fun u k => by simp [State.startPattern, State.epochEnd_keepsSafe, k]
  | tunnelPacketReceive => exact .next (effTunnelPacketReceive_keepsSafe (.refl _) ..)
  | fcUpdateReceive => exact .next (effFcUpdateReceive_keepsSafe (.refl _) ..)
  | initFcReceive => exact .next (effInitFcReceive_keepsSafe (.refl _) ..)
  | identReceive => exact .next (effIdentReceive_keepsSafe (.refl _) ..)
  | assign => exact .next (by simp [effAssign, State.tryReturn_keepsSafe])
  | tunProg => exact .next (by simp [effTunProg, State.detect_keepsSafe])
  | ppsEdge => exact .next (by simp [effPpsEdge, State.ppsEdge_keepsSafe])
  | ppsLost => exact .next (by simp [effPpsLost, State.loseTime_keepsSafe])
  | timexReceive => exact .next (effTimexReceive_keepsSafe (.refl _) ..)
  | exchangeInvalidTimeout => exact .next (by simp [effExchangeInvalidTimeout, State.exchInvalid_keepsSafe])
  | timeStepApply => exact .next (effTimeStepApply_keepsSafe (.refl _))
  | timeMessage => exact .next (by simp [effTimeMessage, State.useHeld_keepsSafe, State.stepAt_keepsSafe, State.orderStep_keepsSafe])
  | timeSet => exact .commandKeeps fun u k => by simp [State.rootTimeCmd, State.stepAt_keepsSafe, k]
  | timeAdjust => exact .commandKeeps fun u k => by simp [State.rootTimeCmd, State.orderStep_keepsSafe, k]
  | timeSource => exact .commandKeeps fun u k => by simp [State.rootTimeCmd, State.setTimeSource_keepsSafe, k]
  | sidebandTurn => exact .unmoved (by simp [effSidebandTurn_only])
  | sidebandRate => exact .unmoved (by simp [effSidebandRate_only])
  | sidebandWake => exact .unmoved (by simp [effSidebandWake_only])
  | carrierLoss => exact .next (by simp [effCarrierLoss, State.linkGone, State.epochEnd_keepsSafe])
  | comparatorDisagree => exact .next (by simp [State.detect_keepsSafe])
  | imgCommit => exact .commandKeeps fun u k => by simp [State.bootImage_keepsSafe, k]
  | checkDetect => exact .next (State.detect_keepsSafe (.refl _) ..)
  | handshakeStall => exact .next (State.detect_keepsSafe (.refl _) ..)
  | recoveryBoundExceeded => exact .next (by simp [effRecoveryBoundExceeded, State.domainFatal_keepsSafe])
  | patrolScrub => exact .next (effPatrolScrub_keepsSafe (.refl _) ..)
  | injectDelayExpiry => exact .next (effInjectDelayExpiry_keepsSafe (.refl _) ..)
  | devMode =>
    refine .commandKeeps fun u k => ?_
    have asked (d : Option DevReq) : s.ret.KeepsSafe { u.ret with devReq := d } := k.other rfl rfl
    simp [k, asked]
  | paceSet | paceQuery | linkRate | linkSleep | linkWake | linkRetrain | linkEqOverride | linkQuery | linkCounters | treeEnumerate
  | treeEvict | tunClose | tunModify | tunQuery | tunSuspend | tunResume | schedClassSet | schedGateLoad | schedGateCommit
  | schedWindowSet | schedBounds | timeQuery | timeStampArm | travLoad | travQuery | travReadLegs | travActCfg | sliceCreate
  | sliceDestroy | sliceReset | sliceGrant | sliceFreeze | sliceSave | sliceRestore | sliceThaw | queueCreate | queueDestroy | evqSet
  | devInfo | devStraps | dispOverlay | dispCommit | dispUndercoat | dispCrcRegion | dispQuery | usbPortMap | usbQuery | usbPortPower
  | usbCounters | netVlanMap | netQuery | netCounters | canCfg | canFilter | canName | canQuery | winOpen | winClose | winRange | pwrQuery
  | pwrSwap | pwrLimits | pwrResetFault | pwrLog | keyGenerate | keyImport | keyExportWrapped | keyLoad | keyDestroy | keyAttest
  | keyDerive | imgStage | imgQuery | imgConfirm | imgRevert | diagErrors | diagInject | diagScrub | diagSelftest | diagClear =>
    exact .command fun u => by simp
  | treeQuery | schedQuery | travArm | dispTiming | dispPlane | netPortCfg | canSend | winQuery | keyCrypt =>
    refine .command fun u => ?_
    dsimp only
    repeat' split
    all_goals simp
  | winSem c => exact execWinSem_guardsSafe c s
  | keyPairLink c => exact execKeyPairLink_guardsSafe c s
  | pwrContract c =>
    refine .command fun u => ?_
    cases offer : (u.port (c.f 4 1 0)).caps.findIdx? fun o => decide (o.1 = c.f 4 5 4) <;> simp [offer]
  | timeOutCfg c => exact .command fun u => by cases u.compactField c 8 <;> simp
  | travAbort c => exact .command fun u => by cases u.launchOf (BitVec.ofNat 8 (c.f 5 7 0)) <;> simp
  | sliceRevoke =>
    refine .command fun u => State.grantCmd_ret fun v => ?_
    split
    · simp
    · split <;> simp
  | slSqTailWrite | slEvqHeadWrite | slSqSizeWrite | slEvqSizeWrite | slIntCtrlWrite | mgErrsumWrite | registerWrite | usbBusReset
  | winRead | winWriteP | winWriteA | winAtomic | winReadData | winWriteDone | winAtomicData | winRetry | recoveryWindowEnd =>
    exact .same (by simp)
  | legConfirmImage => exact .onlyNv (effLegConfirmImage_only ..)
  | revokeDrainEnd => exact .onlyNv (effRevokeDrainEnd_only ..)
  | pcieRetryStatusEnd => exact .only (effPcieRetryStatusEnd_only ..)
  | paceSample => exact .only (effPaceSample_only ..)
  | paceMonitorRevalid => exact .only (effPaceMonitorRevalid_only ..)
  | paceIntervalEnd => exact .only (effPaceIntervalEnd_only ..)
  | skpSend => exact .only (effSkpSend_only ..)
  | pllLock => exact .only (effPllLock_only ..)
  | widthFallback => exact .only (effWidthFallback_only ..)
  | ts1Align => exact .only (effTs1Align_only ..)
  | ts2Handoff => exact .only (effTs2Handoff_only ..)
  | trainingTimeout => exact .only (effTrainingTimeout_only ..)
  | trainingRoundWaitEnd => exact .only (effTrainingRoundWaitEnd_only ..)
  | retrainQuiesced => exact .only (effRetrainQuiesced_only ..)
  | losStart => exact .only (effLosStart_only ..)
  | losEnd => exact .only (effLosEnd_only ..)
  | dozeLightTimeout => exact .only (effDozeLightTimeout_only ..)
  | dozeDeepTimeout => exact .only (effDozeDeepTimeout_only ..)
  | dozReceive => exact .only (effDozReceive_only ..)
  | dozeWakeStart => exact .only (effDozeWakeStart_only ..)
  | dozeWakeComplete => exact .only (effDozeWakeComplete_only ..)
  | wakeLockTimeout => exact .only (effWakeLockTimeout_only ..)
  | patternDurationEnd => exact .only (effPatternDurationEnd_only ..)
  | localPacketOffer => exact .only (effLocalPacketOffer_only ..)
  | ackReceive => exact .only (effAckReceive_only ..)
  | nakReceive => exact .only (effNakReceive_only ..)
  | replayTimerExpiry => exact .only (effReplayTimerExpiry_only ..)
  | ackSend => exact .only (effAckSend_only ..)
  | nakSend => exact .only (effNakSend_only ..)
  | identRepeat => exact .only (effIdentRepeat_only ..)
  | fcUpdateTimer => exact .only (effFcUpdateTimer_only ..)
  | fcRefresh => exact .only (effFcRefresh_only ..)
  | fcStall => exact .only (effFcStall_only ..)
  | hello => exact .only (effHello_only ..)
  | helloRepeat => exact .only (effHelloRepeat_only ..)
  | numbered => exact .only (effNumbered_only ..)
  | linkchg => exact .only (effLinkchg_only ..)
  | tunSet => exact .only (effTunSet_only ..)
  | tunAck => exact .only (effTunAck_only ..)
  | initialEnumerationEnd => exact .only (effInitialEnumerationEnd_only ..)
  | reattachGraceExpiry => exact .only (effReattachGraceExpiry_only ..)
  | actingRootClose => exact .only (effActingRootClose_only ..)
  | tunnelOpenStepTimeout => exact .only (effTunnelOpenStepTimeout_only ..)
  | hopCloseDrained => exact .only (effHopCloseDrained_only ..)
  | hopCloseTimeout => exact .only (effHopCloseTimeout_only ..)
  | closeAckTimeout => exact .only (effCloseAckTimeout_only ..)
  | tunOpen => exact .only (effTunOpen_only ..)
  | schedulerPick => exact .only (effSchedulerPick_only ..)
  | lossyAgeExpiry => exact .only (effLossyAgeExpiry_only ..)
  | gateEntryBoundary => exact .only (effGateEntryBoundary_only ..)
  | gateSwitch => exact .only (effGateSwitch_only ..)
  | windowOpen => exact .only (effWindowOpen_only ..)
  | windowClose => exact .only (effWindowClose_only ..)
  | windowEffect => exact .only (effWindowEffect_only ..)
  | creditIntervalEnd => exact .only (effCreditIntervalEnd_only ..)
  | timeExchangeStart => exact .only (effTimeExchangeStart_only ..)
  | tmkReceive => exact .only (effTmkReceive_only ..)
  | timeMessageSend => exact .only (effTimeMessageSend_only ..)
  | trigEdge => exact .only (effTrigEdge_only ..)
  | timeOutEdge => exact .only (effTimeOutEdge_only ..)
  | engineLaunch => exact .only (effEngineLaunch_only ..)
  | legEnd => exact .only (effLegEnd_only ..)
  | legWaitUntil => exact .only (effLegWaitUntil_only ..)
  | waitUntilRelease => exact .only (effWaitUntilRelease_only ..)
  | legWaitFor => exact .only (effLegWaitFor_only ..)
  | waitForMet => exact .only (effWaitForMet_only ..)
  | waitForTimeout => exact .only (effWaitForTimeout_only ..)
  | legSetPin => exact .only (effLegSetPin_only ..)
  | legPulsePin => exact .only (effLegPulsePin_only ..)
  | legPwmPin => exact .only (effLegPwmPin_only ..)
  | legWriteReg => exact .only (effLegWriteReg_only ..)
  | legReadCheck => exact .only (effLegReadCheck_only ..)
  | remoteReadTimeout => exact .only (effRemoteReadTimeout_only ..)
  | legSendCan => exact .only (effLegSendCan_only ..)
  | legSendMsg => exact .only (effLegSendMsg_only ..)
  | legDispCommit => exact .only (effLegDispCommit_only ..)
  | legGateSwitch => exact .only (effLegGateSwitch_only ..)
  | legMark => exact .only (effLegMark_only ..)
  | legLoop => exact .only (effLegLoop_only ..)
  | legBranch => exact .only (effLegBranch_only ..)
  | legStartEngine => exact .only (effLegStartEngine_only ..)
  | effectInstant => exact .only (effEffectInstant_only ..)
  | pwmPeriodStart => exact .only (effPwmPeriodStart_only ..)
  | regWrite => exact .only (effRegWrite_only ..)
  | regRead => exact .only (effRegRead_only ..)
  | regReply => exact .only (effRegReply_only ..)
  | travMessage => exact .only (effTravMessage_only ..)
  | prepare => exact .only (effPrepare_only ..)
  | ready => exact .only (effReady_only ..)
  | commit => exact .only (effCommit_only ..)
  | abort => exact .only (effAbort_only ..)
  | launched => exact .only (effLaunched_only ..)
  | launchReadyDeadline => exact .only (effLaunchReadyDeadline_only ..)
  | preparedTimeout => exact .only (effPreparedTimeout_only ..)
  | launchPartialTimeout => exact .only (effLaunchPartialTimeout_only ..)
  | actInputEdge => exact .only (effActInputEdge_only ..)
  | commandFetch => exact .only (effCommandFetch_only ..)
  | heldRecordWrite => exact .only (effHeldRecordWrite_only ..)
  | interruptTimer => exact .only (effInterruptTimer_only ..)
  | slRingDbWrite => exact .only (effSlRingDbWrite_only ..)
  | rcRegisterRead => exact .only (effRcRegisterRead_only ..)
  | mgTimeNsRead => exact .only (effMgTimeNsRead_only ..)
  | msixTableWrite => exact .only (effMsixTableWrite_only ..)
  | hostPortPowerState => exact .only (effHostPortPowerState_only ..)
  | freezeDrainEnd => exact .only (effFreezeDrainEnd_only ..)
  | cookieExpiry => exact .only (effCookieExpiry_only ..)
  | sliceMoveTimeout => exact .only (effSliceMoveTimeout_only ..)
  | commandMessage => exact .only (effCommandMessage_only ..)
  | dataMessage => exact .only (effDataMessage_only ..)
  | indirectInputReadDone => exact .only (effIndirectInputReadDone_only ..)
  | receivedMessage => exact .only (effReceivedMessage_only ..)
  | receivedRepeat => exact .only (effReceivedRepeat_only ..)
  | completionMessage => exact .only (effCompletionMessage_only ..)
  | eventMessage => exact .only (effEventMessage_only ..)
  | remoteCommandTimeout => exact .only (effRemoteCommandTimeout_only ..)
  | timedCommandDue => exact .only (effTimedCommandDue_only ..)
  | frameStart => exact .only (effFrameStart_only ..)
  | lineStart => exact .only (effLineStart_only ..)
  | frameMessage => exact .only (effFrameMessage_only ..)
  | rowMessage => exact .only (effRowMessage_only ..)
  | sourceFrameSend => exact .only (effSourceFrameSend_only ..)
  | sourceRowSend => exact .only (effSourceRowSend_only ..)
  | rowFetchDone => exact .only (effRowFetchDone_only ..)
  | panelSequenceTimer => exact .only (effPanelSequenceTimer_only ..)
  | usbSetupToken => exact .only (effUsbSetupToken_only ..)
  | usbOutToken => exact .only (effUsbOutToken_only ..)
  | usbPingToken => exact .only (effUsbPingToken_only ..)
  | usbInToken => exact .only (effUsbInToken_only ..)
  | usbHubRequest => exact .only (effUsbHubRequest_only ..)
  | vbusChange => exact .only (effVbusChange_only ..)
  | usbSof => exact .only (effUsbSof_only ..)
  | microframeStart => exact .only (effMicroframeStart_only ..)
  | overcurrentFilter => exact .only (effOvercurrentFilter_only ..)
  | connectDebounce => exact .only (effConnectDebounce_only ..)
  | portResetEnd => exact .only (effPortResetEnd_only ..)
  | resumeEnd => exact .only (effResumeEnd_only ..)
  | suspendIdle => exact .only (effSuspendIdle_only ..)
  | deviceRemoteWake => exact .only (effDeviceRemoteWake_only ..)
  | farBusTransaction => exact .only (effFarBusTransaction_only ..)
  | usbSetupMessage => exact .only (effUsbSetupMessage_only ..)
  | outdata => exact .only (effOutdata_only ..)
  | inreq => exact .only (effInreq_only ..)
  | indata => exact .only (effIndata_only ..)
  | result => exact .only (effResult_only ..)
  | portMessage => exact .only (effPortMessage_only ..)
  | sofrep => exact .only (effSofrep_only ..)
  | powerCycleEnd => exact .only (effPowerCycleEnd_only ..)
  | macFrameReceive => exact .only (effMacFrameReceive_only ..)
  | macLinkChange => exact .only (effMacLinkChange_only ..)
  | phyInterrupt => exact .only (effPhyInterrupt_only ..)
  | macFrameTransmit => exact .only (effMacFrameTransmit_only ..)
  | netMessage => exact .only (effNetMessage_only ..)
  | canFrameReceive => exact .only (effCanFrameReceive_only ..)
  | addressClaimSettle => exact .only (effAddressClaimSettle_only ..)
  | canBusIdle => exact .only (effCanBusIdle_only ..)
  | canBusOff => exact .only (effCanBusOff_only ..)
  | canBusOffRecovery => exact .only (effCanBusOffRecovery_only ..)
  | canMessage => exact .only (effCanMessage_only ..)
  | bar2MemoryWrite => exact .only (effBar2MemoryWrite_only ..)
  | bar2MemoryRead => exact .only (effBar2MemoryRead_only ..)
  | bar2Atomicop => exact .only (effBar2Atomicop_only ..)
  | bar2LockedRead => exact .only (effBar2LockedRead_only ..)
  | farAccessDone => exact .only (effFarAccessDone_only ..)
  | retryBackoffExpiry => exact .only (effRetryBackoffExpiry_only ..)
  | winRequestTimeout => exact .only (effWinRequestTimeout_only ..)
  | farHoldTimeout => exact .only (effFarHoldTimeout_only ..)
  | semaphoreLeaseExpiry => exact .only (effSemaphoreLeaseExpiry_only ..)
  | idleFrame => exact .only (effIdleFrame_only ..)
  | sidebandIdent => exact .only (effSidebandIdent_only ..)
  | srcCaps => exact .only (effSrcCaps_only ..)
  | requestFrame => exact .only (effRequestFrame_only ..)
  | acceptFrame => exact .only (effAcceptFrame_only ..)
  | rejectFrame => exact .only (effRejectFrame_only ..)
  | psRdy => exact .only (effPsRdy_only ..)
  | swapReq => exact .only (effSwapReq_only ..)
  | swapRetry => exact .only (effSwapRetry_only ..)
  | fsArm => exact .only (effFsArm_only ..)
  | goodbye => exact .only (effGoodbye_only ..)
  | attachDebounce => exact .only (effAttachDebounce_only ..)
  | sidebandExchangeTimeout => exact .only (effSidebandExchangeTimeout_only ..)
  | negotiationTimeout => exact .only (effNegotiationTimeout_only ..)
  | srcCapsResend => exact .only (effSrcCapsResend_only ..)
  | foldbackUpdate => exact .only (effFoldbackUpdate_only ..)
  | comparatorTrip => exact .only (effComparatorTrip_only ..)
  | currentLimitEnd => exact .only (effCurrentLimitEnd_only ..)
  | faultTimerExpiry => exact .only (effFaultTimerExpiry_only ..)
  | uvOvFilter => exact .only (effUvOvFilter_only ..)
  | insertionDelay => exact .only (effInsertionDelay_only ..)
  | qualificationDone => exact .only (effQualificationDone_only ..)
  | dischargeDone => exact .only (effDischargeDone_only ..)
  | fetShort => exact .only (effFetShort_only ..)
  | retryTimerExpiry => exact .only (effRetryTimerExpiry_only ..)
  | keepOffDone => exact .only (effKeepOffDone_only ..)
  | keepSenseFault => exact .only (effKeepSenseFault_only ..)
  | fastSwapCrossing => exact .only (effFastSwapCrossing_only ..)
  | fastSwapClose => exact .only (effFastSwapClose_only ..)
  | transitionTimeout => exact .only (effTransitionTimeout_only ..)
  | pmbusDone => exact .only (effPmbusDone_only ..)
  | pmbAlert => exact .only (effPmbAlert_only ..)
  | voutSlewStep => exact .only (effVoutSlewStep_only ..)
  | converterPoll => exact .only (effConverterPoll_only ..)
  | skimPass => exact .only (effSkimPass_only ..)
  | healthTimeout => exact .only (effHealthTimeout_only ..)
  | domainRecoveryEnd => exact .only (effDomainRecoveryEnd_only ..)
  | symbolLock => exact .only (effSymbolLock_only ..)
  | wakeEndSkpReceive => exact .only (effWakeEndSkpReceive_only ..)
  | deviceDisconnect => exact .only (effDeviceDisconnect_only ..)
  | usbOcNRelease => exact .only (effUsbOcNRelease_only ..)
  | globalResume => exact .only (effGlobalResume_only ..)
  | canFrameSent => exact .only (effCanFrameSent_only ..)
  | canErrorPassive => exact .only (effCanErrorPassive_only ..)
  | semaphoreWaitExpiry => exact .only (effSemaphoreWaitExpiry_only ..)
  | keepInRange => exact .only (effKeepInRange_only ..)
  | mdioAccessDone => exact .only (effMdioAccessDone_only ..)
  | entropyStartupPass => exact .only (effEntropyStartupPass_only ..)

/-! ### The rows that clear the latch -/

section
variable {s t : State} {c : Cmd} {failed : Bool}

/-- A tree reset of the Safe kind guards Safe, and so does one that is turned away; one of the core kind goes on from Survey without the latch
(R54). -/
theorem exec_treeResetHub_safe (run : exec (.treeResetHub c failed) s = .next t) :
    s.ret.KeepsSafe t.ret ∨ c.b 4 0 = false ∧ ∃ r : Ret, r.mode = .survey ∧ r.KeepsSafe t.ret := by
  cases run
  rcases State.runCmd_ret_cases with same | ran
  · exact .inl (same ▸ .refl _)
  · rw [ran]
    clear ran
    dsimp only
    split
    · exact .inl (by simp)
    · split
      · exact .inl (by simp)
      · split
        · exact .inl (by simp)
        · split
          · exact .inl (by simp)
          · split
            next => exact .inl (State.enterSafe_keepsSafe (by simp) 8)
            next core =>
              refine .inr ⟨by simpa using core,
                { s.ret with mode := .survey, safeLatch := false, resetCause := 2, actRetained := true }, rfl, ?_⟩
              exact State.surveyStart_keepsSafe (by simp) 5 failed

end

/-- Settles O7: by `exec_guardsSafe` in every row but those that clear the latch, of which the resets end in Sentry and a tree reset enters Safe
from Survey, and so by setting the latch again. -/
theorem safeLatchHolds : Obligations.safeLatchHolds := by
  intro i s t run
  cases row : clearsLatch i with
  | false =>
    have kept := exec_guardsSafe i s row t run
    exact ⟨kept.enters, fun on off => absurd (kept.latched on) (by simp [off]),
      fun safe away => .inl ((kept.leaves safe).resolve_left away)⟩
  | true =>
    unfold clearsLatch at row
    split at row
    · cases run
      exact ⟨nofun, fun _ _ => .inl rfl, fun _ _ => .inl rfl⟩
    · cases run
      exact ⟨nofun, fun _ _ => .inr (.inl rfl), fun _ _ => .inl rfl⟩
    · next c failed =>
      rcases exec_treeResetHub_safe run with kept | ⟨core, r, survey, kept⟩
      · exact ⟨kept.enters, fun on off => absurd (kept.latched on) (by simp [off]),
          fun safe away => .inl ((kept.leaves safe).resolve_left away)⟩
      · exact ⟨fun _ => kept.enters (by simp [survey]), fun _ _ => .inr (.inr ⟨c, failed, rfl, core⟩),
          fun _ _ => .inr ⟨c, failed, rfl, core⟩⟩
    · contradiction


end Sys2Proof.Machine
end

section
/-! The pace monitor, the pace loop and the PACE_ commands (R83, R84, R88, R92 to R102): O18 and O19. -/

namespace Sys2Proof.Machine
open Sys2Proof

/-! ### The settings that come into force, and step 4 of R92 -/

section
variable (p : Pace)

@[simp] theorem Pace.take_code : p.take.code = p.code := by unfold Pace.take; split <;> rfl
@[simp] theorem Pace.take_shed : p.take.shed = p.shed := by unfold Pace.take; split <;> rfl
@[simp] theorem Pace.take_monInvalid : p.take.monInvalid = p.monInvalid := by unfold Pace.take; split <;> rfl
@[simp] theorem Pace.take_curSome : p.take.curSome = p.curSome := by unfold Pace.take; split <;> rfl
@[simp] theorem Pace.take_curMin : p.take.curMin = p.curMin := by unfold Pace.take; split <;> rfl
@[simp] theorem Pace.take_hist : p.take.hist = p.hist := by unfold Pace.take; split <;> rfl

/-- Nothing waits once an interval has ended (R93). -/
@[simp] theorem Pace.take_pendCfg : p.take.pendCfg = none := by
  unfold Pace.take
  split
  · rfl
  · assumption

variable {p} (pmin t : Nat)

theorem Pace.vidStep_le : p.vidStep pmin t ≤ p.code + 1 := by
  unfold Pace.vidStep
  split_ifs <;> omega

theorem Pace.le_vidStep : p.code ≤ p.vidStep pmin t + 1 := by
  unfold Pace.vidStep
  split_ifs <;> omega

/-- A code above the ceiling comes down, whatever the pace. -/
theorem Pace.vidStep_above (above : p.hi < p.code) : p.vidStep pmin t + 1 = p.code := by
  rw [Pace.vidStep, if_pos above]
  omega

/-- A code below the floor goes up, whatever the pace. -/
theorem Pace.vidStep_below (ceiling : p.code ≤ p.hi) (below : p.code < p.lo) : p.vidStep pmin t = p.code + 1 := by
  rw [Pace.vidStep, if_neg (Nat.not_lt.2 ceiling), if_pos below]

end

/-! ### What each row does to the pace -/

section
variable {s : State} {rings : List Nat} {tj : BitVec 8}

theorem exec_paceSample_valid (core : s.coreOn = true) (valid : s.pace.monInvalid = false) :
    exec (.paceSample rings false tj) s = .next { s with pace := { s.pace with
      tj := tj, tjHigh := decide (125 < tj.toInt), ringFault := false
      sample := paceIndex rings, curMin := min s.pace.curMin (paceIndex rings), curSome := true } } := by
  refine congrArg Host.Outcome.next ?_
  simp [effPaceSample, core, valid]

/-- A fault that begins puts the code at 31 and remembers the code before it (R84). -/
theorem exec_paceSample_fault (core : s.coreOn = true) (valid : s.pace.monInvalid = false) :
    exec (.paceSample rings true tj) s = .next { s with pace := { s.pace with
      tj := tj, tjHigh := decide (125 < tj.toInt), ringFault := true, monInvalid := true, prevCode := s.pace.code, code := 31 } } := by
  refine congrArg Host.Outcome.next ?_
  simp [effPaceSample, core, valid]

/-- While the monitor is invalid, only the temperature and the fault follow the samples. -/
theorem exec_paceSample_invalid {fault : Bool} (core : s.coreOn = true) (invalid : s.pace.monInvalid = true) :
    exec (.paceSample rings fault tj) s = .next { s with pace := { s.pace with
      tj := tj, tjHigh := decide (125 < tj.toInt), ringFault := fault } } := by
  refine congrArg Host.Outcome.next ?_
  cases fault <;> simp [effPaceSample, core, invalid]

theorem exec_paceMonitorRevalid (core : s.coreOn = true) (invalid : s.pace.monInvalid = true) (sound : s.pace.ringFault = false) :
    exec .paceMonitorRevalid s = .next { s with pace := { s.pace with monInvalid := false, code := s.pace.prevCode } } :=
  congrArg _ (if_pos ⟨core, invalid, by simp [sound]⟩)

theorem exec_paceMonitorTimeout (invalid : s.pace.monInvalid = true) :
    exec .paceMonitorTimeout s = .next (s.detect { dom := 1, check := 9 } false) :=
  congrArg _ (if_pos invalid)

theorem State.paceAlerts_pace (old : Nat) (starts jump ends : Bool) : (s.paceAlerts old starts jump ends).pace = s.pace := by
  have alerts := @State.paceAlerts_only
  simp only [alerts]

/-- The interval that ends is one on which the loop decides: the core is on, the monitor is valid and has given a sample. -/
abbrev State.paced (s : State) : Prop := s.coreOn = true ∧ s.pace.monInvalid = false ∧ s.pace.curSome = true

/-- An interval of another kind brings waiting settings into force at most (log entry 54). -/
theorem exec_paceIntervalEnd_unpaced {t : State} (unpaced : ¬ s.paced) (run : exec .paceIntervalEnd s = .next t) :
    t.pace.code = s.pace.code ∧ t.pace.shed = s.pace.shed := by
  cases run
  by_cases core : s.coreOn = true
  · have skips : s.pace.take.monInvalid = true ∨ (!s.pace.take.curSome) = true := by
      simpa [core, or_iff_not_imp_left] using unpaced
    rw [effPaceIntervalEnd, if_neg (by simp [core]), if_pos skips]
    exact ⟨s.pace.take_code, s.pace.take_shed⟩
  · rw [effPaceIntervalEnd, if_pos (by simpa using core)]
    exact ⟨rfl, rfl⟩

/-- The loop decides by the steps of R92, under the settings that this end of an interval brings into force. -/
theorem exec_paceIntervalEnd_paced (paced : s.paced) :
    let u := { s with pace := s.pace.take }
    ∃ t, exec .paceIntervalEnd s = .next t ∧ t.pace.pmin = s.pace.curMin ∧ t.pace.pendCfg = none ∧
      t.pace.shed = u.pace.shedNext (decide (s.pace.curMin < u.demandFloor)) s.pace.curMin ((s.pace.curMin :: s.pace.hist).take 10)
        u.demandAt ∧
      t.pace.target = min 1023 (u.demandAt t.pace.shed + u.pace.cfg.margin) ∧
      t.pace.code = u.pace.vidStep s.pace.curMin t.pace.target ∧ t.pace.shown = t.pace.view := by
  obtain ⟨core, valid, sampled⟩ := paced
  refine ⟨_, rfl, ?_⟩
  rw [effPaceIntervalEnd, if_neg (by simp [core]), if_neg (by simp [valid, sampled]), State.paceAlerts_pace,
    ← s.pace.take_curMin, ← s.pace.take_hist]
  exact ⟨rfl, s.pace.take_pendCfg, rfl, rfl, rfl, rfl⟩

end

/-! ### Hubs that meet the hypotheses -/

/-- A hub in Field with a sample of the interval, and an AUTO setting of PACE_SET that waits. -/
def sampledHub (floor ceiling : Nat) : State :=
  { State.reset with
    ret := { State.reset.ret with inReset := false, strapsValid := true, mode := .field }
    pace := { Pace.init with curMin := 900, curSome := true, pendCfg := some { floor := floor, ceiling := ceiling } } }

/-- The loop decides there, on a code above the new ceiling and on one below the new floor. -/
theorem witness_paced :
    (sampledHub 0 10).paced ∧ (sampledHub 0 10).pace.take.hi < (sampledHub 0 10).pace.code ∧
    (sampledHub 20 30).paced ∧ (sampledHub 20 30).pace.code ≤ (sampledHub 20 30).pace.take.hi ∧
    (sampledHub 20 30).pace.code < (sampledHub 20 30).pace.take.lo := by decide

/-- A monitor that a ring fault made invalid, once the fault has ended: it may become valid again. -/
theorem witness_monitor :
    let s := effPaceSample [] false 0 (effPaceSample [] true 0 (sampledHub 0 30))
    s.coreOn = true ∧ s.pace.monInvalid = true ∧ s.pace.ringFault = false ∧ s.pace.code = 31 := by decide

/-- Settles O18: the samples and the interval's end by what each makes of the pace, and the commands by their chapter's part. -/
theorem paceRows : Obligations.paceRows := by
  refine ⟨?sample, ?fault, ?invalid, ?revalid, ?intervalEnd, ?timeout, ?set, ?query⟩
  case sample =>
    intro s rings tj core valid
    exact ⟨_, exec_paceSample_valid core valid, rfl, rfl, rfl, rfl⟩
  case fault =>
    intro s rings tj core valid
    exact ⟨_, exec_paceSample_fault core valid, rfl, rfl, rfl, rfl, rfl⟩
  case invalid =>
    intro s rings fault tj core invalid
    exact ⟨_, exec_paceSample_invalid core invalid, invalid, rfl, rfl, rfl, rfl⟩
  case revalid =>
    intro s core invalid sound
    exact ⟨_, exec_paceMonitorRevalid core invalid sound, rfl, rfl⟩
  case intervalEnd => exact fun s core valid sampled => exec_paceIntervalEnd_paced ⟨core, valid, sampled⟩
  case timeout => exact fun s _ invalid => exec_paceMonitorTimeout invalid
  case set => exact fun c => .of (fun _ => rfl) fun u granted => if_neg (by simp [granted])
  case query => exact fun c => .of (fun _ => rfl) fun _ _ => rfl

/-- Settles O19: where the loop decides, the code is that of `Pace.vidStep`; elsewhere it stays. -/
theorem paceOneStep : Obligations.paceOneStep := by
  intro s t run
  by_cases paced : s.paced
  · have ⟨_, valid, _⟩ := paced
    obtain ⟨t', decides, _, _, _, _, code, _⟩ := exec_paceIntervalEnd_paced paced
    cases run.symm.trans decides
    rw [code, ← s.pace.take_code]
    exact ⟨Pace.vidStep_le .., Pace.le_vidStep .., fun invalid => absurd (invalid.symm.trans valid) nofun,
      fun _ _ _ => Pace.vidStep_above _ _, fun _ _ _ => Pace.vidStep_below _ _⟩
  · obtain ⟨code, shed⟩ := exec_paceIntervalEnd_unpaced paced run
    exact ⟨by omega, by omega, fun _ => ⟨code, shed⟩, fun core valid sampled => absurd ⟨core, valid, sampled⟩ paced,
      fun core valid sampled => absurd ⟨core, valid, sampled⟩ paced⟩

end Sys2Proof.Machine
end

section
/-! Hitch lanes (Chapter 5): what reads of a link see, what training, loss of signal and doze make of it, and O21. -/

namespace Sys2Proof.Machine
open Sys2Proof

/-! ### The store of links -/

/-- A link that is not as reset leaves it reads back as it was written. -/
theorem State.link_setLink {s : State} {l : Nat} {k : Link} (kept : k ≠ Link.init) : (s.setLink l k).link l = k :=
  Tab.read_write_self _ _ _ kept

theorem State.link_modLink {s : State} {l : Nat} {f : Link → Link} (kept : f (s.link l) ≠ Link.init) :
    (s.modLink l f).link l = f (s.link l) :=
  State.link_setLink kept

/-- Bringing the credits of a link up to date changes its scheduler only. -/
theorem State.link_schedAdvance {s : State} {l : Nat} (up : (s.link l).st = .up) :
    (s.schedAdvance l).link l = { s.link l with sched := ((s.schedAdvance l).link l).sched } := by
  have bounds := @State.setBlink_only
  have kept (x : LinkSched) : { s.link l with sched := x } ≠ Link.init := fun reset => by
    have down : (s.link l).st = .down := congrArg Link.st reset
    simp [up] at down
  have links : ∃ x, (s.schedAdvance l).links = s.links.write Link.init l { s.link l with sched := x } := by
    unfold State.schedAdvance
    refine ⟨_, congrArg (fun t => Tab.write Link.init t l _) ?_⟩
    simp [bounds]
  obtain ⟨x, links⟩ := links
  have read : (s.schedAdvance l).link l = { s.link l with sched := x } := by
    rw [State.link, links]
    exact Tab.read_write_self _ _ _ (kept x)
  rw [read]

/-- An exchange that is spoilt leaves the lanes as they were. -/
theorem State.link_spoilExchange {s : State} {l : Nat} (live : (s.link l).st ≠ .down) :
    (s.spoilExchange l).link l = { s.link l with xWait := ((s.spoilExchange l).link l).xWait } := by
  unfold State.spoilExchange
  split
  · rfl
  · rw [State.link_modLink]
    exact fun reset => live (congrArg Link.st reset)

/-! ### Tables written entry by entry -/

section
variable {α : Type} [DecidableEq α] {d : α} {t : Tab α} (f : Nat → α)

theorem Tab.writes_wf (h : Tab.wf d t = true) (n : Nat) :
    Tab.wf d ((List.range n).foldl (fun t i => Tab.write d t i (f i)) t) = true := by
  induction n with
  | zero => exact h
  | succ n ih =>
    rw [List.range_succ, List.foldl_append]
    exact Tab.write_wf d ih n (f n)

theorem Tab.read_writes (h : Tab.wf d t = true) (n i : Nat) :
    Tab.read d ((List.range n).foldl (fun t i => Tab.write d t i (f i)) t) i = if i < n then f i else Tab.read d t i := by
  induction n with
  | zero => rfl
  | succ n ih =>
    rw [List.range_succ, List.foldl_append]
    refine (Tab.read_write d (Tab.writes_wf f h n) n i (f n)).trans ?_
    rw [ih]
    obtain rfl | other := eq_or_ne i n
    · simp
    · have below : i < n + 1 ↔ i < n := by omega
      simp only [other, below, if_false]

end

/-! ### Training (R110 to R114, R124 to R126) -/

section
variable {s : State} {l : Nat}

theorem exec_symbolLock_locks {lane : Nat} {groups : List (BitVec 10)} {inverted : Bool} (core : s.coreOn = true) (port : lane < 4)
    (live : (s.link l).st ≠ .down) (lock : commaLock groups = (true, inverted)) :
    exec (.symbolLock l lane groups) s = .next
      (let m := BitVec.ofNat 4 (2 ^ lane)
       let u := s.modLink l fun k => { k with lane := { k.lane with
         locked := k.lane.locked ||| m, viols := k.lane.viols.erase lane
         polInv := if k.lane.phase = .comma then (if inverted then k.lane.polInv ||| m else k.lane.polInv &&& ~~~m) else k.lane.polInv } }
       if (u.link l).lane.phase = .comma ∧ fallbackWidth (linkBase l) (u.link l).lane.agreedWidth (u.link l).lane.locked = (u.link l).lane.agreedWidth
       then u.startTs1 l (u.link l).lane.agreedWidth else u) := by
  have inPort : ¬ 4 ≤ lane := by omega
  refine congrArg Host.Outcome.next ?_
  rw [effSymbolLock, lock]
  exact if_neg (by simp [core, inPort, live])

theorem exec_widthFallback (training : s.inPhase l .comma = true) :
    exec (.widthFallback l) s = .next
      (if linkPort l = 0 ∧ (s.link l).lane.agreedWidth = 2 ∧ (s.link l).lane.locked = 12 then
        (s.modLink l fun k => { k with lane := { k.lane with upperPair := true } }).startTs1 l 2
       else
        let w := fallbackWidth (linkBase l) (s.link l).lane.agreedWidth (s.link l).lane.locked
        if w = 0 then s.trainFail l else s.startTs1 l w) := by
  refine congrArg Host.Outcome.next ?_
  simp only [effWidthFallback, training, Bool.not_true, Bool.false_eq_true, if_false, decide_eq_true_eq, ← BitVec.toNat_inj]
  rfl

theorem exec_ts1Align_takes {skew : Nat} {sets : List (List Sym)} {t : Ts} {lanes : List Nat} (training : s.inPhase l .ts1 = true)
    (same : tsLanes sets = some (t, lanes)) (first : t.second = false) :
    exec (.ts1Align l skew sets) s = .next (s.takeTs1 l t.rate t.cls t.width skew lanes) := by
  refine congrArg Host.Outcome.next ?_
  simp [effTs1Align, training, same, first]

theorem exec_ts2Handoff_takes {sets : List (List Sym)} {t : Ts} {lanes : List Nat} (training : s.inPhase l .ts2 = true)
    (same : tsLanes sets = some (t, lanes)) (second : t.second = true) :
    exec (.ts2Handoff l sets) s = .next
      (if t.rate = (s.link l).lane.rate ∧ t.cls = (s.link l).lane.cls ∧ t.width = (s.link l).lane.width then s.handToLink l
       else s.trainFail l) := by
  refine congrArg Host.Outcome.next ?_
  rw [effTs2Handoff, same]
  refine (if_neg (by simp [training, second])).trans ?_
  simp only [← not_and_or, ite_not]

/-- Lanes numbered downward are told from lanes numbered upward wherever there are two or more (R113). -/
theorem laneOrder_turned {w : Nat} {rev : Bool} (legal : w = 1 ∨ w = 2 ∨ w = 4) (order : rev = true → w ≠ 1) :
    (decide ((if rev then (List.range w).reverse else List.range w) = (List.range w).reverse) && decide (1 < w)) = rev := by
  cases rev with
  | false => rcases legal with rfl | rfl | rfl <;> rfl
  | true =>
    have several : 1 < w := by have := order rfl; omega
    simp [several]

/-- TS1 of the attempt's own rate, class and width, its lanes numbered upward or downward from 0: the lane order is taken and TS2 starts. -/
theorem State.takeTs1_agrees {skew w : Nat} {rev : Bool} (within : skew ≤ 64) (lower : (s.link l).lane.upperPair = false)
    (legal : w = 1 ∨ w = 2 ∨ w = 4) (agreed : w ≤ (s.link l).lane.agreedWidth) (own : w = (s.link l).lane.width)
    (order : rev = true → w ≠ 1) :
    s.takeTs1 l (s.link l).lane.rate (s.link l).lane.cls w skew (if rev then (List.range w).reverse else List.range w) =
      let u := s.modLink l fun k => { k with lane := { k.lane with width := w, reversed := rev, phase := .ts2 } }
      u.sendSym l (.ts (u.ts l true)) := by
  have fits : ¬ 64 < skew := by omega
  have narrow : ¬ (s.link l).lane.agreedWidth < w := by omega
  have base : (List.range w).map (fun i => i + if (s.link l).lane.upperPair = true then 2 else 0) = List.range w := by simp [lower]
  have turned := laneOrder_turned legal order
  generalize numbered : (if rev then (List.range w).reverse else List.range w) = lanes at turned
  have whole : lanes.take w = lanes := List.take_of_length_le (by rw [← numbered]; cases rev <;> simp)
  have known : lanes = List.range w ∨ rev = true := by rw [← numbered]; cases rev <;> simp
  rw [State.takeTs1, if_neg (by simp [fits, legal, narrow])]
  simp only [← own, Nat.min_self, base, whole, Bool.decide_and, turned, Bool.or_self]
  exact if_pos (known.imp_right fun h => .inr (.inl h))

/-- TS1 of another rate or class, of too wide a skew, or wider than agreed fails the attempt (R124, R125). -/
theorem State.takeTs1_disagrees {rate cls width skew : Nat} {lanes : List Nat}
    (other : rate ≠ (s.link l).lane.rate ∨ cls ≠ (s.link l).lane.cls ∨ 64 < skew ∨ (s.link l).lane.agreedWidth < width) :
    s.takeTs1 l rate cls width skew lanes = s.trainFail l :=
  if_pos (other.imp_right (.imp_right (.imp_right .inr)))

/-- What the retrain finds on a link that is UP: the lanes and the replay timer are as they were. -/
theorem State.link_quiesced (up : (s.link l).st = .up) :
    (((s.schedAdvance l).spoilExchange l).link l).timerHeld = (s.link l).timerHeld ∧
    (((s.schedAdvance l).spoilExchange l).link l).timerEnd = (s.link l).timerEnd := by
  have advanced := State.link_schedAdvance up
  have live : ((s.schedAdvance l).link l).st ≠ .down := by rw [advanced]; simp [up]
  rw [State.link_spoilExchange live, advanced]
  exact ⟨rfl, rfl⟩

/-- No LINK_WAKE waits as the link enters RETRAIN. -/
theorem exec_retrainQuiesced_enters (core : s.coreOn = true) (up : (s.link l).st = .up) (quiescing : (s.link l).quiescing = true)
    (noneWaits : (s.link l).lane.wakeCmd = []) :
    exec (.retrainQuiesced l) s = .next
      (let v := (s.schedAdvance l).spoilExchange l
       let u := v.modLink l fun k => { (k.bump 2 4) with
         st := .retrain, timerHeld := false
         timerEnd := if (s.link l).timerHeld then v.uptime + (s.link l).timerEnd else (s.link l).timerEnd
         lane := { k.lane with quiesce := false, txDoze := .awake, rxDoze := .awake, txWaking := false, rxWaking := false, los := false
                               phase := .idle, wakeCmd := [] } }
       ((u.linkEvent l (s.link l).code 5 stOk false false (s.link l).lane.retrainCause).noteRole).agree l) := by
  obtain ⟨held, due⟩ := State.link_quiesced up
  refine congrArg Host.Outcome.next ?_
  rw [effRetrainQuiesced, if_pos ⟨core, up, quiescing⟩, noneWaits]
  simp only [State.modLink, held, due, List.foldl_nil]

/-- The checker's result of a lane: its errors where it is on, none elsewhere (R145). -/
theorem Pattern.checked_errs (p : Pattern) (got : List (List Bool)) {i : Nat} (port : i < 4) :
    (p.checked got).errs.read 0 i =
      if p.check = true ∧ p.lanes.toNat.testBit i = true then min 65535 (patternErrs p.pat ((got[i]?).getD [])) else 0 := by
  rw [Pattern.checked, Tab.read_writes _ rfl, if_pos port]
  simp only [Bool.and_eq_true]

/-! ### Loss of signal and doze (R128 to R135) -/

@[simp] theorem State.spoilExchange_uptime (s : State) (l : Nat) : (s.spoilExchange l).uptime = s.uptime := by
  have spoil := @State.spoilExchange_only
  simp only [spoil]

theorem exec_dozeLightTimeout_dozes (may : s.mayDoze l 1 = true) (awake : (s.link l).lane.txDoze = .awake)
    (far : 2000 + 1000 * (s.link l).lane.guard ≤ s.toOpening l) :
    exec (.dozeLightTimeout l) s = .next
      ((s.modLink l fun k => { k with lane := { k.lane with txDoze := .light } }).sendSym l (.doz .light)) := by
  have noneNear : ¬ s.toOpening l < 2000 + 1000 * (s.link l).lane.guard := by omega
  refine congrArg Host.Outcome.next ?_
  rw [effDozeLightTimeout, if_neg (by simp [may, awake]), if_neg noneNear, State.dozeTo, if_pos awake]

/-- A light doze is left, and deep doze entered at once (R134). -/
theorem exec_dozeDeepTimeout_dozes (may : s.mayDoze l 2 = true) (light : (s.link l).lane.txDoze = .light)
    (far : 20000 + 1000 * (s.link l).lane.guard ≤ s.toOpening l) :
    exec (.dozeDeepTimeout l) s = .next
      ((((s.sendSym l (.com (s.link l).lane.width)).sendSym l .skp).modLink l fun k =>
        { k with lane := { k.lane with txDoze := .deep } }).sendSym l (.doz .deep)) := by
  have noneNear : ¬ s.toOpening l < 20000 + 1000 * (s.link l).lane.guard := by omega
  refine congrArg Host.Outcome.next ?_
  rw [effDozeDeepTimeout, if_neg (by simp [may, light]), if_neg noneNear, State.dozeTo, if_neg (by simp [light])]

theorem State.wakeTx_starts (up : (s.link l).st = .up) (dozing : (s.link l).lane.txDoze ≠ .awake)
    (still : (s.link l).lane.txWaking = false) :
    s.wakeTx l = (s.modLink l fun k => { k with lane := { k.lane with txWaking := true } }).sendSym l (.com (s.link l).lane.width) :=
  if_pos ⟨up, dozing, by simp [still]⟩

end

/-! ### Hubs that meet the hypotheses -/

/-- The root in Field with a link in the state named. -/
def linkedHub (l : Nat) (k : Link) : State :=
  { State.reset with ret := { State.reset.ret with inReset := false, strapsValid := true, mode := .field }, links := [(l, k)] }

/-- A link in a step of training, for four lanes of which the two lower ones have locked. -/
def trainingLink (phase : TrainPhase) : Link :=
  { Link.init with st := .survey, lane := { Lane.init with phase := phase, width := 4, agreedWidth := 4, locked := 3, cls := 10 } }

/-- A link that is UP, as its lanes stand. -/
def upLink (lane : Lane) : Link := { Link.init with st := .up, lane := { lane with width := 4 } }

/-- Each step of training holds somewhere: lanes lock, a width remains, the upper pair of port A is taken, the sets of an attempt agree. -/
theorem witness_training :
    let ts (second : Bool) : Ts := { second := second, linkNo := 0, rate := 3, width := 4, cls := 10, upf := false }
    let sets (second : Bool) : List (List Sym) := [3, 2, 1, 0].map (ts second).set
    commaLock (encodeLane false (List.replicate 3 (.k .com))) = (true, false) ∧
    (linkedHub 1 (trainingLink .pll)).inPhase 1 .pll = true ∧
    (linkedHub 1 (trainingLink .comma)).inPhase 1 .comma = true ∧ fallbackWidth (linkBase 1) 4 3 = 2 ∧
    (linkedHub 0 (trainingLink .comma)).inPhase 0 .comma = true ∧
    (linkedHub 1 (trainingLink .ts1)).inPhase 1 .ts1 = true ∧ tsLanes (sets false) = some (ts false, (List.range 4).reverse) ∧
    (linkedHub 1 (trainingLink .ts2)).inPhase 1 .ts2 = true ∧ tsLanes (sets true) = some (ts true, (List.range 4).reverse) := by decide

/-- A link that is quiet may doze, lightly and then deeply, with no opening near; one that both ends have announced is quiesced. -/
theorem witness_doze :
    let awake := linkedHub 1 (upLink Lane.init)
    let light := linkedHub 1 (upLink { Lane.init with txDoze := .light })
    awake.mayDoze 1 1 = true ∧ 2000 + 1000 * (awake.link 1).lane.guard ≤ awake.toOpening 1 ∧
    light.mayDoze 1 2 = true ∧ 20000 + 1000 * (light.link 1).lane.guard ≤ light.toOpening 1 ∧
    (upLink { Lane.init with quiesce := true, farProp := some 3 }).quiescing = true := by decide

/-- Settles O21: a row whose conditions hold takes its one branch, and the longer rows have their equations above. -/
theorem laneRows : Obligations.laneRows := by
  refine ⟨⟨?skp, ?pll, ?symbolLock, ?width, ?upperPair, ?ts1, ?ts1Fails, ?ts2, ?timeout, ?roundWait, ?quiesced, ?duration, ?checked⟩,
    ?losStart, ?losEnd, ?light, ?deep, ?doz, ?wakeStart, ?wakeComplete, ?wakeLock, ?wakeEnd⟩
  case skp => exact fun s l core live awake driven => congrArg _ (if_pos ⟨core, live, awake, driven⟩)
  case pll => exact fun s l training => congrArg _ (if_pos training)
  case symbolLock => exact fun s l lane groups inverted core port live lock => exec_symbolLock_locks core port live lock
  case width =>
    intro s l training lower remains
    rw [exec_widthFallback training, if_neg lower]
    exact congrArg _ (if_neg remains)
  case upperPair =>
    intro s training agreed locked
    rw [exec_widthFallback training, if_pos ⟨rfl, agreed, locked⟩]
  case ts1 =>
    rintro s l skew sets t lanes rev training same first rate cls width within lower legal agreed order rfl
    rw [exec_ts1Align_takes training same first, rate, cls]
    exact congrArg _ (State.takeTs1_agrees within lower legal agreed width order)
  case ts1Fails =>
    intro s l skew sets t lanes training same first other
    rw [exec_ts1Align_takes training same first, State.takeTs1_disagrees other]
  case ts2 => exact fun s l sets t lanes training same second => exec_ts2Handoff_takes training same second
  case timeout => exact fun s l core training => congrArg _ (if_pos ⟨core, training⟩)
  case roundWait => exact fun s l core waits => congrArg _ (if_pos ⟨core, waits⟩)
  case quiesced => exact fun s l core up quiescing noneWaits => exec_retrainQuiesced_enters core up quiescing noneWaits
  case duration => exact fun s l got core runs bounded => congrArg _ (if_pos ⟨core, runs, bounded⟩)
  case checked => exact fun p got i port => p.checked_errs got port
  case losStart => exact fun s l core up awake => congrArg _ (if_pos ⟨core, up, awake⟩)
  case losEnd => exact fun s l ns core up lost => congrArg _ (if_pos ⟨core, up, lost⟩)
  case light => exact fun s l may awake far => exec_dozeLightTimeout_dozes may awake far
  case deep => exact fun s l may light far => exec_dozeDeepTimeout_dozes may light far
  case doz => exact fun s l d core up dozes => congrArg _ (if_pos ⟨core, up, dozes⟩)
  case wakeStart => exact fun s l core up dozing still => congrArg _ ((if_pos core).trans (State.wakeTx_starts up dozing still))
  case wakeComplete => exact fun s l core up waking => congrArg _ (if_pos ⟨core, up, waking⟩)
  case wakeLock =>
    intro s l core up dozing
    simp only [State.spoilExchange_uptime]
    exact congrArg _ (if_pos ⟨core, up, dozing⟩)
  case wakeEnd => exact fun s l core up dozing => congrArg _ (if_pos ⟨core, up, dozing⟩)

end Sys2Proof.Machine
end

section
/-! The LINK_ commands (R138 to R146, R184 to R186): O22. -/

namespace Sys2Proof.Machine
open Sys2Proof

section
variable {s : State} {c : Cmd} {l : Nat}

/-- A link command with its authority, a generation that matches and a link that exists takes its effect (R138, R217). -/
theorem State.linkCmd_passes {authority any : Bool} {gen : Nat} (body : State → State) (may : authority = true)
    (current : genOk any gen (s.link l).gen = true) (present : s.linkPresent l = true) :
    s.linkCmd c l authority (some (any, gen)) body = body s := by
  rw [State.linkCmd, if_neg (by simp [may]), if_neg (by simp [current]), if_neg (by simp [present])]

/-- A link that carries a window or a floor is held back unless the command forces it (R139). -/
theorem not_heldBack {force reserved : Bool} (free : force = true ∨ reserved = false) : ¬ ((!force) = true ∧ reserved = true) := by
  rcases free with h | h <;> simp [h]

end

/-! ### Packets that meet the hypotheses -/

/-- A packet of slice 0 of this hub for a LINK_ command: its opcode and its words from DW4 on. -/
def linkPacket (op : Nat) (ws : List Nat) : Cmd :=
  { dw := [BitVec.ofNat 32 (op + (4 + ws.length) * 2 ^ 16), 0, 0, 0] ++ ws.map (BitVec.ofNat 32) }

/-- Packets that a hub with link 1 UP takes, and whose checks of R138 and of their own rows they pass there. -/
theorem witness_linkCommands :
    let s := linkedHub 1 (upLink { Lane.init with txDoze := .light })
    let rate := linkPacket 0x0201 [0x70081]
    let sleep := linkPacket 0x0202 [0x100081, 10, 1000]
    let wake := linkPacket 0x0203 [0x81]
    let eq := linkPacket 0x0207 [0x100, 0, 0, 0]
    (s.takes rate 0x0201 (layLinkRate rate) false ∧ (s.begins rate).mayUse rate 0 (rate.f 4 2 0) = true ∧
      genOk (rate.b 4 7) (rate.f 4 15 8) ((s.begins rate).link (rate.f 4 2 0)).gen = true ∧
      (s.begins rate).linkPresent (rate.f 4 2 0) = true ∧ (s.begins rate).laneMax ≤ rate.f 4 17 16 ∧ rate.b 4 18 = true ∧
      ((s.begins rate).link (rate.f 4 2 0)).st = .up ∧ (s.begins rate).linkReserved (rate.f 4 2 0) = false) ∧
    (s.takes sleep 0x0202 (layLinkSleep sleep) false ∧ sleep.f 4 27 24 ≤ 10 ∧ sleep.f 5 9 0 = 10 ∧ sleep.f 6 19 0 = 1000 ∧
      sleep.b 4 6 = false) ∧
    (s.takes wake 0x0203 (layLinkWake wake) false ∧ ((s.begins wake).link (wake.f 4 2 0)).lane.txDoze ≠ .awake ∧ wake.b 4 16 = false) ∧
    (s.takes eq 0x0207 (layLinkEqOverride eq) false ∧ (s.begins eq).authZ eq = true ∧ eq.b 4 0 = false ∧
      (eqOfNat (eq.w64 6)).valid = false ∧ eq.b 4 1 = false) := by
  refine ⟨?_, ?_, ?_, ?_⟩ <;> decide

/-- Settles O22: each command passes the checks of R138 and then those of its own row. -/
theorem linkCommands : Obligations.linkCommands := by
  refine ⟨?rateNow, ?rateRetrain, ?sleep, ?awake, ?wake, ?retrain, ?eqReplace, ?query, ?counters, ?clears⟩ <;>
    intro c <;> refine Completes.of (fun _ => rfl) fun u given => ?_
  case rateNow =>
    obtain ⟨may, current, present, within, keep⟩ := given
    exact (State.linkCmd_passes _ may current present).trans ((if_neg (Nat.not_lt.2 within)).trans
      ((if_neg (by simp [keep])).trans (if_neg (by simp [keep]))))
  case rateRetrain =>
    obtain ⟨may, current, present, within, apply, up, free⟩ := given
    exact (State.linkCmd_passes _ may current present).trans ((if_neg (Nat.not_lt.2 within)).trans
      ((if_neg fun held => not_heldBack free held.2).trans (if_pos (by simp [apply, up]))))
  case sleep =>
    obtain ⟨may, current, present, guard, lightLo, lightHi, deepLo, deepHi, deeper, later⟩ := given
    exact (State.linkCmd_passes _ may current present).trans ((if_neg (by omega)).trans (if_pos (by simp [later])))
  case awake =>
    obtain ⟨may, current, present, up, awake, keep⟩ := given
    refine (State.linkCmd_passes _ may current present).trans ((if_neg (not_not.2 up)).trans ?_)
    simp [awake, keep]
  case wake =>
    obtain ⟨may, current, present, up, dozing, keep⟩ := given
    refine (State.linkCmd_passes _ may current present).trans ((if_neg (not_not.2 up)).trans ?_)
    simp [dozing, keep]
  case retrain =>
    obtain ⟨may, current, present, up, free⟩ := given
    exact (State.linkCmd_passes _ may current present).trans ((if_neg (not_not.2 up)).trans (if_neg (not_heldBack free)))
  case eqReplace =>
    obtain ⟨may, replaces, usable, later⟩ := given
    refine (if_neg (by simp [may])).trans ((if_neg ?_).trans ((if_neg (by simp [later])).trans ?_))
    · simpa [replaces] using usable
    · simp [later, replaces]
  case query => exact if_neg (by simp [given])
  case counters =>
    obtain ⟨present, keep⟩ := given
    refine (if_neg (by simp [keep])).trans ((if_neg (by simp [present])).trans ?_)
    simp [keep]
  case clears =>
    obtain ⟨present, clears, may⟩ := given
    refine (if_neg (by simp [may])).trans ((if_neg (by simp [present])).trans ?_)
    simp [clears]

end Sys2Proof.Machine
end

section
/-! The link layer (Chapter 6): received packets and LCPs, an epoch's end, start and continuation, LINK_PATTERN, and O23. -/

namespace Sys2Proof.Machine
open Sys2Proof

/-! ### What the lanes bring (R110, R128, R154, R178) -/

section
variable {s u : State} {l : Nat} {w : Wave}

/-- A wave ends no loss of signal. -/
theorem State.waveViols_los (sound : ((s.waveViols l w).link l).lane.los = false) : (s.link l).lane.los = false := by
  by_contra lost
  rw [Bool.not_eq_false] at lost
  refine absurd sound ?_
  rw [State.waveViols]
  dsimp only
  split
  · simp [lost]
  · rw [State.link_modLink]
    · simp [lost]
    · intro reset
      have sound := congrArg (fun k => k.lane.los) reset
      simp [lost, Link.init, Lane.init] at sound

/-- What a wave that overlaps a loss of signal brings is discarded (R178). -/
theorem State.takeLcp_lost (lost : ((s.waveViols l w).link l).lane.los = true) : s.takeLcp l w = (s.waveViols l w, none) :=
  if_pos (.inr lost)

theorem State.takeLcp_crc (sound : ((s.waveViols l w).link l).lane.los = false) (crc : rxLcp (rxFrame w.rows) = .crc) :
    s.takeLcp l w = ((s.waveViols l w).modLink l fun k => k.bump 0 0, none) := by
  simp [State.takeLcp, State.waveViols_los sound, sound, crc]

/-- A link that runs hears what its lanes bring. -/
theorem State.hears_of_runs (runs : s.runs l = true) : s.hears l = true := by
  simp [State.hears, runs]

/-- An LCP that a running link makes nothing of leaves what the wave itself makes of the lanes. -/
theorem exec_lcpReceive_dropped (runs : s.runs l = true) (dropped : s.takeLcp l w = (u, none)) :
    ∀ i ∈ ([.ackReceive l w, .nakReceive l w, .fcUpdateReceive l w] : List Instr), exec i s = .next u := by
  simp only [List.forall_mem_cons]
  refine ⟨?ack, ?nak, ?fc, by simp⟩ <;> refine congrArg Host.Outcome.next ?_
  case ack => simp [effAckReceive, runs, dropped]
  case nak => simp [effNakReceive, runs, dropped]
  case fc => simp [effFcUpdateReceive, State.hears_of_runs runs, dropped]

/-! ### Acknowledgement (R159 to R163) -/

theorem exec_ackReceive_takes {seq : BitVec 12} (runs : s.runs l = true) (got : s.takeLcp l w = (u, some (.ack seq))) :
    exec (.ackReceive l w) s = .next (u.takeAck l seq) := by
  refine congrArg Host.Outcome.next ?_
  simp [effAckReceive, runs, got]

theorem exec_nakReceive_takes {seq : BitVec 12} (runs : s.runs l = true) (got : s.takeLcp l w = (u, some (.nak seq))) :
    exec (.nakReceive l w) s = .next (u.takeNak l seq) := by
  refine congrArg Host.Outcome.next ?_
  simp [effNakReceive, runs, got]

variable {seq : BitVec 12} {n : Nat}

theorem State.takeAck_purges (purge : (s.link l).purge seq = some (n + 1)) :
    s.takeAck l seq = s.setLink l (s.purged l (s.link l) (n + 1)) := by
  simp [State.takeAck, purge]

theorem State.takeAck_outOfRange (purge : (s.link l).purge seq = none) : s.takeAck l seq = s.setLink l ((s.link l).bump 0 1) := by
  simp [State.takeAck, purge]

theorem State.takeNak_replays (purge : (s.link l).purge seq = some n)
    (fresh : ¬ (n = 0 ∧ (s.link l).replaying = true ∧ (s.link l).replayFrom = seq)) :
    s.takeNak l seq =
      let k := (s.link l).bump 1 0
      (s.setLink l (if n = 0 then k else s.purged l k n)).startReplay l seq true := by
  rw [State.takeNak, purge]
  exact if_neg fresh

theorem State.takeNak_outOfRange (purge : (s.link l).purge seq = none) : s.takeNak l seq = s.setLink l ((s.link l).bump 0 1) := by
  simp [State.takeNak, purge]

end

/-! ### The partner's IDENT (R151, R173 to R176) -/

section
variable {s u : State} {l : Nat} {w : Wave} {unit : BitVec 64} {cfgGen : BitVec 8} {upf : Bool} {hub : Option Nat} {epoch : BitVec 8}
  {cont : Bool} {nonce : Word}

theorem exec_identReceive_takes (training : s.inPhase l .linkLayer = true) (first : (s.link l).identRx = false)
    (got : s.takeLcp l w = (u, some (.ident unit cfgGen upf hub epoch cont nonce))) :
    exec (.identReceive l w) s = .next (u.takeIdent l unit cfgGen upf hub epoch cont nonce) := by
  refine congrArg Host.Outcome.next ?_
  simp [effIdentReceive, training, first, got]

theorem State.takeIdent_starts (unheld : (s.link l).epochHeld = false) (known : (s.link l).sbUnit = some unit) (faces : upf ≠ s.upLink l) :
    s.takeIdent l unit cfgGen upf hub epoch cont nonce = (s.newEpochOn l unit cfgGen upf hub epoch cont nonce).tryUp l := by
  simp [State.takeIdent, unheld, known, faces]

theorem State.takeIdent_continues (held : (s.link l).epochHeld = true) (offered : (s.link l).contTx = true)
    (same : unit = (s.link l).pUnit) (known : (s.link l).sbUnit = some unit) (faces : upf ≠ s.upLink l) :
    s.takeIdent l unit cfgGen upf hub (s.link l).epoch true nonce =
      let v := s.modLink l fun k => { k with identRx := true, newEpoch := false, pCfgGen := cfgGen, pUpf := upf, pHub := hub, nonceRx := nonce }
      ((v.sendFc l false false).sendFc l false true).tryUp l := by
  simp [State.takeIdent, held, offered, ← same, known, faces]

end

/-! ### Credit limits (R167, R174) -/

section
variable {s u : State} {l : Nat} {w : Wave} {hi : Bool} {limits : List Nat}

theorem exec_fcUpdateReceive_takes (hears : s.hears l = true) (got : s.takeLcp l w = (u, some (.fc false hi limits))) :
    exec (.fcUpdateReceive l w) s = .next (u.limitsCome l hi limits) := by
  refine congrArg Host.Outcome.next ?_
  simp [effFcUpdateReceive, hears, got]

theorem exec_initFcReceive_takes (training : s.inPhase l .linkLayer = true) (got : s.takeLcp l w = (u, some (.fc true hi limits))) :
    exec (.initFcReceive l w) s = .next (u.limitsCome l hi limits) := by
  refine congrArg Host.Outcome.next ?_
  simp [effInitFcReceive, training, got]

/-- A half whose limits are due is advertised. -/
theorem exec_fcUpdateTimer_sends (runs : s.runs l = true) (awake : (s.link l).txAwake = true) (due : (s.link l).halfDue false = true) :
    exec (.fcUpdateTimer l) s = .next
      (let u := s.sendFc l false false
       if (u.link l).halfDue true then u.sendFc l false true else u) := by
  refine congrArg Host.Outcome.next ?_
  rw [effFcUpdateTimer, if_neg (by simp [runs]), if_pos awake]
  simp only [due, if_true]

theorem exec_fcUpdateTimer_wakes (runs : s.runs l = true) (dozing : (s.link l).txAwake = false)
    (due : (s.link l).halfDue false = true ∨ (s.link l).halfDue true = true) :
    exec (.fcUpdateTimer l) s = .next (s.wakeTx l) := by
  refine congrArg Host.Outcome.next ?_
  rw [effFcUpdateTimer, if_neg (by simp [runs]), if_neg (by simp [dozing]), if_pos due]

end

/-! ### Tunnel packets (R158, R169, R171, R172, R178) -/

section
variable {s : State} {l : Nat} {w : Wave}

theorem exec_tunnelPacketReceive_lost (runs : s.runs l = true) (lost : ((s.waveViols l w).link l).lane.los = true) :
    exec (.tunnelPacketReceive l w) s = .next (s.waveViols l w) := by
  refine congrArg Host.Outcome.next ?_
  rw [effTunnelPacketReceive, if_neg (by simp [runs])]
  exact if_pos (.inr lost)

theorem exec_tunnelPacketReceive_heard (runs : s.runs l = true) (sound : ((s.waveViols l w).link l).lane.los = false) :
    exec (.tunnelPacketReceive l w) s = .next
      (let v := s.waveViols l w
       match rxPkt (rxFrame w.rows) with
       | .nothing => v
       | .abandoned => v.modLink l fun k => k.bump 0 3
       | .crc => v.modLink l fun k => (k.bump 0 0).nak
       | .malformed => v.modLink l fun k => (k.bump 0 1).nak
       | .good p tag => v.takePkt l p tag) := by
  refine congrArg Host.Outcome.next ?_
  rw [effTunnelPacketReceive, if_neg (by simp [runs])]
  exact if_neg (by simp [State.waveViols_los sound, sound])

/-- A link that has accepted the packet it awaited, whose key phase is the present one (R158, R169). -/
def Link.accepted (k : Link) (p : TxPkt) : Link :=
  { k with
    rxSeq := k.rxSeq + 1, rxNo := k.rxNo + 1, ackDue := true, nakPending := false, nakDue := false
    rxUsed := k.rxUsed.mod 0 p.tc fun n => n + pktCredits p }

variable {p : TxPkt} {tag : List Byte}

theorem State.takePkt_noRoom (full : ¬ (s.link l).rxUsed.read 0 p.tc + pktCredits p ≤ s.rxAlloc p.tc) :
    s.takePkt l p tag = s.setLink l ((s.link l).bump 0 1).nak :=
  if_pos (Nat.lt_of_not_le full)

section
variable (room : (s.link l).rxUsed.read 0 p.tc + pktCredits p ≤ s.rxAlloc p.tc)
include room

theorem State.takePkt_behind (behind : 2048 ≤ (p.lseq - (s.link l).rxSeq).toNat) :
    s.takePkt l p tag = s.setLink l { ((s.link l).bump 0 2) with ackDue := true } :=
  (if_neg (Nat.not_lt.2 room)).trans (if_pos behind)

theorem State.takePkt_ahead (past : 1 ≤ (p.lseq - (s.link l).rxSeq).toNat) (ahead : (p.lseq - (s.link l).rxSeq).toNat ≤ 2047) :
    s.takePkt l p tag = s.setLink l (s.link l).nak :=
  (if_neg (Nat.not_lt.2 room)).trans ((if_neg (by omega)).trans (if_pos (by omega)))

/-- The packet awaited, unsealed: it is accepted, and forwarded as it came. -/
theorem State.takePkt_accepts (awaited : (p.lseq - (s.link l).rxSeq).toNat = 0) (plain : p.sealed = false) :
    s.takePkt l p tag = (s.setLink l ((s.link l).accepted p)).forwardPkt l p := by
  have opened : (if p.sealed = true then s.openSeal l p tag else some p.payload) = some p.payload := if_neg (by simp [plain])
  have samePhase : decide (p.sealed = true ∧ p.kphase ≠ decide ((s.link l).kphaseRx % 2 = 1)) = false := by simp [plain]
  rw [State.takePkt, if_neg (Nat.not_lt.2 room), if_neg (by omega), if_neg (not_not.2 awaited), opened, samePhase]
  rfl

/-- The packet awaited, whose seal does not verify: it is accepted, and goes nowhere. -/
theorem State.takePkt_sealBad (awaited : (p.lseq - (s.link l).rxSeq).toNat = 0) (isSealed : p.sealed = true)
    (bad : s.openSeal l p tag = none) :
    s.takePkt l p tag = (s.setLink l ((s.link l).accepted p)).sealBad l p := by
  rw [State.takePkt, if_neg (Nat.not_lt.2 room), if_neg (by omega), if_neg (not_not.2 awaited), if_pos isSealed, bad]
  simp [Link.accepted]

end

end

/-! ### LINK_PATTERN (R137 to R139, R145) -/

/-- Authority, presence and the route of the command: LINK_PATTERN of a slice of this hub passes them with the first two (R138). -/
theorem State.patternChecks_pass {s : State} {c : Cmd} {l : Nat} {denied absent ownRoute x : State} {route : Prop} [Decidable route]
    (may : s.authZ c = true) (present : s.linkPresent l = true) (here : c.here = true) :
    (if (!s.authZ c) = true then denied else if (!s.linkPresent l) = true then absent
      else if (!c.here) = true ∧ route then ownRoute else x) = x := by
  simp [may, present, here]

/-! ### Links and waves that meet the hypotheses -/

/-- What the lanes bring as the far end sends symbols on four of them, from negative running disparity. -/
def sentWave (rows : List (List Sym)) : Wave :=
  let lane (j : Nat) : List (BitVec 10) := encodeLane false (rows.map fun r => r.getD j (.d 0))
  { groups := (List.range rows.length).map fun i => (List.range 4).map fun j => (lane j).getD i 0 }

/-- A link that is UP, with packet 0 in its replay buffer and packet 0 awaited. -/
def replayLink : Link := { upLink Lane.init with txSeq := 1, replay := [{ TxPkt.init with tunnel := 1 }] }

/-- The link runs, and an ACK or a NAK of packet 0 purges it. -/
theorem witness_purge :
    (linkedHub 1 replayLink).runs 1 = true ∧ ((linkedHub 1 replayLink).link 1).purge 0 = some 1 := by decide

/-- The packet it awaits comes without a violation, and there is room for it. -/
theorem witness_packet :
    let s := linkedHub 1 replayLink
    let p : TxPkt := { TxPkt.init with tunnel := 1 }
    let w := sentWave (stripe 4 (framed .stp (p.bytes [] 0) .fin))
    s.waveViols 1 w = s ∧ rxPkt (rxFrame w.rows) = .good p [] ∧ (p.lseq - (s.link 1).rxSeq).toNat = 0 ∧
    (s.link 1).rxUsed.read 0 p.tc + pktCredits p ≤ s.rxAlloc p.tc := by
  set_option maxRecDepth 20000 in exact ⟨rfl, rfl, by decide, by decide⟩

/-- The partner's IDENT comes in the link layer's part of a training, and names the epoch that both ends hold. -/
theorem witness_ident :
    let k : Link := { trainingLink .linkLayer with epochHeld := true, contTx := true, pUnit := 7, sbUnit := some 7, epoch := 5 }
    let s := linkedHub 1 k
    s.inPhase 1 .linkLayer = true ∧ s.upLink 1 = false ∧ (s.link 1).identRx = false ∧
    s.takeLcp 1 (sentWave ((LaneSym.ident 7 0 true none 5 true 0).rows 4)) = (s, some (.ident 7 0 true none 5 true 0)) := by
  set_option maxRecDepth 20000 in exact ⟨rfl, rfl, rfl, rfl⟩

/-- Settles O23: each row makes of the wave what the lanes bring, and of that what its own lemma says. -/
theorem linkEpochRows : Obligations.linkEpochRows := by
  refine ⟨⟨?offer, ?ack, ?nak, ?outOfRange, ?unheard, ?timer, ?ackSend, ?nakSend, ?identRepeat, ?fcTimer, ?fcWakes, ?fcRefresh, ?fcStall⟩,
    ⟨?losEnds, ?retrainEnds, ?carrier, ?newEpoch, ?continues, ?limits, ?initLimits, ?pattern, ?patternBusy, ?patternEnds⟩, ?packet, ?packetLost⟩
  case offer => exact fun s tid urgent first last payload core fits => congrArg _ (if_pos ⟨core, fits⟩)
  case ack =>
    intro s u l n w seq runs got purge
    rw [exec_ackReceive_takes runs got, State.takeAck_purges purge]
  case nak =>
    intro s u l n w seq runs got purge fresh
    rw [exec_nakReceive_takes runs got, State.takeNak_replays purge fresh]
  case outOfRange =>
    intro s u l w seq runs purge
    refine ⟨fun got => ?_, fun got => ?_⟩
    · rw [exec_ackReceive_takes runs got, State.takeAck_outOfRange purge]
    · rw [exec_nakReceive_takes runs got, State.takeNak_outOfRange purge]
  case unheard =>
    intro s l w runs i lcp
    exact ⟨fun lost => exec_lcpReceive_dropped runs (State.takeLcp_lost lost) i lcp,
      fun sound crc => exec_lcpReceive_dropped runs (State.takeLcp_crc sound crc) i lcp⟩
  case timer => exact fun s l runs out => congrArg _ (if_pos ⟨runs, out⟩)
  case ackSend => exact fun s l runs due awake => congrArg _ (if_pos ⟨runs, due, awake⟩)
  case nakSend => exact fun s l runs due awake sound => congrArg _ (if_pos ⟨runs, due, awake, by simp [sound]⟩)
  case identRepeat => exact fun s l core sends unheard phase => congrArg _ (if_pos ⟨core, sends, by simp [unheard], phase⟩)
  case fcTimer => exact fun s l runs awake due => exec_fcUpdateTimer_sends runs awake due
  case fcWakes => exact fun s l runs dozing due => exec_fcUpdateTimer_wakes runs dozing due
  case fcRefresh => exact fun s l runs awake => congrArg _ (if_pos ⟨runs, awake⟩)
  case fcStall => exact fun s l tc runs waits => congrArg _ (if_pos ⟨runs, waits⟩)
  case losEnds => exact fun s l runs lost => congrArg _ (if_pos ⟨runs, lost⟩)
  case retrainEnds => exact fun s l core retrains => congrArg _ (if_pos ⟨core, retrains⟩)
  case carrier =>
    intro s port l on inPort carrier core present
    exact congrArg _ ((if_neg (by simp [on, carrier, inPort])).trans (if_pos ⟨core, present⟩))
  case newEpoch =>
    intro s u l w unit cfgGen upf hub epoch cont nonce training first got unheld known faces
    rw [exec_identReceive_takes training first got, State.takeIdent_starts unheld known faces]
  case continues =>
    intro s u l w unit cfgGen upf hub nonce training first got held offered same known faces
    rw [exec_identReceive_takes training first got, State.takeIdent_continues held offered same known faces]
  case limits =>
    intro s u l w hi limits hears got trained runs
    rw [exec_fcUpdateReceive_takes hears got]
    exact congrArg _ ((if_neg (by simp [trained])).trans (if_pos runs))
  case initLimits =>
    intro s u l w hi limits training got still
    rw [exec_initFcReceive_takes training got]
    exact congrArg _ (if_pos still)
  case pattern =>
    refine fun c got => .of (fun _ => rfl) ?_
    rintro u ⟨may, present, here, pat, lanes, within, usable, duration, free⟩
    refine (State.patternChecks_pass may present here).trans ((if_neg ?_).trans ((if_neg (Nat.not_lt.2 duration)).trans
      ((if_neg pat).trans (if_neg (by simp [lanes, within, usable])))))
    rintro ⟨_, live, unforced⟩
    rcases free with ⟨notUp, notRetrain⟩ | forced
    · exact live.elim notUp notRetrain
    · simp [forced] at unforced
  case patternBusy =>
    refine fun c got => .of (fun _ => rfl) ?_
    rintro u ⟨may, present, here, pat, up, unforced⟩
    exact (State.patternChecks_pass may present here).trans (if_pos ⟨pat, .inl up, by simp [unforced]⟩)
  case patternEnds =>
    refine fun c got => .of (fun _ => rfl) ?_
    rintro u ⟨may, present, here, pat, duration, runs⟩
    exact (State.patternChecks_pass may present here).trans ((if_neg fun starts => starts.1 pat).trans
      ((if_neg (Nat.not_lt.2 duration)).trans ((if_pos pat).trans (if_neg runs))))
  case packet =>
    intro s l w runs sound
    have heard := exec_tunnelPacketReceive_heard runs sound
    refine ⟨fun p tag good => ?_, fun crc => ?_, fun malformed => ?_, fun abandoned => ?_, fun k pending => if_pos pending,
      fun k noPending => if_neg (by simp [noPending])⟩
    · rw [good] at heard
      dsimp only at heard ⊢
      rw [heard]
      exact ⟨fun room awaited plain => congrArg _ (State.takePkt_accepts room awaited plain),
        fun room awaited isSealed bad => congrArg _ (State.takePkt_sealBad room awaited isSealed bad),
        fun room behind => congrArg _ (State.takePkt_behind room behind),
        fun room past ahead => congrArg _ (State.takePkt_ahead room past ahead), fun full => congrArg _ (State.takePkt_noRoom full)⟩
    · rw [heard, crc]
    · rw [heard, malformed]
    · rw [heard, abandoned]
  case packetLost => exact fun s l w runs lost => exec_tunnelPacketReceive_lost runs lost

end Sys2Proof.Machine
end

section
/-! The egress scheduler's choice (R152, R162, R229 to R232): what is offered to a link, what of it goes, and O26. -/

namespace Sys2Proof.Machine
open Sys2Proof

/-! ### Round robin (R229) -/

/-- Of two packets the one of the lower tunnel, the earlier of two of one tunnel. -/
def lowerTunnel (best : Option QPkt) (q : QPkt) : Option QPkt :=
  match best with
  | some b => if q.pkt.tunnel < b.pkt.tunnel then some q else some b
  | none => some q

theorem lowerTunnel_some (b q : QPkt) : lowerTunnel (some b) q = some q ∨ lowerTunnel (some b) q = some b :=
  ite_eq_or_eq ..

/-- The lowest of some packets is one of them. -/
theorem foldl_lowerTunnel (b : QPkt) (qs : List QPkt) : ∃ q ∈ b :: qs, qs.foldl lowerTunnel (some b) = some q := by
  induction qs generalizing b with
  | nil => exact ⟨b, List.mem_cons_self, rfl⟩
  | cons a qs ih =>
    rw [List.foldl_cons]
    rcases lowerTunnel_some b a with lower | lower <;> rw [lower]
    · obtain ⟨q, mem, best⟩ := ih a
      exact ⟨q, List.mem_cons_of_mem _ mem, best⟩
    · obtain ⟨q, mem, best⟩ := ih b
      exact ⟨q, List.cons_subset_cons b (List.subset_cons_self a qs) mem, best⟩

/-- The lowest above the last one served, else the lowest of all. -/
theorem rrPick_eq (last : Nat) (qs : List QPkt) :
    rrPick last qs = ((qs.filter fun q => decide (last < q.pkt.tunnel)).foldl lowerTunnel none).or (qs.foldl lowerTunnel none) := by
  change (match (qs.filter fun q => decide (last < q.pkt.tunnel)).foldl lowerTunnel none with
    | some q => some q
    | none => qs.foldl lowerTunnel none) = _
  cases (qs.filter fun q => decide (last < q.pkt.tunnel)).foldl lowerTunnel none <;> rfl

/-- Round robin serves one of the packets there are, wherever it stands. -/
theorem rrPick_serves (last : Nat) {qs : List QPkt} (some' : qs ≠ []) : ∃ q ∈ qs, rrPick last qs = some q := by
  rw [rrPick_eq]
  cases above : qs.filter fun q => decide (last < q.pkt.tunnel) with
  | nil =>
    obtain ⟨b, rest, rfl⟩ := List.exists_cons_of_ne_nil some'
    exact foldl_lowerTunnel b rest
  | cons b rest =>
    obtain ⟨q, mem, best⟩ := foldl_lowerTunnel b rest
    refine ⟨q, List.mem_of_mem_filter (above ▸ mem), ?_⟩
    rw [List.foldl_cons, lowerTunnel, best, Option.some_or]

theorem rrPick_eq_none {last : Nat} {qs : List QPkt} (none' : rrPick last qs = none) : qs = [] := by
  by_contra some'
  obtain ⟨q, _, served⟩ := rrPick_serves last some'
  exact absurd (served.symm.trans none') nofun

theorem mem_of_rrPick {last : Nat} {qs : List QPkt} {q : QPkt} (served : rrPick last qs = some q) : q ∈ qs := by
  have some' : qs ≠ [] := fun empty => by subst empty; cases served
  obtain ⟨p, mem, best⟩ := rrPick_serves last some'
  exact Option.some.inj (best.symm.trans served) ▸ mem

/-! ### What a class offers (R229, R232) -/

section
variable {s : State} {l tc : Nat}

/-- The packets of a class that may go now and are of a tier: the round robin of the tier chooses among them. -/
def State.ofTier (s : State) (l tc i : Nat) : List QPkt :=
  (((s.link l).sched.heads tc).filter (s.fits l)).filter fun q => decide (s.tier l q = some i)

theorem State.mem_ofTier {i : Nat} {q : QPkt} :
    q ∈ s.ofTier l tc i ↔ q ∈ (s.link l).sched.heads tc ∧ s.fits l q = true ∧ s.tier l q = some i := by
  simp only [State.ofTier, List.mem_filter, decide_eq_true_eq, and_assoc]

/-- The packet of a tier that the round robin serves, with the tier. -/
def State.tierPick (s : State) (l tc i : Nat) : Option (QPkt × Nat) :=
  (rrPick ((s.link l).sched.rr.read 0 (2 * tc + i)) (s.ofTier l tc i)).map fun q => (q, i)

theorem State.tierPick_some {i j : Nat} {q : QPkt} (picked : s.tierPick l tc i = some (q, j)) : j = i ∧ q ∈ s.ofTier l tc i := by
  obtain ⟨p, served, same⟩ := Option.map_eq_some_iff.1 picked
  cases same
  exact ⟨rfl, mem_of_rrPick served⟩

theorem State.tierPick_none {i : Nat} (idle : s.tierPick l tc i = none) : s.ofTier l tc i = [] :=
  rrPick_eq_none (Option.map_eq_none_iff.1 idle)

/-- A class whose gate is closed or whose credit is spent offers nothing; any other offers its floor tier before its shared one. -/
theorem State.pickClass_eq (s : State) (l tc : Nat) :
    s.pickClass l tc =
      if (!(s.link l).sched.gateOpen tc s.nowFine) = true ∨ (tc ≠ 0 ∧ tc ≠ 7 ∧ s.creditNow l tc s.nowFine < 0) then none
      else (s.tierPick l tc 0).or (s.tierPick l tc 1) := by
  change (if _ then none else match s.tierPick l tc 0 with
    | some r => some r
    | none => s.tierPick l tc 1) = _
  cases s.tierPick l tc 0 <;> rfl

/-- What stands behind a packet that is offered. -/
theorem State.pickClass_some {q : QPkt} {i : Nat} (offers : s.pickClass l tc = some (q, i)) :
    (s.link l).sched.gateOpen tc s.nowFine = true ∧ (tc ≠ 0 → tc ≠ 7 → 0 ≤ s.creditNow l tc s.nowFine) ∧
    q ∈ s.ofTier l tc i ∧ (i = 1 → s.ofTier l tc 0 = []) := by
  rw [State.pickClass_eq] at offers
  split at offers
  · cases offers
  next allowed =>
    obtain ⟨gate, credit⟩ := not_or.1 allowed
    refine ⟨by simpa using gate, fun lo hi => not_lt.1 fun spent => credit ⟨lo, hi, spent⟩, ?_⟩
    rcases Option.or_eq_some_iff.1 offers with floor | ⟨noFloor, shared⟩
    · obtain ⟨rfl, mem⟩ := State.tierPick_some floor
      exact ⟨mem, nofun⟩
    · obtain ⟨rfl, mem⟩ := State.tierPick_some shared
      exact ⟨mem, fun _ => State.tierPick_none noFloor⟩

end

/-! ### The highest class that offers a packet -/

section
variable {α : Type} {offer : Nat → Option α}

theorem highest_offer {tc : Nat} {a : α} (here : offer tc = some a) :
    ∀ {n : Nat}, tc < n → (∀ m, tc < m → m < n → offer m = none) → ((List.range n).reverse.filterMap offer).head? = some a
  | n + 1, below, above => by
    rw [List.range_succ, List.reverse_append, List.reverse_singleton, List.singleton_append]
    obtain lower | rfl := Nat.lt_succ_iff_lt_or_eq.1 below
    · rw [List.filterMap_cons_none (above n lower n.lt_succ_self)]
      exact highest_offer here lower fun m higher small => above m higher (small.trans n.lt_succ_self)
    · rw [List.filterMap_cons_some here, List.head?_cons]

theorem no_offer {n : Nat} (none' : ∀ m, m < n → offer m = none) : ((List.range n).reverse.filterMap offer).head? = none := by
  rw [List.head?_eq_none_iff, List.filterMap_eq_nil_iff]
  exact fun m mem => none' m (List.mem_range.1 (List.mem_reverse.1 mem))

end

/-! ### What goes (R152, R162, R229, R587) -/

section
variable {s : State} {l : Nat}

/-- The link is up, awake and owes no acknowledgement, and neither it nor the fabric recovers. -/
structure State.Serves (s : State) (l : Nat) : Prop where
  core : s.coreOn = true
  present : s.linkPresent l = true
  up : s.linkUp l = true
  awake : (s.link l).lane.txDoze = .awake
  still : (s.link l).lane.txWaking = false
  noAck : (s.link l).ackDue = false
  noNak : (s.link l).nakDue = false
  calm : s.recovers [1, 2 + l] = false

/-- None of what holds the scheduler of a link holds it. -/
theorem State.Serves.notHeld (serves : s.Serves l) :
    ¬ ((!(s.coreOn && s.linkPresent l && s.linkUp l)) = true ∨ (s.link l).lane.txDoze ≠ .awake ∨ (s.link l).lane.txWaking = true ∨
      (s.link l).ackDue = true ∨ ((s.link l).nakDue = true ∧ (!(s.link l).lane.los) = true) ∨ s.recovers [1, 2 + l] = true) := by
  obtain ⟨core, present, up, awake, still, noAck, noNak, calm⟩ := serves
  simp [core, present, up, awake, still, noAck, noNak, calm]

theorem State.sendReplay_next {p : TxPkt} (next : (s.link l).replay[(s.link l).replayIdx]? = some p) :
    s.sendReplay l = (s.setLink l { s.link l with
      replayIdx := (s.link l).replayIdx + 1
      replaying := decide ((s.link l).replayIdx + 1 < (s.link l).replay.length) }).sendPkt l p := by
  rw [State.sendReplay, next]

theorem exec_schedulerPick_replays (serves : s.Serves l) (replaying : (s.link l).replaying = true) :
    exec (.schedulerPick l) s = .next (s.sendReplay l) :=
  congrArg Host.Outcome.next ((if_neg serves.notHeld).trans (if_pos replaying))

/-- The window of a link that is open at an instant and has bytes left. -/
def LinkSched.openWindow (x : LinkSched) (now : Nat) : Option Window :=
  x.windows.find? fun w => w.live now && decide (w.sent < w.q)

/-- A packet of `n` bytes goes in its tunnel's window, and is counted for the window and for the tunnel's bound (R229, R247). -/
def State.sendInWindow (s : State) (l : Nat) (w : Window) (q : QPkt) (n : Nat) : State :=
  ((s.modLink l fun k => { k with sched := { k.sched with
    windows := k.sched.windows.map fun v => if v = w then { v with sent := v.sent + n } else v } }).boundSent
      l q.pkt.tunnel n).sendQueued l q

/-- A packet goes in its class: the class and the tunnel's bound pay, and a window that it has missed counts it (R232, R239, R246). -/
def State.sendInClass (s : State) (l : Nat) (r : QPkt × Nat) : State :=
  ((s.debit l r.1 r.2).missed l r.1.pkt.tunnel r.1.cls).sendQueued l r.1

/-- The packet of the highest class that offers one (R229). -/
def State.classPick (s : State) (l : Nat) : Option (QPkt × Nat) :=
  ((List.range 8).reverse.filterMap fun tc => s.pickClass l tc).head?

/-- With no replay under way, the open window that has bytes left comes before the classes: its packet goes or nothing does. -/
theorem exec_schedulerPick_new (serves : s.Serves l) (noReplay : (s.link l).replaying = false) (noQuiesce : (s.link l).quiescing = false) :
    exec (.schedulerPick l) s = .next
      (((s.link l).sched.openWindow (s.schedAdvance l).nowFine).elim
        (((s.schedAdvance l).classPick l).elim (s.schedAdvance l) fun r => (s.schedAdvance l).sendInClass l r)
        fun w => ((s.schedAdvance l).windowPick l w).elim (s.schedAdvance l) fun q =>
          (s.schedAdvance l).sendInWindow l w q (pktCounted q.pkt (s.link l).sched.ovh)) := by
  refine congrArg Host.Outcome.next ((if_neg serves.notHeld).trans ((if_neg (by simp [noReplay])).trans
    ((if_neg (by simp [noQuiesce])).trans ?_)))
  simp only [LinkSched.openWindow]
  split
  next w opens =>
    rw [opens, Option.elim_some]
    cases (s.schedAdvance l).windowPick l w <;> rfl
  next closed =>
    rw [closed, Option.elim_none, State.classPick]
    cases ((List.range 8).reverse.filterMap fun tc => (s.schedAdvance l).pickClass l tc).head? <;> rfl

end

/-! ### Hubs that meet the hypotheses -/

/-- A hub whose link 1 is up with a scheduler and a replay buffer of its own, and room for a packet of class 0. -/
def schedHub (x : LinkSched) (replay : List TxPkt) : State :=
  linkedHub 1 { upLink Lane.init with cl := [(0, 64)], sched := x, replay := replay, replaying := decide (replay ≠ []) }

/-- A window of tunnel 5 at the start of an occurrence, with bytes left. -/
def freshWindow (q : Nat) : Window :=
  { Window.init with tid := 5, period := 1000000, q := q, hopLen := 500000, isOpen := true, effect := true, occ := 1 }

theorem schedHub_serves (x : LinkSched) (replay : List TxPkt) : (schedHub x replay).Serves 1 := by
  have present : (linkedHub 1 Link.init).linkPresent 1 = true := by decide
  exact ⟨rfl, present, rfl, rfl, rfl, rfl, rfl, rfl⟩

theorem schedHub_new (x : LinkSched) : ((schedHub x []).link 1).replaying = false ∧ ((schedHub x []).link 1).quiescing = false :=
  ⟨rfl, rfl⟩

/-- Each way of serving is open to such a hub: a replay under way, a window that its packet fits or does not fit, a class that offers
a packet, no packet at all. A fabric recovers in the last. -/
theorem witness_schedulerPick :
    let p : TxPkt := { TxPkt.init with tunnel := 5 }
    let q : QPkt := { QPkt.init with pkt := p }
    let advanced (x : LinkSched) := (schedHub x []).schedAdvance 1
    let window (n : Nat) : LinkSched := { LinkSched.init with windows := [freshWindow n], queue := [q] }
    let queued : LinkSched := { LinkSched.init with queue := [q] }
    (((schedHub .init [p]).link 1).replaying = true ∧
      ((schedHub .init [p]).link 1).replay[((schedHub .init [p]).link 1).replayIdx]? = some p) ∧
    ((window 100).openWindow (advanced (window 100)).nowFine = some (freshWindow 100) ∧
      (advanced (window 100)).windowPick 1 (freshWindow 100) = some q) ∧
    ((window 1).openWindow (advanced (window 1)).nowFine = some (freshWindow 1) ∧
      (advanced (window 1)).windowPick 1 (freshWindow 1) = none) ∧
    (queued.openWindow (advanced queued).nowFine = none ∧ (advanced queued).pickClass 1 0 = some (q, 1) ∧
      ∀ m < 8, 0 < m → (advanced queued).pickClass 1 m = none) ∧
    (LinkSched.init.openWindow (advanced .init).nowFine = none ∧ ∀ m < 8, (advanced .init).pickClass 1 m = none) ∧
    { schedHub queued [] with err := { (schedHub queued []).err with
      doms := [(1, { DomErr.init with recovering := true })] } }.recovers [1, 3] = true := by
  decide

/-- Settles O26: what holds the scheduler is told from what it serves, and each way of serving has its equation above; a packet is
offered by the round robin of its tier among those that fit. -/
theorem schedulerPick : Obligations.schedulerPick := by
  refine ⟨?recovers, ?replays, ?new, ?offered⟩
  case recovers =>
    intro s l recovers
    exact congrArg _ (if_pos (by simp [recovers]))
  case replays =>
    intro s l p k core present up awake still noAck noNak calm replaying next
    rw [exec_schedulerPick_replays ⟨core, present, up, awake, still, noAck, noNak, calm⟩ replaying, State.sendReplay_next next]
  case new =>
    intro s l k core present up awake still noAck noNak calm noReplay noQuiesce open'
    have serves : s.Serves l := ⟨core, present, up, awake, still, noAck, noNak, calm⟩
    have picks := exec_schedulerPick_new serves noReplay noQuiesce
    refine ⟨fun w q (opens : (s.link l).sched.openWindow _ = _) fits => ?_,
      fun w (opens : (s.link l).sched.openWindow _ = _) waits => ?_,
      fun (closed : (s.link l).sched.openWindow _ = _) => ⟨fun tc q i below offers above => ?_, fun none' => ?_⟩⟩
    · rw [picks, opens, Option.elim_some, fits]
      rfl
    · rw [picks, opens, Option.elim_some, waits]
      rfl
    · have picked : (s.schedAdvance l).classPick l = some (q, i) := highest_offer offers below above
      rw [picks, closed, Option.elim_none, picked]
      rfl
    · have idle : (s.schedAdvance l).classPick l = none := no_offer none'
      rw [picks, closed, Option.elim_none, idle]
      rfl
  case offered =>
    intro s l tc i q offers
    obtain ⟨gate, credit, mem, floorFirst⟩ := State.pickClass_some offers
    obtain ⟨head, fits, tier⟩ := State.mem_ofTier.1 mem
    refine ⟨gate, fun shaped => credit (by omega) (by omega), fits, tier, head, fun shared p waits mayGo floor => ?_⟩
    exact List.not_mem_nil (floorFirst shared ▸ State.mem_ofTier.2 ⟨waits, mayGo, floor⟩)

end Sys2Proof.Machine
end

section
/-! The tree's messages and timers, and the commands TREE_ and TUN_ (Chapter 7): O24 and O25. -/

namespace Sys2Proof.Machine
open Sys2Proof

/-! ### HELLO at the root (R191 to R194) -/

/-- A check that asks for what holds turns nothing away. -/
theorem not_of_holds {b : Bool} (holds : b = true) : ¬ (!b) = true := by simp [holds]

/-- What a HELLO heard on a link says of its sender: the link joins its route, and one hop its count (R188). -/
def heardOn (l : Nat) (ws : List Word) : HelloRec :=
  { unit := unitOf ws 2, route := (nthW ws 1 * 8 + l) % 2 ^ 24, count := min 9 (bits (nthW ws 0) 23 20 + 1),
    role := bits (nthW ws 0) 10 9, cfgGen := BitVec.ofNat 8 (bits (nthW ws 0) 7 0) }

/-- A HELLO names a number that the root holds for its unit, as this tree's root (R193). -/
def State.knows (s : State) (ws : List Word) : Bool :=
  let n := bits (nthW ws 0) 19 15
  bit (nthW ws 0) 14 && decide (n ≠ 0 ∧ (s.recOf n).state ≠ rFree ∧ (s.recOf n).unit = Machine.unitOf ws 2 ∧ Machine.unitOf ws 4 = s.nv.unitId)

/-- The root's answer to a HELLO that it neither drops nor has refused (R192 to R194). -/
def State.answerHello (s : State) (known : Bool) (n : Nat) (h : HelloRec) : State :=
  if known then s.heard n h
  else if s.tree.enumDone ∧ !s.tree.enumRun then s.hotAttach h
  else { s with tree := { s.tree with pendHello := (s.tree.pendHello.filter fun p => decide (p.unit ≠ h.unit)) ++ [h] } }

section
variable {s : State} {l : Nat} {ws : List Word}

/-- Writing back the lists of refusals as they stand changes nothing. -/
theorem State.refusals_kept {refused lapsed : List HelloRec} (now : s.tree.refused = refused) (before : s.tree.lapsed = lapsed) :
    { s with tree := { s.tree with refused := refused, lapsed := lapsed } } = s := by
  subst now before
  rfl

/-- A root at which no unit is refused or was answers a HELLO but of an evicted hub. -/
theorem exec_hello_root (core : s.coreOn = true) (up : s.linkUp l = true) (down : s.upLink l = false) (root : s.isRoot = true)
    (welcome : ∀ m ∈ s.hubList, (s.recOf m).unit = unitOf ws 2 → s.barred m = false)
    (refused : s.tree.refused = []) (lapsed : s.tree.lapsed = []) :
    exec (.hello l ws) s = .next (s.answerHello (s.knows ws) (bits (nthW ws 0) 19 15) (heardOn l ws)) := by
  have unbarred : ¬ (s.hubList.any fun m => decide ((s.recOf m).unit = unitOf ws 2) && s.barred m) = true := by simpa using welcome
  refine congrArg Host.Outcome.next ((if_neg (by simp [core, up, down])).trans ((if_neg (not_of_holds root)).trans ((if_neg unbarred).trans
    ((if_neg (by simp [refused])).trans ((if_neg (by simp [lapsed])).trans ?_)))))
  exact congrArg (fun u : State => u.answerHello (s.knows ws) (bits (nthW ws 0) 19 15) (heardOn l ws))
    (State.refusals_kept (by simp [refused]) (by simp [lapsed]))

/-- A hub heard again at its place has its CFGGEN and role recorded (R193). -/
theorem State.heard_place {n : Nat} {h : HelloRec}
    (place : (s.recOf n).route = h.route ∧ (s.recOf n).depth = h.count ∧ s.mustRefuse h = false) :
    s.heard n h = s.setRec n { s.recOf n with cfgGen := h.cfgGen, role := h.role } := by
  obtain ⟨route, depth, fits⟩ := place
  exact if_pos ⟨route, depth, by simp [fits]⟩

end

/-! ### ASSIGN to this hub (R188, R195) -/

/-- A hub that takes a number in the tree of a root. -/
def State.numberedIn (s : State) (n : Nat) (root : BitVec 64) : State :=
  { s.renumberOwn n with tree := { (s.renumberOwn n).tree with hub := some n, rootUnit := root } }

/-- A hub tells its number upstream, and may then return to Field (R188, R198). -/
def State.tellNumber (s : State) (n : Nat) : State :=
  (if s.linkUp 0 then s.emit (.tree 0 3 (numberedWords n s.nv.unitId)) else s).tryReturn

/-- A hub that is given another number than its own forgets the routes it has learnt (R195). -/
def State.forgetRoutes (s : State) (n : Nat) : State := if s.tree.hub.isSome ∧ s.tree.hub ≠ some n then s.clearRoutes else s

section
variable {s : State} {ws : List Word}

theorem State.forgetRoutes_unnumbered {n : Nat} (unnumbered : s.tree.hub = none) : s.forgetRoutes n = s := if_neg (by simp [unnumbered])

/-- Taking a number leaves the links and the unit ID as they are, so that a hub whose upstream link is UP tells it. -/
theorem State.tellNumber_numberedIn {n : Nat} {root : BitVec 64} (up : s.linkUp 0 = true) :
    (s.numberedIn n root).tellNumber n = ((s.numberedIn n root).emit (.tree 0 3 (numberedWords n s.nv.unitId))).tryReturn := by
  have own := @State.renumberOwn_only
  have links : (s.numberedIn n root).links = s.links := by simp only [State.numberedIn, own]
  have nv : (s.numberedIn n root).nv = s.nv := by simp only [State.numberedIn, own]
  have up' : (s.numberedIn n root).linkUp 0 = true := by rwa [State.linkUp, State.link, links]
  rw [State.tellNumber, if_pos up', nv]

/-- A hub that has no number takes the first that its root gives it. -/
theorem exec_assign_own (core : s.coreOn = true) (arrived : bits (nthW ws 0) 23 20 = 0) (leaf : s.isRoot = false)
    (mine : unitOf ws 2 = s.nv.unitId) (root : unitOf ws 4 = s.tree.rootUnit) (unnumbered : s.tree.hub = none) :
    exec (.assign ws) s = .next
      ((s.numberedIn (bits (nthW ws 0) 19 15) (unitOf ws 4)).tellNumber (bits (nthW ws 0) 19 15)) := by
  refine congrArg Host.Outcome.next ((if_neg (by simp [core])).trans ((if_neg (not_not.2 arrived)).trans
    ((if_neg (by simp [leaf, mine])).trans ?_)))
  generalize bits (nthW ws 0) 19 15 = n
  calc
    _ = ((s.forgetRoutes n).numberedIn n (unitOf ws 4)).tellNumber n :=
      congrArg (fun u : State => ((u.forgetRoutes n).numberedIn n (unitOf ws 4)).tellNumber n) (if_pos root)
    _ = _ := by rw [State.forgetRoutes_unnumbered unnumbered]

end

/-! ### The other rows -/

section
variable {s : State} {ws : List Word}

/-- The root learns the link over which a hub's number has come (R195). -/
theorem exec_numbered_root {l : Nat} (core : s.coreOn = true) (up : s.linkUp l = true) (down : s.upLink l = false)
    (other : s.hubNum ≠ some (bits (nthW ws 0) 19 15)) (root : s.isRoot = true) :
    exec (.numbered l ws) s = .next
      (let n := bits (nthW ws 0) 19 15
       let u := s.setGaz (n + 1) { s.gaz (n + 1) with state := gOpen, egress := linkBit l, tid := n + 1, tc := 7 }
       { u with tree := { u.tree with
         numUnits := u.tree.numUnits.write 0 n (unitOf ws 2), lostRoutes := u.tree.lostRoutes.filter fun m => decide (m ≠ n) } }) := by
  exact congrArg Host.Outcome.next ((if_neg (by simp [core, up, down, other])).trans (if_neg fun sent => not_of_holds root sent.1))

/-- An enumeration that no command asked for numbers every hub heard from, but one behind a hub refused before (R192). -/
theorem exec_initialEnumerationEnd_first (core : s.coreOn = true) (root : s.isRoot = true) (runs : s.tree.enumRun = true)
    (first : s.tree.renumCmd = none) :
    exec .initialEnumerationEnd s = .next
      (let u := { s with tree := { s.tree with pendHello := [], enumRun := false, enumDone := true, renumCmd := none } }.numberAll
         (preorder (s.tree.pendHello.filter fun h => !(s.tree.lapsed.any h.behind)))
       u.treeEvent stOk [pack [fld 24 0x0B, 1], pack [fld 24 u.tree.cfgGen.toNat], u.inUse, 0]) := by
  refine congrArg Host.Outcome.next ?_
  rw [effInitialEnumerationEnd, if_neg (by simp [core, root, runs, first])]
  simp [first]

/-- A hub without a number sends its HELLO and no NUMBERED (R191). -/
theorem State.sendHello_unnumbered (leaf : s.isRoot = false) (up : s.linkUp 0 = true) (unnumbered : s.tree.hub = none) :
    s.sendHello = s.emit (.tree 0 1 s.helloWords) := by
  have hub : (s.emit (.tree 0 1 s.helloWords)).tree.hub = none := unnumbered
  rw [State.sendHello, if_neg (by simp [leaf, up])]
  simp only [hub]

/-- A hop's answer that the transaction awaits, of another hub than the source's, counts as come (R209). -/
theorem exec_tunAck_awaited {o : TunOp} (core : s.coreOn = true) (root : s.isRoot = true) (tunnel : 33 < nthW ws 1 % 4096)
    (tagged : nthW ws 1 / 2 ^ 24 ≠ 0) (op : s.tree.tunOp = some o) (tag : o.tag = nthW ws 1 / 2 ^ 24)
    (awaited : o.waiting.contains (bits (nthW ws 0) 19 15, nthW ws 1 % 4096) = true)
    (notSource : bits (nthW ws 0) 19 15 ≠ (s.tun (nthW ws 1 % 4096)).srcHub) (ok : nthW ws 2 % 256 = stOk) :
    exec (.tunAck ws) s = .next
      ((s.opStep { o with waiting := o.waiting.erase (bits (nthW ws 0) 19 15, nthW ws 1 % 4096) }).tunNext (s.tree.tunQ.length + 1)) := by
  refine congrArg Host.Outcome.next ?_
  rw [effTunAck, if_neg (by simp [core, root, tunnel])]
  simp only [notSource, tagged, op, ok, false_and, if_false, if_true]
  exact if_neg (by simpa [tag] using awaited)

/-- TUN_PROG of a CLOSED entry that the hop's facts allow (R203, R204, R221, R241). -/
theorem exec_tunProg_closed (core : s.coreOn = true) (tunnel : 33 < nthW ws 1 % 4096) (closed : (s.gaz (nthW ws 1 % 4096)).state = gClosed)
    (ok : s.hopCheck (nthW ws 1 % 4096) (Gaz.ofWords (ws.drop 4)) = stOk) :
    exec (.tunProg ws) s = .next
      (let t := nthW ws 1 % 4096
       let g := Gaz.ofWords (ws.drop 4)
       let u := (if g.state = gOpen then egressLinks g.egress else []).foldl (fun (s : State) l => { s with tree := { s.tree with
         fresh := s.tree.fresh.write 0 (8 * t + l) (s.uptime + 1) } }) (s.setEntry t g)
       let v := u.tunAck (nthW ws 1 / 2 ^ 24) t stOk
       if g.sound t then v else v.detect { dom := 0x80, check := 8, loc := word t, unit := t } false) := by
  refine congrArg Host.Outcome.next ?_
  rw [effTunProg, if_neg (by simp [core, tunnel])]
  simp [ok, closed]

end

/-! ### Hubs and messages that meet the hypotheses -/

/-- A hub in Field with a role, links 0 and 1 UP and what it holds of the tree. -/
def treeHub (role : Nat) (tree : Tree) : State :=
  { State.reset with
    ret := { State.reset.ret with inReset := false, strapsValid := true, mode := .field, straps := BitVec.ofNat _ role }
    links := [(0, upLink Lane.init), (1, upLink Lane.init)], tree := tree }

/-- HELLO of unit 7, which is hub 3 of the tree of unit 0. -/
def helloOfHub3 : List Word := [pack [fld 24 1, fld 15 3, fld 14 1, fld 9 1], 0, 7, 0, 0, 0, 0, 0]

/-- A HELLO is passed up by a branch, kept by a root that enumerates, and known by one that has numbered its hub. -/
theorem witness_hello :
    let branch := treeHub 1 Tree.init
    let root := treeHub 0 Tree.init
    let knows := treeHub 0 { Tree.init with hubs := [(3, { HubRec.init with state := rNumbered, unit := 7, route := 1, depth := 1 })] }
    (branch.coreOn = true ∧ branch.linkUp 1 = true ∧ branch.upLink 1 = false ∧ branch.isRoot = false ∧ branch.linkUp 0 = true ∧
      branch.tree.hub = none) ∧
    (root.coreOn = true ∧ root.linkUp 1 = true ∧ root.upLink 1 = false ∧ root.isRoot = true ∧ root.tree.enumDone = false ∧
      root.tree.refused = [] ∧ root.tree.lapsed = [] ∧ root.hubList = []) ∧
    (knows.isRoot = true ∧ knows.hubList = [3] ∧ knows.barred 3 = false ∧ knows.knows helloOfHub3 = true ∧
      (knows.recOf 3).route = (heardOn 1 helloOfHub3).route ∧ (knows.recOf 3).depth = (heardOn 1 helloOfHub3).count ∧
      knows.mustRefuse (heardOn 1 helloOfHub3) = false) := by decide

/-- ASSIGN goes on over link 1 and reaches a branch without a number; NUMBERED comes to the root; an enumeration and a grace run; a branch
in Holdover is cut off from its root. -/
theorem witness_numbering :
    let branch := treeHub 1 Tree.init
    let root := treeHub 0 { Tree.init with enumRun := true }
    let further := assignWords 1 3 1 7 0
    let own := assignWords 0 3 0 0 0
    let graced := root.modLink 1 fun k => { k with grace := some { unit := 7 } }
    let cutOff : State := { branch with ret := { branch.ret with mode := .holdover }, links := [] }
    (bits (nthW further 0) 23 20 ≠ 0 ∧ nthW further 1 < 2 ^ 24 ∧ nthW further 1 % 8 = 1 ∧ branch.linkPresent 1 = true) ∧
    (bits (nthW own 0) 23 20 = 0 ∧ unitOf own 2 = branch.nv.unitId ∧ unitOf own 4 = branch.tree.rootUnit) ∧
    root.hubNum ≠ some (bits (nthW (numberedWords 3 7) 0) 19 15) ∧
    (root.tree.enumRun = true ∧ root.tree.renumCmd = none) ∧
    (graced.link 1).grace = some { unit := 7 } ∧
    (cutOff.ret.mode = .holdover ∧ cutOff.isRoot = false ∧ cutOff.linkUp 0 = false) := by decide

/-- Tunnel 40 is programmed, soundly or under another name; an answer of hub 3 in its opening and its closing is awaited; its entry
drains. -/
theorem witness_tunnelSteps :
    let root := treeHub 0 Tree.init
    let prog (named : Nat) : List Word := [word (fld 24 5), pack [fld 24 9, 40], 0, 0] ++ { Gaz.init with state := gOpen, tid := named }.words
    let ack : List Word := [pack [fld 24 7, fld 15 3], pack [fld 24 9, 40], 0, 0]
    let op (kind : TunOpKind) : TunOp := { kind := kind, tid := 40, ids := [40], waiting := [(3, 40)], tag := 9 }
    let closing := treeHub 0 { Tree.init with gaz := [(40, { Gaz.init with state := gClosing })] }
    (33 < nthW (prog 40) 1 % 4096 ∧ (root.gaz (nthW (prog 40) 1 % 4096)).state = gClosed ∧
      root.hopCheck (nthW (prog 40) 1 % 4096) (Gaz.ofWords ((prog 40).drop 4)) = stOk ∧
      (Gaz.ofWords ((prog 40).drop 4)).sound (nthW (prog 40) 1 % 4096) = true ∧
      (Gaz.ofWords ((prog 41).drop 4)).sound (nthW (prog 41) 1 % 4096) = false) ∧
    (33 < nthW ack 1 % 4096 ∧ nthW ack 1 / 2 ^ 24 ≠ 0 ∧ (op .open).tag = nthW ack 1 / 2 ^ 24 ∧
      (op .open).waiting.contains (bits (nthW ack 0) 19 15, nthW ack 1 % 4096) = true ∧
      bits (nthW ack 0) 19 15 ≠ (root.tun (nthW ack 1 % 4096)).srcHub ∧ nthW ack 2 % 256 = stOk) ∧
    ((op .open).kind ≠ .close ∧ (op .open).waiting ≠ [] ∧ (op .close).kind = .close) ∧
    ((closing.gaz 40).state = gClosing ∧ closing.queued 40 = false) := by decide

/-- Settles O24: HELLO at the root, ASSIGN to this hub, NUMBERED, the enumeration's end, TUN_PROG and TUN_ACK have their equations above; in
every other row the conditions choose the branch. -/
theorem treeRows : Obligations.treeRows := by
  refine ⟨?helloUp, ?helloKept, ?helloKnown, ?helloRepeat, ?assignOn, ?assignOwn, ?numbered, ?linkchg, ?enumEnd, ?grace, ?acting, ?tunProg,
    ?tunSet, ?tunAck, ?openTimeout, ?closeDrained, ?closeTimeout, ?closeAckTimeout⟩
  case helloUp =>
    exact fun s l ws core up down leaf up0 =>
      congrArg _ ((if_neg (by simp [core, up, down])).trans ((if_pos (by simp [leaf])).trans (if_pos up0)))
  case helloKept =>
    intro s l ws core up down root unnumbered enumerating refused lapsed alone
    rw [exec_hello_root core up down root (by simp [alone]) refused lapsed]
    exact congrArg _ ((if_neg (by simp [State.knows, unnumbered])).trans (if_neg (by simp [enumerating])))
  case helloKnown =>
    intro s l ws core up down root w0 n h numbered notRoot used unit tree welcome refused lapsed
    rw [exec_hello_root core up down root welcome refused lapsed]
    refine congrArg _ ((if_pos (by simp [State.knows, numbered, w0, n, h, notRoot, used, unit, tree])).trans ?_)
    split
    next place => exact State.heard_place place
    next => rfl
  case helloRepeat =>
    intro s core unnumbered leaf up
    exact congrArg _ ((if_pos ⟨core, by simp [unnumbered]⟩).trans (State.sendHello_unnumbered leaf up unnumbered))
  case assignOn =>
    intro s ws core further route present down up
    refine congrArg Host.Outcome.next ?_
    rw [effAssign, Nat.mod_eq_of_lt route, if_neg (by simp [core]), if_pos further]
    exact if_pos ⟨present, by simp [down], up⟩
  case assignOwn =>
    intro s ws core arrived leaf mine root unnumbered up
    rw [exec_assign_own core arrived leaf mine root unnumbered, State.tellNumber_numberedIn up]
    rfl
  case numbered => exact fun s l ws core up down other root => exec_numbered_root core up down other root
  case linkchg =>
    exact fun s l ws core up down root => congrArg _ ((if_neg (by simp [core, up, down])).trans (if_neg (not_of_holds root)))
  case enumEnd => exact fun s core root runs first => exec_initialEnumerationEnd_first core root runs first
  case grace =>
    intro s l g core grace running unjudged
    refine congrArg Host.Outcome.next ?_
    rw [effReattachGraceExpiry, grace]
    exact (if_pos ⟨core, running⟩).trans (if_pos unjudged)
  case acting => exact fun s mode leaf down => congrArg _ (if_pos ⟨mode, by simp [leaf], by simp [down]⟩)
  case tunProg => exact fun s ws core tunnel closed ok => exec_tunProg_closed core tunnel closed ok
  case tunSet =>
    exact fun s link ws core tunnel toRoot => congrArg _ ((if_neg (by simp [core, tunnel])).trans (if_pos (by simp [toRoot])))
  case tunAck =>
    exact fun s ws o core root tunnel tagged op tag awaited notSource ok => exec_tunAck_awaited core root tunnel tagged op tag awaited notSource ok
  case openTimeout =>
    intro s o core root op kind waits
    refine congrArg Host.Outcome.next ?_
    rw [effTunnelOpenStepTimeout, op]
    exact if_pos ⟨core, root, kind, waits⟩
  case closeDrained => exact fun s t core closing drained => congrArg _ (if_pos ⟨core, closing, by simp [drained]⟩)
  case closeTimeout => exact fun s t core closing => congrArg _ (if_pos ⟨core, closing⟩)
  case closeAckTimeout =>
    intro s hub t o core root op kind
    refine congrArg Host.Outcome.next ?_
    rw [effCloseAckTimeout, op]
    exact if_pos ⟨core, root, kind⟩

/-! ### The commands of Table 7.5 and of the tunnels -/

section
variable {u : State} {c : Cmd}

/-- TREE_EVICT of slice 0 of the root for a hub of another subtree than its sender's, with the unit that the root holds for it, passes
the checks of R219. -/
theorem State.treeEvict_passes {n : Nat} {ancestor : Bool} {bad denied ungranted absent stale x : State} (root : u.isRoot = true) (other : n ≠ 0)
    (slice0 : u.fromRoot0 c = true) (outside : (u.below n).contains (u.cmdHub c) = false) (held : (u.recOf n).state ≠ rFree)
    (same : (u.recOf n).unit = BitVec.ofNat 64 (c.w64 5)) :
    (if (!u.isRoot) = true ∨ n = 0 then bad else if (u.below n).contains (u.cmdHub c) = true then denied
      else if (!(u.fromRoot0 c || ancestor)) = true then ungranted else if (u.recOf n).state = rFree then absent
      else if (u.recOf n).unit ≠ BitVec.ofNat 64 (c.w64 5) then stale else x) = x := by
  rw [if_neg (not_or.2 ⟨not_of_holds root, other⟩), if_neg (ne_true_of_eq_false outside), if_neg (by simp [slice0]), if_neg held,
    if_neg (not_not.2 same)]

/-- A command on a tunnel that neither opens nor closes becomes a transaction, asked for by its owner or by slice 0 of the root (R208, R222). -/
theorem State.tunCmd_asks {k : TunOpKind} (root : u.isRoot = true) (tunnel : 33 < c.f 4 11 0)
    (may : u.isOwner c (u.tun ((u.pairIds (c.f 4 11 0)).headD (c.f 4 11 0))) = true ∨ u.fromRoot0 c = true)
    (notOpening : (u.tun ((u.pairIds (c.f 4 11 0)).headD (c.f 4 11 0))).state ≠ gOpening)
    (notClosing : (u.tun ((u.pairIds (c.f 4 11 0)).headD (c.f 4 11 0))).state ≠ gClosing) :
    u.tunCmd c k = u.tunAsk { kind := k, tid := c.f 4 11 0, cmd := some c } := by
  have numbered : ¬ c.f 4 11 0 = 0 := by omega
  rw [State.tunCmd, if_neg (not_or.2 ⟨not_of_holds root, numbered⟩), if_neg (Nat.not_le.2 tunnel),
    if_neg (not_of_holds (Bool.or_eq_true_iff.2 may)), if_neg (not_or.2 ⟨notOpening, notClosing⟩)]

end

/-- Packets of slice 0 that the root of hub 3 takes, and whose checks they pass there. -/
theorem witness_treeCommands :
    let r : HubRec := { HubRec.init with state := rNumbered, unit := 7, route := 1, depth := 1, link := 1 }
    let root (evicted : List Nat) (tuns : Tab TunRec) : State := treeHub 0 { Tree.init with hubs := [(3, r)], evictedHubs := evicted, tuns := tuns }
    let s := root [] []
    let enumerate (again : Nat) := linkPacket 0x0300 [again]
    let query := linkPacket 0x0301 [3]
    let evict (readmit : Nat) := linkPacket 0x0303 [3 + 256 * readmit, 7, 0]
    let close := linkPacket 0x0401 [40]
    let opened := root [] [(40, { TunRec.init with state := gOpen })]
    (s.takes (enumerate 0) 0x0300 (layTreeEnumerate (enumerate 0)) false ∧ (s.begins (enumerate 0)).isRoot = true ∧
      (s.begins (enumerate 0)).fromRoot0 (enumerate 0) = true ∧ (s.begins (enumerate 0)).tree.renumCmd = none ∧
      (enumerate 0).b 4 0 = false ∧ s.takes (enumerate 1) 0x0300 (layTreeEnumerate (enumerate 1)) false ∧ (enumerate 1).b 4 0 = true) ∧
    (s.takes query 0x0301 (layTreeQuery query) true ∧ query.b 4 5 = false ∧ ((s.begins query).recOf (query.f 4 4 0)).state ≠ rFree) ∧
    (s.takes (evict 0) 0x0303 (layTreeEvict (evict 0)) false ∧ (evict 0).f 4 4 0 = 3 ∧ (evict 0).b 4 8 = false ∧
      ((s.begins (evict 0)).below 3).contains ((s.begins (evict 0)).cmdHub (evict 0)) = false ∧
      ((s.begins (evict 0)).recOf 3).unit = BitVec.ofNat 64 ((evict 0).w64 5)) ∧
    ((root [3] []).takes (evict 1) 0x0303 (layTreeEvict (evict 1)) false ∧ (evict 1).b 4 8 = true ∧
      ((root [3] []).begins (evict 1)).tree.evictedHubs.contains ((evict 1).f 4 4 0) = true) ∧
    (opened.takes close 0x0401 (layTun close) false ∧ close.f 4 11 0 = 40 ∧ (opened.begins close).fromRoot0 close = true ∧
      ((opened.begins close).tun (((opened.begins close).pairIds 40).headD 40)).state = gOpen) := by
  refine ⟨?_, ?_, ?_, ?_, ?_⟩ <;> decide

/-- Settles O25: each command passes the checks of its row in their order. -/
theorem treeCommands : Obligations.treeCommands := by
  refine ⟨?answers, ?renumbers, ?query, ?evicts, ?returns, ?opens, ?changes, ?record, ?counters, ?entry⟩
  case answers =>
    refine fun c => .of (fun _ => rfl) ?_
    rintro u ⟨root, slice0, idle, keep⟩
    exact (if_neg (not_of_holds root)).trans ((if_neg (not_of_holds slice0)).trans ((if_neg (by simp [idle])).trans
      (if_neg (ne_true_of_eq_false keep))))
  case renumbers =>
    refine fun c => .of (fun _ => rfl) ?_
    rintro u ⟨root, slice0, idle, again, noTunnels⟩
    refine (if_neg (not_of_holds root)).trans ((if_neg (not_of_holds slice0)).trans ((if_neg (by simp [idle])).trans
      ((if_pos again).trans ?_)))
    rw [noTunnels]
    rfl
  case query =>
    refine fun c => .of (fun _ => rfl) ?_
    rintro u ⟨root, byNumber, held⟩
    refine (if_neg (not_of_holds root)).trans ?_
    rw [if_neg (ne_true_of_eq_false byNumber)]
    exact if_neg held
  case evicts =>
    refine fun c => .of (fun _ => rfl) ?_
    rintro u ⟨root, other, slice0, outside, held, same, evict⟩
    exact (State.treeEvict_passes root other slice0 outside held same).trans (if_neg (ne_true_of_eq_false evict))
  case returns =>
    refine fun c => .of (fun _ => rfl) ?_
    rintro u ⟨root, other, slice0, outside, held, same, readmit, evicted⟩
    exact (State.treeEvict_passes root other slice0 outside held same).trans ((if_pos readmit).trans (if_neg (not_of_holds evicted)))
  case opens => exact fun c => .of (fun _ => rfl) fun u root => if_neg (not_of_holds root)
  case changes =>
    intro c k _ P f
    have asks (u : State) (given : P u) : u.tunCmd c k = f u := by
      obtain ⟨root, tunnel, may, notOpening, notClosing⟩ := given
      exact State.tunCmd_asks root tunnel may notOpening notClosing
    refine ⟨?_, ?_, ?_, ?_⟩ <;>
      · rintro rfl
        exact .of (fun _ => rfl) asks
  case record =>
    refine fun c => .of (fun _ => rfl) ?_
    rintro u ⟨registry, keep, root⟩
    exact (if_neg (by simp [keep, root])).trans (if_pos registry)
  case counters =>
    refine fun c => .of (fun _ => rfl) ?_
    rintro u ⟨own, keep, hub⟩
    exact (if_neg (by simp [own])).trans ((if_neg (ne_true_of_eq_false own)).trans ((if_neg (by simp [keep])).trans ((if_pos hub).trans
      (congrArg (fun v : State => v.complete c stOk _) (if_neg (ne_true_of_eq_false keep))))))
  case entry =>
    refine fun c => .of (fun _ => rfl) ?_
    rintro u ⟨own, keep, tunnel⟩
    exact (if_neg (by simp [own])).trans ((if_neg (ne_true_of_eq_false own)).trans ((if_neg (by simp [keep])).trans ((if_neg tunnel).trans
      (congrArg (fun v : State => v.complete c stOk _) (if_neg (ne_true_of_eq_false keep))))))

end Sys2Proof.Machine
end

section
/-! The credit of a class whose gate is closed (R232, R234; log entry 30): O27. -/

namespace Sys2Proof.Machine
open Sys2Proof

/-! ### A gate that closes (R232) -/

/-- The credits of the first classes frozen where their gate is closed. -/
def LinkSched.frozenTo (x : LinkSched) (n : Nat) : Tab Int :=
  (List.range n).foldl (fun t i => if x.gateWas (i + 1) then t else t.write 0 (i + 1) (t.read 0 (i + 1) / grain * grain)) x.credit

theorem LinkSched.frozen_eq (x : LinkSched) : x.frozen = { x with credit := x.frozenTo 6 } := rfl

theorem LinkSched.frozenTo_succ (x : LinkSched) (n : Nat) :
    x.frozenTo (n + 1) = if x.gateWas (n + 1) then x.frozenTo n
      else (x.frozenTo n).write 0 (n + 1) ((x.frozenTo n).read 0 (n + 1) / grain * grain) := by
  rw [LinkSched.frozenTo, List.range_succ, List.foldl_append]
  rfl

theorem LinkSched.frozenTo_wf {x : LinkSched} (canonical : Tab.wf 0 x.credit = true) (n : Nat) : Tab.wf 0 (x.frozenTo n) = true := by
  induction n with
  | zero => exact canonical
  | succ n ih =>
    rw [LinkSched.frozenTo_succ]
    split
    · exact ih
    · exact Tab.write_wf 0 ih _ _

theorem LinkSched.read_frozenTo {x : LinkSched} (canonical : Tab.wf 0 x.credit = true) (n tc : Nat) :
    (x.frozenTo n).read 0 tc =
      if 1 ≤ tc ∧ tc ≤ n ∧ x.gateWas tc = false then x.credit.read 0 tc / grain * grain else x.credit.read 0 tc := by
  induction n with
  | zero => exact (if_neg (by omega)).symm
  | succ n ih =>
    rw [LinkSched.frozenTo_succ]
    obtain rfl | other := eq_or_ne tc (n + 1)
    · rw [if_neg (by omega)] at ih
      cases was : x.gateWas (n + 1)
      · simp [Tab.read_write 0 (LinkSched.frozenTo_wf canonical n), ih]
      · simp [ih]
    · have within : tc ≤ n + 1 ↔ tc ≤ n := by omega
      simp only [within]
      rw [← ih]
      split
      · rfl
      · exact Tab.read_write_ne 0 _ _ other

/-- In a credit table in canonical form (log entry 2) the credit of a class whose gate is closed is truncated to the grid (log entry 30),
and every other is left. -/
theorem LinkSched.read_frozen {x : LinkSched} (canonical : Tab.wf 0 x.credit = true) {tc : Nat} (lo : 1 ≤ tc) (hi : tc ≤ 6) :
    x.frozen.credit.read 0 tc = if x.gateWas tc = true then x.credit.read 0 tc else x.credit.read 0 tc / grain * grain := by
  rw [LinkSched.frozen_eq, LinkSched.read_frozenTo canonical]
  cases x.gateWas tc <;> simp [lo, hi]

/-- A scheduler whose operating list is empty, so that every gate is closed, with a credit table out of canonical form: two entries
for TC1. -/
def twiceCredited : LinkSched := { LinkSched.init with opSlot := 0, credit := [(1, 1), (1, grain)] }

/-- Refutes O27: its clause on frozen credits speaks of every credit table, those out of canonical form too. In `twiceCredited` the
credit of TC1 is truncated to 0, so that its entry is erased, and the second entry is read from then on. `LinkSched.read_frozen` gives
the clause for a table in canonical form. -/
theorem not_schedulerTimers : ¬ Obligations.schedulerTimers := by
  rintro ⟨_, _, freezes, _⟩
  have second : twiceCredited.frozen.credit.read 0 1 = grain := by decide
  have truncated : (if twiceCredited.gateWas 1 = true then twiceCredited.credit.read 0 1
      else twiceCredited.credit.read 0 1 / grain * grain) = 0 := by decide
  have zero : (grain : Int) = 0 := second.symm.trans ((freezes twiceCredited 1 (by decide) (by decide)).trans truncated)
  exact absurd zero (by decide)

end Sys2Proof.Machine
end

section
/-! The SCHED_ commands (R238 to R243, R251 to R257): O28. -/

namespace Sys2Proof.Machine
open Sys2Proof

/-! ### The checks of a command on one link (R251 to R254) -/

section
variable {s : State} {c : Cmd} {l slot : Nat}

/-- A command that may use a link that exists passes the checks that the commands on one link share. -/
theorem State.mayUse_passes {ungranted absent x : State} (may : s.mayUse c 0 l = true) (present : s.linkPresent l = true) :
    (if (!s.mayUse c 0 l) = true then ungranted else if (!s.linkPresent l) = true then absent else x) = x := by
  rw [if_neg (not_of_holds may), if_neg (not_of_holds present)]

/-- A switch to no list, or to a loaded slot. -/
theorem not_unloaded {x : LinkSched} (switch : slot = 4 ∨ slot < 4 ∧ (x.gates.read GateSlot.init slot).loaded = true) :
    ¬ (slot < 4 ∧ (!(x.gates.read GateSlot.init slot).loaded) = true) := by
  rintro ⟨numbered, unloaded⟩
  obtain rfl | ⟨_, loaded⟩ := switch
  · exact numbered.false
  · exact not_of_holds loaded unloaded

/-- No switch is pending, or the command cancels it. -/
theorem not_busy {x : LinkSched} {cancel : Bool} (free : x.pendSlot = 7 ∨ cancel = true) :
    ¬ (x.pendSlot ≠ 7 ∧ (!cancel) = true) := by
  rintro ⟨pending, keeps⟩
  exact not_of_holds (free.resolve_left pending) keeps

end

/-- A list of gate entries that each last 50 ns or more, in a cycle of 1 us to 1 s, is a gate list (R253). -/
theorem gateListOk_of_bounds {es : List Word} (long : ∀ e ∈ es, 50 ≤ entDur e) (lo : 1000 ≤ gateCycle es)
    (hi : gateCycle es ≤ 1000000000) : gateListOk es = true := by
  simpa [gateListOk, lo, hi] using long

/-! ### A transaction of the root (R251, R255, R256) -/

section
variable {u : State} {c : Cmd}

/-- Forms sent to a hub that the root reaches are awaited (R251). -/
theorem State.sendForms_waits {o : WinOp} {fs : List (Nat × List (Nat × Word))} (reached : (fs.filter fun f => u.reach f.1) ≠ []) :
    ∃ v : WinOp, (u.sendForms o fs).sched.winOp = some v ∧ v.waiting ≠ [] := by
  have sends := @State.sendSys_only
  refine ⟨{ o with waiting := (fs.filter fun f => u.reach f.1).map Prod.fst, got := [] }, ?_, ?_⟩
  · simp [State.sendForms, sends]
  · simpa using reached

/-- A transaction whose forms go to some hub sends them, and waits for their answers. -/
theorem State.winTake_sends {cmd : Option Cmd} {t : Nat} {isWin : Bool} {w : Option Window} {b : Option (Bool × Nat × Nat)}
    (reached : ((u.hopForms isWin t w b).filter fun f => u.reach f.1) ≠ []) :
    u.winTake cmd t isWin w b =
      let plan := w.elim [] (u.winPlan t)
      u.sendForms { isWin := isWin, tid := t, tag := u.freeTag, cmd := cmd, winRec := w, bnd := b
                    span := (plan.map fun x => x.2.2.1 + x.2.2.2).foldl max 0, nhops := (once (plan.map Prod.fst)).length }
        (u.hopForms isWin t w b) := by
  unfold State.winTake
  dsimp only
  split
  next v op =>
    obtain ⟨v', op', waits⟩ := State.sendForms_waits reached (u := u)
    rw [op'] at op
    cases op
    rw [if_neg waits]
    cases w <;> rfl
  next => cases w <;> rfl

/-- With no transaction under way the first that waits begins (R251). -/
theorem State.winNext_begins {q : Option Cmd × Nat × Bool} {rest : List (Option Cmd × Nat × Bool)} {n : Nat}
    (noOp : u.sched.winOp = none) (waits : u.sched.winQ = q :: rest) :
    u.winNext (n + 1) = ({ u with sched := { u.sched with winQ := rest } }.winBegin q.1 q.2.1 q.2.2).winNext n := by
  rw [State.winNext, noOp, waits]

/-- With none waiting either, one that is asked for begins at once. -/
theorem State.winAsk_idle {cmd : Option Cmd} {t : Nat} {again : Bool} (noOp : u.sched.winOp = none) (noneWait : u.sched.winQ = []) :
    u.winAsk cmd t again = u.winBegin cmd t again := by
  have same : { u with sched := { u.sched with winQ := [] } } = u := by rw [← noneWait]
  rw [State.winAsk, noneWait]
  let asked : State := { u with sched := { u.sched with winQ := [(cmd, t, again)] } }
  exact (State.winNext_begins (u := asked) (n := 0) noOp rfl).trans (congrArg (fun v : State => v.winBegin cmd t again) same)

/-- The owner's command on a tunnel that is OPEN passes the checks of the root for both commands (R196, R251). -/
structure State.OwnerAsks (u : State) (c : Cmd) : Prop where
  root : u.isRoot = true
  whole : c.b 15 31 = false
  tunnel : 33 < c.f 4 11 0
  noOp : u.sched.winOp = none
  noneWait : u.sched.winQ = []
  hub : u.cmdHub c = (u.tun (c.f 4 11 0)).ownerHub
  slice : c.slice = (u.tun (c.f 4 11 0)).ownerSlice
  current : genOk (c.b 4 20) (c.f 4 19 12) (u.tun (c.f 4 11 0)).gen = true
  isOpen : (u.tun (c.f 4 11 0)).state = gOpen
  sets : c.b 4 21 = false

theorem State.OwnerAsks.begins {hop : State → State} (asks : u.OwnerAsks c) :
    u.schedCmd c hop = u.winBegin (some c) (c.f 4 11 0) true := by
  rw [State.schedCmd, if_neg (ne_true_of_eq_false asks.whole), if_neg (not_of_holds asks.root), if_neg (Nat.not_le.2 asks.tunnel),
    State.winAsk_idle asks.noOp asks.noneWait]

/-- The window of the owner's command goes to the hops (R238, R251, R255). -/
theorem State.OwnerAsks.window (asks : u.OwnerAsks c) (op : c.opcode = 0x0503) :
    u.winBegin (some c) (c.f 4 11 0) true = u.winTake (some c) (c.f 4 11 0) true
      (some { tid := c.f 4 11 0, period := c.w 5, offset := c.w 6, q := c.f 7 19 0, lmax := c.f 7 31 20 }) none := by
  obtain ⟨_, _, _, _, _, hub, slice, current, isOpen, sets⟩ := asks
  simp [State.winBegin, op, hub, slice, current, isOpen, sets]

/-- The bound of the owner's command goes to the hops (R242, R251, R256). -/
theorem State.OwnerAsks.bound (asks : u.OwnerAsks c) (op : c.opcode = 0x0504) (shaped : (u.tun (c.f 4 11 0)).tc ≠ 0) :
    u.winBegin (some c) (c.f 4 11 0) true = u.winTake (some c) (c.f 4 11 0) false none (some (c.b 4 22, c.w 5, c.w 6)) := by
  obtain ⟨_, _, _, _, _, hub, slice, current, isOpen, sets⟩ := asks
  simp [State.winBegin, op, hub, slice, current, isOpen, sets, shaped]

/-- A hop form of the root, for the generation of a tunnel that is OPEN here (R196, R240). -/
structure State.HopTakes (u : State) (c : Cmd) : Prop where
  form : c.b 15 31 = true
  sys : c.sys = true
  root : c.hub = 0
  current : genOk (c.b 4 20) (c.f 4 19 12) (u.gaz (c.f 4 11 0)).gen = true
  isOpen : (u.gaz (c.f 4 11 0)).state = gOpen

theorem State.HopTakes.runs {hop : State → State} (takes : u.HopTakes c) : u.schedCmd c hop = hop u := by
  rw [State.schedCmd, if_pos takes.form, if_pos ⟨takes.sys, takes.root⟩]

/-- Such a form passes the hop's checks of the tunnel. -/
theorem State.HopTakes.passes {stale shut x : State} (takes : u.HopTakes c) :
    (if (!genOk (c.b 4 20) (c.f 4 19 12) (u.gaz (c.f 4 11 0)).gen) = true then stale
      else if (u.gaz (c.f 4 11 0)).state ≠ gOpen then shut else x) = x := by
  rw [if_neg (not_of_holds takes.current), if_neg (not_not.2 takes.isOpen)]

end

/-! ### A window at a hop (R240, R241, R251, R255) -/

section
variable (u : State) (c : Cmd)

/-- The window that a hop form names, acknowledged at an instant. -/
def formWindow (now : Nat) : Window :=
  { tid := c.f 4 11 0, period := c.w 5, offset := c.w 6, q := c.f 7 19 0, lmax := c.f 7 31 20, hopOpen := c.w 8, hopLen := c.w 9, ackAt := now }

/-- The windows of other tunnels on the form's link. -/
def State.otherWindows : List Window := (u.link (c.f 10 2 0)).sched.windows.filter fun w => decide (w.tid ≠ c.f 4 11 0)

/-- The tunnel's window in effect there. -/
def State.ownWindows : List Window := (u.link (c.f 10 2 0)).sched.windows.filter fun w => decide (w.tid = c.f 4 11 0) && w.effect

/-- The link holds these windows. -/
def State.putWindows (ws : List Window) : State :=
  u.modLink (c.f 10 2 0) fun k => { k with sched := { k.sched with windows := ws } }

/-- What the form found on the link is kept for a set-back. -/
def State.keepFound : State :=
  (u.schedAdvance (c.f 10 2 0)).keepBack c true (c.f 10 2 0) (some {
    isWin := true, tid := c.f 4 11 0, link := c.f 10 2 0, tag := c.htag, since := u.uptime
    wins := (u.link (c.f 10 2 0)).sched.windows.filter fun w => decide (w.tid = c.f 4 11 0) })

/-- A hop form that was taken completes with the tunnel and its generation. -/
def State.formDone (v : State) : State := v.complete c stOk [pack [fld 12 (u.gaz (c.f 4 11 0)).gen.toNat, c.f 4 11 0], 0, 0, 0]

/-- What becomes of a form that is no set-back. -/
def State.judgeWindow : State :=
  let w := formWindow c u.nowNs
  if c.b 4 21 = true then u.formDone c ((u.keepFound c).putWindows c (u.otherWindows c))
  else if (u.ownWindows c).any w.same = true then u.formDone c ((u.keepFound c).putWindows c (u.otherWindows c ++ u.ownWindows c))
  else if u.isFresh (c.f 4 11 0) (c.f 10 2 0) = true then
    let v := (u.keepFound c).putWindows c (u.otherWindows c ++ [{ w with effect := true }])
    u.formDone c ({ v with tree := { v.tree with fresh := v.tree.fresh.erase (8 * c.f 4 11 0 + c.f 10 2 0) } }.noteOver (c.f 10 2 0))
  else if w.period < w.hopLen ∨ (u.otherWindows c).any w.clash = true ∨
      (((u.keepFound c).putWindows c (u.otherWindows c ++ [w])).admitFail (c.f 10 2 0)).isSome = true then
    (u.keepFound c).complete c stLimit []
  else u.formDone c ((u.keepFound c).putWindows c (u.otherWindows c ++ u.ownWindows c ++ [w]))

end

section
variable {u : State} {c : Cmd}

/-- A set-back gives the tunnel on the link what the refused form found there. -/
theorem State.HopTakes.windowSetBack {b : Back} (takes : u.HopTakes c)
    (egress : (u.gaz (c.f 4 11 0)).egress.toNat.testBit (c.f 10 2 0) = true) (found : u.backOf c true (c.f 10 2 0) = some b)
    (same : b.isWindow (c.b 4 21) (formWindow c u.nowNs) = true) :
    u.hopWindow c = u.formDone c (((u.schedAdvance (c.f 10 2 0)).putWindows c
      (u.otherWindows c ++ b.wins.map fun v => ((u.ownWindows c).find? v.same).getD v)).keepBack c true (c.f 10 2 0) none) := by
  have isBack : ((u.backOf c true (c.f 10 2 0)).filter fun b => b.isWindow (c.b 4 21) (formWindow c u.nowNs)) = some b := by
    simp [found, same]
  refine takes.passes.trans ((if_neg (not_of_holds egress)).trans ?_)
  change (match (u.backOf c true (c.f 10 2 0)).filter fun b => b.isWindow (c.b 4 21) (formWindow c u.nowNs) with
    | some b => _
    | none => _) = _
  rw [isBack]
  rfl

/-- Any other form on a link of the tunnel is judged. -/
theorem State.HopTakes.windowJudged (takes : u.HopTakes c)
    (egress : (u.gaz (c.f 4 11 0)).egress.toNat.testBit (c.f 10 2 0) = true)
    (noBack : ((u.backOf c true (c.f 10 2 0)).filter fun b => b.isWindow (c.b 4 21) (formWindow c u.nowNs)) = none) :
    u.hopWindow c = u.judgeWindow c := by
  refine takes.passes.trans ((if_neg (not_of_holds egress)).trans ?_)
  change (match (u.backOf c true (c.f 10 2 0)).filter fun b => b.isWindow (c.b 4 21) (formWindow c u.nowNs) with
    | some b => _
    | none => _) = _
  rw [noBack]
  rfl

end

/-! ### A bound at a hop (R242, R243, R251, R256) -/

section
variable (u : State) (c : Cmd)

/-- The bound that a hop form names. -/
def formBound : Bound := { tid := c.f 4 11 0, be := c.b 4 22, floor := c.f 5 23 0, ceil := c.f 6 23 0 }

/-- The form sets the tunnel's bound back to what the refused form found. -/
def State.undoesBound : Bool := (u.backOf c false 0).any fun b => b.isBound (c.b 4 21) (formBound c)

/-- What the form found is kept for a set-back, and a set-back takes it. -/
def State.keepFoundBound : State :=
  u.keepBack c false 0 (if u.undoesBound c = true then none else some {
    tid := c.f 4 11 0, tag := c.htag, since := u.uptime
    bound := if (u.gaz (c.f 4 11 0)).bound = 0 then none else some (u.sched.bounds.read Bound.init (u.gaz (c.f 4 11 0)).bound) })

/-- A tunnel's record here takes a bound. -/
def State.writeBound (t : Nat) (g : Gaz) (x : Bound) : State :=
  State.setGaz { u with sched := { u.sched with bounds := u.sched.bounds.write Bound.init g.bound x } } t g

/-- The record that the tunnel holds takes the form's bound. -/
def State.putBound : State :=
  State.writeBound ((List.range 5).foldl State.schedAdvance (u.keepFoundBound c)) (c.f 4 11 0) (u.gaz (c.f 4 11 0)) (formBound c)

/-- The first link of some and its test that fails, or the fabric test (R243, R256). -/
def State.boundRefusal (egress : BitVec 5) : Option (Nat × Nat) :=
  let bad := ((egressLinks egress).filterMap fun l => (u.admitFail l).map fun k => (l, k)).head?
  if bad.isNone = true ∧ (!u.testFabric) = true then some (0, 2) else bad

end

section
variable {u : State} {c : Cmd}

theorem State.boundRefusal_none {egress : BitVec 5} (links : ∀ l ∈ egressLinks egress, u.admitFail l = none)
    (fabric : u.testFabric = true) : u.boundRefusal egress = none := by
  have noLink : ((egressLinks egress).filterMap fun l => (u.admitFail l).map fun k => (l, k)) = [] :=
    List.filterMap_eq_nil_iff.2 fun l mem => by rw [links l mem, Option.map_none]
  rw [State.boundRefusal, noLink]
  exact if_neg fun fails => not_of_holds fabric fails.2

/-- A bound in a record that stands is set where no test fails, and by a set-back untested. -/
theorem State.HopTakes.boundSet (takes : u.HopTakes c) (sets : c.b 4 21 = false) (held : (u.gaz (c.f 4 11 0)).bound ≠ 0)
    (accepted : u.undoesBound c = true ∨ (u.putBound c).boundRefusal (u.gaz (c.f 4 11 0)).egress = none) :
    u.hopBound c = (u.putBound c).complete c stOk [pack [fld 12 (u.gaz (c.f 4 11 0)).gen.toNat, c.f 4 11 0], 0, 0, 0] := by
  refine takes.passes.trans ((if_neg (ne_true_of_eq_false sets)).trans ?_)
  obtain ⟨v, advanced⟩ : ∃ v, (List.range 5).foldl State.schedAdvance (u.keepFoundBound c) = v := ⟨_, rfl⟩
  rw [State.putBound, advanced] at accepted ⊢
  rw [State.keepFoundBound, State.undoesBound, formBound] at advanced
  rw [if_pos held]
  dsimp only
  rw [advanced]
  split
  next l k refused =>
    refine absurd (refused.symm.trans ?_) (Option.some_ne_none (l, k))
    rcases accepted with undo | fits
    · exact if_pos (.inr undo)
    · exact ite_eq_left_iff.2 fun _ => fits
  next => rfl

end

/-! ### Hubs and packets that meet the hypotheses -/

/-- The root in Field with hub 3 below its link 1, and tunnel 40 OPEN from the one to the other. -/
def schedRoot (gaz : Tab Gaz) : State :=
  { linkedHub 1 (upLink Lane.init) with tree := { Tree.init with
      hubs := [(3, { HubRec.init with state := rNumbered, unit := 7, route := 1, depth := 1, link := 1 })]
      tuns := [(40, { TunRec.init with state := gOpen, tc := 6, path := [(0, 0), (3, 1)], exits := [(3, 0)] })]
      gaz := gaz } }

/-- A hop form of the root as a hop receives it: its opcode and its words from DW4 on. -/
def hopForm (op : Nat) (ws : List Nat) : Cmd :=
  { linkPacket op (ws ++ List.replicate (11 - ws.length) 0 ++ [2 ^ 31]) with sys := true, here := false, hub := 0 }

/-- Commands that the root takes: an idle slope that link 1 admits and one that it does not, a gate list, a switch, a query, a window
and a bound of tunnel 40; and its hop forms at a hop that holds the tunnel OPEN towards link 1. -/
theorem witness_schedulingCommands :
    let root := schedRoot []
    let hop := schedRoot [(40, { Gaz.init with state := gOpen, tc := 6, egress := 2#5, bound := 1 })]
    let slope (rate : Nat) := linkPacket 0x0500 [0x4101, rate, 0, 0, 0, 0]
    let load := linkPacket 0x0501 [0x101, 0, 0, 0, 0xFF0F4240]
    let commit := linkPacket 0x0502 [0x41, 0, 0]
    let query := linkPacket 0x0505 [0x21]
    let window := linkPacket 0x0503 [40, 1000000, 0, 0x64003E8, 0, 0, 0, 0, 0, 0, 0, 0]
    let bound := linkPacket 0x0504 [40, 100, 200, 0, 0, 0, 0, 0, 0, 0, 0, 0]
    let hopWindow := hopForm 0x0503 [40, 1000000, 0, 0x64003E8, 0, 50000, 1]
    let hopBound := hopForm 0x0504 [40, 100, 200]
    ((∀ r ∈ [1000, 390000], root.takes (slope r) 0x0500 (laySchedClassSet (slope r)) false) ∧
      ((root.begins (slope 1000)).setClass (slope 1000) 1).admitFail 1 = none ∧
      ((root.begins (slope 390000)).setClass (slope 390000) 1).admitFail 1 ≠ none) ∧
    (root.takes load 0x0501 (laySchedGateLoad load) false ∧ gateListOk [word (load.w 8)] = true ∧
      root.takes commit 0x0502 (laySchedGateCommit commit) false ∧ root.takes query 0x0505 (laySchedQuery query) true) ∧
    (root.takes window 0x0503 (laySchedWindowSet window) false ∧ (root.begins window).OwnerAsks window ∧
      ((root.begins window).hopForms true 40 (some { tid := 40, period := 1000000, q := 1000, lmax := 100 }) none).map Prod.fst = [0] ∧
      (root.begins window).reach 0 = true) ∧
    (root.takes bound 0x0504 (laySchedBounds bound) false ∧ (root.begins bound).OwnerAsks bound ∧
      ((root.begins bound).hopForms false 40 none (some (false, 100, 200))).map Prod.fst = [0, 3] ∧ (root.begins bound).reach 3 = true) ∧
    (hop.takes hopWindow 0x0503 (laySchedWindowSet hopWindow) false ∧ (hop.begins hopWindow).HopTakes hopWindow ∧
      ((hop.begins hopWindow).gaz 40).egress.toNat.testBit (hopWindow.f 10 2 0) = true) ∧
    (hop.takes hopBound 0x0504 (laySchedBounds hopBound) false ∧ (hop.begins hopBound).HopTakes hopBound ∧
      ((hop.begins hopBound).gaz 40).bound ≠ 0) := by
  refine ⟨?_, ?_, ⟨?_, ?owner, ?_⟩, ⟨?_, ?owner', ?_⟩, ⟨?_, ?hop, ?_⟩, ⟨?_, ?hop', ?_⟩⟩
  case owner | owner' | hop | hop' => constructor <;> decide
  all_goals decide

/-- Settles O28: the commands on one link pass the checks of their rows in order; the owner's commands begin a transaction whose forms are
awaited; at a hop a window's form is a set-back or is judged, and a bound's is taken where no test fails. -/
theorem schedulingCommands : Obligations.schedulingCommands := by
  refine ⟨⟨?classSet, ?classLimit, ?gateLoad, ?gateCommit, ?query⟩, ?window, ?bound, ?hopWindow, ?hopBound⟩
  case classSet =>
    refine fun c => .of (fun _ => rfl) ?_
    rintro u ⟨may, present, tested⟩
    refine (State.mayUse_passes may present).trans ((if_neg ?_).trans (if_neg ?_))
    · exact fun ⟨sel, _, above⟩ => absurd (tested sel).1 (Nat.not_le.2 above)
    · exact fun ⟨sel, fails⟩ => by simp [(tested sel).2] at fails
  case classLimit =>
    refine fun c => .of (fun _ => rfl) ?_
    rintro u ⟨may, present, sel, within, fails⟩
    exact (State.mayUse_passes may present).trans ((if_neg fun ⟨_, _, above⟩ => absurd within (Nat.not_le.2 above)).trans
      (if_pos ⟨sel, Option.isSome_iff_ne_none.2 fails⟩))
  case gateLoad =>
    intro c l slot es list put good
    refine ⟨.of (fun _ => rfl) ?_, .of (fun _ => rfl) ?_⟩ <;> rintro u ⟨⟨long, lo, hi, may, present, notOp, notPending⟩, outcome⟩ <;>
      refine (State.mayUse_passes may present).trans ((if_neg (not_of_holds (gateListOk_of_bounds long lo hi))).trans
        ((if_neg (not_or.2 ⟨notOp, notPending⟩)).trans ?_))
    · exact if_neg (Option.not_isSome_iff_eq_none.2 outcome)
    · exact if_pos (Option.isSome_iff_ne_none.2 outcome)
  case gateCommit =>
    intro c l slot good
    refine ⟨.of (fun _ => rfl) ?_, .of (fun _ => rfl) ?_, .of (fun _ => rfl) ?_⟩
    · rintro u ⟨⟨may, present, switch⟩, free, ns, sec⟩
      refine (State.mayUse_passes may present).trans ((if_neg (not_unloaded switch)).trans ((if_neg (not_busy free)).trans ?_))
      rw [if_pos ⟨ns, sec⟩]
    · rintro u ⟨⟨may, present, switch⟩, free, timed⟩
      refine (State.mayUse_passes may present).trans ((if_neg (not_unloaded switch)).trans ((if_neg (not_busy free)).trans ?_))
      rw [if_neg (by omega)]
    · rintro u ⟨⟨may, present, switch⟩, pending, keeps⟩
      exact (State.mayUse_passes may present).trans ((if_neg (not_unloaded switch)).trans (if_pos ⟨pending, by simp [keeps]⟩))
  case query =>
    intro c l tc t
    refine ⟨.of (fun _ => rfl) ?_, fun r b => .of (fun _ => rfl) ?_, .of (fun _ => rfl) ?_, fun w => .of (fun _ => rfl) ?_,
      .of (fun _ => rfl) ?_⟩ <;> rintro u ⟨present, asked⟩ <;> refine (if_neg (not_of_holds present)).trans ?_
    · rw [asked]
      rfl
    · obtain ⟨kind, found⟩ := asked
      rw [kind, found]
      rfl
    · rw [asked]
      rfl
    · obtain ⟨kind, found⟩ := asked
      rw [kind, found]
      rfl
    · obtain ⟨kind, absent⟩ | ⟨kind, absent⟩ := asked <;>
      · rw [kind, absent]
        rfl
  case window =>
    refine fun c => .of (fun _ => rfl) ?_
    rintro u ⟨root, whole, tunnel, noOp, noneWait, op, hub, slice, current, isOpen, sets, reached⟩
    have asks : u.OwnerAsks c := ⟨root, whole, tunnel, noOp, noneWait, hub, slice, current, isOpen, sets⟩
    exact asks.begins.trans ((asks.window op).trans (State.winTake_sends reached))
  case bound =>
    refine fun c => .of (fun _ => rfl) ?_
    rintro u ⟨root, whole, tunnel, noOp, noneWait, op, hub, slice, current, isOpen, shaped, sets, reached⟩
    have asks : u.OwnerAsks c := ⟨root, whole, tunnel, noOp, noneWait, hub, slice, current, isOpen, sets⟩
    exact asks.begins.trans ((asks.bound op shaped).trans (State.winTake_sends reached))
  case hopWindow =>
    intro c t l w at' others own mine kept onLink put here good
    have reaches (u : State) (given : here u) :
        u.HopTakes c ∧ (u.gaz (c.f 4 11 0)).egress.toNat.testBit (c.f 10 2 0) = true := by
      obtain ⟨form, sys, root, current, isOpen, egress⟩ := given
      exact ⟨⟨form, sys, root, current, isOpen⟩, egress⟩
    have judged (u : State) (given : good u) : u.schedCmd c (fun s => s.hopWindow c) = u.judgeWindow c := by
      obtain ⟨here', noBack⟩ := given
      obtain ⟨takes, egress⟩ := reaches u here'
      exact takes.runs.trans (takes.windowJudged egress noBack)
    refine ⟨fun b => .of (fun _ => rfl) ?_, .of (fun _ => rfl) ?_, .of (fun _ => rfl) ?_, .of (fun _ => rfl) ?_, .of (fun _ => rfl) ?_,
      .of (fun _ => rfl) ?_⟩
    · rintro u ⟨here', found, same⟩
      obtain ⟨takes, egress⟩ := reaches u here'
      exact takes.runs.trans (takes.windowSetBack egress found same)
    · rintro u ⟨given, removes⟩
      exact (judged u given).trans (if_pos removes)
    · rintro u ⟨given, sets, again⟩
      exact (judged u given).trans ((if_neg (ne_true_of_eq_false sets)).trans (if_pos again))
    · rintro u ⟨given, sets, other, old, within, apart, fits⟩
      refine (judged u given).trans ((if_neg (ne_true_of_eq_false sets)).trans ((if_neg (ne_true_of_eq_false other)).trans
        ((if_neg (ne_true_of_eq_false old)).trans (if_neg ?_))))
      rintro (long | clash | fails)
      · exact absurd within (Nat.not_le.2 long)
      · exact ne_true_of_eq_false apart clash
      · exact Option.not_isSome_iff_eq_none.2 fits fails
    · rintro u ⟨given, sets, other, old, fails⟩
      exact (judged u given).trans ((if_neg (ne_true_of_eq_false sets)).trans ((if_neg (ne_true_of_eq_false other)).trans
        ((if_neg (ne_true_of_eq_false old)).trans (if_pos (fails.imp_right (Or.imp_right Option.isSome_iff_ne_none.2))))))
    · rintro u ⟨given, sets, other, fresh⟩
      exact (judged u given).trans ((if_neg (ne_true_of_eq_false sets)).trans ((if_neg (ne_true_of_eq_false other)).trans
        (if_pos fresh)))
  case hopBound =>
    intro c t good b undo kept put
    have putIs (u : State) : put u = u.putBound c := by
      have keptIs : kept u = u.keepFoundBound c := rfl
      simp only [put, keptIs]
      rfl
    refine ⟨.of (fun _ => rfl) ?_, .of (fun _ => rfl) ?_⟩
    · rintro u ⟨⟨form, sys, root, current, isOpen⟩, removes⟩
      have takes : u.HopTakes c := ⟨form, sys, root, current, isOpen⟩
      exact takes.runs.trans (takes.passes.trans (if_pos removes))
    · rintro u ⟨⟨form, sys, root, current, isOpen⟩, sets, held, accepted⟩
      have takes : u.HopTakes c := ⟨form, sys, root, current, isOpen⟩
      rw [putIs] at accepted ⊢
      exact takes.runs.trans (takes.boundSet sets held (accepted.imp_right fun ⟨links, fabric⟩ => State.boundRefusal_none links fabric))

end Sys2Proof.Machine
end

section
/-! Datum time (Chapter 9): the servo, steps, TIME messages, trigger edges and outputs, and O29. -/

namespace Sys2Proof.Machine
open Sys2Proof

/-! ### The servo (R263) -/

/-- A measurement counted while the source has not been lost: `th` is twice theta. -/
def State.measured (s : State) (th : Int) : State := { s with time := { s.time with lastTheta := th / 2, n := s.time.n + 1 } }

/-- integ corrected, FREQ its sum with the phase term (R263). -/
def State.slewTo (s : State) (th inv integ : Int) : State :=
  { s with time := { s.time with
    integ := integ, freq := clampI 128000000 (integ + clampI 12800000 (-(8 * th * inv))), slewLeft := 0 } }

/-- A step by -theta ordered, FREQ at integ meanwhile (R263). -/
def State.stepBack (s : State) (th : Int) : State :=
  ({ s with time := { s.time with freq := clampI 128000000 s.time.integ, slewLeft := 0 } } : State).orderStep (-(th * 2 ^ 29)) false

theorem State.servo_steady {s : State} (steady : s.time.slewing = false) (th inv : Int) :
    s.servo th inv 0 =
      if s.time.n = 0 then (s.measured th).stepBack th
      else if s.time.n = 1 then (s.measured th).slewTo th inv (s.time.integ - 32 * th * inv)
      else if th < -8000 ∨ 8000 < th then (s.measured th).stepBack th
      else (s.measured th).slewTo th inv (s.time.integ - 2 * th * inv) := by
  rw [State.servo]
  dsimp only
  rw [if_neg (by simp [steady])]
  simp only [Int.zero_mul, Int.zero_sub]
  rfl

/-! ### Steps (R264, R265) -/

section
variable {s : State} {p : Step}

@[simp] theorem State.tryReturn_time (s : State) : s.tryReturn.time = s.time := by
  have only := @State.tryReturn_only
  simp [only]

@[simp] theorem State.timeAlert_time (s : State) (reason status link : Nat) (step : Int) (extra : Nat) :
    (s.timeAlert reason status link step extra).time = s.time := by
  have only := @State.timeAlert_only
  simp [only]

@[simp] theorem State.travStep_time (s : State) (old : Nat) (by250 : Int) : (s.travStep old by250).time = s.time := by
  have only := @State.travStep_only
  simp [only]

@[simp] theorem State.schedAdvance_time (s : State) (l : Nat) : (s.schedAdvance l).time = s.time := by
  have only := @State.schedAdvance_only
  simp [only]

@[simp] theorem State.setGateIdx_time (s : State) (l : Nat) : (s.setGateIdx l).time = s.time := by
  have only := @State.setGateIdx_only
  simp [only]

@[simp] theorem State.modLink_time (s : State) (l : Nat) (f : Link → Link) : (s.modLink l f).time = s.time := rfl

theorem State.applyStep_time (s : State) (new : Nat) (byTime : Bool) :
    (s.applyStep new byTime true).time.datum = new ∧ (s.applyStep new byTime true).time.step = none ∧
    (s.applyStep new byTime true).time.stepCnt = s.time.stepCnt + 1 := by
  simp [State.applyStep, State.moveElapsed]

theorem exec_timeStepApply_due (core : s.coreOn = true) (pending : s.time.step = some p)
    (reached : p.atSec * 1000000000 * unitNs ≤ s.time.datum) :
    exec .timeStepApply s = .next (s.applyStep (p.newT + (s.time.datum - p.atSec * 1000000000 * unitNs)) p.byTime true) := by
  refine congrArg Host.Outcome.next ?_
  simp [effTimeStepApply, pending, core, reached]

end

/-! ### TIME messages (R276, R278 to R280) -/

section
variable {s : State} {ws : List Word}

theorem State.useHeld_known {t : Time} {m n : Nat} (got : t.gotMsg = some n) : s.useHeld t m = s := by
  rw [State.useHeld, got]

theorem State.useHeld_empty {t : Time} {m : Nat} (held : t.held = none) : s.useHeld t m = s := by
  rw [State.useHeld, held]
  cases t.gotMsg <;> rfl

theorem State.useHeld_waiting {t : Time} {m add : Nat} {th : Int} (none' : t.gotMsg = none) (held : t.held = some (th, add)) :
    s.useHeld t m = ({ s with time := { s.time with held := none } } : State).useExchange th (s.link 0).xK (s.fullSeconds th add m) := by
  rw [State.useHeld, none', held]

/-- A message that comes after its boundary only ends the wait of R276 (log entry 39). -/
theorem exec_timeMessage_late (core : s.coreOn = true) (arrives : (s.entry 33).ingress ≠ 7)
    (past : msgSeconds ws * 1000000000 * unitNs ≤ s.time.datum) :
    exec (.timeMessage ws) s = .next
      (({ s with time := { s.time with gotMsg := some (s.time.gotMsg.getD (msgSeconds ws)) } } : State).useHeld s.time (msgSeconds ws)) :=
  congrArg Host.Outcome.next ((if_neg (by simp [core, arrives])).trans (if_pos past))

/-- The state that has heard a message in time, with the exchange that waited for it used. -/
def State.hearTime (s : State) (ws : List Word) : State :=
  ({ s with time := s.time.hear ws } : State).useHeld s.time (msgSeconds ws)

theorem exec_timeMessage_inTime (core : s.coreOn = true) (arrives : (s.entry 33).ingress ≠ 7)
    (ahead : s.time.datum < msgSeconds ws * 1000000000 * unitNs) :
    exec (.timeMessage ws) s = .next
      (let u := s.hearTime ws
       if bit (nthW ws 0) 19 = true then
         ({ u with time := { u.time with step := none } } : State).stepAt (msgSeconds ws)
           (((nthW ws 4 + 2 ^ 32 * (nthW ws 5 % 65536)) * 1000000000 + nthW ws 6) * unitNs + bits (nthW ws 5) 31 16 * 2 ^ 16) false
       else if msgSeconds ws ≠ u.nowSec + 1 then
         u.orderStep (((msgSeconds ws : Int) - (u.nowSec + 1)) * 1000000000 * unitNs) false
       else u) :=
  congrArg Host.Outcome.next ((if_neg (by simp [core, arrives])).trans (if_neg (Nat.not_le.2 ahead)))

end

/-! ### Trigger edges (R284, R285) -/

section
variable {s : State} {p : StampIn} {src since : Nat} {rising : Bool}

theorem State.stampEdge_near (near : ∃ a, p.lastAt = some a ∧ s.now250 < a + since + 800) :
    s.stampEdge p src since rising = (s, { p with lost := satAdd 8 p.lost 1 }, false) := by
  obtain ⟨a, last, close⟩ := near
  simp [State.stampEdge, last, close]

theorem State.stampEdge_accepted (apart : ∀ a, p.lastAt = some a → a + since + 800 ≤ s.now250) :
    s.stampEdge p src since rising = ((s.stampEvent p src since rising).1, (s.stampEvent p src since rising).2, true) := by
  rw [State.stampEdge]
  cases last : p.lastAt with
  | none => simp
  | some a =>
    have far : ¬ s.now250 < a + since + 800 := Nat.not_lt.2 (apart a last)
    simp [far]

theorem exec_trigEdge (core : s.coreOn = true) (input : src < 4) :
    exec (.trigEdge src rising since) s = .next
      (let r := s.stampEdge (s.stamp src) src since rising
       (r.1.setStamp src r.2.1).feedEdge (if rising then 5 else 6) src (s.ago since)) :=
  congrArg Host.Outcome.next (if_neg (by simp [core, input]))

end

/-! ### Output edges (R283, R293) -/

section
variable {s : State} {pin d : Nat} {x : TimeOut}

/-- The next edge of an output that runs a schedule: a pulse ends, or starts, or a level is taken. -/
theorem TimeOut.edge_of {y : TimeOut}
    (falls : y.fallAt = some d ∧ x = { y with active := false, fallAt := none } ∨
      y.fallAt = none ∧ y.next = some d ∧
        (y.mode = 1 ∧ x = { y with active := true, fallAt := some (d + y.width), next := some (d + y.period) } ∨
         y.mode = 2 ∧ x = { y with active := true, fallAt := some (d + y.width), next := none } ∨
         y.mode = 3 ∧ x = { y with active := y.level, next := none })) : y.edge = some (d, x) := by
  rcases falls with ⟨fall, rfl⟩ | ⟨noFall, next, ⟨mode, rfl⟩ | ⟨mode, rfl⟩ | ⟨mode, rfl⟩⟩
  · simp [TimeOut.edge, fall]
  all_goals simp [TimeOut.edge, noFall, next, mode]

theorem exec_timeOutEdge_due (core : s.coreOn = true) (two : pin < 2) (edge : (s.timeOutOf pin).edge = some (d, x))
    (reached : 4 * d ≤ s.now250) (first : s.noneBefore (4 * d) = true) :
    exec (.timeOutEdge pin) s = .next
      (let t := s.putOutput pin x
       if t.timePin pin = s.timePin pin then t
       else t.emit (.edge (32 + pin) (t.timePin pin) (max (s.served (4 * d)) x.from250))) := by
  refine congrArg Host.Outcome.next ?_
  have now : ¬ s.now250 < 4 * d := Nat.not_lt.2 reached
  have isPin : ¬ 2 ≤ pin := Nat.not_le.2 two
  rw [effTimeOutEdge, edge]
  exact if_neg (by simp [core, isPin, now, first])

end

/-- Settles O29: each row by its equation above, and the servo by the one equation that holds while the source is not lost. -/
theorem timeServoAndRows : Obligations.timeServoAndRows := by
  refine ⟨?servo, ?stepApplies, ?stepTime, ?sends, ?message, ?trigger, ?output⟩
  case servo =>
    intro s th inv steady
    dsimp only
    rw [State.servo_steady steady]
    refine ⟨fun first => if_pos first, fun second => ?_, fun later large => ?_, fun later small => ?_⟩
    · exact (if_neg (by omega)).trans (if_pos second)
    · exact (if_neg (by omega)).trans ((if_neg (by omega)).trans (if_pos large))
    · exact (if_neg (by omega)).trans ((if_neg (by omega)).trans (if_neg (by omega)))
  case stepApplies => exact fun s p core pending reached => exec_timeStepApply_due core pending reached
  case stepTime =>
    intro s t p core pending reached run
    rw [exec_timeStepApply_due core pending reached] at run
    obtain rfl := Host.Outcome.next.inj run
    exact State.applyStep_time ..
  case sends =>
    intro s core root
    refine ⟨fun due => congrArg _ (if_pos ⟨core, root, due⟩), fun notDue => congrArg _ (if_neg ?_)⟩
    rintro ⟨_, _, soon, fresh⟩
    exact notDue.elim (Nat.not_le.2 soon) fresh
  case message =>
    intro s ws
    dsimp only
    intro core arrives
    refine ⟨fun past got => ?_, fun past none' held => ?_, fun th add past none' held => ?_, fun ahead step => ?_,
      fun ahead keep other => ?_, fun ahead keep same => ?_⟩
    · obtain ⟨m, got⟩ := Option.ne_none_iff_exists'.1 got
      have kept : some (s.time.gotMsg.getD (msgSeconds ws)) = s.time.gotMsg := by rw [got, Option.getD_some]
      rw [exec_timeMessage_late core arrives past, kept, State.useHeld_known got]
    · rw [exec_timeMessage_late core arrives past, State.useHeld_empty held, none']
      rfl
    · rw [exec_timeMessage_late core arrives past, State.useHeld_waiting none' held, none']
      rfl
    · exact (exec_timeMessage_inTime core arrives ahead).trans (congrArg _ (if_pos step))
    · exact (exec_timeMessage_inTime core arrives ahead).trans (congrArg _ ((if_neg (ne_true_of_eq_false keep)).trans (if_pos other)))
    · exact (exec_timeMessage_inTime core arrives ahead).trans
        (congrArg _ ((if_neg (ne_true_of_eq_false keep)).trans (if_neg (not_not.2 same))))
  case trigger =>
    intro s src since rising core input
    refine ⟨fun near => ?_, fun apart => ?_⟩
    · rw [exec_trigEdge core input, State.stampEdge_near near]
      rfl
    · rw [exec_trigEdge core input, State.stampEdge_accepted apart]
      rfl
  case output =>
    intro s pin d x core two y u falls reached first
    have due := exec_timeOutEdge_due core two (TimeOut.edge_of falls) reached first
    exact ⟨fun still => due.trans (congrArg _ (if_pos still)), fun moves => due.trans (congrArg _ (if_neg moves))⟩

end Sys2Proof.Machine
end

section
/-! The time source (Chapter 9): PPS_IN, time exchanges and TIMEX, and O30. -/

namespace Sys2Proof.Machine
open Sys2Proof

/-! ### PPS_IN (R267 to R270) -/

section
variable {s : State} {t : Time} {at' : Nat}

theorem Time.ppsSoon_iff : t.ppsSoon at' = true ↔ ∃ a, t.lastPps = some a ∧ at' < a + 2000000000 := by
  rw [Time.ppsSoon]
  cases t.lastPps <;> simp

theorem Time.window_iff : t.window = true ↔ t.st = .locked ∨ t.st = .holdover ∧ t.wasLocked = true := by
  simp [Time.window]

/-- The edge within its second, and, where the source is not ignored, what becomes of it. -/
theorem State.ppsEdge_eq (s : State) (at' : Nat) :
    s.ppsEdge at' =
      let u := s.ppsSecond (at' / 4000000000)
      let th := u.time.ppsTheta at'
      let w := u.ppsCount (ppsInside th)
      if u.time.ppsNoisy = true ∧ u.time.ppsClean < 3 then w.ppsDiscard
      else if u.time.ppsSoon at' = true ∨ u.time.window = true ∧ (!ppsInside th) = true then w.ppsQuiet.ppsDiscard
      else w.ppsQuiet.ppsAccept at' th := rfl

/-- 1.5 s have passed since the last accepted edge, and since the root took PPS_IN as its source (R270). -/
theorem exec_ppsLost_silent (core : s.coreOn = true) (root : s.isRoot = true) (pps : s.time.pps = true) (follows : s.time.st ≠ .holdover)
    (silent : ∀ a, s.time.lastPps = some a → a + 6000000000 ≤ s.now250) (since : s.time.ppsFrom + 6000000000 ≤ s.now250) :
    exec .ppsLost s = .next ((s.holdTime.timeAlert 1 stTimeout 0 0 0).loseTime 3) := by
  have last : s.time.lastPps.getD 0 + 6000000000 ≤ s.now250 := by
    cases last : s.time.lastPps with
    | none => exact le_trans (Nat.add_le_add_right (Nat.zero_le _) _) since
    | some a => exact silent a last
  exact congrArg Host.Outcome.next (if_pos ⟨core, root, pps, follows, by omega⟩)

end

/-! ### Exchanges (R271 to R277) -/

section
variable {s : State} {l : Nat}

theorem exec_timeExchangeStart_parent (cross : Nat) (core : s.coreOn = true) (present : s.linkPresent l = true) (down : s.upLink l = false)
    (up : s.linkUp l = true) :
    exec (.timeExchangeStart l cross) s = .next (match s.exchDue l with
      | none => s
      | some at' => if at' = (s.link l).xLast then s else
          (s.modLink l fun k => { k with
            xT1 := at' / unit250 + cross, xWait := true, xSeq := k.xSeq + 1, xLast := at' }).sendSym l .tmk) :=
  congrArg Host.Outcome.next (if_neg (by simp [core, present, down, up]))

variable {w : Wave}

theorem exec_timexReceive_child (core : s.coreOn = true) (child : s.upLink l = true) (present : s.linkPresent l = true)
    (up : s.linkUp l = true) (open' : s.time.xOpen = true) :
    exec (.timexReceive l w) s = .next (match s.takeLcp l w with
      | (u, some (.timex seq pcode secLo t1 t4 asym _ _ _)) => u.takeTimex l seq pcode secLo t1 t4 asym
      | (u, _) => u) :=
  congrArg Host.Outcome.next (if_neg (by simp [core, child, present, up, open']))

end

/-- The checks of R275 on an exchange: its sequence number, the link meanwhile, the round trip, and that against the mean. -/
abbrev State.exchGood (s : State) (l : Nat) (seq : BitVec 8) (d2 : Int) : Prop :=
  ((s.link l).xSync = true → seq = (s.link l).xSeq) ∧ s.time.xBad = false ∧ (s.link l).lane.los = false ∧ 0 ≤ d2 ∧ d2 ≤ 16000 ∧
  ((s.time.delays.length * d2 - s.time.delays.foldl (· + ·) 0).natAbs : Int) ≤ 160 * s.time.delays.length

/-- A TIMEX noted on its link: the seconds of the next one and its sequence number are known (R273). -/
def State.timexNoted (s : State) (l : Nat) (seq : BitVec 8) (pcode : Nat) : State :=
  s.setLink l { s.link l with xK := pcode, xSync := true, xSeq := seq + 1 }

/-- A valid exchange counted: its round trip joins the mean (R274). -/
def State.exchCounted (s : State) (t : Time) (d2 : Int) : State :=
  { s with time := { t with delays := (d2 :: t.delays).take 16, invalRun := 0, xOpen := false } }

/-- The exchange goes to the servo, with whole seconds where the servo's first step adds them; before any TIME message the first
one is held (R276). -/
def State.useOrHold (s : State) (t : Time) (th : Int) (k add : Nat) : State :=
  match t.gotMsg with
  | none => if t.held.isSome then s else { s with time := { s.time with held := some (th, add) } }
  | some m => s.useExchange th k (if t.n = 0 ∨ t.slewing then s.fullSeconds th add m else 0)

section
variable {s : State} {l pcode secLo t1 t4 : Nat} {seq : BitVec 8} {asym d2 : Int}

theorem State.not_exchGood_iff :
    ((s.link l).xSync && decide (seq ≠ (s.link l).xSeq) || s.time.xBad || (s.link l).lane.los || decide (d2 < 0 ∨ 16000 < d2) ||
      decide (160 * (s.time.delays.length : Int) < (s.time.delays.length * d2 - s.time.delays.foldl (· + ·) 0).natAbs)) = true ↔
    ¬ s.exchGood l seq d2 := by
  simp only [State.exchGood, Bool.or_eq_true, Bool.and_eq_true, decide_eq_true_eq, ← not_le, ← Bool.not_eq_true]
  tauto

/-- Twice theta of an exchange, less the link's asymmetry, with its round trip (R274). -/
def Time.exchTheta (t : Time) (t1 t4 : Nat) (asym : Int) : Int :=
  wrapSec ((t.t2 : Int) - t1) - wrapSec ((t4 : Int) - t.t3) - asym

def Time.roundTrip (t : Time) (t1 t4 : Nat) : Int := wrapSec ((t.t2 : Int) - t1) + wrapSec ((t4 : Int) - t.t3)

/-- The seconds of t1 beyond those of the child's own time then (R276). -/
def Time.exchSeconds (t : Time) (secLo t1 t4 : Nat) (asym : Int) : Nat :=
  (((secLo : Int) - ((2 * (t.t2 : Int) - t.exchTheta t1 t4 asym - t.roundTrip t1 t4) / 2 - t1 + 2000000000) / 4000000000) % 65536).toNat

theorem State.takeTimex_invalid (bad : ¬ s.exchGood l seq (s.time.roundTrip t1 t4)) :
    s.takeTimex l seq pcode secLo t1 t4 asym = (s.timexNoted l seq pcode).exchInvalid :=
  if_pos (State.not_exchGood_iff.2 bad)

theorem State.takeTimex_valid (good : s.exchGood l seq (s.time.roundTrip t1 t4)) :
    s.takeTimex l seq pcode secLo t1 t4 asym =
      ((s.timexNoted l seq pcode).exchCounted s.time (s.time.roundTrip t1 t4)).useOrHold s.time (s.time.exchTheta t1 t4 asym) pcode
        (s.time.exchSeconds secLo t1 t4 asym) :=
  if_neg fun bad => State.not_exchGood_iff.1 bad good

variable {t : Time} {th : Int} {k add m : Nat}

theorem State.useOrHold_uses (known : t.gotMsg = some m) :
    s.useOrHold t th k add = s.useExchange th k (if t.n = 0 ∨ t.slewing = true then s.fullSeconds th add m else 0) := by
  rw [State.useOrHold, known]

theorem State.useOrHold_held (unknown : t.gotMsg = none) (held : t.held ≠ none) : s.useOrHold t th k add = s := by
  rw [State.useOrHold, unknown]
  exact if_pos (Option.isSome_iff_ne_none.2 held)

theorem State.useOrHold_holds (unknown : t.gotMsg = none) (free : t.held = none) :
    s.useOrHold t th k add = { s with time := { s.time with held := some (th, add) } } := by
  rw [State.useOrHold, unknown]
  exact if_neg (by simp [free])

end

/-! ### Hubs that meet the hypotheses -/

/-- A hub in Field with a role, links 0 and 1 UP, and its time. -/
def timedHub (role : Nat) (time : Time) : State := { treeHub role Tree.init with time := time }

/-- A root that has followed PPS_IN for 2 s without an edge, and a parent whose next exchange on link 1 is due. -/
theorem witness_timeSource :
    let silent := timedHub 0 { Time.init with pps := true, st := .acquiring, datum := 2000000000 * unitNs }
    let parent := timedHub 0 { Time.init with datum := 500000 * unitNs }
    (silent.coreOn = true ∧ silent.isRoot = true ∧ silent.time.st ≠ .holdover ∧ silent.time.lastPps = none ∧
      silent.time.ppsFrom + 6000000000 ≤ silent.now250) ∧
    (parent.linkPresent 1 = true ∧ parent.upLink 1 = false ∧ parent.linkUp 1 = true ∧ parent.exchDue 1 = some (500000 * unitNs) ∧
      500000 * unitNs ≠ (parent.link 1).xLast) := by decide

/-- A child in an exchange takes a TIMEX that passes the checks of R275. -/
theorem witness_timex :
    let s := timedHub 1 { Time.init with xOpen := true, t2 := 4000, t3 := 8000 }
    let x : LaneSym := .timex 0 8 0 1000 12000 0 false false false
    (s.coreOn = true ∧ s.upLink 0 = true ∧ s.linkPresent 0 = true ∧ s.linkUp 0 = true ∧ s.time.xOpen = true) ∧
    s.takeLcp 0 (sentWave (x.rows 4)) = (s, some x) ∧ s.exchGood 0 0 (s.time.roundTrip 1000 12000) := by
  set_option maxRecDepth 20000 in exact ⟨by decide, rfl, by decide⟩

/-- Settles O30: an edge by the one equation of `State.ppsEdge`, a TIMEX by whether it passes R275, and the other rows by their conditions. -/
theorem timeSourceRows : Obligations.timeSourceRows := by
  refine ⟨?edge, ?source, ?lost, ?start, ?answer, ?parent, ?timex, ?timeoutChild, ?timeoutParent⟩
  case edge => exact fun s rising since core => congrArg _ (if_neg (by simp [core]))
  case source =>
    intro s at'
    dsimp only
    rw [State.ppsEdge_eq]
    refine ⟨fun noisy unclean => if_pos ⟨noisy, unclean⟩, fun heeded apart near => ?_, fun heeded spoilt => ?_⟩
    · refine (if_neg ?_).trans (if_neg ?_)
      · rintro ⟨noisy, unclean⟩
        exact heeded.elim (ne_true_of_eq_false · noisy) (Nat.not_le.2 unclean)
      · rw [Time.ppsSoon_iff, Time.window_iff]
        rintro (soon | ⟨window, outside⟩)
        · exact apart soon
        · exact near.elim (· window) (not_of_holds · outside)
    · refine (if_neg ?_).trans (if_pos ?_)
      · rintro ⟨noisy, unclean⟩
        exact heeded.elim (ne_true_of_eq_false · noisy) (Nat.not_le.2 unclean)
      · rw [Time.ppsSoon_iff, Time.window_iff, Bool.not_eq_true']
        exact spoilt
  case lost => exact fun s core root pps follows silent since => exec_ppsLost_silent core root pps follows silent since
  case start =>
    intro s l cross core present down up
    rw [exec_timeExchangeStart_parent cross core present down up]
    refine ⟨fun at' due fresh => ?_, fun idle => ?_⟩
    · rw [due]
      exact congrArg _ (if_neg fresh)
    · rcases idle with none' | again
      · rw [none']
      · rw [again]
        exact congrArg _ (if_pos rfl)
  case answer =>
    exact fun s l reply since core present up child => congrArg _ ((if_neg (by simp [core, present, up])).trans (if_pos child))
  case parent =>
    intro s l reply since core present up parent waits
    exact congrArg _ ((if_neg (by simp [core, present, up])).trans ((if_neg (ne_true_of_eq_false parent)).trans (if_neg (by simp [waits]))))
  case timex =>
    intro s0 l pcode secLo t1 t4 seq asym sp hold lock w
    dsimp only
    intro core child present up open'
    rw [exec_timexReceive_child core child present up open']
    obtain ⟨s, got⟩ := s0.takeLcp l w
    refine ⟨?_, ?_⟩
    · rintro rfl
      rfl
    · rintro rfl
      dsimp only
      refine ⟨fun bad => congrArg _ (State.takeTimex_invalid bad), fun m good known => ?_, fun good unknown held => ?_,
        fun good unknown held => ?_⟩
      · exact congrArg _ ((State.takeTimex_valid good).trans (State.useOrHold_uses known))
      · exact congrArg _ ((State.takeTimex_valid good).trans (State.useOrHold_held unknown held))
      · exact congrArg _ ((State.takeTimex_valid good).trans (State.useOrHold_holds unknown held))
  case timeoutChild =>
    intro s l core present child
    refine ⟨fun live => ?_, fun cut still => ?_⟩
    · refine congrArg _ ((if_neg (by simp [core, present])).trans ((if_neg (by simp [child])).trans (if_neg ?_)))
      rcases live with h | h <;> simp [h]
    · exact congrArg _ ((if_neg (by simp [core, present])).trans ((if_neg (by simp [child])).trans (if_pos (by simp [cut, still]))))
  case timeoutParent =>
    exact fun s l core present parent => congrArg _ ((if_neg (by simp [core, present])).trans (if_pos (by simp [parent])))

end Sys2Proof.Machine
end

section
/-! The TIME_ commands (Chapter 9): O31. -/

namespace Sys2Proof.Machine
open Sys2Proof

section
variable {s : State} {c : Cmd}

/-- A command from slice 0 of the root, or one that stands for it, at the root (R287). -/
theorem State.rootTimeCmd_passes {body : State} (mine : (c.sys = true ∧ c.hub = 0 ∨ s.fromRoot0 c = true) ∧ s.isRoot = true) :
    s.rootTimeCmd c body = body := by
  obtain ⟨from0, root⟩ := mine
  exact (if_neg (by simpa [or_iff_not_imp_left] using from0)).trans (if_neg (not_of_holds root))

/-! ### TIME_SOURCE (R291) -/

theorem State.setTimeSource_pps {falling : Bool} {delay : Int} (other : s.time.pps = false) :
    s.setTimeSource true falling delay = { s with time := { s.time.acquire with
      falling := falling, ppsDelay := delay, pps := true, lastPps := none, ppsFrom := s.now250, ppsSec := s.nowSec, ppsNoisy := false,
      ppsOutSecs := 0, ppsSecIn := 0, ppsSecOut := 0, ppsSecExtra := 0, ppsClean := 0 } } := by
  simp only [State.setTimeSource, other, Bool.true_eq_false, if_false, if_true, Time.acquire, Time.unlock]
  split <;> rfl

theorem State.setTimeSource_command {falling : Bool} {delay : Int} (other : s.time.pps = true) :
    s.setTimeSource false falling delay = ({ s with time := { s.time.unlock with
      falling := falling, ppsDelay := delay, pps := false
      st := if s.time.st = TimeSt.locked then TimeSt.free else TimeSt.unset, slewing := false, recovered := true } } : State).tryReturn := by
  simp only [State.setTimeSource, other, Bool.false_eq_true, if_false, Time.unlock]
  split <;> rfl

/-! ### Outputs (R293) -/

@[simp] theorem State.emit_timeOutsOn (s : State) (o : Out) : (s.emit o).timeOutsOn = s.timeOutsOn := rfl
@[simp] theorem State.emit_timeOutOf (s : State) (o : Out) (pin : Nat) : (s.emit o).timeOutOf pin = s.timeOutOf pin := rfl

@[simp] theorem State.putOutput_timeOutOf (s : State) (pin : Nat) (x : TimeOut) : (s.putOutput pin x).timeOutOf pin = x := by
  rw [State.putOutput, State.timeOutOf]
  split <;> rfl

@[simp] theorem State.putOutput_timeOutsOn (s : State) (pin : Nat) (x : TimeOut) : (s.putOutput pin x).timeOutsOn = s.timeOutsOn := by
  rw [State.putOutput]
  split <;> rfl

/-- The output is set as its pin is driven, whether that makes an edge or not. -/
theorem State.setTimeOut_timeOutOf (s : State) (pin : Nat) (x : TimeOut) :
    (s.setTimeOut pin x).timeOutOf pin = { x with active := false, fallAt := none, next := s.firstEdge x, from250 := s.now250 } := by
  rw [State.setTimeOut]
  split <;> simp

theorem State.setTimeOut_timePin (s : State) (pin : Nat) (x : TimeOut) :
    (s.setTimeOut pin x).timePin pin = (s.timeOutsOn && x.configured && x.invert) := by
  rw [State.setTimeOut]
  split <;> simp [State.timePin]

end

/-! ### Packets that meet the hypotheses -/

/-- Packets that the root takes from its slice 0, and whose checks they pass there. -/
theorem witness_timeCommands :
    let s := timedHub 0 Time.init
    let set := linkPacket 0x0601 [0, 100, 0, 1]
    let adjust := linkPacket 0x0602 [0, 5, 1]
    let source := linkPacket 0x0603 [1, 0]
    let arm := linkPacket 0x0604 [256]
    let out := linkPacket 0x0605 [2, 1000000000, 0, 100, 0, 0]
    (s.takes set 0x0601 (layTimeSet set) false ∧ (s.begins set).fromRoot0 set = true ∧ (s.begins set).isRoot = true ∧
      (s.begins set).time.step = none ∧ set.w 4 < 1000000000 ∧ set.b 7 0 = true ∧ set.b 7 1 = false) ∧
    (s.takes adjust 0x0602 (layTimeAdjust adjust) false ∧ adjust.b 6 0 = true ∧ signed 32 (adjust.w 5) = 5 ∧ adjust.b 6 2 = false) ∧
    (s.takes source 0x0603 (layTimeSource source) false ∧ (s.begins source).time.pps = false ∧ source.b 4 0 = true) ∧
    (s.takes arm 0x0604 (layTimeStampArm arm) false ∧ (s.begins arm).mayUse arm 4 (arm.f 4 7 0) = true ∧ arm.f 4 9 8 ≠ 0 ∧
      ((s.begins arm).stamp (arm.f 4 7 0)).edge = 0) ∧
    (s.takes out 0x0605 (layTimeOutCfg out) false ∧ (s.begins out).mayUse out 4 (5 + out.f 4 0 0) = true ∧
      timeOutOk (out.f 4 0 0) (out.f 4 3 1) (out.w 5) (out.w 6) (out.w 7) = true ∧ (s.begins out).compactField out 8 = some 0) := by
  refine ⟨?_, ?_, ?_, ?_, ?_⟩ <;> decide

/-- Settles O31: each command passes the checks of its row in their order. -/
theorem timeCommands : Obligations.timeCommands := by
  refine ⟨?queryTime, ?queryRoot, ?queryLeaf, ?setTime, ?setUtc, ?setBusy, ?adjust, ?toPps, ?toCommand, ?sameSource, ?arm, ?configures,
    ?output⟩
  case queryTime =>
    refine fun c => .of (fun _ => rfl) fun u form => ?_
    exact congrArg (u.complete c stOk) (if_neg (ne_true_of_eq_false form))
  case queryRoot =>
    refine fun c => .of (fun _ => rfl) ?_
    rintro u ⟨form, noMean⟩
    refine congrArg (u.complete c stOk) ((if_pos form).trans ?_)
    rw [if_pos (noMean.imp_left (by simp [·]))]
  case queryLeaf =>
    refine fun c => .of (fun _ => rfl) ?_
    rintro u ⟨form, some', leaf⟩
    refine congrArg (u.complete c stOk) ((if_pos form).trans ?_)
    rw [if_neg (by simp [some', leaf])]
  case setTime =>
    refine fun c => .of (fun _ => rfl) ?_
    rintro u ⟨mine, idle, inSecond, setsTime, keepsUtc, whole⟩
    refine (State.rootTimeCmd_passes mine).trans ((if_neg (by simp [idle])).trans ((if_neg ?_).trans ?_))
    · rintro (past | ⟨_, pps, part⟩)
      · omega
      · exact part (whole pps)
    · simp [setsTime, keepsUtc]
  case setUtc =>
    refine fun c => .of (fun _ => rfl) ?_
    rintro u ⟨mine, idle, inSecond, keepsTime, setsUtc⟩
    refine (State.rootTimeCmd_passes mine).trans ((if_neg (by simp [idle])).trans ((if_neg ?_).trans ?_))
    · rintro (past | ⟨sets, _⟩)
      · omega
      · exact ne_true_of_eq_false keepsTime sets
    · simp [setsUtc, keepsTime]
  case setBusy =>
    refine fun c => .of (fun _ => rfl) ?_
    rintro u ⟨mine, pending⟩
    exact (State.rootTimeCmd_passes mine).trans (if_pos (Option.isSome_iff_ne_none.2 pending))
  case adjust =>
    intro c f set good
    have checks {u denied busy bad x : State} (given : good u) :
        (if u.time.pps = true then denied else if u.time.step.isSome = true then busy
          else if f u < -128000000 ∨ 128000000 < f u then bad else x) = x := by
      obtain ⟨_, command, idle, low, high⟩ := given
      exact (if_neg (ne_true_of_eq_false command)).trans ((if_neg (by simp [idle])).trans (if_neg (by omega)))
    refine ⟨.of (fun _ => rfl) ?_, .of (fun _ => rfl) ?_, .of (fun _ => rfl) ?_⟩
    · rintro u ⟨given, keepsPhase⟩
      refine (State.rootTimeCmd_passes given.1).trans ((checks given).trans ?_)
      simp [keepsPhase, set, f]
    · rintro u ⟨given, phase, steps⟩
      refine (State.rootTimeCmd_passes given.1).trans ((checks given).trans ?_)
      simp [phase, steps, set, f]
    · rintro u ⟨given, phase, slews⟩
      refine (State.rootTimeCmd_passes given.1).trans ((checks given).trans ?_)
      simp [phase, slews, set, f]
  case toPps =>
    refine fun c => .of (fun _ => rfl) ?_
    rintro u ⟨mine, other, asks⟩
    refine (State.rootTimeCmd_passes mine).trans ?_
    rw [asks, State.setTimeSource_pps other]
  case toCommand =>
    refine fun c => .of (fun _ => rfl) ?_
    rintro u ⟨mine, other, asks⟩
    refine (State.rootTimeCmd_passes mine).trans ?_
    rw [asks, State.setTimeSource_command other]
  case sameSource =>
    refine fun c => .of (fun _ => rfl) ?_
    rintro u ⟨mine, same⟩
    exact (State.rootTimeCmd_passes mine).trans (congrArg (fun t : State => t.complete c stOk []) (if_pos same.symm))
  case arm =>
    intro c p free
    have owned {u : State} (given : free u) :
        (decide ((p u).edge ≠ 0) && decide ((p u).hub ≠ u.cmdHub c ∨ (p u).slice ≠ c.slice)) = false := by
      rcases given with unarmed | ⟨hub, slice⟩
      · simp [unarmed]
      · simp [hub, slice]
    refine ⟨.of (fun _ => rfl) ?_, .of (fun _ => rfl) ?_⟩
    · rintro u ⟨may, disarms, given⟩
      refine (if_neg (not_of_holds may)).trans ((if_pos disarms).trans (if_neg ?_))
      rintro ⟨other, unauthorised⟩
      exact given.elim (fun h => ne_true_of_eq_false (owned h) other) (not_of_holds · unauthorised)
    · rintro u ⟨may, arms, given⟩
      exact (if_neg (not_of_holds may)).trans ((if_neg arms).trans (if_neg (ne_true_of_eq_false (owned given))))
  case configures =>
    refine fun c i => .of (fun _ => rfl) ?_
    rintro u ⟨may, fits, instant⟩
    refine (if_neg (not_of_holds may)).trans ((if_neg (not_of_holds fits)).trans ?_)
    rw [instant]
  case output => exact fun s pin x _ => ⟨State.setTimeOut_timeOutOf s pin x, State.setTimeOut_timePin s pin x⟩

end Sys2Proof.Machine
end

section
/-! Traverse engines (Chapter 10): effects, launches, register and TRAV messages, tree-wide launches, and O34. -/

namespace Sys2Proof.Machine
open Sys2Proof

/-! ### Effects (R265, R301, R307) -/

theorem foldl_min_of_le {d : Nat} {ds : List Nat} (least : ∀ x ∈ ds, d ≤ x) : ds.foldl min d = d := by
  induction ds with
  | nil => rfl
  | cons x r ih =>
    have here : min d x = d := Nat.min_eq_left (least x List.mem_cons_self)
    rw [List.foldl_cons, here]
    exact ih fun y mem => least y (List.mem_cons_of_mem _ mem)

section
variable {s : State} {f : Effect} {rest : List Effect}

/-- The effect handed over first, where none is due before it, is taken, and what is left of it keeps its place. -/
theorem exec_effectInstant_first (works : s.working = true) (fx : s.trav.effects = f :: rest) (reached : f.due ≤ s.now250)
    (least : ∀ g ∈ rest, f.due ≤ g.due) (first : s.noneBefore f.due = true) :
    exec .effectInstant s = .next
      (match (s.setEffects rest).takeEffect f (s.served f.due) with
       | (t, some g) => t.setEffects (g :: t.trav.effects)
       | (t, none) => t) := by
  refine congrArg Host.Outcome.next ?_
  have lowest : (rest.map (·.due)).foldl min f.due = f.due := foldl_min_of_le (by simpa using least)
  have here : ¬ ((!s.working) = true ∨ s.now250 < f.due ∨ (!s.noneBefore f.due) = true) := by
    simp [works, first, Nat.not_lt.2 reached]
  simp only [effEffectInstant, fx, List.map_cons, lowest, List.findIdx?_cons, decide_true, if_true, Option.getD_some,
    List.getElem?_cons_zero, here, if_false, List.eraseIdx_zero, List.tail_cons, List.take_zero, List.drop_zero, List.nil_append,
    List.singleton_append]
  obtain ⟨t, _ | g⟩ := (s.setEffects rest).takeEffect f (s.served f.due) <;> rfl

theorem State.takeEffect_pins {mask levels : Nat} (at' : Nat) (pins : f.kind = .pins mask levels) :
    s.takeEffect f at' = (((List.range 32).filter fun n => bit mask n).foldl (fun s n => s.setPin n (bit levels n) at') s, none) := by
  rw [State.takeEffect, pins]

theorem State.takeEffect_pulse {n w : Nat} {lv begun : Bool} (at' : Nat) (pulse : f.kind = .pulse n lv w begun) :
    s.takeEffect f at' = if begun = true then (s.setPin n (!lv) at', none)
      else (s.setPin n lv at', some { f with due := f.due + w, kind := .pulse n lv w true }) := by
  rw [State.takeEffect, pulse]

theorem exec_pwmPeriodStart_due {n : Nat} {p : PwmCfg} (works : s.working = true) (runs : (s.act n).pwm = some p)
    (reached : p.nextAt ≤ s.now250) :
    exec (.pwmPeriodStart n) s = .next (s.pwmStart n ((s.act n).pwmNext.getD p) p.nextAt (p.nextAt + p.period)) := by
  refine congrArg Host.Outcome.next ?_
  rw [effPwmPeriodStart, runs]
  exact if_neg (by simp [works, Nat.not_lt.2 reached])

end

/-! ### Launches (R303, R322) -/

theorem exec_engineLaunch_due {s : State} {e : Nat} (works : s.working = true) (fits : e < 32) (armed : (s.engine e).st = .armed)
    (reached : (s.engine e).launchAt ≤ s.now250 + 4000 * (s.engine e).lead)
    (first : s.noneBefore ((s.engine e).launchAt - 4000 * (s.engine e).lead) = true) :
    exec (.engineLaunch e) s = .next
      (let x := s.engine e
       let t := s.launchEngine e x.launchAt
       ({ t with trav := { t.trav with
          prep := t.trav.prep.map fun p => if x.launchId = some p.id then { p with launched := true } else p } } : State).launchesDone) :=
  congrArg Host.Outcome.next (if_neg (by simp [works, Nat.not_le.2 fits, armed, Nat.not_lt.2 reached, first]))

/-! ### Register and TRAV messages (R309, R311) -/

section
variable {s : State} {ws : List Word} {e : Nat}

/-- An engine that waits for the answer to its REG_READ gets it. -/
theorem exec_regReply_awaited {v : Nat} (works : s.working = true) (waits : (s.engine (bits (nthW ws 3) 12 8)).st = .waiting)
    (asked : (s.engine (bits (nthW ws 3) 12 8)).wait = .reg (nthW ws 3 % 256) v) :
    exec (.regReply ws) s = .next
      (let e := bits (nthW ws 3) 12 8
       if bits (nthW ws 0) 23 16 ≠ stOk then s.exception e 3
       else (s.setEngine e { s.engine e with st := .running, wait := .none, c := readCheck v (nthW ws 2) }).adv e) := by
  refine congrArg Host.Outcome.next ?_
  rw [effRegReply]
  dsimp only
  rw [asked]
  exact if_neg (by simp [works, waits])

theorem exec_remoteReadTimeout_waits {q v : Nat} (works : s.working = true) (waits : (s.engine e).st = .waiting)
    (asked : (s.engine e).wait = .reg q v) : exec (.remoteReadTimeout e) s = .next (s.exception e 5) := by
  refine congrArg Host.Outcome.next ?_
  rw [effRemoteReadTimeout, asked]
  exact if_pos ⟨works, waits⟩

/-- A sound TRAV message at its exit: that of a slice, or of an engine. -/
theorem exec_travMessage_exit {tid src : Nat} {bytes : List Byte} (core : s.coreOn = true) (held : (s.entry tid).state ≠ gClosed)
    (exits : (s.entry tid).loc = true) (trav : (s.entry tid).cls = clsTrav) (whole : bytes.length = 16)
    (clear : fromLe (bytes.take 4) &&& (2 ^ 32 - 1 - mk 15 10 - mk 2 0) = 0) :
    exec (.travMessage tid src bytes) s = .next
      (let g := s.entry tid
       let w0 := fromLe (bytes.take 4)
       let data := word (fromLe ((bytes.drop 4).take 4))
       match epSlice g.dstEp with
       | some k => s.report s.selfNo k 7 stOk 0
           [pack [3], data, pack [fld 24 (bits w0 2 0)], pack [fld 10 (b2n (bit w0 15)), fld 5 (bits w0 14 10), src]]
       | none => if epBlock g.dstEp ≠ 8 then s else
           s.modEngine (epIndex g.dstEp) fun x => { x with flags := x.flags ||| BitVec.ofNat 8 (2 ^ bits w0 2 0), msg := data }) := by
  have passes : ¬ ((!s.coreOn) = true ∨ (s.entry tid).state = gClosed ∨ (!(s.entry tid).loc) = true ∨ (s.entry tid).cls ≠ clsTrav ∨
      bytes.length ≠ 16 ∨ fromLe (bytes.take 4) &&& (2 ^ 32 - 1 - mk 15 10 - mk 2 0) ≠ 0) := by
    simp only [clear]
    simp [core, held, exits, trav, whole]
  exact congrArg Host.Outcome.next (if_neg passes)

end

/-! ### Tree-wide launches (R321 to R325) -/

/-- The LAUNCHID of a launch message, and the hub that sent it (Table 10.4). -/
abbrev launchMsgId (ws : List Word) : BitVec 8 := BitVec.ofNat 8 (bits (nthW ws 0) 23 16)
abbrev launchMsgHub (ws : List Word) : Nat := bits (nthW ws 0) 4 0

/-- The launch that a PREPARE asks for, and its engines prepared for it (R322). -/
def prepRecOf (s : State) (ws : List Word) : PrepRec :=
  { id := launchMsgId ws, mask := BitVec.ofNat 32 (nthW ws 1), due := 4 * resolveCompact s.nowNs (nthW ws 2) (nthW ws 3)
    rhub := bits (nthW ws 4) 4 0, rslice := bits (nthW ws 4) 10 5, w5 := word (nthW ws 5), committed := false }

def State.prepareEngine (p : PrepRec) (w5 : Nat) (s : State) (e : Nat) : State :=
  (if (s.engine e).st = .idle then s.wakeEngine e .prepared else s).modEngine e fun x => { x with
    launchId := some p.id, launchAt := p.due, lead := bits w5 7 0, latePol := bits w5 10 9, stepPause := bit w5 8, excSafe := bit w5 11 }

def State.prepared (s : State) (ws : List Word) : State :=
  let p := prepRecOf s ws
  let t := (maskEngines (nthW ws 1)).foldl (State.prepareEngine p (nthW ws 5)) s
  { t with trav := { t.trav with prep := p :: t.trav.prep.filter fun q => decide (q.id ≠ p.id) } }

section
variable {s : State} {ws : List Word} {x : Launch} {id : BitVec 8} {p : PrepRec}

theorem exec_ready_awaited (core : s.coreOn = true) (launch : s.launchOf (launchMsgId ws) = some x)
    (named : x.hubs.contains (launchMsgHub ws) = true) (uncommitted : x.committed = false) :
    exec (.ready ws) s = .next
      (let h := launchMsgHub ws
       if bits (nthW ws 0) 15 8 ≠ stOk then s.abortLaunch { x with refused := x.refused ++ [(h, bits (nthW ws 0) 15 8)] }
       else (s.setLaunch { x with ready := if x.ready.contains h then x.ready else h :: x.ready }).tryCommit (launchMsgId ws)) := by
  refine congrArg Host.Outcome.next ?_
  rw [effReady]
  dsimp only
  rw [launch]
  exact if_neg (by simp only [core, uncommitted, named]; decide)

theorem exec_launched_awaited (core : s.coreOn = true) (launch : s.launchOf (launchMsgId ws) = some x)
    (named : x.hubs.contains (launchMsgHub ws) = true) (committed : x.committed = true) :
    exec (.launched ws) s = .next
      (let l := if x.launched.contains (launchMsgHub ws) then x.launched else launchMsgHub ws :: x.launched
       if (x.hubs.all fun n => l.contains n) = true then s.dropLaunch (launchMsgId ws) else s.setLaunch { x with launched := l }) := by
  refine congrArg Host.Outcome.next ?_
  rw [effLaunched]
  dsimp only
  rw [launch]
  exact if_neg (by simp only [core, committed, named]; decide)

theorem exec_commit_prepared (core : s.coreOn = true)
    (prepared : s.trav.prep.find? (fun p => decide (p.id = launchMsgId ws)) = some p) (uncommitted : p.committed = false) :
    exec (.commit ws) s = .next
      (if p.due < s.now250 + 80000 then s.unprepare p stTimeout true
       else
        let id := launchMsgId ws
        let t := (maskEngines p.mask.toNat).foldl (fun (s : State) e => s.modEngine e fun x =>
          if x.st = .prepared ∧ x.launchId = some id then { x with st := .armed } else x) s
        { t with trav := { t.trav with prep := t.trav.prep.map fun q => if q.id = id then { q with committed := true } else q } }) := by
  refine congrArg Host.Outcome.next ?_
  rw [effCommit]
  dsimp only
  rw [prepared]
  exact if_neg (by simp [core, uncommitted])

theorem exec_abort_prepared (core : s.coreOn = true)
    (prepared : s.trav.prep.find? (fun p => decide (p.id = launchMsgId ws)) = some p) (uncommitted : p.committed = false) :
    exec (.abort ws) s = .next (s.unprepare p stAborted false) := by
  refine congrArg Host.Outcome.next ?_
  rw [effAbort]
  rw [prepared]
  exact if_neg (by simp [core, uncommitted])

theorem exec_preparedTimeout_due (core : s.coreOn = true)
    (prepared : s.trav.prep.find? (fun p => decide (p.id = id)) = some p) (uncommitted : p.committed = false)
    (late : p.due ≤ s.now250 + 80000) :
    exec (.preparedTimeout id) s = .next (s.unprepare p stTimeout true) := by
  refine congrArg Host.Outcome.next ?_
  rw [effPreparedTimeout, prepared]
  exact if_pos ⟨core, by simp [uncommitted], late⟩

theorem exec_launchReadyDeadline_due (core : s.coreOn = true) (launch : s.launchOf id = some x) (uncommitted : x.committed = false)
    (late : x.due ≤ s.now250 + 200000) : exec (.launchReadyDeadline id) s = .next (s.abortLaunch x) := by
  refine congrArg Host.Outcome.next ?_
  rw [effLaunchReadyDeadline, launch]
  exact if_pos ⟨core, by simp [uncommitted], late⟩

theorem exec_launchPartialTimeout_due (core : s.coreOn = true) (launch : s.launchOf id = some x) (committed : x.committed = true)
    (late : x.due + 4000000 ≤ s.now250) :
    exec (.launchPartialTimeout id) s = .next ((s.dropLaunch id).report (s.cmdHub x.cmd) x.cmd.slice 7 stLinkLost 0
      [pack [8], 0, pack [fld 16 id.toNat], word (sumN ((x.hubs.filter fun h => !x.launched.contains h).map fun h => 2 ^ h))]) := by
  refine congrArg Host.Outcome.next ?_
  rw [effLaunchPartialTimeout, launch]
  exact if_pos ⟨core, committed, late⟩

theorem exec_prepare (core : s.coreOn = true) :
    exec (.prepare ws) s = .next
      (let st := s.prepareStatus (launchMsgId ws) (maskEngines (nthW ws 1)) (bits (nthW ws 4) 4 0) (bits (nthW ws 4) 10 5)
       if st ≠ stOk then s.launchReply 0x19 st ws else (s.prepared ws).launchReply 0x19 stOk ws) :=
  congrArg Host.Outcome.next (if_neg (not_of_holds core))

end

/-! ### Pin edges (R284, R327) -/

theorem exec_actInputEdge_input {s : State} {n : Nat} (since : Nat) (rising : Bool) (works : s.working = true) (pin : n < 32)
    (input : (s.act n).mode = 4) :
    exec (.actInputEdge n rising since) s = .next
      (let r := s.stampEdge (s.act n).stamp (0x20 + n) since rising
       (r.1.setAct n { s.act n with input := rising, stamp := r.2.1 }).feedEdge (if rising then 1 else 2) n (s.ago since)) :=
  congrArg Host.Outcome.next (if_neg (by simp [works, Nat.not_le.2 pin, input]))

/-! ### Hubs and messages that meet the hypotheses -/

/-- The root in Field with its traverse engines. -/
def travHub (trav : Trav) : State := { treeHub 0 Tree.init with trav := trav }

/-- An effect is due first, a PWM output's period is over, engine 0 waits for the answer numbered 4 to its REG_READ, and pin 2 is an INPUT. -/
theorem witness_engines :
    let s := travHub { Trav.init with
      effects := [{ eng := 0, due := 0, kind := .pulse 1 true 8 false }]
      eng := [(0, { Engine.init with st := .waiting, wait := .reg 4 0 })]
      act := [(1, { Act.init with mode := 3, pwm := some { period := 8, high := 4, inverted := false, eng := 0, nextAt := 0 } }),
        (2, { Act.init with mode := 4 })] }
    let reply : List Word := [word (fld 16 stOk), 0, 0, 4]
    s.working = true ∧ s.noneBefore 0 = true ∧ ((s.act 1).pwm.map PwmCfg.nextAt) = some 0 ∧ (s.engine 0).st = .waiting ∧
    (s.engine (bits (nthW reply 3) 12 8)).wait = .reg (nthW reply 3 % 256) 0 ∧ bits (nthW reply 0) 23 16 = stOk ∧ (s.act 2).mode = 4 := by
  decide

/-- Launch 5 waits for hub 1, and an engine of this hub is prepared for it; an idle engine with an ENTRY is ready. -/
theorem witness_launches :
    let s (committed : Bool) := travHub { Trav.init with
      eng := [(0, { Engine.init with hasEntry := true })]
      launches := [{ Launch.init with id := 5, hubs := [1], due := 80000, committed := committed }], prep := [{ id := 5, due := 80000 }] }
    let answer : List Word := [pack [fld 16 5, 1]]
    (s false).coreOn = true ∧ ((s false).launchOf (launchMsgId answer)).map Launch.committed = some false ∧
    ((s true).launchOf (launchMsgId answer)).map Launch.committed = some true ∧ launchMsgHub answer = 1 ∧
    ((s false).trav.prep.find? fun p => decide (p.id = launchMsgId answer)) = some { id := 5, due := 80000 } ∧
    (s false).prepareStatus 5 [0] 0 0 = stOk ∧ (s false).prepareStatus 5 [1] 0 0 = stBadParam := by decide

/-- Settles O34: each row by its equation above; an effect drives its pins as `State.setPin` does. -/
theorem engineRows : Obligations.engineRows := by
  refine ⟨⟨?effect, ?takes, ?pwm, ?launch, ?regMessages, ?regReply, ?readTimeout, ?travMessage, ?inputEdge⟩,
    ?prepare, ?answers, ?prepared, ?launchTimers, ?preparedTimeout⟩
  case effect => exact fun s f rest works fx reached least first => exec_effectInstant_first works fx reached least first
  case takes =>
    intro s f at'
    refine ⟨fun mask levels pins => State.takeEffect_pins at' pins, fun n lv w pulse => ?_, fun n lv w pulse => ?_⟩
    · rw [State.takeEffect_pulse at' pulse]
      rfl
    · rw [State.takeEffect_pulse at' pulse]
      rfl
  case pwm => exact fun s n p works runs reached => exec_pwmPeriodStart_due works runs reached
  case launch => exact fun s e works fits armed reached first => exec_engineLaunch_due works fits armed reached first
  case regMessages =>
    intro s ws core
    refine ⟨fun t wrote => ?_, fun denied => ?_, fun t v read => ?_⟩ <;> refine congrArg Host.Outcome.next ?_
    · rw [effRegWrite]
      rw [wrote]
      exact if_neg (not_of_holds core)
    · rw [effRegWrite]
      rw [denied]
      exact if_neg (not_of_holds core)
    · rw [effRegRead]
      dsimp only
      rw [read]
      exact if_neg (not_of_holds core)
  case regReply =>
    intro s ws v
    dsimp only
    intro works waits asked
    rw [exec_regReply_awaited works waits asked]
    exact ⟨fun ok => congrArg _ (if_neg (not_not.2 ok)), fun fails => congrArg _ (if_pos fails)⟩
  case readTimeout => exact fun s e q v works waits asked => exec_remoteReadTimeout_waits works waits asked
  case travMessage =>
    intro s tid src bytes
    dsimp only
    intro core held exits trav whole clear
    rw [exec_travMessage_exit core held exits trav whole clear]
    dsimp only
    refine ⟨fun noSlice engine => ?_, fun k slice => ?_⟩
    · rw [noSlice]
      exact congrArg _ (if_neg (not_not.2 engine))
    · rw [slice]
  case inputEdge =>
    exact fun s n since rising works pin input => exec_actInputEdge_input since rising works pin input
  case prepare =>
    intro s ws
    dsimp only
    intro core
    refine ⟨fun refused => ?_, fun ok => ?_⟩
    · exact (exec_prepare core).trans (congrArg _ (if_pos refused))
    · exact (exec_prepare core).trans (congrArg _ (if_neg (not_not.2 ok)))
  case answers =>
    intro s ws x
    dsimp only
    intro core launch named
    refine ⟨fun uncommitted ok => ?_, fun uncommitted refuses => ?_, fun committed => ?_⟩
    · exact (exec_ready_awaited core launch named uncommitted).trans (congrArg _ (if_neg (not_not.2 ok)))
    · exact (exec_ready_awaited core launch named uncommitted).trans (congrArg _ (if_pos refuses))
    · exact exec_launched_awaited core launch named committed
  case prepared =>
    intro s ws p
    dsimp only
    intro core prepared uncommitted
    rw [exec_commit_prepared core prepared uncommitted]
    exact ⟨fun late => congrArg _ (if_pos late), fun inTime => congrArg _ (if_neg (Nat.not_lt.2 inTime)),
      exec_abort_prepared core prepared uncommitted⟩
  case launchTimers =>
    exact fun s id x core launch => ⟨fun uncommitted late => exec_launchReadyDeadline_due core launch uncommitted late,
      fun committed late => exec_launchPartialTimeout_due core launch committed late⟩
  case preparedTimeout =>
    exact fun s id p core prepared uncommitted late => exec_preparedTimeout_due core prepared uncommitted late

end Sys2Proof.Machine
end

section
/-! Ethernet (Chapter 15): frames at a MAC, its transmit buffer, NET and CAN messages at their exits, MDIO, and O47. -/

namespace Sys2Proof.Machine
open Sys2Proof

/-! ### Frames at a MAC (R466 to R473) -/

/-- A fitted MAC that is on, its link up, in a hub whose mode works. -/
abbrev State.macRuns (s : State) (m : Nat) : Prop :=
  s.macFitted m = true ∧ s.working = true ∧ (s.mac m).mode ≠ 0 ∧ (s.mac m).link = true

section
variable {s : State} {m : Nat}

theorem State.macRuns.passes (runs : s.macRuns m) :
    ¬ ((!s.macFitted m) = true ∨ (!s.working) = true ∨ (s.mac m).mode = 0 ∨ (!(s.mac m).link) = true) := by
  obtain ⟨fitted, working, on, up⟩ := runs
  simp [fitted, working, on, up]

/-- A count at a MAC that is on leaves the rest of its record. -/
theorem State.mac_macCount (on : (s.mac m).mode ≠ 0) (i n : Nat) :
    (s.macCount m i n).mac m = { s.mac m with
      counters := (s.mac m).counters.mod 0 i fun v => if i < 2 then (v + n) % 65536 else satAdd 16 v n } :=
  Tab.read_write_self Mac.init _ m fun reset => on (congrArg Mac.mode reset)

variable {since : Nat} {bytes : List Byte}

/-- A good frame within the limits is counted, and then a control frame, one without room, and one that the map sends nowhere are counted
again (R466, R468, R470). -/
theorem exec_macFrameReceive_whole (runs : s.macRuns m) (long : 64 ≤ bytes.length)
    (short : bytes.length ≤ (s.mac m).mtu + (if ethTagged bytes = true then 4 else 0)) :
    exec (.macFrameReceive m since true bytes) s = .next
      (let x := s.mac m
       let r := s.macCount m mcRxFrames 1
       if ethControl bytes = true then r.macCount m mcCtrlDiscard 1
       else if 32768 < r.macRxUsed m + bytes.length then r.macCount m mcRxDrop 1
       else match (List.range 16).find? fun i => (x.vlan.read VlanEnt.init i).hits bytes with
         | none => r.macCount m mcNoMap 1
         | some i =>
           let e := x.vlan.read VlanEnt.init i
           if (!r.tunOpen e.tid) = true then r.macCount m mcTunDown 1
           else
             let frame := bytes.take (bytes.length - 4)
             let strip := e.strip && ethTagged bytes
             r.sendTunnel e.tid false (netMessage strip true (if strip then ethTci bytes else 0) 0
               (quantise x.quantum (s.ago (4 * (since + x.inLat)) / 4)) (if strip then frame.take 12 ++ frame.drop 16 else frame))) :=
  congrArg Host.Outcome.next ((if_neg runs.passes).trans ((if_neg (by decide)).trans ((if_neg (Nat.not_lt.2 long)).trans
    (if_neg (Nat.not_lt.2 short)))))

/-- The oldest frame of the transmit buffer leaves with its FCS (R472, R473). -/
theorem exec_macFrameTransmit_oldest {f : TxFrame} {rest : List TxFrame} (runs : s.macRuns m) (waits : (s.mac m).txq = f :: rest) :
    exec (.macFrameTransmit m) s = .next
      (let x := s.mac m
       let t := quantise x.quantum (s.nowNs + x.egLat)
       let u := ((s.setMac m { x with txq := rest }).macCount m mcTxFrames 1).emit (.mac m (f.bytes ++ leBytes 4 (crc32 f.bytes).toNat))
       State.macGo (if f.stamp = true then (u.macCount m mcTxStamps 1).netAlertOwner m f.tid 3 (t % 1000000000) (t / 1000000000 % 2 ^ 32)
         (f.cookie * 65536 + t / 1000000000 / 2 ^ 32 % 65536) else u) m) := by
  refine congrArg Host.Outcome.next ?_
  rw [effMacFrameTransmit]
  dsimp only
  rw [waits]
  exact if_neg runs.passes

end

/-! ### NET messages at an exit (R471, R472, R475) -/

section
variable {s : State} {tid : Nat} {bytes : List Byte}

theorem exec_netMessage_exit (held : (s.gaz tid).state ≠ gClosed) (exits : (s.gaz tid).loc = true) (net : (s.gaz tid).cls = clsNet)
    (core : s.coreOn = true) :
    exec (.netMessage tid bytes) s = .next
      (let g := s.gaz tid
       let m := epIndex g.dstEp
       if epBlock g.dstEp ≠ 6 then if netOk bytes = true then s.ringWrite tid bytes else s.countDrop tid 1
       else if (!netOk bytes) = true then (s.macCount m mcMalformed 1).macGo m
       else (s.macQueue m tid g.lossy bytes).macGo m) :=
  congrArg Host.Outcome.next (if_neg (by simp [held, exits, net, core]))

variable {m : Nat} {lossy : Bool}

theorem State.macQueue_oversize
    (excess : (s.mac m).mtu + (if ethTagged (netFrame bytes) = true then 4 else 0) < (netFrame bytes).length + 4) :
    s.macQueue m tid lossy bytes = s.macCount m mcOversize 1 := if_pos excess

section
variable (within : (netFrame bytes).length + 4 ≤ (s.mac m).mtu + (if ethTagged (netFrame bytes) = true then 4 else 0))
include within

theorem State.macQueue_room (room : (s.mac m).room bytes = true) :
    s.macQueue m tid lossy bytes = s.setMac m { s.mac m with txq := (s.mac m).txq ++
      [{ bytes := netFrame bytes, stamp := bit (fromLe (bytes.take 4)) 14, cookie := bits (fromLe ((bytes.drop 4).take 4)) 31 16,
         tid := tid }] } :=
  (if_neg (Nat.not_lt.2 within)).trans (if_pos room)

/-- Without room a frame of a lossy tunnel is lost, and one of a lossless tunnel waits at the exit (log entry 61). -/
theorem State.macQueue_full (full : ¬ (s.mac m).room bytes = true) :
    s.macQueue m tid lossy bytes = if lossy = true then s.macCount m mcTxDrop 1 else
      { s with tree := { s.tree with exitQ :=
        { pkt := { TxPkt.init with tunnel := tid, tclass := clsNet, payload := bytes }, since := s.now250 } :: s.tree.exitQ } } :=
  (if_neg (Nat.not_lt.2 within)).trans (if_neg full)

end

end

theorem Mac.not_room_iff (x : Mac) (bytes : List Byte) :
    ¬ x.room bytes = true ↔ 32768 < sumN (x.txq.map fun q => q.bytes.length + 4) + netFrameLen bytes := by
  rw [Mac.room, decide_eq_true_eq, Nat.not_le]

/-! ### CAN messages at an exit (R475, R479, R481) -/

/-- A CAN message that R479 finds well formed. -/
def canMsgOk (bytes : List Byte) : Bool :=
  let w1 := fromLe ((bytes.drop 4).take 4)
  decide (16 ≤ bytes.length) && canOk (fromLe (bytes.take 4)) w1 && decide (bytes.length = 16 + bits w1 6 0)

theorem canMsgOk_iff (bytes : List Byte) :
    canMsgOk bytes = true ↔ 16 ≤ bytes.length ∧ canOk (fromLe (bytes.take 4)) (fromLe ((bytes.drop 4).take 4)) = true ∧
      bytes.length = 16 + bits (fromLe ((bytes.drop 4).take 4)) 6 0 := by
  simp only [canMsgOk, Bool.and_eq_true, decide_eq_true_eq, and_assoc]

theorem exec_canMessage_exit {s : State} {tid : Nat} {bytes : List Byte} (held : (s.gaz tid).state ≠ gClosed)
    (exits : (s.gaz tid).loc = true) (can : (s.gaz tid).cls = clsCan) (core : s.coreOn = true) :
    exec (.canMessage tid bytes) s = .next
      (let n := epIndex (s.gaz tid).dstEp
       let x := s.can n
       if epBlock (s.gaz tid).dstEp ≠ 7 then if canMsgOk bytes = true then s.ringWrite tid bytes else s.countDrop tid 1
       else if (!canMsgOk bytes) = true then s.canCount n ccMalformed 1
       else if 32 ≤ x.held 2 x.tunQ then s.canCount n ccTxDrop 1
       else s.setCan n { x with tunQ := x.tunQ ++
         [{ frame := { w0 := word (fromLe (bytes.take 4)), w1 := word (fromLe ((bytes.drop 4).take 4)), data := bytes.drop 16 }
            due := s.now250, cmd := none, tid := tid }] }) :=
  congrArg Host.Outcome.next (if_neg (by simp [held, exits, can, core]))

/-- The frame on the bus keeps its place in its queue (log entry 56). -/
theorem Can.held_eq (x : Can) (kind : Nat) (queue : List CanQ) :
    x.held kind queue = queue.length + if x.offered.map Prod.fst = some kind then 1 else 0 := by
  by_cases held : x.offered.map Prod.fst = some kind <;> simp [Can.held, b2n, held]

theorem exec_mdioAccessDone_next {s : State} {c : Cmd} {rest : List Cmd} (data : Nat) (waits : s.net.mdio = c :: rest) :
    exec (.mdioAccessDone data) s = .next ((({ s with net := { s.net with mdio := rest } } : State).complete c stOk
      (if c.b 4 1 then [] else [word (data % 65536)])).mdioStart) := by
  refine congrArg Host.Outcome.next ?_
  rw [effMdioAccessDone, waits]

/-! ### Hubs and frames that meet the hypotheses -/

/-- MAC 0 runs and has a frame to send; a frame of 64 bytes is within its limit, and with an entry that takes untagged frames the map hits it. -/
theorem witness_mac :
    let e : VlanEnt := { VlanEnt.init with enable := true, mtch := 1, tid := 40 }
    let x : Mac := { Mac.init with mode := 1, link := true, mtu := 1518, vlan := [(3, e)]
                                   txq := [{ bytes := [], stamp := true, cookie := 0, tid := 40 }] }
    let s : State := { treeHub 0 { Tree.init with gaz := [(40, { Gaz.init with state := gOpen })] } with
      net := { Net.init with macs := [(0, x)] } }
    let frame : List Byte := List.replicate 64 0
    s.macRuns 0 ∧ (s.mac 0).txq ≠ [] ∧ 64 ≤ frame.length ∧
    frame.length ≤ (s.mac 0).mtu + (if ethTagged frame = true then 4 else 0) ∧
    ethControl frame = false ∧ (s.macCount 0 mcRxFrames 1).macRxUsed 0 + frame.length ≤ 32768 ∧
    ((List.range 16).find? fun i => ((s.mac 0).vlan.read VlanEnt.init i).hits frame) = some 3 ∧ s.tunOpen 40 = true := by decide

/-- A NET message for MAC 0 and a CAN message for controller 0 that come at their exits, both well formed. -/
theorem witness_netMessage :
    let at' (cls ep : Nat) : State := treeHub 0 { Tree.init with
      gaz := [(40, { Gaz.init with state := gOpen, loc := true, cls := cls, dstEp := ep })] }
    let net := netMessage false false 0 0 0 (List.replicate 14 0)
    let can := bytesOf [0, word 4, 0, 0] ++ [1, 2, 3, 4]
    ((at' clsNet 0x600).gaz 40).state ≠ gClosed ∧ epBlock ((at' clsNet 0x600).gaz 40).dstEp = 6 ∧ netOk net = true ∧
    epBlock ((at' clsCan 0x700).gaz 40).dstEp = 7 ∧ canMsgOk can = true := by decide

/-- Settles O47: a received frame by the checks in their order, a message at its exit by where it goes, and the other rows by their
conditions. A count at a MAC that is on leaves its map as it was, so that it may be read before or after. -/
theorem netRows : Obligations.netRows := by
  refine ⟨?receive, ?linkChange, ?phyQuiet, ?phyReports, ?transmit, ?netMessage, ?canMessage, ?mdio⟩
  case receive =>
    intro s m since bytes fitted working on up
    have runs : s.macRuns m := ⟨fitted, working, on, up⟩
    have map : ((s.macCount m mcRxFrames 1).mac m).vlan = (s.mac m).vlan := by rw [State.mac_macCount on]
    dsimp only
    rw [map]
    refine ⟨?badFcs, ?runt, ?oversize, ?control, ?full, ?unmapped, ?mapped⟩
    case badFcs => exact congrArg _ ((if_neg runs.passes).trans (if_pos rfl))
    case runt => exact fun short => congrArg _ ((if_neg runs.passes).trans ((if_neg (by decide)).trans (if_pos short)))
    case oversize =>
      exact fun long excess => congrArg _ ((if_neg runs.passes).trans ((if_neg (by decide)).trans
        ((if_neg (Nat.not_lt.2 long)).trans (if_pos excess))))
    case control =>
      rintro ⟨long, short⟩ control
      exact (exec_macFrameReceive_whole runs long short).trans (congrArg _ (if_pos control))
    case full =>
      rintro ⟨long, short⟩ data full
      exact (exec_macFrameReceive_whole runs long short).trans (congrArg _ ((if_neg (ne_true_of_eq_false data)).trans (if_pos full)))
    case unmapped =>
      rintro ⟨long, short⟩ data room unmapped
      refine (exec_macFrameReceive_whole runs long short).trans (congrArg _ ((if_neg (ne_true_of_eq_false data)).trans
        ((if_neg (Nat.not_lt.2 room)).trans ?_)))
      rw [unmapped]
    case mapped =>
      rintro i ⟨long, short⟩ data room hit
      have goes := (exec_macFrameReceive_whole (since := since) runs long short).trans (congrArg _
        ((if_neg (ne_true_of_eq_false data)).trans (if_neg (Nat.not_lt.2 room))))
      rw [hit] at goes
      exact ⟨fun shut => goes.trans (congrArg _ (if_pos (by simp [shut]))),
        fun isOpen => goes.trans (congrArg _ (if_neg (not_of_holds isOpen)))⟩
  case linkChange =>
    exact fun s m speed up ab fitted working on change => congrArg _ (if_neg (by simp [fitted, working, on, change]))
  case phyQuiet => exact fun s recent => congrArg _ (if_pos (.inr (by simp [recent])))
  case phyReports => exact fun s core passed => congrArg _ (if_neg (by simp [core, passed]))
  case transmit =>
    intro s m f rest fitted working on up waits
    dsimp only
    rw [exec_macFrameTransmit_oldest ⟨fitted, working, on, up⟩ waits]
    exact ⟨fun plain => congrArg (fun t : State => Host.Outcome.next (t.macGo m)) (if_neg (ne_true_of_eq_false plain)),
      fun stamped => congrArg (fun t : State => Host.Outcome.next (t.macGo m)) (if_pos stamped)⟩
  case netMessage =>
    intro s tid bytes held exits net core
    dsimp only
    rw [exec_netMessage_exit held exits net core]
    have atMac {bad x y : State} {b : Bool} (mac : epBlock (s.gaz tid).dstEp = 6) (ok : b = true) :
        (if epBlock (s.gaz tid).dstEp ≠ 6 then y else if (!b) = true then bad else x) = x :=
      (if_neg (not_not.2 mac)).trans (if_neg (not_of_holds ok))
    refine ⟨fun ring ok => ?_, fun ring bad => ?_, fun mac bad => ?_, fun mac ok excess => ?_, fun mac ok within full lossy => ?_,
      fun mac ok within full lossless => ?_, fun mac ok within room => ?_⟩
    · exact congrArg _ ((if_pos ring).trans (if_pos ok))
    · exact congrArg _ ((if_pos ring).trans (if_neg (ne_true_of_eq_false bad)))
    · exact congrArg _ ((if_neg (not_not.2 mac)).trans (if_pos (by simp [bad])))
    · refine congrArg _ ((atMac mac ok).trans ?_)
      rw [State.macQueue_oversize excess]
    · refine congrArg _ ((atMac mac ok).trans ?_)
      rw [State.macQueue_full within ((Mac.not_room_iff ..).2 full), if_pos lossy]
    · refine congrArg _ ((atMac mac ok).trans ?_)
      rw [State.macQueue_full within ((Mac.not_room_iff ..).2 full), if_neg (ne_true_of_eq_false lossless)]
    · refine congrArg _ ((atMac mac ok).trans ?_)
      rw [State.macQueue_room within (not_not.1 (mt (Mac.not_room_iff ..).1 room))]
  case canMessage =>
    intro s tid bytes held exits can core
    dsimp only
    rw [exec_canMessage_exit held exits can core, ← canMsgOk_iff, ← Can.held_eq]
    have atMine {bad x y : State} (mine : epBlock (s.gaz tid).dstEp = 7) (good : canMsgOk bytes = true) :
        (if epBlock (s.gaz tid).dstEp ≠ 7 then y else if (!canMsgOk bytes) = true then bad else x) = x :=
      (if_neg (not_not.2 mine)).trans (if_neg (not_of_holds good))
    refine ⟨fun ring good => ?_, fun ring bad => ?_, fun mine bad => ?_, fun mine good full => ?_, fun mine good room => ?_⟩
    · exact congrArg _ ((if_pos ring).trans (if_pos good))
    · exact congrArg _ ((if_pos ring).trans (if_neg bad))
    · exact congrArg _ ((if_neg (not_not.2 mine)).trans (if_pos (by simpa using bad)))
    · exact congrArg _ ((atMine mine good).trans (if_pos full))
    · exact congrArg _ ((atMine mine good).trans (if_neg (Nat.not_le.2 room)))
  case mdio => exact fun s data c rest waits => exec_mdioAccessDone_next data waits

end Sys2Proof.Machine
end

section
/-! CAN controllers (Chapter 15): received and offered frames, bus-off, errors and the address claim, and O48. -/

namespace Sys2Proof.Machine
open Sys2Proof

/-! ### On the bus (R476, R477) -/

section
variable {s : State} {n : Nat}

theorem State.recDown_zero (none' : (s.can n).rxErr = 0) : s.recDown n = s := if_pos none'

theorem State.recDown_falls (some' : 0 < (s.can n).rxErr) (active : (s.can n).rxErr < 128) :
    s.recDown n = s.setCan n { s.can n with rxErr := (s.can n).rxErr - 1 } :=
  (if_neg (Nat.ne_of_gt some')).trans (if_pos active)

/-- The frame as it is received: its data as long as LEN says. -/
def canFrameOf (w0 w1 : Word) (data : List Byte) : CanFrame :=
  { w0 := w0, w1 := w1, data := (data ++ List.replicate (bits w1.toNat 6 0) 0).take (bits w1.toNat 6 0) }

/-- The header of the CAN message of a frame received at an instant, with the losses counted for its tunnel (Table 15.3). -/
def canHeader (f : CanFrame) (w1 : Word) (lost t : Nat) : List Word :=
  [ pack [fld 31 (b2n f.ide), fld 30 (b2n f.rtr), f.id],
    pack [fld 31 (b2n f.fdf), fld 30 (b2n f.brs), fld 29 (b2n (bit w1.toNat 29)), fld 16 lost, f.len], compactNs t, compactSec t ]

/-- A frame received goes where its first filter sends it (R478). -/
def State.canForward (s : State) (n since : Nat) (w1 : Word) (f : CanFrame) : State :=
  let x := s.can n
  match (List.range 64).find? fun i => (x.filters.read CanFilter.init i).hits f with
  | none => s.canCount n ccNoMap 1
  | some i =>
    let e := x.filters.read CanFilter.init i
    if !e.action then s
    else if !s.tunOpen e.tid then s.setCan n { x with lost := x.lost.mod 0 e.tid (satAdd 8 · 1) }
    else (s.setCan n { x with lost := x.lost.write 0 e.tid 0 }).sendTunnel e.tid false
      (bytesOf (canHeader f w1 (x.lost.read 0 e.tid) (s.ago (4 * since) / 4)) ++ f.data)

variable {since : Nat} {w0 w1 : Word} {data : List Byte}

theorem exec_canFrameReceive_fdOff (off : (s.can n).mode = 1 ∧ (canFrameOf w0 w1 data).fdf = true) :
    exec (.canFrameReceive n since w0 w1 data) s = .next s :=
  congrArg Host.Outcome.next (if_pos (.inr off))

theorem exec_canFrameReceive_takes (on : s.canOn n = true) (takes : ¬ ((s.can n).mode = 1 ∧ (canFrameOf w0 w1 data).fdf = true)) :
    exec (.canFrameReceive n since w0 w1 data) s = .next
      ((((s.canCount n ccRxFrames 1).recDown n).claimSees n (canFrameOf w0 w1 data)).canForward n since w1 (canFrameOf w0 w1 data)) :=
  congrArg Host.Outcome.next (if_neg (not_or.2 ⟨not_of_holds on, takes⟩))

variable {f : CanFrame}

theorem State.canForward_unmapped (unmapped : ((List.range 64).find? fun i => ((s.can n).filters.read CanFilter.init i).hits f) = none) :
    s.canForward n since w1 f = s.canCount n ccNoMap 1 := by
  simp only [State.canForward, unmapped]

theorem State.canForward_mapped {i : Nat} (hit : ((List.range 64).find? fun i => ((s.can n).filters.read CanFilter.init i).hits f) = some i) :
    s.canForward n since w1 f =
      let x := s.can n
      let e := x.filters.read CanFilter.init i
      if (!e.action) = true then s
      else if (!s.tunOpen e.tid) = true then s.setCan n { x with lost := x.lost.mod 0 e.tid (satAdd 8 · 1) }
      else (s.setCan n { x with lost := x.lost.write 0 e.tid 0 }).sendTunnel e.tid false
        (bytesOf (canHeader f w1 (x.lost.read 0 e.tid) (s.ago (4 * since) / 4)) ++ f.data) := by
  simp only [State.canForward, hit]

/-! ### Frames offered (R481) -/

/-- The claim, the timed frames that are due and the oldest tunnel frame, in that order. -/
def Can.candidates (x : Can) (now : Nat) : List (Nat × CanQ) :=
  x.claimQ.toList.map (fun f => (0, { frame := f, due := now, cmd := none, tid := 0 })) ++
    (x.timedQ.filter fun q => decide (q.due ≤ now)).map (fun q => (1, q)) ++ (x.tunQ.take 1).map fun q => (2, q)

/-- The best of them is put on the bus. -/
def State.canOffer (s : State) (n : Nat) (best : Option (Nat × CanQ)) : State :=
  let x := s.can n
  match best with
  | none => s
  | some (k, q) =>
    (s.setCan n { x with
      offered := some (k, q)
      claimQ := if k = 0 then none else x.claimQ
      timedQ := if k = 1 then canDrop q x.timedQ else x.timedQ
      tunQ := if k = 2 then x.tunQ.drop 1 else x.tunQ }).emit (.can n q.frame.w0 q.frame.w1 q.frame.data)

theorem exec_canBusIdle_offers (may : s.canTx n = true) (idle : (s.can n).offered = none) :
    exec (.canBusIdle n) s = .next
      (let u := s.canDropFd n
       u.canOffer n (((u.can n).candidates u.now250).foldl canBetter none)) :=
  congrArg Host.Outcome.next (if_neg (by simp [may, idle]))

/-- The tunnel frames that are too old as they reach the head are those before the first that is not (R481). -/
theorem canAged_eq (now age : Nat) (qs : List CanQ) :
    canAged now age qs =
      (qs.dropWhile (fun q => decide (q.due + age * 4000000 < now)),
       qs.length - (qs.dropWhile fun q => decide (q.due + age * 4000000 < now)).length) := by
  induction qs with
  | nil => rfl
  | cons q r ih =>
    rw [canAged]
    by_cases old : q.due + age * 4000000 < now
    · have shorter := (List.dropWhile_suffix (l := r) fun q => decide (q.due + age * 4000000 < now)).length_le
      simp only [old, if_true, ih, List.dropWhile_cons, decide_true, List.length_cons, Prod.mk.injEq, true_and]
      omega
    · simp [old]

end

/-- The tunnel frames that wait after a frame of a kind: those behind a tunnel frame are tested for AGE as they reach the head. -/
def State.canYoung (s : State) (n k : Nat) : List CanQ :=
  let x := s.can n
  if k = 2 then x.tunQ.dropWhile fun p => decide (p.due + x.age * 4000000 < s.now250) else x.tunQ

theorem State.canYoung_eq (s : State) (n k : Nat) :
    (if k = 2 then canAged s.now250 (s.can n).age (s.can n).tunQ else ((s.can n).tunQ, 0)) =
      (s.canYoung n k, (s.can n).tunQ.length - (s.canYoung n k).length) := by
  rw [State.canYoung]
  split
  · exact canAged_eq ..
  · simp

/-- The frame on the bus has been sent: the counts, and with a tunnel frame those behind it that are too old (R477, R481 to R483). -/
def State.canSent (s : State) (n k : Nat) : State :=
  let x := s.can n
  let kept := s.canYoung n k
  ((s.setCan n { x with
    offered := none, txErr := x.txErr - 1, passive := decide (128 ≤ x.txErr - 1 ∨ 128 ≤ x.rxErr), tunQ := kept
    claimAt := if k = 0 then s.uptime + 1 else x.claimAt }).canCount n ccTxFrames 1).canCount n ccTxDrop (x.tunQ.length - kept.length)

section
variable {s : State} {n since k : Nat} {q : CanQ} (offered : (s.can n).offered = some (k, q))
include offered

theorem exec_canFrameSent_lost :
    exec (.canFrameSent n since false) s = .next
      (let x := s.can n
       if q.dropped = true then ((s.setCan n { x with offered := none }).canCount n ccArbLost 1).abortSends [q]
       else (s.setCan n { x with
          offered := none
          claimQ := if k = 0 then some (x.claimQ.getD q.frame) else x.claimQ
          timedQ := if k = 1 then q :: x.timedQ else x.timedQ
          tunQ := if k = 2 then q :: x.tunQ else x.tunQ }).canCount n ccArbLost 1) := by
  refine congrArg Host.Outcome.next ?_
  rw [effCanFrameSent]
  dsimp only
  rw [offered]
  cases dropped : q.dropped <;> simp [dropped]

theorem exec_canFrameSent_won :
    exec (.canFrameSent n since true) s = .next
      (let v := if k = 0 then s.canSent n k else (s.canSent n k).claimSees n q.frame
       let t := v.ago (4 * since) / 4
       match q.cmd with
       | some c => v.complete c stOk [compactNs t, compactSec t]
       | none => v) := by
  refine congrArg Host.Outcome.next ?_
  rw [effCanFrameSent]
  dsimp only
  rw [offered]
  refine (if_neg (by simp)).trans ((if_neg (by simp)).trans ?_)
  rw [State.canYoung_eq]
  rfl

end

/-! ### Controllers that meet the hypotheses -/

/-- The root in Field with CAN controller 0. -/
def canHub (x : Can) : State := { treeHub 0 Tree.init with net := { Net.init with cans := [(0, x)] } }

/-- A controller on the bus may send; one whose claim was sent 250 ms ago settles, and not a tick before; one in bus-off recovers. -/
theorem witness_can :
    let x : Can := { Can.init with mode := 1 }
    let claims (up : Nat) : State := { canHub { x with nameEn := true, addr := 0x80, claimAt := 1 } with uptime := up }
    (canHub x).canTx 0 = true ∧ ((canHub x).can 0).offered = none ∧
    (claims 100000000).canTx 0 = true ∧ (claims 100000000).passed ((claims 100000000).can 0).claimAt 100000000 = true ∧
    (claims 99999999).passed ((claims 99999999).can 0).claimAt 100000000 = false ∧
    ((canHub { x with busOff := true }).can 0).busOff = true ∧ ((canHub { x with busOff := true }).can 0).autoRec = true ∧
    (canHub { x with offered := some (1, CanQ.init) }).can 0 ≠ Can.init := by decide

/-- Settles O48: a received frame by what its first filter says, the frame offered by how it ends, and the other rows by their
conditions. -/
theorem canRows : Obligations.canRows := by
  refine ⟨?receive, ?rec, ?settle, ?idle, ?sent, ?busOff, ?recovery, ?passive⟩
  case receive =>
    intro s n since w0 w1 data on
    refine ⟨exec_canFrameReceive_fdOff, fun takes unmapped => ?_, fun i takes hit => ?_⟩
    · exact (exec_canFrameReceive_takes on takes).trans (congrArg _ (State.canForward_unmapped unmapped))
    · have goes := (exec_canFrameReceive_takes (since := since) on takes).trans (congrArg _ (State.canForward_mapped hit))
      exact ⟨fun drops => goes.trans (congrArg _ (if_pos (congrArg (!·) drops))),
        fun sends shut => goes.trans (congrArg _ ((if_neg (not_of_holds sends)).trans (if_pos (congrArg (!·) shut)))),
        fun sends isOpen => goes.trans (congrArg _ ((if_neg (not_of_holds sends)).trans (if_neg (not_of_holds isOpen))))⟩
  case rec => exact fun s n => ⟨State.recDown_zero, State.recDown_falls⟩
  case settle =>
    intro s n may named unclaimed claims sent off
    refine ⟨fun early => congrArg _ (if_pos ?_), fun started passed => congrArg _ (if_neg ?_)⟩
    · rcases early with h | h <;> simp [h]
    · simp [may, named, unclaimed, claims, sent, off, started, passed]
  case idle =>
    intro s n may idle
    dsimp only
    rw [exec_canBusIdle_offers may idle]
    refine ⟨fun none' => ?_, fun k q best => ?_⟩
    · exact congrArg (fun b => Host.Outcome.next ((s.canDropFd n).canOffer n b)) none'
    · exact congrArg (fun b => Host.Outcome.next ((s.canDropFd n).canOffer n b)) best
  case sent =>
    intro s n since k q offered
    refine ⟨fun dropped => ?_, fun kept => ?_, fun noCmd => ?_, fun c cmd => ?_⟩
    · exact (exec_canFrameSent_lost offered).trans (congrArg _ (if_pos dropped))
    · exact (exec_canFrameSent_lost offered).trans (congrArg _ (if_neg (ne_true_of_eq_false kept)))
    · rw [exec_canFrameSent_won offered, noCmd]
      rfl
    · rw [exec_canFrameSent_won offered, cmd]
      rfl
  case busOff => exact fun s n may => congrArg _ (if_neg (not_of_holds may))
  case recovery =>
    intro s n fitted working on off recovers
    refine congrArg _ (if_neg ?_)
    rcases recovers with h | h <;> simp [fitted, working, on, off, h]
  case passive =>
    exact fun s n tx rx on active high fitsTx fitsRx => congrArg _ (if_neg (by simp [on, active]; omega))

end Sys2Proof.Machine
end

section
/-! Legs of a traverse engine (Chapter 10): flow legs, timed legs and effect legs, and O32 and O33. -/

namespace Sys2Proof.Machine
open Sys2Proof

/-! ### Legs that execute (R300, R301, R316) -/

section
variable {s : State} {e kind v : Nat}

/-- A leg that executes has its own part on the state in which it is counted, and then the limit on legs. -/
theorem State.runLeg_takes {body : State → Nat → Option State} {t : State} (runs : s.legRuns e kind v)
    (takes : body (s.countLeg e) v = some t) : s.runLeg e kind body = t.legLimit e (s.engine e).pc := by
  rw [State.runLeg_runs runs, takes]

/-- An effect leg has its part once D has come (R301). -/
theorem State.effectLeg_takes {body : State → Nat → State} {t : State} (runs : s.legRuns e kind v)
    (due : ((s.countLeg e).engine e).d ≤ (s.countLeg e).now250) (takes : body (s.countLeg e) v = t) :
    s.effectLeg e kind body = t.legLimit e (s.engine e).pc := by
  rw [State.effectLeg_runs runs due, takes]

/-- A leg that executes is not bad (R300). -/
theorem State.legRuns.ranges (runs : s.legRuns e kind v) : legRanges v = true ∧ legKind v = kind := by
  obtain ⟨_, _, _, _, _, _, _, ok, named⟩ := runs
  simp only [legOk, Bool.and_eq_true] at ok
  exact ⟨ok.2, named⟩

/-- The conditions that a BRANCH may name (Table 10.2). -/
theorem State.legRuns.branch_lt (runs : s.legRuns e 0x0E v) : lf v 57 55 < 5 := by
  obtain ⟨ranges, named⟩ := runs.ranges
  simpa [legRanges, named] using ranges

/-- The slots that a GATE_SWITCH may name (Table 10.2). -/
theorem State.legRuns.gateSlot_lt (runs : s.legRuns e 0x0B v) : lf v 54 52 < 5 := by
  obtain ⟨ranges, named⟩ := runs.ranges
  simp only [legRanges, named, decide_eq_true_eq] at ranges
  exact ranges.2

end

/-! ### Effects handed over (R301, R302, R306) -/

/-- There is room for one more effect of an engine, and 40 ns remain before its instant. -/
abbrev State.canHand (s : State) (e due : Nat) : Prop :=
  s.trav.effects.length < 256 ∧ (s.trav.effects.filter fun g => decide (g.eng = e)).length < 16 ∧ s.now250 + 160 ≤ due

section
variable {s : State} {e due : Nat} {k : EffKind}

theorem State.handOver_full (full : 256 ≤ s.trav.effects.length ∨ 16 ≤ (s.trav.effects.filter fun g => decide (g.eng = e)).length) :
    s.handOver e due k = none := if_pos full

theorem State.handOver_inTime (ready : s.canHand e due) :
    s.handOver e due k = some ((s.setEffects (s.trav.effects ++ [{ eng := e, due := due, kind := k }])).adv e) := by
  obtain ⟨room, own, inTime⟩ := ready
  exact (if_neg (not_or.2 ⟨Nat.not_le.2 room, Nat.not_le.2 own⟩)).trans (if_pos inTime)

/-- A late leg is counted. -/
def State.countLate (s : State) (e : Nat) : State :=
  let x := s.engine e
  s.setEngine e { x with lateCnt := satAdd 16 x.lateCnt 1, lateRep := x.lateRep + 1 }

/-- What becomes of a late effect, where the last LATE report is less than 1 ms old (R306). -/
theorem State.handOver_late (room : s.trav.effects.length < 256) (own : (s.trav.effects.filter fun g => decide (g.eng = e)).length < 16)
    (late : due < s.now250 + 160) (reported : s.passed (s.engine e).lateAt 400000 = false) :
    s.handOver e due k =
      if (s.engine e).latePol = 2 then some ((s.countLate e).exception e 4)
      else if (s.engine e).latePol = 1 then some ((s.countLate e).adv e)
      else
        let r := (s.countLate e).takeEffect { eng := e, due := due, kind := k } s.now250
        some ((r.1.setEffects (r.1.trav.effects ++ r.2.toList)).adv e) := by
  have silent : (!(s.countLate e).passed (s.engine e).lateAt 400000) = true := congrArg (!·) reported
  refine (if_neg (not_or.2 ⟨Nat.not_le.2 room, Nat.not_le.2 own⟩)).trans ((if_neg (Nat.not_le.2 late)).trans ?_)
  dsimp only
  rw [← State.countLate, if_pos silent]
  rfl

end

/-- A timed leg that may hand over its effect does so in time, and the engine goes on. -/
theorem State.runLeg_hands {s : State} {e kind v due : Nat} {k : EffKind} {body : State → Nat → Option State} (runs : s.legRuns e kind v)
    (passes : body (s.countLeg e) v = (s.countLeg e).handOver e due k) (ready : (s.countLeg e).canHand e due) :
    s.runLeg e kind body =
      let u := s.countLeg e
      ((u.setEffects (u.trav.effects ++ [{ eng := e, due := due, kind := k }])).adv e).legLimit e (s.engine e).pc :=
  State.runLeg_takes runs (passes.trans (State.handOver_inTime ready))

/-! ### Waits (R304, R305) -/

section
variable {s : State} {e : Nat}

theorem exec_waitUntilRelease_due {w : Nat} (works : s.working = true) (waits : (s.engine e).st = .waiting)
    (until' : (s.engine e).wait = .untilAt w) (reached : w ≤ s.now250 + 4000 * (s.engine e).lead)
    (first : s.noneBefore (w - 4000 * (s.engine e).lead) = true) :
    exec (.waitUntilRelease e) s = .next ((s.setEngine e { s.engine e with st := .running, wait := .none }).adv e) := by
  refine congrArg Host.Outcome.next ?_
  rw [effWaitUntilRelease, until']
  exact if_pos ⟨works, waits, reached, first⟩

section
variable {k i t : Nat} (works : s.working = true) (waits : (s.engine e).st = .waiting) (cond : (s.engine e).wait = .cond k i t)
include works waits cond

theorem exec_waitForMet_holds (holds : s.condNow e k i = true) :
    exec (.waitForMet e) s = .next ((if k = 0 then s.clearFlag e i else s).endWait e s.now250 true) := by
  refine congrArg Host.Outcome.next ?_
  rw [effWaitForMet, cond]
  exact if_pos ⟨works, waits, holds⟩

theorem exec_waitForTimeout_passed (limited : t ≠ 0) (passed : t ≤ s.now250) :
    exec (.waitForTimeout e) s = .next (s.endWait e t false) := by
  refine congrArg Host.Outcome.next ?_
  rw [effWaitForTimeout, cond]
  exact if_pos ⟨works, waits, limited, passed⟩

/-- The edge that an engine waits for ends its wait. -/
theorem State.feedOne_awaited (at' : Nat) : s.feedOne k i at' e = s.endWait e at' true := by
  rw [State.feedOne, cond]
  exact if_pos ⟨waits, rfl, rfl, works⟩

end

end

/-! ### Branches (R312) -/

/-- A BRANCH goes to its target, by its condition, C and the flag it names. -/
def branchTakes (cond : Nat) (c set : Bool) : Bool :=
  match cond with
  | 0 => true
  | 1 => c
  | 2 => !c
  | 3 => set
  | _ => !set

theorem branchTakes_iff {cond : Nat} {c set : Bool} (named : cond < 5) :
    branchTakes cond c set = true ↔
      cond = 0 ∨ cond = 1 ∧ c = true ∨ cond = 2 ∧ c = false ∨ cond = 3 ∧ set = true ∨ cond = 4 ∧ set = false := by
  interval_cases cond <;> simp [branchTakes]

theorem exec_legBranch {s : State} {e v : Nat} (runs : s.legRuns e 0x0E v) :
    exec (.legBranch e) s = .next
      (let u := s.countLeg e
       let x := u.engine e
       let set := bit x.flags.toNat (lf v 54 52)
       let t := if lf v 57 55 = 3 ∧ set = true then u.clearFlag e (lf v 54 52) else u
       (if branchTakes (lf v 57 55) x.c set = true then t.jump e (lf v 46 32) else t.adv e).legLimit e (s.engine e).pc) :=
  congrArg Host.Outcome.next (State.runLeg_takes runs rfl)

/-! ### Engines that meet the hypotheses -/

/-- Engine 0 runs the leg at PC 0 of a hub in Field. -/
def legHub (v : Nat) : State :=
  travHub { Trav.init with eng := [(0, { Engine.init with st := .running })], legs := if v = 0 then [] else [(0, BitVec.ofNat 64 v)]
                           act := [(0, { Act.init with mode := 3 })] }

/-- A leg of every kind executes, its D has come, and its effect for 40 ns later may be handed over; pin 0 is the engine's. -/
theorem witness_legs :
    (∀ kind < 16, let v := kind * 2 ^ 58 + (if kind = 4 then 2 ^ 20 else if kind = 5 then 2 ^ 32 else 0)
      (legHub v).legRuns 0 kind v) ∧
    (let u := (legHub 0).countLeg 0
     (u.engine 0).d ≤ u.now250 ∧ u.canHand 0 160 ∧ u.pinMay 0 0 = true ∧ u.pinMay 0 1 = false ∧ u.sliceMay 0 0 9 1 = true ∧
     u.sliceMay 0 1 9 1 = false) := by decide

/-- Engine 0 waits for an instant that has come and for a level with a limit that has passed, and an effect for the present is late. -/
theorem witness_waits :
    let s (w : EngWait) : State := { travHub { Trav.init with
        eng := [(0, { Engine.init with st := .waiting, wait := w, lateAt := 1, latePol := 1 })]
        act := [(0, { Act.init with mode := 4, input := true })] } with time := { Time.init with datum := 4 * unit250 } }
    (s (.untilAt 2)).working = true ∧ ((s (.untilAt 2)).engine 0).st = .waiting ∧ (s (.untilAt 2)).now250 = 4 ∧
    (s (.untilAt 2)).noneBefore (2 - 4000 * ((s (.untilAt 2)).engine 0).lead) = true ∧
    (s (.cond 3 0 2)).condNow 0 3 0 = true ∧ (s (.cond 4 0 2)).condNow 0 4 0 = false ∧
    (s (.untilAt 2)).passed ((s (.untilAt 2)).engine 0).lateAt 400000 = false := by decide

/-- Settles O32: each leg by its own part on the state in which it is counted, and a timed leg that may hand over its effect by
`State.runLeg_hands`. -/
theorem engineLegs : Obligations.engineLegs := by
  refine ⟨⟨?endLeg, ?waitUntil, ?release, ?waitFor, ?waits, ?loop, ?branch⟩, ?timed, ?handOver⟩
  case endLeg => exact fun s e v runs => congrArg Host.Outcome.next (State.runLeg_takes runs rfl)
  case waitUntil =>
    intro s e v runs
    refine congrArg Host.Outcome.next (State.runLeg_takes runs ?_)
    generalize lf v 57 56 = base
    match base with
    | 0 | 1 | _ + 2 => exact (apply_ite some _ _ _).symm
  case release => exact fun s e w works waits until' reached first => exec_waitUntilRelease_due works waits until' reached first
  case waitFor =>
    intro s e v runs
    have pin {i : Nat} (input : 1 ≤ lf v 57 55 ∧ lf v 57 55 ≤ 4 → ((s.countLeg e).act i).mode = 4) :
        ¬ (decide (1 ≤ lf v 57 55 ∧ lf v 57 55 ≤ 4) = true ∧ ((s.countLeg e).act i).mode ≠ 4) := by
      simpa using input
    refine ⟨fun isPin output => ?_, fun input holds => ?_, fun input fails => ?_⟩ <;>
      refine congrArg Host.Outcome.next (State.runLeg_takes runs ?_)
    · exact if_pos ⟨decide_eq_true isPin, output⟩
    · exact (if_neg (pin input)).trans (if_pos holds)
    · exact (if_neg (pin input)).trans (if_neg (ne_true_of_eq_false fails))
  case waits =>
    exact fun s e k i t works waits cond => ⟨exec_waitForMet_holds works waits cond, exec_waitForTimeout_passed works waits cond,
      State.feedOne_awaited works waits cond⟩
  case loop => exact fun s e v runs => congrArg Host.Outcome.next (State.runLeg_takes runs rfl)
  case branch =>
    intro s e v runs
    have goes := branchTakes_iff (c := ((s.countLeg e).engine e).c)
      (set := bit ((s.countLeg e).engine e).flags.toNat (lf v 54 52)) runs.branch_lt
    dsimp only
    rw [exec_legBranch runs, ← goes]
    exact ⟨fun go => congrArg (fun t : State => Host.Outcome.next (t.legLimit e (s.engine e).pc)) (if_pos go),
      fun stays => congrArg (fun t : State => Host.Outcome.next (t.legLimit e (s.engine e).pc)) (if_neg stays)⟩
  case timed =>
    intro s e v kind runs
    have hands {body : State → Nat → Option State} {due : Nat} {k : EffKind}
        (passes : body (s.countLeg e) v = (s.countLeg e).handOver e due k) (ready : (s.countLeg e).canHand e due) :=
      congrArg (Host.Outcome.next (φ := Fault) (ρ := Refusal)) (State.runLeg_hands runs passes ready)
    have takes {body : State → Nat → Option State} {t : State} (leg : body (s.countLeg e) v = some t) :=
      congrArg (Host.Outcome.next (φ := Fault) (ρ := Refusal)) (State.runLeg_takes runs leg)
    refine ⟨?setPin, ?pulsePin, ?pwmPin, ?sendCan, ?dispCommit, ?gateSwitch⟩ <;> rintro rfl
    case setPin => exact ⟨fun may ready => hands (if_neg (by simpa using may)) ready, fun other => takes (if_pos (by simpa using other))⟩
    case pulsePin | pwmPin | dispCommit =>
      exact ⟨fun may ready => hands (if_neg (not_of_holds may)) ready, fun other => takes (if_pos (congrArg (!·) other))⟩
    case sendCan =>
      exact ⟨fun may legs form ready => hands ((if_neg (not_of_holds may)).trans ((if_neg (by simpa using legs)).trans
          (if_neg (not_of_holds form)))) ready,
        fun other => takes (if_pos (congrArg (!·) other))⟩
    case gateSwitch =>
      have named := runs.gateSlot_lt
      refine ⟨fun may loaded ready => hands ((if_neg (not_of_holds may)).trans (if_neg ?_)) ready, fun may empty => takes ?_,
        fun other => takes (if_pos (congrArg (!·) other))⟩
      · rintro ⟨numbered, unloaded⟩
        exact loaded.elim (fun noList => by omega) (not_of_holds · unloaded)
      · obtain ⟨notNone, unloaded⟩ := not_or.1 empty
        exact (if_neg (not_of_holds may)).trans (if_pos ⟨by omega, by simpa using unloaded⟩)
  case handOver =>
    intro s e due k
    refine ⟨State.handOver_full, fun room own late reported => ⟨fun halts => ?_, fun skips => ?_⟩⟩
    · exact (State.handOver_late room own late reported).trans (if_pos halts)
    · exact (State.handOver_late room own late reported).trans ((if_neg (by simp [skips])).trans (if_pos skips))

/-! ### Effect legs (R309, R310, R313, R314) -/

/-- Settles O33: each leg, once its D has come, by the checks of its row in their order. -/
theorem effectLegs : Obligations.effectLegs := by
  intro s e v kind
  dsimp only
  intro runs due
  have row {body : State → Nat → State} {t : State} (takes : body (s.countLeg e) v = t) :
      Host.Outcome.next (φ := Fault) (ρ := Refusal) (s.effectLeg e kind body) = .next (t.legLimit e (s.engine e).pc) :=
    congrArg _ (State.effectLeg_takes runs due takes)
  refine ⟨?writeReg, ?readCheck, ?sendMsg, ?mark, ?startEngine⟩ <;> rintro rfl
  case writeReg =>
    refine ⟨fun t here wrote => row ((if_pos here).trans ?_), fun here denied => row ((if_pos here).trans ?_),
      fun far => row (if_neg (ne_true_of_eq_false far))⟩
    · rw [wrote]
    · rw [denied]
  case readCheck =>
    refine ⟨fun t w here read => row ((if_pos here).trans ?_), fun t here denied => row ((if_pos here).trans ?_),
      fun far => row (if_neg (ne_true_of_eq_false far))⟩
    · rw [read]
    · rw [denied]
  case sendMsg =>
    have notOwn {g : Gaz} : (g.cls ≠ clsTrav ∨ g.ingress ≠ 7 ∨ g.srcEp ≠ 0x800 + e) ↔
        ¬ (g.cls = clsTrav ∧ g.ingress = 7 ∧ g.srcEp = 0x800 + e) := by
      rw [not_and_or, not_and_or]
    refine ⟨fun toHost => row (if_pos toHost), fun msg other => row ?_, fun msg own shut => row ?_, fun msg own isOpen => row ?_⟩ <;>
      refine (if_neg (ne_true_of_eq_false msg)).trans ?_
    · exact if_pos (notOwn.2 other)
    · exact (if_neg (mt notOwn.1 (not_not.2 own))).trans (if_pos shut)
    · exact (if_neg (mt notOwn.1 (not_not.2 own))).trans (if_neg (not_not.2 isOpen))
  case mark =>
    exact ⟨fun silent => row (congrArg (State.adv · e) (if_pos silent)),
      fun reports => row (congrArg (State.adv · e) (if_neg (ne_true_of_eq_false reports)))⟩
  case startEngine =>
    exact ⟨fun other => row (if_pos other), fun same busy => row ((if_neg (not_not.2 same)).trans (if_pos busy)),
      fun same idle => row ((if_neg (not_not.2 same)).trans (if_neg (not_not.2 idle)))⟩

end Sys2Proof.Machine
end

section
/-! TRAV_ACT_CFG on a pin (R326 to R328, R335): O35. -/

namespace Sys2Proof.Machine
open Sys2Proof

section
variable (s : State) (c : Cmd) (n : Nat)

/-- A pin as TRAV_ACT_CFG leaves it. -/
def State.configured : Act :=
  let a := s.act n
  let mode := c.f 4 7 5
  let same := decide (mode = a.mode)
  { a with
    mode := mode, od := c.b 4 8, eng := c.f 4 15 11
    level := if mode = 2 then c.b 4 9 else if mode = 3 then (s.pinDrive n).getD a.level else a.level
    input := if (decide (mode = 4) && !same) = true then decide (s.freeVal 1 = 1) else a.input
    pwm := if same = true then a.pwm else none, pwmNext := if same = true then a.pwmNext else none, safe := same && a.safe
    stamp := { a.stamp with edge := c.f 4 17 16, once := c.b 4 18, slice := c.slice, hub := s.cmdHub c, seq := 0 } }

theorem State.ite_act {p : Prop} [Decidable p] {t u : State} {x : Tab Act} (yes : t.trav.act = x) (no : u.trav.act = x) :
    (if p then t else u).trav.act = x := by
  split <;> assumption

/-- Configuring a pin writes its record, whatever edge it leaves at the ball. -/
theorem State.cfgPin_act : (s.cfgPin c n).trav.act = s.trav.act.write Act.init n (s.configured c n) := by
  unfold State.cfgPin State.configured
  dsimp only
  cases decide (c.f 4 7 5 = 4) && !decide (c.f 4 7 5 = (s.act n).mode) <;> refine State.ite_act rfl ?_
  all_goals
    generalize State.pinDrive (State.setAct _ n _) n = drive
    cases drive <;> rfl

/-- In a pin table in canonical form (log entry 2) the pin reads as configured. -/
theorem State.act_cfgPin (canonical : Tab.wf Act.init s.trav.act = true) : (s.cfgPin c n).act n = s.configured c n := by
  rw [State.act, State.cfgPin_act, Tab.read_write Act.init canonical, if_pos rfl]

end

/-- A pin table out of canonical form: two entries for pin 0, the second of an INPUT pin. -/
def twicePinned : State :=
  travHub { Trav.init with act := [(0, { Act.init with mode := 1 }), (0, { Act.init with mode := 4 })] }

/-- Refutes O35: its clause on one pin speaks of every pin table, those out of canonical form too. In `twicePinned` pin 0, configured as at
reset, has its entry erased, and the second entry, of an INPUT, is read from then on. `State.act_cfgPin` gives what the pin reads in a
table in canonical form. -/
theorem not_travCommands : ¬ Obligations.travCommands := by
  rintro ⟨_, _, _, _, _, _, pins⟩
  obtain ⟨_, _, configures⟩ := pins (linkPacket 0x0705 [])
  obtain ⟨mode, _⟩ := configures twicePinned 0 (by decide)
  have second : ((twicePinned.cfgPin (linkPacket 0x0705 []) 0).act 0).mode = 4 := by decide
  exact absurd (second.symm.trans mode) (by decide)

end Sys2Proof.Machine
end

section
/-! The choice of a command and its checks as it is taken (Chapter 12): what COMMAND_FETCH does, and O38. -/

namespace Sys2Proof.Machine
open Sys2Proof

/-! ### The slice and the queue that are served next (R346, R354, R356) -/

section
variable {s : State} {k i : Nat}

/-- A slice that is served may fetch (R346, R354). -/
theorem State.mayFetch_of_pickSlice (pick : s.pickSlice = some k) : s.mayFetch k = true := List.find?_some pick

theorem State.ready_of_mayFetch (may : s.mayFetch k = true) :
    (s.slice k).state = 1 ∧ s.pendingOf k < (s.slice k).quota ∧ s.tagFree k = true := by
  simp only [State.mayFetch, Bool.and_eq_true, decide_eq_true_eq] at may
  tauto

/-- The least of a list of priorities and a bound is below each of them. -/
theorem foldl_min_le (f : Nat → Nat) (l : List Nat) (b : Nat) :
    l.foldl (fun p i => min p (f i)) b ≤ b ∧ ∀ j ∈ l, l.foldl (fun p i => min p (f i)) b ≤ f j := by
  induction l generalizing b with
  | nil => simp
  | cons x l ih =>
    obtain ⟨base, each⟩ := ih (min b (f x))
    refine ⟨base.trans (min_le_left ..), fun j hj => ?_⟩
    rcases List.mem_cons.1 hj with rfl | hj
    · exact base.trans (min_le_right ..)
    · exact each j hj

/-- The queue chosen has work and none with work has a higher priority (R354). -/
theorem State.pickQ_best (pick : s.pickQ k = some i) :
    (s.sq k i).work = true ∧ ∀ j < 8, (s.sq k j).work = true → (s.sq k i).prio ≤ (s.sq k j).prio := by
  obtain ⟨-, least⟩ := foldl_min_le (fun i => (s.sq k i).prio) (s.workQs k) 3
  have chosen : i ∈ (s.workQs k).filter fun i =>
      decide ((s.sq k i).prio = (s.workQs k).foldl (fun p i => min p (s.sq k i).prio) 3) := by
    simp only [State.pickQ] at pick
    split at pick
    next found =>
      cases pick
      exact List.mem_of_find?_eq_some found
    next => exact List.mem_of_head? pick
  obtain ⟨works, best⟩ := List.mem_filter.1 chosen
  refine ⟨(List.mem_filter.1 works).2, fun j below work => ?_⟩
  rw [of_decide_eq_true best]
  exact least j (List.mem_filter.2 ⟨List.mem_range.2 below, work⟩)

end

/-! ### The checks of a command that is taken (R367 to R372, R380 to R383) -/

section
variable {s : State} {c : Cmd} {lay : Layout}

theorem State.takeCmd_unknown (unknown : layoutOf c = none) : s.takeCmd c = s.complete c stBadOpcode [] := by
  delta State.takeCmd
  simp [unknown]

theorem State.takeCmd_badLayout (known : layoutOf c = some lay) (bad : c.layoutOk lay = false) :
    s.takeCmd c = s.complete c stBadParam [] := by
  delta State.takeCmd
  simp [known, bad]

section
variable (known : layoutOf c = some lay) (good : c.layoutOk lay = true)
include known good

theorem State.takeCmd_stale (stale : c.sgen ≠ (s.slice c.slice).gen.toNat) :
    s.takeCmd c = s.complete c stStaleGen (s.sliceWords c.slice) := by
  delta State.takeCmd
  simp [known, good, stale]

variable (fresh : c.sgen = (s.slice c.slice).gen.toNat)
include fresh

theorem State.takeCmd_unnumbered (far : c.toSelf = false) (noNumber : s.hubNum = none) : s.takeCmd c = s.complete c stWrongMode [] := by
  delta State.takeCmd
  simp [known, good, fresh, far, noNumber]

theorem State.takeCmd_noTarget (far : c.toSelf = false) (numbered : s.hubNum ≠ none)
    (out : s.noTarget c.target = true ∨ s.cutOff c = true) : s.takeCmd c = s.complete c (s.noTargetSt c) [] := by
  delta State.takeCmd
  simp [known, good, fresh, far, numbered, out]

/-- A command that passes checks 1 to 4 is turned away by its instant, or is among those pending (R380, R381). -/
theorem State.takeCmd_passed (there : c.toSelf = true ∨ s.hubNum ≠ none ∧ ¬ (s.noTarget c.target = true ∨ s.cutOff c = true)) :
    s.takeCmd c = match if s.isLocal c then s.launchInstant c else .ok 0 with
      | .error st => s.complete c st (s.ownWords c)
      | .ok t =>
        let p : Pend := { cmd := c, order := s.host.order, stage := .fence, launch := t, instant := t
                          inAddr := lay.inAddr, inLen := if c.indirect then lay.inLen else 0, outAddr := lay.outAddr }
        let u : State := { s with host := { s.host with pend := s.host.pend ++ [p], order := s.host.order + 1 } }
        if u.heldBack p then u else u.startPend p := by
  have numbered : ¬ ((!c.toSelf) = true ∧ s.hubNum.isNone = true) := by
    rcases there with here | ⟨there, -⟩ <;> simp [*]
  have reached : ¬ ((!c.toSelf) = true ∧ (s.noTarget c.target = true ∨ s.cutOff c = true)) := by
    rcases there with here | ⟨-, there⟩ <;> simp [*]
  delta State.takeCmd
  simp only [known, good, Bool.not_true, Bool.false_eq_true, if_false]
  rw [if_neg (not_not.2 fresh), if_neg numbered, if_neg reached] <;> rfl

end

theorem State.noTargetSt_notPresent (absent : c.opcode / 256 ≠ 3 ∨ s.isRoot = true ∧ (s.recOf c.target).state = rFree) :
    s.noTargetSt c = stNotPresent := by
  refine if_neg ?_
  rcases absent with other | ⟨root, free⟩ <;> simp [*]

theorem State.noTargetSt_linkLost (tree : c.opcode / 256 = 3) (known : s.isRoot = false ∨ (s.recOf c.target).state ≠ rFree) :
    s.noTargetSt c = stLinkLost := by
  refine if_pos ⟨tree, ?_⟩
  rcases known with other | used <;> simp [*]

end

/-- Settles O38 from the choice of slice and queue, and from the checks in their order. -/
theorem commandFetch : Obligations.commandFetch := by
  refine ⟨?fetch, ?take, ?choice⟩
  case fetch =>
    intro s k i ws slice queue
    dsimp only
    constructor
    all_goals
      refine congrArg Host.Outcome.next ?_
      simp only [effCommandFetch, slice, queue]
  case take =>
    intro s c
    dsimp only
    refine ⟨State.takeCmd_unknown, fun lay known => ?_⟩
    refine ⟨State.takeCmd_badLayout known, State.takeCmd_stale known, fun good fresh far noNumber => ?_,
      fun good fresh far numbered out => ⟨fun absent => ?_, fun tree there => ?_⟩, fun st good fresh there late => ?_,
      fun t good fresh there instant => ?_⟩
    · exact State.takeCmd_unnumbered known good (not_not.1 fresh) far noNumber
    · rw [State.takeCmd_noTarget known good (not_not.1 fresh) far numbered out, State.noTargetSt_notPresent absent]
    · rw [State.takeCmd_noTarget known good (not_not.1 fresh) far numbered out, State.noTargetSt_linkLost tree there]
    · rw [State.takeCmd_passed known good (not_not.1 fresh) there, late]
    · rw [State.takeCmd_passed known good (not_not.1 fresh) there, instant]
  case choice =>
    intro s k i slice queue
    obtain ⟨active, quota, tag⟩ := State.ready_of_mayFetch (State.mayFetch_of_pickSlice slice)
    exact ⟨active, quota, tag, State.pickQ_best queue⟩

end Sys2Proof.Machine
end

section
/-! The messages that carry commands between hubs (Chapter 12): what each transport row does with the entry it finds, and O39. -/

namespace Sys2Proof.Machine
open Sys2Proof

section
variable {s : State} {ws : List Word} {bytes : List Byte} {p : Pend} {h htag : Nat}

/-! ### Input that has been read and instants that have come (R376, R380, R384) -/

theorem exec_indirectInputReadDone_failed (core : s.coreOn = true)
    (found : s.host.pend.find? (fun p => decide (p.cmd.htag = htag ∧ p.stage = .input)) = some p) :
    exec (.indirectInputReadDone htag false bytes) s =
      .next (s.complete p.cmd stTargetError (if s.isLocal p.cmd = true then s.ownWords p.cmd else [])) := by
  refine congrArg Host.Outcome.next ?_
  simp only [effIndirectInputReadDone, found, core, Bool.not_true, Bool.not_false, Bool.false_eq_true, if_false, if_true]

theorem exec_indirectInputReadDone_read (core : s.coreOn = true)
    (found : s.host.pend.find? (fun p => decide (p.cmd.htag = htag ∧ p.stage = .input)) = some p) :
    exec (.indirectInputReadDone htag true bytes) s = .next
      (let q : Pend := { p with cmd := { p.cmd with data := bytes.take p.inLen } }
       if s.isLocal q.cmd = true then (s.setPend { q with stage := .ready }).kick
       else ((s.setPend { q with stage := .sent }).sendCommand q.cmd (bytes.take p.inLen)).kick) := by
  refine congrArg Host.Outcome.next ?_
  simp only [effIndirectInputReadDone, found, core, Bool.not_true, Bool.false_eq_true, if_false]

theorem exec_timedCommandDue_here (core : s.coreOn = true)
    (found : s.host.pend.find? (fun p => decide (p.cmd.htag = htag ∧ p.stage = .timed ∧ p.launch ≤ s.nowNs) &&
      s.noneBefore (4 * p.launch)) = some p) : exec (.timedCommandDue none htag) s = .next (s.startPend p) := by
  refine congrArg Host.Outcome.next ?_
  simp only [effTimedCommandDue, core, Bool.not_true, Bool.false_eq_true, if_false, found]

theorem exec_timedCommandDue_received (core : s.coreOn = true) :
    exec (.timedCommandDue (some h) htag) s =
    .next { s with host := { s.host with recv := s.host.recv.map fun r =>
      if r.cmd.hub = h ∧ r.cmd.htag = htag ∧ r.launch ≤ s.nowNs ∧ s.noneBefore (4 * r.launch) = true then { r with launch := 0 } else r } } := by
  refine congrArg Host.Outcome.next ?_
  simp [effTimedCommandDue, core, and_assoc]

/-! ### COMMAND and DATA (R374 to R376, R380, R381, R641) -/

/-- The root answers for a hub whose CTRL entry is CLOSED. -/
theorem exec_commandMessage_closed (core : s.coreOn = true) (root : s.isRoot = true) (other : (cmdOf ws).target ≠ 0)
    (closed : (s.entry ((cmdOf ws).target + 1)).state = gClosed) :
    exec (.commandMessage ws) s = .next (s.complete (cmdOf ws) stNotPresent []) := by
  refine congrArg Host.Outcome.next ?_
  simp [effCommandMessage, core, root, other, closed]

theorem exec_commandMessage_old (core : s.coreOn = true) (own : s.isRoot = false ∨ (cmdOf ws).target = 0)
    (old : resolveCompact s.nowNs (nthW ws 2) (nthW ws 3) + 40000000 < s.nowNs) : exec (.commandMessage ws) s = .next s := by
  have forThis : ¬ (s.isRoot = true ∧ (cmdOf ws).target ≠ 0) := by
    rcases own with other | target <;> simp [*]
  refine congrArg Host.Outcome.next ?_
  simp only [effCommandMessage]
  rw [if_neg (by simp [core]), if_neg forThis, if_pos (.inr (.inl old))]

/-- A COMMAND for this hub joins those received, and is answered at once where it brings all its input. -/
theorem exec_commandMessage_held {lay : Layout} {t : Nat} (core : s.coreOn = true) (num : s.hubNum = some (cmdOf ws).target)
    (own : s.isRoot = false ∨ (cmdOf ws).target = 0)
    (recent : s.nowNs ≤ resolveCompact s.nowNs (nthW ws 2) (nthW ws 3) + 40000000)
    (new : ∀ r ∈ s.host.recv, r.is (cmdOf ws) = false) (known : layoutOf (cmdOf ws) = some lay)
    (instant : s.launchInstant (cmdOf ws) = .ok t) :
    exec (.commandMessage ws) s = .next
      (let r : RecvCmd := { cmd := cmdOf ws, need := nthW ws 4, launch := if s.nowNs < t then t else 0, hold := decide (nthW ws 4 = 0)
                            order := s.host.order, instant := t }
       let u : State := { s with host := { s.host with recv := s.host.recv ++ [r], order := s.host.order + 1 } }
       if nthW ws 4 = 0 then u.sendReceived (cmdOf ws) else u) := by
  have forThis : ¬ (s.isRoot = true ∧ (cmdOf ws).target ≠ 0) := by
    rcases own with other | target <;> simp [*]
  have taken : ¬ (s.hubNum ≠ some (cmdOf ws).target ∨ resolveCompact s.nowNs (nthW ws 2) (nthW ws 3) + 40000000 < s.nowNs ∨
      (s.host.recv.any fun r => r.is (cmdOf ws)) = true) := by
    simp only [num, List.any_eq_true, not_or, not_exists, not_and]
    exact ⟨not_not.2 rfl, by omega, fun r mem => by simp [new r mem]⟩
  refine congrArg Host.Outcome.next ?_
  simp only [effCommandMessage]
  rw [if_neg (by simp [core]), if_neg forThis, if_neg taken]
  simp only [known, instant]

/-- Output of a command that this hub sent goes to the host's memory. -/
theorem exec_dataMessage_output {data : List Byte} (core : s.coreOn = true)
    (noInput : s.host.recv.find? (fun r => decide (r.cmd.hub = msgHub ws ∧ r.cmd.htag = msgTag ws ∧ r.need ≠ 0)) = none)
    (found : s.host.pend.find? (fun p => decide (p.cmd.htag = msgTag ws ∧ p.stage = .sent ∧ p.cmd.target = msgHub ws)) = some p)
    (fresh : p.stale = false) :
    exec (.dataMessage ws data) s = .next (s.emit (.hostWrite (s.slice p.cmd.slice).port (s.slice p.cmd.slice).pasid
      (p.outAddr + nthW ws 2) (data.take (nthW ws 3)))) := by
  refine congrArg Host.Outcome.next ?_
  simp only [effDataMessage, core, Bool.not_true, Bool.false_eq_true, if_false, noInput, found, fresh]

/-- Input of a command being received joins what it has, and the last of it makes the command complete. -/
theorem exec_dataMessage_input {data : List Byte} {r : RecvCmd} (core : s.coreOn = true)
    (found : s.host.recv.find? (fun r => decide (r.cmd.hub = msgHub ws ∧ r.cmd.htag = msgTag ws ∧ r.need ≠ 0)) = some r) :
    exec (.dataMessage ws data) s = .next
      (let all := r.data ++ data.take (nthW ws 3)
       let left := r.need - (data.take (nthW ws 3)).length
       let c := if left = 0 then { r.cmd with data := all } else r.cmd
       let u : State := { s with host := { s.host with recv := s.host.recv.map fun q =>
         if q = r then { r with cmd := c, data := all, need := left, hold := decide (left = 0) } else q } }
       if left = 0 then u.sendReceived c else u) := by
  refine congrArg Host.Outcome.next ?_
  simp only [effDataMessage, core, Bool.not_true, Bool.false_eq_true, if_false, found]

/-! ### RECEIVED, COMPLETION and EVENT (R376 to R378, R383, R384, R389, R390) -/

section
variable (core : s.coreOn = true) (noForms : s.answersForms (msgHub ws) (msgTag ws) = false)
  (noMove : s.answersMove (msgHub ws) (msgTag ws) = false) (noDestroy : s.destroying (msgHub ws) (some (msgTag ws)) = [])
include core noForms noMove noDestroy

theorem exec_receivedMessage_command :
    exec (.receivedMessage ws) s = .next
      (match s.answered ws with
       | none => s.countStale (msgSlice ws)
       | some p => if msgSgen ws ≠ (s.slice (msgSlice ws)).gen.toNat then s.countStale (msgSlice ws)
                   else s.setPend { p with received := true }) := by
  refine congrArg Host.Outcome.next ?_
  simp only [effReceivedMessage]
  rw [if_neg (by simp [core]), if_neg (by simp [noForms]), if_neg (by simp [noMove]), if_neg (not_not.2 noDestroy)] <;> rfl

theorem exec_completionMessage_unanswered (noEntry : s.answered ws = none) (ok : Bool) :
    exec (.completionMessage ws ok) s = .next (s.countStale (msgSlice ws)) := by
  refine congrArg Host.Outcome.next ?_
  simp only [effCompletionMessage]
  rw [if_neg (by simp [core]), if_neg (by simp [noForms]), if_neg (by simp [noMove]), if_neg (not_not.2 noDestroy)]
  simp only [noEntry]

theorem exec_completionMessage_stale (found : s.answered ws = some p) (stale : msgSgen ws ≠ (s.slice (msgSlice ws)).gen.toNat) (ok : Bool) :
    exec (.completionMessage ws ok) s = .next
      (if p.stale = true then ((s.countStale (msgSlice ws)).dropPend p.cmd).kick else s.countStale (msgSlice ws)) := by
  refine congrArg Host.Outcome.next ?_
  simp only [effCompletionMessage]
  rw [if_neg (by simp [core]), if_neg (by simp [noForms]), if_neg (by simp [noMove]), if_neg (not_not.2 noDestroy)]
  simp only [found, ne_eq, stale, not_false_eq_true, if_true]

/-- The record that a COMPLETION brings is written as the command's own, with TARGET_ERROR where its output failed. -/
theorem exec_completionMessage_fresh (found : s.answered ws = some p) (fresh : msgSgen ws = (s.slice (msgSlice ws)).gen.toNat) (ok : Bool) :
    exec (.completionMessage ws ok) s = .next
      (let bad := !ok && decide (nthW ws 2 ≠ 0)
       let r := Rec.ofDws ((ws.drop 4).take 8)
       let r' : Rec := { r with typ := 1, srcIndex := p.cmd.sq, tag := p.cmd.tag
                                status := if bad = true then stTargetError else r.status
                                ws := if bad = true ∧ 0x0B < p.cmd.opcode then [0, 0, 0, 0] else r.ws }
       (if r'.status = stOk ∧ p.cmd.noEvent = true then s.dropPend p.cmd
        else (s.dropPend p.cmd).postRec (msgSlice ws) true r').kick) := by
  refine congrArg Host.Outcome.next ?_
  simp only [effCompletionMessage]
  rw [if_neg (by simp [core]), if_neg (by simp [noForms]), if_neg (by simp [noMove]), if_neg (not_not.2 noDestroy)]
  simp only [found, ne_eq, fresh, not_true_eq_false, if_false]

end

theorem exec_eventMessage (core : s.coreOn = true) :
    exec (.eventMessage ws) s = .next
      (let r := Rec.ofDws ((ws.drop 4).take 8)
       let u := s.postRec (msgSlice ws) false r
       if msgSlice ws ≠ 0 then u
       else if r.typ = 2 then u.rateHeard r.srcHub (nthW r.ws 0)
       else if r.typ = 0x0D ∧ nthW r.ws 0 % 256 = 4 ∧ 0x40 ≤ r.srcIndex then u.closeSealed r.srcHub (r.srcIndex - 0x40) (0, 0)
       else u) := by
  refine congrArg Host.Outcome.next ?_
  exact if_neg (by simp [core])

end

/-- Settles O39: each row from what it does with the entry that its hypotheses name. -/
theorem transportRows : Obligations.transportRows := by
  refine ⟨?input, ?timedHere, ?timedReceived, ?command, ?closed, ?output, ?data, ?answers, ?repeats, ?event, ?silence⟩
  case input =>
    intro s htag p bytes core found
    refine ⟨fun here => ?_, fun far => ?_, fun here => ?_, fun far => ?_⟩
    · rw [exec_indirectInputReadDone_failed core found, if_pos here]
    · rw [exec_indirectInputReadDone_failed core found, if_neg (ne_true_of_eq_false far)]
    · exact (exec_indirectInputReadDone_read core found).trans (congrArg _ (if_pos here))
    · exact (exec_indirectInputReadDone_read core found).trans (congrArg _ (if_neg (ne_true_of_eq_false far)))
  case timedHere => exact fun s htag p core found => exec_timedCommandDue_here core found
  case timedReceived => exact fun s h htag core => exec_timedCommandDue_received core
  case command =>
    intro s ws lay t
    dsimp only
    intro core num own
    exact ⟨exec_commandMessage_old core own, fun recent new known instant => exec_commandMessage_held core num own recent new known instant⟩
  case closed => exact fun s ws core root other closed => exec_commandMessage_closed core root other closed
  case output => exact fun s ws data p core noInput found fresh => exec_dataMessage_output core noInput found fresh
  case data =>
    intro s ws data r core found
    refine ⟨fun more => ?_, fun last => ?_⟩ <;> rw [exec_dataMessage_input core found]
    · simp only [more, if_false, decide_false]
    · simp only [last, if_true, decide_true]
  case answers =>
    intro s ws core noForms noMove noDestroy
    have received := exec_receivedMessage_command core noForms noMove noDestroy
    refine ⟨fun noEntry => ?unanswered, fun p found stale => ?stale, fun p found fresh => ?fresh⟩
    case unanswered =>
      exact ⟨by rw [received, noEntry], exec_completionMessage_unanswered core noForms noMove noDestroy noEntry⟩
    case stale =>
      exact ⟨by simp only [received, found, ne_eq, stale, not_false_eq_true, if_true],
        exec_completionMessage_stale core noForms noMove noDestroy found stale⟩
    case fresh =>
      have completes := exec_completionMessage_fresh core noForms noMove noDestroy found fresh
      refine ⟨?_, fun ok quiet => ?_, fun recorded => ?_, fun output => ?_⟩
      · simp only [received, found, ne_eq, fresh, not_true_eq_false, if_false]
      · rw [completes]
        simp [ok, quiet]
      · have recorded : ¬ ((Rec.ofDws ((ws.drop 4).take 8)).status = stOk ∧ p.cmd.noEvent = true) := by
          rcases recorded with failed | event <;> simp [*]
        rw [completes]
        simp [recorded]
      · have failed : stTargetError ≠ stOk := by decide
        rw [completes]
        simp [output, failed]
  case repeats =>
    intro s hub htag sys r core found
    refine congrArg Host.Outcome.next ?_
    simp only [effReceivedRepeat, found, core, if_true]
  case event =>
    intro s ws core
    refine ⟨fun plain => ?_, fun zero rate => ?_, fun zero pairing sealed link => ?_⟩ <;> rw [exec_eventMessage core]
    · rcases plain with slice | ⟨noRate, noSeal⟩
      · simp only [ne_eq, slice, not_false_eq_true, if_true]
      · simp only [noRate, noSeal, if_false, ite_self]
    · simp [zero, rate]
    · simp [zero, pairing, sealed, link]
  case silence =>
    intro s hub htag p core noForms noDestroy found
    refine congrArg Host.Outcome.next ?_
    simp only [effRemoteCommandTimeout]
    rw [if_neg (by simp [core]), if_neg (by simp [noForms]), if_neg (not_not.2 noDestroy)]
    simp only [found]

end Sys2Proof.Machine
end

section
/-! Slices, grants and queues (Chapter 11): what their commands and timers do once their checks have passed, and O36 and O37. -/

namespace Sys2Proof.Machine
open Sys2Proof

/-! ### The checks that the commands naming a slice share (R343, R345, R366) -/

/-- The command may be given for the slice it names: by slice 0, by the slice itself where `own`, by the holder of its takeover where
`taker` (R366). -/
abbrev State.maySlice (u : State) (c : Cmd) (own taker : Bool) : Prop :=
  u.authZ c = true ∨ own = true ∧ c.here = true ∧ c.sys = false ∧ c.slice = c.f 4 5 0 ∨ taker = true ∧ u.mayUse c 0xB (c.f 4 5 0) = true

/-- It is moreover for the slice's generation, and the slice is not FREE. -/
abbrev State.forSlice (u : State) (c : Cmd) (own taker : Bool) : Prop :=
  u.maySlice c own taker ∧ genOk (c.b 4 24) (c.f 4 23 16) (u.slice (c.f 4 5 0)).gen = true ∧ (u.slice (c.f 4 5 0)).state ≠ 0

section
variable {u : State} {c : Cmd} {own taker gen deny0 : Bool} {body : State → Nat → State}

theorem State.maySlice_eq (may : u.maySlice c own taker) :
    (u.authZ c || (own && c.here && !c.sys && decide (c.slice = c.f 4 5 0)) || (taker && u.mayUse c 0xB (c.f 4 5 0))) = true := by
  rcases may with auth | ⟨rfl, here, sys, slice⟩ | ⟨rfl, use⟩
  · simp [auth]
  · simp [here, sys, ← slice]
  · simp [use]

theorem State.sliceCmd_other (may : u.forSlice c own taker) (named : deny0 = true → c.f 4 5 0 ≠ 0) :
    u.sliceCmd c own taker gen deny0 body = body u (c.f 4 5 0) := by
  obtain ⟨may, fresh, used⟩ := may
  rw [State.sliceCmd, if_neg (by simp only [State.maySlice_eq may]; decide), if_neg (fun zero => named zero.1 zero.2),
    if_neg (by simp [fresh]), if_neg used]

theorem State.sliceCmd_runs (may : u.forSlice c own taker) : u.sliceCmd c own taker gen false body = body u (c.f 4 5 0) :=
  State.sliceCmd_other may nofun

/-- Slice 0 is turned away before its generation is looked at (R343). -/
theorem State.sliceCmd_zero (may : u.maySlice c own taker) (zero : c.f 4 5 0 = 0) :
    u.sliceCmd c own taker gen true body = u.doneSlice c (c.f 4 5 0) stDenied := by
  rw [State.sliceCmd, if_neg (by simp only [State.maySlice_eq may]; decide), if_pos ⟨rfl, zero⟩]

theorem drainBad_of_le (range : c.w 5 ≤ 10000) : ¬ drainBad c = true := by simp [drainBad, range]

end

/-! ### A completion does not touch the moves that wait (R365) -/

section
variable (s : State)

@[simp] theorem State.emit_moveQ (o : Out) : (s.emit o).host.moveQ = s.host.moveQ := rfl
@[simp] theorem State.setSlice_moveQ (k : Nat) (x : Slice) : (s.setSlice k x).host.moveQ = s.host.moveQ := rfl
@[simp] theorem State.modSlice_moveQ (k : Nat) (f : Slice → Slice) : (s.modSlice k f).host.moveQ = s.host.moveQ := rfl
@[simp] theorem State.setPend_moveQ (p : Pend) : (s.setPend p).host.moveQ = s.host.moveQ := rfl

@[simp] theorem State.setHport_moveQ (p : Nat) (h : HPort) : (s.setHport p h).host.moveQ = s.host.moveQ := by
  unfold State.setHport
  split <;> rfl

@[simp] theorem State.sendInt_moveQ (k : Nat) : (s.sendInt k).host.moveQ = s.host.moveQ := by
  unfold State.sendInt
  dsimp only
  split
  · rfl
  · split <;> simp

@[simp] theorem State.writeRec_moveQ (k : Nat) (r : Rec) : (s.writeRec k r).host.moveQ = s.host.moveQ := by
  simp only [State.writeRec, apply_ite (fun t : State => t.host.moveQ), State.sendInt_moveQ, State.setSlice_moveQ, State.emit_moveQ,
    ite_self]

@[simp] theorem State.postRec_moveQ (k : Nat) (completion : Bool) (r : Rec) : (s.postRec k completion r).host.moveQ = s.host.moveQ := by
  simp only [State.postRec, apply_ite (fun t : State => t.host.moveQ), State.setSlice_moveQ, State.writeRec_moveQ, ite_self]

@[simp] theorem State.report_moveQ (h k typ status idx : Nat) (ws : List Word) :
    (s.report h k typ status idx ws).host.moveQ = s.host.moveQ := by
  simp only [State.report, apply_ite (fun t : State => t.host.moveQ), State.postRec_moveQ, State.emit_moveQ, ite_self]

@[simp] theorem State.imgEvent_moveQ (reason status slot value : Nat) : (s.imgEvent reason status slot value).host.moveQ = s.host.moveQ := by
  simp only [State.imgEvent, State.reportBoth, State.reportMgmt, apply_ite (fun t : State => t.host.moveQ), State.report_moveQ, ite_self]

@[simp] theorem State.sendData_moveQ (h slice htag off : Nat) (pieces : List (List Byte)) :
    (s.sendData h slice htag off pieces).host.moveQ = s.host.moveQ := by
  induction pieces generalizing s off with
  | nil => rfl
  | cons c r ih => rw [State.sendData, ih, State.emit_moveQ]

@[simp] theorem State.sendCommand_moveQ (c : Cmd) (data : List Byte) : (s.sendCommand c data).host.moveQ = s.host.moveQ := by
  simp only [State.sendCommand, apply_ite (fun t : State => t.host.moveQ), State.sendData_moveQ, State.emit_moveQ, ite_self]

@[simp] theorem State.startPend_moveQ (p : Pend) : (s.startPend p).host.moveQ = s.host.moveQ := by
  simp only [State.startPend, apply_ite (fun t : State => t.host.moveQ), State.setPend_moveQ, State.emit_moveQ, State.sendCommand_moveQ,
    ite_self]

@[simp] theorem State.kick_moveQ : s.kick.host.moveQ = s.host.moveQ := by
  unfold State.kick
  generalize s.host.pend = ps
  induction ps generalizing s with
  | nil => rfl
  | cons p ps ih =>
    rw [List.foldl_cons, ih]
    split <;> simp

@[simp] theorem State.dropPend_moveQ (c : Cmd) : (s.dropPend c).host.moveQ = s.host.moveQ := by
  unfold State.dropPend
  split <;> rfl

@[simp] theorem State.complete_moveQ (c : Cmd) (st : Nat) (ws : List Word) : (s.complete c st ws).host.moveQ = s.host.moveQ := by
  simp only [State.complete, apply_ite (fun t : State => t.host.moveQ), State.imgEvent_moveQ, State.emit_moveQ, State.dropPend_moveQ,
    State.kick_moveQ, State.modSlice_moveQ, State.postRec_moveQ, ite_self]

/-- Where no restore waits, the next step of the moves is none. -/
theorem State.moveNext_idle (noneWaits : s.host.moveQ = []) (n : Nat) : s.moveNext n = s := by
  cases n with
  | zero => rfl
  | succ n =>
    unfold State.moveNext
    split
    next waits => exact absurd (waits.symm.trans noneWaits) (List.cons_ne_nil _ _)
    next => rfl

/-- With no move under way the first restore that waits is taken up. -/
theorem State.moveNext_first {s : State} {q : Cmd × Nat × List (List Word)} {rest : List (Cmd × Nat × List (List Word))}
    (idle : s.host.moveOp = none) (first : s.host.moveQ = q :: rest) (n : Nat) :
    s.moveNext (n + 1) = (State.restoreBlob { s with host := { s.host with moveQ := rest } } q.1 q.2.1 q.2.2).moveNext n := by
  simp only [State.moveNext, idle, first]

/-- Where a move is under way the restores wait (R365). -/
theorem State.moveGoOn_busy (busy : s.host.moveOp ≠ none) : s.moveGoOn = s := by
  unfold State.moveGoOn State.moveNext
  split
  next idle _ => exact absurd idle busy
  next => rfl

end

section
variable {u : State} {c : Cmd}

/-- A restore that arrives with no move under way and none before it is taken up at once; here it ends with a status. -/
theorem State.moveGoOn_alone {far st : Nat} {recs : List (List Word)} (idle : u.host.moveOp = none) (noneWaits : u.host.moveQ = [])
    (ends : u.restoreBlob c far recs = u.doneSlice c (c.f 4 5 0) st) :
    State.moveGoOn { u with host := { u.host with moveQ := u.host.moveQ ++ [(c, far, recs)] } } = u.doneSlice c (c.f 4 5 0) st := by
  let v : State := { u with host := { u.host with moveQ := u.host.moveQ ++ [(c, far, recs)] } }
  have first : v.host.moveQ = [(c, far, recs)] := by simp [v, noneWaits]
  have taken : ({ v with host := { v.host with moveQ := [] } } : State) = u := by rw [← noneWaits]
  calc v.moveGoOn = (State.restoreBlob { v with host := { v.host with moveQ := [] } } c far recs).moveNext 1 := by
        rw [State.moveGoOn, first]
        exact State.moveNext_first (s := v) idle first 1
    _ = (u.doneSlice c (c.f 4 5 0) st).moveNext 1 := by rw [taken, ends]
    _ = u.doneSlice c (c.f 4 5 0) st := State.moveNext_idle _ (by simp [State.doneSlice, noneWaits]) 1

theorem State.restoreBlob_badHeader {far : Nat} {recs : List (List Word)} (free : (u.slice (c.f 4 5 0)).state = 0)
    (bad : fromLe (c.data.take 4) ≠ 0x534C4231) : u.restoreBlob c far recs = u.doneSlice c (c.f 4 5 0) stBadParam := by
  simp only [State.restoreBlob]
  rw [if_neg (not_not.2 free), if_pos (.inr (.inl bad))]

theorem State.restoreBlob_badCrc {far : Nat} {recs : List (List Word)} (free : (u.slice (c.f 4 5 0)).state = 0) (whole : c.data.length = 512)
    (magic : fromLe (c.data.take 4) = 0x534C4231) (version : fromLe ((c.data.drop 4).take 2) = 1)
    (size : fromLe ((c.data.drop 6).take 2) = 0x200)
    (bad : fromLe ((c.data.drop 0x1FC).take 4) ≠ (crc32 (c.data.take 0x1FC)).toNat) :
    u.restoreBlob c far recs = u.doneSlice c (c.f 4 5 0) stIntegrity := by
  simp only [State.restoreBlob]
  rw [if_neg (not_not.2 free), if_neg (by simp [whole, magic, version, size]), if_pos bad]

/-- A holder without engines at work and without grants to revoke has nothing to give up. -/
theorem State.stripHolder_nothing {h k : Nat} (idle : ∀ e < 32, (u.engine e).st = .idle ∨ u.engOwner e ≠ (h, k))
    (revoked : ∀ g ∈ u.host.grants, g.hub = h ∧ g.slice = k → g.revoking = true) : u.stripHolder h k = u := by
  have noEngine : (List.range 32).filter (fun e => decide ((u.engine e).st ≠ .idle ∧ u.engOwner e = (h, k))) = [] := by
    refine List.filter_eq_nil_iff.2 fun e mem => ?_
    rcases idle e (List.mem_range.1 mem) with rest | other <;> simp [*]
  have noGrant : u.host.grants.filter (fun g => decide (g.hub = h ∧ g.slice = k) && !g.revoking) = [] := by
    refine List.filter_eq_nil_iff.2 fun g mem => ?_
    by_cases his : g.hub = h ∧ g.slice = k
    · simp [his, revoked g mem his]
    · simp [his]
  simp only [State.stripHolder, noEngine, List.foldl_nil, noGrant]

end

/-- Settles O36: every command from the shared checks of its slice, then from its own in their order. -/
theorem sliceCommands : Obligations.sliceCommands := by
  intro c
  dsimp only
  refine ⟨?create, ?reset, ?freezes, ?freezeWaits, ?frozen, ?thaws, ?thawNoQueue, ?saves, ?saveZero, ?destroy, ?restore⟩
  case create =>
    refine Completes.of (fun _ => rfl) ?_
    rintro u ⟨auth, free, port, some, most, own⟩
    refine (if_neg (by simp [auth])).trans ((if_neg (not_not.2 free)).trans ((if_neg (by simp [port])).trans (if_neg ?_)))
    simp only [own, Bool.false_eq_true, or_false]
    omega
  case reset => exact Completes.of (fun _ => rfl) fun u given => State.sliceCmd_runs given
  case freezes =>
    refine Completes.of (fun _ => rfl) ?_
    rintro u ⟨given, range, active, drained⟩
    refine (State.sliceCmd_runs given).trans ?_
    exact (if_neg (drainBad_of_le range)).trans ((if_neg (not_not.2 active)).trans (if_neg (ne_true_of_eq_false drained)))
  case freezeWaits =>
    refine Completes.of (fun _ => rfl) ?_
    rintro u ⟨given, range, active, left⟩
    refine (State.sliceCmd_runs given).trans ?_
    exact (if_neg (drainBad_of_le range)).trans ((if_neg (not_not.2 active)).trans (if_pos left))
  case frozen =>
    refine Completes.of (fun _ => rfl) ?_
    rintro u ⟨given, range, inactive⟩
    refine (State.sliceCmd_runs given).trans ?_
    exact (if_neg (drainBad_of_le range)).trans (if_pos inactive)
  case thaws =>
    refine Completes.of (fun _ => rfl) ?_
    rintro u ⟨given, inactive, queue⟩
    refine (State.sliceCmd_runs given).trans ?_
    exact (if_neg (by simp [queue])).trans (if_neg inactive)
  case thawNoQueue =>
    refine Completes.of (fun _ => rfl) ?_
    rintro u ⟨given, queue⟩
    refine (State.sliceCmd_runs given).trans ?_
    exact if_pos (by simp [queue])
  case saves =>
    refine Completes.of (fun _ => rfl) ?_
    rintro u ⟨given, other, frozen, aligned, quiet, root⟩
    refine (State.sliceCmd_other given fun _ => other).trans ?_
    refine (if_neg (not_not.2 frozen)).trans ((if_neg (not_not.2 aligned)).trans ((if_neg (not_not.2 quiet)).trans ?_))
    have rootStill : u.drew.isRoot = true := root
    simp only [rootStill, if_true]
    rfl
  case saveZero =>
    refine Completes.of (fun _ => rfl) ?_
    rintro u ⟨given, zero⟩
    exact State.sliceCmd_zero given zero
  case destroy =>
    intro far
    refine ⟨Completes.of (fun _ => rfl) ?_, Completes.of (fun _ => rfl) ?_, Completes.of (fun _ => rfl) ?_, Completes.of (fun _ => rfl) ?_⟩
    · rintro u ⟨host, given, zero⟩
      exact (if_neg (ne_true_of_eq_false host)).trans (State.sliceCmd_zero given zero)
    · rintro u ⟨host, given, other, range, fresh, notRoot, idle, revoked⟩
      refine (if_neg (ne_true_of_eq_false host)).trans ((State.sliceCmd_other given fun _ => other).trans ?_)
      refine (if_neg (drainBad_of_le range)).trans ((if_neg (by simp [fresh])).trans ?_)
      have reason : ((!u.isRoot) = true ∧ (far = stTimeout ∨ far = stLinkLost)) ↔ (far = stTimeout ∨ far = stLinkLost) := by simp [notRoot]
      have notRootStill (f : Slice → Slice) : (u.modSlice (c.f 4 5 0) f).isRoot = false := notRoot
      simp only [reason, notRootStill, Bool.false_eq_true, if_false]
      exact congrArg (State.endDestroy · _) (State.stripHolder_nothing idle revoked)
    · rintro u ⟨host, given, other, range, fresh, root⟩
      refine (if_neg (ne_true_of_eq_false host)).trans ((State.sliceCmd_other given fun _ => other).trans ?_)
      refine (if_neg (drainBad_of_le range)).trans ((if_neg (by simp [fresh])).trans ?_)
      have rootStill (f : Slice → Slice) : (u.modSlice (c.f 4 5 0) f).isRoot = true := root
      simp only [root, rootStill, Bool.not_true, Bool.false_eq_true, false_and, if_false, if_true]
      rfl
    · exact fun u sys => if_pos sys
  case restore =>
    intro far recs
    refine ⟨Completes.of (fun _ => rfl) ?_, Completes.of (fun _ => rfl) ?_, Completes.of (fun _ => rfl) ?_, Completes.of (fun _ => rfl) ?_,
      Completes.of (fun _ => rfl) ?_⟩
    · rintro u ⟨host, given, noBlob, held, port, own⟩
      refine (if_neg (ne_true_of_eq_false host)).trans ((if_neg (ne_true_of_eq_false noBlob)).trans ((State.sliceCmd_runs given).trans ?_))
      exact (if_neg (Nat.not_lt.2 held)).trans ((if_neg (by simp [port])).trans (if_neg (ne_true_of_eq_false own)))
    · rintro u ⟨host, blob, use, free, idle, noneWaits, bad⟩
      refine (if_neg (ne_true_of_eq_false host)).trans ((if_pos blob).trans ((if_neg (by simp [use])).trans ?_))
      exact State.moveGoOn_alone idle noneWaits (State.restoreBlob_badHeader free bad)
    · rintro u ⟨host, blob, use, free, idle, noneWaits, whole, magic, version, size, bad⟩
      refine (if_neg (ne_true_of_eq_false host)).trans ((if_pos blob).trans ((if_neg (by simp [use])).trans ?_))
      exact State.moveGoOn_alone idle noneWaits (State.restoreBlob_badCrc free whole magic version size bad)
    · rintro u ⟨host, blob, use, busy⟩
      refine (if_neg (ne_true_of_eq_false host)).trans ((if_pos blob).trans ((if_neg (by simp [use])).trans ?_))
      exact State.moveGoOn_busy _ busy
    · exact fun u sys => if_pos sys

/-! ### Grants, revokes and queues (R347 to R355, R366) -/

section
variable {u : State} {c : Cmd}

/-- SLICE_GRANT and SLICE_REVOKE run from slice 0, for a holder here that is not FREE. -/
theorem State.grantCmd_runs {body : State → State} (auth : u.authZ c = true)
    (used : u.hubNum = some (c.f 4 28 24) → (u.slice (c.f 4 17 12)).state ≠ 0) : u.grantCmd c body = body u := by
  rw [State.grantCmd, if_neg (by simp [auth]), if_neg fun free => used free.1 free.2]

/-- The commands of a slice's queues, whoever of those that may gives them. -/
theorem State.forSlice_all
    (given : (u.authZ c = true ∨ c.here = true ∧ c.sys = false ∧ c.slice = c.f 4 5 0 ∨ u.mayUse c 0xB (c.f 4 5 0) = true) ∧
      genOk (c.b 4 24) (c.f 4 23 16) (u.slice (c.f 4 5 0)).gen = true ∧ (u.slice (c.f 4 5 0)).state ≠ 0) : u.forSlice c true true := by
  obtain ⟨may, fresh, used⟩ := given
  exact ⟨may.imp_right (Or.imp (fun own => ⟨rfl, own⟩) (fun use => ⟨rfl, use⟩)), fresh, used⟩

end

/-- Settles O37: the commands from their shared checks, the timers from what they find. -/
theorem grantAndQueueRows : Obligations.grantAndQueueRows := by
  refine ⟨?grants, ?begins, ?revokeEnd, ?freezeEnd, ?cookie, ?move, ?queues, ?power⟩
  case grants =>
    intro c
    dsimp only
    refine ⟨Completes.of (fun _ => rfl) ?_, Completes.of (fun _ => rfl) ?_, Completes.of (fun _ => rfl) ?_, fun g => Completes.of (fun _ => rfl) ?_,
      Completes.of (fun _ => rfl) ?_⟩
    · rintro u ⟨⟨auth, used⟩, free, other⟩
      refine (State.grantCmd_runs auth used).trans ?_
      simp only [free, List.any_nil, Bool.false_eq_true, if_false, List.length_nil, ne_eq, not_true_eq_false, and_false, or_self, other]
      exact if_neg (by omega)
    · rintro u ⟨⟨auth, used⟩, oneHolder, held, others⟩
      refine (State.grantCmd_runs auth used).trans ((if_neg ?_).trans ((if_neg fun link => oneHolder link.1).trans (if_pos (.inl ⟨oneHolder, held⟩))))
      simp only [List.any_eq_true, Bool.and_eq_true, decide_eq_true_eq]
      rintro ⟨g, mem, mine, -⟩
      exact others g mem mine
    · rintro u ⟨⟨auth, used⟩, link, full, others⟩
      refine (State.grantCmd_runs auth used).trans ((if_neg ?_).trans (if_pos ⟨link, full⟩))
      simp only [List.any_eq_true, Bool.and_eq_true, decide_eq_true_eq]
      rintro ⟨g, mem, mine, -⟩
      exact others g mem mine
    · rintro u ⟨⟨auth, used⟩, range, stays, found⟩
      refine (State.grantCmd_runs auth used).trans ((if_neg (drainBad_of_le range)).trans ?_)
      simp only [found, stays, Bool.false_eq_true, if_false]
    · rintro u ⟨⟨auth, used⟩, range, others⟩
      refine (State.grantCmd_runs auth used).trans ((if_neg (drainBad_of_le range)).trans ?_)
      have noGrant : u.host.grants.find? (fun g =>
          decide (g.kind = c.f 4 11 8 ∧ g.index = c.f 4 7 0 ∧ g.hub = c.f 4 28 24 ∧ g.slice = c.f 4 17 12)) = none :=
        List.find?_eq_none.2 fun g mem => by simpa using others g mem
      simp only [noGrant]
      rfl
  case begins => exact fun s g safe cmd => ⟨fun done => if_pos done, fun waits => if_neg (ne_true_of_eq_false waits)⟩
  case revokeEnd =>
    intro s kind idx hub slice r found
    refine congrArg Host.Outcome.next ?_
    simp only [effRevokeDrainEnd, found]
  case freezeEnd =>
    intro s k c waits
    refine congrArg Host.Outcome.next ?_
    simp only [effFreezeDrainEnd, waits]
  case cookie => exact fun s k saved => congrArg _ (if_pos saved)
  case move =>
    intro s o moving
    have late : exec .sliceMoveTimeout s = .next (s.moveLate o) := by
      refine congrArg Host.Outcome.next ?_
      simp only [effSliceMoveTimeout, moving]
    have answered : (decide (o.waiting ≠ []) && o.waiting.all o.got.contains) = true ↔ o.waiting ≠ [] ∧ ∀ h ∈ o.waiting, h ∈ o.got := by
      simp
    simp only [Bool.and_eq_true, decide_eq_true_eq] at answered
    refine ⟨fun decided => late.trans (congrArg _ (if_pos decided)), fun open' all => ?_, fun open' notAll => ?_⟩
    · refine late.trans (congrArg _ ((if_neg (ne_true_of_eq_false open')).trans ?_))
      rw [if_pos (answered.2 all)]
    · refine late.trans (congrArg _ ((if_neg (ne_true_of_eq_false open')).trans ?_))
      rw [if_neg (mt answered.1 notAll)]
  case queues =>
    intro c
    dsimp only
    refine ⟨Completes.of (fun _ => rfl) ?_, Completes.of (fun _ => rfl) ?_, Completes.of (fun _ => rfl) ?_, Completes.of (fun _ => rfl) ?_⟩
    · rintro u ⟨given, off, size, aligned⟩
      refine (State.sliceCmd_runs (State.forSlice_all given)).trans ?_
      refine (if_neg (ne_true_of_eq_false off)).trans (if_neg ?_)
      simp [size, aligned]
    · rintro u ⟨given, off, bad⟩
      refine (State.sliceCmd_runs (State.forSlice_all given)).trans ?_
      refine (if_neg (ne_true_of_eq_false off)).trans (if_pos ?_)
      simpa [imp_iff_not_or] using bad
    · exact fun u given => State.sliceCmd_runs (State.forSlice_all given)
    · rintro u ⟨given, size, aligned⟩
      refine (State.sliceCmd_runs (State.forSlice_all given)).trans ?_
      refine if_neg ?_
      simp [size, aligned]
  case power =>
    intro s port mps mrrs up d0 memEn pasidEn funcMask used core
    refine congrArg Host.Outcome.next ?_
    rw [effHostPortPowerState, if_neg (by simp [used, core])]

end Sys2Proof.Machine
end

section
/-! Display heads (Chapter 13): the records of heads, what a frame's start and end, a line and the panel timer do, and O40. -/

namespace Sys2Proof.Machine
open Sys2Proof

/-! ### The record of a head -/

section
variable {s : State} {i : Nat}

@[simp] theorem State.setHead_head (s : State) (i : Nat) (h : Head) : (s.setHead i h).head i = h := by
  by_cases first : i = 0 <;> simp [State.setHead, State.head, first]

@[simp] theorem State.modHead_head (s : State) (i : Nat) (f : Head → Head) : (s.modHead i f).head i = f (s.head i) :=
  s.setHead_head i _

/-- A report does not touch the heads. -/
@[simp] theorem State.dispAlert_head (s : State) (i reason status cause region v1 v2 j : Nat) :
    (s.dispAlert i reason status cause region v1 v2).head j = s.head j := by
  have only := @State.dispAlert_only
  simp [State.head, only]

/-- Entry to UNDERCOAT, whatever its cause (R414). -/
theorem State.toUndercoat_head (s : State) (i cause : Nat) :
    (s.toUndercoat i cause).head i = { s.head i with
      st := hdUndercoat, clean := 0, toUc := 0, switches := satAdd 16 (s.head i).switches 1 } := by
  simp [State.toUndercoat]

/-! ### The end of a frame (R414, R415) -/

/-- Underruns of the frame that ends: none count in a frame in which time stepped. -/
def Head.endUnder (h : Head) : Nat := if h.stepFrame = true then 0 else h.curUnder

/-- Clean frames in a row after the frame that ends. -/
def Head.endClean (h : Head) : Nat :=
  if h.stepFrame = true then h.clean
  else if h.loss = false ∧ h.acc.isSome = true ∧ h.curUnder = 0 then min 255 (h.clean + 1) else 0

/-- What the end of a frame makes of a head before it switches into or out of UNDERCOAT, with the count of underruns reported where
`rep`. -/
def Head.counted (h : Head) (up : Nat) (rep : Bool) : Head :=
  { h with under := min 255 h.endUnder, frameCnt := (h.frameCnt + 1) % 2 ^ 32, curUnder := 0,
           prevUnder := if rep then 0 else h.prevUnder + h.endUnder, maxUnder := if rep then 0 else max h.maxUnder h.endUnder,
           underRep := if rep then up + 1 else h.underRep,
           clean := if h.st ≠ hdUndercoat ∨ h.forced then 0 else h.endClean }

/-- The end of a frame: its counts, then the first cause that switches the head, if any. -/
theorem State.endFrame_head (s : State) (i : Nat) : ∃ rep,
    let h := s.head i
    let h1 := h.counted s.uptime rep
    let under : Head := { h1 with st := hdUndercoat, clean := 0, toUc := 0, switches := satAdd 16 h1.switches 1 }
    (s.endFrame i).head i =
      if h.st = hdLive then
        if h.forced = true ∨ h.toUc ≠ 0 ∨ h.uc.underrunMax ≤ h.endUnder ∨ h.loss = true then under else h1
      else if h.st = hdUndercoat ∧ h.forced = false ∧ (if h.firstReturn = true then 1 else h.uc.returnFrames) ≤ h1.clean then
        { h1 with st := hdLive, firstReturn := false, clean := 0, toUc := 0 }
      else h1 := by
  refine ⟨decide (0 < (s.head i).prevUnder + (s.head i).endUnder) && s.passed (s.head i).underRep 400000000, ?_⟩
  have clean : (!(s.head i).loss && (s.head i).acc.isSome && decide ((s.head i).curUnder = 0)) = true ↔
      (s.head i).loss = false ∧ (s.head i).acc.isSome = true ∧ (s.head i).curUnder = 0 := by simp [and_assoc]
  simp only [State.endFrame, clean, apply_ite (fun t : State => t.head i), State.toUndercoat_head, State.dispAlert_head, State.modHead_head,
    State.setHead_head, Bool.not_eq_true', ite_or, Head.counted, Head.endUnder, Head.endClean]
  rfl

end

/-! ### The start of a frame and of a line (R401, R410, R418 to R420) -/

section
variable {s : State} {i l : Nat} {pins : Option LinePins}

theorem exec_lineStart_notDue (notDue : s.lineDue i l = false) : exec (.lineStart i l pins) s = .next s :=
  congrArg _ (if_pos (.inr (.inr (by simp [notDue]))))

theorem State.lineDue_iff : s.lineDue i l = true ↔ (s.head i).nextLine ≤ l ∧ l < (s.headTiming i).vtotal ∧ (s.head i).stepFrame = false ∧
    (s.headTiming i).lineNs (s.head i).k l ≤ (s.nowNs : Int) := by
  simp only [State.lineDue, Bool.and_eq_true, decide_eq_true_eq, Bool.not_eq_true', and_assoc]

/-- The state a frame starts from: the frame that ends is judged and closed, and region settings that are due are taken. -/
def State.frameEnded (s : State) (i : Nat) : State :=
  let a := ((List.range 8).foldl (fun (s : State) k => s.evalRegion i k) s).endFrame i
  a.modHead i fun h => h.applyRegions a.nowNs

/-- The frame under way starts with the FRAME message accepted for it (R401, R404, R409, R410, R413). -/
def State.frameBegun (s d : State) (i : Nat) : State :=
  let h := d.head i
  let acc := h.accNext.filter fun a => decide (a.start = s.nextFrameNs i)
  (d.setHead i { h with
    k := (s.nextFrame i).2, begun := h.begun + 1, lineNo := 0, nextLine := 0, acc := acc, accNext := none, stepFrame := false
    loss := acc.isNone || !d.tunOpen (d.exitTid (0x300 + i))
    rows := h.rows.filter fun r => decide (r.1 = h.begun + 1)
    lvds := h.lvds || decide (h.seq = 2)
    bl := h.bl || decide (h.seq = 4)
    seq := if h.seq = 2 then 3 else if h.seq = 4 then 0 else h.seq
    seqAt := if h.seq = 2 then d.uptime + 1 else h.seqAt }).startCapture i

theorem exec_frameStart_due (present : s.headPresent i = true) (on : (s.head i).st ≠ hdOff) (due : s.nextFrameNs i ≤ s.nowNs) :
    exec (.frameStart i) s = .next (s.frameBegun
      (match ((s.frameEnded i).head i).fpend with
       | some f => if f.skip then (s.frameEnded i).modHead i fun h => { h with fpend := some { f with skip := false } }
                   else (s.frameEnded i).applyF i f
       | none => s.frameEnded i) i) := by
  have accepted (o : Option FrameRec) (n : Nat) : (match o with
      | some a => if a.start = n then some a else none
      | none => none) = o.filter fun a => decide (a.start = n) := by
    cases o <;> simp [Option.filter]
  have runs : ¬ ((!s.headPresent i) = true ∨ (s.head i).st = hdOff ∨ s.nowNs < s.nextFrameNs i) := by
    simp only [present, Bool.not_true, Bool.false_eq_true, on, false_or]
    omega
  refine congrArg Host.Outcome.next ((if_neg runs).trans ?_)
  simp only [State.frameBegun, ← accepted]
  rfl

end

/-- Settles O40: the frame's end from `State.endFrame_head`, the rows from what they do once due. -/
theorem displayFrames : Obligations.displayFrames := by
  refine ⟨?early, ?starts, ?ends, ?lineEarly, ?line, ?panel⟩
  case early => exact fun s i early => congrArg _ (if_pos (.inr (.inr early)))
  case starts =>
    intro s i present on due
    have run := exec_frameStart_due present on due
    refine ⟨fun noCommit => ?_, fun f commit now => ?_, fun f commit late => ?_⟩
    · have noCommit : ((s.frameEnded i).head i).fpend = none := noCommit
      rw [run, noCommit]
      rfl
    · have commit : ((s.frameEnded i).head i).fpend = some f := commit
      simp only [run, commit, now, Bool.false_eq_true, if_false]
      rfl
    · have commit : ((s.frameEnded i).head i).fpend = some f := commit
      simp only [run, commit, late, if_true]
      rfl
  case ends =>
    intro s i
    obtain ⟨rep, ended⟩ := s.endFrame_head i
    have notLive : hdUndercoat ≠ hdLive := by decide
    dsimp only
    refine ⟨fun live cause => ?_, fun live noForce noSwitch few noLoss => ?_, fun under noForce enough => ?_, fun under forced => ?_,
      fun under noForce few => ?_⟩
    · have cause : (s.head i).forced = true ∨ (s.head i).toUc ≠ 0 ∨ (s.head i).uc.underrunMax ≤ (s.head i).endUnder ∨
          (s.head i).loss = true := cause
      rw [ended, if_pos live, if_pos cause]
    · have few : (s.head i).endUnder < (s.head i).uc.underrunMax := few
      have stays : ¬ ((s.head i).forced = true ∨ (s.head i).toUc ≠ 0 ∨ (s.head i).uc.underrunMax ≤ (s.head i).endUnder ∨
          (s.head i).loss = true) := by
        simp only [noForce, noSwitch, noLoss, Bool.false_eq_true, ne_eq, not_true_eq_false, false_or, or_false]
        omega
      rw [ended, if_pos live, if_neg stays]
      exact live
    · have enough : (if (s.head i).firstReturn = true then 1 else (s.head i).uc.returnFrames) ≤ (s.head i).endClean := enough
      rw [ended, if_neg (by simp [under, notLive]), if_pos ⟨under, noForce, by simpa [Head.counted, under, noForce] using enough⟩]
    · rw [ended, if_neg (by simp [under, notLive]), if_neg (by simp [forced])]
      simp [Head.counted, under, forced]
    · have few : (s.head i).endClean < (if (s.head i).firstReturn = true then 1 else (s.head i).uc.returnFrames) := few
      rw [ended, if_neg (by simp [under, notLive]), if_neg (by simpa [Head.counted, under, noForce] using few)]
      simp only [Head.counted, under, noForce, ne_eq, not_true_eq_false, Bool.false_eq_true, or_self, if_false, true_and]
      rfl
  case lineEarly =>
    intro s i l pins early
    refine exec_lineStart_notDue (Bool.eq_false_iff.2 fun due => ?_)
    obtain ⟨next, total, noStep, instant⟩ := State.lineDue_iff.1 due
    rcases early with early | early | early | early
    · omega
    · omega
    · simp [noStep] at early
    · omega
  case line =>
    intro s i l pins present on total next noStep instant
    have due : ¬ ((!s.headPresent i) = true ∨ (s.head i).st = hdOff ∨ (!s.lineDue i l) = true) := by
      simp [present, on, State.lineDue_iff.2 ⟨next, total, noStep, instant⟩]
    refine ⟨fun blank => ?_, fun visible => ?_⟩
    · exact congrArg _ ((if_neg due).trans (if_pos blank))
    · exact congrArg _ ((if_neg due).trans (if_neg (Nat.not_le.2 visible)))
  case panel =>
    intro s i
    have runs : exec (.panelSequenceTimer i) s = .next (effPanelSequenceTimer i s) := rfl
    dsimp only
    refine ⟨fun seq early => ?_, fun seq early => ?_, fun seq due => ?_, fun seq due => ?_, fun seq due => ?_, fun seq due => ?_⟩
    · rw [runs, effPanelSequenceTimer, State.panelMs, if_pos seq, if_pos (by simp [early])]
    · have lit : ¬ ((s.head i).seq = 1 ∨ (s.head i).seq = 6) := by omega
      rw [runs, effPanelSequenceTimer, State.panelMs, if_neg lit, if_pos (by simp [early])]
    all_goals simp [runs, effPanelSequenceTimer, State.panelMs, seq, due]

end Sys2Proof.Machine
end

section
/-! Pixel transport and the DISP_ commands (Chapter 13): what each row does past its checks, and O41 and O42. -/

namespace Sys2Proof.Machine
open Sys2Proof

/-! ### FRAME and row messages at planes and heads (R406, R409, R417) -/

section
variable {s : State} {tid : Nat} {ws : List Word} {bytes : List Byte} {more : Bool} {f : FrameRec}

theorem exec_frameMessage_plane (plane : epBlock (s.gaz tid).dstEp = 4) :
    exec (.frameMessage tid ws) s = .next
      (let i := epIndex (s.gaz tid).dstEp
       let f := frameOf 0 0 ws
       if f.fmt ≠ 0 ∨ (!bit (nthW ws 0) 16) = true then (s.setPlane i { s.plane i with load := none }).rejectFrame (s.planeHead i) tid 4
       else s.setPlane i { s.plane i with width := f.width, height := f.height, load := some f }) :=
  congrArg _ (if_pos plane)

/-- A FRAME message at a head that is on: its start, its format and its size are judged in that order. -/
theorem exec_frameMessage_head (head : epBlock (s.gaz tid).dstEp = 3) (present : s.headPresent (epIndex (s.gaz tid).dstEp) = true)
    (on : (s.head (epIndex (s.gaz tid).dstEp)).st ≠ hdOff) :
    exec (.frameMessage tid ws) s = .next
      (let i := epIndex (s.gaz tid).dstEp
       let h := s.head i
       let t := (s.nextFrame i).1
       let start := s.nextFrameNs i
       let f := frameOf (h.begun + 1) start ws
       if nthW ws 3 ≠ (compactNs start).toNat ∨ nthW ws 4 ≠ (compactSec start).toNat ∨ bit (nthW ws 0) 16 = true then s.rejectHead i tid 1
       else if 4 ≤ f.fmt then s.rejectHead i tid 3
       else if t.hactive < f.xoff + f.width ∨ t.vactive < f.yoff + f.height then s.rejectHead i tid 2
       else s.setHead i { h with accNext := some f, inForce := true }) := by
  have notPlane : epBlock (s.gaz tid).dstEp ≠ 4 := by omega
  exact congrArg _ ((if_neg notPlane).trans (if_neg (by simp [head, present, on])))

theorem exec_rowMessage_plane (plane : epBlock (s.gaz tid).dstEp = 4) (load : (s.plane (epIndex (s.gaz tid).dstEp)).load = some f)
    (room : f.rows < f.height) :
    exec (.rowMessage tid bytes more) s = .next
      (let p := s.plane (epIndex (s.gaz tid).dstEp)
       let b := f.got ++ bytes
       s.setPlane (epIndex (s.gaz tid).dstEp) { p with
         px := if (!more) = true ∧ b.length = f.width * 3 then
             (List.range f.width).foldl (fun px x => px.write 0 (f.rows * f.width + x) (fromLe ((b.drop (3 * x)).take 3))) p.px
           else p.px
         load := some (f.step bytes more) }) := by
  refine congrArg Host.Outcome.next ?_
  simp only [effRowMessage, plane, if_true, load]
  exact if_neg (Nat.not_le.2 room)

/-- What a head buffers of a row: nothing of one whose line has begun, the bytes so far where they fit, else the others only. -/
theorem Head.bufferRow_cases {h : Head} {rows : List (Nat × Nat × List Byte)} :
    let l := f.yoff + f.rows
    let b := f.got ++ bytes
    let others := h.rows.filter fun r => decide (¬ (r.1 = f.k ∧ r.2.1 = l))
    let late := f.height ≤ f.rows ∨ f.k = h.begun ∧ l ≤ h.lineNo
    let kept := (b.length = f.width * fmtBytes f.fmt ∨ more = true ∧ b.length < f.width * fmtBytes f.fmt) ∧ others.length < 8
    (late ∧ rows = h.rows ∨ ¬ late ∧ (kept ∧ rows = others ++ [(f.k, l, b)] ∨ ¬ kept ∧ rows = others)) → h.bufferRow f bytes more = rows := by
  intro l b others late kept given
  have fits : (f.rowBytes < b.length ∨ ((!more) = true ∧ b.length ≠ f.rowBytes) ∨ 8 ≤ others.length) ↔ ¬ kept := by
    cases more <;> simp only [kept, FrameRec.rowBytes, Bool.not_true, Bool.not_false, Bool.false_eq_true, true_and, false_and,
      false_or, or_false] <;> omega
  rcases given with ⟨begun, rfl⟩ | ⟨ahead, ⟨keeps, rfl⟩ | ⟨drops, rfl⟩⟩
  · exact if_pos begun
  · exact (if_neg ahead).trans (if_neg (mt fits.1 (not_not.2 keeps)))
  · exact (if_neg ahead).trans (if_pos (fits.2 drops))

section
variable (head : epBlock (s.gaz tid).dstEp = 3) (present : s.headPresent (epIndex (s.gaz tid).dstEp) = true)
  (on : (s.head (epIndex (s.gaz tid).dstEp)).st ≠ hdOff) (force : (s.head (epIndex (s.gaz tid).dstEp)).inForce = true)
include head present on force

theorem exec_rowMessage_next (next : (s.head (epIndex (s.gaz tid).dstEp)).accNext = some f) :
    exec (.rowMessage tid bytes more) s = .next
      (let i := epIndex (s.gaz tid).dstEp
       s.setHead i { s.head i with rows := (s.head i).bufferRow f bytes more, accNext := some (f.step bytes more) }) := by
  refine congrArg Host.Outcome.next ?_
  simp only [effRowMessage]
  rw [if_neg (by omega), if_neg (by simp [head, present, on, force])]
  simp only [next]

theorem exec_rowMessage_current (noNext : (s.head (epIndex (s.gaz tid).dstEp)).accNext = none)
    (current : (s.head (epIndex (s.gaz tid).dstEp)).acc = some f) :
    exec (.rowMessage tid bytes more) s = .next
      (let i := epIndex (s.gaz tid).dstEp
       s.setHead i { s.head i with rows := (s.head i).bufferRow f bytes more, acc := some (f.step bytes more) }) := by
  refine congrArg Host.Outcome.next ?_
  simp only [effRowMessage]
  rw [if_neg (by omega), if_neg (by simp [head, present, on, force])]
  simp only [noNext, current]

end

/-! ### Rows of the frame under way (R410, R411) -/

section
variable {h : Head} {a : FrameRec} {bs : List Byte} {l x : Nat}

theorem Head.inRows_of (acc : h.acc = some a) (noLoss : h.loss = false) (low : a.yoff ≤ l) (high : l < a.yoff + a.height) :
    h.inRows l = true := by
  simp [Head.inRows, acc, noLoss, low, high]

theorem Head.planePixel_noRow (noRow : h.rowFor l = none) : h.planePixel l x = h.line.bg := by
  cases acc : h.acc <;> simp only [Head.planePixel, acc, noRow]

theorem Head.planePixel_row (acc : h.acc = some a) (row : h.rowFor l = some bs) (inRows : h.inRows l = true) :
    h.planePixel l x = if a.xoff ≤ x ∧ x < a.xoff + a.width ∧ (x - a.xoff + 1) * fmtBytes a.fmt ≤ bs.length then
        pixel24 h.line.clut a.fmt (bs.drop ((x - a.xoff) * fmtBytes a.fmt))
      else h.line.bg := by
  simp only [Head.planePixel, acc, row, inRows, true_and]

end

/-! ### The pairs of LVDS (R402, R403, Table 13.2) -/

theorem State.lvdsOn_iff {i : Nat} {linkB : Bool} :
    s.lvdsOn i linkB = true ↔ (s.head i).lvds = true ∧ (linkB = true → (s.headTiming i).dual = true) := by
  cases linkB <;> simp [State.lvdsOn]

/-- Within the active area DE is active and the syncs are not. -/
theorem State.lvdsPair_active {i n pair : Nat} {linkB : Bool} (on : s.lvdsOn i linkB = true) (data : pair ≠ 4)
    (column : (s.headTiming i).linkPixel linkB n < (s.headTiming i).hactive) (line : (s.head i).lineNo < (s.headTiming i).vactive) :
    s.lvdsPair i linkB pair n = lvdsData (s.headTiming i).jeida (s.headTiming i).bpp18
      ((s.head i).shown.getD ((s.headTiming i).linkPixel linkB n) 0) (!(s.headTiming i).hspol) (!(s.headTiming i).vspol) true pair := by
  have noHs : ¬ (s.headTiming i).hactive + (s.headTiming i).hfp ≤ (s.headTiming i).linkPixel linkB n := by omega
  have noVs : ¬ (s.headTiming i).vactive + (s.headTiming i).vfp ≤ (s.head i).lineNo := by omega
  simp only [State.lvdsPair, on, Bool.not_true, Bool.false_eq_true, if_false, data, column, line, noHs, noVs, false_and, and_self,
    decide_false, decide_true, if_true, Bool.false_beq]

/-! ### What a source sends (R406 to R408) -/

theorem exec_sourceFrameSend_due {k : Nat} (due : s.frameDue (s.source tid) ((s.source tid).pend.getD (s.source tid).cfg) k = true) :
    exec (.sourceFrameSend tid k) s = .next
      (let u := s.applySrc tid
       let x := u.source tid
       let c := x.cfg
       let start := c.frameBase + k * 1000000000 / c.rate
       let ws : List Word := [ pack [fld 28 c.fmt, fld 16 (b2n c.oneshot), x.frameSeq], pack [fld 16 c.height, c.width],
         pack [fld 16 c.yoff, c.xoff], if c.oneshot = true then 0 else compactNs start,
         if c.oneshot = true then 0 else compactSec start, 0, 0, 0 ]
       if (!u.srcSends tid) = true ∨ c.oneshot = true ∧ x.oneDone = true then u.setSource tid { x with sending := false }
       else (u.setSource tid { x with
         frameSeq := (x.frameSeq + 1) % 65536, sending := true, row := 0, k := k, abandoned := false, fetching := false
         sentAt := u.uptime + 1, gen := (u.gaz tid).gen }).sendTunnel tid false (bytesOf ws)) :=
  congrArg _ (if_neg (by simp [due]))

theorem State.frameLives_iff : s.frameLives tid = true ↔ s.srcSends tid = true ∧ (s.source tid).gen = (s.gaz tid).gen := by
  simp [State.frameLives]

section
variable (sending : (s.source tid).sending = true) (going : (s.source tid).abandoned = false)
  (more' : (s.source tid).row < (s.source tid).cfg.height)
include sending going more'

theorem exec_sourceRowSend_ready (free : (s.source tid).fetching = false) :
    exec (.sourceRowSend tid) s = .next
      (let x := s.source tid
       if (!s.frameLives tid) = true then s.setSource tid { x with sending := false }
       else if (!s.rowDue x) = true then s
       else match epSlice (s.gaz tid).srcEp with
         | some k =>
           (s.setSource tid { x with fetching := true }).emit (.hostRead (s.slice k).port (s.slice k).pasid
             (x.cfg.base + x.row * x.cfg.stride) (x.cfg.width * fmtBytes x.cfg.fmt) (s.rowUrgent x))
         | none => s) := by
  have ready : ¬ ((!(s.source tid).sending) = true ∨ (s.source tid).abandoned = true ∨ (s.source tid).fetching = true ∨
      (s.source tid).cfg.height ≤ (s.source tid).row) := by
    simp only [sending, going, free, Bool.not_true, Bool.false_eq_true, false_or]
    omega
  exact congrArg _ (if_neg ready)

theorem exec_rowFetchDone_fetched {ok : Bool} (fetching : (s.source tid).fetching = true) :
    exec (.rowFetchDone tid ok bytes) s = .next
      (let x := s.source tid
       if (!s.frameLives tid) = true then s.setSource tid { x with sending := false, fetching := false }
       else if (!ok) = true then
         (s.setSource tid { x with
           abandoned := true, sending := false, fetching := false, readErrs := satAdd 32 x.readErrs 1
           oneDone := x.oneDone || x.cfg.oneshot }).srcAlert tid 7 stTargetError 0 x.row
       else
         let u := s.rowUrgent x
         let done := decide (x.row + 1 = x.cfg.height)
         (s.setSource tid { x with
           row := x.row + 1, urgentRows := satAdd 32 x.urgentRows (b2n u), sending := !done, fetching := false
           oneDone := x.oneDone || (done && x.cfg.oneshot) }).offerAll tid u true (rowChunks bytes)) := by
  have ready : ¬ ((!(s.source tid).sending) = true ∨ (s.source tid).abandoned = true ∨ (!(s.source tid).fetching) = true ∨
      (s.source tid).cfg.height ≤ (s.source tid).row) := by
    simp only [sending, going, fetching, Bool.not_true, Bool.false_eq_true, false_or]
    omega
  exact congrArg _ (if_neg ready)

end

end

/-- Settles O41: the messages from what heads and planes make of them, the sources from what they send once due. -/
theorem displayPixels : Obligations.displayPixels := by
  refine ⟨?framePlane, ?frameHead, ?rowPlane, ?rowHead, ?pixels, ?pairs, ?due, ?sends, ?fetches, ?fetched⟩
  case framePlane =>
    intro s tid ws plane
    refine ⟨fun oneshot => ?_, fun other => ?_⟩
    · exact (exec_frameMessage_plane plane).trans (congrArg _ (if_neg (by simp [oneshot])))
    · exact (exec_frameMessage_plane plane).trans (congrArg _ (if_pos (other.imp_right (by simp))))
  case frameHead =>
    intro s tid ws head
    dsimp only
    intro present on
    have run := exec_frameMessage_head (ws := ws) head present on
    refine ⟨fun early => ?_, fun onTime format => ?_, fun onTime format size => ?_, fun onTime format wide high => ?_⟩
    · refine run.trans (congrArg _ (if_pos ?_))
      by_contra timely
      simp only [not_or, not_not, Bool.not_eq_true] at timely
      exact early timely
    · obtain ⟨ns, sec, paced⟩ := onTime
      exact run.trans (congrArg _ ((if_neg (by simp only [not_or, not_not, Bool.not_eq_true]; exact ⟨ns, sec, paced⟩)).trans (if_pos format)))
    · obtain ⟨ns, sec, paced⟩ := onTime
      exact run.trans (congrArg _ ((if_neg (by simp only [not_or, not_not, Bool.not_eq_true]; exact ⟨ns, sec, paced⟩)).trans
        ((if_neg (Nat.not_le.2 format)).trans (if_pos size))))
    · obtain ⟨ns, sec, paced⟩ := onTime
      exact run.trans (congrArg _ ((if_neg (by simp only [not_or, not_not, Bool.not_eq_true]; exact ⟨ns, sec, paced⟩)).trans
        ((if_neg (Nat.not_le.2 format)).trans (if_neg (not_or.2 ⟨Nat.not_lt.2 wide, Nat.not_lt.2 high⟩)))))
  case rowPlane =>
    intro s tid bytes f plane
    dsimp only
    intro load room
    refine ⟨?_, fun whole => ?_, fun misshapen => ?_⟩ <;> rw [exec_rowMessage_plane plane load room]
    · simp [FrameRec.step, FrameRec.rowSoFar]
    · simp only [whole, Bool.not_false, and_self, if_true, FrameRec.step, Bool.false_eq_true, if_false]
    · simp only [misshapen, and_false, if_false, FrameRec.step, Bool.false_eq_true]
  case rowHead =>
    intro s tid bytes more f rows head
    dsimp only
    intro present on force given
    have buffered := Head.bufferRow_cases (f := f) (bytes := bytes) (more := more) given
    refine ⟨fun next => ?_, fun noNext current => ?_⟩
    · simp only [exec_rowMessage_next head present on force next, buffered]
      rfl
    · simp only [exec_rowMessage_current head present on force noNext current, buffered]
      rfl
  case pixels =>
    intro h a bs l x acc noLoss low high
    have inRows := Head.inRows_of acc noLoss low high
    refine ⟨fun noRow => ⟨?_, Head.planePixel_noRow noRow⟩, fun row => ?_, fun row left right held => ?_, fun row outside => ?_⟩
    · simp only [Head.underrunAt, inRows, acc, noRow, Bool.and_self]
    · simp only [Head.underrunAt, inRows, acc, row, Bool.true_and]
      rfl
    · rw [Head.planePixel_row acc row inRows, if_pos ⟨left, right, held⟩]
    · rw [Head.planePixel_row acc row inRows, if_neg (by omega)]
  case pairs =>
    intro s i n linkB
    dsimp only
    have column : (s.headTiming i).linkPixel linkB n =
        if (s.headTiming i).dual = true then (if linkB = true then 2 * n + 1 else 2 * n) else n := by
      cases linkB <;> rfl
    refine ⟨fun off pair => ?_, fun on => ?_, fun on narrow => ?_, fun on inLine inFrame => ?_⟩
    · exact if_pos (by simpa using mt State.lvdsOn_iff.1 off)
    · exact (if_neg (by simp [State.lvdsOn_iff.2 on])).trans (if_pos rfl)
    · refine (if_neg (by simp [State.lvdsOn_iff.2 on])).trans ((if_neg (by decide)).trans ?_)
      simp only [lvdsData, narrow, if_true]
    · rw [← column] at inLine ⊢
      have active (pair : Nat) (data : pair ≠ 4) := State.lvdsPair_active (State.lvdsOn_iff.2 on) data inLine inFrame
      refine ⟨fun mapping => ?_, fun jeida wide => ?_, fun vesa wide => ?_⟩
      · have offset : ((s.headTiming i).jeida || (s.headTiming i).bpp18) = true := by simpa using mapping
        rw [active 0 (by decide), active 1 (by decide), active 2 (by decide)]
        simp only [lvdsData, offset, if_true, Nat.reduceAdd, and_self]
      · rw [active 3 (by decide)]
        simp only [lvdsData, jeida, wide, Bool.false_eq_true, if_false, if_true, Nat.reduceAdd, Nat.add_zero]
      · rw [active 0 (by decide), active 1 (by decide), active 2 (by decide), active 3 (by decide)]
        simp only [lvdsData, vesa, wide, Bool.or_self, Bool.false_eq_true, if_false, Nat.reduceAdd, Nat.add_zero, and_self]
  case due =>
    intro s tid k
    refine ⟨fun oneshot => ?_, fun paced => ?_, fun notDue => congrArg _ (if_pos (by simp [notDue]))⟩
    · rw [State.frameDue, if_pos oneshot]
      simp
    · rw [State.frameDue, if_neg (ne_true_of_eq_false paced)]
      simp only [Bool.and_eq_true, decide_eq_true_eq, and_assoc]
  case sends =>
    intro s tid k due
    have run := exec_sourceFrameSend_due due
    refine ⟨fun sends paced => ?_, fun sends oneshot notDone => ?_, fun stops => ?_⟩
    · refine run.trans (congrArg _ ((if_neg (by simp [sends, paced])).trans ?_))
      simp only [paced, Bool.false_eq_true, if_false]
    · refine run.trans (congrArg _ ((if_neg (by simp [sends, notDone])).trans ?_))
      simp only [oneshot, if_true]
    · exact run.trans (congrArg _ (if_pos (stops.imp_left (by simp))))
  case fetches =>
    intro s tid k
    dsimp only
    intro sending going free more
    have run := exec_sourceRowSend_ready sending going more free
    have due : s.rowDue (s.source tid) = true ↔ (s.source tid).cfg.oneshot = true ∨
        linesFrom (s.source tid).cfg.frameBase (s.source tid).cfg.rate (s.source tid).cfg.vtotal (s.source tid).k
          (((s.source tid).cfg.yoff : Int) + (s.source tid).row - 7) ≤ (s.nowNs : Int) := by
      rw [State.rowDue, Bool.or_eq_true, decide_eq_true_iff]
      rfl
    refine ⟨fun ends => ?_, fun lives early => ?_, fun lives now slice => ?_⟩
    · exact run.trans (congrArg _ (if_pos (by simpa using mt State.frameLives_iff.1 ends)))
    · exact run.trans (congrArg _ ((if_neg (by simp [State.frameLives_iff.2 lives])).trans (if_pos (by simpa using mt due.1 early))))
    · refine run.trans (congrArg _ ((if_neg (by simp [State.frameLives_iff.2 lives])).trans ((if_neg (by simp [due.2 now])).trans ?_)))
      simp only [slice]
  case fetched =>
    intro s tid bytes
    dsimp only
    intro sending going fetching more
    refine ⟨fun ok ends => ?_, fun lives => ?_, fun lives => ?_⟩
    · exact (exec_rowFetchDone_fetched sending going more fetching).trans
        (congrArg _ (if_pos (by simpa using mt State.frameLives_iff.1 ends)))
    · exact (exec_rowFetchDone_fetched sending going more fetching).trans
        (congrArg _ ((if_neg (by simp [State.frameLives_iff.2 lives])).trans (if_pos rfl)))
    · exact (exec_rowFetchDone_fetched sending going more fetching).trans
        (congrArg _ ((if_neg (by simp [State.frameLives_iff.2 lives])).trans (if_neg Bool.false_ne_true)))

/-! ### The DISP_ commands (R412, R418 to R433) -/

section
variable {u : State} {c : Cmd} {i : Nat}

theorem State.headCmd_runs {body : Nat → State} (may : u.mayUse c 5 (c.f 4 0 0) = true) (present : u.headPresent (c.f 4 0 0) = true) :
    u.headCmd c body = body (c.f 4 0 0) := by
  simp [State.headCmd, may, present]

theorem State.srcCmd_runs {body : State} {tid gen : Nat} {any : Bool}
    (may : (u.authZ c = true ∨ u.ownsTun c tid = true) ∧ genOk any gen (u.gaz tid).gen = true ∧ (u.gaz tid).state ≠ gClosed ∧
      (u.gaz tid).cls = clsDisp ∧ (u.gaz tid).ingress = 7 ∧ (epSlice (u.gaz tid).srcEp).isSome = true) :
    u.srcCmd c tid gen any body = body := by
  obtain ⟨auth, fresh, opened, cls, ingress, slice⟩ := may
  have auth : (u.authZ c || u.ownsTun c tid) = true := by simpa using auth
  have held : (epSlice (u.gaz tid).srcEp).isNone = false := by
    cases ep : epSlice (u.gaz tid).srcEp with
    | none => simp [ep] at slice
    | some k => rfl
  simp only [State.srcCmd, auth, fresh, opened, cls, ingress, held]
  simp

end

/-- The plane that a command names is the head's own, or one that its slice may use (R426). -/
theorem same_or_used {plane own : Nat} {use : Bool} (may : plane = own ∨ use = true) : ¬ (plane ≠ own ∧ (!use) = true) := by
  rintro ⟨other, denied⟩
  rcases may with same | use
  · exact other same
  · simp [use] at denied

/-- Settles O42: each command from the checks of heads and sources, then from its own in their order. -/
theorem displayCommands : Obligations.displayCommands := by
  refine ⟨?staged, ?others⟩
  case staged =>
    dsimp only
    intro c
    refine ⟨fun fb => ?timing, ?timingBad, fun fb => ?plane, ?planeBad, ?overlay, ?background, ?clut, ?clutBad, ?headCommit, ?srcWaits,
      ?srcApplies⟩ <;> refine Completes.of (fun _ => rfl) ?_
    case timing =>
      rintro u ⟨⟨may, present⟩, instant, good⟩
      refine (State.headCmd_runs may present).trans ?_
      simp only [instant, good, Bool.not_true, Bool.false_eq_true, if_false]
    case timingBad =>
      rintro u ⟨⟨may, present⟩, bad⟩
      refine (State.headCmd_runs may present).trans ?_
      cases instant : u.compactField c 9 with
      | none => rfl
      | some fb => simp only [bad fb instant, Bool.not_false, if_true]
    case plane =>
      rintro u ⟨may, instant, fits⟩
      refine (State.srcCmd_runs may).trans ?_
      simp only [instant]
      exact if_neg (by omega)
    case planeBad =>
      rintro u ⟨may, bad⟩
      refine (State.srcCmd_runs may).trans ?_
      cases instant : u.compactField c 10 with
      | none => rfl
      | some fb =>
        have bad := bad.resolve_left (by simp [instant])
        exact if_pos (by dsimp only; omega)
    case overlay =>
      rintro u ⟨⟨may, present⟩, form⟩
      exact (State.headCmd_runs may present).trans (if_pos form)
    case background =>
      rintro u ⟨⟨may, present⟩, form⟩
      exact (State.headCmd_runs may present).trans ((if_neg (by omega)).trans (if_pos form))
    case clut =>
      rintro u ⟨⟨may, present⟩, form, some, most, inside⟩
      exact (State.headCmd_runs may present).trans ((if_neg (by omega)).trans ((if_neg (by omega)).trans (if_neg (by omega))))
    case clutBad =>
      rintro u ⟨⟨may, present⟩, form, bad⟩
      exact (State.headCmd_runs may present).trans ((if_neg (by omega)).trans ((if_neg (by omega)).trans (if_pos bad)))
    case headCommit =>
      rintro u ⟨⟨may, present⟩, head⟩
      exact (if_neg (ne_true_of_eq_false head)).trans (State.headCmd_runs may present)
    case srcWaits =>
      rintro u ⟨may, source, sending⟩
      exact (if_pos source).trans ((State.srcCmd_runs may).trans (if_pos sending))
    case srcApplies =>
      rintro u ⟨may, source, idle⟩
      exact (if_pos source).trans ((State.srcCmd_runs may).trans (if_neg (ne_true_of_eq_false idle)))
  case others =>
    intro c
    dsimp only
    refine ⟨?plane, ?planeBad, ?undercoat, ?undercoatBad, ?undercoatBusy, ?region, ?regionBad, ?headQuery, ?regionQuery, ?srcQuery⟩ <;>
      refine Completes.of (fun _ => rfl) ?_
    case plane =>
      rintro u ⟨form, may, size⟩
      exact (if_pos form).trans ((if_neg (by simp [may])).trans (if_neg (Nat.not_lt.2 size)))
    case planeBad =>
      rintro u ⟨form, may, size⟩
      exact (if_pos form).trans ((if_neg (by simp [may])).trans (if_pos size))
    case undercoat =>
      rintro u ⟨⟨form, ⟨may, present⟩, plane⟩, max, frames, free⟩
      refine (if_neg (by omega)).trans ((State.headCmd_runs may present).trans ((if_neg (same_or_used plane)).trans
        ((if_neg (by dsimp only; omega)).trans (if_neg ?_))))
      rintro ⟨capture, busy⟩
      rcases free with off | free
      · exact Bool.false_ne_true (off.symm.trans capture)
      · exact Bool.false_ne_true (free.symm.trans busy)
    case undercoatBad =>
      rintro u ⟨⟨form, ⟨may, present⟩, plane⟩, bad⟩
      refine (if_neg (by omega)).trans ((State.headCmd_runs may present).trans ((if_neg (same_or_used plane)).trans (if_pos bad)))
    case undercoatBusy =>
      rintro u ⟨⟨form, ⟨may, present⟩, plane⟩, max, frames, busy⟩
      refine (if_neg (by omega)).trans ((State.headCmd_runs may present).trans ((if_neg (same_or_used plane)).trans
        ((if_neg (by dsimp only; omega)).trans (if_pos busy))))
    case region =>
      rintro u ⟨⟨may, present⟩, n, w, h⟩
      exact (State.headCmd_runs may present).trans (if_neg (by dsimp only; omega))
    case regionBad =>
      rintro u ⟨⟨may, present⟩, bad⟩
      exact (State.headCmd_runs may present).trans (if_pos bad)
    case headQuery =>
      rintro u ⟨form, present⟩
      exact (if_neg (by omega)).trans ((if_neg (by simp [present])).trans (if_pos form))
    case regionQuery =>
      rintro u ⟨form, present⟩
      exact (if_neg (by omega)).trans ((if_neg (by simp [present])).trans (if_neg (by omega)))
    case srcQuery =>
      rintro u ⟨form, opened, cls, ingress, slice⟩
      exact (if_pos form).trans ((if_neg opened).trans (if_neg (by simp [cls, ingress, Option.isSome_iff_ne_none.1 slice])))

end Sys2Proof.Machine
end

section

/-! ## The hub's answers to tokens and requests -/

namespace Sys2Proof.Machine

open Sys2Proof

section Served

variable {s : State} {t : UsbTok} {raw : List Byte} {loc near : Nat → State}

/-- A token for an enabled local DFP is repeated on its bus. -/
theorem State.serve_local (att : s.usb.attached = true) (awake : s.usb.suspended = false) (one : 1 ≤ s.tokPort t)
    (four : s.tokPort t ≤ 4) (enabled : (s.uport (s.tokPort t)).st = upEnabled) (own : (s.uport (s.tokPort t)).far = none) :
    s.serve t raw loc near = (loc (s.tokPort t)).emit (.usbBus (s.tokPort t) 6 raw) := by
  simp only [State.serve]
  rw [if_neg (by simp [att, awake, enabled]; omega), if_pos four, if_neg (by simp [own])]

/-- A token for an enabled virtual port with a mapping is served by its proxy. -/
theorem State.serve_near (att : s.usb.attached = true) (awake : s.usb.suspended = false) (five : 5 ≤ s.tokPort t)
    (enabled : (s.uport (s.tokPort t)).st = upEnabled) (mapped : (s.uport (s.tokPort t)).mapped ≠ none) :
    s.serve t raw loc near = near (s.tokPort t) := by
  simp only [State.serve]
  rw [if_neg (by simp [att, awake, enabled]; omega), if_neg (by omega), if_pos (Option.isSome_iff_ne_none.mpr mapped)]

end Served

/-- A split transaction is periodic when it is isochronous or an interrupt. -/
theorem splitPeriodic_iff {t : UsbTok} : splitPeriodic t = true ↔ t.split ≠ none ∧ (t.typ = 1 ∨ t.typ = 3) := by
  simp [splitPeriodic, Option.isSome_iff_ne_none]

section Near

variable {s : State} {t : UsbTok} (att : s.usb.attached = true) (awake : s.usb.suspended = false) (five : 5 ≤ s.tokPort t)
  (enabled : (s.uport (s.tokPort t)).st = upEnabled) (mapped : (s.uport (s.tokPort t)).mapped ≠ none)
include att awake five enabled mapped

/-- The proxy of a virtual port takes OUT data by its kind. -/
theorem effUsbOutToken_near {pid : Nat} {bytes : List Byte} :
    effUsbOutToken t pid bytes s =
      let x : Pipe := { (s.uport (s.tokPort t)).pipe (pipeKey t.addr t.ep t.typ false) with
        typ := t.typ, fsls := t.split.isSome }
      let k := pipeKey t.addr t.ep t.typ false
      if splitPeriodic t then s.outSplit t (s.tokPort t) k pid bytes x
      else if t.typ = 1 then s.periodicOut t (s.tokPort t) k pid bytes x
      else s.pipeGate t (s.tokPort t) k (s.outData t (s.tokPort t) k pid bytes x) := by
  unfold effUsbOutToken
  exact State.serve_near att awake five enabled mapped

/-- The proxy of a virtual port answers an IN token by its kind. -/
theorem effUsbInToken_near {acked : Bool} :
    effUsbInToken t acked s =
      let k := pipeKey t.addr t.ep t.typ true
      if splitPeriodic t then s.inSplit t (s.tokPort t) k
      else if t.typ = 1 then s.inIso t (s.tokPort t) k
      else s.pipeGate t (s.tokPort t) k (s.inData t (s.tokPort t) k acked) := by
  unfold effUsbInToken
  exact State.serve_near att awake five enabled mapped

end Near

/-! ### The gate and the status stage -/

section Gate

variable {s ask : State} {t : UsbTok} {p k : Nat} {body : State}

theorem State.usbLate_iff : s.usbLate t = true ↔ t.late = true ∨ s.recovers [1, 0x0C] = true := Bool.or_eq_true_iff

theorem State.pipeGate_late (late : s.usbLate t = true) :
    s.pipeGate t p k body = (s.usbCount 0 3 1).emit (.usbHost t.addr t.ep ansNak []) := if_pos late

theorem State.pipeGate_failed (timely : s.usbLate t = false) (failed : ((s.uport p).pipe k).noAns = true) :
    s.pipeGate t p k body =
      (s.setPipe p k { (s.uport p).pipe k with noAns := false }).emit (.usbHost t.addr t.ep ansNone []) :=
  (if_neg (by simp [timely])).trans (if_pos failed)

theorem State.pipeGate_halted (timely : s.usbLate t = false) (sound : ((s.uport p).pipe k).noAns = false)
    (halted : ((s.uport p).pipe k).halted = true) : s.pipeGate t p k body = s.emit (.usbHost t.addr t.ep ansStall []) :=
  (if_neg (by simp [timely])).trans ((if_neg (by simp [sound])).trans (if_pos halted))

theorem State.pipeGate_open (timely : s.usbLate t = false) (sound : ((s.uport p).pipe k).noAns = false)
    (running : ((s.uport p).pipe k).halted = false) : s.pipeGate t p k body = body :=
  (if_neg (by simp [timely])).trans ((if_neg (by simp [sound])).trans (if_neg (by simp [running])))

/-- The status stage once the device's answer is there. -/
theorem State.ctrlStatus_some {acked : Bool} {v : Nat} (status : ((s.uport p).pipe k).status = some v) :
    s.ctrlStatus t p k acked ask =
      (if acked = true then (s.setPipe p k { (s.uport p).pipe k with status := none, setup := [] }).statusDone p t.addr
          ((s.uport p).pipe k).setup true else s).emit
        (.usbHost t.addr t.ep (if ((s.uport p).pipe k).ctrlIn = true then ansAck else ansData 1) []) := by
  simp only [State.ctrlStatus, status]

/-- The status stage while the device's answer is awaited. -/
theorem State.ctrlStatus_none {acked : Bool} (status : ((s.uport p).pipe k).status = none) :
    s.ctrlStatus t p k acked ask =
      (if ((s.uport p).pipe k).bursts.contains 3 then s else ask).emit (.usbHost t.addr t.ep ansNak []) := by
  simp only [State.ctrlStatus, status]

end Gate

/-! ### OUT data -/

section Out

variable {s : State} {t : UsbTok} {p k pid : Nat} {bytes : List Byte} {x : Pipe}

/-- Isochronous OUT data of a port that is not LOCKED is missing. -/
theorem State.periodicOut_missing (iso : t.typ = 1) (unlocked : (s.uport p).locked = false) :
    s.periodicOut t p k pid bytes x = s.usbCount p 5 1 := if_pos ⟨iso, by simp [unlocked]⟩

/-- Isochronous OUT data waits for the end of its microframe. -/
theorem State.periodicOut_iso (iso : t.typ = 1) (locked : (s.uport p).locked = true) :
    s.periodicOut t p k pid bytes x = s.setPipe p k { x with buf := x.buf ++ [(pid, bytes)], status := none } :=
  (if_neg (by simp [locked])).trans (if_pos iso)

/-- Interrupt OUT data goes out at once. -/
theorem State.periodicOut_interrupt (interrupt : t.typ = 3) :
    s.periodicOut t p k pid bytes x =
      (s.setPipe p k { x with buf := x.buf ++ [(pid, bytes)], status := none }).flushOut p t.addr t.ep s.usb.mframe k :=
  (if_neg (by simp [interrupt])).trans (if_neg (by simp [interrupt]))

/-- A start-split carries the periodic OUT data. -/
theorem State.outSplit_start (start : t.complete = false) :
    s.outSplit t p k pid bytes x = s.periodicOut t p k pid bytes x := if_pos (by simp [start])

/-- The complete-split of OUT data once the device's answer is there. -/
theorem State.outSplit_answered {v : Nat} (complete : t.complete = true) (status : x.status = some v) :
    s.outSplit t p k pid bytes x =
      s.pipeGate t p k ((s.setPipe p k { x with status := none }).emit (.usbHost t.addr t.ep ansAck [])) := by
  simp only [State.outSplit, complete, status, Bool.not_true, Bool.false_eq_true, if_false]

/-- The complete-split of OUT data while the device's answer is awaited. -/
theorem State.outSplit_awaited (complete : t.complete = true) (status : x.status = none) :
    s.outSplit t p k pid bytes x =
      s.pipeGate t p k (s.emit (.usbHost t.addr t.ep (if x.outst = 0 then ansNak else ansNyet) [])) := by
  simp only [State.outSplit, complete, status, Bool.not_true, Bool.false_eq_true, if_false]

/-- An OUT token of a transfer toward the host is its status stage. -/
theorem State.outData_status (ctrl : t.typ = 0) (toHost : x.ctrlIn = true) :
    s.outData t p k pid bytes x = s.ctrlStatus t p k true
      ((s.pipeMsg p 1 t.addr t.ep false x 1 0 0 [(1, [])]).setPipe p k
        { x with outst := x.outst + 1, bursts := x.bursts ++ [3], txSeq := (x.txSeq + 1) % 32 }) := if_pos ⟨ctrl, toHost⟩

section Stage

variable (stage : t.typ ≠ 0 ∨ x.ctrlIn = false)
include stage

theorem not_status_stage : ¬ (t.typ = 0 ∧ x.ctrlIn = true) := by
  rintro ⟨ctrl, toHost⟩
  simp [ctrl, toHost] at stage

/-- OUT data whose toggle repeats is acknowledged and dropped. -/
theorem State.outData_repeat (toggle : pid % 2 ≠ b2n x.toggle) :
    s.outData t p k pid bytes x = s.emit (.usbHost t.addr t.ep ansAck []) :=
  (if_neg (not_status_stage stage)).trans (if_pos toggle)

/-- OUT data without room is not taken. -/
theorem State.outData_full (toggle : pid % 2 = b2n x.toggle)
    (full : Config.usbPipeRoom - sumN (x.buf.map fun e => e.2.length) < bytes.length) :
    s.outData t p k pid bytes x = s.emit (.usbHost t.addr t.ep ansNak []) :=
  (if_neg (not_status_stage stage)).trans ((if_neg (not_not.mpr toggle)).trans (if_pos full))

/-- OUT data with room is buffered, forwarded and acknowledged. -/
theorem State.outData_taken (toggle : pid % 2 = b2n x.toggle)
    (room : bytes.length ≤ Config.usbPipeRoom - sumN (x.buf.map fun e => e.2.length)) :
    s.outData t p k pid bytes x =
      ((s.setPipe p k { x with buf := x.buf ++ [(pid, bytes)], toggle := !x.toggle }).flushOut p t.addr t.ep s.usb.mframe k).emit
        (.usbHost t.addr t.ep (if Config.usbPipeRoom - sumN (x.buf.map fun e => e.2.length) - bytes.length < t.maxPkt
          then ansNyet else ansAck) []) :=
  (if_neg (not_status_stage stage)).trans ((if_neg (not_not.mpr toggle)).trans (if_neg (by omega)))

end Stage

end Out

/-! ### IN data -/

section In

variable {s : State} {t : UsbTok} {p k : Nat} {acked : Bool}

/-- A start-split asks for one IN transaction. -/
theorem State.inSplit_start (start : t.complete = false) : s.inSplit t p k = s.grantIn t p k 2 := if_pos (by simp [start])

/-- The complete-split has the IN data of the frame before. -/
theorem State.inSplit_ready {e : Nat × List Byte} {rest : List (Nat × List Byte)} (complete : t.complete = true)
    (left : ((s.uport p).pipe k).buf.dropWhile (frameLate ((s.usb.mframe / 8 + 2047) % 2048)) = e :: rest)
    (ready : e.1 / 32 = (s.usb.mframe / 8 + 2047) % 2048 ∧ (t.typ = 3 ∨ (s.uport p).locked = true)) :
    s.inSplit t p k = s.pipeGate t p k
      ((s.setPipe p k { (s.uport p).pipe k with buf := rest, toggle := !((s.uport p).pipe k).toggle }).emit
        (.usbHost t.addr t.ep (ansData (if t.typ = 1 then e.1 % 4 else b2n ((s.uport p).pipe k).toggle)) e.2)) := by
  refine (if_neg (by simp [complete])).trans (congrArg _ ?_)
  dsimp only
  rw [left]
  exact if_pos ready

/-- The complete-split without IN data of the frame before. -/
theorem State.inSplit_waiting (complete : t.complete = true)
    (waiting : ∀ e rest, ((s.uport p).pipe k).buf.dropWhile (frameLate ((s.usb.mframe / 8 + 2047) % 2048)) = e :: rest →
      ¬ (e.1 / 32 = (s.usb.mframe / 8 + 2047) % 2048 ∧ (t.typ = 3 ∨ (s.uport p).locked = true))) :
    s.inSplit t p k = s.pipeGate t p k
      ((s.setPipe p k { (s.uport p).pipe k with
          buf := ((s.uport p).pipe k).buf.dropWhile (frameLate ((s.usb.mframe / 8 + 2047) % 2048)) }).emit
        (.usbHost t.addr t.ep (if ((s.uport p).pipe k).outst = 0 then ansNak else ansNyet) [])) := by
  refine (if_neg (by simp [complete])).trans (congrArg _ ?_)
  dsimp only
  split
  next e rest left => exact if_neg (waiting e rest left)
  next => rfl

/-- An IN token of a transfer toward the device is its status stage. -/
theorem State.inData_status (ctrl : t.typ = 0) (toDevice : ((s.uport p).pipe k).ctrlIn = false) :
    s.inData t p k acked = s.ctrlStatus t p k acked (s.grantIn t p k 3) := if_pos ⟨ctrl, by simp [toDevice]⟩

section Stage

variable (stage : t.typ ≠ 0 ∨ ((s.uport p).pipe k).ctrlIn = true)
include stage

/-- The oldest packet buffered goes to the host. -/
theorem State.inData_packet {pid : Nat} {data : List Byte} {rest : List (Nat × List Byte)}
    (buf : ((s.uport p).pipe k).buf = (pid, data) :: rest) :
    s.inData t p k acked = (if acked = true
      then (s.emit (.usbHost t.addr t.ep (ansData (b2n ((s.uport p).pipe k).toggle)) data)).inTaken t p k rest
      else s.emit (.usbHost t.addr t.ep (ansData (b2n ((s.uport p).pipe k).toggle)) data)) := by
  refine (if_neg (by rintro ⟨ctrl, toDevice⟩; simp [ctrl] at stage; simp [stage] at toDevice)).trans ?_
  dsimp only
  rw [buf]

/-- With nothing buffered the host waits, and more is asked for. -/
theorem State.inData_empty (buf : ((s.uport p).pipe k).buf = []) :
    s.inData t p k acked =
      (if ((s.uport p).pipe k).bursts.contains 2 then s else s.grantIn t p k 2).emit (.usbHost t.addr t.ep ansNak []) := by
  refine (if_neg (by rintro ⟨ctrl, toDevice⟩; simp [ctrl] at stage; simp [stage] at toDevice)).trans ?_
  simp [buf]

end Stage

end In

/-! ### Requests to the hub -/

section Request

variable {s : State} {val idx len : Nat} (att : s.usb.attached = true)
include att

/-- A feature of a port the hub presents is set or cleared; TEST mode (21) stands apart. -/
theorem effUsbHubRequest_feature {req : Nat} (kind : req = 3 ∨ req = 1)
    (mine : s.usbPort (idx % 256) = true ∧ ¬ (idx % 256 ≤ 4 ∧ (s.uport (idx % 256)).far ≠ none)) (plain : val ≠ 21) :
    effUsbHubRequest 0x23 req val idx len s =
      (s.portFeature (idx % 256) (decide (req = 3)) val).emit (.usbHost s.usb.address 0 ansAck []) := by
  rw [effUsbHubRequest, if_neg (by simp [att]), if_pos ⟨rfl, kind⟩]
  dsimp only
  rw [if_neg (by simpa [mine.1, Option.isSome_iff_ne_none] using mine.2), if_neg plain]

/-- A feature of a port the hub does not present stalls. -/
theorem effUsbHubRequest_foreign
    (foreign : ¬ (s.usbPort (idx % 256) = true ∧ ¬ (idx % 256 ≤ 4 ∧ (s.uport (idx % 256)).far ≠ none))) :
    effUsbHubRequest 0x23 3 val idx len s = s.emit (.usbHost s.usb.address 0 ansStall []) := by
  rw [effUsbHubRequest, if_neg (by simp [att]), if_pos ⟨rfl, .inl rfl⟩]
  refine if_pos ?_
  rw [not_and_or, not_not] at foreign
  simpa [Option.isSome_iff_ne_none] using foreign

/-- GET_STATUS of a port: a far end shows its power only. -/
theorem effUsbHubRequest_portStatus (there : s.usbPort (idx % 256) = true) :
    effUsbHubRequest 0xA3 0 val idx len s = s.emit (.usbHost s.usb.address 0 (ansData 1)
      (leBytes 2 (if decide (idx % 256 ≤ 4) && (s.uport (idx % 256)).far.isSome
          then ((s.uport (idx % 256)).status &&& psPower).toNat else (s.uport (idx % 256)).status.toNat)
        ++ leBytes 2 (s.uport (idx % 256)).change.toNat)) := by
  rw [effUsbHubRequest, if_neg (by simp [att]), if_neg (by simp), if_pos ⟨rfl, rfl⟩]
  exact if_neg (by simp [there])

theorem effUsbHubRequest_setAddress :
    effUsbHubRequest 0 5 val idx len s =
      { s with usb := { s.usb with address := val % 128 } }.emit (.usbHost 0 0 ansAck []) := by
  rw [effUsbHubRequest, if_neg (by simp [att]), if_neg (by simp), if_neg (by simp), if_pos ⟨rfl, rfl⟩]

theorem effUsbHubRequest_setConfiguration :
    effUsbHubRequest 0 9 val idx len s =
      { s with usb := { s.usb with configured := decide (val = 1) } }.emit (.usbHost s.usb.address 0 ansAck []) := by
  rw [effUsbHubRequest, if_neg (by simp [att]), if_neg (by simp), if_neg (by simp), if_neg (by simp), if_pos ⟨rfl, rfl⟩]

theorem effUsbHubRequest_descriptor :
    effUsbHubRequest 0x80 6 val idx len s = match s.usbDescriptor (val / 256) (val % 256) with
      | some d => s.emit (.usbHost s.usb.address 0 (ansData 1) (d.take len))
      | none => s.emit (.usbHost s.usb.address 0 ansStall []) := by
  rw [effUsbHubRequest, if_neg (by simp [att]), if_neg (by simp), if_neg (by simp), if_neg (by simp), if_neg (by simp),
    if_neg (by simp), if_pos ⟨.inl rfl, rfl⟩] <;> rfl

end Request

/-- Settles O43: each token row is served by the hub for a local port or by the proxy of a virtual one, whose answer is that of
the gate, the status stage, the OUT or the IN data; each request is one branch of the hub's answers. -/
theorem usbTokens : Obligations.usbTokens := by
  unfold Obligations.usbTokens
  dsimp only
  refine ⟨?setupLocal, ?outLocal, ?inLocal, ?setupNear, ?gate, ?status, ?outNear, ?ping, ?inNear, ?hub⟩
  case setupLocal =>
    rintro s t bytes ⟨att, awake, one, four, enabled, own⟩
    refine congrArg Host.Outcome.next ?_
    unfold effUsbSetupToken
    exact State.serve_local att awake one four enabled own
  case outLocal =>
    rintro s t pid bytes ⟨att, awake, one, four, enabled, own⟩
    refine congrArg Host.Outcome.next ?_
    unfold effUsbOutToken
    exact State.serve_local att awake one four enabled own
  case inLocal =>
    rintro s t acked ⟨att, awake, one, four, enabled, own⟩
    refine ⟨congrArg Host.Outcome.next (State.serve_local att awake one four enabled own), congrArg Host.Outcome.next ?_⟩
    simp only [← Bool.not_eq_true']
    unfold effUsbInToken
    exact State.serve_local att awake one four enabled own
  case setupNear =>
    rintro s t bytes ⟨att, awake, five, enabled, mapped⟩
    refine congrArg Host.Outcome.next ?_
    unfold effUsbSetupToken
    exact State.serve_near att awake five enabled mapped
  case gate =>
    exact fun s t p k body => ⟨State.usbLate_iff, State.pipeGate_late, State.pipeGate_failed, State.pipeGate_halted,
      State.pipeGate_open⟩
  case status =>
    exact fun s ask t p k acked =>
      ⟨fun v h => State.ctrlStatus_some h, fun v h => State.ctrlStatus_some h, State.ctrlStatus_none⟩
  case outNear =>
    rintro s t pid bytes ⟨att, awake, five, enabled, mapped⟩
    have split := splitPeriodic_iff (t := t)
    have served := effUsbOutToken_near (pid := pid) (bytes := bytes) att awake five enabled mapped
    dsimp only at served
    simp only [← split]
    have run {u : State} (h : effUsbOutToken t pid bytes s = u) : exec (.usbOutToken t pid bytes) s = .next u :=
      congrArg Host.Outcome.next h
    refine ⟨fun iso start unlocked => run (served.trans ?_), fun iso start locked => run (served.trans ?_),
      fun per interrupt start => run (served.trans ?_), fun per complete v status => run (served.trans ?_),
      fun per complete status => run (served.trans ?_), fun ctrl toHost => run (served.trans ?_),
      fun nonIso whole stage toggle => run (served.trans ?_), fun nonIso whole stage toggle full => run (served.trans ?_),
      fun nonIso whole stage toggle room => run (served.trans ?_)⟩
    · by_cases per : splitPeriodic t = true
      · exact (if_pos per).trans ((State.outSplit_start (start per)).trans (State.periodicOut_missing iso unlocked))
      · exact (if_neg per).trans ((if_pos iso).trans (State.periodicOut_missing iso unlocked))
    · by_cases per : splitPeriodic t = true
      · exact (if_pos per).trans ((State.outSplit_start (start per)).trans (State.periodicOut_iso iso locked))
      · exact (if_neg per).trans ((if_pos iso).trans (State.periodicOut_iso iso locked))
    · exact (if_pos per).trans ((State.outSplit_start start).trans (State.periodicOut_interrupt interrupt))
    · exact (if_pos per).trans (State.outSplit_answered complete status)
    · exact (if_pos per).trans (State.outSplit_awaited complete status)
    · rw [if_neg (by simp [split, ctrl]), if_neg (by simp [ctrl]), State.outData_status ctrl toHost]
    · rw [if_neg whole, if_neg nonIso, State.outData_repeat stage toggle]
    · rw [if_neg whole, if_neg nonIso, State.outData_full stage toggle full]
    · rw [if_neg whole, if_neg nonIso, State.outData_taken stage toggle room]
  case ping =>
    rintro s t ⟨att, awake, five, enabled, mapped⟩
    refine congrArg Host.Outcome.next ?_
    unfold effUsbPingToken
    exact State.serve_near att awake five enabled mapped
  case inNear =>
    rintro s t acked ⟨att, awake, five, enabled, mapped⟩
    have split := splitPeriodic_iff (t := t)
    have served := effUsbInToken_near (acked := acked) att awake five enabled mapped
    dsimp only at served
    simp only [← split]
    have run {u : State} (h : effUsbInToken t acked s = u) : exec (.usbInToken t acked) s = .next u :=
      congrArg Host.Outcome.next h
    refine ⟨fun iso whole => run (served.trans ?_), fun per start => run (served.trans ?_),
      fun per complete e rest left ready => run (served.trans ?_), fun per complete waiting => run (served.trans ?_),
      fun ctrl toDevice => run (served.trans ?_), fun nonIso whole stage pid data rest buf => run (served.trans ?_),
      fun nonIso whole stage buf => run (served.trans ?_)⟩
    · exact (if_neg whole).trans (if_pos iso)
    · exact (if_pos per).trans (State.inSplit_start start)
    · exact (if_pos per).trans (State.inSplit_ready complete left ready)
    · exact (if_pos per).trans (State.inSplit_waiting complete waiting)
    · rw [if_neg (by simp [split, ctrl]), if_neg (by simp [ctrl]), State.inData_status ctrl toDevice]
    · rw [if_neg whole, if_neg nonIso, State.inData_packet stage buf]
    · rw [if_neg whole, if_neg nonIso, State.inData_empty stage buf]
  case hub =>
    intro s val idx len att
    refine ⟨fun mine plain => congrArg _ (effUsbHubRequest_feature att (.inl rfl) mine plain),
      fun mine plain => congrArg _ (effUsbHubRequest_feature att (.inr rfl) mine plain),
      fun foreign => congrArg _ (effUsbHubRequest_foreign att foreign), fun there own => ?_, fun there four far => ?_,
      congrArg _ (effUsbHubRequest_setAddress att), congrArg _ (effUsbHubRequest_setConfiguration att),
      fun d known => ?_, fun unknown => ?_⟩
    · refine congrArg _ ((effUsbHubRequest_portStatus att there).trans ?_)
      rw [if_neg (by simp [own])]
    · refine congrArg _ ((effUsbHubRequest_portStatus att there).trans ?_)
      rw [if_pos (by simp [four, Option.isSome_iff_ne_none, far])]
    · refine congrArg _ ((effUsbHubRequest_descriptor att).trans ?_)
      rw [known]
    · refine congrArg _ ((effUsbHubRequest_descriptor att).trans ?_)
      rw [unknown]

end Sys2Proof.Machine

end

section

/-! ## The bus events and the port timers of the USB hub -/

namespace Sys2Proof.Machine

open Sys2Proof

/-- A port table out of canonical form (log entry 2): two entries for port 1, the first under a power cycle and otherwise as at reset,
the second with power always on. -/
def twicePort : State :=
  { State.reset with usb := { State.reset.usb with ports :=
      [(1, { UPort.init with policy := 2 }), (1, { UPort.init with policy := 3 })] } }

/-- Refutes O44: its clause for the end of OFFTIME speaks of every port table, those out of canonical form too. In `twicePort` port 1,
once its policy is HOST again, is as at reset, so that its entry is erased and the second one is read from then on: the port is
powered, where the clause has it switched off as the host last asked. -/
theorem not_usbBus : ¬ Obligations.usbBus := by
  unfold Obligations.usbBus
  rintro ⟨_, _, _, _, _, _, _, _, ended⟩
  have off := (ended twicePort 1 (by decide) (by decide)).2.1 (by decide) (by decide)
  have status := congrArg (fun s => (s.uport 1).status) (Host.Outcome.next.inj off)
  exact absurd status (by decide)

end Sys2Proof.Machine

end

section

/-! ## Messages between the ends of a remote port, and the far bus -/

namespace Sys2Proof.Machine

open Sys2Proof

/-! ### Messages at the far end -/

section FarEnd

variable {s : State} {tid p op : Nat} {bytes : List Byte} {body : State → Nat → UsbHdr → Nat → Pipe → State}
  (reached : (s.usbAdopt tid).usbMsgPort tid = some p) (far : ((s.usbAdopt tid).uport p).far ≠ none)
  (kind : (usbHdr bytes).op = op)
include reached far kind

/-- A message of the port's generation with the next number is taken. -/
theorem State.farMsg_taken (sound : (usbHdr bytes).ok = true) (gen : (usbHdr bytes).gen = ((s.usbAdopt tid).uport p).gen.toNat)
    (turn : (usbHdr bytes).pseq = (((s.usbAdopt tid).uport p).pipe (pipeKey (usbHdr bytes).addr (usbHdr bytes).ep (usbHdr bytes).typ
      (usbHdr bytes).dirIn)).rxSeq) :
    s.farMsg tid op bytes body =
      let h := usbHdr bytes
      let k := pipeKey h.addr h.ep h.typ h.dirIn
      let x := ((s.usbAdopt tid).uport p).pipe k
      body (s.usbAdopt tid) p h k { x with rxSeq := (x.rxSeq + 1) % 32, typ := h.typ, fsls := h.fsls } := by
  simp only [State.farMsg, reached]
  rw [if_neg (by simp [far, kind]), if_neg (by simp [sound]), if_neg (not_not.mpr gen), if_neg (not_not.mpr turn)]

/-- A message of another generation is counted. -/
theorem State.farMsg_stale (sound : (usbHdr bytes).ok = true) (gen : (usbHdr bytes).gen ≠ ((s.usbAdopt tid).uport p).gen.toNat) :
    s.farMsg tid op bytes body = (s.usbAdopt tid).usbCount p 2 1 := by
  simp only [State.farMsg, reached]
  rw [if_neg (by simp [far, kind]), if_neg (by simp [sound]), if_pos gen]

/-- A message out of turn is a proxy error. -/
theorem State.farMsg_outOfTurn (sound : (usbHdr bytes).ok = true)
    (gen : (usbHdr bytes).gen = ((s.usbAdopt tid).uport p).gen.toNat)
    (turn : (usbHdr bytes).pseq ≠ (((s.usbAdopt tid).uport p).pipe (pipeKey (usbHdr bytes).addr (usbHdr bytes).ep (usbHdr bytes).typ
      (usbHdr bytes).dirIn)).rxSeq) :
    s.farMsg tid op bytes body = (s.usbAdopt tid).proxyError p := by
  simp only [State.farMsg, reached]
  rw [if_neg (by simp [far, kind]), if_neg (by simp [sound]), if_neg (not_not.mpr gen), if_pos turn]

/-- A message with reserved fields is counted. -/
theorem State.farMsg_unsound (unsound : (usbHdr bytes).ok = false) :
    s.farMsg tid op bytes body = (s.usbAdopt tid).usbCount p 3 1 := by
  simp only [State.farMsg, reached]
  rw [if_neg (by simp [far, kind]), if_pos (by simp [unsound])]

end FarEnd

/-- A SOFREP is the host's microframe. -/
theorem effSofrep_taken {s : State} {tid p : Nat} {bytes : List Byte} (reached : (s.usbAdopt tid).usbMsgPort tid = some p)
    (far : ((s.usbAdopt tid).uport p).far ≠ none) (kind : (usbHdr bytes).op = 6) (sound : (usbHdr bytes).ok = true)
    (gen : (usbHdr bytes).gen = ((s.usbAdopt tid).uport p).gen.toNat) :
    effSofrep tid bytes s =
      let h := usbHdr bytes
      let t := s.usbAdopt tid
      let u := t.uport p
      let at' := resolveCompact t.nowNs h.instant.1 h.instant.2
      t.setUport p { u with hostMf := h.mframe, hostH := some at'
                            acq := u.acq || (decide (u.st = upEnabled) && u.hostStepped h.mframe at') } := by
  simp only [effSofrep, reached]
  rw [if_neg (by simp [far, kind]), if_neg (by simp [sound]), if_neg (not_not.mpr gen)]

/-- A pipe's work with nothing owed is kept. -/
theorem State.joined_none {s : State} {p k : Nat} {h : UsbHdr} {y : Pipe} (owed : y.owed = none) :
    s.joined p h k y = s.setPipe p k y := by
  simp only [State.joined, owed]

/-- A RESULT that is owed answers the message that joins. -/
theorem State.joined_some {s : State} {p k code : Nat} {h : UsbHdr} {y : Pipe} (owed : y.owed = some code) :
    s.joined p h k y = s.failNow p h.addr h.ep k h.dirIn (decide (h.typ = 0)) y code := by
  simp only [State.joined, owed]

/-! ### Messages at the near end -/

/-- A message of the port's generation, with the next number and an answer outstanding, is taken. -/
theorem State.nearMsg_taken {s : State} {tid p op : Nat} {bytes : List Byte} {body : Nat → UsbHdr → Nat → Pipe → State}
    (reached : s.usbMsgPort tid = some p) (mapped : (s.uport p).mapped ≠ none) (sound : (usbHdr bytes).ok = true)
    (gen : (usbHdr bytes).gen = (s.uport p).gen.toNat)
    (turn : (usbHdr bytes).pseq = ((s.uport p).pipe (pipeKey (usbHdr bytes).addr (usbHdr bytes).ep (usbHdr bytes).typ
      (usbHdr bytes).dirIn)).rxSeq)
    (awaited : ((s.uport p).pipe (pipeKey (usbHdr bytes).addr (usbHdr bytes).ep (usbHdr bytes).typ (usbHdr bytes).dirIn)).bursts ≠ [])
    (kind : (usbHdr bytes).op = op) :
    s.nearMsg tid op bytes body =
      let h := usbHdr bytes
      let k := pipeKey h.addr h.ep h.typ h.dirIn
      let x := (s.uport p).pipe k
      body p h k { x with rxSeq := (x.rxSeq + 1) % 32, bursts := x.bursts.drop 1, outst := x.outst - 1 } := by
  simp only [State.nearMsg, reached]
  rw [if_neg (by simp [mapped, kind]), if_neg (by simp [sound]), if_neg (not_not.mpr gen),
    if_neg (not_or.mpr ⟨not_not.mpr turn, awaited⟩)]

/-! ### PORT messages -/

section PortMessage

variable {s : State} {tid src p : Nat} {bytes : List Byte} (kind : (usbHdr bytes).op = 5) (sound : (usbHdr bytes).ok = true)
include kind sound

/-- A PORT message for a port that already serves its tunnel. -/
theorem effPortMessage_known (reached : s.usbMsgPort tid = some p) :
    effPortMessage tid src bytes s =
      if (s.uport p).far.isSome then s.farOrder p (usbHdr bytes).code (usbHdr bytes).gen
      else if (usbHdr bytes).gen ≠ (s.uport p).gen.toNat then s.usbCount p 2 1
      else (s.setUport p { s.uport p with mapped := (s.uport p).mapped.map fun m => { m with hub := src } }).nearReport p
        (usbHdr bytes).code (usbHdr bytes).speed := by
  have taken : s.usbPortOf tid = some p := by
    unfold State.usbMsgPort at reached
    split at reached
    · exact reached
    · contradiction
  simp only [effPortMessage, taken, Option.isNone_some, Bool.false_eq_true, false_and, and_false, if_false, reached]
  rw [if_neg (by simp [kind]), if_neg (by simp [sound])]

/-- The first PORT message on a tunnel to a free DFP makes it a far end. -/
theorem effPortMessage_first (present : s.usbPresent = true) (new : s.usbPortOf tid = none)
    (usb : epBlock (s.gaz tid).dstEp = 5) (dfp : epIndex (s.gaz tid).dstEp = p) (one : 1 ≤ p) (four : p ≤ 4)
    (there : s.usbPort p = true) (free : s.freeDfp p = true) (reached : (s.takeFar p src tid).usbMsgPort tid = some p)
    (far : ((s.takeFar p src tid).uport p).far.isSome = true) :
    effPortMessage tid src bytes s = (s.takeFar p src tid).farOrder p (usbHdr bytes).code (usbHdr bytes).gen := by
  have takes : s.usbPresent = true ∧ (s.usbPortOf tid).isNone = true ∧ epBlock (s.gaz tid).dstEp = 5 ∧ 1 ≤ p ∧ p ≤ 4 ∧
      s.usbPort p = true ∧ s.freeDfp p = true := ⟨present, by simp [new], usb, one, four, there, free⟩
  simp only [effPortMessage, dfp, if_pos takes, reached]
  rw [if_neg (by simp [kind]), if_neg (by simp [sound]), if_pos far]

end PortMessage

/-! ### When a message may run -/

section Runs

variable {x : Pipe} {dirIn : Bool} {mf : Nat}

/-- The work of a full- or low-speed periodic pipe runs in the frame after its own. -/
theorem Pipe.runs_frame (frame : x.fsls = true ∧ (x.typ = 1 ∨ x.typ = 3)) :
    x.runs dirIn mf = true ↔ (mf / 8 + 4095 - (x.mfs.head?).getD 0 / 8) % 2048 = 0 := by
  simp [Pipe.runs, Pipe.slip, frame]

/-- An isochronous OUT runs two microframes after its own. -/
theorem Pipe.runs_iso (whole : ¬ (x.fsls = true ∧ (x.typ = 1 ∨ x.typ = 3))) (iso : x.typ = 1) (out : dirIn = false) :
    x.runs dirIn mf = true ↔ (mf + 32766 - (x.mfs.head?).getD 0) % 16384 = 0 := by
  simp only [Pipe.runs, Pipe.slip, if_neg whole, if_pos (show x.typ = 1 ∧ (!dirIn) = true by simp [iso, out]), Option.getD_some,
    decide_eq_true_eq]

/-- Other work runs in any microframe. -/
theorem Pipe.runs_free (whole : ¬ (x.fsls = true ∧ (x.typ = 1 ∨ x.typ = 3))) (free : x.typ ≠ 1 ∨ dirIn = true) :
    x.runs dirIn mf = true := by
  simp only [Pipe.runs, Pipe.slip, if_neg whole, if_neg (show ¬ (x.typ = 1 ∧ (!dirIn) = true) by
    simpa [imp_iff_not_or] using free), Option.getD_none, decide_true]

end Runs

/-! ### Transactions on the far bus -/

/-- What a transaction on the far bus that may run does, on the pipe `x` of key `k`, a control pipe or not (R448 to R452). -/
def State.farResult (s : State) (p addr ep k : Nat) (dirIn ctrl : Bool) (x : Pipe) (res pid : Nat) (data : List Byte) : State :=
  if res = 2 then s.setPipe p k { x with errs := 0, naked := true }
  else if res = 3 then
    if x.errs + 1 < 3 then (s.usbCount p 6 1).setPipe p k { x with errs := x.errs + 1 }
    else (s.usbCount p 6 1).failPipe p addr ep k dirIn ctrl x 2
  else if res = 1 then s.failPipe p addr ep k dirIn ctrl x 1
  else if dirIn then
    if ctrl ∧ !x.ctrlIn then
      ((s.result p addr ep dirIn x 0).setPipe p k x.answered).statusDone p addr x.setup false
    else if x.typ ≠ 1 ∧ pid % 2 ≠ b2n x.toggle then s.setPipe p k { x with errs := 0 }
    else
      let y : Pipe := { x with buf := x.buf ++ [(pid, data)], credit := x.credit - 1, toggle := !x.toggle, errs := 0 }
      if y.credit = 0 ∨ res = 4 ∨ data.isEmpty ∨ (x.typ = 1 ∧ pid = 0) then s.sendIn p addr ep k y (s.uport p).mf
      else s.setPipe p k y
  else
    let y : Pipe := { x with buf := x.buf.drop 1, toggle := !x.toggle, errs := 0 }
    if (x.bursts.head?).getD 0 ≤ 1 then
      let t := (s.result p addr ep dirIn y 0).setPipe p k y.answered
      if ctrl ∧ x.ctrlIn ∧ data.isEmpty ∧ x.buf.length ≤ 1 then t.statusDone p addr x.setup false else t
    else s.setPipe p k { y with bursts := ((x.bursts.head?).getD 0 - 1) :: x.bursts.drop 1 }

section FarBus

variable {s : State} {p addr ep res pid : Nat} {dirIn : Bool} {data : List Byte}

/-- A transaction of a pipe with a control transfer under way is of its control pipe. -/
theorem effFarBusTransaction_ctrl (present : s.usbPresent = true) (far : (s.uport p).far ≠ none)
    (ctrl : ((s.uport p).pipe (pipeKey addr ep 0 false)).typ = 0)
    (work : ((s.uport p).pipe (pipeKey addr ep 0 false)).bursts ≠ [])
    (runs : ((s.uport p).pipe (pipeKey addr ep 0 false)).runs dirIn (s.uport p).mf = true)
    (free : (s.uport p).farHeld { (s.uport p).pipe (pipeKey addr ep 0 false) with tried := true } = false) :
    effFarBusTransaction p addr ep dirIn res pid data s =
      s.farResult p addr ep (pipeKey addr ep 0 false) dirIn true
        { (s.uport p).pipe (pipeKey addr ep 0 false) with tried := true } res pid data := by
  have isCtrl : decide (((s.uport p).pipe (pipeKey addr ep 0 false)).typ = 0 ∧
      ((s.uport p).pipe (pipeKey addr ep 0 false)).bursts ≠ []) = true := decide_eq_true ⟨ctrl, work⟩
  have runs' : Pipe.runs { (s.uport p).pipe (pipeKey addr ep 0 false) with tried := true } dirIn (s.uport p).mf = true := runs
  unfold effFarBusTransaction
  dsimp only
  rw [isCtrl, if_pos rfl, if_neg (by simp [present, far, work, runs', free])]
  rfl

section Data

variable (other : ¬ (((s.uport p).pipe (pipeKey addr ep 0 false)).typ = 0 ∧
  ((s.uport p).pipe (pipeKey addr ep 0 false)).bursts ≠ []))
include other

/-- A transaction of another pipe that may run. -/
theorem effFarBusTransaction_data (present : s.usbPresent = true) (far : (s.uport p).far ≠ none)
    (work : ((s.uport p).pipe (pipeKey addr ep 2 dirIn)).bursts ≠ [])
    (runs : ((s.uport p).pipe (pipeKey addr ep 2 dirIn)).runs dirIn (s.uport p).mf = true)
    (free : (s.uport p).farHeld { (s.uport p).pipe (pipeKey addr ep 2 dirIn) with tried := true } = false) :
    effFarBusTransaction p addr ep dirIn res pid data s =
      s.farResult p addr ep (pipeKey addr ep 2 dirIn) dirIn false
        { (s.uport p).pipe (pipeKey addr ep 2 dirIn) with tried := true } res pid data := by
  have runs' : Pipe.runs { (s.uport p).pipe (pipeKey addr ep 2 dirIn) with tried := true } dirIn (s.uport p).mf = true := runs
  unfold effFarBusTransaction
  dsimp only
  rw [decide_eq_false other, if_neg Bool.false_ne_true, if_neg (by simp [present, far, work, runs', free])]
  rfl

/-- A transaction that its microframe does not allow changes nothing. -/
theorem effFarBusTransaction_held
    (held : ((s.uport p).pipe (pipeKey addr ep 2 dirIn)).runs dirIn (s.uport p).mf = false ∨
      (s.uport p).farHeld { (s.uport p).pipe (pipeKey addr ep 2 dirIn) with tried := true } = true) :
    effFarBusTransaction p addr ep dirIn res pid data s = s := by
  simp only [effFarBusTransaction, decide_eq_false other, Bool.false_eq_true, if_false]
  refine if_pos (.inr (.inr (.inr (held.imp (fun late => ?_) id))))
  exact (congrArg (! ·) late).trans rfl

end Data

end FarBus

/-! ### What the result of a transaction does to its pipe -/

section FarResult

variable {s : State} {p addr ep k code pid : Nat} {dirIn ctrl : Bool} {x : Pipe} {data : List Byte}

/-- A pipe without IN data collected fails at once. -/
theorem State.failPipe_now (empty : x.buf = [] ∨ dirIn = false) :
    s.failPipe p addr ep k dirIn ctrl x code = s.failNow p addr ep k dirIn ctrl x code :=
  if_pos (by simpa [or_comm] using empty)

/-- The oldest message of a pipe is answered with RESULT ERR. -/
theorem State.failNow_err :
    s.failNow p addr ep k dirIn ctrl x 2 = (s.result p addr ep dirIn x 2).setPipe p k
      { x.answered with buf := x.buf.drop ((x.bursts.head?).getD 0), owed := none, credit := 0 } := rfl

/-- The oldest message of a pipe is answered with RESULT STALL, the rest of its work CANCELLED and a data pipe halted. -/
theorem State.failNow_stall :
    s.failNow p addr ep k dirIn false x 1 =
      (((s.result p addr ep dirIn x 1).cancelAll p addr ep dirIn { x.answered with owed := none, credit := 0 }
        x.answered.bursts.length).setPipe p k
        { x.answered with owed := none, txSeq := (x.answered.txSeq + x.answered.bursts.length) % 32, bursts := [], mfs := [], buf := []
                          credit := 0, halted := true }).usbCount p 7 (if dirIn then 0 else x.buf.length - 1) := rfl

/-- A pipe with IN data collected sends it first; the RESULT answers the next message, now or when it comes. -/
theorem State.failPipe_collected (toHost : dirIn = true) (collected : x.buf ≠ []) :
    s.failPipe p addr ep k dirIn ctrl x code =
      let v := s.sendIn p addr ep k x (s.uport p).mf
      let y := (v.uport p).pipe k
      if y.bursts = [] then v.setPipe p k { y with owed := some code } else v.failNow p addr ep k true ctrl y code := by
  rw [State.failPipe, if_neg (by simp [toHost, collected]), toHost]

/-- An error is retried twice. -/
theorem State.farResult_retry (few : x.errs < 2) :
    s.farResult p addr ep k dirIn ctrl x 3 pid data = (s.usbCount p 6 1).setPipe p k { x with errs := x.errs + 1 } :=
  (if_neg (by decide)).trans ((if_pos rfl).trans (if_pos (by omega)))

/-- The third error fails the pipe. -/
theorem State.farResult_error (many : 2 ≤ x.errs) :
    s.farResult p addr ep k dirIn ctrl x 3 pid data = (s.usbCount p 6 1).failPipe p addr ep k dirIn ctrl x 2 :=
  (if_neg (by decide)).trans ((if_pos rfl).trans (if_neg (by omega)))

/-- A STALL fails the pipe. -/
theorem State.farResult_stall :
    s.farResult p addr ep k dirIn ctrl x 1 pid data = s.failPipe p addr ep k dirIn ctrl x 1 := rfl

/-- IN data whose toggle repeats is dropped. -/
theorem State.farResult_repeat (nonIso : x.typ ≠ 1) (toggle : pid % 2 ≠ b2n x.toggle) :
    s.farResult p addr ep k true false x 0 pid data = s.setPipe p k { x with errs := 0 } := by
  simp only [State.farResult, OfNat.zero_ne_ofNat, zero_ne_one, if_false, if_true, Bool.false_eq_true, false_and]
  exact if_pos ⟨nonIso, toggle⟩

/-- IN data is collected until its credit is used, or the burst ends otherwise. -/
theorem State.farResult_in {res : Nat} (plain : res = 0 ∨ res = 4) (toggle : x.typ = 1 ∨ pid % 2 = b2n x.toggle) :
    s.farResult p addr ep k true false x res pid data =
      let y : Pipe := { x with buf := x.buf ++ [(pid, data)], credit := x.credit - 1, toggle := !x.toggle, errs := 0 }
      if x.credit ≤ 1 ∨ res = 4 ∨ data = [] ∨ x.typ = 1 ∧ pid = 0 then s.sendIn p addr ep k y (s.uport p).mf
      else s.setPipe p k y := by
  have good : ¬ (x.typ ≠ 1 ∧ pid % 2 ≠ b2n x.toggle) := by rintro ⟨nonIso, repeats⟩; exact toggle.elim nonIso repeats
  rw [State.farResult, if_neg (by omega), if_neg (by omega), if_neg (by omega), if_pos rfl, if_neg (by simp), if_neg good]
  simp only [Nat.sub_eq_zero_iff_le, List.isEmpty_iff]

/-- An acknowledged OUT packet of a pipe other than control leaves the buffer. -/
theorem State.farResult_out :
    s.farResult p addr ep k false false x 0 pid data =
      let y : Pipe := { x with buf := x.buf.drop 1, toggle := !x.toggle, errs := 0 }
      if (x.bursts.head?).getD 0 ≤ 1 then (s.result p addr ep false y 0).setPipe p k y.answered
      else s.setPipe p k { y with bursts := ((x.bursts.head?).getD 0 - 1) :: x.bursts.drop 1 } := rfl

/-- The status IN of a transfer toward the device. -/
theorem State.farResult_statusIn (toDevice : x.ctrlIn = false) :
    s.farResult p addr ep k true true x 0 pid data =
      ((s.result p addr ep true x 0).setPipe p k x.answered).statusDone p addr x.setup false := by
  simp [State.farResult, toDevice]

/-- The last OUT packet of a message of a transfer toward the device. -/
theorem State.farResult_ctrlOut (toDevice : x.ctrlIn = false) (last : (x.bursts.head?).getD 0 ≤ 1) :
    s.farResult p addr ep k false true x 0 pid data =
      let y : Pipe := { x with buf := x.buf.drop 1, toggle := !x.toggle, errs := 0 }
      (s.result p addr ep false y 0).setPipe p k y.answered := by
  simp [State.farResult, toDevice, last]

end FarResult

/-- Settles O45: a message is taken, stale, out of turn or unsound by its header; a transaction on the far bus does to its pipe what
its result says. -/
theorem usbMessages : Obligations.usbMessages := by
  unfold Obligations.usbMessages
  refine ⟨?farEnd, ?nearEnd, ?port, ?firstPort, ?runs, ?data, ?ctrl⟩
  case farEnd =>
    intro s tid p bytes
    dsimp only
    intro reached far
    refine ⟨?setup, ?out, ?outHalted, ?outOwed, ?inOwed, ?inreq, ?inHalted, ?sof, ?stale, ?outOfTurn, ?unsound⟩
    case setup =>
      rintro ⟨kind, sound, gen, turn⟩
      refine congrArg Host.Outcome.next ((State.farMsg_taken reached far kind sound gen turn).trans ?_)
      dsimp only
      cases (usbHdr bytes).es <;> rfl
    case out =>
      rintro ⟨kind, sound, gen, turn⟩ running owed
      refine congrArg Host.Outcome.next ((State.farMsg_taken reached far kind sound gen turn).trans ?_)
      exact (if_neg (by simpa using running)).trans (State.joined_none owed)
    case outHalted =>
      rintro ⟨kind, sound, gen, turn⟩ halted
      exact congrArg Host.Outcome.next ((State.farMsg_taken reached far kind sound gen turn).trans (if_pos halted))
    case outOwed =>
      rintro code ⟨kind, sound, gen, turn⟩ running owed
      refine congrArg Host.Outcome.next ((State.farMsg_taken reached far kind sound gen turn).trans ?_)
      exact (if_neg (by simpa using running)).trans (State.joined_some owed)
    case inOwed =>
      rintro code ⟨kind, sound, gen, turn⟩ running owed
      refine congrArg Host.Outcome.next ((State.farMsg_taken reached far kind sound gen turn).trans ?_)
      exact (if_neg (by simpa using running)).trans (State.joined_some owed)
    case inreq =>
      rintro ⟨kind, sound, gen, turn⟩ running owed
      refine congrArg Host.Outcome.next ((State.farMsg_taken reached far kind sound gen turn).trans ?_)
      exact (if_neg (by simpa using running)).trans (State.joined_none owed)
    case inHalted =>
      rintro ⟨kind, sound, gen, turn⟩ halted
      exact congrArg Host.Outcome.next ((State.farMsg_taken reached far kind sound gen turn).trans (if_pos halted))
    case sof => exact fun kind sound gen => congrArg Host.Outcome.next (effSofrep_taken reached far kind sound gen)
    case stale => exact fun kind sound gen => congrArg Host.Outcome.next (State.farMsg_stale reached far kind sound gen)
    case outOfTurn =>
      exact fun kind sound gen turn => congrArg Host.Outcome.next (State.farMsg_outOfTurn reached far kind sound gen turn)
    case unsound => exact fun kind unsound => congrArg Host.Outcome.next (State.farMsg_unsound reached far kind unsound)
  case nearEnd =>
    intro s tid p bytes
    dsimp only
    intro reached mapped sound gen turn awaited
    have taken {op : Nat} {body : Nat → UsbHdr → Nat → Pipe → State} (kind : (usbHdr bytes).op = op) :=
      State.nearMsg_taken (body := body) reached mapped sound gen turn awaited kind
    refine ⟨fun op live => ?_, fun op dead => ?_, fun op dead => ?_, fun op live stall => ?_, fun op live err => ?_,
      fun op answers ok => ?_, fun op live noStatus notInt ok stage => ?_⟩
      <;> refine congrArg Host.Outcome.next ((taken op).trans ?_)
    · dsimp only
      rw [if_neg live]
    · dsimp only
      rw [if_pos dead]
    · exact if_pos dead
    · exact (if_neg live).trans (if_pos stall)
    · exact (if_neg live).trans ((if_neg (by simp [err])).trans (if_pos err))
    · exact (if_neg (by omega)).trans ((if_neg (by simp [ok])).trans ((if_neg (by simp [ok])).trans (if_pos ⟨ok, answers⟩)))
    · exact (if_neg live).trans ((if_neg (by simp [ok])).trans ((if_neg (by simp [ok])).trans
        ((if_neg (fun h => h.2.elim noStatus notInt)).trans (if_neg stage))))
  case port =>
    intro s tid src p bytes reached kind sound
    dsimp only
    refine ⟨fun far => ?_, fun own gen => ?_, fun own gen => ?_⟩
      <;> refine congrArg Host.Outcome.next ((effPortMessage_known kind sound reached).trans ?_)
    · exact if_pos (Option.isSome_iff_ne_none.mpr far)
    · exact (if_neg (by simp [own])).trans (if_neg (not_not.mpr gen))
    · exact (if_neg (by simp [own])).trans (if_pos gen)
  case firstPort =>
    exact fun s tid src p bytes present new usb dfp one four there free reached far kind sound =>
      congrArg Host.Outcome.next (effPortMessage_first kind sound present new usb dfp one four there free reached far)
  case runs =>
    exact fun s p addr ep pid dirIn data => ⟨Pipe.runs_frame, Pipe.runs_iso, Pipe.runs_free,
      fun other held res => congrArg Host.Outcome.next (effFarBusTransaction_held other held)⟩
  case data =>
    intro s p addr ep pid dirIn data u k x present far other work runs free fails
    have ran (res : Nat) := effFarBusTransaction_data (res := res) (pid := pid) (data := data) other present far work runs free
    refine ⟨congrArg Host.Outcome.next (ran 2), fun few => ?_, fun many empty => ?_, fun many toHost collected => ?_,
      fun toHost collected => ?_, fun empty => ?_, fun toHost nonIso toggle => ?_, fun toHost toggle => ⟨?_, ?_⟩, fun out => ?_⟩
      <;> refine congrArg Host.Outcome.next ((ran _).trans ?_)
    · exact State.farResult_retry few
    · exact (State.farResult_error many).trans ((State.failPipe_now empty).trans State.failNow_err)
    · exact (State.farResult_error many).trans (State.failPipe_collected toHost collected)
    · exact State.farResult_stall.trans (State.failPipe_collected toHost collected)
    · exact State.farResult_stall.trans ((State.failPipe_now empty).trans State.failNow_stall)
    · subst toHost
      exact State.farResult_repeat nonIso toggle
    · subst toHost
      refine (State.farResult_in (.inl rfl) toggle).trans ?_
      simp only [OfNat.zero_ne_ofNat, false_or]
      rfl
    · subst toHost
      exact (State.farResult_in (.inr rfl) toggle).trans (if_pos (.inr (.inl rfl)))
    · subst out
      exact State.farResult_out
  case ctrl =>
    intro s p addr ep pid data
    dsimp only
    intro present far ctrl work free
    refine ⟨fun toDevice runs => ?_, fun toDevice runs last => ?_⟩
      <;> refine congrArg Host.Outcome.next ((effFarBusTransaction_ctrl present far ctrl work runs free).trans ?_)
    · exact State.farResult_statusIn toDevice
    · exact State.farResult_ctrlOut toDevice last

end Sys2Proof.Machine

end

section

/-! ## The USB_ commands -/

namespace Sys2Proof.Machine

open Sys2Proof

section

variable {u : State} {c : Cmd} {v gen : Nat} {any : Bool} {denied absent stale rest : State}

/-- A command to a port that its slice may use, that is there and whose generation it names passes the checks of USB ports. -/
theorem usbChecks_pass (may : u.mayUse c 7 v = true) (present : u.usbPresent = true) (there : u.usbPort v = true)
    (fresh : genOk any gen (u.uport v).gen = true) :
    (if (!u.mayUse c 7 v) = true then denied
      else if (!u.usbPresent) = true ∨ (!u.usbPort v) = true then absent
      else if (!genOk any gen (u.uport v).gen) = true then stale
      else rest) = rest :=
  (if_neg (by simp [may])).trans ((if_neg (by simp [present, there])).trans (if_neg (by simp [fresh])))

/-- The entry of a port that is not as at reset is read back. -/
theorem State.setUport_uport {x : UPort} (listed : x ≠ UPort.init) : (u.setUport v x).uport v = x :=
  Tab.read_write_self UPort.init u.usb.ports v listed

/-- An overcurrent is over, where USB_OC_N has gone high, for a port whose entry is read back. -/
theorem State.ocDone_uport (listed : { u.uport v with ocOff := (u.uport v).ocOff && (u.uport v).ocLow } ≠ UPort.init) :
    (u.ocDone v).uport v = { u.uport v with ocOff := (u.uport v).ocOff && (u.uport v).ocLow } :=
  State.setUport_uport listed

/-- A port under a power cycle begun is not as at reset. -/
theorem UPort.ne_init_of_offAt {x : UPort} {n : Nat} (begun : x.offAt = n + 1) : x ≠ UPort.init := by
  rintro rfl
  exact absurd begun (Nat.succ_ne_zero n).symm

/-- The policy set by USB_PORT_POWER gives the port its power. -/
theorem State.usbRepower_set {pol off : Nat} :
    (((u.setUport v { u.uport v with policy := pol, offMs := off, offAt := u.uptime + 1 }).ocDone v).usbRepower v) =
      let t := (u.setUport v { u.uport v with policy := pol, offMs := off, offAt := u.uptime + 1 }).ocDone v
      if (u.uport v).far = none then t.usbPower v (decide (pol = 3) || (decide (pol = 0) && (u.uport v).hostPwr)) else t.farPower v := by
  have set : (u.setUport v { u.uport v with policy := pol, offMs := off, offAt := u.uptime + 1 }).uport v =
      { u.uport v with policy := pol, offMs := off, offAt := u.uptime + 1 } :=
    State.setUport_uport (UPort.ne_init_of_offAt rfl)
  have done := State.ocDone_uport (u := u.setUport v { u.uport v with policy := pol, offMs := off, offAt := u.uptime + 1 }) (v := v)
    (UPort.ne_init_of_offAt (n := u.uptime) (by rw [set]))
  simp only [State.usbRepower, done, set]
  cases (u.uport v).far <;> rfl

end

/-- An event of a port leaves the words of its query as they are. -/
theorem State.usbEvent_usbWords {s : State} {v w reason status value : Nat} :
    (s.usbEvent v reason status value).usbWords w = s.usbWords w := by
  have usb : (s.usbEvent v reason status value).usb = s.usb := by
    have only := s.usbEvent_only v reason status value
    simp only [only]
  simp only [State.usbWords, State.uport, usb]

/-- Settles O46: each command from the checks of USB ports, then from its own in their order. -/
theorem usbCommands : Obligations.usbCommands := by
  intro c
  dsimp only
  refine ⟨?map, ?busy, ?closed, ?unmapped, ?unmap, ?hubQuery, ?portQuery, ?power, ?powerBad, ?powerDenied, ?counters, ?cleared⟩ <;>
    refine Completes.of (fun _ => rfl) ?_
  case map =>
    rintro u ⟨⟨may, present, there, fresh, active⟩, map, ⟨openMain, okMain, okPer⟩, free, root, away, usb, one, four, same, unused⟩
    refine (usbChecks_pass may present there fresh).trans ?_
    refine (if_neg (by simp [active])).trans ((if_neg (by simp [map])).trans ?_)
    refine (if_neg (by rcases okPer with none' | ⟨openPer, _⟩ <;> simp [*])).trans ?_
    refine (if_neg (by rcases okPer with none' | ⟨_, okPer⟩ <;> simp [*])).trans ?_
    refine (if_neg (by simp [free])).trans ((if_neg ?_).trans (if_neg (ne_true_of_eq_false unused)))
    rintro (h | h | h | h | ⟨per, h⟩)
    · exact away h
    · exact h usb
    · omega
    · omega
    · exact same.elim per h
  case busy =>
    rintro u ⟨⟨may, present, there, fresh, active⟩, map, ⟨openMain, okMain, okPer⟩, mapped⟩
    refine (usbChecks_pass may present there fresh).trans ?_
    refine (if_neg (by simp [active])).trans ((if_neg (by simp [map])).trans ?_)
    refine (if_neg (by rcases okPer with none' | ⟨openPer, _⟩ <;> simp [*])).trans ?_
    refine (if_neg (by rcases okPer with none' | ⟨_, okPer⟩ <;> simp [*])).trans ?_
    exact if_pos (Option.isSome_iff_ne_none.mpr mapped)
  case closed =>
    rintro u ⟨⟨may, present, there, fresh, active⟩, map, closed⟩
    refine (usbChecks_pass may present there fresh).trans ?_
    exact (if_neg (by simp [active])).trans ((if_neg (by simp [map])).trans (if_pos (by simp [closed])))
  case unmapped =>
    rintro u ⟨⟨may, present, there, fresh, active⟩, unmap, free⟩
    refine (usbChecks_pass may present there fresh).trans ?_
    exact (if_neg (by simp [active])).trans ((if_pos unmap).trans (if_pos (by simp [free])))
  case unmap =>
    rintro u ⟨⟨may, present, there, fresh, active⟩, unmap, mapped⟩
    refine (usbChecks_pass may present there fresh).trans ?_
    dsimp only
    rw [if_neg (by simp [active]), if_pos unmap, if_neg (by simp [mapped]), State.usbEvent_usbWords]
  case hubQuery =>
    rintro u ⟨present, hub⟩
    exact (if_neg (by simp [present, hub])).trans (if_pos hub)
  case portQuery =>
    rintro u ⟨present, port, there⟩
    exact (if_neg (by simp [present, there])).trans (if_neg port)
  case power =>
    rintro u ⟨⟨may, present, there, fresh⟩, least, most, on⟩
    refine (usbChecks_pass may present there fresh).trans ?_
    refine (if_neg (by omega)).trans ((if_neg ?_).trans ?_)
    · rintro ⟨always, h⟩
      obtain ⟨dfp, hidden, own⟩ := on always
      rcases h with h | h | h
      · omega
      · simp [hidden] at h
      · simp [own] at h
    · exact congrArg (fun t => t.complete c stOk []) State.usbRepower_set
  case powerBad =>
    rintro u ⟨⟨may, present, there, fresh⟩, bad⟩
    exact (usbChecks_pass may present there fresh).trans (if_pos bad)
  case powerDenied =>
    rintro u ⟨⟨may, present, there, fresh⟩, least, most, always, other⟩
    refine (usbChecks_pass may present there fresh).trans ((if_neg (by omega)).trans (if_pos ⟨always, ?_⟩))
    simpa [Option.isSome_iff_ne_none] using other
  case counters =>
    rintro u ⟨present, there, keep⟩
    refine (if_neg (by simp [keep])).trans ((if_neg (by rcases there with hub | there <;> simp [*])).trans ?_)
    simp only [keep, Bool.not_false, if_true]
  case cleared =>
    rintro u ⟨may, present, there, clear⟩
    refine (if_neg (by simp [may])).trans ((if_neg (by rcases there with hub | there <;> simp [*])).trans ?_)
    simp only [clear, Bool.not_true, Bool.false_eq_true, if_false]

end Sys2Proof.Machine

end

section

/-! ## The NET_ and CAN_ commands -/

namespace Sys2Proof.Machine

open Sys2Proof

section

variable {u : State} {c : Cmd} {m n : Nat} {denied absent rest : State}

/-- A command to a MAC that its slice may use and that is fitted passes the checks of MACs. -/
theorem macChecks_pass (may : u.mayUse c 8 m = true) (fitted : u.macFitted m = true) :
    (if (!u.mayUse c 8 m) = true then denied else if (!u.macFitted m) = true then absent else rest) = rest :=
  (if_neg (by simp [may])).trans (if_neg (by simp [fitted]))

/-- A command to a controller that its slice may use and that is fitted passes the checks of controllers. -/
theorem canChecks_pass (may : u.mayUse c 9 n = true) (fitted : u.canFitted n = true) :
    (if (!u.mayUse c 9 n) = true then denied else if (!u.canFitted n) = true then absent else rest) = rest :=
  (if_neg (by simp [may])).trans (if_neg (by simp [fitted]))

end

/-! ### What becomes of the frame that a controller offers when it is set anew -/

/-- The frames offered from queue `k`: the one on offer, where it is from that queue. -/
def Can.offeredFrom (x : Can) (k : Nat) : List CanQ := (x.offered.toList.filter fun p => decide (p.1 = k)).map Prod.snd

theorem Can.offeredFrom_timed {x : Can} :
    (match x.offered with | some (1, q) => [q] | _ => []) = x.offeredFrom 1 := by
  unfold Can.offeredFrom
  split
  next q offered => simp [offered]
  next other =>
    cases offered : x.offered with
    | none => rfl
    | some p =>
      have timed : p.1 ≠ 1 := by
        rintro timed
        exact other p.2 (by rw [offered, ← timed])
      simp [timed]

theorem Can.offeredFrom_tunnel {x : Can} {off : Prop} [Decidable off] :
    (match x.offered with | some (2, q) => if off then q :: x.tunQ else x.tunQ | _ => x.tunQ) =
      if off then x.offeredFrom 2 ++ x.tunQ else x.tunQ := by
  unfold Can.offeredFrom
  split
  next q offered => simp [offered]
  next other =>
    cases offered : x.offered with
    | none => simp
    | some p =>
      have tunnel : p.1 ≠ 2 := by
        rintro tunnel
        exact other p.2 (by rw [offered, ← tunnel])
      simp [tunnel]

theorem Can.offered_kept {x : Can} {off : Prop} [Decidable off] :
    (match x.offered with | some (1, _) => none | o => if off then none else o) =
      if off then none else x.offered.filter fun p => decide (p.1 ≠ 1) := by
  split
  next q offered => simp [offered, Option.filter]
  next other =>
    cases offered : x.offered with
    | none => simp
    | some p =>
      have timed : p.1 ≠ 1 := by
        rintro timed
        exact other p.2 (by rw [offered, ← timed])
      simp [timed, Option.filter]

/-- A controller set anew by CAN_CFG, with the frame it offered from the timed queue, the tunnel queue and the frame still on offer. -/
def State.canSetAnew (u : State) (c : Cmd) (n : Nat) (first tunQ : List CanQ) (offered : Option (Nat × CanQ)) : State :=
  let x := u.can n
  let mode := c.f 4 2 1
  let y : Can := { x with mode := mode, claimed := x.claimed && decide (mode ≠ 0 ∧ mode ≠ 3), autoRec := c.b 4 3, nom := word (c.w 5)
                          dat := word (c.w 6), age := c.f 7 9 0, timedQ := [], tunQ := tunQ, offered := offered }
  let v := ((u.setCan n y).canCount n ccTxDrop (first ++ x.timedQ).length).abortSends (first ++ x.timedQ)
  if x.busOff = true then v.modCan n fun x => { x with forceRec := decide (mode ≠ 0) }
  else if x.mode ≠ mode then (v.modCan n fun x => { x with others := [] }).claimStart n else v

/-! ### A frame queued at its instant -/

section Timed

variable {s : State} {n due : Nat} {f : CanFrame} {cmd : Option Cmd} {owner : Nat × Nat}

/-- The frames that count against the queue's room: those queued and the one on the bus. -/
theorem State.canHeld_eq :
    (s.can n).timedQ.length + (if (s.can n).offered.map Prod.fst = some 1 then 1 else 0) = (s.can n).held 1 (s.can n).timedQ := by
  unfold Can.held b2n
  simp only [decide_eq_true_eq]

/-- A frame that needs an address the controller has not claimed is ABORTED. -/
theorem State.canTimed_unclaimed (needs : f.useSa = true) (unclaimed : (s.can n).claimed = false) :
    s.canTimed n f due cmd owner = (s.canCount n ccNoAddr 1, some stAborted) := if_pos ⟨needs, by simp [unclaimed]⟩

variable (address : f.useSa = true → (s.can n).claimed = true)
include address

/-- A frame that finds the queue full is dropped. -/
theorem State.canTimed_full (full : 16 ≤ (s.can n).held 1 (s.can n).timedQ) :
    s.canTimed n f due cmd owner = ((s.canCount n ccTxDrop 1).canAlert n 10 stNoResource 1 0 0, some stNoResource) :=
  (if_neg (by rintro ⟨needs, unclaimed⟩; simp [address needs] at unclaimed)).trans (if_pos full)

/-- A frame with room joins the queue. -/
theorem State.canTimed_queued (room : (s.can n).held 1 (s.can n).timedQ < 16) :
    s.canTimed n f due cmd owner = (s.setCan n { s.can n with timedQ := (s.can n).timedQ ++
      [{ frame := { f with w0 := if f.useSa then word (f.w0.toNat / 256 * 256 + (s.can n).addr) else f.w0
                           w1 := f.w1 &&& 0xC000007F#32 }, due := due, cmd := cmd, owner := some owner, tid := 0 }] }, none) :=
  (if_neg (by rintro ⟨needs, unclaimed⟩; simp [address needs] at unclaimed)).trans (if_neg (by omega))

end Timed

/-- Settles O49: each command from the checks of MACs or controllers, then from its own in their order. -/
theorem netCanCommands : Obligations.netCanCommands := by
  intro c m n macOk canMay t r entries bufsz ringOk ringMay words vlan filter sendData held frame
  refine ⟨?cfg, ?cfgBad, ?cfgAbsent, ?mdioFirst, ?mdioNext, ?ringOff, ?ringBusy, ?ringOn, ?vlan, ?vlanBad, ?query, ?queryAbsent,
    ?counters, ?countersCleared, ?canBad, ?canLimit, ?can, ?filter, ?name, ?nameBad, ?canQuery, ?canCounters,
    fun at' => ?send, fun at' => ?sendAborted, fun at' => ?sendFull⟩ <;>
    refine Completes.of (fun _ => rfl) ?_
  case cfg =>
    rintro u ⟨form, ⟨may, fitted⟩, mode, least, most⟩
    simp only [form]
    exact (macChecks_pass may fitted).trans (if_neg (by omega))
  case cfgBad =>
    rintro u ⟨form, ⟨may, fitted⟩, bad⟩
    simp only [form]
    exact (macChecks_pass may fitted).trans (if_pos bad)
  case cfgAbsent =>
    rintro u ⟨form, may, absent⟩
    simp only [form]
    exact (if_neg (by simp [m, may])).trans (if_pos (by simp [m, absent]))
  case mdioFirst =>
    rintro u ⟨form, auth, idle⟩
    simp only [form]
    simp [auth, idle]
  case mdioNext =>
    rintro u ⟨form, auth, busy⟩
    simp only [form]
    simp [auth, busy]
  case ringOff =>
    rintro u ⟨⟨form, own, fresh⟩, off⟩
    simp only [form]
    exact (if_neg (not_of_holds own)).trans ((if_neg (not_of_holds fresh)).trans (if_pos (by simp [off])))
  case ringBusy =>
    rintro u ⟨⟨form, own, fresh⟩, on, busy⟩
    simp only [form]
    exact (if_neg (not_of_holds own)).trans ((if_neg (not_of_holds fresh)).trans ((if_neg (by simp [on])).trans (if_pos busy)))
  case ringOn =>
    rintro u ⟨⟨form, own, fresh⟩, on, free, cls, here, ends, size, least, most, line, aligned⟩
    simp only [form]
    refine (if_neg (not_of_holds own)).trans ((if_neg (not_of_holds fresh)).trans ((if_neg (by simp [on])).trans
      ((if_neg (ne_true_of_eq_false free)).trans (if_neg ?_))))
    have within : ¬ (bufsz < 256 ∨ 16384 < bufsz ∨ bufsz % 64 ≠ 0) := by omega
    have endsHere : (if c.b 4 5 = true then (u.gaz t).loc && (decide (epSlice (u.gaz t).dstEp = some c.slice) && c.here)
        else decide ((u.gaz t).ingress = 7) && (decide (epSlice (u.gaz t).srcEp = some c.slice) && c.here)) = true := by
      split at ends <;> simp [*]
    rintro (⟨net, can⟩ | other | size' | small | large | odd | unaligned)
    · exact cls.elim net can
    · exact not_of_holds endsHere other
    · exact size' size
    · omega
    · omega
    · omega
    · simp [aligned] at unaligned
  case vlan =>
    rintro u ⟨⟨may, fitted⟩, source⟩
    exact (macChecks_pass may fitted).trans (if_neg (by simp [m, t, source]))
  case vlanBad =>
    rintro u ⟨⟨may, fitted⟩, other⟩
    exact (macChecks_pass may fitted).trans (if_pos (by simp [m, t, other]))
  case query =>
    rintro u fitted
    exact if_neg (by simp [m, fitted])
  case queryAbsent =>
    rintro u absent
    exact if_pos (by simp [m, absent])
  case counters =>
    rintro u ⟨fitted, keep⟩
    refine (if_neg (by simp [keep])).trans ((if_neg (by simp [m, fitted])).trans ?_)
    simp only [keep, Bool.false_eq_true, if_false]
    rfl
  case countersCleared =>
    rintro u ⟨⟨may, fitted⟩, clear⟩
    refine (if_neg (by simp [m, may])).trans ((if_neg (by simp [m, fitted])).trans ?_)
    simp only [clear, if_true]
    rfl
  case canBad =>
    rintro u ⟨⟨may, fitted⟩, bad⟩
    exact (canChecks_pass may fitted).trans (if_pos bad)
  case canLimit =>
    rintro u ⟨⟨may, fitted⟩, good, limit⟩
    exact (canChecks_pass may fitted).trans ((if_neg (by simp [good])).trans (if_pos limit))
  case can =>
    rintro u ⟨⟨may, fitted⟩, good, within⟩
    refine (canChecks_pass may fitted).trans ((if_neg (by simp [good])).trans ((if_neg (by simp [within])).trans ?_))
    let off : Prop := c.f 4 2 1 = 0 ∨ c.f 4 2 1 = 3
    exact congrArg (·.complete c stOk []) (congr (congr (congrArg (u.canSetAnew c n) Can.offeredFrom_timed)
      (Can.offeredFrom_tunnel (off := off))) (Can.offered_kept (off := off)))
  case filter =>
    rintro u ⟨⟨may, fitted⟩, source⟩
    refine (canChecks_pass may fitted).trans (if_neg ?_)
    simpa [n] using source
  case name =>
    rintro u ⟨⟨may, fitted⟩, pref⟩
    exact (canChecks_pass may fitted).trans (if_neg (by omega))
  case nameBad =>
    rintro u ⟨⟨may, fitted⟩, pref⟩
    exact (canChecks_pass may fitted).trans (if_pos pref)
  case canQuery =>
    rintro u ⟨fitted, keep, form⟩
    refine (if_neg (by simp [keep])).trans ((if_neg (by simp [n, fitted])).trans ((if_neg (by simp [form])).trans ?_))
    simp only [keep, Bool.false_eq_true, if_false]
    rfl
  case canCounters =>
    rintro u ⟨⟨may, fitted⟩, clear, form⟩
    refine (if_neg (by simp [n, may])).trans ((if_neg (by simp [n, fitted])).trans ((if_pos form).trans ?_))
    simp only [clear, if_true]
    rfl
  case send =>
    rintro u ⟨⟨may, fitted⟩, size, instant, address, room⟩
    refine (canChecks_pass may fitted).trans ((if_neg (by rcases size with short | far <;> simp [*])).trans ?_)
    simp only [instant]
    rw [State.canTimed_queued address (State.canHeld_eq ▸ room)]
  case sendAborted =>
    rintro u ⟨⟨may, fitted⟩, size, instant, needs, unclaimed⟩
    refine (canChecks_pass may fitted).trans ((if_neg (by rcases size with short | far <;> simp [*])).trans ?_)
    simp only [instant]
    rw [State.canTimed_unclaimed needs unclaimed]
  case sendFull =>
    rintro u ⟨⟨may, fitted⟩, size, instant, address, full⟩
    refine (canChecks_pass may fitted).trans ((if_neg (by rcases size with short | far <;> simp [*])).trans ?_)
    simp only [instant]
    rw [State.canTimed_full address (State.canHeld_eq ▸ full)]

end Sys2Proof.Machine

end

section

/-! ## Window requests near the host and at the far hub -/

namespace Sys2Proof.Machine

open Sys2Proof

/-! ### BAR2 requests -/

section Bar2

variable {s : State} {p a fbe lbe len tag ty sz : Nat} {data : List Byte}

/-- A port at which BAR2 is not reached answers UR where it hears. -/
theorem bar2_unreached (out : s.bar2Reach p = false) :
    effBar2MemoryRead p tag a len fbe lbe s = s.hostUr p tag ∧ effBar2Atomicop p tag a ty sz data s = s.hostUr p tag ∧
      effBar2LockedRead p tag a s = s.hostUr p tag ∧ effBar2MemoryWrite p a fbe lbe data s = s :=
  ⟨if_pos (by simp [out]), if_pos (by simp [out]), if_pos (by simp [out]), if_pos (by simp [out])⟩

variable (reach : s.bar2Reach p = true)
include reach

/-- A request that finds its port pressed waits with the host. -/
theorem bar2_pressed (pressed : s.pressed p = true) :
    effBar2MemoryWrite p a fbe lbe data s = s ∧ effBar2MemoryRead p tag a len fbe lbe s = s ∧
      effBar2Atomicop p tag a ty sz data s = s ∧ effBar2LockedRead p tag a s = s :=
  ⟨if_pos (by simp [pressed]), (if_neg (by simp [reach])).trans (if_pos (by simp [pressed])),
    (if_neg (by simp [reach])).trans (if_pos pressed), (if_neg (by simp [reach])).trans (if_pos pressed)⟩

variable (free : s.pressed p = false)
include free

/-- A write that may be taken. -/
theorem effBar2MemoryWrite_taken (short : data.length ≤ 4096) :
    effBar2MemoryWrite p a fbe lbe data s = match s.winAt p a with
      | none => s.unmapped p a
      | some w =>
        if !s.winTakes (s.wnd w) then s.winCount w wcDiscarded
        else if !(s.wnd w).acked (a - (s.wnd w).apoff * 4096) then
          (s.winCount w wcWritesP).sendTunnel (s.wnd w).tid false (winMsg opWriteP 0 (s.wnd w).gen 0 (a - (s.wnd w).apoff * 4096)
            (pack [fld 16 data.length, fld 4 (lbe % 16), fbe % 16]).toNat data)
        else (s.winCount w wcWritesA).winSend w 2 (a - (s.wnd w).apoff * 4096) data.length 0
          (pack [fld 16 data.length, fld 4 (lbe % 16), fbe % 16]).toNat data :=
  (if_neg (by simp [reach, free]; omega)).trans rfl

/-- A read that may be taken. -/
theorem effBar2MemoryRead_taken (short : len ≤ 4096) :
    effBar2MemoryRead p tag a len fbe lbe s = match s.winAt p a with
      | none => (s.unmapped p a).hostCpl p tag resUr []
      | some w =>
        if !s.winTakes (s.wnd w) then s.hostCpl p tag resCa []
        else (s.winCount w wcReads).winSend w 0 (a - (s.wnd w).apoff * 4096) len tag
          (pack [fld 16 len, fld 4 (lbe % 16), fbe % 16]).toNat [] :=
  (if_neg (by simp [reach])).trans ((if_neg (by simp [free]; omega)).trans rfl)

/-- An AtomicOp that may be taken. -/
theorem effBar2Atomicop_taken :
    effBar2Atomicop p tag a ty sz data s = match s.winAt p a with
      | none => (s.unmapped p a).hostCpl p tag resUr []
      | some w =>
        if !atomicOk ty sz a data then s.hostCpl p tag resUr []
        else if !s.winTakes (s.wnd w) then s.hostCpl p tag resCa []
        else (s.winCount w wcAtomics).winSend w 3 (a - (s.wnd w).apoff * 4096) data.length tag
          (pack [fld 16 data.length, fld 12 sz, fld 10 ty]).toNat data :=
  (if_neg (by simp [reach])).trans ((if_neg (by simp [free])).trans rfl)

/-- A locked read that may be taken. -/
theorem effBar2LockedRead_taken :
    effBar2LockedRead p tag a s = match s.winAt p a with
      | none => (s.unmapped p a).hostCpl p tag resUr []
      | some _ => s.hostCpl p tag resUr [] :=
  (if_neg (by simp [reach])).trans ((if_neg (by simp [free])).trans rfl)

end Bar2

/-! ### Responses at the near hub -/

section Near

variable {s : State} {t w op : Nat} {bytes : List Byte} {k : Nat → WinReq → WinHdr → State → State}
  (core : s.coreOn = true) (near : s.nearOf t = some w)
include core near

/-- A response that fits a request in the window's generation is taken. -/
theorem State.nearWin_taken {r : WinReq} (kind : (winHdr bytes).op = op) (ok : (winHdr bytes).ok = true)
    (gen : (winHdr bytes).gen = (s.wnd w).gen)
    (waits : (s.wnd w).reqs.find? (fun r => decide (r.rseq = (winHdr bytes).rseq)) = some r) :
    s.nearWin t op bytes k = k w r (winHdr bytes) s := by
  simp only [State.nearWin, core, if_true, near]
  rw [if_neg (by simp [kind]), if_neg (by simp [ok, gen]), waits]

/-- A response for which nothing waits is STALE. -/
theorem State.nearWin_stale (kind : (winHdr bytes).op = op) (ok : (winHdr bytes).ok = true)
    (gen : (winHdr bytes).gen = (s.wnd w).gen)
    (none' : (s.wnd w).reqs.find? (fun r => decide (r.rseq = (winHdr bytes).rseq)) = none) :
    s.nearWin t op bytes k = s.winCount w wcStale := by
  simp only [State.nearWin, core, if_true, near]
  rw [if_neg (by simp [kind]), if_neg (by simp [ok, gen]), none']

/-- A response that is not sound, or of another generation, is STALE. -/
theorem State.nearWin_unfit
    (unfit : (winHdr bytes).ok = false ∨ (winHdr bytes).op = op ∧ (winHdr bytes).gen ≠ (s.wnd w).gen) :
    s.nearWin t op bytes k = s.winCount w wcStale := by
  simp only [State.nearWin, core, if_true, near]
  rw [if_neg, if_pos]
  · rcases unfit with unsound | ⟨-, gen⟩
    · simp [unsound]
    · exact .inr gen
  · rintro ⟨sound, kind⟩
    rcases unfit with unsound | ⟨same, -⟩
    · simp [sound] at unsound
    · exact kind same

end Near

/-! ### The far hub -/

/-- A request comes from the root's side where its tunnel enters by another link than the uplink. -/
theorem State.toRoot_iff {s : State} {l : Nat} :
    (decide (l ≠ 7) && !s.upLink l) = true ↔ l ≠ 7 ∧ s.upLink l = false := by simp

section Far

variable {s : State} {t : Nat} {bytes : List Byte}

/-- A sound message of its kind reaches the far record. -/
theorem State.farWin_taken {op : Nat} (tun : s.farTun t = true) (kind : (winHdr bytes).op = op) :
    s.farWin t op bytes = (s.farRequest t (winHdr bytes)).exitGo 9 := if_neg (by simp [tun, kind])

variable {h : WinHdr} (ok : h.ok = true)
include ok

/-- A request on a record that is closed fails. -/
theorem State.farRequest_closed (closed : (s.wnd (s.farOf t)).st = wClosed) :
    s.farRequest t h = s.farFail (s.farOf t) t h.op resUr h.gen h.rseq h.off :=
  (if_neg (by simp [ok])).trans (if_pos (.inl closed))

variable (opened : (s.wnd (s.farOf t)).st ≠ wClosed) (far : (s.wnd (s.farOf t)).far = true)
  (gen : (s.wnd (s.farOf t)).gen = h.gen)
include opened far gen

/-- A request on a record in its generation. -/
theorem State.farRequest_current :
    s.farRequest t h =
      let w := s.farOf t
      let x := s.wnd w
      let u := s.setWnd w x
      if x.st = wDraining then u.farFail w t h.op resCa h.gen h.rseq h.off
      else if 2 ^ x.sizeLog < h.off + h.span then u.farFail w t h.op resUr h.gen h.rseq h.off
      else if h.op = opAtomic ∧ (x.reg ∨ x.sem.isNone ∨ !atomicOk (bits h.w2 11 10) (bits h.w2 13 12) h.off h.data) then
        u.farFail w t h.op resUr h.gen h.rseq h.off
      else
        match if h.op = opAtomic then x.atomics.find? fun a => decide (a.1 = h.rseq.toNat) else none with
        | some (_, v, res) => u.winReply t opAtomicData res h.gen h.rseq h.off v.length v
        | none =>
          if (decide ((s.gaz t).ingress ≠ 7) && !s.upLink (s.gaz t).ingress) ∧ 256 - s.win.store.length < 64 ∧
              (h.op = opRead ∨ h.op = opAtomic) then
            u.sendTunnel (t + 1) false (winMsg opRetry 0 h.gen h.rseq h.off 0 [])
          else
            (u.setStore (u.win.store ++ [{ win := w, op := h.op, wgen := h.gen, rseq := h.rseq, offset := h.off, len := h.len,
                                           w2 := word h.w2, data := h.data, started := false, semWait := false, dead := false
                                           since := s.uptime + 1 }])).present := by
  unfold State.farRequest
  dsimp only
  rw [if_neg (by simp [ok]), if_neg (by simp [opened, far]), if_pos gen]
  rfl

end Far

/-! ### Timers of requests and semaphores -/

/-- A request that no back-off holds any more is not found while every back-off runs. -/
theorem backedOff_none {s : State} {w rseq : Nat}
    (runs : ∀ r ∈ (s.wnd w).reqs, r.rseq.toNat = rseq → ∀ t, r.backoff = some t → s.uptime < t) :
    (s.wnd w).reqs.find? (fun r => decide (r.rseq.toNat = rseq) && s.backedOff r) = none := by
  rw [List.find?_eq_none]
  intro r mem ended
  rw [Bool.and_eq_true, decide_eq_true_eq] at ended
  obtain ⟨same, ended⟩ := ended
  unfold State.backedOff at ended
  split at ended
  next t backoff =>
    have := runs r mem same t backoff
    have := of_decide_eq_true ended
    omega
  next => contradiction

/-- A semaphore without waiters becomes FREE. -/
theorem State.semNext_free {s : State} {n : Nat} (waiters : (s.semAt n).waiters = []) :
    s.semNext n = s.setSem n { s.semAt n with held := false, bridge := false, waiters := [] } := by
  simp only [State.semNext, waiters, State.semPass]

/-- A semaphore passes to a command that waits first. -/
theorem State.semNext_command {s : State} {n lease t : Nat} {c : Cmd} {rest : List (Option Cmd × Nat × Nat)}
    (waiters : (s.semAt n).waiters = (some c, lease, t) :: rest) :
    s.semNext n = (s.setSem n { s.semAt n with
      waiters := rest, held := true, bridge := false, hub := s.cmdHub c, slice := c.slice, gen := (s.semAt n).gen + 1, leaseMs := lease
      takenAt := s.uptime + 1 }).semDone c n stOk := by
  simp only [State.semNext, waiters, State.semPass, Sem.take]

section WaitExpiry

variable {s : State} {n lease t : Nat} {c : Cmd} (waiters : (s.semAt n).waiters = [(some c, lease, t)])
include waiters

/-- A wait that runs on changes nothing. -/
theorem effSemaphoreWaitExpiry_early (early : s.passed t (400000 * c.w 6) = false) :
    effSemaphoreWaitExpiry n (s.cmdHub c) c.htag s = s := by
  simp [effSemaphoreWaitExpiry, waiters, early]

/-- A wait that runs out completes with BUSY. -/
theorem effSemaphoreWaitExpiry_over (ended : s.passed t (400000 * c.w 6) = true) :
    effSemaphoreWaitExpiry n (s.cmdHub c) c.htag s =
      ((s.setSem n { s.semAt n with waiters := [] }).semDone c n stBusy).present := by
  simp [effSemaphoreWaitExpiry, waiters, ended]

end WaitExpiry

/-! ### The end of an access at the far hub -/

/-- An access that ends leaves the store; the answer of one other than an ATOMIC. -/
theorem effFarAccessDone_plain {s : State} {i res : Nat} {data : List Byte} {r : FarReq} (entry : s.win.store[i]? = some r)
    (started : r.started = true) (core : s.coreOn = true) (plain : r.op ≠ opAtomic) :
    effFarAccessDone i res data s =
      let x := s.wnd r.win
      let u := s.setStore (s.win.store.eraseIdx i)
      let res := if res = 3 then resCa else min res 4
      ((if r.dead then u
        else if res ≠ 0 then u.farFail r.win x.tid r.op res r.wgen r.rseq r.offset
        else if r.op = opRead then
          u.winReply x.tid opReadData resOk r.wgen r.rseq r.offset (data.take r.len).length (data.take r.len)
        else if r.op = opWriteA then u.winReply x.tid opWriteDone resOk r.wgen r.rseq r.offset 0 []
        else u).present).winDrained r.win := by
  simp only [effFarAccessDone, entry]
  rw [if_neg (by simp [started, core]), if_neg plain]

/-- Settles O50: the BAR2 rows from the requests that are taken, the responses from the request they fit, the far rows from the
order of the far record's checks, and each timer from its time. -/
theorem remoteWindows : Obligations.remoteWindows := by
  refine ⟨⟨?unreached, ?pressed, ?unmapped, ?mapped, ?response, ?unfit, ?timeout, ?early, ?again, ?leaseEarly, ?next, ?lease, ?wait⟩,
    ?request, ?done, ?hold⟩
  case unreached =>
    intro s p a fbe lbe len tag ty sz data out u
    obtain ⟨read, atomic, locked, write⟩ := bar2_unreached (a := a) (fbe := fbe) (lbe := lbe) (len := len) (tag := tag) (ty := ty)
      (sz := sz) (data := data) out
    exact ⟨congrArg Host.Outcome.next read, congrArg Host.Outcome.next atomic, congrArg Host.Outcome.next locked,
      congrArg Host.Outcome.next write⟩
  case pressed =>
    intro s p a fbe lbe len tag ty sz data reach pressed
    obtain ⟨write, read, atomic, locked⟩ := bar2_pressed (a := a) (fbe := fbe) (lbe := lbe) (len := len) (tag := tag) (ty := ty)
      (sz := sz) (data := data) reach pressed
    exact ⟨congrArg Host.Outcome.next write, congrArg Host.Outcome.next read, congrArg Host.Outcome.next atomic,
      congrArg Host.Outcome.next locked⟩
  case unmapped =>
    intro s p a fbe lbe len tag ty sz data reach free none'
    refine ⟨fun short => ?_, fun short => ?_, ?_, ?_⟩ <;> refine congrArg Host.Outcome.next ?_
    · rw [effBar2MemoryWrite_taken reach free short, none']
    · rw [effBar2MemoryRead_taken reach free short, none']
    · rw [effBar2Atomicop_taken reach free, none']
    · rw [effBar2LockedRead_taken reach free, none']
  case mapped =>
    intro s p a fbe lbe len tag ty sz w data reach free found x off w2
    refine ⟨?_, fun short stops => ?_, fun short takes posted => ?_, fun short takes acked => ?_, fun short stops => ?_,
      fun short takes => ?_, fun bad => ?_, fun good stops => ?_, fun good takes => ?_⟩ <;> refine congrArg Host.Outcome.next ?_
    · rw [effBar2LockedRead_taken reach free, found]
    · rw [effBar2MemoryWrite_taken reach free short, found]
      exact if_pos (by simp [stops, x])
    · rw [effBar2MemoryWrite_taken reach free short, found]
      exact (if_neg (not_of_holds takes)).trans (if_pos (congrArg (! ·) posted))
    · rw [effBar2MemoryWrite_taken reach free short, found]
      exact (if_neg (not_of_holds takes)).trans (if_neg (not_of_holds acked))
    · rw [effBar2MemoryRead_taken reach free short, found]
      exact if_pos (congrArg (! ·) stops)
    · rw [effBar2MemoryRead_taken reach free short, found]
      exact if_neg (not_of_holds takes)
    · rw [effBar2Atomicop_taken reach free, found]
      exact if_pos (congrArg (! ·) bad)
    · rw [effBar2Atomicop_taken reach free, found]
      exact (if_neg (not_of_holds good)).trans (if_pos (congrArg (! ·) stops))
    · rw [effBar2Atomicop_taken reach free, found]
      exact (if_neg (not_of_holds good)).trans (if_neg (not_of_holds takes))
  case response =>
    intro s t w bytes core near ok gen h find
    refine ⟨fun kind none' => congrArg Host.Outcome.next (State.nearWin_stale core near kind ok gen none'), fun r some' =>
      ⟨fun kind read => ?_, fun kind atomic => ?_, fun kind write done => ?_, fun kind write failed => ?_, fun kind => ?_⟩⟩
      <;> refine congrArg Host.Outcome.next ((State.nearWin_taken core near kind ok gen some').trans ?_)
    · exact if_neg (not_not.mpr read)
    · exact if_neg (not_not.mpr atomic)
    · exact (if_neg (not_not.mpr write)).trans (if_pos done)
    · exact (if_neg (not_not.mpr write)).trans (if_neg failed)
    · rfl
  case unfit => exact fun s t w bytes core near unfit => congrArg Host.Outcome.next (State.nearWin_unfit core near unfit)
  case timeout =>
    intro s w rseq late
    refine ⟨fun near none' => ?_, fun far drains ended set => ?_, fun r near found => ?_⟩ <;> refine congrArg Host.Outcome.next ?_
    · refine (if_neg (ne_true_of_eq_false near)).trans ?_
      rw [none']
    · exact (if_pos far).trans (if_pos ⟨drains, by rw [if_neg set]; exact ended⟩)
    · refine (if_neg (ne_true_of_eq_false near)).trans ?_
      rw [found]
  case early =>
    intro s w rseq runs
    refine congrArg Host.Outcome.next ?_
    simp only [effRetryBackoffExpiry, backedOff_none runs]
  case again =>
    intro s w rseq r opened found x
    refine congrArg Host.Outcome.next ?_
    simp only [effRetryBackoffExpiry, found]
    exact if_neg (by simp [opened])
  case leaseEarly => exact fun s n early => congrArg Host.Outcome.next (if_pos (by simp [early]))
  case next => exact fun s n lease t c rest => ⟨State.semNext_free, State.semNext_command⟩
  case lease =>
    intro s n held one core ended
    have runs : ¬ ((!(s.semAt n).held) = true ∨ 16 ≤ n ∨ (!s.coreOn) = true ∨
        (!s.passed (s.semAt n).takenAt (400000 * (s.semAt n).leaseMs)) = true) := by
      simp [held, core, ended, one]
    refine ⟨fun bridge => congrArg Host.Outcome.next ((if_neg runs).trans ?_),
      fun command => congrArg Host.Outcome.next ((if_neg runs).trans ?_)⟩
    · simp only [bridge, if_true]
    · simp only [command, Bool.false_eq_true, if_false]
  case wait =>
    exact fun s n lease t c waiters =>
      ⟨fun early => congrArg Host.Outcome.next (effSemaphoreWaitExpiry_early waiters early),
        fun ended => congrArg Host.Outcome.next (effSemaphoreWaitExpiry_over waiters ended)⟩
  case request =>
    intro s t bytes tun ok h w x g all fit busy entry
    have every {v : State} (run : s.farRequest t h = v) : all fun _ => v := by
      refine ⟨fun kind => ?_, fun kind => ?_, fun kind => ?_, fun kind => ?_⟩ <;>
        exact congrArg Host.Outcome.next ((State.farWin_taken tun kind).trans (congrArg (·.exitGo 9) run))
    refine ⟨fun closed => every ?_, fun opened far gen => ?_⟩
    · exact State.farRequest_closed ok closed
    have current := State.farRequest_current (t := t) ok opened far gen
    refine ⟨fun drains => every ?_, fun stays beyond => every ?_, fun stays fits plain free => every ?_,
      fun stays fits kind full => ?_, fun stays fits kind none' => ?_, fun stays fits kind mem sem good free new => ?_⟩
    · exact current.trans (if_pos drains)
    · exact current.trans ((if_neg stays).trans (if_pos (Nat.lt_of_not_le beyond)))
    · refine current.trans ((if_neg stays).trans ((if_neg (Nat.not_lt.mpr fits)).trans
        ((if_neg (fun atomic => plain atomic.1)).trans ?_)))
      rw [if_neg plain]
      refine if_neg ?_
      rintro ⟨toRoot, few, kind⟩
      exact free ⟨⟨State.toRoot_iff.1 toRoot, few⟩, kind.resolve_right plain⟩
    · have plain : h.op ≠ opAtomic := by rw [kind]; decide
      obtain ⟨toRoot, few⟩ := full
      refine congrArg Host.Outcome.next ((State.farWin_taken tun kind).trans (congrArg (·.exitGo 9) (current.trans ?_)))
      refine (if_neg stays).trans ((if_neg (Nat.not_lt.mpr fits)).trans ((if_neg (fun atomic => plain atomic.1)).trans ?_))
      rw [if_neg plain]
      exact if_pos ⟨State.toRoot_iff.2 toRoot, few, .inl kind⟩
    · refine congrArg Host.Outcome.next ((State.farWin_taken tun kind).trans (congrArg (·.exitGo 9) (current.trans ?_)))
      exact (if_neg stays).trans ((if_neg (Nat.not_lt.mpr fits)).trans
        (if_pos ⟨kind, none'.imp id fun no => .inl (Option.isNone_iff_eq_none.2 no)⟩))
    · refine congrArg Host.Outcome.next ((State.farWin_taken tun kind).trans (congrArg (·.exitGo 9) (current.trans ?_)))
      refine (if_neg stays).trans ((if_neg (Nat.not_lt.mpr fits)).trans ((if_neg ?_).trans ?_))
      · rintro ⟨-, reg | no | bad⟩
        · exact Bool.false_ne_true (mem.symm.trans reg)
        · exact sem (Option.isNone_iff_eq_none.1 no)
        · exact not_of_holds good bad
      · rw [if_pos kind, new]
        exact if_neg fun full => free ⟨State.toRoot_iff.1 full.1, full.2.1⟩
  case done =>
    intro s i res data r entry started core x u ends
    have plain (op : r.op ≠ opAtomic) := effFarAccessDone_plain (res := res) (data := data) entry started core op
    refine ⟨fun op dead => ?_, fun live read ok => ?_, fun live write ok => ?_, fun live posted ok => ?_, fun live op failed => ?_⟩
    · refine congrArg Host.Outcome.next ((plain op).trans ?_)
      simp only [dead, if_true]
      rfl
    · refine congrArg Host.Outcome.next ((plain (by rw [read]; decide)).trans ?_)
      simp [live, read, ok, x, u]
    · refine congrArg Host.Outcome.next ((plain (by rw [write]; decide)).trans ?_)
      simp [live, write, ok, x, u, opRead, opWriteA]
    · refine congrArg Host.Outcome.next ((plain (by rw [posted]; decide)).trans ?_)
      simp [live, posted, ok, u, opRead, opWriteA, opWriteP]
    · refine congrArg Host.Outcome.next ((plain op).trans ?_)
      rcases failed with rfl | rfl <;> simp [live, x, u]
  case hold =>
    intro s i r entry waits mem held core
    refine ⟨fun early => congrArg Host.Outcome.next ?_, fun ended => congrArg Host.Outcome.next ?_⟩
    · simp [effFarHoldTimeout, entry, early]
    · simp [effFarHoldTimeout, entry, waits, mem, held, core, ended]

end Sys2Proof.Machine

end

section

/-! ## The WIN_ commands -/

namespace Sys2Proof.Machine

open Sys2Proof

/-! ### WIN_OPEN -/

/-- The slice may open the unit that a WIN_OPEN names (R505). -/
def State.mayOpen (u : State) (c : Cmd) : Bool :=
  let bound := decide (u.cmdHub c = u.selfNo) && (u.slice c.slice).bound
  if !c.b 4 31 then bound && u.ownsTun c (c.f 4 11 0)
  else if c.b 4 30 then u.authZ c || u.ownsTun c (c.f 4 11 0) else bound

/-- The tunnel of a WIN_OPEN is the even one of a pair whose end is here (R486). -/
def State.openPair (u : State) (c : Cmd) : Bool :=
  let g := u.gaz (c.f 4 11 0)
  let ep := if c.b 4 31 then g.dstEp else g.srcEp
  let endOk := if c.b 4 31 then g.loc && decide (g.ingress ≠ 7) else decide (g.ingress = 7) && !g.loc
  decide (c.f 4 11 0 % 2 = 0 ∧ g.state ≠ gClosed ∧ g.cls = clsWin) && g.duplex && endOk && decide (epBlock ep = 9)

/-- The sizes and places of a WIN_OPEN fit (R487). -/
def State.openFits (u : State) (c : Cmd) : Bool :=
  let log := sizeLog (c.f 5 28 24)
  let size := 2 ^ log
  decide (12 ≤ log ∧ log ≤ 32) &&
    (if !c.b 4 31 then decide (c.f 5 23 0 * 4096 % size = 0 ∧ c.f 5 23 0 * 4096 + size ≤ 2 ^ u.board.bar2log ∧ 1 ≤ c.f 6 7 0 ∧
        c.f 6 7 0 ≤ 128 ∧ 1 ≤ c.w 7 ∧ c.w 7 ≤ 1000)
      else if c.b 4 30 then decide (c.w64 8 % size = 0 ∧ c.w64 8 + size ≤ 2 ^ 24) else decide (c.w64 8 % 4096 = 0))

section Open

variable {u : State} {c : Cmd}

theorem State.mayOpen_of (auth : u.cmdHub c = u.selfNo ∧ (u.slice c.slice).bound = true ∧
      (c.b 4 31 = true ∨ u.ownsTun c (c.f 4 11 0) = true) ∧ ¬ (c.b 4 31 = true ∧ c.b 4 30 = true) ∨
    c.b 4 31 = true ∧ c.b 4 30 = true ∧ (u.authZ c = true ∨ u.ownsTun c (c.f 4 11 0) = true)) : u.mayOpen c = true := by
  unfold State.mayOpen
  rcases auth with ⟨here, bound, owns, mem⟩ | ⟨far, reg, may⟩
  · cases far : c.b 4 31
    · simpa [here, bound, far] using owns
    · simp [here, bound, far] at mem ⊢
      simp [mem]
  · simpa [far, reg] using may

theorem State.openPair_of (pair : c.f 4 11 0 % 2 = 0 ∧ (u.gaz (c.f 4 11 0)).state ≠ gClosed ∧ (u.gaz (c.f 4 11 0)).cls = clsWin ∧
    (u.gaz (c.f 4 11 0)).duplex = true ∧
    (if c.b 4 31 then (u.gaz (c.f 4 11 0)).loc = true ∧ (u.gaz (c.f 4 11 0)).ingress ≠ 7 ∧ epBlock (u.gaz (c.f 4 11 0)).dstEp = 9
      else (u.gaz (c.f 4 11 0)).ingress = 7 ∧ (u.gaz (c.f 4 11 0)).loc = false ∧ epBlock (u.gaz (c.f 4 11 0)).srcEp = 9)) :
    u.openPair c = true := by
  obtain ⟨even, opened, cls, duplex, ends⟩ := pair
  unfold State.openPair
  split at ends
  next far => simp [even, opened, cls, duplex, far, ends]
  next near => simp [even, opened, cls, duplex, near, ends]

theorem State.openFits_of (fits : 12 ≤ sizeLog (c.f 5 28 24) ∧ sizeLog (c.f 5 28 24) ≤ 32 ∧
    (if c.b 4 31 then (if c.b 4 30 then c.w64 8 % 2 ^ sizeLog (c.f 5 28 24) = 0 ∧ c.w64 8 + 2 ^ sizeLog (c.f 5 28 24) ≤ 2 ^ 24
        else c.w64 8 % 4096 = 0)
      else c.f 5 23 0 * 4096 % 2 ^ sizeLog (c.f 5 28 24) = 0 ∧ c.f 5 23 0 * 4096 + 2 ^ sizeLog (c.f 5 28 24) ≤ 2 ^ u.board.bar2log ∧
        1 ≤ c.f 6 7 0 ∧ c.f 6 7 0 ≤ 128 ∧ 1 ≤ c.w 7 ∧ c.w 7 ≤ 1000)) : u.openFits c = true := by
  obtain ⟨least, most, places⟩ := fits
  unfold State.openFits
  simp only [Bool.and_eq_true, decide_eq_true_eq]
  refine ⟨⟨least, most⟩, ?_⟩
  split at places
  next far =>
    rw [if_neg (by simp [far])]
    split at places
    next reg => exact (if_pos reg).trans (decide_eq_true places)
    next mem => exact (if_neg mem).trans (decide_eq_true places)
  next near => exact (if_pos (by simpa using near)).trans (decide_eq_true places)

/-- A WIN_OPEN that its slice may give, of a pair and sizes that fit, passes the first checks. -/
theorem winOpen_pass {denied bad rest : State} (may : u.mayOpen c = true) (pair : u.openPair c = true) (fits : u.openFits c = true) :
    (if (!u.mayOpen c) = true then denied else if (!u.openPair c) = true ∨ (!u.openFits c) = true then bad else rest) = rest :=
  (if_neg (not_of_holds may)).trans (if_neg (by simp [pair, fits]))

/-- A far record overlaps nothing, and a near window that overlaps none may open. -/
theorem not_overlapping {far overlap : Bool} (apart : far = true ∨ overlap = false) : ¬ ((!far) = true ∧ overlap = true) := by
  rintro ⟨near, overlaps⟩
  rcases apart with far | clear
  · exact not_of_holds far near
  · exact Bool.false_ne_true (clear.symm.trans overlaps)

end Open

/-! ### A unit that a command names -/

section Owned

variable {u : State} {c : Cmd} {w : Nat} {closed denied rest : State}

/-- A command to a unit of its slice that is not CLOSED passes the checks of owners. -/
theorem winChecks_pass (opened : (u.wnd w).st ≠ wClosed) (auth : u.winAuth c (u.wnd w) = true) :
    (if (u.wnd w).st = wClosed then closed else if (!u.winAuth c (u.wnd w)) = true then denied else rest) = rest :=
  (if_neg opened).trans (if_neg (not_of_holds auth))

end Owned

/-! ### WIN_SEM -/

section Semaphore

variable {u : State} {c : Cmd}

/-- A waiter is an ACQUIRE with the hub, slice and OPID of the command. -/
theorem State.sameAcquire_iff {p : Option Cmd × Nat × Nat} :
    u.sameAcquire c p = true ↔ ∃ d, p.1 = some d ∧ u.cmdHub d = u.cmdHub c ∧ d.slice = c.slice ∧ d.f 5 15 0 = c.f 5 15 0 := by
  unfold State.sameAcquire
  split
  next d some' => simp [some']
  next none' => simp [none']

/-- No waiter is the same ACQUIRE. -/
theorem State.no_sameAcquire {ws : List (Option Cmd × Nat × Nat)}
    (others : ∀ p ∈ ws, ¬ ∃ d, p.1 = some d ∧ u.cmdHub d = u.cmdHub c ∧ d.slice = c.slice ∧ d.f 5 15 0 = c.f 5 15 0) :
    ¬ ws.any (u.sameAcquire c) = true := by
  rw [List.any_eq_true]
  rintro ⟨p, mem, same⟩
  exact others p mem (State.sameAcquire_iff.1 same)

section Repeat

variable {pre post : List (Option Cmd × Nat × Nat)} {d : Cmd} {l t : Nat} (same : u.sameAcquire c (some d, l, t) = true)
  (other : ∀ p ∈ pre ++ post, u.sameAcquire c p = false)
include same other

/-- The one waiter that is the same ACQUIRE. -/
theorem State.sameAcquire_filter : (pre ++ (some d, l, t) :: post).filter (u.sameAcquire c) = [(some d, l, t)] := by
  have before : pre.filter (u.sameAcquire c) = [] :=
    List.filter_eq_nil_iff.2 fun p mem => by simp [other p (List.mem_append_left _ mem)]
  have after : post.filter (u.sameAcquire c) = [] :=
    List.filter_eq_nil_iff.2 fun p mem => by simp [other p (List.mem_append_right _ mem)]
  rw [List.filter_append, List.filter_cons_of_pos same, before, after, List.nil_append]

/-- A repeat takes the place of the waiter that is the same ACQUIRE. -/
theorem State.sameAcquire_map :
    (pre ++ (some d, l, t) :: post).map (fun p => if u.sameAcquire c p then (some c, p.2) else p) =
      pre ++ (some c, l, t) :: post := by
  have before : pre.map (fun p => if u.sameAcquire c p then (some c, p.2) else p) = pre :=
    (List.map_congr_left fun p mem => by simp [other p (List.mem_append_left _ mem)]).trans (List.map_id _)
  have after : post.map (fun p => if u.sameAcquire c p then (some c, p.2) else p) = post :=
    (List.map_congr_left fun p mem => by simp [other p (List.mem_append_right _ mem)]).trans (List.map_id _)
  rw [List.map_append, List.map_cons, if_pos same, before, after]

end Repeat

/-- The outcome recorded for the OPID of a command (R504). -/
def State.semRecord (u : State) (c : Cmd) : Option SemCmd :=
  u.win.semRecs.find? fun r => decide (r.hub = u.cmdHub c ∧ r.slice = c.slice ∧ r.opid = c.f 5 15 0 ∧ u.nowNs ≤ r.since + 1000000000)

/-- An ACQUIRE that is not a repetition of one recorded (R502, R507). -/
def State.semAcquire (u : State) (c : Cmd) : State :=
  let n := c.f 4 3 0
  let x := u.semAt n
  if !x.held then (u.setSem n (x.take false (u.cmdHub c) c.slice (c.w 7) u.uptime)).semDone c n stOk
  else if x.waiters.any (u.sameAcquire c) then
    ((x.waiters.filter (u.sameAcquire c)).foldl (fun s p => s.completeOpt p.1 stAborted) u).setSem n
      { x with waiters := x.waiters.map fun p => if u.sameAcquire c p then (some c, p.2) else p }
  else if c.w 6 = 0 then u.semDone c n stBusy
  else if 16 ≤ x.waiters.length then u.semDone c n stNoResource
  else u.setSem n { x with waiters := x.waiters ++ [(some c, c.w 7, u.uptime + 1)] }

/-- A RELEASE that is not a repetition of one recorded (R502, R507). -/
def State.semRelease (u : State) (c : Cmd) : State :=
  let n := c.f 4 3 0
  let x := u.semAt n
  if x.held && !x.bridge && decide (x.hub = u.cmdHub c ∧ x.slice = c.slice) then ((u.semNext n).semDone c n stOk).present
  else u.semDone c n stDenied

section Complete

variable {P : State → Prop} {f : State → State}

/-- WIN_SEM ACQUIRE, within its limits and new, does what `State.semAcquire` says. -/
theorem winSem_acquire
    (ready : ∀ u, P u → c.f 4 5 4 = 0 ∧ c.w 6 ≤ 1000 ∧ 1 ≤ c.w 7 ∧ c.w 7 ≤ 10000 ∧ u.semRecord c = none)
    (runs : ∀ u, P u → u.semAcquire c = f u) : Completes (.winSem c) c 0x0C03 (layWinSem c) false P f := by
  refine Completes.of (fun _ => rfl) fun u holds => ?_
  obtain ⟨acquire, wait, least, most, new⟩ := ready u holds
  refine (if_neg (by simp [acquire])).trans ((if_neg (by simp [acquire])).trans ((if_neg (by omega)).trans ?_))
  rw [if_pos (by omega)]
  refine Eq.trans ?_ (runs u holds)
  unfold State.semRecord at new
  rw [new]
  exact if_pos acquire

/-- WIN_SEM RELEASE in the semaphore's generation and new does what `State.semRelease` says. -/
theorem winSem_release
    (ready : ∀ u, P u → c.f 4 5 4 = 1 ∧ u.semRecord c = none ∧ genOk (c.b 4 24) (c.f 4 23 16) (u.semAt (c.f 4 3 0)).gen = true)
    (runs : ∀ u, P u → u.semRelease c = f u) : Completes (.winSem c) c 0x0C03 (layWinSem c) false P f := by
  refine Completes.of (fun _ => rfl) fun u holds => ?_
  obtain ⟨release, new, gen⟩ := ready u holds
  refine (if_neg (by simp [release])).trans ((if_neg (by simp [release])).trans ((if_neg (by simp [release])).trans ?_))
  rw [if_pos (by omega)]
  refine Eq.trans ?_ (runs u holds)
  unfold State.semRecord at new
  rw [new]
  exact (if_neg (by simp [release])).trans ((if_neg (not_of_holds gen)).trans (if_pos release))

end Complete

end Semaphore

/-- Settles O51: each command from the checks of its unit or semaphore, then from its own in their order. -/
theorem windowCommands : Obligations.windowCommands := by
  intro c t log far reg win pair auth fits new good openOp w part range owns n sem fresh same acq0 acq rel
  have opened {u : State} {denied bad rest : State} (ok : good u) :=
    winOpen_pass (denied := denied) (bad := bad) (rest := rest) (State.mayOpen_of ok.1) (State.openPair_of ok.2.1)
      (State.openFits_of ok.2.2)
  refine ⟨?wrongMode, ?noResource, ?busy, ?limit, ?opens, ?closes, ?closeBusy, ?range, ?rangeBad, ?acquired, fun pre d l t post => ?again,
    ?acqBusy, ?acqWaits, ?acqFull, ?released, ?denied, ?semQuery, ?forced, fun r => ?recorded, ?query, ?counters, ?cleared, ?semWords,
    ?totals⟩
  case wrongMode =>
    refine Completes.of (fun _ => rfl) ?_
    rintro u ⟨ok, shut⟩
    exact (opened ok).trans (if_pos shut)
  case noResource =>
    refine Completes.of (fun _ => rfl) ?_
    rintro u ⟨ok, ready, taken⟩
    exact (opened ok).trans ((if_neg (not_not.mpr ready)).trans (if_pos taken))
  case busy =>
    refine Completes.of (fun _ => rfl) ?_
    rintro u ⟨ok, ready, free, near, overlap⟩
    exact (opened ok).trans ((if_neg (not_not.mpr ready)).trans ((if_neg (not_not.mpr free)).trans
      (if_pos ⟨congrArg (! ·) near, overlap⟩)))
  case limit =>
    refine Completes.of (fun _ => rfl) ?_
    rintro u ⟨ok, ready, free, apart, many⟩
    exact (opened ok).trans ((if_neg (not_not.mpr ready)).trans ((if_neg (not_not.mpr free)).trans
      ((if_neg (not_overlapping apart)).trans (if_pos many))))
  case opens =>
    refine Completes.of (fun _ => rfl) ?_
    rintro u ⟨ok, ready, free, apart, few⟩
    exact (opened ok).trans ((if_neg (not_not.mpr ready)).trans ((if_neg (not_not.mpr free)).trans
      ((if_neg (not_overlapping apart)).trans (if_neg (Nat.not_le_of_lt few)))))
  case closes =>
    refine Completes.of (fun _ => rfl) ?_
    rintro u ⟨⟨there, may⟩, runs⟩
    exact (winChecks_pass there may).trans (if_neg runs)
  case closeBusy =>
    refine Completes.of (fun _ => rfl) ?_
    rintro u ⟨⟨there, may⟩, drains⟩
    exact (winChecks_pass there may).trans (if_pos drains)
  case range =>
    refine Completes.of (fun _ => rfl) ?_
    rintro u ⟨⟨there, may⟩, near, inside⟩
    refine (winChecks_pass there may).trans (if_neg ?_)
    rintro (farUnit | ⟨on, bad⟩)
    · exact Bool.false_ne_true (near.symm.trans farUnit)
    · obtain ⟨least, most, aligned, within⟩ := inside on
      rcases bad with small | large | odd | beyond
      · exact absurd least (Nat.not_le_of_lt small)
      · exact absurd most (Nat.not_le_of_lt large)
      · exact odd aligned
      · exact absurd within (Nat.not_le_of_lt beyond)
  case rangeBad =>
    refine Completes.of (fun _ => rfl) ?_
    rintro u ⟨⟨there, may⟩, bad⟩
    exact (winChecks_pass there may).trans (if_pos bad)
  case acquired =>
    refine winSem_acquire (fun u h => h.1) ?_
    rintro u ⟨-, free⟩
    exact if_pos (congrArg (! ·) free)
  case again =>
    refine winSem_acquire (fun u h => h.1) ?_
    rintro u ⟨-, held, waiters, is, others⟩
    have is := State.sameAcquire_iff.2 is
    have others : ∀ p ∈ pre ++ post, u.sameAcquire c p = false := fun p mem => by
      rw [← Bool.not_eq_true]
      exact fun h => others p mem (State.sameAcquire_iff.1 h)
    refine (if_neg (not_of_holds held)).trans ((if_pos ?_).trans ?_)
    · rw [waiters]
      exact List.any_eq_true.2 ⟨_, List.mem_append_right _ (List.mem_cons_self ..), is⟩
    · rw [waiters, State.sameAcquire_filter is others, State.sameAcquire_map is others]
      rfl
  case acqBusy =>
    refine winSem_acquire (fun u h => h.1.1) ?_
    rintro u ⟨⟨-, others⟩, held, now⟩
    exact (if_neg (not_of_holds held)).trans ((if_neg (State.no_sameAcquire others)).trans (if_pos now))
  case acqWaits =>
    refine winSem_acquire (fun u h => h.1.1) ?_
    rintro u ⟨⟨-, others⟩, held, waits, room⟩
    exact (if_neg (not_of_holds held)).trans ((if_neg (State.no_sameAcquire others)).trans
      ((if_neg waits).trans (if_neg (Nat.not_le_of_lt room))))
  case acqFull =>
    refine winSem_acquire (fun u h => h.1.1) ?_
    rintro u ⟨⟨-, others⟩, held, waits, full⟩
    exact (if_neg (not_of_holds held)).trans ((if_neg (State.no_sameAcquire others)).trans ((if_neg waits).trans (if_pos full)))
  case released =>
    refine winSem_release (fun u h => h.1) ?_
    rintro u ⟨-, held, command, hub, slice⟩
    exact if_pos (by simp only [n] at held command hub slice; simp [held, command, hub, slice])
  case denied =>
    refine winSem_release (fun u h => h.1) ?_
    rintro u ⟨-, other⟩
    refine if_neg ?_
    simp only [Bool.and_eq_true, Bool.not_eq_true', decide_eq_true_eq]
    rintro ⟨⟨held, command⟩, hub, slice⟩
    rcases other with free | bridge | other | other
    · exact Bool.false_ne_true (free.symm.trans held)
    · exact Bool.false_ne_true (command.symm.trans bridge)
    · exact other hub
    · exact other slice
  case semQuery =>
    refine Completes.of (fun _ => rfl) ?_
    rintro u op
    exact (if_neg (by simp [op])).trans (if_pos op)
  case forced =>
    refine Completes.of (fun _ => rfl) ?_
    rintro u ⟨op, root, gen, held⟩
    refine (if_neg (by simp [root])).trans ((if_neg (by simp [op])).trans ((if_neg (by simp [op])).trans ?_))
    rw [if_neg (by omega)]
    refine (if_neg (by simp [op])).trans ((if_neg (not_of_holds gen)).trans ((if_neg (by simp [op])).trans ?_))
    simp only [n] at held
    simp only [held, if_true]
    rfl
  case recorded =>
    refine Completes.of (fun _ => rfl) ?_
    rintro u ⟨op, old⟩
    refine (if_neg ?_).trans ((if_neg ?_).trans ((if_neg ?_).trans ?_))
    · omega
    · omega
    · omega
    · rw [if_pos (by omega), old]
  case query =>
    refine Completes.of (fun _ => rfl) ?_
    rintro u form
    simp only [form]
    rfl
  case counters =>
    refine Completes.of (fun _ => rfl) ?_
    rintro u ⟨form, keep⟩
    simp only [form]
    simp [keep, w]
  case cleared =>
    refine Completes.of (fun _ => rfl) ?_
    rintro u ⟨form, clear, may⟩
    simp only [form]
    simp [clear, w]
    exact fun h => absurd (h.symm.trans may) Bool.false_ne_true
  case semWords =>
    refine Completes.of (fun _ => rfl) ?_
    rintro u ⟨form, index⟩
    simp only [form]
    exact if_neg (by omega)
  case totals =>
    refine Completes.of (fun _ => rfl) ?_
    rintro u form
    simp only [form]

end Sys2Proof.Machine

end

section

/-! ## Power messages and their timeouts -/

namespace Sys2Proof.Machine

open Sys2Proof

section Frame

variable {s u : State} {p : Nat} {f : SbFrame} {good : Bool} {act : State → State}

/-- A power message that the sideband accepts takes effect. -/
theorem State.pwrFrame_taken (on : s.pwrOn p = true) (link : f.link = 0) (received : ∃ l, s.sbReceive p f = (u, some l))
    (present : (u.port p).lostSt = none) (sound : good = true) : s.pwrFrame p f good act = act u := by
  obtain ⟨l, received⟩ := received
  rw [State.pwrFrame, if_neg (by simp [sound, on, link]), received]
  simp [present]

/-- A frame that is no power message of the port holds carrier and does no more. -/
theorem State.pwrFrame_discarded (bad : s.pwrOn p = false ∨ f.link ≠ 0 ∨ good = false) :
    s.pwrFrame p f good act = s.sbDiscard p f := by
  refine if_pos ?_
  rcases bad with off | other | unsound
  · simp [off]
  · simp [other]
  · simp [unsound]

/-- A payload byte is below 256. -/
theorem sbByte_lt {i : Nat} : sbByte f i < 256 := BitVec.isLt _

/-- A byte without the bits of F8h is below 8. -/
theorem lt_eight_of_and {n : Nat} (small : n < 256) (low : n &&& 0xF8 = 0) : n < 8 := by
  have shifted : (n &&& 0xF8) >>> 3 = n / 8 % 32 := by
    rw [Nat.shiftRight_and_distrib, show 0xF8 >>> 3 = 2 ^ 5 - 1 from rfl, Nat.and_two_pow_sub_one_eq_mod, Nat.shiftRight_eq_div_pow]
  rw [low] at shifted
  omega

/-- What a frame lacks that is not the message it should be: its place, its form or a value in range. -/
theorem State.pwrFrame_unfit {t n m : Nat} {more : Bool}
    (bad : s.pwrOn p = false ∨ f.link ≠ 0 ∨ sbOk f t n = false ∨ m ≤ sbByte f 0) (range : more = true → sbByte f 0 < m) :
    s.pwrFrame p f (sbOk f t n && more) act = s.sbDiscard p f := by
  refine State.pwrFrame_discarded (bad.imp_right (Or.imp_right fun unfit => ?_))
  rcases unfit with form | large
  · simp [form]
  · cases more
    · exact Bool.and_false _
    · exact absurd (range rfl) (Nat.not_lt_of_le large)

end Frame

/-- The far end's answer to a REQUEST that is refused ends a first negotiation. -/
theorem State.refuseRequest_first {s : State} {p m r : Nat} (negotiates : (s.port p).st = pNegotiating)
    (source : (s.port p).role = 1) :
    s.refuseRequest p m r = (s.modPort p fun x => { x with st := pAttaching, resend := true, lastType := 0 }).pushReject p m r := by
  simp [State.refuseRequest, State.modPort, negotiates, source]

/-- A REQUEST refused at any other time changes nothing. -/
theorem State.refuseRequest_later {s : State} {p m r : Nat} (later : ¬ ((s.port p).st = pNegotiating ∧ (s.port p).role = 1)) :
    s.refuseRequest p m r = (s.setPort p (s.port p)).pushReject p m r := by
  simp only [State.refuseRequest, State.modPort, decide_eq_false later, Bool.false_eq_true, if_false, Bool.or_false]

/-- No frame of the sideband is a REQUEST. -/
theorem no_request_iff {b : SbLink} :
    (!(b.outst.any (fun f => decide (f.typ = 0x11)) || b.queue.any fun f => decide (f.typ = 0x11))) = true ↔
      (∀ f ∈ b.outst, f.typ ≠ 0x11) ∧ ∀ f ∈ b.queue, f.typ ≠ 0x11 := by
  cases b.outst <;> simp

/-- Settles O52: a message that the sideband accepts is one branch of its row; a frame that is none is discarded; the timers by what
the port waits for. -/
theorem powerMessages : Obligations.powerMessages := by
  unfold Obligations.powerMessages
  intro got
  refine ⟨?srcCaps, ?request, fun s p m r => ⟨State.refuseRequest_first, State.refuseRequest_later⟩, ?accept, ?reject, ?psRdy, ?swapReq,
    ?fsArm, ?goodbye, ?discards, ?answered, ?silent, ?resend, ?retry⟩
  case srcCaps =>
    rintro s u p f ⟨on, link, received, present⟩ n offer caps x form some' reserved clean
    have good : (sbOk f 0x10 (1 + 2 * n) && decide (n ≠ 0) && decide (sbByte f 0 &&& 0xE4 = 0) &&
        (List.range n).all fun i => decide (sbByte f (2 + 2 * i) / 2 % 32 = 0)) = true := by
      simpa [form, some', reserved] using clean
    have taken {v : State} (h : _ = v) : exec (.srcCaps p f) s = .next v :=
      congrArg Host.Outcome.next ((State.pwrFrame_taken on link received present good).trans h)
    refine ⟨fun source early => taken ?_, fun sink state => ?_⟩
    · exact (if_pos source).trans (if_pos early)
    intro v i o
    refine ⟨fun may ask awake => taken ?_, fun silent => taken ?_⟩
    · refine (if_neg (by simp only [x] at sink; omega)).trans ((if_pos ⟨sink, state⟩).trans (if_pos ⟨may, ?_, awake⟩))
      exact congrArg (! ·) ask
    · refine (if_neg (by simp only [x] at sink; omega)).trans ((if_pos ⟨sink, state⟩).trans (if_neg ?_))
      rintro ⟨may, ask, awake⟩
      rcases silent with none' | quiet | safe
      · exact Bool.false_ne_true (none'.symm.trans may)
      · exact not_of_holds quiet ask
      · exact awake safe
  case request =>
    rintro s u p f ⟨on, link, received, present⟩ form low high x cur no
    have good : (sbOk f 0x11 3 && decide (sbByte f 0 &&& 0xF8 = 0 ∧ sbByte f 2 &&& 0xFE = 0)) = true := by
      simp [form, low, high]
    have taken {v : State} (h : _ = v) : exec (.requestFrame p f) s = .next v :=
      congrArg Host.Outcome.next ((State.pwrFrame_taken on link received present good).trans h)
    refine ⟨fun off => taken (if_pos ?_), fun awake core moves => taken ?_, fun awake core source state => ?_⟩
    · exact off.imp_right (congrArg (! ·))
    · exact (if_neg (by rintro (safe | off); exacts [awake safe, not_of_holds core off])).trans (if_pos moves)
    · have negotiable : ¬ (x.st = pTransition ∨ x.st = pSwap) := by
        rcases state with st | st <;> rw [st] <;> decide
      have reached {a b d e v : State} (h : e = v) :
          (if u.ret.mode = .safe ∨ (!x.farCore) = true then a else if x.st = pTransition ∨ x.st = pSwap then b
            else if x.role ≠ 1 ∨ (!decide (x.st = pNegotiating ∨ x.st = pContract)) = true then d else e) = v :=
        (if_neg (by rintro (safe | off); exacts [awake safe, not_of_holds core off])).trans ((if_neg negotiable).trans
          ((if_neg (by simp [source, state])).trans h))
      refine ⟨fun none' => taken (reached ?_), fun v imax offer more => taken (reached ?_),
        fun v imax offer within => taken (reached ?_)⟩
      · simp only [x] at none'
        rw [none']
      · simp only [x] at offer
        rw [offer]
        exact if_pos more
      · simp only [x] at offer
        rw [offer]
        exact if_neg (Nat.not_lt_of_le within)
  case accept =>
    rintro s u p f ⟨on, link, received, present⟩ form small answers x
    have good : (sbOk f 0x12 1 && decide (sbByte f 0 < 16)) = true := by simp [form, small]
    refine ⟨fun request => ?_, fun r swap waits => ?_⟩ <;>
      refine congrArg Host.Outcome.next ((State.pwrFrame_taken on link received present good).trans ((if_neg (not_not.mpr answers)).trans ?_))
    · exact if_pos request
    · refine (if_neg (by rw [swap]; decide)).trans ((if_pos swap).trans ?_)
      simp only [x] at waits
      rw [waits]
  case reject =>
    rintro s u p f ⟨on, link, received, present⟩ form answers x why
    refine ⟨fun request => ?_, fun swap => ?_⟩ <;>
      refine congrArg Host.Outcome.next ((State.pwrFrame_taken on link received present form).trans ((if_neg (not_not.mpr answers)).trans ?_))
    · exact if_pos request
    · exact (if_neg (by rw [swap]; decide)).trans (if_pos swap)
  case psRdy =>
    rintro s u p f ⟨on, link, received, present⟩ form x
    have taken {v : State} (small : sbByte f 0 < 4) (h : _ = v) : exec (.psRdy p f) s = .next v :=
      congrArg Host.Outcome.next ((State.pwrFrame_taken on link received present (by simp [form, small])).trans h)
    refine ⟨fun v state sink => taken (by omega) ?_, fun v state swap new => taken (by omega) ?_,
      fun v state swap old => taken (by omega) ?_, fun v swap new => taken (by omega) ?_, fun v swap old => taken (by omega) ?_⟩
    · exact (if_neg (by omega)).trans (if_pos ⟨state, sink, by rw [v]; rfl⟩)
    · exact (if_neg (by omega)).trans ((if_neg (by rw [v]; rintro ⟨-, -, on⟩; exact absurd on (by decide))).trans
        ((if_pos ⟨state, swap⟩).trans ((if_pos (by rw [v]; rfl)).trans (if_pos new))))
    · exact (if_neg (by omega)).trans ((if_neg (fun h => absurd (state.symm.trans h.1) (by decide))).trans
        ((if_pos ⟨state, swap⟩).trans ((if_neg (by rw [v]; decide)).trans (if_neg (ne_true_of_eq_false old)))))
    · exact (if_pos (by omega)).trans ((if_neg (not_not.mpr swap)).trans ((if_pos (by rw [v]; rfl)).trans (if_pos new)))
    · exact (if_pos (by omega)).trans ((if_neg (not_not.mpr swap)).trans ((if_neg (by rw [v]; decide)).trans
        (if_neg (ne_true_of_eq_false old))))
  case swapReq =>
    rintro s u p r f ⟨on, link, received, present⟩ form is small x no mine
    subst is
    have good : (sbOk f 0x15 1 && decide (sbByte f 0 < 2)) = true := by simp [form, small]
    have taken {v : State} (h : _ = v) : exec (.swapReq p f) s = .next v :=
      congrArg Host.Outcome.next ((State.pwrFrame_taken on link received present good).trans h)
    have mine_iff : (if sbByte f 0 = 1 then decide (x.keepRole = 1) else decide (x.role = 1)) = true ↔ mine := by
      simp only [mine]
      split <;> exact decide_eq_true_iff
    refine ⟨fun off => taken (if_pos (off.imp_right (congrArg (! ·)))), fun awake core busy => taken ?_,
      fun awake core noChange noSwap idle => ?_⟩
    · refine (if_neg (by rintro (safe | off); exacts [awake safe, not_of_holds core off])).trans (if_pos ?_)
      exact busy.imp_right (Or.imp_right Option.isSome_iff_ne_none.2)
    · have free : ¬ (x.st = pTransition ∨ x.st = pSwap ∨ x.swapIn.isSome = true) := by
        rintro (change | swap | inn)
        exacts [noChange change, noSwap swap, by simp [idle] at inn]
      have reached {a b e v : State} (h : e = v) :
          (if u.ret.mode = .safe ∨ (!x.farCore) = true then a else if x.st = pTransition ∨ x.st = pSwap ∨ x.swapIn.isSome = true then b
            else e) = v :=
        (if_neg (by rintro (safe | off); exacts [awake safe, not_of_holds core off])).trans ((if_neg free).trans h)
      refine ⟨fun asked own => taken (reached (if_pos ⟨asked, mine_iff.2 own⟩)), fun quiet cannot => taken (reached ?_),
        fun quiet contract keep can => taken (reached ?_)⟩
      · refine (if_neg (fun h => quiet h.1)).trans ?_
        rw [if_neg quiet]
        exact if_pos (cannot.imp_right (Or.imp_right (congrArg (! ·))))
      · refine (if_neg (fun h => quiet h.1)).trans ?_
        rw [if_neg quiet]
        refine if_neg ?_
        rintro (⟨main, no'⟩ | ⟨keeps, none'⟩ | no')
        exacts [no' (contract main), keep keeps none', not_of_holds can no']
  case fsArm =>
    rintro s u p f ⟨on, link, received, present⟩ form
    refine ⟨fun arm => ?_, fun disarm => ?_⟩ <;>
      refine congrArg Host.Outcome.next ((State.pwrFrame_taken on link received present (by simp [*])).trans ?_)
    · exact if_pos arm
    · exact if_neg (by omega)
  case goodbye =>
    rintro s u p f ⟨on, link, received, present⟩ form small x r keepV
    have good : (sbOk f 0x17 1 && decide (sbByte f 0 < 6)) = true := by simp [form, small]
    refine ⟨fun out => ?_, fun attached sound shorted source => ?_, fun attached sound orderly => ?_⟩ <;>
      refine congrArg Host.Outcome.next ((State.pwrFrame_taken on link received present good).trans ?_)
    · exact if_pos out
    · refine (if_neg (by rintro (out | fault); exacts [attached out, Nat.not_le_of_lt sound fault])).trans ?_
      rw [if_pos ⟨shorted, source⟩]
    · refine (if_neg (by rintro (out | fault); exacts [attached out, Nat.not_le_of_lt sound fault])).trans ?_
      rw [if_neg (by rintro ⟨shorted, source⟩; exact orderly.elim (· shorted) (· source))]
  case discards =>
    intro s p f not n
    have byte := sbByte_lt (f := f) (i := 0)
    refine ⟨fun bad => ?_, fun bad => ?_, fun bad => ?_, fun bad => ?_, fun bad => ?_, fun bad => ?_, fun bad => ?_, fun bad => ?_⟩ <;>
      refine congrArg Host.Outcome.next ?_
    · have form := bad.imp_right (Or.imp_right fun unfit => unfit.resolve_right (Nat.not_le_of_lt byte))
      exact State.pwrFrame_discarded (form.imp_right (Or.imp_right fun form => by simp only [n] at form; simp [form]))
    · exact State.pwrFrame_unfit bad fun ok => lt_eight_of_and byte (of_decide_eq_true ok).1
    · exact State.pwrFrame_unfit bad of_decide_eq_true
    · exact State.pwrFrame_discarded (bad.imp_right (Or.imp_right fun unfit => unfit.resolve_right (Nat.not_le_of_lt byte)))
    · exact State.pwrFrame_unfit bad of_decide_eq_true
    · exact State.pwrFrame_unfit bad of_decide_eq_true
    · exact State.pwrFrame_unfit bad of_decide_eq_true
    · exact State.pwrFrame_unfit bad of_decide_eq_true
  case answered =>
    intro s p on waits
    exact congrArg Host.Outcome.next ((if_neg (not_of_holds on)).trans (if_pos waits))
  case silent =>
    intro s p on idle x silent
    refine ⟨fun yes => congrArg Host.Outcome.next ?_, fun no => congrArg Host.Outcome.next ?_⟩
    · obtain ⟨sink, state, asks⟩ := yes
      exact (if_neg (not_of_holds on)).trans ((if_neg (not_not.mpr idle)).trans
        (if_pos ⟨sink, state, no_request_iff.2 asks⟩))
    · refine (if_neg (not_of_holds on)).trans ((if_neg (not_not.mpr idle)).trans (if_neg ?_))
      rintro ⟨sink, state, asks⟩
      exact no ⟨sink, state, no_request_iff.1 asks⟩
  case resend => exact fun s p on waits => congrArg Host.Outcome.next (if_pos ⟨on, waits⟩)
  case retry =>
    intro s p r on lost state noSwap idle
    refine congrArg Host.Outcome.next ?_
    simp only [effSwapRetry, lost]
    exact if_pos ⟨on, state, noSwap, idle⟩

end Sys2Proof.Machine

end

section

/-! ## The path, the converter and KEEP -/

namespace Sys2Proof.Machine

open Sys2Proof

/-- The cable of an open path has discharged. -/
theorem State.discharges {s : State} {p : Nat} (on : s.sbOn p = true) (closed : (s.port p).closed = false)
    (low : (s.port p).cableLow = true) : ¬ ((!s.sbOn p) = true ∨ (s.port p).closed = true ∨ (!(s.port p).cableLow) = true) := by
  simp [on, closed, low]

/-- Settles O53: each row on a port whose island runs is one branch of its conditions. -/
theorem powerPath : Obligations.powerPath := by
  refine ⟨?samples, ?timers, ?qualified, ?short, ?keep, ?pmbus, ?alertEarly, ?alert, ?slew, fun s => rfl⟩
  case samples =>
    intro s p a b i k low on x0 x1 fs held x2 lost v t y
    have decides {α : Type} (d : Decidable lost) (a b : α) :
        @ite α lost d a b = if (decide (x2.role = 2) && x2.armed && !fs) = true then a else b :=
      if_congr (by simp [lost, and_assoc]) rfl rfl
    have run : effFoldbackUpdate p a b i k low s =
        if y.swapIn = some 1 then
          if y.swapNew ∧ y.keepRole = 1 ∧ !y.keepEn ∧ !keepOver y.vkeep 1000 then t.setPort p { y with keepEn := true } else t
        else t.keepUpdate p := by
      refine (if_neg (not_of_holds on)).trans ?_
      simp only [y, t, v, decides]
      rfl
    exact ⟨fun other => congrArg Host.Outcome.next (run.trans (if_neg other)),
      fun keep => congrArg Host.Outcome.next (run.trans (if_pos keep))⟩
  case timers =>
    intro s p on x
    refine ⟨fun closed => ⟨?_, ?_⟩, fun run free => ?_, fun early => ?_, fun held run closed => ?_, fun sink closed high => ?_,
      fun sink closed low => ?_, fun early => ?_, fun held sink closed state v48 window => ?_, fun held closed supply => ?_,
      fun source state bad => ?_, fun closed low => ⟨fun lost => ?_, fun kept state swap old slow source => ?_, fun kept state => ?_⟩,
      fun early => ?_, fun held fault => ?_, fun early => ?_, fun held state kept => ?_⟩ <;> refine congrArg Host.Outcome.next ?_
    · exact if_pos ⟨on, closed⟩
    · exact if_pos ⟨on, closed⟩
    · exact if_pos ⟨on, run, congrArg (! ·) free⟩
    · exact if_neg fun h => Bool.false_ne_true (early.symm.trans h.2.2.2)
    · exact if_pos ⟨on, run, closed, held⟩
    · have open' : ¬ ((!s.sbOn p) = true ∨ (s.port p).role ≠ 2 ∨ (!(s.port p).closed) = true) := by
        simp only [x] at sink closed
        simp [on, sink, closed]
      exact (if_neg open').trans ((if_pos rfl).trans (if_pos (decide_eq_true high)))
    · have open' : ¬ ((!s.sbOn p) = true ∨ (s.port p).role ≠ 2 ∨ (!(s.port p).closed) = true) := by
        simp only [x] at sink closed
        simp [on, sink, closed]
      exact (if_neg open').trans ((if_neg Bool.false_ne_true).trans (if_pos low))
    · exact if_pos (.inr (congrArg (! ·) early))
    · exact (if_neg (by rintro (off | early); exacts [not_of_holds on off, not_of_holds held early])).trans
        ((if_pos ⟨sink, closed, state⟩).trans (if_pos ⟨v48, window⟩))
    · exact (if_neg (by rintro (off | early); exacts [not_of_holds on off, not_of_holds held early])).trans
        ((if_neg fun h => Bool.false_ne_true (closed.symm.trans h.2.1)).trans (if_pos supply))
    · refine if_pos ⟨on, source, state, bad.imp_right fun h => ?_⟩
      obtain ⟨opened, out⟩ := h
      simp only [x] at opened out
      simp [opened, out]
    · exact (if_neg (State.discharges on closed low)).trans (if_pos (Option.isSome_iff_ne_none.2 lost))
    · refine (if_neg (State.discharges on closed low)).trans ((if_neg (by simp [x] at kept; simp [kept])).trans (if_pos ?_))
      exact ⟨state, swap, congrArg (! ·) old, congrArg (! ·) slow, source⟩
    · exact (if_neg (State.discharges on closed low)).trans ((if_neg (by simp [x] at kept; simp [kept])).trans
        (if_neg fun h => state h.1))
    · exact (if_neg (not_of_holds on)).trans ((if_pos rfl).trans
        (if_neg fun h => Bool.false_ne_true (early.symm.trans h.2)))
    · exact (if_neg (not_of_holds on)).trans ((if_pos rfl).trans (if_pos ⟨fault, held⟩))
    · exact (if_neg (not_of_holds on)).trans ((if_neg Bool.false_ne_true).trans
        (if_neg fun h => Bool.false_ne_true (early.symm.trans h.2.2)))
    · exact (if_neg (not_of_holds on)).trans ((if_neg Bool.false_ne_true).trans (if_pos ⟨state, kept, held⟩))
  case qualified =>
    intro s p on x closed run free fresh hub cable u tell
    have runs : ¬ ((!s.sbOn p) = true ∨ (!(s.port p).closed) = true ∨ (s.port p).faultRun = true ∨ (s.port p).inLimit = true ∨
        (s.port p).qualified = true ∨ (!(s.port p).near (s.port p).vhub) = true ∨ (!(s.port p).near (s.port p).vcab) = true) := by
      simp only [x] at closed run free fresh hub cable
      simp [on, closed, run, free, fresh, hub, cable]
    refine ⟨fun source state => ?_, fun source state swap new => ?_, fun other => ?_⟩ <;>
      refine congrArg Host.Outcome.next ((if_neg runs).trans (congrArg tell ?_))
    · exact if_pos ⟨source, state⟩
    · exact (if_neg fun h => absurd (state.symm.trans h.2) (by decide)).trans (if_pos ⟨source, state, swap, new⟩)
    · refine (if_neg fun h => ?_).trans (if_neg fun h => ?_)
      · exact other.elim (· h.1) (·.1 h.2)
      · exact other.elim (· h.1) (·.2 h.2.1)
  case short =>
    intro s p on shorted state x u v w
    refine congrArg Host.Outcome.next ((if_neg ?_).trans ?_)
    · rintro (off | sound | latched)
      exacts [not_of_holds on off, not_of_holds shorted sound, state latched]
    · simp only [decide_eq_true_eq]
      rfl
  case keep =>
    intro s p on x
    refine ⟨fun swap old source off line => ?_, fun runs out => ?_, fun swap new runs least most => ?_,
      fun armed state low => ⟨fun source => ?_, fun sink => ?_⟩, fun state fast new closed carrier kept early late => ?_, fun out => ?_⟩ <;>
      refine congrArg Host.Outcome.next ?_
    · exact if_pos ⟨on, swap, congrArg (! ·) old, source, congrArg (! ·) off, line⟩
    · exact if_pos ⟨on, runs, out.imp_right decide_eq_true⟩
    · exact if_pos ⟨on, swap, new, runs, least, congrArg (! ·) (decide_eq_false (Nat.not_lt_of_le most))⟩
    · exact (if_pos ⟨on, armed, state, low⟩).trans (if_pos source)
    · exact (if_pos ⟨on, armed, state, low⟩).trans (if_neg sink)
    · exact if_pos ⟨on, state, fast, new, congrArg (! ·) closed, carrier, kept, early, late⟩
    · refine if_neg ?_
      rintro ⟨-, -, -, -, -, -, -, early, late⟩
      simp only [x] at out
      omega
  case pmbus =>
    intro s p op v on given bus x y
    have there : ¬ ((!s.sbOn p) = true ∨ (!(s.port p).pol.given) = true ∨ (s.port p).pol.pmbus = 0) := by simp [on, given, bus]
    have done {v' : State} (h : _ = v') : exec (.pmbusDone p op v true) s = .next v' :=
      congrArg Host.Outcome.next ((if_neg there).trans ((if_neg Bool.false_ne_true).trans h))
    refine ⟨fun again => ?_, fun last => ?_, fun vout => done ?_, fun iout => done ?_, fun status fault => done ?_,
      fun noVout noIout noStatus => done ?_⟩
    · exact congrArg Host.Outcome.next ((if_neg there).trans ((if_pos rfl).trans (if_pos again)))
    · exact congrArg Host.Outcome.next ((if_neg there).trans ((if_pos rfl).trans (if_neg (Nat.not_lt_of_le last))))
    · exact if_pos vout
    · exact (if_neg (by rw [iout]; decide)).trans (if_pos iout)
    · exact (if_neg (by rw [status]; decide)).trans ((if_neg (by rw [status]; decide)).trans ((if_pos status).trans
        (if_pos (.inl fault))))
    · exact (if_neg noVout).trans ((if_neg noIout).trans (if_neg noStatus))
  case alertEarly => exact fun s early => congrArg Host.Outcome.next (if_pos (.inr (.inr (congrArg (! ·) early))))
  case alert =>
    intro s out awake passed
    refine congrArg Host.Outcome.next (if_neg ?_)
    rintro (reset | dormant | early)
    exacts [Bool.false_ne_true (out.symm.trans reset), awake dormant, not_of_holds passed early]
  case slew =>
    intro s p on running x step
    refine ⟨fun below => congrArg Host.Outcome.next ((if_pos ⟨on, running, Nat.ne_of_lt below⟩).trans ?_),
      fun above => congrArg Host.Outcome.next ((if_pos ⟨on, running, Nat.ne_of_gt above⟩).trans ?_)⟩
    · exact congrArg step (if_pos below)
    · exact congrArg step (if_neg (Nat.not_lt_of_gt above))

end Sys2Proof.Machine

end

section

/-! ## The PWR_ commands -/

namespace Sys2Proof.Machine

open Sys2Proof

section

variable {u : State} {c : Cmd} {denied absent rest : State}

/-- A command from the management slice to a port that is there passes the checks of power ports. -/
theorem pwrChecks_pass (may : u.authZ c = true) (there : u.pportOk c = true) :
    (if (!u.authZ c) = true then denied else if (!u.pportOk c) = true then absent else rest) = rest :=
  (if_neg (not_of_holds may)).trans (if_neg (not_of_holds there))

/-- What is waited for is something. -/
theorem isSome_of_ne_none {α : Type} {o : Option α} (some' : o ≠ none) : o.isSome = true := Option.isSome_iff_ne_none.2 some'

/-- What is not waited for is nothing. -/
theorem not_isSome {α : Type} {o : Option α} (none' : o = none) : ¬ o.isSome = true := by simp [none']

/-- A port in ATTACHING or CONTRACT in the role that the action needs may take a PWR_CONTRACT. -/
theorem contractMode_ok {x : PwrPort} {act : Nat} (state : x.st = pAttaching ∨ x.st = pContract) (present : x.lostSt = none)
    (sink : act = 0 → x.role = 2) (source : act = 1 → x.role = 1) :
    ¬ ((x.st ≠ pAttaching ∧ x.st ≠ pContract) ∨ x.lostSt.isSome = true ∨ (act = 0 ∧ x.role ≠ 2) ∨ (act = 1 ∧ x.role ≠ 1)) := by
  rintro (⟨attaching, contract⟩ | lost | ⟨request, other⟩ | ⟨offer, other⟩)
  exacts [state.elim attaching contract, not_isSome present lost, other (sink request), other (source offer)]

/-- A port in CONTRACT with no swap under way may take a PWR_SWAP, of KEEP where KEEP has a source. -/
theorem swapMode_ok {x : PwrPort} {act r : Nat} (state : x.st = pContract) (present : x.lostSt = none) (noSwap : x.swapIn = none)
    (keep : act = 0 → r = 1 → x.keepRole ≠ 0) :
    ¬ (x.lostSt.isSome = true ∨ x.swapIn.isSome = true ∨ (x.st ≠ pContract ∧ (!decide (act = 0 ∧ r = 1 ∧ x.st ≤ pNegotiating)) = true) ∨
      (act = 0 ∧ r = 1 ∧ x.keepRole = 0)) := by
  rintro (lost | swap | ⟨other, -⟩ | ⟨swaps, keeps, none'⟩)
  exacts [not_isSome present lost, not_isSome noSwap swap, other state, keep swaps keeps none']

/-- No PWR_SWAP and no SWAP_REQ waits. -/
theorem swap_free {x : PwrPort} (idle : x.swapCmd = none) (quiet : x.swapRes = none) :
    ¬ (x.swapCmd.isSome = true ∨ x.swapRes.isSome = true) := by simp [idle, quiet]

end

/-- Settles O54: each command from the checks of power ports, then from its own in their order. -/
theorem powerCommands : Obligations.powerCommands := by
  intro c p may act con okSt swp calm lim offer tooMuch limited rst down n ent logged
  refine ⟨?query, ?queryAbsent, ?wrongMode, fun k => ?request, ?noOffer, ?offers, ?offersNone, ?ends, ?disarm, ?armed, ?swapBusy, ?swap,
    ?swapDenied, fun i => ?arm, ?armDenied, ?limBad, ?limMuch, ?limits, ?shorted, ?keepReset, ?faultReset, ?nothing, ?log, ?logOne,
    ?logBad⟩ <;> refine Completes.of (fun _ => rfl) ?_
  case query => exact fun u there => if_neg (not_of_holds there)
  case queryAbsent => exact fun u absent => if_pos (congrArg (! ·) absent)
  case wrongMode =>
    rintro u ⟨⟨auth, there⟩, wrong⟩
    exact (pwrChecks_pass auth there).trans (if_pos (wrong.imp_right (Or.imp_left isSome_of_ne_none)))
  case request =>
    rintro u ⟨⟨auth, there⟩, ⟨state, present⟩, request, sink, idle, found, within, most, ask⟩
    simp only [act] at request
    refine (pwrChecks_pass auth there).trans ((if_neg (contractMode_ok state present (fun _ => sink) (by omega))).trans
      ((if_neg fun h => not_isSome idle h.2).trans ((if_pos request).trans ?_)))
    simp only [p] at found
    dsimp only
    rw [found]
    refine if_neg ?_
    rintro (more | ⟨given, above⟩ | quiet)
    · exact Nat.not_lt_of_le within more
    · rcases most with free | most
      · exact Bool.false_ne_true (free.symm.trans given)
      · exact Nat.not_lt_of_le most above
    · exact Bool.false_ne_true (ask.symm.trans quiet)
  case noOffer =>
    rintro u ⟨⟨auth, there⟩, ⟨state, present⟩, request, sink, idle, none'⟩
    simp only [act] at request
    refine (pwrChecks_pass auth there).trans ((if_neg (contractMode_ok state present (fun _ => sink) (by omega))).trans
      ((if_neg fun h => not_isSome idle h.2).trans ((if_pos request).trans ?_)))
    simp only [p] at none'
    dsimp only
    rw [none']
  case offers =>
    rintro u ⟨⟨auth, there⟩, ⟨state, present⟩, again, source, idle, offers⟩
    simp only [act] at again
    exact (pwrChecks_pass auth there).trans ((if_neg (contractMode_ok state present (by omega) (fun _ => source))).trans
      ((if_neg fun h => not_isSome idle h.2).trans ((if_neg (by omega)).trans ((if_pos again).trans (if_neg offers)))))
  case offersNone =>
    rintro u ⟨⟨auth, there⟩, ⟨state, present⟩, again, source, idle, none'⟩
    simp only [act] at again
    exact (pwrChecks_pass auth there).trans ((if_neg (contractMode_ok state present (by omega) (fun _ => source))).trans
      ((if_neg fun h => not_isSome idle h.2).trans ((if_neg (by omega)).trans ((if_pos again).trans (if_pos none')))))
  case ends =>
    rintro u ⟨⟨auth, there⟩, ⟨state, present⟩, ends⟩
    simp only [act] at ends
    exact (pwrChecks_pass auth there).trans ((if_neg (contractMode_ok state present (by omega) (by omega))).trans
      ((if_neg (by omega)).trans ((if_neg (by omega)).trans (if_neg (by omega)))))
  case disarm =>
    rintro u ⟨⟨⟨auth, there⟩, present, noSwap, state⟩, disarms⟩
    exact (pwrChecks_pass auth there).trans ((if_neg (swapMode_ok state present noSwap (by omega))).trans (if_pos disarms))
  case armed =>
    rintro u ⟨⟨⟨auth, there⟩, present, noSwap, state⟩, arms, armed⟩
    exact (pwrChecks_pass auth there).trans ((if_neg (swapMode_ok state present noSwap (by omega))).trans
      ((if_neg (by omega)).trans (if_pos ⟨arms, armed⟩)))
  case swapBusy =>
    rintro u ⟨⟨⟨auth, there⟩, present, noSwap, state⟩, kind, busy⟩
    have mode : c.f 4 4 3 = 0 → c.f 4 2 2 = 1 → (u.port p).keepRole ≠ 0 := fun swaps =>
      kind.elim (fun arms => absurd arms.1 (by omega)) And.right
    refine (pwrChecks_pass auth there).trans ((if_neg (swapMode_ok state present noSwap mode)).trans
      ((if_neg (by omega)).trans ((if_neg ?_).trans (if_pos (busy.imp isSome_of_ne_none isSome_of_ne_none)))))
    rintro ⟨arms, armed⟩
    rcases kind with ⟨-, unarmed⟩ | ⟨swaps, -⟩
    · exact Bool.false_ne_true (unarmed.symm.trans armed)
    · omega
  case swap =>
    rintro u ⟨⟨⟨auth, there⟩, present, noSwap, state⟩, swaps, keep, idle, quiet, can⟩
    exact (pwrChecks_pass auth there).trans ((if_neg (swapMode_ok state present noSwap fun _ => keep)).trans
      ((if_neg (by omega)).trans ((if_neg (by omega)).trans ((if_neg (swap_free idle quiet)).trans
        ((if_neg (by omega)).trans (if_neg (not_of_holds can)))))))
  case swapDenied =>
    rintro u ⟨⟨⟨auth, there⟩, present, noSwap, state⟩, swaps, keep, idle, quiet, cannot⟩
    exact (pwrChecks_pass auth there).trans ((if_neg (swapMode_ok state present noSwap fun _ => keep)).trans
      ((if_neg (by omega)).trans ((if_neg (by omega)).trans ((if_neg (swap_free idle quiet)).trans
        ((if_neg (by omega)).trans (if_pos (congrArg (! ·) cannot)))))))
  case arm =>
    rintro u ⟨⟨⟨auth, there⟩, present, noSwap, state⟩, arms, unarmed, idle, quiet, ident, fsEn, blk, v48, fsOk, caps, hub⟩
    refine (pwrChecks_pass auth there).trans ((if_neg (swapMode_ok state present noSwap (by omega))).trans
      ((if_neg (by omega)).trans ((if_neg fun h => Bool.false_ne_true (unarmed.symm.trans h.2)).trans
        ((if_neg (swap_free idle quiet)).trans ((if_pos arms).trans (if_neg ?_))))))
    simp only [p] at ident fsOk caps hub v48
    simpa [ident, fsEn, blk, v48, fsOk, caps] using hub
  case armDenied =>
    rintro u ⟨⟨⟨auth, there⟩, present, noSwap, state⟩, arms, unarmed, idle, quiet, not48⟩
    exact (pwrChecks_pass auth there).trans ((if_neg (swapMode_ok state present noSwap (by omega))).trans
      ((if_neg (by omega)).trans ((if_neg fun h => Bool.false_ne_true (unarmed.symm.trans h.2)).trans
        ((if_neg (swap_free idle quiet)).trans ((if_pos arms).trans (if_pos (.inl not48)))))))
  case limBad =>
    rintro u ⟨⟨auth, there⟩, bad⟩
    exact (pwrChecks_pass auth there).trans (if_pos (congrArg (! ·) bad))
  case limMuch =>
    rintro u ⟨⟨auth, there⟩, ok, much⟩
    refine (pwrChecks_pass auth there).trans ((if_neg (not_of_holds ok)).trans (if_pos ?_))
    simpa [tooMuch, offer, p] using much
  case limits =>
    rintro u ⟨⟨auth, there⟩, ok, within⟩
    refine (pwrChecks_pass auth there).trans ((if_neg (not_of_holds ok)).trans (if_neg ?_))
    simpa [tooMuch, offer, p] using within
  case shorted =>
    rintro u ⟨⟨auth, there⟩, shorted, down⟩
    exact (pwrChecks_pass auth there).trans (if_pos ⟨shorted, down⟩)
  case keepReset =>
    rintro u ⟨⟨auth, there⟩, sound, keep⟩
    exact (pwrChecks_pass auth there).trans ((if_neg sound).trans (if_pos keep))
  case faultReset =>
    rintro u ⟨⟨auth, there⟩, sound, down, main⟩
    exact (pwrChecks_pass auth there).trans ((if_neg fun h => Bool.false_ne_true (sound.symm.trans h.1)).trans
      ((if_neg (ne_true_of_eq_false main)).trans (if_pos down)))
  case nothing =>
    rintro u ⟨⟨auth, there⟩, up, main⟩
    exact (pwrChecks_pass auth there).trans ((if_neg fun h => up h.2).trans ((if_neg (ne_true_of_eq_false main)).trans (if_neg up)))
  case log =>
    rintro u ⟨may, indirect, least, most⟩
    refine (if_neg fun h => not_of_holds (may h.1) h.2).trans ((if_neg ?_).trans (if_pos indirect))
    rintro (none' | many | ⟨direct, -⟩)
    · omega
    · omega
    · exact not_of_holds indirect direct
  case logOne =>
    rintro u ⟨may, direct, one⟩
    refine (if_neg fun h => not_of_holds (may h.1) h.2).trans ((if_neg ?_).trans (if_neg (ne_true_of_eq_false direct)))
    simp only [n] at one
    omega
  case logBad =>
    rintro u ⟨may, bad⟩
    refine (if_neg fun h => not_of_holds (may h.1) h.2).trans (if_pos ?_)
    exact bad.imp_right (Or.imp_right (And.imp_left (congrArg (! ·))))

end Sys2Proof.Machine

end

section

/-! ## Detected errors, recoveries, the patrol and injected errors -/

namespace Sys2Proof.Machine

open Sys2Proof

section

variable {s : State} {h : Hit} {inj : Bool}

/-- The state in which an error of a class above correctable has been noted: what `detect` does first. -/
def State.errNoted (s : State) (h : Hit) : State :=
  let a := s.noteErr h.dom h.check
  let b : State := if h.gone then { a with err := { a.err with escaped := true } } else a
  if h.check = 0x0A then { b with keys := { b.keys with entropyOk := false } } else b

/-- And the loss of the array's word, where one was in use. -/
def State.errStruck (s : State) (h : Hit) : State :=
  if h.check = 5 ∧ h.inUse ∧ s.hitClass h < 3 then (s.errNoted h).arrayHit h else s.errNoted h

/-- A check works in a domain that has it while the core is on; a power path's works without the core. -/
def State.checksIn (s : State) (h : Hit) : Prop := domHas h.dom h.check = true ∧ (s.coreOn = true ∨ domPower h.dom = true)

theorem State.checksIn.detects (checks : s.checksIn h) :
    ¬ ((!domHas h.dom h.check) = true ∨ ((!s.coreOn) = true ∧ (!domPower h.dom) = true)) := by
  obtain ⟨has, on | power⟩ := checks
  · exact fun off => off.elim (not_of_holds has) fun off => not_of_holds on off.1
  · exact fun off => off.elim (not_of_holds has) fun off => not_of_holds power off.2

theorem State.detect_correctable (checks : s.checksIn h) (cls : s.hitClass h = 0) : s.detect h inj = s.corrected h inj :=
  (if_neg checks.detects).trans (if_pos cls)

/-- The error is a second one in the recovery, or window, of `d`. -/
theorem State.detect_second {d : Nat} (checks : s.checksIn h) (cls : s.hitClass h ≠ 0)
    (first : (s.errNoted h).firstDom h.dom = some d) : s.detect h inj = (s.errStruck h).escalate d h inj := by
  refine (if_neg checks.detects).trans ((if_neg cls).trans ?_)
  unfold State.errNoted at first
  dsimp only
  rw [first]
  rfl

/-- No recovery and no window is in the error's way: its class decides. -/
theorem State.detect_first (checks : s.checksIn h) (cls : s.hitClass h ≠ 0) (first : (s.errNoted h).firstDom h.dom = none) :
    s.detect h inj =
      if s.hitClass h = 3 ∨ h.dom = 0 then (s.errStruck h).deviceFatal h inj false
      else if s.hitClass h = 2 then (s.errStruck h).domainFatal h.dom h inj false 0
      else (s.errStruck h).recover h.dom h inj false := by
  refine (if_neg checks.detects).trans ((if_neg cls).trans ?_)
  unfold State.errNoted at first
  dsimp only
  rw [first]
  rfl

theorem State.detect_recovers (checks : s.checksIn h) (cls : s.hitClass h = 1) (first : (s.errNoted h).firstDom h.dom = none)
    (inner : h.dom ≠ 0) : s.detect h inj = (s.errStruck h).recover h.dom h inj false :=
  (State.detect_first checks (by omega) first).trans ((if_neg (by omega)).trans (if_neg (by omega)))

theorem State.domainFatal_inner {d us : Nat} {esc : Bool} (inner : 2 ≤ d) :
    s.domainFatal d h inj esc us = (s.noteFatal { dom := d, check := h.check, origin := h.dom, loc := h.loc, detail := h.detail
                                                  injected := inj, escaped := h.gone, escalated := esc, recovery := us }).domAction d :=
  if_neg (by omega)

theorem State.domainFatal_fabric {d us : Nat} {esc : Bool} (fabric : d ≤ 1) : s.domainFatal d h inj esc us = s.deviceFatal h inj esc :=
  if_pos fabric

theorem State.detect_domainFatal (checks : s.checksIn h) (cls : s.hitClass h = 2) (first : (s.errNoted h).firstDom h.dom = none)
    (inner : 2 ≤ h.dom) : s.detect h inj = ((s.errStruck h).noteFatal { dom := h.dom, check := h.check, origin := h.dom, loc := h.loc
                                                                        detail := h.detail, injected := inj, escaped := h.gone }).domAction h.dom :=
  (State.detect_first checks (by omega) first).trans ((if_neg (by omega)).trans ((if_pos cls).trans (State.domainFatal_inner inner)))

theorem State.detect_deviceFatal (checks : s.checksIn h) (cls : s.hitClass h ≠ 0) (first : (s.errNoted h).firstDom h.dom = none)
    (fatal : s.hitClass h = 3 ∨ h.dom = 0 ∨ h.dom = 1 ∧ s.hitClass h = 2) :
    s.detect h inj = (s.errStruck h).deviceFatal h inj false := by
  refine (State.detect_first checks cls first).trans ?_
  rcases fatal with device | device | ⟨fabric, two⟩
  · exact if_pos (.inl device)
  · exact if_pos (.inr device)
  · exact (if_neg (by omega)).trans ((if_pos two).trans (State.domainFatal_fabric (by omega)))

end

/-! ### The power paths -/

section

variable {p : Nat} (path : p < 3)

include path

theorem domPower_path : domPower (0x13 + p) = true := by
  match p, path with
  | 0, _ | 1, _ | 2, _ => rfl

theorem domHas_compare : domHas (0x13 + p) 7 = true := by
  match p, path with
  | 0, _ | 1, _ | 2, _ => rfl

theorem State.domAction_path (s : State) : s.domAction (0x13 + p) = s.powerFault p 8 4 := by
  match p, path with
  | 0, _ | 1, _ | 2, _ => rfl

end

/-! ### The obligation's parts -/

section

variable {s : State}

/-- The pass goes on after a word that is not its array's last. -/
theorem effPatrolScrub_goes {res detail unit arr n ce ue : Nat} {noCopy : Bool} (on : s.coreOn = true)
    (pass : s.err.scrub = some (arr, n, ce, ue)) :
    effPatrolScrub res detail unit noCopy false s =
      State.scrubWordAt { s with err := { s.err with
        scrub := some (arr, n + 1, ce + b2n (decide (res = 1)), ue + b2n (decide (2 ≤ res))), scrubWord := s.err.scrubWord + 1 } }
        s.err.scrubArr s.err.scrubWord res detail unit noCopy := by
  refine (if_neg (not_of_holds on)).trans ?_
  dsimp only
  rw [pass]
  rfl

/-- The pass ends with its array's last word, a pass over all of them with the last array's. -/
theorem effPatrolScrub_ends {res detail unit arr n ce ue : Nat} {noCopy : Bool} (on : s.coreOn = true)
    (pass : s.err.scrub = some (arr, n, ce, ue)) (ends : arr ≠ 0xFF ∨ s.err.scrubArr = 0x98) :
    effPatrolScrub res detail unit noCopy true s =
      let v := State.scrubWordAt { s with err := { s.err with
        scrub := none, scrubArr := nextArray s.err.scrubArr, scrubWord := 0, scrubCmd := none } }
        s.err.scrubArr s.err.scrubWord res detail unit noCopy
      match s.err.scrubCmd with
      | some c => v.complete c stOk [word (n + 1), word (ce + b2n (decide (res = 1))), word (ue + b2n (decide (2 ≤ res))),
          word ((s.uptime - s.err.scrubStart) / 400)]
      | none => v := by
  have last : (true && (decide (arr ≠ 0xFF) || decide (s.err.scrubArr = 0x98))) = true := by simpa using ends
  refine (if_neg (not_of_holds on)).trans ?_
  dsimp only
  rw [pass]
  dsimp only
  rw [last]
  rfl

theorem effPatrolScrub_patrols {res detail unit : Nat} {noCopy last : Bool} (on : s.coreOn = true) (idle : s.err.scrub = none) :
    effPatrolScrub res detail unit noCopy last s =
      State.scrubWordAt { s with err := { s.err with
        patrolArr := if last then nextArray s.err.patrolArr else s.err.patrolArr, patrolWord := if last then 0 else s.err.patrolWord + 1
        patrols := if last ∧ s.err.patrolArr = 0x98 then satAdd 16 s.err.patrols 1 else s.err.patrols } }
        s.err.patrolArr s.err.patrolWord res detail unit noCopy := by
  refine (if_neg (not_of_holds on)).trans ?_
  dsimp only
  rw [idle]

theorem effInjectDelayExpiry_waits {i : Inject} {unit : Nat} {inUse noCopy : Bool} (armed : s.err.inject = some i)
    (early : s.uptime < i.since + 400 * i.delay) : effInjectDelayExpiry unit inUse noCopy s = s := by
  unfold effInjectDelayExpiry
  rw [armed]
  exact if_pos early

/-- What is armed once an injected error has been planted. -/
def Inject.next (i : Inject) (now : Nat) : Option Inject :=
  i.second.map fun (d, t) => { i with dom := d, second := none, delay := t, since := now }

theorem effInjectDelayExpiry_plants {i : Inject} {unit : Nat} {inUse noCopy : Bool} (armed : s.err.inject = some i)
    (due : i.since + 400 * i.delay ≤ s.uptime) :
    effInjectDelayExpiry unit inUse noCopy s = State.detect { s with err := { s.err with inject := i.next s.uptime } }
      { dom := i.dom, check := i.check, loc := i.loc, unit := unit, inUse := inUse, noCopy := noCopy && decide (i.check ≠ 6) } true := by
  unfold effInjectDelayExpiry Inject.next
  rw [armed]
  refine (if_neg (Nat.not_lt.2 due)).trans ?_
  cases i.second <;> rfl

end

/-- Settles O58: an error by its class and by what recovers already, and each recovery, patrol and injection row by its guard. -/
theorem faultRows : Obligations.faultRows := by
  refine ⟨⟨?detect, ?stall, ?disagree, fun s h inj esc => rfl⟩, ?ends, ?exceeded, fun s d => ?windowRuns, ?windowStays, ?windowEnds,
    ?patrol, ?early, ?due⟩
  case detect =>
    intro s h has on cls x n y a b u v run
    have checks : s.checksIn h := ⟨has, .inl on⟩
    have runs {w : State} (is : s.detect h false = w) : run = .next w := congrArg Host.Outcome.next is
    refine ⟨?counted, ?reported, ?escalates, ?recovers, ?domain, ?device⟩
    case counted =>
      intro zero recent
      exact runs ((State.detect_correctable checks zero).trans (if_pos (congrArg (! ·) recent)))
    case reported =>
      intro zero late
      exact runs ((State.detect_correctable checks zero).trans (if_neg (not_of_holds late)))
    case escalates =>
      intro d more second p w e
      have is := State.detect_second (inj := false) checks more second
      exact ⟨fun device => runs (is.trans (if_pos device)), fun inner => runs (is.trans (if_neg inner))⟩
    case recovers => exact fun one first inner => runs (State.detect_recovers checks one first inner)
    case domain => exact fun two first inner => runs (State.detect_domainFatal checks two first inner)
    case device =>
      intro first fatal
      exact runs (State.detect_deviceFatal checks (by omega) first (by omega))
  case stall =>
    intro s d loc has inner on first
    exact congrArg Host.Outcome.next (State.detect_recovers (h := { dom := d, check := 3, loc := loc }) ⟨has, .inl on⟩ rfl first inner)
  case disagree =>
    intro s p path enabled run first
    refine congrArg Host.Outcome.next ((if_pos ⟨enabled, congrArg (! ·) run⟩).trans ?_)
    exact (State.detect_domainFatal (h := { dom := 0x13 + p, check := 7 }) ⟨domHas_compare path, .inr (domPower_path path)⟩ rfl first
      (by simp only; omega)).trans (State.domAction_path path _)
  case ends =>
    intro s d us recovering within on x u v
    refine congrArg Host.Outcome.next (if_neg ?_)
    rintro (idle | late | off)
    exacts [not_of_holds recovering idle, Nat.not_lt_of_le within late, not_of_holds on off]
  case exceeded =>
    intro s d recovering on x u
    have is : effRecoveryBoundExceeded d s = u.domainFatal d x.hit x.recInj x.recEsc 0 :=
      if_neg fun off => off.elim (not_of_holds recovering) (not_of_holds on)
    exact ⟨fun inner => congrArg Host.Outcome.next (is.trans (State.domainFatal_inner inner)),
      fun fabric => congrArg Host.Outcome.next (is.trans (State.domainFatal_fabric fabric))⟩
  case windowRuns => simp [State.inRecWindow]
  case windowStays => exact fun s d inside => congrArg Host.Outcome.next (if_neg fun outside => not_of_holds inside outside.2)
  case windowEnds => exact fun s d opened passed => congrArg Host.Outcome.next (if_pos ⟨opened, congrArg (! ·) passed⟩)
  case patrol =>
    intro s res detail unit noCopy last on e found run
    have runs {w : State} (is : effPatrolScrub res detail unit noCopy last s = w) : run = .next w := congrArg Host.Outcome.next is
    constructor
    · intro idle u
      exact runs (effPatrolScrub_patrols on idle)
    intro arr n ce ue pass ce1 ue1
    constructor
    · rintro rfl u
      exact runs (effPatrolScrub_goes on pass)
    · rintro rfl whole u v
      have is := effPatrolScrub_ends (res := res) (detail := detail) (unit := unit) (noCopy := noCopy) on pass whole
      refine ⟨fun c waits => runs (is.trans ?_), fun nobody => runs (is.trans ?_)⟩
      · dsimp only
        rw [show s.err.scrubCmd = some c from waits]
        rfl
      · dsimp only
        rw [show s.err.scrubCmd = none from nobody]
        rfl
  case early => exact fun s i unit inUse noCopy armed early => congrArg Host.Outcome.next (effInjectDelayExpiry_waits armed early)
  case due =>
    intro s i unit inUse noCopy armed due plant rest
    have is := effInjectDelayExpiry_plants (unit := unit) (inUse := inUse) (noCopy := noCopy) armed due
    refine ⟨fun single => congrArg Host.Outcome.next (is.trans ?_), fun d t second => congrArg Host.Outcome.next (is.trans ?_)⟩
    · rw [Inject.next, single]; rfl
    · rw [Inject.next, second]; rfl

end Sys2Proof.Machine
end

section

/-! ## The DIAG_ commands -/

namespace Sys2Proof.Machine

open Sys2Proof

section

variable {u : State} {c : Cmd}

/-- What a DIAG_INJECT must carry: the key, a check and a delay in range, and domains that have the check. -/
abbrev injectOk (c : Cmd) : Prop :=
  c.f 4 31 16 = 0x494A ∧ 1 ≤ c.f 4 7 0 ∧ c.f 4 7 0 ≤ 7 ∧ c.f 6 15 0 ≤ 50000 ∧ domHas (c.f 4 15 8) (c.f 4 7 0) = true ∧
    (c.b 6 24 = true → domHas (c.f 6 23 16) (c.f 4 7 0) = true)

/-- The injection aims at the device: at its domain, or at a domain and its parent in one recovery. -/
abbrev State.injectDev (u : State) (c : Cmd) : Prop :=
  c.f 4 15 8 = 0 ∨
    c.b 6 24 = true ∧ c.f 7 15 0 ≤ 10000 ∧ (c.f 6 23 16 = c.f 4 15 8 ∨ u.domParent (c.f 4 15 8) = some (c.f 6 23 16))

/-- What DIAG_INJECT tests before anything is armed, as the model writes it. -/
abbrev State.injectBad (u : State) (c : Cmd) : Prop :=
  (decide (c.f 4 31 16 ≠ 0x494A ∨ c.f 4 7 0 < 1 ∨ 7 < c.f 4 7 0 ∨ 50000 < c.f 6 15 0) || !domHas (c.f 4 15 8) (c.f 4 7 0) ||
      (c.b 6 24 && !domHas (c.f 6 23 16) (c.f 4 7 0))) = true ∨
    (decide (c.f 4 15 8 = 0) || (c.b 6 24 && decide (c.f 7 15 0 ≤ 10000) &&
        decide (c.f 6 23 16 = c.f 4 15 8 ∨ u.domParent (c.f 4 15 8) = some (c.f 6 23 16)))) = true ∧ (!c.b 6 25) = true

/-- The injection is refused exactly where what it carries is wrong, or it aims at the device without the flag. -/
theorem State.injectBad_iff : u.injectBad c ↔ ¬ injectOk c ∨ u.injectDev c ∧ c.b 6 25 = false := by
  refine or_congr ?_ (and_congr ?_ ?_)
  · rw [← not_iff_not, not_not]
    simp only [injectOk, Nat.one_le_iff_ne_zero]
    cases domHas (c.f 4 15 8) (c.f 4 7 0) <;> simp [and_assoc]
  · simp [State.injectDev, and_assoc]
  · simp

theorem State.injectBad_free (ok : injectOk c) (allowed : u.injectDev c → c.b 6 25 = true) : ¬ u.injectBad c := by
  rw [State.injectBad_iff]
  rintro (bad | ⟨dev, no⟩)
  exacts [bad ok, Bool.false_ne_true (no.symm.trans (allowed dev))]

/-- A pass over an array, or over all of them, is well named. -/
theorem scrubArray_ok {a : Nat} (named : domArray a = true ∨ a = 0xFF) : ¬ ((!domArray a) = true ∧ a ≠ 0xFF) :=
  fun bad => named.elim (fun array => not_of_holds array bad.1) bad.2

end

/-- Settles O59: each command from the check of authority, then from its own in their order. -/
theorem diagCommands : Obligations.diagCommands := by
  intro c failed one d k d2 ranges dev inj scrub test zero
  refine ⟨?errorsOne, ?errorsAll, ?inject, ?injectBusy, ?injectBad, ?scrub, ?scrubWaits, ?scrubBusy, ?selftest, ?clear, ?clearAll,
    ?injectAuth, ?scrubAuth, ?selftestAuth, ?clearAuth⟩ <;> refine Completes.of (fun _ => rfl) ?_
  case errorsOne =>
    intro u single
    simp only [one] at single
    simp [single, one]
  case errorsAll =>
    intro u all
    simp only [one] at all
    simp [all]
  case inject =>
    rintro u ⟨auth, ok, allowed, free⟩
    exact (if_neg (not_of_holds auth)).trans ((if_neg (State.injectBad_free ok allowed)).trans
      (if_neg (not_isSome free)))
  case injectBusy =>
    rintro u ⟨auth, ok, allowed, armed⟩
    exact (if_neg (not_of_holds auth)).trans ((if_neg (State.injectBad_free ok allowed)).trans (if_pos armed))
  case injectBad =>
    rintro u ⟨auth, bad⟩
    exact (if_neg (not_of_holds auth)).trans (if_pos (State.injectBad_iff.2 bad))
  case scrub =>
    rintro u ⟨auth, named, idle, now⟩
    refine (if_neg (not_of_holds auth)).trans ((if_neg (scrubArray_ok named)).trans ((if_neg (not_isSome idle)).trans ?_))
    simp [now, scrub, one]
  case scrubWaits =>
    rintro u ⟨auth, named, idle, waits⟩
    refine (if_neg (not_of_holds auth)).trans ((if_neg (scrubArray_ok named)).trans ((if_neg (not_isSome idle)).trans ?_))
    simp [waits, scrub, one]
  case scrubBusy =>
    rintro u ⟨auth, named, busy⟩
    exact (if_neg (not_of_holds auth)).trans ((if_neg (scrubArray_ok named)).trans (if_pos busy))
  case selftest => exact fun u auth => if_neg (not_of_holds auth)
  case clear =>
    rintro u ⟨auth, sums⟩
    refine (if_neg (not_of_holds auth)).trans ?_
    simp [sums]
  case clearAll =>
    rintro u ⟨auth, counts⟩
    refine (if_neg (not_of_holds auth)).trans ?_
    simp [counts, zero]
  case injectAuth => exact fun u auth => if_pos (congrArg (! ·) auth)
  case scrubAuth => exact fun u auth => if_pos (congrArg (! ·) auth)
  case selftestAuth => exact fun u auth => if_pos (congrArg (! ·) auth)
  case clearAuth => exact fun u auth => if_pos (congrArg (! ·) auth)

end Sys2Proof.Machine
end

section

/-! ## The KEY_ commands -/

namespace Sys2Proof.Machine

open Sys2Proof

section

variable {u : State} {c : Cmd} {slots : List Nat} {random : Bool} {body : State → State} {newBody : State → Nat → State} {k i : Nat} {auto : Bool}

/-- A key command goes to its part when every slot it names is its requester's and the entropy it draws is there. -/
theorem State.keyCmd_runs (mine : ∀ j ∈ slots, u.mayUse c 0xA j = true) (entropy : random = true → u.keys.entropyOk = true) :
    u.keyCmd c slots random body = body u := by
  refine (if_neg ?_).trans (if_neg fun dry => not_of_holds (entropy dry.1) dry.2)
  rw [List.any_eq_true]
  rintro ⟨j, named, other⟩
  exact not_of_holds (mine j named) other

theorem State.keyCmd_busy (mine : ∀ j ∈ slots, u.mayUse c 0xA j = true) (draws : random = true) (dry : u.keys.entropyOk = false) :
    u.keyCmd c slots random body = u.complete c stBusy [] := by
  refine (if_neg ?_).trans (if_pos ⟨draws, congrArg (! ·) dry⟩)
  rw [List.any_eq_true]
  rintro ⟨j, named, other⟩
  exact not_of_holds (mine j named) other

theorem State.keyCmd_other {j : Nat} (named : j ∈ slots) (other : u.mayUse c 0xA j = false) :
    u.keyCmd c slots random body = u.complete c stNotGranted [] :=
  if_pos (List.any_eq_true.2 ⟨j, named, congrArg (! ·) other⟩)

theorem State.newKey_ok (free : u.newSlot c k auto = .ok i) : u.newKey c k auto newBody = newBody u i := by
  unfold State.newKey
  rw [free]

theorem State.newKey_error {st : Nat} (taken : u.newSlot c k auto = .error st) : u.newKey c k auto newBody = u.complete c st [] := by
  unfold State.newKey
  rw [taken]

/-- A named slot that holds a key takes no other. -/
theorem State.newSlot_full (sound : (u.kslot k).broken = false) (full : (u.kslot k).full = true) :
    u.newSlot c k false = .error stBusy :=
  (if_neg Bool.false_ne_true).trans ((if_neg (ne_true_of_eq_false sound)).trans (if_pos full))

/-- A slot whose key may be used is full. -/
theorem KeySlot.usable_full {x : KeySlot} (usable : x.usable = true) : x.full = true := by
  unfold KeySlot.usable at usable
  exact (Bool.and_eq_true_iff.1 usable).1

/-- The slots of a command are its requester's where the first is and the rest are. -/
theorem keySlots_cons {P : Nat → Prop} {l : List Nat} (first : ∀ j ∈ [k], P j) (rest : ∀ j ∈ l, P j) : ∀ j ∈ k :: l, P j :=
  List.forall_mem_cons.2 ⟨first k (List.mem_singleton_self k), rest⟩

theorem keySlots_append {P : Nat → Prop} {l m : List Nat} (first : ∀ j ∈ l, P j) (rest : ∀ j ∈ m, P j) : ∀ j ∈ l ++ m, P j :=
  List.forall_mem_append.2 ⟨first, rest⟩

theorem keySlots_nil {P : Nat → Prop} : ∀ j ∈ ([] : List Nat), P j := fun _ no => absurd no (List.not_mem_nil)

/-- An operation of KEY_CRYPT with a slot goes on where the slot may be used, holds a usable key and permits it. -/
theorem cryptSlot_pass {op : Nat} {random absent denied rest : State → State} (own : ∀ j ∈ [k], u.mayUse c 0xA j = true) (slotted : op ≠ 5)
    (entropy : 4 ≤ op → u.keys.entropyOk = true) (usable : (u.kslot k).usable = true) (permits : (u.kslot k).permits op = true) :
    (u.keyCmd c (if op = 5 then [] else [k]) (decide (4 ≤ op)) fun s =>
      if op = 5 then random s else if (!(s.kslot k).usable) = true then absent s
      else if (!(s.kslot k).permits op) = true then denied s else rest s) = rest u :=
  (State.keyCmd_runs (by rwa [if_neg slotted]) fun draws => entropy (of_decide_eq_true draws)).trans
    ((if_neg slotted).trans ((if_neg (not_of_holds usable)).trans (if_neg (not_of_holds permits))))

/-- A completion of one of two results. -/
theorem complete_ite {P : Prop} {d : Decidable P} {st st' : Nat} :
    u.complete c (if P then st else st') [] = if P then u.complete c st [] else u.complete c st' [] := by
  split <;> rfl

end

/-- Settles O55: each command from the check of its slots, then from its own in their order. -/
theorem keyCommands : Obligations.keyCommands := by
  intro c bad k w id auto mine dest typ attr op t aad put may stored nonce src ecdh
  refine ⟨fun i => ?generate, ?generateDry, ?generateFull, fun i => ?importPlain, fun i => ?importWrapped, ?importBad, ?exportWrapped,
    ?exportDenied, ?exportBlob, fun i => ?load, ?loadBad, ?destroy, ?destroyNone, fun pass => ?destroyBad, ?attest, ?attestManuf,
    ?attestReceipt, fun i => ?derive, ?deriveDenied, ?sealed, ?opened, ?openBad, ?mac, ?verify, ?sign, ?random, ?denied, ?other⟩ <;>
    refine Completes.of (fun _ => rfl) ?_
  case generate =>
    rintro u ⟨own, entropy, free⟩
    exact (State.keyCmd_runs own fun _ => entropy).trans (State.newKey_ok free)
  case generateDry =>
    rintro u ⟨own, dry⟩
    exact State.keyCmd_busy own rfl dry
  case generateFull =>
    rintro u ⟨named, own, entropy, sound, full⟩
    simp only [auto] at named
    rw [named]
    exact (State.keyCmd_runs own fun _ => entropy).trans (State.newKey_error (State.newSlot_full sound full))
  case importPlain =>
    rintro u ⟨plain, own, length, free⟩
    rw [plain]
    refine (State.keyCmd_runs (keySlots_append own keySlots_nil) (Bool.false_ne_true.elim ·)).trans ?_
    refine (if_neg fun h => h.2 length).trans ((if_neg fun h => Bool.false_ne_true h.1).trans ((if_neg fun h => Bool.false_ne_true h.1).trans
      ((if_neg fun h => Bool.false_ne_true h.1).trans (State.newKey_ok free))))
  case importWrapped =>
    rintro u ⟨wrapped, own, ownWrap, usable, wraps, intact, free⟩
    rw [wrapped]
    refine (State.keyCmd_runs (keySlots_append own ownWrap) (Bool.false_ne_true.elim ·)).trans ?_
    exact (if_neg fun h => Bool.false_ne_true h.1).trans ((if_neg fun h => not_of_holds usable h.2).trans
      ((if_neg fun h => not_of_holds wraps h.2).trans ((if_neg fun h => not_of_holds intact h.2).trans (State.newKey_ok free))))
  case importBad =>
    rintro u ⟨wrapped, own, ownWrap, usable, wraps, broken⟩
    rw [wrapped]
    refine (State.keyCmd_runs (keySlots_append own ownWrap) (Bool.false_ne_true.elim ·)).trans ?_
    exact (if_neg fun h => Bool.false_ne_true h.1).trans ((if_neg fun h => not_of_holds usable h.2).trans
      ((if_neg fun h => not_of_holds wraps h.2).trans (if_pos ⟨rfl, congrArg (! ·) broken⟩)))
  case exportWrapped =>
    rintro u ⟨wrapped, own, usable, wUsable, exportable, wraps⟩
    rw [wrapped]
    refine (State.keyCmd_runs own (Bool.false_ne_true.elim ·)).trans ?_
    exact (if_neg fun h => h.elim (not_of_holds usable) fun h => not_of_holds wUsable h.2).trans ((if_pos rfl).trans
      (if_neg fun h => h.elim (not_of_holds exportable) (not_of_holds wraps)))
  case exportDenied =>
    rintro u ⟨wrapped, own, usable, wUsable, no⟩
    rw [wrapped]
    refine (State.keyCmd_runs own (Bool.false_ne_true.elim ·)).trans ?_
    exact (if_neg fun h => h.elim (not_of_holds usable) fun h => not_of_holds wUsable h.2).trans ((if_pos rfl).trans
      (if_pos (no.imp (congrArg (! ·)) (congrArg (! ·)))))
  case exportBlob =>
    rintro u ⟨blob, own, entropy, usable⟩
    rw [blob]
    refine (State.keyCmd_runs own fun _ => entropy).trans ?_
    exact (if_neg fun h => h.elim (not_of_holds usable) fun h => Bool.false_ne_true h.1).trans (if_neg Bool.false_ne_true)
  case load =>
    rintro u ⟨own, checks, free⟩
    exact (State.keyCmd_runs own (Bool.false_ne_true.elim ·)).trans ((if_neg fun h => h checks).trans (State.newKey_ok free))
  case loadBad =>
    rintro u ⟨own, fails⟩
    exact (State.keyCmd_runs own (Bool.false_ne_true.elim ·)).trans (if_pos fails)
  case destroy =>
    rintro u ⟨named, own, there⟩
    simp only [auto] at named
    rw [named]
    refine (State.keyCmd_runs own (Bool.false_ne_true.elim ·)).trans ((if_neg ?_).trans rfl)
    rintro ⟨-, empty, nowhere⟩
    exact there.elim (fun usable => not_of_holds usable empty) fun kept => not_of_holds kept nowhere
  case destroyNone =>
    rintro u ⟨named, own, empty, nowhere⟩
    simp only [auto] at named
    rw [named]
    exact (State.keyCmd_runs own (Bool.false_ne_true.elim ·)).trans
      (if_pos ⟨rfl, congrArg (! ·) empty, congrArg (! ·) nowhere⟩)
  case destroyBad =>
    rintro u ⟨least, most, named, own, usable⟩
    simp only [auto] at named
    rw [named]
    refine (State.keyCmd_runs own (Bool.false_ne_true.elim ·)).trans ((if_neg fun h => not_of_holds usable h.2.1).trans ?_)
    simp [k, least, most, KeySlot.usable_full usable]
  case attest =>
    rintro u ⟨form, own, entropy, usable⟩
    rw [form]
    exact (State.keyCmd_runs own fun _ => entropy).trans ((if_neg Nat.zero_ne_one).trans ((if_neg (by omega)).trans
      (if_neg (not_of_holds usable))))
  case attestManuf =>
    rintro u ⟨form, entropy⟩
    rw [form]
    exact (State.keyCmd_runs keySlots_nil fun _ => entropy).trans (if_pos rfl)
  case attestReceipt =>
    rintro u ⟨form, entropy⟩
    rw [form]
    exact (State.keyCmd_runs keySlots_nil fun _ => entropy).trans ((if_neg (by omega)).trans (if_pos rfl))
  case derive =>
    rintro u ⟨own, usable, derives, kind, small, length, free⟩
    refine (State.keyCmd_runs own (Bool.false_ne_true.elim ·)).trans ((if_neg (not_of_holds usable)).trans ((if_neg ?_).trans ((if_neg ?_).trans
      (State.newKey_ok free))))
    · rintro (no | wrong)
      · exact no derives
      · simp only [ecdh, src] at kind
        rw [kind] at wrong
        simp at wrong
    · rintro (large | ⟨exchange, short⟩)
      · omega
      · exact short (length exchange)
  case deriveDenied =>
    rintro u ⟨own, usable, no⟩
    exact (State.keyCmd_runs own (Bool.false_ne_true.elim ·)).trans ((if_neg (not_of_holds usable)).trans (if_pos (.inl no)))
  case sealed =>
    rintro u ⟨seals, own, usable, permits⟩
    simp only [op] at seals permits
    rw [seals] at permits ⊢
    exact cryptSlot_pass own (by omega) (by omega) usable permits
  case opened =>
    rintro u ⟨opens, ⟨own, usable, permits⟩, intact⟩
    simp only [op] at opens permits
    rw [opens] at permits ⊢
    exact (cryptSlot_pass own (by omega) (by omega) usable permits).trans (if_pos intact)
  case openBad =>
    rintro u ⟨opens, ⟨own, usable, permits⟩, broken⟩
    simp only [op] at opens permits
    rw [opens] at permits ⊢
    exact (cryptSlot_pass own (by omega) (by omega) usable permits).trans (if_neg (ne_true_of_eq_false broken))
  case mac =>
    rintro u ⟨macs, own, usable, permits⟩
    simp only [op] at macs permits
    rw [macs] at permits ⊢
    exact cryptSlot_pass own (by omega) (by omega) usable permits
  case verify =>
    rintro u ⟨verifies, own, usable, permits⟩
    simp only [op] at verifies permits
    rw [verifies] at permits ⊢
    exact (cryptSlot_pass own (by omega) (by omega) usable permits).trans complete_ite.symm
  case sign =>
    rintro u ⟨signs, ⟨own, usable, permits⟩, entropy⟩
    simp only [op] at signs permits
    rw [signs] at permits ⊢
    exact cryptSlot_pass own (by omega) (fun _ => entropy) usable permits
  case random =>
    rintro u ⟨draws, entropy⟩
    simp only [op] at draws
    rw [draws]
    exact (State.keyCmd_runs keySlots_nil fun _ => entropy).trans (if_pos rfl)
  case denied =>
    rintro u ⟨small, own, usable, no⟩
    simp only [op] at small no
    refine (State.keyCmd_runs (by rwa [if_neg (by omega)]) fun large => absurd (of_decide_eq_true large) (by omega)).trans ?_
    exact (if_neg (by omega)).trans ((if_neg (not_of_holds usable)).trans (if_pos (congrArg (! ·) no)))
  case other =>
    rintro u ⟨slotted, other⟩
    simp only [op] at slotted
    refine State.keyCmd_other (j := k) ?_ other
    rw [if_neg (by omega)]
    exact List.mem_singleton_self k

end Sys2Proof.Machine
end

section

/-! ## The skim, the entropy test and KEY_PAIR_LINK -/

namespace Sys2Proof.Machine

open Sys2Proof

section

variable {u : State} {c : Cmd} {l : Nat} {denied absent busy rest : State}

/-- The pairing of a present link, for authority and with entropy, passes the checks of KEY_PAIR_LINK. -/
theorem pairChecks_pass (auth : u.authZ c = true) (present : u.linkPresent l = true) (entropy : u.keys.entropyOk = true) :
    (if (!u.authZ c) = true then denied else if (!u.linkPresent l) = true then absent else if (!u.keys.entropyOk) = true then busy else rest) =
      rest :=
  (if_neg (not_of_holds auth)).trans ((if_neg (not_of_holds present)).trans (if_neg (not_of_holds entropy)))

/-- The seal material of a link does not come from the data area. -/
theorem State.storePair_sealMat (s : State) (iv : List Byte) (p : PairRec) (key : List Byte) :
    (s.storePair iv p).sealMat l key = s.sealMat l key := by
  have only := State.storePair_only s iv p
  simp only [OnlyNvImg] at only
  have up : (s.storePair iv p).upLink l = s.upLink l := by
    unfold State.upLink State.isRoot State.role State.strap
    rw [State.storePair_ret]
  simp only [State.sealMat, State.link, up, only]

/-- The requester's hub comes from the tree's records and the straps. -/
theorem State.cmdHub_congr {s t : State} (tree : t.tree = s.tree) (ret : t.ret = s.ret) (c : Cmd) : t.cmdHub c = s.cmdHub c := by
  unfold State.cmdHub State.selfNo State.hubNum State.isRoot State.role State.strap
  rw [tree, ret]

theorem State.forgotten_cmdHub (s : State) (l : Nat) (ps : List PairRec) (f : Link → Link) (c : Cmd) :
    ((ps.foldl State.dropPair s).modLink l f).cmdHub c = s.cmdHub c := by
  have link := @State.modLink_only
  have drop := @State.dropPair_only
  simp only [OnlyLinks] at link
  simp only [OnlyNvImg] at drop
  exact State.cmdHub_congr (by simp [link, drop]) (by simp) c

end

/-- Settles O56: the skim slot by slot, and KEY_PAIR_LINK from its checks, then by its step. -/
theorem keyRows : Obligations.keyRows := by
  refine ⟨fun s early => congrArg Host.Outcome.next (if_neg fun due => Bool.false_ne_true (early.symm.trans due.2)),
    ?skims, fun s on => congrArg Host.Outcome.next (if_pos on), ?masks, fun s k empty => if_pos (congrArg (! ·) empty), ?pairing⟩
  case skims =>
    intro s on due u
    refine congrArg Host.Outcome.next ?_
    unfold effSkimPass
    rw [if_pos ⟨on, due⟩]
  case masks =>
    intro s k full m
    exact if_neg (not_of_holds full)
  intro c l step may o key sound signed others go
  refine ⟨?offer, ?offerDown, ?noOffer, fun eph => ?stale, fun eph => ?unsigned, fun eph => ?full, fun eph => ?finish, ?forget, ?nothing,
    ?auth⟩ <;> refine Completes.of (fun _ => rfl) ?_
  case offer =>
    rintro u ⟨⟨auth, present, entropy⟩, offers, up⟩
    refine (pairChecks_pass auth present entropy).trans ?_
    simp only [step] at offers
    rw [offers]
    exact if_neg fun down => down up
  case offerDown =>
    rintro u ⟨⟨auth, present, entropy⟩, offers, down⟩
    refine (pairChecks_pass auth present entropy).trans ?_
    simp only [step] at offers
    rw [offers]
    exact if_pos down
  case noOffer =>
    rintro u ⟨⟨auth, present, entropy⟩, finishes, none'⟩
    refine (pairChecks_pass auth present entropy).trans ?_
    simp only [step, l] at finishes none'
    rw [finishes]
    dsimp only
    rw [none']
    rfl
  case stale =>
    rintro u ⟨⟨auth, present, entropy⟩, finishes, offered, other⟩
    refine (pairChecks_pass auth present entropy).trans ?_
    simp only [step, l] at finishes offered
    rw [finishes]
    dsimp only
    rw [offered]
    exact if_pos (not_and_or.1 other)
  case unsigned =>
    rintro u ⟨⟨auth, present, entropy⟩, finishes, offered, same, no⟩
    refine (pairChecks_pass auth present entropy).trans ?_
    simp only [step, l] at finishes offered
    rw [finishes]
    dsimp only
    rw [offered]
    exact (if_neg fun other => not_and_or.2 other same).trans (if_pos (congrArg (! ·) no))
  case full =>
    rintro u ⟨⟨auth, present, entropy⟩, finishes, offered, same, yes, many⟩
    refine (pairChecks_pass auth present entropy).trans ?_
    simp only [step, l] at finishes offered
    rw [finishes]
    dsimp only
    rw [offered]
    exact (if_neg fun other => not_and_or.2 other same).trans ((if_neg (not_of_holds yes)).trans (if_pos many))
  case finish =>
    rintro u ⟨⟨auth, present, entropy⟩, finishes, offered, same, yes, room⟩
    refine (pairChecks_pass auth present entropy).trans ?_
    simp only [step, l] at finishes offered
    rw [finishes]
    dsimp only
    rw [offered]
    refine (if_neg fun other => not_and_or.2 other same).trans ((if_neg (not_of_holds yes)).trans ((if_neg (Nat.not_le_of_lt room)).trans ?_))
    rw [State.storePair_sealMat]
  case forget =>
    rintro u ⟨⟨auth, present, entropy⟩, forgets, paired⟩
    refine (pairChecks_pass auth present entropy).trans ?_
    simp only [step] at forgets
    rw [forgets]
    show (if (!u.area.pairs.any fun p => decide (p.link = l)) = true then _ else _) = _
    refine (if_neg (not_of_holds paired)).trans ?_
    dsimp only
    rw [State.forgotten_cmdHub]
  case nothing =>
    rintro u ⟨⟨auth, present, entropy⟩, forgets, unpaired⟩
    refine (pairChecks_pass auth present entropy).trans ?_
    simp only [step] at forgets
    rw [forgets]
    show (if (!u.area.pairs.any fun p => decide (p.link = l)) = true then _ else _) = _
    exact if_pos (congrArg (! ·) unpaired)
  case auth => exact fun u auth => if_pos (congrArg (! ·) auth)

end Sys2Proof.Machine
end

section

/-! ## Frames that do not hold: the free values of a source ring's slots -/

namespace Sys2Proof.Machine

open Sys2Proof

/-- Slice 1 frozen, bound to port 0 with its source ring 0 of two slots enabled; what stands for host memory has given no slot yet. -/
def ringHost : HostIf :=
  { State.reset.host with
    port0 := { HPort.init with up := true, retry := false, memEn := true }
    slices := [(1, { Slice.init with state := 2, bound := true, rings := [(0, { Ring.init with enable := true, entries := 2 })] })] }

/-- A hub in Field whose host port 0, in use by its straps, hears the doorbell of that ring. -/
def ringState : State := { State.reset with host := ringHost, ret := { State.reset.ret with mode := .field, straps := 4 } }

/-- The same hub with two requests in its store: for the far record 0 of slice 1's memory one held since the hub's start, and for the far
record 1 of the registers a write of 1 to the doorbell of the ring. -/
def heldState : State :=
  { ringState with
    uptime := 400000001
    win := { ringState.win with
      wins := [(0, { Win.init with st := wOpen, far := true, owner := 1 }),
        (1, { Win.init with st := wOpen, far := true, reg := true, base := 0x1900 })]
      store := [{ FarReq.init with since := 1 },
        { FarReq.init with win := 1, op := opWriteP, len := 4, w2 := 0xF, data := [1, 0, 0, 0], since := 1 }] } }

/-- What `ringState`'s ring brings no slot for is a free value. -/
theorem ringState_draws : (effSlRingDbWrite 0 1 0 1 [] ringState).free ≠ ringState.free := by decide

theorem heldState_draws : (effFarHoldTimeout 0 heldState).free ≠ heldState.free := by decide

/-- Refutes O10: its frame of FAR_HOLD_TIMEOUT leaves out `free`. As the held request of `heldState` leaves the store, the REG write
behind it is presented; it rings a source ring's doorbell, and the slot, which no row brings, is a free value drawn (R475, log entry 44). -/
theorem not_unitFrames : ¬ Obligations.unitFrames := by
  unfold Obligations.unitFrames
  intro frames
  obtain ⟨-, -, -, -, -, -, -, -, -, -, -, -, -, -, -, -, -, -, -, -, -, -, -, -, -, -, -, -, -, -, -, -, -, -, -, held, -, -, -⟩ :=
    frames 0 0 0 0 0 none [] {} false false false none 0 {} [] 0 [] {} []
  exact heldState_draws (held (.farHoldTimeout 0) (List.mem_singleton_self _) heldState _ rfl .free (by decide))

/-- Refutes O11: its frame of SL_RINGr_DB leaves out `free`. The doorbell of `ringState` covers a slot that the row does not bring, which
is a free value drawn (R475, log entry 44). -/
theorem not_wideFrames : ¬ Obligations.wideFrames := by
  unfold Obligations.wideFrames
  intro frames
  obtain ⟨-, -, ring, -⟩ := frames {} 0 1 0 1 0 0 [] false false false false [] {} {} [] false 0 0 0 [] none [] []
  exact ringState_draws (ring (.slRingDbWrite 0 1 0 1 []) (List.mem_singleton_self _) ringState _ rfl .free (by decide))

end Sys2Proof.Machine
end

section

/-! ## The frames of the rows that change at most two parts, and of a few that change more -/

namespace Sys2Proof.Machine

open Sys2Proof

/-! ### Frames from what an operation leaves -/

/-- The parts that stay, in the order in which the laws of the operations name them. -/
def keptBut (but : List Part) : List Part :=
  [.pending, .nv, .ret, .pwr, .board, .pace, .links, .tree, .sched, .time, .trav, .host, .disp, .usb, .net, .win, .keys, .img, .err, .out,
    .free, .uptime].filter (· ∉ but)

section

variable {but : List Part} {s t u : State} {i : Instr}

/-- A frame, part by part: for a concrete list this is the conjunction that an operation's law states. -/
theorem unchanged_iff : Unchanged but s t ↔ (keptBut but).Forall (Part.same · s t) := by
  rw [List.forall_iff_forall_mem]
  refine forall_congr' fun p => imp_congr_left ?_
  cases p <;> simp [keptBut]

theorem Unchanged.refl : Unchanged but s s := unchanged_iff.2 (List.forall_iff_forall_mem.2 fun p _ => by cases p <;> rfl)

theorem Unchanged.trans (first : Unchanged but s t) (next : Unchanged but t u) : Unchanged but s u := fun p kept => by
  have a := first p kept
  have b := next p kept
  cases p <;> exact b.trans a

/-- An operation that changes a part of a frame's list at most. -/
theorem Unchanged.mono {only : List Part} (sub : ∀ p ∈ only, p ∈ but) (h : Unchanged only s t) : Unchanged but s t :=
  fun p kept => h p fun named => kept (sub p named)

theorem Unchanged.ite {P : Prop} [Decidable P] {a b : State} (yes : P → Unchanged but s a) (no : ¬ P → Unchanged but s b) :
    Unchanged but s (if P then a else b) := by
  split
  · exact yes ‹_›
  · exact no ‹_›

theorem Frame.next {f : State → State} (is : ∀ s, exec i s = .next (f s)) (same : ∀ s, Unchanged but s (f s)) : Frame i but := by
  intro s t run
  rw [is] at run
  cases run
  exact same s

/-- The frame of a row whose effect has a law. -/
theorem Frame.only {f : State → State} (is : ∀ s, exec i s = .next (f s)) (law : ∀ s, (keptBut but).Forall (Part.same · s (f s))) :
    Frame i but :=
  .next is fun s => unchanged_iff.2 (law s)

/-- The frame of a row whose law goes on to name fields of a part that the row changes. -/
theorem Frame.onlyAnd {f : State → State} {more : State → Prop} (is : ∀ s, exec i s = .next (f s))
    (law : ∀ s, (keptBut but).foldr (fun p facts => p.same s (f s) ∧ facts) (more s)) : Frame i but := by
  have named (l : List Part) (s : State) (h : l.foldr (fun p facts => p.same s (f s) ∧ facts) (more s)) : l.Forall (Part.same · s (f s)) := by
    induction l with
    | nil => trivial
    | cons p l ih => exact (List.forall_cons ..).2 ⟨h.1, ih h.2⟩
  exact .only is fun s => named _ s (law s)

theorem State.complete_unchanged (c : Cmd) (st : Nat) (ws : List Word) : Unchanged [.host, .out] s (s.complete c st ws) :=
  unchanged_iff.2 (State.complete_only ..)

theorem State.begins_unchanged (c : Cmd) : Unchanged [.host] s (s.begins c) := unchanged_iff.2 (State.begins_only ..)

theorem State.ended_unchanged : Unchanged [.host] s s.ended := unchanged_iff.2 (State.ended_only ..)

/-- The checks of a host command change the transport's records only, and so does its completion. -/
theorem State.runCmd_unchanged {c : Cmd} {op : Nat} {lay : Layout} {safe : Bool} {body : State → State} (host : .host ∈ but) (out : .out ∈ but)
    (does : ∀ u, Unchanged but u (body u)) : Unchanged but s (s.runCmd c op lay safe body) := by
  have refused (st : Nat) (ws : List Word) : Unchanged but s (s.complete c st ws) :=
    .mono (by simp [host, out]) (State.complete_unchanged c st ws)
  have begins : Unchanged but s (s.begins c) := .mono (by simp [host]) (State.begins_unchanged c)
  have ended (u : State) : Unchanged but u u.ended := .mono (by simp [host]) State.ended_unchanged
  exact .ite (fun _ => .refl) fun _ => .ite (fun _ => refused _ _) fun _ => .ite (fun _ => refused _ _) fun _ => .ite (fun _ => refused _ _) fun _ =>
    .ite (fun _ => refused _ _) fun _ => .trans (.trans begins (does _)) (ended _)

/-- The frame of a host command from what its chapter's part leaves. -/
theorem Frame.command {c : Cmd} {op : Nat} {lay : Layout} {safe : Bool} {body : State → State}
    (is : ∀ s, exec i s = .next (s.runCmd c op lay safe body)) (does : ∀ u, (keptBut but).Forall (Part.same · u (body u)))
    (host : .host ∈ but) (out : .out ∈ but) : Frame i but :=
  .next is fun _ => State.runCmd_unchanged host out fun u => unchanged_iff.2 (does u)

/-- A host command that only answers. -/
theorem Frame.answers {c : Cmd} {op : Nat} {lay : Layout} {safe : Bool} {body : State → State}
    (is : ∀ s, exec i s = .next (s.runCmd c op lay safe body)) (does : ∀ u, OnlyHostOut (body u) u) : Frame i [.host, .out] :=
  .command is does (by simp) (by simp)

/-- A property of the rows of a list, row by row. -/
theorem forall_mem {P : Instr → Prop} {l : List Instr} : l.Forall P ↔ ∀ i ∈ l, P i := List.forall_iff_forall_mem

end

/-! ### The host commands -/

section

variable (c : Cmd)

theorem linkQuery_frame : Frame (.linkQuery c) [.host, .out] := .answers (fun _ => rfl) fun u => by
  simp [OnlyHostOut, State.complete_only]

theorem pwrQuery_frame : Frame (.pwrQuery c) [.host, .out] := .answers (fun _ => rfl) fun u => by
  simp [OnlyHostOut, State.complete_only]

theorem dispQuery_frame : Frame (.dispQuery c) [.host, .out] := .answers (fun _ => rfl) fun u => by
  simp [OnlyHostOut, State.complete_only]

theorem usbQuery_frame : Frame (.usbQuery c) [.host, .out] := .answers (fun _ => rfl) fun u => by
  simp [OnlyHostOut, State.complete_only]

theorem netQuery_frame : Frame (.netQuery c) [.host, .out] := .answers (fun _ => rfl) fun u => by
  simp [OnlyHostOut, State.complete_only]

theorem schedQuery_frame : Frame (.schedQuery c) [.host, .out] := .answers (fun _ => rfl) fun u => by
  dsimp only
  split
  · exact State.complete_only ..
  · split
    · exact State.complete_only ..
    · split <;> exact State.complete_only ..
    · exact State.complete_only ..
    · split <;> exact State.complete_only ..

theorem treeQuery_frame : Frame (.treeQuery c) [.host, .out] := .answers (fun _ => rfl) fun u => by
  dsimp only
  split
  · exact State.complete_only ..
  · split
    · split <;> exact State.complete_only ..
    · exact State.complete_only ..

theorem timeQuery_frame : Frame (.timeQuery c) [.host, .out] := .answers (fun _ => rfl) fun _ => State.complete_only ..

theorem paceQuery_frame : Frame (.paceQuery c) [.host, .out] := .answers (fun _ => rfl) fun _ => State.complete_only ..

theorem travReadLegs_frame : Frame (.travReadLegs c) [.host, .out] := .answers (fun _ => rfl) fun u => by
  simp [OnlyHostOut, State.complete_only, State.output_only]

theorem travQuery_frame : Frame (.travQuery c) [.host, .out] := .answers (fun _ => rfl) fun _ => State.complete_only ..

theorem imgQuery_frame : Frame (.imgQuery c) [.host, .out] := .answers (fun _ => rfl) fun _ => State.complete_only ..

theorem sliceCreate_frame : Frame (.sliceCreate c) [.host, .out] := .answers (fun _ => rfl) fun u => by
  simp [OnlyHostOut, State.doneSlice_only, State.setSlice_only]

theorem sliceReset_frame : Frame (.sliceReset c) [.host, .out] := .answers (fun _ => rfl) fun u => by
  simp [OnlyHostOut, State.sliceCmd, State.doneSlice_only, State.resetSlice_only]

theorem sliceGrant_frame : Frame (.sliceGrant c) [.host, .out] := .answers (fun _ => rfl) fun u => by
  simp [OnlyHostOut, State.grantCmd, State.doneGrant_only]

theorem sliceFreeze_frame : Frame (.sliceFreeze c) [.host, .disp, .out] :=
  .command (fun _ => rfl) (fun u => show OnlyHostDispOut _ u by
    simp [OnlyHostDispOut, State.sliceCmd, State.doneSlice_only, State.setSlice_only, State.modSlice_only, State.stopSources_only])
    (by simp) (by simp)

theorem queueCreate_frame : Frame (.queueCreate c) [.host, .out] := .answers (fun _ => rfl) fun u => by
  simp [OnlyHostOut, State.sliceCmd, State.doneSlice_only, State.setSq_only]

theorem evqSet_frame : Frame (.evqSet c) [.host, .out] := .answers (fun _ => rfl) fun u => by
  simp [OnlyHostOut, State.sliceCmd, State.doneSlice_only, State.modSlice_only, State.flushHeld_only]

theorem devInfo_frame : Frame (.devInfo c) [.host, .out] := .answers (fun _ => rfl) fun _ => State.complete_only ..

theorem devStraps_frame : Frame (.devStraps c) [.host, .out] := .answers (fun _ => rfl) fun _ => State.complete_only ..

end

/-! ### Two rows without a law of their own -/

theorem recoveryWindowEnd_frame (d : Nat) : Frame (.recoveryWindowEnd d) [.err] := .only (fun _ => rfl) fun s => show OnlyErr _ s by
  simp [OnlyErr, State.modDom_only]

/-- A response that fits nothing is counted in its window, and another does what its row says. -/
theorem State.nearWin_unchanged {but : List Part} {s : State} {t op : Nat} {bytes : List Byte} {body : Nat → WinReq → WinHdr → State → State}
    (win : .win ∈ but) (does : ∀ w r x, Unchanged but s (body w r x s)) : Unchanged but s (s.nearWin t op bytes body) := by
  have counts (w k : Nat) : Unchanged but s (s.winCount w k) := .mono (only := [.win]) (by simp [win]) (unchanged_iff.2 (State.winCount_only ..))
  unfold State.nearWin
  dsimp only
  split
  · exact .refl
  · split
    · exact .refl
    · split
      · exact counts _ _
      · split
        · exact counts _ _
        · exact does _ _ _

theorem winRetry_frame (t : Nat) (bytes : List Byte) : Frame (.winRetry t bytes) [.win, .free] :=
  .next (fun _ => rfl) fun s => State.nearWin_unchanged (by simp) fun w r x => unchanged_iff.2 (by
    simp [keptBut, Part.same, State.winCount_only, State.modWnd_only, State.drew_only])

/-- Settles O9: row by row, from the laws of the operations. -/
theorem narrowFrames : Obligations.narrowFrames := by
  intro a b d e g bs dz p q ns y pins ws c oa rail tok w gs
  exact ⟨
    forall_mem.1 ⟨.only (fun _ => rfl) fun _ => effRowMessage_only .., .only (fun _ => rfl) fun _ => effPanelSequenceTimer_only ..⟩,
    forall_mem.1 (recoveryWindowEnd_frame a),
    forall_mem.1 ⟨.only (fun _ => rfl) fun _ => effCookieExpiry_only .., .only (fun _ => rfl) fun _ => effPcieRetryStatusEnd_only ..⟩,
    forall_mem.1 (.only (fun _ => rfl) fun _ => effEntropyStartupPass_only ..),
    forall_mem.1 (.only (fun _ => rfl) fun _ => effSourceRowSend_only ..),
    forall_mem.1 ⟨.only (fun _ => rfl) fun _ => effLosEnd_only .., .only (fun _ => rfl) fun _ => effDozReceive_only ..,
      .only (fun _ => rfl) fun _ => effWakeEndSkpReceive_only .., .only (fun _ => rfl) fun _ => effFcStall_only ..⟩,
    forall_mem.1 ⟨.only (fun _ => rfl) fun _ => effSkpSend_only .., .only (fun _ => rfl) fun _ => effIdentRepeat_only ..,
      .only (fun _ => rfl) fun _ => effConverterPoll_only .., .only (fun _ => rfl) fun _ => effHelloRepeat_only ..,
      .only (fun _ => rfl) fun _ => effReceivedRepeat_only ..⟩,
    forall_mem.1 ⟨.only (fun _ => rfl) fun _ => effPaceSample_only .., .only (fun _ => rfl) fun _ => effPaceMonitorRevalid_only ..⟩,
    forall_mem.1 ⟨.only (fun _ => rfl) fun _ => effSwapRetry_only .., .only (fun _ => rfl) fun _ => effSrcCapsResend_only ..,
      .only (fun _ => rfl) fun _ => effCurrentLimitEnd_only .., .only (fun _ => rfl) fun _ => effRetryTimerExpiry_only ..,
      .only (fun _ => rfl) fun _ => effKeepOffDone_only ..⟩,
    forall_mem.1 ⟨.onlyAnd (fun _ => rfl) fun _ => effResetNRelease_only ..,
      .onlyAnd (fun _ => rfl) fun _ => effStrapSampleDeferred_only .., .onlyAnd (fun _ => rfl) fun _ => effWakeReason_only ..,
      .onlyAnd (fun _ => rfl) fun _ => effDormancyDelayExpiry_only .., .onlyAnd (fun _ => rfl) fun _ => effPerstRelease_only ..⟩,
    forall_mem.1 ⟨.only (fun _ => rfl) fun _ => effWaitUntilRelease_only .., .only (fun _ => rfl) fun _ => effWaitForMet_only ..,
      .only (fun _ => rfl) fun _ => effWaitForTimeout_only .., .only (fun _ => rfl) fun _ => effLaunched_only ..⟩,
    forall_mem.1 (.only (fun _ => rfl) fun _ => effSofrep_only ..),
    forall_mem.1 ⟨linkQuery_frame c, pwrQuery_frame c, dispQuery_frame c, usbQuery_frame c, netQuery_frame c,
      .only (fun _ => rfl) fun _ => effRcRegisterRead_only .., .only (fun _ => rfl) fun _ => effMgTimeNsRead_only ..,
      .only (fun _ => rfl) fun _ => effMsixTableWrite_only .., .only (fun _ => rfl) fun _ => effInterruptTimer_only .., schedQuery_frame c,
      treeQuery_frame c, timeQuery_frame c, paceQuery_frame c, .only (fun _ => rfl) fun _ => effRegRead_only .., travReadLegs_frame c,
      travQuery_frame c, imgQuery_frame c, sliceCreate_frame c, sliceReset_frame c, sliceGrant_frame c,
      .only (fun _ => rfl) fun _ => effFreezeDrainEnd_only .., queueCreate_frame c, evqSet_frame c, devInfo_frame c, devStraps_frame c,
      .only (fun _ => rfl) fun _ => effIndirectInputReadDone_only .., .only (fun _ => rfl) fun _ => effTimedCommandDue_only ..,
      .only (fun _ => rfl) fun _ => effCommandMessage_only .., .only (fun _ => rfl) fun _ => effDataMessage_only ..⟩,
    forall_mem.1 (.only (fun _ => rfl) fun _ => effSkimPass_only ..),
    forall_mem.1 ⟨.only (fun _ => rfl) fun _ => effPllLock_only .., .only (fun _ => rfl) fun _ => effSymbolLock_only ..,
      .only (fun _ => rfl) fun _ => effDozeWakeStart_only .., .only (fun _ => rfl) fun _ => effAckSend_only ..,
      .only (fun _ => rfl) fun _ => effNakSend_only .., .only (fun _ => rfl) fun _ => effFcUpdateTimer_only ..,
      .only (fun _ => rfl) fun _ => effFcRefresh_only .., .only (fun _ => rfl) fun _ => effTimeExchangeStart_only ..⟩,
    forall_mem.1 ⟨.only (fun _ => rfl) fun _ => effWindowOpen_only .., .only (fun _ => rfl) fun _ => effWindowClose_only ..⟩,
    forall_mem.1 ⟨.only (fun _ => rfl) fun _ => effGateEntryBoundary_only .., .only (fun _ => rfl) fun _ => effWindowEffect_only ..⟩,
    forall_mem.1 ⟨.only (fun _ => rfl) fun _ => effLosStart_only .., .only (fun _ => rfl) fun _ => effWakeLockTimeout_only ..,
      .only (fun _ => rfl) fun _ => effAckReceive_only ..⟩,
    forall_mem.1 ⟨.only (fun _ => rfl) fun _ => effFastSwapCrossing_only .., .only (fun _ => rfl) fun _ => effPmbAlert_only ..,
      .only (fun _ => rfl) fun _ => effVoutSlewStep_only ..⟩,
    forall_mem.1 (.onlyAnd (fun _ => rfl) fun _ => effActSafelvlDrive_only ..),
    forall_mem.1 (.onlyAnd (fun _ => rfl) fun _ => effRailValid_only ..),
    forall_mem.1 (.only (fun _ => rfl) fun _ => effReceivedMessage_only ..),
    forall_mem.1 (.only (fun _ => rfl) fun _ => effTimeOutEdge_only ..),
    forall_mem.1 ⟨.only (fun _ => rfl) fun _ => effPwmPeriodStart_only .., .only (fun _ => rfl) fun _ => effEngineLaunch_only ..,
      .only (fun _ => rfl) fun _ => effPrepare_only ..⟩,
    forall_mem.1 (.only (fun _ => rfl) fun _ => effNumbered_only ..),
    forall_mem.1 (.only (fun _ => rfl) fun _ => effUsbPingToken_only ..),
    forall_mem.1 (winRetry_frame a bs),
    forall_mem.1 (.only (fun _ => rfl) fun _ => effFoldbackUpdate_only ..),
    forall_mem.1 (.only (fun _ => rfl) fun _ => effCommit_only ..),
    forall_mem.1 (sliceFreeze_frame c),
    forall_mem.1 (.only (fun _ => rfl) fun _ => effSliceMoveTimeout_only ..),
    forall_mem.1 (.only (fun _ => rfl) fun _ => effEventMessage_only ..),
    forall_mem.1 (.only (fun _ => rfl) fun _ => effCanBusIdle_only ..)⟩

end Sys2Proof.Machine
end

section

/-! ## What every row keeps: the commands that wait, and the fuses -/

namespace Sys2Proof.Machine

open Sys2Proof

/-- The commands that wait are as they were, the unit ID too; the anti-rollback counter has not fallen, and the hash of the root key, once
there, stays. -/
def State.Steady (s t : State) : Prop :=
  t.pending = s.pending ∧ t.nv.unitId = s.nv.unitId ∧ s.nv.counter ≤ t.nv.counter ∧ ∀ h, s.nv.rootHash = some h → t.nv.rootHash = some h

/-- The same for an operation that changes none of the fuses. -/
def State.Fused (s t : State) : Prop :=
  t.pending = s.pending ∧ t.nv.unitId = s.nv.unitId ∧ t.nv.counter = s.nv.counter ∧ t.nv.rootHash = s.nv.rootHash

/-- The same for an operation that leaves flash and fuses alone. -/
def State.Quiet (s t : State) : Prop := t.pending = s.pending ∧ t.nv = s.nv

/-- A row completes, and steadily. -/
def State.Completed (s : State) (o : Host.Outcome State Fault Refusal) : Prop := ∃ t, o = .next t ∧ s.Steady t

section

variable {s t u : State}

theorem State.Steady.trans (first : s.Steady t) (next : t.Steady u) : s.Steady u := by
  obtain ⟨pending, unit, counter, root⟩ := first
  obtain ⟨pending', unit', counter', root'⟩ := next
  exact ⟨pending'.trans pending, unit'.trans unit, counter.trans counter', fun h there => root' h (root h there)⟩

theorem State.Fused.steady (fused : s.Fused t) : s.Steady t := by
  obtain ⟨pending, unit, counter, root⟩ := fused
  exact ⟨pending, unit, counter.ge, fun h there => root.trans there⟩

theorem State.Quiet.steady (quiet : s.Quiet t) : s.Steady t := by
  obtain ⟨pending, nv⟩ := quiet
  exact State.Fused.steady ⟨pending, by rw [nv], by rw [nv], by rw [nv]⟩

/-- The law of an operation that leaves flash and fuses alone says so first; what else it says does not matter here. -/
theorem State.Steady.law {more : Prop} (law : t.pending = s.pending ∧ t.nv = s.nv ∧ more) : s.Steady t :=
  State.Quiet.steady ⟨law.1, law.2.1⟩

/-- The checks of a host command and its completion are steady. -/
theorem State.runCmd_steady {c : Cmd} {op : Nat} {lay : Layout} {safe : Bool} {body : State → State} (does : ∀ u : State, u.Steady (body u)) :
    s.Steady (s.runCmd c op lay safe body) := by
  have refused (st : Nat) (ws : List Word) : s.Steady (s.complete c st ws) := .law (State.complete_only s c st ws)
  have begins : s.Steady (s.begins c) := .law (State.begins_only s c)
  have ended (v : State) : v.Steady v.ended := .law (State.ended_only v)
  unfold State.runCmd
  split
  · exact State.Quiet.steady ⟨rfl, rfl⟩
  · split
    · exact refused _ _
    · split
      · exact refused _ _
      · split
        · exact refused _ _
        · split
          · exact refused _ _
          · exact (begins.trans (does _)).trans (ended _)

theorem State.Completed.next (steady : s.Steady t) : s.Completed (.next t) := ⟨t, rfl, steady⟩

theorem State.Completed.only {more : Prop} (law : t.pending = s.pending ∧ t.nv = s.nv ∧ more) : s.Completed (.next t) := .next (.law law)

theorem State.Completed.quiet (quiet : s.Quiet t) : s.Completed (.next t) := .next quiet.steady

theorem State.Completed.fused (fused : s.Fused t) : s.Completed (.next t) := .next fused.steady

/-- A row whose frame holds neither the queue nor flash and fuses. -/
theorem State.Completed.framed {i : Instr} {but : List Part} (frame : Frame i but) (is : exec i s = .next t)
    (pending : .pending ∉ but := by simp) (nv : .nv ∉ but := by simp) : s.Completed (exec i s) :=
  ⟨t, is, State.Quiet.steady ⟨frame s t is .pending pending, frame s t is .nv nv⟩⟩

section

variable {c : Cmd} {op : Nat} {lay : Layout} {safe : Bool} {body : State → State}

theorem State.Completed.command (does : ∀ u : State, u.Quiet (body u)) : s.Completed (.next (s.runCmd c op lay safe body)) :=
  .next (State.runCmd_steady fun u => (does u).steady)

theorem State.Completed.commandFused (does : ∀ u : State, u.Fused (body u)) : s.Completed (.next (s.runCmd c op lay safe body)) :=
  .next (State.runCmd_steady fun u => (does u).steady)

end

end

/-! ### The hash of the root key -/

@[simp] theorem ite_nv_rootHash (c : Prop) [Decidable c] (a b : Nv) : (if c then a else b).rootHash = if c then a.rootHash else b.rootHash :=
  apply_ite ..

@[simp] theorem foldl_nv_rootHash {α : Type} {g : State → α → State} (h : ∀ s x, (g s x).nv.rootHash = s.nv.rootHash) (l : List α) (s : State) :
    (l.foldl g s).nv.rootHash = s.nv.rootHash := by
  induction l generalizing s with
  | nil => rfl
  | cons a l ih => rw [List.foldl_cons, ih, h]

section

variable (s : State)

@[simp] theorem State.storeBlob_rootHash (k : Nat) (b : List Byte) : (s.storeBlob k b).nv.rootHash = s.nv.rootHash :=
  s.storeRec_rootHash ..

@[simp] theorem State.dropBlob_rootHash (k : Nat) : (s.dropBlob k).nv.rootHash = s.nv.rootHash := s.storeRec_rootHash ..

@[simp] theorem State.storePair_rootHash (iv : List Byte) (p : PairRec) : (s.storePair iv p).nv.rootHash = s.nv.rootHash :=
  s.storeRec_rootHash ..

@[simp] theorem State.dropPair_rootHash (p : PairRec) : (s.dropPair p).nv.rootHash = s.nv.rootHash := s.storeRec_rootHash ..

@[simp] theorem State.areaBoot_rootHash : s.areaBoot.nv.rootHash = s.nv.rootHash := rfl

@[simp] theorem State.setSlot_rootHash (k : Nat) (x : FlashSlot) : (s.setSlot k x).nv.rootHash = s.nv.rootHash := by
  unfold State.setSlot
  split <;> rfl

@[simp] theorem State.destroySlot_rootHash (k : Nat) (persisted : Bool) (bad : Option Nat) :
    (s.destroySlot k persisted bad).nv.rootHash = s.nv.rootHash := by
  cases bad <;>
    simp [State.destroySlot, State.keyEvent_only, State.keysFatal_only, State.noteErr_only, State.noteFatal_only, State.setKslot_only]

@[simp] theorem State.seize_rootHash (g : Grant) (safe : Bool) : (s.seize g safe).nv.rootHash = s.nv.rootHash := by
  unfold State.seize
  dsimp only
  split
  · simp [State.forceEngine_only]
  · simp [State.forceEngine_only]
  · split
    · simp [State.setAct_only]
    · split <;> simp [State.setAct_only, State.emit_only]
  · simp [State.setStamp_only, State.setTimeOut_only]
  · simp [State.modHead_only]
  · simp [State.setCan_only, State.abortSends_only]
  · simp
  · rfl

@[simp] theorem State.endRevoke_rootHash (r : Revoke) : (s.endRevoke r).nv.rootHash = s.nv.rootHash := by
  unfold State.endRevoke State.causedBy
  dsimp only
  cases resourceEp r.grant.kind r.grant.index <;> cases r.cmd <;>
    simp [State.closeOwned_only, State.complete_only, State.endDestroy_only, State.endFarDestroys_only]

@[simp] theorem State.beginRevoke_rootHash (g : Grant) (safe : Bool) (cmd : Option Cmd) :
    (s.beginRevoke g safe cmd).nv.rootHash = s.nv.rootHash := by
  simp [State.beginRevoke]

@[simp] theorem State.stripHolder_rootHash (h k : Nat) : (s.stripHolder h k).nv.rootHash = s.nv.rootHash := by
  simp [State.stripHolder, State.abortEngine_only]

@[simp] theorem State.farDestroy_rootHash (c : Cmd) : (s.farDestroy c).nv.rootHash = s.nv.rootHash := by
  simp [State.farDestroy, State.winCloseOwner_only, State.endFarDestroys_only]

@[simp] theorem State.arrayHit_rootHash (h : Hit) : (s.arrayHit h).nv.rootHash = s.nv.rootHash := by
  unfold State.arrayHit
  dsimp only
  split
  · split <;> split <;> simp [State.complete_only]
  · simp
  · simp [State.proxyError_only]
  · simp [State.modMac_only, State.macCount_only, State.macGo_only, State.macForget_only]
  · simp [State.setCan_only, State.canCount_only, State.abortSends_only]
  · split
    · rfl
    · simp [effFarAccessDone_only, State.setStore_only, State.farFail_only, State.present_only, State.winDrained_only]
  · simp
  · simp [State.setPlane_only, State.loseRx_only, State.linkFatal_only, State.modHead_only, State.resetSlice_only, State.modSlice_only]

@[simp] theorem State.detect_rootHash (h : Hit) (inj : Bool) : (s.detect h inj).nv.rootHash = s.nv.rootHash := by
  unfold State.detect
  dsimp only
  split
  · rfl
  · split
    · simp [State.corrected_only]
    · split <;>
        simp [State.noteErr_only, State.escalate_only, State.deviceFatal_only, State.domainFatal_only, State.recover_only]

@[simp] theorem State.scrubWordAt_rootHash (arr at' res detail unit : Nat) (noCopy : Bool) :
    (s.scrubWordAt arr at' res detail unit noCopy).nv.rootHash = s.nv.rootHash := by
  simp [State.scrubWordAt]

@[simp] theorem State.migrate_rootHash (ver : Nat) : (s.migrate ver).nv.rootHash = s.nv.rootHash := by
  simp [State.migrate, State.imgEvent_only, State.setArea_rootHash, State.setOther_rootHash, State.setBoot_rootHash]

@[simp] theorem State.bootImage_rootHash (k : Nat) (atEntry : Bool) : (s.bootImage k atEntry).nv.rootHash = s.nv.rootHash := by
  simp [State.bootImage, State.startLinks_only, State.pushIdents_only, State.latchSafe_only, State.imgEvent_only, State.applyRecords_only,
    State.setBoot_rootHash]

@[simp] theorem State.surveyStart_rootHash (cause : Nat) (failed : Bool) : (s.surveyStart cause failed).nv.rootHash = s.nv.rootHash := by
  simp [State.surveyStart, State.noteErr_only, State.deviceFatal_only, State.latchSafe_only, State.sendRate_only, State.pushIdents_only,
    State.modeEvent_only, State.pinsToSafe_only, State.setSlice_only, State.captureDefault_only, State.keysReload_only, State.coreReset_only,
    State.outputsLow_only]

end

section

variable (s : State)

theorem State.detect_fused (h : Hit) (inj : Bool) : s.Fused (s.detect h inj) := by simp [State.Fused, State.detect_only]

theorem effSurveyEntry_fused (failed : Bool) : s.Fused (effSurveyEntry failed s) := by
  simp [State.Fused, effSurveyEntry, State.surveyStart_only]

theorem effImageApply_fused (badA badB : Bool) : s.Fused (effImageApply badA badB s) := by
  simp [State.Fused, effImageApply, State.imgEvent_only, State.bootImage_only, State.latchSafe_only, State.startLinks_only]

theorem effTunProg_fused (ws : List Word) : s.Fused (effTunProg ws s) := by
  simp [State.Fused, effTunProg, State.tunAck_only, State.setEntry_only, State.detect_only]

theorem effRevokeDrainEnd_fused (kind index hub slice : Nat) : s.Fused (effRevokeDrainEnd kind index hub slice s) := by
  unfold effRevokeDrainEnd
  split <;> simp [State.Fused, State.endRevoke_only]

theorem effPatrolScrub_fused (res detail unit : Nat) (noCopy last : Bool) : s.Fused (effPatrolScrub res detail unit noCopy last s) := by
  unfold effPatrolScrub
  dsimp only
  split
  · simp [State.Fused]
  · split
    · split <;> simp [State.Fused, State.scrubWordAt_only, State.complete_only]
    · simp [State.Fused, State.scrubWordAt_only]

theorem effInjectDelayExpiry_fused (unit : Nat) (inUse noCopy : Bool) : s.Fused (effInjectDelayExpiry unit inUse noCopy s) := by
  unfold effInjectDelayExpiry
  split <;> simp [State.Fused, State.detect_only]

end

/-! ### The host commands whose part takes a choice apart -/

section

variable {s : State} {c : Cmd}

theorem State.complete_quiet (st : Nat) (ws : List Word) : s.Quiet (s.complete c st ws) := by
  simp [State.Quiet, State.complete_only]

/-- What holds of a refusal and of the chapter's part holds of a key command. -/
theorem State.keyCmd_elim {P : State → Prop} {slots : List Nat} {random : Bool} {body : State → State}
    (refused : ∀ st, P (s.complete c st [])) (does : P (body s)) : P (s.keyCmd c slots random body) := by
  unfold State.keyCmd
  split
  · exact refused _
  · split
    · exact refused _
    · exact does

theorem State.newKey_elim {P : State → Prop} {k : Nat} {auto : Bool} {body : State → Nat → State}
    (refused : ∀ st, P (s.complete c st [])) (does : ∀ i, P (body s i)) : P (s.newKey c k auto body) := by
  unfold State.newKey
  split
  · exact refused _
  · exact does _

theorem execTreeResetHub_completed (failed : Bool) : s.Completed (execTreeResetHub c failed s) := .commandFused fun u => by
  simp [State.Fused, State.complete_only, State.drew_only, State.enterSafe_only, State.linksLeave_only, State.report_only, State.reportBoth_only,
    State.surveyStart_only]

theorem execTimeOutCfg_completed : s.Completed (execTimeOutCfg c s) := .command fun u => by
  cases u.compactField c 8 <;> simp [State.Quiet, State.complete_only, State.setTimeOut_only]

theorem execTravArm_completed : s.Completed (execTravArm c s) := .command fun u => by
  dsimp only
  split
  · split <;> simp [State.Quiet, State.complete_only, State.treeLaunch_only]
  · split
    · exact State.complete_quiet ..
    · split
      · simp [State.Quiet, State.complete_only, State.resumeEngine_only]
      · split <;> simp [State.Quiet, State.complete_only, State.wakeEngine_only, State.modEngine_only, State.launchEngine_only]

theorem execTravAbort_completed : s.Completed (execTravAbort c s) := .command fun u => by
  cases u.launchOf (BitVec.ofNat 8 (c.f 5 7 0)) <;>
    simp [State.Quiet, State.complete_only, State.abortLaunch_only, State.stopEngine_only, State.abortEngine_only, State.abortedEvent_only]

theorem execSliceDestroy_completed (far : Nat) : s.Completed (execSliceDestroy c far s) := .commandFused fun u => by
  simp [State.Fused, State.sliceCmd, State.doneSlice_only, State.farDestroy_only, State.modSlice_only, State.destroyElsewhere_only,
    State.stripHolder_only, State.endDestroy_only]

theorem execSliceRevoke_completed : s.Completed (execSliceRevoke c s) := .commandFused fun u => by
  unfold State.grantCmd
  dsimp only
  split
  · simp [State.Fused, State.doneGrant_only]
  · split
    · simp [State.Fused, State.doneGrant_only]
    · split
      · simp [State.Fused, State.doneGrant_only]
      · split <;> simp [State.Fused, State.doneGrant_only, State.beginRevoke_only]

theorem execDispTiming_completed : s.Completed (execDispTiming c s) := .command fun u => by
  cases u.compactField c 9 <;> simp [State.Quiet, State.headCmd, State.complete_only, State.modHead_only]

theorem execDispPlane_completed : s.Completed (execDispPlane c s) := .command fun u => by
  cases u.compactField c 10 <;> simp [State.Quiet, State.srcCmd, State.complete_only, State.hopRecord_only, State.setSource_only]

theorem execDispCommit_completed : s.Completed (execDispCommit c s) := .command fun u => by
  simp [State.Quiet, State.srcCmd, State.headCmd, State.complete_only, State.hopRecord_only, State.setSource_only, State.applySrc_only,
    State.takeCommit_only]

theorem execNetPortCfg_completed : s.Completed (execNetPortCfg c s) := .command fun u => by
  dsimp only
  split <;> simp [State.Quiet, State.complete_only, State.macCfg_only, State.mdioStart_only, State.ringCfg_only]

theorem execCanSend_completed : s.Completed (execCanSend c s) := .command fun u => by
  dsimp only
  split
  · exact State.complete_quiet ..
  · split
    · exact State.complete_quiet ..
    · split
      · exact State.complete_quiet ..
      · split
        · exact State.complete_quiet ..
        · split <;> simp [State.Quiet, State.complete_only, State.canTimed_only]

theorem execWinSem_completed : s.Completed (execWinSem c s) := .command fun u => by
  dsimp only
  split
  · exact State.complete_quiet ..
  · split
    · exact State.complete_quiet ..
    · split
      · exact State.complete_quiet ..
      · split <;>
          simp [State.Quiet, State.complete_only, State.semDone_only, State.semNext_only, State.setSem_only, State.present_only,
            State.completeOpt_only]

theorem execWinQuery_completed : s.Completed (execWinQuery c s) := .command fun u => by
  dsimp only
  split <;> simp [State.Quiet, State.complete_only, State.setWnd_only]

theorem execPwrContract_completed : s.Completed (execPwrContract c s) := .command fun u => by
  cases offer : (u.port (c.f 4 1 0)).caps.findIdx? fun o => decide (o.1 = c.f 4 5 4) <;>
    simp [State.Quiet, offer, State.complete_only, State.modPort_only, State.sendRequest_only, State.pushCaps_only, State.backToAttaching_only,
      State.sbPush_only, State.endContract_only, State.endSwapCmd_only, State.tryCaps_only]

theorem execKeyGenerate_completed : s.Completed (execKeyGenerate c s) := .command fun u =>
  State.keyCmd_elim (fun _ => State.complete_quiet ..) <| State.newKey_elim (fun _ => State.complete_quiet ..) fun i => by
    simp [State.Quiet, State.complete_only, State.drbg_only, State.putKey_only, State.output_only]

theorem execKeyImport_completed : s.Completed (execKeyImport c s) := .command fun u =>
  State.keyCmd_elim (fun _ => State.complete_quiet ..) <| by
    dsimp only
    split
    · exact State.complete_quiet ..
    · split
      · exact State.complete_quiet ..
      · split
        · exact State.complete_quiet ..
        · split
          · exact State.complete_quiet ..
          · exact State.newKey_elim (fun _ => State.complete_quiet ..) fun i => by
              simp [State.Quiet, State.complete_only, State.putKey_only]

theorem execKeyLoad_completed : s.Completed (execKeyLoad c s) := .commandFused fun u =>
  have refused (st : Nat) : u.Fused (u.complete c st []) := by simp [State.Fused, State.complete_only]
  State.keyCmd_elim refused <| by
    dsimp only
    split
    · exact refused _
    · exact State.newKey_elim refused fun i => by
        simp [State.Fused, State.complete_only, State.loadBlob_only, State.storeBlob_only]

theorem execKeyDestroy_completed (bad : List (Nat × Nat)) : s.Completed (execKeyDestroy c bad s) := .commandFused fun u =>
  State.keyCmd_elim (fun _ => by simp [State.Fused, State.complete_only]) <| by
    simp [State.Fused, State.complete_only, State.destroySlot_only]

theorem execKeyDerive_completed : s.Completed (execKeyDerive c s) := .command fun u =>
  State.keyCmd_elim (fun _ => State.complete_quiet ..) <| by
    dsimp only
    split
    · exact State.complete_quiet ..
    · split
      · exact State.complete_quiet ..
      · split
        · exact State.complete_quiet ..
        · exact State.newKey_elim (fun _ => State.complete_quiet ..) fun i => by
            simp [State.Quiet, State.complete_only, State.putKey_only]

theorem execKeyCrypt_completed : s.Completed (execKeyCrypt c s) := .command fun u =>
  State.keyCmd_elim (fun _ => State.complete_quiet ..) <| by
    dsimp only
    split
    · simp [State.Quiet, State.complete_only, State.output_only, State.drbg_only]
    · split
      · exact State.complete_quiet ..
      · split
        · exact State.complete_quiet ..
        · split <;> simp [State.Quiet, State.complete_only, State.output_only, State.drbg_only]

theorem execKeyPairLink_completed : s.Completed (execKeyPairLink c s) := .commandFused fun u => by
  have refused (st : Nat) : u.Fused (u.complete c st []) := by simp [State.Fused, State.complete_only]
  dsimp only
  split
  · exact refused _
  · split
    · exact refused _
    · split
      · exact refused _
      · split
        · simp [State.Fused, State.complete_only, State.output_only, State.drbg_only, State.modLink_only]
        · split
          · exact refused _
          · simp [State.Fused, State.complete_only, State.pairEvent_only, State.modLink_only, State.storePair_only, State.drbg_only]
        · simp [State.Fused, State.complete_only, State.closeSealed_only, State.pairEvent_only, State.modLink_only, State.dropPair_only]

/-- Confirmation raises the counter and fixes the hash the first time. -/
theorem State.confirmImage_steady : s.Steady s.confirmImage := by
  obtain ⟨counter, root, -⟩ := s.confirmImage_fuses
  have law := s.confirmImage_only
  refine ⟨law.1, by simp [State.confirmImage_only], by simp [counter], fun h there => ?_⟩
  rw [root, there]
  rfl

theorem execImgConfirm_completed : s.Completed (execImgConfirm c s) := .next <| State.runCmd_steady fun u => by
  have done (v : State) (st : Nat) : v.Steady (v.complete c st []) :=
    State.Quiet.steady (State.complete_quiet ..)
  split
  · exact done _ _
  · split
    · exact done _ _
    · split
      · exact done _ _
      · exact State.confirmImage_steady.trans (done _ _)

/-- A leg that its engine runs is steady where its kind's part is. -/
theorem State.effectLeg_steady {e kind : Nat} {body : State → Nat → State} (does : ∀ (u : State) (v : Nat), u.Steady (body u v)) :
    s.Steady (s.effectLeg e kind body) := by
  have same : s.Steady s := State.Quiet.steady ⟨rfl, rfl⟩
  have stops (n : Nat) : s.Steady (s.exception e n) := .law (State.exception_only s e n)
  unfold State.effectLeg State.runLeg
  dsimp only
  split
  · exact same
  · split
    · exact stops _
    · split
      · exact stops _
      · split
        · exact stops _
        · split
          · exact same
          · split
            · exact same
            · next run =>
              split at run
              · cases run
              · cases run
                exact (State.Steady.law (State.countLeg_only s e)).trans ((does _ _).trans (.law (State.legLimit_only ..)))

theorem effLegConfirmImage_steady (e : Nat) : s.Steady (effLegConfirmImage e s) := State.effectLeg_steady fun u _ => by
  split
  · exact .law (State.exception_only ..)
  · split
    · exact .law (State.adv_only ..)
    · exact State.confirmImage_steady.trans (.law (State.adv_only ..))

end

/-! ### The responses at the near hub -/

theorem winReadData_frame (t : Nat) (bytes : List Byte) : Frame (.winReadData t bytes) [.host, .win, .out] :=
  .next (fun _ => rfl) fun s => State.nearWin_unchanged (by simp) fun w r x => unchanged_iff.2 (by
    simp [keptBut, Part.same, State.winCount_only, State.finishReq_only])

theorem winWriteDone_frame (t : Nat) (bytes : List Byte) : Frame (.winWriteDone t bytes) [.host, .win, .out] :=
  .next (fun _ => rfl) fun s => State.nearWin_unchanged (by simp) fun w r x => unchanged_iff.2 (by
    simp [keptBut, Part.same, State.winCount_only, State.finishReq_only, State.winErr_only, State.modWnd_only])

theorem winAtomicData_frame (t : Nat) (bytes : List Byte) : Frame (.winAtomicData t bytes) [.host, .win, .out] :=
  .next (fun _ => rfl) fun s => State.nearWin_unchanged (by simp) fun w r x => unchanged_iff.2 (by
    simp [keptBut, Part.same, State.winCount_only, State.finishReq_only])

/-! ### Every row -/

/-- Every row completes, the queue of waiting commands and the fuses kept: the table of the rows, each with the law of what it leaves. -/
theorem exec_completed (i : Instr) (s : State) : s.Completed (exec i s) := by
  cases i with
  | powerOnReset => exact .quiet ⟨rfl, rfl⟩
  | resetNAssert => exact .quiet ⟨rfl, rfl⟩
  | resetNRelease => exact .only (effResetNRelease_only ..)
  | strapSampleDeferred => exact .only (effStrapSampleDeferred_only ..)
  | actSafelvlDrive => exact .only (effActSafelvlDrive_only ..)
  | railValid => exact .only (effRailValid_only ..)
  | railInvalid => exact .only (effRailInvalid_only ..)
  | wakeReason => exact .only (effWakeReason_only ..)
  | dormancyDelayExpiry => exact .only (effDormancyDelayExpiry_only ..)
  | surveyEntry => exact .fused (effSurveyEntry_fused ..)
  | perstRelease => exact .only (effPerstRelease_only ..)
  | hostPortReset => exact .only (effHostPortReset_only ..)
  | pcieRetryStatusEnd => exact .only (effPcieRetryStatusEnd_only ..)
  | imageApply => exact .fused (effImageApply_fused ..)
  | fieldEntry => exact .only (effFieldEntry_only ..)
  | surveyCarrierTimeout => exact .only (effSurveyCarrierTimeout_only ..)
  | devModeDelayExpiry => exact .only (effDevModeDelayExpiry_only ..)
  | paceSample => exact .only (effPaceSample_only ..)
  | paceMonitorRevalid => exact .only (effPaceMonitorRevalid_only ..)
  | paceMonitorTimeout => exact .fused (by simp [State.Fused, State.detect_only])
  | paceIntervalEnd => exact .only (effPaceIntervalEnd_only ..)
  | paceSet => exact .command fun u => by simp [State.Quiet, State.complete_only]
  | paceQuery c => exact .framed (paceQuery_frame c) rfl
  | skpSend => exact .only (effSkpSend_only ..)
  | pllLock => exact .only (effPllLock_only ..)
  | widthFallback => exact .only (effWidthFallback_only ..)
  | ts1Align => exact .only (effTs1Align_only ..)
  | ts2Handoff => exact .only (effTs2Handoff_only ..)
  | trainingTimeout => exact .only (effTrainingTimeout_only ..)
  | trainingRoundWaitEnd => exact .only (effTrainingRoundWaitEnd_only ..)
  | retrainQuiesced => exact .only (effRetrainQuiesced_only ..)
  | losStart => exact .only (effLosStart_only ..)
  | losEnd => exact .only (effLosEnd_only ..)
  | losEpochTimeout => exact .only (effLosEpochTimeout_only ..)
  | retrainTimeout => exact .only (effRetrainTimeout_only ..)
  | dozeLightTimeout => exact .only (effDozeLightTimeout_only ..)
  | dozeDeepTimeout => exact .only (effDozeDeepTimeout_only ..)
  | dozReceive => exact .only (effDozReceive_only ..)
  | dozeWakeStart => exact .only (effDozeWakeStart_only ..)
  | dozeWakeComplete => exact .only (effDozeWakeComplete_only ..)
  | wakeLockTimeout => exact .only (effWakeLockTimeout_only ..)
  | patternDurationEnd => exact .only (effPatternDurationEnd_only ..)
  | linkRate => exact .command fun u => by simp [State.Quiet, State.linkCmd, State.complete_only, State.joinRetrain_only, State.modLink_only]
  | linkSleep => exact .command fun u => by simp [State.Quiet, State.linkCmd, State.complete_only, State.dozeTo_only, State.modLink_only]
  | linkWake => exact .command fun u => by simp [State.Quiet, State.linkCmd, State.complete_only, State.modLink_only, State.wakeTx_only]
  | linkRetrain => exact .command fun u => by simp [State.Quiet, State.linkCmd, State.complete_only, State.joinRetrain_only, State.modLink_only]
  | linkPattern => exact .command fun u => by simp [State.Quiet, State.complete_only, State.endPattern_only, State.patternResults_only,
      State.startPattern_only]
  | linkEqOverride => exact .command fun u => by simp [State.Quiet, State.complete_only, State.modLink_only, State.requestRetrain_only]
  | linkQuery c => exact .framed (linkQuery_frame c) rfl
  | linkCounters => exact .command fun u => by simp [State.Quiet, State.complete_only, State.modLink_only]
  | tunnelPacketReceive => exact .only (effTunnelPacketReceive_only ..)
  | localPacketOffer => exact .only (effLocalPacketOffer_only ..)
  | ackReceive => exact .only (effAckReceive_only ..)
  | nakReceive => exact .only (effNakReceive_only ..)
  | replayTimerExpiry => exact .only (effReplayTimerExpiry_only ..)
  | ackSend => exact .only (effAckSend_only ..)
  | nakSend => exact .only (effNakSend_only ..)
  | fcUpdateReceive => exact .only (effFcUpdateReceive_only ..)
  | initFcReceive => exact .only (effInitFcReceive_only ..)
  | identReceive => exact .only (effIdentReceive_only ..)
  | identRepeat => exact .only (effIdentRepeat_only ..)
  | fcUpdateTimer => exact .only (effFcUpdateTimer_only ..)
  | fcRefresh => exact .only (effFcRefresh_only ..)
  | fcStall => exact .only (effFcStall_only ..)
  | hello => exact .only (effHello_only ..)
  | helloRepeat => exact .only (effHelloRepeat_only ..)
  | assign => exact .only (effAssign_only ..)
  | numbered => exact .only (effNumbered_only ..)
  | linkchg => exact .only (effLinkchg_only ..)
  | tunProg => exact .fused (effTunProg_fused ..)
  | tunSet => exact .only (effTunSet_only ..)
  | tunAck => exact .only (effTunAck_only ..)
  | initialEnumerationEnd => exact .only (effInitialEnumerationEnd_only ..)
  | reattachGraceExpiry => exact .only (effReattachGraceExpiry_only ..)
  | actingRootClose => exact .only (effActingRootClose_only ..)
  | tunnelOpenStepTimeout => exact .only (effTunnelOpenStepTimeout_only ..)
  | hopCloseDrained => exact .only (effHopCloseDrained_only ..)
  | hopCloseTimeout => exact .only (effHopCloseTimeout_only ..)
  | closeAckTimeout => exact .only (effCloseAckTimeout_only ..)
  | treeEnumerate => exact .command fun u => by simp [State.Quiet, State.complete_only, State.hotAttach_only, State.rootClose_only]
  | treeQuery c => exact .framed (treeQuery_frame c) rfl
  | treeResetHub => exact execTreeResetHub_completed ..
  | treeEvict => exact .command fun u => by simp [State.Quiet, State.complete_only, State.evict_only, State.lapse_only, State.readmit_only]
  | tunOpen => exact .only (effTunOpen_only ..)
  | tunClose => exact .command fun u => by simp [State.Quiet, State.tunCmd_only]
  | tunModify => exact .command fun u => by simp [State.Quiet, State.tunCmd_only]
  | tunQuery => exact .command fun u => by simp [State.Quiet, State.complete_only, State.modGaz_only]
  | tunSuspend => exact .command fun u => by simp [State.Quiet, State.tunCmd_only]
  | tunResume => exact .command fun u => by simp [State.Quiet, State.tunCmd_only]
  | schedulerPick => exact .only (effSchedulerPick_only ..)
  | lossyAgeExpiry => exact .only (effLossyAgeExpiry_only ..)
  | gateEntryBoundary => exact .only (effGateEntryBoundary_only ..)
  | gateSwitch => exact .only (effGateSwitch_only ..)
  | windowOpen => exact .only (effWindowOpen_only ..)
  | windowClose => exact .only (effWindowClose_only ..)
  | windowEffect => exact .only (effWindowEffect_only ..)
  | creditIntervalEnd => exact .only (effCreditIntervalEnd_only ..)
  | schedClassSet => exact .command fun u => by simp [State.Quiet, State.complete_only, State.noteOver_only, State.setClass_only]
  | schedGateLoad => exact .command fun u => by simp [State.Quiet, State.complete_only, State.modLink_only]
  | schedGateCommit => exact .command fun u => by simp [State.Quiet, State.complete_only, State.gateCommit_only]
  | schedWindowSet => exact .command fun u => by simp [State.Quiet, State.schedCmd, State.complete_only, State.winAsk_only,
      State.hopWindow_only]
  | schedBounds => exact .command fun u => by simp [State.Quiet, State.schedCmd, State.complete_only, State.winAsk_only,
      State.hopBound_only]
  | schedQuery c => exact .framed (schedQuery_frame c) rfl
  | ppsEdge => exact .only (effPpsEdge_only ..)
  | ppsLost => exact .only (effPpsLost_only ..)
  | timeExchangeStart => exact .only (effTimeExchangeStart_only ..)
  | tmkReceive => exact .only (effTmkReceive_only ..)
  | timexReceive => exact .only (effTimexReceive_only ..)
  | exchangeInvalidTimeout => exact .only (effExchangeInvalidTimeout_only ..)
  | timeStepApply => exact .only (effTimeStepApply_only ..)
  | timeMessageSend => exact .only (effTimeMessageSend_only ..)
  | timeMessage => exact .only (effTimeMessage_only ..)
  | trigEdge => exact .only (effTrigEdge_only ..)
  | timeOutEdge => exact .only (effTimeOutEdge_only ..)
  | timeQuery c => exact .framed (timeQuery_frame c) rfl
  | timeSet => exact .command fun u => by simp [State.Quiet, State.rootTimeCmd, State.complete_only, State.stepAt_only]
  | timeAdjust => exact .command fun u => by simp [State.Quiet, State.rootTimeCmd, State.complete_only, State.orderStep_only]
  | timeSource => exact .command fun u => by simp [State.Quiet, State.rootTimeCmd, State.complete_only, State.setTimeSource_only]
  | timeStampArm => exact .command fun u => by simp [State.Quiet, State.complete_only, State.setStamp_only]
  | timeOutCfg => exact execTimeOutCfg_completed
  | engineLaunch => exact .only (effEngineLaunch_only ..)
  | legEnd => exact .only (effLegEnd_only ..)
  | legWaitUntil => exact .only (effLegWaitUntil_only ..)
  | waitUntilRelease => exact .only (effWaitUntilRelease_only ..)
  | legWaitFor => exact .only (effLegWaitFor_only ..)
  | waitForMet => exact .only (effWaitForMet_only ..)
  | waitForTimeout => exact .only (effWaitForTimeout_only ..)
  | legSetPin => exact .only (effLegSetPin_only ..)
  | legPulsePin => exact .only (effLegPulsePin_only ..)
  | legPwmPin => exact .only (effLegPwmPin_only ..)
  | legWriteReg => exact .only (effLegWriteReg_only ..)
  | legReadCheck => exact .only (effLegReadCheck_only ..)
  | remoteReadTimeout => exact .only (effRemoteReadTimeout_only ..)
  | legSendCan => exact .only (effLegSendCan_only ..)
  | legSendMsg => exact .only (effLegSendMsg_only ..)
  | legDispCommit => exact .only (effLegDispCommit_only ..)
  | legGateSwitch => exact .only (effLegGateSwitch_only ..)
  | legMark => exact .only (effLegMark_only ..)
  | legLoop => exact .only (effLegLoop_only ..)
  | legBranch => exact .only (effLegBranch_only ..)
  | legStartEngine => exact .only (effLegStartEngine_only ..)
  | legConfirmImage => exact .next (effLegConfirmImage_steady ..)
  | effectInstant => exact .only (effEffectInstant_only ..)
  | pwmPeriodStart => exact .only (effPwmPeriodStart_only ..)
  | regWrite => exact .only (effRegWrite_only ..)
  | regRead => exact .only (effRegRead_only ..)
  | regReply => exact .only (effRegReply_only ..)
  | travMessage => exact .only (effTravMessage_only ..)
  | prepare => exact .only (effPrepare_only ..)
  | ready => exact .only (effReady_only ..)
  | commit => exact .only (effCommit_only ..)
  | abort => exact .only (effAbort_only ..)
  | launched => exact .only (effLaunched_only ..)
  | launchReadyDeadline => exact .only (effLaunchReadyDeadline_only ..)
  | preparedTimeout => exact .only (effPreparedTimeout_only ..)
  | launchPartialTimeout => exact .only (effLaunchPartialTimeout_only ..)
  | actInputEdge => exact .only (effActInputEdge_only ..)
  | travLoad => exact .command fun u => by simp [State.Quiet, State.complete_only, State.modEngine_only]
  | travArm => exact execTravArm_completed
  | travAbort => exact execTravAbort_completed
  | travQuery c => exact .framed (travQuery_frame c) rfl
  | travReadLegs c => exact .framed (travReadLegs_frame c) rfl
  | travActCfg => exact .command fun u => by simp [State.Quiet, State.cfgPin_only, State.complete_only]
  | commandFetch => exact .only (effCommandFetch_only ..)
  | heldRecordWrite => exact .only (effHeldRecordWrite_only ..)
  | interruptTimer => exact .only (effInterruptTimer_only ..)
  | slSqTailWrite => exact .quiet (by simp [State.Quiet, State.hostRegWrite_only])
  | slEvqHeadWrite => exact .only (State.hostRegWrite_only ..)
  | slSqSizeWrite => exact .quiet (by simp [State.Quiet, State.hostRegWrite_only])
  | slEvqSizeWrite => exact .only (State.hostRegWrite_only ..)
  | slIntCtrlWrite => exact .only (State.hostRegWrite_only ..)
  | slRingDbWrite => exact .only (effSlRingDbWrite_only ..)
  | rcRegisterRead => exact .only (effRcRegisterRead_only ..)
  | mgErrsumWrite => exact .only (State.hostRegWrite_only ..)
  | mgTimeNsRead => exact .only (effMgTimeNsRead_only ..)
  | msixTableWrite => exact .only (effMsixTableWrite_only ..)
  | registerWrite => exact .quiet (by simp [State.Quiet, State.hostRegWrite_only])
  | hostPortPowerState => exact .only (effHostPortPowerState_only ..)
  | revokeDrainEnd => exact .fused (effRevokeDrainEnd_fused ..)
  | freezeDrainEnd => exact .only (effFreezeDrainEnd_only ..)
  | cookieExpiry => exact .only (effCookieExpiry_only ..)
  | sliceMoveTimeout => exact .only (effSliceMoveTimeout_only ..)
  | sliceCreate c => exact .framed (sliceCreate_frame c) rfl
  | sliceDestroy => exact execSliceDestroy_completed ..
  | sliceReset c => exact .framed (sliceReset_frame c) rfl
  | sliceGrant c => exact .framed (sliceGrant_frame c) rfl
  | sliceRevoke => exact execSliceRevoke_completed
  | sliceFreeze c => exact .framed (sliceFreeze_frame c) rfl
  | sliceSave => exact .command fun u => by simp [State.Quiet, State.sliceCmd, State.doneSlice_only, State.drew_only, State.output_only,
      State.setSlice_only]
  | sliceRestore => exact .command fun u => by simp [State.Quiet, State.sliceCmd, State.doneSlice_only, State.moveEps_only, State.moveGoOn_only,
      State.moveHop_only, State.setSlice_only, State.winRebind_only]
  | sliceThaw => exact .command fun u => by simp [State.Quiet, State.sliceCmd, State.doneSlice_only, State.flushHeld_only, State.present_only,
      State.sendPosted_only, State.setSlice_only]
  | queueCreate c => exact .framed (queueCreate_frame c) rfl
  | queueDestroy => exact .command fun u => by simp [State.Quiet, State.sliceCmd, State.doneSlice_only, State.setSq_only]
  | evqSet c => exact .framed (evqSet_frame c) rfl
  | commandMessage => exact .only (effCommandMessage_only ..)
  | dataMessage => exact .only (effDataMessage_only ..)
  | indirectInputReadDone => exact .only (effIndirectInputReadDone_only ..)
  | receivedMessage => exact .only (effReceivedMessage_only ..)
  | receivedRepeat => exact .only (effReceivedRepeat_only ..)
  | completionMessage => exact .only (effCompletionMessage_only ..)
  | eventMessage => exact .only (effEventMessage_only ..)
  | remoteCommandTimeout => exact .only (effRemoteCommandTimeout_only ..)
  | timedCommandDue => exact .only (effTimedCommandDue_only ..)
  | devInfo c => exact .framed (devInfo_frame c) rfl
  | devMode => exact .command fun u => by simp [State.Quiet, State.complete_only]
  | devStraps c => exact .framed (devStraps_frame c) rfl
  | frameStart => exact .only (effFrameStart_only ..)
  | lineStart => exact .only (effLineStart_only ..)
  | frameMessage => exact .only (effFrameMessage_only ..)
  | rowMessage => exact .only (effRowMessage_only ..)
  | sourceFrameSend => exact .only (effSourceFrameSend_only ..)
  | sourceRowSend => exact .only (effSourceRowSend_only ..)
  | rowFetchDone => exact .only (effRowFetchDone_only ..)
  | panelSequenceTimer => exact .only (effPanelSequenceTimer_only ..)
  | dispTiming => exact execDispTiming_completed
  | dispPlane => exact execDispPlane_completed
  | dispOverlay => exact .command fun u => by simp [State.Quiet, State.headCmd, State.complete_only, State.setHead_only]
  | dispCommit => exact execDispCommit_completed
  | dispUndercoat => exact .command fun u => by simp [State.Quiet, State.headCmd, State.complete_only, State.setHead_only, State.setPlane_only]
  | dispCrcRegion => exact .command fun u => by simp [State.Quiet, State.headCmd, State.complete_only, State.modHead_only]
  | dispQuery c => exact .framed (dispQuery_frame c) rfl
  | usbSetupToken => exact .only (effUsbSetupToken_only ..)
  | usbOutToken => exact .only (effUsbOutToken_only ..)
  | usbPingToken => exact .only (effUsbPingToken_only ..)
  | usbInToken => exact .only (effUsbInToken_only ..)
  | usbHubRequest => exact .only (effUsbHubRequest_only ..)
  | usbBusReset => exact .quiet (by simp [State.Quiet, State.busReset_only])
  | vbusChange => exact .only (effVbusChange_only ..)
  | usbSof => exact .only (effUsbSof_only ..)
  | microframeStart => exact .only (effMicroframeStart_only ..)
  | overcurrentFilter => exact .only (effOvercurrentFilter_only ..)
  | connectDebounce => exact .only (effConnectDebounce_only ..)
  | portResetEnd => exact .only (effPortResetEnd_only ..)
  | resumeEnd => exact .only (effResumeEnd_only ..)
  | suspendIdle => exact .only (effSuspendIdle_only ..)
  | deviceRemoteWake => exact .only (effDeviceRemoteWake_only ..)
  | farBusTransaction => exact .only (effFarBusTransaction_only ..)
  | usbSetupMessage => exact .only (effUsbSetupMessage_only ..)
  | outdata => exact .only (effOutdata_only ..)
  | inreq => exact .only (effInreq_only ..)
  | indata => exact .only (effIndata_only ..)
  | result => exact .only (effResult_only ..)
  | portMessage => exact .only (effPortMessage_only ..)
  | sofrep => exact .only (effSofrep_only ..)
  | powerCycleEnd => exact .only (effPowerCycleEnd_only ..)
  | usbPortMap => exact .command fun u => by simp [State.Quiet, State.clearAddrs_only, State.complete_only, State.portMsg_only,
      State.raiseGen_only, State.setUport_only, State.usbEvent_only]
  | usbQuery c => exact .framed (usbQuery_frame c) rfl
  | usbPortPower => exact .command fun u => by simp [State.Quiet, State.complete_only, State.ocDone_only, State.setUport_only,
      State.usbRepower_only]
  | usbCounters => exact .command fun u => by simp [State.Quiet, State.complete_only, State.modUport_only]
  | macFrameReceive => exact .only (effMacFrameReceive_only ..)
  | macLinkChange => exact .only (effMacLinkChange_only ..)
  | phyInterrupt => exact .only (effPhyInterrupt_only ..)
  | macFrameTransmit => exact .only (effMacFrameTransmit_only ..)
  | netMessage => exact .only (effNetMessage_only ..)
  | canFrameReceive => exact .only (effCanFrameReceive_only ..)
  | addressClaimSettle => exact .only (effAddressClaimSettle_only ..)
  | canBusIdle => exact .only (effCanBusIdle_only ..)
  | canBusOff => exact .only (effCanBusOff_only ..)
  | canBusOffRecovery => exact .only (effCanBusOffRecovery_only ..)
  | canMessage => exact .only (effCanMessage_only ..)
  | netPortCfg => exact execNetPortCfg_completed
  | netVlanMap => exact .command fun u => by simp [State.Quiet, State.complete_only, State.modMac_only]
  | netQuery c => exact .framed (netQuery_frame c) rfl
  | netCounters => exact .command fun u => by simp [State.Quiet, State.complete_only, State.setMac_only]
  | canCfg => exact .command fun u => by simp [State.Quiet, State.abortSends_only, State.canCount_only, State.claimStart_only,
      State.complete_only, State.modCan_only, State.setCan_only]
  | canFilter => exact .command fun u => by simp [State.Quiet, State.complete_only, State.modCan_only]
  | canName => exact .command fun u => by simp [State.Quiet, State.claimStart_only, State.complete_only, State.modCan_only]
  | canQuery => exact .command fun u => by simp [State.Quiet, State.complete_only, State.setCan_only]
  | canSend => exact execCanSend_completed
  | bar2MemoryWrite => exact .only (effBar2MemoryWrite_only ..)
  | bar2MemoryRead => exact .only (effBar2MemoryRead_only ..)
  | bar2Atomicop => exact .only (effBar2Atomicop_only ..)
  | bar2LockedRead => exact .only (effBar2LockedRead_only ..)
  | winRead => exact .only (State.farWin_only ..)
  | winWriteP => exact .only (State.farWin_only ..)
  | winWriteA => exact .only (State.farWin_only ..)
  | winAtomic => exact .only (State.farWin_only ..)
  | farAccessDone => exact .only (effFarAccessDone_only ..)
  | winReadData => exact .framed (winReadData_frame _ _) rfl
  | winWriteDone => exact .framed (winWriteDone_frame _ _) rfl
  | winAtomicData => exact .framed (winAtomicData_frame _ _) rfl
  | winRetry tid bytes => exact .framed (winRetry_frame tid bytes) rfl
  | retryBackoffExpiry => exact .only (effRetryBackoffExpiry_only ..)
  | winRequestTimeout => exact .only (effWinRequestTimeout_only ..)
  | farHoldTimeout => exact .only (effFarHoldTimeout_only ..)
  | semaphoreLeaseExpiry => exact .only (effSemaphoreLeaseExpiry_only ..)
  | winOpen => exact .command fun u => by simp [State.Quiet, State.complete_only, State.setWnd_only]
  | winClose => exact .command fun u => by simp [State.Quiet, State.complete_only, State.setWnd_only, State.winDrained_only]
  | winRange => exact .command fun u => by simp [State.Quiet, State.complete_only, State.setWnd_only]
  | winSem => exact execWinSem_completed
  | winQuery => exact execWinQuery_completed
  | sidebandTurn => exact .only (effSidebandTurn_only ..)
  | idleFrame => exact .only (effIdleFrame_only ..)
  | sidebandIdent => exact .only (effSidebandIdent_only ..)
  | sidebandRate => exact .only (effSidebandRate_only ..)
  | sidebandWake => exact .only (effSidebandWake_only ..)
  | srcCaps => exact .only (effSrcCaps_only ..)
  | requestFrame => exact .only (effRequestFrame_only ..)
  | acceptFrame => exact .only (effAcceptFrame_only ..)
  | rejectFrame => exact .only (effRejectFrame_only ..)
  | psRdy => exact .only (effPsRdy_only ..)
  | swapReq => exact .only (effSwapReq_only ..)
  | swapRetry => exact .only (effSwapRetry_only ..)
  | fsArm => exact .only (effFsArm_only ..)
  | goodbye => exact .only (effGoodbye_only ..)
  | carrierLoss => exact .only (effCarrierLoss_only ..)
  | attachDebounce => exact .only (effAttachDebounce_only ..)
  | sidebandExchangeTimeout => exact .only (effSidebandExchangeTimeout_only ..)
  | negotiationTimeout => exact .only (effNegotiationTimeout_only ..)
  | srcCapsResend => exact .only (effSrcCapsResend_only ..)
  | foldbackUpdate => exact .only (effFoldbackUpdate_only ..)
  | comparatorTrip => exact .only (effComparatorTrip_only ..)
  | comparatorDisagree => exact .fused (by simp [State.Fused, State.detect_only])
  | currentLimitEnd => exact .only (effCurrentLimitEnd_only ..)
  | faultTimerExpiry => exact .only (effFaultTimerExpiry_only ..)
  | uvOvFilter => exact .only (effUvOvFilter_only ..)
  | insertionDelay => exact .only (effInsertionDelay_only ..)
  | qualificationDone => exact .only (effQualificationDone_only ..)
  | dischargeDone => exact .only (effDischargeDone_only ..)
  | fetShort => exact .only (effFetShort_only ..)
  | retryTimerExpiry => exact .only (effRetryTimerExpiry_only ..)
  | keepOffDone => exact .only (effKeepOffDone_only ..)
  | keepSenseFault => exact .only (effKeepSenseFault_only ..)
  | fastSwapCrossing => exact .only (effFastSwapCrossing_only ..)
  | fastSwapClose => exact .only (effFastSwapClose_only ..)
  | transitionTimeout => exact .only (effTransitionTimeout_only ..)
  | pmbusDone => exact .only (effPmbusDone_only ..)
  | pmbAlert => exact .only (effPmbAlert_only ..)
  | voutSlewStep => exact .only (effVoutSlewStep_only ..)
  | converterPoll => exact .only (effConverterPoll_only ..)
  | pwrQuery c => exact .framed (pwrQuery_frame c) rfl
  | pwrContract => exact execPwrContract_completed
  | pwrSwap => exact .command fun u => by simp [State.Quiet, State.complete_only, State.endArm_only, State.sbPush_only, State.sendSwap_only,
      State.setPort_only]
  | pwrLimits => exact .command fun u => by simp [State.Quiet, State.complete_only, State.keepUpdate_only, State.pushIdent_only,
      State.setPort_only, State.tryCaps_only]
  | pwrResetFault => exact .command fun u => by simp [State.Quiet, State.attachPower_only, State.complete_only, State.keepUpdate_only,
      State.setPort_only]
  | pwrLog => exact .command fun u => by simp [State.Quiet, State.complete_only, State.output_only]
  | skimPass => exact .only (effSkimPass_only ..)
  | healthTimeout => exact .only (effHealthTimeout_only ..)
  | keyGenerate => exact execKeyGenerate_completed
  | keyImport => exact execKeyImport_completed
  | keyExportWrapped => exact .command fun u => by simp [State.Quiet, State.keyCmd, State.complete_only, State.makeBlob_only, State.output_only]
  | keyLoad => exact execKeyLoad_completed
  | keyDestroy => exact execKeyDestroy_completed ..
  | keyAttest => exact .command fun u => by simp [State.Quiet, State.keyCmd, State.complete_only, State.drbg_only, State.output_only]
  | keyDerive => exact execKeyDerive_completed
  | keyCrypt => exact execKeyCrypt_completed
  | keyPairLink => exact execKeyPairLink_completed
  | imgStage => exact .commandFused fun u => by simp [State.Fused, State.complete_only, State.setSlot_only]
  | imgCommit => exact .commandFused fun u => by simp [State.Fused, State.bootImage_only, State.complete_only, State.setBoot_only,
      State.setBoot_rootHash]
  | imgQuery c => exact .framed (imgQuery_frame c) rfl
  | imgConfirm => exact execImgConfirm_completed
  | imgRevert => exact .commandFused fun u => by simp [State.Fused, State.complete_only, State.imgEvent_only, State.setBoot_only,
      State.setBoot_rootHash]
  | checkDetect => exact .fused (State.detect_fused ..)
  | handshakeStall => exact .fused (State.detect_fused ..)
  | domainRecoveryEnd => exact .only (effDomainRecoveryEnd_only ..)
  | recoveryBoundExceeded => exact .only (effRecoveryBoundExceeded_only ..)
  | recoveryWindowEnd dom => exact .framed (recoveryWindowEnd_frame dom) rfl
  | patrolScrub => exact .fused (effPatrolScrub_fused ..)
  | injectDelayExpiry => exact .fused (effInjectDelayExpiry_fused ..)
  | diagErrors => exact .command fun u => by simp [State.Quiet, State.complete_only]
  | diagInject => exact .command fun u => by simp [State.Quiet, State.complete_only]
  | diagScrub => exact .command fun u => by simp [State.Quiet, State.complete_only]
  | diagSelftest => exact .command fun u => by simp [State.Quiet, State.complete_only, State.noteErr_only, State.noteFatal_only]
  | diagClear => exact .command fun u => by simp [State.Quiet, State.complete_only]
  | symbolLock => exact .only (effSymbolLock_only ..)
  | wakeEndSkpReceive => exact .only (effWakeEndSkpReceive_only ..)
  | deviceDisconnect => exact .only (effDeviceDisconnect_only ..)
  | usbOcNRelease => exact .only (effUsbOcNRelease_only ..)
  | globalResume => exact .only (effGlobalResume_only ..)
  | canFrameSent => exact .only (effCanFrameSent_only ..)
  | canErrorPassive => exact .only (effCanErrorPassive_only ..)
  | semaphoreWaitExpiry => exact .only (effSemaphoreWaitExpiry_only ..)
  | keepInRange => exact .only (effKeepInRange_only ..)
  | mdioAccessDone => exact .only (effMdioAccessDone_only ..)
  | entropyStartupPass => exact .only (effEntropyStartupPass_only ..)

/-- Settles O3: the table of the rows, each with the law of what it leaves. -/
theorem everyCommandCompletes : Obligations.everyCommandCompletes := by
  intro i s
  obtain ⟨t, run, pending, -⟩ := exec_completed i s
  exact ⟨t, run, pending⟩

/-- Settles O8: the same table; only the confirmation of an image sets fuses, the counter to a maximum and the hash where there is none. -/
theorem fusedStateHolds : Obligations.fusedStateHolds := by
  intro i s t run
  obtain ⟨t', run', -, fuses⟩ := exec_completed i s
  cases run.symm.trans run'
  exact fuses

/-- Settles O1: a step takes the front of the queue and runs it. -/
theorem stepRunsFront : Obligations.stepRunsFront := fun _ _ _ => rfl

end Sys2Proof.Machine
end
